-- ==== Sys2Proof/Word.lean ====
section
/-! DEFINITION. The word types of the model and the plain sparse map that the state is built of. -/

namespace Sys2Proof

/-- One byte (R6: the unit of every address). -/
abbrev Byte := BitVec 8

/-- One queue entry of the M, V, X or S queue (R98, R128, R175, R155). -/
abbrev Entry := BitVec 128

/-- A parcel or tract of the device, in the order of the unit blocks of R376: parcels 0-16,383,
order-1 tracts from 16,384, order-2 from 17,408, order-3 from 17,472, the die 17,476. -/
abbrev UnitIx := Fin 17477

/-- A parcel, by the index of R376. -/
abbrev ParcelIx := Fin 16384

end Sys2Proof
end

