-- ==== Sys2Proof/Syntax.lean ====
section
/-! DEFINITION. The commands of the block: one constructor of `Instr` for each row of the table, with
the row's operands. A queue entry is carried as its 128-bit word, a host command as its header and its
parameter fields at the widths of R362-R369, a link packet as its header fields and body bytes, an event
as what the event tells (a reading, a time, an index). Times are the station's timebase in units of
2^-8 ns (R234). -/

namespace Sys2Proof

/-- The four queues of a unit, M, V, X, S as 0-3 (R156). -/
inductive Q where
  | m | v | x | s
  deriving DecidableEq, Repr

/-- Where a host command came from and where its receipt goes (R347, R346): submission ring, accession
number, receipt ring; `direct` marks a command of the direct word, whose `acc` is then
0xFFFF_FFFF_FF00_0000 + TAG. -/
structure Hdr where
  q : Fin 64
  acc : BitVec 64
  rr : Fin 64
  direct : Bool
  deriving DecidableEq, Repr

/-- How the memory's own error code judged a read (R173, R181, R201). -/
inductive EccResult where
  | clean
  | corrected
  | uncorrectable
  deriving DecidableEq, Repr

/-- One clock of an Archive slice (R183), and how the code judged the first line that it reads (R190). -/
structure SliceClock where
  slice : Fin 64
  read : EccResult
  deriving DecidableEq, Repr

/-- The verdict of RS decoding of the two codewords of a frame (R222, R231). -/
inductive Fec where
  | good (corrected : Nat)
  | uncorrectable (corrected : Nat)
  deriving DecidableEq, Repr

/-- A packet of the fabric: the header of R226, the path it came on and its body (bytes 16 onward). -/
structure Packet where
  path : Fin 128
  vl : Fin 8
  dst : BitVec 24
  src : BitVec 24
  nslot : Nat
  ptype : Byte
  flow : BitVec 16
  sepoch : BitVec 16
  ctx : BitVec 3
  body : List Byte
  deriving DecidableEq, Repr

/-- One shelf of a SHELF_PARTITION command (R363). -/
structure ShelfReq where
  shelf : BitVec 16
  mode : Byte
  ctxm : Byte
  fw : Bool
  host : Bool
  deriving DecidableEq, Repr

/-- The collective record of R249, at the widths of R366; the SCHILD list is its own operand. -/
structure ColRec where
  handle : BitVec 12
  ctx : BitVec 3
  kind : BitVec 4
  vl : BitVec 2
  acls : BitVec 2
  te : BitVec 2
  tw : BitVec 2
  sreq : BitVec 13
  smin : BitVec 13
  limit : BitVec 26
  nmem : BitVec 17
  zmode : Bool
  stream : Bool
  datumw : Bool
  rank : BitVec 16
  ntile : BitVec 21
  sop : BitVec 4
  sfmt : BitVec 4
  slen : BitVec 6
  plan : BitVec 48
  src : BitVec 48
  scode : BitVec 48
  dest : BitVec 48
  dcode : BitVec 48
  sexp : BitVec 48
  dtag : BitVec 48
  rcnt : BitVec 48
  scr : BitVec 48
  pin : BitVec 48
  runadr : BitVec 48
  cadr : BitVec 48
  voteadr : BitVec 48
  votein : BitVec 48
  scrlen : BitVec 32
  rowb : BitVec 16
  cap : BitVec 16
  arm : BitVec 23
  start : BitVec 23
  done : BitVec 23
  sparent : BitVec 24
  deriving DecidableEq, Repr

/-- The 256 segment images of 32 bytes that a faulty parcel makes of a tile of a survey (R433). -/
structure SurveyFault where
  parcel : ParcelIx
  tile : BitVec 16
  images : List Byte
  deriving DecidableEq, Repr

/-- An algorithm that a requester of the secured session may offer: those of R436, and any other. -/
inductive SpdmAlg where
  | slhDsaSha2192f
  | mlKem1024
  | aes256Gcm
  | sha256
  | other (code : Nat)
  deriving DecidableEq, Repr

/-- An SPDM request as the responder answers it (R436, R440): `auth` asks for requester authentication, `key` is the stream
key that IDE_KM programs. -/
inductive SpdmReq where
  | establish (offer : List SpdmAlg) (auth : Bool)
  | endSession
  | ideKey (stream : Fin 4) (key : BitVec 256)
  | ideStop (stream : Fin 4)
  deriving DecidableEq, Repr

/-- A vendor-defined message on a job key slot (R440). -/
inductive JobKeyReq where
  | store (slot : Fin 8) (value : BitVec 256)
  | readBack (slot : Fin 8)
  deriving DecidableEq, Repr

/-- A test access port instruction (R450, R487). -/
inductive TapIns where
  | bypass
  | idcode
  | other (code : Nat)
  deriving DecidableEq, Repr

/-- The commands of the block. -/
inductive Instr where
  -- registers
  | regWrite (off : BitVec 26) (wide : Bool) (v : BitVec 64)
  | bar0InvalidAccess (bar4 write : Bool) (off : BitVec 26) (size : Nat) (v : BitVec 64)
  -- M queue
  | mdecl (u : UnitIx) (e : Entry)
  | mdeclSourceValid (p : ParcelIx)
  | mdeclDatumExpiry (p : ParcelIx)
  | mopen (u : UnitIx) (e : Entry)
  | macc (u : UnitIx) (e : Entry)
  | maccStep (p : ParcelIx)
  | mfin (u : UnitIx) (e : Entry)
  | segmentDrainEnd (p : ParcelIx) (seg : Bool)
  | mfinStagingFree (p : ParcelIx)
  | mfinStagingExpiry (p : ParcelIx)
  | msum (u : UnitIx) (e : Entry)
  | msave (u : UnitIx) (e : Entry)
  | mload (u : UnitIx) (e : Entry)
  -- V queue
  | vset (u : UnitIx) (e : Entry)
  | vadd (u : UnitIx) (e : Entry)
  | vsub (u : UnitIx) (e : Entry)
  | vmul (u : UnitIx) (e : Entry)
  | vfma (u : UnitIx) (e : Entry)
  | vmin (u : UnitIx) (e : Entry)
  | vmax (u : UnitIx) (e : Entry)
  | vabs (u : UnitIx) (e : Entry)
  | vneg (u : UnitIx) (e : Entry)
  | vcvt (u : UnitIx) (e : Entry)
  | vcmp (u : UnitIx) (e : Entry)
  | vsel (u : UnitIx) (e : Entry)
  | vfun (u : UnitIx) (e : Entry)
  | vsweep (u : UnitIx) (e : Entry)
  | vred (u : UnitIx) (e : Entry)
  | vperm (u : UnitIx) (e : Entry)
  | vgath (u : UnitIx) (e : Entry)
  | vGroup (p : ParcelIx)
  -- synchronisation entries, common to the four queues
  | swait (u : UnitIx) (q : Q) (e : Entry)
  | swaitc (u : UnitIx) (q : Q) (e : Entry)
  | sset (u : UnitIx) (q : Q) (e : Entry)
  | sclr (u : UnitIx) (q : Q) (e : Entry)
  | stakeWaitExpiry (u : UnitIx) (q : Q)
  | sfence (u : UnitIx) (q : Q) (e : Entry)
  | fenceComplete (u : UnitIx) (q : Q)
  | carr (u : UnitIx) (q : Q) (e : Entry)
  | cwait (u : UnitIx) (q : Q) (e : Entry)
  | closureT3Expiry (cid : Fin 1024)
  | shnd (u : UnitIx) (q : Q) (e : Entry)
  | sjmp (u : UnitIx) (q : Q) (e : Entry)
  | sldc (u : UnitIx) (q : Q) (e : Entry)
  | send (u : UnitIx) (q : Q) (e : Entry)
  | queueFetchFault (u : UnitIx) (q : Q)
  -- X queue and the Archive
  | xget (u : UnitIx) (e : Entry)
  | xput (u : UnitIx) (e : Entry)
  | xatom (u : UnitIx) (e : Entry)
  | archiveSliceServe (c : SliceClock)
  | archiveRequestComplete (n : Fin 64)
  | archiveT1Expiry (p : ParcelIx)
  | fieldbookScrub (p : ParcelIx) (granule : BitVec 16) (r : EccResult)
  | archivePatrolScrub (n : Fin 64) (line : BitVec 48) (r : EccResult)
  | bar2Read (off : BitVec 36) (len : Nat)
  | bar2Write (off : BitVec 36) (bytes : List Byte)
  | barAtomicopRequest (bar : Fin 6)
  | shelfModeChangeDone (shelf : Fin 640)
  | fpScanDone (n : Fin 128)
  -- HBM and Binderies
  | hbmTempReading (h : Fin 12) (temp : Byte)
  | hbmPatrolRead (line : BitVec 48) (r : EccResult) (row : BitVec 32) (day : BitVec 32)
  | hbmEcsRead (h : Fin 12) (errors : BitVec 32)
  | hbmSoftRepair (h : Fin 12) (row : BitVec 32)
  | binderyDispatch (h : Fin 12)
  | binderyWaitExpiry (h : Fin 12)
  | bEnd (h : Fin 12)
  | bOpt (h : Fin 12)
  | bReq (h : Fin 12)
  | bAmax (h : Fin 12)
  | bFpr (h : Fin 12)
  | bGath (h : Fin 12)
  | bScat (h : Fin 12)
  | bJmp (h : Fin 12)
  | binderyDescriptorDone (h : Fin 12)
  -- links
  | frameSend (p : Fin 128) (t : BitVec 48)
  | frameReceive (p : Fin 128) (t : BitVec 48) (fec : Fec) (bytes : List Byte)
  | trainingFrameReceive (p : Fin 128) (t : BitVec 48) (fec : Fec) (bytes : List Byte)
  | replayPendingExpiry (p : Fin 128)
  | trainingLimitExpiry (p : Fin 128)
  | laneSignalChange (p : Fin 128) (lanes : BitVec 16)
  | retrain (n : Fin 32)
  | wenPortDisable (n : Fin 32)
  | subportQuiesceDone (p : Fin 128)
  | packetForward (k : Packet)
  -- packets for this station
  | data (k : Packet)
  | cack (k : Packet)
  | notice (k : Packet)
  | epoch (k : Packet)
  | benchmark (k : Packet) (t : Nat)
  | arrive (k : Packet)
  | complete (k : Packet)
  | fail (k : Packet)
  | slipred (k : Packet)
  | stentry (k : Packet)
  | stake (k : Packet)
  | stjoin (k : Packet)
  | stleave (k : Packet)
  | routepush (k : Packet)
  | relay (k : Packet)
  | mack (k : Packet)
  | fwmsgRetryExpiry (mseq : BitVec 32)
  -- collectives
  | colOpen (h : Hdr) (r : ColRec) (schild : List (BitVec 24))
  | admissionRound
  | colClose (h : Hdr) (handle : BitVec 16)
  | colArm (handle : BitVec 12)
  | colStart (handle : BitVec 12)
  | colTileAccept (handle : BitVec 12)
  | permScratchCopy (handle : BitVec 12)
  | colRunComplete (handle : BitVec 12) (waitns : BitVec 48)
  | colT3Expiry (handle : BitVec 12)
  -- bearing and stakeouts
  | bearingRunStart (t : Nat)
  | bearingRunStop
  | bearingUnlock (byRole : Bool)
  | bearingTop (t : Nat)
  | benchmarkEmit (t : Nat)
  | bearingCoast (t : Nat)
  | bearingLost (t : Nat)
  | brgStkCommit (n : Fin 256) (w3 : BitVec 32)
  | setstake (n : Fin 256) (t : Nat)
  | snap (n : Fin 256) (t : Nat)
  | ctxstart (n : Fin 256) (t : Nat)
  | ctxpre (n : Fin 256) (t : Nat)
  | oppointAction (n : Fin 256) (t : Nat)
  | filler (n : Fin 256) (t : Nat)
  | fpflush (n : Fin 256) (t : Nat)
  | phasemark (n : Fin 256) (t : Nat)
  | stepEdge (t : Nat) (lowFor : Nat)
  -- catalogue and contexts
  | catSeedRequest (c : Fin 8)
  | ctxSliceInDone (c : Fin 8)
  | ctxSliceOutDone (c : Fin 8)
  | ctxParked (c : Fin 8)
  -- host interface
  | submissionDoorbell (q : Fin 64) (v : BitVec 32) (us : Nat)
  | receiptDoorbell (r : Fin 64) (v : BitVec 32)
  | directWord (v : BitVec 64)
  | submissionRingEnable (q : Fin 64) (en : Bool)
  | receiptRingEnable (r : Fin 64) (en : Bool)
  | commandFetch (q : Fin 64) (us : Nat) (error : Bool) (slot params : List Byte)
  | receiptSignalTimer (r : Fin 64)
  | commandT4Expiry (h : Hdr)
  | nop (h : Hdr)
  | identify (h : Hdr) (addr : BitVec 64)
  | health (h : Hdr)
  | warmReset (h : Hdr)
  | faultLogRead (h : Hdr) (addr : BitVec 64) (first : BitVec 32) (count : BitVec 16)
  | shelfPartition (h : Hdr) (shelves : List ShelfReq)
  | binderyRun (h : Hdr) (stack : Byte) (desc : List Byte)
  | binderyRestart (h : Hdr) (stackMask : BitVec 16) (ctxs : Byte) (skip : Bool)
  | catConfig (h : Hdr) (first : BitVec 16) (count : BitVec 24) (fmt dm : Byte) (wth : BitVec 16)
  | catSave (h : Hdr) (first : BitVec 16) (count : BitVec 24) (addr : BitVec 48)
  | catLoad (h : Hdr) (first : BitVec 16) (count : BitVec 24) (addr : BitVec 48)
  | catUnseed (h : Hdr) (first : BitVec 16) (count : BitVec 24)
  | fpFlush (h : Hdr) (first : Byte) (count : Byte)
  | ownerSet (h : Hdr) (owner : BitVec 32)
  | ctxLoad (h : Hdr) (c : Byte) (addr : BitVec 48) (read : EccResult)
  | ctxUnload (h : Hdr) (c : Byte)
  | ctxStart (h : Hdr) (c : Byte)
  | ctxPreempt (h : Hdr) (c : Byte)
  | queueResume (h : Hdr) (path : BitVec 24) (q : Byte) (c : Byte) (gadr : BitVec 16)
  | fabricSetup (h : Hdr) (sn : BitVec 24) (lockSn lockSize : Bool) (size : BitVec 24) (b : Byte)
  | routeLoad (h : Hdr) (rtl : Bool) (first : BitVec 16) (entries : List (BitVec 32))
  | stractSetup (h : Hdr) (handle : BitVec 16) (home : BitVec 24) (order : Byte) (members : List (BitVec 32))
  | stractRelease (h : Hdr) (handle : BitVec 16)
  | closureSetup (h : Hdr) (cid : BitVec 16) (ctx : Byte) (nchild : Byte) (parent : BitVec 24)
      (limit : BitVec 32) (nlocal : BitVec 16) (list : BitVec 48)
  | closureRelease (h : Hdr) (cid : BitVec 16)
  | stakeoutWrite (h : Hdr) (n : Byte) (w0 w1 w2 w3 : BitVec 32)
  | stakeoutRead (h : Hdr) (n : Byte)
  | powerCap (h : Hdr) (watts : BitVec 32)
  | oppoint (h : Hdr) (point : Byte)
  | fillerProfile (h : Hdr) (k : Byte) (rec : BitVec 512)
  | throttleLogRead (h : Hdr) (addr : BitVec 64) (first : BitVec 32) (count : BitVec 16)
  | snapshot (h : Hdr) (tag : Byte)
  | freeze (h : Hdr)
  | thaw (h : Hdr)
  | ctrRead (h : Hdr) (first count : BitVec 32) (addr : BitVec 64)
  | snapshotCopyDone
  | survey (h : Hdr) (seed : BitVec 64) (tiles : BitVec 32) (mask : Byte) (faults referees : List SurveyFault)
  | replayStep (h : Hdr) (rev : BitVec 32)
  | drain (h : Hdr)
  | waitLimits (h : Hdr) (mask : Byte) (t0 t1 t2 t3 t4 t5 : BitVec 32)
  | unitQuiesce (h : Hdr) (code : BitVec 32)
  | quiesceAcceptedDone (code : BitVec 32)
  | quiesceBoundExpiry (code : BitVec 32)
  | unitReset (h : Hdr) (code : BitVec 32)
  | unitResume (h : Hdr) (code : BitVec 32)
  | spareSwap (h : Hdr) (path : BitVec 24)
  | attest (h : Hdr) (nonce : BitVec 256) (addr : BitVec 64)
  | identityRead (h : Hdr) (addr : BitVec 64)
  | debugOpen (h : Hdr) (rec : List Byte) (sig : Option (List Byte)) (sigOk : Bool)
  | imageStage (h : Hdr) (cls : Byte) (addr : BitVec 64) (len : BitVec 32) (img : Option (List Byte)) (sigOk : Bool)
  | imageActivate (h : Hdr) (cls : Byte) (code : BitVec 32) (applies : Bool)
  | imageQuery (h : Hdr) (cls : Byte)
  -- power
  | powerUpdate (t : Nat) (watts measured : Nat) (milliamps : Nat) (bins : List Nat)
  | thermalReading (tmax : Byte)
  | tceilUpdate
  | oppSwitch
  | oppVoltageRampDone
  | droopDetect (d : Fin 64)
  | droopStretchEnd (d : Fin 64) (cycles : Nat)
  | droopEventEnd
  | extThrottleChange (asserted : Bool)
  | fillerRelease (t : Nat)
  -- faults and management
  | watchdogExpiry (code : BitVec 32) (t : Nat)
  | logEntryClose (index : BitVec 32)
  | healthReportTimer
  | fieldReportRepeat (rseq : BitVec 32)
  | spdmMessage (r : SpdmReq)
  | jobKeyMessage (r : JobKeyReq)
  | tapInstruction (t : TapIns)
  | input50vChange (inRange : Bool)
  | input12vChange (inRange : Bool)
  | mrstAssert
  | coldReset
  | hostReset
  | flr
  | d3hotEntry
  | d0Entry
  | domainGate (d : Fin 260)
  | refClockWindow (h l : Option Nat)
  | counterDeltaMove (k : BitVec 20) (n : BitVec 48)
  | smbusHealthRead
  | smbusSerialRead
  | smbusStationRead
  | smbusLogCursorWrite (w : BitVec 16)
  | smbusLogEntryRead
  | smbusPcntRead
  | smbusAlertResponse
  | equalisationDone (p : Fin 128) (ok : Bool)
  | catalogueWrapProcessingDone
  | managementPortLinkChange (up : Bool)
  | msiXTableWrite (off : BitVec 26) (v : BitVec 32)
  deriving DecidableEq, Repr

end Sys2Proof
end

