-- ==== Sys2Proof/Decode.lean ====
section
/-! DEFINITION. The decoder over the rows of the table that give bits. No row gives any: commands reach the
block as register accesses, queue entries, ring entries, packets, frames and events, each with a form of its
own. -/

namespace Sys2Proof

/-- The command that a word spells by the table's bits; none, since no row of the table has bits. -/
def decodeTableWord (_nbits _w : Nat) : Option Instr := none

end Sys2Proof
end

