-- ==== Sys2Proof/Config.lean ====
section
/-! DEFINITION. What an implementation fixes and the free values: opaque constants, so that a claim holds
whatever they are. -/

namespace Sys2Proof.Config

/-- A free value: what the spec leaves open, one for each value of the model's counter (log entry 3). -/
opaque freeValue (w n : Nat) : BitVec w

/-- DEV.SERIAL.SN, a fuse value (R380, R14). -/
opaque serial : BitVec 64

/-- The stepping of production parts of this edition, B0 (R380). -/
def stepping : BitVec 8 := 0x10

/-- Byte `i` of the fuse UDS, the unique device seed (R437). -/
opaque uds (i : Nat) : Byte

/-- Byte `i` of the fuse IKH[slot], the digest of an image-signing public key (R437). -/
opaque ikh (slot i : Nat) : Byte

/-- Byte `i` of the fuse DKH, the digest of the debug-authority public key (R437). -/
opaque dkh (i : Nat) : Byte

/-- SVN of the class's image that a part carries from manufacture (R442, R444). -/
opaque factorySvn (cls : Nat) : Nat

/-- KSLOT of that image. -/
opaque factoryKslot (cls : Nat) : Fin 4

/-- VERSION of the class's image that a part carries from manufacture (R442, R444). -/
opaque factoryVersion (cls : Nat) : BitVec 32

/-- DIGEST of that image. -/
opaque factoryDigest (cls : Nat) : BitVec 256

/-- The stations whose ROUTEPUSH is applied, as the class 5 image of a digest lists them (R243, R441). -/
opaque routeSources (digest : Nat) : List Nat

/-- Whether the rows that a SCAT descriptor with AK 1 adds hold Tally-24 values and not Tally-32 values: the descriptor has
no field that says so (R215, log entry 40). -/
opaque tally24Rows (desc : List Byte) : Bool

/-- The neighbour that takes the field reports of a station whose management port is down, by the same image (R243). -/
opaque relayTo (digest : Nat) : Option Nat

/-- ADDR[2:0], the SMBus address strap that the board ties (R482, R484). -/
opaque smbusStrap : BitVec 3

/-- PK.root of the SLH-DSA-SHA2-192f key of two seeds (R436, R438, FIPS 205). -/
opaque slhRoot (skSeed pkSeed : List Byte) : BitVec 192

/-- Byte `i` of the SLH-DSA-SHA2-192f signature of a message with a private key (R436, R448, R449). -/
opaque slhSign (key message : List Byte) (i : Nat) : Byte

/-- CERTLEN less one of the certificate chain of the IDK that FSTATE selects (R448). -/
opaque chainLen (dbgOpen : Bool) : BitVec 16

/-- Byte `i` of that chain (R448). -/
opaque chainByte (dbgOpen : Bool) (i : Nat) : Byte

/-- The certificate chain, 1 to 65,536 bytes (R448). -/
def chain (dbgOpen : Bool) : List Byte := (List.range ((chainLen dbgOpen).toNat + 1)).map (chainByte dbgOpen)

end Sys2Proof.Config
end

