-- ==== Sys2Proof/Machine/Bits.lean ====
section
/-! DEFINITION. Bit fields, sign extension, byte order and the cyclic redundancy checks. -/

namespace Sys2Proof.Machine

/-- Bits [lo + w - 1 : lo] of a natural number (R5). -/
def bitsOf (n lo w : Nat) : Nat := n / 2 ^ lo % 2 ^ w

/-- Bits [lo + w - 1 : lo] of a word (R5). -/
def fld {k : Nat} (e : BitVec k) (lo w : Nat) : Nat := bitsOf e.toNat lo w

/-- Bit [i] of a word (R5). -/
def bit {k : Nat} (e : BitVec k) (i : Nat) : Bool := e.toNat.testBit i

/-- `n` with its bits [lo + w - 1 : lo] replaced by the low bits of `v`. -/
def setBits (n lo w v : Nat) : Nat :=
  n - bitsOf n lo w * 2 ^ lo + v % 2 ^ w * 2 ^ lo

/-- The low `w` bits of `n` read as two's complement (R17, sN). -/
def sx (w n : Nat) : Int :=
  let m := n % 2 ^ w
  if 2 ^ (w - 1) ≤ m then (m : Int) - 2 ^ w else m

/-- The low `w` bits of an integer (R17, assignment to uN). -/
def wrapU (w : Nat) (i : Int) : Nat := (i % (2 ^ w : Nat)).toNat

/-- An integer kept in `w` bits of two's complement (R17, assignment to sN). -/
def wrapS (w : Nat) (i : Int) : Int := sx w (wrapU w i)

/-- A little-endian byte list as a number (R6). -/
def leNat : List Byte → Nat
  | [] => 0
  | b :: bs => b.toNat + 256 * leNat bs

/-- The low `len` bytes of a number, least significant first (R6). -/
def toLE : (len : Nat) → Nat → List Byte
  | 0, _ => []
  | len + 1, n => BitVec.ofNat 8 n :: toLE len (n / 256)

/-- `len` bytes from place `off`; a place past the end reads as 0. -/
def bytesAt (bs : List Byte) (off len : Nat) : List Byte :=
  let t := (bs.drop off).take len
  t ++ List.replicate (len - t.length) 0

/-- The little-endian field of `len` bytes at byte `off` (R6). -/
def leAt (bs : List Byte) (off len : Nat) : Nat := leNat ((bs.drop off).take len)

/-- True when bytes `lo` to `hi` are all zero (a reserved byte range). -/
def zeroBytes (bs : List Byte) (lo hi : Nat) : Bool :=
  ((bs.drop lo).take (hi + 1 - lo)).all (· == 0)

/-- `b` as a number. -/
def b2n (b : Bool) : Nat := if b then 1 else 0

/-- The number of set bits among the low `w`. -/
def popCount : (w : Nat) → Nat → Nat
  | 0, _ => 0
  | w + 1, n => n % 2 + popCount w (n / 2)

/-- The least `k` with `n ≤ 2 ^ k` (ceil of log2, R74), for `n` at least 1. -/
def clog2 (n : Nat) : Nat := if n ≤ 1 then 0 else (n - 1).log2 + 1

/-- The bits of the low `w` in reverse order. -/
def reverseBits : (w : Nat) → Nat → Nat
  | 0, _ => 0
  | w + 1, n => n % 2 * 2 ^ w + reverseBits w (n / 2)

/-- One of the four polynomials of the fingerprint units (R194). -/
structure CrcParams where
  width : Nat
  poly : Nat
  init : Nat
  reflected : Bool
  xorOut : Nat
  deriving DecidableEq, Repr

/-- The parameters of POLY 0-3 (R194). -/
def crcParams (poly : Nat) : CrcParams :=
  match poly with
  | 0 => ⟨32, 0x1EDC6F41, 0xFFFFFFFF, true, 0xFFFFFFFF⟩
  | 1 => ⟨32, 0x04C11DB7, 0xFFFFFFFF, true, 0xFFFFFFFF⟩
  | 2 => ⟨64, 0x42F0E1EBA9EA3693, 0, false, 0⟩
  | _ => ⟨16, 0x1021, 0xFFFF, false, 0⟩

/-- `n` steps of the shift register, most significant bit first. -/
def crcShift (p : CrcParams) : Nat → Nat → Nat
  | 0, r => r
  | n + 1, r =>
    let r' := if r.testBit (p.width - 1) then (r * 2 % 2 ^ p.width) ^^^ p.poly else r * 2 % 2 ^ p.width
    crcShift p n r'

/-- One byte into the register. -/
def crcByte (p : CrcParams) (r : Nat) (b : Byte) : Nat :=
  let v := if p.reflected then reverseBits 8 b.toNat else b.toNat
  crcShift p 8 (r ^^^ (v * 2 ^ (p.width - 8)))

/-- The CRC of a byte string under POLY 0-3 (R194). -/
def crc (poly : Nat) (bs : List Byte) : Nat :=
  let p := crcParams poly
  let r := bs.foldl (crcByte p) p.init
  (if p.reflected then reverseBits p.width r else r) ^^^ p.xorOut

/-- CRC-32C (R44, R223, R425). -/
def crc32c (bs : List Byte) : Nat := crc 0 bs

/-- `x` put into a sorted list, before the first element that it does not follow. -/
def insertBy {α : Type} (le : α → α → Bool) (x : α) : List α → List α
  | [] => [x]
  | y :: ys => if le x y then x :: y :: ys else y :: insertBy le x ys

/-- A list sorted by `le`; elements of one rank keep their order. -/
def sortBy {α : Type} (le : α → α → Bool) (xs : List α) : List α := xs.foldr (insertBy le) []

end Sys2Proof.Machine
end

