-- ==== Sys2Proof/Machine/Mem.lean ====
section
/-! DEFINITION. Sparse maps and byte memory: lists of key and value in one canonical form. -/

namespace Sys2Proof.Machine

/-- A sparse map: keys strictly rising. -/
abbrev Map (α : Type) := List (Nat × α)

/-- The value at a key, where one is listed. -/
def Map.find {α : Type} : Map α → Nat → Option α
  | [], _ => none
  | (k', v) :: m, k => if k' = k then some v else Map.find m k

/-- The value at a key, `d` where none is listed. -/
def Map.getD {α : Type} (m : Map α) (k : Nat) (d : α) : α := (Map.find m k).getD d

/-- The map with `v` at `k`. -/
def Map.put {α : Type} : Map α → Nat → α → Map α
  | [], k, v => [(k, v)]
  | (k', v') :: m, k, v =>
    if k' = k then (k, v) :: m else if k < k' then (k, v) :: (k', v') :: m else (k', v') :: Map.put m k v

/-- The map without the key `k`. -/
def Map.del {α : Type} (m : Map α) (k : Nat) : Map α := m.filter fun kv => kv.1 != k

/-- The map with `v` at `k`, nothing listed where `v` is the default. -/
def Map.putD {α : Type} [DecidableEq α] (m : Map α) (k : Nat) (v d : α) : Map α :=
  if v = d then Map.del m k else Map.put m k v

/-- Every listed value through `f`, which sees the key. -/
def Map.mapVals {α : Type} (m : Map α) (f : Nat → α → α) : Map α := m.map fun kv => (kv.1, f kv.1 kv.2)

/-- The listed pairs whose key and value satisfy `p`. -/
def Map.keep {α : Type} (m : Map α) (p : Nat → α → Bool) : Map α := m.filter fun kv => p kv.1 kv.2

/-- Keys strictly rising from above `lo`. -/
def Map.risingFrom {α : Type} : Option Nat → Map α → Bool
  | _, [] => true
  | lo, (k, _) :: m => (match lo with | none => true | some l => decide (l < k)) && Map.risingFrom (some k) m

/-- Keys strictly rising. -/
def Map.rising {α : Type} (m : Map α) : Bool := Map.risingFrom none m

/-- Byte memory by address. A byte that nothing has written reads as 0 (DESIGN CHOICE, log entry 2). -/
abbrev Memory := Map Byte

/-- The byte at an address. -/
def Memory.read (m : Memory) (a : Nat) : Byte := Map.getD m a 0

/-- Memory with one byte written. -/
def Memory.write (m : Memory) (a : Nat) (b : Byte) : Memory := Map.putD m a b 0

/-- `len` bytes from `a` up. -/
def Memory.readN (m : Memory) (a : Nat) : Nat → List Byte
  | 0 => []
  | len + 1 => m.read a :: Memory.readN m (a + 1) len

/-- The listed cells of bytes laid from `a` up. -/
def cellsOf (a : Nat) : List Byte → Memory
  | [] => []
  | b :: bs => if b = 0 then cellsOf (a + 1) bs else (a, b) :: cellsOf (a + 1) bs

/-- Memory in which the cells of [a, a + len) are those given. -/
def Memory.splice (m : Memory) (a len : Nat) (cells : Memory) : Memory :=
  Map.keep m (fun k _ => decide (k < a)) ++ cells ++ Map.keep m (fun k _ => decide (a + len ≤ k))

/-- The bytes written from `a` up. -/
def Memory.writeN (m : Memory) (a : Nat) (bs : List Byte) : Memory := m.splice a bs.length (cellsOf a bs)

/-- The little-endian number of `len` bytes at `a` (R6). -/
def Memory.readLE (m : Memory) (a len : Nat) : Nat := leNat (m.readN a len)

/-- A number written little-endian in `len` bytes at `a` (R6). -/
def Memory.writeLE (m : Memory) (a len n : Nat) : Memory := m.writeN a (toLE len n)

/-- Every byte of [a, a + len) reads as 0. -/
def Memory.clear (m : Memory) (a len : Nat) : Memory := m.splice a len []

/-- The bytes of [src, src + len) copied to [dst, dst + len), whose earlier contents are gone. -/
def Memory.copy (m : Memory) (dst src len : Nat) : Memory :=
  m.splice dst len
    ((Map.keep m fun k _ => decide (src ≤ k) && decide (k < src + len)).map fun kv => (kv.1 - src + dst, kv.2))

/-- The canonical form: addresses strictly rising and no entry equal to what an unlisted byte reads as. -/
def Memory.wf (m : Memory) : Bool := Map.rising m && m.all fun kv => kv.2 != 0

end Sys2Proof.Machine
end

