-- ==== Sys2Proof/Machine/Num.lean ====
section
/-! DEFINITION. Element formats, exact values, the antilog table, decoding, products, conversion into a
format, comparison, and the exact elementary functions (spec 02, R25-R56; spec 05, R136-R138). -/

namespace Sys2Proof.Machine

/-! ## Formats -/

/-- The fifteen formats of R25. -/
inductive Fmt where
  | fp32 | fp16 | bf16 | e4m3 | e5m2 | fp4 | s8 | u8 | s4 | l4 | l8 | l16 | t24 | t32 | t64
  deriving DecidableEq, Repr

/-- The format of a 4-bit code; 0xF is reserved (R25). -/
def fmtOf (c : Nat) : Option Fmt :=
  match c with
  | 0 => some .fp32 | 1 => some .fp16 | 2 => some .bf16 | 3 => some .e4m3 | 4 => some .e5m2
  | 5 => some .fp4 | 6 => some .s8 | 7 => some .u8 | 8 => some .s4 | 9 => some .l4
  | 10 => some .l8 | 11 => some .l16 | 12 => some .t24 | 13 => some .t32 | 14 => some .t64
  | _ => none

/-- Storage width in bits of one element (R25); a Tally lies in its memory word (R80). -/
def Fmt.width : Fmt → Nat
  | .fp32 => 32 | .fp16 => 16 | .bf16 => 16 | .e4m3 => 8 | .e5m2 => 8 | .fp4 => 4 | .s8 => 8
  | .u8 => 8 | .s4 => 4 | .l4 => 4 | .l8 => 8 | .l16 => 16 | .t24 => 32 | .t32 => 32 | .t64 => 64

/-- A Tally format (R26). -/
def Fmt.isTally : Fmt → Bool
  | .t24 => true | .t32 => true | .t64 => true
  | _ => false

/-- The value width W of a Tally format (R74). -/
def Fmt.tallyW : Fmt → Nat
  | .t24 => 24 | .t32 => 32
  | _ => 64

/-- Wide ledger class: 16 bits or FP32 (R25). -/
def Fmt.isWide : Fmt → Bool
  | .fp32 => true | .fp16 => true | .bf16 => true | .l16 => true
  | _ => false

/-- Logarithmic format (R35). -/
def Fmt.isLog : Fmt → Bool
  | .l4 => true | .l8 => true | .l16 => true
  | _ => false

/-- Integer format (R34). -/
def Fmt.isInt : Fmt → Bool
  | .s8 => true | .u8 => true | .s4 => true
  | _ => false

/-- An E8 block scale is required (R25). -/
def Fmt.scaleRequired : Fmt → Bool
  | .fp4 => true | .l4 => true
  | _ => false

/-- An E8 block scale is allowed (R25). -/
def Fmt.scaleAllowed : Fmt → Bool
  | .e4m3 => true | .e5m2 => true | .fp4 => true | .s8 => true | .s4 => true | .l4 => true | .l8 => true
  | _ => false

/-- The Emax of R63. -/
def Fmt.emax (f : Fmt) (zp : Bool) : Int :=
  match f with
  | .fp32 => 128 | .bf16 => 128 | .fp16 => 16 | .l16 => 64 | .e4m3 => 9 | .e5m2 => 16 | .fp4 => 3
  | .s8 => if zp then 8 else 7
  | .u8 => 8 | .s4 => 3 | .l4 => 2 | .l8 => 8
  | .t24 => 0 | .t32 => 0 | .t64 => 0

/-! ## The antilog table -/

/-- Antilog entries 0-31 (R43). -/
def antilog0 : List Nat := [
   8388608, 8411352, 8434157, 8457025, 8479954, 8502945, 8525999, 8549116,
   8572295, 8595536, 8618841, 8642209, 8665641, 8689136, 8712694, 8736317,
   8760003, 8783754, 8807569, 8831449, 8855394, 8879403, 8903477, 8927617,
   8951823, 8976093, 9000430, 9024833, 9049301, 9073837, 9098438, 9123107]

/-- Antilog entries 32-63 (R43). -/
def antilog1 : List Nat := [
   9147842, 9172644, 9197514, 9222451, 9247455, 9272528, 9297668, 9322877,
   9348154, 9373499, 9398913, 9424396, 9449948, 9475570, 9501261, 9527021,
   9552851, 9578752, 9604722, 9630764, 9656875, 9683058, 9709311, 9735636,
   9762032, 9788499, 9815039, 9841650, 9868333, 9895089, 9921917, 9948818]

/-- Antilog entries 64-95 (R43). -/
def antilog2 : List Nat := [
   9975792, 10002839, 10029960, 10057154, 10084422, 10111763, 10139179, 10166669,
   10194234, 10221873, 10249587, 10277377, 10305242, 10333182, 10361198, 10389290,
   10417458, 10445703, 10474024, 10502422, 10530897, 10559449, 10588079, 10616786,
   10645571, 10674434, 10703375, 10732395, 10761494, 10790671, 10819928, 10849263]

/-- Antilog entries 96-127 (R43). -/
def antilog3 : List Nat := [
   10878679, 10908174, 10937749, 10967404, 10997140, 11026956, 11056853, 11086831,
   11116891, 11147032, 11177254, 11207559, 11237946, 11268415, 11298967, 11329601,
   11360319, 11391120, 11422004, 11452973, 11484025, 11515161, 11546382, 11577687,
   11609078, 11640553, 11672114, 11703760, 11735492, 11767310, 11799215, 11831206]

/-- Antilog entries 128-159 (R43). -/
def antilog4 : List Nat := [
   11863283, 11895448, 11927700, 11960039, 11992466, 12024981, 12057584, 12090275,
   12123055, 12155924, 12188882, 12221930, 12255067, 12288294, 12321610, 12355018,
   12388516, 12422104, 12455784, 12489555, 12523418, 12557372, 12591419, 12625557,
   12659789, 12694113, 12728530, 12763041, 12797645, 12832343, 12867135, 12902021]

/-- Antilog entries 160-191 (R43). -/
def antilog5 : List Nat := [
   12937002, 12972078, 13007249, 13042515, 13077877, 13113335, 13148888, 13184539,
   13220286, 13256129, 13292070, 13328109, 13364245, 13400479, 13436812, 13473242,
   13509772, 13546401, 13583129, 13619956, 13656884, 13693911, 13731039, 13768268,
   13805598, 13843028, 13880561, 13918195, 13955931, 13993769, 14031710, 14069754]

/-- Antilog entries 192-223 (R43). -/
def antilog6 : List Nat := [
   14107901, 14146151, 14184505, 14222963, 14261526, 14300193, 14338964, 14377841,
   14416824, 14455912, 14495106, 14534406, 14573813, 14613326, 14652947, 14692675,
   14732511, 14772455, 14812507, 14852668, 14892937, 14933316, 14973805, 15014403,
   15055111, 15095929, 15136859, 15177899, 15219050, 15260313, 15301688, 15343175]

/-- Antilog entries 224-255 (R43). -/
def antilog7 : List Nat := [
   15384775, 15426487, 15468313, 15510252, 15552304, 15594471, 15636752, 15679147,
   15721658, 15764283, 15807025, 15849882, 15892855, 15935945, 15979152, 16022476,
   16065917, 16109476, 16153153, 16196949, 16240863, 16284897, 16329050, 16373322,
   16417715, 16462228, 16506861, 16551616, 16596492, 16641490, 16686609, 16731851]

/-- Entry i of the antilog table (R43); entry 256 is 2^24. -/
def antilog (i : Nat) : Nat :=
  if i = 256 then 16777216 else
  let r := i % 32
  match i / 32 with
  | 0 => antilog0.getD r 0 | 1 => antilog1.getD r 0 | 2 => antilog2.getD r 0 | 3 => antilog3.getD r 0
  | 4 => antilog4.getD r 0 | 5 => antilog5.getD r 0 | 6 => antilog6.getD r 0 | _ => antilog7.getD r 0

/-! ## Exact values -/

/-- An exact value: class, sign of a zero or infinity, or m × 2^e with m not zero (R41, R49). -/
inductive Val where
  | nan
  | inf (neg : Bool)
  | zero (neg : Bool)
  | fin (m e : Int)
  deriving DecidableEq, Repr

/-- m × 2^e as a value, `neg` being the sign of a zero. -/
def Val.mk (m e : Int) (neg : Bool := false) : Val := if m = 0 then .zero neg else .fin m e

/-- The sign bit of a value; NaN has none (R41). -/
def Val.neg : Val → Bool
  | .nan => false
  | .inf s => s
  | .zero s => s
  | .fin m _ => decide (m < 0)

/-- The class NaN. -/
def Val.isNan : Val → Bool
  | .nan => true
  | _ => false

/-- Finite: zero or nonzero. -/
def Val.isFinite : Val → Bool
  | .nan => false
  | .inf _ => false
  | _ => true

/-- m × 2^e brought to the exponent `e0` at or below `e`. -/
def alignTo (m e e0 : Int) : Int := m * 2 ^ (e - e0).toNat

/-- Exact comparison of m1 × 2^e1 and m2 × 2^e2. -/
def cmpDy (m1 e1 m2 e2 : Int) : Ordering :=
  let e0 := min e1 e2
  compare (alignTo m1 e1 e0) (alignTo m2 e2 e0)

/-- The value with the opposite sign. -/
def Val.negate : Val → Val
  | .nan => .nan
  | .inf s => .inf (!s)
  | .zero s => .zero (!s)
  | .fin m e => .fin (-m) e

/-- The magnitude. -/
def Val.abs : Val → Val
  | .nan => .nan
  | .inf _ => .inf false
  | .zero _ => .zero false
  | .fin m e => .fin m.natAbs e

/-- The value times 2^k: a block scale applied (R40). -/
def Val.scale (v : Val) (k : Int) : Val :=
  match v with
  | .fin m e => .fin m (e + k)
  | _ => v

/-- Exact addition with the non-finite rules of IEEE 754 (R132) and the zero sign of R133. -/
def Val.add (a b : Val) : Val :=
  match a, b with
  | .nan, _ => .nan
  | _, .nan => .nan
  | .inf s, .inf t => if s = t then .inf s else .nan
  | .inf s, _ => .inf s
  | _, .inf t => .inf t
  | .zero s, .zero t => .zero (s && t)
  | .zero _, .fin m e => .fin m e
  | .fin m e, .zero _ => .fin m e
  | .fin m e, .fin m' e' =>
    let e0 := min e e'
    Val.mk (alignTo m e e0 + alignTo m' e' e0) e0

/-- Exact multiplication: classes and sign of R49. -/
def Val.mul (a b : Val) : Val :=
  let s := a.neg != b.neg
  match a, b with
  | .nan, _ => .nan
  | _, .nan => .nan
  | .inf _, .zero _ => .nan
  | .zero _, .inf _ => .nan
  | .inf _, _ => .inf s
  | _, .inf _ => .inf s
  | .zero _, _ => .zero s
  | _, .zero _ => .zero s
  | .fin m e, .fin m' e' => .fin (m * m') (e + e')

/-- Binary places kept of a quotient, a root or a function: 800, far beyond any rounding boundary of a
result of at most 24 significant bits (log entry 9). -/
def precBits : Nat := 800

/-- n / d (both positive) cut to `precBits` significant bits or more; a nonzero remainder sets one bit
below them, so every later rounding sees that the value was not exact. -/
def quot (n d : Nat) : Nat × Int :=
  let k := precBits + d.log2 + 1
  let q := n * 2 ^ k / d
  (if q * d = n * 2 ^ k then q * 2 else q * 2 + 1, -(k : Int) - 1)

/-- a / b with the rules of IEEE 754 for division. -/
def Val.div (a b : Val) : Val :=
  let s := a.neg != b.neg
  match a, b with
  | .nan, _ => .nan
  | _, .nan => .nan
  | .inf _, .inf _ => .nan
  | .zero _, .zero _ => .nan
  | .inf _, _ => .inf s
  | _, .inf _ => .zero s
  | .zero _, _ => .zero s
  | _, .zero _ => .inf s
  | .fin m e, .fin m' e' =>
    let q := quot m.natAbs m'.natAbs
    .fin (if s then -(q.1 : Int) else q.1) (q.2 + e - e')

/-- Ordering by decoded value, none when either is NaN; +0 equals -0 (R54). -/
def Val.cmp (a b : Val) : Option Ordering :=
  match a, b with
  | .nan, _ => none
  | _, .nan => none
  | .inf s, .inf t => some (compare (b2n t) (b2n s))
  | .inf s, _ => some (if s then .lt else .gt)
  | _, .inf t => some (if t then .gt else .lt)
  | .zero _, .zero _ => some .eq
  | .zero _, .fin m _ => some (compare 0 m)
  | .fin m _, .zero _ => some (compare m 0)
  | .fin m e, .fin m' e' => some (cmpDy m e m' e')

/-- Maximum by R54: NaN when either is NaN, and -0 < +0. -/
def Val.max (a b : Val) : Val :=
  match Val.cmp a b with
  | none => .nan
  | some .lt => b
  | some .gt => a
  | some .eq => match a with
    | .zero true => b
    | _ => a

/-- Minimum by R54: NaN when either is NaN, and -0 < +0. -/
def Val.min (a b : Val) : Val :=
  match Val.cmp a b with
  | none => .nan
  | some .lt => a
  | some .gt => b
  | some .eq => match a with
    | .zero false => b
    | _ => a

/-- One more element into an amax (R54): maximum of magnitude, NaN absorbing, the amax of zeros +0. -/
def Val.amax (acc v : Val) : Val := Val.max acc v.abs

/-! ## Decoding -/

/-- A binary floating-point layout: exponent bits, fraction bits, bias. -/
structure FpLay where
  ebits : Nat
  fbits : Nat
  bias : Int
  deriving DecidableEq, Repr

/-- The layouts of R30 and R31. -/
def fpLay (f : Fmt) : FpLay :=
  match f with
  | .fp32 => ⟨8, 23, 127⟩
  | .fp16 => ⟨5, 10, 15⟩
  | .bf16 => ⟨8, 7, 127⟩
  | .e4m3 => ⟨4, 3, 7⟩
  | .e5m2 => ⟨5, 2, 15⟩
  | _ => ⟨2, 1, 1⟩

/-- The value of a floating-point code (R30, R31); every NaN code reads as NaN (R32). -/
def decodeFp (f : Fmt) (c : Nat) : Val :=
  let l := fpLay f
  let s := c.testBit (l.ebits + l.fbits)
  let x := bitsOf c l.fbits l.ebits
  let t := c % 2 ^ l.fbits
  let top := x = 2 ^ l.ebits - 1
  if f = .e4m3 && top && t = 7 then .nan
  else if (f != .e4m3 && f != .fp4) && top then (if t = 0 then .inf s else .nan)
  else
    let m : Int := if x = 0 then t else t + 2 ^ l.fbits
    let e : Int := (if x = 0 then 1 else (x : Int)) - l.bias - l.fbits
    Val.mk (if s then -m else m) e s

/-- Bits of the log field m, its bias and its unit in 2^-8 (R35, R37). -/
def logLay (f : Fmt) : Nat × Int × Int :=
  match f with
  | .l4 => (3, 4, 128)
  | .l8 => (7, 64, 32)
  | _ => (15, 16384, 1)

/-- The unbiased log of the log field m, in units of 2^-8 (R37). -/
def unbias (f : Fmt) (m : Nat) : Int := ((m : Int) - (logLay f).2.1) * (logLay f).2.2

/-- Sign, class and log field of an L code (R36): none where it is not finite and nonzero. -/
def splitLog (f : Fmt) (c : Nat) : Val × Nat :=
  let w := (logLay f).1
  let s := c.testBit w
  let m := c % 2 ^ w
  match f with
  | .l4 => if m = 0 then (.zero false, 0) else (.fin (if s then -1 else 1) 0, m)
  | .l8 =>
    if m = 127 then (.inf s, 0)
    else if m = 0 then (if s then .nan else .zero false, 0)
    else (.fin (if s then -1 else 1) 0, m)
  | _ =>
    if m = 32767 then (.inf s, 0)
    else if m = 32766 then (.nan, 0)
    else if m = 0 then (.zero s, 0)
    else (.fin (if s then -1 else 1) 0, m)

/-- antilog[e and 0xFF] × 2^(e >> 8 - 23) with the sign (R42). -/
def antilogVal (s : Bool) (e : Int) : Val :=
  let i := (e % 256).toNat
  let k := e / 256
  .fin (if s then -(antilog i : Int) else antilog i) (k - 23)

/-- The value of an L code (R36, R37, R42). -/
def decodeLog (f : Fmt) (c : Nat) : Val :=
  let p := splitLog f c
  match p.1 with
  | .fin m _ => antilogVal (decide (m < 0)) (unbias f p.2)
  | v => v

/-- The stored integer of an integer code, before any zero point (R34, R113). -/
def storedInt (f : Fmt) (c : Nat) : Int :=
  match f with
  | .u8 => (c % 256 : Nat)
  | .s4 => sx 4 c
  | _ => sx 8 c

/-- The zero point byte of an operand: u8 for U8, s8 for S8, none otherwise (R34). -/
def zeroPoint (f : Fmt) (z : Nat) : Int :=
  match f with
  | .u8 => (z % 256 : Nat)
  | .s8 => sx 8 z
  | _ => 0

/-- The exact value of an element, zero point applied, no block scale (R42). -/
def decode (f : Fmt) (c : Nat) (zp : Int := 0) : Val :=
  match f with
  | .s8 => Val.mk (storedInt .s8 c - zp) 0
  | .u8 => Val.mk (storedInt .u8 c - zp) 0
  | .s4 => Val.mk (storedInt .s4 c - zp) 0
  | .l4 => decodeLog .l4 c
  | .l8 => decodeLog .l8 c
  | .l16 => decodeLog .l16 c
  | .t24 => Val.mk (sx 24 c) 0
  | .t32 => Val.mk (sx 32 c) 0
  | .t64 => Val.mk (sx 64 c) 0
  | .fp32 => decodeFp .fp32 c
  | .fp16 => decodeFp .fp16 c
  | .bf16 => decodeFp .bf16 c
  | .e4m3 => decodeFp .e4m3 c
  | .e5m2 => decodeFp .e5m2 c
  | .fp4 => decodeFp .fp4 c

/-- An element under its block scale code: 0xFF makes every element NaN (R38, R40). -/
def decodeScaled (f : Fmt) (c : Nat) (zp : Int) (scale : Option Nat) : Val :=
  match scale with
  | none => decode f c zp
  | some x => if x = 255 then .nan else (decode f c zp).scale ((x : Int) - 127)

/-! ## Products -/

/-- The exact product of two matrix operands (R46-R49); `sa`, `sb` are the E8 codes of their blocks. -/
def product (fa : Fmt) (a : Nat) (za : Int) (sa : Option Nat)
    (fb : Fmt) (b : Nat) (zb : Int) (sb : Option Nat) : Val :=
  let va := if sa = some 255 then .nan else decode fa a za
  let vb := if sb = some 255 then .nan else decode fb b zb
  let k : Int := (match sa with | none => 0 | some x => (x : Int) - 127)
    + (match sb with | none => 0 | some x => (x : Int) - 127)
  match va, vb with
  | .fin _ _, .fin _ _ =>
    if fa.isLog && fb.isLog then
      (antilogVal (va.neg != vb.neg) (unbias fa (splitLog fa a).2 + unbias fb (splitLog fb b).2)).scale k
    else (Val.mul va vb).scale k
  | _, _ => Val.mul va vb

/-! ## Conversion into a format -/

/-- What a conversion gave: the code, and whether it counts as a saturation (SAT_FIN) or as a NaN written
as the code of value 0 (NAN_ZERO) (R53, R90). -/
structure Conv where
  code : Nat
  sat : Bool
  nanZero : Bool
  deriving DecidableEq, Repr

/-- A conversion that counts nothing. -/
def Conv.ok (code : Nat) : Conv := ⟨code, false, false⟩

/-- n / 2^k rounded: RN ties to even, RZ toward zero (R51). -/
def roundShift (rz : Bool) (n k : Nat) : Nat :=
  let q := n / 2 ^ k
  let r := n % 2 ^ k
  if rz || k = 0 then q
  else if 2 ^ (k - 1) < r then q + 1
  else if r = 2 ^ (k - 1) then q + q % 2
  else q

/-- mag × 2^e to an integer multiple of 2^u. -/
def roundAt (rz : Bool) (mag : Nat) (e u : Int) : Nat :=
  if u ≤ e then mag * 2 ^ (e - u).toNat else roundShift rz mag (u - e).toNat

/-- The sign bit of a format, as a number to add to a code. -/
def signBit (f : Fmt) (s : Bool) : Nat := if s then 2 ^ (f.width - 1) else 0

/-- The canonical NaN (R32); a block-scaled or integer target has its own rule (R53). -/
def canonNan (f : Fmt) : Nat :=
  match f with
  | .fp32 => 0x7FC00000 | .fp16 => 0x7E00 | .bf16 => 0x7FC0 | .e4m3 => 0x7F | .e5m2 => 0x7E
  | .l8 => 0x80 | .l16 => 0x7FFE
  | _ => 0

/-- The code of the largest finite magnitude of a floating-point or L format (R31, R35). -/
def maxCode (f : Fmt) : Nat :=
  match f with
  | .fp32 => 0x7F7FFFFF | .fp16 => 0x7BFF | .bf16 => 0x7F7F | .e4m3 => 0x7E | .e5m2 => 0x7B | .fp4 => 0x7
  | .l4 => 7 | .l8 => 126 | .l16 => 32765
  | .s8 => 127 | .u8 => 255 | .s4 => 7
  | _ => 0

/-- The code of +infinity, where the format has one. -/
def infCode (f : Fmt) : Nat :=
  match f with
  | .fp32 => 0x7F800000 | .fp16 => 0x7C00 | .bf16 => 0x7F80 | .e5m2 => 0x7C | .l8 => 0x7F | .l16 => 0x7FFF
  | _ => 0

/-- -0 exists in the format (R31, R36, R50). -/
def hasNegZero (f : Fmt) : Bool :=
  match f with
  | .l4 => false | .l8 => false | .s8 => false | .u8 => false | .s4 => false
  | _ => true

/-- The range of an integer format (R34). -/
def intRange (f : Fmt) : Int × Int :=
  match f with
  | .u8 => (0, 255)
  | .s4 => (-8, 7)
  | _ => (-128, 127)

/-- A zero written: -0 only where the format has one; the code of value 0 is the output zero point of an
integer target (R50, R53). -/
def writeZero (f : Fmt) (zo : Int) (neg : Bool) : Nat :=
  if f.isInt then wrapU f.width zo
  else if neg && hasNegZero f then signBit f true else 0

/-- A finite overflow written (R53): `sat` is SAT, `rz` the rounding mode. -/
def writeOver (f : Fmt) (rz sat s : Bool) : Conv :=
  match f with
  | .fp4 => ⟨signBit f s + maxCode f, true, false⟩
  | .l4 => ⟨signBit f s + maxCode f, true, false⟩
  | .e4m3 => if rz || sat then ⟨signBit f s + maxCode f, true, false⟩ else .ok 0x7F
  | _ => if rz || sat then ⟨signBit f s + maxCode f, true, false⟩ else .ok (signBit f s + infCode f)

/-- An infinity written (R53), into a target whose block does not become NaN. -/
def writeInf (f : Fmt) (sat s : Bool) : Conv :=
  match f with
  | .e4m3 => if sat then ⟨signBit f s + maxCode f, true, false⟩ else .ok 0x7F
  | .s8 => ⟨wrapU 8 (if s then -128 else 127), true, false⟩
  | .u8 => ⟨if s then 0 else 255, true, false⟩
  | .s4 => ⟨wrapU 4 (if s then -8 else 7), true, false⟩
  | .fp4 => .ok 0
  | .l4 => .ok 0
  | _ => .ok (signBit f s + infCode f)

/-- A NaN written (R53), into a target whose block does not become NaN. -/
def writeNan (f : Fmt) (zo : Int) : Conv :=
  if f.isInt then ⟨wrapU f.width zo, false, true⟩ else .ok (canonNan f)

/-- A nonzero m × 2^e into a floating-point format, gradual underflow (R51, R53). -/
def convertFp (f : Fmt) (rz sat : Bool) (m e : Int) (zsPlus : Bool) : Conv :=
  let l := fpLay f
  let mag := m.natAbs
  let s := decide (m < 0)
  let top : Int := (mag.log2 : Int) + e
  let emin : Int := 1 - l.bias
  let u := max (top - l.fbits) (emin - l.fbits)
  let r := roundAt rz mag e u
  if r = 0 then .ok (if zsPlus then 0 else signBit f s)
  else
    let r2 := if r = 2 ^ (l.fbits + 1) then 2 ^ l.fbits else r
    let u2 := if r = 2 ^ (l.fbits + 1) then u + 1 else u
    let code : Nat :=
      if r2 < 2 ^ l.fbits then r2
      else ((u2 + l.fbits + l.bias).toNat) * 2 ^ l.fbits + (r2 - 2 ^ l.fbits)
    if maxCode f < code then writeOver f rz sat s else .ok (signBit f s + code)

/-- The largest multiple of the step at or below `i` whose antilog entry is at most mag × 2^sh: the
bracket of R52, step 1. -/
def antilogBelow (step : Nat) (mag d : Nat) : Nat → Nat
  | 0 => 0
  | n + 1 => if antilog ((n + 1) * step) * 2 ^ d ≤ mag then (n + 1) * step else antilogBelow step mag d n

/-- A nonzero m × 2^e into an L format (R52, R53). -/
def convertLog (f : Fmt) (rz sat : Bool) (m e : Int) (zsPlus : Bool) : Conv :=
  let s := decide (m < 0)
  let mag := m.natAbs
  let (w, bias, unit) := logLay f
  let step := unit.toNat
  let k : Int := (mag.log2 : Int) + e
  -- |v| = N × 2^(k - 23 - d), so entry x stands for x × 2^d in units of N
  let d : Nat := if e + 23 - k < 0 then (k - 23 - e).toNat else 0
  let n : Nat := if e + 23 - k < 0 then mag else mag * 2 ^ (e + 23 - k).toNat
  let j := antilogBelow step n d (256 / step - 1)
  let mLow : Int := bias + (k * 256 + j) / unit
  let negZero := if s && hasNegZero f && !zsPlus then signBit f true else 0
  if mLow < 1 then
    -- below the smallest finite code: zero or the smallest code
    let one := antilogVal false (unbias f 1)
    match one with
    | .fin a ea =>
      let up := !rz && (match cmpDy (2 * mag) e a ea with | .gt => true | _ => false)
      if up then .ok (signBit f s + 1) else .ok negZero
    | _ => .ok 0
  else
    let lo := antilog j * 2 ^ d
    let hi := antilog (j + step) * 2 ^ d
    let up := !rz && (decide (lo + hi < 2 * n) || (decide (lo + hi = 2 * n) && decide (mLow % 2 = 1)))
    let mm := if up then mLow + 1 else mLow
    if (maxCode f : Int) < mm then writeOver f rz sat s
    else .ok ((if s then 2 ^ w else 0) + mm.toNat)

/-- A nonzero m × 2^e into an integer format: rounded, output zero point added, saturated (R51, R53). -/
def convertInt (f : Fmt) (rz : Bool) (m e zo : Int) : Conv :=
  let r := roundAt rz m.natAbs e 0
  let y : Int := (if m < 0 then -(r : Int) else r) + zo
  let (lo, hi) := intRange f
  let z := max lo (min hi y)
  ⟨wrapU f.width z, decide (z ≠ y), false⟩

/-- The settings of one conversion (R51, R83): RZ, SAT, every zero written as +0, output zero point. -/
structure ConvSet where
  rz : Bool
  sat : Bool
  zs : Bool
  zo : Int
  deriving DecidableEq, Repr

/-- An exact value, block scale already divided out, written in a format (R51-R53). -/
def convert (f : Fmt) (c : ConvSet) (v : Val) : Conv :=
  match v with
  | .nan => writeNan f c.zo
  | .inf s => writeInf f c.sat s
  | .zero s => .ok (writeZero f c.zo (s && !c.zs))
  | .fin m e =>
    if f.isInt then convertInt f c.rz m e c.zo
    else if f.isLog then convertLog f c.rz c.sat m e c.zs
    else convertFp f c.rz c.sat m e c.zs

/-- A value rounded to FP32 under RN (R138, R211). -/
def rn32 (v : Val) : Val := decode .fp32 (convert .fp32 ⟨false, false, false, 0⟩ v).code

/-- The block of a scaled target becomes NaN on an infinity or NaN (R53). -/
def nanBlockTarget (f : Fmt) (scaled : Bool) : Bool :=
  match f with
  | .fp4 => true | .l4 => true | .s8 => scaled | .s4 => scaled
  | _ => false

/-- F of R86: the largest magnitude the target holds for either sign, as m × 2^e. -/
def fmaxOf (f : Fmt) : Int × Int :=
  match f with
  | .s8 => (127, 0)
  | .s4 => (7, 0)
  | _ => match decode f (maxCode f) with
    | .fin m e => (m, e)
    | _ => (1, 0)

/-- The smallest integer s with a ≤ F × 2^s, by exact comparison (R86). -/
def leastScale (f : Fmt) (am ae : Int) : Int :=
  let (fm, fe) := fmaxOf f
  let g : Int := ((am.natAbs.log2 : Int) + ae) - ((fm.natAbs.log2 : Int) + fe)
  -- a and F × 2^g have the same leading bit, so s is g or g + 1
  match cmpDy am ae fm (fe + g) with
  | .gt => g + 1
  | _ => g

/-! ## Elementary functions -/

/-- ln 2 × 2^800, cut. -/
def ln2Fix : Nat := 4621915404083693673706875932675205015453565172230550426539967411210454986352689890721664442570866243885822531744113695039172807218199452359833764686208720506147098250020752592785330170224056724879031149859014393999526362059299592526015399857

/-- pi × 2^800, cut. -/
def piFix : Nat := 20948185156366061645643766395320583804404110054917410661001193935637068554322671606167204993106553114357255005533540283561029206848473842820348248606897488101457448383057018700235998647758998983149673314854554443134041172997893486965491011653

/-- The sum of `n` more terms of the exponential series at `r` × 2^-800, `t` being the present term. -/
def expTerms (r : Nat) : (n : Nat) → (i t : Nat) → Nat
  | 0, _, t => t
  | n + 1, i, t => t + expTerms r n (i + 1) (t * r / 2 ^ precBits / (i + 1))

/-- m × 2^e as a fixed-point integer of 800 binary places, rounded toward minus infinity. -/
def toFix (m e : Int) : Int :=
  let k := e + precBits
  if 0 ≤ k then m * 2 ^ k.toNat else m / 2 ^ (-k).toNat

/-- e^(x × 2^-800) for the fixed-point x. -/
def expFix (x : Int) : Val :=
  let k := x / (ln2Fix : Int)
  let r := (x - k * ln2Fix).toNat
  .fin (expTerms r 180 0 (2 ^ precBits)) (k - precBits)

/-- The magnitude of m × 2^e is at least 2^k. -/
def atLeastPow (m e : Int) (k : Int) : Bool := decide (k ≤ (m.natAbs.log2 : Int) + e)

/-- exp of a finite nonzero value; beyond 2^12 in magnitude, a stand-in far outside every format
(log entry 9). -/
def expDy (m e : Int) : Val :=
  if atLeastPow m e 12 then (if m < 0 then .fin 1 (-4096) else .fin 1 4096)
  else expFix (toFix m e)

/-- 2 to a finite nonzero power: exact where the power is an integer. -/
def exp2Dy (m e : Int) : Val :=
  if atLeastPow m e 12 then (if m < 0 then .fin 1 (-4096) else .fin 1 4096)
  else
    let x := toFix m e
    let k := x / 2 ^ precBits
    let f := x % 2 ^ precBits
    if f = 0 && decide (-(precBits : Int) ≤ e) then .fin 1 k
    else (expFix (f * ln2Fix / 2 ^ precBits)).scale k

/-- Terms of 2 atanh(z) = 2 (z + z^3/3 + ...) at fixed-point z, z2 = z^2, `p` the present power. -/
def atanhTerms (z2 : Nat) : (n : Nat) → (i p : Nat) → Nat
  | 0, _, _ => 0
  | n + 1, i, p => 2 * p / (2 * i + 1) + atanhTerms z2 n (i + 1) (p * z2 / 2 ^ precBits)

/-- ln of m × 2^e as a fixed-point integer, m positive. -/
def lnFix (m : Nat) (e : Int) : Int :=
  let l := m.log2
  let z := (m - 2 ^ l) * 2 ^ precBits / (m + 2 ^ l)
  ((l : Int) + e) * ln2Fix + atanhTerms (z * z / 2 ^ precBits) 270 0 z

/-- sin of the fixed-point angle (series terms, alternating). -/
def sinTerms (x2 : Nat) : (n : Nat) → (i t : Nat) → (neg : Bool) → Int
  | 0, _, _, _ => 0
  | n + 1, i, t, neg =>
    (if neg then -(t : Int) else t) +
      sinTerms x2 n (i + 2) (t * x2 / 2 ^ precBits / ((i + 1) * (i + 2))) (!neg)

/-- sin(pi f) for f × 2^-800 in (0, 1/2], as a value. -/
def sinPiFix (f : Nat) : Val :=
  let x := f * piFix / 2 ^ precBits
  Val.mk (sinTerms (x * x / 2 ^ precBits) 100 1 x false) (-(precBits : Int))

/-- cos(pi f) for f × 2^-800 in [0, 1/2). -/
def cosPiFix (f : Nat) : Val :=
  let x := f * piFix / 2 ^ precBits
  Val.mk (sinTerms (x * x / 2 ^ precBits) 100 0 (2 ^ precBits) false) (-(precBits : Int))

/-- sin(pi f) for a fixed-point f in [0, 1): by symmetry about 1/2, exact at 0 and 1/2. -/
def sinPiUnit (f : Nat) : Val :=
  let h := 2 ^ (precBits - 1)
  if f = 0 then .zero false
  else if f = h then .fin 1 0
  else if f < h then (if f < h / 2 then sinPiFix f else cosPiFix (h - f))
  else if 2 * h - f < h / 2 then sinPiFix (2 * h - f) else cosPiFix (f - h)

/-- sin(pi x), x = m × 2^e (R136). A zero takes the sign of x (IEEE 754-2019, 9.2). -/
def sinPiDy (m e : Int) : Val :=
  if 1 ≤ e then .zero (decide (m < 0))
  else
    let x := toFix m.natAbs e
    let n := x / 2 ^ precBits
    let v := sinPiUnit (x % 2 ^ precBits).toNat
    match v with
    | .zero _ => .zero (decide (m < 0))
    | _ => if (decide (n % 2 = 1)) != (decide (m < 0)) then v.negate else v

/-- cos(pi x): sin(pi (x + 1/2)), a zero being +0 (IEEE 754-2019, 9.2). -/
def cosPiDy (m e : Int) : Val :=
  if 1 ≤ e then .fin 1 0
  else
    let x := toFix m.natAbs e + 2 ^ (precBits - 1)
    let n := x / 2 ^ precBits
    let v := sinPiUnit (x % 2 ^ precBits).toNat
    match v with
    | .zero _ => .zero false
    | _ => if n % 2 = 1 then v.negate else v

/-- tanh of a finite nonzero value. Below 2^-40 and above 2^12 in magnitude it lies within 2^-80 of x or
of 1 and strictly below it; the stand-ins round in the same way (log entry 9). -/
def tanhDy (m e : Int) : Val :=
  let a := m.natAbs
  let r : Val :=
    if atLeastPow m e 12 then .fin (2 ^ 400 - 1) (-400)
    else if !atLeastPow m e (-40) then .fin ((a : Int) * (2 ^ 90 - 1)) (e - 90)
    else
      let t := expFix (toFix (-2 * (a : Int)) e)
      Val.div ((Val.fin 1 0).add t.negate) ((Val.fin 1 0).add t)
  if m < 0 then r.negate else r

/-- The positive square root of m × 2^e, m positive, with the sticky bit of `quot`. -/
def sqrtDy (m : Nat) (e : Int) : Val :=
  let m2 := if e % 2 = 0 then m else m * 2
  let e2 := if e % 2 = 0 then e else e - 1
  let n := m2 * 4 ^ precBits
  let r := Nat.sqrt n
  .fin (if r * r = n then 2 * r else 2 * r + 1) (e2 / 2 - precBits - 1)

/-- The exact value of a primitive function (R136, R137): SUB 0-9. -/
def primitive (sub : Nat) (v : Val) : Val :=
  match sub, v with
  | _, .nan => .nan
  | 0, .inf s => if s then .zero false else .inf false
  | 0, .zero _ => .fin 1 0
  | 0, .fin m e => expDy m e
  | 1, .inf s => if s then .zero false else .inf false
  | 1, .zero _ => .fin 1 0
  | 1, .fin m e => exp2Dy m e
  | 2, .inf s => if s then .nan else .inf false
  | 2, .zero _ => .inf true
  | 2, .fin m e => if m < 0 then .nan else Val.mk (if cmpDy m e 1 0 = .eq then 0 else lnFix m.natAbs e) (-(precBits : Int))
  | 3, .inf s => if s then .nan else .inf false
  | 3, .zero _ => .inf true
  | 3, .fin m e =>
    if m < 0 then .nan
    else
      let l := m.natAbs.log2
      if m.natAbs = 2 ^ l then Val.mk ((l : Int) + e) 0
      else Val.div (Val.mk (lnFix m.natAbs e) 0) (.fin ln2Fix 0)
  | 4, _ => Val.div (.fin 1 0) v
  | 5, .inf s => if s then .nan else .inf false
  | 5, .zero s => .zero s
  | 5, .fin m e => if m < 0 then .nan else sqrtDy m.natAbs e
  | 6, .inf s => if s then .nan else .zero false
  | 6, .zero s => .inf s
  | 6, .fin m e => if m < 0 then .nan else Val.div (.fin 1 0) (sqrtDy m.natAbs e)
  | 7, .inf s => .fin (if s then -1 else 1) 0
  | 7, .zero s => .zero s
  | 7, .fin m e => tanhDy m e
  | 8, .inf _ => .nan
  | 8, .zero s => .zero s
  | 8, .fin m e => sinPiDy m e
  | _, .inf _ => .nan
  | _, .zero _ => .fin 1 0
  | _, .fin m e => cosPiDy m e

/-- The two composites (R138): SUB 10 SIGMOID and 11 SILU, with the overriding results. -/
def composite (silu : Bool) (v : Val) : Val :=
  match v with
  | .nan => .nan
  | .inf s => if silu then (if s then .zero true else .inf false) else (if s then .zero false else .fin 1 0)
  | .zero s => if silu then .zero s else .fin 1 (-1)
  | .fin m e =>
    let t1 := rn32 (primitive 0 (.fin (-m) e))
    let t2 := rn32 ((Val.fin 1 0).add t1)
    if silu then Val.mul v (rn32 (Val.div (.fin 1 0) t2)) else Val.div (.fin 1 0) t2

/-- The function that SUB 0-11 of VFUN selects (R136). -/
def vfunVal (sub : Nat) (v : Val) : Val :=
  if sub = 10 then composite false v else if sub = 11 then composite true v else primitive sub v

end Sys2Proof.Machine
end

