-- ==== Sys2Proof/Machine/Types.lean ====
section
/-! DEFINITION. The parts of the state, grouped by the chapter of the spec that names them; every number is
kept in the range its rule gives. Sparse maps list only what differs from the reset value. -/

namespace Sys2Proof.Machine

/-! ## Synchronisation (spec 06) -/

/-- A stake (R157). -/
inductive StakeSt where
  | clear
  | set
  | abandoned
  deriving DecidableEq, Repr

/-- A stake and its entry of the stake table (R156). -/
structure Stake where
  st : StakeSt
  entry : BitVec 32
  deriving DecidableEq, Repr

/-- What an SWAIT or SWAITC waits for (R155). -/
inductive Want where
  | set
  | setClr
  | clear
  deriving DecidableEq, Repr

/-- Why the entry at a queue's head waits (R154, QSW.STATE 2-5). A stake is named by the key of its holder
and its index; `ack` waits for the acknowledgement of stake operations at other stations (R159, R242). -/
inductive WaitKind where
  | stake (holder idx : Nat) (want : Want)
  | closure (cid : Nat)
  | held (cid : Nat)
  | engine
  | ack
  deriving DecidableEq, Repr

/-- The entry that waits at a queue's head, and its address. -/
structure Head where
  addr : Nat
  entry : BitVec 128
  kind : WaitKind
  deriving DecidableEq, Repr

/-- Idle, running or stopped (R154); the waiting states follow from the head. -/
inductive QRun where
  | idle
  | running
  | stopped
  deriving DecidableEq, Repr

/-- One queue of one unit in one context (R152-R154, R168). `pc` is the address of the next entry to issue;
`failed` lists, for a tract, the entries that have ended by a member's failure and have not issued again, each with one
more than the index of the lowest failing member (R154). `branched` says that the queue stands at its handler address
by a branch (R152). `passed` lists the entries that the tract has passed on and that wait behind the head, oldest first
(R153). `since` is when the wait at the head began or was last restored, in 2^-8 ns, and `t2rem` what its limit was then, in
µs (R161, R411). -/
structure Queue where
  run : QRun
  head : Option Head
  pc : Nat
  handler : Option Nat
  status : Nat
  faddr : Nat
  failed : Map Nat
  branched : Bool
  fed : Bool
  passed : List (Nat × BitVec 128)
  loops : List Nat
  t2rem : Nat
  since : Nat
  deriving DecidableEq, Repr

/-- A queue with no program (R153, R154). -/
def Queue.empty : Queue := ⟨.idle, none, 0, none, 0, 0, [], false, false, [], [0, 0, 0, 0], 0, 0⟩

/-- The queue whose next entry has issued: the counter moves on, and the entry has not failed. -/
def Queue.advanced (w : Queue) : Queue :=
  { w with pc := (w.pc + 1) % 65536, failed := Map.del w.failed w.pc, branched := false }

/-- The synchronisation state of one context in one unit (R168): stakes by index, closure bits by closure
(bit 0 MEMBER, 1 PARITY, 2 PENDING, 3 HELD, R165), the four queues, the misuse counters and the W1C flags
of PSW (R160). -/
structure Sync where
  stakes : Map Stake
  closures : Map Nat
  qm : Queue
  qv : Queue
  qx : Queue
  qs : Queue
  doubleSet : Nat
  doubleClear : Nat
  orphan : Nat
  earlyExtra : Nat
  misuse : Bool
  msat : Bool
  abandon : Bool
  deriving DecidableEq, Repr

/-- Synchronisation state with nothing in it. -/
def Sync.empty : Sync :=
  ⟨[], [], Queue.empty, Queue.empty, Queue.empty, Queue.empty, 0, 0, 0, 0, false, false, false⟩

/-- A closure context is IDLE, OPEN or FAILED with the status of its failure (R167). -/
inductive ClSt where
  | idle
  | opened
  | failed (status : Nat)
  deriving DecidableEq, Repr

/-- One closure context of the device (R164-R167). `heldOrder` lists the held arrivals, oldest first, by
queue key; `t3` says that T3 runs, `limit` in µs with 0 already replaced (R412). -/
structure Closure where
  st : ClSt
  ctx : Nat
  parent : Nat
  child : List Nat
  units : List Nat
  limit : Nat
  parity : Bool
  count : Nat
  t3 : Bool
  t3limit : Nat
  heldOrder : List Nat
  deriving DecidableEq, Repr

/-- A closure context never set up. -/
def Closure.idle : Closure := ⟨.idle, 0, 0xFFFFFF, [], [], 0, false, 0, false, 0, []⟩

/-- A station tract (R151). -/
structure Stract where
  home : Nat
  order : Nat
  members : List Nat
  deriving DecidableEq, Repr

/-! ## The matrix array (spec 03, 04) -/

/-- A ledger and its sidecar (R57, R58, R60). VAL is kept in 160 or 640 bits of two's complement. -/
structure Ledger where
  val : Int
  wlsb : Int
  dp : Int
  dpset : Bool
  coupled : Bool
  wide : Bool
  pinf : Bool
  ninf : Bool
  nan : Bool
  allnz : Bool
  seen : Bool
  landed : Bool
  cnt : Nat
  deriving DecidableEq, Repr

/-- The four states of a segment (R109). -/
inductive SegSt where
  | empty
  | accumulating
  | parked
  | draining
  deriving DecidableEq, Repr

/-- One of the two segments of a parcel's array: its binding (R61), its ledgers by the index 16r + c of the
cell that holds piece 0 (R92), and its sum lane (R113). A cell without a listed ledger is clear. -/
structure Segment where
  st : SegSt
  dslot : Nat
  geom : Bool
  rows : Nat
  cols : Nat
  clear : Ledger
  ledgers : Map Ledger
  rowsum : Map Int
  colsum : Map Int
  deriving DecidableEq, Repr

/-- The clear ledger of an empty segment: the Clear column of R60 with no datum. -/
def Ledger.blank : Ledger := ⟨0, 0, 0, false, false, false, false, false, false, true, false, false, 0⟩

/-- An empty segment. -/
def Segment.empty : Segment := ⟨.empty, 0, false, 0, 0, Ledger.blank, [], [], []⟩

/-- A descriptor slot: the descriptor of R99 and what MDECL resolved for it (R100). -/
structure Slot where
  desc : BitVec 512
  dp : Int
  dpset : Bool
  wlsb : Int
  ds : Int
  deriving DecidableEq, Repr

/-- An MACC that is placing or pending: its address, its entry, and the steps already placed (R105). -/
structure MaccRun where
  addr : Nat
  entry : BitVec 128
  done : Nat
  deriving DecidableEq, Repr

/-- A finished tile in send staging (R118). Values and codes in row order over the full tile. -/
structure Tile where
  handle : Nat
  tidx : Nat
  rows : Nat
  cols : Nat
  fmt : Nat
  ds : Int
  zm : Bool
  values : List Nat
  codes : List Nat
  deriving DecidableEq, Repr

/-- A drain in progress: the segments that drain and what becomes visible at its end (R106), each write as
the half-byte address, the width in bits and the value. -/
structure Drain where
  seg0 : Bool
  seg1 : Bool
  writes : List (Nat × Nat × Nat)
  deriving DecidableEq, Repr

/-- The matrix state of one context in one parcel (R121). -/
structure Mat where
  seg0 : Segment
  seg1 : Segment
  slots : Map Slot
  cur : Option MaccRun
  pend : Option MaccRun
  drains : List Drain
  stage : List Tile
  deriving DecidableEq, Repr

/-- Matrix state with nothing in it. -/
def Mat.empty : Mat := ⟨Segment.empty, Segment.empty, [], none, none, [], []⟩

/-! ## The vector engine (spec 05) -/

/-- A vector entry in progress: its next group or row (R148), and the codes of its source that it has written over
(R143). -/
structure VRun where
  addr : Nat
  entry : BitVec 128
  group : Nat
  kept : Map Nat
  deriving DecidableEq, Repr

/-- The vector state of one context in one parcel (R148). -/
structure Vec where
  slots : Map (BitVec 512)
  ledgers : Map Ledger
  run : Option VRun
  deriving DecidableEq, Repr

/-- Vector state with nothing in it. -/
def Vec.empty : Vec := ⟨[], [], none⟩

/-! ## The X queue and the Archive (spec 07) -/

/-- An X entry in progress: granules or bytes of elements finished, and whether a line request of it is at a
slice (R177); while it waits for a place in its class queue, the slice clocks that it has waited (R183, R185). -/
structure XRun where
  addr : Nat
  entry : BitVec 128
  done : Nat
  asked : Bool
  delayed : Bool
  waited : Nat
  deriving DecidableEq, Repr

/-- One context in one unit. -/
structure Eng where
  sync : Sync
  mat : Mat
  vec : Vec
  x : Option XRun
  deriving DecidableEq, Repr

/-- A unit in which a context has nothing. -/
def Eng.empty : Eng := ⟨Sync.empty, Mat.empty, Vec.empty, none⟩

/-- The four classes of R183. -/
inductive Cls where
  | control
  | collective
  | bulk
  | background
  deriving DecidableEq, Repr

/-- A line request of an X entry at a slice: requester, class, device address, bytes, slice clocks it has
waited (R183, R185), how it ended, when it has been served, and whether it holds a miss-handling entry (R184). -/
structure SliceReq where
  eng : Nat
  cls : Cls
  addr : Nat
  len : Nat
  age : Nat
  served : Bool
  status : Nat
  miss : Bool
  deriving DecidableEq, Repr

/-- One Archive slice: requests in order of arrival, the keys whose request waits for a place in its class queue, in
order of arrival, and the clocks since a background request was last served while one waits (R183). Its lost-line table
is the lines of its buckets that `State.bad` marks so (R190). -/
structure Slice where
  reqs : List SliceReq
  wait : List Nat
  bgClocks : Nat
  deriving DecidableEq, Repr

/-- A slice with nothing in it. -/
def Slice.empty : Slice := ⟨[], [], 0⟩

/-- A line that a cache-mode shelf holds in a set: its tag, whether it is dirty (R179), and whether HBM is uncorrectable under
it (R201). -/
structure CLine where
  tag : Nat
  dirty : Bool
  under : Bool
  deriving DecidableEq, Repr

/-- One shelf: ARC.SHELFn (R178) and the target of a partition under way (R182). -/
structure Shelf where
  mode : Nat
  ctxm : Nat
  fw : Bool
  host : Bool
  qst : Nat
  target : Option (Nat × Nat × Bool × Bool)
  deriving DecidableEq, Repr

/-- One fingerprint unit (R194-R196). -/
structure FpUnit where
  poly : Nat
  scan : Bool
  en : Bool
  src : Nat
  srci : Nat
  busy : Bool
  base : Nat
  len : Nat
  acc : Nat
  cnt : Nat
  lat : Nat
  latCnt : Nat
  deriving DecidableEq, Repr

/-- A fingerprint unit after cold reset. -/
def FpUnit.reset : FpUnit := ⟨0, false, false, 0, 0, false, 0, 0, 0, 0, 0, 0⟩

/-- One window of BAR2 (R191). -/
structure B2Win where
  en : Bool
  wp : Bool
  base : Nat
  deriving DecidableEq, Repr

/-- The Archive and the fingerprint units. `cache` gives the lines of each set, the newest first, by 16,384 times the
bucket plus the set (R179); what the lines hold is in `State.mem`. -/
structure Arc where
  shelves : Map Shelf
  cache : Map (List CLine)
  slices : Map Slice
  dlyth : Nat
  b2win : Map B2Win
  fp : Map FpUnit
  deriving DecidableEq, Repr

/-! ## Contexts (spec 13) -/

/-- The states of R328. -/
inductive CtxSt where
  | free
  | loaded
  | starting
  | running
  | parked
  | slicing
  deriving DecidableEq, Repr

/-- One context (R328-R336): its image, the header's fields (R331), and the transitions that wait for the
one under way (R329): a pre-empt of the start, a slice-out after the pre-empt. `parking` says that a
pre-empt is under way. `fromImage` says that the start
under way is a slice-in, and `startAt` is when it began, in 2^-8 ns (R161). -/
structure Ctx where
  st : CtxSt
  ended : Bool
  nslice : Nat
  img : Nat
  fblo : Nat
  fbhi : Nat
  save : Nat
  foot : Nat
  parkNext : Bool
  sliceNext : Bool
  fromImage : Bool
  parking : Bool
  startAt : Nat
  deriving DecidableEq, Repr

/-- A FREE context. -/
def Ctx.free : Ctx :=
  ⟨.free, false, 0, 0, 0, 0, 0, 0, false, false, false, false, 0⟩

/-! ## The host interface (spec 14) -/

/-- A submission ring (R347-R351). `passed` counts consecutive fetches that passed it over; `bells` lists
the tails written and when, in µs, oldest first (R358). -/
structure SubRing where
  base : Nat
  en : Bool
  pri : Nat
  err : Bool
  head : Nat
  tail : Nat
  last : Nat
  passed : Nat
  bells : List (Nat × Nat)
  deriving DecidableEq, Repr

/-- A submission ring after cold reset. -/
def SubRing.reset : SubRing := ⟨0, false, 1, false, 0, 0, 0, 0, []⟩

/-- A receipt ring (R352-R354). -/
structure RcpRing where
  base : Nat
  en : Bool
  vec : Nat
  ccnt : Nat
  ctim : Nat
  tail : Nat
  head : Nat
  phase : Bool
  reserved : Nat
  unsignalled : Nat
  deriving DecidableEq, Repr

/-- A receipt ring after cold reset. -/
def RcpRing.reset : RcpRing := ⟨0, false, 0, 1, 0, 0, 0, true, 0, 0⟩

/-- A started command: its header fields, the submission head after its fetch, the objects it names as kind, first
and last index (R350), whether it is DELAYED (R358), whether it
has begun and waits for its end, and `items`: the items it has finished (R359), or 1 for an IMAGE_ACTIVATE whose image
failed its check on the unit (R420). `hushed`: a host reset came since, and nothing of it reaches the host (R456). `linkLate`: a
message of it waited too long to be injected (R244). `uid` tells it from every other. `params` are its parameters as the fetch
read them (R347). `holds`: it has started, and holds the objects that it names until its receipt (R350). Oldest first in the
list that holds it. -/
structure Started where
  op : Nat
  q : Nat
  acc : Nat
  rr : Nat
  direct : Bool
  fence : Bool
  delayed : Bool
  sqhead : Nat
  objs : List (Nat × Nat × Nat)
  begun : Bool
  items : Nat
  hushed : Bool
  linkLate : Bool
  uid : Nat
  params : List Byte
  holds : Bool
  deriving DecidableEq, Repr

/-- An action that waits in the context controller (R329): a start, or else a pre-empt, of a context. `cmd` is the
command that asks; `counts` says that a stakeout asks, whose action without an effect counts in BRG_NOP. -/
structure CtxAct where
  ctx : Nat
  start : Bool
  cmd : Option Started
  counts : Bool
  deriving DecidableEq, Repr

/-- A receipt that waits for D0 or for the end of a warm reset (R460, R360). -/
structure Receipt where
  rr : Nat
  status : Nat
  op : Nat
  event : Bool
  sq : Nat
  sqhead : Nat
  acc : Nat
  result : List Byte
  deriving DecidableEq, Repr

/-- The command interface. `stalled` lists the rings whose next command waits for a receipt slot or for a place among
the started firmware commands (R353, R357), `counted` those whose present fetch CMD_RCPT_STALL has counted (R372), `expired`
the `uid`s of the commands that T4 stopped and that run to their next item boundary (R359), `aborted` those of the security
commands that a warm reset met and that finish their sequence (R455); `rrPri` is the ring fetched last at
each priority (R351). -/
structure CmdIf where
  sub : Map SubRing
  stalled : List Nat
  counted : List Nat
  expired : List Nat
  aborted : List Nat
  rrPri : List Nat
  rcp : Map RcpRing
  evRing : Nat
  evEn : Bool
  evMask : Nat
  evOvf : Bool
  evSeq : Nat
  evLost : Nat
  dlyth : Nat
  fatalVec : Nat
  fatalEn : Bool
  wdog : Bool
  mgstop : Bool
  ddrop : Bool
  fwrun : Bool
  started : List Started
  nextUid : Nat
  late : List Receipt
  msix : Map Nat
  pba : Map Bool
  deriving DecidableEq, Repr

/-! ## Counters (spec 20) -/

/-- The counter store (R465-R473). `frozen` is the image while FROZEN; `copy` the snapshot under way: its
number, tag, whether a stakeout asked for it, whether it holds, its time, bearing validity, bearing and
revolution, and the shelf it writes to. -/
structure SnapCopy where
  n : Nat
  tag : Nat
  stakeout : Bool
  hold : Bool
  brgv : Bool
  time : Nat
  bearing : Nat
  rev : Nat
  shelf : Nat
  deriving DecidableEq, Repr

/-- Counter control and the store. -/
structure Ctr where
  store : Map Nat
  delta : Map Nat
  image : Option (Map Nat)
  held : Bool
  thawNext : Bool
  copy : Option SnapCopy
  sdone : Bool
  smiss : Bool
  ltag : Nat
  scount : Nat
  shelf : Nat
  en : Bool
  nSnap : Nat
  nPhase : Nat
  peerWait : Nat
  thrTime : Nat
  deriving DecidableEq, Repr

/-! ## Faults (spec 17) -/

/-- A fault log entry (R423). -/
structure LogEntry where
  index : Nat
  kind : Nat
  status : Nat
  sev : Nat
  brgv : Bool
  unit : Nat
  time : Nat
  bearing : Nat
  rev : Nat
  addr : Nat
  req : Nat
  count : Nat
  detail : List Byte
  deriving DecidableEq, Repr

/-- A unit in service, quiescing, quiesced, or held out of service after a failed boot self-test (R414,
R45). -/
inductive Svc where
  | inService
  | quiescing
  | quiesced
  | disabled
  deriving DecidableEq, Repr

/-- A row of a journal record for one fingerprint unit (R429). -/
structure JRow where
  result : Nat
  count : Nat
  latched : Bool
  poly : Nat
  deriving DecidableEq, Repr

/-- A replay under way (R431): the revolution, the copied rows of its record, and whether its flush has
happened. -/
structure Replay where
  rev : Nat
  rows : Map JRow
  flushed : Bool
  deriving DecidableEq, Repr

/-- The fault subsystem. A unit's epoch is its own count of resets plus `epochBase`, the warm resets (R416). -/
structure Flt where
  wlim : List Nat
  wlong : Nat
  next : Nat
  vlog : Map LogEntry
  plog : List LogEntry
  openIx : List Nat
  new : Bool
  drained : Bool
  flagged : Bool
  svc : Map Svc
  epochs : Map Nat
  epochBase : Nat
  spares : List Nat
  swapped : List Nat
  rseq : Nat
  frDropped : Nat
  frSecond : Nat
  frSent : Nat
  repeats : Map (Nat × List Byte)
  replay : Option Replay
  wdogLast : Option Nat
  scrubCorr : Map Nat
  deriving DecidableEq, Repr

/-! ## The bearing (spec 11) -/

/-- The states of R294. -/
inductive BrgSt where
  | unlocked
  | locked
  | coast
  | lost
  deriving DecidableEq, Repr

/-- The bearing engine (R282-R298). The bearing at a time is read from its anchor: `b0`, which was `lag` old at time `t0`,
rising by 2^32 in each period and never below `low` (R291); `top` says that it holds at the top. `lastTok` is the time of
the last token taken, or emitted on the datum device (R288). `fired` gives the revolution in which a stakeout last fired,
`late` the revolution in which it was committed after its bearing had passed (R296), `gone` the one in which it fell while
the bearing was LOST (R294), `due` the stakeouts of a sweep or a start that have still to issue, each with the revolution
that it fires in (R293, R296). -/
structure Brg where
  st : BrgSt
  failed : Bool
  run : Bool
  role : Bool
  fixed : Bool
  step : Bool
  cid : Nat
  pinit : Nat
  revinit : Nat
  tparent : Nat
  tpv : Bool
  tchild : List Nat
  loss : Nat
  b0 : Nat
  t0 : Nat
  lag : Nat
  low : Nat
  period : Nat
  rev : Nat
  top : Bool
  topTime : Nat
  wrapTime : Nat
  tseq : Nat
  src : Option (Nat × Nat)
  foreign : Nat
  lastTok : Nat
  edgeTime : Option Nat
  edgeGap : Option Nat
  stk : Map (List Nat)
  staged : Map (List Nat)
  fired : Map Nat
  late : Map Nat
  gone : Map Nat
  due : List (Nat × Nat)
  endB : Nat
  bar0At : Map Nat
  deriving DecidableEq, Repr

/-! ## The catalogue (spec 12) -/

/-- A catalogue entry (R304); `hist` newest at slot `head`. -/
structure CatEntry where
  hist : List Nat
  head : Nat
  seeded : Bool
  fmt : Nat
  delay : Nat
  margin : Nat
  psc : Nat
  wth : Nat
  zrun : Nat
  srun : Nat
  clamps : Nat
  lastrev : Nat
  zev : Bool
  sev : Bool
  cev : Bool
  deriving DecidableEq, Repr

/-- The defaults of R304, unseeded. -/
def CatEntry.default : CatEntry :=
  ⟨List.replicate 16 0, 0, false, 10, 2, 0, 255, 256, 0, 0, 0, 0, false, false, false⟩

/-- A catalogue command that waits for the wrap (R305). -/
inductive CatCmd where
  | config (first count fmt delay margin wth : Nat)
  | load (first : Nat) (entries : List CatEntry)
  | unseed (first count : Nat)
  deriving DecidableEq, Repr

/-- The reports of R89 that an entry gathered in this revolution (R320): every one SHED_ALL, some CLAMP. -/
structure CatReport where
  allShed : Bool
  anyClamp : Bool
  deriving DecidableEq, Repr

/-- One catalogue area: ARC.CATAREAc (R310). -/
structure CatArea where
  en : Bool
  addr : Nat
  deriving DecidableEq, Repr

/-- The catalogue engine. -/
structure Cat where
  entries : Map CatEntry
  reports : Map CatReport
  cmds : List CatCmd
  areas : Map CatArea
  lost : Bool
  busy : Bool
  areaErr : Bool
  skiprun : Nat
  lastvote : Nat
  sth : Nat
  heldSeeds : List Nat
  watches : Nat
  deriving DecidableEq, Repr

/-! ## Packets on their way out (spec 09) -/

/-- A packet that waits for a slot of a frame of the sub-port `path`: the time its residence counts from (R290), and
the sub-port it came in by, or 128 for one injected here (R241). -/
structure Outgoing where
  pkt : Packet
  path : Nat
  stamp : Nat
  inp : Nat
  deriving DecidableEq, Repr

end Sys2Proof.Machine
end

