-- ==== Sys2Proof/Machine/Ledger.lean ====
section
/-! DEFINITION. The ledger: placing products, segment images, Tally elements, finalisation
(spec 03, R57-R90). -/

namespace Sys2Proof.Machine

/-! ## Placing -/

/-- The counters of R90, in their order. -/
inductive ShedEv where
  | shedWhole | shedPart | breach | cntLimit | satFin | nanZero | clampHi | clampLo
  deriving DecidableEq, Repr

/-- The place of a counter of R90 in its unit's run of counters (R467). -/
def ShedEv.index : ShedEv → Nat
  | .shedWhole => 0 | .shedPart => 1 | .breach => 2 | .cntLimit => 3 | .satFin => 4 | .nanZero => 5
  | .clampHi => 6 | .clampLo => 7

/-- The greatest count of products (R59). -/
def Ledger.limit (l : Ledger) : Nat := if l.wide then 2 ^ 40 - 1 else 2 ^ 32 - 1

/-- Bits of VAL (R57). -/
def Ledger.bits (l : Ledger) : Nat := if l.wide then 640 else 160

/-- The narrow, wide or coupled ledger of R58, cleared (R60). -/
def Ledger.clearAs (wide coupled dpset : Bool) (dp wlsb : Int) : Ledger :=
  { Ledger.blank with wide := wide, coupled := coupled, dpset := dpset, dp := dp, wlsb := wlsb }

/-- |p| above 2^DP (R67). -/
def Ledger.breached (l : Ledger) (m e : Int) : Bool :=
  l.dpset && (match cmpDy m.natAbs e 1 l.dp with | .gt => true | _ => false)

/-- A finite nonzero product added to VAL, truncated toward zero (R69). -/
def Ledger.placeFin (l : Ledger) (m e : Int) : Ledger × List ShedEv :=
  let sh := e - l.wlsb
  let mag := m.natAbs
  let q : Nat := if 0 ≤ sh then mag * 2 ^ sh.toNat else mag / 2 ^ (-sh).toNat
  let ev : List ShedEv :=
    if 0 ≤ sh then []
    else if q = 0 then [.shedWhole]
    else if mag % 2 ^ (-sh).toNat ≠ 0 then [.shedPart] else []
  ({ l with landed := l.landed || decide (q ≠ 0),
            val := wrapS l.bits (l.val + (if m < 0 then -(q : Int) else q)) }, ev)

/-- One product placed (R67, R69, R71, R72). -/
def Ledger.place (l : Ledger) (p : Val) : Ledger × List ShedEv :=
  if l.cnt = l.limit then ({ l with nan := true }, [.cntLimit])
  else
    let l := { l with cnt := l.cnt + 1 }
    match p with
    | .nan => ({ l with nan := true }, [])
    | .inf false => ({ l with pinf := true, allnz := false }, [])
    | .inf true => ({ l with ninf := true, allnz := false }, [])
    | .zero false => ({ l with allnz := false }, [])
    | .zero true => (l, [])
    | .fin m e =>
      let l := { l with allnz := false, seen := true }
      if l.breached m e then ({ l with nan := true }, [.breach]) else l.placeFin m e

/-! ## Segment images (R61, R62) -/

/-- STATE of a segment image. -/
def SegSt.code : SegSt → Nat
  | .empty => 0
  | .accumulating => 1
  | .parked => 2
  | .draining => 1

/-- The image fields that describe the binding of the segment: bits [255:232] less PIECE. -/
def bindingBits (sg : Segment) : Nat :=
  if sg.st = .empty then 0
  else sg.st.code + sg.dslot * 2 ^ 4 + b2n sg.geom * 2 ^ 7 + sg.rows * 2 ^ 8 + sg.cols * 2 ^ 13

/-- The image of piece `p` of a ledger, its binding bits given from bit 232 up. -/
def Ledger.image (l : Ledger) (p binding : Nat) : Nat :=
  let v := wrapU l.bits l.val
  let piece := bitsOf v (160 * p) 160
  let side : Nat :=
    if p = 0 then
      wrapU 12 l.wlsb * 2 ^ 160 + wrapU 10 l.dp * 2 ^ 172 + b2n l.dpset * 2 ^ 182 + b2n l.pinf * 2 ^ 183
        + b2n l.ninf * 2 ^ 184 + b2n l.nan * 2 ^ 185 + b2n l.allnz * 2 ^ 186 + b2n l.seen * 2 ^ 187
        + b2n l.landed * 2 ^ 188 + b2n l.coupled * 2 ^ 189 + l.cnt * 2 ^ 192
    else 0
  piece + side + b2n l.wide * 2 ^ 190 + p * 2 ^ 234 + binding * 2 ^ 232

/-- The index of the cell that holds piece 0 of the gang of cell (r, c) (R92). -/
def gangBase (r c : Nat) : Nat := 16 * (r / 2 * 2) + c / 2 * 2

/-- The piece that cell (r, c) holds of its gang (R92). -/
def gangPiece (r c : Nat) : Nat := r % 2 * 2 + c % 2

/-- The ledger of a cell that holds piece 0. -/
def Segment.ledger (sg : Segment) (cell : Nat) : Ledger := Map.getD sg.ledgers cell sg.clear

/-- The image of cell (r, c) of a segment (R61, R92). -/
def Segment.cellImage (sg : Segment) (r c : Nat) : Nat :=
  let b := bindingBits sg
  let base := sg.ledger (gangBase r c)
  if base.wide then base.image (gangPiece r c) b else (sg.ledger (16 * r + c)).image 0 b

/-- The 256 images of a segment, 32 bytes each, cell (r, c) at index 16r + c (R110). -/
def Segment.images (sg : Segment) : List Byte :=
  (List.range 256).flatMap fun i => toLE 32 (sg.cellImage (i / 16) (i % 16))

/-- The sum lane of a segment: 16 row then 16 column sums of 8 bytes (R110, R113; the order inside the
256 B is log entry 20). -/
def Segment.laneBytes (sg : Segment) : List Byte :=
  (List.range 16).flatMap (fun i => toLE 8 (wrapU 64 (Map.getD sg.rowsum i 0))) ++
  (List.range 16).flatMap (fun i => toLE 8 (wrapU 64 (Map.getD sg.colsum i 0)))

/-- The sidecar and value of an image of piece 0, the three other pieces given for a wide ledger. -/
def Ledger.ofImage (w : Nat) (rest : List Nat) : Ledger :=
  let wide := w.testBit 190
  let v := bitsOf w 0 160 + (if wide then
    bitsOf (rest.getD 0 0) 0 160 * 2 ^ 160 + bitsOf (rest.getD 1 0) 0 160 * 2 ^ 320
      + bitsOf (rest.getD 2 0) 0 160 * 2 ^ 480 else 0)
  { val := sx (if wide then 640 else 160) v, wlsb := sx 12 (bitsOf w 160 12), dp := sx 10 (bitsOf w 172 10),
    dpset := w.testBit 182, coupled := w.testBit 189, wide := wide, pinf := w.testBit 183,
    ninf := w.testBit 184, nan := w.testBit 185, allnz := w.testBit 186, seen := w.testBit 187,
    landed := w.testBit 188, cnt := bitsOf w 192 40 }

/-- The checks of R62 that look at one image on its own. PIECE is zero where WIDE is 0, as R61 has it written (log entry
120). -/
def imageOk (w : Nat) : Bool :=
  bitsOf w 232 2 != 3 && bitsOf w 191 1 == 0 && bitsOf w 250 6 == 0 &&
  (bitsOf w 232 2 != 0 || bitsOf w 236 14 == 0) &&
  (if w.testBit 190 then
     bitsOf w 234 2 == 0 || (bitsOf w 160 30 == 0 && bitsOf w 192 40 == 0)
   else bitsOf w 234 2 == 0)

/-- The gang of cell (2i, 2j) is wholly wide with its pieces in place, or wholly narrow (R62). -/
def gangOk (img : Nat → Nat) (r c : Nat) : Bool :=
  let cells := [16 * r + c, 16 * r + c + 1, 16 * (r + 1) + c, 16 * (r + 1) + c + 1]
  if cells.any (fun i => (img i).testBit 190) then
    (cells.zipIdx).all fun ip => (img ip.1).testBit 190 && bitsOf (img ip.1) 234 2 == ip.2
  else true

/-- The segment that 256 images describe (R61, R62); `hasSlot` says which descriptor slots are loaded. -/
def segmentOfImages (img : Nat → Nat) (hasSlot : Nat → Bool) : Option Segment :=
  let w0 := img 0
  let same := fun (w : Nat) => bitsOf w 232 2 == bitsOf w0 232 2 && bitsOf w 236 14 == bitsOf w0 236 14
  let squares := (List.range 64).map fun k => (k / 8 * 2, k % 8 * 2)
  let ok := (List.range 256).all (fun i => imageOk (img i) && same (img i)) &&
    squares.all (fun rc => gangOk img rc.1 rc.2) &&
    (bitsOf w0 232 2 == 0 || hasSlot (bitsOf w0 236 3))
  if !ok then none
  else
    let st : SegSt := match bitsOf w0 232 2 with | 0 => .empty | 1 => .accumulating | _ => .parked
    let ledgers := (List.range 256).foldl (fun (m : Map Ledger) i =>
      let r := i / 16
      let c := i % 16
      if (img i).testBit 190 then
        if gangPiece r c = 0 then Map.put m i (Ledger.ofImage (img i) [img (i + 1), img (i + 16), img (i + 17)])
        else m
      else Map.put m i (Ledger.ofImage (img i) [])) []
    some { st := st, dslot := bitsOf w0 236 3, geom := w0.testBit 239, rows := bitsOf w0 240 5,
           cols := bitsOf w0 245 5, clear := Ledger.blank, ledgers := ledgers, rowsum := [], colsum := [] }

/-! ## Tally elements (R74-R82) -/

/-- Ds := Dp + ceil(log2 N) + 1 (R74). -/
def sumDatum (dp : Int) (n : Nat) : Int := dp + clog2 n + 1

/-- The special code of a ledger, with NZ in IEEE-zero mode (R77). -/
def Ledger.special (l : Ledger) (ieee : Bool) : Nat :=
  let c := if l.nan || (l.pinf && l.ninf) then 3 else if l.pinf then 1 else if l.ninf then 2 else 0
  c + (if ieee then 4 * b2n l.allnz else 0)

/-- The Tally element of a coupled ledger (R76). -/
def Ledger.tally (l : Ledger) (w : Nat) : Nat := if l.special false = 0 then wrapU w l.val else 0

/-- Two special codes combined: OR of [1:0] and AND of [2] (R78). -/
def codeCombine (ieee : Bool) (a b : Nat) : Nat :=
  (a % 4 ||| b % 4) + (if ieee then 4 * ((a / 4 % 2) &&& (b / 4 % 2)) else 0)

/-- The code of the Tally identity (R78). -/
def codeIdentity (ieee : Bool) : Nat := if ieee then 4 else 0

/-- Bits of a code, and codes in a 32-bit word (R79). -/
def codeBits (ieee : Bool) : Nat := if ieee then 3 else 2

/-- Codes that a 32-bit word holds (R79). -/
def codesPerWord (ieee : Bool) : Nat := if ieee then 10 else 16

/-- Code `k` of a packed code array starting at byte `a` (R79). -/
def codeAt (m : Memory) (ieee : Bool) (a k : Nat) : Nat :=
  let n := codesPerWord ieee
  bitsOf (m.readLE (a + 4 * (k / n)) 4) (codeBits ieee * (k % n)) (codeBits ieee)

/-- Memory with code `k` of a packed code array set; the bits of its word above the last code are written as zero (R79). -/
def setCodeAt (m : Memory) (ieee : Bool) (a k v : Nat) : Memory :=
  let n := codesPerWord ieee
  let w := a + 4 * (k / n)
  m.writeLE w 4 (setBits (m.readLE w 4 % 2 ^ (codeBits ieee * n)) (codeBits ieee * (k % n)) (codeBits ieee) v)

/-- Codes packed into 32-bit words, lower index at the lower bits (R79). -/
def packCodes (ieee : Bool) (cs : List Nat) : Nat :=
  let n := codesPerWord ieee
  (cs.zipIdx).foldl (fun acc ci => acc + ci.1 * 2 ^ (32 * (ci.2 / n) + codeBits ieee * (ci.2 % n))) 0

/-- A finished Tally element as a ledger (R82). -/
def ledgerOfTally (w : Nat) (ds : Int) (ieee : Bool) (t code : Nat) : Ledger :=
  { Ledger.blank with
    val := sx w t, wlsb := ds - ((w : Int) - 1), coupled := true,
    nan := decide (code % 4 = 3), pinf := decide (code % 4 = 1), ninf := decide (code % 4 = 2),
    allnz := ieee && decide (code / 4 % 2 = 1), cnt := 1 }

/-! ## Finalisation (R83-R90) -/

/-- The settings of one finalisation (R83). -/
structure FinSet where
  fmt : Fmt
  rz : Bool
  sat : Bool
  zs : Bool
  osc : Nat
  zo : Int
  deriving DecidableEq, Repr

/-- What finalising a block gave: its scale code, its element codes, the events to count, and whether R87
clamped it at 2^127. -/
structure FinOut where
  scale : Nat
  codes : List Nat
  events : List ShedEv
  clamp : Bool
  deriving DecidableEq, Repr

/-- A ledger that finalises to a finite value. -/
def Ledger.finite (l : Ledger) : Bool := !l.nan && !l.pinf && !l.ninf

/-- The larger magnitude of two. -/
def maxMag (a b : Val) : Val := Val.max a b.abs

/-- The events of a conversion. -/
def Conv.events (c : Conv) : List ShedEv :=
  (if c.sat then [.satFin] else []) ++ (if c.nanZero then [.nanZero] else [])

/-- Every zero of the ledger is written as +0: ZS, or a coupled ledger whose reduction is not in IEEE-zero mode (R85). -/
def Ledger.plusZero (l : Ledger) (f : FinSet) (ieee : Bool) : Bool := f.zs || (l.coupled && !ieee)

/-- One element finalised under the output scale exponent `s` (R84, R85); `ieee` is the mode of its reduction. `sat` is 1
for every element of a block whose scale was clamped, an infinity among them (R87, log entry 119). -/
def finaliseOne (f : FinSet) (sat : Bool) (s : Int) (ieee : Bool) (l : Ledger) : Conv :=
  let zs := l.plusZero f ieee
  let c : ConvSet := ⟨f.rz, sat, zs, f.zo⟩
  if l.nan || (l.pinf && l.ninf) then convert f.fmt c .nan
  else if l.pinf then convert f.fmt c (.inf false)
  else if l.ninf then convert f.fmt c (.inf true)
  else if l.val = 0 then .ok (writeZero f.fmt f.zo (!zs && l.allnz && decide (0 < l.cnt)))
  else convert f.fmt c (.fin l.val (l.wlsb - s))

/-- The scale exponent that R86 and R87 choose for a block of amax `a`: exponent, clamped at 2^127, clamped
at 2^-127. -/
def blockScale (f : Fmt) (a : Val) : Int × Bool × Bool :=
  match a with
  | .fin m e =>
    let s := leastScale f m e
    if 127 < s then (127, true, false) else if s < -127 then (-127, false, true) else (s, false, false)
  | _ => (0, false, false)

/-- One block of ledgers finalised, each with the zero mode of its reduction (R84-R87); `given` is the scale code for
OSC 0b01. -/
def finaliseBlock (f : FinSet) (given : Nat) (ls : List (Ledger × Bool)) : FinOut :=
  if f.osc = 1 && given = 255 then ⟨255, ls.map fun _ => 0, [], false⟩
  else if nanBlockTarget f.fmt (f.osc != 0) && ls.any (fun l => !l.1.finite) then
    ⟨255, ls.map fun _ => 0, [], false⟩
  else
    let a := ls.foldl (fun acc l => if l.1.finite then maxMag acc (Val.mk l.1.val l.1.wlsb) else acc) (.zero false)
    let bs := if f.osc = 2 then blockScale f.fmt a else (0, false, false)
    let s : Int := if f.osc = 0 then 0 else if f.osc = 1 then (given : Int) - 127 else bs.1
    let outs := ls.map fun l => finaliseOne f (f.sat || bs.2.1) s l.2 l.1
    ⟨(s + 127).toNat, outs.map (·.code),
      (if bs.2.1 then [.clampHi] else []) ++ (if bs.2.2 then [.clampLo] else []) ++ outs.flatMap Conv.events,
      bs.2.1⟩

/-- One block of exact values written in a format under an output scale, by the same rules (R132). -/
def writeBlock (f : FinSet) (given : Nat) (vs : List Val) : FinOut :=
  if f.osc = 1 && given = 255 then ⟨255, vs.map fun _ => 0, [], false⟩
  else if nanBlockTarget f.fmt (f.osc != 0) && vs.any (fun v => !v.isFinite) then
    ⟨255, vs.map fun _ => 0, [], false⟩
  else
    let a := vs.foldl (fun acc v => if v.isFinite then maxMag acc v else acc) (.zero false)
    let bs := if f.osc = 2 then blockScale f.fmt a else (0, false, false)
    let s : Int := if f.osc = 0 then 0 else if f.osc = 1 then (given : Int) - 127 else bs.1
    let outs := vs.map fun v => convert f.fmt ⟨f.rz, f.sat || bs.2.1, f.zs, f.zo⟩ (v.scale (-s))
    ⟨(s + 127).toNat, outs.map (·.code),
      (if bs.2.1 then [.clampHi] else []) ++ (if bs.2.2 then [.clampLo] else []) ++ outs.flatMap Conv.events,
      bs.2.1⟩

/-! ## Elements in memory (R28, R107) -/

/-- Element `k` of a stream of width `w` bits starting at byte `a`. -/
def elemAt (m : Memory) (a w k : Nat) : Nat :=
  if w = 4 then bitsOf (m.read (a + k / 2)).toNat (4 * (k % 2)) 4 else m.readLE (a + w / 8 * k) (w / 8)

/-- A write of `w` bits at a half-byte address. -/
def putNib (m : Memory) (nib w v : Nat) : Memory :=
  if w = 4 then
    m.write (nib / 2) (BitVec.ofNat 8 (setBits (m.read (nib / 2)).toNat (4 * (nib % 2)) 4 v))
  else m.writeLE (nib / 2) (w / 8) v

/-- The half-byte address of element `k` of a stream of width `w` starting at byte `a`. -/
def nibOf (a w k : Nat) : Nat := 2 * a + w / 4 * k

/-- A list of writes applied in order. -/
def putNibs (m : Memory) (ws : List (Nat × Nat × Nat)) : Memory :=
  ws.foldl (fun m w => putNib m w.1 w.2.1 w.2.2) m

/-- Bytes that `n` elements of width `w` take. -/
def elemBytes (w n : Nat) : Nat := (w * n + 7) / 8

end Sys2Proof.Machine
end

