-- ==== Sys2Proof/Machine/Crypto.lean ====
section
/-! DEFINITION. The digests and key derivations of the security unit: SHA-256 (FIPS 180-4), HMAC (FIPS 198-1), HKDF-Expand
(RFC 5869), and the keys that R438 derives with them. The standards' own text is not in the spec (log entry 147). -/

namespace Sys2Proof.Machine

/-- The round constants of SHA-256. -/
def shaK : List (BitVec 32) :=
  [0x428a2f98, 0x71374491, 0xb5c0fbcf, 0xe9b5dba5, 0x3956c25b, 0x59f111f1, 0x923f82a4, 0xab1c5ed5,
   0xd807aa98, 0x12835b01, 0x243185be, 0x550c7dc3, 0x72be5d74, 0x80deb1fe, 0x9bdc06a7, 0xc19bf174,
   0xe49b69c1, 0xefbe4786, 0x0fc19dc6, 0x240ca1cc, 0x2de92c6f, 0x4a7484aa, 0x5cb0a9dc, 0x76f988da,
   0x983e5152, 0xa831c66d, 0xb00327c8, 0xbf597fc7, 0xc6e00bf3, 0xd5a79147, 0x06ca6351, 0x14292967,
   0x27b70a85, 0x2e1b2138, 0x4d2c6dfc, 0x53380d13, 0x650a7354, 0x766a0abb, 0x81c2c92e, 0x92722c85,
   0xa2bfe8a1, 0xa81a664b, 0xc24b8b70, 0xc76c51a3, 0xd192e819, 0xd6990624, 0xf40e3585, 0x106aa070,
   0x19a4c116, 0x1e376c08, 0x2748774c, 0x34b0bcb5, 0x391c0cb3, 0x4ed8aa4a, 0x5b9cca4f, 0x682e6ff3,
   0x748f82ee, 0x78a5636f, 0x84c87814, 0x8cc70208, 0x90befffa, 0xa4506ceb, 0xbef9a3f7, 0xc67178f2]

/-- The initial hash value of SHA-256. -/
def shaInit : List (BitVec 32) :=
  [0x6a09e667, 0xbb67ae85, 0x3c6ef372, 0xa54ff53a, 0x510e527f, 0x9b05688c, 0x1f83d9ab, 0x5be0cd19]

/-- The message schedule of a block of sixteen words, newest word first. -/
def shaSchedule (w : List (BitVec 32)) : List (BitVec 32) :=
  (List.range 48).foldl (fun ws _ =>
    let x := ws.getD 1 0
    let y := ws.getD 14 0
    let s1 := x.rotateRight 17 ^^^ x.rotateRight 19 ^^^ (x >>> 10)
    let s0 := y.rotateRight 7 ^^^ y.rotateRight 18 ^^^ (y >>> 3)
    (s1 + ws.getD 6 0 + s0 + ws.getD 15 0) :: ws) w.reverse

/-- One round on the eight working words. -/
def shaRound (v : List (BitVec 32)) (kw : BitVec 32 × BitVec 32) : List (BitVec 32) :=
  match v with
  | [a, b, c, d, e, f, g, h] =>
    let t1 := h + (e.rotateRight 6 ^^^ e.rotateRight 11 ^^^ e.rotateRight 25) + ((e &&& f) ^^^ (~~~e &&& g)) + kw.1 + kw.2
    let t2 := (a.rotateRight 2 ^^^ a.rotateRight 13 ^^^ a.rotateRight 22) + ((a &&& b) ^^^ (a &&& c) ^^^ (b &&& c))
    [t1 + t2, a, b, c, d + t1, e, f, g]
  | v => v

/-- The hash value after one block. -/
def shaBlock (hs w : List (BitVec 32)) : List (BitVec 32) :=
  List.zipWith (· + ·) hs ((shaK.zip (shaSchedule w).reverse).foldl shaRound hs)

/-- The big-endian words of a string of bytes. -/
def shaWords : List Byte → List (BitVec 32)
  | a :: b :: c :: d :: rest => (a ++ b ++ c ++ d : BitVec 32) :: shaWords rest
  | _ => []

/-- The padding of a message of `n` bytes. -/
def shaPad (n : Nat) : List Byte := 0x80 :: List.replicate ((119 - n % 64) % 64) 0 ++ (toLE 8 (8 * n)).reverse

/-- The hash value after `n` blocks of words. -/
def shaBlocks : (n : Nat) → List (BitVec 32) → List (BitVec 32) → List (BitVec 32)
  | 0, hs, _ => hs
  | n + 1, hs, ws => shaBlocks n (shaBlock hs (ws.take 16)) (ws.drop 16)

/-- SHA-256 of a message, most significant byte first (R436). -/
def sha256 (m : List Byte) : List Byte :=
  let ws := shaWords (m ++ shaPad m.length)
  (shaBlocks (ws.length / 16) shaInit ws).flatMap fun w => (toLE 4 w.toNat).reverse

/-- HMAC-SHA-256 (R436). -/
def hmacSha256 (key m : List Byte) : List Byte :=
  let k := bytesAt (if key.length ≤ 64 then key else sha256 key) 0 64
  sha256 (k.map (· ^^^ 0x5C) ++ sha256 (k.map (· ^^^ 0x36) ++ m))

/-- `n` blocks of HKDF-Expand, after the block `t` of number `i`. -/
def hkdfBlocks (prk info : List Byte) : (n i : Nat) → List Byte → List Byte
  | 0, _, _ => []
  | n + 1, i, t =>
    let t1 := hmacSha256 prk (t ++ info ++ toLE 1 i)
    t1 ++ hkdfBlocks prk info n (i + 1) t1

/-- HKDF-Expand with SHA-256 (R436). -/
def hkdfExpand (prk info : List Byte) (len : Nat) : List Byte := (hkdfBlocks prk info ((len + 31) / 32) 1 []).take len

/-- An ASCII string without terminator (R438). -/
def ascii (s : String) : List Byte := s.toList.map fun c => BitVec.ofNat 8 c.toNat

/-- slh_keygen_internal of the parameter set of R436: the 96-byte private key SK.seed, SK.prf, PK.seed, PK.root, whose last
half is the public key. -/
def slhKeygen (skSeed skPrf pkSeed : List Byte) : List Byte :=
  skSeed ++ skPrf ++ pkSeed ++ toLE 24 (Config.slhRoot skSeed pkSeed).toNat

/-- The public key of a private key. -/
def slhPub (key : List Byte) : List Byte := bytesAt key 48 48

/-- A key from 72 derived bytes (R438). -/
def keyFrom (s : List Byte) : List Byte := slhKeygen (bytesAt s 0 24) (bytesAt s 24 24) (bytesAt s 48 24)

/-- CDI, from the unique device seed and FSTATE (R438). -/
def cdiOf (uds : List Byte) (fstate : Nat) : List Byte := hmacSha256 uds (ascii "GOLEO-CDI" ++ toLE 4 fstate)

/-- The IDK private key (R438). -/
@[irreducible] def idkOf (uds : List Byte) (fstate : Nat) : List Byte := keyFrom (hkdfExpand (cdiOf uds fstate) (ascii "GOLEO-IDK") 72)

/-- The ATK private key, which follows every anti-rollback counter (R438). -/
@[irreducible] def atkOf (uds : List Byte) (fstate : Nat) (arb : List Nat) : List Byte :=
  keyFrom (hkdfExpand (hmacSha256 (cdiOf uds fstate) (ascii "GOLEO-ATK" ++ arb.flatMap (toLE 4))) (ascii "GOLEO-ATK") 72)

end Sys2Proof.Machine
end

