-- ==== Sys2Proof/Machine/Parts.lean ====
section
/-! DEFINITION. The parts of the state of the stacks and Binderies, the links and the fabric, the collectives,
power, security and the module (spec 08, 09, 10, 16, 18, 21). -/

namespace Sys2Proof.Machine

/-! ## Stacks and Binderies (spec 08) -/

/-- One HBM stack: HBM.STATn and HBM.SHAREn (R202, R203), the days on which each row gave corrected errors,
and the repairs scheduled (R201). -/
structure Stack where
  st : Nat
  rmul : Nat
  thr : Bool
  stop : Bool
  temp : Nat
  bnd : Nat
  days : Map (List Nat)
  soft : List Nat
  hard : List Nat
  ecs : Nat
  deriving DecidableEq, Repr

/-- A stack in service after cold reset (R197, R199). -/
def Stack.reset : Stack := ⟨1, 0, false, false, 0, 12, [], [], [], 0⟩

/-- A descriptor that a Bindery has taken (R206): its context, or none for the host queue, its index, its 128
bytes, and what it has done so far: elements or rows done, its result, and the lines it wrote that no fingerprint unit has
captured yet (R208, R216, R219). -/
structure BndRun where
  ctx : Option Nat
  ix : Nat
  desc : List Byte
  ran : Bool
  status : Nat
  skipped : Bool
  sat : Bool
  clamp : Bool
  doneN : Nat
  result : List Byte
  outs : List Nat
  deriving DecidableEq, Repr

/-- A Bindery's queue for one context (R204): where its program lies, how many descriptors it has, the index
of the next, and a descriptor that pre-emption set aside (R208). -/
structure BndQueue where
  base : Nat
  count : Nat
  pc : Nat
  run : QRun
  saved : Option BndRun
  deriving DecidableEq, Repr

/-- A Bindery queue with no program. -/
def BndQueue.empty : BndQueue := ⟨0, 0, 0, .idle, none⟩

/-- One Bindery: context queues, the host queue with the accession number of each descriptor's command, the context
served last, the running descriptor, the queues whose head waits on a stake, oldest first (8 is the host queue), and the
host descriptor at the head of its queue that a drain or D3hot set aside (R426, R460). -/
structure Bindery where
  queues : Map BndQueue
  hostq : List (List Byte)
  hostAcc : List Nat
  last : Nat
  cur : Option BndRun
  waitOrder : List Nat
  hostSaved : Option BndRun
  deriving DecidableEq, Repr

/-- A Bindery with nothing in it. -/
def Bindery.empty : Bindery := ⟨[], [], [], 7, none, [], none⟩

/-! ## Links (spec 09) -/

/-- A slot of a frame: its 5-bit code and its 64 bytes. -/
abbrev Slot64 := Nat × List Byte

/-- A packet partly sent or partly received on one VL: its slots still to send, or those received and how many
are missing; `pkt` is the packet that is being sent. -/
structure Partial where
  vl : Nat
  slots : List (List Byte)
  left : Nat
  pkt : Option Packet
  deriving DecidableEq, Repr

/-- One sub-port, by path id (R223-R235): WEN.PSTATp and WEN.DLYp, the transmit and receive sides of replay and
credit, the training exchange, and the lanes that show signal. `unacked` lists the packets whose last slot went in a
frame still held; `rplAck` is the ACK of the last resend with the time at which it began, `rplNext` that of one still to begin
(R232); `drr` is the lane that the deficit round robin serves and what it may still send, `rr` the input
served last on each lane (R241). -/
structure SubPort where
  st : Nat
  reason : Nat
  epoch : Nat
  nbrSn : Nat
  nbrPid : Nat
  nbrEpoch : Nat
  oneway : Nat
  retrains : Nat
  fast : Bool
  retry : Bool
  fails : Nat
  follow : Bool
  fastNext : Bool
  lanes : Nat
  txSeq : Nat
  ack : Nat
  noAck : Bool
  held : List (Nat × List Slot64)
  resend : List Nat
  rplAck : Option (Nat × Nat)
  rplNext : Option Nat
  pendRpl : Bool
  cred0 : List Nat
  credIn : List Nat
  sent : List Nat
  freed : List Nat
  tx : List Partial
  rx : List Partial
  drr : Nat × Nat
  rr : List Nat
  unacked : List (Nat × Packet)
  echo : Nat
  echoAt : Nat
  aligned : Nat
  ready : Bool
  ddone : Bool
  dcount : Nat
  best : Nat
  tseq : Nat
  sentAt : List Nat
  deriving DecidableEq, Repr

/-- A sub-port of an enabled port after cold reset: in DETECT with no signal (R233). -/
def SubPort.reset : SubPort :=
  { st := 2, reason := 0, epoch := 0, nbrSn := 0xFFFFFF, nbrPid := 0, nbrEpoch := 0, oneway := 0, retrains := 0, fast := false,
    retry := false, fails := 0, follow := false, fastNext := false, lanes := 0, txSeq := 0, ack := 0xFFF,
    noAck := true, held := [], resend := [], rplAck := none, rplNext := none, pendRpl := false, cred0 := List.replicate 8 0,
    credIn := List.replicate 8 0, sent := List.replicate 8 0, freed := List.replicate 8 0, tx := [], rx := [],
    drr := (3, 0), rr := List.replicate 8 128, unacked := [], echo := 0, echoAt := 0, aligned := 0, ready := false, ddone := false, dcount := 0,
    best := 0, tseq := 0, sentAt := [] }

/-- WEN.PCTLn. -/
structure PortCtl where
  en : Bool
  split : Nat
  reach : Bool
  w : List Nat
  deriving DecidableEq, Repr

/-- WEN.PCTLn after cold reset; EN, SPLIT and REACH come from the image (log entry 30). -/
def PortCtl.reset : PortCtl := ⟨true, 0, false, [8, 8, 4, 2]⟩

/-- A firmware message that waits for its MACK (R243): destination, channel, payload, repetitions so far, and
the command that ends with it. -/
structure FwMsg where
  mseq : Nat
  dst : Nat
  chan : Nat
  payload : List Byte
  tries : Nat
  cmd : Option Started
  deriving DecidableEq, Repr

/-- Routing and firmware messages (R236-R243). `inbox` lists the packets received and not yet handled, `loop` those that
this station sent to itself, `kept` those that came before the last full training of their sub-port (R229);
`answered` the status with which each message of each sender was answered; `acks` the stake slips that their station has
not acknowledged, each with the queue that sent it (R159, R242). -/
structure Fabric where
  snLock : Bool
  b : Nat
  rtr : Map Nat
  rtl : Map Nat
  dlyth : Nat
  ctl : Map PortCtl
  mseq : Nat
  waiting : List FwMsg
  answered : List (Nat × Nat × Nat)
  inbox : List Packet
  loop : List Packet
  kept : List Packet
  acks : List (Nat × List Byte)
  deriving DecidableEq, Repr

/-- The fabric after cold reset. -/
def Fabric.reset : Fabric := ⟨false, 10, [], [], 64, [], 0, [], [], [], [], [], []⟩

/-! ## Collectives (spec 10) -/

/-- The states of R256. -/
inductive ColSt where
  | idle
  | armed
  | running
  | complete
  deriving DecidableEq, Repr

/-- A tile position of the fabric reduction slots (R266). -/
structure ColPos where
  tidx : Nat
  mcnt : Nat
  vals : List Nat
  codes : List Nat
  deriving DecidableEq, Repr

/-- The run of a collective. `ds` and `nrows` are the run block (R258); `first` the datum and WC of the first
tile met (R270); `owned` counts the contributions added to each own tile; `bytes` the bytes taken from each
owner or sender; `held` the permute bytes that wait, each with whether it lies in scratch (R274); `t3` the limit of the run in
µs (R412). -/
structure ColRun where
  ds : Nat
  nrows : Nat
  first : Option (Nat × Nat)
  rcv : Nat
  next : Nat
  stagedQ : List Nat
  staged : List Nat
  got : List Nat
  pos : List ColPos
  owned : Map Nat
  bytes : Map Nat
  counts : Map Nat
  held : List (Nat × Nat × Nat)
  taken : Nat
  dropped : Nat
  evict : Nat
  sentAll : Bool
  lastSend : Nat
  slip : List Byte
  slipOwn : Bool
  slipFrom : List Nat
  slipUp : Bool
  result : Bool
  status : Nat
  failsn : Nat
  t3 : Nat
  deriving DecidableEq, Repr

/-- A run with nothing done. -/
def ColRun.empty : ColRun :=
  { ds := 0, nrows := 0, first := none, rcv := 0, next := 0, stagedQ := [], staged := [], got := [], pos := [],
    owned := [], bytes := [], counts := [], held := [], taken := 0, dropped := 0, evict := 0, sentAll := false,
    lastSend := 0, slip := [], slipOwn := false, slipFrom := [], slipUp := false, result := false, status := 0,
    failsn := 0xFFFFFF, t3 := 0 }

/-- An open collective, or one whose open waits for an admission round: its record, its accession number, its
grant with the REASON of R254, its state, its run number, its run, the epochs recorded (R261), and the slip
contributions held for the next run (R256). -/
structure Col where
  r : ColRec
  schild : List Nat
  limit : Nat
  acc : Nat
  waiting : Bool
  grant : Nat
  reason : Nat
  st : ColSt
  run : Nat
  cur : ColRun
  epochs : Map Nat
  early : List (Nat × List Byte)
  deriving DecidableEq, Repr

/-! ## Power (spec 16) -/

/-- A change of operating point under way (R390): the target, and whether its switch has been decided, so that
only the ramp after it is still under way. -/
structure OppChange where
  target : Nat
  switched : Bool
  deriving DecidableEq, Repr

/-- An episode of a throttle reason (R403). `stack` is the stack of MEM; `outSince` says since when the reason
has been out of force. -/
structure Episode where
  reason : Nat
  stack : Nat
  effMax : Nat
  brgv : Bool
  bearing : Nat
  rev : Nat
  time : Nat
  lastIn : Nat
  outSince : Option Nat
  sumB : Nat
  updates : Nat
  outB : Nat
  outUpdates : Nat
  outEff : Nat
  ix : Nat
  deriving DecidableEq, Repr

/-- An entry of the throttle log (R403). -/
structure ThrEntry where
  ep : Episode
  isOpen : Bool
  deriving DecidableEq, Repr

/-- The filler (R400): profile, firing time, the duty at the firing in units of 2^-16, and the moment of
release with the duty then. Times are in 2^-8 ns. -/
structure FillRun where
  k : Nat
  fireAt : Nat
  duty0 : Nat
  rev : Nat
  released : Option (Nat × Nat)
  deriving DecidableEq, Repr

/-- The power controller (R387-R404). -/
structure Pwr where
  cap : Nat
  mode : Bool
  gain : Nat
  bmax : Nat
  extb : Nat
  req : Nat
  src : Bool
  tceil : Nat
  cceil : Nat
  eff : Nat
  pend : Bool
  change : Option OppChange
  bcap : Nat
  bcur : Nat
  b : Nat
  maxRun : Nat
  zeroRun : Nat
  emergency : Bool
  tripped : Bool
  ext : Bool
  stretched : List Nat
  droop : Bool
  fills : Map Nat
  fill : Option FillRun
  episodes : List Episode
  log : Map ThrEntry
  next : Nat
  logged : Bool
  deriving DecidableEq, Repr

/-- The power controller after cold reset. -/
def Pwr.reset : Pwr :=
  { cap := 5200, mode := true, gain := 64, bmax := 224, extb := 128, req := 0, src := false, tceil := 0, cceil := 0,
    eff := 0, pend := false, change := none, bcap := 0, bcur := 0, b := 0, maxRun := 0, zeroRun := 0,
    emergency := false, tripped := false, ext := false, stretched := [], droop := false, fills := [], fill := none,
    episodes := [], log := [], next := 0, logged := false }

/-! ## Security (spec 18) -/

/-- An image of a class: its version, security version, key slot and digest, and its bytes (R442). -/
structure Image where
  version : Nat
  svn : Nat
  kslot : Nat
  digest : Nat
  bytes : List Byte
  deriving DecidableEq, Repr

/-- The security unit (R436-R452): fuses (R437; `dbgOpen` of the state is DBGOPEN), session, keys (R440), images. `idk` and `atk`
are the private keys, 96 bytes each, or none; `cdi` is the copy of CDI, zeroised between commands (R439); `sessionKey` and
`ideKeys` are the keys of the session and of the streams. `active` and `inactive` are the two copies of each class in the
module's memory, a class without an entry holding the image from manufacture (R444). -/
structure Sec where
  uds : List Byte
  ikh : List (List Byte)
  dkh : List Byte
  ikrev : Nat
  arb : Map Nat
  idk : List Byte
  atk : List Byte
  cdi : List Byte
  tapOpen : Bool
  session : Bool
  sessionKey : Nat
  ide : Map Bool
  ideKeys : Map Nat
  jobKeys : Map Nat
  staged : Map Image
  active : Map Image
  inactive : Map Image
  nodbg : Bool
  noimg : Bool
  lock : Bool
  deriving DecidableEq, Repr

/-- The security unit after cold reset, before the boot ROM has derived its keys. -/
def Sec.reset : Sec :=
  ⟨(List.range 32).map Config.uds, (List.range 4).map fun k => (List.range 32).map (Config.ikh k), (List.range 32).map Config.dkh,
    0, [], [], [], List.replicate 32 0, false, false, 0, [], [], [], [], [], [], false, false, false⟩

/-- The sixteen anti-rollback counters. -/
def Sec.arbs (x : Sec) : List Nat := (List.range 16).map fun k => Map.getD x.arb k 0

/-- The keys that R438 derives. -/
def Sec.keyed (x : Sec) (dbgOpen : Bool) : Sec :=
  { x with idk := idkOf x.uds (if dbgOpen then 1 else 0), atk := atkOf x.uds (if dbgOpen then 1 else 0) x.arbs }

/-- The end of the SPDM session and of the IDE streams, with their keys (R440). -/
def Sec.sessionEnds (x : Sec) : Sec := { x with session := false, sessionKey := 0, ide := [], ideKeys := [] }

/-- Checks 3 and 5 of R443 on an image's bytes. -/
def Sec.sealed (x : Sec) (i : Image) : Bool :=
  decide (i.kslot < 4) && !x.ikrev.testBit i.kslot && sha256 (bytesAt i.bytes 64 48) == x.ikh.getD i.kslot [] &&
    sha256 (i.bytes.drop 16336) == bytesAt i.bytes 16 32

/-- The two copies of a class change places (R444). -/
def Sec.swapCopies (x : Sec) (cls : Nat) : Sec :=
  let put := fun (m : Map Image) (i : Option Image) => match i with | some v => Map.put m cls v | none => Map.del m cls
  { x with active := put x.active (Map.find x.inactive cls), inactive := put x.inactive (Map.find x.active cls) }

/-! ## The module (spec 19, 21) -/

/-- What the tests of a cold reset find (R45, R199, R446): parcels and vector engines whose copy of the antilog table
differs, Binderies whose copy differs, stacks that do not train, and the image classes whose active copy, or whose other
copy, fails a check that needs cryptography or the image's own bytes. -/
structure Boot where
  parcels : List (Fin 16384)
  vectors : List (Fin 16384)
  binderies : List (Fin 12)
  untrained : List (Fin 12)
  active : List (Fin 7)
  other : List (Fin 7)
  deriving DecidableEq, Repr

/-- Supplies, references, reset pin, gated domains and side band (R382, R459, R477-R485). `hostLink` is bits [8:0] of
PCL.LINK; `awake` lists the domains that an access woke in D3hot (R302, R378; log entry 48); `napped` lists the contexts that
the entry to D3hot pre-empted (R460, R461); `warmNext` says that a warm reset waits for TMAX to fall below 90 °C (R398); `lBack` counts the windows since the link reference returned, up
to the 100 after which the ports train (R480); `boot` is what the tests of the next cold reset will find, the model's own field
(log entry 50). -/
structure Module where
  v50 : Bool
  v12 : Bool
  mrst : Bool
  refH : Bool
  refL : Bool
  ready : Bool
  hLost : Bool
  lLost : Bool
  gated : Map Bool
  awake : List Nat
  alertLow : Bool
  tripLow : Bool
  cursor : Nat
  mgmtUp : Bool
  hostLink : Nat
  napped : List Nat
  warmNext : Bool
  lBack : Nat
  boot : Boot
  deriving DecidableEq, Repr

/-- The module after cold reset: both inputs in range, MRST# released, both references present. -/
def Module.reset : Module := ⟨true, true, false, true, true, true, false, false, [], [], false, false, 0, true, 0xC3, [], false, 100, ⟨[], [], [], [], [], []⟩⟩

end Sys2Proof.Machine
end

