-- ==== Sys2Proof/Machine/Units.lean ====
section
/-! DEFINITION. Units, tract paths and keys (R18, R149, R150, R376). A unit is its index in the order of the
unit blocks: parcels 0-16383, order-1 tracts from 16384, order-2 from 17408, order-3 from 17472, the die
17476. -/

namespace Sys2Proof.Machine

/-- The first index of the units of an order (R376). -/
def orderBase : Nat → Nat
  | 0 => 0 | 1 => 16384 | 2 => 17408 | 3 => 17472 | _ => 17476

/-- The order of a unit. -/
def unitOrder (u : Nat) : Nat :=
  if u < 16384 then 0 else if u < 17408 then 1 else if u < 17472 then 2 else if u < 17476 then 3 else 4

/-- The index of a unit among the units of its order. -/
def unitIx (u : Nat) : Nat := u - orderBase (unitOrder u)

/-- Parcels under one unit of an order. -/
def orderSpan : Nat → Nat
  | 0 => 1 | 1 => 16 | 2 => 256 | 3 => 4096 | _ => 16384

/-- The enclosing tract of an order (or the unit itself, at its own order). -/
def enclosing (u k : Nat) : Nat := orderBase k + unitIx u * orderSpan (unitOrder u) / orderSpan k

/-- The members of a tract, one order below, in ascending index. -/
def members (u : Nat) : List Nat :=
  match unitOrder u with
  | 0 => []
  | 4 => (List.range 4).map (17472 + ·)
  | k + 1 => (List.range 16).map fun i => orderBase k + 16 * unitIx u + i

/-- The first parcel under a unit. -/
def firstParcel (u : Nat) : Nat := unitIx u * orderSpan (unitOrder u)

/-- `v` is `u` or lies under it. -/
def within (v u : Nat) : Bool := decide (unitOrder v ≤ unitOrder u) && enclosing v (unitOrder u) == u

/-- The 17-bit device path of a unit (R150). -/
def unitPath (u : Nat) : Nat :=
  let p := firstParcel u
  let k := unitOrder u
  k + (if k < 4 then p / 4096 % 4 * 8 else 0) + (if k < 3 then p / 256 % 16 * 32 else 0)
    + (if k < 2 then p / 16 % 16 * 512 else 0) + (if k < 1 then p % 16 * 8192 else 0)

/-- The unit that a device path names; none for a reserved ORD or a nonzero index below its order (R150). -/
def pathUnit (w : Nat) : Option Nat :=
  let k := bitsOf w 0 3
  if 4 < k then none
  else
    let p := bitsOf w 3 2 * 4096 + bitsOf w 5 4 * 256 + bitsOf w 9 4 * 16 + bitsOf w 13 4
    let u := orderBase k + p / orderSpan k
    if unitPath u = w % 2 ^ 17 then some u else none

/-- The order-2 tracts (bits of FOOT, R331) that lie under a unit or hold it. -/
def order2Of (u : Nat) : List Nat :=
  match unitOrder u with
  | 3 => (List.range 16).map (16 * unitIx u + ·)
  | 4 => List.range 64
  | _ => [enclosing u 2 - 17408]

/-- The unit has a part in a footprint. A tract of order 3 or 4 is present when any order-2 tract under it
is (log entry 11). -/
def inFoot (foot u : Nat) : Bool := (order2Of u).any fun i => foot.testBit i

/-- The key of a context's state in a unit; a station tract of handle h is the pseudo-unit 65536 + h
(R151). -/
def engKey (c u : Nat) : Nat := c * 2 ^ 18 + u

/-- The context of a key. -/
def keyCtx (k : Nat) : Nat := k / 2 ^ 18

/-- The unit of a key. -/
def keyUnit (k : Nat) : Nat := k % 2 ^ 18

/-- The pseudo-unit of a station tract. -/
def stractUnit (h : Nat) : Nat := 65536 + h

/-- The key of one queue of one unit in one context. -/
def qKey (c u q : Nat) : Nat := engKey c u * 4 + q

/-- Index of a queue, M, V, X, S as 0-3. -/
def qIx : Q → Nat
  | .m => 0 | .v => 1 | .x => 2 | .s => 3

/-- The queue of an index. -/
def ixQ : Nat → Q
  | 0 => .m | 1 => .v | 2 => .x | _ => .s

/-- Device address of byte `off` of a parcel's Fieldbook (R170). -/
def fbAddr (p off : Nat) : Nat := 0xC00000000000 + unitPath p * 2 ^ 20 + off

/-- Device address of granule `g` of a parcel's Fieldbook (R98). -/
def granAddr (p g : Nat) : Nat := fbAddr p (16 * g)

/-- Device address of byte `off` of a shelf (R170). -/
def shelfAddr (sh off : Nat) : Nat := 0x800000000000 + sh * 2 ^ 26 + off

/-- What a device address names (R170). -/
inductive Region where
  | hbm
  | shelf (n : Nat)
  | fieldbook (p : Nat)
  | unmapped
  deriving DecidableEq, Repr

/-- The region of a device address (R170). -/
def region (a : Nat) : Region :=
  if a < 0x018000000000 then .hbm
  else if 0x800000000000 ≤ a && a < 0x800A00000000 then .shelf ((a - 0x800000000000) / 2 ^ 26)
  else if 0xC00000000000 ≤ a && a < 0xC02000000000 then
    match pathUnit (bitsOf a 20 17) with
    | some u => if unitOrder u = 0 && a % 2 ^ 20 < 0xC0000 then .fieldbook u else .unmapped
    | none => .unmapped
  else .unmapped

/-- The slice that serves a device address: of the shelf, or of the bucket of the HBM line (R178, R179). -/
def sliceOf (a : Nat) : Nat :=
  if 0x800000000000 ≤ a then (a - 0x800000000000) / 2 ^ 26 % 64 else a / 256 % 640 % 64

/-- A granule range of `len` bytes from granule `g` lies within 0x0000-0xBFFF (R98). -/
def granOk (g len : Nat) : Bool := decide (16 * g + len ≤ 0xC0000)

/-- The first counter of a unit (R466). -/
def ctrBase (u : Nat) : Nat :=
  match unitOrder u with
  | 0 => 40 * u
  | 1 => 655360 + 8 * unitIx u
  | 2 => 663552 + 8 * unitIx u
  | 3 => 664064 + 8 * unitIx u
  | _ => 664096

/-- First counter of an Archive slice, a sub-port, a stack, a Bindery, the device (R466). -/
def ctrSlice (n : Nat) : Nat := 664576 + 32 * n
/-- See `ctrSlice`. -/
def ctrPort (p : Nat) : Nat := 666624 + 16 * p
/-- See `ctrSlice`. -/
def ctrStack (h : Nat) : Nat := 668672 + 16 * h
/-- See `ctrSlice`. -/
def ctrBindery (h : Nat) : Nat := 668864 + 16 * h
/-- See `ctrSlice`. -/
def ctrDev (e : Nat) : Nat := 669056 + e

/-- Unit codes (R368): a unit of a path, a port, a slice, a stack, the management cores. -/
def codeUnit (u : Nat) : Nat := unitPath u * 16
/-- See `codeUnit`. -/
def codePort (n : Nat) : Nat := 1 + 16 * n
/-- See `codeUnit`. -/
def codeSlice (n : Nat) : Nat := 2 + 16 * n
/-- See `codeUnit`. -/
def codeStack (h : Nat) : Nat := 3 + 16 * h
/-- See `codeUnit`. -/
def codeMgmt : Nat := 4

end Sys2Proof.Machine
end

