-- ==== Sys2Proof/Machine/State.lean ====
section
/-! DEFINITION. The state of the block, how a step can stop, and the state after reset. -/

namespace Sys2Proof.Machine

/-- What the block sent out: the newest first. The model's own record of its outputs (log entry 4). A frame comes with the
symbols on its lanes (R222). -/
inductive Out where
  | report (bytes : List Byte)
  | msix (vec : Nat)
  | readData (bytes : List Byte)
  | completerAbort
  | unsupported
  | smbus (bytes : List Byte)
  | spdm (bytes : List Byte)
  | tap (bits : Nat)
  | frame (path : Nat) (bytes : List Byte) (lanes : List (List Nat))
  | fatal (vec : Nat)
  deriving DecidableEq, Repr

/-- The block. `pending` is the queue of commands; `now` the station's timebase in 2^-8 ns (R234); `fresh`
the model's counter of free values. `mem` is every byte a device address names (R170); `bad` lists the
granules and lines that read as uncorrectable (R173, R190, R201), true for a line in its slice's lost-line table; `host` is the host memory the block has
written or read. -/
structure State where
  pending : List Instr
  now : Nat
  fresh : Nat
  mem : Memory
  host : Memory
  bad : Map Bool
  owner : Nat
  scratch : List Nat
  eng : Map Eng
  closures : Map Closure
  stracts : Map Stract
  arc : Arc
  ctxs : Map Ctx
  ctxActs : List CtxAct
  cmd : CmdIf
  ctr : Ctr
  flt : Flt
  brg : Brg
  cat : Cat
  bndWaits : Map (Nat × Nat)
  station : Nat
  d3hot : Bool
  d3depth : Bool
  linkUp : Bool
  tmax : Nat
  pin : Nat
  dbgOpen : Bool
  ports : Map SubPort
  egress : List Outgoing
  hbm : Map Stack
  bnd : Map Bindery
  fab : Fabric
  cols : Map Col
  slotRes : Nat
  domSize : Nat
  domLock : Bool
  pwr : Pwr
  sec : Sec
  mod : Module
  out : List Out
  deriving DecidableEq, Repr

/-- Why the machine stops with a fault. None is raised: every access to an address the spec gives no
register or memory has a response of its own (R10, R176, R192). -/
inductive Fault where
  /-- No command of this model raises it. Safe. -/
  | none
  deriving DecidableEq, Repr

/-- Why a command has no meaning. -/
inductive Refusal where
  /-- Raised by TAP_INSTRUCTION for an instruction other than BYPASS and IDCODE at an unlocked test access port: the spec
  does not say what the debug unit does with it (R450, R487). Safe. -/
  | debugPort
  /-- Raised by an arm of `exec` for a command that has no meaning in this model yet. Safe. -/
  | notModelled (mnemonic : String)
  deriving DecidableEq, Repr

/-- The shelf partition that the image writes (R178). -/
def Shelf.reset (n : Nat) : Shelf :=
  if n < 636 then ⟨1, 0, false, false, 0, none⟩ else ⟨2, 0, true, false, 0, none⟩

/-- The Archive after cold reset. -/
def Arc.reset : Arc := ⟨[], [], [], 256, [], []⟩

/-- The command interface after cold reset. -/
def CmdIf.reset : CmdIf :=
  ⟨[], [], [], [], [], [63, 63, 63, 63], [], 0, false, 0x7E, false, 0, 0, 1000, 0, false, false, false, false, true, [], 0, [], [], []⟩

/-- Counter control after cold reset (R383). -/
def Ctr.reset : Ctr := ⟨[], [], none, false, false, none, false, false, 0, 0, 637, true, 0, 0, 0, 0⟩

/-- The fault subsystem after cold reset (R410, R414-R426). -/
def Flt.reset : Flt :=
  ⟨[2000, 20000, 500, 20000, 200000, 2000], 60000, 0, [], [], [], false, false, false, [], [], 0,
    List.replicate 64 8, [], 0, 0, 0, 0, [], none, none, []⟩

/-- The bearing engine after cold reset (R283-R296). -/
def Brg.reset : Brg :=
  { st := .unlocked, failed := false, run := false, role := false, fixed := false, step := false, cid := 0,
    pinit := 1000000000, revinit := 0, tparent := 0, tpv := false, tchild := [0, 0, 0, 0], loss := 1000, b0 := 0,
    t0 := 0, lag := 0, low := 0, period := 1000000000, rev := 0, top := false, topTime := 0, wrapTime := 0, tseq := 0, src := none,
    foreign := 0, lastTok := 0, edgeTime := none, edgeGap := none, stk := [], staged := [], fired := [],
    late := [], gone := [], due := [], endB := 0, bar0At := [] }

/-- The catalogue engine after cold reset: every entry lost (R306, R313, R319). -/
def Cat.reset : Cat := ⟨[], [], [], [], true, false, false, 0, 0, 8, [], 0⟩

/-- The machine right after reset. -/
def State.reset : State :=
  { pending := [], now := 0, fresh := 0, mem := [], host := [], bad := [], owner := 0,
    scratch := [0, 0, 0, 0], eng := [], closures := [], stracts := [], arc := Arc.reset, ctxs := [], ctxActs := [],
    cmd := CmdIf.reset, ctr := Ctr.reset, flt := Flt.reset, brg := Brg.reset, cat := Cat.reset, bndWaits := [],
    station := 0xFFFFFF, d3hot := false, d3depth := false, linkUp := true, tmax := 0, pin := 0, dbgOpen := false,
    ports := [], egress := [], hbm := [], bnd := [],
    fab := Fabric.reset, cols := [], slotRes := 0, domSize := 0, domLock := false, pwr := Pwr.reset,
    sec := Sec.reset.keyed false, mod := Module.reset, out := [] }

end Sys2Proof.Machine
end

