-- ==== Sys2Proof/Machine/Route.lean ====
section
/-! DEFINITION. Counting, unit epochs, and packets on their way: sub-ports, routing, discards and notices, firmware
messages (spec 09, R220, R226-R238, R243-R245). -/

namespace Sys2Proof.Machine

/-- `n` events of counter `k`, into the delta of its unit (R465). -/
def State.count (s : State) (k : Nat) (n : Nat := 1) : State :=
  { s with ctr := { s.ctr with delta := Map.putD s.ctr.delta k ((Map.getD s.ctr.delta k 0 + n) % 2 ^ 48) 0 } }

/-- The station's local time in ns (R423). -/
def State.ns (s : State) : Nat := s.now / 256

/-- A unit's service state and epoch, by unit code (R414, R416). -/
def State.svcOf (s : State) (code : Nat) : Svc := Map.getD s.flt.svc code .inService

/-- See `State.svcOf`. -/
def State.setSvc (s : State) (code : Nat) (v : Svc) : State :=
  { s with flt := { s.flt with svc := Map.putD s.flt.svc code v .inService } }

/-- See `State.svcOf`. -/
def State.epochOf (s : State) (code : Nat) : Nat := (Map.getD s.flt.epochs code 0 + s.flt.epochBase) % 65536

/-- The epoch of a unit one on, modulo 65,536 (R416). -/
def State.bumpEpoch (s : State) (code : Nat) : State :=
  { s with flt := { s.flt with epochs := Map.putD s.flt.epochs code ((Map.getD s.flt.epochs code 0 + 1) % 65536) 0 } }

/-! ## Sub-ports (R220) -/

/-- Sub-port of a path id. -/
def State.port (s : State) (p : Nat) : SubPort := Map.getD s.ports p SubPort.reset

/-- Sub-port replaced. -/
def State.setPort (s : State) (p : Nat) (v : SubPort) : State :=
  { s with ports := Map.putD s.ports p v SubPort.reset }

/-- WEN.PCTLn. -/
def State.pctl (s : State) (n : Nat) : PortCtl := Map.getD s.fab.ctl n PortCtl.reset

/-- WEN.PCTLn replaced. -/
def State.setPctl (s : State) (n : Nat) (v : PortCtl) : State :=
  { s with fab := { s.fab with ctl := Map.putD s.fab.ctl n v PortCtl.reset } }

/-- Sub-ports of a port under its split (R220). -/
def PortCtl.subports (c : PortCtl) : Nat := 2 ^ c.split

/-- Lanes of a sub-port under its port's split (R220). -/
def PortCtl.lanes (c : PortCtl) : Nat := 16 / 2 ^ c.split

/-- The sub-port exists under the split (R220). -/
def State.present (s : State) (p : Nat) : Bool := decide (p % 4 < (s.pctl (p / 4)).subports)

/-- The sub-port is UP and usable: neither it nor its neighbour quiesces (R238, R240, R496). -/
def State.usable (s : State) (p : Nat) : Bool :=
  s.present p && (s.port p).st == 7 && !(s.port p).follow

/-! ## Routing (R236-R238) -/

/-- A station number that names a station (R236). -/
def stationOk (n : Nat) : Bool := decide (n < 4194304)

/-- The route entry of a destination; one beyond the count that B gives is not read, and names no path (R237). -/
def State.routeEntry (s : State) (dst : Nat) : Nat :=
  let b := s.fab.b
  if dst / 2 ^ b = s.station / 2 ^ b then Map.getD s.fab.rtl (dst % 2 ^ b) 0
  else if dst / 2 ^ b < 2 ^ (22 - b) then Map.getD s.fab.rtr (dst / 2 ^ b) 0
  else 0

/-- The paths of a route entry, in order. -/
def entryPaths (e : Nat) : List Nat := (List.range (min 4 (bitsOf e 28 3))).map fun i => bitsOf e (7 * i) 7

/-- The path of a packet, or the status of the notice that its discard sends (R238). -/
def State.route (s : State) (k : Packet) : Sum Nat Nat :=
  let ps := entryPaths (s.routeEntry k.dst.toNat)
  let us := ps.filter s.usable
  if us.isEmpty then
    .inr (if ps.isEmpty then 0x0762
      else if ps.any (fun p => (s.port p).st == 8 || (s.port p).follow) then 0x0322 else 0x0761)
  else .inl (us.getD ((k.src.toNat + k.dst.toNat + k.flow.toNat) % us.length) 0)

/-- A packet for this station enters the list of packets to be handled. -/
def State.deliver (s : State) (k : Packet) : State := { s with fab := { s.fab with inbox := s.fab.inbox ++ [k] } }

/-- A packet of this station for itself, which takes no receive buffer. -/
def State.deliverOwn (s : State) (k : Packet) : State := { s with fab := { s.fab with loop := s.fab.loop ++ [k] } }

/-- A packet into the queue of a sub-port; `inp` is where it came in. A notice of this station counts there
(R246). -/
def State.enqueue (s : State) (k : Packet) (path inp : Nat) : State :=
  let s1 := { s with egress := s.egress ++ [⟨k, path, s.now, inp⟩] }
  if k.ptype = 4 && inp = 128 then s1.count (ctrPort path + 15) else s1

/-- A packet routed: delivered here, queued for its path, or not to be placed, with the status of its notice (R237,
R238). -/
def State.placePacket (s : State) (k : Packet) (inp : Nat) : State × Option Nat :=
  if k.dst.toNat = s.station then (s.deliverOwn k, none)
  else match s.route k with
    | .inl p => (s.enqueue k p inp, none)
    | .inr st => (s, some st)

/-! ## Packets and notices of this station (R226, R245) -/

/-- Epoch that this station's own slips and packets carry (R226, log entry 14). -/
def State.sepoch (s : State) : Nat := s.epochOf (codeUnit 17476)

/-- Epoch of the collective engine, which every packet of a collective carries (R261). No unit reset names the engine, so
that only warm resets move it on (R416, log entry 14). -/
def State.colEpoch (s : State) : Nat := s.flt.epochBase

/-- A packet from this station. -/
def State.packet (s : State) (vl dst ptype flow ctx : Nat) (body : List Byte) : Packet :=
  ⟨0, Fin.ofNat 8 vl, BitVec.ofNat 24 dst, BitVec.ofNat 24 s.station, (body.length + 16 + 63) / 64 - 1,
    BitVec.ofNat 8 ptype, BitVec.ofNat 16 flow,
    BitVec.ofNat 16 (if ptype = 1 || ptype = 0x14 then s.colEpoch else s.sepoch), BitVec.ofNat 3 ctx, body⟩

/-- The body of a notice (R245); `reporter` is the station that it names. -/
def noticeBody (reporter status path flow ptype dst : Nat) : List Byte :=
  toLE 2 status ++ toLE 3 reporter ++ toLE 1 path ++ toLE 2 flow ++ toLE 1 ptype ++ toLE 3 dst

/-- A notice sent to a station; one that cannot be delivered is discarded (R245). -/
def State.noticeFrom (s : State) (reporter sn status path flow ptype dst ctx : Nat) : State :=
  (s.placePacket (s.packet 6 sn 4 flow ctx (bytesAt (noticeBody reporter status path flow ptype dst) 0 48)) 128).1

/-- A notice of this station's own. -/
def State.notice (s : State) (sn status path flow ptype dst ctx : Nat) : State :=
  s.noticeFrom s.station sn status path flow ptype dst ctx

/-- A notice about a discarded packet, sent to its source (R245): only for VL0-VL5. -/
def State.noticeOf (s : State) (k : Packet) (status path : Nat) : State :=
  if k.vl.val ≤ 5 then
    s.notice k.src.toNat status path k.flow.toNat k.ptype.toNat k.dst.toNat k.ctx.toNat
  else s

/-- A packet sent on its way by routing; one that no path takes is discarded with its notice (R238). -/
def State.routePacket (s : State) (k : Packet) (inp : Nat) : State :=
  match s.placePacket k inp with
  | (s1, none) => s1
  | (s1, some st) => s1.noticeOf k st 0xFF

/-- A packet of this station sent. -/
def State.sendOn (s : State) (k : Packet) : State := s.routePacket k 128

/-- A packet of this station sent by a given sub-port, while that is usable. -/
def State.sendBy (s : State) (k : Packet) (path : Nat) : State := if s.usable path then s.enqueue k path 128 else s

/-- A call slip from this station (R228, R242). -/
def State.slip (s : State) (dst ptype flow ctx : Nat) (body : List Byte) : State :=
  s.sendOn (s.packet 7 dst ptype flow ctx (bytesAt body 0 48))

/-! ## Firmware messages (R243) -/

/-- The packet of a firmware message. -/
def State.fwPacket (s : State) (dst chan mseq : Nat) (ackreq : Bool) (payload : List Byte) : Packet :=
  s.packet 5 dst 3 chan 0
    (toLE 4 mseq ++ toLE 2 payload.length ++ toLE 1 (b2n ackreq) ++ List.replicate 9 0 ++ payload)

/-- A new firmware message. One of channels 1 to 3 requests an acknowledgement, and waits for it with the command
that caused it. -/
def State.fwmsg (s : State) (dst chan : Nat) (payload : List Byte) (cmd : Option Started) : State :=
  let n := s.fab.mseq
  let ack := decide (chan ≤ 3)
  let f := { s.fab with mseq := (n + 1) % 2 ^ 32,
                        waiting := if ack then s.fab.waiting ++ [⟨n, dst, chan, payload, 0, cmd⟩] else s.fab.waiting }
  let s1 : State := { s with fab := f }
  s1.sendOn (s1.fwPacket dst chan n ack payload)

end Sys2Proof.Machine
end

