-- ==== Sys2Proof/Machine/Ops.lean ====
section
/-! DEFINITION. The named operations over the state that every family shares: counting, engine access, the
fault log, field reports, receipts and events, and the end of a queue entry. -/

namespace Sys2Proof.Machine

/-! ## Counters and free values -/

/-- Several counters, once each. -/
def State.countAll (s : State) (ks : List Nat) : State := ks.foldl (fun s k => s.count k) s

/-- Every unit moves its deltas to the counter store, as it does before its domain becomes OFF (R465). -/
def Ctr.moveAll (c : Ctr) : Ctr :=
  { c with delta := [], store := c.delta.foldl (fun m kv => Map.putD m kv.1 ((Map.getD m kv.1 0 + kv.2) % 2 ^ 48) 0) c.store }

/-- The free value of `w` bits at place `i` of the 16 that one command may use (log entry 3). -/
def State.freeAt (s : State) (i w : Nat) : BitVec w := Config.freeValue w (16 * s.fresh + i)

/-- The next free value of `w` bits. -/
def State.free (s : State) (w : Nat) : BitVec w := s.freeAt 0 w

/-- The model's counter moved on, after free values have been used. -/
def State.useFree (s : State) : State := { s with fresh := s.fresh + 1 }

/-! ## Engines -/

/-- What a context has in a unit, by key. -/
def State.engOf (s : State) (key : Nat) : Eng := Map.getD s.eng key Eng.empty

/-- The gated domains but for the A domain of a unit of order 0 to 2: a request to the unit wakes it (R302, R459). -/
def wakeUnit (gated : Map Bool) (u : Nat) : Map Bool := if u < 17472 then Map.del gated (firstParcel u / 256) else gated

/-- The state with that replaced; the unit's clock runs. -/
def State.setEng (s : State) (key : Nat) (e : Eng) : State :=
  { s with eng := Map.putD s.eng key e Eng.empty, mod := { s.mod with gated := wakeUnit s.mod.gated (keyUnit key) } }

/-- One queue of a synchronisation state. -/
def Sync.queue (y : Sync) (q : Q) : Queue :=
  match q with
  | .m => y.qm
  | .v => y.qv
  | .x => y.qx
  | .s => y.qs

/-- One queue replaced. -/
def Sync.setQueue (y : Sync) (q : Q) (v : Queue) : Sync :=
  match q with
  | .m => { y with qm := v }
  | .v => { y with qv := v }
  | .x => { y with qx := v }
  | .s => { y with qs := v }

/-- One queue of a unit in a context. -/
def State.queue (s : State) (key : Nat) (q : Q) : Queue := (s.engOf key).sync.queue q

/-- The synchronisation state of a unit in a context, replaced. -/
def State.setSync (s : State) (key : Nat) (y : Sync) : State := s.setEng key { s.engOf key with sync := y }

/-- One queue replaced. -/
def State.setQueue (s : State) (key : Nat) (q : Q) (v : Queue) : State :=
  s.setSync key ((s.engOf key).sync.setQueue q v)

/-- The matrix state of a key, replaced. -/
def State.setMat (s : State) (key : Nat) (m : Mat) : State := s.setEng key { s.engOf key with mat := m }

/-- The vector state of a key, replaced. -/
def State.setVec (s : State) (key : Nat) (v : Vec) : State := s.setEng key { s.engOf key with vec := v }

/-- The context numbered `c`. -/
def State.ctx (s : State) (c : Nat) : Ctx := Map.getD s.ctxs c Ctx.free

/-- The context numbered `c`, replaced. -/
def State.setCtx (s : State) (c : Nat) (v : Ctx) : State := { s with ctxs := Map.putD s.ctxs c v Ctx.free }

/-- Context `c` is RUNNING, is not being pre-empted, no thermal trip has stopped the domains (R398), and its footprint
holds the unit. -/
def State.runsIn (s : State) (c u : Nat) : Bool :=
  (s.ctx c).st == .running && !(s.ctx c).parking && !s.pwr.tripped && inFoot (s.ctx c).foot u

/-- The context is RUNNING or STARTING in the unit (R174, R328). -/
def State.activeIn (s : State) (c u : Nat) : Bool :=
  ((s.ctx c).st == .running || (s.ctx c).st == .starting) && inFoot (s.ctx c).foot u

/-- The clock domains of the slice and of the HBM controller of an address awake: in D3hot a request wakes them (R302). -/
def State.wakeMem (s : State) (slice a : Nat) : State :=
  if !s.d3hot then s
  else
    let ds := (64 + slice) :: (if a < 0x800000000000 then [224 + a / 2 ^ 37] else [])
    { s with mod := { s.mod with awake := (s.mod.awake ++ ds).eraseDups } }

/-- Every queue entry of the unit's queue that was issued has completed: nothing waits at its head, and its
engine is empty (R153). -/
def Eng.quiet (e : Eng) (q : Q) : Bool :=
  (e.sync.queue q).head.isNone && (e.sync.queue q).passed.isEmpty &&
  (match q with
   | .m => e.mat.cur.isNone && e.mat.pend.isNone && e.mat.drains.isEmpty
   | .v => e.vec.run.isNone
   | .x => e.x.isNone
   | .s => true)

/-- A queue that can issue an entry of its own program: running, nothing waiting at its head. -/
def Queue.canIssue (q : Queue) : Bool := q.run == .running && q.head.isNone

/-- A unit, or one it lies in, that takes no new request (R163, R414). -/
def State.unitBusy (s : State) (u : Nat) : Bool :=
  (List.range 5).any fun k => decide (unitOrder u ≤ k) && s.svcOf (codeUnit (enclosing u k)) != .inService

/-- The clock domain of R300 is OFF: the A domains in D3hot, and those of the links and the Binderies too in D-Sleep
(R458). -/
def State.domOff (s : State) (n : Nat) : Bool :=
  s.d3hot && (decide (n < 64) || (s.d3depth && ((decide (128 ≤ n) && decide (n < 224)) || (decide (236 ≤ n) && decide (n < 248)))))

/-- The context for which a unit's queue issues: the lowest RUNNING one whose queue can issue, or else the
lowest RUNNING one (log entry 12). -/
def State.ctxFor (s : State) (u : Nat) (q : Q) : Option Nat :=
  let run := (List.range 8).filter fun c => s.runsIn c u
  match run.find? fun c => (s.queue (engKey c u) q).canIssue with
  | some c => some c
  | none => run.head?

/-- The resident context that TRC.PSW.CTX shows for a unit (R160, R377): the one RUNNING or STARTING in it,
or else the lowest resident one. -/
def State.resident (s : State) (u : Nat) : Option Nat :=
  let held := (List.range 8).filter fun c => inFoot (s.ctx c).foot u
  match held.find? fun c => (s.ctx c).st == .running || (s.ctx c).st == .starting with
  | some c => some c
  | none => held.find? fun c => (s.ctx c).st == .parked

/-! ## Memory -/

/-- The key under which a byte's granule or line is listed as uncorrectable. -/
def badKey (a : Nat) : Nat := if 0xC00000000000 ≤ a then a / 16 * 16 else a / 256 * 256

/-- Bytes that a key of `bad` covers. -/
def badSpan (k : Nat) : Nat := if 0xC00000000000 ≤ k then 16 else 256

/-- Some byte of [a, a + len) is uncorrectable. -/
def State.badIn (s : State) (a len : Nat) : Bool :=
  s.bad.any fun kv => decide (kv.1 < a + len) && decide (a < kv.1 + badSpan kv.1)

/-- Bytes written at a device address. A write of a whole granule or line makes it good again (R190,
R418). -/
def State.store (s : State) (a : Nat) (bs : List Byte) : State :=
  { s with mem := s.mem.writeN a bs,
           bad := Map.keep s.bad fun k _ => !(decide (a ≤ k) && decide (k + badSpan k ≤ a + bs.length)) }

/-- The granules and lines that lie whole in [a, a + len) are good again (R190, R418). -/
def State.heal (s : State) (a len : Nat) : State :=
  { s with bad := Map.keep s.bad fun k _ => !(decide (a ≤ k) && decide (k + badSpan k ≤ a + len)) }

/-- A granule or line made uncorrectable. -/
def State.lose (s : State) (a : Nat) : State :=
  { s with bad := Map.put s.bad (badKey a) (Map.getD s.bad (badKey a) false) }

/-- Bytes written in host memory (R343). -/
def State.hostStore (s : State) (a : Nat) (bs : List Byte) : State := { s with host := s.host.writeN a bs }

/-- Shelf `n` (R178). -/
def State.shelf (s : State) (n : Nat) : Shelf := Map.getD s.arc.shelves n (Shelf.reset n)

/-- Shelf `n`, replaced. -/
def State.setShelf (s : State) (n : Nat) (v : Shelf) : State :=
  { s with arc := { s.arc with shelves := Map.putD s.arc.shelves n v (Shelf.reset n) } }

/-- Slice `n` of the Archive. -/
def State.slice (s : State) (n : Nat) : Slice := Map.getD s.arc.slices n Slice.empty

/-- Slice `n`, replaced. -/
def State.setSlice (s : State) (n : Nat) (v : Slice) : State :=
  { s with arc := { s.arc with slices := Map.putD s.arc.slices n v Slice.empty } }

/-! ## The bearing as the other units read it (R282) -/

/-- The bearing at a time: from the anchor, `lag` old at its time, at 2^32 in each period; held at the top, and never below
`low` (R282, R286, R291). The period is in ns, times in 2^-8 ns. -/
def Brg.bearingAt (b : Brg) (t : Nat) : Nat :=
  if b.st = .unlocked || b.st = .lost then b.b0
  else if b.top then 0xFFFFFFFF
  else min 0xFFFFFFFF (max b.low (b.b0 + (b.lag + (t - b.t0)) * 2 ^ 32 / (max 1 b.period * 256)))

/-- The bearing is valid: LOCKED or COAST (R294). -/
def Brg.valid (b : Brg) : Bool := b.st == .locked || b.st == .coast

/-! ## Time (R472) -/

/-- A run of a collective has sent or merged all this station contributes and is not complete. -/
def Col.peerWaits (c : Col) : Bool :=
  c.st == .running &&
  (match c.r.kind.toNat with
   | 0 => if c.r.stream then c.cur.staged.length == c.r.ntile.toNat else c.cur.next == c.r.ntile.toNat
   | 2 => if c.r.stream then c.cur.staged.length == c.r.ntile.toNat else c.cur.next == c.r.ntile.toNat
   | 6 => c.cur.slipOwn
   | _ => c.cur.sentAll)

/-- A closure round in which every local participant has arrived, and which is not complete. -/
def State.closureWaits (s : State) (cid : Nat) (c : Closure) : Bool :=
  c.st == .opened && c.t3 &&
  c.units.all fun u => (Map.getD (s.engOf (engKey c.ctx u)).sync.closures cid 0).testBit 2

/-- The station waits on a peer (R472). -/
def State.peerWaits (s : State) : Bool :=
  (s.cols.any fun kv => kv.2.peerWaits) || s.closures.any fun kv => s.closureWaits kv.1 kv.2

/-- A throttle reason is in force (R402). -/
def State.throttled (s : State) : Bool := s.pwr.episodes.any fun e => e.outSince.isNone

/-- Time brought forward to `t`; it never runs back. The waiting and throttled times of the next phase record grow
(R472). -/
def State.at (s : State) (t : Nat) : State :=
  if t ≤ s.now then s
  else
    let d := t - s.now
    { s with now := t, ctr := { s.ctr with peerWait := s.ctr.peerWait + (if s.peerWaits then d else 0),
                                           thrTime := s.ctr.thrTime + (if s.throttled then d else 0) } }

/-! ## Field reports (R425) -/

/-- The body of a field report. -/
def State.reportBytes (s : State) (rkind : Nat) (payload : List Byte) : List Byte :=
  let body := toLE 2 1 ++ toLE 2 rkind ++ toLE 4 s.flt.rseq ++ toLE 8 Config.serial.toNat ++ toLE 3 s.station ++
    toLE 1 (b2n s.flt.drained + 2 * b2n s.flt.flagged + 4 * b2n s.dbgOpen + 8 * b2n s.linkUp) ++
    toLE 8 s.ns ++ toLE 4 (s.brg.bearingAt s.now) ++ toLE 4 s.brg.rev ++ toLE 4 (b2n s.brg.valid) ++
    toLE 4 s.flt.frDropped ++ bytesAt payload 0 64 ++ List.replicate 144 0
  body ++ toLE 4 (crc32c body)

/-- VERSION of the active copy of a class (R444): that of the last activation, or the one from manufacture. -/
def State.activeVersion (s : State) (cls : Nat) : Nat :=
  match Map.find s.sec.active cls with
  | some i => i.version
  | none => (Config.factoryVersion cls).toNat

/-- DIGEST of the active copy of a class. -/
def State.activeDigest (s : State) (cls : Nat) : Nat :=
  match Map.find s.sec.active cls with
  | some i => i.digest
  | none => (Config.factoryDigest cls).toNat

/-- A report leaves by the management port, or, while that port is down, in a RELAY message to the neighbour that
the class 5 image names (R243). -/
def State.reportOut (s : State) (bs : List Byte) : State :=
  if s.mod.mgmtUp then { s with out := .report bs :: s.out }
  else match Config.relayTo (s.activeDigest 5) with
    | some d => s.fwmsg d 4 bs none
    | none => s

/-- A field report sent, or dropped when 1,000 have left in this second; one of SEV 3 or 4 is repeated
twice. -/
def State.report (s : State) (rkind sev : Nat) (payload : List Byte) : State :=
  let sec := s.ns / 1000000000
  let sent := if sec = s.flt.frSecond then s.flt.frSent else 0
  if 1000 ≤ sent then
    { s with flt := { s.flt with frDropped := s.flt.frDropped + 1, frSecond := sec, frSent := sent } }.count
      (ctrDev 50)
  else
    let bs := s.reportBytes rkind payload
    let f := { s.flt with rseq := (s.flt.rseq + 1) % 2 ^ 32, frDropped := 0, frSecond := sec, frSent := sent + 1,
                          repeats := if 3 ≤ sev then Map.put s.flt.repeats s.flt.rseq (2, bs) else s.flt.repeats }
    ({ s with flt := f }.reportOut bs).count (ctrDev 49)

/-! ## Receipts and events (R352-R355) -/

/-- Submission ring `q`. -/
def State.sub (s : State) (q : Nat) : SubRing := Map.getD s.cmd.sub q SubRing.reset

/-- Submission ring `q`, replaced. -/
def State.setSub (s : State) (q : Nat) (v : SubRing) : State :=
  { s with cmd := { s.cmd with sub := Map.putD s.cmd.sub q v SubRing.reset } }

/-- Receipt ring `r`. -/
def State.rcp (s : State) (r : Nat) : RcpRing := Map.getD s.cmd.rcp r RcpRing.reset

/-- Receipt ring `r`, replaced. -/
def State.setRcp (s : State) (r : Nat) (v : RcpRing) : State :=
  { s with cmd := { s.cmd with rcp := Map.putD s.cmd.rcp r v RcpRing.reset } }

/-- Slots of a receipt ring that are neither written and unread nor reserved; the tail never passes the head
(R353). -/
def RcpRing.freeSlots (r : RcpRing) : Nat :=
  if r.en then 4095 - (r.tail + 4096 - r.head) % 4096 - r.reserved else 0

/-- The mask bit of a vector's MSI-X table entry (R354). -/
def CmdIf.vecMasked (c : CmdIf) (vec : Nat) : Bool := (Map.getD c.msix (4 * vec + 3) 1).testBit 0

/-- One MSI-X message of a vector, or its pending bit when the vector is masked (R354). -/
def State.signal (s : State) (vec : Nat) : State :=
  if s.cmd.vecMasked vec then
    { s with cmd := { s.cmd with pba := Map.put s.cmd.pba vec true } }
  else { s with out := .msix vec :: s.out }

/-- The 32 bytes of a receipt (R352). -/
def Receipt.bytes (r : Receipt) (phase : Bool) : List Byte :=
  toLE 2 r.status ++ toLE 2 r.op ++ toLE 1 (b2n phase + 2 * b2n r.event) ++ toLE 1 r.sq ++ toLE 2 r.sqhead ++
    toLE 8 r.acc ++ bytesAt r.result 0 16

/-- A receipt ring signals when CCNT of the receipts written since its last signal wait, or CTIM is 0 and one does (R354). -/
def RcpRing.fires (g : RcpRing) : Bool :=
  decide (0 < g.unsignalled) && (decide (g.ccnt ≤ g.unsignalled) || g.ctim == 0)

/-- The signal of a receipt ring whose condition holds (R354). -/
def State.signalRing (s : State) (q : Nat) : State :=
  let g := s.rcp q
  if g.en && g.fires then (s.setRcp q { g with unsignalled := 0 }).signal g.vec else s

/-- A receipt written at the tail of its ring, with its signal (R352, R354). Nothing is written to a ring
that is not enabled (R456). -/
def State.putReceipt (s : State) (r : Receipt) : State :=
  let g := s.rcp r.rr
  if !g.en then s
  else
    let s1 := s.hostStore (g.base + 32 * g.tail) (r.bytes g.phase)
    let tail := (g.tail + 1) % 4096
    (s1.setRcp r.rr { g with tail := tail, phase := if tail = 0 then !g.phase else g.phase,
                             unsignalled := g.unsignalled + 1 }).signalRing r.rr

/-- An event of kind 0xFF00 + k finds a free slot of its ring, and is not masked (R355). -/
def State.eventRoom (s : State) (k : Nat) : Bool :=
  s.cmd.evEn && s.cmd.evMask.testBit k && decide (0 < (s.rcp s.cmd.evRing).freeSlots) && !s.d3hot

/-- The next event receipt. -/
def State.eventPut (s : State) (k status : Nat) (result : List Byte) : State :=
  { s with cmd := { s.cmd with evSeq := s.cmd.evSeq + 1 } }.putReceipt
    ⟨s.cmd.evRing, status, 0xFF00 + k, true, 0xFF, 0, s.cmd.evSeq, result⟩

/-- The receipt that tells of lost events, once a slot is free (R355). -/
def State.lostEvents (s : State) : State :=
  if 0 < s.cmd.evLost && s.eventRoom 6 then
    { s with cmd := { s.cmd with evLost := 0 } }.eventPut 6 0 (toLE 4 s.cmd.evLost)
  else s

/-- An event receipt, or its loss, of which a receipt tells at once where a slot is free (R355). -/
def State.event (s : State) (k status : Nat) (result : List Byte) : State :=
  if s.eventRoom k then s.eventPut k status result
  else ({ s with cmd := { s.cmd with evOvf := true, evLost := s.cmd.evLost + 1 } }.count (ctrDev 17)).lostEvents

/-! ## The fault log (R422-R424) -/

/-- The 64 bytes of an entry (R423). -/
def LogEntry.bytes (e : LogEntry) : List Byte :=
  toLE 4 e.index ++ toLE 2 e.kind ++ toLE 2 e.status ++ toLE 1 e.sev ++ toLE 3 (b2n e.brgv) ++ toLE 4 e.unit ++
    toLE 8 e.time ++ toLE 4 e.bearing ++ toLE 4 e.rev ++ toLE 8 e.addr ++ toLE 4 e.req ++ toLE 4 e.count ++
    bytesAt e.detail 0 16

/-- An entry into the persistent log: 256 places, an entry of SEV 4 never overwritten (R422). -/
def persist (p : List LogEntry) (e : LogEntry) : List LogEntry :=
  if p.length < 256 then p ++ [e]
  else match p.find? (fun x => x.sev < 4) with
    | some x => p.erase x ++ [e]
    | none => p

/-- A new entry of the fault log, with its event receipt and field report (R422). -/
def State.logNew (s : State) (kind status sev unit addr req : Nat) (detail : List Byte := []) : State :=
  let e : LogEntry := ⟨s.flt.next, kind, status, sev, s.brg.valid, unit, s.ns, s.brg.bearingAt s.now,
    s.brg.rev, addr, req, 1, detail⟩
  let f := { s.flt with next := (s.flt.next + 1) % 2 ^ 32, vlog := Map.put s.flt.vlog (s.flt.next % 4096) e,
                        plog := if 2 ≤ sev then persist s.flt.plog e else s.flt.plog,
                        openIx := s.flt.next :: s.flt.openIx, new := true }
  let kept := decide (3 ≤ sev) && (f.plog != s.flt.plog)
  let md := if kept then { s.mod with alertLow := true } else s.mod
  (({ s with flt := f, mod := md }.count (ctrDev 48)).event 5 status (toLE 4 e.index)).report 1 sev e.bytes

/-- An event in the fault log: merged into an open entry of the same KIND, UNIT and ADDR, or a new entry (R422, R423). -/
def State.log (s : State) (kind status sev unit addr req : Nat) (detail : List Byte := []) : State :=
  let isIt := fun (e : LogEntry) => e.kind == kind && e.unit == unit && e.addr == addr
  match s.flt.openIx.findSome? fun i => (Map.find s.flt.vlog (i % 4096)).filter fun e => isIt e && e.index == i with
  | some x =>
    let bump := fun (e : LogEntry) => if e = x then { e with count := e.count + 1 } else e
    { s with flt := { s.flt with vlog := Map.mapVals s.flt.vlog fun _ e => bump e,
                                 plog := s.flt.plog.map bump } }
  | none => s.logNew kind status sev unit addr req detail

/-- A host-access fault (R10). Its log entry's ADDR is the offset in the BAR and its REQ is 0: the model's choice (log entry
118). -/
def State.hostFault (s : State) (addr : Nat) : State := s.log 0x0001 0 0 0xFFFFFFFF addr 0

/-! ## Closure contexts (R164, R165) -/

/-- Closure context `c`. -/
def State.closure (s : State) (cid : Nat) : Closure := Map.getD s.closures cid Closure.idle

/-- Closure context replaced. -/
def State.setClosure (s : State) (cid : Nat) (v : Closure) : State :=
  { s with closures := Map.putD s.closures cid v Closure.idle }

/-- The four bits of a closure in a unit of a context: bit 0 MEMBER, 1 PARITY, 2 PENDING, 3 HELD (R165). -/
def State.cbits (s : State) (key cid : Nat) : Nat := Map.getD (s.engOf key).sync.closures cid 0

/-- The four bits replaced. -/
def State.setCbits (s : State) (key cid v : Nat) : State :=
  let y := (s.engOf key).sync
  s.setSync key { y with closures := Map.putD y.closures cid v 0 }

/-- One of the four bits set to `b`. -/
def State.setCbit (s : State) (key cid i : Nat) (b : Bool) : State :=
  s.setCbits key cid (setBits (s.cbits key cid) i 1 (b2n b))

/-- A CARR that is held at the head of a queue is withdrawn: it leaves the closure's list of held arrivals, and HELD
clears when the unit has no other (R166, R495). -/
def State.dropHeld (s : State) (key : Nat) (q : Q) : State :=
  match (s.queue key q).head with
  | some ⟨_, _, .held cid⟩ =>
    let c := s.closure cid
    let rest := c.heldOrder.filter (· != key * 4 + qIx q)
    let s1 := s.setClosure cid { c with heldOrder := rest }
    if rest.any (· / 4 == key) then s1 else s1.setCbit key cid 3 false
  | _ => s

/-! ## The end of a queue entry (R154) -/

/-- A status with which a queue advances (R154): DONE, DONE_DEGRADED, DELAYED. -/
def advances (status : Nat) : Bool := status == 0 || status == 1 || status / 256 == 1

/-- A queue whose entry at `addr` ended with a failing status: status words, program counter, and handler or
stop (R154). Entries that wait behind it are withdrawn (log entry 102). A queue bound to its tract stops. -/
def Queue.branch (q : Queue) (addr status : Nat) (pc : Nat) : Queue :=
  let q := { q with status := status, faddr := addr, pc := pc % 65536, head := none, passed := [], branched := false }
  if q.fed then { q with run := .stopped }
  else match q.handler with
    | some h => { q with pc := h, run := .running, branched := true }
    | none => { q with run := .stopped }

/-- RESULT of event 0xFF01 (R355). -/
def stopResult (u q c faddr : Nat) : List Byte := toLE 3 (unitPath u) ++ toLE 1 (q + 4 * c) ++ toLE 2 faddr

/-- The queue of a unit fails at `addr`; a member bound to its tract makes the tract's entry end with the
status of the lowest-indexed failing member, and the tract's queue branch once for that entry (R154). `pc` is where the
program counter goes; `member` is one more than the index of the member that failed, or 0 at the queue itself. -/
def State.failQueue (n : Nat) (s : State) (c u : Nat) (q : Q) (addr status pc member : Nat) : State :=
  let key := engKey c u
  let w := s.queue key q
  let before := Map.getD w.failed addr 0
  if member ≠ 0 && before ≠ 0 then
    if member < before then
      s.setQueue key q { w with failed := Map.put w.failed addr member,
                                status := if w.faddr = addr then status else w.status }
    else s
  else
    let w' := { w.branch addr status pc with failed := if member = 0 then w.failed else Map.put w.failed addr member }
    let s1 := (s.dropHeld key q).setQueue key q w'
    let s2 := if unitOrder u = 0 then
        (if status / 256 = 2 || status / 256 = 3 then s1.count (ctrBase u + 29)
         else if status / 256 = 5 then s1.count (ctrBase u + 30) else s1)
      else s1
    if w.fed then
      match n with
      | 0 => s2
      | n + 1 =>
        let t := enclosing u (unitOrder u + 1)
        State.failQueue n (s2.count (ctrBase t + 7)) c t q addr status (addr + 1) (unitIx u + 1)
    else if w'.run == .stopped then s2.event 1 status (stopResult u (qIx q) c addr)
    else s2

/-- An entry at `addr` of a queue ends with a status. -/
def State.endEntry (s : State) (c u : Nat) (q : Q) (addr status : Nat) : State :=
  if advances status then
    let w := s.queue (engKey c u) q
    s.setQueue (engKey c u) q { w with head := none }
  else s.failQueue 4 c u q addr status (addr + 1) 0

/-- The entry at a queue's program counter issues: the counter moves to the next entry. -/
def State.advance (s : State) (c u : Nat) (q : Q) : State :=
  s.setQueue (engKey c u) q (s.queue (engKey c u) q).advanced

/-- T2 in µs (R410). -/
def State.t2 (s : State) : Nat := s.flt.wlim.getD 2 500

/-- The entry at `addr` waits at the head of its queue, for the limit that T2 is now (R411). -/
def State.waitHead (s : State) (c u : Nat) (q : Q) (h : Head) : State :=
  let w := s.queue (engKey c u) q
  s.setQueue (engKey c u) q { w with head := some h, since := s.now, t2rem := s.t2 }

/-- Shed and conversion events counted in a unit's run of counters (R90). -/
def State.countShed (s : State) (first : Nat) (evs : List ShedEv) : State :=
  s.countAll (evs.map fun v => first + v.index)

end Sys2Proof.Machine
end

