-- ==== Sys2Proof/Machine/Cache.lean ====
section
/-! DEFINITION. The lines of the Archive: the four classes of request, cache-mode shelves, and lost lines (spec 07,
R178-R190). -/

namespace Sys2Proof.Machine

/-! ## Lines (R179) -/

/-- The lines of [a, a + len). -/
def linesOf (a len : Nat) : List Nat :=
  if len = 0 then [] else (List.range ((a % 256 + len + 255) / 256)).map fun i => a / 256 * 256 + 256 * i

/-- The bucket of an HBM address: the shelf that caches its line. -/
def lineBucket (a : Nat) : Nat := a / 256 % 640

/-- The key of an HBM address's bucket and set. -/
def cacheKey (a : Nat) : Nat := lineBucket a * 16384 + a / 256 / 640 % 16384

/-- The tag of an HBM address. -/
def lineTag (a : Nat) : Nat := a / 256 / 10485760

/-- The address of a line, from its bucket and set and its tag. -/
def cacheAddr (k tag : Nat) : Nat := ((tag * 16384 + k % 16384) * 640 + k / 16384) * 256

/-- The bucket of an HBM address is a shelf in cache mode. -/
def State.caches (s : State) (a : Nat) : Bool :=
  region a == .hbm && (s.shelf (lineBucket a)).mode == 1

/-- The line that holds an address in the cache. -/
def State.cached (s : State) (a : Nat) : Option CLine :=
  if s.caches a then (Map.getD s.arc.cache (cacheKey a) []).find? (·.tag == lineTag a) else none

/-- An access to the address misses in a cache shelf. -/
def State.misses (s : State) (a : Nat) : Bool := s.caches a && (s.cached a).isNone

/-- The line of a set that leaves the cache: written back when it is dirty; a clean one over a line of HBM that cannot be read
leaves that line as it is (R201). -/
def State.dropLine (s : State) (k : Nat) (l : CLine) : State :=
  if l.under && !l.dirty then s.lose (cacheAddr k l.tag) else s

/-- The lines of one set replaced. -/
def State.setWays (s : State) (k : Nat) (w : List CLine) : State :=
  { s with arc := { s.arc with cache := Map.putD s.arc.cache k w [] } }

/-- One access to a line, as its bucket's cache sees it: a hit, or a miss that allocates the line unless its shelf is
quiescing (R182) or the line is uncorrectable (R201). The victim is the line of the set used longest ago (log entry 18);
it is written back when it is dirty. The lines that HBM then reads and writes count at their stack (R467, log entry 148). -/
def State.cacheLine (s : State) (write : Bool) (a : Nat) : State :=
  if !s.caches a then (if region a == .hbm then s.count (ctrStack (a / 2 ^ 37) + 2 + b2n write) else s)
  else
    let k := cacheKey a
    let n := ctrSlice (sliceOf a)
    let ways := Map.getD s.arc.cache k []
    match s.cached a with
    | some l => (s.setWays k ({ l with dirty := l.dirty || write } :: ways.erase l)).count (n + 2)
    | none =>
      let s1 := s.count (n + 3)
      if (s.shelf (lineBucket a)).qst ≠ 0 || s.badIn (a / 256 * 256) 256 then s1.count (ctrStack (a / 2 ^ 37) + 2 + b2n write)
      else
        let s2 := (ways.drop 15).foldl (fun s l => s.dropLine k l) (s1.setWays k (⟨lineTag a, write, false⟩ :: ways.take 15))
        let s3 := if write then s2 else s2.count (ctrStack (a / 2 ^ 37) + 2)
        s3.countAll (((ways.drop 15).filter (·.dirty)).flatMap fun l => [n + 4, ctrStack (cacheAddr k l.tag / 2 ^ 37) + 3])

/-! ## Accesses (R183) -/

/-- Place of a class in the order of R183. -/
def Cls.ix : Cls → Nat
  | .control => 0 | .collective => 1 | .bulk => 2 | .background => 3

/-- Queue depth of a class at a slice (R183). -/
def Cls.depth : Cls → Nat
  | .control => 16 | .collective => 64 | .bulk => 128 | .background => 32

/-- One line read or written in a class, at its slice. -/
def State.accessLine (s : State) (cls : Cls) (write : Bool) (a : Nat) : State :=
  let n := ctrSlice (sliceOf a)
  (((s.wakeMem (sliceOf a) a).count (n + b2n write)).count (n + 9 + cls.ix)).cacheLine write a

/-- How many lines [a, a + len) touches. -/
def lineCount (a len : Nat) : Nat := if len = 0 then 0 else (a % 256 + len + 255) / 256

/-- The lines of [a, a + len) read or written in a class; a Fieldbook has none, and an access to it wakes its A domain (R302,
R459). Those of a shelf all lie in its slice, and no
cache holds them. -/
def State.access (s : State) (cls : Cls) (write : Bool) (a len : Nat) : State :=
  match region a with
  | .fieldbook p => { s with mod := { s.mod with gated := wakeUnit s.mod.gated p } }
  | .shelf _ =>
    let n := ctrSlice (sliceOf a)
    ((s.wakeMem (sliceOf a) a).count (n + b2n write) (lineCount a len)).count (n + 9 + cls.ix) (lineCount a len)
  | _ => (linesOf a len).foldl (fun s l => s.accessLine cls write l) s

/-- An uncorrectable read of an Archive or HBM line, by the unit of code `req` (R189, R201). -/
def State.lineUnc (s : State) (addr req : Nat) : State :=
  let sl := sliceOf addr
  let s1 := s.count (ctrSlice sl + 7)
  if 0x800000000000 ≤ addr || Map.getD s.bad (badKey addr) false then
    s1.log 0x0011 0x0723 1 (codeSlice sl) addr req
  else (s1.count (ctrStack (addr / 2 ^ 37) + 1)).log 0x0012 0x0723 1 (codeStack (addr / 2 ^ 37)) addr req

/-! ## What an access is refused with (R174, R178, R186) -/

/-- The address lies in the catalogue, which the firmware's shelf 636 holds in its first 4 MiB (R303). -/
def State.inCatalogue (s : State) (a : Nat) : Bool :=
  decide (shelfAddr 636 0 ≤ a) && decide (a < shelfAddr 636 0x400000) && (s.shelf 636).fw

/-- Why an access to a shelf as a shelf by a context is refused; 0 where it is admitted (R178, R182, R414). -/
def State.shelfStatus (s : State) (n c : Nat) : Nat :=
  let sh := s.shelf n
  if s.svcOf (codeSlice (n % 64)) != .inService then 0x0301
  else if sh.qst != 0 then 0x0314
  else if sh.mode != 2 then 0x0312
  else if !sh.ctxm.testBit c then 0x0311
  else 0

/-- Stack `h`. -/
def State.stack (s : State) (h : Nat) : Stack := Map.getD s.hbm h Stack.reset

/-- Why an access of context `c` to a device address is refused; 0 where it is admitted (R174, R178, R199, R203,
R303, R414). -/
def State.devStatus (s : State) (c a : Nat) : Nat :=
  match region a with
  | .hbm =>
    let h := a / 2 ^ 37
    if s.svcOf (codeSlice (sliceOf a)) != .inService || s.svcOf (codeStack h) != .inService then 0x0301
    else if (s.stack h).st = 3 then 0x0751
    else if (s.stack h).stop then 0x0752
    else 0
  | .shelf n => if s.inCatalogue a then 0x0311 else s.shelfStatus n c
  | .fieldbook t => if s.unitBusy t then 0x0301 else if s.activeIn c t then 0 else 0x0315
  | .unmapped => 0x0741

/-- The range lies wholly in one region, and in one shelf or Fieldbook (R176). -/
def rangeOk (a len : Nat) : Bool :=
  match region a with
  | .hbm => decide (a + len ≤ 0x018000000000)
  | .shelf _ => decide (a % 2 ^ 26 + len ≤ 2 ^ 26)
  | .fieldbook _ => decide (a % 2 ^ 20 + len ≤ 0xC0000)
  | .unmapped => false

/-- The granules and lines of [a, a + len) that read as uncorrectable, by key. -/
def State.badKeys (s : State) (a len : Nat) : List Nat :=
  (s.bad.filter fun kv => decide (kv.1 < a + len) && decide (a < kv.1 + badSpan kv.1)).map (·.1)

/-- Why an access of context `c` to [a, a + len) is refused; 0 where every line of it is admitted. An empty range is no
access. -/
def State.rangeStatus (s : State) (c a len : Nat) : Nat :=
  if len = 0 then 0
  else if !rangeOk a len then 0x0741
  else (((linesOf a len).map (s.devStatus c)).find? (· != 0)).getD 0

/-- A range touches a line of slice `n` of the Archive: 64 lines in a row lie in 64 slices (R178, R179). -/
def rangeInSlice (n a len : Nat) : Bool :=
  decide (64 ≤ lineCount a len) || (linesOf a (min len 16384)).any fun l => sliceOf l == n

/-- A slice that the range lies in takes no request (R414). -/
def State.sliceBusy (s : State) (a len : Nat) : Bool :=
  (List.range 64).any fun n => s.svcOf (codeSlice n) != .inService && rangeInSlice n a len

/-- Why the units of an HBM range refuse access to it: one that quiesces, a stack that is FAILED, or stopped (R199, R203,
R414); 0 where none does. -/
def State.stackStatus (s : State) (a len : Nat) : Nat :=
  let hit := (List.range 12).filter fun h => decide (a < (h + 1) * 2 ^ 37) && decide (h * 2 ^ 37 < a + len)
  if s.sliceBusy a len || hit.any fun h => s.svcOf (codeStack h) != .inService && (s.stack h).st != 3 then 0x0301
  else if hit.any fun h => (s.stack h).st == 3 then 0x0751 else if hit.any fun h => (s.stack h).stop then 0x0752 else 0

/-- Why the firmware's access to a device range is refused; 0 where it is admitted (R170, R178, R182, R199, R414). -/
def State.fwStatus (s : State) (a len : Nat) : Nat :=
  if !rangeOk a len then 0x0741
  else match region a with
    | .shelf n =>
      let sh := s.shelf n
      if s.svcOf (codeSlice (n % 64)) != .inService then 0x0301 else if sh.qst != 0 then 0x0314 else if sh.mode != 2 then 0x0312 else if !sh.fw then 0x0311 else 0
    | .hbm => s.stackStatus a len
    | .fieldbook t => if s.unitBusy t then 0x0301 else 0
    | _ => 0

/-! ## Write-back and invalidation (R180, R182, R414) -/

/-- The dirty cached lines that `p` picks. -/
def State.dirtyLines (s : State) (p : Nat → Bool) : List Nat :=
  s.arc.cache.flatMap fun kv => ((kv.2.filter (·.dirty)).map fun l => cacheAddr kv.1 l.tag).filter p

/-- The dirty cached lines that `p` picks are written back, whole, so that HBM can be read there again (R201). -/
def State.writeBack (s : State) (p : Nat → Bool) : State :=
  let s1 := s.countAll ((s.dirtyLines p).flatMap fun a => [ctrSlice (sliceOf a) + 4, ctrStack (a / 2 ^ 37) + 3])
  let clean := fun (k : Nat) (l : CLine) =>
    if p (cacheAddr k l.tag) then { l with dirty := false, under := l.under && !l.dirty } else l
  { s1 with arc := { s1.arc with cache := Map.mapVals s1.arc.cache fun k w => w.map (clean k) } }

/-- The dirty cached lines that `p` picks are written back by requests of a class (R183). -/
def State.writeBackAs (s : State) (cls : Cls) (p : Nat → Bool) : State :=
  (s.countAll ((s.dirtyLines p).map fun a => ctrSlice (sliceOf a) + 9 + cls.ix)).writeBack p

/-- The cached lines that `p` picks are invalidated. -/
def State.invalidate (s : State) (p : Nat → Bool) : State :=
  let m := Map.mapVals s.arc.cache fun k w => w.filter fun l => !p (cacheAddr k l.tag)
  let gone := s.arc.cache.flatMap fun kv => (kv.2.filter fun l => p (cacheAddr kv.1 l.tag)).map fun l => (kv.1, l)
  gone.foldl (fun s kl => s.dropLine kl.1 kl.2) { s with arc := { s.arc with cache := Map.keep m fun _ w => !w.isEmpty } }

/-- The cached lines that `p` picks are invalidated by requests of a class (R180, R183). -/
def State.invalidateAs (s : State) (cls : Cls) (p : Nat → Bool) : State :=
  let ls := s.arc.cache.flatMap fun kv => (kv.2.map fun l => cacheAddr kv.1 l.tag).filter p
  (s.countAll (ls.map fun a => ctrSlice (sliceOf a) + 9 + cls.ix)).invalidate p

/-- The line that holds an address is in one of the ranges. -/
def inRanges (rs : List (Nat × Nat)) (line : Nat) : Bool :=
  rs.any fun r => decide (r.1 < line + 256) && decide (line < r.1 + r.2)

end Sys2Proof.Machine
end

