-- ==== Sys2Proof/Machine/MatCore.lean ====
section
/-! DEFINITION. The matrix array on plain memory: reduction descriptors, the placement of one step, the
quantised path, and the finalisation of tiles (spec 04, R91-R117). -/

namespace Sys2Proof.Machine

/-! ## Reduction descriptors (R99) -/

/-- FMTA. -/
def dFmtA {n : Nat} (d : BitVec n) : Fmt := (fmtOf (fld d 0 4)).getD .fp32
/-- FMTB. -/
def dFmtB {n : Nat} (d : BitVec n) : Fmt := (fmtOf (fld d 4 4)).getD .fp32
/-- FMT, the target. -/
def dFmt {n : Nat} (d : BitVec n) : Fmt := (fmtOf (fld d 163 4)).getD .fp32
/-- The wide ledger class (R29). -/
def dWide {n : Nat} (d : BitVec n) : Bool := (dFmtA d).isWide || (dFmtB d).isWide
/-- COUPLED. -/
def dCoupled {n : Nat} (d : BitVec n) : Bool := bit d 28
/-- ZMODE. -/
def dZmode {n : Nat} (d : BitVec n) : Bool := bit d 31
/-- QPATH. -/
def dQpath {n : Nat} (d : BitVec n) : Bool := bit d 15
/-- The operand block size that IBS gives. -/
def dIbs {n : Nat} (d : BitVec n) : Nat := if bit d 10 then 16 else 32
/-- The width in bits that TW gives. -/
def dTw {n : Nat} (d : BitVec n) : Nat := match fld d 29 2 with | 0 => 24 | 1 => 32 | _ => 64
/-- OSC. -/
def dOsc {n : Nat} (d : BitVec n) : Nat := fld d 170 2
/-- The output block size that OBS gives. -/
def dObs {n : Nat} (d : BitVec n) : Nat := if bit d 172 then 16 else 32
/-- ZPA, ZPB. -/
def dZpa {n : Nat} (d : BitVec n) : Nat := fld d 11 2
/-- See `dZpa`. -/
def dZpb {n : Nat} (d : BitVec n) : Nat := fld d 13 2
/-- DSRC. -/
def dSrc {n : Nat} (d : BitVec n) : Nat := fld d 16 2

/-- One operand's scale and zero point agree with R25, R27 and R101. -/
def operandOk (f : Fmt) (scaled : Bool) (zp : Nat) : Bool :=
  !f.isTally && (!scaled || f.scaleAllowed) && (scaled || !f.scaleRequired) && zp != 3 &&
  (zp == 0 || f == .s8 || f == .u8) && (f != .u8 || zp != 0) && !(scaled && zp != 0)

/-- OSC and FMT agree (R83): a scale where R25 requires one, none where it allows none. -/
def oscOk (f : Fmt) (osc : Nat) : Bool :=
  osc != 3 && (osc != 0 || !f.scaleRequired) && (osc == 0 || f.scaleAllowed)

/-- R114's conditions on a quantised descriptor. -/
def qpathOk {n : Nat} (d : BitVec n) : Bool :=
  (dFmtA d).isInt && (dFmtB d).isInt && !bit d 8 && !bit d 9 && !dCoupled d && (dFmt d).isInt && dOsc d == 0

/-- The checks of R101, which are those of a load. -/
def descOk (d : BitVec 512) : Bool :=
  (fmtOf (fld d 0 4)).isSome && (fmtOf (fld d 4 4)).isSome && (fmtOf (fld d 163 4)).isSome &&
  operandOk (dFmtA d) (bit d 8) (dZpa d) && operandOk (dFmtB d) (bit d 9) (dZpb d) &&
  fld d 197 315 == 0 && decide (fld d 129 10 ≤ 639) && fld d 29 2 != 3 &&
  -- R66: FORMAT for a scaled narrow or a coupled wide reduction
  !(dSrc d == 0 && !dWide d && (bit d 8 || bit d 9)) && !(dSrc d == 0 && dWide d && dCoupled d) &&
  -- R74
  !(dCoupled d && fld d 32 48 == 0) &&
  -- R83
  (if (dFmt d).isTally then dCoupled d && (dFmt d).tallyW == dTw d && dOsc d == 0 else oscOk (dFmt d) (dOsc d)) &&
  (!dQpath d || qpathOk d) && !(dOsc d == 2 && !bit d 172 && dWide d)

/-- Emax_a + Emax_b, with the zero point's row of R63. -/
def dEmax {n : Nat} (d : BitVec n) : Int := (dFmtA d).emax (dZpa d != 0) + (dFmtB d).emax (dZpb d != 0)

/-- The slot that a descriptor and its resolved product datum make (R58, R74, R100); none for the datum of
an uncoupled wide reduction (R66). -/
def slotOf (d : BitVec 512) (dp : Option Int) : Slot :=
  let p := dp.getD 0
  let ds := if dCoupled d then sumDatum p (fld d 32 48) else 0
  let wlsb : Int :=
    if dCoupled d then ds - ((dTw d : Int) - 1) else if dWide d then -298 else p - 127
  { desc := d, dp := p, dpset := dp.isSome, wlsb := wlsb, ds := ds }

/-! ## Tiles -/

/-- Rows or columns of the full tile: 16 for a native narrow tile, 8 otherwise (R93). -/
def tileDim (wide geom : Bool) : Nat := if wide || geom then 8 else 16

/-- The cell that holds piece 0 of output (i, j): (i, j) in a native narrow tile, (2i, 2j) otherwise (R91,
R92, R93). -/
def cellOf (wide geom : Bool) (i j : Nat) : Nat := if wide || geom then 16 * (2 * i) + 2 * j else 16 * i + j

/-- The segment holds a tile: accumulating or parked. -/
def Segment.holds (g : Segment) : Bool := g.st == .accumulating || g.st == .parked

/-- The segment that MOPEN leaves (R60, R102). -/
def openSegment (sl : Slot) (dslot : Nat) (geom : Bool) (rows cols : Nat) : Segment :=
  { Segment.empty with
    st := .accumulating, dslot := dslot, geom := geom, rows := rows, cols := cols,
    clear := Ledger.clearAs (dWide sl.desc) (dCoupled sl.desc) sl.dpset sl.dp sl.wlsb }

/-! ## MACC (R103, R104) -/

/-- The segment of an MACC, MFIN, MSAVE, MLOAD or MSUM. -/
def eSeg (e : Entry) : Bool := bit e 8
/-- K of an MACC. -/
def eK (e : Entry) : Nat := fld e 80 24

/-- Blocks that K steps from phase `sph` touch. -/
def blocksOf (sph k ibs : Nat) : Nat := (sph + k + ibs - 1) / ibs

/-- MACC reads the zero-point record (R103). -/
def readsZp (d : BitVec 512) : Bool := !dQpath d && (dZpa d == 2 || dZpb d == 2)

/-- The byte ranges of an MACC over all K steps, as granule and length (R103, R104). -/
def maccRanges (d : BitVec 512) (e : Entry) (dim : Nat) : List (Nat × Nat) :=
  let k := eK e
  let nb := blocksOf (fld e 11 5) k (dIbs d)
  [(fld e 16 16, elemBytes (dFmtA d).width (dim * k)), (fld e 32 16, elemBytes (dFmtB d).width (dim * k))] ++
  (if bit d 8 then [(fld e 48 16, nb * dim)] else []) ++ (if bit d 9 then [(fld e 64 16, nb * dim)] else []) ++
  (if readsZp d then [(fld e 104 16, 32)] else [])

/-- The ranges of Fieldbook bytes that step `k` reads. -/
def stepRanges (d : BitVec 512) (e : Entry) (dim k : Nat) : List (Nat × Nat) :=
  let wa := (dFmtA d).width
  let wb := (dFmtB d).width
  let blk := (fld e 11 5 + k) / dIbs d
  [(16 * fld e 16 16 + wa * dim * k / 8, elemBytes wa dim), (16 * fld e 32 16 + wb * dim * k / 8, elemBytes wb dim)] ++
  (if bit d 8 then [(16 * fld e 48 16 + blk * dim, dim)] else []) ++
  (if bit d 9 then [(16 * fld e 64 16 + blk * dim, dim)] else []) ++
  (if !dQpath d && dZpa d == 2 then [(16 * fld e 104 16, 16)] else []) ++
  (if !dQpath d && dZpb d == 2 then [(16 * fld e 104 16 + 16, 16)] else [])

/-- The zero point applied to row or column `i` at decode (R42, R103); 0 on the quantised path (R115). -/
def operandZp (m : Memory) (d : BitVec 512) (f : Fmt) (kind perTensor recAddr i : Nat) : Int :=
  if dQpath d then 0
  else match kind with
    | 0 => 0
    | 1 => zeroPoint f perTensor
    | _ => zeroPoint f (m.read (recAddr + i)).toNat

/-- The operand of row or column `i` at step `k`: code, zero point, scale code. -/
def operandAt (m : Memory) (fb : Nat) (d : BitVec 512) (e : Entry) (dim k i : Nat) (isB : Bool) :
    Nat × Int × Option Nat :=
  let f := if isB then dFmtB d else dFmtA d
  let a := fb + 16 * (if isB then fld e 32 16 else fld e 16 16)
  let blk := (fld e 11 5 + k) / dIbs d
  let sc := if isB then (if bit d 9 then some (m.read (fb + 16 * fld e 64 16 + blk * dim + i)).toNat else none)
            else (if bit d 8 then some (m.read (fb + 16 * fld e 48 16 + blk * dim + i)).toNat else none)
  let zrec := fb + 16 * fld e 104 16 + (if isB then 16 else 0)
  let zp := if isB then operandZp m d f (dZpb d) (fld d 189 8) zrec i else operandZp m d f (dZpa d) (fld d 181 8) zrec i
  (elemAt m a f.width (dim * k + i), zp, sc)

/-- The products of one step's operands placed into the ledgers of a segment, rows and columns within ROWS and COLS, and, where
they are asked for, the row and column sums of the sum lane (R91, R96, R102, R113). -/
def placeOperands (d : BitVec 512) (as bs : List (Nat × Int × Option Nat)) (rowLane colLane : Bool) (sg : Segment) :
    Segment × List ShedEv :=
  let wide := dWide d
  let pairs := (List.range sg.rows).flatMap fun i => (List.range sg.cols).map fun j => (i, j)
  let r := pairs.foldl (fun (acc : Map Ledger × List ShedEv) ij =>
    let a := as.getD ij.1 (0, 0, none)
    let b := bs.getD ij.2 (0, 0, none)
    let cell := cellOf wide sg.geom ij.1 ij.2
    let p := product (dFmtA d) a.1 a.2.1 a.2.2 (dFmtB d) b.1 b.2.1 b.2.2
    let q := (Map.getD acc.1 cell sg.clear).place p
    (Map.put acc.1 cell q.1, acc.2 ++ q.2)) (sg.ledgers, [])
  let lane := fun (f : Fmt) (old : Map Int) (os : List (Nat × Int × Option Nat)) =>
    (os.zipIdx).foldl (fun (acc : Map Int) oi =>
      Map.put acc oi.2 (wrapS 48 (Map.getD acc oi.2 0 + storedInt f oi.1.1))) old
  ({ sg with ledgers := r.1,
             rowsum := if rowLane then lane (dFmtA d) sg.rowsum as else sg.rowsum,
             colsum := if colLane then lane (dFmtB d) sg.colsum bs else sg.colsum }, r.2)

/-- The products of step `k` of an MACC, its operands read from the Fieldbook (R103). -/
def placeStep (m : Memory) (fb : Nat) (d : BitVec 512) (e : Entry) (k : Nat) (sg : Segment) :
    Segment × List ShedEv :=
  let dim := tileDim (dWide d) sg.geom
  placeOperands d ((List.range dim).map fun i => operandAt m fb d e dim k i false)
    ((List.range dim).map fun j => operandAt m fb d e dim k j true) (bit e 9) (bit e 10) sg

/-- Clocks in which the array places the products of step `k` (R93): one, four for FP32, one for two steps of
4-bit operands in native geometry. -/
def stepClocks (d : BitVec 512) (geom : Bool) (k : Nat) : Nat :=
  if dFmtA d == .fp32 || dFmtB d == .fp32 then 4
  else if (dFmtA d).width == 4 && (dFmtB d).width == 4 && !geom then (if k % 2 = 0 then 1 else 0)
  else 1

/-! ## MFIN (R106-R108, R115, R116) -/

/-- The outputs of a tile in row-major order over the full tile. -/
def tileCells (dim : Nat) : List (Nat × Nat) :=
  (List.range dim).flatMap fun i => (List.range dim).map fun j => (i, j)

/-- The zero point of the quantised side record for row or column `i` (R115). -/
def qZero (m : Memory) (fb recOff : Nat) (f : Fmt) (kind perTensor i : Nat) : Int :=
  match kind with
  | 0 => 0
  | 1 => zeroPoint f perTensor
  | _ => zeroPoint f (m.read (fb + 16 * (m.readLE (fb + recOff) 2) + i)).toNat

/-- A ledger after the correction of R115: output (i, j) of a segment, `col` its column across the pair. Where WLSB is
above 0 the corrected sum is kept in units of 1, in which it is whole. -/
def qCorrect (m : Memory) (fb : Nat) (d : BitVec 512) (e : Entry) (sg : Segment) (i j col : Nat) : Ledger :=
  let l := sg.ledger (cellOf (dWide d) sg.geom i j)
  let q := 16 * fld e 72 16
  let za := qZero m fb q (dFmtA d) (dZpa d) (fld d 181 8) i
  let zb := qZero m fb (q + 2) (dFmtB d) (dZpb d) (fld d 189 8) col
  let rs := m.readLE (fb + q + 4) 2
  let cs := m.readLE (fb + q + 6) 2
  let rsum : Int := if rs = 0xFFFF then Map.getD sg.rowsum i 0 else sx 64 (m.readLE (fb + 16 * rs + 8 * i) 8)
  let csum : Int := if cs = 0xFFFF then Map.getD sg.colsum j 0 else sx 64 (m.readLE (fb + 16 * cs + 8 * col) 8)
  let k : Int := -(zb * rsum) - za * csum + l.cnt * za * zb
  let v := if l.wlsb < 0 then wrapS 160 (l.val + k * 2 ^ (-l.wlsb).toNat) else wrapS 160 (l.val * 2 ^ l.wlsb.toNat + k)
  { l with val := v, wlsb := min 0 l.wlsb, seen := decide (v ≠ 0), landed := decide (v ≠ 0) }

/-- The output of the quantised path (R116): code and saturation. A ledger whose NAN is set gives NaN, by the first
step of R84, which R88 does not set aside (log entry 100). -/
def qOutput (m : Memory) (fb : Nat) (d : BitVec 512) (e : Entry) (l : Ledger) (col : Nat) : Nat × List ShedEv :=
  let zo : Int := if dFmt d == .s4 then sx 4 (fld d 173 8) else zeroPoint (dFmt d) (fld d 173 8)
  if l.nan then (wrapU (dFmt d).width zo, [.nanZero]) else
  let rqt := m.readLE (fb + 16 * fld e 72 16 + 8) 2
  let mul := sx 32 (m.readLE (fb + 16 * rqt + 8 * col) 4)
  let sh := bitsOf (m.read (fb + 16 * rqt + 8 * col + 4)).toNat 0 6
  let v : Int := if l.wlsb < 0 then Int.tdiv l.val (2 ^ (-l.wlsb).toNat) else l.val * 2 ^ l.wlsb.toNat
  let y := Int.tdiv (v * mul) (2 ^ sh) + zo
  let lh := intRange (dFmt d)
  let z := max lh.1 (min lh.2 y)
  (wrapU (dFmt d).width z, if z = y then [] else [.satFin])

/-- The finalisation settings of a slot (R83, R88). -/
def finSet {n : Nat} (d : BitVec n) : FinSet := ⟨dFmt d, bit d 167, bit d 168, bit d 169, dOsc d, 0⟩

/-- One output position of a finished tile row: its column, whether it is written, its ledger and the zero mode of its
reduction. -/
structure OutPos where
  col : Nat
  valid : Bool
  led : Ledger
  ieee : Bool
  deriving DecidableEq, Repr

/-- The segments of an MFIN with the columns they start at (R106). -/
def finSegs (mt : Mat) (e : Entry) : List Segment :=
  if bit e 9 then [mt.seg0, mt.seg1] else if eSeg e then [mt.seg1] else [mt.seg0]

/-- The positions of row `i` over the segments of an MFIN, in column order (R107). -/
def rowPositions (m : Memory) (fb : Nat) (mt : Mat) (e : Entry) (dim : Nat) (i : Nat) : List OutPos :=
  ((finSegs mt e).zipIdx).flatMap fun sx =>
    let sg := sx.1
    let d := (Map.getD mt.slots sg.dslot ⟨0, 0, false, 0, 0⟩).desc
    (List.range dim).map fun j =>
      let col := dim * sx.2 + j
      ⟨col, decide (i < sg.rows) && decide (j < sg.cols),
        if dQpath d then qCorrect m fb d e sg i j col else sg.ledger (cellOf (dWide d) sg.geom i j), dZmode d⟩

/-- What MFIN makes: for each row that is written, its writes, its scale codes; and the events, the report
bits of R89, and for a collective the values and special codes of every position. The scale codes stand apart from
the other writes: they go to SCL whatever DEST is (R106, log entry 99). -/
structure FinTile where
  writes : List (Nat × Nat × Nat)
  scales : List (Nat × Nat × Nat)
  events : List ShedEv
  clamp : Bool
  shed : Bool
  values : List Nat
  codes : List Nat
  deriving DecidableEq, Repr

/-- Blocks of a row: block size 16 splits a native narrow pair in two; otherwise the row is one block
(R108). With a given scale the block is OBS elements of the row. -/
def blockLen (obs rowLen : Nat) : Nat := if obs < rowLen then obs else rowLen

/-- A list cut into pieces of `n`. -/
def chunks {α : Type} (n : Nat) : (fuel : Nat) → List α → List (List α)
  | 0, _ => []
  | _ + 1, [] => []
  | f + 1, xs => xs.take n :: chunks n f (xs.drop n)

/-- A row finalised into element codes and scale codes. Blocks hold every position of the row; a position
outside COLS takes part with a clear ledger and is not written. -/
def finRow (m : Memory) (fb : Nat) (d : BitVec 512) (e : Entry) (rowIx : Nat) (ps : List OutPos) :
    List Nat × List Nat × List ShedEv × Bool :=
  let f := finSet d
  let n := ps.length
  let bl := blockLen (dObs d) n
  let nb := if bl = 0 then 0 else (n + bl - 1) / bl
  if dQpath d then
    let outs := ps.map fun p => if p.valid then qOutput m fb d e p.led p.col else (0, [])
    (outs.map (·.1), [], outs.flatMap (·.2), false)
  else if f.fmt.isTally then (ps.map fun p => p.led.tally (dTw d), [], [], false)
  else if f.osc = 0 then
    let outs := ps.map fun p => if p.valid then finaliseOne f f.sat 0 p.ieee p.led else Conv.ok 0
    (outs.map (·.code), [], outs.flatMap Conv.events, false)
  else
    let bs := (chunks bl n ps).zipIdx.map fun bi =>
      let given := (m.read (fb + 16 * fld e 40 16 + nb * rowIx + bi.2)).toNat
      let act := bi.1.filter (·.valid)
      let o := finaliseBlock f given (act.map fun p => (p.led, p.ieee))
      let codes := bi.1.map fun p => if p.valid then o.codes.getD (act.findIdx (·.col == p.col)) 0 else 0
      (codes, o)
    (bs.flatMap (·.1), bs.map (·.2.scale), bs.flatMap (·.2.events), bs.any (·.2.clamp))

/-- SHED_ALL of R89 over the ledgers of a tile: some ledger SEEN and none LANDED. On the quantised path these are the
corrected ones (R115). -/
def shedAll (ls : List Ledger) : Bool := ls.any (·.seen) && !(ls.any (·.landed))

/-- Everything that MFIN computes: the writes of a Fieldbook destination (R107), and the tile of a
collective one. `d` is the slot of segment 0 of a pair, whose zero mode packs the special codes of both segments (log
entry 101). -/
def finTile (m : Memory) (fb : Nat) (mt : Mat) (d : BitVec 512) (e : Entry) (dim : Nat) : FinTile :=
  let f := dFmt d
  let rstride := fld e 28 12
  let rows := (List.range dim).map fun i => rowPositions m fb mt e dim i
  let outs := rows.zipIdx.map fun ri => (ri.1, ri.2, finRow m fb d e ri.2 ri.1)
  let ieee := dZmode d
  let code := fun (p : OutPos) => if p.valid then p.led.special ieee else codeIdentity ieee
  let live := outs.filter fun o => o.1.any (·.valid)
  let elemWrites := live.flatMap fun o =>
    (o.1.zipIdx).filterMap fun pk =>
      if pk.1.valid then
        some (nibOf (fb + 16 * (fld e 12 16 + o.2.1 * rstride)) f.width pk.2, f.width, o.2.2.1.getD pk.2 0)
      else none
  let scaleWrites := live.flatMap fun o =>
      (o.2.2.2.1.zipIdx).filterMap fun sk =>
        let a := fb + 16 * fld e 40 16 + o.2.2.2.1.length * o.2.1 + sk.2
        if dOsc d = 2 || (sk.1 = 255 && (m.read a).toNat != 255) then some (nibOf a 8 0, 8, sk.1) else none
  let codeWrites := if f.isTally then live.map fun o =>
      (nibOf (fb + 16 * (fld e 56 16 + o.2.1)) 8 0, 128, packCodes ieee (o.1.map code))
    else []
  { writes := elemWrites ++ codeWrites,
    scales := scaleWrites,
    events := live.flatMap (·.2.2.2.2.1),
    clamp := live.any (·.2.2.2.2.2),
    shed := shedAll (if dQpath d then (rows.flatten.filter (·.valid)).map (·.led)
      else (finSegs mt e).flatMap fun sg => sg.ledgers.map (·.2)),
    values := outs.flatMap fun o => (o.1.zipIdx).map fun pk => if pk.1.valid then o.2.2.1.getD pk.2 0 else 0,
    codes := outs.flatMap fun o => o.1.map code }

/-- Blocks of a full row of `cols` elements. -/
def rowBlocks (d : BitVec 512) (cols : Nat) : Nat :=
  let bl := max 1 (blockLen (dObs d) cols)
  (cols + bl - 1) / bl

/-- Columns of a full row of an MFIN. -/
def finCols (e : Entry) (dim : Nat) : Nat := if bit e 9 then 2 * dim else dim

/-- Rows of an MFIN that some segment holds. -/
def finRows (mt : Mat) (e : Entry) : Nat := (finSegs mt e).foldl (fun a sg => max a sg.rows) 0

/-- The ranges that MFIN writes, as granule and length (R106, R107): of the last row of each segment, as far as its last
column; rows above it end no higher. -/
def finWrites (mt : Mat) (d : BitVec 512) (e : Entry) (dim : Nat) : List (Nat × Nat) :=
  let nrows := finRows mt e
  (if fld e 10 2 = 0 then
    ((finSegs mt e).zipIdx.map fun sx =>
      (fld e 12 16 + (sx.1.rows - 1) * fld e 28 12, elemBytes (dFmt d).width (dim * sx.2 + sx.1.cols))) ++
    (if (dFmt d).isTally then [(fld e 56 16, 16 * nrows)] else [])
   else []) ++
  (if dOsc d = 2 then [(fld e 40 16, rowBlocks d (finCols e dim) * nrows)] else [])

/-- The ranges that MFIN reads, as granule and length (R106, R115). The zero points of a pair are those that either
segment's slot names. -/
def finReads (m : Memory) (fb : Nat) (mt : Mat) (d : BitVec 512) (e : Entry) (dim : Nat) : List (Nat × Nat) :=
  let cols := finCols e dim
  let q := 16 * fld e 72 16
  let w := fun (o : Nat) => m.readLE (fb + q + o) 2
  let slots := (finSegs mt e).map fun sg => (Map.getD mt.slots sg.dslot ⟨0, 0, false, 0, 0⟩).desc
  (if dOsc d = 1 then [(fld e 40 16, rowBlocks d cols * finRows mt e)] else []) ++
  (if dQpath d then
    [(fld e 72 16, 16)] ++ (if slots.any fun d => dZpa d == 2 then [(w 0, 16)] else []) ++
    (if slots.any fun d => dZpb d == 2 then [(w 2, cols)] else []) ++
    (if w 4 ≠ 0xFFFF then [(w 4, 128)] else []) ++ (if w 6 ≠ 0xFFFF then [(w 6, 8 * cols)] else []) ++
    [(w 8, 8 * cols)]
   else [])

/-- The ranges that MFIN reads or writes (R103). -/
def finRanges (m : Memory) (fb : Nat) (mt : Mat) (d : BitVec 512) (e : Entry) (dim : Nat) : List (Nat × Nat) :=
  finWrites mt d e dim ++ finReads m fb mt d e dim

/-- A pair that R107 or R108 does not allow. -/
def pairBad (mt : Mat) (d0 d1 : BitVec 512) (dim : Nat) : Bool :=
  let a := mt.seg0
  let b := mt.seg1
  (a.geom != b.geom) || (dWide d0 != dWide d1) || (dQpath d0 != dQpath d1) ||
  ((dFmt d0).isTally && !(dCoupled d1 && dTw d1 == dTw d0)) ||
  (dOsc d0 == 2 && (a.dslot != b.dslot || a.rows != b.rows || decide (a.cols < dim)))

/-- An OSC 0b10 block that the tile cannot hold whole (R108). -/
def blockBad (d : BitVec 512) (pair geom : Bool) : Bool :=
  dOsc d == 2 &&
  (if dWide d then !pair || !bit d 172
   else if bit d 172 then geom && !pair
   else !pair || geom)

/-! ## MSUM (R117) -/

/-- The sums of an MSUM: for each row or column the sum of its stored integers over K steps. -/
def msumSums (m : Memory) (a : Nat) (f : Fmt) (dim k : Nat) : List Int :=
  (List.range dim).map fun i =>
    (List.range k).foldl (fun acc st => acc + storedInt f (elemAt m a f.width (dim * st + i))) (0 : Int)

end Sys2Proof.Machine
end

