-- ==== Sys2Proof/Machine/VecCore.lean ====
section
/-! DEFINITION. The vector engine on plain memory: setup records, entries, the checks before an entry reads
anything, and one group of each entry (spec 05, R123-R147). -/

namespace Sys2Proof.Machine

/-! ## Setup records (R126) -/

/-- A format field of a setup record; a reserved code never stands in a loaded slot. -/
def vFmt (d : BitVec 512) (lo : Nat) : Fmt := (fmtOf (fld d lo 4)).getD .fp32

/-- A format with its scale flag and zero point as R25 and R27 allow (R127). -/
def vOperandOk (f : Fmt) (scaled : Bool) (zp : Nat) : Bool :=
  (!scaled || f.scaleAllowed) && (scaled || !f.scaleRequired) && (zp == 0 || f == .s8 || f == .u8) &&
  !(scaled && zp != 0)

/-- The checks of R127. -/
def setupOk (d : BitVec 512) : Bool :=
  [0, 4, 8, 12].all (fun lo => decide (fld d lo 4 < 12)) &&
  vOperandOk (vFmt d 0) (bit d 16) (fld d 28 8) && vOperandOk (vFmt d 4) (bit d 17) (fld d 36 8) &&
  vOperandOk (vFmt d 8) (bit d 18) (fld d 44 8) && vOperandOk (vFmt d 12) (fld d 23 2 != 0) (fld d 52 8) &&
  fld d 23 2 != 3 && fld d 26 2 == 0 && fld d 188 324 == 0 &&
  [60, 76, 92, 108].all (fun lo => decide (fld d lo 16 ≤ 0xBFFF)) &&
  (fld d 172 16 == 0xFFFF || decide (fld d 172 16 ≤ 0xBFFF))

/-- Block size of A, B, C and D. -/
def vIbs (d : BitVec 512) : Nat := if bit d 19 then 16 else 32
/-- OSC. -/
def vOsc (d : BitVec 512) : Nat := fld d 23 2
/-- The result format FD. -/
def vFd (d : BitVec 512) : Fmt := vFmt d 12
/-- The output zero point of FD. -/
def vZo (d : BitVec 512) : Int := zeroPoint (vFd d) (fld d 52 8)

/-! ## Entries (R128, R129) -/

/-- LEN. -/
def vLen (e : Entry) : Nat := fld e 24 24
/-- SUB. -/
def vSub (e : Entry) : Nat := fld e 13 4
/-- A VRED that is one part of a row that continues in its ledger; RLEN is then ignored (R145). -/
def vPart (e : Entry) : Bool := fld e 0 8 == 0x31 && !(bit e 22 && bit e 23)
/-- The length of a row: RLEN, or LEN where RLEN is 0 (R126) or ignored. -/
def vRow (d : BitVec 512) (e : Entry) : Nat := if fld d 124 24 = 0 || vPart e then vLen e else fld d 124 24

/-- Which operands an opcode reads as element streams: A, B, C (R129). -/
def vReads (e : Entry) : Bool × Bool × Bool :=
  match fld e 0 8 with
  | 0x11 => (true, true, false) | 0x12 => (true, true, false) | 0x13 => (true, true, false)
  | 0x14 => (true, true, true) | 0x15 => (true, true, false) | 0x16 => (true, true, false)
  | 0x1A => (true, true, false) | 0x1B => (true, true, false)
  | 0x31 => (true, vSub e == 2, false)
  | _ => (true, false, false)

/-- The bits of an entry that its opcode uses (R128). -/
def vUsed (op : Nat) : Nat :=
  let span := fun (lo w : Nat) => (2 ^ w - 1) * 2 ^ lo
  let common := span 0 8 + span 8 2 + span 10 3 + span 24 24 + span 48 16 + span 96 16 + span 112 16
  let b := span 17 1 + span 64 16
  match op with
  | 0x10 => span 0 26
  | 0x11 => common + b | 0x12 => common + b | 0x13 => common + b | 0x15 => common + b | 0x16 => common + b
  | 0x14 => common + b + span 18 1 + span 80 16
  | 0x1A => common + b + span 13 4
  | 0x1B => common + b + span 80 16
  | 0x20 => common + span 13 4
  | 0x31 => common + b + span 13 4 + span 19 5
  | 0x32 => common + span 64 16
  | 0x33 => common + span 64 16
  | _ => common

/-- No field that the opcode does not use is set, and LEN is not 0 (R128, R129, R493). -/
def vFieldsOk (e : Entry) : Bool :=
  (e.toNat &&& vUsed (fld e 0 8)) == e.toNat && (fld e 0 8 == 0x10 || vLen e != 0)

/-- Element-row index and block index of element `i` (R130). -/
def vBlock (d : BitVec 512) (e : Entry) (i : Nat) : Nat :=
  let row := vRow d e
  let per := (row + vIbs d - 1) / vIbs d
  i / row * per + i % row / vIbs d

/-- Blocks of a stream of LEN elements. -/
def vBlocks (d : BitVec 512) (e : Entry) : Nat := if vLen e = 0 then 0 else vBlock d e (vLen e - 1) + 1

/-- Rows of an entry; a VRED that continues a ledger is one row (R145). -/
def vRows (d : BitVec 512) (e : Entry) : Nat :=
  if vPart e then 1 else vLen e / max 1 (vRow d e)

/-- Elements of the result stream: one per row for VRED, and then only when it finalises. -/
def vOutLen (d : BitVec 512) (e : Entry) : Nat :=
  if fld e 0 8 = 0x31 then (if bit e 23 then vRows d e else 0) else vLen e

/-- The operand streams as (granule, bytes, element width, has a scale stream): A and B (R131). -/
def vStreamsAB (d : BitVec 512) (e : Entry) : List (Nat × Nat × Nat × Bool) :=
  let r := vReads e
  let op := fld e 0 8
  let wa := (vFmt d 0).width
  let wb := (vFmt d 4).width
  (if r.1 then [(fld e 48 16, elemBytes wa (if op = 0x33 then fld d 148 24 else vLen e), wa, bit d 16)] else []) ++
  (if r.2.1 then [(fld e 64 16, elemBytes wb (if bit e 17 then 1 else vLen e), wb, bit d 17)] else [])

/-- Every other stream an entry reads or writes beside its result, as (granule, bytes): C, masks, index and
scale streams (R130, R131). -/
def vStreamsOther (d : BitVec 512) (e : Entry) : List (Nat × Nat) :=
  let r := vReads e
  let op := fld e 0 8
  let nb := vBlocks d e
  (if r.2.2 then [(fld e 80 16, elemBytes (vFmt d 8).width (if bit e 18 then 1 else vLen e))] else []) ++
  (if op = 0x1B then [(fld e 80 16, (vLen e + 7) / 8)] else []) ++
  (if op = 0x32 || op = 0x33 then [(fld e 64 16, 4 * vLen e)] else []) ++
  (if bit e 10 then [(fld e 112 16, (vLen e + 7) / 8)] else []) ++
  (if r.1 && bit d 16 then [(fld d 60 16, nb)] else []) ++
  (if r.2.1 && bit d 17 then [(fld d 76 16, if bit e 17 then 1 else nb)] else []) ++
  (if r.2.2 && bit d 18 then [(fld d 92 16, if bit e 18 then 1 else nb)] else []) ++
  (if vOsc d != 0 && op != 0x1A && op != 0x31 then [(fld d 108 16, nb)] else [])

/-- The result stream as (granule, bytes). VCMP writes mask bits (R134). -/
def vResult (d : BitVec 512) (e : Entry) : Nat × Nat :=
  (fld e 96 16, if fld e 0 8 = 0x1A then (vLen e + 7) / 8 else elemBytes (vFd d).width (vOutLen d e))

/-- The row-status vector, where one is written (R142, R145). -/
def vStatusRange (d : BitVec 512) (e : Entry) : List (Nat × Nat) :=
  if (fld e 0 8 = 0x30 || (fld e 0 8 = 0x31 && bit e 23)) && fld d 172 16 != 0xFFFF then
    [(fld d 172 16, vRows d e)] else []

/-- Two ranges of granule and bytes overlap; an empty one overlaps nothing. -/
def gOverlap (a b : Nat × Nat) : Bool :=
  a.2 != 0 && b.2 != 0 && decide (16 * a.1 < 16 * b.1 + b.2) && decide (16 * b.1 < 16 * a.1 + a.2)

/-- The result stream overlaps a stream it may not (R131). -/
def vOverlap (d : BitVec 512) (e : Entry) : Bool :=
  let r := vResult d e
  let wd := if fld e 0 8 = 0x1A then 1 else (vFd d).width
  (vStreamsAB d e).any (fun st =>
    gOverlap r (st.1, st.2.1) && !(st.1 == r.1 && st.2.1 == r.2 && st.2.2.1 == wd && !st.2.2.2)) ||
  (vStreamsOther d e).any (gOverlap r)

/-- The combinations that R129-R145 refuse. -/
def vComboBad (d : BitVec 512) (e : Entry) : Bool :=
  let op := fld e 0 8
  (fld d 124 24 != 0 && vLen e % fld d 124 24 != 0 && !vPart e) ||
  (bit e 10 && !bit e 12 && vOsc d != 0 && op != 0x30 && op != 0x31 && op != 0x1A) ||
  (match op with
   | 0x1A => decide (7 < vSub e)
   | 0x20 => decide (11 < vSub e)
   | 0x31 => decide (5 < vSub e) || vOsc d != 0 || (vFd d).scaleRequired ||
       (decide (3 ≤ vSub e) && !(bit e 22 && bit e 23))
   | 0x32 => fld d 0 4 != fld d 12 4 || bit d 16 || vOsc d != 0
   | 0x33 => fld d 0 4 != fld d 12 4 || bit d 16 || vOsc d != 0
   | _ => false)

/-- What an entry is refused with before it reads anything; none where it starts (R131, R146). `openLed`
says whether a reduction ledger is open. -/
def vStartStatus (d : BitVec 512) (e : Entry) (openLed : Nat → Bool) : Option Nat :=
  if !vFieldsOk e || vComboBad d e then some 0x0803
  else if fld e 0 8 = 0x31 && !bit e 22 && !openLed (fld e 19 3) then some 0x0726
  else if !(((vStreamsAB d e).map (fun st => (st.1, st.2.1)) ++ vStreamsOther d e ++ vStatusRange d e ++
      (if vOutLen d e = 0 then [] else [vResult d e])).all fun r => granOk r.1 r.2) then some 0x0722
  else if vOverlap d e then some 0x0727
  else none

/-! ## Operands and masks (R132, R135) -/

/-- Element `i` of an operand: code, zero point, scale code; `which` is 0, 1, 2 for A, B, C. -/
def vCode (m : Memory) (fb : Nat) (d : BitVec 512) (e : Entry) (which i : Nat) : Nat × Int × Option Nat :=
  let f := vFmt d (4 * which)
  let one := (which = 1 && bit e 17) || (which = 2 && bit e 18)
  let a := fb + 16 * fld e (48 + 16 * which) 16
  let k := if one then 0 else i
  let sc := if bit d (16 + which) then
      some (m.read (fb + 16 * fld d (60 + 16 * which) 16 + (if one then 0 else vBlock d e i))).toNat else none
  (elemAt m a f.width k, zeroPoint f (fld d (28 + 8 * which) 8), sc)

/-- Element `i` of an operand as an exact value. -/
def vOperand (m : Memory) (fb : Nat) (d : BitVec 512) (e : Entry) (which i : Nat) : Val :=
  let c := vCode m fb d e which i
  decodeScaled (vFmt d (4 * which)) c.1 c.2.1 c.2.2

/-- The exact product of element `i` of A and of another operand, by the path that the pair of formats takes
(R46, log entry 97). -/
def vProduct (m : Memory) (fb : Nat) (d : BitVec 512) (e : Entry) (which i : Nat) : Val :=
  let a := vCode m fb d e 0 i
  let b := vCode m fb d e which i
  product (vFmt d 0) a.1 a.2.1 a.2.2 (vFmt d (4 * which)) b.1 b.2.1 b.2.2

/-- Bit `i` of a mask stream at granule `g` (R130). -/
def maskBit (m : Memory) (fb g i : Nat) : Bool := (m.read (fb + 16 * g + i / 8)).toNat.testBit (i % 8)

/-- Element `i` is active (R135). -/
def vActive (m : Memory) (fb : Nat) (e : Entry) (i : Nat) : Bool :=
  !bit e 10 || (maskBit m fb (fld e 112 16) i != bit e 11)

/-- The code of +0 of the result format (R135). -/
def vZeroCode (d : BitVec 512) : Nat := writeZero (vFd d) (vZo d) false

/-- The exact result of an element-wise entry (R132-R138); VCVT of -0 is +0 (R133). -/
def vResultVal (m : Memory) (fb : Nat) (d : BitVec 512) (e : Entry) (i : Nat) : Val :=
  let a := vOperand m fb d e 0 i
  match fld e 0 8 with
  | 0x11 => a.add (vOperand m fb d e 1 i)
  | 0x12 => a.add (vOperand m fb d e 1 i).negate
  | 0x13 => vProduct m fb d e 1 i
  | 0x14 => (vProduct m fb d e 1 i).add (vOperand m fb d e 2 i)
  | 0x15 => a.min (vOperand m fb d e 1 i)
  | 0x16 => a.max (vOperand m fb d e 1 i)
  | 0x17 => a.abs
  | 0x18 => a.negate
  | 0x19 => match a with
    | .zero _ => .zero false
    | v => v
  | 0x1B => if maskBit m fb (fld e 80 16) i then a else vOperand m fb d e 1 i
  | 0x20 => vfunVal (vSub e) a
  | _ => a

/-- The conditions of VCMP (R134). -/
def vCondition (sub : Nat) (a b : Val) : Bool :=
  let c := Val.cmp a b
  match sub with
  | 0 => c == some .eq
  | 1 => c != some .eq
  | 2 => c == some .lt
  | 3 => c == some .lt || c == some .eq
  | 4 => c == some .gt
  | 5 => c == some .gt || c == some .eq
  | 6 => c == none
  | _ => c != none

/-! ## One group (R124, R147) -/

/-- Lanes of an entry: 64 when every format it reads or writes is at most 16 bits wide (R123). VCMP, and a VRED that
does not finalise, write no element of FD. -/
def vLanes (d : BitVec 512) (e : Entry) : Nat :=
  let r := vReads e
  if (r.1 && (vFmt d 0).width == 32) || (r.2.1 && (vFmt d 4).width == 32) || (r.2.2 && (vFmt d 8).width == 32) ||
     (fld e 0 8 != 0x1A && vOutLen d e != 0 && (vFd d).width == 32) then 32 else 64

/-- An entry whose unit of progress is a row: VSWEEP, whose first two passes write nothing (R142). -/
def vByRow (e : Entry) : Bool := fld e 0 8 == 0x30

/-- A VRED whose rows each open and finalise the ledger (R145); its groups start anew in each row. -/
def vRedRows (e : Entry) : Bool := fld e 0 8 == 0x31 && bit e 22 && bit e 23

/-- A VPERM or VGATH whose source is also its result: it copies the codes that stood there before the entry (R143,
log entry 98). -/
def vInPlace (e : Entry) : Bool := (fld e 0 8 == 0x32 || fld e 0 8 == 0x33) && fld e 48 16 == fld e 96 16

/-- Groups of one row of a VRED that goes by rows. -/
def vRowGroups (d : BitVec 512) (e : Entry) : Nat := (vRow d e + vLanes d e - 1) / vLanes d e

/-- Steps of an entry: groups, or rows. -/
def vSteps (d : BitVec 512) (e : Entry) : Nat :=
  if vByRow e then vRows d e
  else if vRedRows e then vRows d e * vRowGroups d e
  else (vLen e + vLanes d e - 1) / vLanes d e

/-- Step `g` of a VRED ends a row, which is finalised then (R145). -/
def vFinal (d : BitVec 512) (e : Entry) (g : Nat) : Bool :=
  if vRedRows e then (g + 1) % vRowGroups d e == 0 else bit e 23 && g + 1 == vSteps d e

/-- The end of element `i`'s block. -/
def vBlockEnd (d : BitVec 512) (e : Entry) (i : Nat) : Nat :=
  let row := vRow d e
  let start := i / row * row
  min (vLen e) (min (start + row) (start + (i % row / vIbs d + 1) * vIbs d))

/-- The elements that step `g` reads: those of the row, or those of the group. -/
def vReadElems (d : BitVec 512) (e : Entry) (g : Nat) : List Nat :=
  let n := vLanes d e
  if vByRow e then (List.range (vRow d e)).map (g * vRow d e + ·)
  else if vRedRows e then
    let k := g % vRowGroups d e
    (List.range n).filterMap fun j =>
      if k * n + j < vRow d e then some (g / vRowGroups d e * vRow d e + k * n + j) else none
  else (List.range n).filterMap fun k => if g * n + k < vLen e then some (g * n + k) else none

/-- The elements that step `g` finishes: those it reads, or, where an output scale is computed from a whole block, those of
the blocks that end in it (R86). -/
def vElems (d : BitVec 512) (e : Entry) (g : Nat) : List Nat :=
  let n := vLanes d e
  if vOsc d == 2 && !vByRow e && fld e 0 8 != 0x1A && fld e 0 8 != 0x31 then
    (List.range (n + vIbs d)).filterMap fun k =>
      let i := g * n + k - vIbs d
      if g * n + k < vIbs d then none
      else if i < vLen e && decide (g * n < vBlockEnd d e i) && decide (vBlockEnd d e i ≤ (g + 1) * n) then some i
      else none
  else vReadElems d e g

/-- The elements behind step `g` that lie in the block of its last element, where a given scale may turn to NaN for the
whole block (R53). -/
def vAhead (d : BitVec 512) (e : Entry) (g : Nat) : List Nat :=
  if vOsc d == 1 && !vByRow e && fld e 0 8 != 0x1A && fld e 0 8 != 0x31 then
    match (vReadElems d e g).getLast? with
    | some i => (List.range (vBlockEnd d e i - (i + 1))).map (i + 1 + ·)
    | none => []
  else []

/-- The given output scales that a step reads. -/
def vScaleRange (d : BitVec 512) (e : Entry) (i0 i1 : Nat) : List (Nat × Nat) :=
  if vOsc d = 1 && fld e 0 8 != 0x1A && fld e 0 8 != 0x31 then
    [(16 * fld d 108 16 + vBlock d e i0, vBlock d e i1 + 1 - vBlock d e i0)]
  else []

/-- The byte ranges of the Fieldbook from which the elements of a step take their operands, indices and masks. A group reads
the whole span of its operand streams, its inactive elements with it, where one of its elements is active, and none of it
where none is: the spec says only that an inactive element is not decoded (R135), and the rest is the model's choice (log
entry 131). -/
def vOperandRanges (m : Memory) (fb : Nat) (d : BitVec 512) (e : Entry) (is : List Nat) : List (Nat × Nat) :=
  match is.head?, is.getLast? with
  | some i0, some i1 =>
    let r := vReads e
    let op := fld e 0 8
    let n := i1 + 1 - i0
    let stream := fun (which : Nat) (one : Bool) =>
      let w := (vFmt d (4 * which)).width
      let a := 16 * fld e (48 + 16 * which) 16
      (if one then (a, elemBytes w 1) else (a + w * i0 / 8, (w * (i1 + 1) + 7) / 8 - w * i0 / 8)) ::
      (if bit d (16 + which) then
        [(16 * fld d (60 + 16 * which) 16 + (if one then 0 else vBlock d e i0),
          if one then 1 else vBlock d e i1 + 1 - vBlock d e i0)] else [])
    let idx := 16 * fld e 64 16
    (if op = 0x32 || op = 0x33 then
        (idx + 4 * i0, 4 * n) :: (is.filter (vActive m fb e)).filterMap (fun i =>
          let k := m.readLE (fb + idx + 4 * i) 4
          let lim := if op = 0x32 then vRow d e else fld d 148 24
          if k < lim then
            let j := if op = 0x32 then i / vRow d e * vRow d e + k else k
            some (16 * fld e 48 16 + (vFmt d 0).width * j / 8, elemBytes (vFmt d 0).width 1)
          else none)
      else
        let act := is.filter (vActive m fb e)
        if act.isEmpty then [] else
          (if r.1 then stream 0 false else []) ++ (if r.2.1 then stream 1 (bit e 17) else []) ++
          (if r.2.2 then stream 2 (bit e 18) else [])) ++
    (if op = 0x1B then [(16 * fld e 80 16 + i0 / 8, i1 / 8 + 1 - i0 / 8)] else []) ++
    (if bit e 10 then [(16 * fld e 112 16 + i0 / 8, i1 / 8 + 1 - i0 / 8)] else [])
  | _, _ => []

/-- Every byte range of the Fieldbook that the elements of a step read. -/
def vStepRanges (m : Memory) (fb : Nat) (d : BitVec 512) (e : Entry) (is : List Nat) : List (Nat × Nat) :=
  vOperandRanges m fb d e is ++ (match is.head?, is.getLast? with
    | some i0, some i1 => vScaleRange d e i0 i1
    | _, _ => [])

/-- What one step of an entry does: its writes, the events of its conversions, and its reduction ledger. -/
structure VOut where
  writes : List (Nat × Nat × Nat)
  events : List ShedEv
  ledger : Option Ledger
  deriving DecidableEq, Repr

/-- The settings with which results are written (R132). -/
def vFin (d : BitVec 512) : FinSet := ⟨vFd d, bit d 20, bit d 21, bit d 22, vOsc d, vZo d⟩

/-- The write of a result element's code. The last of an odd number of 4-bit elements takes its whole byte, with bits
[7:4] zero (R28). -/
def vPut (fb : Nat) (d : BitVec 512) (e : Entry) (i code : Nat) : Nat × Nat × Nat :=
  let w := (vFd d).width
  (nibOf (fb + 16 * fld e 96 16) w i, if w = 4 && i % 2 == 0 && i + 1 == vOutLen d e then 8 else w, code)

/-- A list of elements with their values written by blocks: codes and, for OSC 0b10, scale codes. Elements
of value none are inactive: they take no part, and are written as +0 or left (R135). A block that becomes NaN under a
given scale has 0xFF written over it (R53); `ahead` are the elements of the last block that a later group writes. -/
def vWriteBlocks (m : Memory) (fb : Nat) (d : BitVec 512) (e : Entry) (vs ahead : List (Nat × Option Val)) (putZero : Bool) :
    List (Nat × Nat × Nat) × List ShedEv :=
  let ids := (vs.map fun iv => vBlock d e iv.1).eraseDups
  let outs := ids.map fun b =>
    let grp := vs.filter fun iv => vBlock d e iv.1 == b
    let act := grp.filterMap fun iv => iv.2.map fun v => (iv.1, v)
    let given := (m.read (fb + 16 * fld d 108 16 + b)).toNat
    let more := ahead.filterMap fun iv => if vBlock d e iv.1 == b then iv.2 else none
    let o := if (writeBlock (vFin d) given (act.map (·.2) ++ more)).scale = 255 && !more.isEmpty then
        ⟨255, act.map fun _ => 0, [], false⟩
      else writeBlock (vFin d) given (act.map (·.2))
    let ws := (act.zip o.codes).map fun ac => vPut fb d e ac.1.1 ac.2
    let zs := if putZero then (grp.filter (·.2.isNone)).map (fun iv => vPut fb d e iv.1 (vZeroCode d)) else []
    let sc := if vOsc d = 2 || (vOsc d = 1 && o.scale = 255 && given != 255) then [(nibOf (fb + 16 * fld d 108 16) 8 b, 8, o.scale)] else []
    (ws ++ zs ++ sc, o.events)
  (outs.flatMap (·.1), outs.flatMap (·.2))

/-- The row-status byte of row `r`, where RSADR names a vector (R142). -/
def vStatusWrite (fb : Nat) (d : BitVec 512) (r st : Nat) : List (Nat × Nat × Nat) :=
  if fld d 172 16 = 0xFFFF then [] else [(nibOf (fb + 16 * fld d 172 16) 8 r, 8, st)]

/-- One row of VSWEEP (R140, R141), of which the first `lim` elements are written: all of them, or those of the groups
before one whose given scale cannot be read (R147). -/
def vSweepRow (m : Memory) (fb : Nat) (d : BitVec 512) (e : Entry) (r : Nat) (is : List Nat) (lim : Nat) : VOut :=
  let xs := is.map fun i => (i, if vActive m fb e i then some (vOperand m fb d e 0 i) else none)
  let isActive := fun (x : Nat × Option Val) => match x.2 with | some (.inf true) => false | none => false | _ => true
  let act := xs.filterMap fun x => if isActive x then x.2 else none
  let isPinf := fun (v : Val) => v == .inf false
  let write := fun (f : Nat × Option Val → Val) (st : Nat) =>
    let vs := xs.map fun x => (x.1, some (f x))
    let o := vWriteBlocks m fb d e (vs.take lim) (vs.drop lim) false
    (⟨o.1 ++ (if is.length ≤ lim then vStatusWrite fb d r st else []), o.2, none⟩ : VOut)
  if act.any (·.isNan) then write (fun _ => .nan) 4
  else if act.isEmpty then write (fun _ => .zero false) 1
  else if act.any isPinf then
    let k := (act.filter isPinf).length
    write (fun x => if x.2 == some (.inf false) then Val.div (.fin 1 0) (.fin k 0) else .zero false) 2
  else
    let mx := act.foldl Val.max (.inf true)
    let ex := fun (v : Val) => rn32 (primitive (if bit d 25 then 1 else 0) (v.add mx.negate))
    let l := act.foldl (fun (l : Ledger) v => (l.place (ex v)).1) (Ledger.clearAs true false false 0 (-298))
    let sum := Val.mk l.val l.wlsb
    write (fun x => if isActive x then (match x.2 with | some v => Val.div (ex v) sum | none => .zero false)
      else .zero false) 0

/-- The elements of one step of VRED placed in a ledger (R144). -/
def vRedPlace (m : Memory) (fb : Nat) (d : BitVec 512) (e : Entry) (l : Ledger) (is : List Nat) :
    Ledger × List ShedEv :=
  (is.filter (vActive m fb e)).foldl (fun (acc : Ledger × List ShedEv) i =>
    let v := match vSub e with
      | 0 => vOperand m fb d e 0 i
      | 1 => vProduct m fb d e 0 i
      | _ => vProduct m fb d e 1 i
    let r := acc.1.place v
    (r.1, acc.2 ++ r.2)) (l, [])

/-- The result of a row of VRED written, with its status byte (R144, R145). NAN is set where the exact result is NaN; a
finite or infinite one that FD can hold only as its NaN code does not set it (log entry 132). -/
def vRedWrite (fb : Nat) (d : BitVec 512) (e : Entry) (r : Nat) (c : Conv) (empty nan : Bool) :
    List (Nat × Nat × Nat) :=
  vPut fb d e r c.code :: vStatusWrite fb d r (b2n empty + 4 * b2n nan)

/-- Step `g` of a VRED is the first of a row, or of a part with OPEN, which clears the ledger at its start (R145). -/
def vOpens (d : BitVec 512) (e : Entry) (g : Nat) : Bool :=
  fld e 0 8 == 0x31 && (if vRedRows e then g % vRowGroups d e == 0 else g == 0 && bit e 22)

/-- The ledger of a VRED, cleared (R145). -/
def vRedClear : Ledger := Ledger.clearAs true false false 0 (-298)

/-- One step of VRED, a group, on a ledger that `vOpens` has cleared where it does. MAX, MIN and AMAX take the whole row in
its last group and place nothing in the ledger (R144, R145). -/
def vRedStep (m : Memory) (fb : Nat) (d : BitVec 512) (e : Entry) (g : Nat) (l0 : Ledger) (is : List Nat) : VOut :=
  let row := if vRedRows e then g / vRowGroups d e else 0
  if 3 ≤ vSub e then
    if !vFinal d e g then ⟨[], [], some l0⟩
    else
      let all := (List.range (vRow d e)).map (row * vRow d e + ·)
      let act := (all.filter (vActive m fb e)).map (vOperand m fb d e 0)
      let v := match vSub e, act with
        | _, [] => .zero false
        | 3, x :: xs => xs.foldl Val.max x
        | 4, x :: xs => xs.foldl Val.min x
        | _, xs => xs.foldl Val.amax (.zero false)
      let c := convert (vFd d) ⟨bit d 20, bit d 21, bit d 22, vZo d⟩ v
      ⟨vRedWrite fb d e row c act.isEmpty v.isNan, c.events, some l0⟩
  else
    let p := vRedPlace m fb d e l0 is
    if vFinal d e g then
      let c := finaliseOne (vFin d) (bit d 21) 0 true p.1
      ⟨vRedWrite fb d e row c (p.1.cnt == 0) (p.1.nan || (p.1.pinf && p.1.ninf)), p.2 ++ c.events, some p.1⟩
    else ⟨[], p.2, some p.1⟩

/-- The code that VPERM or VGATH copies to element `i` (R143); `kept` holds the codes that the entry has written over
in its own source. -/
def vGatherCode (m : Memory) (fb : Nat) (d : BitVec 512) (e : Entry) (kept : Map Nat) (i : Nat) : Nat :=
  let k := m.readLE (fb + 16 * fld e 64 16 + 4 * i) 4
  let a := fb + 16 * fld e 48 16
  let src := fun (j : Nat) => Map.getD kept j (elemAt m a (vFmt d 0).width j)
  if fld e 0 8 = 0x32 then
    if k < vRow d e then src (i / vRow d e * vRow d e + k) else vZeroCode d
  else if k < fld d 148 24 then src k else vZeroCode d

/-- The codes kept by an entry that writes over its own source, after a step: a VPERM needs those of its present row only, and
no entry needs any once it is done. While an entry keeps codes its queue does not stop for a pre-emption (R148, log entry
98). -/
def vKeep (m : Memory) (fb : Nat) (d : BitVec 512) (e : Entry) (g : Nat) (kept : Map Nat) : Map Nat :=
  let next := (g + 1) * vLanes d e
  if !vInPlace e || vLen e ≤ next then []
  else
    let all := (vElems d e g).foldl (fun k i => Map.put k i (elemAt m (fb + 16 * fld e 48 16) (vFmt d 0).width i)) kept
    if fld e 0 8 = 0x32 then Map.keep all fun j _ => decide (next / vRow d e * vRow d e ≤ j) else all

/-- Mask bits written by VCMP for the elements of a group, byte by byte (R134). -/
def vCmpWrites (m : Memory) (fb : Nat) (d : BitVec 512) (e : Entry) (is : List Nat) : List (Nat × Nat × Nat) :=
  let bytes := (is.map (· / 8)).eraseDups
  bytes.map fun b =>
    let a := fb + 16 * fld e 96 16 + b
    let v := (is.filter (· / 8 == b)).foldl (fun (acc : Nat) i =>
      let r := vActive m fb e i && vCondition (vSub e) (vOperand m fb d e 0 i) (vOperand m fb d e 1 i)
      setBits acc (i % 8) 1 (b2n r)) (m.read a).toNat
    (2 * a, 8, v)

/-- One step of a V entry. `ahead` are the elements of `vAhead` that can be read. -/
def vStep (m : Memory) (fb : Nat) (d : BitVec 512) (e : Entry) (g : Nat) (l0 : Ledger) (kept : Map Nat) (ahead : List Nat) :
    VOut :=
  let is := vElems d e g
  let copied : VOut :=
    ⟨is.filterMap fun i => if vActive m fb e i then some (vPut fb d e i (vGatherCode m fb d e kept i))
      else if bit e 12 then some (vPut fb d e i (vZeroCode d)) else none, [], none⟩
  match fld e 0 8 with
  | 0x30 => vSweepRow m fb d e g is is.length
  | 0x31 => vRedStep m fb d e g l0 is
  | 0x1A => ⟨vCmpWrites m fb d e is, [], none⟩
  | 0x32 => copied
  | 0x33 => copied
  | _ =>
    let val := fun (i : Nat) => (i, if vActive m fb e i then some (vResultVal m fb d e i) else none)
    let o := vWriteBlocks m fb d e (is.map val) (ahead.map val) (bit e 12)
    ⟨o.1, o.2, none⟩

/-- Vector groups that a step writes (R467): those of a row of VSWEEP, else one where anything is written. -/
def vGroupsWritten (d : BitVec 512) (e : Entry) (o : VOut) (is : List Nat) : Nat :=
  if o.writes.isEmpty then 0 else if vByRow e then (is.length + vLanes d e - 1) / vLanes d e else 1

end Sys2Proof.Machine
end

