-- ==== Sys2Proof/Machine/Image.lean ====
section
/-! DEFINITION. Context images and save areas: what a state block holds, byte by byte, and the state of a context that
is not in the engines (spec 13, R61, R62, R121, R148, R161, R168, R330-R332). The places inside a block that R330 leaves
open are those of log entry 63. -/

namespace Sys2Proof.Machine

/-! ## Places in an image (R330) -/

/-- The footprint parcels of a context. -/
def footParcels (foot : Nat) : List Nat :=
  ((List.range 64).filter fun i => foot.testBit i).flatMap fun i => (List.range 256).map (256 * i + ·)

/-- The tracts of a footprint, which have a part in it. -/
def footTracts (foot : Nat) : List Nat := ((List.range 1093).map (16384 + ·)).filter (inFoot foot)

/-- Bytes of a context's range per parcel. -/
def Ctx.rangeBytes (c : Ctx) : Nat := 16 * (c.fbhi - c.fblo)

/-- Where the Fieldbook area of parcel `p` lies in the image. -/
def Ctx.areaAddr (c : Ctx) (p : Nat) : Nat := c.img + 0x14113000 + p * c.rangeBytes

/-- Device address of a granule of a parcel's range in the image. -/
def Ctx.imageGran (v : Ctx) (p g : Nat) : Nat := v.areaAddr p + 16 * (g - v.fblo)

/-- Where the state block of a unit lies in the image: 20,480 bytes for a parcel, 1,024 for a tract. -/
def Ctx.blockAddr (v : Ctx) (u : Nat) : Nat :=
  if u < 16384 then v.img + 0x1000 + 20480 * u else v.img + 0x14001000 + 1024 * (u - 16384)

/-- Where the synchronisation state lies in a unit's state block. -/
def syncOff (u : Nat) : Nat := if u < 16384 then 18688 else 0

/-- Where the state block of a footprint parcel lies in its save area (R331). -/
def Ctx.saveAddr (v : Ctx) (p : Nat) : Nat := granAddr p v.save

/-! ## Bytes and their badness -/

/-- The listed bytes of [a, a + len). -/
def Memory.part (m : Memory) (a len : Nat) : Memory := Map.keep m fun k _ => decide (a ≤ k) && decide (k < a + len)

/-- Zeros written at a device address; a granule or line written whole is good again. -/
def State.zeroFill (s : State) (a len : Nat) : State :=
  { s with mem := s.mem.clear a len,
           bad := Map.keep s.bad fun k _ => !(decide (a ≤ k) && decide (k + badSpan k ≤ a + len)) }

/-- Bytes written, which are all zero when `zero` says so. -/
def State.storeOr (s : State) (zero : Bool) (a len : Nat) (bs : List Byte) : State :=
  if zero then s.zeroFill a len else s.store a bs

/-- The bytes of [src, src + len) copied to `dst`; what reads as uncorrectable arrives as lost (R189, R418). -/
def State.copyLost (s : State) (dst src len : Nat) : State :=
  let keys := s.badKeys src len
  let s1 : State := { s with
    mem := s.mem.copy dst src len,
    bad := Map.keep s.bad fun k _ => !(decide (dst ≤ k) && decide (k + badSpan k ≤ dst + len)) }
  keys.foldl (fun s k =>
    let lo := max k src
    let n := (min (k + badSpan k) (src + len) - lo + 15) / 16
    (List.range n).foldl (fun s i => s.lose (dst + (lo - src) + 16 * i)) s) s1

/-! ## Fields of a synchronisation entry (R155) -/

/-- STAKE. -/
def yStake (e : Entry) : Nat := fld e 11 6
/-- TSC. -/
def yTsc (e : Entry) : Nat := fld e 17 3
/-- FSC. -/
def yFsc (e : Entry) : Nat := fld e 9 2
/-- HANDLE. -/
def yHandle (e : Entry) : Nat := fld e 37 16
/-- CLOS. -/
def yClos (e : Entry) : Nat := fld e 53 10
/-- ADDR. -/
def yAddr (e : Entry) : Nat := fld e 64 16
/-- COND. -/
def yCond (e : Entry) : Nat := fld e 80 3
/-- LC. -/
def yLc (e : Entry) : Nat := fld e 91 2

/-- Where a stake lies: with a unit or station tract of this station, at another station, or nowhere. -/
inductive Place where
  | here (key : Nat)
  | away (home : Nat)
  | absent
  deriving DecidableEq, Repr

/-- The unit that a stake target names (R155, R169). -/
def State.target (s : State) (c u : Nat) (e : Entry) : Place :=
  let unit := fun (v : Nat) => if inFoot (s.ctx c).foot v then Place.here (engKey c v) else Place.absent
  match yTsc e with
  | 0 => .here (engKey c u)
  | 5 => match pathUnit (fld e 20 17) with
    | some v => unit v
    | none => .absent
  | 6 => match Map.find s.stracts (yHandle e) with
    | some t => if t.home = s.station then .here (engKey c (stractUnit (yHandle e))) else .away t.home
    | none => .absent
  | k => unit (enclosing u k)

/-- What an SWAIT or SWAITC waits for (R155). -/
def yWant (e : Entry) : Want := if fld e 0 8 = 0xF1 then .clear else if bit e 8 then .setClr else .set

/-! ## The synchronisation state, 896 bytes (R168) -/

/-- A stake's state as a byte. -/
def StakeSt.code : StakeSt → Nat
  | .clear => 0 | .set => 1 | .abandoned => 2

/-- The stake state of a byte. -/
def stakeOfCode : Nat → StakeSt
  | 1 => .set | 2 => .abandoned | _ => .clear

/-- The stake of an index in a synchronisation state. -/
def Sync.stake (y : Sync) (i : Nat) : Stake := Map.getD y.stakes i ⟨.clear, 0⟩

/-- The 256 bytes of stakes: 48 states, the stake table, the misuse counters and flags, and padding. -/
def Sync.stakeBytes (y : Sync) : List Byte :=
  (List.range 48).map (fun i => BitVec.ofNat 8 (y.stake i).st.code) ++
  (List.range 48).flatMap (fun i => toLE 4 (y.stake i).entry.toNat) ++
  toLE 1 y.doubleSet ++ toLE 1 y.doubleClear ++ toLE 1 y.orphan ++ toLE 1 y.earlyExtra ++
  toLE 1 (b2n y.misuse + 2 * b2n y.msat + 8 * b2n y.abandon) ++ List.replicate 11 0

/-- The 512 bytes of closure bits: four for each closure, the lower in the low half. -/
def Sync.closureBytes (y : Sync) : List Byte :=
  (List.range 512).map fun i => BitVec.ofNat 8 (Map.getD y.closures (2 * i) 0 + 16 * Map.getD y.closures (2 * i + 1) 0)

/-- How the entry at a queue's head waits. -/
def WaitKind.code : WaitKind → Nat
  | .engine => 1 | .stake _ _ _ => 2 | .closure _ => 3 | .held _ => 4 | .ack => 5

/-- The wait at the head of a queue that issues its own program. -/
def Queue.waitCode (w : Queue) : Nat := if w.fed then 0 else (w.head.map fun h => h.kind.code).getD 0

/-- A queue idle, running or stopped. -/
def QRun.code : QRun → Nat
  | .idle => 0 | .running => 1 | .stopped => 2

/-- The run state of a code. -/
def qrunOf : Nat → QRun
  | 1 => .running | 2 => .stopped | _ => .idle

/-- The 32 bytes of a queue. A wait is saved unexecuted: the program counter is that of the entry (R161). -/
def Queue.bytes (w : Queue) : List Byte :=
  let pc := if w.fed then w.pc else (w.head.map fun h => h.addr).getD w.pc
  let failed := fun (i : Nat) => match w.failed[i]? with
    | some kv => toLE 2 kv.1 ++ toLE 2 kv.2
    | none => toLE 4 0
  toLE 2 pc ++ toLE 2 (w.handler.getD 0) ++ toLE 2 w.status ++
  toLE 1 (w.run.code + 4 * b2n w.handler.isSome + 8 * b2n w.fed + 16 * b2n w.branched + 32 * w.waitCode) ++
  toLE 1 (w.t2rem / 65536) ++
  (List.range 4).flatMap (fun i => toLE 3 (w.loops.getD i 0)) ++ toLE 2 w.faddr ++ toLE 2 w.t2rem ++ failed 0 ++ failed 1

/-- The 896 bytes of a synchronisation state. -/
def Sync.bytes (y : Sync) : List Byte :=
  y.stakeBytes ++ y.closureBytes ++ y.qm.bytes ++ y.qv.bytes ++ y.qx.bytes ++ y.qs.bytes

/-- The stakes in the bytes at `a`. -/
def stakesOf (m : Memory) (a : Nat) : Map Stake :=
  (List.range 48).foldl (fun t i =>
    Map.putD t i ⟨stakeOfCode (m.read (a + i)).toNat, BitVec.ofNat 32 (m.readLE (a + 48 + 4 * i) 4)⟩ ⟨.clear, 0⟩) []

/-- The closure bits in the listed bytes from `a` up. -/
def closuresOf (m : Memory) (a : Nat) : Map Nat :=
  (m.part a 512).flatMap fun kv =>
    [(2 * (kv.1 - a), kv.2.toNat % 16), (2 * (kv.1 - a) + 1, kv.2.toNat / 16)].filter fun x => x.2 != 0

/-- The wait of a saved entry, by its code (R161, R165). -/
def State.waitKind (s : State) (c u code : Nat) (e : Entry) : Option WaitKind :=
  match code with
  | 1 => some .engine
  | 2 => match s.target c u e with
    | .here h => some (.stake h (yStake e) (yWant e))
    | _ => none
  | 3 => some (.closure (yClos e))
  | 4 => some (.held (yClos e))
  | 5 => some .ack
  | _ => none

/-- The entry of a queue's program at a granule of unit `u`, as its context holds it now: in the image, or in the
Fieldbook of its first parcel (R152, R332). -/
def State.entryAt (s : State) (c u g : Nat) (inImage : Bool) : Entry :=
  let p := firstParcel u
  BitVec.ofNat 128 (s.mem.readLE (if inImage then (s.ctx c).imageGran p g else granAddr p g) 16)

/-- The queue in the 32 bytes at `a`; `waits` lists what a member bound to its tract has still to begin. -/
def State.queueIn (s : State) (c u : Nat) (m : Memory) (a : Nat) (inImage : Bool) (waits : List (Nat × Entry)) : Queue :=
  let f := m.readLE (a + 6) 1
  let fed := f.testBit 3
  let pc := m.readLE a 2
  let e := s.entryAt c u pc inImage
  let own : Option Head := (s.waitKind c u (f / 32) e).map fun k => ⟨pc, e, k⟩
  let failed := ([24, 28].map fun o => (m.readLE (a + o) 2, m.readLE (a + o + 2) 2)).filter fun x => x.2 != 0
  { run := qrunOf (f % 4), head := if fed then waits.head?.map fun x => ⟨x.1, x.2, .engine⟩ else own,
    pc := if !fed && own.isSome then (pc + 1) % 65536 else pc,
    handler := if f.testBit 2 then some (m.readLE (a + 2) 2) else none,
    status := m.readLE (a + 4) 2, faddr := m.readLE (a + 20) 2, failed := failed, branched := f.testBit 4, fed := fed,
    passed := if fed then waits.drop 1 else [], loops := (List.range 4).map fun i => m.readLE (a + 8 + 3 * i) 3,
    t2rem := m.readLE (a + 22) 2 + 65536 * m.readLE (a + 7) 1, since := s.now }

/-! ## Positions of interrupted entries, 896 bytes (R120, R148, R177) -/

/-- One record of an interrupted entry: 24 bytes, whose flags are 0 where there is none. -/
def posBytes (flags addr : Nat) (e : Entry) (done : Nat) : List Byte :=
  toLE 1 flags ++ toLE 2 addr ++ toLE 16 e.toNat ++ toLE 5 done

/-- What a queue bound to its tract has still to begin, oldest first. -/
def Queue.waits (w : Queue) : List (Nat × Entry) :=
  if w.fed then (w.head.map fun h => (h.addr, h.entry)).toList ++ w.passed else []

/-- The entries of such a queue for which the positions have no room: the device keeps them (log entry 103). -/
def Queue.surplus (w : Queue) : List (Nat × Entry) := if w.fed then w.waits.drop 14 else w.passed

/-- The positions of a unit's interrupted entries: two MACCs, the vector entry, the X entry, and the first 14 entries that its
M, V and X queues have still to begin. -/
def Eng.posBytes (e : Eng) : List Byte :=
  let macc := fun (r : Option MaccRun) => match r with
    | some r => Machine.posBytes 1 r.addr r.entry r.done
    | none => Machine.posBytes 0 0 0 0
  let ws := [e.sync.qm.waits, e.sync.qv.waits, e.sync.qx.waits].map (·.take 14)
  macc e.mat.cur ++ macc e.mat.pend ++
  (match e.vec.run with | some r => Machine.posBytes 1 r.addr r.entry r.group | none => Machine.posBytes 0 0 0 0) ++
  (match e.x with | some r => Machine.posBytes (1 + 2 * b2n r.delayed) r.addr r.entry r.done | none => Machine.posBytes 0 0 0 0) ++
  ws.flatMap (fun l => toLE 1 l.length) ++ List.replicate 5 0 ++
  ws.flatMap (fun l => bytesAt (l.flatMap fun x => toLE 2 x.1 ++ toLE 16 x.2.toNat) 0 264)

/-- The entries that a queue had still to begin, in the positions at `a`. -/
def waitsOf (m : Memory) (a q : Nat) : List (Nat × Entry) :=
  (List.range (m.readLE (a + 96 + q) 1)).map fun i =>
    (m.readLE (a + 104 + 264 * q + 18 * i) 2, BitVec.ofNat 128 (m.readLE (a + 106 + 264 * q + 18 * i) 16))

/-- An interrupted MACC in the record at `a`. -/
def maccOf (m : Memory) (a : Nat) : Option MaccRun :=
  if (m.readLE a 1).testBit 0 then
    some ⟨m.readLE (a + 1) 2, BitVec.ofNat 128 (m.readLE (a + 3) 16), m.readLE (a + 19) 5⟩
  else none

/-- The synchronisation state in a unit's state block at `blk`; what a queue has still to begin beyond the positions is what the
device kept. -/
def State.syncIn (s : State) (c u blk : Nat) (inImage : Bool) : Sync :=
  let a := blk + syncOff u
  let m := s.mem.part a 1792
  let kept := (s.engOf (engKey c u)).sync
  let waits := fun (q : Nat) (w : Queue) =>
    if u < 16384 then waitsOf m (a + 896) q ++ (if m.readLE (a + 992 + q) 1 = 14 then w.surplus else []) else []
  let f := m.readLE (a + 244) 1
  { stakes := stakesOf m a, closures := closuresOf m (a + 256),
    qm := s.queueIn c u m (a + 768) inImage (waits 0 kept.qm), qv := s.queueIn c u m (a + 800) inImage (waits 1 kept.qv),
    qx := s.queueIn c u m (a + 832) inImage (waits 2 kept.qx), qs := s.queueIn c u m (a + 864) inImage [],
    doubleSet := m.readLE (a + 240) 1, doubleClear := m.readLE (a + 241) 1, orphan := m.readLE (a + 242) 1,
    earlyExtra := m.readLE (a + 243) 1, misuse := f.testBit 0, msat := f.testBit 1, abandon := f.testBit 3 }

/-! ## The matrix state, 17,408 bytes (R121) -/

/-- A descriptor slot with its resolved datum: the descriptor, DP in [206:197], DPSET [207], loaded [511]. -/
def slotBytes (o : Option Slot) : List Byte :=
  match o with
  | some l => toLE 64 (l.desc.toNat + wrapU 10 l.dp * 2 ^ 197 + b2n l.dpset * 2 ^ 207 + 2 ^ 511)
  | none => List.replicate 64 0

/-- The slot of 64 bytes. -/
def slotIn (w : Nat) : Option Slot :=
  if w.testBit 511 then
    some (slotOf (BitVec.ofNat 512 (w % 2 ^ 197)) (if w.testBit 207 then some (sx 10 (bitsOf w 197 10)) else none))
  else none

/-- The two segments' images, then their sum lanes; an empty segment as zeros. -/
def Mat.segBytes (m : Mat) : List Byte :=
  let seg := fun (g : Segment) => if g.st == .empty then List.replicate 8192 0 else g.images
  let lane := fun (g : Segment) => if g.st == .empty then List.replicate 256 0 else g.laneBytes
  seg m.seg0 ++ seg m.seg1 ++ lane m.seg0 ++ lane m.seg1

/-- The eight slots. -/
def Mat.slotBytes (m : Mat) : List Byte := (List.range 8).flatMap fun n => Machine.slotBytes (Map.find m.slots n)

/-- The sum lane from its 256 bytes. -/
def laneOf (m : Memory) (a : Nat) : Map Int × Map Int :=
  let half := fun (o : Nat) => (List.range 16).filterMap fun i =>
    let v := sx 64 (m.readLE (a + o + 8 * i) 8)
    if v = 0 then none else some (i, v)
  (half 0, half 128)

/-- A segment from its place in a block; none when R62 fails. -/
def segmentIn (m : Memory) (slots : Map Slot) (images lane : Nat) : Option Segment :=
  if (m.part images 8192).isEmpty then some Segment.empty
  else
    (segmentOfImages (fun i => m.readLE (images + 32 * i) 32) fun n => (Map.find slots n).isSome).map fun g =>
      if g.st == .empty then Segment.empty
      else { g with rowsum := (laneOf m lane).1, colsum := (laneOf m lane).2 }

/-- The matrix state in a block at `a`, with an interrupted MACC's position at `pos`; none when R62 fails. Tiles in
staging stay (R335). -/
def matIn (m : Memory) (a pos : Nat) (stage : List Tile) : Option Mat :=
  let slots := (List.range 8).foldl (fun (t : Map Slot) n =>
    match slotIn (m.readLE (a + 16896 + 64 * n) 64) with
    | some l => Map.put t n l
    | none => t) []
  match segmentIn m slots a (a + 16384), segmentIn m slots (a + 8192) (a + 16640) with
  | some g0, some g1 => some ⟨g0, g1, slots, maccOf m pos, maccOf m (pos + 24), [], stage⟩
  | _, _ => none

/-! ## The vector state, 1,280 bytes (R148) -/

/-- The four setup slots, then the eight ledgers as four images each. An open ledger's images read as accumulating. -/
def Vec.bytes (v : Vec) : List Byte :=
  (List.range 4).flatMap (fun n => toLE 64 (Map.getD v.slots n 0).toNat) ++
  (List.range 8).flatMap (fun n => match Map.find v.ledgers n with
    | some l => (List.range 4).flatMap fun k => toLE 32 (l.image k 1)
    | none => List.replicate 128 0)

/-- The four images of a vector ledger pass the checks of R62: all of an open wide ledger, or all of none, alike in WIDE. That
an open one has STATE 0b01 and no DSLOT, GEOM, ROWS or COLS, and no other content passes, is the model's choice (log entry
130). -/
def vecImagesOk (ws : List Nat) : Bool :=
  ws.all imageOk && (ws.all fun w => w.testBit 190 == (ws.headD 0).testBit 190) &&
  ((ws.all fun w => bitsOf w 232 2 == 0) ||
    (ws.zipIdx.all fun wi => bitsOf wi.1 232 2 == 1 && wi.1.testBit 190 && bitsOf wi.1 234 2 == wi.2 && bitsOf wi.1 236 14 == 0))

/-- The vector state in a block at `a`, with an interrupted entry's position at `pos`; none when R62 fails. An entry is saved
only while it keeps no codes (log entry 98). -/
def vecIn (m : Memory) (a pos : Nat) : Option Vec :=
  let slots := (List.range 4).foldl (fun (t : Map (BitVec 512)) n =>
    Map.putD t n (BitVec.ofNat 512 (m.readLE (a + 64 * n) 64)) 0) []
  let led := fun (n : Nat) => (List.range 4).map fun k => m.readLE (a + 256 + 128 * n + 32 * k) 32
  if (List.range 8).all fun n => vecImagesOk (led n) then
    let ledgers := (List.range 8).foldl (fun (t : Map Ledger) n =>
      if bitsOf ((led n).getD 0 0) 232 2 = 0 then t
      else Map.put t n (Ledger.ofImage ((led n).getD 0 0) ((led n).drop 1))) []
    some ⟨slots, ledgers, (maccOf m pos).map fun r => ⟨r.addr, r.entry, r.done, []⟩⟩
  else none

/-- The interrupted X entry at `pos`. -/
def xIn (m : Memory) (pos : Nat) : Option XRun :=
  (maccOf m pos).map fun r => ⟨r.addr, r.entry, r.done, false, (m.readLE pos 1).testBit 1, 0⟩

/-! ## Blocks out and in (R332) -/

/-- The rest of a queue's wait limit as it is saved: what it was less what the wait at its head has had since, in µs
(R161). -/
def Queue.parked (w : Queue) (now : Nat) : Queue :=
  match w.head with
  | some ⟨_, _, .stake _ _ _⟩ => { w with t2rem := w.t2rem - (now - w.since) / 256000, since := now }
  | _ => { w with t2rem := 0 }

/-- Every queue of a synchronisation state as it is saved. -/
def Sync.parked (y : Sync) (now : Nat) : Sync :=
  { y with qm := y.qm.parked now, qv := y.qv.parked now, qx := y.qx.parked now, qs := y.qs.parked now }

/-- Every queue of a restored synchronisation state: its wait goes on with the time that remains, from a time on (R161). -/
def Sync.restored (y : Sync) (t : Nat) : Sync :=
  { y with qm := { y.qm with since := t }, qv := { y.qv with since := t }, qx := { y.qx with since := t },
           qs := { y.qs with since := t } }

/-- The state block of a unit written at `a`: that of a parcel in four parts, that of a tract in one. -/
def State.putBlock (s : State) (u a : Nat) (e : Eng) : State :=
  if u < 16384 then
    let s1 := s.storeOr (e.mat.seg0.st == .empty && e.mat.seg1.st == .empty) a 16896 e.mat.segBytes
    let s2 := s1.storeOr (e.mat.slots == []) (a + 16896) 512 e.mat.slotBytes
    let s3 := s2.storeOr (e.vec.slots == [] && e.vec.ledgers == []) (a + 17408) 1280 e.vec.bytes
    s3.storeOr (e == Eng.empty) (a + 18688) 1792 (bytesAt (e.sync.bytes ++ e.posBytes) 0 1792)
  else s.storeOr (e.sync == Sync.empty) a 1024 (bytesAt e.sync.bytes 0 1024)

/-- What the device keeps of a queue whose state lies in an image. -/
def Queue.left (w : Queue) : Queue := { Queue.empty with passed := w.surplus }

/-- What a unit holds once its state lies in an image: tiles in staging, and what its positions have no room for (R335, log
entry 103). -/
def Eng.left (e : Eng) : Eng :=
  { Eng.empty with sync := { Sync.empty with qm := e.sync.qm.left, qv := e.sync.qv.left, qx := e.sync.qx.left },
                   mat := { Mat.empty with stage := e.mat.stage } }

/-- What a unit holds whose state block is all zero. -/
def Eng.bare (e : Eng) : Eng := { Eng.empty with mat := { Mat.empty with stage := e.mat.stage } }

/-- A unit's engine state replaced, its clock as it was. -/
def State.placeEng (s : State) (key : Nat) (e : Eng) : State := { s with eng := Map.putD s.eng key e Eng.empty }

/-- The state of a unit in the block at `a`; none when a check of R62 fails. -/
def State.blockIn (s : State) (c u a : Nat) (inImage : Bool) : Option Eng :=
  let old := s.engOf (engKey c u)
  if u < 16384 then
    let m := s.mem.part a 20480
    if m.isEmpty then some old.bare
    else
      match matIn m a (a + 19584) old.mat.stage, vecIn m (a + 17408) (a + 19632) with
      | some mt, some v => some ⟨s.syncIn c u a inImage, mt, v, xIn m (a + 19656)⟩
      | _, _ => none
  else if (s.mem.part a 1024).isEmpty then some old.bare
  else some { Eng.empty with sync := s.syncIn c u a inImage }

/-- The state of every footprint unit written into the image, that of a parcel from its save area; the device keeps no copy
(R332). -/
def State.blocksOut (s : State) (c : Nat) : State :=
  let v := s.ctx c
  (footParcels v.foot ++ footTracts v.foot).foldl (fun s u =>
    let e := s.engOf (engKey c u)
    (if u < 16384 then s.copyLost (v.blockAddr u) (v.saveAddr u) 20480 else s.putBlock u (v.blockAddr u) e).placeEng
      (engKey c u) e.left) s

/-- The state of every footprint unit taken from the image; none when a check fails. -/
def State.blocksIn (s : State) (c : Nat) : Option State :=
  let v := s.ctx c
  (footParcels v.foot ++ footTracts v.foot).foldl (fun o u => o.bind fun s =>
    (s.blockIn c u (v.blockAddr u) true).map fun e => s.placeEng (engKey c u) e) (some s)

/-- The waits of a context's queues as they are saved: they are suspended (R161). -/
def State.suspend (s : State) (c : Nat) : State :=
  { s with eng := Map.mapVals s.eng fun k e => if keyCtx k = c then { e with sync := e.sync.parked s.now } else e }

/-- The waits of a context's queues go on with the time that remained when its start began (R161, R328). -/
def State.unsuspend (s : State) (c : Nat) : State :=
  { s with eng := Map.mapVals s.eng fun k e => if keyCtx k = c then { e with sync := e.sync.restored (s.ctx c).startAt } else e }

/-- The state of every footprint parcel written into its save area; a tract keeps its own. -/
def State.saveAll (s : State) (c : Nat) : State :=
  (footParcels (s.ctx c).foot).foldl (fun s p => s.putBlock p ((s.ctx c).saveAddr p) (s.engOf (engKey c p))) s

/-- The state of every footprint parcel restored from its save area; none when a check fails. -/
def State.restoreAll (s : State) (c : Nat) : Option State :=
  (footParcels (s.ctx c).foot).foldl (fun o p => o.bind fun s =>
    (s.blockIn c p ((s.ctx c).saveAddr p) false).map fun e => s.placeEng (engKey c p) e) (some s)

/-! ## Operations on a saved synchronisation state (R161, R166, R364) -/

/-- The context is resident (R328). -/
def Ctx.resident (c : Ctx) : Bool := c.st == .starting || c.st == .running || c.st == .parked

/-- The context's synchronisation state lies in its image: LOADED, or being sliced in. -/
def Ctx.inImage (v : Ctx) : Bool := v.st == .loaded || (v.st == .starting && v.fromImage)

/-- The footprint units whose blocks in an image are not all zero. -/
def State.unitsIn (s : State) (v : Ctx) : List Nat :=
  ((s.mem.filterMap fun kv =>
    if v.img + 0x1000 ≤ kv.1 && kv.1 < v.img + 0x14001000 then some ((kv.1 - v.img - 0x1000) / 20480)
    else if v.img + 0x14001000 ≤ kv.1 && kv.1 < v.img + 0x14112400 then some (16384 + (kv.1 - v.img - 0x14001000) / 1024)
    else none).eraseDups).filter (inFoot v.foot)

/-- Those of a context's own image. -/
def State.imageUnits (s : State) (c : Nat) : List Nat := s.unitsIn (s.ctx c)

/-- The synchronisation state of a unit written into its block at `a`, where it differs from what lies there. A line or granule
of it that reads as uncorrectable stays so: it held more than the change (R189). -/
def State.putSync (s : State) (c u a : Nat) : State :=
  let y := (s.engOf (engKey c u)).sync
  if y == s.syncIn c u a (s.ctx c).inImage then s
  else if s.badIn (a + syncOff u) 896 then { s.store (a + syncOff u) y.bytes with bad := s.bad }
  else s.store (a + syncOff u) y.bytes

/-- The lines of a unit's synchronisation state in an image that read as uncorrectable are recorded (R189). -/
def State.syncReport (s : State) (u a : Nat) : State :=
  if s.bad.isEmpty then s else (s.badKeys (a + syncOff u) 896).foldl (fun s k => s.lineUnc k codeMgmt) s

/-- An operation on the synchronisation states of units `us` of a context, wherever they lie: in the image, in the save
area beside the engines, or in the engines alone. -/
def State.onSaved (s : State) (c : Nat) (us : List Nat) (f : State → State) : State :=
  let v := s.ctx c
  let real := us.filter fun u => u < 17477
  if v.inImage then
    let s1 := real.foldl (fun s u => (s.syncReport u (v.blockAddr u)).placeEng (engKey c u)
      { (s.engOf (engKey c u)).left with sync := s.syncIn c u (v.blockAddr u) true }) s
    real.foldl (fun s u => (s.putSync c u (v.blockAddr u)).placeEng (engKey c u) (s.engOf (engKey c u)).left) (f s1)
  else if v.resident && v.st != .running then
    let own := real.filter fun u => u < 16384
    let s1 := own.foldl (fun s u => s.placeEng (engKey c u)
      { s.engOf (engKey c u) with sync := s.syncIn c u (v.saveAddr u) false }) s
    own.foldl (fun s u => s.putSync c u (v.saveAddr u)) (f s1)
  else f s

/-- An operation on the whole state of units `us` of a context, wherever it lies; nothing happens in a state that cannot be
read. -/
def State.onUnits (s : State) (c : Nat) (us : List Nat) (f : State → State) : State :=
  let v := s.ctx c
  let away := v.resident && v.st != .running
  let blk := fun (u : Nat) => if v.inImage then v.blockAddr u else v.saveAddr u
  let real := us.filter fun u => v.inImage || (away && u < 16384)
  let put := fun (s : State) (u : Nat) =>
    let e := s.engOf (engKey c u)
    (s.putBlock u (blk u) e).placeEng (engKey c u) (if v.inImage then e.left else e)
  if real.any fun u => s.badIn (blk u) (if u < 16384 then 20480 else 1024) then s
  else match real.foldl (fun o u => o.bind fun (s : State) =>
      (s.blockIn c u (blk u) v.inImage).map fun e => s.placeEng (engKey c u) e) (some s) with
    | some s1 => real.foldl put (f s1)
    | none => s

/-- The synchronisation state of a unit of a context, wherever it lies. -/
def State.syncOf (s : State) (c u : Nat) : Sync :=
  let v := s.ctx c
  if v.inImage then s.syncIn c u (v.blockAddr u) true else (s.engOf (engKey c u)).sync

end Sys2Proof.Machine
end

