-- ==== Sys2Proof/Machine/Stakes.lean ====
section
/-! DEFINITION. Stakes: setting, clearing, abandoning, and the waiters that proceed (R156-R163). -/

namespace Sys2Proof.Machine

/-- The stake of an index held under a key. -/
def State.stake (s : State) (holder i : Nat) : Stake := Map.getD (s.engOf holder).sync.stakes i ⟨.clear, 0⟩

/-- The stake's state replaced. -/
def State.setStake (s : State) (holder i : Nat) (st : StakeSt) : State :=
  let y := (s.engOf holder).sync
  s.setSync holder { y with stakes := Map.putD y.stakes i { s.stake holder i with st := st } ⟨.clear, 0⟩ }

/-- The stake's state is the one a waiter waits for (R157). -/
def Want.met (w : Want) (st : StakeSt) : Bool :=
  match w with
  | .set => st == .set
  | .setClr => st == .set
  | .clear => st == .clear

/-- A count of R160 one up, saturating at 255, with PSW.MISUSE and PSW.MSAT. `which` is the counter, in the
order of TRC.MISUSE. -/
def Sync.misuseUp (y : Sync) (which : Nat) : Sync :=
  let up := fun (n : Nat) => min 255 (n + 1)
  let y' := match which with
    | 0 => { y with doubleSet := up y.doubleSet, msat := y.msat || decide (254 ≤ y.doubleSet) }
    | 1 => { y with doubleClear := up y.doubleClear, msat := y.msat || decide (254 ≤ y.doubleClear) }
    | 2 => { y with orphan := up y.orphan, msat := y.msat || decide (254 ≤ y.orphan) }
    | _ => { y with earlyExtra := up y.earlyExtra, msat := y.msat || decide (254 ≤ y.earlyExtra) }
  { y' with misuse := true }

/-- See `Sync.misuseUp`. -/
def State.misuse (s : State) (key which : Nat) : State := s.setSync key ((s.engOf key).sync.misuseUp which)

/-- The queues of a running context that wait on a stake, in the priority of R158: the stake's own unit
first, then larger tracts before smaller ones and ascending index (log entry 13), M, V, X, S within a
unit. -/
def State.waiters (s : State) (holder i : Nat) : List (Nat × Q × Want) :=
  let all := s.eng.flatMap fun kv =>
    if (s.ctx (keyCtx kv.1)).st == .running && !(s.ctx (keyCtx kv.1)).parking then
      [Q.m, Q.v, Q.x, Q.s].filterMap fun q =>
        match (kv.2.sync.queue q).head with
        | some ⟨_, _, .stake h j w⟩ => if h = holder && j = i then some (kv.1, q, w) else none
        | _ => none
    else []
  let own := all.filter fun w => w.1 == holder
  let rest := all.filter fun w => w.1 != holder
  own ++ [4, 3, 2, 1, 0].flatMap fun k => rest.filter fun w => unitOrder (keyUnit w.1) == k

/-- A waiting entry ends with a status. -/
def State.endWait (s : State) (key : Nat) (q : Q) (status : Nat) : State :=
  match (s.queue key q).head with
  | some h => s.endEntry (keyCtx key) (keyUnit key) q h.addr status
  | none => s

/-- Every waiter of a list ends with a status. -/
def State.endWaits (s : State) (ws : List (Nat × Q × Want)) (status : Nat) : State :=
  ws.foldl (fun s w => s.endWait w.1 w.2.1 status) s

/-- Steps 4 to 6 of R158, and the Bindery waits of R206: after a stake has changed, its waiters proceed. -/
def State.wakeStake (s : State) (holder i : Nat) : State :=
  let st := (s.stake holder i).st
  let ws := s.waiters holder i
  match st with
  | .abandoned => s.endWaits ws 0x0601
  | .clear => s.endWaits (ws.filter fun w => w.2.2 == .clear) 0
  | .set =>
    let s1 := { s with bndWaits := Map.keep s.bndWaits fun _ w => w != (holder, i) }
    let s2 := s1.endWaits (ws.filter fun w => w.2.2 == .set) 0
    match ws.find? fun w => w.2.2 == .setClr with
    | some w =>
      let s3 := (s2.setStake holder i .clear).endWait w.1 w.2.1 0
      s3.endWaits (ws.filter fun w => w.2.2 == .clear) 0
    | none => s2

/-- The counter of a unit in the order of R467 for a stake operation: `p` in a parcel, `t` in a tract. An operation on a station
tract's stake counts nowhere: the spec gives it no counter, and that is the model's choice (log entry 136). -/
def stakeCtr (u : Nat) (p t : Option Nat) : List Nat :=
  if 17477 ≤ u then []
  else match unitOrder u with
    | 0 => p.toList.map (ctrBase u + ·)
    | _ => t.toList.map (ctrBase u + ·)

/-- An SSET or SCLR that reaches its stake (R157, R160). -/
def State.stakeOp (s : State) (holder i : Nat) (set : Bool) : State :=
  let u := keyUnit holder
  let s := s.countAll (stakeCtr u none (some (if set then 0 else 1)))
  match (s.stake holder i).st, set with
  | .abandoned, _ => s.countAll (stakeCtr u (some 27) (some 2))
  | .clear, true => (s.setStake holder i .set).wakeStake holder i
  | .set, true => s.misuse holder 0
  | .clear, false => s.misuse holder 1
  | .set, false => (s.setStake holder i .clear).wakeStake holder i

/-- A stake becomes ABANDONED, with its unit's PSW.ABANDON, and its waiters end with 0x0601 (R162). -/
def State.abandonStake (s : State) (holder i : Nat) : State :=
  let s1 := s.setStake holder i .abandoned
  let y := (s1.engOf holder).sync
  (s1.setSync holder { y with abandon := true }).wakeStake holder i

/-- Every listed stake of a context whose key and table entry satisfy `p` becomes ABANDONED. -/
def State.abandonIn (s : State) (c : Nat) (p : Nat → BitVec 32 → Bool) : State :=
  let hits := s.eng.flatMap fun kv => if keyCtx kv.1 = c then kv.2.sync.stakes.filterMap fun iv =>
    if p kv.1 iv.2.entry then some (kv.1, iv.1) else none else []
  hits.foldl (fun s h => s.abandonStake h.1 h.2) s

/-- The units in which a context has state, in its image or on the device. -/
def State.unitsOf (s : State) (c : Nat) : List Nat :=
  if (s.ctx c).inImage then s.imageUnits c else (s.eng.filter fun kv => keyCtx kv.1 == c).map fun kv => keyUnit kv.1

/-- Every stake on the device whose key and table entry satisfy `p` becomes ABANDONED, saved ones with the rest
(R161, R162). -/
def State.abandonAll (s : State) (p : Nat → BitVec 32 → Bool) : State :=
  (List.range 8).foldl (fun s c => s.onSaved c (s.unitsOf c) fun s => s.abandonIn c p) s

/-- The holder key of a stake reference of context `c`: path in [16:0], index in [22:17] (R249, R297). -/
def stakeRef (c w : Nat) : Option (Nat × Nat) :=
  match pathUnit (w % 2 ^ 17) with
  | some u => if bitsOf w 17 6 < 48 then some (engKey c u, bitsOf w 17 6) else none
  | none => none

/-- An SSET or SCLR of a stake whose context may not be running: it acts on the saved stakes (R161). -/
def State.stakeOpAny (s : State) (holder i : Nat) (set : Bool) : State :=
  s.onSaved (keyCtx holder) [keyUnit holder] fun s => s.stakeOp holder i set

/-- The state of a stake, wherever it lies (R161). -/
def State.stakeNow (s : State) (holder i : Nat) : StakeSt :=
  let v := s.ctx (keyCtx holder)
  let u := keyUnit holder
  if v.inImage && u < 17477 then stakeOfCode (s.mem.read (v.blockAddr u + syncOff u + i)).toNat else (s.stake holder i).st

/-- A stake that is found set is cleared by the unit that waited for it. -/
def State.takeStake (s : State) (holder i : Nat) : State :=
  s.onSaved (keyCtx holder) [keyUnit holder] fun s => (s.setStake holder i .clear).wakeStake holder i

/-- A stake reference set, where its unit is present in the context and takes requests (R414). -/
def State.setRef (s : State) (c w : Nat) : State :=
  match stakeRef c w with
  | some h => if inFoot (s.ctx c).foot (keyUnit h.1) && !s.unitBusy (keyUnit h.1) then s.stakeOpAny h.1 h.2 true else s
  | none => s

end Sys2Proof.Machine
end

