-- ==== Sys2Proof/Machine/Catalogue.lean ====
section
/-! DEFINITION. The scale catalogue: prescriptions, posting, seeding, the step vote and the numerical watch
(spec 12). -/

namespace Sys2Proof.Machine

/-- Entry `k` of the catalogue. -/
def State.catEntry (s : State) (k : Nat) : CatEntry := Map.getD s.cat.entries k CatEntry.default

/-- Entry `k` replaced. -/
def State.setCat (s : State) (k : Nat) (v : CatEntry) : State :=
  { s with cat := { s.cat with entries := Map.putD s.cat.entries k v CatEntry.default } }

/-- The formats whose scale an entry may prescribe (R304). -/
def catFmtOk (f : Nat) : Bool := [3, 4, 5, 6, 8, 9, 10].contains f

/-- H: the largest of the DELAY most recent history codes; L16 codes of non-negative values rise with the
value (R307, R35). -/
def CatEntry.window (e : CatEntry) : Nat :=
  (List.range e.delay).foldl (fun a k => max a (e.hist.getD ((e.head + 16 - k) % 16) 0)) 0

/-- The prescribed scale exponent P of a seeded entry (R307). -/
def CatEntry.prescribed (e : CatEntry) : Int :=
  match decode .l16 e.window with
  | .fin m x =>
    let f := (fmtOf e.fmt).getD .l8
    max (-127) (min 127 (leastScale f m x + e.margin))
  | _ => 0

/-- PSC brought up to date (R307); 0xFF while unseeded. -/
def CatEntry.refresh (e : CatEntry) : CatEntry :=
  { e with psc := if e.seeded then (e.prescribed + 127).toNat else 255 }

/-- An AMAX that is not NaN, infinite or negative (R313). -/
def amaxOk (a : Nat) : Bool := decide (a < 0x7FFE)

/-- An unseeded entry seeded with an AMAX (R316). -/
def CatEntry.seed (e : CatEntry) (a : Nat) : CatEntry :=
  { e with hist := List.replicate 16 a, head := 0, seeded := true }.refresh

/-- A posting applied to a seeded entry (R313). -/
def CatEntry.post (e : CatEntry) (a n : Nat) : CatEntry :=
  let h := (e.head + 1) % 16
  { e with head := h, hist := e.hist.set h a, lastrev := n }.refresh

/-- P of an entry, none while it is unseeded (R66, R308). -/
def State.prescription (s : State) (k : Nat) : Option Int :=
  let e := s.catEntry k
  if e.seeded then some ((e.psc : Int) - 127) else none

/-- The 64 bytes of an entry (R304). -/
def CatEntry.bytes (e : CatEntry) : List Byte :=
  bytesAt (e.hist.flatMap (toLE 2)) 0 32 ++ toLE 1 (e.head + 16 * b2n e.seeded) ++ toLE 1 e.fmt ++
    toLE 1 (e.delay - 1 + 16 * e.margin) ++ toLE 1 e.psc ++ toLE 2 e.wth ++ toLE 2 e.zrun ++ toLE 2 e.srun ++
    toLE 2 e.clamps ++ toLE 4 e.lastrev ++ toLE 1 (b2n e.zev + 2 * b2n e.sev + 4 * b2n e.cev) ++
    List.replicate 15 0

/-- An entry from its 64 bytes; none when a reserved field is nonzero or FMT is not in the list (R304). -/
def catOfBytes (bs : List Byte) : Option CatEntry :=
  let b := fun (i : Nat) => leAt bs i 1
  if b 32 / 32 != 0 || b 33 / 16 != 0 || b 48 / 8 != 0 || !zeroBytes bs 49 63 || !catFmtOk (b 33) then none
  else some { hist := (List.range 16).map fun k => leAt bs (2 * k) 2, head := b 32 % 16,
              seeded := (b 32).testBit 4, fmt := b 33, delay := b 34 % 16 + 1, margin := b 34 / 16, psc := b 35,
              wth := leAt bs 36 2, zrun := leAt bs 38 2, srun := leAt bs 40 2, clamps := leAt bs 42 2,
              lastrev := leAt bs 44 4, zev := (b 48).testBit 0, sev := (b 48).testBit 1, cev := (b 48).testBit 2 }

/-- The images of `count` entries from `first` in memory from `a` up. -/
def State.storeCat (s : State) (first count a : Nat) : State :=
  let cells := (List.range count).flatMap fun i => cellsOf (a + 64 * i) (s.catEntry (first + i)).bytes
  { s with mem := s.mem.splice a (64 * count) cells,
           bad := Map.keep s.bad fun k _ => !(decide (a ≤ k) && decide (k + badSpan k ≤ a + 64 * count)) }

/-! ## Catalogue commands (R304, R305) -/

/-- A catalogue command taking effect. -/
def State.applyCat (s : State) (c : CatCmd) : State :=
  match c with
  | .config first count fmt delay margin wth =>
    (List.range count).foldl (fun s i =>
      s.setCat (first + i) { (s.catEntry (first + i)) with
        fmt := fmt, delay := delay, margin := margin, wth := wth, zrun := 0, srun := 0, clamps := 0,
        zev := false, sev := false, cev := false }.refresh) s
  | .load first es => (es.zipIdx).foldl (fun s ei => s.setCat (first + ei.2) ei.1.refresh) s
  | .unseed first count =>
    (List.range count).foldl (fun s i =>
      s.setCat (first + i) { (s.catEntry (first + i)) with seeded := false }.refresh) s

/-- A catalogue command now, or at the next wrap while the bearing is valid (R305). -/
def State.catCommand (s : State) (c : CatCmd) : State :=
  if s.brg.valid then { s with cat := { s.cat with cmds := s.cat.cmds ++ [c] } } else s.applyCat c

/-- Entries return to the defaults of R304, unseeded; LOST, the fault log and a field report (R306). The log
entry's own field report is that report. -/
def State.catLose (s : State) (first count : Nat) : State :=
  let es := Map.keep s.cat.entries fun k _ => !(decide (first ≤ k) && decide (k < first + count))
  { s with cat := { s.cat with entries := es, lost := true } }.log 0x0060 0 0 0xFFFFFFFF
    (shelfAddr 636 (64 * first)) 0

/-- The number of unseeded entries (R313). -/
def State.unseeded (s : State) : Nat := 65536 - (s.cat.entries.filter fun kv => kv.2.seeded).length

/-! ## Areas (R310, R311) -/

/-- Area `c`. -/
def State.area (s : State) (c : Nat) : CatArea := Map.getD s.cat.areas c ⟨false, 0⟩

/-- Area `c` replaced. -/
def State.setArea (s : State) (c : Nat) (a : CatArea) : State :=
  { s with cat := { s.cat with areas := Map.putD s.cat.areas c a ⟨false, 0⟩ } }

/-- NPOST of the area at an address; none is delivered of a line that reads as uncorrectable (R189, R421, log entry 142). -/
def State.npost (s : State) (a : Nat) : Nat := if s.badIn (a + 4) 2 then 0 else s.mem.readLE (a + 4) 2

/-- The area of context `c` lies wholly in a shelf-mode shelf open to `c` (R310). -/
def State.areaOk (s : State) (c : Nat) : Bool :=
  let a := (s.area c).addr
  match region a with
  | .shelf n =>
    let sh := s.shelf n
    sh.mode == 2 && sh.ctxm.testBit c && sh.qst == 0 &&
      decide ((a - shelfAddr n 0) + 65600 + 8 * s.npost a ≤ 2 ^ 26)
  | _ => false

/-- An engine access to the area of context `c`: an area that breaks R310 is disabled. -/
def State.checkArea (s : State) (c : Nat) : State :=
  let a := s.area c
  if a.en && !s.areaOk c then
    let s1 := s.setArea c { a with en := false }
    { s1 with cat := { s1.cat with areaErr := true } }.log 0x0061 0 0 0xFFFFFFFF a.addr 0
  else s

/-- The enabled areas. -/
def State.areasOn (s : State) : List Nat := (List.range 8).filter fun c => (s.area c).en

/-- A posting record (R311): its address, entry, AMAX and flags. -/
structure PostRec where
  addr : Nat
  entry : Nat
  amax : Nat
  valid : Bool
  seed : Bool
  deriving DecidableEq, Repr

/-- The posting records of the area of context `c`, but for those that read as uncorrectable (R189, log entry 142). -/
def State.posts (s : State) (c : Nat) : List PostRec :=
  let a := (s.area c).addr
  (List.range (s.npost a)).filterMap fun i =>
    let p := a + 65600 + 8 * i
    let f := s.mem.readLE (p + 4) 1
    if s.badIn p 8 then none else some ⟨p, s.mem.readLE p 2, s.mem.readLE (p + 2) 2, f.testBit 0, f.testBit 1⟩

/-- VALID cleared in a record. -/
def State.clearPost (s : State) (r : PostRec) : State :=
  s.store (r.addr + 4) (toLE 1 (setBits (s.mem.readLE (r.addr + 4) 1) 0 1 0))

/-- The records of the areas listed that satisfy `p`; one that lies in the areas of two contexts is one record (R310). -/
def State.recsOf (s : State) (cs : List Nat) (p : PostRec → Bool) : List PostRec :=
  ((cs.flatMap s.posts).filter p).eraseDups

/-- The entries that records name, each once. -/
def entriesOf (rs : List PostRec) : List Nat := (rs.map (·.entry)).eraseDups

/-- The largest AMAX among records of an entry. -/
def largest (rs : List PostRec) (k : Nat) : Nat := (rs.filter (·.entry == k)).foldl (fun a r => max a r.amax) 0

/-- Seed records applied (R316): the largest of those that name one unseeded entry; every other seed record
counts in CAT_REJECT. -/
def State.applySeeds (s : State) (rs : List PostRec) : State :=
  let good := rs.filter fun r => amaxOk r.amax && !(s.catEntry r.entry).seeded
  let s1 := s.countAll ((rs.filter fun r => !(amaxOk r.amax) || (s.catEntry r.entry).seeded).map fun _ => ctrDev 8)
  (entriesOf good).foldl (fun s k => (s.setCat k ((s.catEntry k).seed (largest good k))).count (ctrDev 7)) s1

/-- PRESC of every entry written in the area of context `c`, then REV (R313). -/
def State.publish (s : State) (c rev : Nat) : State :=
  let a := (s.area c).addr
  let s1 := s.store (a + 64) ((List.range 65536).map fun k => BitVec.ofNat 8 (s.catEntry k).psc)
  (s1.store a (toLE 4 rev)).access .control true a 65600

/-- PUBSTK of the area of context `c` set, where PUBV is 1. -/
def State.pubStake (s : State) (c : Nat) : State :=
  let a := (s.area c).addr
  if !s.badIn (a + 16) 4 && (s.mem.readLE (a + 19) 1).testBit 0 then s.setRef c (s.mem.readLE (a + 16) 3) else s

/-- What the engine reads of the area of context `c`, in the control class: the fields, the records, and the step vote; what
reads as uncorrectable is recorded (R183, R189). -/
def State.readArea (s : State) (c : Nat) : State :=
  let a := (s.area c).addr
  let v := s.mem.readLE (a + 6) 6
  let rs := [(a, 64), (a + 65600, 8 * s.npost a)] ++ (if v = 0 || s.badIn (a + 6) 6 || s.devStatus c v ≠ 0 then [] else [(v, 1)])
  let s1 := rs.foldl (fun s x => s.access .control false x.1 x.2) s
  (rs.flatMap fun x => s.badKeys x.1 x.2).foldl (fun s k => s.lineUnc k 0xFFFFFFFF) s1

/-! ## The watch (R320-R322) -/

/-- The 16-byte watch record (R322). -/
def watchRecord (entry kind n value station : Nat) : List Byte :=
  toLE 2 entry ++ toLE 2 kind ++ toLE 4 n ++ toLE 2 value ++ toLE 6 station

/-- A watch record delivered to the host and the management network; at most 64 in one wrap. -/
def State.watch (s : State) (entry kind n value : Nat) : State :=
  if 64 ≤ s.cat.watches then s.count (ctrDev 11)
  else
    let r := watchRecord entry kind n value s.station
    (({ s with cat := { s.cat with watches := s.cat.watches + 1 } }.count (ctrDev 10)).event 4 0 r).report 2 0 r

/-- The watch counters of one entry at the wrap that ends revolution `n` (R320, R321); `posted` is the AMAX
applied to it, where one was. -/
def State.watchEntry (s : State) (n k : Nat) (posted : Option Nat) : State :=
  let e := s.catEntry k
  let up := fun (x : Nat) => min 65535 (x + 1)
  let rep := Map.find s.cat.reports k
  let z := match posted with | some a => if a = 0 then up e.zrun else 0 | none => e.zrun
  let sr := match rep with | some r => if r.allShed then up e.srun else 0 | none => e.srun
  let cl := match rep with | some r => if r.anyClamp then up e.clamps else e.clamps | none => e.clamps
  let zhit := e.wth != 0 && z == e.wth && z != e.zrun && !e.zev
  let shit := e.wth != 0 && sr == e.wth && sr != e.srun && !e.sev
  let chit := e.wth != 0 && cl == 1 && e.clamps == 0 && !e.cev
  let s1 := s.setCat k { e with zrun := z, srun := sr, clamps := cl, zev := (e.zev || zhit) && z != 0,
                                sev := (e.sev || shit) && sr != 0, cev := e.cev || chit }
  let s2 := if zhit then s1.watch k 1 n z else s1
  let s3 := if shit then s2.watch k 2 n sr else s2
  if chit then s3.watch k 3 n cl else s3

/-- A report of R89 for an entry. -/
def State.catReport (s : State) (k : Nat) (shedAll clamp : Bool) : State :=
  let r := match Map.find s.cat.reports k with
    | some r => ⟨r.allShed && shedAll, r.anyClamp || clamp⟩
    | none => (⟨shedAll, clamp⟩ : CatReport)
  { s with cat := { s.cat with reports := Map.put s.cat.reports k r } }

/-! ## Wrap processing (R313) -/

/-- Catalogue commands that waited for the wrap take effect, and every area is checked (R305, R310). -/
def State.wrapBegin (s : State) : State :=
  let s1 := { s with cat := { s.cat with cmds := [], watches := 0, busy := true } }
  (List.range 8).foldl (fun s c => s.checkArea c) (s.cat.cmds.foldl (fun s c => s.applyCat c) s1)

/-- The step vote bytes of the areas that name one which their context may read (R178, R313 step 2); none that reads as
uncorrectable (log entry 142). -/
def State.stepVotes (s : State) (cs : List Nat) : List Nat :=
  cs.filterMap fun c =>
    let a := (s.area c).addr + 6
    let v := s.mem.readLE a 6
    if v = 0 || s.badIn a 6 || s.badIn v 1 || s.devStatus c v ≠ 0 then none else some (s.mem.readLE v 1)

/-- One entry posted, or seeded with the posting (R313 step 4). -/
def State.postEntry (s : State) (n k a : Nat) : State :=
  if (s.catEntry k).seeded then (s.setCat k ((s.catEntry k).post a n)).count (ctrDev 6)
  else (s.setCat k ((s.catEntry k).seed a)).count (ctrDev 7)

/-- Postings applied and the watch updated (R313 steps 4 and 5). -/
def State.applyPosts (s : State) (n : Nat) (posts : List PostRec) : State :=
  let good := posts.filter fun r => amaxOk r.amax
  let s1 := s.countAll ((posts.filter fun r => !amaxOk r.amax).map fun _ => ctrDev 8)
  let s2 := (entriesOf good).foldl (fun s k => s.postEntry n k (largest good k)) s1
  ((entriesOf good ++ s.cat.reports.map (·.1)).eraseDups).foldl (fun s k =>
    s.watchEntry n k (if (entriesOf good).contains k then some (largest good k) else none)) s2

/-- The skip run at a wrap (R319). A failed revolution leaves it; one that is skipped too still gives its vote and counts
(log entry 44). -/
def State.skipRun (s : State) (n : Nat) (votes : List Nat) (failed : Bool) : State :=
  if votes.any (· != 0) then
    let run := if failed then s.cat.skiprun else min 65535 (s.cat.skiprun + 1)
    let s1 := { s with cat := { s.cat with skiprun := run, lastvote := votes.foldl max 0 } }.count (ctrDev 9)
    if !failed && s.cat.sth != 0 && run = s.cat.sth then s1.watch 0xFFFF 4 n run else s1
  else if failed then s
  else { s with cat := { s.cat with skiprun := 0 } }

/-- PRESC, REV, VALID and PUBSTK (R313 steps 6 and 7). -/
def State.wrapPublish (s : State) (cs : List Nat) (recs : List PostRec) (next : Nat) : State :=
  let s1 := cs.foldl (fun s c => s.publish c next) s
  cs.foldl (fun s c => s.pubStake c) (recs.foldl (fun s r => s.clearPost r) s1)

/-- The wrap processing of the ending revolution `n`; `failed` is the FAILED flag of the new revolution,
whose count is `next`. -/
def State.wrapProcess (s : State) (n next : Nat) (failed : Bool) : State :=
  let sb := s.wrapBegin
  let cs := sb.areasOn
  let s0 := cs.foldl (fun s c => s.readArea c) sb
  let recs := s0.recsOf cs (·.valid)
  let votes := s0.stepVotes cs
  let s1 := s0.applySeeds (recs.filter (·.seed))
  let s2 := if votes.any (· != 0) || failed then s1 else s1.applyPosts n (recs.filter fun r => !r.seed)
  let s3 := { s2 with cat := { s2.cat with reports := [] } }
  (s3.skipRun n votes failed).wrapPublish cs recs next

/-- A seed request of the area of context `c` served (R315). -/
def State.seedRequest (s : State) (c : Nat) : State :=
  let s := s.checkArea c
  let a := s.area c
  if !a.en then s
  else
    let rs := s.recsOf [c] fun r => r.valid && r.seed
    let s1 := (s.readArea c).applySeeds rs
    let s2 := (entriesOf rs).foldl (fun s k => s.store (a.addr + 64 + k) [BitVec.ofNat 8 (s.catEntry k).psc]) s1
    (rs.foldl (fun s r => s.clearPost r) s2).pubStake c

end Sys2Proof.Machine
end

