-- ==== Sys2Proof/Machine/Bearing.lean ====
section
/-! DEFINITION. The bearing: wraps, tokens, following, sweeps, and which stakeout is due (spec 11,
R282-R297); the journal record that a wrap begins (R429). -/

namespace Sys2Proof.Machine

/-! ## The step journal (R429) -/

/-- Where the record of revolution `r` lies. -/
def journalAddr (r : Nat) : Nat := shelfAddr (638 + r % 2) 0

/-- The shelf of revolution `r` takes records: a firmware shelf that is not changing mode (R182). -/
def State.journalOk (s : State) (r : Nat) : Bool := s.fwStatus (journalAddr r) 0x410000 == 0

/-- The 64-byte header of the record that begins now; LATCHED is 0. -/
def State.journalHeader (s : State) : List Byte :=
  let b := s.brg
  bytesAt (toLE 4 b.rev ++ toLE 6 b.period ++ toLE 3 s.station ++ toLE 1 (1 + 4 * b2n b.failed) ++ toLE 1 s.cat.lastvote ++
    toLE 1 0 ++ toLE 2 s.cat.skiprun) 0 64

/-- The record of the new revolution begun: header, no rows yet, and the catalogue. Nothing is written while the shelf is
not a firmware shelf, or changes its mode. -/
def State.journalBegin (s : State) : State :=
  let a := journalAddr s.brg.rev
  if s.journalOk s.brg.rev then
    ((s.store a (s.journalHeader ++ List.replicate 2048 0)).storeCat 0 65536 (a + 0x10000)).access .control true a 0x410000
  else s

/-- The 16 bytes of a row. -/
def JRow.bytes (r : JRow) : List Byte := toLE 8 r.result ++ toLE 6 r.count ++ toLE 1 (b2n r.latched + 2 * r.poly) ++ toLE 1 0

/-- The record of revolution `r` is held, and complete, as far as its header can be read (R189). -/
def State.journalHeld (s : State) (r : Nat) : Bool :=
  s.journalOk r && !s.badIn (journalAddr r) 64 && s.mem.readLE (journalAddr r) 4 == r && (s.mem.readLE (journalAddr r + 13) 1).testBit 0

/-- The row of fingerprint unit `n` in the record of revolution `r`. -/
def State.journalRow (s : State) (r n : Nat) : JRow :=
  let a := journalAddr r + 64 + 16 * n
  let f := s.mem.readLE (a + 14) 1
  ⟨s.mem.readLE a 8, s.mem.readLE (a + 8) 6, f.testBit 0, bitsOf f 1 2⟩

/-- The rows of the units that a flush latched, in the record of the present revolution (R429). -/
def State.journalLatch (s : State) (rows : List (Nat × JRow)) : State :=
  let r := s.brg.rev
  let a := journalAddr r
  if s.journalHeld r then
    rows.foldl (fun s x => s.store (a + 64 + 16 * x.1) x.2.bytes)
      (s.store (a + 13) (toLE 1 (setBits (s.mem.readLE (a + 13) 1) 1 1 1)))
  else s

/-! ## Tokens (R288-R290) -/

/-- Child paths of the bearing tree. -/
def Brg.children (b : Brg) : List Nat :=
  (List.range 128).filter fun p => (b.tchild.getD (p / 32) 0).testBit (p % 32)

/-- RMODE code. -/
def Brg.rmodeCode (b : Brg) : Nat := if b.step then 2 else if b.fixed then 1 else 0

/-- The token body (R289). -/
def Brg.tokenBody (b : Brg) (brg age : Nat) (wrap : Bool) : List Byte :=
  toLE 4 b.rev ++ toLE 4 brg ++ toLE 6 b.period ++ toLE 6 age ++ toLE 2 b.tseq ++
    toLE 1 (b2n (brg == 0xFFFFFFFF) + 2 * b2n wrap + 4 * b2n b.failed + 8 * b.rmodeCode) ++ List.replicate 25 0

/-- A token emitted on every child path (R288). AGE is completed when the slot leaves (R290). -/
def State.emitToken (s : State) (wrap : Bool) : State :=
  let b := s.brg
  let body := b.tokenBody (b.bearingAt s.now) 0 wrap
  let p := s.packet 7 0xFFFFFF 0x10 0 0 body
  b.children.foldl (fun s c => s.sendBy p c) { s with brg := { b with tseq := (b.tseq + 1) % 65536, lastTok := s.now } }

/-! ## Stakeouts that are due (R295, R296) -/

/-- A word of a committed stakeout. -/
def Brg.word (b : Brg) (n k : Nat) : Nat := (Map.getD b.stk n [0, 0, 0, 0]).getD k 0

/-- BEARING of a stakeout. -/
def Brg.sBearing (b : Brg) (n : Nat) : Nat := b.word n 0
/-- ACTION of a stakeout. -/
def Brg.sAction (b : Brg) (n : Nat) : Nat := bitsOf (b.word n 2) 0 4
/-- CTX of a stakeout. -/
def Brg.sCtx (b : Brg) (n : Nat) : Nat := bitsOf (b.word n 2) 6 3
/-- PARAM of a stakeout. -/
def Brg.sParam (b : Brg) (n : Nat) : Nat := b.word n 3

/-- The entry is enabled, its revolution matches, and it has not fired in this revolution nor been committed
after its bearing had passed (R295, R296). -/
def Brg.enabled (b : Brg) (n : Nat) : Bool :=
  (b.word n 2).testBit 4 && (b.rev % 65536 &&& bitsOf (b.word n 1) 0 16) == bitsOf (b.word n 1) 16 16 &&
  Map.find b.fired n != some b.rev && Map.find b.late n != some b.rev

/-- The entry may still fire in this revolution: it did not fall while the bearing was LOST (R294). -/
def Brg.armed (b : Brg) (n : Nat) : Bool := b.enabled n && Map.find b.gone n != some b.rev

/-- Entries in ascending order of BEARING and then of n (R296). -/
def Brg.ordered (b : Brg) (ns : List Nat) : List Nat :=
  sortBy (fun x y => decide (b.sBearing x < b.sBearing y) || (b.sBearing x == b.sBearing y && decide (x ≤ y))) ns

/-- The committed entries. -/
def Brg.listed (b : Brg) : List Nat := b.stk.map (·.1)

/-- The entries due by their bearing at a local bearing `x` while it is valid. -/
def Brg.dueBy (b : Brg) (x : Nat) : List Nat :=
  if b.valid then b.ordered (b.listed.filter fun n => b.armed n && decide (b.sBearing n ≤ x)) else []

/-- The entries due by their bearing at time `t`, with their revolution. -/
def Brg.dueAt (b : Brg) (t : Nat) : List (Nat × Nat) := (b.dueBy (b.bearingAt t)).map fun n => (n, b.rev)

/-- Entries of a sweep or a late arrival that have still to issue, and are still enabled. -/
def Brg.dueStill (b : Brg) : List (Nat × Nat) := b.due.filter fun d => (b.word d.1 2).testBit 4

/-- The entry that issues next at time `t`, with the revolution that it fires in: one of a sweep or a late arrival first,
or else the first that is due. One with action 0 does nothing and is passed over. -/
def Brg.nextDue (b : Brg) (t : Nat) : Option (Nat × Nat) :=
  (b.dueStill ++ b.dueAt t).find? fun d => b.sAction d.1 != 0

/-- An entry has fired: ONCE clears EN, and it does not fire again in its revolution. -/
def Brg.fire (b : Brg) (d : Nat × Nat) : Brg :=
  let ws := Map.getD b.stk d.1 [0, 0, 0, 0]
  let w2 := ws.getD 2 0
  { b with fired := Map.put b.fired d.1 d.2, due := b.dueStill.erase d,
           stk := if w2.testBit 5 then Map.put b.stk d.1 (ws.set 2 (setBits w2 4 1 0)) else b.stk }

/-- The entries with action 0 that are due at time `t` have fired, with no effect (R297). -/
def Brg.settleNones (b : Brg) (t : Nat) : Brg :=
  ((b.dueStill ++ b.dueAt t).filter fun d => b.sAction d.1 == 0).foldl Brg.fire b

/-- The entries already due at time `t`, which issue in the SK clocks that follow, taken out of the revolution that
ends. -/
def Brg.closeRev (b : Brg) (t : Nat) : Brg :=
  let b1 := b.settleNones t
  let ds := (b1.dueAt t).filter fun d => !b1.dueStill.contains d
  { b1 with due := b1.dueStill ++ ds, fired := ds.foldl (fun m d => Map.put m d.1 d.2) b1.fired, endB := b.bearingAt t }

/-- The bearing and the revolution at which an entry issues at time `t`: of one left over from a revolution that has ended, or
swept with it, those at its end (R293, log entry 143). -/
def Brg.issueAt (b : Brg) (d : Nat × Nat) (t : Nat) : Nat × Nat :=
  if d.2 = b.rev then (b.bearingAt t, b.rev) else (b.endB, d.2)

/-! ## Wraps on the datum device (R284, R286) -/

/-- PERIOD's limits (R284). -/
def clampPeriod (p : Nat) : Nat := max 1048576 (min (2 ^ 48 - 1) p)

/-- The period of the next revolution (R284). -/
def State.nextPeriod (s : State) : Nat :=
  let b := s.brg
  clampPeriod (match b.rmodeCode with
    | 0 => (s.now - b.wrapTime) / 256
    | 1 => b.pinit
    | _ => match b.edgeGap with | some g => g | none => b.pinit)

/-- The datum device wraps (R286). -/
def State.datumWrap (s : State) (failed : Bool) : State :=
  let b := s.brg.closeRev s.now
  let period := if failed then b.period else s.nextPeriod
  let next := (b.rev + 1) % 2 ^ 32
  let s1 := { s with brg := { b with rev := next, b0 := 0, t0 := s.now, lag := 0, low := 0, period := period, top := false,
                                     failed := failed, wrapTime := s.now } }
  ((s1.emitToken true).wrapProcess b.rev next failed).journalBegin

/-- A closure round has completed or failed on this station: the datum device wraps when it is the
end-of-step closure (R286). -/
def State.closureEnds (s : State) (cid : Nat) (failed : Bool) : State :=
  if s.brg.role && s.brg.run && s.brg.valid && s.brg.cid == cid then s.datumWrap failed else s

/-! ## The start and the stop (R285, R294) -/

/-- RUN goes from 0 to 1 on the datum device at `t` (R285). Stakeouts at bearing 0 fire at the start. -/
def State.runStart (s : State) (t : Nat) : State :=
  let s := s.at t
  let b := { s.brg with run := true, st := .locked, rev := s.brg.revinit, b0 := 0, t0 := s.now, lag := 0, low := 0,
                        period := clampPeriod s.brg.pinit, top := false, failed := false, wrapTime := s.now,
                        due := [], fired := [], late := [], gone := [] }
  (({ s with brg := b }).emitToken true).journalBegin

/-- RUN is 0: the datum device emits no more and is UNLOCKED (R283, R294). -/
def State.runStop (s : State) : State :=
  if s.brg.role then
    { s with brg := { s.brg.settleNones s.now with run := false, st := .unlocked, b0 := s.brg.bearingAt s.now, due := [] } }
  else { s with brg := { s.brg with run := false } }

/-! ## Following (R291, R293) -/

/-- A token as received (R289). -/
structure Token where
  rev : Nat
  brg : Nat
  period : Nat
  age : Nat
  hold : Bool
  wrap : Bool
  failed : Bool
  src : Nat
  sepoch : Nat
  deriving DecidableEq, Repr

/-- The token of a packet; none when the body breaks R289: HOLD with another bearing than the top, the reserved RMODE, or a
byte that is not zero. -/
def tokenOf (k : Packet) : Option Token :=
  let f := leAt k.body 22 1
  if !zeroBytes k.body 23 47 || f / 32 != 0 || f / 8 == 3 || (f.testBit 0 && leAt k.body 4 4 != 0xFFFFFFFF) then none
  else some ⟨leAt k.body 0 4, leAt k.body 4 4, leAt k.body 8 6, leAt k.body 14 6, f.testBit 0, f.testBit 1,
    f.testBit 2, k.src.toNat, k.sepoch.toNat⟩

/-- B at the receive timestamp: BRG + floor((AGE + ONEWAY) × 2^32 / PERIOD), saturating (R291). -/
def Token.reference (k : Token) (oneway : Nat) : Nat :=
  if k.hold then 0xFFFFFFFF
  else min 0xFFFFFFFF (k.brg + (k.age + oneway) * 2 ^ 32 / (max 1 k.period * 256))

/-- The local bearing follows B(t) of a token received at `t` over a link of one-way delay `w` (R291). -/
def Brg.follow (b : Brg) (k : Token) (w t low : Nat) : Brg :=
  { b with st := .locked, b0 := k.brg, t0 := t, lag := k.age + w, low := low, period := k.period, top := k.hold,
           failed := k.failed, lastTok := t, foreign := 0 }

/-- The bearing and the revolution of a token taken, and its source locked. -/
def Brg.adopt (b : Brg) (k : Token) (w t : Nat) : Brg :=
  { b.follow k w t 0 with rev := k.rev, src := some (k.src, k.sepoch) }

/-- A token of the present revolution applied (R291): a local bearing above B holds until B reaches it. Entries that fell
while the bearing was LOST do not fire (R294). -/
def Brg.applyTok (b : Brg) (k : Token) (w t : Nat) : Brg :=
  let b1 := b.follow k w t (b.bearingAt t)
  if b.st == .lost then
    let fell := (b.listed.filter b.armed).filter fun n => decide (b.sBearing n ≤ b1.bearingAt t)
    { b1 with gone := fell.foldl (fun m n => Map.put m n b.rev) b.gone }
  else b1

/-- Entries that fire at once, in order. -/
def Brg.dueList (b : Brg) (ns : List Nat) : List (Nat × Nat) := (b.ordered ns).map fun n => (n, b.rev)

/-- A follower wraps to the token's revolution: a sweep of the ending one, the wrap, the stakeouts at or below
the new bearing (R293), the wrap processing, the new journal record. Entries that fell while the bearing was LOST do not
fire, and BRG_MISSED counts them (R294); an entry with ONCE that still has to issue fires only once. -/
def State.followWrap (s : State) (k : Token) (w t : Nat) : State :=
  let b := s.brg.closeRev t
  let lost := b.st == BrgSt.lost
  let sweep := if lost then [] else b.listed.filter b.armed
  let fell := b.listed.filter fun n => b.enabled n && !sweep.contains n
  let due := b.due ++ b.dueList sweep
  let b0 : Brg := sweep.foldl (fun b n => { b with fired := Map.put b.fired n b.rev }) b
  let b1 : Brg := { b0.adopt k w t with wrapTime := t }
  let late := b1.listed.filter fun n => b1.armed n && decide (b1.sBearing n ≤ b1.bearingAt t) &&
    !((b1.word n 2).testBit 5 && due.any fun d => d.1 == n)
  let missed := (k.rev + 2 ^ 32 - b.rev) % 2 ^ 32 - 1
  let s1 := { s with brg := { b1 with due := due ++ b1.dueList late } }
  let s2 := ((s1.count (ctrDev 1) sweep.length).count (ctrDev 0) late.length).count (ctrDev 2) (missed + fell.length)
  (s2.wrapProcess b.rev k.rev k.failed).journalBegin

/-- A token of the locked source (the last four rows of R293). -/
def State.takeLocked (s : State) (k : Token) (w t : Nat) : State :=
  let b := s.brg
  let ahead := (k.rev + 2 ^ 32 - b.rev) % 2 ^ 32
  if ahead = 0 then { s with brg := b.applyTok k w t }
  else if k.wrap && decide (ahead < 2 ^ 31) then s.followWrap k w t
  else { s with brg := { b with foreign := 0 } }.count (ctrDev 3)

/-- A token adopted (the first row of R293). What has fired in the revolution that a LOST follower takes up again stays
fired (R296); any other revolution is a new one. -/
def State.adoptToken (s : State) (k : Token) (w t : Nat) : State :=
  let again := s.brg.st == .lost && k.rev == s.brg.rev && !k.wrap
  let b0 := { s.brg.adopt k w t with wrapTime := t }
  let b : Brg := if again then b0
    else { b0 with fired := [], late := [], gone := [], due := if s.brg.st == .lost then b0.due else [] }
  let under := b.listed.filter fun n => b.armed n && decide (b.sBearing n ≤ b.bearingAt t)
  if k.wrap then
    ({ s with brg := { b with due := b.due ++ b.dueList under } }.count (ctrDev 0) under.length).journalBegin
  else
    { s with brg := under.foldl (fun b n => { b with fired := Map.put b.fired n b.rev }) b }

/-- A good token on the parent path taken by R293. -/
def State.takeToken (s : State) (k : Token) (oneway t : Nat) : State :=
  let s := s.at t
  let b := s.brg
  let own := b.src == some (k.src, k.sepoch)
  if b.st == .unlocked || (b.st == BrgSt.lost && own) then s.adoptToken k oneway t
  else if !own then
    if 63 ≤ b.foreign then
      { s with brg := { b with foreign := 0, src := some (k.src, k.sepoch) } }.takeLocked k oneway t
    else { s with brg := { b with foreign := b.foreign + 1 } }.count (ctrDev 3)
  else s.takeLocked k oneway t

/-- A token sent on to the child paths; its AGE grows by ONEWAY now and by the residence when the slot leaves
(R290). -/
def State.forwardToken (s : State) (k : Packet) (oneway t : Nat) : State :=
  let age := leAt k.body 14 6 + oneway
  let body := k.body.take 14 ++ toLE 6 age ++ k.body.drop 20
  s.brg.children.foldl (fun s c =>
    if s.usable c then { s with egress := s.egress ++ [⟨{ k with body := body }, c, t, k.path.val⟩] } else s) s

end Sys2Proof.Machine
end

