-- ==== Sys2Proof/Machine/Closures.lean ====
section
/-! DEFINITION. Closures: arrivals, rounds, failures (R164-R167). -/

namespace Sys2Proof.Machine

/-- Arrivals that a round needs on this station (R166). -/
def Closure.total (c : Closure) : Nat := c.units.length + c.child.length

/-- Body of an ARRIVE, COMPLETE or FAIL slip (R242). -/
def closureBody (cid ctx : Nat) (parity : Bool) (status : Nat) : List Byte :=
  toLE 2 (cid + ctx * 2 ^ 10 + b2n parity * 2 ^ 13) ++ toLE 2 status

/-- The limit of a round that begins now: 0 was replaced at set-up, and less than 4 × T2 is raised (R412). -/
def State.t3For (s : State) (limit : Nat) : Nat := max limit (4 * s.flt.wlim.getD 2 500)

/-- One more arrival counted, T3 started with the first of a round (R167). -/
def State.countArrival (s : State) (cid : Nat) : State :=
  let c := s.closure cid
  s.setClosure cid { c with count := c.count + 1, t3 := true,
                            t3limit := if c.t3 then c.t3limit else s.t3For c.limit }

/-- A CARR of a queue handled by R165, before the round is examined. The arriving entry has issued; a held
one stands at the head of its queue, and `again` says that it is being admitted, which counts nothing a
second time. -/
def State.arriveOne (s : State) (cid key : Nat) (q : Q) (addr : Nat) (e : Entry) (again : Bool) : State :=
  let c := s.closure cid
  let u := keyUnit key
  let bits := s.cbits key cid
  if bits.testBit 1 == c.parity && !bits.testBit 3 then
    let s1 := ((s.setCbit key cid 1 (!c.parity)).setCbit key cid 2 true).countArrival cid
    if bit e 63 then s1.waitHead (keyCtx key) u q ⟨addr, e, .closure cid⟩ else s1.endEntry (keyCtx key) u q addr 0
  else
    let s1 := if bits.testBit 3 then (if again then s else s.misuse key 3)
      else (s.setCbit key cid 3 true).countAll (if again then [] else stakeCtr u none (some 5))
    let c1 := s1.closure cid
    (s1.setClosure cid { c1 with heldOrder := c1.heldOrder ++ [key * 4 + qIx q], t3 := true,
                                 t3limit := if c1.t3 then c1.t3limit else s1.t3For c1.limit }).waitHead
      (keyCtx key) u q ⟨addr, e, .held cid⟩

/-- The queues whose head waits on a closure, by CWAIT or held. -/
def State.closureWaiters (s : State) (cid ctx : Nat) (heldToo : Bool) : List (Nat × Q) :=
  s.eng.flatMap fun kv =>
    if keyCtx kv.1 = ctx then
      [Q.m, Q.v, Q.x, Q.s].filterMap fun q =>
        match (kv.2.sync.queue q).head with
        | some ⟨_, _, .closure i⟩ => if i = cid then some (kv.1, q) else none
        | some ⟨_, _, .held i⟩ => if heldToo && i = cid then some (kv.1, q) else none
        | _ => none
    else []

/-- A tract counter of every participant that is a tract. -/
def State.countTracts (s : State) (units : List Nat) (e : Nat) : State :=
  units.foldl (fun s u => s.countAll (stakeCtr u none (some e))) s

/-- A held arrival admitted: taken through R165 again with its HELD bit clear (R166 step 4). -/
def State.countIn (s : State) (cid qk : Nat) : State :=
  let key := qk / 4
  let q := ixQ (qk % 4)
  match (s.queue key q).head with
  | some h => s.arriveOne cid key q h.addr h.entry true
  | none => s

/-- A round completes on this station (R166 steps 1 to 4); the bits of units whose context is not resident are saved
ones. -/
def State.roundDone (s : State) (cid : Nat) : State := s.onSaved (s.closure cid).ctx (s.closure cid).units fun s =>
  let c := s.closure cid
  let s1 := s.setClosure cid { c with parity := !c.parity, count := 0, t3 := false, heldOrder := [] }
  let s2 := c.units.foldl (fun s u => (s.setCbit (engKey c.ctx u) cid 2 false).setCbit (engKey c.ctx u) cid 3 false) s1
  let s3 := (s2.closureWaiters cid c.ctx false).foldl (fun s w => s.endWait w.1 w.2 0) s2
  let s4 := c.child.foldl (fun s d => s.slip d 0x12 0 c.ctx (closureBody cid c.ctx c.parity 0)) s3
  c.heldOrder.foldl (fun s qk => s.countIn cid qk) (s4.countTracts c.units 4)

/-- The count has reached the total: ARRIVE upward, or completion at the root; the datum device wraps with
its end-of-step closure (R166, R286). Admitted arrivals may complete the next round at once. -/
def State.closureCheck (n : Nat) (s : State) (cid : Nat) : State :=
  let c := s.closure cid
  if c.count = c.total && c.st == .opened && decide (0 < c.total) then
    if c.parent = 0xFFFFFF then
      match n with
      | 0 => s
      | n + 1 => State.closureCheck n ((s.roundDone cid).closureEnds cid false) cid
    else s.slip c.parent 0x11 0 c.ctx (closureBody cid c.ctx c.parity 0)
  else s

/-- A CARR that has issued at `addr` (R165). -/
def State.carr (s : State) (cid key : Nat) (q : Q) (addr : Nat) (e : Entry) : State :=
  let c := s.closure cid
  let fail := fun (st : Nat) => s.endEntry (keyCtx key) (keyUnit key) q addr st
  match c.st with
  | .idle => fail 0x0731
  | .failed st => fail st
  | .opened =>
    if c.ctx ≠ keyCtx key || !(s.cbits key cid).testBit 0 then fail 0x0731
    else
      let bits := s.cbits key cid
      let s1 := s.arriveOne cid key q addr e false
      if bits.testBit 1 == c.parity && !bits.testBit 3 then s1.closureCheck 2 cid else s1

/-- The closure fails on this station: FAIL to its tree neighbours but `from`, waiting and held arrivals end,
the datum device wraps (R167, R286). -/
def State.closureFail (s : State) (cid status : Nat) (sender : Option Nat) : State :=
  let c := s.closure cid
  if c.st != .opened then s
  else
    let s1 := s.setClosure cid { c with st := .failed status, t3 := false, heldOrder := [] }
    let up := if c.parent = 0xFFFFFF then [] else [c.parent]
    let s2 := ((up ++ c.child).filter fun d => some d != sender).foldl (fun s d =>
      s.slip d 0x13 0 c.ctx (closureBody cid c.ctx c.parity status)) s1
    let s3 := s2.onSaved c.ctx c.units fun s =>
      (s.closureWaiters cid c.ctx true).foldl (fun s w => s.endWait w.1 w.2 status) s
    (s3.countTracts c.units 6).closureEnds cid true

/-- Every open closure that `p` picks fails with a status. -/
def State.closuresFail (s : State) (p : Closure → Bool) (status : Nat) : State :=
  (s.closures.filter fun kv => p kv.2).foldl (fun s kv => s.closureFail kv.1 status none) s

end Sys2Proof.Machine
end

