-- ==== Sys2Proof/Machine/Params.lean ====
section
/-! DEFINITION. The parameter bytes of the host's commands, as the tables of R362-R369 lay them out (spec 14, R347, R361). -/

namespace Sys2Proof

open Machine

/-- A bit vector's bytes, lowest first. -/
def leBits {w : Nat} (v : BitVec w) (len : Nat := w / 8) : List Byte := toLE len v.toNat

/-- Zero bytes. -/
def zeros (n : Nat) : List Byte := List.replicate n 0

/-- The parameters of a collective record (R366). -/
def ColRec.params (r : ColRec) (schild : List (BitVec 24)) : List Byte :=
  toLE 2 r.handle.toNat ++ toLE 1 (r.ctx.toNat + 16 * r.kind.toNat) ++
    toLE 1 (r.vl.toNat + 4 * r.acls.toNat + 16 * r.te.toNat + 64 * r.tw.toNat) ++ toLE 2 r.sreq.toNat ++ toLE 2 r.smin.toNat ++
    toLE 4 r.limit.toNat ++ toLE 3 r.nmem.toNat ++ toLE 1 (r.zmode.toNat + 2 * r.stream.toNat + 4 * r.datumw.toNat) ++
    leBits r.rank ++ toLE 3 r.ntile.toNat ++ toLE 1 (r.sop.toNat + 16 * r.sfmt.toNat) ++ toLE 1 r.slen.toNat ++
    toLE 1 schild.length ++ leBits r.plan ++ leBits r.src ++ leBits r.scode ++ leBits r.dest ++ leBits r.dcode ++
    leBits r.sexp ++ leBits r.dtag ++ leBits r.rcnt ++ leBits r.scr ++ leBits r.pin ++ leBits r.runadr ++ leBits r.cadr ++
    leBits r.voteadr ++ leBits r.votein ++ leBits r.scrlen ++ leBits r.rowb ++ leBits r.cap ++ leBits r.arm 3 ++
    leBits r.start 3 ++ leBits r.done 3 ++ leBits r.sparent ++ schild.flatMap fun c => leBits c 4

/-- The parameters of a host command (R362-R369); a command of another kind has none. -/
def Instr.params : Instr → List Byte
  | .identify _ addr => leBits addr
  | .faultLogRead _ addr first count => leBits addr ++ leBits first ++ leBits count ++ zeros 2
  | .shelfPartition _ shelves => toLE 2 shelves.length ++ zeros 6 ++ shelves.flatMap fun x =>
      leBits x.shelf ++ [x.mode, x.ctxm] ++ toLE 1 (x.fw.toNat + 2 * x.host.toNat) ++ zeros 3
  | .binderyRun _ stack desc => stack :: zeros 31 ++ desc
  | .binderyRestart _ mask ctxs skip => leBits mask ++ [ctxs] ++ toLE 1 skip.toNat
  | .catConfig _ first count fmt dm wth => leBits first ++ leBits count ++ [fmt, dm, 0] ++ leBits wth
  | .catSave _ first count addr => leBits first ++ leBits count ++ zeros 3 ++ leBits addr
  | .catLoad _ first count addr => leBits first ++ leBits count ++ zeros 3 ++ leBits addr
  | .catUnseed _ first count => leBits first ++ leBits count
  | .fpFlush _ first count => [first, count]
  | .ownerSet _ owner => leBits owner
  | .ctxLoad _ c addr _ => c :: zeros 7 ++ leBits addr ++ zeros 2
  | .ctxUnload _ c => [c]
  | .ctxStart _ c => [c]
  | .ctxPreempt _ c => [c]
  | .queueResume _ path q c gadr => leBits path ++ [q, c, 0] ++ leBits gadr
  | .fabricSetup _ sn lockSn lockSize size b =>
      leBits sn ++ toLE 1 (lockSn.toNat + 2 * lockSize.toNat) ++ leBits size ++ [b]
  | .routeLoad _ rtl first es => toLE 1 rtl.toNat ++ zeros 1 ++ leBits first ++ toLE 2 es.length ++ zeros 2 ++ es.flatMap fun e => leBits e
  | .stractSetup _ handle home order ms =>
      leBits handle ++ leBits home ++ [order] ++ toLE 2 ms.length ++ ms.flatMap fun m => leBits m
  | .stractRelease _ handle => leBits handle
  | .closureSetup _ cid ctx nchild parent limit nlocal list =>
      leBits cid ++ [ctx, nchild] ++ leBits parent ++ zeros 1 ++ leBits limit ++ leBits nlocal ++ zeros 2 ++ leBits list
  | .closureRelease _ cid => leBits cid
  | .colOpen _ r schild => r.params schild
  | .colClose _ handle => leBits handle
  | .stakeoutWrite _ n w0 w1 w2 w3 => n :: zeros 3 ++ leBits w0 ++ leBits w1 ++ leBits w2 ++ leBits w3
  | .stakeoutRead _ n => [n]
  | .powerCap _ watts => leBits watts
  | .oppoint _ point => [point]
  | .fillerProfile _ k rec => k :: zeros 7 ++ leBits rec
  | .throttleLogRead _ addr first count => leBits addr ++ leBits first ++ leBits count ++ zeros 2
  | .snapshot _ tag => [tag]
  | .ctrRead _ first count addr => leBits first ++ leBits count ++ leBits addr
  | .survey _ seed tiles mask _ _ => leBits seed ++ leBits tiles ++ [mask] ++ zeros 3
  | .replayStep _ rev => leBits rev
  | .waitLimits _ mask t0 t1 t2 t3 t4 t5 =>
      mask :: zeros 3 ++ leBits t0 ++ leBits t1 ++ leBits t2 ++ leBits t3 ++ leBits t4 ++ leBits t5
  | .unitQuiesce _ code => leBits code
  | .unitReset _ code => leBits code
  | .unitResume _ code => leBits code
  | .spareSwap _ path => leBits path ++ zeros 1
  | .attest _ nonce addr => leBits nonce ++ leBits addr
  | .identityRead _ addr => leBits addr
  | .debugOpen _ rec _ _ => rec
  | .imageStage _ cls addr len _ _ => cls :: zeros 7 ++ leBits addr ++ leBits len ++ zeros 4
  | .imageActivate _ cls code _ => cls :: zeros 3 ++ leBits code
  | .imageQuery _ cls => [cls]
  | _ => []

end Sys2Proof

namespace Sys2Proof.Machine

/-- Bytes of the parameters of opcode `op` that its table lists, as offset and length (R362-R369); every byte of an opcode
that is not named. -/
def listedBytes (op : Nat) (p : List Byte) : List (Nat × Nat) :=
  match op with
  | 0x0104 => [(0, 14)]
  | 0x0201 => (0, 2) :: (List.range (p.length / 8 - 1)).map fun i => (8 + 8 * i, 5)
  | 0x0202 => [(0, 1), (32, 128)]
  | 0x0204 => [(0, 7), (8, 2)]
  | 0x0205 => [(0, 5), (8, 6)]
  | 0x0206 => [(0, 5), (8, 6)]
  | 0x0302 => [(0, 1), (8, 6)]
  | 0x0306 => [(0, 5), (6, 2)]
  | 0x0402 => [(0, 1), (2, 4), (8, p.length - 8)]
  | 0x0405 => [(0, 7), (8, 6), (16, 6)]
  | 0x0407 => (0, 128) :: (List.range (leAt p 23 1)).map fun i => (128 + 4 * i, 3)
  | 0x0501 => [(0, 1), (4, 16)]
  | 0x0603 => [(0, 1), (8, 64)]
  | 0x0604 => [(0, 14)]
  | 0x0701 => [(0, 13)]
  | 0x0704 => [(0, 1), (4, 24)]
  | 0x0708 => [(0, 3)]
  | 0x0A01 => [(0, 1), (8, 12)]
  | 0x0A02 => [(0, 1), (4, 4)]
  | _ => [(0, p.length)]

/-- Bits of a collective record that R366 does not list, as bit offset and width. -/
def colSpare : List (Nat × Nat) :=
  [(12, 4), (19, 1), (45, 3), (61, 3), (90, 6), (113, 7), (123, 5), (165, 3), (182, 2), (951, 1), (975, 1), (999, 1)]

/-- Bits of the listed bytes of opcode `op` that its table leaves unlisted, as bit offset and width. -/
def spareBits (op : Nat) (p : List Byte) : List (Nat × Nat) :=
  match op with
  | 0x0201 => (List.range (p.length / 8 - 1)).map fun i => (8 * (8 + 8 * i + 4) + 2, 6)
  | 0x0203 => [(25, 7)]
  | 0x0401 => [(26, 6)]
  | 0x0402 => [(1, 7)]
  | 0x0407 => colSpare
  | _ => []

/-- The parameters hold nothing but zero outside what the opcode's table lists (R361). -/
def paramsOk (op : Nat) (p : List Byte) : Bool :=
  let ls := listedBytes op p
  (p.zipIdx.all fun x => x.1 == 0 || ls.any fun l => decide (l.1 ≤ x.2) && decide (x.2 < l.1 + l.2)) &&
    (spareBits op p).all fun b => bitsOf (leNat p) b.1 b.2 == 0

end Sys2Proof.Machine
end

