-- ==== Sys2Proof/Machine/Cmd.lean ====
section
/-! DEFINITION. Started commands: the record that a fetch makes, what blocks it, and its receipt (R350-R361). -/

namespace Sys2Proof.Machine

/-- Kinds of objects: a context, a shelf, a Bindery, a range of catalogue entries, a collective handle, a
closure context, a station-tract handle, a stakeout entry, a unit (R350). -/
def objCtx : Nat := 1
/-- See `objCtx`. -/
def objShelf : Nat := 2
/-- See `objCtx`. -/
def objBindery : Nat := 3
/-- See `objCtx`. -/
def objCat : Nat := 4
/-- See `objCtx`. -/
def objCol : Nat := 5
/-- See `objCtx`. -/
def objClosure : Nat := 6
/-- See `objCtx`. -/
def objStract : Nat := 7
/-- See `objCtx`. -/
def objStakeout : Nat := 8
/-- See `objCtx`. -/
def objUnit : Nat := 9
/-- The security unit (R443). -/
def objSecurity : Nat := 10

/-- The record is that of a command's header. -/
def Started.isFor (r : Started) (h : Hdr) : Bool :=
  r.q == h.q.val && r.acc == h.acc.toNat && r.rr == h.rr.val && r.direct == h.direct

/-- Two objects are the same: one kind, overlapping indices (R350). -/
def objClash (a b : Nat × Nat × Nat) : Bool :=
  a.1 == b.1 && decide (a.2.1 ≤ b.2.2) && decide (b.2.1 ≤ a.2.2)

/-- The records before a record: those of earlier commands. -/
def earlier (rs : List Started) (r : Started) : List Started := rs.takeWhile (· != r)

/-- A command may start: nothing that it names is held, and with FENCE every earlier command of its ring has its receipt. A
command that itself waits holds nothing (R350). -/
def mayStart (rs : List Started) (r : Started) : Bool :=
  !((earlier rs r).any fun x => r.fence && !r.direct && !x.direct && x.q == r.q) &&
  !(rs.any fun x => x.holds && x != r && r.objs.any fun o => x.objs.any (objClash o))

/-- Every command that may start does, in the order of their fetches (R350). -/
def startAll (rs : List Started) : List Started :=
  rs.foldl (fun cur r =>
    if r.holds || !mayStart cur r then cur else cur.map fun x => if x = r then { x with holds := true } else x) rs

/-- A fetched command must still wait (R350). -/
def State.blocked (_ : State) (r : Started) : Bool := !r.holds

/-- A receipt written, or kept until D0 (R460). -/
def State.receipt (s : State) (r : Receipt) : State :=
  if s.d3hot then { s with cmd := { s.cmd with late := s.cmd.late ++ [r] } } else s.putReceipt r

/-- A fast-path command (R361-R369). -/
def fastOp (op : Nat) : Bool := op == 0x0304 || op == 0x0305 || op == 0x0501 || op == 0x0901

/-- Firmware commands that are started and have no receipt yet (R357). -/
def State.cmdHeld (s : State) : Nat := (s.cmd.started.filter fun r => !fastOp r.op).length

/-- Shelves of a SHELF_PARTITION that have taken their mode. -/
def State.shelvesDone (s : State) (r : Started) : Nat :=
  (r.objs.filter fun o => o.1 == objShelf && (s.shelf o.2.1).target.isNone).length

/-- RESULT of an expired command: the items finished at its boundary, where the opcode gives RESULT no meaning of its own; else
what the command itself gives (R359). -/
def expiredResult (r : Started) (result : List Byte) : List Byte :=
  if [0x0101, 0x0102, 0x0104, 0x0202, 0x0407, 0x0502, 0x0604, 0x0904, 0x0701, 0x0702, 0x0706, 0x0801, 0x0802, 0x0A03].contains r.op then result
  else toLE 4 (if r.op == 0x0705 || r.op == 0x0A02 then b2n r.begun else r.items)

/-- A started command ends: its record goes, the commands that waited for its objects start, its reserved slot is used, its
receipt is written. DONE of a command fetched late is DELAYED (R358), and so is that of one whose message waited too long to be
injected (R244). One that T4 stopped ends at its item boundary with EXPIRED, unless a reset aborts it (R359), and a security
command that a warm reset met ends with 0x0404 (R455). -/
def State.finish (s : State) (r : Started) (status : Nat) (result : List Byte := []) : State :=
  let halted := s.cmd.expired.contains r.uid && status != 0x0404
  let cut := s.cmd.aborted.contains r.uid
  let st := if cut then 0x0404 else if halted then 0x0507 else status
  let late := r.delayed && st == 0
  let g := s.rcp r.rr
  let s1 : State := { s with cmd := { s.cmd with
    started := startAll (s.cmd.started.filter (·.uid != r.uid)), expired := s.cmd.expired.filter (· != r.uid),
    aborted := s.cmd.aborted.filter (· != r.uid),
    stalled := if 256 ≤ s.cmdHeld then [] else s.cmd.stalled } }
  let s2 := if r.hushed then s1 else s1.setRcp r.rr { g with reserved := g.reserved - 1 }
  let s3 := if late then s2.count (ctrDev 15) else if st = 0x0507 then s2.count (ctrDev 16) else s2
  if r.hushed then s3
  else s3.receipt ⟨r.rr, if late then 0x0103 else if r.linkLate && st == 0 then 0x0102 else st, r.op, false,
    if r.direct then 0xFF else r.q, r.sqhead, r.acc, if cut then [] else if halted then expiredResult r result else result⟩

/-- A command's output in host memory (R343); none once a host reset has come (R456). -/
def State.hostOut (s : State) (r : Started) (a : Nat) (bs : List Byte) : State :=
  if r.hushed then s else s.hostStore a bs

/-- A started command has begun and waits for its end. -/
def State.begin (s : State) (r : Started) : State :=
  { s with cmd := { s.cmd with started := s.cmd.started.map fun x => if x = r then { x with begun := true } else x } }

/-- A command whose group a drained device still serves: 0x01xx and 0x08xx (R426). -/
def drainAllows (op : Nat) : Bool := op / 256 == 1 || op / 256 == 8

/-- A host command of opcode `op` and parameters `ps`: its body runs on the record of its fetch, whose slot held these
parameters, once nothing blocks it. Without such a record, or while it is blocked, nothing happens. On a drained device
the command ends with 0x0340. -/
def State.command (s : State) (h : Hdr) (op : Nat) (ps : List Byte) (body : State → Started → State) : State :=
  match s.cmd.started.find? fun r => r.isFor h && r.op == op && r.params == ps && !r.begun with
  | some r =>
    if s.blocked r then s
    else if s.flt.drained && !drainAllows op then s.finish r 0x0340
    else body s r
  | none => s

/-- A started command's record replaced. -/
def State.putStarted (s : State) (r r' : Started) : State :=
  { s with cmd := { s.cmd with started := s.cmd.started.map fun x => if x = r then r' else x } }

/-- Every begun command that `p` picks ends with a status. -/
def State.finishAll (s : State) (p : Started → Bool) (status : Nat) (result : List Byte := []) : State :=
  (s.cmd.started.filter fun r => r.begun && p r).foldl (fun s r => s.finish r status result) s

/-- The record names an object of a kind and index. -/
def Started.names (r : Started) (kind i : Nat) : Bool :=
  r.objs.any fun o => o.1 == kind && decide (o.2.1 ≤ i) && decide (i ≤ o.2.2)

/-- A station tract forgotten, with the queues and stakes that it held here. -/
def State.dropStract (s : State) (handle : Nat) : State :=
  { s with stracts := Map.del s.stracts handle, eng := Map.keep s.eng fun k _ => keyUnit k != stractUnit handle }

end Sys2Proof.Machine
end

