-- ==== Sys2Proof/Machine/Contexts.lean ====
section
/-! DEFINITION. Contexts: what of them the other units use: their ranges, their Bindery queues, requests to pre-empt and the
starts that go without an effect (R327-R336). -/

namespace Sys2Proof.Machine

/-- Two contexts collide: their footprints share an order-2 tract (R333). -/
def collide (a b : Ctx) : Bool := (a.foot &&& b.foot) != 0

/-- Two contexts clash: they collide and their Fieldbook ranges overlap (R333). -/
def clash (a b : Ctx) : Bool := collide a b && decide (a.fblo < b.fbhi) && decide (b.fblo < a.fbhi)

/-- The Fieldbook ranges copied from the image (R332). -/
def State.copyIn (s : State) (c : Ctx) : State :=
  (footParcels c.foot).foldl (fun s p => s.copyLost (granAddr p c.fblo) (c.areaAddr p) c.rangeBytes) s

/-- The Fieldbook ranges copied to the image (R332). -/
def State.copyOut (s : State) (c : Ctx) : State :=
  (footParcels c.foot).foldl (fun s p => s.copyLost (c.areaAddr p) (granAddr p c.fblo) c.rangeBytes) s

/-- The other contexts, ascending. -/
def others (c : Nat) : List Nat := (List.range 8).filter (· != c)

/-! ## Bindery queues of a context (R204, R330-R332) -/

/-- Bindery `h`. -/
def State.bindery (s : State) (h : Nat) : Bindery := Map.getD s.bnd h Bindery.empty

/-- First index of the Bindery domains in CLK.DOMn (R300, R302). -/
def domBnd : Nat := 236

/-- The gated domains but for that of a Bindery that has a descriptor to run (R302, R459). -/
def wakeBindery (gated : Map Bool) (h : Nat) (v : Bindery) : Map Bool :=
  if v.cur.isSome || !v.hostq.isEmpty then Map.del gated (domBnd + h) else gated

/-- Bindery `h` replaced. -/
def State.setBindery (s : State) (h : Nat) (v : Bindery) : State :=
  { s with bnd := Map.putD s.bnd h v Bindery.empty, mod := { s.mod with gated := wakeBindery s.mod.gated h v } }

/-- The queue of a context in a Bindery. -/
def Bindery.queue (b : Bindery) (c : Nat) : BndQueue := Map.getD b.queues c BndQueue.empty

/-- That queue replaced. -/
def Bindery.setQueue (b : Bindery) (c : Nat) (q : BndQueue) : Bindery :=
  { b with queues := Map.putD b.queues c q BndQueue.empty }

/-- BIND[h] in the header of an image (R331). -/
def Ctx.bindAddr (v : Ctx) (h : Nat) : Nat := v.img + 32 + 16 * h

/-- The queue that BIND[h] of an image describes; a descriptor that was set aside goes on when the position is still its
own (R204, R208, R332). -/
def State.bindQueue (s : State) (c h : Nat) : BndQueue :=
  let a := (s.ctx c).bindAddr h
  let base := s.mem.readLE a 6
  let ix := s.mem.readLE (a + 6) 4
  if (s.mem.readLE (a + 10) 1).testBit 0 then
    { base := base, count := ((h + 1) * 2 ^ 37 - base) / 128, pc := ix, run := .running,
      saved := ((s.bindery h).queue c).saved.filter fun r => r.ix == ix }
  else BndQueue.empty

/-- The Bindery programs of a context loaded from its image. -/
def State.bindsIn (s : State) (c : Nat) : State :=
  (List.range 12).foldl (fun s h => s.setBindery h ((s.bindery h).setQueue c (s.bindQueue c h))) s

/-- The positions of the Bindery queues written into the image. -/
def State.bindsOut (s : State) (c : Nat) : State :=
  (List.range 12).foldl (fun s h =>
    let a := (s.ctx c).bindAddr h
    if (s.mem.readLE (a + 10) 1).testBit 0 then s.store (a + 6) (toLE 4 ((s.bindery h).queue c).pc) else s) s

/-- The Bindery queues that had stopped restart at context start (R206). -/
def State.bndRestart (s : State) (c : Nat) : State :=
  (List.range 12).foldl (fun s h =>
    let q := (s.bindery h).queue c
    if q.run == .stopped then s.setBindery h ((s.bindery h).setQueue c { q with run := .running }) else s) s

/-! ## Transitions -/

/-- A pre-empt request to a running context: its queues issue no more (R329). -/
def State.preempt (s : State) (c : Nat) : State :=
  if (s.ctx c).st == .running then s.setCtx c { s.ctx c with parking := true } else s

/-- The action of a begun command still waits in the context controller. -/
def State.actWaits (s : State) (r : Started) : Bool := s.ctxActs.any fun a => a.cmd == some r

/-- The pre-empts of a context that have taken effect end. -/
def State.endPreempts (s : State) (c : Nat) : State :=
  s.finishAll (fun r => r.op == 0x0305 && r.names objCtx c && !s.actWaits r) 0

/-- The state of a context's parcels saved or restored, as the CTX_SWITCH of each counts it (R467). -/
def State.countSwitch (s : State) (c : Nat) : State := s.countAll ((footParcels (s.ctx c).foot).map fun p => ctrBase p + 39)

/-- The starts that wait go without an effect; the command of each ends with a status. -/
def State.dropStarts (s : State) (status : Nat) : State :=
  let gone := s.ctxActs.filter (·.start)
  let s1 : State := { s with ctxActs := s.ctxActs.filter fun a => !a.start }
  gone.foldl (fun s a => match a.cmd with
    | some r => if s.cmd.started.contains r then s.finish r status else s
    | none => if a.counts then s.count (ctrDev 4) else s) s1

/-- Every queue of the footprint has executed SEND and every Bindery queue has reached END: ENDED and event
0xFF03 (R336). `bndEnded` says the latter. -/
def State.endedCheck (s : State) (c : Nat) (bndEnded : Bool) : State :=
  let v := s.ctx c
  let idle := s.eng.all fun kv => keyCtx kv.1 != c || decide (17477 ≤ keyUnit kv.1) ||
    [Q.m, Q.v, Q.x, Q.s].all fun q => (kv.2.sync.queue q).run == .idle || (kv.2.sync.queue q).fed
  if idle && bndEnded && !v.ended && v.st != .free then
    (s.setCtx c { v with ended := true }).event 3 0 (toLE 1 c)
  else s

end Sys2Proof.Machine
end

