-- ==== Sys2Proof/Machine/FpCore.lean ====
section
/-! DEFINITION. Fingerprint units: what they capture (R194, R195, R280). -/

namespace Sys2Proof.Machine

/-- Fingerprint unit `n`. -/
def State.fp (s : State) (n : Nat) : FpUnit := Map.getD s.arc.fp n FpUnit.reset

/-- Fingerprint unit `n` replaced. -/
def State.setFp (s : State) (n : Nat) (u : FpUnit) : State :=
  { s with arc := { s.arc with fp := Map.putD s.arc.fp n u FpUnit.reset } }

/-- A record added to a unit: the CRC of its locator and data, modulo 2^width (R195). -/
def FpUnit.add (u : FpUnit) (locator : Nat) (data : List Byte) : FpUnit :=
  { u with acc := (u.acc + crc u.poly (toLE 8 locator ++ data)) % 2 ^ (crcParams u.poly).width,
           cnt := (u.cnt + 1) % 2 ^ 48 }

/-- An enabled stream unit of a source. -/
def FpUnit.takes (u : FpUnit) (src : Nat) : Bool := u.en && !u.scan && u.src == src

/-- The address lies in the unit's range. -/
def FpUnit.inRange (u : FpUnit) (a : Nat) : Bool := decide (u.base ≤ a) && decide (a < u.base + u.len)

/-- Every unit through `f`. -/
def State.mapFp (s : State) (f : FpUnit → FpUnit) : State :=
  { s with arc := { s.arc with fp := Map.mapVals s.arc.fp fun _ u => f u } }

/-- Records of the granules of [a, a + len), as they now stand, for the units of SRC 0. -/
def State.captureWrite (s : State) (a len : Nat) : State :=
  if a < 0xC00000000000 then
    let gs := (List.range ((a % 16 + len + 15) / 16)).map fun i => a / 16 * 16 + 16 * i
    s.mapFp fun u =>
      if u.takes 0 then gs.foldl (fun u g => if u.inRange g then u.add g (s.mem.readN g 16) else u) u else u
  else s

/-- A plain write of the Archive, captured (R195). -/
def State.write (s : State) (a : Nat) (bs : List Byte) : State := (s.store a bs).captureWrite a bs.length

/-- Records of the lines of the ranges that a Bindery wrote (SRC 1) or read (SRC 2), each line once. That a line which lies only
partly in a unit's range is captured when its first byte does is the model's choice (log entry 138). -/
def State.captureLines (s : State) (src h : Nat) (rs : List (Nat × Nat)) : State :=
  if !(s.arc.fp.any fun kv => kv.2.takes src && kv.2.srci == h) then s
  else
    let ls := (rs.flatMap fun r => linesOf r.1 r.2).eraseDups
    s.mapFp fun u =>
      if u.takes src && u.srci == h then
        ls.foldl (fun u l => if u.inRange l then u.add l (s.mem.readN l 256) else u) u
      else u

/-- A record of a collective's payload at a port, sent (SRC 3) or received (SRC 4) (R195, R280). -/
def State.capturePort (s : State) (src port handle tidx : Nat) (payload : List Byte) : State :=
  s.mapFp fun u =>
    if u.takes src && u.srci == port && u.base % 4096 == handle then u.add (handle + tidx % 2 ^ 20 * 2 ^ 12) payload else u

end Sys2Proof.Machine
end

