-- ==== Sys2Proof/Machine/ColCore.lean ====
section
/-! DEFINITION. Collectives: plans, tiles, merging, failure and completion (spec 10, R251-R281). -/

namespace Sys2Proof.Machine

/-- An open collective, or one that waits for its admission round. -/
def State.col (s : State) (h : Nat) : Option Col := Map.find s.cols h

/-- The collective of a handle replaced. -/
def State.setCol (s : State) (h : Nat) (c : Col) : State := { s with cols := Map.put s.cols h c }

/-- A change of the run of an open collective. -/
def State.updRun (s : State) (h : Nat) (f : ColRun → ColRun) : State :=
  match s.col h with
  | some c => s.setCol h { c with cur := f c.cur }
  | none => s

/-! ## Records (R247, R249) -/

/-- KIND RS or AR: the kinds that sum Tally tiles. -/
def Col.sums (c : Col) : Bool := c.r.kind == 0 || c.r.kind == 2
/-- KIND AG or BCAST. -/
def Col.gathers (c : Col) : Bool := c.r.kind == 1 || c.r.kind == 5
/-- KIND AR. -/
def Col.isAr (c : Col) : Bool := c.r.kind == 2
/-- KIND A2A. -/
def Col.isA2a (c : Col) : Bool := c.r.kind == 3
/-- KIND PERM. -/
def Col.isPerm (c : Col) : Bool := c.r.kind == 4
/-- KIND SLIP. -/
def Col.isSlip (c : Col) : Bool := c.r.kind == 6
/-- Elements of a tile (R249, TE). -/
def Col.tileE (c : Col) : Nat := 64 * 2 ^ c.r.te.toNat
/-- The Tally width in bits (R249, TW). -/
def Col.tileW (c : Col) : Nat := match c.r.tw.toNat with | 0 => 24 | 1 => 32 | _ => 64
/-- Bytes of a value in memory (R80). -/
def Col.wordB (c : Col) : Nat := if c.r.tw.toNat < 2 then 4 else 8
/-- Bytes of a value in a packet (R263). -/
def Col.packB (c : Col) : Nat := match c.r.tw.toNat with | 0 => 3 | 1 => 4 | _ => 8
/-- Bytes of a tile's payload (R263). -/
def Col.tileBytes (c : Col) : Nat :=
  c.tileE * c.packB + 4 * ((c.tileE + codesPerWord c.r.zmode - 1) / codesPerWord c.r.zmode)
/-- The row length of an A2A collective (R249). -/
def Col.rowBytes (c : Col) : Nat := if c.r.rowb = 0 then 65536 else c.r.rowb.toNat

/-! ## The plan (R251) -/

/-- Address and entry count of table `i` of a plan. -/
def State.planTab (s : State) (r : ColRec) (i : Nat) : Nat × Nat :=
  (r.plan.toNat + s.mem.readLE (r.plan.toNat + 8 * i) 4, s.mem.readLE (r.plan.toNat + 8 * i + 4) 4)

/-- Entry `k` of a table whose entries have `w` bytes. -/
def State.planAt (s : State) (r : ColRec) (i w k : Nat) : Nat := s.mem.readLE ((s.planTab r i).1 + w * k) w

/-- FIRST and COUNT of a rank. -/
def State.shard (s : State) (r : ColRec) (o : Nat) : Nat × Nat :=
  let v := s.planAt r 0 8 o
  (bitsOf v 0 32, bitsOf v 32 32)

/-- The station of a rank. -/
def State.member (s : State) (r : ColRec) (o : Nat) : Nat := s.planAt r 1 4 o % 2 ^ 24

/-- NEXT and EXP of an owner rank. -/
def State.mergeOf (s : State) (r : ColRec) (o : Nat) : Nat × Nat :=
  let v := s.planAt r 2 8 o
  (bitsOf v 0 24, bitsOf v 24 17)

/-- The DIST children of an owner rank. -/
def State.dist (s : State) (r : ColRec) (o : Nat) : List Nat :=
  let v := s.planAt r 3 8 o
  (List.range (bitsOf v 32 8)).map fun k => s.planAt r 4 4 (bitsOf v 0 32 + k) % 2 ^ 24

/-- Entry `k` of the MOVE table: SOFF, DRANK, DOFF, LEN. -/
def State.moveOf (s : State) (r : ColRec) (k : Nat) : Nat × Nat × Nat × Nat :=
  let v := s.planAt r 6 16 k
  (bitsOf v 0 32, bitsOf v 48 16, bitsOf v 64 32, bitsOf v 96 32)

/-- Entries of the SHARD table, one for each rank. -/
def State.ranks (s : State) (r : ColRec) : Nat := (s.planTab r 0).2

/-- The owner of a tile or granule. -/
def State.ownerOf (s : State) (r : ColRec) (t : Nat) : Nat :=
  ((List.range (s.ranks r)).find? fun o =>
    decide ((s.shard r o).1 ≤ t) && decide (t < (s.shard r o).1 + (s.shard r o).2)).getD 0

/-- XT, the contributions that this station handles in a run (R252). -/
def State.xt (s : State) (r : ColRec) : Nat :=
  (List.range (s.ranks r)).foldl (fun a o => a + (s.mergeOf r o).2 * (s.shard r o).2) 0

/-- Ranges of the plan: its header, and each table that it holds. -/
def State.planRanges (s : State) (r : ColRec) : List (Nat × Nat) :=
  (r.plan.toNat, 64) ::
    ([8, 4, 8, 8, 4, 4, 16].zipIdx.map fun x => ((s.planTab r x.2).1, x.1 * (s.planTab r x.2).2)).filter fun x => x.2 != 0

/-- The plan of a record can be read: 0, or the status of the first access to it that fails (R178, R189). An uncorrectable
header names no tables. -/
def State.planStatus (s : State) (r : ColRec) : Nat :=
  let c := r.ctx.toNat
  let head := s.rangeStatus c r.plan.toNat 64
  if head ≠ 0 then head
  else if s.badIn r.plan.toNat 64 then 0x0723
  else if (s.planRanges r).any fun x => s.badIn x.1 x.2 then 0x0723
  else (((s.planRanges r).map fun x => s.rangeStatus c x.1 x.2).find? (· != 0)).getD 0

/-! ## Ranges of a run -/

/-- Values and codes of tiles [t, t + n) at an address pair. -/
def Col.tileRanges (c : Col) (va ca t n : Nat) : List (Nat × Nat) :=
  let p := codesPerWord c.r.zmode
  let lo := t * c.tileE / p
  if n = 0 then [] else
  [(va + c.wordB * t * c.tileE, c.wordB * n * c.tileE),
   (ca + 4 * lo, 4 * (((t + n) * c.tileE - 1) / p + 1 - lo))]

/-- Ranges of memory that a run of a collective reads or writes on this station (R249, R258, R259). -/
def State.colRanges (s : State) (c : Col) : List (Nat × Nat) :=
  let r := c.r
  let own := s.shard r r.rank.toNat
  let all := ((List.range (s.ranks r)).map fun o => (s.shard r o).1 + (s.shard r o).2).foldl max 0
  let rows := c.cur.nrows
  let body :=
    if c.sums then
      (if r.stream then [] else c.tileRanges r.src.toNat r.scode.toNat 0 r.ntile.toNat) ++
      (if c.isAr then c.tileRanges r.dest.toNat r.dcode.toNat 0 r.ntile.toNat
       else c.tileRanges r.dest.toNat r.dcode.toNat own.1 own.2) ++
      [(r.runadr.toNat, 16), (r.voteadr.toNat, 1), (r.votein.toNat, 1)]
    else if c.gathers then [(r.src.toNat, 16 * own.2), (r.dest.toNat, 16 * all)]
    else if c.isA2a then
      [(r.src.toNat, rows * c.rowBytes), (r.sexp.toNat, 2 * rows), (r.runadr.toNat, 16), (r.rcnt.toNat, 4 * r.nmem.toNat),
       (r.dest.toNat, r.nmem.toNat * r.cap.toNat * c.rowBytes), (r.dtag.toNat, 4 * (r.nmem.toNat * r.cap.toNat))]
    else if c.isPerm then
      (r.scr.toNat, r.scrlen.toNat) :: (List.range (s.planTab r 6).2).flatMap fun i =>
        let m := s.moveOf r i
        [(r.src.toNat + m.1, m.2.2.2), (r.src.toNat + m.2.2.1, m.2.2.2)]
    else [(r.src.toNat, r.slen.toNat), (r.dest.toNat, if r.datumw then 4 else r.slen.toNat)]
  ((if c.isSlip then [] else s.planRanges r) ++ (r.cadr.toNat, 32) :: body).filter fun x => x.2 != 0

/-- A range has a line in an Archive slice. -/
def usesSlice (n : Nat) (x : Nat × Nat) : Bool := ((linesOf x.1 x.2).take 64).any fun a => sliceOf a == n

/-- A range has a byte in an HBM stack. -/
def usesStack (h : Nat) (x : Nat × Nat) : Bool :=
  decide (x.1 < 0x018000000000) && decide (x.1 / 2 ^ 37 ≤ h) && decide (h ≤ (x.1 + x.2 - 1) / 2 ^ 37)

/-! ## Notices of a failure (R260) -/

/-- The stations to which a station where a run fails sends a failure notice (R260): those that its plan names, and, of a
kind that distributes, the owner of every shard, whose DIST tree reaches this station (log entry 109). A plan that cannot
be read names none. -/
def State.failTargets (s : State) (c : Col) : List Nat :=
  let r := c.r
  let own := r.rank.toNat
  let tree := (if r.sparent = 0xFFFFFF then [] else [r.sparent.toNat]) ++ c.schild
  let list :=
    if c.isSlip then tree
    else if s.planStatus r ≠ 0 then (if c.sums then tree else [])
    else if c.isA2a || c.isPerm then (List.range (s.planTab r 1).2).map fun o => s.member r o
    else
      (if c.sums then ((List.range (s.ranks r)).filter (· != own)).map (fun o => (s.mergeOf r o).1) ++ tree else []) ++
      (if c.isAr || c.gathers then
        (List.range (s.ranks r)).flatMap fun o =>
          (if (s.shard r o).2 = 0 then [] else [s.member r o]) ++ s.dist r o
       else [])
  (list.filter (· != s.station)).eraseDups

/-! ## Completion and failure (R256, R259, R260) -/

/-- The completion record (R259). -/
def State.colRecord (s : State) (c : Col) (status waitns : Nat) : List Byte :=
  let r := c.r
  let vote := c.sums && !s.badIn r.voteadr.toNat 1 && (s.mem.read r.voteadr.toNat != 0)
  toLE 2 status ++ toLE 2 c.run ++
    toLE 1 (if c.sums then b2n (decide (c.grant < r.sreq.toNat)) + 2 * b2n vote + 4 * b2n (c.grant == 0) else 0) ++
    toLE 1 (if c.sums then c.reason else 0) ++ toLE 2 (if c.sums then c.grant else 0) ++
    toLE 2 (if c.sums then r.sreq.toNat else 0) ++ toLE 2 0 ++ toLE 4 c.cur.failsn ++ toLE 6 waitns ++ toLE 2 0 ++
    toLE 4 c.cur.dropped ++ toLE 4 c.cur.evict

/-- A run ends: COMPLETE with a status, and the record at CADR where an access there is admitted (R178, R203). -/
def State.colClose (s : State) (h : Nat) (c : Col) (status waitns : Nat) : State :=
  (if s.rangeStatus c.r.ctx.toNat c.r.cadr.toNat 32 = 0 then
      (s.access .collective true c.r.cadr.toNat 32).store c.r.cadr.toNat (s.colRecord c status waitns)
    else s).setCol h { c with st := .complete, cur := { c.cur with status := status } }

/-- Staged tiles of a collective discarded (R119): each engine's stage without them. -/
def State.dropTiles (s : State) (h : Nat) : State :=
  { s with eng := s.eng.map fun kv =>
      (kv.1, { kv.2 with mat := { kv.2.mat with stage := kv.2.mat.stage.filter fun t => t.handle != h } }) }

/-- The M queues that wait at an MFIN for a staging slot of a collective (R118). -/
def State.stagingWaiters (s : State) (h : Nat) : List Nat :=
  (List.range 8).flatMap fun c => (s.unitsOf c).filterMap fun u =>
    match (s.syncOf c u).qm.head with
    | some ⟨_, e, .engine⟩ => if fld e 0 8 = 0x04 && fld e 10 2 = 1 && fld e 88 12 = h then some (engKey c u) else none
    | _ => none

/-- The segments of an MFIN stay parked when its collective ends before the tile is staged (R119). -/
def Mat.park (m : Mat) (e : Entry) : Mat :=
  let rest := fun (g : Segment) => if g.holds then { g with st := .parked } else g
  { m with seg0 := if bit e 9 || !bit e 8 then rest m.seg0 else m.seg0,
           seg1 := if bit e 9 || bit e 8 then rest m.seg1 else m.seg1 }

/-- An MFIN that waits for staging ends with the status of its collective, wherever its context's state lies (R119). -/
def State.stagingEnd (s : State) (key status : Nat) : State :=
  let u := keyUnit key
  s.onUnits (keyCtx key) (u :: [1, 2, 3, 4].map fun k => enclosing u k) fun s =>
    match (s.queue key .m).head with
    | some h => (s.setMat key ((s.engOf key).mat.park h.entry)).endWait key .m status
    | none => s

/-- A run fails on this station with a status (R260): staged tiles go, an MFIN that waits for staging ends with
the status (R119), failure notices go out; they name the station that first reported the failure. Nothing happens to a collective that is neither ARMED nor RUNNING.
The DONE stake is set only by a completion (R256, log entry 21). -/
def State.colFail (s : State) (h status failsn : Nat) : State :=
  match s.col h with
  | none => s
  | some c =>
    if !c.waiting && (c.st == .armed || c.st == .running) then
      let c1 := { c with cur := { c.cur with failsn := failsn, pos := [], held := [], stagedQ := [] } }
      let s1 := (s.colClose h c1 status 0).dropTiles h
      let s2 := (s.stagingWaiters h).foldl (fun s k => s.stagingEnd k status) s1
      (s.failTargets c).foldl (fun s d => s.noticeFrom failsn d status 0xFF h 1 0xFFFFFF c.r.ctx.toNat) s2
    else s

/-- A failure found on this station. -/
def State.colFailOwn (s : State) (h status : Nat) : State := s.colFail h status s.station

/-- A run fails over an access of its engine to `a`: refused with a status (R178, R186), or 0x0723 and in the fault log
for what reads as uncorrectable (R189). -/
def State.colStop (s : State) (h a status : Nat) : State :=
  (if status = 0x0723 then s.lineUnc a (codeUnit 17476)
   else if status / 256 = 3 then s.count (ctrSlice (sliceOf a) + 18) else s).colFailOwn h status

/-- What a run does with ranges of memory that it reads and then writes: where an access is refused or reads as
uncorrectable the run fails and nothing is done; else each line is accessed in the collective class (R183). -/
def State.colGuard (s : State) (h : Nat) (c : Col) (reads writes : List (Nat × Nat)) (k : State → State) : State :=
  let ctx := c.r.ctx.toNat
  match (reads ++ writes).find? fun x => s.rangeStatus ctx x.1 x.2 != 0 with
  | some x => s.colStop h x.1 (s.rangeStatus ctx x.1 x.2)
  | none =>
    match (reads.flatMap fun x => s.badKeys x.1 x.2).head? with
    | some a => s.colStop h a 0x0723
    | none =>
      let s1 := reads.foldl (fun s x => s.access .collective false x.1 x.2) s
      k (writes.foldl (fun s x => s.access .collective true x.1 x.2) s1)

/-- What a run does by its plan, whose lines are read in the collective class: where the plan cannot be read the run fails
(R179, R183, log entry 110). -/
def State.colPlanned (s : State) (h : Nat) (c : Col) (k : State → State) : State :=
  let st := if c.isSlip then 0 else s.planStatus c.r
  if st = 0 then k (if c.isSlip then s else (s.planRanges c.r).foldl (fun s x => s.access .collective false x.1 x.2) s)
  else s.colStop h (if st = 0x0723 then ((s.planRanges c.r).flatMap fun x => s.badKeys x.1 x.2).headD c.r.plan.toNat
                    else c.r.plan.toNat) st

/-- Every armed or running collective that `p` picks fails. -/
def State.colsFail (s : State) (p : Col → Bool) (status : Nat) : State :=
  (s.cols.filter fun kv => p kv.2).foldl (fun s kv => s.colFailOwn kv.1 status) s

/-- A collective that is ARMED when its START stake is abandoned fails the run (R256). -/
def State.colAbandonCheck (s : State) : State :=
  let lost := s.cols.filter fun kv => kv.2.st == .armed &&
    (match stakeRef kv.2.r.ctx.toNat kv.2.r.start.toNat with
     | some hi => s.stakeNow hi.1 hi.2 == .abandoned
     | none => false)
  lost.foldl (fun s kv => s.colFailOwn kv.1 0x0601) s

/-! ## Tiles (R262, R263, R266-R268, R272) -/

/-- The 32-byte header of a DATA packet (R262). -/
def colHeader (tidx role wc : Nat) (zm : Bool) (run ds mcnt boff tag len : Nat) : List Byte :=
  toLE 3 (tidx % 2 ^ 20 + role * 2 ^ 20) ++ toLE 1 (wc + 4 * b2n zm) ++ toLE 2 run ++ toLE 2 ds ++ toLE 3 mcnt ++
    toLE 1 0 ++ toLE 4 boff ++ toLE 4 tag ++ toLE 2 len ++ List.replicate 10 0

/-- A DATA packet of a collective sent; the time of the last send is kept for WAITNS. -/
def State.colSend (s : State) (h : Nat) (c : Col) (dst : Nat) (head payload : List Byte) : State :=
  (s.sendOn (s.packet c.r.vl.toNat dst 1 h c.r.ctx.toNat (head ++ payload))).updRun h fun r =>
    { r with lastSend := s.ns }

/-- A tile's payload (R263). -/
def Col.tilePayload (c : Col) (vals codes : List Nat) : List Byte :=
  vals.flatMap (fun v => toLE c.packB v) ++ toLE (c.tileBytes - c.tileE * c.packB) (packCodes c.r.zmode codes)

/-- A tile sent with ROLE 0 or 1. -/
def State.sendTile (s : State) (h : Nat) (c : Col) (dst role tidx mcnt : Nat) (vals codes : List Nat) : State :=
  s.colSend h c dst (colHeader tidx role c.r.tw.toNat c.r.zmode c.run
    (match c.cur.first with | some f => f.1 | none => c.cur.ds) mcnt 0 0 c.tileBytes) (c.tilePayload vals codes)

/-- The values and codes of tile `t` at an address pair. -/
def Col.readTile (c : Col) (m : Memory) (vadr cadr t : Nat) : List Nat × List Nat :=
  ((List.range c.tileE).map fun i => m.readLE (vadr + c.wordB * (t * c.tileE + i)) c.wordB % 2 ^ c.tileW,
   (List.range c.tileE).map fun i => codeAt m c.r.zmode cadr (t * c.tileE + i))

/-- Memory with the values and codes of tile `t` written. -/
def Col.putTile (c : Col) (m : Memory) (vadr cadr t : Nat) (vals codes : List Nat) : Memory :=
  let m1 := m.writeN (vadr + c.wordB * t * c.tileE) (vals.flatMap fun v => toLE c.wordB (v % 2 ^ c.tileW))
  (codes.zipIdx).foldl (fun m ci => setCodeAt m c.r.zmode cadr (t * c.tileE + ci.2) ci.1) m1

/-- The value and code of a combination of two tiles (R75, R78). -/
def combineTiles (c : Col) (w : Nat) (a b : List Nat × List Nat) : List Nat × List Nat :=
  ((a.1.zip b.1).map fun xy => (xy.1 + xy.2) % 2 ^ w, (a.2.zip b.2).map fun xy => codeCombine c.r.zmode xy.1 xy.2)

/-! ## The slip tree (R269, R275, R276) -/

/-- SOP, SFMT and SLEN of the slips of a collective: its record's, or those of the vote (R269). -/
def Col.slipForm (c : Col) : Nat × Nat × Nat :=
  if c.isSlip then (c.r.sop.toNat, c.r.sfmt.toNat, c.r.slen.toNat) else (2, 0, 1)

/-- A SLIPRED slip sent. -/
def State.sendSlip (s : State) (h : Nat) (c : Col) (dst : Nat) (dir : Nat) (bs : List Byte) : State :=
  let f := c.slipForm
  (s.slip dst 0x14 0 c.r.ctx.toNat (toLE 2 h ++ toLE 2 c.run ++ toLE 1 f.1 ++ toLE 1 f.2.1 ++
    toLE 1 (f.2.2 - 1 + 64 * dir) ++ List.replicate 9 0 ++ bs)).updRun h fun r => { r with lastSend := s.ns }

/-- The maximum or minimum of two codes of a format: Tally codes as two's complement, others by R54 with NaN
canonical (R187, R276). -/
def maxMinCode (isMax : Bool) (f : Fmt) (a b : Nat) : Nat :=
  if f.isTally then
    let x := sx f.tallyW a
    let y := sx f.tallyW b
    wrapU f.tallyW (if isMax then max x y else min x y)
  else
    let z := if isMax then Val.max (decode f a) (decode f b) else Val.min (decode f a) (decode f b)
    if z.isNan then canonNan f else (convert f ⟨false, true, false, 0⟩ z).code

/-- Bytes of an element of a format in memory; a Tally-24 occupies 32 bits (R80, R187). -/
def memBytes (f : Fmt) : Nat := if f.isTally then (if f.tallyW = 64 then 8 else 4) else f.width / 8

/-- Two contributions combined element by element (R276). -/
def slipCombine (sop sfmt : Nat) (a b : List Byte) : List Byte :=
  match sop with
  | 2 => (a.zip b).map fun xy => xy.1 ||| xy.2
  | 3 =>
    let w := if sfmt = 0xE then 8 else 4
    (chunks w a.length a).zip (chunks w b.length b) |>.flatMap fun xy =>
      toLE w ((leNat xy.1 + leNat xy.2) % 2 ^ (if sfmt = 0xC then 24 else 8 * w))
  | _ =>
    match fmtOf sfmt with
    | none => a
    | some f =>
      let w := memBytes f
      (chunks w a.length a).zip (chunks w b.length b) |>.flatMap fun xy =>
        toLE w (maxMinCode (sop == 0) f (leNat xy.1) (leNat xy.2))

/-- The datum word of R65 that a DATUMW run writes. -/
def State.datumWord (s : State) (dp : Int) : Nat := wrapU 10 dp + s.brg.rev % 65536 * 2 ^ 15 + 2 ^ 31

/-- The result of a slip reduction reaches this station: written, and sent to the children (R275, R269). A
datum outside s10 fails the run (R276). -/
def State.slipResult (s : State) (h : Nat) (bs : List Byte) : State :=
  match s.col h with
  | none => s
  | some c =>
    let down := fun (s : State) => c.schild.foldl (fun s d => s.sendSlip h c d 1 bs) s
    let mark := fun (s : State) => s.updRun h fun r => { r with result := true }
    let put := fun (a : Nat) (v : List Byte) => s.colGuard h c [] [(a, v.length)] fun s => mark (down (s.write a v))
    if !c.isSlip then put c.r.voteadr.toNat bs
    else if c.r.datumw then
      let dp := sx 32 (leNat bs)
      if dp < -512 || 511 < dp then (down s).colFailOwn h 0x0713
      else put c.r.dest.toNat (toLE 4 (s.datumWord dp))
    else put c.r.dest.toNat bs

/-- All contributions of the slip tree are combined: passed upward, or the result at the root (R275). -/
def State.slipCheck (s : State) (h : Nat) : State :=
  match s.col h with
  | none => s
  | some c =>
    if c.cur.slipOwn && !c.cur.slipUp && c.schild.all c.cur.slipFrom.contains then
      let s1 := s.updRun h fun r => { r with slipUp := true }
      if c.r.sparent = 0xFFFFFF then s1.slipResult h c.cur.slip
      else s1.sendSlip h c c.r.sparent.toNat 0 c.cur.slip
    else s

/-- A contribution as it is read: of a Tally-24 word, bits [31:24] are ignored (R80). -/
def slipRead (sop sfmt : Nat) (bs : List Byte) : List Byte :=
  if sop < 2 && sfmt = 0xC then (chunks 4 bs.length bs).flatMap fun w => toLE 4 (leNat w % 2 ^ 24) else bs

/-- A contribution combined: this station's own, or a child's. -/
def State.slipAdd (s : State) (h : Nat) (child : Option Nat) (bs : List Byte) : State :=
  match s.col h with
  | none => s
  | some c =>
    let f := c.slipForm
    let v := if c.cur.slip.isEmpty then slipRead f.1 f.2.1 bs else slipCombine f.1 f.2.1 c.cur.slip bs
    (s.updRun h fun r =>
      { r with slip := v, slipOwn := r.slipOwn || child.isNone, slipFrom := r.slipFrom ++ child.toList }).slipCheck h

/-- This station's own shard is complete: its vote goes into the slip tree (R269). -/
def State.voteCheck (s : State) (h : Nat) : State :=
  match s.col h with
  | none => s
  | some c =>
    let sh := s.shard c.r c.r.rank.toNat
    let full := (List.range sh.2).all fun i => Map.getD c.cur.owned (sh.1 + i) 0 == c.r.nmem.toNat
    if c.st == .running && c.sums && full && !c.cur.slipOwn then
      let codes := (c.tileRanges c.r.dest.toNat c.r.dcode.toNat sh.1 sh.2).drop 1
      s.colGuard h c ((c.r.votein.toNat, 1) :: codes) [] fun s =>
        let nonfin := (List.range sh.2).any fun i =>
          (c.readTile s.mem c.r.dest.toNat c.r.dcode.toNat (sh.1 + i)).2.any fun x => x % 4 != 0
        s.slipAdd h none [BitVec.ofNat 8 ((s.mem.read c.r.votein.toNat).toNat / 2 * 2 + b2n nonfin)]
    else s

/-! ## Merging (R266, R267, R268) -/

/-- A piece added into the own shard by TADD and TCODE; a complete tile of an AR is distributed (R267,
R272). -/
def State.tadd (s : State) (h : Nat) (tidx mcnt : Nat) (vals codes : List Nat) : State :=
  match s.col h with
  | none => s
  | some c =>
    let va := c.r.dest.toNat
    let ca := c.r.dcode.toNat
    let rs := c.tileRanges va ca tidx 1
    s.colGuard h c rs rs fun s =>
      let sum := combineTiles c c.tileW (c.readTile s.mem va ca tidx) (vals, codes)
      let n := Map.getD c.cur.owned tidx 0 + mcnt
      let sl := sliceOf (va + c.wordB * tidx * c.tileE)
      let s1 := { s with mem := c.putTile s.mem va ca tidx sum.1 sum.2 }
      let s2 := ((s1.count (ctrSlice sl + 25)).count (ctrSlice sl + 20) c.tileE).updRun h fun r =>
        { r with owned := Map.put r.owned tidx n }
      let s3 := if n = c.r.nmem.toNat && c.isAr then
          (s2.dist c.r c.r.rank.toNat).foldl (fun s d => s.sendTile h c d 1 tidx 0 sum.1 sum.2) s2
        else s2
      s3.voteCheck h

/-- A position's partial leaves: into the own shard, or to NEXT (R266). -/
def State.flush (s : State) (h : Nat) (p : ColPos) : State :=
  match s.col h with
  | none => s
  | some c =>
    let s1 := s.updRun h fun r => { r with pos := r.pos.filter fun x => x.tidx != p.tidx }
    let o := s1.ownerOf c.r p.tidx
    let vals := p.vals.map (· % 2 ^ c.tileW)
    if o = c.r.rank.toNat then s1.tadd h p.tidx p.mcnt vals p.codes
    else s1.sendTile h c (s1.mergeOf c.r o).1 0 p.tidx p.mcnt vals p.codes

/-- The position that takes a tile: its own, a free one, or that of the tile held longest, which is flushed
first (R266). -/
def State.placeTile (s : State) (h : Nat) (c : Col) (tidx mcnt : Nat) (vals codes : List Nat) : State :=
  let w := 8 * c.wordB
  match c.cur.pos.find? fun p => p.tidx == tidx with
  | some p =>
    let q : ColPos := { p with mcnt := p.mcnt + mcnt, vals := (combineTiles c w (p.vals, p.codes) (vals, codes)).1,
                               codes := (combineTiles c w (p.vals, p.codes) (vals, codes)).2 }
    s.updRun h fun r => { r with pos := r.pos.map fun x => if x.tidx = tidx then q else x }
  | none =>
    let s1 := if c.cur.pos.length < 4 * c.grant then s
      else match c.cur.pos with
        | p :: _ => (s.flush h p).updRun h fun r => { r with evict := (r.evict + 1) % 2 ^ 32 }
        | [] => s
    s1.updRun h fun r => { r with pos := r.pos ++ [⟨tidx, mcnt, vals, codes⟩] }

/-- A tile merged, with the flushes that follow (R266, R268). -/
def State.mergeTile (s : State) (h : Nat) (c : Col) (tidx mcnt : Nat) (vals codes : List Nat) : State :=
  let o := s.ownerOf c.r tidx
  if c.grant = 0 then
    if o = c.r.rank.toNat then s.tadd h tidx mcnt vals codes
    else s.sendTile h c (s.mergeOf c.r o).1 0 tidx mcnt vals codes
  else
    let s1 := s.placeTile h c tidx mcnt vals codes
    match (s1.col h).bind fun c1 => c1.cur.pos.find? fun p => p.tidx == tidx with
    | some p =>
      let exp := (s.mergeOf c.r o).2
      if exp < p.mcnt then s1.colFailOwn h 0x0712
      else if p.mcnt = exp then s1.flush h p else s1
    | none => s1

/-- Everything for this station has arrived: what remains in positions leaves (R266). -/
def State.flushAll (s : State) (h : Nat) : State :=
  match s.col h with
  | none => s
  | some c =>
    if c.cur.rcv = s.xt c.r && (c.st == .armed || c.st == .running) then
      c.cur.pos.foldl (fun s p => s.flush h p) s
    else s

/-- The checks of R270 on a tile, in order; none where it passes. -/
def Col.tileFault (c : Col) (tidx ds wc : Nat) (zm : Bool) (len : Nat) : Option Nat :=
  if (match c.cur.first with | some f => f != (ds, wc) | none => false) then some 0x0710
  else if zm != c.r.zmode || wc != c.r.tw.toNat || len != c.tileBytes then some 0x0711
  else if c.r.ntile.toNat ≤ tidx then some 0x0712
  else none

/-- A contribution accepted (R266, R270): local with `again` telling a second staged tile of one index, or
arriving. -/
def State.acceptTile (s : State) (h : Nat) (tidx mcnt ds wc : Nat) (zm : Bool) (len : Nat) (vals codes : List Nat)
    (again : Bool) : State :=
  match s.col h with
  | none => s
  | some c =>
    match c.tileFault tidx ds wc zm len with
    | some st => s.colFailOwn h st
    | none =>
      if again || s.xt c.r < c.cur.rcv + mcnt then s.colFailOwn h 0x0712
      else
        let c1 := { c with cur := { c.cur with first := some (ds, wc), rcv := c.cur.rcv + mcnt } }
        ((s.setCol h c1).mergeTile h c1 tidx mcnt vals codes).flushAll h

/-! ## Whether a run is complete (R259) -/

/-- The completion conditions of R259. -/
def State.colDone (s : State) (c : Col) : Bool :=
  let r := c.r
  let own := s.shard r r.rank.toNat
  let summed := (if r.stream then c.cur.staged.length == r.ntile.toNat else c.cur.next == r.ntile.toNat) &&
    c.cur.rcv == s.xt r && c.cur.pos.isEmpty && c.cur.result
  match r.kind.toNat with
  | 0 => summed
  | 2 => summed && c.cur.got.length == r.ntile.toNat - own.2
  | 3 => c.cur.sentAll && (List.range r.nmem.toNat).all fun k =>
      match Map.find c.cur.counts k with
      | some w => Map.getD c.cur.bytes k 0 == bitsOf w 0 16 * c.rowBytes
      | none => false
  | 4 => c.cur.sentAll && c.cur.taken == r.pin.toNat && c.cur.held.isEmpty
  | 6 => c.cur.result
  | _ => c.cur.sentAll && (List.range (s.ranks r)).all fun o => Map.getD c.cur.bytes o 0 == 16 * (s.shard r o).2

/-- Completion: the record, with DONE_DEGRADED where the grant was below SREQ (R281), then the DONE stake (R259). A run whose
vote byte reads as uncorrectable fails instead (R24, R189). -/
def State.colComplete (s : State) (h : Nat) (c : Col) (waitns : Nat) : State :=
  if c.sums && s.badIn c.r.voteadr.toNat 1 then s.colStop h c.r.voteadr.toNat 0x0723
  else (s.colClose h c (if c.sums && c.grant < c.r.sreq.toNat then 1 else 0) waitns).setRef c.r.ctx.toNat c.r.done.toNat

end Sys2Proof.Machine
end

