-- ==== Sys2Proof/Machine/BndCore.lean ====
section
/-! DEFINITION. Binderies: descriptors, their checks, what stops a queue, and the end of a descriptor (spec 08,
R204-R217). -/

namespace Sys2Proof.Machine

/-- Stack `h` replaced. -/
def State.setStack (s : State) (h : Nat) (v : Stack) : State := { s with hbm := Map.putD s.hbm h v Stack.reset }

/-- Every Bindery queue of a context has reached END (R336). -/
def State.bndIdle (s : State) (c : Nat) : Bool := s.bnd.all fun kv => (kv.2.queue c).run == .idle

/-! ## Descriptors (R205, R209-R215) -/

/-- A field of a descriptor. -/
def dF (d : List Byte) (off len : Nat) : Nat := leAt d off len
/-- OP. -/
def dOp (d : List Byte) : Nat := dF d 0 1
/-- WEN. -/
def dWen (d : List Byte) : Bool := (dF d 1 1).testBit 0
/-- DEN. -/
def dDen (d : List Byte) : Bool := (dF d 1 1).testBit 1
/-- VOTEN. -/
def dVoten (d : List Byte) : Bool := (dF d 1 1).testBit 2
/-- N. -/
def dN (d : List Byte) : Nat := dF d 10 5
/-- CADR. -/
def dCadr (d : List Byte) : Nat := dF d 24 6
/-- Block size of OPT, or of REQ and AMAX: both keep it in bit 3 of byte 34. -/
def dBs (d : List Byte) : Nat := if (dF d 34 1).testBit 3 then 16 else 32
/-- A flag bit of byte 34. -/
def dFlag (d : List Byte) (i : Nat) : Bool := (dF d 34 1).testBit i
/-- Format of a byte. -/
def dFmtAt (d : List Byte) (off : Nat) : Option Fmt := fmtOf (dF d off 1)
/-- ROWB of GATH and SCAT. -/
def dRowB (d : List Byte) : Nat := if dF d 32 2 = 0 then 65536 else dF d 32 2
/-- OSC of REQ. -/
def dReqOsc (d : List Byte) : Nat := bitsOf (dF d 34 1) 1 2

/-- A format with its scale flag as R25 allows. -/
def scaleOk (f : Fmt) (scaled : Bool) : Bool := (!scaled || f.scaleAllowed) && (scaled || !f.scaleRequired)

/-- Bytes of a code array of `n` elements (R79). -/
def codeBytes (ieee : Bool) (n : Nat) : Nat := 4 * ((n + codesPerWord ieee - 1) / codesPerWord ieee)

/-- A range of a descriptor: address, bytes, element width in bits, whether it is written. -/
structure DRange where
  addr : Nat
  len : Nat
  width : Nat
  written : Bool
  deriving DecidableEq, Repr

/-- The formats and flags of OPT that R210 allows. -/
def optOk (d : List Byte) : Bool :=
  let wsc := dFlag d 0
  let gsc := dFlag d 1
  match dFmtAt d 32, dFmtAt d 33 with
  | some fw, some fg =>
    [Fmt.l8, .e4m3, .e5m2, .bf16].contains fw && [Fmt.l8, .e4m3, .e5m2, .t24, .t32].contains fg &&
    scaleOk fw wsc && (wsc || !(fw == .e4m3 || fw == .e5m2)) && scaleOk fg gsc && (wsc || !dFlag d 2) &&
    dF d 34 1 / 64 == 0 && dF d 32 1 / 16 == 0 && dF d 33 1 / 16 == 0 &&
    zeroBytes d 35 35 && zeroBytes d 38 39 && zeroBytes d 82 87 && dF d 36 2 / 4096 == 0
  | _, _ => false

/-- The formats and flags of REQ that R214 allows. -/
def reqOk (d : List Byte) : Bool :=
  match dFmtAt d 32, dFmtAt d 33 with
  | some fi, some fo =>
    fi != .u8 && fo != .u8 && !fo.isTally && scaleOk fi (dFlag d 0) && dReqOsc d != 3 &&
    scaleOk fo (dReqOsc d != 0) && dF d 32 1 / 16 == 0 && dF d 33 1 / 16 == 0 && zeroBytes d 35 35 &&
    zeroBytes d 38 39 && dF d 36 2 / 4096 == 0 && zeroBytes d 64 127
  | _, _ => false

/-- The formats and flags of AMAX that R214 allows. -/
def amaxDescOk (d : List Byte) : Bool :=
  match dFmtAt d 32 with
  | some fi =>
    fi != .u8 && scaleOk fi (dFlag d 0) && dF d 34 1 &&& 0x76 == 0 && dF d 32 1 / 16 == 0 && zeroBytes d 33 33 &&
    zeroBytes d 35 35 && zeroBytes d 38 39 && dF d 36 2 / 4096 == 0 && zeroBytes d 52 127
  | none => false

/-- The fields of GATH and SCAT that R215 allows. -/
def rowsOk (d : List Byte) (scat : Bool) : Bool :=
  dF d 32 2 % 16 == 0 && dF d 34 1 / 4 == 0 && (scat || dF d 34 1 == 0) && zeroBytes d 35 35 &&
  zeroBytes d 58 127 && decide (dN d ≤ 16777216)

/-- The operation and its fields are valid (R205, R209). -/
def descFieldsOk (d : List Byte) : Bool :=
  dF d 1 1 / 8 == 0 && dF d 2 4 / 2 ^ 23 == 0 && dF d 6 4 / 2 ^ 23 == 0 && zeroBytes d 15 15 && zeroBytes d 22 23 &&
  zeroBytes d 30 31 &&
  (!dWen d || (stakeRef 0 (dF d 2 4)).isSome) && (!dDen d || (stakeRef 0 (dF d 6 4)).isSome) &&
  (match dOp d with
   | 0 => true
   | 1 => optOk d
   | 2 => reqOk d
   | 3 => amaxDescOk d
   | 4 => decide (dF d 32 1 ≤ 3) && zeroBytes d 33 39 && zeroBytes d 46 127
   | 5 => rowsOk d false
   | 6 => rowsOk d true
   | 7 => zeroBytes d 36 127
   | _ => false)

/-- The ranges that an operation's first `n` elements or rows name (R210, R214, R215). -/
def descRangesOf (d : List Byte) (n : Nat) : List DRange :=
  let nb := (n + dBs d - 1) / dBs d
  let fmt := fun (off : Nat) => (dFmtAt d off).getD .fp32
  let el := fun (f : Fmt) => elemBytes f.width n
  match dOp d with
  | 1 =>
    let fw := fmt 32
    let fg := fmt 33
    [⟨dF d 40 6, el fw, fw.width, true⟩, ⟨dF d 58 6, 2 * n, 16, true⟩, ⟨dF d 64 6, 2 * n, 16, true⟩,
     ⟨dF d 70 6, el fg, fg.width, false⟩] ++
    (if dFlag d 0 then [⟨dF d 46 6, nb, 8, dFlag d 2⟩] else []) ++
    (if dFlag d 5 then [] else [⟨dF d 52 6, n, 8, true⟩]) ++
    (if fg.isTally then [⟨dF d 76 6, codeBytes (dFlag d 4) n, 32, false⟩]
     else if dFlag d 1 then [⟨dF d 76 6, nb, 8, false⟩] else [])
  | 2 =>
    let fi := fmt 32
    let fo := fmt 33
    [⟨dF d 40 6, el fi, fi.width, false⟩, ⟨dF d 52 6, el fo, fo.width, true⟩] ++
    (if fi.isTally then [⟨dF d 46 6, codeBytes (dFlag d 7) n, 32, false⟩]
     else if dFlag d 0 then [⟨dF d 46 6, nb, 8, false⟩] else []) ++
    (if dReqOsc d = 0 then [] else [⟨dF d 58 6, nb, 8, dReqOsc d == 2⟩])
  | 3 =>
    let fi := fmt 32
    [⟨dF d 40 6, el fi, fi.width, false⟩] ++
    (if fi.isTally then [⟨dF d 46 6, codeBytes (dFlag d 7) n, 32, false⟩]
     else if dFlag d 0 then [⟨dF d 46 6, nb, 8, false⟩] else [])
  | 4 => [⟨dF d 40 6, n, 8, false⟩]
  | 5 => [⟨dF d 40 6, dF d 36 4 * dRowB d, 8, false⟩, ⟨dF d 46 6, 4 * n, 32, false⟩, ⟨dF d 52 6, n * dRowB d, 8, true⟩]
  | 6 => [⟨dF d 40 6, n * dRowB d, 8, false⟩, ⟨dF d 46 6, 4 * n, 32, false⟩, ⟨dF d 52 6, dF d 36 4 * dRowB d, 8, true⟩]
  | _ => []

/-- The ranges that an operation names. -/
def descRanges (d : List Byte) : List DRange := descRangesOf d (dN d)

/-- A range starts on a line of the stack and lies wholly in it (R205). -/
def DRange.ok (r : DRange) (h : Nat) : Bool :=
  r.addr % 256 == 0 && r.addr / 2 ^ 37 == h && decide (r.addr % 2 ^ 37 + r.len ≤ 2 ^ 37)

/-- Two ranges overlap without coinciding in elements of one width, one of them being written or read alike
(R205). -/
def DRange.clash (a b : DRange) : Bool :=
  decide (a.addr < b.addr + b.len) && decide (b.addr < a.addr + a.len) &&
  !(a.addr == b.addr && a.len == b.len && a.width == b.width)

/-- Some two ranges of a list clash. -/
def anyClash : List DRange → Bool
  | [] => false
  | r :: rs => rs.any r.clash || anyClash rs

/-- VOTEADR or CADR lies in a shelf-mode shelf open to the context, or in the Bindery's own stack. A host descriptor has no
context, and the firmware's shelves serve it (log entry 22). Nothing but its engine addresses the catalogue (R178, R205,
R303). -/
def State.bndAddrOk (s : State) (h : Nat) (ctx : Option Nat) (a len : Nat) : Bool :=
  match region a with
  | .hbm => a / 2 ^ 37 == h && decide (a % 2 ^ 37 + len ≤ 2 ^ 37)
  | .shelf n =>
    let sh := s.shelf n
    sh.mode == 2 && !s.inCatalogue a && (match ctx with | some c => sh.ctxm.testBit c | none => sh.fw) &&
      decide (a % 2 ^ 26 + len ≤ 2 ^ 26)
  | _ => false

/-- Why an access to VOTEADR or CADR is refused for the time being; 0 where it is admitted (R182, R199, R203, R414). -/
def State.bndAccess (s : State) (a : Nat) : Nat :=
  match region a with
  | .hbm => if (s.stack (a / 2 ^ 37)).st = 3 then 0x0751 else if (s.stack (a / 2 ^ 37)).stop then 0x0752 else 0
  | .shelf n => if s.svcOf (codeSlice (n % 64)) != .inService then 0x0301 else if (s.shelf n).qst != 0 then 0x0314 else 0
  | _ => 0

/-- What a descriptor is refused with when it runs; none where it may run (R205, R217). On a stopped stack every later
access ends with 0x0752, that of END and JMP with the rest (R203). -/
def State.descFault (s : State) (h : Nat) (ctx : Option Nat) (d : List Byte) : Option Nat :=
  if !descFieldsOk d then some 0x0803
  else if !(s.bndAddrOk h ctx (dCadr d) 32) then some 0x0803
  else if dVoten d && !(s.bndAddrOk h ctx (dF d 16 6) 1) then some 0x0803
  else if (s.stack h).st == 3 then some 0x0751
  else if !((descRanges d).all fun r => r.ok h) then some 0x0751
  else if anyClash (descRanges d) then some 0x0753
  else if (s.stack h).stop then some 0x0752
  else none

/-! ## The end of a descriptor (R206, R216) -/

/-- A run of a descriptor with nothing done. -/
def BndRun.fresh (ctx : Option Nat) (ix : Nat) (d : List Byte) : BndRun := ⟨ctx, ix, d, false, 0, false, false, false, 0, [], []⟩

/-- The context whose stakes a descriptor names: its own, or for a host descriptor the one resident in the
stake's unit (log entry 22). -/
def State.bndCtx (s : State) (ctx : Option Nat) (w : Nat) : Nat :=
  match ctx with
  | some c => c
  | none => match pathUnit (w % 2 ^ 17) with
    | some u => (s.resident u).getD 0
    | none => 0

/-- The completion record (R216). -/
def State.bndRecord (s : State) (h : Nat) (r : BndRun) : List Byte :=
  toLE 2 r.status ++ toLE 1 (b2n r.skipped + 2 * b2n r.sat + 4 * b2n r.clamp) ++ toLE 1 0 ++
    toLE 2 (s.epochOf (codeStack h)) ++ toLE 2 0 ++ toLE 8 r.doneN ++ bytesAt r.result 0 16

/-- The Bindery without the running descriptor of a queue; one of another queue goes on. -/
def Bindery.endRun (b : Bindery) (ctx : Option Nat) : Bindery := { b with cur := b.cur.filter fun x => x.ctx != ctx }

/-- A queue's wait is over. -/
def State.bndUnregister (s : State) (h qi : Nat) : State :=
  let b := s.bindery h
  let s1 := s.setBindery h { b with waitOrder := b.waitOrder.filter (· != qi) }
  { s1 with bndWaits := Map.del s1.bndWaits (16 * h + qi) }

/-- The queue of a descriptor stops or goes on after it; the host's own command ends (R204, R206). -/
def State.bndAdvance (s : State) (h : Nat) (r : BndRun) : State :=
  let b := (s.bindery h).endRun r.ctx
  match r.ctx with
  | none =>
    let acc := b.hostAcc.head?
    (s.setBindery h { b with hostq := b.hostq.drop 1, hostAcc := b.hostAcc.drop 1, hostSaved := none }).finishAll
      (fun x => x.op == 0x0202 && x.names objBindery h && some x.acc == acc) r.status (bytesAt r.result 0 16)
  | some c =>
    let q := b.queue c
    if r.status = 0 then s.setBindery h (b.setQueue c { q with pc := r.ix + 1, saved := none })
    else
      (s.setBindery h (b.setQueue c { q with pc := r.ix, run := .stopped, saved := none })).event 2
        r.status (toLE 1 h ++ toLE 1 c ++ toLE 2 0 ++ toLE 4 r.ix)

/-- Why the place of a completion record takes no write; 0 where it takes one (R182, R203, R205). -/
def State.bndRecordStatus (s : State) (h : Nat) (r : BndRun) : Nat :=
  if s.bndAddrOk h r.ctx (dCadr r.desc) 32 then s.bndAccess (dCadr r.desc) else 0x0803

/-- A descriptor whose record cannot be written ends with the status of that write, unless it has failed before. -/
def State.bndJudge (s : State) (h : Nat) (r : BndRun) : BndRun :=
  if r.status = 0 then { r with status := s.bndRecordStatus h r } else r

/-- What the end of a descriptor does outside its queue: the lines it wrote are captured, its record follows, except on an
abort by unit reset, and with DEN its DONE stake is set (R195, R206 steps 6 and 7, R216). A descriptor that fails does not set
it, and its record does not count as an operation's output line: both are the model's choice (log entry 139). -/
def State.bndClose (s : State) (h : Nat) (r : BndRun) : State :=
  let s0 := s.captureLines 1 h (r.outs.map fun l => (l, 256))
  let s1 := if r.status != 0x0401 && s.bndRecordStatus h r == 0 then s0.store (dCadr r.desc) (s.bndRecord h r) else s0
  let s2 := s1.count (ctrBindery h + (if r.status = 0 then 9 else 10))
  if r.status = 0 && dDen r.desc then s2.setRef (s2.bndCtx r.ctx (dF r.desc 6 4)) (dF r.desc 6 4) else s2

/-- A descriptor ends. -/
def State.bndEnd (s : State) (h : Nat) (r : BndRun) : State :=
  let r1 := s.bndJudge h r
  (s.bndClose h r1).bndAdvance h r1

end Sys2Proof.Machine
end

