-- ==== Sys2Proof/Machine/BndOps.lean ====
section
/-! DEFINITION. What a Bindery's operations compute, element by element, and where one stops (spec 08, R208-R215, R219). -/

namespace Sys2Proof.Machine

/-! ## Tensors (R209) -/

/-- Bytes between elements of a tensor of a format, for formats of 8 bits and more. -/
def tensorBytes (f : Fmt) : Nat := memBytes f

/-- The value of a ledger as an exact value (R82, R84). -/
def Ledger.value (l : Ledger) : Val :=
  if l.nan || (l.pinf && l.ninf) then .nan
  else if l.pinf then .inf false
  else if l.ninf then .inf true
  else if l.val = 0 then .zero (l.allnz && decide (0 < l.cnt))
  else .fin l.val l.wlsb

/-- A tensor operand: format, address, the address of its scales or codes, whether it is scaled, block size, code
mode and sum datum. -/
structure Operand where
  f : Fmt
  addr : Nat
  side : Nat
  scaled : Bool
  bs : Nat
  ieee : Bool
  ds : Int
  deriving DecidableEq, Repr

/-- Element `k` of a Tally operand as a ledger. -/
def Operand.ledger (o : Operand) (m : Memory) (k : Nat) : Ledger :=
  ledgerOfTally o.f.tallyW o.ds o.ieee (m.readLE (o.addr + memBytes o.f * k) (memBytes o.f) % 2 ^ o.f.tallyW)
    (codeAt m o.ieee o.side k)

/-- Element `k` of an operand as an exact value (R42, R82). -/
def Operand.value (o : Operand) (m : Memory) (k : Nat) : Val :=
  if o.f.isTally then (o.ledger m k).value
  else decodeScaled o.f (elemAt m o.addr o.f.width k) 0 (if o.scaled then some (m.read (o.side + k / o.bs)).toNat else none)

/-- The byte ranges that element `k` of an operand reads. -/
def Operand.reads (o : Operand) (k : Nat) : List (Nat × Nat) :=
  if o.f.isTally then
    [(o.addr + memBytes o.f * k, memBytes o.f), (o.side + 4 * (k / codesPerWord o.ieee), 4)]
  else (o.addr + o.f.width * k / 8, elemBytes o.f.width 1) :: (if o.scaled then [(o.side + k / o.bs, 1)] else [])

/-- How many of the `n` elements, of which `m` are done, can be read before one is uncorrectable, with the address of that
one. -/
def State.goodFrom (s : State) (m n : Nat) (reads : Nat → List (Nat × Nat)) : Nat × Option Nat :=
  if s.bad.isEmpty then (n, none)
  else match ((List.range n).drop m).findSome? fun k =>
      ((reads k).find? fun r => s.badIn r.1 r.2).map fun r => (k, r.1) with
    | some ka => (ka.1, some ka.2)
    | none => (n, none)

/-- The same from the first element. -/
def State.goodElems (s : State) (n : Nat) (reads : Nat → List (Nat × Nat)) : Nat × Option Nat := s.goodFrom 0 n reads

/-! ## OPT (R210-R213) -/

/-- The magnitude of a code of a sign-and-magnitude format. -/
def magOf (f : Fmt) (c : Nat) : Nat := c % 2 ^ (f.width - 1)

/-- gap(c) under a scale (R212). -/
def codeGap (f : Fmt) (c : Nat) (scale : Option Nat) : Val :=
  let m := magOf f c
  let n := if maxCode f ≤ m then m - 1 else m + 1
  ((decodeScaled f n 0 scale).add (decodeScaled f m 0 scale).negate).abs

/-- trunc(x · 128 / g) for exact finite values (R211). -/
def remUnits (x g : Val) : Int :=
  match x, g with
  | .fin m1 e1, .fin m2 e2 =>
    let k := e1 + 7 - e2
    if 0 ≤ k then Int.tdiv (m1 * 2 ^ k.toNat) m2 else Int.tdiv m1 (m2 * 2 ^ (-k).toNat)
  | _, _ => 0

/-- The tensors and parameters of an OPT descriptor. -/
def optW (d : List Byte) : Operand :=
  ⟨(dFmtAt d 32).getD .l8, dF d 40 6, dF d 46 6, dFlag d 0, dBs d, false, 0⟩
/-- See `optW`. -/
def optG (d : List Byte) : Operand :=
  ⟨(dFmtAt d 33).getD .l8, dF d 70 6, dF d 76 6, dFlag d 1, dBs d, dFlag d 4, sx 12 (dF d 36 2)⟩
/-- The FP32 parameter at byte `88 + 4k`: LR, B1, OB1, B2, OB2, EPS, WD, C1, C2, GS. -/
def optP (d : List Byte) (k : Nat) : Val := decode .fp32 (dF d (88 + 4 * k) 4)

/-- What OPT computes of one element before its block is written: x, and the new moments (R211). -/
structure OptElem where
  x : Val
  m : Conv
  v : Conv
  deriving DecidableEq, Repr

/-- The remainder's value r × gap(w) / 128; 0 without a remainder tensor (R212). -/
def optRval (mem : Memory) (d : List Byte) (k : Nat) : Val :=
  if dFlag d 5 then .zero false
  else
    let w := optW d
    let r := sx 8 (mem.read (dF d 52 6 + k)).toNat
    let sc := if w.scaled then some (mem.read (w.side + k / w.bs)).toNat else none
    ((Val.mk r 0).mul (codeGap w.f (elemAt mem w.addr w.f.width k) sc)).scale (-7)

/-- One element of OPT up to x (R211). -/
def optElem (mem : Memory) (d : List Byte) (k : Nat) : OptElem :=
  let g1 := rn32 (((optG d).value mem k).mul (optP d 9))
  let m0 := decode .l16 (mem.readLE (dF d 58 6 + 2 * k) 2)
  let v0 := decode .l16 (mem.readLE (dF d 64 6 + 2 * k) 2)
  let set : ConvSet := ⟨false, false, false, 0⟩
  let mc := convert .l16 set (((optP d 1).mul m0).add ((optP d 2).mul g1))
  let vc := convert .l16 set (((optP d 3).mul v0).add (((optP d 4).mul g1).mul g1))
  let mh := rn32 ((decode .l16 mc.code).mul (optP d 7))
  let vh := rn32 ((decode .l16 vc.code).mul (optP d 8))
  let dn := rn32 ((rn32 (primitive 5 vh)).add (optP d 5))
  let u := rn32 (mh.div dn)
  let wx := (optW d).value mem k
  ⟨(wx.add (optRval mem d k)).add ((optP d 0).mul (u.add ((optP d 6).mul wx))).negate, mc, vc⟩

/-- The remainder code of an element: its value and whether it was clamped (R211). -/
def optRem (f : Fmt) (x : Val) (wc : Nat) (scale : Option Nat) : Int × Bool :=
  let back := decodeScaled f wc 0 scale
  if !x.isFinite || back.isNan then (0, false)
  else
    let q := remUnits (x.add back.negate) (codeGap f wc scale)
    (max (-127) (min 127 q), decide (q < -127) || decide (127 < q))

/-- What running part of an operation gave: memory, events, whether a block's scale was clamped at 2^127, and what it wrote of
blocks under given scales that became 255 (R87). -/
structure BndOut where
  mem : Memory
  events : List ShedEv
  clamp : Bool
  spoilt : List (Nat × Nat)

/-- Nothing run yet. -/
def BndOut.start (m : Memory) : BndOut := ⟨m, [], false, []⟩

/-- One block of OPT, elements `ks` of block `b` (R211, R213). -/
def optBlock (d : List Byte) (o : BndOut) (b : Nat) (ks : List Nat) : BndOut :=
  let w := optW d
  let es := ks.map fun k => (k, optElem o.mem d k)
  let osc := if dFlag d 2 then 2 else if w.scaled then 1 else 0
  let out := writeBlock ⟨w.f, false, true, false, osc, 0⟩ (o.mem.read (w.side + b)).toNat (es.map (·.2.x))
  let sc := if osc = 0 then none else if osc = 2 then some out.scale else some (o.mem.read (w.side + b)).toNat
  let ws := (es.zip out.codes).map fun ec => (ec.1.1, ec.1.2, ec.2, optRem w.f ec.1.2.x ec.2 sc)
  let m1 := ws.foldl (fun (m : Memory) (x : Nat × OptElem × Nat × Int × Bool) =>
    let m1 := putNib m (nibOf w.addr w.f.width x.1) w.f.width x.2.2.1
    let m2 := (m1.writeLE (dF d 58 6 + 2 * x.1) 2 x.2.1.m.code).writeLE (dF d 64 6 + 2 * x.1) 2 x.2.1.v.code
    if dFlag d 5 then m2 else m2.writeLE (dF d 52 6 + x.1) 1 (wrapU 8 x.2.2.2.1)) o.mem
  let m2 := if osc = 2 then m1.writeLE (w.side + b) 1 out.scale else m1
  let evs := es.flatMap (fun e => e.2.m.events ++ e.2.v.events) ++ out.events ++
    (ws.filter fun x => x.2.2.2.2).map fun _ => ShedEv.satFin
  ⟨m2, o.events ++ evs, o.clamp || out.clamp, o.spoilt⟩

/-- The blocks that the elements from `m` to below `n` lie in: block number, and those of its elements. -/
def blocksIn (m n bs : Nat) : List (Nat × List Nat) :=
  (List.range ((n + bs - 1) / bs - m / bs)).map fun i =>
    let b := m / bs + i
    (b, ((List.range (min bs (n - b * bs))).map (b * bs + ·)).filter fun k => decide (m ≤ k))

/-! ## REQ, AMAX, FPR (R214) -/

/-- The input of REQ or AMAX. -/
def reqIn (d : List Byte) : Operand :=
  ⟨(dFmtAt d 32).getD .l8, dF d 40 6, dF d 46 6, dFlag d 0, dBs d, dFlag d 7, sx 12 (dF d 36 2)⟩

/-- Elements `ks` of a block of REQ, block `b`. A given scale that becomes 255 makes the whole block's codes 0, those of
earlier elements with the rest, so that the bits do not depend on where the block was interrupted (R87, R219). -/
def reqBlock (d : List Byte) (o : BndOut) (b : Nat) (ks : List Nat) : BndOut :=
  let i := reqIn d
  let fo := (dFmtAt d 33).getD .l8
  let osc := dReqOsc d
  let set : FinSet := ⟨fo, dFlag d 4, dFlag d 5, dFlag d 6, osc, 0⟩
  let given := (o.mem.read (dF d 58 6 + b)).toNat
  let out := if i.f.isTally then finaliseBlock set given (ks.map fun k => (i.ledger o.mem k, i.ieee))
    else writeBlock set given (ks.map (i.value o.mem))
  let lone := fun (k : Nat) => k % 2 = 0 && k + 1 = dN d
  let spoilt := osc = 1 && out.scale = 255 && given ≠ 255
  let earlier := if spoilt then (List.range (ks.headD 0 - b * dBs d)).map (b * dBs d + ·) else []
  let m1 := (ks.zip out.codes ++ earlier.map fun k => (k, 0)).foldl (fun (m : Memory) (kc : Nat × Nat) =>
    putNib m (nibOf (dF d 52 6) fo.width kc.1) (if lone kc.1 then max 8 fo.width else fo.width) kc.2) o.mem
  ⟨if osc = 2 || spoilt then m1.writeLE (dF d 58 6 + b) 1 out.scale else m1, o.events ++ out.events, o.clamp || out.clamp,
    if spoilt then o.spoilt ++ [(dF d 58 6 + b, 1),
      (dF d 52 6 + fo.width * (b * dBs d) / 8, elemBytes fo.width (ks.headD 0 - b * dBs d))] else o.spoilt⟩

/-- The smallest L16 code in [lo, hi] whose value is at least the amax m·2^e, by bisection. -/
def l16AtLeast (m e : Int) : (fuel : Nat) → (lo hi : Nat) → Nat
  | 0, lo, _ => lo
  | n + 1, lo, hi =>
    if hi ≤ lo then lo
    else
      let mid := (lo + hi) / 2
      match decode .l16 mid with
      | .fin m2 e2 => if cmpDy m e m2 e2 == .gt then l16AtLeast m e n (mid + 1) hi else l16AtLeast m e n lo mid
      | _ => l16AtLeast m e n (mid + 1) hi

/-- The smallest integer x with m·2^e ≤ 2^x, m positive. -/
def ceilExp (m : Nat) (e : Int) : Int := (clog2 m : Int) + e

/-- RESULT of AMAX (R214, R216). -/
def amaxResult (v : Val) : List Byte :=
  let rep := fun (code : Nat) (e : Int) (flags : Nat) => toLE 2 code ++ toLE 2 (wrapU 16 e) ++ toLE 1 flags
  match v with
  | .nan => rep 0x7FFE 0 1
  | .inf _ => rep 0x7FFF 0 2
  | .zero _ => rep 0 (-32768) 4
  | .fin m e =>
    let x := ceilExp m.natAbs e
    match decode .l16 (maxCode .l16) with
    | .fin m2 e2 =>
      if cmpDy (m.natAbs : Int) e m2 e2 == .gt then rep 0x7FFF x 8
      else rep (l16AtLeast (m.natAbs : Int) e 17 1 (maxCode .l16)) x 0
    | _ => rep 0x7FFF x 8

/-! ## Rows (R215) -/

/-- Two rows combined by AK: `t24` says that the words of AK 1 are Tally-24 values, whose bits [31:24] read and are written
as zero (R80, R187, R215). -/
def rowCombine (ak : Nat) (t24 : Bool) (old src : List Byte) : List Byte :=
  match ak with
  | 0 => src
  | 3 => (old.zip src).map fun xy => xy.1 ||| xy.2
  | k =>
    let w := if k = 1 then 4 else 8
    (chunks w old.length old).zip (chunks w src.length src) |>.flatMap fun xy =>
      toLE w ((leNat xy.1 + leNat xy.2) % 2 ^ (if k = 1 && t24 then 24 else 8 * w))

/-- Index `i` of the index table of GATH and SCAT. -/
def rowIndex (m : Memory) (d : List Byte) (i : Nat) : Nat := m.readLE (dF d 46 6 + 4 * i) 4

/-- Rows of GATH from memory `m0`, whose index table `ix` was read before. -/
def gathRow (d : List Byte) (ix : List Nat) (m : Memory) (i : Nat) : Memory :=
  let rb := dRowB d
  let k := ix.getD i 0
  let dst := dF d 52 6 + rb * i
  if k < dF d 36 4 then m.copy dst (dF d 40 6 + rb * k) rb else m.clear dst rb

/-- A row of SCAT. -/
def scatRow (d : List Byte) (ix : List Nat) (m : Memory) (i : Nat) : Memory :=
  let rb := dRowB d
  let k := ix.getD i 0
  let dst := dF d 52 6 + rb * k
  if k < dF d 36 4 then
    m.writeN dst (rowCombine (bitsOf (dF d 34 1) 0 2) (Config.tally24Rows d) (m.readN dst rb) (m.readN (dF d 40 6 + rb * i) rb))
  else m

/-! ## Part of an operation (R206, R208) -/

/-- The index table of GATH and SCAT, loaded before the first row moves; none for the other operations (R215). -/
def bndIndex (d : List Byte) (m : Memory) : List Nat :=
  if dOp d = 5 || dOp d = 6 then (List.range (dN d)).map (rowIndex m d) else []

/-- The byte ranges that element or row `k` reads. -/
def bndElemReads (d : List Byte) (ix : List Nat) (k : Nat) : List (Nat × Nat) :=
  match dOp d with
  | 1 => (optW d).reads k ++ (optG d).reads k ++ [(dF d 58 6 + 2 * k, 2), (dF d 64 6 + 2 * k, 2)] ++
      (if dFlag d 5 then [] else [(dF d 52 6 + k, 1)])
  | 2 => (reqIn d).reads k ++ (if dReqOsc d = 1 then [(dF d 58 6 + k / dBs d, 1)] else [])
  | 3 => (reqIn d).reads k
  | 4 => [(dF d 40 6 + k, 1)]
  | 5 => if ix.getD k 0 < dF d 36 4 then [(dF d 40 6 + dRowB d * ix.getD k 0, dRowB d)] else []
  | 6 => (dF d 40 6 + dRowB d * k, dRowB d) ::
      (if bitsOf (dF d 34 1) 0 2 ≠ 0 && ix.getD k 0 < dF d 36 4 then [(dF d 52 6 + dRowB d * ix.getD k 0, dRowB d)] else [])
  | _ => []

/-- Elements that are written together: those of a block that is held back for its output scale. -/
def bndHold (d : List Byte) : Nat := if (dOp d = 1 && dFlag d 2) || (dOp d = 2 && dReqOsc d = 2) then dBs d else 1

/-- The elements or rows from `m` to below `n` run from memory `mem`. -/
def bndOut (d : List Byte) (ix : List Nat) (m n : Nat) (mem : Memory) : BndOut :=
  match dOp d with
  | 1 => (blocksIn m n (dBs d)).foldl (fun o bk => optBlock d o bk.1 bk.2) (.start mem)
  | 2 => (blocksIn m n (dBs d)).foldl (fun o bk => reqBlock d o bk.1 bk.2) (.start mem)
  | 5 => .start (((List.range n).drop m).foldl (gathRow d ix) mem)
  | 6 => .start (((List.range n).drop m).foldl (scatRow d ix) mem)
  | _ => .start mem

/-- Out-of-range indices among the rows from `m` to below `n` (R215). -/
def bndOutOfRange (d : List Byte) (ix : List Nat) (m n : Nat) : Nat :=
  (((ix.take n).drop m).filter fun k => decide (dF d 36 4 ≤ k)).length

/-- RESULT after `n` elements, rows or bytes; `whole` says that they are all (R214-R216). It depends on the descriptor and the
input bits alone (R219). -/
def bndResult (d : List Byte) (ix : List Nat) (n : Nat) (whole : Bool) (m : Memory) : List Byte :=
  match dOp d with
  | 3 => if whole then amaxResult ((List.range n).foldl (fun a k => Val.amax a ((reqIn d).value m k)) (.zero false)) else []
  | 4 => if whole then toLE 8 (crc (dF d 32 1) (m.readN (dF d 40 6) n)) else []
  | 5 => toLE 4 (bndOutOfRange d ix 0 n)
  | 6 => toLE 4 (bndOutOfRange d ix 0 n)
  | _ => []

/-- The table-side rows of GATH or SCAT that its rows from `m` to below `n` name (R215). -/
def tableRows (d : List Byte) (ix : List Nat) (m n : Nat) : List (Nat × Nat) :=
  ((ix.take n).drop m).filterMap fun k =>
    if k < dF d 36 4 then some (dF d (if dOp d = 5 then 40 else 52) 6 + dRowB d * k, dRowB d) else none

/-- The ranges that an operation has read once `n` elements or rows are done. -/
def bndReads (d : List Byte) (ix : List Nat) (n : Nat) : List (Nat × Nat) :=
  match dOp d with
  | 5 => (dF d 46 6, 4 * dN d) :: tableRows d ix 0 n
  | 6 => [(dF d 46 6, 4 * dN d), (dF d 40 6, n * dRowB d)] ++
      (if bitsOf (dF d 34 1) 0 2 = 0 then [] else tableRows d ix 0 n)
  | op => ((descRangesOf d n).filter fun r => !r.written || op == 1).map fun r => (r.addr, r.len)

/-- The ranges that its elements or rows from `m` to below `n` write, but for scale codes at given scales; the byte that two
4-bit elements share, or a scale code, may be named by both sides of a stop. -/
def bndWrites (d : List Byte) (ix : List Nat) (m n : Nat) : List (Nat × Nat) :=
  if n ≤ m then []
  else if dOp d = 6 then tableRows d ix m n
  else (((descRangesOf d n).zip (descRangesOf d m)).filter (·.1.written)).map fun r =>
    (r.1.addr + (r.2.len - 1), r.1.len - (r.2.len - 1))

/-- The elements or rows of a running descriptor up to below `n` move: the input lines first read are captured as they stood,
lines written whole are good again (R201), the slices invalidate the lines written (R180), and what was shed is counted. The
output lines are captured once the descriptor has ended with them (R195, R219). -/
def State.bndMove (s : State) (h : Nat) (r : BndRun) (n : Nat) : State × BndRun :=
  let d := r.desc
  let ix := bndIndex d s.mem
  let m := r.doneN
  let o := bndOut d ix m n s.mem
  let w := bndWrites d ix m n ++ o.spoilt.filter fun x => x.2 ≠ 0
  let seen := if m = 0 then [] else (bndReads d ix m).flatMap fun x => linesOf x.1 x.2
  let fresh := ((bndReads d ix n).flatMap fun x => linesOf x.1 x.2).filter fun l => !seen.contains l
  let lines := (w.flatMap fun x => linesOf x.1 x.2).eraseDups
  let moved := fresh.eraseDups.map (fun _ => ctrStack h + 2) ++ lines.map fun _ => ctrStack h + 3
  let s1 := (s.captureLines 2 h (fresh.map fun l => (l, 256))).countAll moved
  let good := Map.keep s1.bad fun k _ => !w.any fun x => decide (x.1 ≤ k) && decide (k + badSpan k ≤ x.1 + x.2)
  let s2 := ((({ s1 with mem := o.mem, bad := good }.invalidateAs .collective (inRanges w)).countShed (ctrBindery h) o.events).count
    (ctrBindery h + 11) (n - m)).count (ctrBindery h + 14) (bndOutOfRange d ix m n)
  (s2, { r with doneN := n, result := bndResult d ix n (n == dN d) s2.mem, sat := r.sat || o.events.contains .satFin,
                clamp := r.clamp || o.clamp, outs := (r.outs ++ lines).eraseDups })

/-- The operation of a running descriptor has still to move elements or rows. -/
def BndRun.moves (r : BndRun) : Bool := !r.ran && decide (1 ≤ dOp r.desc) && decide (dOp r.desc ≤ 6)

/-- How many indices of the index table of GATH and SCAT can be read, with the address of one that cannot. -/
def State.bndTable (s : State) (d : List Byte) : Nat × Option Nat :=
  if dOp d = 5 || dOp d = 6 then s.goodElems (dN d) fun k => [(dF d 46 6 + 4 * k, 4)] else (0, none)

/-- The element up to which a running descriptor can move, with the address of the first uncorrectable read. -/
def State.bndGood (s : State) (r : BndRun) : Nat × Option Nat :=
  let d := r.desc
  match (s.bndTable d).2 with
  | some a => (r.doneN, some a)
  | none =>
    let g := s.goodFrom r.doneN (dN d) (bndElemReads d (bndIndex d s.mem))
    (if g.2.isSome then max r.doneN (g.1 / bndHold d * bndHold d) else g.1, g.2)

/-- The Bindery stops at a boundary of its running descriptor: it has come to some element, row or block by then, which the
spec leaves open (R208, log entry 83). -/
def State.bndHalt (s : State) (h : Nat) : State :=
  match (s.bindery h).cur with
  | some r =>
    if r.moves then
      let g := (s.bndGood r).1
      let k := r.doneN + (s.freeAt 12 40).toNat % (g + 1 - r.doneN)
      let n := if k = dN r.desc then k else max r.doneN (k / bndHold r.desc * bndHold r.desc)
      if n ≤ r.doneN then s.useFree
      else
        let x := s.useFree.bndMove h r n
        x.1.setBindery h { x.1.bindery h with cur := some x.2 }
    else s
  | none => s

/-- The running descriptor of a Bindery ends with a status at some boundary, its outputs partly written, as when its stack's
unit is reset or stops (R203, R208, R414). One that has moved everything keeps what it has. -/
def State.bndAbort (s : State) (h status : Nat) : State :=
  let s1 := s.bndHalt h
  match (s1.bindery h).cur with
  | some r => s1.bndEnd h { r with status := status }
  | none => s1

/-- The running descriptor of a Bindery is set aside at a boundary with its position, where `p` picks its queue (R208). -/
def State.bndAside (s : State) (h : Nat) (p : Option Nat → Bool) : State :=
  if (s.bindery h).cur.any fun r => p r.ctx then
    let s1 := s.bndHalt h
    let b := s1.bindery h
    match b.cur with
    | some r => s1.setBindery h (match r.ctx with
      | some c => { b with cur := none }.setQueue c { b.queue c with saved := some r }
      | none => { b with cur := none, hostSaved := some r })
    | none => s1
  else s

/-- The descriptor of a pre-empted context is set aside with its position, and its waits end (R208). -/
def State.bndPark (s : State) (c : Nat) : State :=
  (List.range 12).foldl (fun s h =>
    let s1 := s.bndAside h (· == some c)
    let b := s1.bindery h
    s1.setBindery h { b with waitOrder := b.waitOrder.filter (· != c) }) { s with
      bndWaits := Map.keep s.bndWaits fun k _ => k % 16 != c }

/-- Every Bindery stops at its next boundary (R426, R460). -/
def State.bndStopAll (s : State) : State :=
  (List.range 12).foldl (fun s h => s.bndAside h fun _ => true) ((List.range 8).foldl (fun s c => s.bndPark c) s)

end Sys2Proof.Machine
end

