-- ==== Sys2Proof/Machine/LinkCore.lean ====
section
/-! DEFINITION. The fabric: sub-ports and their states, routing, discards and notices, what a sub-port that goes
down leaves behind (spec 09, R220, R226-R240, R245, R496). -/

namespace Sys2Proof.Machine

/-! ## Handling a packet -/

/-- `n` slots of a lane of a sub-port are free again (R229). -/
def State.freeSlots (s : State) (p vl n : Nat) : State :=
  let v := s.port p
  s.setPort p { v with freed := v.freed.set vl ((v.freed.getD vl 0 + n) % 2 ^ 32) }

/-- A packet has been handled: it leaves the list, and its slots are free. A packet that came before its sub-port's last full
training frees none that the credit since then counts (R229), and one that this station sent to itself took none. -/
def State.take (s : State) (k : Packet) : State :=
  if s.fab.inbox.contains k then
    ({ s with fab := { s.fab with inbox := s.fab.inbox.erase k } }).freeSlots k.path.val k.vl.val (k.nslot + 1)
  else if s.fab.kept.contains k then { s with fab := { s.fab with kept := s.fab.kept.erase k } }
  else { s with fab := { s.fab with loop := s.fab.loop.erase k } }

/-- A discard that counts in WEN_MALFORMED of a sub-port (R246). -/
def State.malformedAt (s : State) (p : Nat) : State := s.count (ctrPort p + 13)

/-- A discard that counts in WEN_MALFORMED of the sub-port by which the packet came (R246). -/
def State.malformed (s : State) (k : Packet) : State := s.malformedAt k.path.val

/-- A packet discarded as malformed, with its notice (R228). -/
def State.reject (s : State) (k : Packet) : State := (s.malformed k).noticeOf k 0x0804 k.path.val

/-- The virtual lane that R228 gives a packet type. -/
def ptypeOnVl (ptype vl : Nat) : Bool :=
  match ptype with
  | 1 => decide (vl ≤ 3)
  | 2 => vl == 4
  | 3 => vl == 5
  | 4 => vl == 6
  | 5 => vl == 6
  | t => decide (0x10 ≤ t) && decide (t ≤ 0x16) && vl == 7

/-- A packet keeps R226, R228, R236 and, for a firmware message, names a channel of R243. -/
def packetOk (k : Packet) : Bool :=
  ptypeOnVl k.ptype.toNat k.vl.val && (k.vl.val != 7 || k.nslot == 0) && decide (k.nslot < 64) &&
  (stationOk k.src.toNat || k.src == 0xFFFFFF) && (stationOk k.dst.toNat || k.dst == 0xFFFFFF) &&
  (k.ptype != 3 || (decide (1 ≤ k.flow.toNat) && decide (k.flow.toNat ≤ 5)))

/-! ## A sub-port leaves service (R240, R496) -/

/-- A sub-port in a state with its training exchange cleared; its count of training frames goes on (R235). -/
def SubPort.enter (v : SubPort) (st reason : Nat) : SubPort :=
  { v with st := st, reason := reason, aligned := 0, ready := false, ddone := false, dcount := 0, best := 0, sentAt := [] }

/-- Full training starts in DETECT (R233): nothing is held, and sequence numbers and credit counts start again
(R229, R235). -/
def SubPort.fullTraining (v : SubPort) : SubPort :=
  { (v.enter 2 0) with
    tseq := 0, fast := false, fastNext := false, follow := false, txSeq := 0, ack := 0xFFF, noAck := true, held := [], unacked := [],
    resend := [], rplAck := none, rplNext := none, pendRpl := false, tx := [], rx := [], sent := List.replicate 8 0,
    freed := List.replicate 8 0, credIn := List.replicate 8 0 }

/-- A fast retrain: ALIGN with the coefficients kept; held frames stay (R233). -/
def SubPort.fastRetrain (v : SubPort) : SubPort :=
  { (v.enter 4 0) with tseq := 0, fast := true, fastNext := false, pendRpl := false, resend := [], retrains := min 65535 (v.retrains + 1) }

/-- A fast retrain begins on sub-port `p`. -/
def State.retrainFast (s : State) (p : Nat) : State :=
  (s.setPort p (s.port p).fastRetrain).count (ctrPort p + 3)

/-- Every lane of the sub-port shows signal. -/
def State.allLanes (s : State) (p : Nat) : Bool := (s.port p).lanes == 2 ^ (s.pctl (p / 4)).lanes - 1

/-- A sub-port in DETECT leaves it once every lane shows signal: for ELEC, or for a fast retrain after a neighbour's
quiesce (R233, R496). -/
def State.detect (s : State) (p : Nat) : State :=
  let v := s.port p
  if v.st == 2 && s.allLanes p then
    if v.fastNext then s.retrainFast p else s.setPort p (v.enter 3 0)
  else s

/-- The packet that a list of slots carries on a lane (R226). -/
def packetOf (path : Fin 128) (vl : Nat) (bs : List Byte) : Packet :=
  ⟨path, Fin.ofNat 8 vl, BitVec.ofNat 24 (leAt bs 0 3), BitVec.ofNat 24 (leAt bs 3 3), leAt bs 6 1 % 64,
    BitVec.ofNat 8 (leAt bs 7 1), BitVec.ofNat 16 (leAt bs 8 2), BitVec.ofNat 16 (leAt bs 10 2),
    BitVec.ofNat 3 (leAt bs 12 1), bs.drop 16⟩

/-- The packet whose slots have partly come in. -/
def Partial.packet (x : Partial) (path : Fin 128) : Packet := packetOf path x.vl x.slots.flatten

/-- What is still in a sub-port's buffers is discarded, with notices of a status for VL0-VL5 (R240 step 4): packets
being sent, packets whose last frame is held, packets that have partly come in, and, unless the sub-port only trains
again, packets that wait to leave and packets received that nothing has handled. -/
def State.dropBuffers (s : State) (p status : Nat) (waiting : Bool := true) : State :=
  let mine := if waiting then (s.egress.filter fun o => o.path == p).map (·.pkt) else []
  let got := if waiting then (s.fab.inbox ++ s.fab.kept).filter fun k => k.path.val == p else []
  let v := s.port p
  let pkts := v.unacked.map (·.2) ++ v.tx.filterMap (·.pkt) ++ v.rx.map (·.packet (Fin.ofNat 128 p)) ++ mine ++ got
  let s1 : State := if waiting then
      { s with egress := s.egress.filter fun o => o.path != p,
               fab := { s.fab with inbox := s.fab.inbox.filter (fun k => k.path.val != p),
                                   kept := s.fab.kept.filter fun k => k.path.val != p } }
    else { s with fab := { s.fab with inbox := s.fab.inbox.filter (fun k => k.path.val != p),
                                      kept := s.fab.kept ++ s.fab.inbox.filter fun k => k.path.val == p } }
  let s2 := s1.setPort p { v with tx := [], rx := [], held := [], unacked := [], resend := [] }
  pkts.foldl (fun s k => s.noticeOf k status p) s2

/-- A sub-port goes DOWN: discards, notices, the epoch one on (R240 steps 4 and 5). Credit counts from its next UP
(R229). -/
def State.subportDown (s : State) (p : Nat) : State :=
  let s0 := s.setPort p { s.port p with st := 1 }
  let s1 := s0.dropBuffers p 0x0402
  let v := s1.port p
  s1.setPort p { v.enter 1 0 with epoch := (v.epoch + 1) % 65536, follow := false, fastNext := false, fast := false, pendRpl := false,
                                  rplAck := none, rplNext := none, sent := List.replicate 8 0, freed := List.replicate 8 0,
                                  credIn := List.replicate 8 0 }

/-- Full training of sub-port `p` starts; what it still held is lost with the link (R233, R245). `retry` says that it
follows a failed fast retrain, and `fails` counts such trainings. -/
def State.trainFull (s : State) (p : Nat) (retry : Bool) (fails : Nat) : State :=
  let s0 := s.setPort p { s.port p with st := 2 }
  let s1 := s0.dropBuffers p 0x0761 false
  (s1.setPort p { (s1.port p).fullTraining with retry := retry, fails := fails }).detect p

/-- A sub-port begins to quiesce: one that is UP stops being usable; one in training goes DOWN at once; of one that is DOWN
or FAILED only the epoch moves on (R240, log entry 145). -/
def State.subportQuiesce (s : State) (p : Nat) : State :=
  match (s.port p).st with
  | 7 => s.setPort p { s.port p with st := 8 }
  | 8 => s
  | 1 => s.setPort p { s.port p with epoch := ((s.port p).epoch + 1) % 65536 }
  | 9 => s.setPort p { s.port p with epoch := ((s.port p).epoch + 1) % 65536 }
  | _ => s.subportDown p

/-- The sub-ports of a port. -/
def State.portPaths (s : State) (n : Nat) : List Nat := (List.range (s.pctl n).subports).map (4 * n + ·)

/-- A sub-port FAILED: in the fault log, and its packets lost (R233, R245). -/
def State.subportFail (s : State) (p reason : Nat) : State :=
  let s0 := s.setPort p { s.port p with st := 9 }
  let s1 := s0.dropBuffers p 0x0761
  (s1.setPort p { (s1.port p).enter 9 reason with fast := false, fails := 0, retry := false }).log 0x0040 0 1
    (codePort (p / 4)) p 0

/-- A training ends in failure: a fast retrain is followed by full training, a full training after one is tried
three times, and any other ends FAILED with its reason (R233). -/
def State.trainingFails (s : State) (p reason : Nat) : State :=
  let v := s.port p
  if v.fast then s.trainFull p true 0
  else if v.retry then
    if v.fails + 1 < 3 then s.trainFull p true (v.fails + 1) else s.subportFail p 7
  else s.subportFail p reason

/-- The port may train: EN is 1. -/
def State.trainIfEnabled (s : State) (p : Nat) : State :=
  if (s.pctl (p / 4)).en then s.trainFull p false 0 else s

/-- A sub-port cleared by the reset of its port: RO fields at their cold-reset values, its epoch and the signal on its lanes
as they are (R415, R463). -/
def SubPort.cleared (v : SubPort) : SubPort := { SubPort.reset with st := 1, epoch := v.epoch, lanes := v.lanes }

/-- A unit reset of a port: every sub-port down and its epoch one on, where its quiesce has not done so, then full training
(R240, R415, R416). -/
def State.portReset (s : State) (n : Nat) (quiet : Bool) : State :=
  (s.portPaths n).foldl (fun s p =>
    let s1 := if quiet && ((s.port p).st = 1 || (s.port p).st = 9) then s else s.subportDown p
    (s1.setPort p (s1.port p).cleared).trainIfEnabled p) s

end Sys2Proof.Machine
end

