-- ==== Sys2Proof/Machine/Recover.lean ====
section
/-! DEFINITION. Recovery: draining, flagging, spare swaps, uncorrectable data, the quiesce and the reset of a
unit (spec 17, R189, R413-R427). -/

namespace Sys2Proof.Machine

/-! ## Draining and flagging (R426, R427) -/

/-- Every context that starts is kept from running, every running one is pre-empted, and no start waits. -/
def State.stopContexts (s : State) : State :=
  (List.range 8).foldl (fun s c =>
    if (s.ctx c).st == .starting then s.setCtx c { s.ctx c with parkNext := true } else s.preempt c) (s.dropStarts 0x0340)

/-- Fabric slots are released (R426 step 3). -/
def State.releaseSlots (s : State) : State :=
  { s with cols := Map.mapVals s.cols fun _ c => { c with grant := 0, cur := { c.cur with pos := [] } } }

/-- A drain (R426). A drained device is not drained again. -/
def State.drainDevice (s : State) : State :=
  if s.flt.drained then s
  else
    let s1 := ({ s with flt := { s.flt with drained := true } }.log 0x0072 0 3 0xFFFFFFFF 0 0).stopContexts
    let s2 := (s1.colsFail (fun _ => true) 0x0340).closuresFail (fun c => !c.units.isEmpty) 0x0602
    s2.bndStopAll.releaseSlots

/-- A flag for replacement, with its drain (R427). -/
def State.flagDevice (s : State) : State :=
  if s.flt.flagged then s.drainDevice
  else ({ s with flt := { s.flt with flagged := true } }.log 0x0073 0 4 0xFFFFFFFF 0 0).drainDevice

/-! ## Spares and uncorrectable data (R189, R418, R419) -/

/-- Unused spares in the order-2 tract of a parcel. -/
def State.sparesLeft (s : State) (p : Nat) : Nat := s.flt.spares.getD (p / 256) 0

/-- A spare swap of parcel `p`: its status (R418, R419). The state of the parcel moves to the spare unchanged; a
parcel that fails with no spare left drains and flags the device. -/
def State.spareSwap (s : State) (p : Nat) : State × Nat :=
  if s.sparesLeft p = 0 then (s.flagDevice, 0x0772)
  else
    let f := { s.flt with spares := s.flt.spares.set (p / 256) (s.sparesLeft p - 1),
                          swapped := if s.flt.swapped.contains p then s.flt.swapped else s.flt.swapped ++ [p] }
    (({ s with flt := f }.count (ctrDev 47)).log 0x0032 0 2 (codeUnit p) (unitPath p) (codeUnit p), 0)

/-- An uncorrectable Fieldbook read of parcel `p`, by the unit of code `req`: counted, logged, and the parcel
swapped (R189, R419). -/
def State.fbUnc (s : State) (p addr req : Nat) : State :=
  (((s.count (ctrBase p + 26)).log 0x0010 0x0723 1 (codeUnit p) addr req).spareSwap p).1

/-- An uncorrectable read at any device address. -/
def State.uncRead (s : State) (addr req : Nat) : State :=
  match region addr with
  | .fieldbook p => s.fbUnc p addr req
  | _ => s.lineUnc addr req

/-- The lost-line table of a slice (R190). -/
def State.lostLines (s : State) (n : Nat) : List Nat :=
  (s.bad.filter fun kv => kv.2 && sliceOf kv.1 == n).map (·.1)

/-- A dirty cache line becomes lost: it leaves the cache, and its HBM address enters the slice's table; a 65th line flags
the device (R190). -/
def State.loseLine (s : State) (line : Nat) : State :=
  let n := sliceOf line
  let s1 := ((s.invalidate (· == badKey line)).lose line).count (ctrSlice n + 8)
  let lost := s.lostLines n
  if lost.contains (badKey line) then s1
  else if 64 ≤ lost.length then (s1.log 0x0014 0 4 (codeSlice n) line (codeSlice n)).flagDevice
  else { s1 with bad := Map.put s1.bad (badKey line) true }

/-! ## Units (R368, R414) -/

/-- What a unit code names (R368). -/
inductive UnitRef where
  | unit (u : Nat)
  | port (n : Nat)
  | slice (n : Nat)
  | stack (h : Nat)
  | mgmt
  deriving DecidableEq, Repr

/-- The clock domain of a unit is OFF, so that the gateway answers for it (R302). A tract of order 3 or 4 has no domain of
R300 of its own: it is taken with those under it (log entry 113). -/
def State.refOff (s : State) (r : UnitRef) : Bool :=
  match r with
  | .unit _ => s.domOff 0
  | .port n => s.domOff (128 + n)
  | .stack h => s.domOff (236 + h)
  | _ => false

/-- The unit of a code; none for a reserved kind or an absent index (R368). -/
def unitRef (code : Nat) : Option UnitRef :=
  let i := code / 16
  match code % 16 with
  | 0 => if i < 2 ^ 17 then (pathUnit i).map .unit else none
  | 1 => if i < 32 then some (.port i) else none
  | 2 => if i < 64 then some (.slice i) else none
  | 3 => if i < 12 then some (.stack i) else none
  | 4 => if i = 0 then some .mgmt else none
  | _ => none

/-- The code of a unit. -/
def UnitRef.code : UnitRef → Nat
  | .unit u => codeUnit u
  | .port n => codePort n
  | .slice n => codeSlice n
  | .stack h => codeStack h
  | .mgmt => codeMgmt

/-- A unit begins to quiesce (R414 steps 1 and 2). A stack shows STATE 2, and its Bindery's running descriptor
ends; the sub-ports of a port follow R240. -/
def State.quiesceBegin (s : State) (r : UnitRef) : State :=
  let s1 := (s.setSvc r.code .quiescing).log 0x0030 0 0 r.code 0 0xFFFFFFFF
  match r with
  | .port n => (s1.portPaths n).foldl (fun s p => s.subportQuiesce p) s1
  | .stack h => (s1.bndAbort h 0x0401).setStack h { (s1.bndAbort h 0x0401).stack h with st := 2 }
  | _ => s1

/-- A line request that lies at a unit (R414 step 4, R415). -/
def SliceReq.at (q : SliceReq) (r : UnitRef) : Bool :=
  match r with
  | .slice n => sliceOf q.addr == n
  | .stack h => decide (q.addr < 0x018000000000) && q.addr / 2 ^ 37 == h
  | _ => false

/-- The X entry of a key ends with a status. -/
def State.endX (s : State) (key status : Nat) : State :=
  match (s.engOf key).x with
  | some x => (s.setEng key { s.engOf key with x := none }).endEntry (keyCtx key) (keyUnit key) .x x.addr status
  | none => s

/-- The key of a line request that nothing waits for any more, its requester or its unit having been reset: its reply is
discarded (R416). -/
def staleKey : Nat := 2 ^ 40

/-- The requests that a unit still holds end with 0x0401. The reply of one that it has served is still to come; after a reset
it is of an epoch that has passed (`late`), and is discarded (R413-R416). -/
def State.dropRequests (s : State) (r : UnitRef) (late : Bool) : State :=
  let hit := s.arc.slices.flatMap fun kv => kv.2.reqs.filter fun q => q.at r && q.eng != staleKey
  let left := fun (q : SliceReq) => if q.at r then (if q.served && late then some { q with eng := staleKey } else none) else some q
  let keep := fun (kv : Nat × Slice) => (kv.1, { kv.2 with reqs := kv.2.reqs.filterMap left })
  let s1 : State := { s with arc := { s.arc with slices := s.arc.slices.map keep } }
  hit.foldl (fun s q => s.endX q.eng 0x0401) s1

/-- A unit is QUIESCED (R414 steps 3 and 5). -/
def State.quiesceEnd (s : State) (r : UnitRef) : State :=
  let s1 := match r with
    | .slice n => s.writeBack fun a => sliceOf a == n
    | _ => s
  (s1.setSvc r.code .quiesced).count (ctrDev 44)

/-! ## The reset of a parcel or tract (R162, R167, R415, R417) -/

/-- The address of the entry at the head of a queue: the one in its engine, the one that waits, or the next to
issue. -/
def Eng.headAddr (e : Eng) (q : Q) : Nat :=
  let w := e.sync.queue q
  let run : Option Nat := match q with
    | .m => e.mat.cur.map (·.addr)
    | .v => e.vec.run.map (·.addr)
    | .x => e.x.map (·.addr)
    | .s => none
  match run, w.head with
  | some a, _ => a
  | none, some h => h.addr
  | none, none => w.pc

/-- A queue of a reset unit: stopped with 0x0401 unless it is idle or has stopped before, its handler, counters and remainder
cleared (R415). An idle queue has no entry to stop at and stays idle; a stopped one keeps its status and its program counter
(log entry 117). -/
def Eng.resetQueue (e : Eng) (q : Q) : Queue :=
  let w := e.sync.queue q
  let a := e.headAddr q
  if w.run != .running then { w with handler := none, loops := [0, 0, 0, 0], t2rem := 0 }
  else { w with run := .stopped, head := none, status := 0x0401, faddr := a, pc := (a + 1) % 65536, handler := none,
                failed := [], branched := false, passed := [], loops := [0, 0, 0, 0], t2rem := 0 }

/-- What a context has in a reset unit: engines, segments, stakes and closure bits cleared, and the W1C fields of TRC.PSW
(R463); the stake table and the RW misuse counters stay. -/
def Eng.reset (e : Eng) : Eng :=
  { sync := { e.sync with
      stakes := Map.mapVals e.sync.stakes fun _ k => { k with st := .clear }, closures := [],
      qm := e.resetQueue .m, qv := e.resetQueue .v, qx := e.resetQueue .x, qs := e.resetQueue .s,
      misuse := false, msat := false, abandon := false },
    mat := Mat.empty, vec := Vec.empty, x := none }

/-- A queue that stopped by the reset: event 0xFF01, and for one bound to a tract outside the reset unit the end
of the tract's entry (R154, R355). -/
def State.reportReset (s : State) (u key : Nat) (old : Eng) : State :=
  [Q.m, Q.v, Q.x, Q.s].foldl (fun s q =>
    let w := old.sync.queue q
    let c := keyCtx key
    let v := keyUnit key
    if w.run != .running then s
    else if w.fed then
      if v = u && old.quiet q = false then
        State.failQueue 4 s c (enclosing v (unitOrder v + 1)) q (old.headAddr q) 0x0401 (old.headAddr q + 1) (unitIx v + 1)
      else s
    else s.event 1 0x0401 (stopResult v (qIx q) c (old.headAddr q))) s

/-- Stations that this station names in an open closure, a station tract or a collective (R417). -/
def State.namedStations (s : State) : List Nat :=
  let cl := (s.closures.filter fun kv => kv.2.st == .opened).flatMap fun kv =>
    kv.2.child ++ (if kv.2.parent = 0xFFFFFF then [] else [kv.2.parent])
  let tr := s.stracts.flatMap fun kv => kv.2.home :: kv.2.members
  let co := s.cols.flatMap fun kv => s.failTargets kv.2
  ((cl ++ tr ++ co).filter (· != s.station)).eraseDups

/-- The contexts resident in a unit, as a mask. -/
def State.residentMask (s : State) (u : Nat) : Nat :=
  (List.range 8).foldl (fun a c => a + (if (s.ctx c).resident && inFoot (s.ctx c).foot u then 2 ^ c else 0)) 0

/-- EPOCH packets to the stations `named` after the reset of a parcel or tract (R417). -/
def State.sendEpochs (s : State) (u mask : Nat) (named : List Nat) : State :=
  let body := bytesAt (toLE 4 (codeUnit u) ++ toLE 2 (s.epochOf (codeUnit u)) ++ toLE 1 mask) 0 48
  named.foldl (fun s d => s.sendOn (s.packet 6 d 5 0 0 body)) s

/-- A run uses a unit on this station: a stake of its record lies in the unit, or a tile that a parcel of it
staged (R260). -/
def State.colUses (s : State) (u h : Nat) (c : Col) : Bool :=
  [c.r.arm.toNat, c.r.start.toNat, c.r.done.toNat].any (fun w =>
    match pathUnit (w % 2 ^ 17) with | some v => within v u | none => false) ||
  s.eng.any (fun kv => decide (keyUnit kv.1 < 17477) && within (keyUnit kv.1) u &&
    kv.2.mat.stage.any fun t => t.handle == h)

/-- A run uses an Archive slice or an HBM stack on this station: a range of memory that it reads or writes lies there
(R260). -/
def State.colTouches (s : State) (r : UnitRef) (c : Col) : Bool :=
  (s.colRanges c).any fun x => match r with
    | .slice n => usesSlice n x
    | .stack h => usesStack h x
    | _ => false

/-- The line requests of the keys that `p` picks have lost their requester. -/
def State.orphanRequests (s : State) (p : Nat → Bool) : State :=
  { s with arc := { s.arc with slices := Map.mapVals s.arc.slices fun _ l =>
      { l with reqs := l.reqs.map fun q => if p q.eng then { q with eng := staleKey } else q } } }

/-- Every engine of a resident context within a unit is reset. That a reset of the die leaves the stakes of the station tracts
which its tract controller holds is the model's choice (log entry 135). -/
def State.resetEngines (s : State) (u : Nat) : State :=
  let hit := fun (k : Nat) => decide (keyUnit k < 17477) && within (keyUnit k) u && (s.ctx (keyCtx k)).resident
  let old := Map.keep s.eng fun k _ => hit k
  let s1 : State := { s with eng := s.eng.map fun kv => if hit kv.1 then (kv.1, kv.2.reset) else kv }
  old.foldl (fun s kv => s.reportReset u kv.1 kv.2) (s1.orphanRequests hit)

/-- Stakes that the unit or a member of it owns become ABANDONED (R162). -/
def State.abandonOwned (s : State) (u : Nat) : State :=
  s.abandonAll fun _ e => bit e 19 && !bit e 21 &&
    (match pathUnit (fld e 0 17) with | some v => within v u | none => false)

/-- The parcels under a unit. -/
def parcelsOf (u : Nat) : List Nat := (List.range (orderSpan (unitOrder u))).map (firstParcel u + ·)

/-- The parked contexts' synchronisation state, as the reset left it, written into the save areas again (R161, R415). -/
def State.resave (s : State) (u : Nat) : State :=
  (s.eng.filter fun kv => decide (keyUnit kv.1 < 16384) && within (keyUnit kv.1) u && (s.ctx (keyCtx kv.1)).resident &&
      (s.ctx (keyCtx kv.1)).st != .running && !(s.ctx (keyCtx kv.1)).inImage).foldl
    (fun s kv => s.putSync (keyCtx kv.1) (keyUnit kv.1) ((s.ctx (keyCtx kv.1)).saveAddr (keyUnit kv.1))) s

/-- The reset of a parcel or tract (R415). The stations that its closures and collectives name before it hear of it. -/
def State.resetUnit (s : State) (u : Nat) : State :=
  let mask := s.residentMask u
  let used := (s.cols.filter fun kv => s.colUses u kv.1 kv.2).map (·.1)
  let s1 := (s.resetEngines u).abandonOwned u
  let s2 := used.foldl (fun s h => s.colFailOwn h 0x0403) s1
  let s3 := (s2.closuresFail (fun c => c.units.any fun v => within v u) 0x0602).colAbandonCheck
  let s4 : State := { s3 with
    mem := (parcelsOf u).foldl (fun m p => m.clear (fbAddr p 0) 0xC0000) s3.mem,
    bad := Map.keep s3.bad fun k _ => !(match region k with | .fieldbook p => within p u | _ => false),
    fab := { s3.fab with acks := s3.fab.acks.filter fun k => !within (keyUnit (k.1 / 4)) u } }
  (s4.resave u).sendEpochs u mask s.namedStations

/-- What a command that T4 or a reset of the management cores ends has not begun is given up (R359, R371). -/
def State.giveUp (s : State) (r : Started) : State :=
  if !r.begun then s
  else match r.op with
  | 0x0201 => r.objs.foldl (fun s o =>
      if (s.shelf o.2.1).qst == 0 then s.setShelf o.2.1 { s.shelf o.2.1 with target := none } else s) s
  | 0x0202 => r.objs.foldl (fun s o =>
      let b := s.bindery o.2.1
      let i := b.hostAcc.findIdx (· == r.acc)
      if b.hostAcc.length ≤ i || (i = 0 && (b.hostSaved.isSome || b.cur.any fun x => x.ctx.isNone)) then s
      else
        let s1 := if i = 0 then s.bndUnregister o.2.1 8 else s
        s1.setBindery o.2.1 { s1.bindery o.2.1 with hostq := b.hostq.eraseIdx i, hostAcc := b.hostAcc.eraseIdx i }) s
  | 0x0403 => { s.dropStract (leAt r.params 0 2) with fab := { s.fab with waiting := s.fab.waiting.filter fun w => w.cmd != some r } }
  | 0x0407 => { s with cols := Map.keep s.cols fun h c => !(c.waiting && r.names objCol h) }
  | 0x0304 => { s with ctxActs := s.ctxActs.filter fun a => a.cmd != some r }
  | 0x0305 => { s with ctxActs := s.ctxActs.filter fun a => a.cmd != some r }
  | 0x0702 => { s with flt := { s.flt with replay := none } }
  | _ => { s with fab := { s.fab with waiting := s.fab.waiting.map fun w => if w.cmd = some r then { w with cmd := none } else w } }

/-- Started firmware commands end with 0x0404 when the management cores restart; what they had not begun is given up (R360,
R371). -/
def State.abortCommands (s : State) : State :=
  (s.cmd.started.filter fun r => !fastOp r.op).foldl (fun s r => (s.giveUp r).finish r 0x0404) s

/-- CMD.FATAL raised for the watchdog, or for the management cores that stop or are reset; a masked vector stays pending (R356, R354). -/
def State.fatal (s : State) (wdog : Bool) : State :=
  let c := if wdog then { s.cmd with wdog := true } else { s.cmd with mgstop := true }
  let s1 : State := { s with cmd := c }
  if !c.fatalEn then s1
  else if c.vecMasked c.fatalVec then { s1 with cmd := { c with pba := Map.put c.pba c.fatalVec true } }
  else { s1 with out := .fatal c.fatalVec :: s1.out }

/-- A stack has not trained: FAILED, in the fault log, and the device flagged (R199). -/
def State.stackFails (s : State) (h : Nat) : State :=
  ((s.setStack h { s.stack h with st := 3 }).log 0x0050 0 4 (codeStack h) 0 0xFFFFFFFF).flagDevice

/-- The training of a stack at its unit reset (R197, R199). Whether it trains is a free value (log entry 115). -/
def State.retrainStack (s : State) (h : Nat) : State :=
  let s1 := s.useFree.setStack h { s.stack h with st := if (s.stack h).st = 3 then 3 else 1, hard := [] }
  if (s.stack h).st ≠ 3 && s.freeAt 13 1 = 0#1 then s1.stackFails h else s1

/-- The management cores are reset: started commands end with 0x0404, and the firmware's state is gone: its messages, sent and
received, and the record of a replay (R356, R415). -/
def State.mgmtReset (s : State) : State :=
  let s1 : State := { s with
    flt := { s.flt with replay := none },
    fab := { s.fab with waiting := [], answered := [], inbox := s.fab.inbox.filter (·.ptype != 3),
                        kept := s.fab.kept.filter (·.ptype != 3) } }
  s1.fatal false

/-- A unit reset: its epoch, its counter, its fault log entry, and what R415 clears. The unit is in service
after it. The receipts of commands that a reset of the management cores ends come before any other (R360). -/
def State.unitReset (s : State) (r : UnitRef) : State :=
  let s0 := if r == .mgmt then s.abortCommands else s
  let s1 := ((s0.bumpEpoch r.code).count (ctrDev 45)).log 0x0031 0 2 r.code 0 0xFFFFFFFF
  let s2 := match r with
    | .unit u => s1.resetUnit u
    | .port n => s1.portReset n (s.svcOf r.code != Svc.inService)
    | .slice n => ((s1.dropRequests r true).invalidate fun a => sliceOf a == n).colsFail (s1.colTouches r) 0x0403
    | .stack h =>
      (((s1.bndAbort h 0x0401).dropRequests r true).colsFail (s1.colTouches r) 0x0403).retrainStack h
    | .mgmt => s1.mgmtReset
  s2.setSvc r.code .inService

/-- The sub-ports of a port that returns to service: those that went DOWN train. One that still quiesces goes DOWN first
(R233, log entry 91). -/
def State.portResume (s : State) (n : Nat) : State :=
  (s.portPaths n).foldl (fun s p =>
    let s1 := if (s.port p).st == 8 then s.subportDown p else s
    if (s1.port p).st == 1 then s1.trainIfEnabled p else s1) s

/-- A quiesced unit returns to service without a reset (R414). -/
def State.unitResume (s : State) (r : UnitRef) : State :=
  match s.svcOf r.code with
  | .inService => s
  | .disabled => s
  | _ =>
    let s1 := s.setSvc r.code .inService
    match r with
    | .stack h => s1.setStack h { s1.stack h with st := 1 }
    | .port n => s1.portResume n
    | _ => s1

end Sys2Proof.Machine
end

