-- ==== Sys2Proof/Machine/Fp.lean ====
section
/-! DEFINITION. Fingerprint units: flush, and the comparison of a replay (R195, R196, R429-R431). -/

namespace Sys2Proof.Machine

/-! ## The comparison of a replay (R431, R432) -/

/-- The unit agrees with a journal row. -/
def FpUnit.agrees (u : FpUnit) (r : JRow) : Bool := u.lat == r.result && u.latCnt == r.count && u.poly == r.poly

/-- RESULT bytes 16-26 of a survey (R434): pairs compared, pairs that disagreed, the lowest suspect's path. -/
def surveyResult (pairs disagree : Nat) (suspect : Option Nat) : List Byte :=
  toLE 4 pairs ++ toLE 4 disagree ++ toLE 3 (match suspect with | some p => unitPath p | none => 0xFFFFFF)

/-- The end of a survey: its log entry, and with a suspect the flag of the device (R434). -/
def State.surveyed (s : State) (pairs disagree : Nat) (suspect : Option Nat) : State :=
  let s1 := s.log 0x0070 0 (if suspect.isSome then 4 else 0) 0xFFFFFFFF 0 0 (surveyResult pairs disagree suspect)
  if suspect.isSome then s1.flagDevice else s1

/-- The survey that a replay which disagrees is followed by (R432). What it finds is a free value (log entry 71). -/
def State.replaySurvey (s : State) : State :=
  if s.freeAt 14 1 = 0#1 then s.useFree.surveyed 8192 0 none
  else s.useFree.surveyed 8192 (1 + (s.freeAt 0 13).toNat) (some (s.freeAt 15 14).toNat)

/-- The comparison, once a flush has happened and no unit still scans: the receipt of REPLAY_STEP and its fault
log entry. One that disagrees is followed by a survey (R432). -/
def State.replayCheck (s : State) : State :=
  match s.flt.replay with
  | some r =>
    if r.flushed && !(s.arc.fp.any fun kv => kv.2.busy) then
      let rows := r.rows.filter fun kv => kv.2.latched
      let wrong := rows.filter fun kv => !((s.fp kv.1).agrees kv.2)
      let compared := !rows.isEmpty
      let ok := wrong.isEmpty && compared
      let res := toLE 1 (b2n ok + 2 * b2n compared) ++ toLE 1 ((wrong.map (·.1)).headD 0xFF)
      let s1 := { s with flt := { s.flt with replay := none } }.log 0x0071 0 (if ok || !compared then 0 else 1) 0xFFFFFFFF 0 0 res
      let s2 := s1.finishAll (fun x => x.op == 0x0702) 0 res
      if ok || !compared then s2 else s2.replaySurvey
    else s
  | none => s

/-! ## Flushing (R196) -/

/-- The journal row of a unit that has latched. -/
def FpUnit.row (u : FpUnit) : JRow := ⟨u.lat, u.latCnt, true, u.poly⟩

/-- One unit flushed: latched and cleared, or its scan begun, or nothing while a scan of it is in progress, whatever its
mode is by then. That a unit in scan mode scans whatever its EN is the model's choice (log entry 137). -/
def State.flushOne (s : State) (n : Nat) : State :=
  let u := s.fp n
  if u.busy then s.count (ctrDev 55)
  else if u.scan then s.setFp n { u with busy := true }
  else
    let v := { u with lat := u.acc, latCnt := u.cnt, acc := 0, cnt := 0 }
    (s.setFp n v).journalLatch [(n, v.row)]

/-- A flush of `count` units from `first`, wrapping past unit 127 (R363, R297). -/
def State.fpFlushRange (s : State) (first count : Nat) : State :=
  let s1 := (List.range count).foldl (fun s i => s.flushOne ((first + i) % 128)) s
  match s1.flt.replay with
  | some r => { s1 with flt := { s1.flt with replay := some { r with flushed := true } } }.replayCheck
  | none => s1

end Sys2Proof.Machine
end

