-- ==== Sys2Proof/Machine/Issue.lean ====
section
/-! DEFINITION. How an entry of a queue issues, in a parcel and through a tract (spec 06, R152-R154, R493). -/

namespace Sys2Proof.Machine

/-- The context for which a queue of a unit may issue an entry now: none while the unit takes no requests, or
its queue cannot issue (R152, R414). -/
def State.issuer (s : State) (u : Nat) (q : Q) : Option Nat :=
  if s.unitBusy u then none
  else match s.ctxFor u q with
    | some c =>
      let w := s.queue (engKey c u) q
      if w.canIssue && !w.fed then some c else none
    | none => none

/-- The parcels that run a tract's entry: those reached through members that are present and bound to their
tract (R153). -/
def State.fedParcels (s : State) (c : Nat) (q : Q) : (n : Nat) → (u : Nat) → List Nat
  | 0, _ => []
  | n + 1, u =>
    (members u).flatMap fun v =>
      if inFoot (s.ctx c).foot v && (s.queue (engKey c v) q).fed then
        if unitOrder v = 0 then [v] else State.fedParcels s c q n v
      else []

/-- A queue bound to its tract that the tract's next entry reaches runs again (R154). -/
def State.restart (s : State) (c u : Nat) (q : Q) : State :=
  let w := s.queue (engKey c u) q
  if w.run == .running then s else s.setQueue (engKey c u) q { w with run := .running }

/-- The tracts under one, bound to their tract, through which its entries pass (R153, R154). -/
def State.fedTracts (s : State) (c : Nat) (q : Q) : (n : Nat) → (u : Nat) → List Nat
  | 0, _ => []
  | n + 1, u =>
    (members u).flatMap fun v =>
      if unitOrder v ≠ 0 && inFoot (s.ctx c).foot v && (s.queue (engKey c v) q).fed then
        v :: State.fedTracts s c q n v
      else []

/-- A tract's entry at one member: it runs there, or stands behind the entry at the head (R153). -/
def State.passOn (s : State) (c p : Nat) (q : Q) (a : Nat) (e : Entry) (run : State → Nat → Nat → Nat → Entry → State) :
    State :=
  let s1 := s.restart c p q
  let w := s1.queue (engKey c p) q
  if w.head.isSome then s1.setQueue (engKey c p) q { w with passed := w.passed ++ [(a, e)] } else run s1 c p a e

/-- An entry of a tract passed on to every member that runs it, without waiting for earlier entries (R153). -/
def State.passAll (s : State) (c u : Nat) (q : Q) (a : Nat) (e : Entry) (run : State → Nat → Nat → Nat → Entry → State) :
    State :=
  let s1 := (s.fedTracts c q 4 u).foldl (fun s v => s.restart c v q) s
  (s.fedParcels c q 4 u).foldl (fun s p => s.passOn c p q a e run) s1

/-- The entries that stand behind the head of a member's queue run in turn, as far as the head leaves (R153). -/
def State.feed (s : State) (c p : Nat) (q : Q) (run : State → Nat → Nat → Nat → Entry → State) : (n : Nat) → State
  | 0 => s
  | n + 1 =>
    let w := s.queue (engKey c p) q
    match w.head, w.passed with
    | none, (a, e) :: rest =>
      State.feed (run (s.setQueue (engKey c p) q { w with passed := rest }) c p a e) c p q run n
    | _, _ => s

/-- The queue's next entry can be fetched: its address lies in the Fieldbook and reads as correctable (R152). -/
def State.fetches (s : State) (c u : Nat) (q : Q) : Bool :=
  let pc := (s.queue (engKey c u) q).pc
  decide (pc ≤ 0xBFFF) && !s.badIn (granAddr (firstParcel u) pc) 16

/-- An entry that is a command of opcode `op` issues at a unit: in a parcel it runs there; in a tract every fed member
runs it (R153). `run` takes the state, the context, the parcel, the entry's address and the entry; a word of another
opcode is malformed and runs as the reserved word 0 (R493, log entry 24). Nothing happens while the queue cannot issue. -/
def State.issue (s : State) (u : Nat) (q : Q) (op : Nat) (e : Entry)
    (run : State → Nat → Nat → Nat → Entry → State) : State :=
  match s.issuer u q with
  | none => s
  | some c =>
    let a := (s.queue (engKey c u) q).pc
    let e' := if fld e 0 8 = op then e else 0
    if !s.fetches c u q then s
    else if unitOrder u = 0 then run (s.advance c u q) c u a e'
    else ((s.advance c u q).count (ctrBase u + 3)).passAll c u q a e' run

/-- The context that runs in a parcel in service and whose engine satisfies `f`. -/
def State.engineCtx (s : State) (p : Nat) (f : Eng → Bool) : Option Nat :=
  if s.unitBusy p then none
  else (List.range 8).find? fun c => s.runsIn c p && f (s.engOf (engKey c p))

/-- The entry at the head of a parcel's queue, of a context, leaves the head: it proceeds. -/
def State.leaveHead (s : State) (c p : Nat) (q : Q) : State :=
  let w := s.queue (engKey c p) q
  s.setQueue (engKey c p) q { w with head := none }

/-- The entry that waits in an engine at the head of a queue. -/
def Eng.engineHead (e : Eng) (q : Q) : Option (Nat × BitVec 128) :=
  match (e.sync.queue q).head with
  | some ⟨a, w, .engine⟩ => some (a, w)
  | _ => none

/-- The running entry of an engine ends; an entry that waits behind it stays at the head when the status lets the
queue advance (R154). -/
def State.endRun (s : State) (c u : Nat) (q : Q) (addr status : Nat) : State :=
  if advances status then s else s.failQueue 4 c u q addr status (addr + 1) 0

/-- Writes of half-bytes into a Fieldbook; a granule that is written whole is good again (R418). -/
def State.putNibs (s : State) (ws : List (Nat × Nat × Nat)) : State :=
  let whole := fun (g : Nat) => (List.range 32).all fun i => ws.any fun w => decide (w.1 ≤ 2 * g + i) && decide (2 * g + i < w.1 + w.2.1 / 4)
  { s with mem := Machine.putNibs s.mem ws,
           bad := if s.bad.isEmpty then s.bad else Map.keep s.bad fun k _ => !(decide (0xC00000000000 ≤ k) && whole k) }

end Sys2Proof.Machine
end

