-- ==== Sys2Proof/Machine/Matrix.lean ====
section
/-! DEFINITION. The M queue: MDECL to MLOAD, the steps of the array, drains and staging (spec 04, R98-R122). -/

namespace Sys2Proof.Machine

/-! ## Parts shared by the M entries -/

/-- The matrix state of a context in a parcel. -/
def State.mat (s : State) (c p : Nat) : Mat := (s.engOf (engKey c p)).mat

/-- A segment by number. -/
def Mat.seg (m : Mat) (one : Bool) : Segment := if one then m.seg1 else m.seg0

/-- A segment replaced. -/
def Mat.setSeg (m : Mat) (one : Bool) (v : Segment) : Mat := if one then { m with seg1 := v } else { m with seg0 := v }

/-- The slot of a number. -/
def Mat.slot (m : Mat) (n : Nat) : Slot := Map.getD m.slots n ⟨0, 0, false, 0, 0⟩

/-- An issued MACC on a segment has still products to place (R102, R106). -/
def Mat.placing (m : Mat) (one : Bool) : Bool :=
  (m.cur.any fun r => eSeg r.entry == one) || (m.pend.any fun r => eSeg r.entry == one)

/-- Some range of a parcel's Fieldbook, as byte offset and length, reads as uncorrectable. -/
def State.fbBad (s : State) (p : Nat) (rs : List (Nat × Nat)) : Option Nat :=
  ((rs.find? fun r => s.badIn (fbAddr p r.1) r.2).map fun r => fbAddr p r.1)

/-- Granule ranges as byte ranges. -/
def toBytes (rs : List (Nat × Nat)) : List (Nat × Nat) := rs.map fun r => (16 * r.1, r.2)

/-- An M entry ends with 0x0723 and its parcel is swapped (R111, R189, R419). -/
def State.mUnc (s : State) (c p addr a : Nat) : State := (s.fbUnc p a (codeUnit p)).endEntry c p .m addr 0x0723

/-- An issued MACC ends with a status while entries behind it have issued: they are withdrawn, and the program
counter goes to the first of them (R495). -/
def State.mWithdraw (s : State) (c p addr status : Nat) : State :=
  let m := s.mat c p
  let w := s.queue (engKey c p) .m
  let pc := match m.pend, w.head with
    | some r, _ => r.addr
    | none, some h => h.addr
    | none, none => w.pc
  (s.setMat (engKey c p) { m with cur := none, pend := none }).failQueue 4 c p .m addr status pc 0

/-- How an M entry stands after it has been examined at the head of the queue: it waits there, or ends with a
status in a new state. -/
inductive MRes where
  | wait
  | done (status : Nat) (s : State)
  deriving DecidableEq, Repr

/-- An entry that ends with a status and no effect. -/
def MRes.end (s : State) (status : Nat) : MRes := .done status s

/-! ## MDECL (R99-R101) -/

/-- What a datum source gives (R65, R66): a datum, a wait, or a status. -/
inductive Datum where
  | value (dp : Option Int)
  | wait
  | fault (status : Nat)
  deriving DecidableEq, Repr

/-- The datum word of an AGREED source (R65). -/
def State.agreed (s : State) (c : Nat) (d : BitVec 512) : Datum :=
  let n := fld d 129 10
  let a := shelfAddr n (4 * fld d 139 24)
  if s.inCatalogue a then .fault 0x0311
  else if s.shelfStatus n c ≠ 0 then .fault (s.shelfStatus n c)
  else if s.badIn a 4 then .fault 0x0723
  else
    let w := s.mem.readLE a 4
    if w.testBit 31 && bitsOf w 10 5 == 0 && bitsOf w 15 16 == s.brg.rev % 65536 then .value (some (sx 10 w)) else .wait

/-- The product datum of a descriptor now (R65, R66, R308, R313). -/
def State.datum (s : State) (c : Nat) (d : BitVec 512) : Datum :=
  if dWide d && !dCoupled d then .value none
  else match dSrc d with
    | 0 => .value (some (dEmax d))
    | 1 => .value (some (sx 10 (fld d 18 10)))
    | 2 =>
      let pa := if bit d 8 then s.prescription (fld d 80 16) else some 0
      let pb := if bit d 9 then s.prescription (fld d 96 16) else some 0
      match pa, pb, s.cat.busy with
      | some a, some b, false => .value (some (dEmax d + a + b))
      | _, _, _ => .wait
    | _ => s.agreed c d

/-- The reads of a datum, in the control class: of the catalogue's entries, or of the agreed word (R183, R303). -/
def State.datumReads (s : State) (d : BitVec 512) : State :=
  let one := fun (s : State) (a len : Nat) => s.access .control false a len
  let entry := fun (s : State) (on : Bool) (k : Nat) => if on then one s (shelfAddr 636 (64 * k)) 64 else s
  if dWide d && !dCoupled d then s
  else match dSrc d with
    | 2 => entry (entry s (bit d 8) (fld d 80 16)) (bit d 9) (fld d 96 16)
    | 3 => one s (shelfAddr (fld d 129 10) (4 * fld d 139 24)) 4
    | _ => s

/-- The slot is bound to a segment that is accumulating or parked (R101). -/
def Mat.slotInUse (m : Mat) (n : Nat) : Bool :=
  (m.seg0.holds && m.seg0.dslot == n) || (m.seg1.holds && m.seg1.dslot == n)

/-- MDECL at the head of its queue (R100, R101). An entry with two defects ends with the first of this order (log entry
121). -/
def State.mdecl (s : State) (c p : Nat) (e : Entry) : MRes :=
  let g := fld e 11 16
  let a := fbAddr p (16 * g)
  let d := BitVec.ofNat 512 (s.mem.readLE a 64)
  let m := s.mat c p
  let n := fld e 8 3
  if fld e 0 8 ≠ 1 || fld e 27 101 ≠ 0 then .end s 0x0803
  else if 0xBFFF < g + 3 then .end s 0x0722
  else if g % 4 ≠ 0 then .end s 0x0803
  else if s.badIn a 64 then .end (s.fbUnc p a (codeUnit p)) 0x0723
  else if !descOk d then .end s 0x0803
  else if m.slotInUse n then .end s 0x0725
  else match s.datum c d with
    | .wait => .wait
    | .fault st =>
      .end (if st = 0x0723 then s.lineUnc (shelfAddr (fld d 129 10) (4 * fld d 139 24)) (codeUnit p) else s) st
    | .value dp => .end ((s.datumReads d).setMat (engKey c p) { m with slots := Map.put m.slots n (slotOf d dp) }) 0

/-! ## MOPEN (R102) -/

/-- ROWS and COLS lie in their range (R102). -/
def tileSizeOk (wide : Bool) (e : Entry) : Bool :=
  let lim := tileDim wide (bit e 12)
  decide (1 ≤ fld e 14 5) && decide (fld e 14 5 ≤ lim) && decide (1 ≤ fld e 19 5) && decide (fld e 19 5 ≤ lim)

/-- MOPEN at the head of its queue (R102, R109). -/
def State.mopen (s : State) (c p : Nat) (e : Entry) : MRes :=
  let m := s.mat c p
  let one := eSeg e
  let g := m.seg one
  let n := fld e 9 3
  if fld e 0 8 ≠ 2 || fld e 24 104 ≠ 0 then .end s 0x0803
  else match Map.find m.slots n with
    | none => .end s 0x0803
    | some sl =>
      if !tileSizeOk (dWide sl.desc) e then .end s 0x0803
      else if g.st == .draining then .wait
      else if g.holds && !bit e 13 then .end s 0x0721
      else if g.holds && m.placing one then .wait
      else
        let v := openSegment sl n (bit e 12) (fld e 14 5) (fld e 19 5)
        .end (s.setMat (engKey c p) (m.setSeg one v)) 0

/-! ## MACC (R103-R105) -/

/-- An MACC begins to place: its segment accumulates, the other is parked when it was accumulating (R109). -/
def Mat.begin (m : Mat) (r : MaccRun) : Mat :=
  let one := eSeg r.entry
  let g := m.seg one
  let o := m.seg (!one)
  let m1 := { m with cur := some r }.setSeg one { g with st := .accumulating }
  if o.st == .accumulating then m1.setSeg (!one) { o with st := .parked } else m1

/-- What an MACC is refused with before it places anything; none where it may issue (R103). The order of the checks is
log entry 121. -/
def Mat.maccStatus (m : Mat) (e : Entry) : Option Nat :=
  let g := m.seg (eSeg e)
  let d := (m.slot g.dslot).desc
  if fld e 0 8 ≠ 3 || fld e 120 8 ≠ 0 || eK e = 0 then some 0x0803
  else if !g.holds then some 0x0721
  else if (bit e 9 && !(dFmtA d).isInt) || (bit e 10 && !(dFmtB d).isInt) then some 0x0803
  else if dIbs d ≤ fld e 11 5 then some 0x0803
  else if !((maccRanges d e (tileDim (dWide d) g.geom)).all fun r => granOk r.1 r.2) then some 0x0722
  else none

/-- MACC at the head of its queue (R103, R105): the first places, the second is pending, a third waits. -/
def State.macc (s : State) (c p addr : Nat) (e : Entry) : MRes :=
  let m := s.mat c p
  if m.cur.isSome && m.pend.isSome then .wait
  else match m.maccStatus e with
    | some st => .end s st
    | none =>
      let r : MaccRun := ⟨addr, e, 0⟩
      .end (s.setMat (engKey c p) (if m.cur.isSome then { m with pend := some r } else m.begin r)) 0

/-! ## MFIN (R106-R108, R118) -/

/-- What an MFIN is refused with, once its segments have no product to place (R106-R108, R114). The order of the
checks is log entry 121. -/
def State.mfinStatus (s : State) (c p : Nat) (e : Entry) : Option Nat :=
  let m := s.mat c p
  let fb := fbAddr p 0
  let segs := finSegs m e
  let g0 := segs.headD Segment.empty
  let d0 := (m.slot g0.dslot).desc
  let d1 := (m.slot m.seg1.dslot).desc
  let dim := tileDim (dWide d0) g0.geom
  let cols := if bit e 9 then 2 * dim else dim
  if fld e 0 8 ≠ 4 || fld e 120 8 ≠ 0 || 1 < fld e 10 2 then some 0x0803
  else if !segs.all Segment.holds then some 0x0721
  else if bit e 9 && pairBad m d0 d1 dim then some 0x0721
  else if blockBad d0 (bit e 9) g0.geom then some 0x0721
  else if fld e 10 2 = 0 && 16 * fld e 28 12 < (elemBytes (dFmt d0).width cols + 15) / 16 * 16 then some 0x0803
  else if !((finRanges s.mem fb m d0 e dim).all fun r => granOk r.1 r.2) then some 0x0722
  else none

/-- The ranges that an MFIN reads, as byte offset and length. -/
def State.mfinReads (s : State) (c p : Nat) (e : Entry) : List (Nat × Nat) :=
  let m := s.mat c p
  let g0 := (finSegs m e).headD Segment.empty
  let d := (m.slot g0.dslot).desc
  toBytes (finReads s.mem (fbAddr p 0) m d e (tileDim (dWide d) g0.geom))

/-- The segments of an MFIN begin to drain; the writes become visible at the end. -/
def Mat.drain (m : Mat) (e : Entry) (writes : List (Nat × Nat × Nat)) : Mat :=
  let zero := bit e 9 || !eSeg e
  let one := bit e 9 || eSeg e
  let m1 := if zero then m.setSeg false { m.seg0 with st := .draining } else m
  let m2 := if one then m1.setSeg true { m1.seg1 with st := .draining } else m1
  { m2 with drains := m2.drains ++ [⟨zero, one, writes⟩] }

/-- The report of R89 for a slot that names a catalogue output. -/
def State.mfinReport (s : State) (d : BitVec 512) (t : FinTile) : State :=
  if bit d 128 then s.catReport (fld d 112 16) t.shed t.clamp else s

/-- MFIN's effect: the tile computed, its events counted, and the drain begun with its writes or the tile
staged. -/
def State.mfinGo (s : State) (c p : Nat) (e : Entry) : State :=
  let m := s.mat c p
  let g0 := (finSegs m e).headD Segment.empty
  let sl := m.slot g0.dslot
  let dim := tileDim (dWide sl.desc) g0.geom
  let t := finTile s.mem (fbAddr p 0) m sl.desc e dim
  let m1 := m.drain e ((if fld e 10 2 = 0 then t.writes else []) ++ t.scales)
  let tile : Tile := ⟨fld e 88 12, fld e 100 20, dim, if bit e 9 then 2 * dim else dim, fld sl.desc 163 4, sl.ds, dZmode sl.desc, t.values, t.codes⟩
  let m2 := if fld e 10 2 = 1 then { m1 with stage := m1.stage ++ [tile] } else m1
  let s1 := if fld e 10 2 = 1 then s.updRun (fld e 88 12) fun r => { r with stagedQ := r.stagedQ ++ [engKey c p] } else s
  (((s1.setMat (engKey c p) m2).countShed (ctrBase p + 17) t.events).count (ctrBase p + 31)).mfinReport sl.desc t

/-- Tiles in the send staging of a parcel, whatever context staged them (R118, R335). -/
def State.stagedIn (s : State) (p : Nat) : Nat := ((List.range 8).map fun c => (s.mat c p).stage.length).sum

/-- Why a tile does not fit the collective that an MFIN names (R118, R263, log entry 23); a collective that is not open has
no kind to fit (log entry 122). -/
def State.tileMisfit (s : State) (c p : Nat) (e : Entry) : Bool :=
  let m := s.mat c p
  let g0 := (finSegs m e).headD Segment.empty
  let d := (m.slot g0.dslot).desc
  let dim := tileDim (dWide d) g0.geom
  match s.col (fld e 88 12) with
  | none => true
  | some k =>
    k.waiting || k.r.ctx.toNat != c || k.sums != (dFmt d).isTally ||
      (k.sums && dim * (if bit e 9 then 2 * dim else dim) != k.tileE)

/-- MFIN at the head of its queue (R106, R118). A collective that is still open takes the tile for its next run, whatever
its last run ended with (log entry 122). -/
def State.mfin (s : State) (c p : Nat) (e : Entry) : MRes :=
  let m := s.mat c p
  if (bit e 9 || !eSeg e) && m.placing false then .wait
  else if (bit e 9 || eSeg e) && m.placing true then .wait
  else match s.mfinStatus c p e with
    | some st => .end s st
    | none =>
      match s.fbBad p (s.mfinReads c p e) with
      | some a => .end (s.fbUnc p a (codeUnit p)) 0x0723
      | none =>
        if fld e 10 2 = 1 && s.tileMisfit c p e then .end s 0x0724
        else if fld e 10 2 = 1 && 4 ≤ s.stagedIn p then .wait
        else .end (s.mfinGo c p e) 0

/-! ## MSUM, MSAVE, MLOAD (R110, R117) -/

/-- MSUM at the head of its queue (R117). -/
def State.msum (s : State) (c p : Nat) (e : Entry) : MRes :=
  let m := s.mat c p
  let f := (fmtOf (fld e 10 4)).getD .fp32
  let dim := if bit e 14 then 8 else 16
  let k := fld e 31 24
  let len := elemBytes f.width (dim * k)
  let src := fld e 15 16
  if fld e 0 8 ≠ 5 || fld e 71 57 ≠ 0 || !f.isInt || k = 0 then .end s 0x0803
  else if (m.seg (eSeg e)).st != .empty then .end s 0x0721
  else if !(granOk src len) || !(granOk (fld e 55 16) (8 * dim)) then .end s 0x0722
  else if s.badIn (granAddr p src) len then .end (s.fbUnc p (granAddr p src) (codeUnit p)) 0x0723
  else
    let sums := msumSums s.mem (granAddr p src) f dim k
    .end (s.store (granAddr p (fld e 55 16)) (sums.flatMap fun v => toLE 8 (wrapU 64 v))) 0

/-- MSAVE at the head of its queue (R110). -/
def State.msave (s : State) (c p : Nat) (e : Entry) : MRes :=
  let m := s.mat c p
  let one := eSeg e
  let g := m.seg one
  let a := fld e 9 16
  if fld e 0 8 ≠ 6 || fld e 25 103 ≠ 0 then .end s 0x0803
  else if !g.holds then .end s 0x0721
  else if m.placing one then .wait
  else if !granOk a 8448 then .end s 0x0722
  else .end ((s.store (granAddr p a) (g.images ++ g.laneBytes)).setMat (engKey c p) (m.setSeg one Segment.empty)) 0

/-- MLOAD at the head of its queue (R110, R62). -/
def State.mload (s : State) (c p : Nat) (e : Entry) : MRes :=
  let m := s.mat c p
  let one := eSeg e
  let g := fld e 9 16
  let a := granAddr p g
  if fld e 0 8 ≠ 7 || fld e 25 103 ≠ 0 then .end s 0x0803
  else if (m.seg one).st != .empty then .end s 0x0721
  else if !granOk g 8448 then .end s 0x0722
  else if s.badIn a 8448 then .end (s.fbUnc p a (codeUnit p)) 0x0723
  else match segmentOfImages (fun i => s.mem.readLE (a + 32 * i) 32) fun n => (Map.find m.slots n).isSome with
    | none => .end s 0x0802
    | some v =>
      let lane := laneOf s.mem (a + 8192)
      let v' := if v.st == .empty then Segment.empty else { v with rowsum := lane.1, colsum := lane.2 }
      .end (s.setMat (engKey c p) (m.setSeg one v')) 0

/-! ## Issue and retry -/

/-- The M entry of a word, by its opcode; a reserved one ends with 0x0803 (R98, R493). -/
def State.mExec (s : State) (c p addr : Nat) (e : Entry) : MRes :=
  match fld e 0 8 with
  | 1 => s.mdecl c p e
  | 2 => s.mopen c p e
  | 3 => s.macc c p addr e
  | 4 => s.mfin c p e
  | 5 => s.msum c p e
  | 6 => s.msave c p e
  | 7 => s.mload c p e
  | _ => .end s 0x0803

/-- What a result makes of the queue. -/
def State.mSettle (s : State) (c p addr : Nat) (e : Entry) (r : MRes) : State :=
  match r with
  | .wait => s.waitHead c p .m ⟨addr, e, .engine⟩
  | .done st s' => s'.endEntry c p .m addr st

/-- An M entry runs in a parcel. -/
def State.mRun (s : State) (c p a : Nat) (e : Entry) : State := s.mSettle c p a e (s.mExec c p a e)

/-- The M entries that a tract has passed on run as far as the head leaves. -/
def State.mFeed (s : State) (c p : Nat) : State :=
  s.feed c p .m State.mRun (s.queue (engKey c p) .m).passed.length

/-- The M entry that waits in the engine at the head of a parcel's queue is examined again; not while its context is
pre-empted, whose queue stands at its boundary (R120). -/
def State.mRetry (s : State) (c p : Nat) : State :=
  match (s.engOf (engKey c p)).engineHead .m with
  | some (a, e) => if 0xF0 ≤ fld e 0 8 || !s.runsIn c p then s else (s.mRun c p a e).mFeed c p
  | none => s

/-- An M entry of opcode `op` issues. -/
def State.mIssue (s : State) (u op : Nat) (e : Entry) : State := s.issue u .m op e State.mRun

/-! ## The commands -/

/-- MDECL (R100). -/
def execMdecl (u : UnitIx) (e : Entry) (s : State) : Host.Outcome State Fault Refusal := .next (s.mIssue u.val 1 e)

/-- MDECL_SOURCE_VALID: a waiting MDECL looks at its source again (R66). -/
def execMdeclSourceValid (p : ParcelIx) (s : State) : Host.Outcome State Fault Refusal :=
  match s.engineCtx p.val fun e => (e.engineHead .m).any fun h => fld h.2 0 8 == 1 with
  | some c => .next (s.mRetry c p.val)
  | none => .next s

/-- MDECL_DATUM_EXPIRY: T2 of a waiting MDECL; a source that is valid prevails (R66, R492). -/
def execMdeclDatumExpiry (p : ParcelIx) (s : State) : Host.Outcome State Fault Refusal :=
  match s.engineCtx p.val fun e => (e.engineHead .m).any fun h => fld h.2 0 8 == 1 with
  | some c =>
    match (s.engOf (engKey c p.val)).engineHead .m with
    | some (a, e) =>
      match s.mdecl c p.val e with
      | .wait => .next ((s.count (ctrDev 41)).endEntry c p.val .m a 0x0501)
      | r => .next ((s.mSettle c p.val a e r).mFeed c p.val)
    | none => .next s
  | none => .next s

/-- MOPEN (R102). -/
def execMopen (u : UnitIx) (e : Entry) (s : State) : Host.Outcome State Fault Refusal := .next (s.mIssue u.val 2 e)

/-- MACC (R103). -/
def execMacc (u : UnitIx) (e : Entry) (s : State) : Host.Outcome State Fault Refusal := .next (s.mIssue u.val 3 e)

/-- The MACC after the one that has placed its last product: the pending one begins. -/
def Mat.next (m : Mat) : Mat :=
  match m.pend with
  | some r => { m with cur := none, pend := none }.begin r
  | none => { m with cur := none }

/-- One step of the current MACC: its products placed, or its end on uncorrectable data (R96, R112). -/
def State.maccStep (s : State) (c p : Nat) (r : MaccRun) : State :=
  let m := s.mat c p
  let one := eSeg r.entry
  let g := m.seg one
  let d := (m.slot g.dslot).desc
  match s.fbBad p (stepRanges d r.entry (tileDim (dWide d) g.geom) r.done) with
  | some a =>
    let m1 := m.setSeg one { g with st := .parked }
    ((s.fbUnc p a (codeUnit p)).setMat (engKey c p) m1).mWithdraw c p r.addr 0x0723
  | none =>
    let o := placeStep s.mem (fbAddr p 0) d r.entry r.done g
    let m1 := m.setSeg one o.1
    let m2 := if r.done + 1 = eK r.entry then m1.next else { m1 with cur := some { r with done := r.done + 1 } }
    let s1 := ((s.setMat (engKey c p) m2).countShed (ctrBase p + 17) o.2).count (ctrBase p + 16)
      (stepClocks d g.geom r.done)
    if r.done + 1 = eK r.entry then s1.mRetry c p else s1

/-- The current MACC stands between clocks: not after the first of two steps that share one (R93, R120). -/
def Mat.betweenClocks (m : Mat) : Bool :=
  match m.cur with
  | some r =>
    let g := m.seg (eSeg r.entry)
    r.done % 2 == 0 || stepClocks (m.slot g.dslot).desc g.geom 1 != 0
  | none => true

/-- The context whose MACC the array of a parcel places: the running one, or one under pre-emption whose MACC has not
reached the end of its clock (R120). -/
def State.maccCtx (s : State) (p : Nat) : Option Nat :=
  match s.engineCtx p fun e => e.mat.cur.isSome with
  | some c => some c
  | none => (List.range 8).find? fun c => (s.ctx c).parking && !(s.mat c p).betweenClocks

/-- MACC_STEP: the array of a parcel places the next step of its current MACC (R96, R105). -/
def execMaccStep (p : ParcelIx) (s : State) : Host.Outcome State Fault Refusal :=
  match s.maccCtx p.val with
  | some c =>
    match (s.mat c p.val).cur with
    | some r => .next (s.maccStep c p.val r)
    | none => .next s
  | none => .next s

/-- MFIN (R106, R118). -/
def execMfin (u : UnitIx) (e : Entry) (s : State) : Host.Outcome State Fault Refusal := .next (s.mIssue u.val 4 e)

/-- The drain of a segment ends: its writes land, its segments are empty (R106, R109). -/
def State.drainEnd (s : State) (c p : Nat) (seg : Bool) : State :=
  let m := s.mat c p
  match m.drains.find? fun d => if seg then d.seg1 else d.seg0 with
  | none => s
  | some d =>
    let m1 := { m with drains := m.drains.erase d }
    let m2 := if d.seg0 then m1.setSeg false Segment.empty else m1
    let m3 := if d.seg1 then m2.setSeg true Segment.empty else m2
    ((s.putNibs d.writes).setMat (engKey c p) m3).mRetry c p

/-- SEGMENT_DRAIN_END (R106). A drain in progress ends also while its context is being pre-empted (R120). -/
def execSegmentDrainEnd (p : ParcelIx) (seg : Bool) (s : State) : Host.Outcome State Fault Refusal :=
  match (List.range 8).find? fun c => (s.mat c p.val).drains.any fun d => if seg then d.seg1 else d.seg0 with
  | some c => .next (s.drainEnd c p.val seg)
  | none => .next s

/-- MFIN_STAGING_FREE: a waiting MFIN stages its tile (R118). -/
def execMfinStagingFree (p : ParcelIx) (s : State) : Host.Outcome State Fault Refusal :=
  match s.engineCtx p.val fun e => (e.engineHead .m).any fun h => fld h.2 0 8 == 4 with
  | some c => .next (s.mRetry c p.val)
  | none => .next s

/-- MFIN_STAGING_EXPIRY: the T3 limit of a waiting MFIN; a free slot prevails (R118, R492). -/
def execMfinStagingExpiry (p : ParcelIx) (s : State) : Host.Outcome State Fault Refusal :=
  match s.engineCtx p.val fun e => (e.engineHead .m).any fun h => fld h.2 0 8 == 4 && fld h.2 10 2 == 1 with
  | some c =>
    match (s.engOf (engKey c p.val)).engineHead .m with
    | some (a, e) =>
      match s.mfin c p.val e with
      | .wait =>
        if 4 ≤ s.stagedIn p.val then
          .next (((s.count (ctrDev 42)).log 0x0020 0x0502 1 (codeUnit p.val) (unitPath p.val) (codeUnit p.val)).endEntry c p.val .m a 0x0502) else .next s
      | r => .next ((s.mSettle c p.val a e r).mFeed c p.val)
    | none => .next s
  | none => .next s

/-- MSUM (R117). -/
def execMsum (u : UnitIx) (e : Entry) (s : State) : Host.Outcome State Fault Refusal := .next (s.mIssue u.val 5 e)

/-- MSAVE (R110). -/
def execMsave (u : UnitIx) (e : Entry) (s : State) : Host.Outcome State Fault Refusal := .next (s.mIssue u.val 6 e)

/-- MLOAD (R110). -/
def execMload (u : UnitIx) (e : Entry) (s : State) : Host.Outcome State Fault Refusal := .next (s.mIssue u.val 7 e)

end Sys2Proof.Machine
end

