-- ==== Sys2Proof/Machine/Vector.lean ====
section
/-! DEFINITION. The V queue: VSET, the vector entries, and their groups (spec 05, R123-R148). -/

namespace Sys2Proof.Machine

/-- The vector state of a context in a parcel. -/
def State.vec (s : State) (c p : Nat) : Vec := (s.engOf (engKey c p)).vec

/-- The setup record of a slot. -/
def Vec.setup (v : Vec) (e : Entry) : BitVec 512 := Map.getD v.slots (fld e 8 2) 0

/-- A ledger number is open (R145). -/
def Vec.openLed (v : Vec) (n : Nat) : Bool := (Map.find v.ledgers n).isSome

/-- VSET (R126, R127): the slot replaced, or a status. -/
def State.vset (s : State) (c p : Nat) (e : Entry) : State × Nat :=
  let g := fld e 10 16
  let a := fbAddr p (16 * g)
  let d := BitVec.ofNat 512 (s.mem.readLE a 64)
  if !vFieldsOk e then (s, 0x0803)
  else if 0xBFFF < g || g % 4 ≠ 0 then (s, 0x0803)
  else if s.badIn a 64 then (s.fbUnc p a (codeUnit p), 0x0723)
  else if !setupOk d then (s, 0x0803)
  else
    let v := s.vec c p
    (s.setVec (engKey c p) { v with slots := Map.put v.slots (fld e 8 2) d }, 0)

/-- The engine can stop for a pre-emption: its entry has written over none of its own source that it still needs (R148, log
entry 98). -/
def Vec.atBoundary (v : Vec) : Bool := v.run.all fun r => r.kept == []

/-- The opcodes of the V queue (R129). -/
def vOpcode (op : Nat) : Bool :=
  (decide (0x10 ≤ op) && decide (op ≤ 0x1B)) || op == 0x20 || (decide (0x30 ≤ op) && decide (op ≤ 0x33))

/-- A V entry at the head of its queue: it waits while the engine is busy, ends with a status before it reads
anything, or starts (R125, R131). -/
def State.vExec (s : State) (c p addr : Nat) (e : Entry) : State :=
  let v := s.vec c p
  if v.run.isSome then s.waitHead c p .v ⟨addr, e, .engine⟩
  else if !vOpcode (fld e 0 8) then s.endEntry c p .v addr 0x0803
  else if fld e 0 8 = 0x10 then (s.vset c p e).1.endEntry c p .v addr (s.vset c p e).2
  else match vStartStatus (v.setup e) e v.openLed with
    | some st => s.endEntry c p .v addr st
    | none => (s.leaveHead c p .v).setVec (engKey c p) { v with run := some ⟨addr, e, 0, []⟩ }

/-- The V entry that waits in the engine at the head of a parcel's queue is examined again; not while its context is
pre-empted (R148). -/
def State.vRetry (s : State) (c p : Nat) : State :=
  match (s.engOf (engKey c p)).engineHead .v with
  | some (a, e) =>
    if 0xF0 ≤ fld e 0 8 || !s.runsIn c p then s
    else (s.vExec c p a e).feed c p .v State.vExec (s.queue (engKey c p) .v).passed.length
  | none => s

/-- A V entry of opcode `op` issues. -/
def State.vIssue (s : State) (u op : Nat) (e : Entry) : State := s.issue u .v op e State.vExec

/-- The reduction ledgers after a step: VRED's stands open until its row is finalised (R145). -/
def Vec.keepLedger (v : Vec) (e : Entry) (final : Bool) (l : Option Ledger) : Vec :=
  let n := fld e 19 3
  match l with
  | some l => { v with ledgers := if final then Map.del v.ledgers n else Map.put v.ledgers n l }
  | none => v

/-- The running entry of the vector engine ends. -/
def State.vEnd (s : State) (c p status : Nat) (r : VRun) : State :=
  ((s.setVec (engKey c p) { s.vec c p with run := none }).endRun c p .v r.addr status).vRetry c p

/-- The reduction ledgers at the start of a step: a row of VRED, or a part with OPEN, clears its ledger (R145). -/
def Vec.openRow (v : Vec) (d : BitVec 512) (e : Entry) (g : Nat) : Vec :=
  if vOpens d e g then { v with ledgers := Map.put v.ledgers (fld e 19 3) vRedClear } else v

/-- The elements of a row of VSWEEP that lie before the first group whose given scale reads as uncorrectable; none where an
operand does (R147). -/
def State.sweepGood (s : State) (p : Nat) (d : BitVec 512) (e : Entry) (is : List Nat) : Nat :=
  let n := vLanes d e
  if !vByRow e || (s.fbBad p (vOperandRanges s.mem (fbAddr p 0) d e is)).isSome then 0
  else
    let groups := (List.range ((is.length + n - 1) / n)).map fun k => (is.drop (n * k)).take n
    n * (groups.findIdx fun g => match g.head?, g.getLast? with
      | some i0, some i1 => (s.fbBad p (vScaleRange d e i0 i1)).isSome
      | _, _ => false)

/-- The writes of a step land, with what they count. -/
def State.vLand (s : State) (p : Nat) (d : BitVec 512) (e : Entry) (o : VOut) (is : List Nat) : State :=
  ((s.putNibs o.writes).countShed (ctrBase p + 17) o.events).count (ctrBase p + 32) (vGroupsWritten d e o is)

/-- One group of the running entry (R124, R147). -/
def State.vGroup (s : State) (c p : Nat) (r : VRun) : State :=
  let e := r.entry
  let d := (s.vec c p).setup e
  let v := (s.vec c p).openRow d e r.group
  let fb := fbAddr p 0
  let is := vReadElems d e r.group
  match s.fbBad p (vStepRanges s.mem fb d e is) with
  | some a =>
    let n := s.sweepGood p d e is
    let s1 := if n = 0 then s else s.vLand p d e (vSweepRow s.mem fb d e r.group is n) (is.take n)
    ((s1.setVec (engKey c p) v).fbUnc p a (codeUnit p)).vEnd c p 0x0723 r
  | none =>
    let ahead := vAhead d e r.group
    let o := vStep s.mem fb d e r.group (Map.getD v.ledgers (fld e 19 3) vRedClear) r.kept
      (if (s.fbBad p (vStepRanges s.mem fb d e ahead)).isSome then [] else ahead)
    let v1 := { v.keepLedger e (vFinal d e r.group) o.ledger with
      run := some { r with group := r.group + 1, kept := vKeep s.mem fb d e r.group r.kept } }
    let s1 := (s.vLand p d e o is).setVec (engKey c p) v1
    if r.group + 1 == vSteps d e then s1.vEnd c p 0 r else s1

/-! ## The commands -/

/-- VSET (R126). -/
def execVset (u : UnitIx) (e : Entry) (s : State) : Host.Outcome State Fault Refusal := .next (s.vIssue u.val 0x10 e)

/-- VADD (R132). -/
def execVadd (u : UnitIx) (e : Entry) (s : State) : Host.Outcome State Fault Refusal := .next (s.vIssue u.val 0x11 e)

/-- VSUB (R132). -/
def execVsub (u : UnitIx) (e : Entry) (s : State) : Host.Outcome State Fault Refusal := .next (s.vIssue u.val 0x12 e)

/-- VMUL (R132). -/
def execVmul (u : UnitIx) (e : Entry) (s : State) : Host.Outcome State Fault Refusal := .next (s.vIssue u.val 0x13 e)

/-- VFMA (R132). -/
def execVfma (u : UnitIx) (e : Entry) (s : State) : Host.Outcome State Fault Refusal := .next (s.vIssue u.val 0x14 e)

/-- VMIN (R134). -/
def execVmin (u : UnitIx) (e : Entry) (s : State) : Host.Outcome State Fault Refusal := .next (s.vIssue u.val 0x15 e)

/-- VMAX (R134). -/
def execVmax (u : UnitIx) (e : Entry) (s : State) : Host.Outcome State Fault Refusal := .next (s.vIssue u.val 0x16 e)

/-- VABS (R132). -/
def execVabs (u : UnitIx) (e : Entry) (s : State) : Host.Outcome State Fault Refusal := .next (s.vIssue u.val 0x17 e)

/-- VNEG (R132). -/
def execVneg (u : UnitIx) (e : Entry) (s : State) : Host.Outcome State Fault Refusal := .next (s.vIssue u.val 0x18 e)

/-- VCVT (R132). -/
def execVcvt (u : UnitIx) (e : Entry) (s : State) : Host.Outcome State Fault Refusal := .next (s.vIssue u.val 0x19 e)

/-- VCMP (R134). -/
def execVcmp (u : UnitIx) (e : Entry) (s : State) : Host.Outcome State Fault Refusal := .next (s.vIssue u.val 0x1A e)

/-- VSEL (R134). -/
def execVsel (u : UnitIx) (e : Entry) (s : State) : Host.Outcome State Fault Refusal := .next (s.vIssue u.val 0x1B e)

/-- VFUN (R136). -/
def execVfun (u : UnitIx) (e : Entry) (s : State) : Host.Outcome State Fault Refusal := .next (s.vIssue u.val 0x20 e)

/-- VSWEEP (R141). -/
def execVsweep (u : UnitIx) (e : Entry) (s : State) : Host.Outcome State Fault Refusal := .next (s.vIssue u.val 0x30 e)

/-- VRED (R144). -/
def execVred (u : UnitIx) (e : Entry) (s : State) : Host.Outcome State Fault Refusal := .next (s.vIssue u.val 0x31 e)

/-- VPERM (R143). -/
def execVperm (u : UnitIx) (e : Entry) (s : State) : Host.Outcome State Fault Refusal := .next (s.vIssue u.val 0x32 e)

/-- VGATH (R143). -/
def execVgath (u : UnitIx) (e : Entry) (s : State) : Host.Outcome State Fault Refusal := .next (s.vIssue u.val 0x33 e)

/-- The context whose entry the vector engine of a parcel runs: the running one, or one under pre-emption whose entry keeps
codes of its own source (R148, log entry 98). -/
def State.vecCtx (s : State) (p : Nat) : Option Nat :=
  match s.engineCtx p fun e => e.vec.run.isSome with
  | some c => some c
  | none => (List.range 8).find? fun c => (s.ctx c).parking && !(s.vec c p).atBoundary

/-- V_GROUP: the vector engine of a parcel computes and writes the next group of its entry (R124). -/
def execVGroup (p : ParcelIx) (s : State) : Host.Outcome State Fault Refusal :=
  match s.vecCtx p.val with
  | some c =>
    match (s.vec c p.val).run with
    | some r => .next (s.vGroup c p.val r)
    | none => .next s
  | none => .next s

end Sys2Proof.Machine
end

