-- ==== Sys2Proof/Machine/SyncCmds.lean ====
section
/-! DEFINITION. The synchronisation entries common to the four queues (spec 06, R152-R169, R493). -/

namespace Sys2Proof.Machine

/-! ## Fields (R155) -/

/-- The bits that an entry uses; a target, class or counter only where TSC or COND makes the entry use it. -/
def yUsed (e : Entry) : Nat :=
  let span := fun (lo w : Nat) => (2 ^ w - 1) * 2 ^ lo
  let tgt := span 0 8 + span 11 9 + (if yTsc e = 5 then span 20 17 else if yTsc e = 6 then span 37 16 else 0)
  match fld e 0 8 with
  | 0xF0 => tgt + span 8 1
  | 0xF1 => tgt
  | 0xF2 => tgt + span 9 2
  | 0xF3 => tgt + span 9 2
  | 0xF4 => span 0 8 + span 9 2
  | 0xF5 => span 0 8 + span 53 11
  | 0xF6 => span 0 8 + span 53 10
  | 0xF7 => span 0 8 + span 64 16
  | 0xF8 => span 0 8 + span 64 19 + (if yCond e = 1 then span 83 8 else if yCond e = 2 then span 91 2 else 0)
  | 0xF9 => span 0 8 + span 91 26
  | _ => span 0 8

/-- The stake target of an entry names a stake that its unit may name (R155). That a set or clear of TSC 1 to 4 names an order
above its unit's own, as a wait must, is the model's choice (log entry 133). -/
def yTargetOk (order : Nat) (e : Entry) (wait : Bool) : Bool :=
  decide (yStake e < 48) &&
  (match yTsc e with
   | 0 => true
   | 5 => !wait && (pathUnit (fld e 20 17)).isSome
   | 6 => true
   | 7 => false
   | k => decide (order < k))

/-- The checks of R155 and R493 that look at the entry alone. -/
def syncOk (order : Nat) (e : Entry) : Bool :=
  (e.toNat &&& yUsed e) == e.toNat &&
  (match fld e 0 8 with
   | 0xF0 => yTargetOk order e true
   | 0xF1 => yTargetOk order e true
   | 0xF2 => yTargetOk order e false
   | 0xF3 => yTargetOk order e false
   | 0xF8 => decide (yCond e < 4)
   | _ => true)

/-! ## Issue -/

/-- Every member that runs a tract's entries has completed every earlier entry of the queue letter (R153). -/
def State.membersQuiet (s : State) (c : Nat) (q : Q) (u : Nat) : Bool :=
  unitOrder u == 0 || (s.fedParcels c q 4 u).all fun p => (s.engOf (engKey c p)).quiet q

/-- The vector engine's running entry lets a V queue's synchronisation entry of opcode `op` issue: it acts as if that entry had
completed, so it issues behind it; but a set, clear or fence issues, and its fence scope says what it waits for (R125,
R159). -/
def State.vDone (s : State) (c u : Nat) (q : Q) (op : Nat) : Bool :=
  q != .v || (decide (0xF2 ≤ op) && decide (op ≤ 0xF4)) || (s.engOf (engKey c u)).vec.run.isNone

/-- A synchronisation entry of opcode `op` issues at its unit and runs there (R153, R155); a malformed one, or a
word of another opcode, ends with 0x0803 (R493). -/
def State.syncIssue (s : State) (u : Nat) (q : Q) (op : Nat) (e : Entry)
    (run : State → Nat → Nat → State) : State :=
  match s.issuer u q with
  | none => s
  | some c =>
    if !s.fetches c u q || !s.membersQuiet c q u || !s.vDone c u q op then s
    else
      let a := (s.queue (engKey c u) q).pc
      let s1 := s.advance c u q
      if fld e 0 8 ≠ op || !syncOk (unitOrder u) e then s1.endEntry c u q a 0x0803 else run s1 c a

/-- The engine of a queue has written everything its entries write (R159). -/
def Eng.written (e : Eng) (q : Q) : Bool :=
  match q with
  | .m => e.mat.drains.isEmpty
  | .v => e.vec.run.isNone
  | .x => e.x.isNone
  | .s => true

/-! ## Waits (R157, R160) -/

/-- A wait that does not proceed in its first clock on a stake that nothing owns (R160). -/
def State.orphan (s : State) (holder i : Nat) : State :=
  if bit (s.stake holder i).entry 19 then s else s.misuse holder 2

/-- SWAIT or SWAITC at the head of its queue. -/
def State.stakeWait (s : State) (c u : Nat) (q : Q) (a : Nat) (e : Entry) (want : Want) : State :=
  let i := yStake e
  match s.target c u e with
  | .here h =>
    let st := (s.stake h i).st
    if st == .abandoned then s.endEntry c u q a 0x0601
    else if want.met st then
      let s1 := s.endEntry c u q a 0
      if want == .setClr then (s1.setStake h i .clear).wakeStake h i else s1
    else (s.orphan h i).waitHead c u q ⟨a, e, .stake h i want⟩
  | .away _ => s.endEntry c u q a 0x0803
  | .absent => s.endEntry c u q a 0x0732

/-- SWAIT (R155, R157). -/
def execSwait (u : UnitIx) (q : Q) (e : Entry) (s : State) : Host.Outcome State Fault Refusal :=
  .next (s.syncIssue u.val q 0xF0 e fun s c a => s.stakeWait c u.val q a e (if bit e 8 then .setClr else .set))

/-- SWAITC (R155, R157). -/
def execSwaitc (u : UnitIx) (q : Q) (e : Entry) (s : State) : Host.Outcome State Fault Refusal :=
  .next (s.syncIssue u.val q 0xF1 e fun s c a => s.stakeWait c u.val q a e .clear)

/-- STAKE_WAIT_EXPIRY: T2 of a stake wait; a stake that has reached its state prevails (R157, R492). -/
def State.stakeExpiry (s : State) (c u : Nat) (q : Q) : State :=
  match (s.queue (engKey c u) q).head with
  | some ⟨a, _, .stake h i want⟩ =>
    if want.met (s.stake h i).st then
      let s1 := s.endEntry c u q a 0
      if want == .setClr then (s1.setStake h i .clear).wakeStake h i else s1
    else (s.count (ctrDev 41)).endEntry c u q a 0x0503
  | _ => s

/-- The running context whose queue of a unit waits at its head with a kind that `f` picks. -/
def State.waiting (s : State) (u : Nat) (q : Q) (f : WaitKind → Bool) : Option Nat :=
  (List.range 8).find? fun c => s.runsIn c u && ((s.queue (engKey c u) q).head.any fun h => f h.kind)

/-- The contexts that start in a unit, which count as running for a wait's limit (R328). -/
def State.startingIn (s : State) (u : Nat) : List Nat :=
  (List.range 8).filter fun c => (s.ctx c).st == .starting && inFoot (s.ctx c).foot u

/-- STAKE_WAIT_EXPIRY (R157): of a running context, or of one that starts, whose wait is still a saved one (R161). -/
def execStakeWaitExpiry (u : UnitIx) (q : Q) (s : State) : Host.Outcome State Fault Refusal :=
  match s.waiting u.val q fun k => match k with | .stake _ _ _ => true | _ => false with
  | some c => .next (s.stakeExpiry c u.val q)
  | none => .next ((s.startingIn u.val).foldl (fun s c => s.onSaved c [u.val] fun s => s.stakeExpiry c u.val q) s)

/-! ## Sets, clears and fences (R157, R159, R163) -/

/-- The body of a STAKE slip to a station tract's home (R242). -/
def stakeBody (e : Entry) (set ack : Bool) : List Byte :=
  toLE 3 (yHandle e) ++ toLE 1 1 ++ toLE 1 (yStake e) ++ toLE 1 (if set then 0 else 1) ++ toLE 1 (b2n ack)

/-- The unit that answers for a stake: the die for a station tract's, which its tract controller holds (R151). -/
def stakeUnit (h : Nat) : Nat := if keyUnit h < 17477 then keyUnit h else 17476

/-- An SSET or SCLR whose fence is complete (R157, R163). A slip to another station always asks for its acknowledgement,
and an entry of fabric scope waits for it (R159, R242, log entry 25). -/
def State.stakeSend (s : State) (c u : Nat) (q : Q) (a : Nat) (e : Entry) (set : Bool) : State :=
  match s.target c u e with
  | .here h =>
    if s.unitBusy (stakeUnit h) then s.endEntry c u q a 0x0301
    else (s.endEntry c u q a 0).stakeOp h (yStake e) set
  | .away home =>
    let body := stakeBody e set true
    let s1 := s.slip home 0x16 0 c body
    let s2 : State := { s1 with fab := { s1.fab with acks := s1.fab.acks ++ [(qKey c u (qIx q), bytesAt body 0 6)] } }
    if yFsc e = 3 then s2.waitHead c u q ⟨a, e, .ack⟩ else s2.endEntry c u q a 0
  | .absent => s.endEntry c u q a 0x0732

/-- Every write of earlier entries of a queue is visible at a fence's scope: the engine has written, and for fabric scope
every stake slip of the queue is acknowledged (R159). -/
def State.fenced (s : State) (c u : Nat) (q : Q) (e : Entry) : Bool :=
  yFsc e == 0 || ((s.engOf (engKey c u)).written q && !(yFsc e == 3 && s.fab.acks.any fun k => k.1 == qKey c u (qIx q)))

/-- A fencing entry at the head of its queue: it waits while earlier writes of the queue are still to land
(R159). -/
def State.fence (s : State) (c u : Nat) (q : Q) (a : Nat) (e : Entry) (go : State → State) : State :=
  if s.fenced c u q e then go s else s.waitHead c u q ⟨a, e, .engine⟩

/-- The unit is quiescing, by itself or with a tract that it lies in (R414). -/
def State.quiescing (s : State) (u : Nat) : Bool :=
  (List.range 5).any fun k => decide (unitOrder u ≤ k) && s.svcOf (codeUnit (enclosing u k)) == .quiescing

/-- The context whose next entry a quiescing unit refuses (R163). -/
def State.refuser (s : State) (u : Nat) (q : Q) : Option Nat :=
  if !s.quiescing u then none
  else match s.ctxFor u q with
    | some c => if (s.queue (engKey c u) q).canIssue && !(s.queue (engKey c u) q).fed && s.fetches c u q then some c else none
    | none => none

/-- An entry that a quiescing unit refuses: it issues, and ends with 0x0301 (R163). -/
def State.refuse (s : State) (c u : Nat) (q : Q) : State :=
  (s.advance c u q).endEntry c u q (s.queue (engKey c u) q).pc 0x0301

/-- The context whose SSET or SCLR of opcode `op` a quiescing unit's own queue issues for a stake of a unit that is quiescing
(R163). -/
def State.setRefused (s : State) (u : Nat) (q : Q) (op : Nat) (e : Entry) : Option Nat :=
  if fld e 0 8 ≠ op || !syncOk (unitOrder u) e then none
  else (s.refuser u q).filter fun c => match s.target c u e with
    | .here h => s.unitBusy (stakeUnit h)
    | _ => false

/-- SSET or SCLR: refused for a unit that quiesces, or else fenced and sent (R155, R157, R163). -/
def State.stakeEntry (s : State) (u : Nat) (q : Q) (op : Nat) (e : Entry) (set : Bool) : State :=
  match s.setRefused u q op e with
  | some c => s.refuse c u q
  | none => s.syncIssue u q op e fun s c a => s.fence c u q a e fun s => s.stakeSend c u q a e set

/-- SSET (R155, R157). -/
def execSset (u : UnitIx) (q : Q) (e : Entry) (s : State) : Host.Outcome State Fault Refusal :=
  .next (s.stakeEntry u.val q 0xF2 e true)

/-- SCLR (R155, R157). -/
def execSclr (u : UnitIx) (q : Q) (e : Entry) (s : State) : Host.Outcome State Fault Refusal :=
  .next (s.stakeEntry u.val q 0xF3 e false)

/-- SFENCE (R159). -/
def execSfence (u : UnitIx) (q : Q) (e : Entry) (s : State) : Host.Outcome State Fault Refusal :=
  .next (s.syncIssue u.val q 0xF4 e fun s c a => s.fence c u.val q a e fun s => s.endEntry c u.val q a 0)

/-- A fencing entry that waits proceeds once its writes have landed (R159). -/
def State.fenceDone (s : State) (c u : Nat) (q : Q) : State :=
  match (s.engOf (engKey c u)).engineHead q with
  | some (a, e) =>
    if fld e 0 8 < 0xF2 || !s.fenced c u q e then s
    else if fld e 0 8 = 0xF4 then s.endEntry c u q a 0
    else s.stakeSend c u q a e (fld e 0 8 == 0xF2)
  | none => s

/-- FENCE_COMPLETE (R159). -/
def execFenceComplete (u : UnitIx) (q : Q) (s : State) : Host.Outcome State Fault Refusal :=
  match s.waiting u.val q fun k => k == .engine with
  | some c => .next (s.fenceDone c u.val q)
  | none => .next s

/-! ## Closures (R164-R167) -/

/-- CARR (R165); at a unit that quiesces it ends with 0x0301 (R163). -/
def execCarr (u : UnitIx) (q : Q) (e : Entry) (s : State) : Host.Outcome State Fault Refusal :=
  match s.refuser u.val q with
  | some c => .next (s.refuse c u.val q)
  | none => .next (s.syncIssue u.val q 0xF5 e fun s c a => s.carr (yClos e) (engKey c u.val) q a e)

/-- CWAIT at the head of its queue (R155, R167, R169). -/
def State.cwait (s : State) (c u : Nat) (q : Q) (a : Nat) (e : Entry) : State :=
  let cid := yClos e
  let k := s.closure cid
  let bits := s.cbits (engKey c u) cid
  match k.st with
  | .idle => s.endEntry c u q a 0x0731
  | .failed st => s.endEntry c u q a st
  | .opened =>
    if k.ctx ≠ c || !bits.testBit 0 then s.endEntry c u q a 0x0731
    else if bits.testBit 2 then s.waitHead c u q ⟨a, e, .closure cid⟩
    else s.endEntry c u q a 0

/-- CWAIT (R155). -/
def execCwait (u : UnitIx) (q : Q) (e : Entry) (s : State) : Host.Outcome State Fault Refusal :=
  .next (s.syncIssue u.val q 0xF6 e fun s c a => s.cwait c u.val q a e)

/-- CLOSURE_T3_EXPIRY: an open closure whose T3 runs fails with 0x0504 (R167), which is logged (R424). -/
def execClosureT3Expiry (cid : Fin 1024) (s : State) : Host.Outcome State Fault Refusal :=
  let c := s.closure cid.val
  if c.st == .opened && c.t3 then
    .next (((s.count (ctrDev 42)).log 0x0020 0x0504 1 0xFFFFFFFF 0 0xFFFFFFFF).closureFail cid.val 0x0504 none)
  else .next s

/-! ## Control of the queue (R152, R154, R155) -/

/-- A change of one queue, its entry done. -/
def State.queueOp (s : State) (c u : Nat) (q : Q) (f : Queue → Queue) : State :=
  s.setQueue (engKey c u) q (f (s.queue (engKey c u) q))

/-- SHND (R155). -/
def execShnd (u : UnitIx) (q : Q) (e : Entry) (s : State) : Host.Outcome State Fault Refusal :=
  .next (s.syncIssue u.val q 0xF7 e fun s c _ =>
    s.queueOp c u.val q fun w => { w with handler := if yAddr e = 0xFFFF then none else some (yAddr e) })

/-- SJMP on a queue whose counter has passed the entry (R155). -/
def Queue.jump (w : Queue) (e : Entry) : Queue :=
  let n := w.loops.getD (yLc e) 0
  match yCond e with
  | 0 => { w with pc := yAddr e }
  | 1 => if w.status / 256 = fld e 83 8 then { w with pc := yAddr e } else w
  | 2 => if n = 0 then w else { w with pc := yAddr e, loops := w.loops.set (yLc e) (n - 1) }
  | _ => { w with pc := yAddr e, status := 0 }

/-- SJMP (R155). -/
def execSjmp (u : UnitIx) (q : Q) (e : Entry) (s : State) : Host.Outcome State Fault Refusal :=
  .next (s.syncIssue u.val q 0xF8 e fun s c _ => s.queueOp c u.val q fun w => w.jump e)

/-- SLDC (R155). -/
def execSldc (u : UnitIx) (q : Q) (e : Entry) (s : State) : Host.Outcome State Fault Refusal :=
  .next (s.syncIssue u.val q 0xF9 e fun s c _ =>
    s.queueOp c u.val q fun w => { w with loops := w.loops.set (yLc e) (fld e 93 24) })

/-- SEND: the queue becomes idle; the context has ended when nothing of it runs any more (R155, R336). -/
def execSend (u : UnitIx) (q : Q) (e : Entry) (s : State) : Host.Outcome State Fault Refusal :=
  .next (s.syncIssue u.val q 0xFA e fun s c _ =>
    let s1 := s.queueOp c u.val q fun w => { w with run := .idle }
    s1.endedCheck c (s1.bndIdle c))

/-- The queue fails to fetch its next entry: status and FADDR, and its handler unless the fetch that failed was
the handler's own, reached by such a branch (R152). -/
def State.fetchFault (s : State) (c u : Nat) (q : Q) (status : Nat) : State :=
  let w := s.queue (engKey c u) q
  let own := w.branched && w.handler == some w.pc
  let s1 := if own then s.setQueue (engKey c u) q { w with handler := none } else s
  let s2 := s1.failQueue 4 c u q w.pc status (w.pc + 1) 0
  if own then s2.queueOp c u q fun v => { v with handler := w.handler } else s2

/-- QUEUE_FETCH_FAULT: the program counter lies above 0xBFFF, or the granule it names reads as uncorrectable
(R152, R189). -/
def execQueueFetchFault (u : UnitIx) (q : Q) (s : State) : Host.Outcome State Fault Refusal :=
  match s.issuer u.val q with
  | none => .next s
  | some c =>
    let pc := (s.queue (engKey c u.val) q).pc
    let p := firstParcel u.val
    if 0xBFFF < pc then .next (s.fetchFault c u.val q 0x0722)
    else if s.badIn (granAddr p pc) 16 then
      .next ((s.fbUnc p (granAddr p pc) (codeUnit u.val)).fetchFault c u.val q 0x0723)
    else .next s

end Sys2Proof.Machine
end

