-- ==== Sys2Proof/Machine/XCore.lean ====
section
/-! DEFINITION. Transfers and atomic operations: the checks of an X entry, the accesses it makes, and its line
requests at the slices (spec 07, R170-R190). -/

namespace Sys2Proof.Machine

/-! ## What the firmware keeps in its shelves (R178, R304) -/

/-- Byte `o` of the catalogue image of a map of entries. -/
def catByte (es : Map CatEntry) (o : Nat) : Byte :=
  (Map.getD es (o / 64) CatEntry.default).bytes.getD (o % 64) 0

/-- The byte that a read of a device address finds: memory, or an entry of the catalogue, which shelf 636 holds (R178,
R304). -/
def State.byteAt (s : State) (a : Nat) : Byte :=
  if s.inCatalogue a then catByte s.cat.entries (a - shelfAddr 636 0) else s.mem.read a

/-- Bytes that a read finds from a device address up. -/
def State.load (s : State) (a len : Nat) : List Byte :=
  if a < shelfAddr 636 0 || shelfAddr 637 0 ≤ a then s.mem.readN a len
  else (List.range len).map fun i => s.byteAt (a + i)

/-! ## Fields and checks of an X entry (R175, R176, R187) -/

/-- FADR. -/
def xFadr (e : Entry) : Nat := fld e 20 16
/-- DADR. -/
def xDadr (e : Entry) : Nat := fld e 36 48
/-- LEN in bytes. -/
def xBytes (e : Entry) : Nat := 16 * fld e 84 24
/-- AOP. -/
def xAop (e : Entry) : Nat := fld e 10 4
/-- The entry is an XATOM. -/
def xAtom (e : Entry) : Bool := fld e 0 8 == 3

/-- The element bytes of an atomic operation and format; none where R187 does not allow them. -/
def atomWidth (e : Entry) : Option Nat :=
  let f := fmtOf (fld e 14 4)
  match xAop e with
  | 0 => f.bind fun f => if f.isTally then some (memBytes f) else none
  | 1 => some 4
  | 2 => f.bind fun f => if f.isTally || [Fmt.fp32, .fp16, .bf16, .e4m3, .e5m2, .s8, .l8, .l16].contains f then some (memBytes f) else none
  | 3 => f.bind fun f => if f.isTally || [Fmt.fp32, .fp16, .bf16, .e4m3, .e5m2, .s8, .l8, .l16].contains f then some (memBytes f) else none
  | 4 => if fld e 14 4 = 0xD then some 4 else if fld e 14 4 = 0xE then some 8 else none
  | 5 => if fld e 14 4 = 0xD then some 4 else if fld e 14 4 = 0xE then some 8 else none
  | _ => none

/-- Element bytes, 1 where the entry is no valid atomic. -/
def atomW (e : Entry) : Nat := (atomWidth e).getD 1

/-- Bytes of the operand area for each element: a pair for CAS. -/
def atomStride (e : Entry) : Nat := if xAop e = 5 then 2 * atomW e else atomW e

/-- Units of progress of an entry: granules, or elements (R177). -/
def xTotal (e : Entry) : Nat := if xAtom e then xBytes e / atomStride e else fld e 84 24

/-- Bytes at the device side for each unit of progress. -/
def xStep (e : Entry) : Nat := if xAtom e then atomW e else 16

/-- Bytes of the device range. -/
def xSpan (e : Entry) : Nat := xTotal e * xStep e

/-- An XATOM names the reserved format code 0xF, which TCODE ignores (R26, R187). -/
def xFmtBad (e : Entry) : Bool := xAtom e && xAop e != 1 && fld e 14 4 == 0xF

/-- What an X entry is refused with before any access; none where it starts (R175, R176, R187). -/
def xStartStatus (p : Nat) (e : Entry) : Option Nat :=
  let a := xDadr e
  if !(decide (1 ≤ fld e 0 8) && decide (fld e 0 8 ≤ 3)) || fld e 8 2 < 2 || fld e 84 24 = 0 || fld e 108 20 ≠ 0 || xFmtBad e then some 0x0803
  else if xAtom e && (atomWidth e).isNone then some 0x0742
  else if a % 16 ≠ 0 || !rangeOk a (xSpan e) then some 0x0741
  else if xAtom e && 0xC00000000000 ≤ a then some 0x0742
  else if !granOk (xFadr e) (xBytes e) then some 0x0722
  else match region a with
    | .fieldbook t =>
      let f := fbAddr p (16 * xFadr e)
      if t = p && a < f + xBytes e && f < a + xBytes e then some 0x0727 else none
    | _ => none

/-! ## Moving granules and applying operations (R175, R187-R189) -/

/-- Granules moved by a run from `done` on, at most `n` of them: how many, and the address that read as
uncorrectable, where one did. -/
def State.moveGranules (s : State) (p : Nat) (e : Entry) (done n : Nat) : State × Nat × Option Nat :=
  let get := fld e 0 8 == 1
  let dev := xDadr e + 16 * done
  let fbk := fbAddr p (16 * (xFadr e + done))
  let src := if get then dev else fbk
  let ok := ((List.range n).find? fun i => s.badIn (src + 16 * i) 16).getD n
  let bs := s.load src (16 * ok)
  let s1 := if ok = 0 then s else if get then s.store fbk bs else s.write dev bs
  (s1.count (ctrBase p + 33) ok, ok, if ok < n then some (src + 16 * ok) else none)

/-- The result of one atomic operation: old value, operand (or expected and new) to the new value (R187). -/
def atomResult (e : Entry) (old x new : Nat) : Nat :=
  match xAop e with
  | 0 =>
    match fmtOf (fld e 14 4) with
    | some f => (old + x) % 2 ^ f.tallyW
    | none => old
  | 1 =>
    if bit e 18 then
      (List.range 10).foldl (fun acc k => acc + codeCombine true (bitsOf old (3 * k) 3) (bitsOf x (3 * k) 3) * 2 ^ (3 * k)) 0
    else old ||| x
  | 2 => maxMinCode true ((fmtOf (fld e 14 4)).getD .fp32) old x
  | 3 => maxMinCode false ((fmtOf (fld e 14 4)).getD .fp32) old x
  | 4 => x
  | _ => if old = x then new else old

/-- A value as a Tally-24 operation reads it: bits [31:24] read as zero (R80, R187). -/
def atomOld (e : Entry) (v : Nat) : Nat :=
  if xAop e ≠ 1 && fld e 14 4 = 0xC then v % 2 ^ 24 else v

/-- One element of an XATOM; none when its operand or its element reads as uncorrectable. -/
def State.atomOne (s : State) (p : Nat) (e : Entry) (k : Nat) : Sum State Nat :=
  let w := atomW e
  let st := atomStride e
  let d := xDadr e + w * k
  let f := fbAddr p (16 * xFadr e) + st * k
  if s.badIn f st then .inr f
  else if s.badIn d w then .inr d
  else
    let old := atomOld e (s.mem.readLE d w)
    let new := atomResult e old (atomOld e (s.mem.readLE f w)) (s.mem.readLE (f + w) w)
    let s1 := s.store d (toLE w new)
    let s2 := if bit e 19 then s1.store f (toLE w old) else s1
    .inl ((s2.count (ctrBase p + 34)).count (ctrSlice (sliceOf d) + (if xAop e < 4 then 20 else 21)))

/-- Elements of a run from `done` on, at most `n` of them. -/
def State.atoms (s : State) (p : Nat) (e : Entry) : (n done : Nat) → State × Nat × Option Nat
  | 0, _ => (s, 0, none)
  | n + 1, done =>
    match s.atomOne p e done with
    | .inr a => (s, 0, some a)
    | .inl s1 =>
      let r := State.atoms s1 p e n (done + 1)
      (r.1, r.2.1 + 1, r.2.2)

/-- At most `n` units of progress of an entry. -/
def State.xMove (s : State) (p : Nat) (e : Entry) (done n : Nat) : State × Nat × Option Nat :=
  if xAtom e then s.atoms p e n done else s.moveGranules p e done n

/-! ## Line requests (R183, R185) -/

/-- The class of an entry. -/
def xCls (e : Entry) : Cls := if fld e 8 2 = 3 then .background else .bulk

/-- Units of progress that lie in the line of the next one. -/
def XRun.chunk (r : XRun) : Nat :=
  let a := xDadr r.entry + xStep r.entry * r.done
  min (xTotal r.entry - r.done) ((256 - a % 256) / xStep r.entry)

/-- The X run of a context in a parcel. -/
def State.xrun (s : State) (key : Nat) : Option XRun := (s.engOf key).x

/-- The X run replaced. -/
def State.setX (s : State) (key : Nat) (r : Option XRun) : State := s.setEng key { s.engOf key with x := r }

/-- The X run of a key ends with a status. -/
def State.xEnd (s : State) (key addr status : Nat) : State :=
  (s.setX key none).endRun (keyCtx key) (keyUnit key) .x addr status

/-- A run asks for its next line: refused, queued at the slice, or left to wait for a place in the class queue, behind
the runs that wait already (R183, R186). -/
def State.ask (s : State) (key : Nat) (r : XRun) : State :=
  let a := xDadr r.entry + xStep r.entry * r.done
  let st := s.devStatus (keyCtx key) a
  let n := sliceOf a
  if st ≠ 0 then
    (if st / 256 = 3 then s.count (ctrSlice n + 18) else s).xEnd key r.addr st
  else
    let sl := s.slice n
    let cls := xCls r.entry
    let first := fun (k : Nat) => (s.xrun k).any fun x => !x.asked && xCls x.entry == cls
    if cls.depth ≤ (sl.reqs.filter fun q => q.cls == cls && !q.served).length || (sl.wait.find? first).any (· != key) then
      s.setSlice n { sl with wait := if sl.wait.contains key then sl.wait else sl.wait ++ [key] }
    else
      let q : SliceReq := ⟨key, cls, a, r.chunk * xStep r.entry, r.waited, false, 0, false⟩
      (s.setSlice n { sl with reqs := sl.reqs ++ [q], wait := sl.wait.erase key }).setX key
        (some { r with asked := true, waited := 0 })

/-- A transfer between Fieldbooks: made when it issues (R174). -/
def State.xLocal (s : State) (key : Nat) (r : XRun) : State :=
  let p := keyUnit key
  let st := s.devStatus (keyCtx key) (xDadr r.entry)
  let own := region (xDadr r.entry) == .fieldbook p
  if st ≠ 0 && !own then s.xEnd key r.addr st
  else
    let m := s.xMove p r.entry r.done (xTotal r.entry - r.done)
    match m.2.2 with
    | some a => (m.1.uncRead a (codeUnit p)).xEnd key r.addr 0x0723
    | none => m.1.xEnd key r.addr 0

/-- An X entry at the head of its queue (R175, R176). -/
def State.xExec (s : State) (c p addr : Nat) (e : Entry) : State :=
  let key := engKey c p
  if (s.xrun key).isSome then s.waitHead c p .x ⟨addr, e, .engine⟩
  else match xStartStatus p e with
    | some st => s.endEntry c p .x addr st
    | none =>
      let r : XRun := ⟨addr, e, 0, false, false, 0⟩
      let s1 := (s.leaveHead c p .x).setX key (some r)
      if 0xC00000000000 ≤ xDadr e then s1.xLocal key r else s1.ask key r

/-- The X entry that waits in the engine at the head of a parcel's queue is examined again; not while its context is
pre-empted (R177). -/
def State.xRetry (s : State) (c p : Nat) : State :=
  match (s.engOf (engKey c p)).engineHead .x with
  | some (a, e) =>
    if 0xF0 ≤ fld e 0 8 || !s.runsIn c p then s
    else (s.xExec c p a e).feed c p .x State.xExec (s.queue (engKey c p) .x).passed.length
  | none => s

/-- The run of a parcel ends with a status, and the entry behind it is examined. -/
def State.xFinish (s : State) (key addr status : Nat) : State :=
  (s.xEnd key addr status).xRetry (keyCtx key) (keyUnit key)

/-- An X entry of opcode `op` issues. -/
def State.xIssue (s : State) (u op : Nat) (e : Entry) : State := s.issue u .x op e State.xExec

/-- The running context of a key. -/
def State.keyRuns (s : State) (key : Nat) : Bool :=
  decide (keyUnit key < 16384) && s.runsIn (keyCtx key) (keyUnit key) && !s.unitBusy (keyUnit key)

/-- A run whose line request was served, or which asks for none: late once more where its wait was too long (R185). -/
def State.runServed (s : State) (q : SliceReq) (r : XRun) : State × XRun :=
  let late := decide (s.arc.dlyth < q.age)
  (if late then s.count (ctrBase (keyUnit q.eng) + 28) else s, { r with asked := false, delayed := r.delayed || late })

/-- A served request completes: the run goes on to its next line, or its entry ends; a reply to a unit that was
reset is discarded (R185, R416). -/
def State.requestDone (s : State) (n : Nat) (q : SliceReq) : State :=
  let s1 := s.setSlice n { s.slice n with reqs := (s.slice n).reqs.erase q }
  match (if q.eng = staleKey then none else s1.xrun q.eng) with
  | none => s1.count (ctrDev 39)
  | some r =>
    if q.status ≠ 0 then s1.xFinish q.eng r.addr q.status
    else
      let v := s1.runServed q r
      if v.2.done = xTotal v.2.entry then v.1.xFinish q.eng v.2.addr (if v.2.delayed then 0x0101 else 0)
      else
        let s3 := v.1.setX q.eng (some v.2)
        if s3.keyRuns q.eng then s3.ask q.eng v.2 else s3

/-- Every served request of a context completes. -/
def State.xServed (s : State) (c : Nat) : State :=
  (s.arc.slices.flatMap fun kv =>
    (kv.2.reqs.filter fun q => q.served && q.eng != staleKey && keyCtx q.eng == c).map fun q => (kv.1, q)).foldl
    (fun s nq => s.requestDone nq.1 nq.2) s

/-- A context that has been pre-empted: its served requests complete, and the others leave the slices; what was served
stands (R177). -/
def State.xPark (s : State) (c : Nat) : State :=
  let s1 := s.xServed c
  { s1 with
    arc := { s1.arc with slices := Map.mapVals s1.arc.slices fun _ l =>
      { l with reqs := l.reqs.filter fun q => q.eng == staleKey || keyCtx q.eng != c,
               wait := l.wait.filter fun k => keyCtx k != c } },
    eng := s1.eng.map fun kv =>
      if keyCtx kv.1 = c then (kv.1, { kv.2 with x := kv.2.x.map fun r => { r with asked := false } }) else kv }

/-! ## What a read of a line finds (R190, R201) -/

/-- A line of a shelf-mode shelf is uncorrectable: it becomes lost where it lies; of a line of the catalogue the four
entries are lost and the engine writes the line again (R190, R306). -/
def State.loseShelfLine (s : State) (line : Nat) : State :=
  if s.badIn line 256 then s
  else
    let s1 := (s.lose line).count (ctrSlice (sliceOf line) + 8)
    if s.inCatalogue line then
      { s1 with bad := Map.del s1.bad (badKey line) }.catLose ((line - shelfAddr 636 0) / 64) 4
    else s1

/-- What the code of a line says when the line is read: corrected where it lies; or uncorrectable, and then by what it
holds (R190, R201). -/
def State.readVerdict (s : State) (a : Nat) (r : EccResult) : State :=
  let line := a / 256 * 256
  let n := sliceOf line
  match r with
  | .clean => s
  | .corrected => if 0x800000000000 ≤ a || (s.cached a).isSome then s.count (ctrSlice n + 6) else s.count (ctrStack (a / 2 ^ 37))
  | .uncorrectable =>
    if 0x800000000000 ≤ a then s.loseShelfLine line
    else match s.cached a with
      | some l =>
        if l.dirty then s.loseLine line
        else
          let s1 := s.countAll [ctrSlice n + 5, ctrSlice n + 7]
          if l.under then s1.invalidate (· == badKey line) else s1
      | none => s.lose line

end Sys2Proof.Machine
end

