-- ==== Sys2Proof/Machine/Archive.lean ====
section
/-! DEFINITION. The X queue's commands, the slices, scrubs, the BAR2 aperture, shelf modes and fingerprint scans
(spec 07, R170-R196). -/

namespace Sys2Proof.Machine

/-- XGET (R175). -/
def execXget (u : UnitIx) (e : Entry) (s : State) : Host.Outcome State Fault Refusal := .next (s.xIssue u.val 1 e)

/-- XPUT (R175). -/
def execXput (u : UnitIx) (e : Entry) (s : State) : Host.Outcome State Fault Refusal := .next (s.xIssue u.val 2 e)

/-- XATOM (R187). -/
def execXatom (u : UnitIx) (e : Entry) (s : State) : Host.Outcome State Fault Refusal := .next (s.xIssue u.val 3 e)

/-! ## A slice clock (R183) -/

/-- Runs whose next line lies at slice `n` and has not been asked for: they ask now, those that wait there in the order
in which they came. -/
def State.askWaiting (s : State) (n : Nat) : State :=
  let keys := (s.slice n).wait ++ (s.eng.map (·.1)).filter fun k => !(s.slice n).wait.contains k
  let s1 := s.setSlice n { s.slice n with wait := (s.slice n).wait.filter fun k => (s.xrun k).any fun (r : XRun) => !r.asked }
  keys.foldl (fun s key =>
    match s.xrun key with
    | some r =>
      if !r.asked && s.keyRuns key && sliceOf (xDadr r.entry + xStep r.entry * r.done) == n then s.ask key r else s
    | none => s) s1

/-- Miss-handling entries of a slice that are busy (R184). -/
def Slice.busyMhe (l : Slice) : Nat := (l.reqs.filter (·.miss)).length

/-- A request that waits for a miss-handling entry (R184). -/
def State.mheWaits (s : State) (n : Nat) (q : SliceReq) : Bool :=
  q.cls != .background && decide (64 ≤ (s.slice n).busyMhe) && s.misses q.addr

/-- The request that a slice serves next: background when it is due, else by class, with a bulk request that has
waited more than 4,096 clocks ahead of the collective class (R183). -/
def Slice.pick (l : Slice) (bgDue : Bool) (ready : SliceReq → Bool) : Option SliceReq :=
  let w := l.reqs.filter fun q => !q.served && ready q
  let first := fun (f : SliceReq → Bool) => w.find? f
  let bg := first fun q => q.cls == .background
  if bgDue && bg.isSome then bg
  else (first fun q => q.cls == .control) <|>
    (first fun q => q.cls == .bulk && decide (4096 < q.age)) <|>
    (first fun q => q.cls == .collective) <|> (first fun q => q.cls == .bulk) <|> bg

/-- The request that slice `n` serves next in this clock. -/
def State.nextReq (s : State) (n : Nat) : Option SliceReq :=
  (s.slice n).pick (decide (63 ≤ (s.slice n).bgClocks)) fun q => !s.mheWaits n q

/-- One served request: its granules or elements, and how it ended; a background request that misses with no
miss-handling entry free ends with 0x0201 (R184). -/
def State.serveReq (s : State) (n : Nat) (q : SliceReq) : State :=
  let miss := s.misses q.addr
  let put := fun (s : State) (st : Nat) (busy : Bool) =>
    s.setSlice n { s.slice n with reqs := (s.slice n).reqs.map fun x =>
      if x = q then { x with served := true, status := st, miss := busy } else x }
  if miss && decide (64 ≤ (s.slice n).busyMhe) then put (s.count (ctrSlice n + 17)) 0x0201 false
  else match s.xrun q.eng with
  | none => put (s.count (ctrSlice n + 9 + q.cls.ix)) 0 false
  | some r =>
    let p := keyUnit q.eng
    let m := s.xMove p r.entry r.done (q.len / xStep r.entry)
    let s2 := m.1.setX q.eng (some { r with done := r.done + m.2.1 })
    let s3 := s2.accessLine q.cls (fld r.entry 0 8 != 1) q.addr
    match m.2.2 with
    | some a => put (s3.uncRead a (codeUnit p)) 0x0723 miss
    | none => put s3 0 miss

/-- One access of a slice clock. -/
def State.serveOne (s : State) (n : Nat) : State :=
  match s.nextReq n with
  | some q =>
    let s1 := s.serveReq n q
    if q.cls == .background then s1.setSlice n { s1.slice n with bgClocks := 0 } else s1
  | none => s

/-- Every request that still waits has waited one clock more, for its class queue or in it; the clocks since a background
request was served while one waits. -/
def State.ageSlice (s : State) (n : Nat) : State :=
  let l := s.slice n
  let w := l.reqs.filter fun q => !q.served
  let out := l.wait.filterMap fun k => (s.xrun k).map fun r => (k, r)
  let s1 := s.countAll ((w.map fun q => ctrSlice n + 13 + q.cls.ix) ++
    out.map (fun kr => ctrSlice n + 13 + (xCls kr.2.entry).ix) ++ if 64 ≤ l.busyMhe then [ctrSlice n + 24] else [])
  let s2 := out.foldl (fun s kr => s.setX kr.1 (some { kr.2 with waited := kr.2.waited + 1 })) s1
  s2.setSlice n { l with reqs := l.reqs.map fun q => if q.served then q else { q with age := q.age + 1 },
                         bgClocks := if w.any fun q => q.cls == .background then l.bgClocks + 1 else 0 }

/-- ARCHIVE_SLICE_SERVE: one clock of a slice, up to two line accesses (R183), with what the first line that it reads turns
out to be (R190). -/
def execArchiveSliceServe (c : SliceClock) (s : State) : Host.Outcome State Fault Refusal :=
  let n := c.slice
  let s1 := s.askWaiting n.val
  let s2 := match s1.nextReq n.val with
    | some q =>
      if (s1.xrun q.eng).any fun (x : XRun) => fld x.entry 0 8 != 2 then s1.readVerdict q.addr c.read else s1
    | none => s1
  .next (((s2.serveOne n.val).serveOne n.val).ageSlice n.val)

/-- ARCHIVE_REQUEST_COMPLETE: the oldest served request of a slice completes (R185). -/
def execArchiveRequestComplete (n : Fin 64) (s : State) : Host.Outcome State Fault Refusal :=
  match (s.slice n.val).reqs.find? (·.served) with
  | some q => .next (s.requestDone n.val q)
  | none => .next s

/-- The outstanding request of a key, with its slice. -/
def State.reqOf (s : State) (key : Nat) : Option (Nat × SliceReq) :=
  s.arc.slices.findSome? fun kv => (kv.2.reqs.find? fun q => q.eng == key).map fun q => (kv.1, q)

/-- T1 of a parcel's line request: the request is dropped and its entry ends with 0x0505 (R185). -/
def State.t1Expiry (s : State) (key : Nat) (r : XRun) : State :=
  let n := match s.reqOf key with
    | some nq => nq.1
    | none => sliceOf (xDadr r.entry + xStep r.entry * r.done)
  let s1 := s.setSlice n { s.slice n with reqs := (s.slice n).reqs.filter fun q => q.eng != key,
                                          wait := (s.slice n).wait.erase key }
  (((s1.count (ctrSlice n + 19)).count (ctrDev 40))).xFinish key r.addr 0x0505

/-- ARCHIVE_T1_EXPIRY (R185). -/
def execArchiveT1Expiry (p : ParcelIx) (s : State) : Host.Outcome State Fault Refusal :=
  match s.engineCtx p.val fun e => e.x.isSome with
  | some c =>
    match s.xrun (engKey c p.val) with
    | some r => .next (s.t1Expiry (engKey c p.val) r)
    | none => .next s
  | none => .next s

/-! ## Scrubs (R173, R181, R190, R419) -/

/-- A granule corrected by a scrub pass; on the third pass its parcel is swapped (R419). -/
def State.scrubCorrect (s : State) (p g : Nat) : State :=
  let k := p * 2 ^ 16 + g
  let n := Map.getD s.flt.scrubCorr k 0 + 1
  let s1 := s.count (ctrBase p + 25)
  if n < 3 then { s1 with flt := { s1.flt with scrubCorr := Map.put s1.flt.scrubCorr k n } }
  else
    let f := { s1.flt with scrubCorr := Map.keep s1.flt.scrubCorr fun i _ => i / 2 ^ 16 != p }
    ({ s1 with flt := f }.spareSwap p).1

/-- FIELDBOOK_SCRUB (R173). -/
def execFieldbookScrub (p : ParcelIx) (granule : BitVec 16) (r : EccResult) (s : State) :
    Host.Outcome State Fault Refusal :=
  if 0xC000 ≤ granule.toNat then .next s
  else match r with
    | .clean => .next s
    | .corrected => .next (s.scrubCorrect p.val granule.toNat)
    | .uncorrectable =>
      let a := granAddr p.val granule.toNat
      .next ((s.lose a).fbUnc p.val a 0xFFFFFFFF)

/-- What a patrol scrub leaves of an uncorrectable line, by what it held; a line that becomes lost, or is found lost, is
recorded in the fault log (R190). -/
def State.scrubLost (s : State) (line : Nat) : State :=
  let n := sliceOf line
  let rec1 := fun (s : State) => s.log 0x0013 0 0 (codeSlice n) line 0xFFFFFFFF
  match s.cached line with
  | some l => if l.dirty then (rec1 (s.count (ctrSlice n + 7))).loseLine line else s.readVerdict line .uncorrectable
  | none => rec1 ((s.count (ctrSlice n + 7)).loseShelfLine line)

/-- ARCHIVE_PATROL_SCRUB (R181, R190): the scrub reads a line that the slice holds, in a shelf or in a cache-mode shelf. -/
def execArchivePatrolScrub (n : Fin 64) (line : BitVec 48) (r : EccResult) (s : State) : Host.Outcome State Fault Refusal :=
  let a := line.toNat / 256 * 256
  let held := match region a with
    | .shelf k => (s.shelf k).mode == 2
    | .hbm => (s.cached a).isSome
    | _ => false
  if !held || sliceOf a != n.val then .next s
  else
    let s1 := s.countAll [ctrSlice n.val + 22, ctrSlice n.val + 12]
    match r with
    | .clean => .next (if s1.badIn a 256 then s1.log 0x0013 0 0 (codeSlice n.val) a 0xFFFFFFFF else s1)
    | .corrected => .next (s1.count (ctrSlice n.val + 6))
    | .uncorrectable => .next (s1.scrubLost a)

/-! ## BAR2 (R191-R193) -/

/-- One window of BAR2. -/
def State.win (s : State) (n : Nat) : B2Win := Map.getD s.arc.b2win n ⟨false, false, 0⟩

/-- The device address of a BAR2 access that has an effect; none where R192 gives it none. -/
def State.bar2Addr (s : State) (off len : Nat) (write : Bool) : Option Nat :=
  let w := s.win (off / 2 ^ 32)
  let a := w.base * 2 ^ 32 + off % 2 ^ 32
  if !w.en || (write && w.wp) || off % 2 ^ 32 + len > 2 ^ 32 || !rangeOk a len then none
  else match region a with
    | .shelf n => if (s.shelf n).mode == 2 && (s.shelf n).host && (s.shelf n).qst == 0 && !s.inCatalogue a then some a else none
    | .hbm => some a
    | _ => none

/-- An HBM or slice access that its unit refuses: the host sees Completer Abort (log entry 26). -/
def State.bar2Refused (s : State) (a : Nat) : Bool :=
  s.svcOf (codeSlice (sliceOf a)) != .inService ||
  (match region a with
   | .hbm => (s.stack (a / 2 ^ 37)).st == 3 || (s.stack (a / 2 ^ 37)).stop || s.svcOf (codeStack (a / 2 ^ 37)) != .inService
   | _ => false)

/-- An answer to a read request of the host. -/
def State.answer (s : State) (o : Out) : State := { s with out := o :: s.out }

/-- BAR2_READ (R192). -/
def execBar2Read (off : BitVec 36) (len : Nat) (s : State) : Host.Outcome State Fault Refusal :=
  match s.bar2Addr off.toNat len false with
    | none => .next ((s.hostFault off.toNat).answer (.readData (List.replicate len 0)))
    | some a =>
      if s.bar2Refused a then .next (s.answer .completerAbort)
      else if s.badIn a len then .next ((s.lineUnc ((s.badKeys a len).headD a) 0xFFFFFFFF).answer .completerAbort)
      else .next ((s.access .bulk false a len).answer (.readData (s.load a len)))

/-- BAR2_WRITE (R192). -/
def execBar2Write (off : BitVec 36) (bytes : List Byte) (s : State) : Host.Outcome State Fault Refusal :=
  match s.bar2Addr off.toNat bytes.length true with
    | none => .next (s.hostFault off.toNat)
    | some a =>
      if s.bar2Refused a then .next s
      else .next ((s.write a bytes).access .bulk true a bytes.length)

/-- BAR_ATOMICOP_REQUEST: Unsupported Request (R341, R192). -/
def execBarAtomicopRequest (_bar : Fin 6) (s : State) : Host.Outcome State Fault Refusal := .next (s.answer .unsupported)

/-! ## Shelf modes (R182) -/

/-- SHELF_PARTITION commands whose shelves have all taken their mode end (R182). -/
def State.partitionCheck (s : State) : State :=
  let done := fun (r : Started) => r.op == 0x0201 && r.objs.all fun o => (s.shelf o.2.1).target.isNone
  (s.cmd.started.filter fun r => r.begun && done r).foldl (fun s r =>
    s.finish r 0 (toLE 2 (r.objs.filter fun o => o.1 == objShelf).length)) s

/-- The next shelf of a slice that waits for its turn begins to change: shelves of one slice go one after another, in the
order in which the oldest command names them (R182 step 1). -/
def State.shelfNext (s : State) (n : Nat) : State :=
  let named := (s.cmd.started.filter fun r => r.op == 0x0201 && r.begun).flatMap fun r =>
    (r.objs.filter fun o => o.1 == objShelf && o.2.1 % 64 == n).map (·.2.1)
  if named.any fun k => (s.shelf k).qst != 0 then s
  else match named.find? fun k => (s.shelf k).target.isSome with
    | some k => s.setShelf k { s.shelf k with qst := 1 }
    | none => s

/-- A shelf takes its new mode: one that enters shelf mode is filled with zeros; the catalogue goes with its
shelf (R182, R306). -/
def State.shelfTakes (s : State) (n : Nat) (v : Shelf) (t : Nat × Nat × Bool × Bool) : State :=
  let enters := t.1 == 2 && v.mode != 2
  let gone := fun (a : Nat) => v.mode == 1 && lineBucket a == n
  let s0 := (s.writeBackAs .bulk gone).invalidate gone
  let s1 := s0.setShelf n { mode := t.1, ctxm := t.2.1, fw := t.2.2.1, host := t.2.2.2, qst := 0, target := none }
  let s2 : State := if enters then
      let s3 := s1.access .bulk true (shelfAddr n 0) (2 ^ 26)
      { s3 with mem := s1.mem.clear (shelfAddr n 0) (2 ^ 26),
                bad := Map.keep s1.bad fun k _ => !(decide (shelfAddr n 0 ≤ k) && decide (k < shelfAddr (n + 1) 0)) }
    else s1
  if n = 636 then s2.catLose 0 65536 else s2

/-- A request that the slice has accepted and that keeps shelf `n` from changing: to the shelf itself, or to a line of its
bucket (R182 step 2). -/
def State.shelfInUse (s : State) (n : Nat) : Bool :=
  (s.slice (n % 64)).reqs.any fun q =>
    region q.addr == .shelf n || (region q.addr == .hbm && lineBucket q.addr == n)

/-- SHELF_MODE_CHANGE_DONE (R182 steps 2 to 6); no effect before the accepted accesses have completed. The next shelf of
the slice begins. -/
def execShelfModeChangeDone (shelf : Fin 640) (s : State) : Host.Outcome State Fault Refusal :=
  let v := s.shelf shelf.val
  match v.target with
  | some t =>
    if v.qst == 0 || s.shelfInUse shelf.val then .next s
    else .next ((s.shelfTakes shelf.val v t).shelfNext (shelf.val % 64)).partitionCheck
  | none => .next s

/-- A scan ends: the CRC of the range's bytes latched (R195, R196). Uncorrectable data is recorded and never latched
(R189; log entry 105), and a slice out of service refuses the scan, which then ends without a result (R414). That the scan
uses POLY, BASE and LEN as they stand now, and that FPLCNT then holds 0, is the model's choice (log entry 137). -/
def State.fpScanEnd (s : State) (n : Nat) : State :=
  let u := s.fp n
  if !u.busy then s
  else if s.sliceBusy u.base u.len then (s.setFp n { u with busy := false }).replayCheck
  else
    let s1 := s.access .background false u.base u.len
    match (s.badKeys u.base u.len).head? with
    | some k => ((s1.setFp n { u with busy := false }).uncRead k 0xFFFFFFFF).replayCheck
    | none =>
      let v := { u with busy := false, lat := crc u.poly (s.load u.base u.len), latCnt := 0 }
      ((s1.setFp n v).journalLatch [(n, v.row)]).replayCheck

/-- FP_SCAN_DONE (R196). -/
def execFpScanDone (n : Fin 128) (s : State) : Host.Outcome State Fault Refusal := .next (s.fpScanEnd n.val)

end Sys2Proof.Machine
end

