-- ==== Sys2Proof/Machine/Bindery.lean ====
section
/-! DEFINITION. The HBM stacks and the Binderies: temperature, patrol reads, dispatch, and the operations
(spec 08, R197-R219). -/

namespace Sys2Proof.Machine

/-! ## The stacks (R201, R203) -/

/-- The threshold that a temperature state is entered by. -/
def tempThreshold : Nat → Nat
  | 0 => 0 | 1 => 85 | 2 => 95 | 3 => 105 | _ => 115

/-- The temperature state of a stack, from 0 up to 85 °C to 4, stopped. -/
def Stack.level (v : Stack) : Nat := if v.stop then 4 else if v.thr then 3 else v.rmul

/-- The state that a temperature enters on the way up. -/
def levelUp (t : Nat) : Nat := ([1, 2, 3, 4].filter fun l => decide (tempThreshold l < t)).length

/-- The state after a reading: each threshold on the way up, 2 °C lower on the way down, and the stop left only
below 100 °C (R203). -/
def nextLevel (cur t : Nat) : Nat :=
  if cur = 4 then (if t < 100 then levelUp t else 4)
  else max (levelUp t) (([1, 2, 3].filter fun l => decide (l ≤ cur) && decide (tempThreshold l < t + 2)).foldl max 0)

/-- A stack at a temperature state. -/
def Stack.setLevel (v : Stack) (l t : Nat) : Stack :=
  { v with rmul := min 3 (if l = 3 then 2 else if l = 4 then 3 else l), thr := l == 3, stop := l == 4, temp := t }

/-- A running descriptor that still has lines to move ends with a status, its outputs partly written. One that has only its
record to write meets the stop there (`State.bndJudge`). -/
def State.bndStop (s : State) (h status : Nat) : State := if (s.bindery h).cur.any (·.moves) then s.bndAbort h status else s

/-- HBM_TEMP_READING (R203). -/
def execHbmTempReading (h : Fin 12) (temp : Byte) (s : State) : Host.Outcome State Fault Refusal :=
  let v := s.stack h.val
  if v.st = 3 then .next s
  else
    let l := nextLevel v.level temp.toNat
    let s1 := s.setStack h.val (v.setLevel l temp.toNat)
    if l = 4 && !v.stop then
      .next (((s1.count (ctrStack h.val + 9)).log 0x0051 0 1 (codeStack h.val) 0 0xFFFFFFFF).bndStop h.val 0x0752)
    else .next s1

/-- A row that gave a corrected error on a day: soft repair is scheduled on its third day (R201). -/
def Stack.corrected (v : Stack) (row day : Nat) : Stack :=
  let ds := Map.getD v.days row []
  let ds' := if ds.contains day then ds else ds ++ [day]
  { v with days := Map.put v.days row ds',
           soft := if ds'.length = 3 && !ds.contains day && !v.soft.contains row then v.soft ++ [row] else v.soft }

/-- The line at `a` cannot be read in HBM. A copy that the Archive holds still serves its hits (R179, R201). -/
def State.patrolLoses (s : State) (a : Nat) : State :=
  match s.cached a with
  | some l =>
    let k := cacheKey a
    s.setWays k ((Map.getD s.arc.cache k []).map fun x => if x = l then { x with under := true } else x)
  | none => s.lose a

/-- HBM_PATROL_READ (R201). -/
def execHbmPatrolRead (line : BitVec 48) (r : EccResult) (row day : BitVec 32) (s : State) :
    Host.Outcome State Fault Refusal :=
  let a := line.toNat / 256 * 256
  let h := a / 2 ^ 37
  if 12 ≤ h then .next s
  else
    let s1 := s.count (ctrStack h + 12)
    let v := s1.stack h
    match r with
    | .clean => .next s1
    | .corrected => .next ((s1.count (ctrStack h)).setStack h (v.corrected row.toNat day.toNat))
    | .uncorrectable =>
      let v1 := { v with hard := if v.hard.contains row.toNat then v.hard else v.hard ++ [row.toNat] }
      .next ((((s1.setStack h v1).patrolLoses a).count (ctrStack h + 1)).log 0x0012 0 1 (codeStack h) a 0xFFFFFFFF)

/-- HBM_ECS_READ: the error counts of the stack's own check and scrub (R197, R467). -/
def execHbmEcsRead (h : Fin 12) (errors : BitVec 32) (s : State) : Host.Outcome State Fault Refusal :=
  .next ((s.setStack h.val { s.stack h.val with ecs := errors.toNat }).count (ctrStack h.val + 13) errors.toNat)

/-- HBM_SOFT_REPAIR: the scheduled soft repair of a row (R201). -/
def execHbmSoftRepair (h : Fin 12) (row : BitVec 32) (s : State) : Host.Outcome State Fault Refusal :=
  let v := s.stack h.val
  if v.soft.contains row.toNat then
    .next ((s.setStack h.val { v with soft := v.soft.erase row.toNat, days := Map.del v.days row.toNat }).count
      (ctrStack h.val + 11))
  else .next s

/-! ## Dispatch (R204, R206) -/

/-- The head of a Bindery queue: 8 is the host queue. None when nothing waits there or its context does not
run. -/
def State.bndHead (s : State) (h qi : Nat) : Option BndRun :=
  let b := s.bindery h
  if qi = 8 then b.hostq.head?.map fun d => b.hostSaved.getD (BndRun.fresh none 0 d)
  else
    let q := b.queue qi
    if q.run == .running && (s.ctx qi).st == .running && !(s.ctx qi).parking then
      match q.saved with
      | some r => some r
      | none => some (BndRun.fresh (some qi) q.pc (s.mem.readN (q.base + 128 * q.pc) 128))
    else none

/-- The wait of queue `qi` is over: its stake was set since the wait began (R206). -/
def State.bndWaited (s : State) (h qi : Nat) : Bool :=
  (s.bindery h).waitOrder.contains qi && (Map.find s.bndWaits (16 * h + qi)).isNone

/-- The stake that the head of queue `qi` waits on, by holder and index, while it is not yet set; `none` where the head is
ready. -/
def State.bndWait (s : State) (h qi : Nat) (r : BndRun) : Option (Nat × Nat) :=
  if !dWen r.desc || s.bndWaited h qi then none
  else match stakeRef (s.bndCtx r.ctx (dF r.desc 2 4)) (dF r.desc 2 4) with
    | some hi => if s.stakeNow hi.1 hi.2 == .clear then some hi else none
    | none => none

/-- The WAIT stake of a head is ABANDONED. -/
def State.bndAbandoned (s : State) (r : BndRun) : Bool :=
  dWen r.desc &&
  (match stakeRef (s.bndCtx r.ctx (dF r.desc 2 4)) (dF r.desc 2 4) with
   | some hi => s.stakeNow hi.1 hi.2 == .abandoned
   | none => false)

/-- The descriptor's bytes, or its index, cannot be used: outside its program, or uncorrectable. -/
def State.bndFetch (s : State) (h : Nat) (r : BndRun) : Option Nat :=
  match r.ctx with
  | none => none
  | some c =>
    let q := (s.bindery h).queue c
    if q.count ≤ r.ix then some 0x0803
    else if (s.stack h).stop then some 0x0752
    else if s.badIn (q.base + 128 * r.ix) 128 then some 0x0723
    else none

/-- The queues of a Bindery in the order in which it looks at them: the host queue, then the contexts after the
one served last (R204). -/
def Bindery.order (b : Bindery) : List Nat := 8 :: (List.range 8).map fun i => (b.last + 1 + i) % 8

/-- A head that must wait: its wait is registered once, and counted when nothing owns the stake (R160). -/
def State.bndRegister (s : State) (h qi : Nat) (w : Nat × Nat) : State :=
  let b := s.bindery h
  if b.waitOrder.contains qi then s
  else
    let s1 := s.setBindery h { b with waitOrder := b.waitOrder ++ [qi] }
    { s1 with bndWaits := Map.put s1.bndWaits (16 * h + qi) w }.orphan w.1 w.2

/-- A descriptor begins: its checks, its vote byte, the write-back of the dirty lines of its ranges, and then its
operation (R180, R205, R206). -/
def State.bndBegin (s : State) (h : Nat) (r : BndRun) : State :=
  match s.descFault h r.ctx r.desc with
  | some st => s.bndEnd h { r with status := st }
  | none =>
    let vote := dF r.desc 16 6
    if dVoten r.desc && s.bndAccess vote ≠ 0 then s.bndEnd h { r with status := s.bndAccess vote }
    else if dVoten r.desc && s.badIn vote 1 then (s.uncRead vote (codeStack h)).bndEnd h { r with status := 0x0723 }
    else
      let skip := dVoten r.desc && s.byteAt vote != 0
      let r1 := if skip then { r with skipped := true, ran := true } else r
      let rs := (descRanges r.desc).map fun x => (x.addr, x.len)
      let s1 := if skip then s.count (ctrBindery h + 8) else s.writeBackAs .collective (inRanges rs)
      s1.setBindery h { s1.bindery h with cur := some r1 }

/-- The head of a queue is a descriptor that was set aside (R208). -/
def State.bndSaved (s : State) (h qi : Nat) : Bool :=
  if qi = 8 then (s.bindery h).hostSaved.isSome else ((s.bindery h).queue qi).saved.isSome

/-- A descriptor that was set aside goes on, unless its stack has failed or stopped since (R199, R203). -/
def State.bndGoOn (s : State) (h : Nat) (r : BndRun) : State :=
  if r.ran || !(r.moves) then s.setBindery h { s.bindery h with cur := some r }
  else if (s.stack h).st = 3 then s.bndEnd h { r with status := 0x0751 }
  else if (s.stack h).stop then s.bndEnd h { r with status := 0x0752 }
  else
    let s1 := s.writeBackAs .collective (inRanges ((descRanges r.desc).map fun x => (x.addr, x.len)))
    s1.setBindery h { s1.bindery h with cur := some r }

/-- A queue is taken: its head starts, ends at once, or goes on where pre-emption left it. -/
def State.bndTake (s : State) (h qi : Nat) (r : BndRun) : State :=
  let s1 := s.bndUnregister h qi
  let b := s1.bindery h
  let b1 := if qi < 8 then { b with last := qi }.setQueue qi { b.queue qi with saved := none } else { b with hostSaved := none }
  let s2 := s1.setBindery h b1
  if s.bndSaved h qi then s2.bndGoOn h r
  else match s2.bndFetch h r with
    | some st => (if st = 0x0723 then s2.uncRead ((b1.queue qi).base + 128 * r.ix) (codeStack h) else s2).bndEnd h { r with status := st }
    | none =>
      if !s.bndWaited h qi && s2.bndAbandoned r then s2.bndEnd h { r with status := 0x0601 } else s2.bndBegin h r

/-- The first queue that is ready is taken; those before it that wait are registered. -/
def State.bndScan (s : State) (h : Nat) : List Nat → State
  | [] => s
  | qi :: rest =>
    match s.bndHead h qi with
    | none => State.bndScan s h rest
    | some r =>
      if s.bndSaved h qi || (s.bndFetch h r).isSome || !descFieldsOk r.desc then s.bndTake h qi r
      else match s.bndWait h qi r with
        | some w => State.bndScan (s.bndRegister h qi w) h rest
        | none => s.bndTake h qi r

/-- BINDERY_DISPATCH: at a descriptor boundary the Bindery takes its next descriptor (R204, R206). -/
def execBinderyDispatch (h : Fin 12) (s : State) : Host.Outcome State Fault Refusal :=
  let b := s.bindery h.val
  if b.cur.isSome || s.flt.drained || s.d3hot || s.svcOf (codeStack h.val) != .inService then .next s
  else .next (s.bndScan h.val b.order)

/-- BINDERY_WAIT_EXPIRY: T2 of the wait that has lasted longest; a stake that is set prevails (R206, R492). -/
def execBinderyWaitExpiry (h : Fin 12) (s : State) : Host.Outcome State Fault Refusal :=
  match (s.bindery h.val).waitOrder.find? fun qi => !s.bndWaited h.val qi with
  | none => .next s
  | some qi =>
    match s.bndHead h.val qi with
    | some r =>
      if (s.bndWait h.val qi r).isSome then
        .next (((s.count (ctrDev 41)).bndUnregister h.val qi).bndEnd h.val { r with status := 0x0503 })
      else .next { s with bndWaits := Map.del s.bndWaits (16 * h.val + qi) }
    | none => .next (s.bndUnregister h.val qi)

/-! ## Running an operation -/

/-- The running descriptor of a Bindery, when it is of operation `op` and has still to run. -/
def State.bndRunning (s : State) (h op : Nat) : Option BndRun :=
  match (s.bindery h).cur with
  | some r => if dOp r.desc = op && !r.ran then some r else none
  | none => none

/-- The operation of a running descriptor has ended, with the address of an uncorrectable read, if any (R189, R217). -/
def State.bndRan (s : State) (h : Nat) (r : BndRun) (bad : Option Nat) : State :=
  let s1 := match bad with
    | some a => s.uncRead a (codeStack h)
    | none => s
  s1.setBindery h { s1.bindery h with cur := some { r with ran := true, status := if bad.isSome then 0x0723 else 0 } }

/-- The running descriptor of operation `op` moves all that it has still to move, or up to what it cannot read (R206 steps 4
and 5, R208). -/
def State.bndOperate (s : State) (h op : Nat) : State :=
  match s.bndRunning h op with
  | none => s
  | some r =>
    let t := s.bndTable r.desc
    if t.2.isSome then (s.captureLines 2 h [(dF r.desc 46 6, 4 * t.1)]).bndRan h r t.2
    else
      let g := s.bndGood r
      let x := s.bndMove h r g.1
      x.1.bndRan h (if g.2.isSome && dOp r.desc < 5 then { x.2 with result := [] } else x.2) g.2

/-- B_OPT: the optimiser step (R210-R213). -/
def execBOpt (h : Fin 12) (s : State) : Host.Outcome State Fault Refusal := .next (s.bndOperate h.val 1)

/-- B_REQ: requantisation, or finalisation of Tallies (R214). -/
def execBReq (h : Fin 12) (s : State) : Host.Outcome State Fault Refusal := .next (s.bndOperate h.val 2)

/-- B_AMAX: the amax of a tensor (R214). -/
def execBAmax (h : Fin 12) (s : State) : Host.Outcome State Fault Refusal := .next (s.bndOperate h.val 3)

/-- B_FPR: the fingerprint of a range (R214). -/
def execBFpr (h : Fin 12) (s : State) : Host.Outcome State Fault Refusal := .next (s.bndOperate h.val 4)

/-- B_GATH: rows gathered by index (R215). -/
def execBGath (h : Fin 12) (s : State) : Host.Outcome State Fault Refusal := .next (s.bndOperate h.val 5)

/-- B_SCAT: rows scattered by index (R215). -/
def execBScat (h : Fin 12) (s : State) : Host.Outcome State Fault Refusal := .next (s.bndOperate h.val 6)

/-! ## END, JMP and the end of a descriptor (R206, R209) -/

/-- B_END: the queue becomes idle; a host descriptor has only to be answered (R209, R336). -/
def execBEnd (h : Fin 12) (s : State) : Host.Outcome State Fault Refusal :=
  match s.bndRunning h.val 0 with
  | none => .next s
  | some r =>
    let r1 := s.bndJudge h.val r
    let s1 := s.bndClose h.val r1
    match r.ctx with
    | none => .next (s1.bndAdvance h.val r1)
    | some c =>
      if r1.status ≠ 0 then .next (s1.bndAdvance h.val r1) else
      let b := s1.bindery h.val
      let s2 := s1.setBindery h.val ({ b with cur := none }.setQueue c { b.queue c with run := .idle, saved := none })
      .next (s2.endedCheck c (s2.bndIdle c))

/-- B_JMP: the queue goes on at the descriptor of an index (R209). -/
def execBJmp (h : Fin 12) (s : State) : Host.Outcome State Fault Refusal :=
  match s.bndRunning h.val 7 with
  | none => .next s
  | some r =>
    let r1 := s.bndJudge h.val r
    let s1 := s.bndClose h.val r1
    match r.ctx with
    | none => .next (s1.bndAdvance h.val r1)
    | some c =>
      if r1.status ≠ 0 then .next (s1.bndAdvance h.val r1) else
      let b := s1.bindery h.val
      .next (s1.setBindery h.val ({ b with cur := none }.setQueue c { b.queue c with pc := dF r.desc 32 4, saved := none }))

/-- BINDERY_DESCRIPTOR_DONE: the operation has ended: its record, its DONE stake, its queue (R206, R216). -/
def execBinderyDescriptorDone (h : Fin 12) (s : State) : Host.Outcome State Fault Refusal :=
  match (s.bindery h.val).cur with
  | some r => if r.ran then .next (s.bndEnd h.val r) else .next s
  | none => .next s

end Sys2Proof.Machine
end

