-- ==== Sys2Proof/Machine/Fec.lean ====
section
/-! DEFINITION. Forward error correction of a frame: its two codewords and their symbols on the lanes (spec 09, R222).
R222 names the RS(544,514) code of IEEE 802.3 Clause 91; its field polynomial, its generator and the order of the bits of
a symbol are that standard's (PRESUMED, log entry 106). -/

namespace Sys2Proof.Machine

/-- `a` times x in GF(2^10) with x^10 + x^3 + 1. -/
def gfTimesX (a : Nat) : Nat := if 512 ≤ a then (2 * a) ^^^ 0x409 else 2 * a

/-- The product of two elements of GF(2^10), over the low `n` bits of the second. -/
def gfMul (a : Nat) : (n : Nat) → Nat → Nat
  | 0, _ => 0
  | n + 1, b => (if b % 2 = 1 then a else 0) ^^^ gfMul (gfTimesX a) n (b / 2)

/-- x to the power `n`. -/
def gfPow : Nat → Nat
  | 0 => 1
  | n + 1 => gfTimesX (gfPow n)

/-- The generator polynomial with roots x^0 to x^(n-1), its coefficients from the constant up, without the leading 1. -/
def rsGen : Nat → List Nat
  | 0 => []
  | n + 1 =>
    let g := rsGen n
    let r := gfPow n
    (List.range (n + 1)).map fun i =>
      (if i = 0 then 0 else g.getD (i - 1) 0) ^^^ gfMul r 10 (if i = n then 1 else g.getD i 0)

/-- The 30 parity symbols of the message symbols, the first to be sent first. -/
def rsParity (msg : List Nat) : List Nat :=
  let g := rsGen 30
  (msg.foldl (fun r m =>
    let f := m ^^^ r.getD 29 0
    (List.range 30).map fun i => (if i = 0 then 0 else r.getD (i - 1) 0) ^^^ gfMul f 10 (g.getD i 0))
    (List.replicate 30 0)).reverse

/-- The 1,028 message symbols of a frame of 1,285 bytes: the first 514 are codeword 0's. -/
def frameSymbols (bytes : List Byte) : List Nat :=
  let n := leNat bytes
  (List.range 1028).map fun i => bitsOf n (10 * i) 10

/-- The symbols of a frame's two codewords, codeword 0 first (R222). -/
def codewords (bytes : List Byte) : List Nat :=
  let m := frameSymbols bytes
  let c := fun (x : List Nat) => x ++ rsParity x
  c (m.take 514) ++ c (m.drop 514)

/-- The symbols that each of `n` lanes carries: the codewords' symbols in round-robin order (R222). -/
def laneSymbols (n : Nat) (bytes : List Byte) : List (List Nat) :=
  let c := codewords bytes
  (List.range n).map fun l => (List.range ((1088 + n - 1 - l) / n)).map fun i => c.getD (i * n + l) 0

end Sys2Proof.Machine
end

