-- ==== Sys2Proof/Machine/Links.lean ====
section
/-! DEFINITION. Links: frames sent and received, replay, training, quiesce, forwarding (spec 09, R220-R241, R244,
R496). -/

namespace Sys2Proof.Machine

/-! ## Frames (R223, R224) -/

/-- Receive-buffer slots of a sub-port for a lane (R227). -/
def State.bufSlots (s : State) (p vl : Nat) : Nat := (if vl < 4 then 1792 else 256) / (s.pctl (p / 4)).subports

/-- A frame of a sub-port at time `t`: its header fields, slots, credit counts and link-service field, with its
FCRC. -/
def State.frameBytes (s : State) (p t fseq ack ftype : Nat) (rplq downq : Bool) (smap : Nat) (slots : List Byte)
    (cred : List Nat) : List Byte :=
  let v := s.port p
  let head := fseq + ack * 2 ^ 12 + ftype * 2 ^ 24 + b2n rplq * 2 ^ 26 + b2n downq * 2 ^ 27 + smap * 2 ^ 32
  let body := toLE 16 head ++ bytesAt slots 0 1216 ++ cred.flatMap (toLE 4 ·) ++ toLE 6 t ++ toLE 6 v.echo ++
    toLE 4 (t - v.echoAt) ++ [0]
  body ++ toLE 4 (crc32c body)

/-- SMAP of the slots of a frame. -/
def smapOf (slots : List Slot64) : Nat := (slots.zipIdx.map fun x => x.1.1 * 2 ^ (5 * x.2)).sum

/-- The 64-byte slots of a packet, its header first (R226). -/
def packetSlots (k : Packet) : List (List Byte) :=
  let bs := toLE 3 k.dst.toNat ++ toLE 3 k.src.toNat ++ toLE 1 k.nslot ++ toLE 1 k.ptype.toNat ++ toLE 2 k.flow.toNat ++
    toLE 2 k.sepoch.toNat ++ toLE 4 k.ctx.toNat ++ k.body
  (List.range (k.nslot + 1)).map fun i => bytesAt bs (64 * i) 64

/-! ## Filling the slots (R229, R241) -/

/-- Credit that the transmitter holds on a lane (R229). -/
def SubPort.credit (v : SubPort) (vl : Nat) : Nat :=
  (v.cred0.getD vl 0 + v.credIn.getD vl 0 + 2 ^ 32 - v.sent.getD vl 0) % 2 ^ 32

/-- A slot of a lane is ready: a packet is being sent on it or waits for it. -/
def State.slotReady (s : State) (p vl : Nat) : Bool :=
  ((s.port p).tx.any fun x => x.vl == vl) || s.egress.any fun o => o.path == p && o.pkt.vl.val == vl

/-- A slot can be sent on a lane. -/
def State.slotGoes (s : State) (p vl : Nat) : Bool := s.slotReady p vl && decide (0 < (s.port p).credit vl)

/-- The waiting packet that a lane takes next: inputs in round-robin order after the one served last, and in their
order within an input (R241). -/
def State.nextPacket (s : State) (p vl : Nat) : Option Outgoing :=
  let ws := s.egress.filter fun o => o.path == p && o.pkt.vl.val == vl
  let last := (s.port p).rr.getD vl 128
  ((List.range 129).map fun i => (last + 1 + i) % 129).findSome? fun i => ws.find? fun o => o.inp == i

/-- A message of this station waited too long to be injected: the command that waits for its answer is DELAYED (R244; log
entry 107). -/
def State.messageLate (s : State) (mseq : Nat) : State :=
  match (s.fab.waiting.find? fun w => w.mseq == mseq).bind (·.cmd) with
  | none => s
  | some r =>
    let mark := fun (x : Started) => if x.uid = r.uid then { x with linkLate := true } else x
    { s with cmd := { s.cmd with started := s.cmd.started.map mark },
             fab := { s.fab with waiting := s.fab.waiting.map fun w => { w with cmd := w.cmd.map mark } } }

/-- A packet begins to leave: a token's AGE grows by its residence (R290), a DATA packet is recorded by the units of
SRC 3 (R195), and one of this station that waited longer than DLYTH is DELAYED (R244). -/
def State.startPacket (s : State) (p t : Nat) (o : Outgoing) : State × Packet :=
  let k := o.pkt
  let k1 : Packet := if k.ptype = 0x10 then
      { k with body := k.body.take 14 ++ toLE 6 (leAt k.body 14 6 + (t - o.stamp)) ++ k.body.drop 20 } else k
  let v := s.port p
  let s1 : State := { s with egress := s.egress.erase o }
  let s2 := s1.setPort p { v with rr := v.rr.set k.vl.val o.inp }
  let late := o.inp == 128 && decide (k.vl.val ≤ 6) && decide (4096 * s.fab.dlyth < t - o.stamp)
  let s3 := if late then
      (if k.ptype = 3 then s2.messageLate (leAt k.body 0 4) else s2).count (ctrPort p + 12)
    else s2
  (if k.ptype = 1 then
     s3.capturePort 3 (p / 4) (k.flow.toNat % 4096) (leAt k.body 0 3) ((k.body.drop 32).take (leAt k.body 20 2))
   else s3, k1)

/-- The next slot of a lane: of the packet being sent, or the first of the next packet. -/
def State.takeSlot (s : State) (p t vl : Nat) : Option (State × Slot64) :=
  if !s.slotGoes p vl then none
  else
    let spend := fun (v : SubPort) => { v with sent := v.sent.set vl ((v.sent.getD vl 0 + 1) % 2 ^ 32) }
    let done := fun (v : SubPort) (k : Packet) (rest : List (List Byte)) =>
      if rest.isEmpty then { v with unacked := v.unacked ++ [(v.txSeq, k)] }
      else { v with tx := v.tx ++ [⟨vl, rest, rest.length, some k⟩] }
    match (s.port p).tx.find? fun x => x.vl == vl with
    | some x =>
      let v := { s.port p with tx := (s.port p).tx.filter fun y => y.vl != vl }
      some (s.setPort p (done (spend v) (x.pkt.getD (packetOf 0 vl [])) (x.slots.drop 1)), (16 + vl, x.slots.headD []))
    | none =>
      match s.nextPacket p vl with
      | some o =>
        let sk := s.startPacket p t o
        some (sk.1.setPort p (done (spend (sk.1.port p)) sk.2 ((packetSlots sk.2).drop 1)), (24 + vl, (packetSlots sk.2).headD []))
      | none => none

/-- Up to `n` slots from a list of lanes, the first that can send each time. -/
def State.fillFrom (s : State) (p t : Nat) (vls : List Nat) : (n : Nat) → List Slot64 → State × List Slot64
  | 0, out => (s, out)
  | n + 1, out =>
    if 19 ≤ out.length then (s, out)
    else match vls.findSome? fun vl => s.takeSlot p t vl with
      | some (s1, x) => State.fillFrom s1 p t vls n (out ++ [x])
      | none => (s, out)

/-- The deficit round robin of VL0-VL3, in slots (R241): the lane served keeps its turn while its deficit lasts and
it can send; each turn begins with the lane's weight. `n` bounds the visits. -/
def State.fillDrr (s : State) (p t : Nat) : (n : Nat) → List Slot64 → State × List Slot64
  | 0, out => (s, out)
  | n + 1, out =>
    if 19 ≤ out.length || !([0, 1, 2, 3].any fun vl => s.slotGoes p vl) then (s, out)
    else
      let v := s.port p
      match (if 0 < v.drr.2 then s.takeSlot p t v.drr.1 else none) with
      | some (s1, x) =>
        State.fillDrr (s1.setPort p { s1.port p with drr := (v.drr.1, v.drr.2 - 1) }) p t n (out ++ [x])
      | none =>
        let nx := (v.drr.1 + 1) % 4
        State.fillDrr (s.setPort p { v with drr := (nx, (s.pctl (p / 4)).w.getD nx 1) }) p t n out

/-- The slots of a new frame in the order of R241. -/
def State.fill (s : State) (p t : Nat) : State × List Slot64 :=
  let others := [0, 1, 2, 3, 4, 5, 6].any fun vl => s.slotReady p vl
  let a := s.fillFrom p t [7] (if others then 8 else 19) []
  let bulk := [0, 1, 2, 3].any fun vl => a.1.slotReady p vl
  let b := a.1.fillFrom p t [6, 4, 5] (if bulk then 4 else 19) a.2
  let c := b.1.fillDrr p t 100 b.2
  c.1.fillFrom p t [7, 6, 4, 5, 0, 1, 2, 3] 19 c.2

/-! ## Sending -/

/-- The fields of a training frame of sub-port `p` (R235). -/
def State.trainingBody (s : State) (p : Nat) : List Byte :=
  let v := s.port p
  let c := s.pctl (p / 4)
  let al := v.st == 4 && decide (64 ≤ v.aligned) && s.fab.snLock
  toLE 2 1 ++ toLE 1 v.st ++
    toLE 1 (c.split + 4 * b2n c.reach + 8 * b2n v.fast + 16 * b2n v.ready + 32 * b2n v.ddone + 64 * b2n al) ++
    toLE 3 s.station ++ toLE 1 p ++ toLE 2 v.epoch ++ toLE 2 v.tseq ++
    ((List.range 8).flatMap fun vl => toLE 4 (s.bufSlots p vl)) ++ toLE 2 (v.ack + 2 ^ 15 * b2n v.noAck) ++
    toLE 1 (min 255 v.dcount) ++ List.replicate 9 0 ++
    (List.range 1160).map fun j => BitVec.ofNat 8 (j * 37 + v.tseq)

/-- A frame of sub-port `p` with its symbols on the lanes (R222). -/
def State.frameOut (s : State) (p : Nat) (bs : List Byte) : State :=
  { s with out := .frame p bs (laneSymbols (s.pctl (p / 4)).lanes bs) :: s.out }

/-- A training frame leaves (R235). -/
def State.sendTraining (s : State) (p t : Nat) : State :=
  let v := s.port p
  let bs := s.frameBytes p t 0 0 1 false false 0 (s.trainingBody p) (List.replicate 8 0)
  let v1 := { v with tseq := (v.tseq + 1) % 65536, sentAt := if v.st = 6 then v.sentAt ++ [t] else v.sentAt }
  (s.setPort p v1).frameOut p bs

/-- A data or empty frame with given slots leaves. -/
def State.sendData (s : State) (p t fseq : Nat) (slots : List Slot64) : State :=
  let v := s.port p
  let bs := s.frameBytes p t fseq v.ack 0 v.pendRpl (v.st == 8) (smapOf slots) (slots.flatMap (·.2)) v.freed
  s.frameOut p bs

/-- Frames of the replay window of a sub-port (R232). -/
def State.window (s : State) (p : Nat) : Nat := 256 / (s.pctl (p / 4)).subports

/-- A frame of a sub-port that carries traffic leaves: a held frame that is to be resent, an empty frame while the
window is full or nothing is ready, or a new data frame (R225, R231, R232). A resend begins with its first frame. -/
def State.sendFrame (s : State) (p t : Nat) : State :=
  let v := s.port p
  match v.resend with
  | f :: rest =>
    let s0 := match v.rplNext with
      | some a => (s.setPort p { v with resend := rest, rplNext := none, rplAck := some (a, t) }).count (ctrPort p + 2)
      | none => s.setPort p { v with resend := rest }
    match v.held.find? fun x => x.1 == f with
    | some x => s0.sendData p t f x.2
    | none => s0.sendData p t v.txSeq []
  | [] =>
    if s.window p ≤ v.held.length then s.sendData p t v.txSeq []
    else
      let sx := s.fill p t
      if sx.2.isEmpty then sx.1.sendData p t v.txSeq []
      else
        let s2 := sx.1.sendData p t v.txSeq sx.2
        let w := s2.port p
        s2.setPort p { w with held := w.held ++ [(v.txSeq, sx.2)], txSeq := (v.txSeq + 1) % 4096 }

/-- FRAME_SEND: the sub-port's next frame leaves, its first bit at `t` (R225, R235). A sub-port in a state that sends
nothing sends nothing. -/
def execFrameSend (p : Fin 128) (t : BitVec 48) (s : State) : Host.Outcome State Fault Refusal :=
  let s1 := s.at t.toNat
  let v := s1.port p.val
  if !s1.present p.val then .next s1
  else if v.st = 7 || v.st = 8 then .next (s1.sendFrame p.val t.toNat)
  else if v.st = 4 || v.st = 5 || v.st = 6 then .next (s1.sendTraining p.val t.toNat)
  else .next s1

/-! ## Receiving frames -/

/-- Both codewords decode and FCRC matches (R231). -/
def frameGood (fec : Fec) (bytes : List Byte) : Bool :=
  match fec with
  | .good _ => bytes.length == 1285 && leAt bytes 1281 4 == crc32c (bytes.take 1281)
  | .uncorrectable _ => false

/-- WEN_FEC_CORR of a frame: its corrected codewords, the one beside a codeword that fails among them (R246). -/
def State.fecCount (s : State) (p : Nat) (fec : Fec) : State :=
  match fec with
  | .good n => s.count (ctrPort p) n
  | .uncorrectable n => s.count (ctrPort p) n

/-- Held frames up to and including an acknowledged FSEQ are released; an FSEQ that is not held releases none
(R232). -/
def SubPort.release (v : SubPort) (ack : Nat) : SubPort :=
  if v.held.any fun x => x.1 == ack then
    let kept := (v.held.dropWhile fun x => x.1 != ack).drop 1
    let ids := kept.map (·.1)
    { v with held := kept, resend := v.resend.filter ids.contains,
             unacked := v.unacked.filter fun u => ids.contains u.1 }
  else v

/-- A replay request acted on: the held frames after ACK are to be sent again, unless the same request is still to be
acted on, or its resend began no more than 2 × ONEWAY + 20 ns ago (R232). -/
def State.replay (s : State) (p t ack : Nat) : State :=
  let v := s.port p
  let soon := v.rplNext == some ack || (match v.rplAck with
    | some (a, t0) => a == ack && decide (t ≤ t0 + 2 * v.oneway + 5120)
    | none => false)
  if soon || v.held.isEmpty then s
  else s.setPort p { v with resend := v.held.map (·.1), rplNext := some ack }

/-- Firmware messages that this station holds (R243). -/
def State.fwHeld (s : State) : Nat :=
  ((s.fab.inbox ++ s.fab.kept).filter fun k => k.ptype == 3 && k.dst.toNat == s.station).length

/-- A packet that has all its slots: discarded as malformed or for want of room, or listed to be handled (R195, R228,
R236, R243). -/
def State.arrived (s : State) (k : Packet) : State :=
  let free := fun (s : State) => s.freeSlots k.path.val k.vl.val (k.nslot + 1)
  if !packetOk k then free (s.reject k)
  else if k.ptype = 3 && k.dst.toNat = s.station && 64 ≤ s.fwHeld then free (s.noticeOf k 0x0204 k.path.val)
  else if k.ptype = 1 then
    (s.capturePort 4 (k.path.val / 4) (k.flow.toNat % 4096) (leAt k.body 0 3)
      ((k.body.drop 32).take (leAt k.body 20 2))).deliver k
  else s.deliver k

/-- A USED slot of a data frame (R226). A slot that begins no packet and belongs to none is freed and counted; a packet
that another one cuts off is discarded with its notice (R245). -/
def State.takeIn (s : State) (p : Fin 128) (code : Nat) (bs : List Byte) : State :=
  let vl := code % 8
  let v := s.port p.val
  let old := v.rx.find? fun x => x.vl == vl
  let rest := v.rx.filter fun x => x.vl != vl
  let put := fun (s : State) (got : List (List Byte)) (left : Nat) =>
    if left = 0 then (s.setPort p.val { s.port p.val with rx := rest }).arrived (packetOf p vl got.flatten)
    else s.setPort p.val { s.port p.val with rx := rest ++ [⟨vl, got, left, none⟩] }
  if code.testBit 3 then
    let s1 := match old with
      | some x => (s.freeSlots p.val vl x.slots.length).reject (x.packet p)
      | none => s
    put s1 [bs] (leAt bs 6 1 % 64)
  else match old with
    | some x => put s (x.slots ++ [bs]) (x.left - 1)
    | none => (s.freeSlots p.val vl 1).count (ctrPort p.val + 13)

/-- The slots of a frame, in order. -/
def State.takeSlots (s : State) (p : Fin 128) (bytes : List Byte) : State :=
  let smap := leAt bytes 4 12
  (List.range 19).foldl (fun s j =>
    let code := bitsOf smap (5 * j) 5
    if code.testBit 4 then s.takeIn p code (bytesAt bytes (16 + 64 * j) 64) else s) s

/-- A good frame's TXTIME and arrival kept for ECHO and HOLD (R234). -/
def SubPort.timed (v : SubPort) (t : Nat) (bytes : List Byte) : SubPort := { v with echo := leAt bytes 1264 6, echoAt := t }

/-- A good data or empty frame: acknowledgement, replay request, credit, the neighbour's quiesce, and its slots. A data
frame that is not the next in sequence is discarded whole, and replay-pending begins or goes on (R225, R229-R232,
R496). -/
def State.takeFrame (s : State) (p : Fin 128) (t : Nat) (bytes : List Byte) : State :=
  let hd := leAt bytes 0 4
  let fseq := bitsOf hd 0 12
  let ack := bitsOf hd 12 12
  let v0 := (s.port p.val).timed t bytes
  let used := (List.range 19).any fun j => (leAt bytes 4 12).testBit (5 * j + 4)
  if used && fseq != (v0.ack + 1) % 4096 then s.setPort p.val { v0 with pendRpl := true }
  else
    let v := v0.release ack
    let v1 := { v with credIn := (List.range 8).map fun i => leAt bytes (1232 + 4 * i) 4,
                       follow := v.follow || (v.st == 7 && hd.testBit 27) }
    let s1 := s.setPort p.val v1
    let s2 := if hd.testBit 26 then s1.replay p.val t ack else s1
    if used then
      (s2.setPort p.val { s2.port p.val with ack := fseq, noAck := false, pendRpl := false }).takeSlots p bytes
    else s2

/-- FRAME_RECEIVE of a sub-port that carries traffic (R224, R231). -/
def execFrameReceive (p : Fin 128) (t : BitVec 48) (fec : Fec) (bytes : List Byte) (s : State) :
    Host.Outcome State Fault Refusal :=
  let s1 := (s.at t.toNat).fecCount p.val fec
  let v := s1.port p.val
  if !(s1.present p.val && (v.st == 7 || v.st == 8)) then .next s
  else if !frameGood fec bytes then
    .next ((s1.setPort p.val { v with pendRpl := true }).count (ctrPort p.val + 1))
  else match bitsOf (leAt bytes 0 4) 24 2 with
    | 0 => .next (s1.takeFrame p t.toNat bytes)
    | 1 => .next (s1.setPort p.val (v.timed t.toNat bytes))
    | _ => .next (s1.malformedAt p.val)

/-- A sub-port that followed its neighbour down: DOWN as R240 has it, then DETECT with its coefficients kept and REASON
8, to wait for signal (R496). -/
def State.followDown (s : State) (p : Nat) : State :=
  let s1 := s.subportDown p
  s1.setPort p { (s1.port p).enter 2 8 with fastNext := true, lanes := 0, tseq := 0 }

/-- A sub-port that is UP loses its link: a fast retrain, or the way down that it follows its neighbour on (R233, R496). -/
def State.linkLost (s : State) (p : Nat) : State := if (s.port p).follow then s.followDown p else s.retrainFast p

/-- REPLAY_PENDING_EXPIRY: T0 in replay-pending of a sub-port that is UP (R232, R233). -/
def execReplayPendingExpiry (p : Fin 128) (s : State) : Host.Outcome State Fault Refusal :=
  if (s.port p.val).st = 7 && (s.port p.val).pendRpl then .next (s.linkLost p.val) else .next s

/-! ## Training (R233-R235) -/

/-- PATTERN is as R235 gives it. -/
def patternGood (bytes : List Byte) : Bool :=
  let tseq := leAt bytes 26 2
  (List.range 1160).all fun j => bytes.getD (72 + j) 0 == BitVec.ofNat 8 (j * 37 + tseq)

/-- A frame with an aligned pattern is taken in ALIGN; both sides may then leave (R235). -/
def State.takeAlign (s : State) (p : Nat) (bytes : List Byte) : State :=
  let v := s.port p
  let fl := leAt bytes 19 1
  let ts := leAt bytes 18 1
  let n := if patternGood bytes then min 64 (v.aligned + 1) else if 64 ≤ v.aligned then 64 else 0
  let v1 := { v with aligned := n, reason := if 64 ≤ n then 6 else v.reason }
  if 64 ≤ n && s.fab.snLock && patternGood bytes && (fl.testBit 6 || ts == 5 || ts == 6) then
    s.setPort p { v1.enter 5 0 with aligned := 64 }
  else s.setPort p v1

/-- A good EXCHANGE or DELAY frame is taken in EXCHANGE (R235). In a fast retrain the neighbour's LASTACK releases held
frames. -/
def State.takeExchange (s : State) (p : Nat) (bytes : List Byte) : State :=
  let v := s.port p
  let fl := leAt bytes 19 1
  if bitsOf fl 0 2 ≠ (s.pctl (p / 4)).split then s.trainingFails p 4
  else if leAt bytes 20 3 = s.station then s.trainingFails p 5
  else
    let la := leAt bytes 60 2
    let v1 := if v.fast && !la.testBit 15 then v.release (la % 4096) else v
    let v2 := { v1 with ready := true, nbrSn := leAt bytes 20 3, nbrPid := leAt bytes 23 1 % 128, nbrEpoch := leAt bytes 24 2,
                        cred0 := (List.range 8).map fun i => leAt bytes (28 + 4 * i) 4 }
    if fl.testBit 4 then s.setPort p { v2.enter 6 0 with ready := true } else s.setPort p v2

/-- A good frame is taken in DELAY (R234, R235): an exchange, and the end of training once both sides are done. The frames
still held are to be sent again, which is one resend (R232, R246). -/
def State.takeDelay (s : State) (p t : Nat) (bytes : List Byte) : State :=
  let v := s.port p
  let echo := leAt bytes 1270 6
  let trip := t - echo - leAt bytes 1276 4
  let counts := leAt bytes 18 1 == 6 && v.sentAt.contains echo
  let v1 := if counts then
      { v with dcount := v.dcount + 1, best := if v.dcount = 0 then trip else min v.best trip } else v
  let v2 := { v1 with ddone := decide ((if v.fast then 32 else 256) ≤ v1.dcount) }
  if v2.ddone && (leAt bytes 19 1).testBit 5 then
    s.setPort p { v2.enter 7 0 with
      oneway := v2.best / 2 % 2 ^ 32, resend := v2.held.map (·.1),
      rplNext := v2.held.head?.map fun x => (x.1 + 4095) % 4096, fast := false, retry := false, fails := 0,
      retrains := if v.fast then v.retrains else 0 }
  else s.setPort p v2

/-- TRAINING_FRAME_RECEIVE (R235). A frame that does not decode breaks the run of aligned frames; one of another type,
version or state is discarded. -/
def execTrainingFrameReceive (p : Fin 128) (t : BitVec 48) (fec : Fec) (bytes : List Byte) (s : State) :
    Host.Outcome State Fault Refusal :=
  let s1 := (s.at t.toNat).fecCount p.val fec
  let v := s1.port p.val
  let broken := { v with aligned := if 64 ≤ v.aligned then v.aligned else 0 }
  if !(s1.present p.val && (v.st == 4 || v.st == 5 || v.st == 6)) then .next s
  else if !frameGood fec bytes then .next ((s1.setPort p.val broken).count (ctrPort p.val + 1))
  else
    let ftype := bitsOf (leAt bytes 0 4) 24 2
    let ts := leAt bytes 18 1
    if ftype = 0 then .next (s1.setPort p.val (broken.timed t.toNat bytes))
    else if ftype ≠ 1 || leAt bytes 16 2 ≠ 1 || !(ts == 4 || ts == 5 || ts == 6) then
      .next ((s1.setPort p.val broken).malformedAt p.val)
    else
      let s2 := s1.setPort p.val (v.timed t.toNat bytes)
      if v.st = 4 then .next (s2.takeAlign p.val bytes)
      else if v.st = 6 then .next (s2.takeDelay p.val t.toNat bytes)
      else if ts = 4 then .next s2
      else .next (s2.takeExchange p.val bytes)

/-- REASON with which a training state fails at its limit (R233). -/
def limitReason (st : Nat) : Nat := if st = 2 then 1 else if st = 3 then 2 else 3

/-- TRAINING_LIMIT_EXPIRY: no limit runs in DETECT while no lane shows signal, nor in ALIGN of a full training after
64 aligned frames (R233). -/
def execTrainingLimitExpiry (p : Fin 128) (s : State) : Host.Outcome State Fault Refusal :=
  let v := s.port p.val
  let runs := (v.st == 2 && v.lanes != 0) || v.st == 3 || (v.st == 4 && (v.fast || decide (v.aligned < 64))) ||
    v.st == 5 || v.st == 6
  if s.present p.val && runs then .next (s.trainingFails p.val (limitReason v.st)) else .next s

/-- LANE_SIGNAL_CHANGE: the lanes that now show signal (R221, R233). -/
def execLaneSignalChange (p : Fin 128) (lanes : BitVec 16) (s : State) : Host.Outcome State Fault Refusal :=
  let n := (s.pctl (p.val / 4)).lanes
  let s1 := s.setPort p.val { s.port p.val with lanes := lanes.toNat % 2 ^ n }
  let v := s1.port p.val
  if !s1.present p.val then .next s
  else if v.st = 2 then .next (s1.detect p.val)
  else if s1.allLanes p.val then .next s1
  else if v.st = 7 then .next (s1.linkLost p.val)
  else if v.st = 3 || v.st = 4 || v.st = 5 || v.st = 6 then .next (s1.trainingFails p.val (limitReason v.st))
  else .next s1

/-- EQUALISATION_DONE: a sub-port in ELEC moves to ALIGN (R233); one whose equalisation failed fails its training. -/
def execEqualisationDone (p : Fin 128) (ok : Bool) (s : State) : Host.Outcome State Fault Refusal :=
  let v := s.port p.val
  if v.st ≠ 3 then .next s
  else if ok then .next (s.setPort p.val (v.enter 4 0))
  else .next (s.trainingFails p.val 2)

/-- RETRAIN: full training of every sub-port of an enabled port (R233). -/
def execRetrain (n : Fin 32) (s : State) : Host.Outcome State Fault Refusal :=
  .next ((s.portPaths n.val).foldl (fun s p => s.trainIfEnabled p) s)

/-! ## Leaving service (R240, R496) -/

/-- EN of a port cleared: sub-ports that are UP quiesce, the others are DOWN at once (R240). -/
def State.portDisable (s : State) (n : Nat) : State :=
  let s1 := s.setPctl n { s.pctl n with en := false }
  (s1.portPaths n).foldl (fun s p =>
    if (s.port p).st = 9 then s.subportDown p else if (s.port p).st = 1 then s else s.subportQuiesce p) s1

/-- WEN_PORT_DISABLE (R240). -/
def execWenPortDisable (n : Fin 32) (s : State) : Host.Outcome State Fault Refusal := .next (s.portDisable n.val)

/-- SUBPORT_QUIESCE_DONE (R240, R496). -/
def execSubportQuiesceDone (p : Fin 128) (s : State) : Host.Outcome State Fault Refusal :=
  let v := s.port p.val
  if v.st = 8 then .next (s.subportDown p.val)
  else if v.st = 7 && v.follow then .next (s.followDown p.val)
  else .next s

/-! ## Forwarding (R238) -/

/-- PACKET_FORWARD: a packet for another station leaves by its route, or is discarded with a notice. -/
def execPacketForward (k : Packet) (s : State) : Host.Outcome State Fault Refusal :=
  let s1 := s.take k
  if !packetOk k then .next (s1.reject k)
  else if k.dst.toNat = s.station then .next s
  else .next (s1.routePacket k k.path.val)

end Sys2Proof.Machine
end

