-- ==== Sys2Proof/Machine/Packets.lean ====
section
/-! DEFINITION. Packets for this station: collective data, acknowledgements, notices, epochs, tokens, call slips and
firmware messages (spec 06, 09, 10, 11, 17). -/

namespace Sys2Proof.Machine

/-- A packet of one type taken by this station. One of another type, or for another station, is not this command's;
one that breaks R226 or R228 is discarded as malformed. -/
def State.onPacket (s : State) (k : Packet) (ptype : Nat) (f : State → State) : State :=
  if k.ptype.toNat ≠ ptype || !(k.dst.toNat == s.station || (ptype == 0x10 && k.dst == 0xFFFFFF)) then s
  else if !packetOk k then (s.take k).reject k
  else f (s.take k)

/-- A field of a packet's body: `len` bytes at byte `off`. -/
def pf (k : Packet) (off len : Nat) : Nat := leAt k.body off len

/-- Bytes `lo` to 47 of a slip's body are zero. -/
def tailZero (k : Packet) (lo : Nat) : Bool := zeroBytes k.body lo 47

/-! ## DATA (R257, R261-R274) -/

/-- TIDX. -/
def dTidx (k : Packet) : Nat := bitsOf (pf k 0 3) 0 20
/-- ROLE. -/
def dRole (k : Packet) : Nat := bitsOf (pf k 0 3) 20 4
/-- LEN. -/
def dLen (k : Packet) : Nat := pf k 20 2
/-- BOFF. -/
def dBoff (k : Packet) : Nat := pf k 12 4
/-- The payload. -/
def dPayload (k : Packet) : List Byte := bytesAt k.body 32 (dLen k)

/-- The collective header keeps R262: no reserved ROLE, reserved bits zero, LEN in its range and within the packet. -/
def dataOk (k : Packet) : Bool :=
  decide (dRole k ≤ 5) && decide (pf k 3 1 < 8) && decide (pf k 6 2 < 4096) && pf k 11 1 == 0 && zeroBytes k.body 22 31 &&
  decide (1 ≤ dLen k) && decide (dLen k ≤ 4048) && decide (dLen k + 48 ≤ 64 * (k.nslot + 1))

/-- The owner of a tile or granule, where a shard holds it. -/
def State.ownerIn (s : State) (r : ColRec) (t : Nat) : Option Nat :=
  (List.range (s.ranks r)).find? fun o => decide ((s.shard r o).1 ≤ t) && decide (t < (s.shard r o).1 + (s.shard r o).2)

/-- The values and codes of a tile's payload (R263). -/
def Col.tileOf (c : Col) (bs : List Byte) : List Nat × List Nat :=
  ((List.range c.tileE).map fun i => leAt bs (c.packB * i) c.packB % 2 ^ c.tileW,
   (List.range c.tileE).map fun i =>
     let n := codesPerWord c.r.zmode
     let w := leAt bs (c.packB * c.tileE + 4 * (i / n)) 4
     if c.r.zmode then bitsOf w (3 * (i % n)) 3 else bitsOf w (2 * (i % n)) 2)

/-- A tile written at its place in DEST and DCODE by plain writes (R272). -/
def State.writeTile (s : State) (c : Col) (t : Nat) (vals codes : List Nat) : State :=
  let va := c.r.dest.toNat + c.wordB * t * c.tileE
  let n := codesPerWord c.r.zmode
  let ca := c.r.dcode.toNat + 4 * (t * c.tileE / n)
  let s1 := s.write va (vals.flatMap fun v => toLE c.wordB v)
  let s2 : State := { s1 with mem := c.putTile s1.mem c.r.dest.toNat c.r.dcode.toNat t vals codes }
  s2.captureWrite ca (4 * ((t * c.tileE + c.tileE - 1) / n) + 4 + c.r.dcode.toNat - ca)

/-- A ROLE 1 tile: checked, written in its place, sent on to the children of its owner (R270, R272). -/
def State.takeRole1 (s : State) (h : Nat) (c : Col) (k : Packet) : State :=
  let t := dTidx k
  match c.tileFault t (pf k 6 2) (pf k 3 1 % 4) ((pf k 3 1).testBit 2) (dLen k) with
  | some st => s.colFailOwn h st
  | none =>
    let o := s.ownerOf c.r t
    if o = c.r.rank.toNat || c.cur.got.contains t then s.colFailOwn h 0x0712
    else
      s.colGuard h c ((c.tileRanges c.r.dest.toNat c.r.dcode.toNat t 1).drop 1) (c.tileRanges c.r.dest.toNat c.r.dcode.toNat t 1)
        fun s =>
          let vc := c.tileOf (dPayload k)
          let s1 := s.writeTile c t vc.1 vc.2
          let s2 := s1.updRun h fun r => { r with got := r.got ++ [t], first := some (pf k 6 2, pf k 3 1 % 4) }
          (s2.dist c.r o).foldl (fun s d => s.colSend h c d (bytesAt k.body 0 32) (dPayload k)) s2

/-- A ROLE 2 packet: bytes of a shard, written at DEST and sent on to the children of its owner (R271). -/
def State.takeRole2 (s : State) (h : Nat) (c : Col) (k : Packet) : State :=
  match s.ownerIn c.r (dBoff k / 16) with
  | none => s.colFailOwn h 0x0712
  | some o =>
    let sh := s.shard c.r o
    let n := Map.getD c.cur.bytes o 0 + dLen k
    if o = c.r.rank.toNat || 16 * (sh.1 + sh.2) < dBoff k + dLen k || 16 * sh.2 < n then s.colFailOwn h 0x0712
    else
      s.colGuard h c [] [(c.r.dest.toNat + dBoff k, dLen k)] fun s =>
        let s1 := s.write (c.r.dest.toNat + dBoff k) (dPayload k)
        let s2 := s1.updRun h fun r => { r with bytes := Map.put r.bytes o n }
        (s2.dist c.r o).foldl (fun s d => s.colSend h c d (bytesAt k.body 0 32) (dPayload k)) s2

/-- A row piece or a count from a rank recorded (R273): bytes beyond the announced rows, or a count given twice, do not
agree with the plan (R281). -/
def State.takeRow (s : State) (h : Nat) (c : Col) (rank tidx boff tag : Nat) (bs : List Byte) : State :=
  let n := Map.getD c.cur.bytes rank 0 + bs.length
  let most := match Map.find c.cur.counts rank with
    | some w => bitsOf w 0 16 * c.rowBytes
    | none => c.r.cap.toNat * c.rowBytes
  if c.rowBytes < boff + bs.length || most < n then s.colFailOwn h 0x0712
  else
    let a := c.r.dest.toNat + tidx * c.rowBytes + boff
    let b := c.r.dtag.toNat + 4 * tidx
    s.colGuard h c [] [(a, bs.length), (b, 4)] fun s =>
      ((s.write a bs).write b (toLE 4 tag)).updRun h fun r => { r with bytes := Map.put r.bytes rank n }

/-- The count word of a rank (R273). -/
def State.takeCount (s : State) (h : Nat) (c : Col) (rank word : Nat) : State :=
  if (Map.find c.cur.counts rank).isSome || bitsOf word 0 16 * c.rowBytes < Map.getD c.cur.bytes rank 0 then
    s.colFailOwn h 0x0712
  else s.colGuard h c [] [(c.r.rcnt.toNat + 4 * rank, 4)] fun s =>
    (s.write (c.r.rcnt.toNat + 4 * rank) (toLE 4 word)).updRun h fun r => { r with counts := Map.put r.counts rank word }

/-- A ROLE 3 or ROLE 4 packet of an A2A run. -/
def State.takeA2a (s : State) (h : Nat) (c : Col) (k : Packet) : State :=
  match (List.range c.r.nmem.toNat).find? fun o => s.member c.r o == k.src.toNat with
  | none => s.colFailOwn h 0x0712
  | some rank =>
    if dRole k = 4 then s.takeCount h c rank (pf k 16 4)
    else if dTidx k / max 1 c.r.cap.toNat ≠ rank then s.colFailOwn h 0x0712
    else s.takeRow h c rank (dTidx k) (dBoff k) (pf k 16 4) (dPayload k)

/-- An outgoing run of a permute that has not been read yet overlaps a byte range of the buffer. -/
def State.permOverlap (s : State) (c : Col) (off len : Nat) : Bool :=
  !c.cur.sentAll && (List.range (s.planTab c.r 6).2).any fun i =>
    let m := s.moveOf c.r i
    decide (m.1 < off + len) && decide (off < m.1 + m.2.2.2)

/-- Bytes of a permute that wait in scratch. -/
def Col.inScratch (c : Col) : Nat := (c.cur.held.map fun x => x.2.2).sum

/-- Permute bytes for this station: written in place, or in scratch while an outgoing run still has to read what they
would cover; bytes beyond PIN fail the run (R274). -/
def State.takePerm (s : State) (h : Nat) (c : Col) (off : Nat) (bs : List Byte) : State :=
  let n := bs.length
  let used := c.inScratch
  if c.r.pin.toNat < c.cur.taken + used + n then s.colFailOwn h 0x0712
  else if s.permOverlap c off n then
    s.colGuard h c [] [(c.r.scr.toNat + used, n)] fun s =>
      (s.write (c.r.scr.toNat + used) bs).updRun h fun r => { r with held := r.held ++ [(off, used, n)] }
  else s.colGuard h c [] [(c.r.src.toNat + off, n)] fun s =>
    (s.write (c.r.src.toNat + off) bs).updRun h fun r => { r with taken := r.taken + n }

/-- A DATA packet of the current run taken by its role (R262). A role that the kind does not use is inconsistent with
the plan. -/
def State.takeData (s : State) (h : Nat) (c : Col) (k : Packet) : State :=
  s.colPlanned h c fun s => match dRole k with
  | 0 =>
    if c.sums then
      let vc := c.tileOf (dPayload k)
      s.acceptTile h (dTidx k) (pf k 8 3) (pf k 6 2) (pf k 3 1 % 4) ((pf k 3 1).testBit 2) (dLen k) vc.1 vc.2 false
    else s.colFailOwn h 0x0712
  | 1 => if c.isAr then s.takeRole1 h c k else s.colFailOwn h 0x0712
  | 2 => if c.gathers then s.takeRole2 h c k else s.colFailOwn h 0x0712
  | 5 => if c.isPerm then s.takePerm h c (dBoff k) (dPayload k) else s.colFailOwn h 0x0712
  | _ => if c.isA2a then s.takeA2a h c k else s.colFailOwn h 0x0712

/-- The run of a packet against the collective's state: to be taken, not armed (R257), or stale (R261), as `.inr` tells
true or false. The words of R261 make a packet for the next run stale on a station in IDLE (log entry 111). -/
def Col.runCheck (c : Col) (run : Nat) : Sum Unit Bool :=
  if (c.st == .armed || c.st == .running) && run == c.run then .inl ()
  else .inr (run == c.run || (c.st == .complete && run == (c.run + 1) % 65536))

/-- A packet of a collective against the epoch recorded for its source: the first one is recorded, and one of another
epoch is stale (R245, R261). -/
def State.epochChecked (s : State) (h : Nat) (c : Col) (k : Packet) (f : State → Col → State) : State :=
  let e := (Map.find c.epochs k.src.toNat).getD k.sepoch.toNat
  if e ≠ k.sepoch.toNat then s.count (ctrPort k.path.val + 14)
  else
    let c1 := { c with epochs := Map.put c.epochs k.src.toNat e }
    f (s.setCol h c1) c1

/-- A DATA packet checked: header, the collective it names, its SEPOCH, its run (R245, R257, R261, R262). -/
def State.onData (s : State) (k : Packet) : State :=
  if !dataOk k then s.reject k
  else
    let h := k.flow.toNat
    match s.col h with
    | none => s.noticeOf k 0x0321 k.path.val
    | some c =>
      if c.waiting || c.r.ctx != k.ctx then s.noticeOf k 0x0321 k.path.val
      else s.epochChecked h c k fun s c =>
        match c.runCheck (pf k 4 2) with
        | .inl () => s.takeData h c k
        | .inr true => s.noticeOf k 0x0325 k.path.val
        | .inr false => s.count (ctrDev 51)

/-- A permute packet finds no room in scratch: it waits in the receive buffer, its slots taken, until the outgoing runs
have been read (R274). -/
def State.permWaits (s : State) (k : Packet) : Bool :=
  k.ptype == 1 && packetOk k && dataOk k && dRole k == 5 && k.dst.toNat == s.station &&
  (match s.col k.flow.toNat with
   | none => false
   | some c =>
     c.isPerm && !c.waiting && c.r.ctx == k.ctx && (Map.find c.epochs k.src.toNat).all (· == k.sepoch.toNat) &&
     (match c.runCheck (pf k 4 2) with | .inl () => true | .inr _ => false) &&
     decide (c.cur.taken + c.inScratch + dLen k ≤ c.r.pin.toNat) && s.planStatus c.r == 0 &&
     s.permOverlap c (dBoff k) (dLen k) && decide (c.r.scrlen.toNat < c.inScratch + dLen k))

/-- DATA (R262). A permute packet that waits in the receive buffer is met again by a later DATA (R274). -/
def execData (k : Packet) (s : State) : Host.Outcome State Fault Refusal :=
  if s.permWaits k then .next s else .next (s.onPacket k 1 fun s => s.onData k)

/-! ## CACK, NOTICE, EPOCH -/

/-- A stake slip of a queue of context `c` is acknowledged by bytes that repeat its own (R242, R264): it is no longer
outstanding, and an entry that waits for it ends. -/
def State.ackIn (s : State) (c : Nat) (bs : List Byte) : State :=
  match s.fab.acks.find? fun k => keyCtx (k.1 / 4) == c && k.2 == bs with
  | none => s
  | some k =>
    let key := k.1 / 4
    let q := ixQ (k.1 % 4)
    let s1 : State := { s with fab := { s.fab with acks := s.fab.acks.erase k } }
    if s1.fab.acks.any fun j => j.1 == k.1 then s1
    else s1.onSaved c [keyUnit key] fun s =>
      match (s.queue key q).head with
      | some ⟨_, _, .ack⟩ => s.endWait key q 0
      | _ => s

/-- A CACK: the fence that its slip requested is complete (R264). A FLOW of a collective that is not open here, or open
for another context, is answered with a notice; a stale one of an open collective is discarded (R245). -/
def State.onCack (s : State) (k : Packet) : State :=
  if pf k 0 1 ≠ 1 || pf k 7 1 ≠ 0 then s.reject k
  else if k.flow = 0 then s.ackIn k.ctx.toNat (bytesAt k.body 1 6)
  else match (s.col k.flow.toNat).filter fun c => !c.waiting && c.r.ctx == k.ctx with
    | none => s.noticeOf k 0x0321 k.path.val
    | some c => s.epochChecked k.flow.toNat c k fun s _ => s.ackIn k.ctx.toNat (bytesAt k.body 1 6)

/-- CACK (R264). -/
def execCack (k : Packet) (s : State) : Host.Outcome State Fault Refusal := .next (s.onPacket k 2 fun s => s.onCack k)

/-- EPOCH: every stake with a remote owner in the contexts of the mask is abandoned (R162, R417). -/
def State.onEpoch (s : State) (k : Packet) : State :=
  if (unitRef (pf k 0 4)).isNone || !tailZero k 7 then s.malformed k
  else (s.abandonAll fun key e => bit e 21 && (pf k 6 1).testBit (keyCtx key)).colAbandonCheck

/-- EPOCH (R417). -/
def execEpoch (k : Packet) (s : State) : Host.Outcome State Fault Refusal := .next (s.onPacket k 5 fun s => s.onEpoch k)

/-! ## BENCHMARK (R289-R293) -/

/-- A token that arrived at `t`: taken only on the parent path of a follower; followed, and sent on (R290, R293). -/
def State.onToken (s : State) (k : Packet) (t : Nat) : State :=
  match tokenOf k with
  | none => s.malformed k
  | some tok =>
    if s.brg.role || !s.brg.tpv || s.brg.tparent ≠ k.path.val then s
    else
      let w := (s.port k.path.val).oneway
      (s.takeToken tok w t).forwardToken k w t

/-- BENCHMARK (R293). -/
def execBenchmark (k : Packet) (t : Nat) (s : State) : Host.Outcome State Fault Refusal :=
  .next (s.onPacket k 0x10 fun s => s.onToken k t)

/-! ## Closure slips (R164-R167, R242) -/

/-- The body of a closure slip keeps R242. -/
def closureSlipOk (k : Packet) (fails : Bool) : Bool :=
  decide (pf k 0 2 < 2 ^ 14) && tailZero k 4 && (if fails then pf k 2 2 == 0x0504 || pf k 2 2 == 0x0602 else pf k 2 2 == 0)

/-- The open closure context that a slip names, with its CID, when the slip is of the closure's context. -/
def State.slipClosure (s : State) (k : Packet) : Option (Nat × Closure) :=
  let cid := pf k 0 2 % 1024
  let c := s.closure cid
  if c.st == .opened && c.ctx == bitsOf (pf k 0 2) 10 3 then some (cid, c) else none

/-- ARRIVE: a child has arrived. -/
def State.onArrive (s : State) (k : Packet) : State :=
  if !closureSlipOk k false || !(s.closure (pf k 0 2 % 1024)).child.contains k.src.toNat then s.malformed k
  else match s.slipClosure k with
    | none => s
    | some (cid, c) =>
      if (pf k 0 2).testBit 13 != c.parity then s
      else (s.countArrival cid).closureCheck 2 cid

/-- ARRIVE (R166). -/
def execArrive (k : Packet) (s : State) : Host.Outcome State Fault Refusal :=
  .next (s.onPacket k 0x11 fun s => s.onArrive k)

/-- COMPLETE: the round completes here, and admitted arrivals may fill the next one. -/
def State.onComplete (s : State) (k : Packet) : State :=
  if !closureSlipOk k false then s.malformed k
  else match s.slipClosure k with
    | none => s
    | some (cid, c) =>
      if c.parent ≠ k.src.toNat || (pf k 0 2).testBit 13 != c.parity then s
      else ((s.roundDone cid).closureEnds cid false).closureCheck 2 cid

/-- COMPLETE (R166). -/
def execComplete (k : Packet) (s : State) : Host.Outcome State Fault Refusal :=
  .next (s.onPacket k 0x12 fun s => s.onComplete k)

/-- FAIL: the context fails, and the other tree neighbours hear of it. -/
def State.onFail (s : State) (k : Packet) : State :=
  if !closureSlipOk k true then s.malformed k
  else match s.slipClosure k with
    | none => s
    | some (cid, _) => s.closureFail cid (pf k 2 2) (some k.src.toNat)

/-- FAIL (R167). -/
def execFail (k : Packet) (s : State) : Host.Outcome State Fault Refusal := .next (s.onPacket k 0x13 fun s => s.onFail k)

/-! ## SLIPRED (R269, R275) -/

/-- The fields of a reduction slip keep R275 and agree with the record. -/
def Col.slipOk (c : Col) (k : Packet) : Bool :=
  let f := c.slipForm
  decide (pf k 0 2 < 4096) && pf k 4 1 == f.1 && pf k 5 1 == f.2.1 && pf k 6 1 % 64 == f.2.2 - 1 && decide (pf k 6 1 < 128) &&
  zeroBytes k.body 7 15 && zeroBytes k.body (16 + f.2.2) 47 && (c.isSlip || c.sums)

/-- A contribution of a child (R256, R275): combined into the current run, held for the next one of a SLIP collective
that is not running, or discarded. -/
def State.slipUp (s : State) (h : Nat) (c : Col) (k : Packet) (bs : List Byte) : State :=
  let live := c.st == .running || (c.st == .armed && !c.isSlip)
  let child := c.schild.contains k.src.toNat
  if live && child && pf k 2 2 == c.run && !c.cur.slipFrom.contains k.src.toNat then s.slipAdd h (some k.src.toNat) bs
  else if c.isSlip && (c.st == .idle || c.st == .complete) && child && pf k 2 2 == (c.run + 1) % 65536 &&
      !(c.early.any fun x => x.1 == k.src.toNat) then
    s.setCol h { c with early := c.early ++ [(k.src.toNat, bs)] }
  else s.malformed k

/-- A reduction slip. -/
def State.onSlipred (s : State) (k : Packet) : State :=
  let h := pf k 0 2 % 4096
  match s.col h with
  | none => s.malformed k
  | some c =>
    if c.waiting || !c.slipOk k then s.malformed k
    else s.epochChecked h c k fun s c =>
      let bs := bytesAt k.body 16 c.slipForm.2.2
      if !(pf k 6 1).testBit 6 then s.slipUp h c k bs
      else if c.st == .running && pf k 2 2 == c.run && c.r.sparent == k.src && c.cur.slipUp && !c.cur.result then
        s.slipResult h bs
      else s.malformed k

/-- SLIPRED (R275). -/
def execSlipred (k : Packet) (s : State) : Host.Outcome State Fault Refusal :=
  .next (s.onPacket k 0x14 fun s => s.onSlipred k)

/-! ## Station tracts (R151, R153, R242) -/

/-- An entry run by a parcel in its queue, as if its tract had issued it. -/
def State.runEntry (s : State) (c p a : Nat) (q : Q) (e : Entry) : State :=
  match q with
  | .m => s.mRun c p a e
  | .v => s.vExec c p a e
  | .x => s.xExec c p a e
  | .s => s.endEntry c p .s a 0x0803

/-- An entry of a station tract runs on every parcel reached through queues bound to their tracts, from the die down. -/
def State.tractEntry (s : State) (c : Nat) (q : Q) (e : Entry) : State :=
  let die := 17476
  let w := s.queue (engKey c die) q
  if !w.fed || !s.runsIn c die then s
  else ((s.advance c die q).count (ctrBase die + 3)).passAll c die q w.pc e fun s c p a e => s.runEntry c p a q e

/-- An STENTRY slip keeps R242 and carries an entry that a tract passes on (R153). -/
def stentryOk (k : Packet) : Bool :=
  decide (pf k 2 1 < 4) && zeroBytes k.body 3 15 && tailZero k 32 &&
  !(decide (0xF0 ≤ pf k 16 1) && decide (pf k 16 1 ≤ 0xFA))

/-- STENTRY (R242). A handle that this station has not joined is none of its own. -/
def execStentry (k : Packet) (s : State) : Host.Outcome State Fault Refusal :=
  if k.ptype ≠ 0x15 || k.dst.toNat ≠ s.station then .next s
  else if !packetOk k then .next ((s.take k).reject k)
  else if !stentryOk k then .next ((s.take k).malformed k)
  else if (Map.find s.stracts (pf k 0 2)).isNone then .next (s.take k)
  else .next ((s.take k).tractEntry k.ctx.toNat (ixQ (pf k 2 1)) (BitVec.ofNat 128 (pf k 16 16)))

/-- A STAKE slip keeps R242. -/
def stakeSlipOk (k : Packet) : Bool :=
  decide (pf k 3 1 < 2) && decide (pf k 4 1 < 48) && decide (pf k 5 1 < 2) && decide (pf k 6 1 < 2) && tailZero k 7 &&
  (if pf k 3 1 = 1 then pf k 2 1 == 0 else (pathUnit (pf k 0 3)).isSome && decide (pf k 0 3 < 2 ^ 17))

/-- Where a STAKE slip's stake lies: a unit of the context, or a station tract whose home is here. -/
def State.slipHolder (s : State) (k : Packet) : Option Nat :=
  let c := k.ctx.toNat
  if pf k 3 1 = 1 then
    match Map.find s.stracts (pf k 0 2) with
    | some t => if t.home = s.station && !s.unitBusy 17476 then some (engKey c (stractUnit (pf k 0 2))) else none
    | none => none
  else match pathUnit (pf k 0 3) with
    | some u => if inFoot (s.ctx c).foot u && !s.unitBusy u then some (engKey c u) else none
    | none => none

/-- A STAKE slip: the stake operation, and its acknowledgement where one is requested. A stake that is not here, or
lies in a unit that takes no request, is left alone. -/
def State.onStake (s : State) (k : Packet) : State :=
  if !stakeSlipOk k then s.malformed k
  else match s.slipHolder k with
    | none => s
    | some h =>
      let s1 := s.stakeOpAny h (pf k 4 1) (pf k 5 1 == 0)
      if pf k 6 1 = 1 then
        s1.sendOn (s1.packet 4 k.src.toNat 2 0 k.ctx.toNat (bytesAt (1 :: bytesAt k.body 0 6) 0 48))
      else s1

/-- STAKE (R242). -/
def execStake (k : Packet) (s : State) : Host.Outcome State Fault Refusal := .next (s.onPacket k 0x16 fun s => s.onStake k)

/-! ## Firmware messages (R243) -/

/-- MLEN. -/
def fwLen (k : Packet) : Nat := pf k 4 2
/-- The payload of a firmware message. -/
def fwPayload (k : Packet) : List Byte := bytesAt k.body 16 (fwLen k)

/-- The body of a firmware message keeps R243. -/
def fwOk (k : Packet) : Bool :=
  decide (fwLen k ≤ 4064) && decide (fwLen k + 32 ≤ 64 * (k.nslot + 1)) && decide (pf k 6 1 < 2) && zeroBytes k.body 7 15

/-- A firmware message of one channel: applied once for each MSEQ of its sender, and answered as often as it comes where
it asks for that (R243). `f` gives the state and the status of the answer. -/
def State.onFw (s : State) (k : Packet) (chan : Nat) (shape : Bool) (f : State → State × Nat) : State :=
  s.onPacket k 3 fun s =>
    if k.flow.toNat ≠ chan then s
    else if !fwOk k || !shape then s.reject k
    else
      let src := k.src.toNat
      let n := pf k 0 4
      let old := s.fab.answered.find? fun a => a.1 == src && a.2.1 == n
      let r := match old with
        | some a => (s, a.2.2)
        | none =>
          let r := f s
          ({ r.1 with fab := { r.1.fab with answered := r.1.fab.answered ++ [(src, n, r.2)] } }, r.2)
      if pf k 6 1 = 1 then r.1.fwmsg src 5 (toLE 4 n ++ toLE 2 r.2 ++ toLE 2 chan) none else r.1

/-- STJOIN: the handle recorded, unless 256 station tracts are. -/
def execStjoin (k : Packet) (s : State) : Host.Outcome State Fault Refusal :=
  let b := fwPayload k
  let shape := fwLen k == 12 && decide (5 ≤ leAt b 5 1) && decide (leAt b 5 1 ≤ 10) && decide (leAt b 6 1 < 8) && leAt b 7 1 == 0
  .next (s.onFw k 1 shape fun s =>
    let h := leAt b 0 2
    if (Map.find s.stracts h).isNone && 256 ≤ s.stracts.length then (s, 0x0206)
    else ({ s with stracts := Map.put s.stracts h ⟨leAt b 2 3, leAt b 5 1, []⟩ }, 0))

/-- STLEAVE: the handle forgotten. -/
def execStleave (k : Packet) (s : State) : Host.Outcome State Fault Refusal :=
  .next (s.onFw k 2 (fwLen k == 2) fun s => ({ s with stracts := Map.del s.stracts (leAt (fwPayload k) 0 2) }, 0))

/-- Route entries written from `first` up; an entry with a reserved NP stays as it was (R237). -/
def State.routeLoad (s : State) (rtl : Bool) (first : Nat) (es : List Nat) : State :=
  es.zipIdx.foldl (fun s x =>
    let e := x.1 % 2 ^ 31
    let i := first + x.2
    if 4 < bitsOf e 28 3 || 8192 ≤ i then s
    else if rtl then { s with fab := { s.fab with rtl := Map.putD s.fab.rtl i e 0 } }
    else { s with fab := { s.fab with rtr := Map.putD s.fab.rtr i e 0 } }) s

/-- ROUTEPUSH: applied as ROUTE_LOAD, whose checks its payload must pass, when the sender is a listed route source (R243, R361,
R441). -/
def execRoutepush (k : Packet) (s : State) : Host.Outcome State Fault Refusal :=
  let b := fwPayload k
  let n := leAt b 4 2
  let shape := fwLen k == 8 + 4 * n
  .next (s.onFw k 3 shape fun s =>
    if !(Config.routeSources (s.activeDigest 5)).contains k.src.toNat then (s, 0x0346)
    else if n = 0 || 1022 < n || 8192 < leAt b 2 2 + n || !paramsOk 0x0402 b then (s, 0x0801)
    else (s.routeLoad ((leAt b 0 1).testBit 0) (leAt b 2 2) ((List.range n).map fun i => leAt b (8 + 4 * i) 4), 0))

/-- RELAY: the report leaves on this station's management port. -/
def execRelay (k : Packet) (s : State) : Host.Outcome State Fault Refusal :=
  .next (s.onFw k 4 (fwLen k == 256) fun s =>
    (if s.mod.mgmtUp then { s with out := .report (fwPayload k) :: s.out } else s, 0))

/-- A command whose firmware messages are answered ends: with a refusal at once, and then a station tract is not set up
(R371), or with DONE when none of its messages waits any more. -/
def State.fwAnswered (s : State) (r : Started) (status : Nat) : State :=
  match s.cmd.started.find? (· == r) with
  | none => s
  | some _ =>
    if status ≠ 0 then (if r.op == 0x0403 then s.giveUp r else s).finish r status
    else if s.fab.waiting.any fun w => w.cmd == some r then s
    else s.finish r 0

/-- A message waits no more, and its command hears its status. -/
def State.messageEnds (s : State) (w : FwMsg) (status : Nat) : State :=
  let s1 : State := { s with fab := { s.fab with waiting := s.fab.waiting.erase w } }
  match w.cmd with
  | some r => s1.fwAnswered r status
  | none => s1

/-- A notice handed to the operation that owns its FLOW: a collective, or the command whose firmware messages on that
channel to that station wait for their answers (R245, R260; log entry 108). A CACK of FLOW 0 acknowledges a stake slip, and
no operation of this station owns it (log entry 86). -/
def State.takeNotice (s : State) (body : List Byte) : State :=
  let flow := leAt body 6 2
  if leAt body 8 1 = 1 || (leAt body 8 1 = 2 && flow ≠ 0) then s.colFail (flow % 4096) (leAt body 0 2) (leAt body 2 3)
  else if leAt body 8 1 = 3 then
    (s.fab.waiting.filter fun w => w.chan == flow && w.dst == leAt body 9 3).foldl (fun s w => s.messageEnds w (leAt body 0 2)) s
  else s

/-- NOTICE (R245, R260). -/
def execNotice (k : Packet) (s : State) : Host.Outcome State Fault Refusal :=
  .next (s.onPacket k 4 fun s => s.takeNotice k.body)

/-- MACK: the message it names waits no more. -/
def State.onMack (s : State) (k : Packet) : State :=
  let b := fwPayload k
  match s.fab.waiting.find? fun w => w.mseq == leAt b 0 4 && w.dst == k.src.toNat && w.chan == leAt b 6 2 with
  | none => s
  | some w => s.messageEnds w (leAt b 4 2)

/-- MACK (R243). -/
def execMack (k : Packet) (s : State) : Host.Outcome State Fault Refusal :=
  .next (s.onPacket k 3 fun s =>
    if k.flow ≠ 5 then s else if !fwOk k || fwLen k ≠ 8 || pf k 6 1 ≠ 0 then s.reject k else s.onMack k)

/-- FWMSG_RETRY_EXPIRY: the message sent again with its MSEQ, or, after three repetitions, its command ended with 0x0761
(R243). -/
def execFwmsgRetryExpiry (mseq : BitVec 32) (s : State) : Host.Outcome State Fault Refusal :=
  match s.fab.waiting.find? fun w => w.mseq == mseq.toNat with
  | none => .next s
  | some w =>
    if w.tries < 3 then
      let f := { s.fab with waiting := s.fab.waiting.map fun x => if x = w then { x with tries := x.tries + 1 } else x }
      let s1 : State := { s with fab := f }
      .next (s1.sendOn (s1.fwPacket w.dst w.chan w.mseq true w.payload))
    else .next (s.messageEnds w 0x0761)

end Sys2Proof.Machine
end

