-- ==== Sys2Proof/Machine/Collectives.lean ====
section
/-! DEFINITION. Collectives: opening, admission, closing, and the commands of a run (spec 10, R247-R281). -/

namespace Sys2Proof.Machine

/-! ## Checks at open (R249-R252) -/

/-- An address lies in HBM, or in a shelf-mode shelf open to the context (R178, R250). -/
def State.colAddrOk (s : State) (c a : Nat) : Bool :=
  match region a with
  | .hbm => true
  | .shelf n => (s.shelf n).mode == 2 && (s.shelf n).ctxm.testBit c
  | _ => false

/-- A stake reference names a stake of a unit of the context. -/
def State.refOk (s : State) (c w : Nat) : Bool :=
  match stakeRef c w with
  | some h => inFoot (s.ctx c).foot (keyUnit h.1)
  | none => false

/-- Fields that every kind but SLIP uses (R249): zero for SLIP, in range otherwise. -/
def groupOk (r : ColRec) (slip : Bool) : Bool :=
  if slip then r.vl == 0 && r.nmem == 0 && r.rank == 0 && r.arm == 0
  else decide (1 ≤ r.nmem.toNat) && decide (r.nmem.toNat ≤ 65536) && decide (r.rank.toNat < r.nmem.toNat)

/-- Fields of RS and AR. -/
def sumFieldsOk (r : ColRec) (sums : Bool) : Bool :=
  if sums then
    decide (r.sreq.toNat ≤ 4096) && decide (r.smin.toNat ≤ r.sreq.toNat) && r.tw != 3 &&
    decide (1 ≤ r.ntile.toNat) && decide (r.ntile.toNat ≤ 1048576) &&
    decide (64 * 2 ^ r.te.toNat * (match r.tw.toNat with | 0 => 24 | 1 => 32 | _ => 64) ≤ 16384)
  else
    r.acls == 0 && r.sreq == 0 && r.smin == 0 && r.te == 0 && r.tw == 0 && !r.zmode && !r.stream && r.ntile == 0 &&
    r.scode == 0 && r.voteadr == 0 && r.votein == 0

/-- Fields of A2A. -/
def a2aFieldsOk (r : ColRec) (a2a : Bool) : Bool :=
  if a2a then
    r.rowb.toNat % 16 == 0 && decide (1 ≤ r.cap.toNat) && decide (r.nmem.toNat * r.cap.toNat ≤ 1048576)
  else r.rowb == 0 && r.cap == 0 && r.sexp == 0 && r.dtag == 0 && r.rcnt == 0

/-- Fields of PERM. -/
def permFieldsOk (r : ColRec) (perm : Bool) : Bool :=
  if perm then r.scrlen.toNat % 16 == 0 else r.scr == 0 && r.scrlen == 0 && r.pin == 0

/-- SOP, SFMT, SLEN and DATUMW (R275, R276). -/
def slipFieldsOk (r : ColRec) (slip : Bool) : Bool :=
  if slip then
    let f := fmtOf r.sfmt.toNat
    let whole := (f.any fun f => 0 < memBytes f && r.slen.toNat % memBytes f == 0)
    decide (1 ≤ r.slen.toNat) && decide (r.slen.toNat ≤ 32) && decide (r.sop.toNat ≤ 3) &&
    (match r.sop.toNat with
     | 2 => true
     | 3 => (f == some .t32 || f == some .t64) && whole
     | _ => (f.any fun f => f != .fp4 && f != .u8 && f != .s4 && f != .l4) && whole) &&
    (!r.datumw || (r.sop == 0 && r.sfmt == 13 && r.slen == 4))
  else r.sop == 0 && r.sfmt == 0 && r.slen == 0 && !r.datumw

/-- The record's fields lie in their ranges, and those that the kind does not use are zero (R249, R250). -/
def recordOk (r : ColRec) (schild : List (BitVec 24)) : Bool :=
  let k := r.kind.toNat
  let sums := k == 0 || k == 2
  let slip := k == 6
  let tree := sums || slip
  decide (k ≤ 6) && (r.limit == 0 || (decide (1000 ≤ r.limit.toNat) && decide (r.limit.toNat ≤ 60000000))) &&
  groupOk r slip && sumFieldsOk r sums && a2aFieldsOk r (k == 3) && permFieldsOk r (k == 4) && slipFieldsOk r slip &&
  (sums || k == 3 || r.runadr == 0) &&
  (if tree then (r.sparent == 0xFFFFFF || stationOk r.sparent.toNat) && decide (schild.length ≤ 128) &&
      schild.all fun x => stationOk x.toNat
   else r.sparent == 0 && schild.isEmpty)

/-- Every address and stake reference of the record is usable by its context (R250). -/
def State.recordPlaces (s : State) (r : ColRec) : Bool :=
  let c := r.ctx.toNat
  [r.plan, r.src, r.scode, r.dest, r.dcode, r.sexp, r.dtag, r.rcnt, r.scr, r.runadr, r.cadr, r.voteadr, r.votein].all
    (fun a => s.colAddrOk c a.toNat) &&
  (r.kind.toNat == 6 || s.refOk c r.arm.toNat) && s.refOk c r.start.toNat && s.refOk c r.done.toNat

/-- The shards give every tile or granule of the buffer to one rank (R252), in any order of FIRST. -/
def State.shardsOk (s : State) (r : ColRec) (total : Option Nat) : Bool :=
  let es := (List.range (s.ranks r)).map (s.shard r)
  let used := sortBy (fun (x y : Nat × Nat) => decide (x.1 ≤ y.1)) (es.filter fun e => e.2 != 0)
  let done := used.foldl (fun a e => a.bind fun n => if e.1 = n then some (n + e.2) else none) (some 0)
  match done, total with
  | some n, some t => n == t
  | some _, none => true
  | none, _ => false

/-- The MEMBER table: NMEM entries, this station at RANK (R252). -/
def State.membersOk (s : State) (r : ColRec) : Bool :=
  (s.planTab r 1).2 == r.nmem.toNat && s.planAt r 1 4 r.rank.toNat == s.station

/-- Stations of the group. -/
def State.group (s : State) (r : ColRec) : List Nat := (List.range r.nmem.toNat).map (s.member r)

/-- The MERGE table (R252). -/
def State.mergeOk (s : State) (r : ColRec) : Bool :=
  let g := s.group r
  (s.planTab r 2).2 == r.nmem.toNat && (s.mergeOf r r.rank.toNat).2 == r.nmem.toNat &&
  (List.range r.nmem.toNat).all fun o =>
    let m := s.mergeOf r o
    decide (1 ≤ m.2) && decide (m.2 ≤ r.nmem.toNat) &&
    (o == r.rank.toNat || (m.1 != s.station && g.contains m.1))

/-- The DIST lists (R252). -/
def State.distOk (s : State) (r : ColRec) : Bool :=
  let g := s.group r
  (s.planTab r 3).2 == r.nmem.toNat &&
  (List.range r.nmem.toNat).all fun o =>
    let v := s.planAt r 3 8 o
    decide (bitsOf v 32 8 ≤ 128) && decide (bitsOf v 0 32 + bitsOf v 32 8 ≤ (s.planTab r 4).2) && (s.dist r o).all g.contains

/-- The PLACE table (R252). -/
def State.placeOk (s : State) (r : ColRec) : Bool :=
  decide ((s.planTab r 5).2 ≤ 4096) && (List.range (s.planTab r 5).2).all fun e => decide (s.planAt r 5 4 e % 65536 < r.nmem.toNat)

/-- The MOVE table (R251, R252). -/
def State.movesOk (s : State) (r : ColRec) : Bool :=
  (List.range (s.planTab r 6).2).all fun i =>
    let v := s.planAt r 6 16 i
    let m := s.moveOf r i
    bitsOf v 32 16 == 0 && m.1 % 16 == 0 && m.2.2.1 % 16 == 0 && m.2.2.2 % 16 == 0 && decide (m.2.1 < r.nmem.toNat) &&
    decide (m.1 + m.2.2.2 ≤ 2 ^ 32) && decide (m.2.2.1 + m.2.2.2 ≤ 2 ^ 32)

/-- The plan passes R252 and holds the tables that R251 requires of its kind. -/
def State.planOk (s : State) (r : ColRec) : Bool :=
  let one := ((List.range (s.ranks r)).filter fun o => (s.shard r o).2 != 0).length ≤ 1
  match r.kind.toNat with
  | 6 => (List.range 7).all fun i => (s.planTab r i).2 == 0
  | 0 => s.membersOk r && s.ranks r == r.nmem.toNat && s.shardsOk r (some r.ntile.toNat) && s.mergeOk r
  | 2 => s.membersOk r && s.ranks r == r.nmem.toNat && s.shardsOk r (some r.ntile.toNat) && s.mergeOk r && s.distOk r
  | 1 => s.membersOk r && s.ranks r == r.nmem.toNat && s.shardsOk r none && s.distOk r
  | 5 => s.membersOk r && s.ranks r == r.nmem.toNat && s.shardsOk r none && s.distOk r && one
  | 3 => s.membersOk r && s.placeOk r
  | _ => s.membersOk r && s.movesOk r

/-- The status with which an open is answered at once; none when it enters a round (R250, R278). -/
def State.openStatus (s : State) (r : ColRec) (schild : List (BitVec 24)) : Option Nat :=
  if !recordOk r schild || !s.recordPlaces r then some 0x0806
  else if s.planStatus r ≠ 0 then some (if s.planStatus r = 0x0723 then 0x0723 else 0x0806)
  else if !s.planOk r then some 0x0806
  else if 4096 ≤ s.cols.length then some 0x0205
  else if (s.col r.handle.toNat).isSome then some 0x0323
  else if r.zmode && (s.domSize = 0 || 65536 < s.domSize) then some 0x0324
  else none

/-- An open reads an uncorrectable plan: the line goes into the fault log (R189). -/
def State.planUnc (s : State) (r : ColRec) : State :=
  s.lineUnc (((s.planRanges r).flatMap fun x => s.badKeys x.1 x.2).headD r.plan.toNat) codeMgmt

/-- The plan read at its open, by requests of the control class (R179, R183, R252). -/
def State.planRead (s : State) (r : ColRec) : State :=
  (s.planRanges r).foldl (fun s x => s.access .control false x.1 x.2) s

/-- COL_OPEN (R249, R250, R253): the collective enters the next round. LIMIT 0 takes the T3 value in force (R412). -/
def execColOpen (h : Hdr) (r : ColRec) (schild : List (BitVec 24)) (s : State) : Host.Outcome State Fault Refusal :=
  .next (s.command h 0x0407 (Instr.params (.colOpen h r schild)) fun s rec =>
    match s.openStatus r schild with
    | some st => (if st = 0x0723 then s.planUnc r else s).finish rec st
    | none =>
      let c : Col := { r := r, schild := schild.map (·.toNat), acc := rec.acc, waiting := true, grant := 0, reason := 0,
                       limit := if r.limit = 0 then s.flt.wlim.getD 3 0 else r.limit.toNat,
                       st := .idle, run := 0, cur := ColRun.empty, epochs := [], early := [] }
      ((s.planRead r).setCol r.handle.toNat c).begin rec)

/-! ## Admission (R253, R254) -/

/-- Free fabric slots. -/
def State.freeSlotsCol (s : State) : Nat := 4096 - (s.cols.map fun kv => kv.2.grant).sum

/-- Free slots within the reservation: class 0 takes reserved slots before unreserved ones. -/
def State.freeReserved (s : State) : Nat :=
  s.slotRes - ((s.cols.filter fun kv => kv.2.r.acls == 0).map fun kv => kv.2.grant).sum

/-- Grant and REASON of an RS or AR collective (R254). -/
def State.admit1 (s : State) (r : ColRec) : Nat × Nat :=
  let av := if r.acls = 0 then s.freeSlotsCol else s.freeSlotsCol - s.freeReserved
  let sreq := r.sreq.toNat
  if sreq = 0 then (0, 3)
  else if sreq ≤ av then (sreq, 0)
  else if max r.smin.toNat 1 ≤ av then (av, 1)
  else (0, 2)

/-- One collective of a round granted its slots and opened, with its receipt. -/
def State.admitCol (s : State) (h : Nat) : State :=
  match s.col h with
  | none => s
  | some c =>
    let g := if c.sums then s.admit1 c.r else (0, 0)
    let s1 := s.setCol h { c with waiting := false, grant := g.1, reason := g.2 }
    let res := toLE 2 g.1 ++ toLE 2 c.r.sreq.toNat ++ toLE 2 g.2 ++ toLE 2 s1.freeSlotsCol
    s1.finishAll (fun x => x.op == 0x0407 && x.names objCol h) (if g.2 = 1 || g.2 = 2 then 1 else 0) res

/-- ADMISSION_ROUND: every waiting open, by ACLS and then by accession number. -/
def execAdmissionRound (s : State) : Host.Outcome State Fault Refusal :=
  let ws := s.cols.filter fun kv => kv.2.waiting
  let order := sortBy (fun (x y : Nat × Col) =>
    decide (x.2.r.acls.toNat < y.2.r.acls.toNat) || (x.2.r.acls == y.2.r.acls && decide (x.2.acc ≤ y.2.acc))) ws
  .next (order.foldl (fun s kv => s.admitCol kv.1) s)

/-- COL_CLOSE (R255): slots and handle released, staged tiles discarded with the collective (R119). An MFIN
that waits for staging is looked at again where it stands (log entry 122). -/
def execColClose (h : Hdr) (handle : BitVec 16) (s : State) : Host.Outcome State Fault Refusal :=
  .next (s.command h 0x0408 (Instr.params (.colClose h handle)) fun s rec =>
    match s.col handle.toNat with
    | none => s.finish rec 0x0732
    | some c =>
      if c.waiting then s.finish rec 0x0732
      else if c.st == .armed || c.st == .running then s.finish rec 0x0323
      else ({ s.dropTiles handle.toNat with cols := Map.del s.cols handle.toNat }).finish rec 0)

/-! ## Arming and starting (R256) -/

/-- The state of a stake reference of a collective. -/
def State.refState (s : State) (c : Col) (w : Nat) : StakeSt :=
  match stakeRef c.r.ctx.toNat w with
  | some h => s.stakeNow h.1 h.2
  | none => .clear

/-- A stake reference consumed, as SWAIT with CLR = 1 would. -/
def State.consumeRef (s : State) (c : Col) (w : Nat) : State :=
  match stakeRef c.r.ctx.toNat w with
  | some h => s.takeStake h.1 h.2
  | none => s

/-- A run begins: the run number is one on, and what the last run left is gone. Tiles that wait in staging stay. -/
def Col.newRun (c : Col) (st : ColSt) : Col :=
  { c with st := st, run := (c.run + 1) % 65536, cur := { ColRun.empty with stagedQ := c.cur.stagedQ } }

/-- On entry to ARMED, the own shard is the Tally identity, and the received counts are zero. -/
def State.prepare (s : State) (h : Nat) (c : Col) : State :=
  if c.sums then
    s.colPlanned h c fun s =>
      let sh := s.shard c.r c.r.rank.toNat
      let rs := c.tileRanges c.r.dest.toNat c.r.dcode.toNat sh.1 sh.2
      s.colGuard h c [] rs fun s =>
        let id := List.replicate c.tileE (if c.r.zmode then 4 else 0)
        let zero := List.replicate c.tileE 0
        let s1 := rs.foldl (fun s x => s.heal x.1 x.2) s
        { s1 with mem := (List.range sh.2).foldl (fun m i =>
            c.putTile m c.r.dest.toNat c.r.dcode.toNat (sh.1 + i) zero id) s1.mem }
  else if c.isA2a then
    let n := 4 * c.r.nmem.toNat
    s.colGuard h c [] [(c.r.rcnt.toNat, n)] fun s => s.store c.r.rcnt.toNat (List.replicate n 0)
  else s

/-- COL_ARM: the ARM stake is set and neither it nor START is abandoned; on a drained device no run begins (R426). -/
def execColArm (handle : BitVec 12) (s : State) : Host.Outcome State Fault Refusal :=
  match s.col handle.toNat with
  | none => .next s
  | some c =>
    if !s.flt.drained && !c.waiting && !c.isSlip && (c.st == .idle || c.st == .complete) && s.refState c c.r.arm.toNat == .set &&
        s.refState c c.r.start.toNat != .abandoned then
      let c1 := c.newRun .armed
      .next (((s.consumeRef c c.r.arm.toNat).setCol handle.toNat c1).prepare handle.toNat c1)
    else .next s

/-- The own shard of an AG or BCAST: in its place at DEST, and sent to the own DIST children (R271). -/
def State.gatherStart (s : State) (h : Nat) (c : Col) : State :=
  let o := c.r.rank.toNat
  let sh := s.shard c.r o
  let len := 16 * sh.2
  let a := c.r.src.toNat
  let d := c.r.dest.toNat + 16 * sh.1
  s.colGuard h c [(a, len)] (if a = d then [] else [(d, len)]) fun s =>
    let bs := s.mem.readN a len
    let s1 := if a = d then s else s.write d bs
    let cut := (List.range ((len + 4031) / 4032)).map fun i => (16 * sh.1 + 4032 * i, (bs.drop (4032 * i)).take 4032)
    let s2 := cut.foldl (fun s x =>
      (s.dist c.r o).foldl (fun s dst =>
        s.colSend h c dst (colHeader (x.1 / 16) 2 3 false c.run 0 0 x.1 0 x.2.length) x.2) s) s1
    s2.updRun h fun r => { r with sentAll := true, bytes := Map.put r.bytes o len }

/-- The rank of row `i` of an A2A send buffer, with its expert (R273). -/
def State.rowRank (s : State) (r : ColRec) (i : Nat) : Nat × Option Nat :=
  let e := s.mem.readLE (r.sexp.toNat + 2 * i) 2
  (e, if e < (s.planTab r 5).2 then some (s.planAt r 5 4 e % 65536) else none)

/-- One row of an A2A run: written here, sent in pieces, or dropped (R273). `seen` counts the rows before it for each
rank. -/
def State.sendRow (s : State) (h : Nat) (c : Col) (i e j n : Nat) : State :=
  if n < c.r.cap.toNat then
    s.colGuard h c [(c.r.src.toNat + i * c.rowBytes, c.rowBytes)] [] fun s =>
    let bs := s.mem.readN (c.r.src.toNat + i * c.rowBytes) c.rowBytes
    let tidx := c.r.rank.toNat * c.r.cap.toNat + n
    let tag := e % 4096 + i * 2 ^ 12
    if j = c.r.rank.toNat then s.takeRow h ((s.col h).getD c) j tidx 0 tag bs
    else (List.range ((c.rowBytes + 4031) / 4032)).foldl (fun s k =>
      let p := (bs.drop (4032 * k)).take 4032
      s.colSend h c (s.member c.r j) (colHeader tidx 3 3 false c.run 0 0 (4032 * k) tag p.length) p) s
  else s.updRun h fun r => { r with dropped := r.dropped + 1 }

/-- The run is still in progress. -/
def State.colLive (s : State) (h : Nat) : Bool := (s.col h).any fun c => c.st == .running

/-- The rows of an A2A run in ascending order, and then the counts. An expert index without a place fails the run. -/
def State.a2aRows (h : Nat) (c : Col) : (n i : Nat) → Map Nat → State → State
  | 0, _, seen, s =>
    if !s.colLive h then s else
    let cap := c.r.cap.toNat
    let s1 := (List.range c.r.nmem.toNat).foldl (fun s j =>
      let m := Map.getD seen j 0
      let word := min cap m + min 65535 (m - min cap m) * 2 ^ 16
      if j = c.r.rank.toNat then s.takeCount h ((s.col h).getD c) j word
      else s.colSend h c (s.member c.r j) (colHeader 0 4 3 false c.run 0 0 0 word 1) [0]) s
    s1.updRun h fun r => { r with sentAll := true }
  | n + 1, i, seen, s =>
    if !s.colLive h then s else
    match s.rowRank c.r i with
    | (_, none) => s.colFailOwn h 0x0712
    | (e, some j) =>
      let m := Map.getD seen j 0
      State.a2aRows h c n (i + 1) (Map.put seen j (m + 1)) (s.sendRow h c i e j m)

/-- An A2A run starts. -/
def State.a2aStart (s : State) (h : Nat) (c : Col) : State :=
  let n := s.mem.readLE (c.r.runadr.toNat + 2) 3 % 2 ^ 21
  (s.updRun h fun r => { r with nrows := n }).colGuard h c [(c.r.sexp.toNat, 2 * n)] [] fun s => State.a2aRows h c n 0 [] s

/-- A PERM run starts: every MOVE run is read, in table order, and then sent or copied (R274). -/
def State.permStart (s : State) (h : Nat) (c : Col) : State :=
  let ms := (List.range (s.planTab c.r 6).2).map (s.moveOf c.r)
  s.colGuard h c (ms.map fun m => (c.r.src.toNat + m.1, m.2.2.2)) [] fun s =>
    let data := ms.map fun m => (m, s.mem.readN (c.r.src.toNat + m.1) m.2.2.2)
    let s1 := s.updRun h fun r => { r with sentAll := true }
    data.foldl (fun s x =>
      let m := x.1
      if m.2.1 = c.r.rank.toNat then s.takePerm h ((s.col h).getD c) m.2.2.1 x.2
      else (List.range ((m.2.2.2 + 4031) / 4032)).foldl (fun s k =>
        let p := (x.2.drop (4032 * k)).take 4032
        s.colSend h c (s.member c.r m.2.1) (colHeader 0 5 3 false c.run 0 0 (m.2.2.1 + 4032 * k) 0 p.length) p) s) s1

/-- A SLIP run starts: its input is combined with what its children have sent (R275); a DATUMW run clears the datum word
before it reads its input (R276). A run that fails at its start takes the contributions held for it with it. -/
def State.slipStart (s : State) (h : Nat) (c : Col) : State :=
  let n := c.r.slen.toNat
  let zeroed := fun (s : State) (k : State → State) =>
    if c.r.datumw then s.colGuard h c [] [(c.r.dest.toNat, 4)] fun s => k (s.write c.r.dest.toNat [0, 0, 0, 0]) else k s
  zeroed (s.setCol h { c with early := [] }) fun s => s.colGuard h c [(c.r.src.toNat, n)] [] fun s =>
    let bs := s.mem.readN c.r.src.toNat n
    (c.early.foldl (fun s x => s.slipAdd h (some x.1) x.2) s).slipAdd h none bs

/-- The run block of an RS or AR run is read, and an empty shard votes at once (R258, R269). -/
def State.sumStart (s : State) (h : Nat) (c : Col) : State :=
  (s.updRun h fun r => { r with ds := s.mem.readLE c.r.runadr.toNat 2 % 4096 }).voteCheck h

/-- Entry to RUNNING (R256, R258). -/
def State.runBegin (s : State) (h : Nat) (c : Col) : State :=
  s.colPlanned h c fun s =>
  if c.sums then s.colGuard h c [(c.r.runadr.toNat, 16)] [] fun s => s.sumStart h c
  else if c.isA2a then s.colGuard h c [(c.r.runadr.toNat, 16)] [] fun s => s.a2aStart h c
  else if c.isPerm then s.permStart h c
  else if c.isSlip then s.slipStart h c
  else s.gatherStart h c

/-- COL_START: the START stake is set on an armed collective, or on a SLIP collective that does not run. -/
def execColStart (handle : BitVec 12) (s : State) : Host.Outcome State Fault Refusal :=
  match s.col handle.toNat with
  | none => .next s
  | some c =>
    let ready := if c.isSlip then c.st == .idle || c.st == .complete else c.st == .armed
    if !s.flt.drained && !c.waiting && ready && s.refState c c.r.start.toNat == .set then
      let c1 := if c.isSlip then c.newRun .running else { c with st := .running }
      let c2 := { c1 with cur := { c1.cur with t3 := s.t3For c1.limit } }
      .next (((s.consumeRef c c.r.start.toNat).setCol handle.toNat c2).runBegin handle.toNat c2)
    else .next s

/-! ## Local tiles (R118, R266, R270) -/

/-- WC of a Tally format. -/
def wcOf (fmt : Nat) : Nat := fmt - 12

/-- The engine takes the tile that was staged first, and its staging slot is free. -/
def State.takeStaged (s : State) (h : Nat) (c : Col) : State :=
  match c.cur.stagedQ with
  | [] => s
  | key :: rest =>
    let m := (s.engOf key).mat
    match m.stage.find? fun t => t.handle == h with
    | none => s.updRun h fun r => { r with stagedQ := rest }
    | some t =>
      let again := c.cur.staged.contains t.tidx
      let s1 := (s.setMat key { m with stage := m.stage.erase t }).updRun h fun r =>
        { r with stagedQ := rest, staged := if again then r.staged else r.staged ++ [t.tidx] }
      s1.acceptTile h t.tidx 1 (wrapU 12 t.ds) (wcOf t.fmt) t.zm c.tileBytes t.values t.codes again

/-- The engine takes the next tile of SRC. -/
def State.takeSrc (s : State) (h : Nat) (c : Col) : State :=
  let t := c.cur.next
  if c.r.ntile.toNat ≤ t then s
  else s.colGuard h c (c.tileRanges c.r.src.toNat c.r.scode.toNat t 1) [] fun s =>
    let vc := c.readTile s.mem c.r.src.toNat c.r.scode.toNat t
    (s.updRun h fun r => { r with next := t + 1 }).acceptTile h t 1 c.cur.ds c.r.tw.toNat c.r.zmode c.tileBytes vc.1 vc.2 false

/-- COL_TILE_ACCEPT (R266). -/
def execColTileAccept (handle : BitVec 12) (s : State) : Host.Outcome State Fault Refusal :=
  match s.col handle.toNat with
  | none => .next s
  | some c =>
    if c.st == .running && c.sums then
      .next (s.colPlanned handle.toNat c fun s =>
        if c.r.stream then s.takeStaged handle.toNat c else s.takeSrc handle.toNat c)
    else .next s

/-! ## The end of a run -/

/-- PERM_SCRATCH_COPY: bytes that waited are copied into place once every outgoing run has been read (R274). -/
def execPermScratchCopy (handle : BitVec 12) (s : State) : Host.Outcome State Fault Refusal :=
  match s.col handle.toNat with
  | none => .next s
  | some c =>
    if c.isPerm && c.st == .running && c.cur.sentAll then
      let src := c.cur.held.map fun x => (c.r.scr.toNat + x.2.1, x.2.2)
      let dst := c.cur.held.map fun x => (c.r.src.toNat + x.1, x.2.2)
      .next (s.colGuard handle.toNat c src dst fun s =>
        (c.cur.held.foldl (fun s x =>
          s.write (c.r.src.toNat + x.1) (s.mem.readN (c.r.scr.toNat + x.2.1) x.2.2)) s).updRun handle.toNat fun r =>
            { r with held := [], taken := r.taken + c.inScratch })
    else .next s

/-- COL_RUN_COMPLETE (R259). -/
def execColRunComplete (handle : BitVec 12) (waitns : BitVec 48) (s : State) : Host.Outcome State Fault Refusal :=
  match s.col handle.toNat with
  | none => .next s
  | some c =>
    if c.st == .running && s.colDone c then .next (s.colComplete handle.toNat c waitns.toNat) else .next s

/-- COL_T3_EXPIRY: a run whose completion conditions hold completes; any other fails with 0x0506 (R260, R492). -/
def execColT3Expiry (handle : BitVec 12) (s : State) : Host.Outcome State Fault Refusal :=
  match s.col handle.toNat with
  | none => .next s
  | some c =>
    if c.st != .running then .next s
    else if s.colDone c then .next (s.colComplete handle.toNat c (s.ns - c.cur.lastSend))
    else .next (((s.count (ctrDev 42)).log 0x0020 0x0506 1 0xFFFFFFFF c.r.cadr.toNat 0xFFFFFFFF).colFailOwn handle.toNat 0x0506)

end Sys2Proof.Machine
end

