-- ==== Sys2Proof/Machine/Counters.lean ====
section
/-! DEFINITION. The counter store: deltas, freezes, snapshots, phase records (spec 20, R465-R473, R384). -/

namespace Sys2Proof.Machine

/-! ## The store (R465, R466, R469) -/

/-- Event `e` of a unit counts clocks, or accesses that only the clock shows: the model does not derive it, and its
delta comes with the command that moves it. -/
def clockCounter (k : Nat) : Bool :=
  if k < 655360 then k % 40 ≤ 15 || k % 40 == 25 || (35 ≤ k % 40 && k % 40 ≤ 38)
  else if 664576 ≤ k && k < 666624 then [6, 23].contains ((k - 664576) % 32)
  else if 666624 ≤ k && k < 668672 then 4 ≤ (k - 666624) % 16 && (k - 666624) % 16 ≤ 11
  else if 668672 ≤ k && k < 668864 then [0, 4, 5, 6, 7, 8, 10].contains ((k - 668672) % 16)
  else if 668864 ≤ k && k < 669056 then [12, 13].contains ((k - 668864) % 16)
  else k == 669056 + 14 || k == 669056 + 38

/-- A counter the table of R466 and R467 names. -/
def counterNamed (k : Nat) : Bool := decide (k < 664104) || (decide (664576 ≤ k) && decide (k < 669114))

/-- COUNTER_DELTA_MOVE: the unit's delta of counter `k` goes to the store, with the `n` events of a clock counter that
it has gathered (R465). -/
def execCounterDeltaMove (k : BitVec 20) (n : BitVec 48) (s : State) : Host.Outcome State Fault Refusal :=
  let i := k.toNat
  if counterNamed i then
    let d := Map.getD s.ctr.delta i 0 + (if clockCounter i then n.toNat else 0)
    .next { s with ctr := { s.ctr with store := Map.putD s.ctr.store i ((Map.getD s.ctr.store i 0 + d) % 2 ^ 48) 0,
                                       delta := Map.del s.ctr.delta i } }
  else .next s

/-- The image that a freeze takes: the store with the deltas that the units hold. -/
def Ctr.freeze (c : Ctr) : Map Nat := c.moveAll.store

/-- A counter as software reads it: of the image while FROZEN. -/
def Ctr.read (c : Ctr) (k : Nat) : Nat := Map.getD (c.image.getD c.store) k 0

/-! ## Freeze and thaw (R470) -/

/-- FREEZE: the image is taken, or the image of a copy stays after it. -/
def Ctr.hold (c : Ctr) : Ctr :=
  { c with held := true, thawNext := false, image := if c.image.isSome then c.image else some c.freeze }

/-- THAW: at once, or when the copy under way ends. -/
def Ctr.thaw (c : Ctr) : Ctr :=
  if c.copy.isSome then { c with thawNext := c.held }
  else if c.held then { c with held := false, image := none } else c

/-- FREEZE (R470). -/
def execFreeze (h : Hdr) (s : State) : Host.Outcome State Fault Refusal :=
  .next (s.command h 0x0902 (Instr.params (.freeze h)) fun s r => ({ s with ctr := s.ctr.hold }).finish r 0)

/-- THAW (R470). -/
def execThaw (h : Hdr) (s : State) : Host.Outcome State Fault Refusal :=
  .next (s.command h 0x0903 (Instr.params (.thaw h)) fun s r => ({ s with ctr := s.ctr.thaw }).finish r 0)

/-! ## Snapshots (R384, R470, R471) -/

/-- The snapshot shelf is in shelf mode with FW set. -/
def State.snapShelfOk (s : State) (n : Nat) : Bool := (s.shelf n).mode == 2 && (s.shelf n).fw

/-- A write of [a, a + len) to the snapshot shelf is admitted: the shelf is a firmware shelf and is not leaving shelf mode
(R182, R471). -/
def State.snapAdmits (s : State) (a len : Nat) : Bool := s.fwStatus a len == 0

/-- A snapshot request at a bearing and revolution: discarded, or its image taken and its copy begun. The Bool says that it was
taken. The copy bears the number that it has once it is complete. -/
def State.snapRequest (s : State) (tag : Nat) (stakeout : Bool) (at' : Nat × Nat) : State × Bool :=
  let c := s.ctr
  if c.copy.isSome || !c.en || !s.snapShelfOk c.shelf then
    ({ s with ctr := { c with smiss := true } }.count (ctrDev 56), false)
  else
    let k : SnapCopy := ⟨c.nSnap + 1, tag, stakeout, c.held, s.brg.valid, s.ns, at'.1, at'.2, c.shelf⟩
    ({ s with ctr := { c with copy := some k, thawNext := false,
                              image := if c.image.isSome then c.image else some c.freeze } }, true)

/-- The header of a snapshot (R471). -/
def State.snapHeader (s : State) (k : SnapCopy) : List Byte :=
  toLE 4 0x4E534C47 ++ toLE 4 k.n ++ toLE 1 k.tag ++ toLE 3 (b2n k.stakeout + 2 * b2n k.hold + 4 * b2n k.brgv) ++
    toLE 4 s.station ++ toLE 8 k.time ++ toLE 4 k.bearing ++ toLE 4 k.rev ++ toLE 4 (s.ctr.nPhase + 1) ++ toLE 4 669312

/-- The slot of a snapshot written whole: its header, then the pairs. -/
def State.snapWrite (s : State) (k : SnapCopy) : State :=
  let a := shelfAddr k.shelf (0x800000 * ((k.n - 1) % 7))
  let pairs := (s.ctr.image.getD []).filter fun kv => kv.1 < 669312
  let empty := (s.mem.clear a 0x800000).writeN a (s.snapHeader k)
  { s with mem := pairs.foldl (fun m kv => m.writeLE (a + 0x10000 + 8 * kv.1) 8 kv.2) empty,
           bad := Map.keep s.bad fun x _ => !(decide (a ≤ x) && decide (x < a + 0x800000)) }

/-- The image after a copy: it stays while the counters are held. -/
def Ctr.afterCopy (c : Ctr) : Ctr :=
  let held := c.held && !c.thawNext
  { c with copy := none, held := held, thawNext := false, image := if held then c.image else none }

/-- SNAPSHOT_COPY_DONE: the copy has ended, or is abandoned because its shelf has left shelf mode. -/
def execSnapshotCopyDone (s : State) : Host.Outcome State Fault Refusal :=
  match s.ctr.copy with
  | none => .next s
  | some k =>
    if s.snapAdmits (shelfAddr k.shelf (0x800000 * ((k.n - 1) % 7))) 0x800000 then
      let s1 := (s.snapWrite k).access .control true (shelfAddr k.shelf (0x800000 * ((k.n - 1) % 7))) 8388608
      .next (({ s1 with ctr := { s1.ctr.afterCopy with sdone := true, ltag := k.tag, scount := k.n % 65536, nSnap := k.n } }).finishAll
        (fun r => r.op == 0x0901) 0)
    else
      .next ((({ s with ctr := { s.ctr.afterCopy with smiss := true } }).count (ctrDev 56)).finishAll
        (fun r => r.op == 0x0901) 0x0314)

/-- A SNAP is the stakeout that issues in this SK clock: it is taken, and a command of the clock is discarded (R384). -/
def State.snapDue (s : State) : Bool := (s.brg.nextDue s.now).any fun d => s.brg.sAction d.1 == 2

/-- SNAPSHOT: its receipt comes when the copy completes (R367). -/
def execSnapshot (h : Hdr) (tag : Byte) (s : State) : Host.Outcome State Fault Refusal :=
  .next (s.command h 0x0901 (Instr.params (.snapshot h tag)) fun s r =>
    if s.snapDue then s.finish r 0x0301
    else match s.snapRequest tag.toNat false (s.brg.bearingAt s.now, s.brg.rev) with
    | (s1, true) => s1.begin r
    | (s1, false) => s1.finish r 0x0301)

/-- CTR_READ: u64 values to host memory (R367, R469). -/
def execCtrRead (h : Hdr) (first count : BitVec 32) (addr : BitVec 64) (s : State) : Host.Outcome State Fault Refusal :=
  .next (s.command h 0x0904 (Instr.params (.ctrRead h first count addr)) fun s r =>
    if 1040384 < first.toNat + count.toNat then s.finish r 0x0801
    else
      let bs := (List.range count.toNat).flatMap fun i =>
        toLE 8 (if first.toNat + i < 669312 then s.ctr.read (first.toNat + i) else 0)
      (s.hostOut r addr.toNat bs).finish r 0 (toLE 4 count.toNat))

/-! ## Phase records (R472, R473) -/

/-- The record of a mark issued now at a bearing and revolution. -/
def State.phaseRecord (s : State) (n mark bearing rev : Nat) : List Byte :=
  toLE 4 n ++ toLE 4 rev ++ toLE 4 bearing ++ toLE 1 mark ++ toLE 3 (b2n s.ctr.image.isSome) ++ toLE 8 s.ns ++
    toLE 4 (min 0xFFFFFFFF (s.ctr.peerWait / 256)) ++ toLE 4 (min 0xFFFFFFFF (s.ctr.thrTime / 256))

/-- A phase mark: its record written, or dropped with its SEQ used. -/
def State.phaseMark (s : State) (mark bearing rev : Nat) : State :=
  let n := s.ctr.nPhase + 1
  if s.ctr.en && s.snapAdmits (shelfAddr s.ctr.shelf (0x3800000 + 32 * (n % 262144))) 32 then
    let a := shelfAddr s.ctr.shelf (0x3800000 + 32 * (n % 262144))
    let s1 := (s.store a (s.phaseRecord n mark bearing rev)).access .control true a 32
    { s1 with ctr := { s1.ctr with nPhase := n, peerWait := 0, thrTime := 0 } }
  else { s with ctr := { s.ctr with nPhase := n } }.count (ctrDev 57)

end Sys2Proof.Machine
end

