-- ==== Sys2Proof/Machine/Load.lean ====
section
/-! DEFINITION. What the firmware checks when it loads a context image, and its stakes at their INIT (spec 13, R156,
R330-R332, R494). -/

namespace Sys2Proof.Machine

/-! ## Entries, checked at load (R98, R102, R155, R494) -/

/-- The fields of an M entry that are checked without its slot. -/
def mLoadOk (e : Entry) : Bool :=
  let lim := if bit e 12 then 8 else 16
  match fld e 0 8 with
  | 1 => fld e 27 101 == 0
  | 2 => fld e 24 104 == 0 && decide (1 ≤ fld e 14 5) && decide (fld e 14 5 ≤ lim) && decide (1 ≤ fld e 19 5) && decide (fld e 19 5 ≤ lim)
  | 3 => fld e 120 8 == 0 && eK e != 0
  | 4 => fld e 120 8 == 0 && decide (fld e 10 2 ≤ 1)
  | 5 => fld e 71 57 == 0 && ((fmtOf (fld e 10 4)).any fun f => f.isInt) && fld e 31 24 != 0
  | 6 => fld e 25 103 == 0
  | 7 => fld e 25 103 == 0
  | _ => false

/-- The fields of an X entry that are checked on their own. -/
def xLoadOk (e : Entry) : Bool :=
  decide (1 ≤ fld e 0 8) && decide (fld e 0 8 ≤ 3) && decide (2 ≤ fld e 8 2) && fld e 84 24 != 0 && fld e 108 20 == 0 && !xFmtBad e

/-- An entry of a queue's program (R494); an S queue takes synchronisation entries only. -/
def entryLoadOk (q : Q) (order : Nat) (e : Entry) : Bool :=
  if 0xF0 ≤ fld e 0 8 then decide (fld e 0 8 ≤ 0xFA) && syncOk order e
  else match q with
    | .m => mLoadOk e
    | .v => vOpcode (fld e 0 8) && vFieldsOk e
    | .x => xLoadOk e
    | .s => false

/-- The reduction descriptor of an MDECL, or the setup record of a VSET, as the image holds it. -/
def State.recordLoadOk (s : State) (v : Ctx) (p : Nat) (q : Q) (e : Entry) : Bool :=
  let one := fun (g : Nat) (ok : BitVec 512 → Bool) =>
    !(decide (v.fblo ≤ g) && decide (g + 4 ≤ v.fbhi)) || (g % 4 == 0 && ok (BitVec.ofNat 512 (s.mem.readLE (v.imageGran p g) 64)))
  match q with
  | .m => fld e 0 8 != 1 || one (fld e 11 16) descOk
  | .v => fld e 0 8 != 0x10 || one (fld e 10 16) setupOk
  | _ => true

/-- The addresses that follow an entry in a walk of its program (R494). -/
def entryNext (a : Nat) (e : Entry) : List Nat :=
  match fld e 0 8 with
  | 0xFA => []
  | 0xF7 => [yAddr e, a + 1]
  | 0xF8 => if yCond e = 0 || yCond e = 3 then [yAddr e] else [yAddr e, a + 1]
  | _ => [a + 1]

/-- A wait on a station tract whose home is another station is refused; a handle that is not set up yet is left to the
wait itself (R155, R169, log entry 104). -/
def State.waitHomeOk (s : State) (e : Entry) : Bool :=
  !((fld e 0 8 == 0xF0 || fld e 0 8 == 0xF1) && yTsc e == 6) ||
    (match Map.find s.stracts (yHandle e) with
     | some t => t.home == s.station
     | none => true)

/-- The first nonzero status of a list of checks. -/
def firstStatus (l : List Nat) : Nat := (l.find? (· != 0)).getD 0

/-- The address of the record that an entry names, where the check of the image reads it. -/
def recordGran (v : Ctx) (q : Q) (e : Entry) : Option Nat :=
  let one := fun (g : Nat) => if v.fblo ≤ g && g + 4 ≤ v.fbhi && g % 4 == 0 then some g else none
  match q with
  | .m => if fld e 0 8 = 1 then one (fld e 11 16) else none
  | .v => if fld e 0 8 = 0x10 then one (fld e 10 16) else none
  | _ => none

/-- The check of one entry at granule `a` of a program: 0x0723 for what reads as uncorrectable, 0x0808 for what breaks a rule
of R494 (R189). -/
def State.entryStatus (s : State) (v : Ctx) (p order : Nat) (ps : List Nat) (q : Q) (a : Nat) : Nat :=
  let e := BitVec.ofNat 128 (s.mem.readLE (v.imageGran p a) 16)
  if s.badIn (v.imageGran p a) 16 then 0x0723
  else if !entryLoadOk q order e || !s.waitHomeOk e then 0x0808
  else firstStatus (ps.map fun m =>
    if (recordGran v q e).any fun g => s.badIn (v.imageGran m g) 64 then 0x0723
    else if s.recordLoadOk v m q e then 0 else 0x0808)

/-- The walk of a program in the Fieldbook of parcel `p`: every entry reached inside the range is checked, its record in
every parcel `ps` that runs it; what lies outside is not looked at. -/
def State.walk (s : State) (v : Ctx) (p order : Nat) (ps : List Nat) (q : Q) : (fuel : Nat) → (todo seen : List Nat) → Nat
  | 0, _, _ => 0
  | _, [], _ => 0
  | n + 1, a :: todo, seen =>
    if seen.contains a || a < v.fblo || v.fbhi ≤ a then s.walk v p order ps q n todo seen
    else if s.entryStatus v p order ps q a ≠ 0 then s.entryStatus v p order ps q a
    else
      let e := BitVec.ofNat 128 (s.mem.readLE (v.imageGran p a) 16)
      s.walk v p order ps q n (entryNext a e ++ todo) (a :: seen)

/-- Where queue `q` of a unit lies in its state block (R168, log entry 63). -/
def Ctx.queueAddr (v : Ctx) (u : Nat) (q : Q) : Nat := v.blockAddr u + syncOff u + 768 + 32 * qIx q

/-- A queue of the image is bound to its tract. -/
def State.imageFed (s : State) (v : Ctx) (u : Nat) (q : Q) : Bool := (s.mem.read (v.queueAddr u q + 6)).toNat.testBit 3

/-- The parcels that run a unit's program: itself, or the members bound to their tract (R153). -/
def State.imageRuns (s : State) (v : Ctx) (q : Q) : (n : Nat) → (u : Nat) → List Nat
  | 0, _ => []
  | n + 1, u =>
    if unitOrder u = 0 then [u]
    else (members u).flatMap fun m => if inFoot v.foot m && s.imageFed v m q then s.imageRuns v q n m else []

/-- The programs of one unit's queues. -/
def State.unitLoad (s : State) (v : Ctx) (u : Nat) : Nat :=
  firstStatus ([Q.m, Q.v, Q.x, Q.s].map fun q =>
    let f := (s.mem.read (v.queueAddr u q + 6)).toNat
    if f % 4 ≠ 1 || f.testBit 3 then 0
    else s.walk v (firstParcel u) (unitOrder u) (s.imageRuns v q 5 u) q (2 * (v.fbhi - v.fblo) + 2) [s.mem.readLE (v.queueAddr u q) 2] [])

/-- A stake-table entry (R156). -/
def stakeEntryOk (w : BitVec 32) : Bool :=
  fld w 22 10 == 0 && (!bit w 19 || bit w 21 || (pathUnit (fld w 0 17)).isSome)

/-- The synchronisation state of a unit in the image: readable, its stake table in order (R156, R189). -/
def State.stakesLoad (s : State) (v : Ctx) (u : Nat) : Nat :=
  let a := v.blockAddr u + syncOff u
  let m := s.mem.part a 256
  if s.badIn a 896 then 0x0723
  else if (List.range 48).all fun i => stakeEntryOk (BitVec.ofNat 32 (m.readLE (a + 48 + 4 * i) 4)) then 0
  else 0x0808

/-! ## Bindery programs (R205, R494) -/

/-- One descriptor of a context's program. -/
def State.descLoadOk (s : State) (c h : Nat) (d : List Byte) : Bool :=
  descFieldsOk d && s.bndAddrOk h (some c) (dCadr d) 32 && (!dVoten d || s.bndAddrOk h (some c) (dF d 16 6) 1) &&
  ((descRanges d).all fun r => r.ok h) && !anyClash (descRanges d)

/-- The walk of a Bindery program from its current index up to END. -/
def State.bndWalk (s : State) (c h base count : Nat) : (fuel : Nat) → (ix : Nat) → (seen : List Nat) → Nat
  | 0, _, _ => 0
  | n + 1, ix, seen =>
    if seen.contains ix || count ≤ ix then 0
    else
      let d := s.mem.readN (base + 128 * ix) 128
      if s.badIn (base + 128 * ix) 128 then 0x0723
      else if !s.descLoadOk c h d then 0x0808
      else if dOp d = 0 then 0
      else s.bndWalk c h base count n (if dOp d = 7 then dF d 32 4 else ix + 1) (ix :: seen)

/-- The Bindery programs that a header names. -/
def State.bindsLoad (s : State) (c : Nat) (v : Ctx) : Nat :=
  firstStatus ((List.range 12).map fun h =>
    let a := v.bindAddr h
    if (s.mem.readLE (a + 10) 1).testBit 0 then
      let base := s.mem.readLE a 6
      let count := ((h + 1) * 2 ^ 37 - base) / 128
      s.bndWalk c h base count (count + 1) (s.mem.readLE (a + 6) 4) []
    else 0)

/-! ## The header (R331) -/

/-- A context as the header of an image at `a` describes it. -/
def State.headerOf (s : State) (a : Nat) : Ctx :=
  { Ctx.free with st := .loaded, img := a, fblo := s.mem.readLE (a + 4) 2, fbhi := s.mem.readLE (a + 6) 2,
                  save := s.mem.readLE (a + 8) 2, foot := s.mem.readLE (a + 16) 8 }

/-- The rules of R331 but for the owner; an image that is misaligned or leaves HBM breaks them. -/
def State.headerOk (s : State) (v : Ctx) : Bool :=
  let zero := fun (lo hi : Nat) => s.mem.readN (v.img + lo) (hi + 1 - lo) |>.all (· == 0)
  v.fblo % 0x400 == 0 && v.fbhi % 0x400 == 0 && decide (v.fblo < v.fbhi) && decide (v.fbhi ≤ 0xC000) && v.save % 0x10 == 0 &&
  decide (v.fblo ≤ v.save) && decide (v.save + 0x500 ≤ v.fbhi) && zero 10 15 && v.foot != 0 && zero 24 31 && zero 224 4095 &&
  ((List.range 12).all fun h => (s.mem.readLE (v.bindAddr h + 10) 1) / 2 == 0 && zero (43 + 16 * h) (47 + 16 * h) &&
    (!(s.mem.readLE (v.bindAddr h + 10) 1).testBit 0 || s.mem.readLE (v.bindAddr h) 6 / 2 ^ 37 == h)) &&
  v.img % 4096 == 0 && decide (v.img + 0x14113000 + 16384 * v.rangeBytes ≤ 0x018000000000)

/-! ## Initial state (R156, R168) -/

/-- Each stake of the image at its INIT; an abandonment is ended (R156). -/
def State.initStakes (s : State) (c : Nat) : State :=
  let v := s.ctx c
  (s.imageUnits c).foldl (fun s u =>
    let a := v.blockAddr u + syncOff u
    let m := s.mem.part a 256
    { s with mem := s.mem.writeN a ((List.range 48).map fun i => BitVec.ofNat 8 (b2n ((m.readLE (a + 48 + 4 * i) 4).testBit 20))) }) s

/-- Nothing of a context stands in any unit or Bindery, but for the tiles that it staged: they belong to their collectives
(R118). -/
def State.purge (s : State) (c : Nat) : State :=
  let s1 : State := { s with
    eng := (Map.keep s.eng fun k e => keyCtx k != c || !e.mat.stage.isEmpty).map fun kv =>
      if keyCtx kv.1 = c then (kv.1, kv.2.bare) else kv
    bndWaits := Map.keep s.bndWaits fun k _ => k % 16 != c }
  (List.range 12).foldl (fun s h => s.setBindery h ((s.bindery h).setQueue c BndQueue.empty)) s1

end Sys2Proof.Machine
end

