-- ==== Sys2Proof/Machine/Switch.lean ====
section
/-! DEFINITION. Contexts: starting, pre-empting, slicing (R327-R336). -/

namespace Sys2Proof.Machine

/-- What waits in the engines of a restored parcel is examined again: an M, V or X entry may have been left waiting for
something that is no longer there (R120, R148, R177). -/
def State.engineRetry (s : State) (c p : Nat) : State := ((s.mRetry c p).vRetry c p).xRetry c p

/-- The context has reached RUNNING: its waits on stakes and in its engines are examined again (R161), and CTX_START
commands for it end. -/
def State.becomeRunning (s : State) (c : Nat) : State :=
  let v := s.ctx c
  let s1 := (((s.countSwitch c).bndRestart c).unsuspend c).setCtx c { v with st := .running, parking := false, parkNext := false, fromImage := false }
  let waits := (s1.eng.flatMap fun kv =>
    if keyCtx kv.1 = c then
      [Q.m, Q.v, Q.x, Q.s].filterMap fun q =>
        match (kv.2.sync.queue q).head with
        | some ⟨_, _, .stake h i _⟩ => some (h, i)
        | _ => none
    else []).eraseDups
  let s2 := waits.foldl (fun s w => s.wakeStake w.1 w.2) s1
  let ps := (s2.eng.filter fun kv => keyCtx kv.1 == c && decide (keyUnit kv.1 < 16384)).map fun kv => keyUnit kv.1
  let s3 := ps.foldl (fun s p => s.engineRetry c p) s2
  s3.finishAll (fun r => r.op == 0x0304 && r.names objCtx c && !s3.actWaits r) 0

/-- Nothing that a starting context collides with still runs or is being sliced out for it. -/
def State.clearFor (s : State) (c : Nat) : Bool :=
  (others c).all fun d =>
    let v := s.ctx d
    !(collide v (s.ctx c) && v.st == .running) && !(clash v (s.ctx c) && (v.st == .slicing || v.resident))

/-- A start whose state fails its check, or cannot be read: the context is as before, and the commands that started it
end with a status (R62, R189). -/
def State.startFails (s : State) (c : Nat) (st : CtxSt) (status : Nat) : State :=
  ((s.setCtx c { s.ctx c with st := st, fromImage := false, parkNext := false }).finishAll
    (fun r => r.op == 0x0304 && r.names objCtx c && !s.actWaits r) status).endPreempts c

/-- Some byte of a footprint parcel's save area reads as uncorrectable. -/
def State.saveBad (s : State) (c : Nat) : Bool :=
  !s.bad.isEmpty && (footParcels (s.ctx c).foot).any fun p => s.badIn ((s.ctx c).saveAddr p) 20480

/-- What a cancelled start leaves of the waits: the time in STARTING counts against their limits (R161, R328). -/
def State.cancelled (s : State) (c : Nat) : State :=
  s.onSaved c (s.unitsOf c) fun s => (s.unsuspend c).suspend c

/-- A context restored from its save areas becomes RUNNING once its place is clear (R334); one whose start was
cancelled is PARKED. -/
def State.settle (s : State) (c : Nat) : State :=
  let v := s.ctx c
  if v.st == .starting && !v.fromImage && s.clearFor c then
    if v.parkNext then
      ((s.cancelled c).setCtx c { v with st := .parked, parkNext := false }).endPreempts c
    else if s.saveBad c then s.startFails c .parked 0x0723
    else match s.restoreAll c with
      | some s1 => s1.becomeRunning c
      | none => s.startFails c .parked 0x0802
  else s

/-- A resident context is to be sliced out (R334 step 2). -/
def State.sliceOut (s : State) (d : Nat) : State := s.setCtx d { s.ctx d with sliceNext := true }

/-- The next slice-out begins: of the lowest context that is to be sliced out, once no pre-empt and no other slice-out is
under way (R334 steps 1 and 2). -/
def State.sliceTurn (s : State) : State :=
  if (List.range 8).any fun d => (s.ctx d).st == .slicing || ((s.ctx d).st == .running && (s.ctx d).parking) then s
  else match (List.range 8).find? fun d => (s.ctx d).sliceNext && (s.ctx d).st == .parked with
    | some d => (s.count (ctrDev 53)).setCtx d { s.ctx d with st := .slicing, sliceNext := false }
    | none => s

/-- The start of a context that is LOADED or PARKED (R334 steps 1 to 3). -/
def State.startNow (s : State) (c : Nat) : State :=
  let v := s.ctx c
  let s1 := (others c).foldl (fun s d =>
    if (s.ctx d).st == .running && collide (s.ctx d) v then
      (if (s.ctx d).parking then s else s.count (ctrDev 52)).preempt d
    else s) s
  let s2 := (others c).foldl (fun s d =>
    if (s.ctx d).resident && clash (s.ctx d) v && !(s.ctx d).sliceNext then s.sliceOut d else s) s1
  ((s2.setCtx c { v with st := .starting, fromImage := v.st == .loaded, parkNext := false, startAt := s.now }).sliceTurn).settle c

/-- CTXSTART by R329 once nothing moves: the new state and whether it had an effect. On a drained device no context
starts (R426). -/
def State.ctxStartOp (s : State) (c : Nat) : State × Bool :=
  if s.flt.drained then (s, false)
  else match (s.ctx c).st with
  | .loaded => (s.startNow c, true)
  | .parked => (s.startNow c, true)
  | _ => (s, false)

/-- CTXPRE by R329: the new state and whether it had an effect. -/
def State.ctxPreOp (s : State) (c : Nat) : State × Bool :=
  let v := s.ctx c
  match v.st with
  | .starting => (s.setCtx c { v with parkNext := true }, true)
  | .running => (s.preempt c, true)
  | _ => (s, false)

/-- A transition of some context is under way. -/
def State.ctxMoving (s : State) : Bool :=
  (List.range 8).any fun c => (s.ctx c).st == .starting || (s.ctx c).st == .slicing || (s.ctx c).parking

/-- The oldest action may take effect: no transition is under way but one that it cancels (R329); none in D3hot. -/
def State.actReady (s : State) (a : CtxAct) : Bool :=
  !s.d3hot && (!s.ctxMoving || (!a.start && (s.ctx a.ctx).st == .starting))

/-- One action taken: without an effect, its command ends with 0x0334 (R364), and that of a stakeout counts (R329). -/
def State.actTake (s : State) (a : CtxAct) : State :=
  match if a.start then s.ctxStartOp a.ctx else s.ctxPreOp a.ctx with
  | (s1, true) => s1
  | (s1, false) =>
    match a.cmd with
    | some r => if s1.cmd.started.contains r then s1.finish r 0x0334 else s1
    | none => if a.counts then s1.count (ctrDev 4) else s1

/-- Waiting actions taken in their order, at most `fuel` of them, while they may. -/
def State.actsTake (s : State) : (fuel : Nat) → State
  | 0 => s
  | fuel + 1 =>
    match s.ctxActs with
    | [] => s
    | a :: rest => if s.actReady a then ({ s with ctxActs := rest }.actTake a).actsTake fuel else s

/-- The next slice-out begins, every start that waited is examined again, and then the waiting actions. -/
def State.settleAll (s : State) : State :=
  let s1 := (List.range 8).foldl (fun s c => s.settle c) s.sliceTurn
  s1.actsTake s1.ctxActs.length

/-- An action given to the context controller (R329). -/
def State.ctxIssue (s : State) (a : CtxAct) : State :=
  let s1 : State := { s with ctxActs := s.ctxActs ++ [a] }
  s1.actsTake s1.ctxActs.length

/-- The pre-empt of a context has ended: its state lies in its save areas (R329, R332). -/
def State.parked (s : State) (c : Nat) : State :=
  let v := s.ctx c
  if v.st == .running && v.parking then
    let v1 := { v with st := .parked, parking := false }
    let s1 := (((s.suspend c).saveAll c).setCtx c v1).endPreempts c
    (s1.countSwitch c).settleAll
  else s

/-- A slice-out has ended: the Fieldbook range and the state lie in the image, and the context is LOADED (R332). -/
def State.sliceOutDone (s : State) (c : Nat) : State :=
  let v := s.ctx c
  if v.st == .slicing then
    ((((s.copyOut v).blocksOut c).bindsOut c).setCtx c { v with st := .loaded, nslice := min 255 (v.nslice + 1) }).settleAll
  else s

/-- Some byte of the header or of a state block of a footprint unit in the image reads as uncorrectable. -/
def State.blocksBad (s : State) (c : Nat) : Bool :=
  let v := s.ctx c
  !s.bad.isEmpty && (s.badIn v.img 4096 || (footParcels v.foot ++ footTracts v.foot).any fun u =>
    s.badIn (v.blockAddr u) (if u < 16384 then 20480 else 1024))

/-- Why the image of a context cannot be copied (R199, R203). -/
def State.imageStatus (s : State) (v : Ctx) : Nat := s.stackStatus v.img (0x14113000 + 16384 * v.rangeBytes)

/-- A slice-in has ended: the range lies in the Fieldbooks, and the context is RUNNING, or PARKED with its state in its
save areas when its start was cancelled (R329, R332). A block that fails its check, or cannot be read, ends the start
(R62, R189). -/
def State.sliceInDone (s : State) (c : Nat) : State :=
  let v := s.ctx c
  if v.st == .starting && v.fromImage && s.clearFor c then
    if s.imageStatus v ≠ 0 then (s.startFails c .loaded (s.imageStatus v)).settleAll
    else if s.blocksBad c then (s.startFails c .loaded 0x0723).settleAll
    else match (s.copyIn v).blocksIn c with
      | none => (s.startFails c .loaded 0x0802).settleAll
      | some s0 =>
        let s1 := ((s0.saveAll c).bindsIn c).count (ctrDev 54)
        if v.parkNext then
          (((s1.setCtx c { v with fromImage := false }).cancelled c).setCtx c
            { v with st := .parked, parkNext := false, fromImage := false } |>.endPreempts c).settleAll
        else (s1.becomeRunning c).settleAll
  else s

end Sys2Proof.Machine
end

