-- ==== Sys2Proof/Machine/CtxCmds.lean ====
section
/-! DEFINITION. The commands of contexts and of the catalogue, fingerprint flushes by command (spec 12, 13, R304-R316,
R327-R336, R363, R364). -/

namespace Sys2Proof.Machine

/-! ## Transitions of contexts (R329, R332) -/

/-- Every interrupted engine of a context stands at a boundary: no drain is in progress, no MACC stands within a clock, and no
in-place vector entry keeps codes of its own source (R120, R148, log entry 98). -/
def State.atBoundary (s : State) (c : Nat) : Bool :=
  s.eng.all fun kv => keyCtx kv.1 != c || (kv.2.mat.drains.isEmpty && kv.2.mat.betweenClocks && kv.2.vec.atBoundary)

/-- CTX_PARKED: the pre-empt has reached its boundaries. The line requests of the context leave the slices, and its
Bindery descriptors are set aside. -/
def execCtxParked (c : Fin 8) (s : State) : Host.Outcome State Fault Refusal :=
  let v := s.ctx c.val
  if v.st == .running && v.parking && s.atBoundary c.val then .next (((s.bndPark c.val).xPark c.val).parked c.val)
  else .next s

/-- What the bulk copy of a slice reads as uncorrectable is recorded, granule by granule or line by line (R189). -/
def State.copyReport (s : State) (c : Nat) (fromImage : Bool) : State :=
  if s.bad.isEmpty || s.imageStatus (s.ctx c) != 0 then s
  else
    let v := s.ctx c
    let keys := (footParcels v.foot).flatMap fun p =>
      s.badKeys (if fromImage then v.areaAddr p else granAddr p v.fblo) v.rangeBytes
    keys.foldl (fun s k => s.uncRead k codeMgmt) s

/-- The lines of an image that a slice moves, in the bulk class (R179, R183, R332). -/
def State.imageAccess (s : State) (c : Nat) (write : Bool) : State :=
  let v := s.ctx c
  let ranges := (v.img, 4096) :: (footParcels v.foot).flatMap (fun p => [(v.areaAddr p, v.rangeBytes), (v.blockAddr p, 20480)]) ++
    (footTracts v.foot).map fun t => (v.blockAddr t, 1024)
  ranges.foldl (fun s x => s.access .bulk write x.1 x.2) s

/-- CTX_SLICE_OUT_DONE: the context's state and ranges lie in its image. The copy does not end while a stack of the image
refuses access (log entry 116). -/
def execCtxSliceOutDone (c : Fin 8) (s : State) : Host.Outcome State Fault Refusal :=
  if (s.ctx c.val).st == .slicing && s.imageStatus (s.ctx c.val) == 0 then
    .next (((s.copyReport c.val false).imageAccess c.val true).sliceOutDone c.val)
  else .next s

/-- CTX_SLICE_IN_DONE. -/
def execCtxSliceInDone (c : Fin 8) (s : State) : Host.Outcome State Fault Refusal :=
  let v := s.ctx c.val
  if v.st == .starting && v.fromImage && s.clearFor c.val then
    .next (((s.copyReport c.val true).imageAccess c.val false).sliceInDone c.val)
  else .next s

/-! ## Commands of the 0x03xx group (R364) -/

/-- A context number of a command. -/
def ctxOk (c : Byte) : Bool := decide (c.toNat < 8)

/-- OWNER_SET (R327); a change of owner loses the job keys (R440). -/
def execOwnerSet (h : Hdr) (owner : BitVec 32) (s : State) : Host.Outcome State Fault Refusal :=
  .next (s.command h 0x0301 (Instr.params (.ownerSet h owner)) fun s r =>
    if (List.range 8).all fun c => (s.ctx c).st == .free then
      let keys := if owner.toNat = s.owner then s.sec.jobKeys else []
      ({ s with owner := owner.toNat, sec := { s.sec with jobKeys := keys } }).finish r 0
    else s.finish r 0x0330)

/-- What a load is refused with; none where the image may be bound (R327, R329, R331, R494). -/
def State.loadStatus (s : State) (c : Nat) (a : Nat) : Option Nat :=
  let v := s.headerOf a
  if (s.ctx c).st != .free then some 0x0332
  else if s.stackStatus a 4096 ≠ 0 then some (s.stackStatus a 4096)
  else if s.badIn a 4096 then some 0x0723
  else if s.mem.readLE a 4 ≠ s.owner then some 0x0331
  else if !s.headerOk v then some 0x0807
  else
    let us := s.unitsIn v
    let st := firstStatus (us.map (s.stakesLoad v) ++ us.map (s.unitLoad v) ++ [s.bindsLoad c v])
    if st = 0 then none else some st

/-- The first uncorrectable line that the check of an image at `a` meets: of its header, or else of what the header names. -/
def State.loadBad (s : State) (a : Nat) : Nat :=
  let v := s.headerOf a
  let us := s.unitsIn v
  let binds := (List.range 12).map fun h => (s.mem.readLE (v.bindAddr h) 6, (h + 1) * 2 ^ 37 - s.mem.readLE (v.bindAddr h) 6)
  let ranges : List (Nat × Nat) := ((a, 4096) :: us.map fun u => (v.blockAddr u + syncOff u, 896)) ++
    (footParcels v.foot).map (fun p => (v.areaAddr p, v.rangeBytes)) ++ binds
  (ranges.findSome? fun x => (s.badKeys x.1 x.2).head?).getD (a / 256 * 256)

/-- The state once the header of an image at `a` is read, where a load gets that far, with how the code judged its first
line (R201). -/
def State.headerRead (s : State) (c a : Nat) (read : EccResult) : State :=
  if (s.ctx c).st == .free && s.stackStatus a 4096 == 0 && a < 0x018000000000 then
    (s.readVerdict a read).access .control false a 4096
  else s

/-- CTX_LOAD: the image is checked and bound, its stakes at their INIT. `read` is what the first line of its header turns
out to be (R201). -/
def execCtxLoad (h : Hdr) (c : Byte) (addr : BitVec 48) (read : EccResult) (s : State) : Host.Outcome State Fault Refusal :=
  .next (s.command h 0x0302 (Instr.params (.ctxLoad h c addr read)) fun s r =>
    if !ctxOk c then s.finish r 0x0801
    else
      let s := s.headerRead c.toNat addr.toNat read
      match s.loadStatus c.toNat addr.toNat with
      | some st => (if st = 0x0723 then s.lineUnc (s.loadBad addr.toNat) codeMgmt else s).finish r st
      | none =>
        let s1 := (s.purge c.toNat).setCtx c.toNat (s.headerOf addr.toNat)
        (s1.initStakes c.toNat).finish r 0)

/-- CTX_UNLOAD: the state of a parked context is discarded. -/
def execCtxUnload (h : Hdr) (c : Byte) (s : State) : Host.Outcome State Fault Refusal :=
  .next (s.command h 0x0303 (Instr.params (.ctxUnload h c)) fun s r =>
    if !ctxOk c then s.finish r 0x0801
    else match (s.ctx c.toNat).st with
      | .free => s.finish r 0
      | .loaded => ((s.purge c.toNat).setCtx c.toNat Ctx.free).finish r 0
      | .parked => (((s.purge c.toNat).setCtx c.toNat Ctx.free).finish r 0).settleAll
      | _ => s.finish r 0x0333)

/-- CTX_START: its receipt comes once the context is RUNNING. -/
def execCtxStart (h : Hdr) (c : Byte) (s : State) : Host.Outcome State Fault Refusal :=
  .next (s.command h 0x0304 (Instr.params (.ctxStart h c)) fun s r =>
    if !ctxOk c then s.finish r 0x0801
    else (s.begin r).ctxIssue ⟨c.toNat, true, some { r with begun := true }, false⟩)

/-- CTX_PREEMPT: its receipt comes once the context is PARKED. -/
def execCtxPreempt (h : Hdr) (c : Byte) (s : State) : Host.Outcome State Fault Refusal :=
  .next (s.command h 0x0305 (Instr.params (.ctxPreempt h c)) fun s r =>
    if !ctxOk c then s.finish r 0x0801
    else (s.begin r).ctxIssue ⟨c.toNat, false, some { r with begun := true }, false⟩)

/-- A stopped queue runs again, at an address or at its program counter; that of a saved context is marked to run
(R332, R364). -/
def State.resumeQueue (s : State) (key : Nat) (q : Q) (gadr : Nat) : State :=
  let w := s.queue key q
  s.setQueue key q { w with run := .running, pc := if gadr = 0xFFFF then w.pc else gadr, branched := false }

/-- A queue runs, is idle or has stopped, wherever its context's state lies (R332). -/
def State.queueRun (s : State) (c u : Nat) (q : Q) : QRun :=
  let v := s.ctx c
  if v.inImage then qrunOf ((s.mem.read (v.queueAddr u q + 6)).toNat % 4) else (s.queue (engKey c u) q).run

/-- QUEUE_RESUME (R154, R364). A reserved ORD in the path is a reserved code (R15). -/
def execQueueResume (h : Hdr) (path : BitVec 24) (q : Byte) (c : Byte) (gadr : BitVec 16) (s : State) :
    Host.Outcome State Fault Refusal :=
  .next (s.command h 0x0306 (Instr.params (.queueResume h path q c gadr)) fun s r =>
    if !ctxOk c || 3 < q.toNat || 2 ^ 17 ≤ path.toNat || 4 < path.toNat % 8 then s.finish r 0x0801
    else match pathUnit path.toNat with
      | none => s.finish r 0x0732
      | some u =>
        if !inFoot (s.ctx c.toNat).foot u then s.finish r 0x0732
        else if s.queueRun c.toNat u (ixQ q.toNat) != .stopped then s.finish r 0x0335
        else (s.onSaved c.toNat [u] fun s => s.resumeQueue (engKey c.toNat u) (ixQ q.toNat) gadr.toNat).finish r 0)

/-! ## The catalogue (R304-R316, R363) -/

/-- A range of catalogue entries. -/
def catRangeOk (first count : Nat) : Bool := decide (1 ≤ count) && decide (first + count ≤ 65536)

/-- CAT_CONFIG. -/
def execCatConfig (h : Hdr) (first : BitVec 16) (count : BitVec 24) (fmt dm : Byte) (wth : BitVec 16) (s : State) :
    Host.Outcome State Fault Refusal :=
  .next (s.command h 0x0204 (Instr.params (.catConfig h first count fmt dm wth)) fun s r =>
    if !catRangeOk first.toNat count.toNat || !catFmtOk fmt.toNat then s.finish r 0x0801
    else (s.catCommand (.config first.toNat count.toNat fmt.toNat (dm.toNat % 16 + 1) (dm.toNat / 16) wth.toNat)).finish r 0)

/-- A save or load of catalogue images. -/
def State.catImage (s : State) (r : Started) (first count a : Nat) (f : State → State) : State :=
  if !catRangeOk first count then s.finish r 0x0801
  else if a % 64 ≠ 0 then s.finish r 0x0741
  else if s.fwStatus a (64 * count) ≠ 0 then s.finish r (s.fwStatus a (64 * count))
  else f s

/-- CAT_SAVE. -/
def execCatSave (h : Hdr) (first : BitVec 16) (count : BitVec 24) (addr : BitVec 48) (s : State) :
    Host.Outcome State Fault Refusal :=
  .next (s.command h 0x0205 (Instr.params (.catSave h first count addr)) fun s r =>
    s.catImage r first.toNat count.toNat addr.toNat fun s =>
      (((s.storeCat first.toNat count.toNat addr.toNat).captureWrite addr.toNat (64 * count.toNat)).access .control true
        addr.toNat (64 * count.toNat)).finish r 0)

/-- CAT_LOAD: the images are read now, and take effect by R305. -/
def execCatLoad (h : Hdr) (first : BitVec 16) (count : BitVec 24) (addr : BitVec 48) (s : State) :
    Host.Outcome State Fault Refusal :=
  .next (s.command h 0x0206 (Instr.params (.catLoad h first count addr)) fun s r =>
    s.catImage r first.toNat count.toNat addr.toNat fun s =>
      let es := (List.range count.toNat).map fun i => catOfBytes (s.mem.readN (addr.toNat + 64 * i) 64)
      if s.badIn addr.toNat (64 * count.toNat) then (s.uncRead addr.toNat codeMgmt).finish r 0x0723
      else if es.any (·.isNone) then s.finish r 0x0801
      else ((s.access .control false addr.toNat (64 * count.toNat)).catCommand (.load first.toNat (es.filterMap id))).finish r 0)

/-- CAT_UNSEED. -/
def execCatUnseed (h : Hdr) (first : BitVec 16) (count : BitVec 24) (s : State) : Host.Outcome State Fault Refusal :=
  .next (s.command h 0x0207 (Instr.params (.catUnseed h first count)) fun s r =>
    if !catRangeOk first.toNat count.toNat then s.finish r 0x0801
    else (s.catCommand (.unseed first.toNat count.toNat)).finish r 0)

/-- FP_FLUSH (R196): `count` is the number of units less one. -/
def execFpFlush (h : Hdr) (first : Byte) (count : Byte) (s : State) : Host.Outcome State Fault Refusal :=
  .next (s.command h 0x0208 (Instr.params (.fpFlush h first count)) fun s r =>
    if 127 < first.toNat || 127 < count.toNat then s.finish r 0x0801
    else (s.fpFlushRange first.toNat (count.toNat + 1)).finish r 0)

/-- The SEEDSTK of the area of context `c`, where it is valid and set. -/
def State.seedStake (s : State) (c : Nat) : Option (Nat × Nat) :=
  let a := (s.area c).addr
  if (s.area c).en && !s.badIn (a + 12) 4 && (s.mem.readLE (a + 15) 1).testBit 0 then
    (stakeRef c (s.mem.readLE (a + 12) 3)).filter fun w => s.stakeNow w.1 w.2 == .set
  else none

/-- CAT_SEED_REQUEST: the engine consumes SEEDSTK and serves the request, once no wrap processing runs (R315). -/
def execCatSeedRequest (c : Fin 8) (s : State) : Host.Outcome State Fault Refusal :=
  let s0 := s.checkArea c.val
  match s0.seedStake c.val with
  | none => .next s0
  | some w =>
    let s1 := s0.takeStake w.1 w.2
    if s1.cat.busy then .next { s1 with cat := { s1.cat with heldSeeds := s1.cat.heldSeeds ++ [c.val] } }
    else .next (s1.seedRequest c.val)

/-- The keys of parcels in which a context runs and an MDECL waits. -/
def State.waitingMdecls (s : State) : List Nat :=
  (s.eng.filter fun kv => decide (keyUnit kv.1 < 16384) && s.runsIn (keyCtx kv.1) (keyUnit kv.1) &&
    (kv.2.engineHead .m).any fun h => fld h.2 0 8 == 1).map (·.1)

/-- CATALOGUE_WRAP_PROCESSING_DONE: BUSY clears, the seed requests that waited are taken, and waiting MDECLs look at
their sources (R313, R315). -/
def execCatalogueWrapProcessingDone (s : State) : Host.Outcome State Fault Refusal :=
  if !s.cat.busy then .next s
  else
    let held := s.cat.heldSeeds
    let s1 : State := { s with cat := { s.cat with busy := false, heldSeeds := [] } }
    let s2 := held.foldl (fun s c => s.seedRequest c) s1
    .next (s2.waitingMdecls.foldl (fun s k => s.mRetry (keyCtx k) (keyUnit k)) s2)

end Sys2Proof.Machine
end

