-- ==== Sys2Proof/Machine/Rings.lean ====
section
/-! DEFINITION. The host interface: doorbells, the direct word, the fetch of commands, receipts' signals, and T4
(spec 14, R345-R361). -/

namespace Sys2Proof.Machine

/-! ## Accesses of the host (R10, R345, R381, R460) -/

/-- A host write to BAR0 or BAR4: before READY a host-access fault. -/
def State.hostWrite (s : State) (addr : Nat) (f : State → State) : State :=
  if !s.mod.ready then s.hostFault addr else f s

/-- A submission doorbell written at `us` µs: the tail moves, and the moment at which it did is kept for R358. -/
def State.subDoorbell (s : State) (q v us : Nat) : State :=
  let off := 0x1000 * q
  s.hostWrite off fun s =>
    let g := s.sub q
    if v / 4096 ≠ 0 || !g.en then s.hostFault off
    else s.setSub q { g with tail := v, bells := if g.tail = v then g.bells else g.bells ++ [(v, us)] }

/-- SUBMISSION_DOORBELL. -/
def execSubmissionDoorbell (q : Fin 64) (v : BitVec 32) (us : Nat) (s : State) : Host.Outcome State Fault Refusal :=
  .next (s.subDoorbell q.val v.toNat us)

/-- A receipt doorbell written: slots are free again, for fetches that wait and for the receipt that tells of lost
events. -/
def State.rcpDoorbell (s : State) (r v : Nat) : State :=
  let off := 0x40000 + 0x1000 * r
  s.hostWrite off fun s =>
    let g := s.rcp r
    if v / 4096 ≠ 0 || !g.en then s.hostFault off
    else
      let s1 := (s.setRcp r { g with head := v }).lostEvents
      { s1 with cmd := { s1.cmd with stalled := [] } }

/-- RECEIPT_DOORBELL. -/
def execReceiptDoorbell (r : Fin 64) (v : BitVec 32) (s : State) : Host.Outcome State Fault Refusal :=
  .next (s.rcpDoorbell r.val v.toNat)

/-- EN of a submission ring: from 0 to 1 it starts at head and tail 0. -/
def State.subEnable (s : State) (q : Nat) (en : Bool) : State :=
  let g := s.sub q
  if en && !g.en then
    let s1 := s.setSub q { g with en := true, head := 0, tail := 0, bells := [], passed := 0 }
    { s1 with cmd := { s1.cmd with stalled := s1.cmd.stalled.filter (· != q), counted := s1.cmd.counted.filter (· != q) } }
  else s.setSub q { g with en := en }

/-- SUBMISSION_RING_ENABLE. -/
def execSubmissionRingEnable (q : Fin 64) (en : Bool) (s : State) : Host.Outcome State Fault Refusal :=
  .next (s.hostWrite (0x10600 + 4 * q.val) fun s => s.subEnable q.val en)

/-- EN of a receipt ring: from 0 to 1 it starts at head and tail 0 with PHASE 1. -/
def State.rcpEnable (s : State) (r : Nat) (en : Bool) : State :=
  let g := s.rcp r
  if en && !g.en then
    let s1 := (s.setRcp r { g with en := true, head := 0, tail := 0, phase := true, unsignalled := 0 }).lostEvents
    { s1 with cmd := { s1.cmd with stalled := [] } }
  else s.setRcp r { g with en := en }

/-- RECEIPT_RING_ENABLE. -/
def execReceiptRingEnable (r : Fin 64) (en : Bool) (s : State) : Host.Outcome State Fault Refusal :=
  .next (s.hostWrite (0x10700 + 4 * r.val) fun s => s.rcpEnable r.val en)

/-- RECEIPT_SIGNAL_TIMER: CTIM has passed since the first receipt not yet signalled (R354). -/
def execReceiptSignalTimer (r : Fin 64) (s : State) : Host.Outcome State Fault Refusal :=
  let g := s.rcp r.val
  if g.en && decide (0 < g.unsignalled) then .next ((s.setRcp r.val { g with unsignalled := 0 }).signal g.vec) else .next s

/-! ## Started commands -/

/-- A receipt slot reserved and a command started (R353). -/
def State.startCmd (s : State) (r : Started) : State :=
  let g := s.rcp r.rr
  let s1 := s.setRcp r.rr { g with reserved := g.reserved + 1 }
  let r1 := { r with uid := s1.cmd.nextUid, holds := mayStart s1.cmd.started r }
  { s1 with cmd := { s1.cmd with started := s1.cmd.started ++ [r1], nextUid := s1.cmd.nextUid + 1 } }

/-! ## The direct word (R346) -/

/-- The record of a direct command, whose parameters are its context. -/
def directRecord (v : Nat) : Started :=
  let c := bitsOf v 16 3
  { op := bitsOf v 0 16, q := 0, acc := 0xFFFFFFFFFF000000 + bitsOf v 32 24, rr := bitsOf v 24 6, direct := true, fence := false,
    delayed := false, sqhead := 0, objs := [(objCtx, c, c)], begun := false, items := 0, hushed := false,
    linkLate := false, uid := 0, params := toLE 1 c, holds := false }

/-- A direct command discarded. -/
def State.dropDirect (s : State) : State := { s with cmd := { s.cmd with ddrop := true } }.count (ctrDev 18)

/-- Direct commands that wait on their context. -/
def State.directWaiting (s : State) : Nat := (s.cmd.started.filter fun r => r.direct && !r.holds).length

/-- The direct word written. -/
def State.directWrite (s : State) (v : Nat) : State :=
  let r := directRecord v
  s.hostWrite 0x80000 fun s =>
    if !(r.op == 0x0304 || r.op == 0x0305) then s.hostFault 0x80000
    else if (s.rcp r.rr).freeSlots = 0 then s.dropDirect
    else
      if !mayStart s.cmd.started r && decide (8 ≤ s.directWaiting) then s.dropDirect else s.startCmd r

/-- DIRECT_WORD. -/
def execDirectWord (v : BitVec 64) (s : State) : Host.Outcome State Fault Refusal := .next (s.directWrite v.toNat)

/-! ## The slot of a command (R347, R361-R369) -/

/-- The fields of a slot. -/
structure CmdSlot where
  op : Nat
  flags : Nat
  rr : Nat
  acc : Nat
  plen : Nat
  paddr : Nat
  bytes : List Byte
  deriving DecidableEq, Repr

/-- A slot's fields. -/
def cmdSlotOf (b : List Byte) : CmdSlot :=
  ⟨leAt b 0 2, leAt b 2 1, leAt b 3 1, leAt b 4 8, leAt b 12 2, leAt b 16 8, b⟩

/-- A header that keeps R347. -/
def CmdSlot.ok (l : CmdSlot) : Bool :=
  decide (l.flags ≤ 1) && decide (l.rr < 64) && decide (l.plen ≤ 4096) && zeroBytes l.bytes 14 15 && zeroBytes l.bytes 24 31 &&
  (if l.plen ≤ 32 then l.paddr == 0 && ((l.bytes.drop (32 + l.plen)).all (· == 0)) else l.paddr % 64 == 0)

/-- The parameters of a command: in its slot, or read at PADDR. -/
def CmdSlot.params (l : CmdSlot) (read : List Byte) : List Byte :=
  if l.plen ≤ 32 then (l.bytes.drop 32).take l.plen else read

/-- PLEN by the opcode's table, its parameters given; none for an opcode that no table lists (R362-R369). -/
def plenOf (op : Nat) (p : List Byte) : Option Nat :=
  match op with
  | 0x0100 => some 0 | 0x0101 => some 8 | 0x0102 => some 0 | 0x0103 => some 0 | 0x0104 => some 16
  | 0x0201 => some (8 + 8 * leAt p 0 2) | 0x0202 => some 160 | 0x0203 => some 4 | 0x0204 => some 10 | 0x0205 => some 14
  | 0x0206 => some 14 | 0x0207 => some 5 | 0x0208 => some 2
  | 0x0301 => some 4 | 0x0302 => some 16 | 0x0303 => some 1 | 0x0304 => some 1 | 0x0305 => some 1 | 0x0306 => some 8
  | 0x0401 => some 8 | 0x0402 => some (8 + 4 * leAt p 4 2) | 0x0403 => some (8 + 4 * leAt p 6 2) | 0x0404 => some 2
  | 0x0405 => some 22 | 0x0406 => some 2 | 0x0407 => some (128 + 4 * leAt p 23 1) | 0x0408 => some 2
  | 0x0501 => some 20 | 0x0502 => some 1
  | 0x0601 => some 4 | 0x0602 => some 1 | 0x0603 => some 72 | 0x0604 => some 16
  | 0x0701 => some 16 | 0x0702 => some 4 | 0x0703 => some 0 | 0x0704 => some 28 | 0x0705 => some 4 | 0x0706 => some 4
  | 0x0707 => some 4 | 0x0708 => some 4
  | 0x0801 => some 40 | 0x0802 => some 8 | 0x0803 => some 4096
  | 0x0901 => some 1 | 0x0902 => some 0 | 0x0903 => some 0 | 0x0904 => some 16
  | 0x0A01 => some 24 | 0x0A02 => some 8 | 0x0A03 => some 1
  | _ => none

/-- The objects that a command names (R350): a context, too, by its number or in a mask of contexts, and the order-3 tracts of
a survey's mask. -/
def namedObjs (op : Nat) (p : List Byte) : List (Nat × Nat × Nat) :=
  let one := fun (k i : Nat) => [(k, i, i)]
  match op with
  | 0x0201 => (List.range (leAt p 0 2)).map fun i => (objShelf, leAt p (8 + 8 * i) 2, leAt p (8 + 8 * i) 2)
  | 0x0202 => one objBindery (leAt p 0 1)
  | 0x0203 => ((List.range 12).filter fun h => (leAt p 0 2).testBit h).map (fun h => (objBindery, h, h)) ++
      ((List.range 8).filter fun c => (leAt p 2 1).testBit c).map fun c => (objCtx, c, c)
  | 0x0204 => [(objCat, leAt p 0 2, leAt p 0 2 + leAt p 2 3 - 1)]
  | 0x0205 => [(objCat, leAt p 0 2, leAt p 0 2 + leAt p 2 3 - 1)]
  | 0x0206 => [(objCat, leAt p 0 2, leAt p 0 2 + leAt p 2 3 - 1)]
  | 0x0207 => [(objCat, leAt p 0 2, leAt p 0 2 + leAt p 2 3 - 1)]
  | 0x0302 => one objCtx (leAt p 0 1)
  | 0x0303 => one objCtx (leAt p 0 1)
  | 0x0304 => one objCtx (leAt p 0 1)
  | 0x0305 => one objCtx (leAt p 0 1)
  | 0x0306 => one objUnit (leAt p 0 3 % 2 ^ 17 * 16) ++ one objCtx (leAt p 4 1)
  | 0x0403 => one objStract (leAt p 0 2)
  | 0x0404 => one objStract (leAt p 0 2)
  | 0x0405 => one objClosure (leAt p 0 2) ++ one objCtx (leAt p 2 1)
  | 0x0406 => one objClosure (leAt p 0 2)
  | 0x0407 => one objCol (leAt p 0 2 % 4096) ++ one objCtx (leAt p 2 1 % 8)
  | 0x0408 => one objCol (leAt p 0 2)
  | 0x0501 => one objStakeout (leAt p 0 1)
  | 0x0502 => one objStakeout (leAt p 0 1)
  | 0x0701 => ((List.range 4).filter fun i => (leAt p 12 1).testBit i).map fun i =>
      (objUnit, codeUnit (enclosing (4096 * i) 3), codeUnit (enclosing (4096 * i) 3))
  | 0x0705 => one objUnit (leAt p 0 4)
  | 0x0706 => one objUnit (leAt p 0 4)
  | 0x0707 => one objUnit (leAt p 0 4)
  | 0x0708 => one objUnit (leAt p 0 3 % 2 ^ 17 * 16)
  | 0x0A02 => one objUnit (leAt p 4 4)
  | _ => []

/-- What a command holds until its receipt: the objects that it names, and the security unit, which runs one security
command at a time, in order of fetch (R350, R443). -/
def cmdObjs (op : Nat) (p : List Byte) : List (Nat × Nat × Nat) :=
  namedObjs op p ++ (if op / 256 = 8 || op / 256 = 10 then [(objSecurity, 0, 0)] else [])

/-! ## The fetch (R348-R353, R357, R358) -/

/-- Rings with commands to fetch, but for those whose next command waits. -/
def State.fetchable (s : State) : List Nat :=
  (List.range 64).filter fun q => (s.sub q).en && (s.sub q).head != (s.sub q).tail && !s.cmd.stalled.contains q

/-- The first of `qs` after `last`, in ring order. -/
def nextAfter (qs : List Nat) (last : Nat) : Option Nat := (qs.find? fun q => decide (last < q)) <|> qs.head?

/-- The ring that is fetched next (R351): one passed over 64 times, or else the next of the lowest PRI. -/
def State.fetchRing (s : State) : Option Nat :=
  let qs := s.fetchable
  match qs.find? fun q => decide (64 ≤ (s.sub q).passed) with
  | some q => some q
  | none =>
    let pri := qs.foldl (fun a q => min a (s.sub q).pri) 3
    nextAfter (qs.filter fun q => (s.sub q).pri == pri) (s.cmd.rrPri.getD pri 63)

/-- The ring's next command waits: for a receipt slot, which counts once for each fetch that is held (R372), or for a place
among the started ones. -/
def State.stall (s : State) (q : Nat) (rcpt : Bool) : State :=
  let new := rcpt && !s.cmd.counted.contains q
  let s1 : State := { s with cmd := { s.cmd with
    stalled := s.cmd.stalled ++ [q], counted := if new then q :: s.cmd.counted else s.cmd.counted } }
  if new then s1.count (ctrDev 13) else s1

/-- A slot has been fetched from ring `q`: its head moves on, the other rings have been passed over. -/
def State.fetched (s : State) (q : Nat) : State :=
  let s1 := (s.fetchable.filter (· != q)).foldl (fun s x => s.setSub x { s.sub x with passed := (s.sub x).passed + 1 }) s
  let g := s1.sub q
  let head := (g.head + 1) % 4096
  let s2 := s1.setSub q { g with head := head, passed := 0, bells := g.bells.filter fun b => b.1 != head }
  { s2 with cmd := { s2.cmd with rrPri := s2.cmd.rrPri.set g.pri q,
                                 counted := s2.cmd.counted.filter (· != q) } }.count (ctrDev 12)

/-- A fetched command answered at once. -/
def State.answerSlot (s : State) (q : Nat) (l : CmdSlot) (rr status : Nat) : State :=
  s.receipt ⟨rr, status, l.op, false, q, (s.sub q).head, l.acc, []⟩

/-- SQLAST of ring `q` takes a fetched command's accession number (R348). -/
def State.numbered (s : State) (q : Nat) (l : CmdSlot) : State := s.setSub q { s.sub q with last := l.acc }

/-- A fetch that ended with a PCI Express error (R351): the ring stops, and a command whose header was read is
answered: with 0x0341 if its accession number is stale, else with 0x0771. -/
def State.fetchError (s : State) (q : Nat) (header : Bool) (l : CmdSlot) (rr : Nat) : State :=
  let s1 :=
    if !header then s
    else if l.acc ≤ (s.sub q).last then (s.fetched q).answerSlot q l rr 0x0341
    else ((s.fetched q).numbered q l).answerSlot q l rr 0x0771
  (s1.setSub q { s1.sub q with en := false, err := true }).log 0x0001 0x0771 0 0xFFFFFFFF ((s.sub q).base + 64 * (s.sub q).head) 0

/-- A firmware command is a new request to management cores that are out of service; one that names them is not refused, or
they could not be resumed (R414, log entry 150). -/
def State.mgmtRefuses (s : State) (op : Nat) (p : List Byte) : Bool :=
  s.svcOf codeMgmt != Svc.inService && !fastOp op && !(namedObjs op p).contains (objUnit, codeMgmt, codeMgmt)

/-- What a fetched command of ring `q` does first: it is answered, or it starts. A stale accession number comes before a
malformed header or parameter, and a fresh one is taken by SQLAST before those are looked at (log entry 66). -/
def State.takeSlotCmd (s : State) (q us : Nat) (l : CmdSlot) (rr : Nat) (params : List Byte) : State :=
  let g := s.sub q
  let late := (g.bells.head?).any fun b => decide (b.2 + s.cmd.dlyth < us)
  let s1 := s.fetched q
  let p := l.params params
  if l.acc ≤ g.last then s1.answerSlot q l rr 0x0341
  else
    let s2 := s1.numbered q l
    if !l.ok || plenOf l.op p != some l.plen || !paramsOk l.op p then s2.answerSlot q l rr 0x0801
    else if s2.mgmtRefuses l.op p then s2.answerSlot q l rr 0x0301
    else s2.startCmd { op := l.op, q := q, acc := l.acc, rr := rr, direct := false, fence := l.flags == 1, delayed := late,
                       sqhead := (s2.sub q).head, objs := cmdObjs l.op p, begun := false, items := 0, hushed := false,
                       linkLate := false, uid := 0, params := p, holds := false }

/-- COMMAND_FETCH: the slot at the head of ring `q` read at `us` µs, with its parameters where they lie outside it. Another
ring's turn, or nothing to fetch: no effect. A header whose RRING names no ring is answered on receipt ring `q`
(log entry 32). -/
def execCommandFetch (q : Fin 64) (us : Nat) (error : Bool) (slot params : List Byte) (s : State) :
    Host.Outcome State Fault Refusal :=
  if s.d3hot || !s.mod.ready || s.fetchRing != some q.val then .next s
  else
    let l := cmdSlotOf slot
    let header := slot.length == 64
    let rr := if l.rr < 64 then l.rr else q.val
    if error && !header then .next (s.fetchError q.val false l rr)
    else if (s.rcp rr).freeSlots = 0 then .next (s.stall q.val true)
    else if !fastOp l.op && (!s.cmd.fwrun || decide (256 ≤ s.cmdHeld)) then .next (s.stall q.val false)
    else if error then .next (s.fetchError q.val true l rr)
    else .next (s.takeSlotCmd q.val us l rr params)

/-! ## T4 (R359) -/

/-- Items of a begun command that are in progress: the shelves that change, a unit that quiesces, a descriptor that runs
(R359). -/
def State.itemsUnderWay (s : State) (r : Started) : Nat :=
  if !r.begun then 0
  else match r.op with
  | 0x0201 => (r.objs.filter fun o => o.1 == objShelf && (s.shelf o.2.1).qst != 0).length
  | 0x0202 => (r.objs.filter fun o => (s.bindery o.2.1).hostAcc.head? == some r.acc &&
      ((s.bindery o.2.1).hostSaved.isSome || (s.bindery o.2.1).cur.any fun x => x.ctx.isNone)).length
  | 0x0705 => 1
  | 0x0706 => 1
  | 0x0A02 => 1
  | _ => 0

/-- T4 of a command: what it has not begun is given up, and it ends now, or when its items in progress are finished; their count
is known by then. -/
def State.expire (s : State) (r : Started) : State :=
  let n := s.itemsUnderWay r
  let r1 := if r.op == 0x0201 && r.begun then { r with items := s.shelvesDone r + n } else r
  let s1 := (s.count (ctrDev 43)).giveUp r
  let c := s1.cmd
  let s2 := ({ s1 with cmd := { c with expired := r.uid :: c.expired } }).putStarted r r1
  if n = 0 then s2.finish r1 0x0507 else s2

/-- COMMAND_T4_EXPIRY. -/
def execCommandT4Expiry (h : Hdr) (s : State) : Host.Outcome State Fault Refusal :=
  match s.cmd.started.find? fun r => r.isFor h && !s.cmd.expired.contains r.uid with
  | some r => .next (s.expire r)
  | none => .next s

end Sys2Proof.Machine
end

