-- ==== Sys2Proof/Machine/Restart.lean ====
section
/-! DEFINITION. Warm reset (spec 19, R455, R457, R464). -/

namespace Sys2Proof.Machine

/-- The contents of every Fieldbook are gone. -/
def State.clearFieldbooks (s : State) : State :=
  { s with mem := s.mem.clear 0xC00000000000 0x2000000000, bad := Map.keep s.bad fun k _ => decide (k < 0xC00000000000) }

/-- The contexts resident in the device, as a mask. -/
def State.residents (s : State) : Nat :=
  (List.range 8).foldl (fun a c => a + (if (s.ctx c).resident then 2 ^ c else 0)) 0

/-- A security command whose sequence runs: the security unit is not reset, and the command finishes (R455). -/
def Started.secures (r : Started) : Bool := (r.op / 256 == 8 || r.op / 256 == 10) && r.holds && !r.begun

/-- Steps 1 and 2: started firmware commands, and commands that wait for a context, end with 0x0404; a security command first
finishes its sequence. Runs and rounds fail; EPOCH packets follow, with the die's epoch as it is after the reset. -/
def State.warmNotices (s : State) : State :=
  let ends := fun (r : Started) => (!fastOp r.op || (r.begun && r.op != 0x0901)) && !r.secures
  let c := s.cmd
  let s0 : State := { s with cmd := { c with aborted := (c.started.filter Started.secures).map (·.uid) ++ c.aborted } }
  let s1 := (s.cmd.started.filter ends).foldl (fun s r => s.finish r 0x0404) s0
  let named := s1.namedStations
  let mask := s1.residents
  let s2 := (s1.colsFail (fun _ => true) 0x0403).closuresFail (fun _ => true) 0x0602
  let s3 : State := { s2 with flt := { s2.flt with epochBase := (s2.flt.epochBase + 1) % 65536 } }
  let body := bytesAt (toLE 4 (codeUnit 17476) ++ toLE 2 (s3.epochOf (codeUnit 17476)) ++ toLE 1 mask) 0 48
  named.foldl (fun s d => s.sendOn (s.packet 6 d 5 0 0 body)) s3

/-- Step 3 on the state of the units: engines, contexts, closures, tracts, collectives and Binderies are gone; shelves that
were changing keep their old place; slices drop their requests. -/
def State.warmUnits (s : State) : State :=
  { s with
    eng := [], ctxs := [], ctxActs := [], closures := [], stracts := [], cols := [], bnd := [], bndWaits := [],
    hbm := Map.mapVals s.hbm fun _ v => if v.st = 2 then { v with st := 1 } else v,
    arc := { s.arc with
      shelves := Map.mapVals s.arc.shelves fun _ v => { v with qst := 0, target := none },
      slices := [], cache := [] },
    fab := { s.fab with waiting := [], acks := [], inbox := s.fab.inbox.filter (·.ptype != 3),
                        kept := s.fab.kept.filter (·.ptype != 3) },
    cat := { s.cat with busy := false, heldSeeds := [] },
    flt := { s.flt with svc := Map.keep s.flt.svc fun _ v => v == .disabled, replay := none, drained := false },
    pwr := { s.pwr with tripped := false, fill := none },
    sec := s.sec.sessionEnds,
    mod := { s.mod with tripLow := false, napped := [], warmNext := false, gated := [] } }

/-- Step 4 on the links: a sub-port that was UP makes a fast retrain, and so does one whose quiesce ends with the reset;
one that a quiesce of its port took DOWN trains. Every epoch is one on. In D-Sleep the links stay down (R457). -/
def State.warmPort (s : State) (p : Nat) (quiet : Bool) : State :=
  let v := { s.port p with epoch := ((s.port p).epoch + 1) % 65536 }
  let s1 := s.setPort p v
  if s.d3hot && s.d3depth then (if v.st = 8 then s.subportDown p else s1)
  else if v.st = 7 || v.st = 8 then (s1.setPort p { v with st := 7, follow := false }).retrainFast p
  else if v.st = 1 && quiet then s1.trainIfEnabled p
  else s1

/-- A warm reset. The firmware restarts where it has a good copy; a flagged device is drained again. -/
def State.warmReset (s : State) : State :=
  let quiet := fun p => s.svcOf (codePort (p / 4)) != .inService
  let s1 := ((s.warmNotices.writeBack fun _ => true).invalidate fun _ => true).warmUnits.clearFieldbooks
  let s2 := (List.range 128).foldl (fun s p => if s.present p then s.warmPort p (quiet p) else s) s1
  let b := s2.brg
  let s3 : State := { s2 with brg := { b with st := .unlocked, run := false, b0 := b.bearingAt s2.now, due := [], top := false,
                                              src := none, foreign := 0 } }
  let s4 := ({ s3 with cmd := { s3.cmd with fwrun := s3.mod.ready } }).fatal false
  if s4.flt.flagged then s4.drainDevice else s4

/-- A warm reset asked for: after a thermal trip it takes effect only once TMAX is below 90 °C (R398). -/
def State.requestWarm (s : State) : State :=
  if s.pwr.tripped && decide (90 ≤ s.tmax) then { s with mod := { s.mod with warmNext := true } } else s.warmReset

end Sys2Proof.Machine
end

