-- ==== Sys2Proof/Machine/Power.lean ====
section
/-! DEFINITION. Power, droop and thermal control (spec 16, R387-R409). -/

namespace Sys2Proof.Machine

/-! ## Operating points (R389, R390, R392) -/

/-- The effective point (R389). -/
def Pwr.wanted (p : Pwr) : Nat := max p.req (max p.tceil p.cceil)

/-- A change of the effective point starts, or replaces, the sequence of R390, whose new target is still to be locked, though a
droop event held the switch to the old one back; a sequence that has switched ends first. -/
def Pwr.retarget (p : Pwr) : Pwr :=
  match p.change with
  | some ⟨_, true⟩ => p
  | _ => if p.wanted = p.eff then { p with change := none, pend := false }
         else if p.change = some ⟨p.wanted, false⟩ then p
         else { p with change := some ⟨p.wanted, false⟩, pend := false }

/-- An OPPOINT request (R389). -/
def State.oppRequest (s : State) (point : Nat) (stakeout : Bool) : State :=
  { s with pwr := { s.pwr with req := point, src := stakeout }.retarget }

/-- The switch is decided: the A domains take the target. Downwards, the voltage ramp follows. -/
def State.oppSwitchNow (s : State) (target : Nat) : State :=
  let p := s.pwr
  let down := decide (p.eff < target)
  let p1 := { p with eff := target, pend := false, change := if down then some ⟨target, true⟩ else none }
  { s with pwr := if down then p1 else p1.retarget }.count (ctrDev 28)

/-- OPP_SWITCH: the target's generator is locked, and upwards its voltage is reached; the switch waits for the end of a
droop event (R392). -/
def execOppSwitch (s : State) : Host.Outcome State Fault Refusal :=
  match s.pwr.change with
  | some ⟨t, false⟩ =>
    if s.pwr.droop then
      if s.pwr.pend then .next s else .next ({ s with pwr := { s.pwr with pend := true } }.count (ctrDev 29))
    else .next (s.oppSwitchNow t)
  | _ => .next s

/-- OPP_VOLTAGE_RAMP_DONE: a falling ramp after its switch has ended, and a point that arose meanwhile starts its own
sequence (R390). -/
def execOppVoltageRampDone (s : State) : Host.Outcome State Fault Refusal :=
  match s.pwr.change with
  | some ⟨_, true⟩ => .next { s with pwr := { s.pwr with change := none }.retarget }
  | _ => .next s

/-! ## Droop (R391, R392) -/

/-- DROOP_DETECT: the domain's clock is stretched, and a droop event is in progress. -/
def execDroopDetect (d : Fin 64) (s : State) : Host.Outcome State Fault Refusal :=
  let st := if s.pwr.stretched.contains d.val then s.pwr.stretched else s.pwr.stretched ++ [d.val]
  .next { s with pwr := { s.pwr with stretched := st, droop := true } }

/-- DROOP_STRETCH_END: the margin has returned; a stretch lasts at least 8 stretched cycles. -/
def execDroopStretchEnd (d : Fin 64) (cycles : Nat) (s : State) : Host.Outcome State Fault Refusal :=
  if cycles < 8 then .next s
  else .next { s with pwr := { s.pwr with stretched := s.pwr.stretched.filter (· != d.val) } }

/-- DROOP_EVENT_END: 50 µs after the last stretch; a switch that waited is decided now. -/
def execDroopEventEnd (s : State) : Host.Outcome State Fault Refusal :=
  if !s.pwr.droop || !s.pwr.stretched.isEmpty then .next s
  else
    let s1 : State := { s with pwr := { s.pwr with droop := false } }
    match s.pwr.change, s.pwr.pend with
    | some ⟨t, false⟩, true => .next (s1.oppSwitchNow t)
    | _, _ => .next s1

/-! ## Bubbles (R393-R396) -/

/-- `update` of R393. -/
def bubbleUpdate (p lim b gain bmax : Nat) : Nat :=
  let d : Int := Int.tdiv ((gain : Int) * 256 * ((p : Int) - lim)) lim
  min (bmax * 256) ((b : Int) + d).toNat

/-- `fraction` of R393; EXTB above BMAX acts as BMAX. -/
def Pwr.fraction (p : Pwr) : Nat :=
  max (max p.bcap p.bcur) (max (if p.ext then min p.extb p.bmax * 256 else 0) (if p.emergency then p.bmax * 256 else 0))

/-- CCEIL after an update of b_CAP (R395). -/
def Pwr.ceiling (p : Pwr) : Pwr :=
  let mx := if p.bcap = p.bmax * 256 then p.maxRun + 1 else 0
  let zr := if p.bcap = 0 then p.zeroRun + 1 else 0
  if 10 ≤ mx then { p with cceil := min 5 (p.cceil + 1), maxRun := 0, zeroRun := zr }
  else if 10000 ≤ zr then { p with cceil := p.cceil - 1, maxRun := mx, zeroRun := 0 }
  else { p with maxRun := mx, zeroRun := zr }

/-- The two fractions moved: against the cap by the power that MODE selects, and against the guard by the larger
relative excess of power and current (R395). -/
def Pwr.limits (p : Pwr) (est measured milliamps : Nat) : Pwr :=
  let bc := bubbleUpdate (if p.mode then est else measured) p.cap p.bcap p.gain p.bmax
  let bw := bubbleUpdate measured 5200 p.bcur p.gain p.bmax
  let ba := bubbleUpdate milliamps 125000 p.bcur p.gain p.bmax
  ({ p with bcap := bc, bcur := max bw ba }).ceiling

/-! ## Throttle reasons and their episodes (R402-R404) -/

/-- The reasons in force, each with its stack for MEM or 255. -/
def State.reasons (s : State) : List (Nat × Nat) :=
  let p := s.pwr
  (if 0 < p.bcap || 0 < p.cceil then [(1, 255)] else []) ++ (if 0 < p.bcur then [(2, 255)] else []) ++
  (if 0 < p.tceil || p.emergency then [(3, 255)] else []) ++
  (((List.range 12).filter fun h => (s.stack h).thr).map fun h => (4, h)) ++
  (if p.droop then [(5, 255)] else []) ++ (if p.ext then [(6, 255)] else []) ++ (if 0 < p.req then [(7, 255)] else [])

/-- The entry of an episode of index `ix` is among the last 1,024 (R404). -/
def Pwr.holds (p : Pwr) (ix : Nat) : Bool := decide ((p.next + 2 ^ 32 - 1 - ix) % 2 ^ 32 < 1024)

/-- A log entry of an episode, where it is still held. -/
def State.thrPut (s : State) (e : Episode) (isOpen : Bool) : State :=
  { s with pwr := { s.pwr with
      log := if s.pwr.holds e.ix then Map.put s.pwr.log (e.ix % 1024) ⟨e, isOpen⟩ else s.pwr.log,
      logged := s.pwr.logged || !isOpen } }

/-- An episode begins: it takes the next log index, and its counter counts. -/
def State.episodeBegin (s : State) (r : Nat × Nat) : State :=
  let p := s.pwr
  let e : Episode := { reason := r.1, stack := r.2, effMax := p.wanted, brgv := s.brg.valid, bearing := s.brg.bearingAt s.now,
                       rev := s.brg.rev, time := s.ns, lastIn := s.ns, outSince := none, sumB := p.b, updates := 1,
                       outB := 0, outUpdates := 0, outEff := 0, ix := p.next }
  (({ s with pwr := { p with episodes := p.episodes ++ [e], next := (p.next + 1) % 2 ^ 32 } }).thrPut e true).count (ctrDev (30 + r.1))

/-- An open episode at an update: it goes on, the updates out of force since it last was in force with it; or it has been out of
force, and ends after 50 µs of that at the last update in force (R403). -/
def Episode.update (e : Episode) (inForce : Bool) (now eff b : Nat) : Episode :=
  if inForce then
    { e with lastIn := now, outSince := none, effMax := max (max e.effMax e.outEff) eff, sumB := e.sumB + e.outB + b,
             updates := e.updates + e.outUpdates + 1, outB := 0, outUpdates := 0, outEff := 0 }
  else { e with outSince := some (e.outSince.getD now), outB := e.outB + b, outUpdates := e.outUpdates + 1,
                outEff := max e.outEff eff }

/-- The episodes at an update. -/
def State.episodes (s : State) : State :=
  let rs := s.reasons
  let p := s.pwr
  let moved := p.episodes.map fun e => e.update (rs.contains (e.reason, e.stack)) s.ns p.wanted p.b
  let gone := fun (e : Episode) => match e.outSince with | some t => decide (t + 50000 ≤ s.ns) | none => false
  let fresh := rs.filter fun r => !(p.episodes.any fun e => (e.reason, e.stack) == r)
  let s1 : State := { s with pwr := { p with episodes := moved.filter fun e => !gone e } }
  fresh.foldl (fun s r => s.episodeBegin r) (moved.foldl (fun s e => s.thrPut e (!gone e)) s1)

/-- Energy of an update in µJ: the bin of each resident context, and in SHARED what the measured energy of the 10 µs leaves
(R407), and an update with a fraction above zero. -/
def State.powerCounts (s : State) (measured : Nat) (bins : List Nat) : State :=
  let mine := (List.range 8).map fun c => if (s.ctx c).resident then bins.getD c 0 else 0
  let s1 := (mine ++ [10 * measured - mine.sum]).zipIdx.foldl (fun s x => s.count (ctrDev (19 + x.2)) x.1) s
  if 0 < s.pwr.b then s1.count (ctrDev 30) else s1

/-- POWER_UPDATE, every 10 µs: the estimated and the measured input power in W, the input current in mA, and the energy
of the interval in µJ that the coefficients attribute to each context (R387, R393, R395, R403, R407). -/
def execPowerUpdate (t : Nat) (watts measured : Nat) (milliamps : Nat) (bins : List Nat) (s : State) :
    Host.Outcome State Fault Refusal :=
  let s1 := s.at t
  let p := s1.pwr.limits watts measured milliamps
  let s2 : State := { s1 with pin := measured, pwr := { p with b := p.fraction }.retarget }
  .next (s2.powerCounts measured bins).episodes

/-- EXT_THROTTLE_CHANGE (R396). -/
def execExtThrottleChange (asserted : Bool) (s : State) : Host.Outcome State Fault Refusal :=
  .next { s with pwr := { s.pwr with ext := asserted } }

/-! ## Temperature (R397, R398) -/

/-- A queue holds an entry: in its engine, or at its head, where it waits. -/
def Eng.holds (e : Eng) (q : Q) : Bool :=
  (e.sync.queue q).head.isSome || (match q with
    | .m => e.mat.cur.isSome
    | .v => e.vec.run.isSome
    | .x => e.x.isSome
    | .s => false)

/-- The engine of a queue emptied, and its head with it. -/
def Eng.emptied (e : Eng) (q : Q) : Eng :=
  let e1 := { e with sync := e.sync.setQueue q { e.sync.queue q with head := none } }
  match q with
  | .m => { e1 with mat := { e1.mat with cur := none, pend := none, drains := [] } }
  | .v => { e1 with vec := { e1.vec with run := none } }
  | .x => { e1 with x := none }
  | .s => e1

/-- What a stopped unit's queue holds ends with 0x0401: the entry in its engine, or the one that waits at its head (R398). -/
def State.tripQueue (s : State) (key : Nat) (q : Q) : State :=
  let e := s.engOf key
  let s1 := s.setEng key (e.emptied q)
  if e.holds q then s1.failQueue 4 (keyCtx key) (keyUnit key) q (e.headAddr q) 0x0401 (e.headAddr q + 1) 0 else s1

/-- What a stopped Bindery holds ends with 0x0401: its descriptor, and those of the host queue (R398). -/
def State.tripBindery (s : State) (h : Nat) : State :=
  let s1 := s.bndAbort h 0x0401
  (s1.bindery h).hostq.foldl (fun s d => s.bndEnd h { BndRun.fresh none 0 d with status := 0x0401 }) s1

/-- A thermal trip (R398). The device is drained by it as R426 has it (log entry 60). -/
def State.trip (s : State) : State :=
  let keys := (s.eng.filter fun kv => decide (keyUnit kv.1 < 17477) && (s.ctx (keyCtx kv.1)).st == .running).map (·.1)
  let s1 := keys.foldl (fun s k => [Q.m, Q.v, Q.x, Q.s].foldl (fun s q => s.tripQueue k q) s) (s.orphanRequests keys.contains)
  let s2 := (List.range 12).foldl (fun s h => s.tripBindery h) s1
  (({ s2 with pwr := { s2.pwr with tripped := true }, mod := { s2.mod with tripLow := true } }).log 0x0052 0 3 0xFFFFFFFF 0 0).drainDevice

/-- THERMAL_READING: the 1 ms reading TMAX. A warm reset that waited for it to fall below 90 °C runs. -/
def execThermalReading (tmax : Byte) (s : State) : Host.Outcome State Fault Refusal :=
  let t := tmax.toNat
  let p := s.pwr
  let p1 := if 105 ≤ t then { p with emergency := true, tceil := 5 }
    else if t < 100 then { p with emergency := false } else p
  let s1 : State := { s with tmax := t, pwr := p1.retarget }
  if 110 ≤ t && !p.tripped then .next s1.trip
  else if s1.mod.warmNext && decide (t < 90) then .next s1.warmReset
  else .next s1

/-- TCEIL_UPDATE, every 100 ms. -/
def execTceilUpdate (s : State) : Host.Outcome State Fault Refusal :=
  let p := s.pwr
  let c := if s.tmax < 90 then p.tceil - 1 else if s.tmax < 95 then p.tceil else min 5 (p.tceil + 1)
  .next { s with pwr := { p with tceil := c }.retarget }

/-! ## Filler (R399-R401) -/

/-- Fields of a profile record. -/
def Pwr.fill1 (p : Pwr) (k lo w : Nat) : Nat := bitsOf (Map.getD p.fills k 0) lo w

/-- The filler duty at a time, in units of 2^-16. -/
def Pwr.duty (p : Pwr) (t : Nat) : Nat :=
  match p.fill with
  | none => 0
  | some f =>
    let ramp := max 1 (p.fill1 f.k 16 16 * 256000)
    let top := p.fill1 f.k 0 8 * 256
    let up := fun (x : Nat) =>
      let dt := min ramp (x - f.fireAt)
      ((f.duty0 : Int) + Int.tdiv (((top : Int) - f.duty0) * dt) ramp).toNat
    match f.released with
    | none => up t
    | some (t1, d1) => d1 - d1 * min ramp (t - t1) / ramp

/-- FILLER fires profile `k` at the present time, in revolution `rev`; false when the profile is not valid (R400). -/
def State.fillerFire (s : State) (k rev : Nat) : State × Bool :=
  if s.pwr.fill1 k 96 1 = 0 then (s, false)
  else
    let f : FillRun := ⟨k, s.now, s.pwr.duty s.now, rev, none⟩
    let awake := Map.keep s.mod.gated fun d _ => decide (64 ≤ d)
    ({ s with pwr := { s.pwr with fill := some f }, mod := { s.mod with gated := awake } }, true)

/-- FILLER_RELEASE: the bearing of a later revolution has reached REL, or MAXHOLD has passed (R400). -/
def execFillerRelease (t : Nat) (s : State) : Host.Outcome State Fault Refusal :=
  let s1 := s.at t
  match s1.pwr.fill with
  | some f =>
    let rel := s1.brg.valid && s1.brg.rev != f.rev && decide (s1.pwr.fill1 f.k 32 32 ≤ s1.brg.bearingAt s1.now)
    let held := decide (f.fireAt + s1.pwr.fill1 f.k 64 32 * 256000 ≤ s1.now)
    if f.released.isNone && (rel || held) then
      .next { s1 with pwr := { s1.pwr with fill := some { f with released := some (s1.now, s1.pwr.duty s1.now) } } }
    else .next s1
  | none => .next s1

/-- The profile record of FILLER_PROFILE may be accepted (R401). -/
def fillerOk (rec : Nat) : Bool :=
  let fduty := bitsOf rec 0 8
  let ramp := bitsOf rec 16 16
  bitsOf rec 8 8 == 0 && rec / 2 ^ 97 == 0 && ramp != 0 && bitsOf rec 64 32 != 0 && decide (fduty ≤ 64 * ramp)

/-! ## Commands (R367) -/

/-- POWER_CAP: MODE stays as it is (R396). -/
def execPowerCap (h : Hdr) (watts : BitVec 32) (s : State) : Host.Outcome State Fault Refusal :=
  .next (s.command h 0x0601 (Instr.params (.powerCap h watts)) fun s r =>
    if watts.toNat < 1800 || 5200 < watts.toNat then s.finish r 0x0801
    else ({ s with pwr := { s.pwr with cap := watts.toNat } }).finish r 0)

/-- OPPOINT (R389). -/
def execOppoint (h : Hdr) (point : Byte) (s : State) : Host.Outcome State Fault Refusal :=
  .next (s.command h 0x0602 (Instr.params (.oppoint h point)) fun s r =>
    if 5 < point.toNat then s.finish r 0x0801 else (s.oppRequest point.toNat false).finish r 0)

/-- FILLER_PROFILE (R401). -/
def execFillerProfile (h : Hdr) (k : Byte) (rec : BitVec 512) (s : State) : Host.Outcome State Fault Refusal :=
  .next (s.command h 0x0603 (Instr.params (.fillerProfile h k rec)) fun s r =>
    if 15 < k.toNat || !fillerOk rec.toNat then s.finish r 0x0801
    else ({ s with pwr := { s.pwr with fills := Map.put s.pwr.fills k.toNat rec.toNat } }).finish r 0)

/-- The 32 bytes of a throttle log entry (R403). -/
def ThrEntry.bytes (x : ThrEntry) : List Byte :=
  let e := x.ep
  toLE 1 e.reason ++ toLE 1 e.effMax ++ toLE 1 e.stack ++ toLE 1 (b2n x.isOpen + 2 * b2n e.brgv) ++ toLE 4 e.bearing ++
    toLE 4 e.rev ++ toLE 4 0 ++ toLE 8 e.time ++ toLE 4 (min 0xFFFFFFFF ((e.lastIn - e.time) / 1000)) ++
    toLE 2 (e.sumB / max 1 e.updates) ++ toLE 2 0

/-- THROTTLE_LOG_READ: the entries from `first` that are still held (R404). -/
def execThrottleLogRead (h : Hdr) (addr : BitVec 64) (first : BitVec 32) (count : BitVec 16) (s : State) :
    Host.Outcome State Fault Refusal :=
  .next (s.command h 0x0604 (Instr.params (.throttleLogRead h addr first count)) fun s r =>
    if count.toNat = 0 || 256 < count.toNat then s.finish r 0x0801
    else
      let es := (List.range count.toNat).filterMap fun i =>
        let ix := (first.toNat + i) % 2 ^ 32
        (Map.find s.pwr.log (ix % 1024)).filter fun x => x.ep.ix == ix
      (s.hostOut r addr.toNat (es.flatMap ThrEntry.bytes)).finish r 0 (toLE 4 es.length))

end Sys2Proof.Machine
end

