-- ==== Sys2Proof/Machine/Stakeouts.lean ====
section
/-! DEFINITION. The bearing's commands and the actions of the stakeouts (spec 11, R283-R298). -/

namespace Sys2Proof.Machine

/-! ## The bearing (R285-R288, R294) -/

/-- RUN goes to 1 at `t`. The datum device starts its bearing; a follower only keeps the bit. -/
def State.runSet (s : State) (t : Nat) : State :=
  if s.brg.run then s
  else if s.brg.role then s.runStart t
  else { s.at t with brg := { (s.at t).brg with run := true } }

/-- BEARING_RUN_START. -/
def execBearingRunStart (t : Nat) (s : State) : Host.Outcome State Fault Refusal := .next (s.runSet t)

/-- BEARING_RUN_STOP: RUN goes to 0. -/
def execBearingRunStop (s : State) : Host.Outcome State Fault Refusal := .next s.runStop

/-- The bearing UNLOCKED, with nothing left to issue. -/
def Brg.unlock (b : Brg) (now : Nat) : Brg :=
  { b.settleNones now with st := .unlocked, b0 := b.bearingAt now, due := [], top := false, src := none, foreign := 0 }

/-- ROLE changes (R294). -/
def State.roleChange (s : State) : State := { s with brg := { s.brg.unlock s.now with role := !s.brg.role } }

/-- TPV is cleared: a follower is UNLOCKED; the datum device ignores its parent path (R290, R294). -/
def State.tpvClear (s : State) : State :=
  if s.brg.role then { s with brg := { s.brg with tpv := false } }
  else { s with brg := { s.brg.unlock s.now with tpv := false } }

/-- A station that has just become the datum device while RUN is 1 starts its bearing: the datum device is LOCKED whenever RUN
is 1 (R285, R294, log entry 27). -/
def State.datumRuns (s : State) : State := if s.brg.role && s.brg.run then s.runStart s.now else s

/-- BEARING_UNLOCK: a change of role, or TPV cleared. -/
def execBearingUnlock (byRole : Bool) (s : State) : Host.Outcome State Fault Refusal :=
  .next (if byRole then s.roleChange.datumRuns else s.tpvClear)

/-- BEARING_TOP: the datum device's bearing has reached the top, and holds there (R286). -/
def execBearingTop (t : Nat) (s : State) : Host.Outcome State Fault Refusal :=
  let s1 := s.at t
  let b := s1.brg
  if b.role && b.valid && b.bearingAt s1.now == 0xFFFFFFFF && !b.top then
    .next { s1 with brg := { b with top := true, topTime := s1.now } }
  else .next s1

/-- BENCHMARK_EMIT, 1,024 ns after the previous token while the datum device's bearing runs; no effect before that (R288). -/
def execBenchmarkEmit (t : Nat) (s : State) : Host.Outcome State Fault Refusal :=
  let s1 := s.at t
  if s1.brg.role && s1.brg.run && s1.brg.valid && decide (s1.brg.lastTok + 1024 * 256 ≤ s1.now) then .next (s1.emitToken false) else .next s1

/-- BEARING_COAST: no token for 4,096 ns. -/
def execBearingCoast (t : Nat) (s : State) : Host.Outcome State Fault Refusal :=
  let s1 := s.at t
  let b := s1.brg
  if !b.role && b.st == .locked && decide (b.lastTok + 4096 * 256 ≤ s1.now) then
    .next { s1 with brg := { b with st := .coast } }
  else .next s1

/-- BEARING_LOST: no token for LOSS µs in COAST; the bearing holds, and the loss is logged and reported. -/
def execBearingLost (t : Nat) (s : State) : Host.Outcome State Fault Refusal :=
  let s1 := s.at t
  let b := s1.brg
  if b.st == .coast && decide (b.lastTok + b.loss * 256000 ≤ s1.now) then
    .next ({ s1 with brg := { b.closeRev s1.now with st := .lost, b0 := b.bearingAt s1.now } }.log 0x0041 0 0 0xFFFFFFFF 0 0)
  else .next s1

/-- STEP_EDGE: an edge accepted or ignored; a rise after less than 100 ns of low level is no edge (R287). Times are in 2^-8
ns. -/
def execStepEdge (t : Nat) (lowFor : Nat) (s : State) : Host.Outcome State Fault Refusal :=
  let s1 := s.at t
  let b := s1.brg
  if !(b.role && b.step) || lowFor < 100 * 256 then .next s1
  else
    let gap := b.edgeTime.map fun x => (s1.now - x) / 256
    if gap.any (fun g => g < 1048576) then .next (s1.count (ctrDev 5))
    else .next { s1 with brg := { b with edgeTime := some s1.now, edgeGap := gap } }

/-! ## Entries (R295) -/

/-- The words that would be committed may be: ACTION 0 to 8, and a point of P0 to P5 for OPPOINT. -/
def stakeoutOk (w2 w3 : Nat) : Bool :=
  decide (bitsOf w2 0 4 ≤ 8) && (bitsOf w2 0 4 != 5 || decide (bitsOf w3 0 3 ≤ 5))

/-- The staging image of an entry. -/
def Brg.stage (b : Brg) (n : Nat) : List Nat := Map.getD b.staged n [0, 0, 0, 0]

/-- A word written to the staging image; W2 keeps its reserved bits zero. -/
def Brg.setStage (b : Brg) (n k v : Nat) : Brg :=
  { b with staged := Map.put b.staged n ((b.stage n).set k (if k = 2 then v % 2 ^ 9 else v)) }

/-- The four words committed at once. An entry whose bearing has passed waits for the next revolution (R296). -/
def Brg.commit (b : Brg) (n : Nat) (ws : List Nat) (now : Nat) : Brg :=
  let b1 := { b with stk := Map.put b.stk n ws, due := b.due.filter (·.1 != n), gone := Map.del b.gone n }
  if b.valid && decide (ws.getD 0 0 < b.bearingAt now) then { b1 with late := Map.put b.late n b.rev }
  else { b1 with late := Map.del b.late n }

/-- W3 written: the staged words are committed. -/
def State.stakeoutCommit (s : State) (n w3 : Nat) : State :=
  let b := (s.brg.setStage n 3 w3).settleNones s.now
  let ws := b.stage n
  { s with brg := if stakeoutOk (ws.getD 2 0) w3 then b.commit n ws s.now else b }

/-- A BAR0 write of W3, which prevails over a STAKEOUT_WRITE of the entry in the same SK clock (R350, R379). -/
def State.stakeoutBar0 (s : State) (n w3 : Nat) : State :=
  let s1 := s.stakeoutCommit n w3
  { s1 with brg := { s1.brg with bar0At := Map.put s1.brg.bar0At n s.now } }

/-- BRG_STK_COMMIT, a register write: it takes effect while the device is READY, in a clock domain that runs (R381). -/
def execBrgStkCommit (n : Fin 256) (w3 : BitVec 32) (s : State) : Host.Outcome State Fault Refusal :=
  .next (if s.mod.ready then s.stakeoutBar0 n.val w3.toNat else s.hostFault (0x71000 + 16 * n.val + 12))

/-! ## Actions (R297, R298) -/

/-- An entry fires at time `t`: it must be the one that issues next, with this action. The effect is that of the clock of
its own issue (R296); `f` takes the bearing and the revolution of that issue. -/
def State.fires (s : State) (n : Fin 256) (t action : Nat) (f : Nat × Nat → State → State) : State :=
  let s1 := s.at t
  match s1.brg.nextDue s1.now with
  | some d =>
    if d.1 = n.val && s1.brg.sAction d.1 = action then
      f (s1.brg.issueAt d s1.now) { s1 with brg := (s1.brg.settleNones s1.now).fire d }
    else s1
  | none => s1

/-- An action without effect counts in BRG_NOP (R298). -/
def State.brgNop (s : State) : State := s.count (ctrDev 4)

/-- An action that D3hot leaves without effect (R460). -/
def State.unlessD3 (s : State) (f : State → State) : State := if s.d3hot then s.brgNop else f s

/-- An action that a drained device takes no more (R426). -/
def State.unlessDrained (s : State) (f : State → State) : State := if s.flt.drained then s.brgNop else f s

/-- The stake operation of SETSTAKE: an SSET without fence in context CTX. A unit outside the context's footprint, or
one that takes no request, is left alone. -/
def State.setStakeAction (s : State) (ctx w : Nat) : State :=
  match stakeRef ctx w with
  | some h =>
    if inFoot (s.ctx ctx).foot (keyUnit h.1) && !s.unitBusy (keyUnit h.1) then s.stakeOpAny h.1 h.2 true else s.brgNop
  | none => s.brgNop

/-- SETSTAKE. -/
def execSetstake (n : Fin 256) (t : Nat) (s : State) : Host.Outcome State Fault Refusal :=
  let c := s.brg.sCtx n.val
  let w := s.brg.sParam n.val
  .next (s.fires n t 1 fun _ s => s.unlessDrained fun s => s.setStakeAction c w)

/-- SNAP: one that is discarded counts in BRG_NOP (R384). -/
def execSnap (n : Fin 256) (t : Nat) (s : State) : Host.Outcome State Fault Refusal :=
  let w := s.brg.sParam n.val
  .next (s.fires n t 2 fun x s => match s.snapRequest (bitsOf w 0 8) true x with
    | (s1, true) => s1
    | (s1, false) => s1.brgNop)

/-- CTXSTART. -/
def execCtxstart (n : Fin 256) (t : Nat) (s : State) : Host.Outcome State Fault Refusal :=
  let c := s.brg.sCtx n.val
  .next (s.fires n t 3 fun _ s => s.unlessD3 fun s => s.unlessDrained fun s => s.ctxIssue ⟨c, true, none, true⟩)

/-- CTXPRE. -/
def execCtxpre (n : Fin 256) (t : Nat) (s : State) : Host.Outcome State Fault Refusal :=
  let c := s.brg.sCtx n.val
  .next (s.fires n t 4 fun _ s => s.unlessD3 fun s => s.ctxIssue ⟨c, false, none, true⟩)

/-- OPPOINT. -/
def execOppointAction (n : Fin 256) (t : Nat) (s : State) : Host.Outcome State Fault Refusal :=
  let w := s.brg.sParam n.val
  .next (s.fires n t 5 fun _ s => s.unlessD3 fun s => s.unlessDrained fun s => s.oppRequest (bitsOf w 0 3) true)

/-- FILLER: a profile that is not valid has no effect (R400). -/
def execFiller (n : Fin 256) (t : Nat) (s : State) : Host.Outcome State Fault Refusal :=
  let w := s.brg.sParam n.val
  .next (s.fires n t 6 fun x s => s.unlessD3 fun s => s.unlessDrained fun s => match s.fillerFire (bitsOf w 0 4) x.2 with
    | (s1, true) => s1
    | (s1, false) => s1.brgNop)

/-- FPFLUSH. -/
def execFpflush (n : Fin 256) (t : Nat) (s : State) : Host.Outcome State Fault Refusal :=
  let w := s.brg.sParam n.val
  .next (s.fires n t 7 fun _ s => s.fpFlushRange (bitsOf w 0 7) (bitsOf w 8 7 + 1))

/-- PHASEMARK: a record of the issuing bearing and local time. -/
def execPhasemark (n : Fin 256) (t : Nat) (s : State) : Host.Outcome State Fault Refusal :=
  let w := s.brg.sParam n.val
  .next (s.fires n t 8 fun x s => s.phaseMark (bitsOf w 0 8) x.1 x.2)

end Sys2Proof.Machine
end

