-- ==== Sys2Proof/Machine/HostCmds.lean ====
section
/-! DEFINITION. Host commands of the device, memory, fabric and bearing groups (spec 14, R362-R367). -/

namespace Sys2Proof.Machine

/-! ## Device group (R362) -/

/-- NOP. -/
def execNop (h : Hdr) (s : State) : Host.Outcome State Fault Refusal :=
  .next (s.command h 0x0100 (Instr.params (.nop h)) fun s r => s.finish r 0)

/-- The 256 bytes of the identity registers (R380). -/
def State.identity (s : State) : List Byte :=
  bytesAt (toLE 4 (0x9160 + Config.stepping.toNat * 2 ^ 16 + 0x02 * 2 ^ 24) ++ toLE 4 (s.activeVersion 0) ++
    toLE 8 Config.serial.toNat ++ toLE 4 (16384 + s.flt.spares.sum * 2 ^ 15) ++ toLE 4 0x9E3B51C4 ++
    toLE 4 (32 + 12 * 2 ^ 8 + 8 * 2 ^ 12 + 2 ^ 16)) 0 256

/-- IDENTIFY. -/
def execIdentify (h : Hdr) (addr : BitVec 64) (s : State) : Host.Outcome State Fault Refusal :=
  .next (s.command h 0x0101 (Instr.params (.identify h addr)) fun s r =>
    if addr.toNat % 64 ≠ 0 then s.finish r 0x0801
    else (s.hostOut r addr.toNat s.identity).finish r 0 (toLE 3 s.station))

/-- HEALTH. -/
def execHealth (h : Hdr) (s : State) : Host.Outcome State Fault Refusal :=
  .next (s.command h 0x0102 (Instr.params (.health h)) fun s r =>
    s.finish r 0 (toLE 2 s.tmax ++ toLE 2 s.pin ++ toLE 4 s.flt.vlog.length ++
      toLE 1 (b2n s.flt.drained + 2 * b2n s.flt.flagged + 4 * b2n s.dbgOpen)))

/-- The entries that FAULT_LOG_READ finds: of the volatile log those still held, of the persistent log by place (R422). -/
def State.logEntries (s : State) (first count : Nat) : List LogEntry :=
  if first.testBit 31 then (s.flt.plog.drop (first % 256)).take count
  else (List.range count).filterMap fun i =>
    let ix := (first + i) % 2 ^ 32
    (Map.find s.flt.vlog (ix % 4096)).filter fun e => e.index == ix

/-- FAULT_LOG_READ. -/
def execFaultLogRead (h : Hdr) (addr : BitVec 64) (first : BitVec 32) (count : BitVec 16) (s : State) :
    Host.Outcome State Fault Refusal :=
  .next (s.command h 0x0104 (Instr.params (.faultLogRead h addr first count)) fun s r =>
    if count.toNat = 0 || 256 < count.toNat then s.finish r 0x0801
    else
      let es := s.logEntries first.toNat count.toNat
      (s.hostOut r addr.toNat (es.flatMap LogEntry.bytes)).finish r 0 (toLE 4 es.length))

/-! ## Memory group (R182, R204, R363) -/

/-- The shelves of a SHELF_PARTITION keep its ranges: 1 to 511 shelves below 640, none named twice, no reserved MODE. -/
def shelvesOk (shelves : List ShelfReq) : Bool :=
  let ns := shelves.map (·.shelf.toNat)
  decide (1 ≤ ns.length) && decide (ns.length ≤ 511) && ns.all (· < 640) && ns.eraseDups.length == ns.length &&
    shelves.all fun x => decide (x.mode.toNat < 3)

/-- Some shelf is a firmware shelf once the partition, and those that have begun, have taken their effect. -/
def State.fwShelfLeft (s : State) (shelves : List ShelfReq) : Bool :=
  (List.range 640).any fun n =>
    match shelves.find? fun x => x.shelf.toNat == n, (s.shelf n).target with
    | some x, _ => x.mode.toNat == 2 && x.fw
    | none, some t => t.1 == 2 && t.2.2.1
    | none, none => (s.shelf n).mode == 2 && (s.shelf n).fw

/-- One shelf is to change its mode (R182). -/
def State.shelfBegins (s : State) (x : ShelfReq) : State :=
  let v := s.shelf x.shelf.toNat
  s.setShelf x.shelf.toNat { v with target := some (x.mode.toNat, x.ctxm.toNat, x.fw, x.host) }

/-- SHELF_PARTITION. -/
def execShelfPartition (h : Hdr) (shelves : List ShelfReq) (s : State) : Host.Outcome State Fault Refusal :=
  .next (s.command h 0x0201 (Instr.params (.shelfPartition h shelves)) fun s r =>
    if !shelvesOk shelves then s.finish r 0x0801
    else if !s.fwShelfLeft shelves then s.finish r 0x0203
    else if shelves.any fun x => (s.shelf x.shelf.toNat).target.isSome then s.finish r 0x0316
    else (List.range 64).foldl (fun s n => s.shelfNext n) (shelves.foldl (fun s x => s.shelfBegins x) (s.begin r)))

/-- BINDERY_RUN: the descriptor is checked and queued on the host queue of its Bindery. -/
def execBinderyRun (h : Hdr) (stack : Byte) (desc : List Byte) (s : State) : Host.Outcome State Fault Refusal :=
  let n := stack.toNat
  .next (s.command h 0x0202 (Instr.params (.binderyRun h stack desc)) fun s r =>
    if 12 ≤ n || desc.length != 128 then s.finish r 0x0801
    else if s.svcOf (codeStack n) != .inService || s.refOff (.stack n) then s.finish r 0x0301
    else if s.descFault n none desc == some 0x0803 then s.finish r 0x0803
    else
      let s1 := s.begin r
      s1.setBindery n { s1.bindery n with hostq := (s1.bindery n).hostq ++ [desc],
                                             hostAcc := (s1.bindery n).hostAcc ++ [r.acc] })

/-- A stopped queue of a Bindery runs again, at the descriptor that stopped it or at the next. -/
def State.bndResume (s : State) (h c : Nat) (skip : Bool) : State :=
  let q := (s.bindery h).queue c
  if q.run == .stopped then
    s.setBindery h ((s.bindery h).setQueue c { q with run := .running, pc := if skip then q.pc + 1 else q.pc })
  else s

/-- BINDERY_RESTART. -/
def execBinderyRestart (h : Hdr) (stackMask : BitVec 16) (ctxs : Byte) (skip : Bool) (s : State) :
    Host.Outcome State Fault Refusal :=
  .next (s.command h 0x0203 (Instr.params (.binderyRestart h stackMask ctxs skip)) fun s r =>
    if 4096 ≤ stackMask.toNat then s.finish r 0x0801
    else
      let hs := (List.range 12).filter stackMask.toNat.testBit
      let cs := (List.range 8).filter ctxs.toNat.testBit
      (hs.foldl (fun s n => cs.foldl (fun s c => s.bndResume n c skip) s) s).finish r 0)

/-! ## Fabric group (R151, R164, R236, R237, R365) -/

/-- FABRIC_SETUP: three registers together, or none. -/
def execFabricSetup (h : Hdr) (sn : BitVec 24) (lockSn lockSize : Bool) (size : BitVec 24) (b : Byte) (s : State) :
    Host.Outcome State Fault Refusal :=
  .next (s.command h 0x0401 (Instr.params (.fabricSetup h sn lockSn lockSize size b)) fun s r =>
    if !(stationOk sn.toNat || sn == 0xFFFFFF) || 4194304 < size.toNat || b.toNat < 9 || 13 < b.toNat then s.finish r 0x0801
    else if s.fab.snLock || s.domLock then s.finish r 0x0342
    else ({ s with station := sn.toNat, domSize := size.toNat, domLock := lockSize,
                   fab := { s.fab with snLock := lockSn, b := b.toNat } }).finish r 0)

/-- ROUTE_LOAD. -/
def execRouteLoad (h : Hdr) (rtl : Bool) (first : BitVec 16) (entries : List (BitVec 32)) (s : State) :
    Host.Outcome State Fault Refusal :=
  .next (s.command h 0x0402 (Instr.params (.routeLoad h rtl first entries)) fun s r =>
    if entries.isEmpty || 1022 < entries.length || 8192 < first.toNat + entries.length then s.finish r 0x0801
    else (s.routeLoad rtl first.toNat (entries.map (·.toNat))).finish r 0)

/-- The payload of STJOIN for member `i` of `n` (R243). Its context is not stated: a free value. -/
def State.stjoin (s : State) (handle home order i n : Nat) : List Byte :=
  toLE 2 handle ++ toLE 3 home ++ toLE 1 order ++ toLE 1 (s.free 3).toNat ++ toLE 1 0 ++ toLE 2 i ++ toLE 2 n

/-- STJOIN to every member but this station. -/
def State.joinMembers (s : State) (handle home order : Nat) (members : List Nat) (r : Started) : State :=
  members.zipIdx.foldl (fun s x =>
    if x.1 = s.station then s
    else (s.fwmsg x.1 1 (s.stjoin handle home order x.2 members.length) (some { r with begun := true })).useFree) s

/-- A command with firmware messages: it waits for their answers, or ends at once when none was sent. -/
def State.awaitMacks (s : State) (r : Started) (send : State → State) : State :=
  (send (s.begin r)).fwAnswered { r with begun := true } 0

/-- STRACT_SETUP. -/
def execStractSetup (h : Hdr) (handle : BitVec 16) (home : BitVec 24) (order : Byte) (members : List (BitVec 32)) (s : State) :
    Host.Outcome State Fault Refusal :=
  let ms := members.map (·.toNat)
  .next (s.command h 0x0403 (Instr.params (.stractSetup h handle home order members)) fun s r =>
    if order.toNat < 5 || 10 < order.toNat || ms.isEmpty || 1022 < ms.length || !stationOk home.toNat || !ms.all stationOk then
      s.finish r 0x0801
    else if (Map.find s.stracts handle.toNat).isSome then s.finish r 0x0343
    else if 256 ≤ s.stracts.length then s.finish r 0x0206
    else
      let s1 : State := { s with stracts := Map.put s.stracts handle.toNat ⟨home.toNat, order.toNat, ms⟩ }
      if home.toNat = s.station then s1.awaitMacks r fun s => s.joinMembers handle.toNat home.toNat order.toNat ms r
      else s1.finish r 0)

/-- STRACT_RELEASE. -/
def execStractRelease (h : Hdr) (handle : BitVec 16) (s : State) : Host.Outcome State Fault Refusal :=
  .next (s.command h 0x0404 (Instr.params (.stractRelease h handle)) fun s r =>
    match Map.find s.stracts handle.toNat with
    | none => s.finish r 0x0732
    | some t =>
      let s1 := s.dropStract handle.toNat
      if t.home = s.station then
        s1.awaitMacks r fun s => (t.members.filter (· != s.station)).foldl (fun s m =>
          s.fwmsg m 2 (toLE 2 handle.toNat) (some { r with begun := true })) s
      else s1.finish r 0)

/-- The stations and participants of a closure's list, and whether they keep R164. -/
def State.closureList (s : State) (a nchild nlocal : Nat) : Option (List Nat × List Nat) :=
  let word := fun i => s.mem.readLE (a + 4 * i) 4
  let child := (List.range nchild).map word
  let units := (List.range nlocal).map fun i => word (nchild + i)
  let us := units.filterMap fun w => if w < 2 ^ 17 then pathUnit w else none
  if child.all stationOk && us.length == nlocal && us.eraseDups.length == nlocal then some (child, us) else none

/-- The ranges of a closure record (R164). -/
def closureRangesOk (cid ctx nchild parent limit nlocal : Nat) : Bool :=
  decide (cid < 1024) && decide (ctx < 8) && decide (nchild ≤ 128) && (stationOk parent || parent == 0xFFFFFF) &&
    (limit == 0 || (decide (1000 ≤ limit) && decide (limit ≤ 60000000))) && decide (nlocal ≤ 17477) && decide (1 ≤ nlocal + nchild)

/-- The bits of closure `cid` cleared in every unit's state of context c. -/
def State.clearClosureBits (s : State) (c cid : Nat) : State :=
  { s with eng := Map.mapVals s.eng (fun k e =>
      if keyCtx k = c then { e with sync := { e.sync with closures := Map.del e.sync.closures cid } } else e) }

/-- A closure context set up: OPEN, R = 0, count 0; the four bits of it cleared in every unit, MEMBER set in the
participants. -/
def State.setupClosure (s : State) (cid ctx parent limit : Nat) (child units : List Nat) : State :=
  let s1 := (List.range 8).foldl (fun s c => s.onSaved c (s.unitsOf c) fun s => s.clearClosureBits c cid) s
  let c : Closure := { Closure.idle with
    st := .opened, ctx := ctx, parent := parent, child := child, units := units,
    limit := if limit = 0 then s.flt.wlim.getD 3 20000 else limit }
  (s1.setClosure cid c).onSaved ctx units fun s => units.foldl (fun s u => s.setCbit (engKey ctx u) cid 0 true) s

/-- CLOSURE_SETUP. -/
def execClosureSetup (h : Hdr) (cid : BitVec 16) (ctx : Byte) (nchild : Byte) (parent : BitVec 24)
    (limit : BitVec 32) (nlocal : BitVec 16) (list : BitVec 48) (s : State) : Host.Outcome State Fault Refusal :=
  let len := 4 * (nchild.toNat + nlocal.toNat)
  .next (s.command h 0x0405 (Instr.params (.closureSetup h cid ctx nchild parent limit nlocal list)) fun s r =>
    if !closureRangesOk cid.toNat ctx.toNat nchild.toNat parent.toNat limit.toNat nlocal.toNat then s.finish r 0x0801
    else if (s.closure cid.toNat).st == .opened then s.finish r 0x0344
    else if s.fwStatus list.toNat len ≠ 0 then s.finish r (s.fwStatus list.toNat len)
    else if s.badIn list.toNat len then (s.uncRead list.toNat codeMgmt).finish r 0x0723
    else match s.closureList list.toNat nchild.toNat nlocal.toNat with
      | none => s.finish r 0x0801
      | some l => ((s.access .control false list.toNat len).setupClosure cid.toNat ctx.toNat parent.toNat limit.toNat l.1 l.2).finish r 0)

/-- Some arrival of an open closure is pending or held. -/
def State.closureBusy (s : State) (cid : Nat) : Bool :=
  let c := s.closure cid
  c.st == .opened && (decide (0 < c.count) || !c.heldOrder.isEmpty)

/-- CLOSURE_RELEASE. -/
def execClosureRelease (h : Hdr) (cid : BitVec 16) (s : State) : Host.Outcome State Fault Refusal :=
  .next (s.command h 0x0406 (Instr.params (.closureRelease h cid)) fun s r =>
    if 1024 ≤ cid.toNat then s.finish r 0x0801
    else if s.closureBusy cid.toNat then s.finish r 0x0345
    else (s.setClosure cid.toNat Closure.idle).finish r 0)

/-! ## Stakeouts (R295, R367) -/

/-- STAKEOUT_WRITE: the four words committed at once. -/
def execStakeoutWrite (h : Hdr) (n : Byte) (w0 w1 w2 w3 : BitVec 32) (s : State) : Host.Outcome State Fault Refusal :=
  .next (s.command h 0x0501 (Instr.params (.stakeoutWrite h n w0 w1 w2 w3)) fun s r =>
    if !stakeoutOk w2.toNat w3.toNat then s.finish r 0x0801
    else
      let b := (((s.brg.setStage n.toNat 0 w0.toNat).setStage n.toNat 1 w1.toNat).setStage n.toNat 2 w2.toNat)
      (if Map.find s.brg.bar0At n.toNat = some s.now then s else ({ s with brg := b }).stakeoutCommit n.toNat w3.toNat).finish r 0)

/-- STAKEOUT_READ: the committed words, with EN clear in an entry with ONCE and action 0 that has fallen due (R295, R297). -/
def execStakeoutRead (h : Hdr) (n : Byte) (s : State) : Host.Outcome State Fault Refusal :=
  .next (s.command h 0x0502 (Instr.params (.stakeoutRead h n)) fun s r =>
    s.finish r 0 ((List.range 4).flatMap fun k => toLE 4 ((s.brg.settleNones s.now).word n.toNat k)))

end Sys2Proof.Machine
end

