-- ==== Sys2Proof/Machine/Resets.lean ====
section
/-! DEFINITION. Resets, power states, supplies, reference clocks and the side band (spec 19, 21, R382, R425, R453-R464,
R477-R487). -/

namespace Sys2Proof.Machine

/-! ## Warm reset (R455) -/

/-- WARM_RESET: its own receipt is that of R360. -/
def execWarmReset (h : Hdr) (s : State) : Host.Outcome State Fault Refusal :=
  .next (s.command h 0x0103 (Instr.params (.warmReset h)) fun s r => (s.begin r).requestWarm)

/-! ## Cold reset (R453, R454, R464, R477, R478) -/

/-- The fault subsystem after a cold reset: the persistent log, the flag and the swaps stay; so do the volatile log and what
the management cores hold, which only a fall of the 12 V input clears. -/
def Flt.cold (f : Flt) : Flt :=
  { Flt.reset with next := f.next, vlog := f.vlog, plog := f.plog, openIx := f.openIx, new := f.new, flagged := f.flagged,
                   spares := f.spares, swapped := f.swapped, rseq := f.rseq, frDropped := f.frDropped,
                   frSecond := f.frSecond, frSent := f.frSent, repeats := f.repeats }

/-- The security unit in a cold reset: fuses and images stay. Once the module is no longer `held`, the boot ROM derives the keys,
and the test access port of an opened part is unlocked (R438, R452). -/
def Sec.cold (x : Sec) (dbgOpen held : Bool) : Sec :=
  let y := { Sec.reset with uds := x.uds, ikh := x.ikh, dkh := x.dkh, ikrev := x.ikrev, arb := x.arb, active := x.active,
                            inactive := x.inactive, tapOpen := dbgOpen && !held }
  if held then y else y.keyed dbgOpen

/-- The module after a cold reset: its inputs are as they are, and what the 12 V input powers stays. -/
def Module.cold (m : Module) (held : Bool) : Module :=
  { Module.reset with v50 := m.v50, v12 := m.v12, mrst := held, refH := m.refH, refL := m.refL, ready := !held,
                      alertLow := m.alertLow, cursor := m.cursor, mgmtUp := m.mgmtUp, boot := m.boot }

/-- The block after a cold reset: every value of R464's columns Cold and D-Off. `held` says that MRST# still holds it. -/
def State.cold (s : State) (held : Bool) : State :=
  { State.reset with
    pending := s.pending, now := s.now, fresh := s.fresh, out := s.out, host := s.host, linkUp := !held, tmax := s.tmax,
    pin := s.pin, dbgOpen := s.dbgOpen, flt := s.flt.cold, sec := s.sec.cold s.dbgOpen held, mod := s.mod.cold held,
    cmd := { CmdIf.reset with fwrun := s.cmd.fwrun, nextUid := s.cmd.nextUid },
    pwr := { Pwr.reset with ext := s.pwr.ext },
    ports := Map.mapVals s.ports fun _ v => { SubPort.reset with lanes := v.lanes } }

/-- MRST_ASSERT: the module is held in cold reset. -/
def execMrstAssert (s : State) : Host.Outcome State Fault Refusal := .next (s.cold true)

/-- The start-up qualifier's conditions on inputs and references (R477). -/
def Module.qualifies (m : Module) : Bool := m.v50 && m.v12 && m.refH && m.refL

/-- A boot self-test failure of a unit, in the fault log (R45, R424). -/
def State.bootFault (s : State) (code : Nat) : State := s.log 0x0053 0 2 code 0 0xFFFFFFFF

/-- A unit held in reset after its test failed (R45, R446). -/
def State.holdUnit (s : State) (code : Nat) : State := s.setSvc code .disabled

/-- The boot self-test of the antilog tables (R45): a parcel that fails is replaced by a spare, a Bindery or a vector engine
that fails has its unit held in reset. -/
def State.bootTables (s : State) (b : Boot) : State :=
  let s1 := b.parcels.foldl (fun s p => ((s.bootFault (codeUnit p)).spareSwap p).1) s
  let s2 := b.vectors.foldl (fun s p => (s.bootFault (codeUnit p)).holdUnit (codeUnit p)) s1
  b.binderies.foldl (fun s h => (s.bootFault (codeStack h)).holdUnit (codeStack h)) s2

/-- A copy of an image fails check 3, 5 or 6 of R443 on what the fuses now hold; of the image from manufacture only its key slot
and its security version are known. That the signature verified when the copy was staged stands (log entry 50). -/
def Sec.copyStale (x : Sec) (cls : Nat) (i : Option Image) : Bool :=
  match i with
  | some i => !x.sealed i || decide (i.svn < Map.getD x.arb cls 0)
  | none => x.ikrev.testBit (Config.factoryKslot cls).val || decide (Config.factorySvn cls < Map.getD x.arb cls 0)

/-- Class 0 has a good copy: the firmware runs (R454). -/
def State.firmwareRuns (s : State) (cls : Nat) : State :=
  if cls = 0 then { s with cmd := { s.cmd with fwrun := true } } else s

/-- Codes of the units to which a class applies (R441); classes 5 and 6 hold no unit of R368 in reset. -/
def classUnits (cls : Nat) : List Nat :=
  match cls with
  | 0 => [codeMgmt]
  | 1 => (List.range 17477).map codeUnit
  | 2 => (List.range 32).map codePort
  | 3 => (List.range 64).map codeSlice
  | 4 => (List.range 12).map codeStack
  | _ => []

/-- The copies of a class checked: the active one, or else the other, which then is the active one; with no good copy the
class's units are held in reset, and without firmware READY stays 0 (R446, log entry 50). -/
def State.bootImage (s : State) (b : Boot) (cls : Nat) : State :=
  let x := s.sec
  if !(b.active.any (·.val == cls)) && !x.copyStale cls (Map.find x.active cls) then s.firmwareRuns cls
  else if !(b.other.any (·.val == cls)) && !x.copyStale cls (Map.find x.inactive cls) then
    { s with sec := x.swapCopies cls }.firmwareRuns cls
  else
    let s1 := (classUnits cls).foldl (fun s u => s.holdUnit u) (s.bootFault 0xFFFFFFFF)
    if cls = 0 then { s1 with cmd := { s1.cmd with fwrun := false }, mod := { s1.mod with ready := false } } else s1

/-- What the tests of a later cold reset find: a free value (log entry 50). -/
def State.bootNext (s : State) : State :=
  let hit := fun (i n : Nat) => (List.finRange n).filter fun k => (s.freeAt i n).getLsbD k.val
  { s.useFree with mod := { s.mod with boot := ⟨hit 0 16384, hit 1 16384, hit 2 12, hit 3 12, hit 4 7, hit 5 7⟩ } }

/-- COLD_RESET: the tests and the copies (R45, R446), the loss of the catalogue (R306), the training of the stacks (R199);
then READY, and the enabled sub-ports train. A flagged device is drained again (R427). -/
def execColdReset (s : State) : Host.Outcome State Fault Refusal :=
  if s.mod.qualifies then
    let found := s.mod.boot
    let s1 := (List.range 7).foldl (fun s k => s.bootImage found k) ((s.cold false).bootTables found)
    let s2 := found.untrained.foldl (fun s h => s.stackFails h) (s1.catLose 0 65536)
    let s3 := if s2.mod.ready then (List.range 128).foldl (fun s p => if s.present p then s.detect p else s) s2 else s2
    .next (if s3.flt.flagged then s3.drainDevice else s3).bootNext
  else .next s

/-- INPUT_50V_CHANGE. In service nothing watches the input (R408, R477). -/
def execInput50vChange (inRange : Bool) (s : State) : Host.Outcome State Fault Refusal :=
  .next { s with mod := { s.mod with v50 := inRange } }

/-- The 12 V input falls: the management cores stop, and the volatile log is lost (R422, R462). -/
def State.standbyLost (s : State) : State :=
  { s with
    flt := { s.flt with next := 0, vlog := [], openIx := [], new := false, repeats := [] },
    cmd := { s.cmd with fwrun := false },
    mod := { s.mod with v12 := false, alertLow := false, cursor := 0 } }.fatal false

/-- INPUT_12V_CHANGE. -/
def execInput12vChange (inRange : Bool) (s : State) : Host.Outcome State Fault Refusal :=
  if inRange then .next { s with mod := { s.mod with v12 := true }, cmd := { s.cmd with fwrun := true } }
  else if s.mod.v12 then .next s.standbyLost
  else .next s

/-! ## Power states (R458-R462) -/

/-- One running or starting context leaves for PARKED as D3hot is entered; in D-Sleep every resident one is sliced out. -/
def State.napCtx (s : State) (c : Nat) : State :=
  let v := s.ctx c
  let s1 := if v.st == .starting then s.setCtx c { v with parkNext := true } else s.preempt c
  if s.d3depth && (s1.ctx c).resident then s1.sliceOut c else s1

/-- D3HOT_ENTRY: D-Nap or D-Sleep, by PCL.LINK.D3DEPTH. The contexts reach PARKED, and then LOADED in D-Sleep, and the
sub-ports DOWN, by their own commands. D-Sleep fails the runs of open collectives, as R464 has it, with the status of what the
quiesce of their ports discards: the model's choice (log entry 149). Each unit moves its counter deltas first (R465). -/
def execD3hotEntry (s : State) : Host.Outcome State Fault Refusal :=
  if s.d3hot then .next s
  else
    let naps := (List.range 8).filter fun c =>
      ((s.ctx c).st == .running && !(s.ctx c).parking) || ((s.ctx c).st == .starting && !(s.ctx c).parkNext)
    let s1 : State := { s with d3hot := true, mod := { s.mod with napped := naps, awake := [] } }
    let s2 := ((List.range 8).foldl (fun s c => s.napCtx c) s1.bndStopAll).sliceTurn
    let s3 := if s.d3depth then
        ((List.range 128).foldl (fun s p => if s.present p then s.subportQuiesce p else s) s2).colsFail (fun _ => true) 0x0402
      else s2
    .next { s3 with ctr := s3.ctr.moveAll }

/-- A context that the entry pre-empted returns to RUNNING; in D-Sleep, contexts stay LOADED. -/
def State.wakeCtx (s : State) (c : Nat) : State :=
  let v := s.ctx c
  if v.st == .starting && !s.flt.drained then s.setCtx c { v with parkNext := false } else s.ctxIssue ⟨c, true, none, false⟩

/-- A sub-port that D-Sleep took DOWN trains from its kept coefficients (R461). -/
def State.wakePort (s : State) (p : Nat) : State :=
  let s1 := if (s.port p).st = 8 then s.subportDown p else s
  if (s.port p).st = 1 || (s.port p).st = 8 then (s1.setPort p { (s1.port p).enter 2 0 with fastNext := true }).detect p else s1

/-- The receipts that waited are written, in order of completion. -/
def State.flushLate (s : State) : State :=
  let s1 : State := { s with cmd := { s.cmd with late := [] } }
  s.cmd.late.foldl (fun s r => s.putReceipt r) s1

/-- The return to D0 (R461). -/
def State.toD0 (s : State) : State :=
  if !s.d3hot then s
  else
    let s1 : State := { s with d3hot := false, mod := { s.mod with napped := [], awake := [] } }
    let gone := s.d3depth && (List.range 8).all fun c => !(s.ctx c).resident && (s.ctx c).st != .slicing
    let s2 := if gone then s1.clearFieldbooks else s1
    let s3 := if s.d3depth then
        (List.range 128).foldl (fun s p =>
          if s.present p && (s.pctl (p / 4)).en && s.svcOf (codePort (p / 4)) == .inService then s.wakePort p else s) s2
      else s.mod.napped.foldl (fun s c => s.wakeCtx c) s2
    s3.settleAll.flushLate.lostEvents

/-- D0_ENTRY. -/
def execD0Entry (s : State) : Host.Outcome State Fault Refusal := .next s.toD0

/-- The clock domain of an order-2 tract is idle: no queue of a unit in it runs an entry, and nothing drains (R459). -/
def State.tractIdle (s : State) (d : Nat) : Bool :=
  s.eng.all fun kv =>
    !(decide (keyUnit kv.1 < 17472) && firstParcel (keyUnit kv.1) / 256 == d && s.runsIn (keyCtx kv.1) (keyUnit kv.1)) ||
    [Q.m, Q.v, Q.x, Q.s].all fun q => kv.2.quiet q && !(kv.2.sync.queue q).canIssue

/-- The clock domain of a Bindery is idle: no descriptor runs or is queued. -/
def State.bndDomainIdle (s : State) (h : Nat) : Bool :=
  let b := s.bindery h
  b.cur.isNone && b.hostq.isEmpty && b.queues.all fun kv => kv.2.run != .running || (s.ctx kv.1).st != .running

/-- No filler runs: none fired, or it was released and has fallen to zero (R400). -/
def State.fillerOver (s : State) : Bool := s.pwr.fill.all fun f => f.released.isSome && s.pwr.duty s.now == 0

/-- The domain may be gated now. -/
def State.gateable (s : State) (d : Nat) : Bool :=
  if d < 64 then s.tractIdle d && s.fillerOver
  else decide (domBnd ≤ d) && decide (d < domBnd + 12) && s.bndDomainIdle (d - domBnd)

/-- DOMAIN_GATE: an A or BD domain that has been idle for its threshold gates its clock. -/
def execDomainGate (d : Fin 260) (s : State) : Host.Outcome State Fault Refusal :=
  if s.gateable d.val then .next { s with mod := { s.mod with gated := Map.put s.mod.gated d.val true } } else .next s

/-- The domain is GATED now: a domain that has work again has been woken by it (R302). -/
def State.domGated (s : State) (d : Nat) : Bool := Map.getD s.mod.gated d false && s.gateable d

/-- PSTATE of DEV.STATUS (R458, R459). -/
def State.pstate (s : State) : Nat :=
  if s.d3hot then (if s.d3depth then 3 else 2)
  else if (List.range 64).all s.domGated && (List.range 12).all fun h => s.domGated (domBnd + h) then 1
  else 0

/-! ## Host reset (R456) -/

/-- A command of which nothing reaches the host any more. -/
def Started.hush (r : Started) : Started := { r with hushed := true }

/-- Command interface and host-facing state after a host reset: SQLAST and the event sequence number stay; started commands
run on, and nothing of them reaches the host. -/
def CmdIf.afterReset (c : CmdIf) : CmdIf :=
  { CmdIf.reset with sub := Map.mapVals c.sub fun _ g => { SubRing.reset with last := g.last },
                     evSeq := c.evSeq, nextUid := c.nextUid, fwrun := c.fwrun, started := c.started.map Started.hush,
                     expired := c.expired, aborted := c.aborted }

/-- A host reset: the command interface is silent before anything else happens, the return to D0 included. -/
def State.hostReset (s : State) : State :=
  let s1 : State := { s with
    cmd := s.cmd.afterReset, sec := s.sec.sessionEnds,
    ctxActs := s.ctxActs.map fun a => { a with cmd := a.cmd.map Started.hush },
    fab := { s.fab with waiting := s.fab.waiting.map fun w => { w with cmd := w.cmd.map Started.hush } } }
  let s2 := s1.toD0
  { s2 with arc := { s2.arc with b2win := [] }, scratch := [0, 0, 0, 0], d3depth := false }

/-- HOST_RESET. -/
def execHostReset (s : State) : Host.Outcome State Fault Refusal := .next s.hostReset

/-- FLR. -/
def execFlr (s : State) : Host.Outcome State Fault Refusal := .next s.hostReset

/-! ## Reference clocks (R382, R480) -/

/-- The link reference is lost: sub-ports in service are quiesced. It has been back for 1 ms: those that went DOWN train. -/
def State.refLink (s : State) (present : Bool) : State :=
  (List.range 128).foldl (fun s p =>
    if !s.present p then s
    else if !present then s.subportQuiesce p
    else if ((s.port p).st == 1 || (s.port p).st == 8) && s.svcOf (codePort (p / 4)) == .inService then
      (if (s.port p).st == 8 then s.subportDown p else s).trainIfEnabled p
    else s) s

/-- A reference is present: edges came in the window, and its measured frequency lies within ±1,000 ppm of nominal (R382). -/
def refPresent (nominal : Nat) (hz : Option Nat) : Bool :=
  hz.any fun f => decide (999 * nominal ≤ 1000 * f) && decide (1000 * f ≤ 1001 * nominal)

/-- REF_CLOCK_WINDOW: the frequencies in Hz that a 10 µs window measured of the 100 MHz and the 156.25 MHz input, or none where
no edge came. Two losses in one window are two entries, the 100 MHz input first (R382). The link reference counts as back after
100 windows in which it was present (R480). -/
def execRefClockWindow (hz lhz : Option Nat) (s : State) : Host.Outcome State Fault Refusal :=
  let m := s.mod
  let h := refPresent 100000000 hz
  let l := refPresent 156250000 lhz
  let lostH := m.refH && !h
  let lostL := m.refL && !l
  let back := if l then min 100 (m.lBack + 1) else 0
  let s1 : State := { s with mod := { m with refH := h, refL := l, hLost := m.hLost || lostH, lLost := m.lLost || lostL, lBack := back } }
  let s2 := if lostH then s1.log 0x0042 0 0 0xFFFFFFFF 0 0 else s1
  let s3 := if lostL && lostH then s2.logNew 0x0042 0 0 0xFFFFFFFF 0 0
    else if lostL then s2.log 0x0042 0 0 0xFFFFFFFF 0 0 else s2
  .next (if lostL then s3.refLink false else if m.lBack < 100 && back = 100 then s3.refLink true else s3)

/-! ## Output signals (R482) -/

/-- FAULT#, low while the device is flagged. The 12 V input powers every output signal. -/
def State.faultPin (s : State) : Bool := s.mod.v12 && s.flt.flagged

/-- ALERT#, low from an entry of SEV 3 or 4 in the persistent log until it is answered (R484). -/
def State.alertPin (s : State) : Bool := s.mod.v12 && s.mod.alertLow

/-- THERMTRIP#, low from a thermal trip until a warm reset takes effect. -/
def State.thermtripPin (s : State) : Bool := s.mod.v12 && s.mod.tripLow

/-- TALERT#, low while THM is in force (R402). -/
def State.talertPin (s : State) : Bool := s.mod.v12 && s.reasons.any fun r => r.1 == 3

/-! ## Field reports and the side band (R243, R425, R484-R486) -/

/-- Bytes 0-10 of the health payload (R425); with the 50 V input absent TMAX and power read 0 (R485). -/
def State.healthBytes (s : State) (powered : Bool) : List Byte :=
  toLE 2 (if powered then s.tmax else 0) ++ toLE 2 (if powered then s.pin else 0) ++ toLE 2 s.flt.spares.sum ++ toLE 4 s.flt.next ++
    toLE 1 s.pstate

/-- HEALTH_REPORT_TIMER. -/
def execHealthReportTimer (s : State) : Host.Outcome State Fault Refusal :=
  if s.cmd.fwrun then .next (s.report 3 0 (s.healthBytes true)) else .next s

/-- FIELD_REPORT_REPEAT: the second or the third copy of a report of SEV 3 or 4. It counts in the reports of its second. -/
def execFieldReportRepeat (rseq : BitVec 32) (s : State) : Host.Outcome State Fault Refusal :=
  match Map.find s.flt.repeats rseq.toNat with
  | none => .next s
  | some x =>
    let sec := s.ns / 1000000000
    let sent := if sec = s.flt.frSecond then s.flt.frSent else 0
    let rs := if x.1 ≤ 1 then Map.del s.flt.repeats rseq.toNat else Map.put s.flt.repeats rseq.toNat (x.1 - 1, x.2)
    if 1000 ≤ sent then
      let f := { s.flt with repeats := rs, frDropped := s.flt.frDropped + 1, frSecond := sec, frSent := sent }
      .next ({ s with flt := f }.count (ctrDev 50))
    else
      let s1 : State := { s with flt := { s.flt with repeats := rs, frSecond := sec, frSent := sent + 1 } }
      .next ((s1.reportOut x.2).count (ctrDev 49))

/-- MANAGEMENT_PORT_LINK_CHANGE. -/
def execManagementPortLinkChange (up : Bool) (s : State) : Host.Outcome State Fault Refusal :=
  .next { s with mod := { s.mod with mgmtUp := up } }

/-- An answer of the SMBus target, while the 12 V input powers it. -/
def State.smbus (s : State) (bs : List Byte) : State := if s.mod.v12 then s.answer (.smbus bs) else s

/-- SMBUS_HEALTH_READ. -/
def execSmbusHealthRead (s : State) : Host.Outcome State Fault Refusal :=
  let flags := b2n s.flt.drained + 2 * b2n s.flt.flagged + 4 * b2n s.dbgOpen + 8 * b2n s.linkUp
  .next (s.smbus (bytesAt (s.healthBytes s.mod.v50 ++ toLE 1 flags) 0 16))

/-- SMBUS_SERIAL_READ. -/
def execSmbusSerialRead (s : State) : Host.Outcome State Fault Refusal := .next (s.smbus (toLE 8 Config.serial.toNat))

/-- SMBUS_STATION_READ. -/
def execSmbusStationRead (s : State) : Host.Outcome State Fault Refusal := .next (s.smbus (toLE 2 s.station))

/-- SMBUS_LOG_CURSOR_WRITE. -/
def execSmbusLogCursorWrite (w : BitVec 16) (s : State) : Host.Outcome State Fault Refusal :=
  if s.mod.v12 then .next { s with mod := { s.mod with cursor := w.toNat } } else .next s

/-- The log entry at the cursor. -/
def State.cursorEntry (s : State) : Option LogEntry :=
  let i := s.mod.cursor % 4096
  if s.mod.cursor.testBit 15 then s.flt.plog[i]? else Map.find s.flt.vlog i

/-- SMBUS_LOG_ENTRY_READ: the cursor's index moves on, within its log. -/
def execSmbusLogEntryRead (s : State) : Host.Outcome State Fault Refusal :=
  let c := s.mod.cursor
  let next := c - c % 4096 + (c % 4096 + 1) % 4096
  let bs := match s.cursorEntry with | some e => e.bytes | none => List.replicate 64 0
  if s.mod.v12 then .next { s.smbus bs with mod := { s.mod with cursor := next } } else .next s

/-- Entries held in the persistent log, saturating (R424). -/
def State.pcnt (s : State) : Nat := min 255 s.flt.plog.length

/-- SMBUS_PCNT_READ. -/
def execSmbusPcntRead (s : State) : Host.Outcome State Fault Refusal := .next (s.smbus (toLE 1 s.pcnt))

/-- SMBUS_ALERT_RESPONSE: a target whose ALERT# is low answers with its address, and releases it. -/
def execSmbusAlertResponse (s : State) : Host.Outcome State Fault Refusal :=
  let address := toLE 1 (2 * (0x60 + Config.smbusStrap.toNat))
  if s.mod.alertLow then .next { s.smbus address with mod := { s.mod with alertLow := false } } else .next s

/-! ## The test access port (R450, R487) -/

/-- TAP_INSTRUCTION: a locked port answers only BYPASS and IDCODE. What an unlocked one does beyond them the spec does not
give. -/
def execTapInstruction (i : TapIns) (s : State) : Host.Outcome State Fault Refusal :=
  match i with
  | .bypass => .next (s.answer (.tap 0))
  | .idcode => .next (s.answer (.tap 0x09160E8B))
  | .other _ => if s.sec.tapOpen then .refused .debugPort else .next s

end Sys2Proof.Machine
end

