-- ==== Sys2Proof/Machine/Survey.lean ====
section
/-! DEFINITION. Surveys: the tiles that the parcels of a pair compute, their comparison and the referee's part (spec 17, R433,
R434). -/

namespace Sys2Proof.Machine

/-! ## The operands of a tile (R433) -/

/-- One step of the word sequence. -/
def surveyStep (x : BitVec 64) : BitVec 64 :=
  let x1 := x ^^^ (x <<< 13)
  let x2 := x1 ^^^ (x1 >>> 7)
  x2 ^^^ (x2 <<< 17)

/-- survey_word of R433. -/
def surveyWord (seed : BitVec 64) (q t n : Nat) : BitVec 64 :=
  Nat.repeat surveyStep (n + 1)
    (seed ^^^ (BitVec.ofNat 64 q <<< 32) ^^^ (BitVec.ofNat 64 t <<< 16) ^^^ 0x9E3779B97F4A7C15#64)

/-- The operand formats of a class. -/
def surveyFmts : Nat → Fmt × Fmt
  | 0 => (.e4m3, .e4m3) | 1 => (.l8, .l8) | 2 => (.fp4, .fp4) | 3 => (.l4, .s4)
  | 4 => (.bf16, .bf16) | 5 => (.fp16, .l16) | 6 => (.fp32, .fp32) | _ => (.u8, .u8)

/-- The code of a format (R25). -/
def fmtCode (f : Fmt) : Nat := ((List.range 16).find? fun c => fmtOf c == some f).getD 0

/-- The descriptor of a class's tiles: uncoupled, DSRC IMMEDIATE, and for class 7 the quantised path with per-tensor zero points,
whose value no image shows (R114, R433). -/
def surveyDesc (cls : Nat) : BitVec 512 :=
  let f := surveyFmts cls
  let quant := if cls = 7 then setBits (setBits (setBits 0 11 2 1) 13 2 1) 15 1 1 else 0
  BitVec.ofNat 512 (setBits (setBits (setBits quant 0 4 (fmtCode f.1)) 4 4 (fmtCode f.2)) 16 2 1)

/-- Element `i` of a stream whose first word is `first`: codes lie in successive words from the least significant bit up, and one
that is NaN or infinite is +0. -/
def surveyCode (seed : BitVec 64) (q t first : Nat) (f : Fmt) (i : Nat) : Nat :=
  let c := bitsOf (surveyWord seed q t (first + f.width * i / 64)).toNat (f.width * i % 64) f.width
  if (decode f c).isFinite then c else 0

/-! ## The tile (R433) -/

/-- Steps of a tile. -/
def surveySteps : Nat := 1024

/-- The order in which a parcel places the steps: ascending, or, for the second of a pair, 16 chunks of 64 in descending order. -/
def surveyOrder (second : Bool) : List Nat :=
  if second then (List.range 16).flatMap fun c => (List.range 64).map fun k => 64 * (15 - c) + k else List.range surveySteps

/-- The 256 images that a sound parcel makes of tile `t` of pair `q`. -/
def surveyTile (seed : BitVec 64) (q t : Nat) (second : Bool) : List Byte :=
  let d := surveyDesc (t % 8)
  let dim := tileDim (dWide d) false
  let words := dim * surveySteps * (dFmtA d).width / 64
  let stream := fun (first : Nat) (f : Fmt) (k : Nat) =>
    (List.range dim).map fun i => (surveyCode seed q t first f (dim * k + i), (0 : Int), (none : Option Nat))
  let place := fun (sg : Segment) (k : Nat) => (placeOperands d (stream 0 (dFmtA d) k) (stream words (dFmtB d) k) false false sg).1
  ((surveyOrder second).foldl place (openSegment (slotOf d (if dWide d then none else some (dEmax d))) 0 false dim dim)).images

/-! ## Pairs, referees and suspects (R433, R434) -/

/-- The first parcel of pair `q`: pairs count through T0 and T1 and then, with mask 0xF, through T2 and T3. -/
def surveyFirst (mask q : Nat) : Nat := (if mask = 12 then 8192 else 0) + q / 4096 * 8192 + q % 4096

/-- The images that a parcel makes: those of a sound one, unless it is listed as faulty on that tile. -/
def surveyMade (faults : List SurveyFault) (p t : Nat) (sound : List Byte) : List Byte :=
  match faults.find? fun f => f.parcel.val == p && f.tile.toNat == t with
  | some f => f.images
  | none => sound

/-- The parcels that a tile makes suspect: where the pair disagrees, each that disagrees with the referee (R434). -/
def surveySuspects (seed : BitVec 64) (mask : Nat) (faults referees : List SurveyFault) (q t : Nat) : List Nat :=
  let p := surveyFirst mask q
  let a := surveyMade faults p t (surveyTile seed q t false)
  let b := surveyMade faults (p + 4096) t (surveyTile seed q t true)
  let x := p / 256 % 16
  let referee := surveyMade referees (p - 256 * x + 256 * (x ^^^ 1)) t (surveyTile seed q t false)
  if a = b then [] else (if a = referee then [] else [p]) ++ (if b = referee then [] else [p + 4096])

/-- Pairs of a survey. -/
def surveyPairs (mask : Nat) : Nat := if mask = 15 then 8192 else 4096

/-- The suspects of pair `q` over its tiles. -/
def pairSuspects (seed : BitVec 64) (tiles mask : Nat) (faults referees : List SurveyFault) (q : Nat) : List Nat :=
  (List.range tiles).flatMap fun t => surveySuspects seed mask faults referees q t

/-- What a survey finds: how many pairs disagreed, and the lowest suspect. -/
def surveyFound (seed : BitVec 64) (tiles mask : Nat) (faults referees : List SurveyFault) : Nat × Option Nat :=
  let found := (List.range (surveyPairs mask)).map (pairSuspects seed tiles mask faults referees)
  ((found.filter fun l => !l.isEmpty).length, found.flatten.min?)

end Sys2Proof.Machine
end

