-- ==== Sys2Proof/Machine/Service.lean ====
section
/-! DEFINITION. Reliability and security: surveys, replays, drains, wait limits, units out of service and back, images,
attestation, debug open, the watchdog, the security unit's messages (spec 17, 18, R368, R369, R410-R452). -/

namespace Sys2Proof.Machine

/-! ## Wait limits (R410, R411) -/

/-- The range of level Tk in its own unit (R410). -/
def limitRange : Nat → Nat × Nat
  | 0 => (500, 100000) | 1 => (2000, 10000000) | 2 => (8, 10000000) | 3 => (1000, 60000000) | 4 => (4000, 4000000000)
  | _ => (16, 4000000)

/-- A limit in ns. -/
def limitNs (k v : Nat) : Nat := if k < 2 then v else if k < 5 then 1000 * v else 1000000 * v

/-- Limits that keep their ranges, the factor of 4 between levels, and the long command limit in ms (R411). -/
def limitsOk (ts : List Nat) (wlong : Nat) : Bool :=
  ((List.range 6).all fun k => decide ((limitRange k).1 ≤ ts.getD k 0) && decide (ts.getD k 0 ≤ (limitRange k).2)) &&
  ((List.range 5).all fun k => decide (4 * limitNs k (ts.getD k 0) ≤ limitNs (k + 1) (ts.getD (k + 1) 0))) &&
  decide (ts.getD 4 0 ≤ 1000 * wlong)

/-- WAIT_LIMITS: the levels that the mask names, or none. -/
def execWaitLimits (h : Hdr) (mask : Byte) (t0 t1 t2 t3 t4 t5 : BitVec 32) (s : State) : Host.Outcome State Fault Refusal :=
  .next (s.command h 0x0704 (Instr.params (.waitLimits h mask t0 t1 t2 t3 t4 t5)) fun s r =>
    let new := ([t0, t1, t2, t3, t4, t5].zipIdx).map fun x =>
      if mask.toNat.testBit x.2 then x.1.toNat else s.flt.wlim.getD x.2 0
    if 64 ≤ mask.toNat || !limitsOk new s.flt.wlong then s.finish r 0x0801
    else ({ s with flt := { s.flt with wlim := new } }).finish r 0)

/-! ## Surveys, replays, drains (R426-R434) -/

/-- A context runs or starts in a parcel of the order-3 tracts of a mask. -/
def State.surveyBusy (s : State) (mask : Nat) : Bool :=
  (List.range 8).any fun c => ((s.ctx c).st == .running || (s.ctx c).st == .starting) &&
    (List.range 64).any fun i => (s.ctx c).foot.testBit i && mask.testBit (i / 16)

/-- SURVEY: `faults` are the images of the tiles on which a parcel of a pair is faulty, `referees` those of referees; every other
tile comes out as R433 computes it (log entry 71). -/
def execSurvey (h : Hdr) (seed : BitVec 64) (tiles : BitVec 32) (mask : Byte) (faults referees : List SurveyFault) (s : State) :
    Host.Outcome State Fault Refusal :=
  let m := mask.toNat
  .next (s.command h 0x0701 (Instr.params (.survey h seed tiles mask faults referees)) fun s r =>
    if !(m == 3 || m == 12 || m == 15) || tiles.toNat = 0 || 65536 < tiles.toNat then s.finish r 0x0801
    else if s.surveyBusy m then s.finish r 0x0301
    else
      let x := surveyFound seed tiles.toNat m faults referees
      (s.surveyed (surveyPairs m) x.1 x.2).finish r 0 (surveyResult (surveyPairs m) x.1 x.2))

/-- The catalogue images of the record of revolution `rev`. -/
def State.journalCat (s : State) (rev : Nat) : List (Option CatEntry) :=
  (List.range 65536).map fun k => catOfBytes (s.mem.readN (journalAddr rev + 0x10000 + 64 * k) 64)

/-- REPLAY_STEP, step 1: the rows copied, the catalogue and SKIPRUN restored. Its receipt comes after the comparison. -/
def execReplayStep (h : Hdr) (rev : BitVec 32) (s : State) : Host.Outcome State Fault Refusal :=
  let n := rev.toNat
  .next (s.command h 0x0702 (Instr.params (.replayStep h rev)) fun s r =>
    if s.brg.valid then s.finish r 0x0301
    else if !s.journalHeld n then s.finish r 0x0801
    else if s.badIn (journalAddr n) 0x410000 then (s.uncRead (journalAddr n) codeMgmt).finish r 0x0723
    else
      let es := s.journalCat n
      if es.any (·.isNone) then s.finish r 0x0801
      else
        let rows := (List.range 128).map fun i => (i, s.journalRow n i)
        let s1 := s.applyCat (.load 0 (es.filterMap id))
        ({ s1 with cat := { s1.cat with skiprun := s.mem.readLE (journalAddr n + 16) 2 },
                   flt := { s1.flt with replay := some ⟨n, rows, false⟩ } }).begin r)

/-- DRAIN. -/
def execDrain (h : Hdr) (s : State) : Host.Outcome State Fault Refusal :=
  .next (s.command h 0x0703 (Instr.params (.drain h)) fun s r => s.drainDevice.finish r 0)

/-! ## Units (R368, R414-R420) -/

/-- Why a unit code cannot be acted on; none where it can (R302, R361, R368). -/
def State.unitStatus (s : State) (code : Nat) : Option Nat :=
  if 4 < code % 16 || 2 ^ 21 ≤ code || (code % 16 = 0 && 4 < code / 16 % 8) then some 0x0801
  else match unitRef code with
    | none => some 0x0772
    | some (.stack h) => if (s.stack h).st = 3 then some 0x0772 else if s.refOff (.stack h) then some 0x0301 else none
    | some r => if s.svcOf r.code == .disabled then some 0x0772 else if s.refOff r then some 0x0301 else none

/-- A quiesce begins, unless one is under way. -/
def State.quiesceOnce (s : State) (r : UnitRef) : State := if s.svcOf r.code == .inService then s.quiesceBegin r else s

/-- UNIT_QUIESCE. -/
def execUnitQuiesce (h : Hdr) (code : BitVec 32) (s : State) : Host.Outcome State Fault Refusal :=
  .next (s.command h 0x0705 (Instr.params (.unitQuiesce h code)) fun s r =>
    match s.unitStatus code.toNat, unitRef code.toNat with
    | some st, _ => s.finish r st
    | none, some u => if s.svcOf u.code == .quiesced then s.finish r 0 else (s.begin r).quiesceOnce u
    | none, none => s.finish r 0x0772)

/-- A unit reset by command, with its receipt; a reset of the management cores ends its own command with the others. -/
def State.resetByCommand (s : State) (r : Started) (u : UnitRef) : State :=
  let s1 := s.unitReset u
  if u == .mgmt then s1 else s1.finish r 0 (toLE 2 (s1.epochOf u.code))

/-- UNIT_RESET. -/
def execUnitReset (h : Hdr) (code : BitVec 32) (s : State) : Host.Outcome State Fault Refusal :=
  .next (s.command h 0x0706 (Instr.params (.unitReset h code)) fun s r =>
    match s.unitStatus code.toNat, unitRef code.toNat with
    | some st, _ => s.finish r st
    | none, some u => if s.svcOf u.code == .quiesced then s.resetByCommand r u else (s.begin r).quiesceOnce u
    | none, none => s.finish r 0x0772)

/-- UNIT_RESUME. -/
def execUnitResume (h : Hdr) (code : BitVec 32) (s : State) : Host.Outcome State Fault Refusal :=
  .next (s.command h 0x0707 (Instr.params (.unitResume h code)) fun s r =>
    match s.unitStatus code.toNat, unitRef code.toNat with
    | some st, _ => s.finish r st
    | none, some u => (s.unitResume u).finish r 0
    | none, none => s.finish r 0x0772)

/-- SPARE_SWAP. -/
def execSpareSwap (h : Hdr) (path : BitVec 24) (s : State) : Host.Outcome State Fault Refusal :=
  .next (s.command h 0x0708 (Instr.params (.spareSwap h path)) fun s r =>
    if 2 ^ 17 ≤ path.toNat || path.toNat % 8 ≠ 0 then s.finish r 0x0801
    else match pathUnit path.toNat with
      | some p => (s.spareSwap p).1.finish r (s.spareSwap p).2
      | none => s.finish r 0x0772)

/-- Anti-rollback counter of a class. -/
def State.arb (s : State) (cls : Nat) : Nat := Map.getD s.sec.arb cls 0

/-- The counter of a class brought up to the SVN of its active copy (R447). -/
def State.advanceArb (s : State) (cls : Nat) : State :=
  match Map.find s.sec.active cls with
  | some i =>
    let x := { s.sec with arb := Map.putD s.sec.arb cls (max (s.arb cls) i.svn) 0 }
    { s with sec := { x with atk := (x.keyed s.dbgOpen).atk } }
  | none => s

/-- The receipt of an activation: the counter that a good one advances, or the mark that returns to the previous copy (R420,
R444, R447). -/
def State.activated (s : State) (r : Started) : State :=
  if r.items % 2 = 1 then ({ s with sec := s.sec.swapCopies (r.items / 2) }).finish r 0x0901 else (s.advanceArb (r.items / 2)).finish r 0

/-- An activation on its unit ends: reset with the image, or with the previous one, and back in service (R420, R444). The
receipt follows; that of the management cores' own image comes before any other receipt (R445). -/
def State.activateUnit (s : State) (r : Started) (u : UnitRef) : State :=
  let renew := fun (s : State) =>
    let s1 := (s.unitReset u).unitResume u
    if r.items % 2 = 1 then s1 else s1.log 0x0033 0 2 u.code 0 0xFFFFFFFF
  if u == .mgmt then renew (s.activated r) else (renew s).activated r

/-- A unit is QUIESCED (R414 step 5): the command that waited for it goes on. -/
def State.quiesceEnds (s : State) (u : UnitRef) : State :=
  let s1 := s.quiesceEnd u
  (s1.cmd.started.filter fun r => r.begun && r.names objUnit u.code).foldl (fun s r =>
    match r.op with
    | 0x0705 => s.finish r 0
    | 0x0706 => s.resetByCommand r u
    | 0x0A02 => s.activateUnit r u
    | _ => s) s1

/-- An engine stands at its pre-emption boundaries (R120, R142, R148). -/
def Eng.settled (e : Eng) : Bool := e.mat.drains.isEmpty && e.mat.betweenClocks && e.vec.atBoundary

/-- Nothing that the quiescing unit had accepted is left: its queues stand at their boundaries, its requests and, of the
management cores, its commands have ended (R414 steps 2 and 3). -/
def State.acceptedDone (s : State) (u : UnitRef) : Bool :=
  match u with
  | .unit v => s.eng.all fun kv => !(decide (keyUnit kv.1 < 17477) && within (keyUnit kv.1) v) || kv.2.settled
  | .port n => (s.portPaths n).all fun p => (s.port p).st != 8
  | .slice n => s.arc.slices.all fun kv => kv.2.reqs.all fun q => !(q.at (.slice n))
  | .stack h => s.arc.slices.all fun kv => kv.2.reqs.all fun q => !(q.at (.stack h))
  | .mgmt => s.cmd.started.all fun r => fastOp r.op || r.names objUnit codeMgmt

/-- What a quiescing unit has not ended within its bound ends with 0x0401: an entry that has not come to its boundary, a
request, a firmware command (R414 step 4). -/
def State.quiesceDrops (s : State) (u : UnitRef) : State :=
  match u with
  | .unit v =>
    (s.eng.filter fun kv => decide (keyUnit kv.1 < 17477) && within (keyUnit kv.1) v && !kv.2.settled).foldl
      (fun s kv => (s.tripQueue kv.1 .m).tripQueue kv.1 .v) s
  | .port n => (s.portPaths n).foldl (fun (s : State) p => if (s.port p).st = 8 then s.subportDown p else s) s
  | .mgmt => (s.cmd.started.filter fun r => !fastOp r.op && !r.names objUnit codeMgmt).foldl (fun s r => s.finish r 0x0401) s
  | _ => s.dropRequests u false

/-- QUIESCE_ACCEPTED_DONE. -/
def execQuiesceAcceptedDone (code : BitVec 32) (s : State) : Host.Outcome State Fault Refusal :=
  match unitRef code.toNat with
  | some u => if s.svcOf u.code == .quiescing && s.acceptedDone u then .next (s.quiesceEnds u) else .next s
  | none => .next s

/-- QUIESCE_BOUND_EXPIRY: what remains ends with 0x0401 (R414 step 4). -/
def execQuiesceBoundExpiry (code : BitVec 32) (s : State) : Host.Outcome State Fault Refusal :=
  match unitRef code.toNat with
  | some u =>
    if s.svcOf u.code == .quiescing then .next ((s.quiesceDrops u).quiesceEnds u) else .next s
  | none => .next s

/-- The unit has a heartbeat: its domain is not OFF, and it is not held in reset (R199, R413, R458). -/
def State.watched (s : State) (u : UnitRef) : Bool :=
  s.svcOf u.code != .disabled && (match u with | .stack h => (s.stack h).st != 3 | u => !s.refOff u)

/-- The watchdog acts on what has fallen silent: it resets it, or starts a warm reset when it has acted within 60 s; the vector
and the log entry follow (R413). -/
def State.watchdog (s : State) (code : Nat) (reset : State → State) : State :=
  let again := s.flt.wdogLast.any fun x => decide (s.now ≤ x + 60000000000 * 256)
  let s1 : State := { s with flt := { s.flt with wdogLast := some s.now } }
  (((if again then s1.requestWarm else reset s1).count (ctrDev 46)).fatal true).log 0x0021 0 2 code 0 0xFFFFFFFF

/-- WATCHDOG_EXPIRY at time `t` (R413). An engine that is watched has no unit code; the reserved kind 5 stands for the bearing
engine, 6 for the catalogue engine, 7 for a collective engine, and R415 clears nothing of them (log entry 146). -/
def execWatchdogExpiry (code : BitVec 32) (t : Nat) (s : State) : Host.Outcome State Fault Refusal :=
  let s1 := s.at t
  match unitRef code.toNat with
  | none => .next (if 5 ≤ code.toNat % 16 && code.toNat % 16 ≤ 7 then s1.watchdog 0xFFFFFFFF fun s => s.count (ctrDev 45) else s1)
  | some u => .next (if s1.watched u then s1.watchdog u.code fun s => s.unitReset u else s1)

/-- LOG_ENTRY_CLOSE: 1 ms has passed without a recurrence (R423). -/
def execLogEntryClose (index : BitVec 32) (s : State) : Host.Outcome State Fault Refusal :=
  .next { s with flt := { s.flt with openIx := s.flt.openIx.filter (· != index.toNat) } }

/-! ## Identity (R437-R439, R448, R449) -/

/-- FSTATE. -/
def State.fstate (s : State) : Nat := b2n s.dbgOpen

/-- Bytes 0-767 of an attestation report. -/
def State.attestBody (s : State) (nonce : BitVec 256) : List Byte :=
  bytesAt (toLE 4 0x54414C47 ++ toLE 2 1 ++
    toLE 2 (b2n s.dbgOpen + 2 * b2n s.flt.drained + 4 * b2n s.flt.flagged + 8 * b2n s.sec.tapOpen) ++
    toLE 8 Config.serial.toNat ++ toLE 3 s.station ++ toLE 1 0 ++ toLE 4 s.fstate ++ toLE 32 nonce.toNat ++
    slhPub s.sec.atk ++ s.sec.arbs.flatMap (toLE 4) ++
    ((List.range 16).flatMap fun k => toLE 4 (if k < 7 then s.activeVersion k else 0)) ++
    ((List.range 16).flatMap fun k => toLE 32 (if k < 7 then s.activeDigest k else 0))) 0 768

/-- ATTEST. -/
def execAttest (h : Hdr) (nonce : BitVec 256) (addr : BitVec 64) (s : State) : Host.Outcome State Fault Refusal :=
  .next (s.command h 0x0801 (Instr.params (.attest h nonce addr)) fun s r =>
    let body := s.attestBody nonce
    let sig := (List.range 35664).map (Config.slhSign s.sec.atk body)
    (s.hostOut r addr.toNat (body ++ sig)).finish r 0 (toLE 4 36432))

/-- Bytes 0-127 of the identity record. -/
def State.identityBody (s : State) : List Byte :=
  bytesAt (toLE 4 0x44494C47 ++ toLE 2 1 ++ toLE 2 0 ++ toLE 8 Config.serial.toNat ++ toLE 4 s.fstate ++
    slhPub s.sec.idk ++ slhPub s.sec.atk) 0 128

/-- IDENTITY_READ. -/
def execIdentityRead (h : Hdr) (addr : BitVec 64) (s : State) : Host.Outcome State Fault Refusal :=
  .next (s.command h 0x0802 (Instr.params (.identityRead h addr)) fun s r =>
    let body := s.identityBody
    let endorse := (List.range 35664).map (Config.slhSign s.sec.idk body)
    let chain := Config.chain s.dbgOpen
    (s.hostOut r addr.toNat (body ++ endorse ++ toLE 4 chain.length ++ chain)).finish r 0 (toLE 4 (35796 + chain.length)))

/-! ## Debug open (R451, R452) -/

/-- The record's fixed fields. -/
def debugRecordOk (b : List Byte) : Bool :=
  leAt b 0 4 == 0x42444C47 && leAt b 4 2 == 1 && zeroBytes b 6 7 && zeroBytes b 70 71 && leAt b 72 4 == 16224 && zeroBytes b 76 4095

/-- Every secret of R440 zeroised, the fuse blown, new keys derived, the test access port unlocked. -/
def State.openDebug (s : State) : State :=
  { s with dbgOpen := true, sec := { s.sec.sessionEnds with jobKeys := [], tapOpen := true }.keyed true }

/-- DEBUG_OPEN: `sig` is the signature as the read at SADDR returned it, none where that read ended with a PCI Express error;
`sigOk` says that it verifies over bytes 0-63 with PUB (log entry 147). The order of the answers is log entry 121. -/
def execDebugOpen (h : Hdr) (rec : List Byte) (sig : Option (List Byte)) (sigOk : Bool) (s : State) :
    Host.Outcome State Fault Refusal :=
  .next (s.command h 0x0803 (Instr.params (.debugOpen h rec sig sigOk)) fun s r =>
    if !debugRecordOk rec then s.finish r 0x0801
    else if s.dbgOpen then s.finish r 0
    else if leAt rec 8 8 ≠ Config.serial.toNat || sha256 (bytesAt rec 16 48) != s.sec.dkh || s.sec.nodbg then s.finish r 0x0903
    else if sig.isNone then s.finish r 0x0771
    else if !sigOk then s.finish r 0x0903
    else s.openDebug.finish r 0)

/-! ## Images (R441-R447) -/

/-- Check 1 of R443 on the bytes of an image (R442). -/
def imageHdrOk (cls : Nat) (b : List Byte) : Bool :=
  leAt b 0 4 == 0x4D494C47 && leAt b 4 1 == cls && decide (leAt b 5 1 ≤ 64) && zeroBytes b 7 7 && zeroBytes b 48 63 &&
    decide (1 ≤ leAt b 12 4) && decide (leAt b 12 4 ≤ 16760880) && b.length == 16336 + leAt b 12 4

/-- The image that bytes hold (R442). -/
def imageOf (b : List Byte) : Image := ⟨leAt b 8 4, leAt b 5 1, leAt b 6 1, leAt b 16 32, b⟩

/-- Bytes of the staged images of other classes. -/
def State.stagedOther (s : State) (cls : Nat) : Nat := ((s.sec.staged.filter fun kv => kv.1 != cls).map fun kv => kv.2.bytes.length).sum

/-- The first check of R443 that an image fails. -/
def State.stageStatus (s : State) (cls : Nat) (b : List Byte) (sigOk : Bool) : Option Nat :=
  if !imageHdrOk cls b then some 0x0801
  else if 2 ^ 26 < s.stagedOther cls + b.length then some 0x0207
  else if !s.sec.sealed (imageOf b) || !sigOk then some 0x0901
  else if (imageOf b).svn < s.arb cls then some 0x0902
  else none

/-- IMAGE_STAGE: `img` is the image as the read of LENGTH bytes of host memory returned it, none where that read ended with a
PCI Express error (R361); `sigOk` says that its signature verifies over bytes 0-111 with PUB (log entry 147). -/
def execImageStage (h : Hdr) (cls : Byte) (addr : BitVec 64) (len : BitVec 32) (img : Option (List Byte)) (sigOk : Bool)
    (s : State) : Host.Outcome State Fault Refusal :=
  let c := cls.toNat
  .next (s.command h 0x0A01 (Instr.params (.imageStage h cls addr len img sigOk)) fun s r =>
    if 6 < c then s.finish r 0x0801
    else if s.sec.noimg then s.finish r 0x0301
    else match img with
      | none => s.finish r 0x0771
      | some b => match s.stageStatus c b sigOk with
        | some st => s.finish r st
        | none => ({ s with sec := { s.sec with staged := Map.put s.sec.staged c (imageOf b) } }).finish r 0)

/-- The staged image written over the inactive copy, which is then marked active (R444). -/
def Sec.install (x : Sec) (cls : Nat) (i : Image) : Sec :=
  { x with inactive := Map.put x.inactive cls i }.swapCopies cls

/-- KIND of the unit codes that a class applies to (R441). -/
def classKind : Nat → Nat
  | 0 => 4 | 1 => 0 | 2 => 1 | 3 => 2 | _ => 3

/-- The record of an activation, with its class and whether its image fails on the unit. -/
def Started.activation (r : Started) (cls : Nat) (fails : Bool) : Started := { r with items := 2 * cls + b2n fails }

/-- An activation that may go on: the inactive copy is written and marked active, and its unit, where it has one, quiesces and is then reset
(R420, R441). Class 5 takes effect at once, class 6 at the next cold reset. -/
def State.activate (s : State) (r : Started) (cls : Nat) (i : Image) (u : Option UnitRef) (fails : Bool) : State :=
  let s1 : State := { s with sec := s.sec.install cls i }
  match u with
  | none => (s1.advanceArb cls).finish r 0
  | some u =>
    let r1 := r.activation cls fails
    if s1.svcOf u.code == .quiesced then (s1.putStarted r r1).activateUnit r1 u
    else ((s1.putStarted r r1).begin r1).quiesceOnce u

/-- IMAGE_ACTIVATE: `applies` says whether the image passes its check on the unit (R420). With nothing staged it ends with
0x0801 (log entry 33). -/
def execImageActivate (h : Hdr) (cls : Byte) (code : BitVec 32) (applies : Bool) (s : State) : Host.Outcome State Fault Refusal :=
  let c := cls.toNat
  .next (s.command h 0x0A02 (Instr.params (.imageActivate h cls code applies)) fun s r =>
    if 6 < c || (c < 5 && code.toNat % 16 != classKind c) then s.finish r 0x0801
    else if s.sec.noimg then s.finish r 0x0301
    else match Map.find s.sec.staged c, (if c < 5 then s.unitStatus code.toNat else none) with
      | none, _ => s.finish r 0x0801
      | some _, some st => s.finish r st
      | some i, none =>
        if i.svn < s.arb c then s.finish r 0x0902
        else s.activate r c i (if c < 5 then unitRef code.toNat else none) (!applies))

/-- IMAGE_QUERY. -/
def execImageQuery (h : Hdr) (cls : Byte) (s : State) : Host.Outcome State Fault Refusal :=
  .next (s.command h 0x0A03 (Instr.params (.imageQuery h cls)) fun s r =>
    if 6 < cls.toNat then s.finish r 0x0801
    else s.finish r 0 (toLE 4 (s.activeVersion cls.toNat) ++ toLE 4 (s.arb cls.toNat)))

/-! ## The secured session (R436, R440) -/

/-- The error answer of the session: the SPDM code 0x7F (PRESUMED, log entry 34). -/
def State.spdmError (s : State) : State := s.answer (.spdm [0x7F])

/-- A requester offers an algorithm of R436 for each purpose of the session. -/
def spdmOffers (offer : List SpdmAlg) : Bool :=
  [SpdmAlg.slhDsaSha2192f, .mlKem1024, .aes256Gcm, .sha256].all offer.contains

/-- SPDM_MESSAGE: keys exist only within a session. What key the establishment gives it is a free value (log entry 147). -/
def execSpdmMessage (m : SpdmReq) (s : State) : Host.Outcome State Fault Refusal :=
  let x := s.sec
  match m with
  | .establish offer auth =>
    if spdmOffers offer && !auth then
      .next ({ s.useFree with sec := { x with session := true, sessionKey := (s.free 256).toNat } }.answer (.spdm []))
    else .next s.spdmError
  | .endSession => if x.session then .next ({ s with sec := x.sessionEnds }.answer (.spdm [])) else .next s.spdmError
  | .ideKey k v =>
    if x.session then
      .next ({ s with sec := { x with ide := Map.put x.ide k.val true, ideKeys := Map.put x.ideKeys k.val v.toNat } }.answer (.spdm []))
    else .next s.spdmError
  | .ideStop k =>
    if x.session then
      .next ({ s with sec := { x with ide := Map.del x.ide k.val, ideKeys := Map.del x.ideKeys k.val } }.answer (.spdm []))
    else .next s.spdmError

/-- JOB_KEY_MESSAGE. -/
def execJobKeyMessage (m : JobKeyReq) (s : State) : Host.Outcome State Fault Refusal :=
  let x := s.sec
  if !x.session then .next s.spdmError
  else match m with
    | .store k v => .next ({ s with sec := { x with jobKeys := Map.putD x.jobKeys k.val v.toNat 0 } }.answer (.spdm []))
    | .readBack k => .next (s.answer (.spdm (toLE 32 (Map.getD x.jobKeys k.val 0))))

end Sys2Proof.Machine
end

