-- ==== Sys2Proof/Machine/Regs.lean ====
section
/-! DEFINITION. The registers of BAR0: where each lies, what a read returns, what a write does; accesses that name no
register; the MSI-X table (R8-R15, R373-R386, and the field tables of every chapter). -/

namespace Sys2Proof.Machine

/-! ## The register map (R373-R376) -/

/-- A register, or a 64-bit pair, with its index. `ident` is a word of the identity registers, `serial` their pair;
`stk` and `fill` name a word of an entry or a record; `qsw` and `qfail` a queue M, V, X, S as 0-3 of a unit. -/
inductive Reg where
  | ident (word : Nat)
  | serial
  | status
  | owner
  | ctxst (c : Nat)
  | ctximg (c : Nat)
  | scratch (k : Nat)
  | sqbase (q : Nat)
  | rqbase (q : Nat)
  | sqlast (q : Nat)
  | sqctl (q : Nat)
  | rqctl (q : Nat)
  | rqptr (q : Nat)
  | evcfg
  | cmdDlyth
  | fatal
  | cmdStat
  | link
  | ideStat
  | secState
  | arbc (k : Nat)
  | cap
  | oppt
  | pwrStat
  | gain
  | fill (k word : Nat)
  | wlim (k : Nat)
  | wlong
  | logStat
  | spare (n : Nat)
  | refStat
  | dom (n : Nat)
  | brgNow
  | dcfg
  | tree
  | pinit
  | brgStat
  | tchild (k : Nat)
  | revInit
  | stk (n word : Nat)
  | share (h : Nat)
  | hbmStat (h : Nat)
  | bndStat (h : Nat)
  | slotCfg
  | slotFree
  | domain
  | shelf (n : Nat)
  | arcDlyth
  | catStat
  | catSkip
  | catArea (c : Nat)
  | b2win (n : Nat)
  | fpctl (n : Nat)
  | fpbase (n : Nat)
  | fplen (n : Nat)
  | fplat (n : Nat)
  | fplcnt (n : Nat)
  | pctl (n : Nat)
  | station
  | rtcfg
  | wenDlyth
  | pstat (p : Nat)
  | dly (p : Nat)
  | rtr (i : Nat)
  | rtl (i : Nat)
  | qsw (u q : Nat)
  | qfail (u q : Nat)
  | misuse (u : Nat)
  | psw (u : Nat)
  | ctrStat
  | snapCfg
  | counter (k : Nat)
  deriving DecidableEq, Repr

/-- One row of the map: BAR0 offset, instances, stride, whether each is a 64-bit pair. -/
structure RegRow where
  base : Nat
  count : Nat
  stride : Nat
  pair : Bool
  reg : Nat → Reg

/-- The identity words that hold a register (R380). -/
def identRows : List RegRow :=
  [⟨0, 2, 4, false, .ident⟩, ⟨8, 1, 8, true, fun _ => .serial⟩, ⟨0x10, 3, 4, false, fun i => .ident (4 + i)⟩]

/-- DEV, CMD, PCL and SEC (R375). -/
def regRows1 : List RegRow :=
  [⟨0x100, 1, 4, false, fun _ => .status⟩, ⟨0x104, 1, 4, false, fun _ => .owner⟩, ⟨0x120, 8, 4, false, .ctxst⟩,
   ⟨0x140, 8, 8, true, .ctximg⟩, ⟨0x180, 4, 4, false, .scratch⟩,
   ⟨0x10000, 64, 8, true, .sqbase⟩, ⟨0x10200, 64, 8, true, .rqbase⟩, ⟨0x10400, 64, 8, true, .sqlast⟩,
   ⟨0x10600, 64, 4, false, .sqctl⟩, ⟨0x10700, 64, 4, false, .rqctl⟩, ⟨0x10800, 64, 4, false, .rqptr⟩,
   ⟨0x10900, 1, 4, false, fun _ => .evcfg⟩, ⟨0x10904, 1, 4, false, fun _ => .cmdDlyth⟩,
   ⟨0x10908, 1, 4, false, fun _ => .fatal⟩, ⟨0x1090C, 1, 4, false, fun _ => .cmdStat⟩,
   ⟨0x20000, 1, 4, false, fun _ => .link⟩, ⟨0x20004, 1, 4, false, fun _ => .ideStat⟩,
   ⟨0x30000, 1, 4, false, fun _ => .secState⟩, ⟨0x30100, 16, 4, false, .arbc⟩]

/-- PWR, FLT, CLK and BRG. -/
def regRows2 : List RegRow :=
  [⟨0x40000, 1, 4, false, fun _ => .cap⟩, ⟨0x40004, 1, 4, false, fun _ => .oppt⟩,
   ⟨0x40008, 1, 4, false, fun _ => .pwrStat⟩, ⟨0x4000C, 1, 4, false, fun _ => .gain⟩,
   ⟨0x40400, 256, 4, false, fun i => .fill (i / 16) (i % 16)⟩,
   ⟨0x50000, 6, 4, false, .wlim⟩, ⟨0x50018, 1, 4, false, fun _ => .wlong⟩, ⟨0x50020, 1, 4, false, fun _ => .logStat⟩,
   ⟨0x50100, 64, 4, false, .spare⟩,
   ⟨0x60000, 1, 4, false, fun _ => .refStat⟩, ⟨0x60400, 260, 4, false, .dom⟩,
   ⟨0x70000, 1, 8, true, fun _ => .brgNow⟩, ⟨0x70008, 1, 4, false, fun _ => .dcfg⟩, ⟨0x7000C, 1, 4, false, fun _ => .tree⟩,
   ⟨0x70010, 1, 8, true, fun _ => .pinit⟩, ⟨0x70018, 1, 4, false, fun _ => .brgStat⟩, ⟨0x70020, 4, 4, false, .tchild⟩,
   ⟨0x70030, 1, 4, false, fun _ => .revInit⟩, ⟨0x71000, 1024, 4, false, fun i => .stk (i / 4) (i % 4)⟩]

/-- HBM, BND, COL and ARC. -/
def regRows3 : List RegRow :=
  [⟨0x80000, 12, 4, false, .share⟩, ⟨0x80040, 12, 4, false, .hbmStat⟩, ⟨0x90000, 12, 4, false, .bndStat⟩,
   ⟨0xA0000, 1, 4, false, fun _ => .slotCfg⟩, ⟨0xA0004, 1, 4, false, fun _ => .slotFree⟩, ⟨0xA0008, 1, 4, false, fun _ => .domain⟩,
   ⟨0x100000, 640, 4, false, .shelf⟩, ⟨0x100A00, 1, 4, false, fun _ => .arcDlyth⟩, ⟨0x100A04, 1, 4, false, fun _ => .catStat⟩,
   ⟨0x100A08, 1, 4, false, fun _ => .catSkip⟩, ⟨0x100A40, 8, 8, true, .catArea⟩, ⟨0x100B00, 16, 8, true, .b2win⟩,
   ⟨0x101000, 128, 4, false, .fpctl⟩, ⟨0x101200, 128, 8, true, .fpbase⟩, ⟨0x101600, 128, 8, true, .fplen⟩,
   ⟨0x101A00, 128, 8, true, .fplat⟩, ⟨0x101E00, 128, 8, true, .fplcnt⟩]

/-- WEN and CTR. -/
def regRows4 : List RegRow :=
  [⟨0x200000, 32, 4, false, .pctl⟩, ⟨0x200080, 1, 4, false, fun _ => .station⟩, ⟨0x200084, 1, 4, false, fun _ => .rtcfg⟩,
   ⟨0x200088, 1, 4, false, fun _ => .wenDlyth⟩, ⟨0x200400, 128, 8, true, .pstat⟩, ⟨0x200800, 128, 8, true, .dly⟩,
   ⟨0x210000, 8192, 4, false, .rtr⟩, ⟨0x218000, 8192, 4, false, .rtl⟩,
   ⟨0x800000, 1, 4, false, fun _ => .ctrStat⟩, ⟨0x800004, 1, 4, false, fun _ => .snapCfg⟩,
   ⟨0x810000, 1040384, 8, true, .counter⟩]

/-- A register and the part of it that lies at an offset: 0 all of a 32-bit register, 1 the low half of a pair, 2 its high
half. -/
def RegRow.at (r : RegRow) (off : Nat) : Option (Reg × Nat) :=
  let i := (off - r.base) / r.stride
  if off < r.base || r.count ≤ i then none
  else match (off - r.base) % r.stride, r.pair with
    | 0, p => some (r.reg i, if p then 1 else 0)
    | 4, true => some (r.reg i, 2)
    | _, _ => none

/-- A register of a unit block (R376). -/
def unitReg (off : Nat) : Option (Reg × Nat) :=
  let u := off / 64
  let w := off % 64 / 4
  if 17477 ≤ u || off % 4 ≠ 0 then none
  else if w < 4 then some (.qsw u w, 0)
  else if w < 8 then some (.qfail u (w - 4), 0)
  else if w = 8 then some (.misuse u, 0)
  else if w = 9 then some (.psw u, 0)
  else none

/-- The register at a BAR0 offset. -/
def regAt (off : Nat) : Option (Reg × Nat) :=
  if 0x400000 ≤ off && off < 0x600000 then unitReg (off - 0x400000)
  else (identRows ++ regRows1 ++ regRows2 ++ regRows3 ++ regRows4).findSome? fun r => r.at off

/-! ## Reads -/

/-- Fields laid together, each with its lowest bit. -/
def fields : List (Nat × Nat) → Nat
  | [] => 0
  | (lo, v) :: fs => v * 2 ^ lo + fields fs

/-- The bits of a list of flags. -/
def flags (lo : Nat) (bs : List Bool) : Nat := fields (bs.zipIdx.map fun x => (lo + x.2, b2n x.1))

/-- STATE of a queue (R154). That a queue which waits for the acknowledgement of a set shows 2, and one whose engine still works
shows 5 whether or not its next entry may issue, is the model's choice (log entry 134). -/
def Queue.stateCode (q : Queue) (engine : Bool) : Nat :=
  match q.head with
  | some h =>
    (match h.kind with
     | .stake _ _ _ => 2
     | .closure _ => 3
     | .held _ => 4
     | .engine => 5
     | .ack => 2)
  | none => match q.run with
    | .stopped => 6
    | .running => if engine then 5 else 1
    | .idle => 0

/-- Code of a context's state (R328, R336). -/
def CtxSt.code : CtxSt → Nat
  | .free => 0 | .loaded => 1 | .starting => 2 | .running => 3 | .parked => 4 | .slicing => 5

/-- Code of the bearing's state (R294). -/
def BrgSt.code : BrgSt → Nat
  | .unlocked => 0 | .locked => 1 | .coast => 2 | .lost => 3

/-- MHz of the A domains at an operating point (R388). -/
def pointMHz : Nat → Nat
  | 0 => 1750 | 1 => 1600 | 2 => 1400 | 3 => 1200 | 4 => 1000 | _ => 800

/-- MHz of a domain while it runs (R300, R391); the debug clock is TCK, which the board drives: a free value of at most 50
(log entry 3). -/
def State.domMHz (s : State) (n : Nat) : Nat :=
  if n < 64 then pointMHz s.pwr.eff / (if s.pwr.stretched.contains n then 2 else 1)
  else if n < 128 then 1750
  else if n < 192 then 1250
  else if n < 224 then 1500
  else if n < 248 then 1600
  else if n < 255 then 1000
  else match n with
    | 255 => 1250 | 256 => 625 | 257 => 500 | 258 => 400
    | _ => (s.freeAt 12 16).toNat % 51

/-- STATE of CLK.DOMn (R302, R458). A domain that a thermal trip stopped is GATED: its clock is stopped and its source runs
(DEDUCED, log entry 60). In D-Sleep the slices, the HBM controllers and PCI Express are PLLOFF; there R458 does not name the
debug and the security domain, and the model keeps what D-Nap gives them (log entry 113). -/
def State.domState (s : State) (n : Nat) : Nat :=
  let stopped := s.pwr.tripped && (n < 64 || (decide (236 ≤ n) && decide (n < 248)))
  let rests := (decide (64 ≤ n) && decide (n < 128)) || (decide (224 ≤ n) && decide (n < 236)) || (decide (248 ≤ n) && decide (n < 251))
  if s.domOff n then 3
  else if s.d3hot && s.d3depth && rests && !s.mod.awake.contains n then 2
  else if s.d3hot && ((decide (236 ≤ n) && decide (n < 248)) || n = 259) && !s.mod.awake.contains n then 1
  else if s.domGated n || stopped then 1
  else 0

/-- CLK.DOMn. -/
def State.domWord (s : State) (n : Nat) : Nat :=
  if s.domState n ≠ 0 then s.domState n
  else fields [(2, b2n (decide (n < 64) && s.pwr.stretched.contains n)), (16, s.domMHz n)]

/-- The synchronisation state that a unit's registers show (R377). -/
def State.shown (s : State) (u : Nat) : Option Eng := (s.resident u).map fun c => s.engOf (engKey c u)

/-- TRC.QSWq of a unit. -/
def State.qswWord (s : State) (u q : Nat) : Nat :=
  match s.shown u with
  | none => 0
  | some e =>
    let v := e.sync.queue (ixQ q)
    let eng := !{ e with sync := e.sync.setQueue (ixQ q) { v with head := none } }.quiet (ixQ q)
    fields [(0, v.status), (16, v.stateCode eng), (19, b2n v.handler.isSome), (20, b2n v.fed)]

/-- TRC.MISUSE of a unit. -/
def State.misuseWord (s : State) (u : Nat) : Nat :=
  match s.shown u with
  | none => 0
  | some e => fields [(0, e.sync.doubleSet), (8, e.sync.doubleClear), (16, e.sync.orphan), (24, e.sync.earlyExtra)]

/-- TRC.PSW of a unit: what belongs to the resident context, and the unit's own bits. -/
def State.pswWord (s : State) (u : Nat) : Nat :=
  let own := match s.shown u with
    | none => 0
    | some e =>
      let stop := [Q.m, Q.v, Q.x, Q.s].any fun q => (e.sync.queue q).run == .stopped
      flags 0 [e.sync.misuse, e.sync.msat, stop, e.sync.abandon]
  own + fields [(4, b2n (decide (u < 16384) && s.flt.swapped.contains u)), (8, (s.resident u).getD 0),
                (11, b2n (s.resident u).isSome), (16, s.epochOf (codeUnit u))]

/-- REASONS of PWR.STAT. -/
def State.reasonBits (s : State) : Nat :=
  fields ((List.range 7).map fun i => (i, b2n (s.reasons.any fun r => r.1 == i + 1)))

/-- DEV.STATUS (R381). -/
def State.statusWord (s : State) : Nat :=
  fields [(0, b2n s.mod.ready), (1, b2n s.flt.drained), (2, b2n s.flt.flagged), (3, b2n s.dbgOpen), (4, s.pstate),
          (7, b2n (!s.pwr.episodes.isEmpty)), (8, s.tmax % 256)]

/-- SEC.STATE (R452). A security command runs while one of group 0x08 or 0x0A has begun and has no receipt (DEDUCED, log
entry 61). -/
def State.secWord (s : State) : Nat :=
  let busy := s.cmd.started.any fun r => r.begun && (r.op / 256 == 8 || r.op / 256 == 10)
  fields [(0, b2n s.dbgOpen), (1, b2n s.sec.tapOpen), (2, b2n s.sec.session), (3, (s.sec.ide.filter (·.2)).length),
          (6, s.sec.ikrev % 16), (10, b2n busy), (29, b2n s.sec.nodbg), (30, b2n s.sec.noimg), (31, b2n s.sec.lock)] +
    flags 16 ((List.range 7).map fun k => (Map.find s.sec.staged k).isSome)

/-- The word of BND.STATn. Its staging occupancy, 0-256 MiB, is a free value (log entry 3). -/
def State.bndWord (s : State) (h : Nat) : Nat :=
  let b := s.bindery h
  let ctx := b.cur.bind (·.ctx)
  fields [(0, b2n b.cur.isSome), (1, ctx.getD 0), (4, b2n ctx.isSome), (8, (s.freeAt h 16).toNat % 257)] +
    flags 17 ((List.range 8).map fun c => (b.queue c).run == .stopped)

/-- The words of DEV, CMD, PCL, SEC, PWR and FLT. -/
def State.readReg1 (s : State) (r : Reg) : Nat :=
  let b := bitsOf
  match r with
  | .ident w => leAt s.identity (4 * w) 4
  | .serial => Config.serial.toNat
  | .status => s.statusWord
  | .owner => s.owner
  | .ctxst c => fields [(0, (s.ctx c).st.code), (3, b2n (s.ctx c).ended), (8, (s.ctx c).nslice)]
  | .ctximg c => (s.ctx c).img
  | .scratch k => s.scratch.getD k 0
  | .sqbase q => (s.sub q).base
  | .rqbase q => (s.rcp q).base
  | .sqlast q => (s.sub q).last
  | .sqctl q => let g := s.sub q
      fields [(0, b2n g.en), (1, g.pri), (3, b2n g.err), (4, g.head), (16, g.tail)]
  | .rqctl q => let g := s.rcp q
      fields [(0, b2n g.en), (1, g.vec), (12, g.ccnt), (20, g.ctim)]
  | .rqptr q => fields [(0, (s.rcp q).tail), (16, (s.rcp q).head)]
  | .evcfg => fields [(0, s.cmd.evRing), (6, b2n s.cmd.evEn), (8, s.cmd.evMask), (16, b2n s.cmd.evOvf)]
  | .cmdDlyth => s.cmd.dlyth
  | .fatal => fields [(0, s.cmd.fatalVec), (11, b2n s.cmd.fatalEn)]
  | .cmdStat => fields [(0, s.cmdHeld), (9, b2n s.cmd.fwrun), (10, b2n s.cmd.wdog), (11, b2n s.cmd.mgstop), (12, b2n s.cmd.ddrop)]
  | .link => fields [(0, if s.linkUp then b s.mod.hostLink 0 9 else b s.mod.hostLink 3 6 * 8), (9, b2n s.d3depth),
      (10, if s.d3hot then 3 else 0)]
  | .ideStat => flags 0 ((List.range 4).map fun k => Map.getD s.sec.ide k false)
  | .secState => s.secWord
  | .arbc k => s.arb k
  | .cap => fields [(0, s.pwr.cap), (13, b2n s.pwr.mode)]
  | .oppt => fields [(0, s.pwr.req), (3, s.pwr.eff), (6, s.pwr.tceil), (9, s.pwr.cceil), (12, b2n s.pwr.pend), (13, b2n s.pwr.src)]
  | .pwrStat => fields [(0, s.pin % 2 ^ 13), (13, s.pwr.b / 256), (21, s.reasonBits), (28, b2n (s.pwr.duty s.now != 0)),
      (29, b2n s.pwr.ext), (30, b2n s.pwr.logged)]
  | .gain => fields [(0, s.pwr.gain), (8, s.pwr.bmax), (16, s.pwr.extb)]
  | .fill k w => b (Map.getD s.pwr.fills k 0) (32 * w) 32
  | .wlim k => s.flt.wlim.getD k 0
  | .wlong => s.flt.wlong
  | .logStat => fields [(0, s.flt.next % 65536), (16, s.pcnt), (24, b2n s.flt.new),
      (25, b2n (s.flt.plog.length == 256 && s.flt.plog.all fun e => e.sev == 4))]
  | .spare n => s.flt.spares.getD n 0
  | _ => 0

/-- The words of CLK, BRG, HBM, BND, COL, ARC, WEN, TRC and CTR. -/
def State.readReg2 (s : State) (r : Reg) : Nat :=
  match r with
  | .refStat => flags 0 [s.mod.refH, s.mod.refL, s.mod.hLost, s.mod.lLost]
  | .dom n => s.domWord n
  | .brgNow => fields [(0, s.brg.bearingAt s.now), (32, s.brg.rev % 2 ^ 31), (63, b2n s.brg.valid)]
  | .dcfg => fields [(0, b2n s.brg.role), (1, s.brg.rmodeCode), (3, s.brg.cid), (13, b2n s.brg.run)]
  | .tree => fields [(0, s.brg.tparent), (31, b2n s.brg.tpv)]
  | .pinit => s.brg.pinit
  | .brgStat => fields [(0, s.brg.st.code), (2, b2n (s.brg.rev.testBit 31)), (3, b2n s.brg.failed), (16, s.brg.loss)]
  | .tchild k => s.brg.tchild.getD k 0
  | .revInit => s.brg.revinit
  | .stk n k => (s.brg.settleNones s.now).word n k
  | .share h => (s.stack h).bnd
  | .hbmStat h => let v := s.stack h
      fields [(0, v.st), (2, if s.d3hot && s.d3depth then 3 else v.rmul), (4, b2n v.thr), (5, b2n v.stop), (6, v.temp), (16, s.epochOf (codeStack h))]
  | .bndStat h => s.bndWord h
  | .slotCfg => s.slotRes
  | .slotFree => fields [(0, s.freeSlotsCol), (16, min s.freeSlotsCol s.freeReserved)]
  | .domain => fields [(0, s.domSize), (31, b2n s.domLock)]
  | .shelf n => let v := s.shelf n
      fields [(0, v.mode), (2, v.ctxm), (10, b2n v.fw), (11, b2n v.host), (12, v.qst)]
  | .arcDlyth => s.arc.dlyth
  | .catStat => fields [(0, s.unseeded), (17, b2n s.cat.lost), (18, b2n s.cat.busy), (19, b2n s.cat.areaErr)]
  | .catSkip => fields [(0, s.cat.skiprun), (16, s.cat.lastvote), (24, s.cat.sth)]
  | .catArea c => fields [(0, b2n (s.area c).en), (16, (s.area c).addr)]
  | .b2win n => fields [(0, b2n (s.win n).en), (1, b2n (s.win n).wp), (32, (s.win n).base)]
  | .fpctl n => let u := s.fp n
      fields [(0, u.poly), (2, b2n u.scan), (3, b2n u.en), (4, u.src), (8, u.srci), (13, b2n u.busy)]
  | .fpbase n => (s.fp n).base
  | .fplen n => (s.fp n).len
  | .fplat n => (s.fp n).lat
  | .fplcnt n => (s.fp n).latCnt
  | .pctl n => let v := s.pctl n
      fields [(0, b2n v.en), (1, v.split), (3, b2n v.reach), (8, v.w.getD 0 0), (12, v.w.getD 1 0), (16, v.w.getD 2 0), (20, v.w.getD 3 0)]
  | .station => fields [(0, s.station), (31, b2n s.fab.snLock)]
  | .rtcfg => s.fab.b
  | .wenDlyth => s.fab.dlyth
  | .pstat p => let v := s.port p
      fields [(0, if s.present p then v.st else 0), (4, v.reason), (16, v.epoch), (32, v.nbrSn), (56, v.nbrPid)]
  | .dly p => fields [(0, (s.port p).oneway), (32, (s.port p).retrains)]
  | .rtr i => Map.getD s.fab.rtr i 0
  | .rtl i => Map.getD s.fab.rtl i 0
  | .qsw u q => s.qswWord u q
  | .qfail u q => match s.shown u with | some e => (e.sync.queue (ixQ q)).faddr | none => 0
  | .misuse u => s.misuseWord u
  | .psw u => s.pswWord u
  | .ctrStat => fields [(0, b2n s.ctr.image.isSome), (1, b2n s.ctr.copy.isSome), (2, b2n s.ctr.sdone), (3, b2n s.ctr.smiss),
      (8, s.ctr.ltag), (16, s.ctr.scount)]
  | .snapCfg => fields [(0, s.ctr.shelf), (10, b2n s.ctr.en)]
  | .counter k => s.ctr.read k
  | _ => 0

/-- What a read of a register returns (R12). -/
def State.readReg (s : State) (r : Reg) : Nat := s.readReg1 r + s.readReg2 r

/-! ## Writes -/

/-- A field's new value where it is allowed, the old one where it is not (R15). -/
def pick (ok : Bool) (new old : Nat) : Nat := if ok then new else old

/-- A write of CMD.SQCTLq: ERR is W1C; EN as SUBMISSION_RING_ENABLE has it. -/
def State.writeSqctl (s : State) (q v : Nat) : State :=
  let g := s.sub q
  let s1 := s.setSub q { g with pri := bitsOf v 1 2, err := g.err && !v.testBit 3 }
  s1.subEnable q (v.testBit 0)

/-- A write of CMD.RQCTLq. -/
def State.writeRqctl (s : State) (q v : Nat) : State :=
  let g := s.rcp q
  let s1 := s.setRcp q { g with vec := bitsOf v 1 11, ccnt := pick (bitsOf v 12 8 != 0) (bitsOf v 12 8) g.ccnt, ctim := bitsOf v 20 8 }
  (s1.rcpEnable q (v.testBit 0)).signalRing q

/-- A write of CMD.EVCFG. -/
def State.writeEvcfg (s : State) (v : Nat) : State :=
  { s with cmd := { s.cmd with evRing := bitsOf v 0 6, evEn := v.testBit 6, evMask := bitsOf v 8 8,
                               evOvf := s.cmd.evOvf && !v.testBit 16 } }.lostEvents

/-- A write of SEC.STATE: the fields, then their lock (R386). -/
def Sec.write (x : Sec) (v : Nat) : Sec :=
  { x with nodbg := if x.lock then x.nodbg else v.testBit 29, noimg := if x.lock then x.noimg else v.testBit 30,
           lock := x.lock || v.testBit 31 }

/-- A write of BRG.DCFG: a change of ROLE unlocks the bearing (R294), and RUN starts or stops it (R285). -/
def State.writeDcfg (s : State) (v : Nat) : State :=
  let b := s.brg
  let m := bitsOf v 1 2
  let s1 : State := { s with brg := { b with fixed := if m = 3 then b.fixed else m == 1, step := if m = 3 then b.step else m == 2,
                                             cid := bitsOf v 3 10 } }
  let s2 := if v.testBit 0 != b.role then s1.roleChange else s1
  if v.testBit 13 then (if v.testBit 0 != b.role then s2.datumRuns else s2).runSet s2.now
  else if s2.brg.run then s2.runStop else s2

/-- A write of BRG.TREE: TPV cleared unlocks a follower (R294). -/
def State.writeTree (s : State) (v : Nat) : State :=
  let s1 : State := { s with brg := { s.brg with tparent := bitsOf v 0 7 } }
  if s.brg.tpv && !v.testBit 31 then s1.tpvClear else { s1 with brg := { s1.brg with tpv := v.testBit 31 } }

/-- A write of a word of BRG.STKn. -/
def State.writeStk (s : State) (n k v : Nat) : State :=
  if k < 3 then { s with brg := s.brg.setStage n k v } else s.stakeoutBar0 n v

/-- A write of FLT.WLIMk. -/
def State.writeWlim (s : State) (k v : Nat) : State :=
  let new := s.flt.wlim.set k v
  if limitsOk new s.flt.wlong then { s with flt := { s.flt with wlim := new } } else s

/-- A write of FLT.WLONG. -/
def State.writeWlong (s : State) (v : Nat) : State :=
  if 1000 ≤ v && v ≤ 4000000 && s.flt.wlim.getD 4 0 ≤ 1000 * v then { s with flt := { s.flt with wlong := v } } else s

/-- A write of PWR.GAIN. -/
def Pwr.writeGain (p : Pwr) (v : Nat) : Pwr :=
  let m := bitsOf v 8 8
  { p with gain := pick (bitsOf v 0 8 != 0) (bitsOf v 0 8) p.gain, bmax := pick (decide (32 ≤ m) && decide (m ≤ 240)) m p.bmax,
           extb := bitsOf v 16 8 }

/-- A write of WEN.PCTLn: SPLIT while EN is 0, whose sub-ports are DOWN; EN cleared quiesces; RETRAIN trains (R220, R233,
R240). -/
def State.writePctl (s : State) (n v : Nat) : State :=
  let c := s.pctl n
  let w := fun i => pick (bitsOf v (8 + 4 * i) 4 != 0) (bitsOf v (8 + 4 * i) 4) (c.w.getD i 0)
  let sp := pick (!c.en && bitsOf v 1 2 != 3) (bitsOf v 1 2) c.split
  let down := fun (s : State) (p : Nat) => if (s.port p).st = 1 then s else s.subportDown p
  let s1 := if sp = c.split then s else ((List.range 4).map (4 * n + ·)).foldl down s
  let s2 := s1.setPctl n { c with split := sp, reach := v.testBit 3, w := (List.range 4).map w, en := c.en || v.testBit 0 }
  if c.en && !v.testBit 0 then s2.portDisable n
  else if v.testBit 24 then (s2.portPaths n).foldl (fun s p => s.trainIfEnabled p) s2
  else s2

/-- A write of WEN.STATION: the number, then its lock (R236, R386). -/
def State.writeStation (s : State) (v : Nat) : State :=
  let n := bitsOf v 0 24
  { s with station := pick (!s.fab.snLock && (stationOk n || n == 0xFFFFFF)) n s.station,
           fab := { s.fab with snLock := s.fab.snLock || v.testBit 31 } }

/-- A write of COL.DOMAIN: the size, then its lock (R278, R386). -/
def State.writeDomain (s : State) (v : Nat) : State :=
  let n := bitsOf v 0 23
  { s with domSize := pick (!s.domLock && decide (n ≤ 4194304)) n s.domSize, domLock := s.domLock || v.testBit 31 }

/-- A write of ARC.B2WINn (R191). -/
def State.writeB2win (s : State) (n v : Nat) : State :=
  let a := bitsOf v 32 16
  let ok := decide (a < 0x180) || (decide (0x8000 ≤ a) && decide (a < 0x800A))
  { s with arc := { s.arc with b2win := Map.putD s.arc.b2win n ⟨v.testBit 0, v.testBit 1, pick ok a (s.win n).base⟩ ⟨false, false, 0⟩ } }

/-- A write of ARC.CATAREAc (R310). -/
def State.writeCatArea (s : State) (c v : Nat) : State :=
  let a := bitsOf v 16 48
  s.setArea c ⟨v.testBit 0, pick (a % 64 == 0) a (s.area c).addr⟩

/-- A write of ARC.FPCTLn (R196). -/
def State.writeFpctl (s : State) (n v : Nat) : State :=
  let u := s.fp n
  let src := bitsOf v 4 4
  s.setFp n { u with poly := bitsOf v 0 2, scan := v.testBit 2, en := v.testBit 3, src := pick (decide (src ≤ 4)) src u.src,
                     srci := bitsOf v 8 5 }

/-- The resident context's synchronisation state of a unit changed; nothing while there is none (R377). -/
def State.updShown (s : State) (u : Nat) (f : Sync → Sync) : State :=
  match s.resident u with
  | some c => s.onSaved c [u] fun s => s.setSync (engKey c u) (f (s.engOf (engKey c u)).sync)
  | none => s

/-- A write of CMD, PCL, SEC, PWR and FLT registers. -/
def State.writeReg1 (s : State) (r : Reg) (v : Nat) : State :=
  match r with
  | .scratch k => { s with scratch := s.scratch.set k v }
  | .sqbase q => if (s.sub q).en then s else s.setSub q { s.sub q with base := v / 4096 * 4096 }
  | .rqbase q => if (s.rcp q).en then s else s.setRcp q { s.rcp q with base := v / 4096 * 4096 }
  | .sqlast q => if (s.sub q).en then s else s.setSub q { s.sub q with last := v }
  | .sqctl q => s.writeSqctl q v
  | .rqctl q => s.writeRqctl q v
  | .evcfg => s.writeEvcfg v
  | .cmdDlyth => { s with cmd := { s.cmd with dlyth := bitsOf v 0 16 } }
  | .fatal => { s with cmd := { s.cmd with fatalVec := bitsOf v 0 11, fatalEn := v.testBit 11 } }
  | .cmdStat => { s with cmd := { s.cmd with wdog := s.cmd.wdog && !v.testBit 10, mgstop := s.cmd.mgstop && !v.testBit 11,
                                             ddrop := s.cmd.ddrop && !v.testBit 12 } }
  | .link => { s with d3depth := v.testBit 9 }
  | .secState => { s with sec := s.sec.write v }
  | .cap =>
    let w := bitsOf v 0 13
    { s with pwr := { s.pwr with cap := pick (decide (1800 ≤ w) && decide (w ≤ 5200)) w s.pwr.cap, mode := v.testBit 13 } }
  | .gain => { s with pwr := s.pwr.writeGain v }
  | .pwrStat => { s with pwr := { s.pwr with logged := s.pwr.logged && !v.testBit 30 } }
  | .wlim k => s.writeWlim k v
  | .wlong => s.writeWlong v
  | .logStat => { s with flt := { s.flt with new := s.flt.new && !v.testBit 24 } }
  | .refStat => { s with mod := { s.mod with hLost := s.mod.hLost && !v.testBit 2, lLost := s.mod.lLost && !v.testBit 3 } }
  | _ => s

/-- A write of BRG, HBM, COL, ARC, WEN, TRC and CTR registers. -/
def State.writeReg2 (s : State) (r : Reg) (v : Nat) : State :=
  match r with
  | .dcfg => s.writeDcfg v
  | .tree => s.writeTree v
  | .pinit => { s with brg := { s.brg with pinit := pick (decide (1048576 ≤ bitsOf v 0 48)) (bitsOf v 0 48) s.brg.pinit } }
  | .brgStat => { s with brg := { s.brg with loss := pick (decide (10 ≤ bitsOf v 16 16)) (bitsOf v 16 16) s.brg.loss } }
  | .tchild k => { s with brg := { s.brg with tchild := s.brg.tchild.set k v } }
  | .revInit => { s with brg := { s.brg with revinit := v } }
  | .stk n k => s.writeStk n k v
  | .share h => s.setStack h { s.stack h with bnd := pick (bitsOf v 0 4 != 0) (bitsOf v 0 4) (s.stack h).bnd }
  | .slotCfg => { s with slotRes := pick (decide (bitsOf v 0 13 ≤ 4096)) (bitsOf v 0 13) s.slotRes }
  | .domain => s.writeDomain v
  | .arcDlyth => { s with arc := { s.arc with dlyth := bitsOf v 0 16 } }
  | .catStat => { s with cat := { s.cat with lost := s.cat.lost && !v.testBit 17, areaErr := s.cat.areaErr && !v.testBit 19 } }
  | .catSkip => { s with cat := { s.cat with sth := bitsOf v 24 8 } }
  | .catArea c => s.writeCatArea c v
  | .b2win n => s.writeB2win n v
  | .fpctl n => s.writeFpctl n v
  | .fpbase n =>
    let port := (s.fp n).src == 3 || (s.fp n).src == 4
    s.setFp n { s.fp n with base := if port then bitsOf v 0 48 else bitsOf v 0 48 / 16 * 16 }
  | .fplen n => s.setFp n { s.fp n with len := bitsOf v 0 48 / 16 * 16 }
  | .pctl n => s.writePctl n v
  | .station => s.writeStation v
  | .rtcfg => { s with fab := { s.fab with b := pick (decide (9 ≤ bitsOf v 0 4) && decide (bitsOf v 0 4 ≤ 13)) (bitsOf v 0 4) s.fab.b } }
  | .wenDlyth => { s with fab := { s.fab with dlyth := bitsOf v 0 16 } }
  | .rtr i => s.routeLoad false i [v]
  | .rtl i => s.routeLoad true i [v]
  | .misuse u => s.updShown u fun y => { y with
      doubleSet := bitsOf v 0 8, doubleClear := bitsOf v 8 8, orphan := bitsOf v 16 8, earlyExtra := bitsOf v 24 8 }
  | .psw u => s.updShown u fun y => { y with
      misuse := y.misuse && !v.testBit 0, msat := y.msat && !v.testBit 1, abandon := y.abandon && !v.testBit 3 }
  | .ctrStat => { s with ctr := { s.ctr with sdone := s.ctr.sdone && !v.testBit 2, smiss := s.ctr.smiss && !v.testBit 3 } }
  | .snapCfg => { s with ctr := { s.ctr with shelf := pick (decide (bitsOf v 0 10 ≤ 639)) (bitsOf v 0 10) s.ctr.shelf, en := v.testBit 10 } }
  | _ => s

/-- A write of a whole register or pair (R12, R379). -/
def State.writeReg (s : State) (r : Reg) (v : Nat) : State := (s.writeReg1 r v).writeReg2 r v

/-! ## Accesses (R9, R10, R345, R381) -/

/-- A register that answers before READY (R381). -/
def Reg.early : Reg → Bool
  | .ident _ => true
  | .serial => true
  | .status => true
  | .cmdStat => true
  | _ => false

/-- The registers that an access names, low word first; none where it is of a size, an alignment or an offset that R10
refuses, or where READY does not let it through. A 64-bit access one of whose words holds no register is refused whole: the
model's choice (log entry 76). -/
def State.regsAt (s : State) (off size : Nat) : Option (List (Reg × Nat)) :=
  let one := fun o => (regAt o).filter fun r => s.mod.ready || r.1.early
  if size = 4 then if off % 4 = 0 then (one off).map ([·]) else none
  else if size = 8 && off % 8 = 0 then
    match one off, one (off + 4) with
    | some (r, 1), _ => some [(r, 3)]
    | some a, some b => some [a, b]
    | _, _ => none
  else none

/-- One part of an access written: a register, the low or the high half of a pair, or the whole pair. -/
def State.writePart (s : State) (r : Reg) (part v : Nat) : State :=
  match part with
  | 1 => s.writeReg r (setBits (s.readReg r) 0 32 (v % 2 ^ 32))
  | 2 => s.writeReg r (setBits (s.readReg r) 32 32 (v % 2 ^ 32))
  | 3 => s.writeReg r v
  | _ => s.writeReg r (v % 2 ^ 32)

/-- The A domain of a unit of order 0 to 2; the registers of a greater tract keep to the first of its domains (log entry 113). -/
def unitDomain (u : Nat) : Nat := firstParcel u / 256

/-- The clock domain of the unit that a register describes, for the domains that may be OFF, GATED or PLLOFF (R378, log entry
113). -/
def Reg.clockDomain : Reg → Option Nat
  | .qsw u _ => some (unitDomain u)
  | .qfail u _ => some (unitDomain u)
  | .misuse u => some (unitDomain u)
  | .psw u => some (unitDomain u)
  | .shelf n => some (64 + n % 64)
  | .hbmStat h => some (224 + h)
  | .bndStat h => some (domBnd + h)
  | .pctl n => some (128 + n)
  | .pstat p => some (128 + p / 4)
  | .dly p => some (128 + p / 4)
  | .rtcfg => some 192
  | .rtr _ => some 192
  | .rtl _ => some 192
  | _ => none

/-- The domains of the registers that an access names are awake, and the PCI Express domains that it passes (R302, R378). -/
def State.wakeRegs (s : State) (rs : List (Reg × Nat)) : State :=
  let ds := rs.filterMap fun r => r.1.clockDomain
  { s with mod := { s.mod with
    gated := ds.foldl Map.del s.mod.gated,
    awake := if s.d3hot then (s.mod.awake ++ [248, 249, 250] ++ ds).eraseDups else s.mod.awake } }

/-- An access names a register of a domain that is OFF (R378). -/
def State.regOff (s : State) (rs : List (Reg × Nat)) : Bool := rs.any fun r => r.1.clockDomain.any s.domOff

/-- A BAR0 write of `size` bytes. -/
def State.bar0Write (s : State) (off size v : Nat) : State :=
  match s.regsAt off size with
  | none => s.hostFault off
  | some rs =>
    if s.regOff rs then s.hostFault off
    else match rs with
      | [a] => (s.wakeRegs [a]).writePart a.1 a.2 v
      | _ => rs.zipIdx.foldl (fun s x => s.writePart x.1.1 x.1.2 (v / 2 ^ (32 * x.2))) (s.wakeRegs rs)

/-- The value of one part of a read. -/
def State.readPart (s : State) (r : Reg) (part : Nat) : Nat :=
  match part with
  | 1 => s.readReg r % 2 ^ 32
  | 2 => s.readReg r / 2 ^ 32
  | _ => s.readReg r

/-- A BAR0 read of `size` bytes. -/
def State.bar0Read (s : State) (off size : Nat) : State :=
  let zero := (s.hostFault off).answer (.readData (List.replicate size 0))
  match s.regsAt off size with
  | none => zero
  | some rs =>
    if s.regOff rs then zero
    else match rs with
      | [a] => ((s.wakeRegs [a]).useFree).answer (.readData (toLE size (s.readPart a.1 a.2)))
      | _ => ((s.wakeRegs rs).useFree).answer (.readData (rs.flatMap fun a => toLE 4 (s.readPart a.1 a.2)))

/-! ## BAR4 (R345, R354) -/

/-- Word `i` of the MSI-X table or, from 8192 on, of the pending-bit array. -/
def State.msixWord (s : State) (i : Nat) : Nat :=
  if i < 8192 then Map.getD s.cmd.msix i (if i % 4 = 3 then 1 else 0)
  else flags 0 ((List.range 32).map fun j => (Map.find s.cmd.pba (32 * (i - 8192) + j)).isSome)

/-- A word of the MSI-X table written: an unmasked vector with its pending bit set sends its message. The pending-bit
array is read-only. -/
def State.msixWrite (s : State) (i v : Nat) : State :=
  if 8192 ≤ i then s
  else
    let vec := i / 4
    let s1 : State := { s with cmd := { s.cmd with msix := Map.putD s.cmd.msix i v (if i % 4 = 3 then 1 else 0) } }
    if i % 4 = 3 && !v.testBit 0 && (Map.find s.cmd.pba vec).isSome then
      { s1 with cmd := { s1.cmd with pba := Map.del s1.cmd.pba vec } }.signal vec
    else s1

/-- The words of the MSI-X table and array that an access of 4 or 8 aligned bytes names. -/
def msixWords (off size : Nat) : Option (List Nat) :=
  if off < 0xF00000 || 0xF08100 < off + size || off % 4 ≠ 0 then none
  else if size = 4 then some [(off - 0xF00000) / 4]
  else if size = 8 && off % 8 = 0 then some [(off - 0xF00000) / 4, (off - 0xF00000) / 4 + 1]
  else none

/-- A BAR4 write of `size` bytes. -/
def State.bar4Write (s : State) (off size v : Nat) : State :=
  let us := s.now / 256000
  match msixWords off size with
    | some is =>
      if s.mod.ready then is.zipIdx.foldl (fun s x => s.msixWrite x.1 (v / 2 ^ (32 * x.2) % 2 ^ 32)) s else s.hostFault off
    | none =>
      if off % 4096 = 0 && size = 4 && off < 0x40000 then s.subDoorbell (off / 4096) (v % 2 ^ 32) us
      else if off % 4096 = 0 && size = 4 && off < 0x80000 then s.rcpDoorbell (off / 4096 - 64) (v % 2 ^ 32)
      else if off = 0x80000 && size = 8 then s.directWrite v
      else s.hostFault off

/-- A BAR4 read of `size` bytes. A doorbell reads as zero. -/
def State.bar4Read (s : State) (off size : Nat) : State :=
  match msixWords off size with
    | some is =>
      if s.mod.ready then s.answer (.readData (is.flatMap fun i => toLE 4 (s.msixWord i)))
      else (s.hostFault off).answer (.readData (List.replicate size 0))
    | none =>
      let bell := decide (off % 4096 = 0) && decide (size = 4) && decide (off < 0x80000) && s.mod.ready
      (if bell then s else s.hostFault off).answer (.readData (List.replicate size 0))

/-- REG_WRITE. -/
def execRegWrite (off : BitVec 26) (wide : Bool) (v : BitVec 64) (s : State) : Host.Outcome State Fault Refusal :=
  .next (s.bar0Write off.toNat (if wide then 8 else 4) v.toNat)

/-- BAR0_INVALID_ACCESS: an access of BAR0 or BAR4 that R10 or R345 refuses. One that names a register or a word after all
is that register's or word's read or write. -/
def execBar0InvalidAccess (bar4 write : Bool) (off : BitVec 26) (size : Nat) (v : BitVec 64) (s : State) :
    Host.Outcome State Fault Refusal :=
  let o := off.toNat
  .next (match bar4, write with
    | true, true => s.bar4Write o size v.toNat
    | true, false => s.bar4Read o size
    | false, true => s.bar0Write o size v.toNat
    | false, false => s.bar0Read o size)

/-- MSI_X_TABLE_WRITE: a word of the table or of the pending-bit array. -/
def execMsiXTableWrite (off : BitVec 26) (v : BitVec 32) (s : State) : Host.Outcome State Fault Refusal :=
  .next (s.bar4Write off.toNat 4 v.toNat)

end Sys2Proof.Machine
end

