-- ==== Sys2Proof/Machine/Dispatch.lean ====
section
/-! DEFINITION. One arm for each command: a direct call of its meaning. -/

namespace Sys2Proof.Machine

def exec (i : Instr) (s : State) : Host.Outcome State Fault Refusal :=
  match i with
  | .regWrite off wide v => Sys2Proof.Machine.execRegWrite off wide v s
  | .bar0InvalidAccess bar4 write off size v => Sys2Proof.Machine.execBar0InvalidAccess bar4 write off size v s
  | .mdecl u e => Sys2Proof.Machine.execMdecl u e s
  | .mdeclSourceValid p => Sys2Proof.Machine.execMdeclSourceValid p s
  | .mdeclDatumExpiry p => Sys2Proof.Machine.execMdeclDatumExpiry p s
  | .mopen u e => Sys2Proof.Machine.execMopen u e s
  | .macc u e => Sys2Proof.Machine.execMacc u e s
  | .maccStep p => Sys2Proof.Machine.execMaccStep p s
  | .mfin u e => Sys2Proof.Machine.execMfin u e s
  | .segmentDrainEnd p seg => Sys2Proof.Machine.execSegmentDrainEnd p seg s
  | .mfinStagingFree p => Sys2Proof.Machine.execMfinStagingFree p s
  | .mfinStagingExpiry p => Sys2Proof.Machine.execMfinStagingExpiry p s
  | .msum u e => Sys2Proof.Machine.execMsum u e s
  | .msave u e => Sys2Proof.Machine.execMsave u e s
  | .mload u e => Sys2Proof.Machine.execMload u e s
  | .vset u e => Sys2Proof.Machine.execVset u e s
  | .vadd u e => Sys2Proof.Machine.execVadd u e s
  | .vsub u e => Sys2Proof.Machine.execVsub u e s
  | .vmul u e => Sys2Proof.Machine.execVmul u e s
  | .vfma u e => Sys2Proof.Machine.execVfma u e s
  | .vmin u e => Sys2Proof.Machine.execVmin u e s
  | .vmax u e => Sys2Proof.Machine.execVmax u e s
  | .vabs u e => Sys2Proof.Machine.execVabs u e s
  | .vneg u e => Sys2Proof.Machine.execVneg u e s
  | .vcvt u e => Sys2Proof.Machine.execVcvt u e s
  | .vcmp u e => Sys2Proof.Machine.execVcmp u e s
  | .vsel u e => Sys2Proof.Machine.execVsel u e s
  | .vfun u e => Sys2Proof.Machine.execVfun u e s
  | .vsweep u e => Sys2Proof.Machine.execVsweep u e s
  | .vred u e => Sys2Proof.Machine.execVred u e s
  | .vperm u e => Sys2Proof.Machine.execVperm u e s
  | .vgath u e => Sys2Proof.Machine.execVgath u e s
  | .vGroup p => Sys2Proof.Machine.execVGroup p s
  | .swait u q e => Sys2Proof.Machine.execSwait u q e s
  | .swaitc u q e => Sys2Proof.Machine.execSwaitc u q e s
  | .sset u q e => Sys2Proof.Machine.execSset u q e s
  | .sclr u q e => Sys2Proof.Machine.execSclr u q e s
  | .stakeWaitExpiry u q => Sys2Proof.Machine.execStakeWaitExpiry u q s
  | .sfence u q e => Sys2Proof.Machine.execSfence u q e s
  | .fenceComplete u q => Sys2Proof.Machine.execFenceComplete u q s
  | .carr u q e => Sys2Proof.Machine.execCarr u q e s
  | .cwait u q e => Sys2Proof.Machine.execCwait u q e s
  | .closureT3Expiry cid => Sys2Proof.Machine.execClosureT3Expiry cid s
  | .shnd u q e => Sys2Proof.Machine.execShnd u q e s
  | .sjmp u q e => Sys2Proof.Machine.execSjmp u q e s
  | .sldc u q e => Sys2Proof.Machine.execSldc u q e s
  | .send u q e => Sys2Proof.Machine.execSend u q e s
  | .queueFetchFault u q => Sys2Proof.Machine.execQueueFetchFault u q s
  | .xget u e => Sys2Proof.Machine.execXget u e s
  | .xput u e => Sys2Proof.Machine.execXput u e s
  | .xatom u e => Sys2Proof.Machine.execXatom u e s
  | .archiveSliceServe c => Sys2Proof.Machine.execArchiveSliceServe c s
  | .archiveRequestComplete n => Sys2Proof.Machine.execArchiveRequestComplete n s
  | .archiveT1Expiry p => Sys2Proof.Machine.execArchiveT1Expiry p s
  | .fieldbookScrub p granule r => Sys2Proof.Machine.execFieldbookScrub p granule r s
  | .archivePatrolScrub n line r => Sys2Proof.Machine.execArchivePatrolScrub n line r s
  | .bar2Read off len => Sys2Proof.Machine.execBar2Read off len s
  | .bar2Write off bytes => Sys2Proof.Machine.execBar2Write off bytes s
  | .barAtomicopRequest bar => Sys2Proof.Machine.execBarAtomicopRequest bar s
  | .shelfModeChangeDone shelf => Sys2Proof.Machine.execShelfModeChangeDone shelf s
  | .fpScanDone n => Sys2Proof.Machine.execFpScanDone n s
  | .hbmTempReading h temp => Sys2Proof.Machine.execHbmTempReading h temp s
  | .hbmPatrolRead line r row day => Sys2Proof.Machine.execHbmPatrolRead line r row day s
  | .hbmEcsRead h errors => Sys2Proof.Machine.execHbmEcsRead h errors s
  | .hbmSoftRepair h row => Sys2Proof.Machine.execHbmSoftRepair h row s
  | .binderyDispatch h => Sys2Proof.Machine.execBinderyDispatch h s
  | .binderyWaitExpiry h => Sys2Proof.Machine.execBinderyWaitExpiry h s
  | .bEnd h => Sys2Proof.Machine.execBEnd h s
  | .bOpt h => Sys2Proof.Machine.execBOpt h s
  | .bReq h => Sys2Proof.Machine.execBReq h s
  | .bAmax h => Sys2Proof.Machine.execBAmax h s
  | .bFpr h => Sys2Proof.Machine.execBFpr h s
  | .bGath h => Sys2Proof.Machine.execBGath h s
  | .bScat h => Sys2Proof.Machine.execBScat h s
  | .bJmp h => Sys2Proof.Machine.execBJmp h s
  | .binderyDescriptorDone h => Sys2Proof.Machine.execBinderyDescriptorDone h s
  | .frameSend p t => Sys2Proof.Machine.execFrameSend p t s
  | .frameReceive p t fec bytes => Sys2Proof.Machine.execFrameReceive p t fec bytes s
  | .trainingFrameReceive p t fec bytes => Sys2Proof.Machine.execTrainingFrameReceive p t fec bytes s
  | .replayPendingExpiry p => Sys2Proof.Machine.execReplayPendingExpiry p s
  | .trainingLimitExpiry p => Sys2Proof.Machine.execTrainingLimitExpiry p s
  | .laneSignalChange p lanes => Sys2Proof.Machine.execLaneSignalChange p lanes s
  | .retrain n => Sys2Proof.Machine.execRetrain n s
  | .wenPortDisable n => Sys2Proof.Machine.execWenPortDisable n s
  | .subportQuiesceDone p => Sys2Proof.Machine.execSubportQuiesceDone p s
  | .packetForward k => Sys2Proof.Machine.execPacketForward k s
  | .data k => Sys2Proof.Machine.execData k s
  | .cack k => Sys2Proof.Machine.execCack k s
  | .notice k => Sys2Proof.Machine.execNotice k s
  | .epoch k => Sys2Proof.Machine.execEpoch k s
  | .benchmark k t => Sys2Proof.Machine.execBenchmark k t s
  | .arrive k => Sys2Proof.Machine.execArrive k s
  | .complete k => Sys2Proof.Machine.execComplete k s
  | .fail k => Sys2Proof.Machine.execFail k s
  | .slipred k => Sys2Proof.Machine.execSlipred k s
  | .stentry k => Sys2Proof.Machine.execStentry k s
  | .stake k => Sys2Proof.Machine.execStake k s
  | .stjoin k => Sys2Proof.Machine.execStjoin k s
  | .stleave k => Sys2Proof.Machine.execStleave k s
  | .routepush k => Sys2Proof.Machine.execRoutepush k s
  | .relay k => Sys2Proof.Machine.execRelay k s
  | .mack k => Sys2Proof.Machine.execMack k s
  | .fwmsgRetryExpiry mseq => Sys2Proof.Machine.execFwmsgRetryExpiry mseq s
  | .colOpen h r schild => Sys2Proof.Machine.execColOpen h r schild s
  | .admissionRound => Sys2Proof.Machine.execAdmissionRound s
  | .colClose h handle => Sys2Proof.Machine.execColClose h handle s
  | .colArm handle => Sys2Proof.Machine.execColArm handle s
  | .colStart handle => Sys2Proof.Machine.execColStart handle s
  | .colTileAccept handle => Sys2Proof.Machine.execColTileAccept handle s
  | .permScratchCopy handle => Sys2Proof.Machine.execPermScratchCopy handle s
  | .colRunComplete handle waitns => Sys2Proof.Machine.execColRunComplete handle waitns s
  | .colT3Expiry handle => Sys2Proof.Machine.execColT3Expiry handle s
  | .bearingRunStart t => Sys2Proof.Machine.execBearingRunStart t s
  | .bearingRunStop => Sys2Proof.Machine.execBearingRunStop s
  | .bearingUnlock byRole => Sys2Proof.Machine.execBearingUnlock byRole s
  | .bearingTop t => Sys2Proof.Machine.execBearingTop t s
  | .benchmarkEmit t => Sys2Proof.Machine.execBenchmarkEmit t s
  | .bearingCoast t => Sys2Proof.Machine.execBearingCoast t s
  | .bearingLost t => Sys2Proof.Machine.execBearingLost t s
  | .brgStkCommit n w3 => Sys2Proof.Machine.execBrgStkCommit n w3 s
  | .setstake n t => Sys2Proof.Machine.execSetstake n t s
  | .snap n t => Sys2Proof.Machine.execSnap n t s
  | .ctxstart n t => Sys2Proof.Machine.execCtxstart n t s
  | .ctxpre n t => Sys2Proof.Machine.execCtxpre n t s
  | .oppointAction n t => Sys2Proof.Machine.execOppointAction n t s
  | .filler n t => Sys2Proof.Machine.execFiller n t s
  | .fpflush n t => Sys2Proof.Machine.execFpflush n t s
  | .phasemark n t => Sys2Proof.Machine.execPhasemark n t s
  | .stepEdge t lowFor => Sys2Proof.Machine.execStepEdge t lowFor s
  | .catSeedRequest c => Sys2Proof.Machine.execCatSeedRequest c s
  | .ctxSliceInDone c => Sys2Proof.Machine.execCtxSliceInDone c s
  | .ctxSliceOutDone c => Sys2Proof.Machine.execCtxSliceOutDone c s
  | .ctxParked c => Sys2Proof.Machine.execCtxParked c s
  | .submissionDoorbell q v us => Sys2Proof.Machine.execSubmissionDoorbell q v us s
  | .receiptDoorbell r v => Sys2Proof.Machine.execReceiptDoorbell r v s
  | .directWord v => Sys2Proof.Machine.execDirectWord v s
  | .submissionRingEnable q en => Sys2Proof.Machine.execSubmissionRingEnable q en s
  | .receiptRingEnable r en => Sys2Proof.Machine.execReceiptRingEnable r en s
  | .commandFetch q us error slot params => Sys2Proof.Machine.execCommandFetch q us error slot params s
  | .receiptSignalTimer r => Sys2Proof.Machine.execReceiptSignalTimer r s
  | .commandT4Expiry h => Sys2Proof.Machine.execCommandT4Expiry h s
  | .nop h => Sys2Proof.Machine.execNop h s
  | .identify h addr => Sys2Proof.Machine.execIdentify h addr s
  | .health h => Sys2Proof.Machine.execHealth h s
  | .warmReset h => Sys2Proof.Machine.execWarmReset h s
  | .faultLogRead h addr first count => Sys2Proof.Machine.execFaultLogRead h addr first count s
  | .shelfPartition h shelves => Sys2Proof.Machine.execShelfPartition h shelves s
  | .binderyRun h stack desc => Sys2Proof.Machine.execBinderyRun h stack desc s
  | .binderyRestart h stackMask ctxs skip => Sys2Proof.Machine.execBinderyRestart h stackMask ctxs skip s
  | .catConfig h first count fmt dm wth => Sys2Proof.Machine.execCatConfig h first count fmt dm wth s
  | .catSave h first count addr => Sys2Proof.Machine.execCatSave h first count addr s
  | .catLoad h first count addr => Sys2Proof.Machine.execCatLoad h first count addr s
  | .catUnseed h first count => Sys2Proof.Machine.execCatUnseed h first count s
  | .fpFlush h first count => Sys2Proof.Machine.execFpFlush h first count s
  | .ownerSet h owner => Sys2Proof.Machine.execOwnerSet h owner s
  | .ctxLoad h c addr read => Sys2Proof.Machine.execCtxLoad h c addr read s
  | .ctxUnload h c => Sys2Proof.Machine.execCtxUnload h c s
  | .ctxStart h c => Sys2Proof.Machine.execCtxStart h c s
  | .ctxPreempt h c => Sys2Proof.Machine.execCtxPreempt h c s
  | .queueResume h path q c gadr => Sys2Proof.Machine.execQueueResume h path q c gadr s
  | .fabricSetup h sn lockSn lockSize size b => Sys2Proof.Machine.execFabricSetup h sn lockSn lockSize size b s
  | .routeLoad h rtl first entries => Sys2Proof.Machine.execRouteLoad h rtl first entries s
  | .stractSetup h handle home order members => Sys2Proof.Machine.execStractSetup h handle home order members s
  | .stractRelease h handle => Sys2Proof.Machine.execStractRelease h handle s
  | .closureSetup h cid ctx nchild parent limit nlocal list => Sys2Proof.Machine.execClosureSetup h cid ctx nchild parent limit nlocal list s
  | .closureRelease h cid => Sys2Proof.Machine.execClosureRelease h cid s
  | .stakeoutWrite h n w0 w1 w2 w3 => Sys2Proof.Machine.execStakeoutWrite h n w0 w1 w2 w3 s
  | .stakeoutRead h n => Sys2Proof.Machine.execStakeoutRead h n s
  | .powerCap h watts => Sys2Proof.Machine.execPowerCap h watts s
  | .oppoint h point => Sys2Proof.Machine.execOppoint h point s
  | .fillerProfile h k rec => Sys2Proof.Machine.execFillerProfile h k rec s
  | .throttleLogRead h addr first count => Sys2Proof.Machine.execThrottleLogRead h addr first count s
  | .snapshot h tag => Sys2Proof.Machine.execSnapshot h tag s
  | .freeze h => Sys2Proof.Machine.execFreeze h s
  | .thaw h => Sys2Proof.Machine.execThaw h s
  | .ctrRead h first count addr => Sys2Proof.Machine.execCtrRead h first count addr s
  | .snapshotCopyDone => Sys2Proof.Machine.execSnapshotCopyDone s
  | .survey h seed tiles mask faults referees => Sys2Proof.Machine.execSurvey h seed tiles mask faults referees s
  | .replayStep h rev => Sys2Proof.Machine.execReplayStep h rev s
  | .drain h => Sys2Proof.Machine.execDrain h s
  | .waitLimits h mask t0 t1 t2 t3 t4 t5 => Sys2Proof.Machine.execWaitLimits h mask t0 t1 t2 t3 t4 t5 s
  | .unitQuiesce h code => Sys2Proof.Machine.execUnitQuiesce h code s
  | .quiesceAcceptedDone code => Sys2Proof.Machine.execQuiesceAcceptedDone code s
  | .quiesceBoundExpiry code => Sys2Proof.Machine.execQuiesceBoundExpiry code s
  | .unitReset h code => Sys2Proof.Machine.execUnitReset h code s
  | .unitResume h code => Sys2Proof.Machine.execUnitResume h code s
  | .spareSwap h path => Sys2Proof.Machine.execSpareSwap h path s
  | .attest h nonce addr => Sys2Proof.Machine.execAttest h nonce addr s
  | .identityRead h addr => Sys2Proof.Machine.execIdentityRead h addr s
  | .debugOpen h rec sig sigOk => Sys2Proof.Machine.execDebugOpen h rec sig sigOk s
  | .imageStage h cls addr len img sigOk => Sys2Proof.Machine.execImageStage h cls addr len img sigOk s
  | .imageActivate h cls code applies => Sys2Proof.Machine.execImageActivate h cls code applies s
  | .imageQuery h cls => Sys2Proof.Machine.execImageQuery h cls s
  | .powerUpdate t watts measured milliamps bins => Sys2Proof.Machine.execPowerUpdate t watts measured milliamps bins s
  | .thermalReading tmax => Sys2Proof.Machine.execThermalReading tmax s
  | .tceilUpdate => Sys2Proof.Machine.execTceilUpdate s
  | .oppSwitch => Sys2Proof.Machine.execOppSwitch s
  | .oppVoltageRampDone => Sys2Proof.Machine.execOppVoltageRampDone s
  | .droopDetect d => Sys2Proof.Machine.execDroopDetect d s
  | .droopStretchEnd d cycles => Sys2Proof.Machine.execDroopStretchEnd d cycles s
  | .droopEventEnd => Sys2Proof.Machine.execDroopEventEnd s
  | .extThrottleChange asserted => Sys2Proof.Machine.execExtThrottleChange asserted s
  | .fillerRelease t => Sys2Proof.Machine.execFillerRelease t s
  | .watchdogExpiry code t => Sys2Proof.Machine.execWatchdogExpiry code t s
  | .logEntryClose index => Sys2Proof.Machine.execLogEntryClose index s
  | .healthReportTimer => Sys2Proof.Machine.execHealthReportTimer s
  | .fieldReportRepeat rseq => Sys2Proof.Machine.execFieldReportRepeat rseq s
  | .spdmMessage r => Sys2Proof.Machine.execSpdmMessage r s
  | .jobKeyMessage r => Sys2Proof.Machine.execJobKeyMessage r s
  | .tapInstruction t => Sys2Proof.Machine.execTapInstruction t s
  | .input50vChange inRange => Sys2Proof.Machine.execInput50vChange inRange s
  | .input12vChange inRange => Sys2Proof.Machine.execInput12vChange inRange s
  | .mrstAssert => Sys2Proof.Machine.execMrstAssert s
  | .coldReset => Sys2Proof.Machine.execColdReset s
  | .hostReset => Sys2Proof.Machine.execHostReset s
  | .flr => Sys2Proof.Machine.execFlr s
  | .d3hotEntry => Sys2Proof.Machine.execD3hotEntry s
  | .d0Entry => Sys2Proof.Machine.execD0Entry s
  | .domainGate d => Sys2Proof.Machine.execDomainGate d s
  | .refClockWindow h l => Sys2Proof.Machine.execRefClockWindow h l s
  | .counterDeltaMove k n => Sys2Proof.Machine.execCounterDeltaMove k n s
  | .smbusHealthRead => Sys2Proof.Machine.execSmbusHealthRead s
  | .smbusSerialRead => Sys2Proof.Machine.execSmbusSerialRead s
  | .smbusStationRead => Sys2Proof.Machine.execSmbusStationRead s
  | .smbusLogCursorWrite w => Sys2Proof.Machine.execSmbusLogCursorWrite w s
  | .smbusLogEntryRead => Sys2Proof.Machine.execSmbusLogEntryRead s
  | .smbusPcntRead => Sys2Proof.Machine.execSmbusPcntRead s
  | .smbusAlertResponse => Sys2Proof.Machine.execSmbusAlertResponse s
  | .equalisationDone p ok => Sys2Proof.Machine.execEqualisationDone p ok s
  | .catalogueWrapProcessingDone => Sys2Proof.Machine.execCatalogueWrapProcessingDone s
  | .managementPortLinkChange up => Sys2Proof.Machine.execManagementPortLinkChange up s
  | .msiXTableWrite off v => Sys2Proof.Machine.execMsiXTableWrite off v s

end Sys2Proof.Machine
end

