-- ==== Sys2Proof/WellFormed.lean ====
section
/-! DEFINITION. Which terms of `Instr` spell a command: what an operand must satisfy for the term to be the row it names.
The meanings are total all the same; a term that is not well-formed names a command no sender can send. -/

namespace Sys2Proof

/-- The opcode byte of a queue entry (R98, R128, R155, R175). -/
def opIs (e : Entry) (op : Nat) : Bool := e.toNat % 256 == op

/-- The header of a host command: a direct command carries the accession number of its TAG and no ring (R346). -/
def Hdr.wf (h : Hdr) : Bool :=
  !h.direct || (h.q == 0 && decide (0xFFFFFFFFFF000000 ≤ h.acc.toNat))

/-- A packet of NSLOT + 1 slots of 64 bytes, 16 of them its header (R226). -/
def Packet.wf (k : Packet) : Bool := decide (k.nslot < 64) && k.body.length == 48 + 64 * k.nslot

/-- The term spells a command. -/
def Instr.wf : Instr → Bool
  | .regWrite _ _ _ => true
  | .bar0InvalidAccess _ _ _ size _ => decide (0 < size) && decide (size ≤ 4096)
  | .mdecl _ e => opIs e 0x1
  | .mdeclSourceValid _ => true
  | .mdeclDatumExpiry _ => true
  | .mopen _ e => opIs e 0x2
  | .macc _ e => opIs e 0x3
  | .maccStep _ => true
  | .mfin _ e => opIs e 0x4
  | .segmentDrainEnd _ _ => true
  | .mfinStagingFree _ => true
  | .mfinStagingExpiry _ => true
  | .msum _ e => opIs e 0x5
  | .msave _ e => opIs e 0x6
  | .mload _ e => opIs e 0x7
  | .vset _ e => opIs e 0x10
  | .vadd _ e => opIs e 0x11
  | .vsub _ e => opIs e 0x12
  | .vmul _ e => opIs e 0x13
  | .vfma _ e => opIs e 0x14
  | .vmin _ e => opIs e 0x15
  | .vmax _ e => opIs e 0x16
  | .vabs _ e => opIs e 0x17
  | .vneg _ e => opIs e 0x18
  | .vcvt _ e => opIs e 0x19
  | .vcmp _ e => opIs e 0x1a
  | .vsel _ e => opIs e 0x1b
  | .vfun _ e => opIs e 0x20
  | .vsweep _ e => opIs e 0x30
  | .vred _ e => opIs e 0x31
  | .vperm _ e => opIs e 0x32
  | .vgath _ e => opIs e 0x33
  | .vGroup _ => true
  | .swait _ _ e => opIs e 0xf0
  | .swaitc _ _ e => opIs e 0xf1
  | .sset _ _ e => opIs e 0xf2
  | .sclr _ _ e => opIs e 0xf3
  | .stakeWaitExpiry _ _ => true
  | .sfence _ _ e => opIs e 0xf4
  | .fenceComplete _ _ => true
  | .carr _ _ e => opIs e 0xf5
  | .cwait _ _ e => opIs e 0xf6
  | .closureT3Expiry _ => true
  | .shnd _ _ e => opIs e 0xf7
  | .sjmp _ _ e => opIs e 0xf8
  | .sldc _ _ e => opIs e 0xf9
  | .send _ _ e => opIs e 0xfa
  | .queueFetchFault _ _ => true
  | .xget _ e => opIs e 0x1
  | .xput _ e => opIs e 0x2
  | .xatom _ e => opIs e 0x3
  | .archiveSliceServe _ => true
  | .archiveRequestComplete _ => true
  | .archiveT1Expiry _ => true
  | .fieldbookScrub _ _ _ => true
  | .archivePatrolScrub _ _ _ => true
  | .bar2Read _ len => decide (0 < len) && decide (len ≤ 4096)
  | .bar2Write _ bytes => decide (0 < bytes.length) && decide (bytes.length ≤ 4096)
  | .barAtomicopRequest _ => true
  | .shelfModeChangeDone _ => true
  | .fpScanDone _ => true
  | .hbmTempReading _ _ => true
  | .hbmPatrolRead _ _ _ _ => true
  | .hbmEcsRead _ _ => true
  | .hbmSoftRepair _ _ => true
  | .binderyDispatch _ => true
  | .binderyWaitExpiry _ => true
  | .bEnd _ => true
  | .bOpt _ => true
  | .bReq _ => true
  | .bAmax _ => true
  | .bFpr _ => true
  | .bGath _ => true
  | .bScat _ => true
  | .bJmp _ => true
  | .binderyDescriptorDone _ => true
  | .frameSend _ _ => true
  | .frameReceive _ _ _ bytes => bytes.length == 1285
  | .trainingFrameReceive _ _ _ bytes => bytes.length == 1285
  | .replayPendingExpiry _ => true
  | .trainingLimitExpiry _ => true
  | .laneSignalChange _ _ => true
  | .retrain _ => true
  | .wenPortDisable _ => true
  | .subportQuiesceDone _ => true
  | .packetForward k => k.wf
  | .data k => k.wf && k.ptype == 0x1
  | .cack k => k.wf && k.ptype == 0x2
  | .notice k => k.wf && k.ptype == 0x4
  | .epoch k => k.wf && k.ptype == 0x5
  | .benchmark k _ => k.wf && k.ptype == 0x10
  | .arrive k => k.wf && k.ptype == 0x11
  | .complete k => k.wf && k.ptype == 0x12
  | .fail k => k.wf && k.ptype == 0x13
  | .slipred k => k.wf && k.ptype == 0x14
  | .stentry k => k.wf && k.ptype == 0x15
  | .stake k => k.wf && k.ptype == 0x16
  | .stjoin k => k.wf && k.ptype == 0x3
  | .stleave k => k.wf && k.ptype == 0x3
  | .routepush k => k.wf && k.ptype == 0x3
  | .relay k => k.wf && k.ptype == 0x3
  | .mack k => k.wf && k.ptype == 0x3
  | .fwmsgRetryExpiry _ => true
  | .colOpen h _ schild => h.wf && decide (schild.length ≤ 255)
  | .admissionRound => true
  | .colClose h _ => h.wf
  | .colArm _ => true
  | .colStart _ => true
  | .colTileAccept _ => true
  | .permScratchCopy _ => true
  | .colRunComplete _ _ => true
  | .colT3Expiry _ => true
  | .bearingRunStart _ => true
  | .bearingRunStop => true
  | .bearingUnlock _ => true
  | .bearingTop _ => true
  | .benchmarkEmit _ => true
  | .bearingCoast _ => true
  | .bearingLost _ => true
  | .brgStkCommit _ _ => true
  | .setstake _ _ => true
  | .snap _ _ => true
  | .ctxstart _ _ => true
  | .ctxpre _ _ => true
  | .oppointAction _ _ => true
  | .filler _ _ => true
  | .fpflush _ _ => true
  | .phasemark _ _ => true
  | .stepEdge _ _ => true
  | .catSeedRequest _ => true
  | .ctxSliceInDone _ => true
  | .ctxSliceOutDone _ => true
  | .ctxParked _ => true
  | .submissionDoorbell _ _ _ => true
  | .receiptDoorbell _ _ => true
  | .directWord _ => true
  | .submissionRingEnable _ _ => true
  | .receiptRingEnable _ _ => true
  | .commandFetch _ _ error slot params => (slot.length == 64 || (error && slot.isEmpty)) && decide (params.length ≤ 4096)
  | .receiptSignalTimer _ => true
  | .commandT4Expiry h => h.wf
  | .nop h => h.wf
  | .identify h _ => h.wf
  | .health h => h.wf
  | .warmReset h => h.wf
  | .faultLogRead h _ _ _ => h.wf
  | .shelfPartition h shelves => h.wf && decide (shelves.length < 65536)
  | .binderyRun h _ desc => h.wf && desc.length == 128
  | .binderyRestart h _ _ _ => h.wf
  | .catConfig h _ _ _ _ _ => h.wf
  | .catSave h _ _ _ => h.wf
  | .catLoad h _ _ _ => h.wf
  | .catUnseed h _ _ => h.wf
  | .fpFlush h _ _ => h.wf
  | .ownerSet h _ => h.wf
  | .ctxLoad h _ _ _ => h.wf
  | .ctxUnload h _ => h.wf
  | .ctxStart h _ => h.wf
  | .ctxPreempt h _ => h.wf
  | .queueResume h _ _ _ _ => h.wf
  | .fabricSetup h _ _ _ _ _ => h.wf
  | .routeLoad h _ _ entries => h.wf && decide (entries.length < 65536)
  | .stractSetup h _ _ _ members => h.wf && decide (members.length < 65536)
  | .stractRelease h _ => h.wf
  | .closureSetup h _ _ _ _ _ _ _ => h.wf
  | .closureRelease h _ => h.wf
  | .stakeoutWrite h _ _ _ _ _ => h.wf
  | .stakeoutRead h _ => h.wf
  | .powerCap h _ => h.wf
  | .oppoint h _ => h.wf
  | .fillerProfile h _ _ => h.wf
  | .throttleLogRead h _ _ _ => h.wf
  | .snapshot h _ => h.wf
  | .freeze h => h.wf
  | .thaw h => h.wf
  | .ctrRead h _ _ _ => h.wf
  | .snapshotCopyDone => true
  | .survey h _ _ _ faults referees => h.wf && (faults ++ referees).all fun f => f.images.length == 8192
  | .replayStep h _ => h.wf
  | .drain h => h.wf
  | .waitLimits h _ _ _ _ _ _ _ => h.wf
  | .unitQuiesce h _ => h.wf
  | .quiesceAcceptedDone _ => true
  | .quiesceBoundExpiry _ => true
  | .unitReset h _ => h.wf
  | .unitResume h _ => h.wf
  | .spareSwap h _ => h.wf
  | .attest h _ _ => h.wf
  | .identityRead h _ => h.wf
  | .debugOpen h rec sig _ => h.wf && rec.length == 4096 && sig.all fun b => b.length == 16224
  | .imageStage h _ _ len img _ => h.wf && img.all fun b => b.length == len.toNat
  | .imageActivate h _ _ _ => h.wf
  | .imageQuery h _ => h.wf
  | .powerUpdate _ _ _ _ bins => bins.length == 8
  | .thermalReading _ => true
  | .tceilUpdate => true
  | .oppSwitch => true
  | .oppVoltageRampDone => true
  | .droopDetect _ => true
  | .droopStretchEnd _ _ => true
  | .droopEventEnd => true
  | .extThrottleChange _ => true
  | .fillerRelease _ => true
  | .watchdogExpiry _ _ => true
  | .logEntryClose _ => true
  | .healthReportTimer => true
  | .fieldReportRepeat _ => true
  | .spdmMessage _ => true
  | .jobKeyMessage _ => true
  | .tapInstruction _ => true
  | .input50vChange _ => true
  | .input12vChange _ => true
  | .mrstAssert => true
  | .coldReset => true
  | .hostReset => true
  | .flr => true
  | .d3hotEntry => true
  | .d0Entry => true
  | .domainGate _ => true
  | .refClockWindow _ _ => true
  | .counterDeltaMove _ _ => true
  | .smbusHealthRead => true
  | .smbusSerialRead => true
  | .smbusStationRead => true
  | .smbusLogCursorWrite _ => true
  | .smbusLogEntryRead => true
  | .smbusPcntRead => true
  | .smbusAlertResponse => true
  | .equalisationDone _ _ => true
  | .catalogueWrapProcessingDone => true
  | .managementPortLinkChange _ => true
  | .msiXTableWrite off _ => off.toNat % 4 == 0 && decide (0xF00000 ≤ off.toNat) && decide (off.toNat < 0xF08100)

end Sys2Proof
end

