-- ==== Sys2Proof/Safety.lean ====
section
/-! DEFINITION. What claims about runs are stated in: how a step ends, and what every state of a run keeps. -/

namespace Sys2Proof.Machine

/-- A command completes in a state: it answers a next state, no fault and no refusal. -/
def Completes (c : Instr) (s : State) : Prop := ∃ t, exec c s = .next t

/-! ## Frames -/

/-- Nothing differs but what the units hold, and which idle domains are gated (R459). -/
def UnitsOnly (s t : State) : Prop := t = { s with eng := t.eng, mod := { s.mod with gated := t.mod.gated } }

/-- One context in one unit takes a value; nothing else differs. -/
structure EngStep (s t : State) (key : Nat) (e : Eng) : Prop where
  rest : UnitsOnly s t
  here : t.engOf key = e
  away : ∀ k, k ≠ key → t.engOf k = s.engOf k

/-- The queue of a unit issues its next entry for a context, which can be fetched (R152). -/
structure Ready (s : State) (u : Nat) (q : Q) (c : Nat) : Prop where
  issuer : s.issuer u q = some c
  fetches : s.fetches c u q = true
  quiet : s.membersQuiet c q u = true

/-- The same for a synchronisation entry of opcode `op`: a running vector entry does not hold it (R125). -/
structure SyncReady (s : State) (u : Nat) (q : Q) (c op : Nat) : Prop extends Ready s u q c where
  done : s.vDone c u q op = true

/-- The unit after the next entry of its queue has issued and left the head (R152, R153). -/
def Eng.issued (e : Eng) (q : Q) : Eng :=
  { e with sync := e.sync.setQueue q { (e.sync.queue q).advanced with head := none } }

/-- The unit after the entry at the head of its queue has left the head (R154). -/
def Eng.vacated (e : Eng) (q : Q) : Eng :=
  { e with sync := e.sync.setQueue q { e.sync.queue q with head := none } }

/-- The unit after the next entry of its queue has issued and waits at the head for a reason, from a time on and with a limit
(R154, R411). -/
def Eng.waits (e : Eng) (q : Q) (w : BitVec 128) (k : WaitKind) (now limit : Nat) : Eng :=
  { e with sync := e.sync.setQueue q { (e.sync.queue q).advanced with
      head := some ⟨(e.sync.queue q).pc, w, k⟩, since := now, t2rem := limit } }

/-- A started command of a header, an opcode and parameters that nothing blocks and that the device still serves (R347,
R350, R426). -/
structure Admitted (s : State) (h : Hdr) (op : Nat) (ps : List Byte) (r : Started) : Prop where
  found : s.cmd.started.find? (fun x => x.isFor h && x.op == op && x.params == ps && !x.begun) = some r
  free : s.blocked r = false
  served : s.flt.drained = true → drainAllows op = true

/-- A packet of a type for this station that keeps the rules of its header (R226, R228, R236). -/
def State.handles (s : State) (k : Packet) (ptype : Nat) : Prop :=
  k.ptype.toNat = ptype ∧ k.dst.toNat = s.station ∧ packetOk k = true

/-! ## Exact values -/

/-- The C-form of a finite nonzero value: its sign, its significand with SIG[23] = 1, and its exponent (R41). -/
structure CForm (v : Val) (sgn : Bool) (sig : Nat) (ex : Int) : Prop where
  norm : 2 ^ 23 ≤ sig ∧ sig < 2 ^ 24
  value : ∃ m e, v = .fin m e ∧ (m : ℚ) * 2 ^ e = (if sgn then -1 else 1) * sig * 2 ^ (ex - 23)

/-- The scale exponent of an operand: X - 127 for a block-scaled element, 0 for an unscaled one (R40). -/
def scaleExp (x : Option Nat) : Int :=
  match x with
  | none => 0
  | some n => (n : Int) - 127

/-! ## What every state of a run keeps -/

/-- Both memories are in canonical form, so that equal memories are equal data. -/
def State.memOk (s : State) : Prop := s.mem.wf = true ∧ s.host.wf = true

/-- Every waiting command is well-formed. -/
def State.queueOk (s : State) : Prop := ∀ c ∈ s.pending, c.wf = true

/-- The power controller's fields hold no value that their tables refuse: PWR.CAP in its range, GAIN not 0, BMAX in its
range, every operating point one of P0 to P5 (R15, R389, R396). -/
def Pwr.fieldsOk (p : Pwr) : Bool :=
  decide (1800 ≤ p.cap) && decide (p.cap ≤ 5200) && p.gain != 0 && decide (32 ≤ p.bmax) && decide (p.bmax ≤ 240) &&
    decide (p.req ≤ 5) && decide (p.tceil ≤ 5) && decide (p.cceil ≤ 5) && decide (p.eff ≤ 5) &&
    p.change.all fun x => decide (x.target ≤ 5)

/-- The bearing's fields hold no value that their tables refuse: LOSS, PINIT, and in every committed stakeout entry no
reserved ACTION and no OPPOINT to P6 or P7 (R15, R284, R294, R297). -/
def Brg.fieldsOk (b : Brg) : Bool :=
  decide (10 ≤ b.loss) && decide (1048576 ≤ b.pinit) && b.stk.all fun kv => stakeoutOk (kv.2.getD 2 0) (kv.2.getD 3 0)

/-- A counter that software reads fits in 48 bits, and the snapshot shelf exists (R383, R465). -/
def Ctr.fieldsOk (c : Ctr) : Bool :=
  (c.store.all fun kv => decide (kv.2 < 2 ^ 48)) && (c.image.all fun m => m.all fun kv => decide (kv.2 < 2 ^ 48)) &&
    decide (c.shelf ≤ 639)

/-- No register holds a value that its field table refuses (R15), the wait limits keep their order (R411), counters fit in
48 bits (R383). -/
def State.fieldsOk (s : State) : Bool :=
  s.pwr.fieldsOk && s.brg.fieldsOk && s.ctr.fieldsOk && limitsOk s.flt.wlim s.flt.wlong &&
    (decide (9 ≤ s.fab.b) && decide (s.fab.b ≤ 13)) && decide (s.slotRes ≤ 4096) && decide (s.domSize ≤ 4194304)

end Sys2Proof.Machine
end

