-- ==== Sys2Proof/Certificates/Slice0/Obligations.lean ====
section
/-! DEFINITION. The statements for the provers, one for each line of OBLIGATIONS.json. Each cites the rules of the spec that
it formalises; where a clause rests on a choice of the model, the docstring names the log entry. -/

open Sys2Proof Sys2Proof.Machine

/-- A step takes the command at the front of the queue and runs it with the rest of the queue; with nothing waiting the
block idles (the model's choice, log entry 1). A command never touches the queue. -/
def Obligations.StepRunsFront : Prop :=
  (∀ (s : State) (c : Instr) (rest : List Instr), s.pending = c :: rest → step s = exec c { s with pending := rest }) ∧
  (∀ s : State, s.pending = [] → step s = .next s) ∧
  (∀ (s : State) (c : Instr) (t : State), exec c s = .next t → t.pending = s.pending)

/-- What reset leaves (R178, R284, R294, R306, R383, R396, R410, R414): nothing waits, both memories are in canonical form
and list nothing, no register holds a value its table refuses, and the registers hold the values their tables give: the
wait limits' defaults, the cap of 5,200 W in EQUAL mode with gain 64, bubble bound 224, P0 requested, PINIT and LOSS, no
station number, no fuse of DBGOPEN, no context loaded, no closure set up, no collective open, every queue IDLE, every
stake clear, the bearing UNLOCKED. That an unlisted byte reads as 0 is the model's choice (log entry 2). -/
def Obligations.ResetState : Prop :=
  let s := State.reset
  s.memOk ∧ s.fieldsOk = true ∧ s.pending = [] ∧ s.mem = [] ∧ s.host = [] ∧
    s.flt.wlim = [2000, 20000, 500, 20000, 200000, 2000] ∧ limitsOk s.flt.wlim s.flt.wlong = true ∧ s.flt.wlong = 60000 ∧
    s.pwr.cap = 5200 ∧ s.pwr.mode = true ∧ s.pwr.gain = 64 ∧ s.pwr.bmax = 224 ∧ s.pwr.req = 0 ∧
    s.brg.st = .unlocked ∧ s.brg.loss = 1000 ∧ s.brg.pinit = 1000000000 ∧ s.brg.run = false ∧ s.brg.stk = [] ∧
    s.station = 0xFFFFFF ∧ s.fab.b = 10 ∧ s.fab.snLock = false ∧ s.domLock = false ∧ s.dbgOpen = false ∧ s.owner = 0 ∧
    s.arc.dlyth = 256 ∧ s.scratch = [0, 0, 0, 0] ∧
    (∀ c, (s.ctx c).st = .free) ∧ (∀ i, (s.closure i).st = .idle) ∧ (∀ h, s.col h = none) ∧
    (∀ key q, (s.queue key q).run = .idle ∧ (s.queue key q).head = none) ∧ (∀ h i, (s.stake h i).st = .clear) ∧
    (∀ q, s.sub q = SubRing.reset ∧ s.rcp q = RcpRing.reset) ∧ (∀ k, s.ctr.store = [] ∧ Map.getD s.ctr.store k 0 = 0)

/-- Every command completes in every state: it answers a next state, in which the queue is as it was; with the one
exception of an instruction other than BYPASS and IDCODE at an unlocked test access port, of which the spec does not say
what the debug unit does (R450, R487), and which is refused by name. -/
def Obligations.EveryCommandCompletes : Prop :=
  ∀ (c : Instr) (s : State),
    (∃ i, c = .tapInstruction (.other i) ∧ s.sec.tapOpen = true ∧ exec c s = .refused .debugPort) ∨
      ∃ t, exec c s = .next t ∧ t.pending = s.pending

/-- Every step keeps both memories in canonical form: addresses strictly rising, and no entry that holds what an unlisted
address reads as (R170, R173; the model's form of memory, log entry 2). -/
def Obligations.StepKeepsMemory : Prop :=
  ∀ (s t : State), step s = .next t → s.memOk → t.memOk

/-- Every step keeps the registers at values that their tables allow (R15, R284, R297, R383, R389, R396, R411): a write
that would place a reserved or refused code leaves the field as it was, and no other command puts one there. -/
def Obligations.StepKeepsFields : Prop :=
  ∀ (s t : State), step s = .next t → s.fieldsOk = true → t.fieldsOk = true

/-- What no command takes back (R13, R426, R447, R452): the fuse of DBGOPEN and the flag of a drained station stay set, an
anti-rollback counter never falls, and a locked station number or domain size keeps its lock and its value, but for the
assertion of MRST# and a cold reset, which clear the locks. -/
def Obligations.FusesAndLocks : Prop :=
  ∀ (s t : State) (c : Instr), exec c s = .next t →
    (s.dbgOpen = true → t.dbgOpen = true) ∧
    (s.flt.flagged = true → t.flt.flagged = true) ∧
    (∀ k, s.arb k ≤ t.arb k) ∧
    (c ≠ .mrstAssert → c ≠ .coldReset →
      (s.fab.snLock = true → t.fab.snLock = true ∧ t.station = s.station) ∧
      (s.domLock = true → t.domLock = true ∧ t.domSize = s.domSize))

/-- A BAR0 access that R10 refuses: of a size other than 4 and 8 bytes, not aligned to its size, or to an offset that
holds no register. It completes; a read gives zeros, a write changes nothing but what the fault log's entry touches, and
either way the fault log takes a host-access fault (KIND 0x0001), or counts it in the entry that is open for it. -/
def Obligations.InvalidAccesses : Prop :=
  ∀ (s : State) (off : BitVec 26) (size : Nat) (v : BitVec 64),
    let o := off.toNat
    (size ≠ 4 ∧ size ≠ 8) ∨ (size = 4 ∧ (o % 4 ≠ 0 ∨ regAt o = none)) ∨
      (size = 8 ∧ (o % 8 ≠ 0 ∨ (regAt o = none ∧ regAt (o + 4) = none))) →
    exec (.bar0InvalidAccess false true off size v) s = .next (s.hostFault o) ∧
    exec (.bar0InvalidAccess false false off size v) s =
      .next { s.hostFault o with out := .readData (List.replicate size 0) :: (s.hostFault o).out } ∧
    (s.flt.openIx = [] → ∃ e, Map.find (s.hostFault o).flt.vlog (s.flt.next % 4096) = some e ∧ e.kind = 0x0001 ∧
      e.count = 1 ∧ e.index = s.flt.next ∧ (s.hostFault o).flt.new = true) ∧
    (s.mod.mgmtUp = true → ∃ f n c m x,
      s.hostFault o = { s with flt := f, ctr := n, cmd := c, host := m, out := x })

/-- The close command (R255): it releases the collective's slots and handle; while a run is armed or in progress it is
answered with REFUSED_POLICY, 0x0323; for a handle that is not open it has no effect and is answered with FAULT, 0x0732.
-/
def Obligations.CollectiveClose : Prop :=
  ∀ (s : State) (h : Hdr) (handle : BitVec 16) (r : Started), Admitted s h 0x0408 (Instr.params (.colClose h handle)) r →
    (∀ c, s.col handle.toNat = some c → c.waiting = false → c.st = .idle ∨ c.st = .complete →
      ∃ t, exec (.colClose h handle) s = .next t ∧ t.col handle.toNat = none ∧
        (∀ j, j ≠ handle.toNat → t.col j = s.col j) ∧ t.mem = s.mem ∧
        (Map.rising s.cols = true →
          (t.cols.map fun kv => kv.2.grant).sum + c.grant = (s.cols.map fun kv => kv.2.grant).sum) ∧
        (∀ key, ((t.engOf key).mat.stage.all fun x => x.handle != handle.toNat) = true ∧
          (t.engOf key).sync = (s.engOf key).sync)) ∧
    (∀ c, s.col handle.toNat = some c → c.waiting = false → c.st = .armed ∨ c.st = .running →
      exec (.colClose h handle) s = .next (s.finish r 0x0323)) ∧
    (s.col handle.toNat = none → exec (.colClose h handle) s = .next (s.finish r 0x0732))

/-- Products (R47, R48). Two finite nonzero operands of L formats: their unbiased logs add to s, and the product is
antilog[s and 0xFF], a 24-bit significand, times 2 to the power (s >> 8) - 23 with the two scale exponents added, with the
XOR of the signs. Every other pair of finite nonzero operands, one L operand with another among them: each operand has a
C-form, scales not applied, and whatever C-forms they have, the product is the exact product of the two significands, of
at most 48 bits, times 2 to the power (EXPa - 23) + (EXPb - 23) with the two scale exponents added. No bit is rounded. -/
def Obligations.ProductPaths : Prop :=
  (∀ (fa fb : Fmt) (a b : Nat) (za zb : Int) (xa xb : Option Nat) (ma ea mb eb : Int),
    fa.isLog = true → fb.isLog = true → xa ≠ some 255 → xb ≠ some 255 →
    decode fa a za = .fin ma ea → decode fb b zb = .fin mb eb →
    let s := unbias fa (a % 2 ^ (logLay fa).1) + unbias fb (b % 2 ^ (logLay fb).1)
    let sig := antilog (s % 256).toNat
    2 ^ 23 ≤ sig ∧ sig < 2 ^ 24 ∧
    product fa a za xa fb b zb xb =
      .fin (if a.testBit (logLay fa).1 != b.testBit (logLay fb).1 then -(sig : Int) else sig)
        (s / 256 - 23 + (scaleExp xa + scaleExp xb))) ∧
  (∀ (f : Fmt) (c : Nat) (zp m e : Int), f.isTally = false → -255 ≤ zp → zp ≤ 255 → decode f c zp = .fin m e →
    ∃ sgn sig ex, CForm (decode f c zp) sgn sig ex) ∧
  (∀ (fa fb : Fmt) (a b : Nat) (za zb : Int) (xa xb : Option Nat) (sa sb : Bool) (ga gb : Nat) (ea eb : Int),
    (fa.isLog && fb.isLog) = false → xa ≠ some 255 → xb ≠ some 255 →
    CForm (decode fa a za) sa ga ea → CForm (decode fb b zb) sb gb eb →
    ga * gb < 2 ^ 48 ∧ ∃ m e, product fa a za xa fb b zb xb = .fin m e ∧
      (m : ℚ) * 2 ^ e = (if sa != sb then -1 else 1) * (ga * gb : Nat) *
        2 ^ ((ea - 23) + (eb - 23) + scaleExp xa + scaleExp xb))

/-- MDECL (R99-R101): with a whole, aligned descriptor in range, a free slot and a datum that can be read now, the slot
holds the descriptor with its datum resolved, and its source is read in the control class (R183); with a datum that is not
there yet the entry waits at the head. A waiting MDECL looks again when its source becomes valid (R66), and ends with
0x0501 when T2 passes while it is not; no entry of a tract stands behind it here. -/
def Obligations.MdeclFillsSlot : Prop :=
  ∀ (s : State) (c : Nat),
    (∀ (u : UnitIx) (e : Entry), unitOrder u.val = 0 → Ready s u.val .m c →
      fld e 0 8 = 1 → fld e 27 101 = 0 → fld e 11 16 % 4 = 0 → fld e 11 16 + 3 ≤ 0xBFFF →
      s.badIn (granAddr u.val (fld e 11 16)) 64 = false →
      descOk (BitVec.ofNat 512 (s.mem.readLE (granAddr u.val (fld e 11 16)) 64)) = true →
      (s.mat c u.val).slotInUse (fld e 8 3) = false →
      let key := engKey c u.val
      let m := s.mat c u.val
      let d := BitVec.ofNat 512 (s.mem.readLE (granAddr u.val (fld e 11 16)) 64)
      (∀ dp, s.datum c d = .value dp → ∃ t, exec (.mdecl u e) s = .next t ∧
        EngStep ((s.advance c u.val .m).datumReads d) t key { (s.engOf key).issued .m with mat := { m with slots := Map.put m.slots (fld e 8 3) (slotOf d dp) } }) ∧
      (s.datum c d = .wait → ∃ t, exec (.mdecl u e) s = .next t ∧ EngStep s t key ((s.engOf key).waits .m e .engine s.now s.t2))) ∧
    (∀ (p : ParcelIx) (a : Nat) (e : Entry),
      s.engineCtx p.val (fun x => (x.engineHead .m).any fun h => fld h.2 0 8 == 1) = some c →
      (s.engOf (engKey c p.val)).engineHead .m = some (a, e) → (s.queue (engKey c p.val) .m).passed = [] →
      fld e 27 101 = 0 → fld e 11 16 % 4 = 0 → fld e 11 16 + 3 ≤ 0xBFFF →
      s.badIn (granAddr p.val (fld e 11 16)) 64 = false →
      descOk (BitVec.ofNat 512 (s.mem.readLE (granAddr p.val (fld e 11 16)) 64)) = true →
      (s.mat c p.val).slotInUse (fld e 8 3) = false →
      let key := engKey c p.val
      let m := s.mat c p.val
      let d := BitVec.ofNat 512 (s.mem.readLE (granAddr p.val (fld e 11 16)) 64)
      (∀ dp, s.datum c d = .value dp → ∃ t, exec (.mdeclSourceValid p) s = .next t ∧
        exec (.mdeclDatumExpiry p) s = .next t ∧
        EngStep (s.datumReads d) t key { (s.engOf key).vacated .m with mat := { m with slots := Map.put m.slots (fld e 8 3) (slotOf d dp) } }) ∧
      (s.datum c d = .wait →
        exec (.mdeclDatumExpiry p) s = .next ((s.count (ctrDev 41)).failQueue 4 c p.val .m a 0x0501 (a + 1) 0)))

/-- MOPEN (R102, R109): an empty segment, or one that holds a tile and is discarded by OVR with nothing still to place in
it, is bound to its slot's datum and holds clear ledgers. MACC (R103, R105): the first begins to place, its segment
accumulates and the other, if it accumulated, is parked; the second is pending; a third waits. MACC_STEP (R96, R105): the
current MACC's step places its products in its segment's ledgers and sum lane, from the Fieldbook as it stands; shed
events and clocks are counted; after the last step the pending MACC begins. -/
def Obligations.MaccOpensAndPlaces : Prop :=
  (∀ (s : State) (c : Nat) (u : UnitIx) (e : Entry), unitOrder u.val = 0 → Ready s u.val .m c →
      let key := engKey c u.val
      let m := s.mat c u.val
      (∀ sl, fld e 0 8 = 2 → fld e 24 104 = 0 → Map.find m.slots (fld e 9 3) = some sl → tileSizeOk (dWide sl.desc) e = true →
        ((m.seg (eSeg e)).st = .empty ∨
          ((m.seg (eSeg e)).holds = true ∧ bit e 13 = true ∧ m.placing (eSeg e) = false)) →
        ∃ t, exec (.mopen u e) s = .next t ∧
          EngStep s t key { (s.engOf key).issued .m with
            mat := m.setSeg (eSeg e) (openSegment sl (fld e 9 3) (bit e 12) (fld e 14 5) (fld e 19 5)) }) ∧
      (m.maccStatus e = none →
        (m.cur = none → ∃ t, exec (.macc u e) s = .next t ∧
          EngStep s t key { (s.engOf key).issued .m with mat := m.begin ⟨(s.queue key .m).pc, e, 0⟩ }) ∧
        (m.cur ≠ none → m.pend = none → ∃ t, exec (.macc u e) s = .next t ∧
          EngStep s t key { (s.engOf key).issued .m with mat := { m with pend := some ⟨(s.queue key .m).pc, e, 0⟩ } }) ∧
        (m.cur ≠ none → m.pend ≠ none → ∃ t, exec (.macc u e) s = .next t ∧
          EngStep s t key ((s.engOf key).waits .m e .engine s.now s.t2)))) ∧
  (∀ (s : State) (c : Nat) (p : ParcelIx) (r : MaccRun),
      s.maccCtx p.val = some c → (s.mat c p.val).cur = some r →
      let key := engKey c p.val
      let m := s.mat c p.val
      let g := m.seg (eSeg r.entry)
      let d := (m.slot g.dslot).desc
      s.fbBad p.val (stepRanges d r.entry (tileDim (dWide d) g.geom) r.done) = none →
      let o := placeStep s.mem (fbAddr p.val 0) d r.entry r.done g
      let s1 := (s.countShed (ctrBase p.val + 17) o.2).count (ctrBase p.val + 16) (stepClocks d g.geom r.done)
      (r.done + 1 ≠ eK r.entry → ∃ t, exec (.maccStep p) s = .next t ∧
        EngStep s1 t key { s.engOf key with
          mat := { m.setSeg (eSeg r.entry) o.1 with cur := some { r with done := r.done + 1 } } }) ∧
      (r.done + 1 = eK r.entry → (s.engOf key).engineHead .m = none → ∃ t, exec (.maccStep p) s = .next t ∧
        EngStep s1 t key { s.engOf key with mat := (m.setSeg (eSeg r.entry) o.1).next }))

/-- MFIN (R106-R108, R118): it waits while its segments have products to place, or while four tiles stand in the parcel's
send staging; else the tile is finished as it stands, its segments drain, its writes become visible at the end of the
drain, and with DEST 0b01 it is staged for the collective it names. SEGMENT_DRAIN_END makes them visible and empties the
segments. MFIN_STAGING_FREE lets a waiting MFIN stage its tile, and MFIN_STAGING_EXPIRY logs the expiry and ends it with
0x0502 while all four places are taken (R413); no entry of a tract stands behind it here. -/
def Obligations.MfinDrains : Prop :=
  ∀ (s : State) (c : Nat),
    (∀ (u : UnitIx) (e : Entry), unitOrder u.val = 0 → Ready s u.val .m c →
      let key := engKey c u.val
      let m := s.mat c u.val
      (((bit e 9 || !eSeg e) && m.placing false) = true ∨ ((bit e 9 || eSeg e) && m.placing true) = true → fld e 0 8 = 4 →
        ∃ t, exec (.mfin u e) s = .next t ∧ EngStep s t key ((s.engOf key).waits .m e .engine s.now s.t2)) ∧
      (((bit e 9 || !eSeg e) && m.placing false) = false → ((bit e 9 || eSeg e) && m.placing true) = false →
        s.mfinStatus c u.val e = none → s.fbBad u.val (s.mfinReads c u.val e) = none →
        let sl := m.slot ((finSegs m e).headD Segment.empty).dslot
        let dim := tileDim (dWide sl.desc) ((finSegs m e).headD Segment.empty).geom
        let f := finTile s.mem (fbAddr u.val 0) m sl.desc e dim
        let after := fun (s : State) =>
          ((s.countShed (ctrBase u.val + 17) f.events).count (ctrBase u.val + 31)).mfinReport sl.desc f
        (fld e 10 2 = 0 → ∃ t, exec (.mfin u e) s = .next t ∧
          EngStep (after s) t key { (s.engOf key).issued .m with mat := m.drain e (f.writes ++ f.scales) }) ∧
        (fld e 10 2 = 1 → s.tileMisfit c u.val e = false → s.stagedIn u.val < 4 →
          let tile : Tile := ⟨fld e 88 12, fld e 100 20, dim, if bit e 9 then 2 * dim else dim, fld sl.desc 163 4, sl.ds,
            dZmode sl.desc, f.values, f.codes⟩
          ∃ t, exec (.mfin u e) s = .next t ∧
            EngStep (after (s.updRun (fld e 88 12) fun r => { r with stagedQ := r.stagedQ ++ [key] })) t key
              { (s.engOf key).issued .m with
                mat := { m.drain e f.scales with stage := (m.drain e f.scales).stage ++ [tile] } }) ∧
        (fld e 10 2 = 1 → s.tileMisfit c u.val e = false → 4 ≤ s.stagedIn u.val → ∃ t, exec (.mfin u e) s = .next t ∧
          EngStep s t key ((s.engOf key).waits .m e .engine s.now s.t2)))) ∧
    (∀ (p : ParcelIx) (seg : Bool) (d : Drain),
      (List.range 8).find? (fun c => (s.mat c p.val).drains.any fun d => if seg then d.seg1 else d.seg0) = some c →
      (s.mat c p.val).drains.find? (fun d => if seg then d.seg1 else d.seg0) = some d →
      (s.engOf (engKey c p.val)).engineHead .m = none →
      ∃ t, exec (.segmentDrainEnd p seg) s = .next t ∧
        EngStep (s.putNibs d.writes) t (engKey c p.val) { s.engOf (engKey c p.val) with
          mat := { s.mat c p.val with
            drains := (s.mat c p.val).drains.erase d,
            seg0 := if d.seg0 then Segment.empty else (s.mat c p.val).seg0,
            seg1 := if d.seg1 then Segment.empty else (s.mat c p.val).seg1 } }) ∧
    (∀ (p : ParcelIx) (a : Nat) (e : Entry),
      s.engineCtx p.val (fun x => (x.engineHead .m).any fun h => fld h.2 0 8 == 4) = some c →
      (s.engOf (engKey c p.val)).engineHead .m = some (a, e) → (s.queue (engKey c p.val) .m).passed = [] →
      fld e 10 2 = 1 →
      ((bit e 9 || !eSeg e) && (s.mat c p.val).placing false) = false →
      ((bit e 9 || eSeg e) && (s.mat c p.val).placing true) = false →
      s.mfinStatus c p.val e = none → s.fbBad p.val (s.mfinReads c p.val e) = none → s.tileMisfit c p.val e = false →
      (s.stagedIn p.val < 4 → exec (.mfinStagingFree p) s = .next ((s.mfinGo c p.val e).leaveHead c p.val .m)) ∧
      (4 ≤ s.stagedIn p.val →
        s.engineCtx p.val (fun x => (x.engineHead .m).any fun h => fld h.2 0 8 == 4 && fld h.2 10 2 == 1) = some c →
        exec (.mfinStagingExpiry p) s = .next (((s.count (ctrDev 42)).log 0x0020 0x0502 1 (codeUnit p.val) (unitPath p.val)
          (codeUnit p.val)).failQueue 4 c p.val .m a 0x0502 (a + 1) 0)))

/-- MSUM (R117) writes its sums as 64-bit words at its destination, and no other byte changes. MSAVE (R110) writes the
images of a tile's ledgers and its sum lane, and empties the segment. MLOAD (R110, R62) fills an empty segment from images
that pass their checks. -/
def Obligations.MsumMsaveMload : Prop :=
  ∀ (s : State) (c : Nat) (u : UnitIx) (e : Entry), unitOrder u.val = 0 → Ready s u.val .m c →
    let key := engKey c u.val
    let m := s.mat c u.val
    (∀ f, fld e 0 8 = 5 → fld e 71 57 = 0 → fmtOf (fld e 10 4) = some f → f.isInt = true → fld e 31 24 ≠ 0 →
      (m.seg (eSeg e)).st = .empty →
      let dim := if bit e 14 then 8 else 16
      let len := elemBytes f.width (dim * fld e 31 24)
      granOk (fld e 15 16) len = true → granOk (fld e 55 16) (8 * dim) = true →
      s.badIn (granAddr u.val (fld e 15 16)) len = false →
      let bs := (msumSums s.mem (granAddr u.val (fld e 15 16)) f dim (fld e 31 24)).flatMap fun v => toLE 8 (wrapU 64 v)
      ∃ t, exec (.msum u e) s = .next t ∧ EngStep (s.store (granAddr u.val (fld e 55 16)) bs) t key ((s.engOf key).issued .m)) ∧
    (fld e 0 8 = 6 → fld e 25 103 = 0 → (m.seg (eSeg e)).holds = true → m.placing (eSeg e) = false →
      granOk (fld e 9 16) 8448 = true →
      let g := m.seg (eSeg e)
      ∃ t, exec (.msave u e) s = .next t ∧
        EngStep (s.store (granAddr u.val (fld e 9 16)) (g.images ++ g.laneBytes)) t key
          { (s.engOf key).issued .m with mat := m.setSeg (eSeg e) Segment.empty }) ∧
    (∀ g, fld e 0 8 = 7 → fld e 25 103 = 0 → (m.seg (eSeg e)).st = .empty → granOk (fld e 9 16) 8448 = true →
      s.badIn (granAddr u.val (fld e 9 16)) 8448 = false →
      segmentOfImages (fun i => s.mem.readLE (granAddr u.val (fld e 9 16) + 32 * i) 32)
        (fun n => (Map.find m.slots n).isSome) = some g → g.st ≠ .empty →
      let lane := laneOf s.mem (granAddr u.val (fld e 9 16) + 8192)
      ∃ t, exec (.mload u e) s = .next t ∧
        EngStep s t key { (s.engOf key).issued .m with
          mat := m.setSeg (eSeg e) { g with rowsum := lane.1, colsum := lane.2 } })

/-- VSET (R126, R127) loads a setup slot from an aligned granule. Every other entry of the V queue (R128-R146) that passes
the checks made before it reads anything starts when the engine is idle, and waits at the head while another runs. V_GROUP
(R124, R147): the running entry's next step, whose reads are all good, writes its results to the Fieldbook, in which no
other half-byte changes, counts its events and the groups it wrote, and moves on; the entry ends after its last step. The
elements behind the group in the block of its last one are looked at only for their NaNs (R53), and only where they can be
read. The results of the element-wise entries (R132-R138): with results in a format of whole bytes without a computed or
given scale and no mask, V_GROUP leaves in the place of each element of its group the code of the exact result, rounded by
the conversion of R51-R53 and once: the sum, difference, product, fused product and sum, minimum, maximum, magnitude,
negation, conversion (of a zero: +0, R133), selection or function of the operands. A product takes the path of its pair of
formats (R46, log entry 97). -/
def Obligations.VectorEntries : Prop :=
  (∀ (s : State) (c : Nat) (u : UnitIx) (e : Entry), unitOrder u.val = 0 → Ready s u.val .v c →
      let key := engKey c u.val
      let v := s.vec c u.val
      (fld e 0 8 = 0x10 → v.run = none → vFieldsOk e = true → fld e 10 16 % 4 = 0 → fld e 10 16 ≤ 0xBFFF →
        s.badIn (granAddr u.val (fld e 10 16)) 64 = false →
        setupOk (BitVec.ofNat 512 (s.mem.readLE (granAddr u.val (fld e 10 16)) 64)) = true →
        ∃ t, exec (.vset u e) s = .next t ∧
          EngStep s t key { (s.engOf key).issued .v with vec := { v with
            slots := Map.put v.slots (fld e 8 2) (BitVec.ofNat 512 (s.mem.readLE (granAddr u.val (fld e 10 16)) 64)) } }) ∧
      (∀ cmd : Instr, (fld e 0 8, cmd) ∈ [(0x11, .vadd u e), (0x12, .vsub u e), (0x13, .vmul u e), (0x14, .vfma u e),
          (0x15, .vmin u e), (0x16, .vmax u e), (0x17, .vabs u e), (0x18, .vneg u e), (0x19, .vcvt u e), (0x1A, .vcmp u e),
          (0x1B, .vsel u e), (0x20, .vfun u e), (0x30, .vsweep u e), (0x31, .vred u e), (0x32, .vperm u e),
          (0x33, .vgath u e)] →
        (v.run = none → vStartStatus (v.setup e) e v.openLed = none → ∃ t, exec cmd s = .next t ∧
          EngStep s t key { (s.engOf key).issued .v with vec := { v with run := some ⟨(s.queue key .v).pc, e, 0, []⟩ } }) ∧
        (v.run ≠ none → ∃ t, exec cmd s = .next t ∧ EngStep s t key ((s.engOf key).waits .v e .engine s.now s.t2)))) ∧
  (∀ (s : State) (c : Nat) (p : ParcelIx) (r : VRun),
      s.vecCtx p.val = some c → (s.vec c p.val).run = some r →
      let key := engKey c p.val
      let e := r.entry
      let d := (s.vec c p.val).setup e
      let v := (s.vec c p.val).openRow d e r.group
      let fb := fbAddr p.val 0
      let is := vReadElems d e r.group
      let ahead := vAhead d e r.group
      s.fbBad p.val (vStepRanges s.mem fb d e is) = none →
      let o := vStep s.mem fb d e r.group (Map.getD v.ledgers (fld e 19 3) vRedClear) r.kept
        (if s.fbBad p.val (vStepRanges s.mem fb d e ahead) = none then ahead else [])
      let last := r.group + 1 == vSteps d e
      let s1 := ((s.putNibs o.writes).countShed (ctrBase p.val + 17) o.events).count (ctrBase p.val + 32)
        (vGroupsWritten d e o is)
      ((s.engOf key).engineHead .v = none ∨ last = false) →
      ∃ t, exec (.vGroup p) s = .next t ∧
        EngStep s1 t key { s.engOf key with vec := { v.keepLedger e (vFinal d e r.group) o.ledger with
          run := if last then none else some { r with
            group := r.group + 1
            kept := vKeep s.mem fb d e r.group r.kept } } }) ∧
  (∀ (s : State) (c : Nat) (p : ParcelIx) (r : VRun) (i : Nat) (x : Val),
      s.vecCtx p.val = some c → (s.vec c p.val).run = some r →
      let e := r.entry
      let d := (s.vec c p.val).setup e
      let fb := fbAddr p.val 0
      s.fbBad p.val (vStepRanges s.mem fb d e (vReadElems d e r.group)) = none →
      (s.engOf (engKey c p.val)).engineHead .v = none →
      vOsc d = 0 → bit e 10 = false → (vFd d).width ∈ [8, 16, 32] → setupOk d = true → i ∈ vElems d e r.group →
      (let a := vOperand s.mem fb d e 0 i
       let b := vOperand s.mem fb d e 1 i
       (fld e 0 8, x) ∈ [(0x11, a.add b), (0x12, a.add b.negate), (0x13, vProduct s.mem fb d e 1 i),
         (0x14, (vProduct s.mem fb d e 1 i).add (vOperand s.mem fb d e 2 i)),
         (0x15, a.min b), (0x16, a.max b), (0x17, a.abs), (0x18, a.negate), (0x19, match a with | .zero _ => .zero false | v => v),
         (0x1B, if maskBit s.mem fb (fld e 80 16) i then a else b), (0x20, vfunVal (vSub e) a)]) →
      ∃ t, exec (.vGroup p) s = .next t ∧
        elemAt t.mem (fb + 16 * fld e 96 16) (vFd d).width i =
          (convert (vFd d) ⟨bit d 20, bit d 21, bit d 22, vZo d⟩ x).code % 2 ^ (vFd d).width)

/-- SHND, SJMP, SLDC and SEND (R154, R155): what each makes of its own queue, once it has passed the entry; nothing else
changes, but that a context of which nothing runs any more has ENDED (R336). -/
def Obligations.QueueControl : Prop :=
  ∀ (s : State) (c : Nat) (u : UnitIx) (q : Q) (e : Entry), SyncReady s u.val q c (fld e 0 8) →
    syncOk (unitOrder u.val) e = true →
    let key := engKey c u.val
    let x := s.engOf key
    let w := (s.queue key q).advanced
    let becomes := fun (t : State) (v : Queue) => EngStep s t key { x with sync := x.sync.setQueue q v }
    (fld e 0 8 = 0xF7 → ∃ t, exec (.shnd u q e) s = .next t ∧
      becomes t { w with handler := if fld e 64 16 = 0xFFFF then none else some (fld e 64 16) }) ∧
    (fld e 0 8 = 0xF8 → ∃ t, exec (.sjmp u q e) s = .next t ∧
      (fld e 80 3 = 0 → becomes t { w with pc := fld e 64 16 }) ∧
      (fld e 80 3 = 1 → becomes t (if w.status / 256 = fld e 83 8 then { w with pc := fld e 64 16 } else w)) ∧
      (fld e 80 3 = 2 → ∀ n, w.loops.getD (fld e 91 2) 0 = n →
        becomes t (if n = 0 then w else { w with pc := fld e 64 16, loops := w.loops.set (fld e 91 2) (n - 1) })) ∧
      (fld e 80 3 = 3 → becomes t { w with pc := fld e 64 16, status := 0 })) ∧
    (fld e 0 8 = 0xF9 → ∃ t, exec (.sldc u q e) s = .next t ∧
      becomes t { w with loops := w.loops.set (fld e 91 2) (fld e 93 24) }) ∧
    (fld e 0 8 = 0xFA → ∃ t, exec (.send u q e) s = .next t ∧ t.queue key q = { w with run := .idle } ∧
      (s.bndIdle c = false → becomes t { w with run := .idle }))

/-- SWAIT and SWAITC on a stake of this station (R155, R157, R162): on a stake in the state they wait for they proceed,
and an SWAIT with CLR clears it and its waiters see that; on an ABANDONED stake they end with 0x0601; else they wait at
the head, and where nothing owns the stake the orphan wait is counted (R160). T2 ends a wait with 0x0503 (R157). -/
def Obligations.StakeWaits : Prop :=
  ∀ (s : State) (c : Nat) (u : UnitIx) (q : Q),
    (∀ (e : Entry) (h : Nat) (want : Want) (cmd : Instr), SyncReady s u.val q c (fld e 0 8) → syncOk (unitOrder u.val) e = true →
      s.target c u.val e = .here h →
      (fld e 0 8, bit e 8, want, cmd) ∈ [(0xF0, false, .set, .swait u q e), (0xF0, true, .setClr, .swait u q e),
        (0xF1, bit e 8, .clear, .swaitc u q e)] →
      let key := engKey c u.val
      let st := (s.stake h (yStake e)).st
      let a := (s.queue key q).pc
      (st ≠ .abandoned → want.met st = true → want ≠ .setClr →
        ∃ t, exec cmd s = .next t ∧ EngStep s t key ((s.engOf key).issued q)) ∧
      (st = .set → want = .setClr →
        exec cmd s = .next ((((s.advance c u.val q).leaveHead c u.val q).setStake h (yStake e) .clear).wakeStake h (yStake e))) ∧
      (st ≠ .abandoned → want.met st = false → bit (s.stake h (yStake e)).entry 19 = true →
        ∃ t, exec cmd s = .next t ∧ EngStep s t key ((s.engOf key).waits q e (.stake h (yStake e) want) s.now s.t2)) ∧
      (st ≠ .abandoned → want.met st = false → bit (s.stake h (yStake e)).entry 19 = false →
        exec cmd s = .next (((s.advance c u.val q).misuse h 2).waitHead c u.val q ⟨a, e, .stake h (yStake e) want⟩)) ∧
      (st = .abandoned → exec cmd s = .next ((s.advance c u.val q).failQueue 4 c u.val q a 0x0601 (a + 1) 0))) ∧
    (∀ (a : Nat) (e : Entry) (h i : Nat) (want : Want),
      s.waiting u.val q (fun k => match k with | .stake _ _ _ => true | _ => false) = some c →
      (s.queue (engKey c u.val) q).head = some ⟨a, e, .stake h i want⟩ → want.met (s.stake h i).st = false →
      exec (.stakeWaitExpiry u q) s = .next ((s.count (ctrDev 41)).failQueue 4 c u.val q a 0x0503 (a + 1) 0))

/-- SSET, SCLR and SFENCE (R155, R157, R159, R163), each at the front of a queue that can issue it. Where the entry asks
for no fence, or every earlier write of the queue is visible at its fence's scope, it completes: SFENCE leaves the head;
SSET sets and SCLR clears the stake that it names, at once where this station holds it (so a CLEAR stake on which nothing
waits is SET, and a SET one CLEAR, and no byte of memory changes), by a STAKE slip where another does, which an entry of
fabric scope waits to have acknowledged (R242, log entry 25). A stake of a unit that takes nothing gives 0x0301, one of a
tract that does not exist 0x0732. An entry whose fence is not complete waits at the head; FENCE_COMPLETE lets it proceed
once the writes are visible, and changes nothing before. At a unit that quiesces, its own queue's SSET or SCLR for a stake
of such a unit is refused with 0x0301. A set or clear that reaches a stake (R157, R158, R160): the stake takes its state
and its waiters proceed; a set of a set stake and a clear of a clear one change nothing but the unit's misuse count; an
ABANDONED stake stays so. A set ends every SWAIT that waits on it, and leaves it SET where none of them clears it; then no
queue waits on it for SET. -/
def Obligations.StakeSetsAndFences : Prop :=
  (∀ (s : State) (c : Nat) (u : UnitIx) (q : Q) (e : Entry),
      let key := engKey c u.val
      let x := s.engOf key
      let pc := (s.queue key q).pc
      let s0 := s.advance c u.val q
      let past := s0.leaveHead c u.val q
      let refused := fun (status : Nat) => s0.failQueue 4 c u.val q pc status (pc + 1) 0
      let slip := fun (s : State) (home : Nat) (set : Bool) =>
        let body := stakeBody e set true
        let s1 := s.slip home 0x16 0 c body
        ({ s1 with fab := { s1.fab with acks := s1.fab.acks ++ [(qKey c u.val (qIx q), bytesAt body 0 6)] } } : State)
      (Ready s u.val q c → syncOk (unitOrder u.val) e = true → s.fenced c u.val q e = true →
        (fld e 0 8 = 0xF2 →
          (∀ h, s.target c u.val e = .here h →
            (s.unitBusy (stakeUnit h) = false → exec (.sset u q e) s = .next (past.stakeOp h (yStake e) true)) ∧
            (s.unitBusy (stakeUnit h) = false → (s.stake h (yStake e)).st = .clear →
              (past.setStake h (yStake e) .set).waiters h (yStake e) = [] →
              ∃ t, exec (.sset u q e) s = .next t ∧ (t.stake h (yStake e)).st = .set ∧ t.mem = s.mem) ∧
            (s.unitBusy (stakeUnit h) = true → exec (.sset u q e) s = .next (refused 0x0301))) ∧
          (∀ home, s.target c u.val e = .away home →
            (yFsc e ≠ 3 → exec (.sset u q e) s = .next ((slip s0 home true).leaveHead c u.val q)) ∧
            (yFsc e = 3 → exec (.sset u q e) s = .next ((slip s0 home true).waitHead c u.val q ⟨pc, e, .ack⟩))) ∧
          (s.target c u.val e = .absent → exec (.sset u q e) s = .next (refused 0x0732))) ∧
        (fld e 0 8 = 0xF3 →
          (∀ h, s.target c u.val e = .here h →
            (s.unitBusy (stakeUnit h) = false → exec (.sclr u q e) s = .next (past.stakeOp h (yStake e) false)) ∧
            (s.unitBusy (stakeUnit h) = false → (s.stake h (yStake e)).st = .set →
              (past.setStake h (yStake e) .clear).waiters h (yStake e) = [] →
              ∃ t, exec (.sclr u q e) s = .next t ∧ (t.stake h (yStake e)).st = .clear ∧ t.mem = s.mem) ∧
            (s.unitBusy (stakeUnit h) = true → exec (.sclr u q e) s = .next (refused 0x0301))) ∧
          (∀ home, s.target c u.val e = .away home →
            (yFsc e ≠ 3 → exec (.sclr u q e) s = .next ((slip s0 home false).leaveHead c u.val q)) ∧
            (yFsc e = 3 → exec (.sclr u q e) s = .next ((slip s0 home false).waitHead c u.val q ⟨pc, e, .ack⟩))) ∧
          (s.target c u.val e = .absent → exec (.sclr u q e) s = .next (refused 0x0732))) ∧
        (fld e 0 8 = 0xF4 → ∃ t, exec (.sfence u q e) s = .next t ∧ EngStep s t key (x.issued q))) ∧
      (Ready s u.val q c → syncOk (unitOrder u.val) e = true → s.fenced c u.val q e = false →
        (fld e 0 8 = 0xF2 → ∃ t, exec (.sset u q e) s = .next t ∧ EngStep s t key (x.waits q e .engine s.now s.t2)) ∧
        (fld e 0 8 = 0xF3 → ∃ t, exec (.sclr u q e) s = .next t ∧ EngStep s t key (x.waits q e .engine s.now s.t2)) ∧
        (fld e 0 8 = 0xF4 → ∃ t, exec (.sfence u q e) s = .next t ∧ EngStep s t key (x.waits q e .engine s.now s.t2))) ∧
      (∀ a, s.waiting u.val q (fun k => k == .engine) = some c → x.engineHead q = some (a, e) →
        (s.fenced c u.val q e = true →
          (fld e 0 8 = 0xF4 → ∃ t, exec (.fenceComplete u q) s = .next t ∧ EngStep s t key (x.vacated q)) ∧
          (∀ h, s.target c u.val e = .here h → s.unitBusy (stakeUnit h) = false →
            (fld e 0 8 = 0xF2 → exec (.fenceComplete u q) s = .next ((s.leaveHead c u.val q).stakeOp h (yStake e) true)) ∧
            (fld e 0 8 = 0xF3 → exec (.fenceComplete u q) s = .next ((s.leaveHead c u.val q).stakeOp h (yStake e) false))) ∧
          (∀ home, s.target c u.val e = .away home → yFsc e ≠ 3 →
            (fld e 0 8 = 0xF2 → exec (.fenceComplete u q) s = .next ((slip s home true).leaveHead c u.val q)) ∧
            (fld e 0 8 = 0xF3 → exec (.fenceComplete u q) s = .next ((slip s home false).leaveHead c u.val q)))) ∧
        (s.fenced c u.val q e = false → exec (.fenceComplete u q) s = .next s)) ∧
      (s.waiting u.val q (fun k => k == .engine) = none → exec (.fenceComplete u q) s = .next s) ∧
      (∀ h, syncOk (unitOrder u.val) e = true → s.refuser u.val q = some c → s.target c u.val e = .here h →
        s.unitBusy (stakeUnit h) = true →
        (fld e 0 8 = 0xF2 → exec (.sset u q e) s = .next (refused 0x0301)) ∧
        (fld e 0 8 = 0xF3 → exec (.sclr u q e) s = .next (refused 0x0301)))) ∧
  ((∀ (s : State) (h i : Nat) (set : Bool),
      let s1 := s.countAll (stakeCtr (keyUnit h) none (some (if set then 0 else 1)))
      ((s.stake h i).st = .clear → set = true → s.stakeOp h i set = (s1.setStake h i .set).wakeStake h i) ∧
      ((s.stake h i).st = .set → set = false → s.stakeOp h i set = (s1.setStake h i .clear).wakeStake h i) ∧
      ((s.stake h i).st = .set → set = true → EngStep s1 (s.stakeOp h i set) h
        { s.engOf h with sync := (s.engOf h).sync.misuseUp 0 }) ∧
      ((s.stake h i).st = .clear → set = false → EngStep s1 (s.stakeOp h i set) h
        { s.engOf h with sync := (s.engOf h).sync.misuseUp 1 }) ∧
      ((s.stake h i).st = .abandoned → s.stakeOp h i set = s1.countAll (stakeCtr (keyUnit h) (some 27) (some 2)))) ∧
    (∀ (s : State) (h i : Nat) (x : Eng), (s.stake h i).st = .clear →
      EngStep s (s.setStake h i .set) h x → (s.setStake h i .set).waiters h i = [] →
      EngStep { s with bndWaits := Map.keep s.bndWaits fun _ w => w != (h, i) } ((s.setStake h i .set).wakeStake h i) h x ∧
        (((s.setStake h i .set).wakeStake h i).stake h i).st = .set))

/-- CARR and CWAIT (R165-R167, R169): an arrival at an OPEN closure in which its unit takes part counts, and flips the
unit's parity bit; an early second arrival is HELD. A CWAIT proceeds once no arrival of its unit is pending, and waits
until then. On a closure that is not set up both end with 0x0731, on a FAILED one with its status. T3 of an open round
fails it with 0x0504. -/
def Obligations.ClosureArrivals : Prop :=
  ∀ (s : State) (c : Nat) (u : UnitIx) (q : Q) (e : Entry), SyncReady s u.val q c (fld e 0 8) →
    syncOk (unitOrder u.val) e = true →
    let key := engKey c u.val
    let cid := yClos e
    let k := s.closure cid
    let bits := s.cbits key cid
    let a := (s.queue key q).pc
    let s0 := s.advance c u.val q
    (fld e 0 8 = 0xF5 → k.st = .opened → k.ctx = keyCtx key → bits.testBit 0 = true → bits.testBit 1 = k.parity →
      bits.testBit 3 = false → k.count + 1 ≠ k.total → bit e 63 = false → keyCtx key = c → keyUnit key = u.val →
      ∃ t, exec (.carr u q e) s = .next t ∧
        (t.closure cid) = { k with count := k.count + 1, t3 := true, t3limit := if k.t3 then k.t3limit else s.t3For k.limit } ∧
        (t.cbits key cid).testBit 1 = !k.parity ∧ (t.cbits key cid).testBit 2 = true ∧
        t.queue key q = { (s.queue key q).advanced with head := none } ∧
        t = { s with eng := t.eng, mod := { s.mod with gated := t.mod.gated }, closures := t.closures }) ∧
    (fld e 0 8 = 0xF6 → k.st = .opened → k.ctx = c → bits.testBit 0 = true →
      (bits.testBit 2 = false → ∃ t, exec (.cwait u q e) s = .next t ∧ EngStep s t key ((s.engOf key).issued q)) ∧
      (bits.testBit 2 = true → ∃ t, exec (.cwait u q e) s = .next t ∧
        EngStep s t key ((s.engOf key).waits q e (.closure cid) s.now s.t2))) ∧
    (fld e 0 8 = 0xF5 → k.st = .opened → k.ctx = keyCtx key → bits.testBit 0 = true → bits.testBit 1 ≠ k.parity →
      bits.testBit 3 = false → keyCtx key = c → keyUnit key = u.val →
      ∃ t, exec (.carr u q e) s = .next t ∧ (t.cbits key cid).testBit 3 = true ∧ (t.closure cid).count = k.count ∧
        t.queue key q = { (s.queue key q).advanced with head := some ⟨a, e, .held cid⟩, since := s.now, t2rem := s.t2 } ∧
        t.mem = s.mem) ∧
    (∀ st, k.st = .failed st → advances st = false → keyCtx key = c → keyUnit key = u.val →
      (fld e 0 8 = 0xF5 → exec (.carr u q e) s = .next (s0.failQueue 4 c u.val q a st (a + 1) 0)) ∧
      (fld e 0 8 = 0xF6 → exec (.cwait u q e) s = .next (s0.failQueue 4 c u.val q a st (a + 1) 0))) ∧
    (k.st = .idle → keyCtx key = c → keyUnit key = u.val →
      (fld e 0 8 = 0xF5 → exec (.carr u q e) s = .next (s0.failQueue 4 c u.val q a 0x0731 (a + 1) 0)) ∧
      (fld e 0 8 = 0xF6 → exec (.cwait u q e) s = .next (s0.failQueue 4 c u.val q a 0x0731 (a + 1) 0))) ∧
    (∀ (i : Fin 1024), (s.closure i.val).st = .opened → (s.closure i.val).t3 = true →
      exec (.closureT3Expiry i) s = .next (((s.count (ctrDev 42)).log 0x0020 0x0504 1 0xFFFFFFFF 0 0xFFFFFFFF).closureFail
        i.val 0x0504 none))

/-- An entry that fails at a queue of its own program (R154): the status words are written, an arrival held at the head is
withdrawn (R495), and the queue stops with event 0xFF01, or goes on at its handler. A queue whose next entry cannot be
fetched fails with 0x0722 above 0xBFFF and with 0x0723 where the granule reads as uncorrectable and a spare parcel is left
(R152, R189); at the handler that a failure has just reached it stops and keeps its handler. -/
def Obligations.QueueFailures : Prop :=
  (∀ (s : State) (n c u addr status pc : Nat) (q : Q), (s.queue (engKey c u) q).fed = false →
    let key := engKey c u
    let w := s.queue key q
    let s0 := s.dropHeld key q
    let went := fun (r : QRun) (at' : Nat) => { s0.engOf key with
      sync := (s0.engOf key).sync.setQueue q { w with
        status := status, faddr := addr, head := none, passed := [], pc := at', run := r, branched := r == .running } }
    let s1 := if unitOrder u = 0 then
        (if status / 256 = 2 ∨ status / 256 = 3 then s0.count (ctrBase u + 29)
         else if status / 256 = 5 then s0.count (ctrBase u + 30) else s0) else s0
    (∀ h, w.handler = some h → EngStep s1 (s.failQueue n c u q addr status pc 0) key (went .running h)) ∧
    (w.handler = none → ∃ t, s.failQueue n c u q addr status pc 0 = t.event 1 status (stopResult u (qIx q) c addr) ∧
      EngStep s1 t key (went .stopped (pc % 65536)))) ∧
  (∀ (s : State) (c : Nat) (u : UnitIx) (q : Q), s.issuer u.val q = some c →
    let w := s.queue (engKey c u.val) q
    let pc := w.pc
    (w.branched = true → w.handler = some pc → 0xBFFF < pc → exec (.queueFetchFault u q) s =
      .next (((s.setQueue (engKey c u.val) q { w with handler := none }).failQueue 4 c u.val q pc 0x0722 (pc + 1) 0).queueOp
        c u.val q fun v => { v with handler := some pc })) ∧
    ((w.branched = false ∨ w.handler ≠ some pc) → 0xBFFF < pc →
      exec (.queueFetchFault u q) s = .next (s.failQueue 4 c u.val q pc 0x0722 (pc + 1) 0)) ∧
    ((w.branched = false ∨ w.handler ≠ some pc) → pc ≤ 0xBFFF → s.badIn (granAddr (firstParcel u.val) pc) 16 = true →
      s.sparesLeft (firstParcel u.val) ≠ 0 →
      exec (.queueFetchFault u q) s = .next ((s.fbUnc (firstParcel u.val) (granAddr (firstParcel u.val) pc)
        (codeUnit u.val)).failQueue 4 c u.val q pc 0x0723 (pc + 1) 0)))

/-- XGET, XPUT and XATOM (R175-R177, R183, R186, R187): an entry that passes its checks starts when the engine is idle.
One whose device range lies in the Archive or HBM asks the slice of its first line, in its class: it stands in the class
queue where that has room and no run waits for a place in it, it waits for a place where the queue is full, and it ends
with the status with which its address is refused. One that its own checks refuse ends with that status. A second entry
waits at the head. A transfer between Fieldbooks (R174, R175) is made when it issues, within its own parcel or with one in
which its context is active: XGET copies the granules of its device range to its Fieldbook range, XPUT the other way; no
other byte of memory changes and the entry ends with DONE. One element of an XATOM (R187): the sum of Tally counts modulo
2^24, 2^32 or 2^64, the bitwise OR, the larger or smaller, the swap, and the compare and swap, written at the device side;
no other byte changes but, with RET, those of the old value at the Fieldbook side. -/
def Obligations.TransferEntries : Prop :=
  (∀ (s : State) (c : Nat) (u : UnitIx) (e : Entry) (cmd : Instr), unitOrder u.val = 0 → Ready s u.val .x c →
      (fld e 0 8, cmd) ∈ [(1, .xget u e), (2, .xput u e), (3, .xatom u e)] →
      let key := engKey c u.val
      let x := s.engOf key
      let a := (s.queue key .x).pc
      let n := sliceOf (xDadr e)
      let r : XRun := ⟨a, e, 0, false, false, 0⟩
      let inClass := ((s.slice n).reqs.filter fun y => y.cls == xCls e && !y.served).length
      (x.x ≠ none → ∃ t, exec cmd s = .next t ∧ EngStep s t key (x.waits .x e .engine s.now s.t2)) ∧
      (x.x = none → xStartStatus u.val e = none → xDadr e < 0xC00000000000 → keyCtx key = c →
        (s.devStatus c (xDadr e) = 0 → inClass < (xCls e).depth → (s.slice n).wait = [] →
          ∃ t, exec cmd s = .next t ∧
            EngStep (s.setSlice n { s.slice n with
              reqs := (s.slice n).reqs ++ [⟨key, xCls e, xDadr e, r.chunk * xStep e, 0, false, 0, false⟩] }) t key
              { x.issued .x with x := some { r with asked := true } }) ∧
        (s.devStatus c (xDadr e) = 0 → (xCls e).depth ≤ inClass → (s.slice n).wait.contains key = false →
          ∃ t, exec cmd s = .next t ∧
            EngStep (s.setSlice n { s.slice n with wait := (s.slice n).wait ++ [key] }) t key { x.issued .x with x := some r }) ∧
        (s.devStatus c (xDadr e) ≠ 0 →
          let s1 := ((s.advance c u.val .x).leaveHead c u.val .x).setX key (some r)
          let s2 := if s.devStatus c (xDadr e) / 256 = 3 then s1.count (ctrSlice n + 18) else s1
          exec cmd s = .next (s2.xEnd key a (s.devStatus c (xDadr e))))) ∧
      (∀ st, x.x = none → xStartStatus u.val e = some st → exec cmd s = .next ((s.advance c u.val .x).endEntry c u.val .x a st))) ∧
  (∀ (s : State) (c : Nat) (u : UnitIx) (e : Entry) (p : Nat), unitOrder u.val = 0 → Ready s u.val .x c →
      (s.engOf (engKey c u.val)).x = none → xStartStatus u.val e = none → 0xC00000000000 ≤ xDadr e →
      region (xDadr e) = .fieldbook p → (p = u.val ∨ s.devStatus c (xDadr e) = 0) →
      keyCtx (engKey c u.val) = c → keyUnit (engKey c u.val) = u.val →
      let fb := fbAddr u.val (16 * xFadr e)
      let len := 16 * fld e 84 24
      (fld e 0 8 = 1 → s.badIn (xDadr e) len = false → ∃ t, exec (.xget u e) s = .next t ∧
        (∀ i, i < len → t.mem.read (fb + i) = s.mem.read (xDadr e + i)) ∧
        (∀ b, b < fb ∨ fb + len ≤ b → t.mem.read b = s.mem.read b) ∧ (t.engOf (engKey c u.val)).x = none) ∧
      (fld e 0 8 = 2 → s.badIn fb len = false → ∃ t, exec (.xput u e) s = .next t ∧
        (∀ i, i < len → t.mem.read (xDadr e + i) = s.mem.read (fb + i)) ∧
        (∀ b, b < xDadr e ∨ xDadr e + len ≤ b → t.mem.read b = s.mem.read b) ∧ (t.engOf (engKey c u.val)).x = none)) ∧
  (∀ (s : State) (p k : Nat) (e : Entry),
      let w := atomW e
      let d := xDadr e + w * k
      let f := fbAddr p (16 * xFadr e) + atomStride e * k
      let old := s.mem.readLE d w
      let x := s.mem.readLE f w
      s.badIn f (atomStride e) = false → s.badIn d w = false → (d + w ≤ f ∨ f + w ≤ d) →
      ∃ t, s.atomOne p e k = .inl t ∧ t.eng = s.eng ∧
        (bit e 19 = false → ∀ b, b < d ∨ d + w ≤ b → t.mem.read b = s.mem.read b) ∧
        (bit e 19 = true → t.mem.readLE f w = atomOld e old ∧
          ∀ b, b < d ∨ d + w ≤ b → b < f ∨ f + w ≤ b → t.mem.read b = s.mem.read b) ∧
        (xAop e = 0 → fld e 14 4 = 0xC → t.mem.readLE d 4 = (old % 2 ^ 24 + x % 2 ^ 24) % 2 ^ 24) ∧
        (xAop e = 0 → fld e 14 4 = 0xD → t.mem.readLE d 4 = (old + x) % 2 ^ 32) ∧
        (xAop e = 0 → fld e 14 4 = 0xE → t.mem.readLE d 8 = (old + x) % 2 ^ 64) ∧
        (xAop e = 1 → bit e 18 = false → t.mem.readLE d 4 = old ||| x) ∧
        (∀ g, xAop e = 2 ∨ xAop e = 3 → fmtOf (fld e 14 4) = some g → fld e 14 4 ≠ 0xC →
          t.mem.readLE d w = maxMinCode (xAop e == 2) g old x % 256 ^ w) ∧
        (xAop e = 4 → fld e 14 4 = 0xD ∨ fld e 14 4 = 0xE → t.mem.readLE d w = x) ∧
        (xAop e = 5 → fld e 14 4 = 0xD ∨ fld e 14 4 = 0xE →
          t.mem.readLE d w = if old = x then s.mem.readLE (f + w) w else old))

/-- A slice clock (R183, R184, R189): with one request, and no run that still has to ask, the slice serves it: a read of
an XGET lands in the Fieldbook, one that meets uncorrectable data ends with 0x0723, and one that misses in a cache-mode
shelf takes a miss-handling entry. ARCHIVE_REQUEST_COMPLETE ends the entry of a run that has moved everything, late where
its request waited longer than DLYTH (R185, R186). T1 drops the request and ends the entry with 0x0505 (R185). -/
def Obligations.SliceServes : Prop :=
  (∀ (s : State) (n : Fin 64), (∀ k r, s.xrun k = some r → r.asked = true) →
    ((s.slice n.val).reqs = [] → ∀ v, ∃ t, exec (.archiveSliceServe ⟨n, v⟩) s = .next t ∧ t.mem = s.mem ∧ t.eng = s.eng ∧
      (t.slice n.val).reqs = []) ∧
    (∀ y v, (s.slice n.val).reqs = [y] → y.served = false → s.xrun y.eng = none →
      ∃ t, exec (.archiveSliceServe ⟨n, v⟩) s = .next t ∧ t.mem = s.mem ∧
        (t.slice n.val).reqs = [{ y with served := true, status := 0, miss := false }]) ∧
    (∀ y r, (s.slice n.val).reqs = [y] → y.served = false → s.xrun y.eng = some r → fld r.entry 0 8 = 1 →
      let dev := xDadr r.entry + 16 * r.done
      let fb := fbAddr (keyUnit y.eng) (16 * (xFadr r.entry + r.done))
      let k := y.len / 16
      (dev + 16 * k ≤ shelfAddr 636 0 → s.badIn dev (16 * k) = false →
        ∃ t, exec (.archiveSliceServe ⟨n, .clean⟩) s = .next t ∧ t.mem.readN fb (16 * k) = s.mem.readN dev (16 * k) ∧
          (∀ b, b < fb ∨ fb + 16 * k ≤ b → t.mem.read b = s.mem.read b) ∧
          t.xrun y.eng = some { r with done := r.done + k } ∧
          (t.slice n.val).reqs = [{ y with served := true, status := 0, miss := s.misses y.addr }]) ∧
      (1 ≤ k → dev < 0xC00000000000 → s.badIn dev 16 = true →
        ∃ t, exec (.archiveSliceServe ⟨n, .clean⟩) s = .next t ∧ t.mem = s.mem ∧ t.xrun y.eng = some r ∧
          (t.slice n.val).reqs = [{ y with served := true, status := 0x0723, miss := s.misses y.addr }]))) ∧
  (∀ (s : State) (n : Fin 64) (y : SliceReq) (r : XRun), (s.slice n.val).reqs.find? (·.served) = some y → y.eng ≠ staleKey →
    s.xrun y.eng = some r → y.status = 0 → r.done = xTotal r.entry →
    (s.engOf y.eng).engineHead .x = none → engKey (keyCtx y.eng) (keyUnit y.eng) = y.eng →
    let s1 := s.setSlice n.val { s.slice n.val with reqs := (s.slice n.val).reqs.erase y }
    ∃ t, exec (.archiveRequestComplete n) s = .next t ∧
      EngStep (if s.arc.dlyth < y.age then s1.count (ctrBase (keyUnit y.eng) + 28) else s1) t y.eng
        { s.engOf y.eng with x := none }) ∧
  (∀ (s : State) (c : Nat) (p : ParcelIx) (r : XRun) (n : Nat) (y : SliceReq),
    s.engineCtx p.val (fun x => x.x.isSome) = some c → s.xrun (engKey c p.val) = some r →
    s.reqOf (engKey c p.val) = some (n, y) →
    exec (.archiveT1Expiry p) s = .next ((((s.setSlice n { s.slice n with
        reqs := (s.slice n).reqs.filter fun q => q.eng != engKey c p.val,
        wait := (s.slice n).wait.erase (engKey c p.val) }).count (ctrSlice n + 19)).count (ctrDev 40)).xFinish
      (engKey c p.val) r.addr 0x0505))

/-- The scrubs (R173, R181, R190, R419): a corrected granule counts, and on its third correction its parcel is swapped for
a spare; an uncorrectable one reads as uncorrectable from then on. A line that is another slice's, or that neither a shelf
nor a cache-mode shelf holds, is not scrubbed; a corrected Archive line counts; of the uncorrectable ones, a clean cached
line counts as refetched (and leaves the cache where its own place in HBM is bad too), a dirty one is recorded and lost,
and one in a shelf is recorded and reads as uncorrectable. -/
def Obligations.Scrubs : Prop :=
  (∀ (s : State) (p : ParcelIx) (g : BitVec 16), g.toNat < 0xC000 →
    let k := p.val * 2 ^ 16 + g.toNat
    let a := granAddr p.val g.toNat
    exec (.fieldbookScrub p g .clean) s = .next s ∧
    (Map.getD s.flt.scrubCorr k 0 + 1 < 3 → exec (.fieldbookScrub p g .corrected) s = .next { s.count (ctrBase p.val + 25) with
      flt := { s.flt with scrubCorr := Map.put s.flt.scrubCorr k (Map.getD s.flt.scrubCorr k 0 + 1) } }) ∧
    (Map.getD s.flt.scrubCorr k 0 + 1 = 3 → ∀ t : State, t = { s.count (ctrBase p.val + 25) with
        flt := { s.flt with scrubCorr := Map.keep s.flt.scrubCorr fun i _ => i / 2 ^ 16 != p.val } } →
      exec (.fieldbookScrub p g .corrected) s = .next (t.spareSwap p.val).1) ∧
    exec (.fieldbookScrub p g .uncorrectable) s = .next ((s.lose a).fbUnc p.val a 0xFFFFFFFF)) ∧
  (∀ (s : State) (m : Fin 64) (line : BitVec 48),
    let a := line.toNat / 256 * 256
    let n := sliceOf a
    let s1 := (s.count (ctrSlice n + 22)).count (ctrSlice n + 12)
    let shelf := ∃ k, region a = .shelf k ∧ (s.shelf k).mode = 2
    let cached := region a = .hbm ∧ (s.cached a).isSome = true
    ((¬ shelf ∧ ¬ cached) ∨ n ≠ m.val → ∀ v, exec (.archivePatrolScrub m line v) s = .next s) ∧
    (n = m.val → (shelf ∨ cached) →
      (s.badIn a 256 = false → exec (.archivePatrolScrub m line .clean) s = .next s1) ∧
      exec (.archivePatrolScrub m line .corrected) s = .next (s1.count (ctrSlice n + 6))) ∧
    (∀ l, n = m.val → region a = .hbm → s.cached a = some l →
      (l.dirty = false → l.under = false → exec (.archivePatrolScrub m line .uncorrectable) s =
        .next ((s1.count (ctrSlice n + 5)).count (ctrSlice n + 7))) ∧
      (l.dirty = false → l.under = true → exec (.archivePatrolScrub m line .uncorrectable) s =
        .next (((s1.count (ctrSlice n + 5)).count (ctrSlice n + 7)).invalidate (· == badKey a))) ∧
      (l.dirty = true → exec (.archivePatrolScrub m line .uncorrectable) s =
        .next (((s1.count (ctrSlice n + 7)).log 0x0013 0 0 (codeSlice n) a 0xFFFFFFFF).loseLine a))) ∧
    (n = m.val → shelf → s.badIn a 256 = false → s.inCatalogue a = false → ∃ t : State,
      exec (.archivePatrolScrub m line .uncorrectable) s = .next (t.log 0x0013 0 0 (codeSlice n) a 0xFFFFFFFF) ∧
      t.mem = s.mem ∧ t.badIn a 1 = true))

/-- The BAR2 aperture (R191, R192): a read through an open window answers the bytes there, and a write stores them, as
accesses of the bulk class; what no window names reads as zeros and is a host-access fault; an uncorrectable line and a
unit that takes no request give Completer Abort; an AtomicOp request to any BAR (R341) is answered with Unsupported
Request. SHELF_MODE_CHANGE_DONE (R182): a shelf that is changing its mode, with no accepted access still under way, has
it, and takes requests; one that enters shelf mode is filled with zeros, and no byte outside it changes. Before its
accesses have completed nothing happens. FP_SCAN_DONE (R196): a scan that runs leaves its result in the unit;
uncorrectable data is never latched (R189, log entry 105), and a slice out of service refuses the scan, which ends without
a result (R414, log entry 137). -/
def Obligations.ApertureAndShelves : Prop :=
  (∀ (s : State),
      (∀ bar, exec (.barAtomicopRequest bar) s = .next { s with out := .unsupported :: s.out }) ∧
      (∀ (off : BitVec 36) len, s.bar2Addr off.toNat len false = none →
        exec (.bar2Read off len) s = .next ((s.hostFault off.toNat).answer (.readData (List.replicate len 0)))) ∧
      (∀ (off : BitVec 36) len a, s.bar2Addr off.toNat len false = some a →
        (s.bar2Refused a = false → s.badIn a len = false → ∃ t, exec (.bar2Read off len) s = .next t ∧
          t.out = .readData (s.load a len) :: s.out ∧ t.mem = s.mem ∧ t.eng = s.eng) ∧
        (s.bar2Refused a = true → exec (.bar2Read off len) s = .next { s with out := .completerAbort :: s.out }) ∧
        (s.bar2Refused a = false → s.badIn a len = true → exec (.bar2Read off len) s =
          .next ((s.lineUnc ((s.badKeys a len).headD a) 0xFFFFFFFF).answer .completerAbort))) ∧
      (∀ (off : BitVec 36) bytes, s.bar2Addr off.toNat bytes.length true = none →
        exec (.bar2Write off bytes) s = .next (s.hostFault off.toNat)) ∧
      (∀ (off : BitVec 36) bytes a, s.bar2Addr off.toNat bytes.length true = some a →
        (s.bar2Refused a = false → ∃ t, exec (.bar2Write off bytes) s = .next t ∧ t.mem.readN a bytes.length = bytes ∧
          t.out = s.out ∧ ∀ b, b < a ∨ a + bytes.length ≤ b → t.mem.read b = s.mem.read b) ∧
        (s.bar2Refused a = true → exec (.bar2Write off bytes) s = .next s))) ∧
  ((∀ (s : State) (n : Fin 640) (mode ctxm : Nat) (fw host : Bool), (s.shelf n.val).target = some (mode, ctxm, fw, host) →
      (s.shelf n.val).qst ≠ 0 →
      (s.shelfInUse n.val = true → exec (.shelfModeChangeDone n) s = .next s) ∧
      (s.shelfInUse n.val = false → n.val ≠ 636 → s.cmd.started = [] →
        ∃ t, exec (.shelfModeChangeDone n) s = .next t ∧ t.shelf n.val = ⟨mode, ctxm, fw, host, 0, none⟩ ∧
          (mode = 2 → (s.shelf n.val).mode ≠ 2 → ∀ i, i < 2 ^ 26 → t.mem.read (shelfAddr n.val i) = 0) ∧
          (∀ b, b < shelfAddr n.val 0 ∨ shelfAddr n.val (2 ^ 26) ≤ b → t.mem.read b = s.mem.read b) ∧
          (∀ k, k ≠ n.val → t.shelf k = s.shelf k))) ∧
    (∀ (s : State) (n : Fin 128), (s.fp n.val).busy = true → s.flt.replay = none →
      let u := s.fp n.val
      (s.sliceBusy u.base u.len = true →
        ∃ t, exec (.fpScanDone n) s = .next t ∧ t.fp n.val = { u with busy := false } ∧ t.mem = s.mem ∧ t.eng = s.eng) ∧
      (s.sliceBusy u.base u.len = false → s.badKeys u.base u.len = [] →
        ∃ t, exec (.fpScanDone n) s = .next t ∧
          t.fp n.val = { u with busy := false, lat := crc u.poly (s.load u.base u.len), latCnt := 0 } ∧
          (∀ k, k ≠ n.val → t.fp k = s.fp k) ∧ t.eng = s.eng) ∧
      (s.sliceBusy u.base u.len = false → u.base < 0xC00000000000 → s.badKeys u.base u.len ≠ [] → (∀ k ∈ s.badKeys u.base u.len, k < 0xC00000000000) →
        ∃ t, exec (.fpScanDone n) s = .next t ∧ t.fp n.val = { u with busy := false } ∧ t.mem = s.mem)))

/-- The stacks (R197, R201, R203): a reading sets the refresh rate, the throttle and the stop by the thresholds 85, 95,
105 and 115 °C, and the stop is left only below 100 °C; patrol reads count, an uncorrectable line reads as uncorrectable,
unless the Archive holds a copy that still serves it, and its row is kept for repair; the stack's own error counts are
taken over; a scheduled soft repair is made. -/
def Obligations.StackReadings : Prop :=
  ∀ (s : State) (h : Fin 12),
    (∀ temp : Byte, (s.stack h.val).st ≠ 3 → (s.stack h.val).stop = false → (s.stack h.val).thr = false →
      (s.stack h.val).rmul = 0 → temp.toNat ≤ 115 →
      ∃ t, exec (.hbmTempReading h temp) s = .next t ∧ (∀ k, k ≠ h.val → t.stack k = s.stack k) ∧
        (t.stack h.val).temp = temp.toNat ∧ (t.stack h.val).stop = false ∧
        (t.stack h.val).thr = decide (105 < temp.toNat) ∧
        (t.stack h.val).rmul = (if temp.toNat ≤ 85 then 0 else if temp.toNat ≤ 95 then 1 else 2) ∧
        t = { s with hbm := t.hbm }) ∧
    (∀ temp : Byte, (s.stack h.val).st ≠ 3 → (s.stack h.val).stop = false → 115 < temp.toNat →
      (s.bindery h.val).cur = none →
      ∃ t, exec (.hbmTempReading h temp) s = .next t ∧ (t.stack h.val).stop = true ∧ t.eng = s.eng ∧ t.mem = s.mem) ∧
    (∀ temp : Byte, (s.stack h.val).st ≠ 3 → (s.stack h.val).stop = true →
      ∃ t, exec (.hbmTempReading h temp) s = .next t ∧ (t.stack h.val).stop = decide (100 ≤ temp.toNat)) ∧
    (∀ errors : BitVec 32, ∃ t, exec (.hbmEcsRead h errors) s = .next t ∧ t.stack h.val = { s.stack h.val with ecs := errors.toNat } ∧
      t = { s with hbm := t.hbm, ctr := t.ctr }) ∧
    (∀ row : BitVec 32, row.toNat ∈ (s.stack h.val).soft → ∃ t, exec (.hbmSoftRepair h row) s = .next t ∧
      (t.stack h.val).soft = (s.stack h.val).soft.erase row.toNat ∧ t = { s with hbm := t.hbm, ctr := t.ctr }) ∧
    (∀ (line : BitVec 48) (row day : BitVec 32), line.toNat / 256 * 256 / 2 ^ 37 = h.val →
      (∃ t, exec (.hbmPatrolRead line .corrected row day) s = .next t ∧
        t.stack h.val = (s.stack h.val).corrected row.toNat day.toNat ∧ t = { s with hbm := t.hbm, ctr := t.ctr }) ∧
      (∃ t, exec (.hbmPatrolRead line .uncorrectable row day) s = .next t ∧ row.toNat ∈ (t.stack h.val).hard ∧
        t.mem = s.mem ∧ t.eng = s.eng ∧
        (s.cached (line.toNat / 256 * 256) = none → t.badIn (line.toNat / 256 * 256) 256 = true) ∧
        (s.cached (line.toNat / 256 * 256) ≠ none → t.bad = s.bad)))

/-- A Bindery at a descriptor boundary (R204-R206): a descriptor of the host queue that may run and waits for no stake is
taken first; one whose vote byte is set is taken and skipped. T2 ends the longest wait that its stake has not ended with
0x0503. A descriptor that has run ends: its record is written at CADR and nowhere else, and its queue goes on at the next.
END and JMP of a Bindery program (R206, R209, R216): each writes its completion record at CADR, and no other byte of
memory changes; END makes the queue idle, JMP takes it to the descriptor of its index. -/
def Obligations.BinderyTakesAndEnds : Prop :=
  (∀ (s : State) (h : Fin 12),
      (∀ (d : List Byte) (ds : List (List Byte)), (s.bindery h.val).cur = none → s.flt.drained = false → s.d3hot = false →
        s.svcOf (codeStack h.val) = .inService → (s.bindery h.val).hostq = d :: ds → (s.bindery h.val).hostSaved = none →
        dWen d = false →
        s.descFault h.val none d = none →
        (dVoten d = false → ∃ t, exec (.binderyDispatch h) s = .next t ∧
          (t.bindery h.val).cur = some (BndRun.fresh none 0 d) ∧ t.mem = s.mem ∧ t.eng = s.eng ∧ t.cmd = s.cmd) ∧
        (dVoten d = true → s.bndAccess (dF d 16 6) = 0 → s.badIn (dF d 16 6) 1 = false → s.byteAt (dF d 16 6) ≠ 0 →
          ∃ t, exec (.binderyDispatch h) s = .next t ∧
            (t.bindery h.val).cur = some { BndRun.fresh none 0 d with skipped := true, ran := true } ∧ t.mem = s.mem)) ∧
      (∀ qi r w, (s.bindery h.val).waitOrder.find? (fun i => !s.bndWaited h.val i) = some qi → s.bndHead h.val qi = some r →
        s.bndWait h.val qi r = some w →
        exec (.binderyWaitExpiry h) s =
          .next (((s.count (ctrDev 41)).bndUnregister h.val qi).bndEnd h.val { r with status := 0x0503 })) ∧
      (∀ r c, (s.bindery h.val).cur = some r → r.ran = true → r.status = 0 → r.ctx = some c → dDen r.desc = false →
        s.bndRecordStatus h.val r = 0 →
        ∃ t, exec (.binderyDescriptorDone h) s = .next t ∧ t.mem.readN (dCadr r.desc) 32 = s.bndRecord h.val r ∧
          (∀ b, b < dCadr r.desc ∨ dCadr r.desc + 32 ≤ b → t.mem.read b = s.mem.read b) ∧
          (t.bindery h.val).cur = none ∧ ((t.bindery h.val).queue c).pc = r.ix + 1 ∧ t.eng = s.eng)) ∧
  (∀ (s : State) (h : Fin 12) (r : BndRun) (c : Nat), (s.bindery h.val).cur = some r → r.ran = false → r.ctx = some c →
      r.status = 0 → dDen r.desc = false → s.bndRecordStatus h.val r = 0 →
      let recorded := fun (t : State) => t.mem.readN (dCadr r.desc) 32 = s.bndRecord h.val r ∧
        ∀ b, b < dCadr r.desc ∨ dCadr r.desc + 32 ≤ b → t.mem.read b = s.mem.read b
      (dOp r.desc = 0 → ∃ t, exec (.bEnd h) s = .next t ∧ (t.bindery h.val).cur = none ∧
        ((t.bindery h.val).queue c).run = .idle ∧ recorded t ∧ t.eng = s.eng) ∧
      (dOp r.desc = 7 → ∃ t, exec (.bJmp h) s = .next t ∧ (t.bindery h.val).cur = none ∧
        ((t.bindery h.val).queue c).pc = dF r.desc 32 4 ∧ recorded t ∧ t.eng = s.eng))

/-- The operations of a Bindery (R208-R215), with every line readable: what each writes in its stack's memory, from the
element or row to which it had come, and the result that its record will hold. AMAX and FPR write nothing in memory; GATH
whose result lies apart from its table copies row by row the rows that its index names, with zeros for an index past the
table. -/
def Obligations.BinderyOperations : Prop :=
  ∀ (s : State) (h : Fin 12) (r : BndRun), (s.bindery h.val).cur = some r → r.ran = false → s.bad = [] →
    let d := r.desc
    let m := r.doneN
    let n := dN d
    let ran := fun (t : State) (n : Nat) (res : List Byte) =>
      ∃ r', (t.bindery h.val).cur = some r' ∧ r'.ran = true ∧ r'.status = 0 ∧ r'.doneN = n ∧ r'.result = res ∧ r'.desc = d
    (dOp d = 1 → ∃ t, exec (.bOpt h) s = .next t ∧ ran t n [] ∧
      t.mem = ((blocksIn m n (dBs d)).foldl (fun o bk => optBlock d o bk.1 bk.2) (.start s.mem)).mem) ∧
    (dOp d = 2 → ∃ t, exec (.bReq h) s = .next t ∧ ran t n [] ∧
      t.mem = ((blocksIn m n (dBs d)).foldl (fun o bk => reqBlock d o bk.1 bk.2) (.start s.mem)).mem) ∧
    (dOp d = 3 → ∃ t, exec (.bAmax h) s = .next t ∧ t.mem = s.mem ∧
      ran t n (amaxResult ((List.range n).foldl (fun a k => Val.amax a ((reqIn d).value s.mem k)) (.zero false)))) ∧
    (dOp d = 4 → ∃ t, exec (.bFpr h) s = .next t ∧ t.mem = s.mem ∧
      ran t n (toLE 8 (crc (dF d 32 1) (s.mem.readN (dF d 40 6) n)))) ∧
    (dOp d = 5 → (dF d 40 6 + dF d 36 4 * dRowB d ≤ dF d 52 6 ∨ dF d 52 6 + n * dRowB d ≤ dF d 40 6) →
      ∃ t, exec (.bGath h) s = .next t ∧
        ran t n (toLE 4 ((List.range n).filter fun i => decide (dF d 36 4 ≤ rowIndex s.mem d i)).length) ∧
        (∀ b, b < dF d 52 6 ∨ dF d 52 6 + n * dRowB d ≤ b → t.mem.read b = s.mem.read b) ∧
        (∀ i j, m ≤ i → i < n → j < dRowB d → t.mem.read (dF d 52 6 + dRowB d * i + j) =
          if rowIndex s.mem d i < dF d 36 4 then s.mem.read (dF d 40 6 + dRowB d * rowIndex s.mem d i + j) else 0)) ∧
    (dOp d = 6 → descFieldsOk d = true → ∃ t, exec (.bScat h) s = .next t ∧
      t.mem = ((List.range n).drop m).foldl (scatRow d ((List.range n).map (rowIndex s.mem d))) s.mem ∧
      (∀ b, b < dF d 52 6 ∨ dF d 52 6 + dF d 36 4 * dRowB d ≤ b → t.mem.read b = s.mem.read b))

/-- FRAME_SEND (R222-R225, R231, R232, R235): a sub-port UP or quiescing whose replay window is full sends an empty frame
that carries its next sequence number, its acknowledgement and a good check sum; a new data frame is held under that
number until it is acknowledged; a frame that is to be resent leaves again under its own number, and the first of a resend
marks its time. Each goes out as the symbols of its two codewords, lane by lane (log entry 106). A sub-port in ALIGN,
EXCHANGE or DELAY sends a training frame, numbered by TSEQ. Any other sends nothing. FRAME_RECEIVE (R224, R225, R229-R232)
on a sub-port UP or quiescing: a frame that does not decode, or whose check sum is wrong, leaves the sub-port
replay-pending and counts; a good frame without a USED slot releases what it acknowledges and brings credit, and one that
asks for a replay makes every held frame after its ACK due again; one with slots is taken only when it is the next in
sequence, else it is discarded whole and the sub-port is replay-pending. T0 of replay-pending starts a fast retrain
(R233), or takes a sub-port that follows its neighbour down (R496). -/
def Obligations.FramesSentAndReceived : Prop :=
  (∀ (s : State) (p : Fin 128) (t : BitVec 48), s.present p.val = true →
      let v := s.port p.val
      let lanes := laneSymbols (s.pctl (p.val / 4)).lanes
      (v.st = 7 ∨ v.st = 8 → v.resend = [] → s.window p.val ≤ v.held.length → v.freed.length = 8 →
        ∃ s' bs, exec (.frameSend p t) s = .next s' ∧ s'.out = .frame p.val bs (lanes bs) :: s.out ∧ s'.port p.val = v ∧
          frameGood (.good 0) bs = true ∧ bitsOf (leAt bs 0 4) 0 12 = v.txSeq % 4096 ∧
          s' = { s.at t.toNat with out := s'.out }) ∧
      (v.st = 7 ∨ v.st = 8 → v.resend = [] → v.held.length < s.window p.val →
        ∀ s1 slots, (s.at t.toNat).fill p.val t.toNat = (s1, slots) → slots ≠ [] →
        ∃ s' bs, exec (.frameSend p t) s = .next s' ∧ s'.out = .frame p.val bs (laneSymbols (s1.pctl (p.val / 4)).lanes bs) :: s1.out ∧
          s'.port p.val = { s1.port p.val with
            held := (s1.port p.val).held ++ [(v.txSeq, slots)], txSeq := (v.txSeq + 1) % 4096 }) ∧
      (∀ f rest x, v.st = 7 ∨ v.st = 8 → v.resend = f :: rest → v.held.find? (fun y => y.1 == f) = some x → f < 4096 →
        v.freed.length = 8 → ∃ s' bs, exec (.frameSend p t) s = .next s' ∧ s'.out = .frame p.val bs (lanes bs) :: s.out ∧
          bitsOf (leAt bs 0 4) 0 12 = f ∧
          s'.port p.val = { v with
            resend := rest, rplNext := none,
            rplAck := (v.rplNext.map fun a => (a, t.toNat)) <|> v.rplAck }) ∧
      (v.st = 4 ∨ v.st = 5 → ∃ s' bs, exec (.frameSend p t) s = .next s' ∧ s'.out = .frame p.val bs (lanes bs) :: s.out ∧
        s'.port p.val = { v with tseq := (v.tseq + 1) % 65536 } ∧ s'.egress = s.egress) ∧
      (v.st = 6 → ∃ s' bs, exec (.frameSend p t) s = .next s' ∧ s'.out = .frame p.val bs (lanes bs) :: s.out ∧
        s'.port p.val = { v with tseq := (v.tseq + 1) % 65536, sentAt := v.sentAt ++ [t.toNat] }) ∧
      (v.st < 4 ∨ 8 < v.st → exec (.frameSend p t) s = .next (s.at t.toNat))) ∧
  (∀ (s : State) (p : Fin 128), s.present p.val = true →
      let v := s.port p.val
      (∀ (t : BitVec 48) (fec : Fec) (bytes : List Byte), v.st = 7 ∨ v.st = 8 →
        let hd := leAt bytes 0 4
        let fseq := bitsOf hd 0 12
        let used := (List.range 19).any fun j => (leAt bytes 4 12).testBit (5 * j + 4)
        let w : SubPort := { (v.timed t.toNat bytes).release (bitsOf hd 12 12) with
          credIn := (List.range 8).map fun i => leAt bytes (1232 + 4 * i) 4, follow := v.follow || (v.st == 7 && hd.testBit 27) }
        (frameGood fec bytes = false → ∃ s', exec (.frameReceive p t fec bytes) s = .next s' ∧
          s'.port p.val = { v with pendRpl := true } ∧ s'.fab = s.fab ∧ s'.egress = s.egress) ∧
        (frameGood fec bytes = true → bitsOf hd 24 2 = 0 → hd.testBit 26 = false → used = false →
          ∃ s', exec (.frameReceive p t fec bytes) s = .next s' ∧ s'.port p.val = w ∧ s'.fab = s.fab) ∧
        (frameGood fec bytes = true → bitsOf hd 24 2 = 0 → used = true → fseq ≠ (v.ack + 1) % 4096 →
          ∃ s', exec (.frameReceive p t fec bytes) s = .next s' ∧ s'.port p.val = { v.timed t.toNat bytes with pendRpl := true } ∧ s'.fab = s.fab) ∧
        (frameGood fec bytes = true → bitsOf hd 24 2 = 0 → hd.testBit 26 = true → used = false → w.held ≠ [] →
          v.rplNext ≠ some (bitsOf hd 12 12) → v.rplAck = none →
          ∃ s', exec (.frameReceive p t fec bytes) s = .next s' ∧
            s'.port p.val = { w with resend := w.held.map (·.1), rplNext := some (bitsOf hd 12 12) }) ∧
        (frameGood fec bytes = true → bitsOf hd 24 2 = 0 → hd.testBit 26 = false → used = true → fseq = (v.ack + 1) % 4096 →
          exec (.frameReceive p t fec bytes) s = .next (((((s.at t.toNat).fecCount p.val fec).setPort p.val w).setPort p.val
            { w with ack := fseq, noAck := false, pendRpl := false }).takeSlots p bytes)) ∧
        (frameGood fec bytes = true → bitsOf hd 24 2 = 1 → ∃ s', exec (.frameReceive p t fec bytes) s = .next s' ∧
          s'.port p.val = v.timed t.toNat bytes ∧ s'.fab = s.fab)) ∧
      (v.st = 7 → v.pendRpl = true → v.follow = false → ∃ s', exec (.replayPendingExpiry p) s = .next s' ∧
        s'.port p.val = v.fastRetrain ∧ (∀ k, k ≠ p.val → s'.port k = s.port k) ∧ s'.fab = s.fab) ∧
      (v.st = 7 → v.pendRpl = true → v.follow = true → exec (.replayPendingExpiry p) s = .next (s.followDown p.val)))

/-- TRAINING_FRAME_RECEIVE (R233-R235) on a sub-port that trains completes for every frame, and changes that sub-port and
nothing else of the fabric. A frame that does not decode breaks a run of aligned frames that is not yet 64 long. In ALIGN
a frame with the right pattern is counted to 64, and leads to EXCHANGE once both sides have 64 and this station has its
number. In EXCHANGE a frame of ALIGN is only timed; a neighbour of another split or of this station's own number fails the
training; any other is kept with its credit, releases in a fast retrain what it acknowledges, and leads to DELAY once it
is ready. In DELAY an answered frame counts with the shortest round trip, and once both sides are done the sub-port is UP
with half of that as ONEWAY, and sends again what it still holds, as one resend (R232). -/
def Obligations.TrainingFrames : Prop :=
  ∀ (s : State) (p : Fin 128) (t : BitVec 48) (fec : Fec) (bytes : List Byte), s.present p.val = true →
    let v := s.port p.val
    let w := v.timed t.toNat bytes
    let cut : SubPort := { v with aligned := if 64 ≤ v.aligned then v.aligned else 0 }
    let ts := leAt bytes 18 1
    let fl := leAt bytes 19 1
    let la := leAt bytes 60 2
    let echo := leAt bytes 1270 6
    let trip := t.toNat - echo - leAt bytes 1276 4
    let done := fun (x : SubPort) =>
      ∃ s', exec (.trainingFrameReceive p t fec bytes) s = .next s' ∧ s'.port p.val = x ∧
        (∀ k, k ≠ p.val → s'.port k = s.port k) ∧ s'.fab = s.fab ∧ s'.egress = s.egress ∧ s'.mem = s.mem ∧ s'.eng = s.eng
    let fails := fun (reason : Nat) => exec (.trainingFrameReceive p t fec bytes) s =
      .next ((((s.at t.toNat).fecCount p.val fec).setPort p.val w).trainingFails p.val reason)
    (v.st ≠ 4 → v.st ≠ 5 → v.st ≠ 6 → exec (.trainingFrameReceive p t fec bytes) s = .next s) ∧
    (v.st = 4 ∨ v.st = 5 ∨ v.st = 6 → frameGood fec bytes = false → done cut) ∧
    (v.st = 4 ∨ v.st = 5 ∨ v.st = 6 → frameGood fec bytes = true → bitsOf (leAt bytes 0 4) 24 2 = 0 →
      done (cut.timed t.toNat bytes)) ∧
    (v.st = 4 ∨ v.st = 5 ∨ v.st = 6 → frameGood fec bytes = true → bitsOf (leAt bytes 0 4) 24 2 ≠ 0 →
      bitsOf (leAt bytes 0 4) 24 2 ≠ 1 ∨ leAt bytes 16 2 ≠ 1 ∨ (ts ≠ 4 ∧ ts ≠ 5 ∧ ts ≠ 6) → done cut) ∧
    (frameGood fec bytes = true → bitsOf (leAt bytes 0 4) 24 2 = 1 → leAt bytes 16 2 = 1 → ts = 4 ∨ ts = 5 ∨ ts = 6 →
      (v.st = 4 → patternGood bytes = true → v.aligned < 63 → done { w with aligned := v.aligned + 1 }) ∧
      (v.st = 4 → patternGood bytes = false → v.aligned < 64 → done { w with aligned := 0 }) ∧
      (v.st = 4 → patternGood bytes = true → 63 ≤ v.aligned → s.fab.snLock = true → fl.testBit 6 = true ∨ ts = 5 ∨ ts = 6 →
        done { ({ w with reason := 6 }).enter 5 0 with aligned := 64 }) ∧
      (v.st = 4 → patternGood bytes = true → 63 ≤ v.aligned → s.fab.snLock = false ∨ (fl.testBit 6 = false ∧ ts = 4) →
        done { w with aligned := 64, reason := 6 }) ∧
      (v.st = 5 → ts = 4 → done w) ∧
      (v.st = 5 → ts ≠ 4 → bitsOf fl 0 2 ≠ (s.pctl (p.val / 4)).split → fails 4) ∧
      (v.st = 5 → ts ≠ 4 → bitsOf fl 0 2 = (s.pctl (p.val / 4)).split → leAt bytes 20 3 = s.station → fails 5) ∧
      (v.st = 5 → ts ≠ 4 → bitsOf fl 0 2 = (s.pctl (p.val / 4)).split → leAt bytes 20 3 ≠ s.station →
        let x : SubPort := { (if v.fast && !la.testBit 15 then w.release (la % 4096) else w) with
          ready := true, nbrSn := leAt bytes 20 3, nbrPid := leAt bytes 23 1 % 128, nbrEpoch := leAt bytes 24 2,
          cred0 := (List.range 8).map fun i => leAt bytes (28 + 4 * i) 4 }
        (fl.testBit 4 = false → done x) ∧
        (fl.testBit 4 = true → done { x.enter 6 0 with ready := true })) ∧
      (v.st = 6 →
        let x : SubPort := if ts = 6 ∧ v.sentAt.contains echo = true then
          { w with dcount := v.dcount + 1, best := if v.dcount = 0 then trip else min v.best trip } else w
        let enough := (if v.fast then 32 else 256) ≤ x.dcount
        (¬ enough ∨ fl.testBit 5 = false → done { x with ddone := decide enough }) ∧
        (enough → fl.testBit 5 = true → done { ({ x with ddone := true }).enter 7 0 with
          oneway := x.best / 2 % 2 ^ 32, resend := v.held.map (·.1),
          rplNext := v.held.head?.map (fun y => (y.1 + 4095) % 4096), fast := false, retry := false, fails := 0,
          retrains := if v.fast then v.retrains else 0 })))

/-- What else moves a training (R221, R233): a limit that runs fails it with the reason of its state; lanes that show
signal take a sub-port from DETECT to ELEC, a lost lane retrains one that is UP, or takes it down where it follows its
neighbour (R496); a good equalisation leads to ALIGN; RETRAIN starts full training on the sub-port of an enabled unsplit
port. Leaving service and forwarding (R237, R238, R240): a port whose EN is cleared quiesces what is UP; a sub-port that
has quiesced is DOWN with its epoch one on and nothing left in its buffers; a packet for another station is queued for the
path that its route entry and its flow choose among the usable ones. -/
def Obligations.TrainingAndQuiesce : Prop :=
  (∀ (s : State) (p : Fin 128), s.present p.val = true →
      let v := s.port p.val
      let all := 2 ^ (s.pctl (p.val / 4)).lanes - 1
      (v.st = 3 → exec (.trainingLimitExpiry p) s = .next (s.trainingFails p.val 2)) ∧
      (v.st = 5 ∨ v.st = 6 → exec (.trainingLimitExpiry p) s = .next (s.trainingFails p.val 3)) ∧
      (v.st = 2 → v.lanes ≠ 0 → exec (.trainingLimitExpiry p) s = .next (s.trainingFails p.val 1)) ∧
      (v.st = 2 → v.lanes = 0 → exec (.trainingLimitExpiry p) s = .next s) ∧
      (∀ lanes : BitVec 16, lanes.toNat = all → v.st = 2 → v.fastNext = false → ∃ t, exec (.laneSignalChange p lanes) s = .next t ∧
        (t.port p.val).st = 3 ∧ (t.port p.val).lanes = all) ∧
      (∀ lanes : BitVec 16, lanes.toNat < all → v.st = 7 → v.follow = true → exec (.laneSignalChange p lanes) s =
        .next ((s.setPort p.val { v with lanes := lanes.toNat }).followDown p.val)) ∧
      (∀ lanes : BitVec 16, lanes.toNat < all → v.st = 7 → v.follow = false → ∃ t, exec (.laneSignalChange p lanes) s = .next t ∧
        (t.port p.val).st = 4 ∧ (t.port p.val).fast = true ∧ (t.port p.val).held = v.held) ∧
      (v.st = 3 → ∃ t, exec (.equalisationDone p true) s = .next t ∧ (t.port p.val).st = 4 ∧
        (∀ k, k ≠ p.val → t.port k = s.port k)) ∧
      (v.st = 3 → exec (.equalisationDone p false) s = .next (s.trainingFails p.val 2)) ∧
      (∀ n : Fin 32, (s.pctl n.val).split = 0 → (s.pctl n.val).en = true →
        exec (.retrain n) s = .next (s.trainFull (4 * n.val) false 0))) ∧
  ((∀ (s : State) (n : Fin 32), (s.pctl n.val).split = 0 → (s.port (4 * n.val)).st = 7 →
      ∃ t, exec (.wenPortDisable n) s = .next t ∧ (t.pctl n.val).en = false ∧ (t.port (4 * n.val)).st = 8 ∧
        (∀ k, k ≠ 4 * n.val → t.port k = s.port k) ∧ t.egress = s.egress) ∧
    (∀ (s : State) (p : Fin 128), (s.port p.val).st = 8 → ∃ t, exec (.subportQuiesceDone p) s = .next t ∧
      (t.port p.val).st = 1 ∧ (t.port p.val).epoch = ((s.port p.val).epoch + 1) % 65536 ∧ (t.port p.val).held = [] ∧
        (t.port p.val).tx = [] ∧ (t.port p.val).rx = []) ∧
    (∀ (s : State) (k : Packet) (path : Nat), packetOk k = true → k.dst.toNat ≠ s.station → s.fab.inbox.contains k = false →
      s.fab.loop.contains k = false → s.fab.kept.contains k = false →
      s.route k = .inl path →
      ∃ t, exec (.packetForward k) s = .next t ∧ t.egress = s.egress ++ [⟨k, path, s.now, k.path.val⟩] ∧ t.ports = s.ports ∧
        t.fab = s.fab))

/-- ARRIVE, COMPLETE and FAIL (R164-R167, R242). An ARRIVE of a child with the round's parity counts once, and starts T3
with the first; the last one of a station that is not the root sends its ARRIVE upward; one of the other parity changes
nothing and one from no child is malformed. COMPLETE ends the round, where no arrival is held: the parity changes, the
count is 0 and T3 stops. FAIL fails the context with its status. Other closures stay, but that an entry which the failure
ends withdraws what it held (R495). The end-of-step closure also wraps the datum device (R286). STAKE, STENTRY, EPOCH and
CACK (R151, R153, R157, R159, R161, R162, R242, R264): a STAKE slip sets or clears the stake that it names, wherever it
lies, and answers with a CACK where that is asked for; of a running context it changes only that one; an EPOCH abandons
every stake with a remote owner in its contexts, and leaves each stake its state or makes it ABANDONED; a CACK of FLOW 0
takes its slip off the outstanding ones, and the last one of a queue ends the entry that waits for it; an STENTRY does
nothing where the die's queue is not bound to its tract, else the die's queue moves on, and every parcel fed by it runs
the entry or holds it behind its head, without waiting for earlier ones. -/
def Obligations.SlipsReceived : Prop :=
  (∀ (s : State) (k : Packet), let cid := pf k 0 2 % 1024
      let c := s.closure cid
      let s0 := s.take k
      let ends := s.brg.role && s.brg.run && s.brg.valid && s.brg.cid == cid
      c.st = .opened → c.ctx = bitsOf (pf k 0 2) 10 3 →
      (s.handles k 0x11 → closureSlipOk k false = true →
        let v : Closure := { c with count := c.count + 1, t3 := true, t3limit := if c.t3 then c.t3limit else s.t3For c.limit }
        (k.src.toNat ∉ c.child → exec (.arrive k) s = .next (s0.malformed k)) ∧
        (k.src.toNat ∈ c.child → (pf k 0 2).testBit 13 ≠ c.parity → exec (.arrive k) s = .next s0) ∧
        (k.src.toNat ∈ c.child → (pf k 0 2).testBit 13 = c.parity → c.count + 1 ≠ c.total →
          exec (.arrive k) s = .next (s0.setClosure cid v)) ∧
        (k.src.toNat ∈ c.child → (pf k 0 2).testBit 13 = c.parity → c.count + 1 = c.total → c.parent ≠ 0xFFFFFF →
          exec (.arrive k) s = .next ((s0.setClosure cid v).slip c.parent 0x11 0 c.ctx (closureBody cid c.ctx c.parity 0)))) ∧
      (s.handles k 0x12 → closureSlipOk k false = true → k.src.toNat = c.parent → (pf k 0 2).testBit 13 = c.parity →
        exec (.complete k) s = .next (((s0.roundDone cid).closureEnds cid false).closureCheck 2 cid) ∧
        (ends = false → c.heldOrder = [] → 0 < c.total →
          ∃ t, exec (.complete k) s = .next t ∧
            t.closure cid = { c with parity := !c.parity, count := 0, t3 := false, heldOrder := [] } ∧
            (∀ j, j ≠ cid → t.closure j = s.closure j))) ∧
      (s.handles k 0x13 → closureSlipOk k true = true →
        exec (.fail k) s = .next (s0.closureFail cid (pf k 2 2) (some k.src.toNat)) ∧
        (ends = false → ∃ t, exec (.fail k) s = .next t ∧
          t.closure cid = { c with st := .failed (pf k 2 2), t3 := false, heldOrder := [] } ∧
          (∀ j, j ≠ cid → ({ t.closure j with heldOrder := [] } : Closure) = { s.closure j with heldOrder := [] })))) ∧
  ((∀ (s : State) (k : Packet) (h : Nat), s.handles k 0x16 → stakeSlipOk k = true → (s.take k).slipHolder k = some h →
      let i := pf k 4 1
      let want : StakeSt := if pf k 5 1 = 0 then .set else .clear
      let s1 := (s.take k).stakeOpAny h i (pf k 5 1 == 0)
      (pf k 6 1 = 0 → exec (.stake k) s = .next s1) ∧
      (pf k 6 1 = 1 → exec (.stake k) s = .next
        (s1.sendOn (s1.packet 4 k.src.toNat 2 0 k.ctx.toNat (bytesAt (1 :: bytesAt k.body 0 6) 0 48)))) ∧
      ((s.ctx (keyCtx h)).st = .running → pf k 6 1 = 0 → (s.stake h i).st = .abandoned →
        ∃ t, exec (.stake k) s = .next t ∧ t.eng = s.eng) ∧
      ((s.ctx (keyCtx h)).st = .running → pf k 6 1 = 0 → (s.stake h i).st ≠ .abandoned → s.waiters h i = [] →
        ∃ t, exec (.stake k) s = .next t ∧ (t.stake h i).st = want ∧
          (∀ h' i', (h', i') ≠ (h, i) → t.stake h' i' = s.stake h' i') ∧ t.mem = s.mem ∧ t.cols = s.cols)) ∧
    (∀ (s : State) (k : Packet), s.handles k 5 → (unitRef (pf k 0 4)).isSome = true → tailZero k 7 = true →
      exec (.epoch k) s =
        .next ((s.take k).abandonAll fun key e => bit e 21 && (pf k 6 1).testBit (keyCtx key)).colAbandonCheck ∧
      ((∀ c, c < 8 → (s.ctx c).inImage = false) →
        ∃ t, exec (.epoch k) s = .next t ∧
          (∀ key i, bit (s.stake key i).entry 21 = true → (pf k 6 1).testBit (keyCtx key) = true → i < 48 →
            (t.stake key i).st = .abandoned) ∧
          (∀ key i, (t.stake key i).entry = (s.stake key i).entry) ∧
          (∀ key i, (t.stake key i).st = (s.stake key i).st ∨ (t.stake key i).st = .abandoned))) ∧
    (∀ (s : State) (k : Packet) (x : Nat × List Byte), s.handles k 2 → pf k 0 1 = 1 → pf k 7 1 = 0 → k.flow = 0 →
      (s.fab.acks.find? fun j => keyCtx (j.1 / 4) == k.ctx.toNat && j.2 == bytesAt k.body 1 6) = some x →
      let key := x.1 / 4
      let q := ixQ (x.1 % 4)
      let s1 : State := { s.take k with fab := { (s.take k).fab with acks := s.fab.acks.erase x } }
      ((s.fab.acks.erase x).any (fun j => j.1 == x.1) = true → exec (.cack k) s = .next s1) ∧
      (∀ a e, (s.fab.acks.erase x).any (fun j => j.1 == x.1) = false → (s.ctx k.ctx.toNat).st = .running →
        (s.queue key q).head = some ⟨a, e, .ack⟩ →
        exec (.cack k) s = .next (s1.leaveHead (keyCtx key) (keyUnit key) q))) ∧
    (∀ (s : State) (k : Packet), s.handles k 0x15 → stentryOk k = true → (Map.find s.stracts (pf k 0 2)).isSome = true →
      let q := ixQ (pf k 2 1)
      let c := k.ctx.toNat
      let w := s.queue (engKey c 17476) q
      (w.fed = false → exec (.stentry k) s = .next (s.take k)) ∧
      (w.fed = true → s.runsIn c 17476 = true →
        exec (.stentry k) s = .next ((((s.take k).advance c 17476 q).count (ctrBase 17476 + 3)).passAll c 17476 q w.pc
          (BitVec.ofNat 128 (pf k 16 16)) fun s c p a e => s.runEntry c p a q e))))

/-- Firmware messages (R243, R441): STJOIN records its handle and STLEAVE forgets it, once for each MSEQ of a sender; a
ROUTEPUSH of a listed source whose payload ROUTE_LOAD accepts writes its route entries and no other, any other none; a
RELAY leaves on the management port; a MACK takes the message that it names off the waiting list, and ends its command at
once with a refusal (a station tract that is refused is not set up, R371) or, where no other message of the command waits,
with DONE; a message that waits too long is sent again at most three times. -/
def Obligations.FirmwareMessages : Prop :=
  (∀ (s : State) (k : Packet), s.handles k 3 → fwOk k = true →
    let b := fwPayload k
    let old := s.fab.answered.find? fun a => a.1 == k.src.toNat && a.2.1 == pf k 0 4
    (k.flow = 1 → fwLen k = 12 → 5 ≤ leAt b 5 1 → leAt b 5 1 ≤ 10 → leAt b 6 1 < 8 → leAt b 7 1 = 0 →
      ∃ t, exec (.stjoin k) s = .next t ∧ (old.isSome = true → t.stracts = s.stracts) ∧
        (old = none → s.stracts.length < 256 → Map.find t.stracts (leAt b 0 2) = some ⟨leAt b 2 3, leAt b 5 1, []⟩ ∧
          (∀ h, h ≠ leAt b 0 2 → Map.find t.stracts h = Map.find s.stracts h))) ∧
    (k.flow = 2 → fwLen k = 2 → ∃ t, exec (.stleave k) s = .next t ∧ (old.isSome = true → t.stracts = s.stracts) ∧
      (old = none → Map.find t.stracts (leAt b 0 2) = none ∧
        (∀ h, h ≠ leAt b 0 2 → Map.find t.stracts h = Map.find s.stracts h))) ∧
    (k.flow = 3 → fwLen k = 8 + 4 * leAt b 4 2 → old = none →
      1 ≤ leAt b 4 2 → leAt b 4 2 ≤ 1022 → leAt b 2 2 + leAt b 4 2 ≤ 8192 → (leAt b 0 1).testBit 0 = true →
      ∃ t, exec (.routepush k) s = .next t ∧ t.fab.rtr = s.fab.rtr ∧
        ((Config.routeSources (s.activeDigest 5)).contains k.src.toNat = false ∨ paramsOk 0x0402 b = false →
          t.fab.rtl = s.fab.rtl) ∧
        ((Config.routeSources (s.activeDigest 5)).contains k.src.toNat = true → paramsOk 0x0402 b = true →
          (∀ i, i < leAt b 4 2 → bitsOf (leAt b (8 + 4 * i) 4) 28 3 ≤ 4 →
            Map.getD t.fab.rtl (leAt b 2 2 + i) 0 = leAt b (8 + 4 * i) 4 % 2 ^ 31) ∧
          (∀ j, j < leAt b 2 2 ∨ leAt b 2 2 + leAt b 4 2 ≤ j → Map.getD t.fab.rtl j 0 = Map.getD s.fab.rtl j 0))) ∧
    (k.flow = 4 → fwLen k = 256 → old = none → s.mod.mgmtUp = true →
      ∃ t, exec (.relay k) s = .next t ∧ t.out = .report b :: s.out) ∧
    (∀ w, k.flow = 5 → fwLen k = 8 → pf k 6 1 = 0 → w.cmd = none →
      (s.fab.waiting.find? fun w => w.mseq == leAt b 0 4 && w.dst == k.src.toNat && w.chan == leAt b 6 2) = some w →
      exec (.mack k) s = .next { s.take k with fab := { (s.take k).fab with waiting := s.fab.waiting.erase w } }) ∧
    (∀ w r, k.flow = 5 → fwLen k = 8 → pf k 6 1 = 0 → w.cmd = some r → r ∈ s.cmd.started →
      (s.fab.waiting.find? fun w => w.mseq == leAt b 0 4 && w.dst == k.src.toNat && w.chan == leAt b 6 2) = some w →
      let s1 : State := { s.take k with fab := { (s.take k).fab with waiting := s.fab.waiting.erase w } }
      (leAt b 4 2 ≠ 0 → exec (.mack k) s =
        .next ((if r.op = 0x0403 then s1.giveUp r else s1).finish r (leAt b 4 2))) ∧
      (leAt b 4 2 = 0 → (s.fab.waiting.erase w).any (fun x => x.cmd == some r) = false →
        exec (.mack k) s = .next (s1.finish r 0)) ∧
      (leAt b 4 2 = 0 → (s.fab.waiting.erase w).any (fun x => x.cmd == some r) = true → exec (.mack k) s = .next s1))) ∧
  (∀ (s : State) (m : BitVec 32) (w : FwMsg), (s.fab.waiting.find? fun w => w.mseq == m.toNat) = some w →
    (w.tries < 3 → ∃ t, exec (.fwmsgRetryExpiry m) s = .next t ∧
      t.fab.waiting = s.fab.waiting.map (fun x => if x = w then { x with tries := x.tries + 1 } else x) ∧ t.cmd = s.cmd) ∧
    (3 ≤ w.tries → w.cmd = none → exec (.fwmsgRetryExpiry m) s =
      .next { s with fab := { s.fab with waiting := s.fab.waiting.erase w } }) ∧
    (∀ r, 3 ≤ w.tries → w.cmd = some r → r ∈ s.cmd.started →
      let s1 : State := { s with fab := { s.fab with waiting := s.fab.waiting.erase w } }
      exec (.fwmsgRetryExpiry m) s = .next ((if r.op = 0x0403 then s1.giveUp r else s1).finish r 0x0761)))

/-- DATA (R245, R257, R261-R263, R271, R273) for a collective open in the packet's context: a packet of another epoch than
the recorded one is counted and dropped; one of a run that has ended is dropped, and one of a run not yet armed is
answered with a notice. Taken in the current run whose plan can be read (its lines are read first, R179), where the
addresses it writes are admitted (R178): ROLE 0 gives its tile to the merge; ROLE 2 writes its bytes at DEST + BOFF and no
other byte; ROLE 3 writes a row's piece and its tag; ROLE 4 writes the count word of its rank. A refused address fails the
run with its status. A permute packet without room in scratch waits where it is (R274). -/
def Obligations.DataPackets : Prop :=
  ∀ (s : State) (k : Packet) (c : Col), s.handles k 1 → dataOk k = true → s.col k.flow.toNat = some c → c.waiting = false →
    c.r.ctx = k.ctx →
    let h := k.flow.toNat
    let s0 := s.take k
    let c1 : Col := { c with epochs := Map.put c.epochs k.src.toNat k.sepoch.toNat }
    let s1 := (s.planRanges c.r).foldl (fun s x => s.access .collective false x.1 x.2) (s0.setCol h c1)
    let ctx := c.r.ctx.toNat
    let live := s.planStatus c.r = 0 ∧ (Map.find c.epochs k.src.toNat = none ∨ Map.find c.epochs k.src.toNat = some k.sepoch.toNat) ∧
      c.runCheck (pf k 4 2) = .inl ()
    (s.permWaits k = true → exec (.data k) s = .next s) ∧
    (∀ e, Map.find c.epochs k.src.toNat = some e → e ≠ k.sepoch.toNat →
      exec (.data k) s = .next (s0.count (ctrPort k.path.val + 14))) ∧
    (Map.find c.epochs k.src.toNat = some k.sepoch.toNat → c.runCheck (pf k 4 2) = .inr true →
      exec (.data k) s = .next ((s0.setCol h c1).noticeOf k 0x0325 k.path.val)) ∧
    (Map.find c.epochs k.src.toNat = some k.sepoch.toNat → c.runCheck (pf k 4 2) = .inr false →
      exec (.data k) s = .next ((s0.setCol h c1).count (ctrDev 51))) ∧
    (live → dRole k = 0 → c.sums = true → exec (.data k) s = .next (s1.acceptTile h (dTidx k) (pf k 8 3) (pf k 6 2)
      (pf k 3 1 % 4) ((pf k 3 1).testBit 2) (dLen k) (c.tileOf (dPayload k)).1 (c.tileOf (dPayload k)).2 false)) ∧
    (∀ o, live → dRole k = 2 → c.gathers = true → s.ownerIn c.r (dBoff k / 16) = some o → o ≠ c.r.rank.toNat →
      dBoff k + dLen k ≤ 16 * ((s.shard c.r o).1 + (s.shard c.r o).2) →
      Map.getD c.cur.bytes o 0 + dLen k ≤ 16 * (s.shard c.r o).2 →
      s.rangeStatus ctx (c.r.dest.toNat + dBoff k) (dLen k) = 0 →
      ∃ t, exec (.data k) s = .next t ∧ t.mem.readN (c.r.dest.toNat + dBoff k) (dLen k) = dPayload k ∧
        (∀ a, a < c.r.dest.toNat + dBoff k ∨ c.r.dest.toNat + dBoff k + dLen k ≤ a → t.mem.read a = s.mem.read a) ∧
        (∃ c', t.col h = some c' ∧ c'.cur.bytes = Map.put c.cur.bytes o (Map.getD c.cur.bytes o 0 + dLen k) ∧ c'.st = c.st) ∧
        t.eng = s.eng) ∧
    (∀ rank, live → dRole k = 3 → c.isA2a = true →
      ((List.range c.r.nmem.toNat).find? fun o => s.member c.r o == k.src.toNat) = some rank →
      dTidx k / max 1 c.r.cap.toNat = rank → dBoff k + dLen k ≤ c.rowBytes → Map.find c.cur.counts rank = none →
      Map.getD c.cur.bytes rank 0 + dLen k ≤ c.r.cap.toNat * c.rowBytes →
      let a := c.r.dest.toNat + dTidx k * c.rowBytes + dBoff k
      let b := c.r.dtag.toNat + 4 * dTidx k
      s.rangeStatus ctx a (dLen k) = 0 → s.rangeStatus ctx b 4 = 0 →
      ∃ t, exec (.data k) s = .next t ∧ t.mem = (s.mem.writeN a (dPayload k)).writeN b (toLE 4 (pf k 16 4)) ∧
        t.col h = some { c1 with cur := { c.cur with
          bytes := Map.put c.cur.bytes rank (Map.getD c.cur.bytes rank 0 + (dPayload k).length) } } ∧ t.eng = s.eng) ∧
    (∀ rank, live → dRole k = 4 → c.isA2a = true →
      ((List.range c.r.nmem.toNat).find? fun o => s.member c.r o == k.src.toNat) = some rank →
      Map.find c.cur.counts rank = none → Map.getD c.cur.bytes rank 0 ≤ bitsOf (pf k 16 4) 0 16 * c.rowBytes →
      let a := c.r.rcnt.toNat + 4 * rank
      (s.rangeStatus ctx a 4 ≠ 0 → exec (.data k) s =
        .next (s1.colStop h a (s.rangeStatus ctx a 4))) ∧
      (s.rangeStatus ctx a 4 = 0 → ∃ t, exec (.data k) s = .next t ∧ t.mem = s.mem.writeN a (toLE 4 (pf k 16 4)) ∧
        t.col h = some { c1 with cur := { c.cur with counts := Map.put c.cur.counts rank (pf k 16 4) } } ∧ t.eng = s.eng))

/-- NOTICE and SLIPRED (R245, R256, R260, R261, R275, R276): a notice about DATA, or CACK of a FLOW that is not 0, fails
the run of its collective with its status: COMPLETE, the number of the station that it names, the record at CADR, where an
access is admitted, and no other byte of memory; one about a firmware message ends what waits for its answer. A slip of a
child in the current run is combined into what has arrived; one for the next run of a SLIP collective at rest is held; one
of another epoch than the recorded one is counted and dropped. -/
def Obligations.NoticesAndReductions : Prop :=
  (∀ (s : State) (k : Packet) (c : Col), s.handles k 4 →
    leAt k.body 8 1 = 1 ∨ (leAt k.body 8 1 = 2 ∧ leAt k.body 6 2 ≠ 0) →
    let h := leAt k.body 6 2 % 4096
    s.col h = some c → c.waiting = false → c.st = .armed ∨ c.st = .running →
    let c1 : Col := { c with cur := { c.cur with failsn := leAt k.body 2 3, pos := [], held := [], stagedQ := [] } }
    ∃ t, exec (.notice k) s = .next t ∧
      t.col h = some { c1 with st := .complete, cur := { c1.cur with status := leAt k.body 0 2 } } ∧
      (∀ j, j ≠ h → t.col j = s.col j) ∧
      (s.rangeStatus c.r.ctx.toNat c.r.cadr.toNat 32 = 0 → (∀ x ∈ s.stagingWaiters h, (s.ctx (keyCtx x)).st = .running) →
        t.mem = s.mem.writeN c.r.cadr.toNat (s.colRecord c1 (leAt k.body 0 2) 0)) ∧
      (s.rangeStatus c.r.ctx.toNat c.r.cadr.toNat 32 ≠ 0 → (∀ x ∈ s.stagingWaiters h, (s.ctx (keyCtx x)).st = .running) →
        t.mem = s.mem)) ∧
  (∀ (s : State) (k : Packet), s.handles k 4 →
    (leAt k.body 8 1 ≠ 1 → (leAt k.body 8 1 = 2 → leAt k.body 6 2 = 0) → leAt k.body 8 1 ≠ 3 →
      exec (.notice k) s = .next (s.take k)) ∧
    (∀ w, leAt k.body 8 1 = 3 →
      ((s.take k).fab.waiting.filter fun w => w.chan == leAt k.body 6 2 && w.dst == leAt k.body 9 3) = [w] →
      exec (.notice k) s = .next ((s.take k).messageEnds w (leAt k.body 0 2)))) ∧
  (∀ (s : State) (k : Packet) (c : Col), s.handles k 0x14 →
    let h := pf k 0 2 % 4096
    let bs := bytesAt k.body 16 c.slipForm.2.2
    let c1 : Col := { c with epochs := Map.put c.epochs k.src.toNat k.sepoch.toNat }
    let s1 := (s.take k).setCol h c1
    s.col h = some c → c.waiting = false → c.slipOk k = true →
    (∀ e, Map.find c.epochs k.src.toNat = some e → e ≠ k.sepoch.toNat →
      exec (.slipred k) s = .next ((s.take k).count (ctrPort k.path.val + 14))) ∧
    (Map.find c.epochs k.src.toNat = none ∨ Map.find c.epochs k.src.toNat = some k.sepoch.toNat →
      (pf k 6 1).testBit 6 = false → k.src.toNat ∈ c.schild →
      (c.st = .running → pf k 2 2 = c.run → k.src.toNat ∉ c.cur.slipFrom → c.cur.slipOwn = false →
        exec (.slipred k) s = .next (s1.setCol h { c1 with cur := { c.cur with
          slip := if c.cur.slip.isEmpty then slipRead c.slipForm.1 c.slipForm.2.1 bs else slipCombine c.slipForm.1 c.slipForm.2.1 c.cur.slip bs
          slipFrom := c.cur.slipFrom ++ [k.src.toNat] } })) ∧
      (c.isSlip = true → c.st = .idle ∨ c.st = .complete → pf k 2 2 = (c.run + 1) % 65536 →
        (c.early.any fun x => x.1 == k.src.toNat) = false →
        exec (.slipred k) s = .next (s1.setCol h { c1 with early := c.early ++ [(k.src.toNat, bs)] }))))

/-- The open command (R189, R249-R252, R260, R278): an open that passes every check waits for the admission round and has
no receipt yet, its wait limit the given one or T3, its plan read by accesses of the control class (R179); the others end
with the status of the first check that fails, and an uncorrectable plan goes into the fault log. The admission round
(R253, R254): afterwards nothing waits, and the slots granted in all never pass 4,096; an RS or AR collective that waits
alone is granted SREQ slots where so many are free to it, else what is free down to SMIN, else none; the other kinds are
granted none. -/
def Obligations.CollectiveOpens : Prop :=
  ((∀ (s : State) (h : Hdr) (rec : ColRec) (schild : List (BitVec 24)) (r : Started),
      Admitted s h 0x0407 (Instr.params (.colOpen h rec schild)) r →
      (∀ st, s.openStatus rec schild = some st → st ≠ 0x0723 → exec (.colOpen h rec schild) s = .next (s.finish r st)) ∧
      (s.openStatus rec schild = some 0x0723 → exec (.colOpen h rec schild) s = .next ((s.planUnc rec).finish r 0x0723)) ∧
      (recordOk rec schild = false ∨ s.recordPlaces rec = false ∨
          (s.planStatus rec ≠ 0x0723 ∧ (s.planStatus rec ≠ 0 ∨ s.planOk rec = false)) →
        exec (.colOpen h rec schild) s = .next (s.finish r 0x0806)) ∧
      (s.openStatus rec schild = none → ∃ t c, exec (.colOpen h rec schild) s = .next t ∧ t.col rec.handle.toNat = some c ∧
        c.r = rec ∧ c.waiting = true ∧ c.st = .idle ∧ c.run = 0 ∧ c.grant = 0 ∧
        c.limit = (if rec.limit = 0 then s.flt.wlim.getD 3 0 else rec.limit.toNat) ∧
        (∀ j, j ≠ rec.handle.toNat → t.col j = s.col j) ∧ t = { (s.planRead rec).begin r with cols := t.cols }))) ∧
  (∀ (s : State), ∃ t, exec .admissionRound s = .next t ∧
      (∀ h c, t.col h = some c → c.waiting = false) ∧
      (Map.rising s.cols = true → (s.cols.map fun kv => kv.2.grant).sum ≤ 4096 → (t.cols.map fun kv => kv.2.grant).sum ≤ 4096) ∧
      (∀ h c, (s.cols.filter fun kv => kv.2.waiting) = [(h, c)] → s.col h = some c →
        let free := 4096 - (s.cols.map fun kv => kv.2.grant).sum
        let av := if c.r.acls = 0 then free else free - s.freeReserved
        ∃ c', t.col h = some c' ∧ c'.r = c.r ∧ (∀ j, j ≠ h → t.col j = s.col j) ∧
          (c.sums = false → c'.grant = 0 ∧ c'.reason = 0) ∧
          (c.sums = true → 1 ≤ c.r.sreq.toNat → c.r.sreq.toNat ≤ av → c'.grant = c.r.sreq.toNat ∧ c'.reason = 0) ∧
          (c.sums = true → av < c.r.sreq.toNat → max c.r.smin.toNat 1 ≤ av → c'.grant = av ∧ c'.reason = 1) ∧
          (c.sums = true → av < c.r.sreq.toNat → av < max c.r.smin.toNat 1 → c'.grant = 0 ∧ c'.reason = 2)))

/-- Arming, starting and merging (R178, R256, R258, R266, R275): COL_ARM consumes the ARM stake and begins the next run;
an A2A collective then counts no rows. COL_START of a SLIP collective alone at its root runs: its input is the result and
is written at DEST, and no other byte of memory changes. A tile taken from SRC goes to a free position where more
contributions of it are still to come; then nothing but the collective's run and the accesses to its lines changes. On a
drained device no run is armed or started (R426). -/
def Obligations.CollectiveRuns : Prop :=
  ∀ (s : State) (h : BitVec 12) (c : Col), s.col h.toNat = some c → c.waiting = false →
    let ctx := c.r.ctx.toNat
    let open' := fun (x : Nat × Nat) => s.rangeStatus ctx x.1 x.2 = 0
    let reads := fun (x : Nat × Nat) => s.rangeStatus ctx x.1 x.2 = 0 ∧ s.badKeys x.1 x.2 = []
    let own := s.shard c.r c.r.rank.toNat
    (s.flt.drained = true → exec (.colArm h) s = .next s ∧ exec (.colStart h) s = .next s) ∧
    (s.flt.drained = false → c.isSlip = false → c.st = .idle ∨ c.st = .complete → s.refState c c.r.arm.toNat = .set →
      s.refState c c.r.start.toNat ≠ .abandoned →
      exec (.colArm h) s =
        .next (((s.consumeRef c c.r.arm.toNat).setCol h.toNat (c.newRun .armed)).prepare h.toNat (c.newRun .armed)) ∧
      (c.newRun .armed).run = (c.run + 1) % 65536 ∧
      (∀ a, stakeRef ctx c.r.arm.toNat = some a → (s.ctx ctx).st = .running →
        (c.sums = true → s.planStatus c.r = 0 ∧
          ∀ x ∈ c.tileRanges c.r.dest.toNat c.r.dcode.toNat own.1 own.2, open' x) →
        (c.isA2a = true → open' (c.r.rcnt.toNat, 4 * c.r.nmem.toNat)) →
        ∃ t, exec (.colArm h) s = .next t ∧ t.col h.toNat = some (c.newRun .armed) ∧
          (t.stake a.1 a.2).st = .clear ∧ (∀ j, j ≠ h.toNat → t.col j = s.col j) ∧
          (c.isA2a = true → t.mem.readN c.r.rcnt.toNat (4 * c.r.nmem.toNat) = List.replicate (4 * c.r.nmem.toNat) 0 ∧
            ∀ b, b < c.r.rcnt.toNat ∨ c.r.rcnt.toNat + 4 * c.r.nmem.toNat ≤ b → t.mem.read b = s.mem.read b))) ∧
    (s.flt.drained = false → c.isSlip = true → c.st = .idle ∨ c.st = .complete → s.refState c c.r.start.toNat = .set →
      c.schild = [] → c.early = [] → c.r.sparent = 0xFFFFFF → c.r.datumw = false → (s.ctx ctx).st = .running →
      let v := slipRead c.r.sop.toNat c.r.sfmt.toNat (s.mem.readN c.r.src.toNat c.r.slen.toNat)
      reads (c.r.src.toNat, c.r.slen.toNat) → open' (c.r.dest.toNat, v.length) →
      ∃ t c', exec (.colStart h) s = .next t ∧ t.col h.toNat = some c' ∧ c'.st = .running ∧ c'.run = (c.run + 1) % 65536 ∧
        c'.cur.result = true ∧ c'.cur.slip = v ∧ c'.cur.t3 = s.t3For c.limit ∧ c'.limit = c.limit ∧
        t.mem = s.mem.writeN c.r.dest.toNat v) ∧
    (c.st = .running → c.sums = true → c.r.stream = false → 1 ≤ c.grant → c.cur.pos = [] → c.cur.next < c.r.ntile.toNat →
      s.planStatus c.r = 0 → (∀ x ∈ c.tileRanges c.r.src.toNat c.r.scode.toNat c.cur.next 1, reads x) →
      c.cur.first = none ∨ c.cur.first = some (c.cur.ds, c.r.tw.toNat) →
      c.cur.rcv + 1 < s.xt c.r → 1 < (s.mergeOf c.r (s.ownerOf c.r c.cur.next)).2 →
      let vc := c.readTile s.mem c.r.src.toNat c.r.scode.toNat c.cur.next
      let s1 := (s.planRanges c.r ++ c.tileRanges c.r.src.toNat c.r.scode.toNat c.cur.next 1).foldl
        (fun s x => s.access .collective false x.1 x.2) s
      exec (.colTileAccept h) s = .next (s1.setCol h.toNat { c with cur := { c.cur with
        first := some (c.cur.ds, c.r.tw.toNat)
        rcv := c.cur.rcv + 1
        next := c.cur.next + 1
        pos := [⟨c.cur.next, 1, vc.1, vc.2⟩] } })) ∧
    (c.st = .running → c.sums = true → s.planStatus c.r ≠ 0 → s.planStatus c.r ≠ 0x0723 →
      exec (.colTileAccept h) s = .next (s.colStop h.toNat c.r.plan.toNat (s.planStatus c.r))) ∧
    (c.st ≠ .running → exec (.colTileAccept h) s = .next s ∧ exec (.permScratchCopy h) s = .next s)

/-- The end of a run (R24, R178, R259, R260, R274, R492): bytes that waited in scratch are copied to their places; a run
whose conditions hold ends COMPLETE with its record at CADR and its DONE stake set; at T3 it completes all the same, or,
where they do not hold, ends with 0x0506; a run that would end over an uncorrectable vote byte fails with 0x0723. The
record changes no other byte of memory; where an access to it is refused, none is written. -/
def Obligations.CollectiveEnds : Prop :=
  ∀ (s : State) (h : BitVec 12) (c : Col), s.col h.toNat = some c → c.waiting = false → c.st = .running →
    let ctx := c.r.ctx.toNat
    let open' := fun (x : Nat × Nat) => s.rangeStatus ctx x.1 x.2 = 0
    (c.isPerm = true → c.cur.sentAll = true →
      (∀ x ∈ c.cur.held, open' (c.r.scr.toNat + x.2.1, x.2.2) ∧ s.badKeys (c.r.scr.toNat + x.2.1) x.2.2 = [] ∧
        open' (c.r.src.toNat + x.1, x.2.2)) →
      ∃ t, exec (.permScratchCopy h) s = .next t ∧
        t.mem = c.cur.held.foldl (fun m x => m.writeN (c.r.src.toNat + x.1) (m.readN (c.r.scr.toNat + x.2.1) x.2.2)) s.mem ∧
        t.col h.toNat = some { c with cur := { c.cur with held := [], taken := c.cur.taken + c.inScratch } } ∧
        t.eng = s.eng) ∧
    (∀ w : BitVec 48, s.colDone c = false → exec (.colRunComplete h w) s = .next s) ∧
    (∀ (w : BitVec 48) (a : Nat × Nat), s.colDone c = true → stakeRef ctx c.r.done.toNat = some a →
      inFoot (s.ctx ctx).foot (keyUnit a.1) = true → (s.stake a.1 a.2).st = .clear → (s.ctx ctx).st = .running →
      s.waiters a.1 a.2 = [] → (c.sums && s.badIn c.r.voteadr.toNat 1) = false →
      let st := if c.sums && decide (c.grant < c.r.sreq.toNat) then 1 else 0
      ∃ t, exec (.colRunComplete h w) s = .next t ∧
        t.col h.toNat = some { c with st := .complete, cur := { c.cur with status := st } } ∧
        (t.stake a.1 a.2).st = .set ∧
        (open' (c.r.cadr.toNat, 32) → t.mem = s.mem.writeN c.r.cadr.toNat (s.colRecord c st w.toNat)) ∧
        (¬ open' (c.r.cadr.toNat, 32) → t.mem = s.mem)) ∧
    (∀ w : BitVec 48, s.colDone c = true → (c.sums && s.badIn c.r.voteadr.toNat 1) = true →
      exec (.colRunComplete h w) s = .next ((s.lineUnc c.r.voteadr.toNat (codeUnit 17476)).colFailOwn h.toNat 0x0723)) ∧
    (s.colDone c = true → exec (.colT3Expiry h) s = exec (.colRunComplete h (BitVec.ofNat 48 (s.ns - c.cur.lastSend))) s ∨
      2 ^ 48 ≤ s.ns - c.cur.lastSend) ∧
    (s.colDone c = false →
      let c1 : Col := { c with cur := { c.cur with failsn := s.station, pos := [], held := [], stagedQ := [] } }
      ∃ t, exec (.colT3Expiry h) s = .next t ∧
        t.col h.toNat = some { c1 with st := .complete, cur := { c1.cur with status := 0x0506 } } ∧
        (open' (c.r.cadr.toNat, 32) → (∀ x ∈ s.stagingWaiters h.toNat, (s.ctx (keyCtx x)).st = .running) →
          t.mem = s.mem.writeN c.r.cadr.toNat (s.colRecord c1 0x0506 0)))

/-- The bearing of the datum device (R283-R288, R294, R298). RUN starts it: LOCKED, at the first revolution, bearing 0,
with the initial period, and no stakeout has fired. RUN cleared and a change of ROLE leave it UNLOCKED. At the top it
holds. A token goes out on every usable child path, under the next TSEQ, once 1,024 ns have passed since the last one. An
edge at the STEP input is a rise after a low of 100 ns; it is accepted where it comes at least 1,048,576 ns after the last
accepted one, and counted as rejected else. -/
def Obligations.DatumBearing : Prop :=
  ∀ (s : State), s.brg.role = true →
    (∀ t, s.brg.run = false → ∃ u, exec (.bearingRunStart t) s = .next u ∧
      u.brg = { s.brg with
        run := true
        st := .locked
        rev := s.brg.revinit
        b0 := 0
        t0 := max s.now t
        lag := 0
        low := 0
        period := clampPeriod s.brg.pinit
        top := false
        failed := false
        wrapTime := max s.now t
        due := []
        fired := []
        late := []
        gone := []
        lastTok := max s.now t
        tseq := (s.brg.tseq + 1) % 65536 } ∧ u.brg.bearingAt (max s.now t) = 0 ∧ u.eng = s.eng ∧ u.cmd = s.cmd) ∧
    (∀ t, s.brg.run = true → exec (.bearingRunStart t) s = .next s) ∧
    (exec .bearingRunStop s = .next { s with brg := { s.brg.settleNones s.now with
      run := false
      st := .unlocked
      b0 := s.brg.bearingAt s.now
      due := [] } }) ∧
    (∃ u, exec (.bearingUnlock true) s = .next u ∧ u.brg.role = false ∧ u.brg.st = .unlocked ∧ u.brg.due = [] ∧
      u = { s with brg := u.brg }) ∧
    (∀ t, s.now ≤ t → s.brg.valid = true → s.brg.bearingAt t = 0xFFFFFFFF → s.brg.top = false →
      ∃ u, exec (.bearingTop t) s = .next u ∧ u.brg = { s.brg with top := true, topTime := t } ∧
        ∀ x, u.brg.bearingAt x = 0xFFFFFFFF) ∧
    (∀ t, s.brg.run = true → s.brg.valid = true → max s.now t < s.brg.lastTok + 1024 * 256 →
      exec (.benchmarkEmit t) s = .next (s.at t)) ∧
    (∀ t, s.brg.run = true → s.brg.valid = true → s.brg.lastTok + 1024 * 256 ≤ max s.now t →
      ∃ u, exec (.benchmarkEmit t) s = .next u ∧
      u.brg = { s.brg with tseq := (s.brg.tseq + 1) % 65536, lastTok := max s.now t } ∧
      u.egress.map (·.path) = s.egress.map (·.path) ++ s.brg.children.filter s.usable ∧
      (u.egress.drop s.egress.length).all (fun o => o.pkt.ptype == 0x10) = true ∧ u.mem = s.mem) ∧
    (∀ t low, s.brg.step = true → s.now ≤ t → 25600 ≤ low →
      (∀ e, s.brg.edgeTime = some e → 1048576 ≤ (t - e) / 256) →
      ∃ u, exec (.stepEdge t low) s = .next u ∧ u.brg = { s.brg with
        edgeTime := some t
        edgeGap := s.brg.edgeTime.map fun e => (t - e) / 256 }) ∧
    (∀ t low e, s.brg.step = true → s.now ≤ t → 25600 ≤ low → s.brg.edgeTime = some e → (t - e) / 256 < 1048576 →
      exec (.stepEdge t low) s = .next ((s.at t).count (ctrDev 5))) ∧
    (∀ t low, s.brg.step = true → low < 25600 → exec (.stepEdge t low) s = .next (s.at t))

/-- A follower (R290-R294): the first token on its parent path locks it to the token's revolution, with the bearing that
the token's age and the line's delay give; a token of the present revolution keeps the revolution and the rate of the
token; it never runs back. Without a token for 4,096 ns it coasts, its bearing running on, and after LOSS µs without one
it is LOST and its bearing holds (log entry 29). -/
def Obligations.Followers : Prop :=
  ∀ (s : State), s.brg.role = false →
    (∀ (k : Packet) (t : Nat) (tok : Token), k.ptype.toNat = 0x10 → k.dst = 0xFFFFFF → packetOk k = true → tokenOf k = some tok →
      s.brg.tpv = true → s.brg.tparent = k.path.val →
      let w := (s.port k.path.val).oneway
      (s.brg.st = .unlocked → tok.wrap = false → ∃ u, exec (.benchmark k t) s = .next u ∧ u.brg.st = .locked ∧
        u.brg.rev = tok.rev ∧ u.brg.bearingAt t = tok.reference w ∧ u.brg.t0 = t ∧ u.brg.period = tok.period ∧ u.brg.top = tok.hold ∧
        u.brg.src = some (tok.src, tok.sepoch) ∧ u.brg.lastTok = t ∧ u.eng = s.eng) ∧
      (s.brg.st = .locked → s.brg.src = some (tok.src, tok.sepoch) → tok.rev = s.brg.rev → ∃ u, exec (.benchmark k t) s = .next u ∧
        u.brg.st = .locked ∧ u.brg.rev = s.brg.rev ∧ u.brg.period = tok.period ∧ u.brg.lastTok = t ∧
        u.brg.bearingAt t = max (s.brg.bearingAt t) (tok.reference w) ∧
        (tok.hold = true → ∀ x, u.brg.bearingAt x = 0xFFFFFFFF) ∧
        (tok.hold = false → ∀ x, u.brg.bearingAt x = max (s.brg.bearingAt t)
          (min 0xFFFFFFFF (tok.brg + (tok.age + w + (x - t)) * 2 ^ 32 / (max 1 tok.period * 256)))) ∧ u.eng = s.eng)) ∧
    (∀ (k : Packet) (t : Nat), k.ptype.toNat = 0x10 → k.dst = 0xFFFFFF → packetOk k = true → (tokenOf k).isSome = true →
      s.brg.tpv = false ∨ s.brg.tparent ≠ k.path.val → exec (.benchmark k t) s = .next (s.take k)) ∧
    (∀ t, s.now ≤ t → s.brg.st = .locked → s.brg.lastTok + 4096 * 256 ≤ t → ∃ u, exec (.bearingCoast t) s = .next u ∧
      u.brg = { s.brg with st := .coast } ∧ ∀ x, u.brg.bearingAt x = s.brg.bearingAt x) ∧
    (∀ t, s.now ≤ t → s.brg.st = .coast → s.brg.lastTok + s.brg.loss * 256000 ≤ t →
      ∃ u, exec (.bearingLost t) s = .next u ∧ u.brg.st = .lost ∧ u.brg.rev = s.brg.rev ∧ u.brg.valid = false ∧
        ∀ x, u.brg.bearingAt x = s.brg.bearingAt t) ∧
    (∃ u, exec (.bearingUnlock false) s = .next u ∧ u.brg.st = .unlocked ∧ u.brg.tpv = false ∧ u = { s with brg := u.brg })

/-- Stakeout entries (R295, R296): a write of W3 commits the four staged words at once, W2 without its reserved bits,
unless they hold a reserved ACTION or an OPPOINT to P6 or P7, which leaves the committed entry as it was; an entry
committed after its bearing has passed does not fire in that revolution; while the device is not READY the write has no
effect (R381). STAKEOUT_WRITE does the same with its four words, unless a register write of the entry came in the same
clock, which prevails (R379). STAKEOUT_READ returns the committed words, with EN clear in an entry of ACTION 0 with ONCE
that has fallen due. -/
def Obligations.StakeoutEntries : Prop :=
  (∀ (s : State) (n : Fin 256) (w3 : BitVec 32), s.brg.dueStill = [] → s.brg.dueAt s.now = [] →
    let ws := (s.brg.stage n.val).set 3 w3.toNat
    (s.brg.stage n.val).length = 4 →
    (s.mod.ready = false → exec (.brgStkCommit n w3) s = .next (s.hostFault (0x71000 + 16 * n.val + 12))) ∧
    (s.mod.ready = true → stakeoutOk (ws.getD 2 0) w3.toNat = true → ∃ t, exec (.brgStkCommit n w3) s = .next t ∧
      Map.find t.brg.stk n.val = some ws ∧ (∀ m, m ≠ n.val → Map.find t.brg.stk m = Map.find s.brg.stk m) ∧
      Map.find t.brg.late n.val = (if s.brg.valid && decide (ws.getD 0 0 < s.brg.bearingAt s.now) then some s.brg.rev else none) ∧
      Map.find t.brg.bar0At n.val = some s.now ∧ t = { s with brg := t.brg }) ∧
    (s.mod.ready = true → stakeoutOk (ws.getD 2 0) w3.toNat = false → ∃ t, exec (.brgStkCommit n w3) s = .next t ∧ t.brg.stk = s.brg.stk ∧
      t.brg.late = s.brg.late)) ∧
  (∀ (s : State) (h : Hdr) (n : Byte) (w0 w1 w2 w3 : BitVec 32) (r : Started),
    Admitted s h 0x0501 (Instr.params (.stakeoutWrite h n w0 w1 w2 w3)) r →
    (stakeoutOk w2.toNat w3.toNat = false → exec (.stakeoutWrite h n w0 w1 w2 w3) s = .next (s.finish r 0x0801)) ∧
    (stakeoutOk w2.toNat w3.toNat = true → Map.find s.brg.bar0At n.toNat = some s.now →
      exec (.stakeoutWrite h n w0 w1 w2 w3) s = .next (s.finish r 0)) ∧
    (stakeoutOk w2.toNat w3.toNat = true → Map.find s.brg.bar0At n.toNat ≠ some s.now → s.brg.dueStill = [] →
      s.brg.dueAt s.now = [] → (s.brg.stage n.toNat).length = 4 →
      ∃ t b, exec (.stakeoutWrite h n w0 w1 w2 w3) s = .next t ∧ t = ({ s with brg := b } : State).finish r 0 ∧
        Map.find b.stk n.toNat = some [w0.toNat, w1.toNat, w2.toNat % 2 ^ 9, w3.toNat] ∧
        (∀ m, m ≠ n.toNat → Map.find b.stk m = Map.find s.brg.stk m))) ∧
  (∀ (s : State) (h : Hdr) (n : Byte) (r : Started), Admitted s h 0x0502 (Instr.params (.stakeoutRead h n)) r →
    exec (.stakeoutRead h n) s = .next (s.finish r 0 (let b := s.brg.settleNones s.now
      toLE 4 (b.word n.toNat 0) ++ toLE 4 (b.word n.toNat 1) ++ toLE 4 (b.word n.toNat 2) ++ toLE 4 (b.word n.toNat 3))))

/-- The actions of a stakeout that is due (R297, R298): each has the effect of its ACTION, and the entry has fired in the
revolution of its issue. SETSTAKE sets its stake; SNAP begins a snapshot; CTXSTART starts a loaded context and CTXPRE
pre-empts a running one; OPPOINT asks for its point; FILLER fires a valid profile; FPFLUSH latches its units; PHASEMARK
writes its record, with the bearing of its own clock, or, of an entry left from a revolution that has ended, of that end
(R293, log entry 143). One that cannot have its effect counts. -/
def Obligations.StakeoutActions : Prop :=
  ∀ (s : State) (n : Fin 256) (t rev : Nat), (s.at t).brg.nextDue (s.at t).now = some (n.val, rev) →
    let a := s.brg.sAction n.val
    let w := s.brg.sParam n.val
    let c := s.brg.sCtx n.val
    let b := ((s.at t).brg.settleNones (s.at t).now).fire (n.val, rev)
    let f : State := { s.at t with brg := b }
    let x := (s.at t).brg.issueAt (n.val, rev) (s.at t).now
    Map.find b.fired n.val = some rev ∧
    (∀ k, a = 1 → s.flt.drained = false → stakeRef c w = some k → inFoot (s.ctx c).foot (keyUnit k.1) = true →
      s.unitBusy (keyUnit k.1) = false →
      exec (.setstake n t) s = .next (f.stakeOpAny k.1 k.2 true) ∧
      ((s.ctx c).st = .running → (s.stake k.1 k.2).st = .clear → s.waiters k.1 k.2 = [] →
        ∃ u, exec (.setstake n t) s = .next u ∧ (u.stake k.1 k.2).st = .set ∧ u.brg = b ∧
          (∀ h i, (h, i) ≠ k → u.stake h i = s.stake h i))) ∧
    (a = 1 → stakeRef c w = none → exec (.setstake n t) s = .next (f.count (ctrDev 4))) ∧
    (a = 2 → s.ctr.copy = none → s.ctr.en = true → s.snapShelfOk s.ctr.shelf = true →
      ∃ u k, exec (.snap n t) s = .next u ∧ u.ctr.copy = some k ∧ k.n = s.ctr.nSnap + 1 ∧ k.tag = bitsOf w 0 8 ∧
        k.stakeout = true ∧ k.bearing = x.1 ∧ k.rev = x.2 ∧ u.ctr.image.isSome = true ∧ u.brg = b) ∧
    (a = 2 → s.ctr.copy.isSome = true → ∃ u, exec (.snap n t) s = .next u ∧ u.ctr.smiss = true ∧ u.ctr.copy = s.ctr.copy) ∧
    (a = 3 → s.d3hot = false → s.flt.drained = false → s.ctxActs = [] → s.ctxMoving = false → (s.ctx c).st = .loaded →
      c < 8 → ∃ u, exec (.ctxstart n t) s = .next u ∧ (u.ctx c).st = .starting ∧ (u.ctx c).fromImage = true ∧ u.brg = b) ∧
    (a = 4 → s.d3hot = false → s.ctxActs = [] → s.ctxMoving = false → (s.ctx c).st = .running →
      ∃ u, exec (.ctxpre n t) s = .next u ∧ (u.ctx c).parking = true ∧ (u.ctx c).st = .running ∧ u.brg = b) ∧
    (a = 5 → s.d3hot = false → s.flt.drained = false →
      exec (.oppointAction n t) s = .next { f with pwr := { s.pwr with req := bitsOf w 0 3, src := true }.retarget }) ∧
    (a = 6 → s.d3hot = false → s.flt.drained = false → s.pwr.fill1 (bitsOf w 0 4) 96 1 = 1 →
      ∃ u, exec (.filler n t) s = .next u ∧
        u.pwr = { s.pwr with fill := some ⟨bitsOf w 0 4, max s.now t, s.pwr.duty (max s.now t), rev, none⟩ } ∧ u.brg = b) ∧
    (a = 6 → s.pwr.fill1 (bitsOf w 0 4) 96 1 = 0 → exec (.filler n t) s = .next (f.count (ctrDev 4))) ∧
    (a = 7 → s.flt.replay = none → ∃ u, exec (.fpflush n t) s = .next u ∧
      ∀ i, i ≤ bitsOf w 8 7 → let j := (bitsOf w 0 7 + i) % 128
        ((s.fp j).busy = true → u.fp j = s.fp j) ∧
        ((s.fp j).busy = false → (s.fp j).scan = false → u.fp j = { s.fp j with lat := (s.fp j).acc, latCnt := (s.fp j).cnt, acc := 0, cnt := 0 }) ∧
        ((s.fp j).busy = false → (s.fp j).scan = true → u.fp j = { s.fp j with busy := true })) ∧
    (a = 8 → s.ctr.en = true →
      s.snapAdmits (shelfAddr s.ctr.shelf (0x3800000 + 32 * ((s.ctr.nPhase + 1) % 262144))) 32 = true → ∃ u, exec (.phasemark n t) s = .next u ∧
      u.mem = s.mem.writeN (shelfAddr s.ctr.shelf (0x3800000 + 32 * ((s.ctr.nPhase + 1) % 262144)))
        (f.phaseRecord (s.ctr.nPhase + 1) (bitsOf w 0 8) x.1 x.2) ∧
      u.ctr.nPhase = s.ctr.nPhase + 1 ∧ u.ctr.peerWait = 0 ∧ u.ctr.thrTime = 0)

/-- The transitions of contexts (R61, R62, R168, R199, R328-R334), where no other context is starting and no action waits:
a pre-empted context at its boundaries is PARKED, its synchronisation state in its save areas and, where no Bindery
descriptor of its own stops on the way, no other byte changed; then, once no pre-empt and no slice-out is under way, the
lowest parked context that is to be sliced out begins its slice-out. A slice-out ends LOADED, with the bytes of its
Fieldbook range and of its save areas in its image, and the units keep no copy but staged tiles and what the image has no
room for (log entry 103); a slice-in ends RUNNING with the bytes of the image in the Fieldbooks, but where the save areas
lie, or, where a segment of the image breaks its rules or a stack refuses access, LOADED. Before its boundaries a pre-empt
changes nothing. -/
def Obligations.ContextTransitions : Prop :=
  ∀ (s : State) (c : Fin 8), s.ctxActs = [] → (∀ d, d ≠ c.val → (s.ctx d).st ≠ .starting) →
    let v := s.ctx c.val
    let units := footParcels v.foot ++ footTracts v.foot
    let fits := v.img + 0x14113000 + 16384 * v.rangeBytes ≤ 0x018000000000
    let legal := v.fblo ≤ v.save ∧ v.save + 0x500 ≤ v.fbhi ∧ v.fbhi ≤ 0xC000
    let stay := ∀ d, d < 8 → d ≠ c.val → (s.ctx d).sliceNext = false
    let after := fun (d : Nat) => if d = c.val then { v with st := .parked, parking := false } else s.ctx d
    let turn := if (List.range 8).any (fun d => (after d).st == .slicing || ((after d).st == .running && (after d).parking)) then none
      else (List.range 8).find? fun d => (after d).sliceNext && (after d).st == .parked
    (v.st = .running → v.parking = true → s.atBoundary c.val = true → ∃ t, exec (.ctxParked c) s = .next t ∧
      (∀ d, t.ctx d = if turn = some d then { after d with st := .slicing, sliceNext := false } else after d) ∧
      ((∀ h r, h < 12 → (s.bindery h).cur = some r → r.ctx ≠ some c.val) →
        ∀ a, (∀ p ∈ footParcels v.foot, a < v.saveAddr p ∨ v.saveAddr p + 20480 ≤ a) → t.mem.read a = s.mem.read a) ∧
      (legal → ∀ p ∈ footParcels v.foot,
        t.mem.readN (v.saveAddr p + 18688) 896 = (t.engOf (engKey c.val p)).sync.bytes)) ∧
    (s.atBoundary c.val = false → exec (.ctxParked c) s = .next s) ∧
    (v.st = .slicing → s.imageStatus v ≠ 0 → exec (.ctxSliceOutDone c) s = .next s) ∧
    (v.st = .slicing → s.imageStatus v = 0 → s.bad = [] → fits → stay → ∃ t, exec (.ctxSliceOutDone c) s = .next t ∧
      t.ctx c.val = { v with st := .loaded, nslice := min 255 (v.nslice + 1) } ∧ (∀ d, d ≠ c.val → t.ctx d = s.ctx d) ∧
      (∀ p j, p ∈ footParcels v.foot → j < v.rangeBytes →
        t.mem.read (v.areaAddr p + j) = s.mem.read (granAddr p v.fblo + j)) ∧
      (legal → ∀ p j, p ∈ footParcels v.foot → j < 20480 → t.mem.read (v.blockAddr p + j) = s.mem.read (v.saveAddr p + j)) ∧
      (∀ u ∈ units, t.engOf (engKey c.val u) = (s.engOf (engKey c.val u)).left)) ∧
    (v.st = .starting → v.fromImage = true → s.clearFor c.val = true → s.bad = [] → stay →
      let s0 := s.imageAccess c.val false
      (s.imageStatus v ≠ 0 ∨ (s0.copyIn v).blocksIn c.val = none →
        ∃ t, exec (.ctxSliceInDone c) s = .next t ∧ t.ctx c.val = { v with st := .loaded, fromImage := false, parkNext := false } ∧
          t.mem = s.mem ∧ t.eng = s.eng) ∧
      (∀ s1, v.parkNext = false → s.imageStatus v = 0 → fits → legal → (s0.copyIn v).blocksIn c.val = some s1 →
        (∀ k q, keyCtx k = c.val → (s1.queue k q).head = none) →
        ∃ t, exec (.ctxSliceInDone c) s = .next t ∧ t.ctx c.val = { v with
          st := .running
          parking := false
          parkNext := false
          fromImage := false } ∧
        (∀ p j, p ∈ footParcels v.foot → j < v.rangeBytes → j < 16 * (v.save - v.fblo) ∨ 16 * (v.save - v.fblo) + 20480 ≤ j →
          t.mem.read (granAddr p v.fblo + j) = s.mem.read (v.areaAddr p + j))))

/-- Commands of contexts (R154, R156, R161, R327-R332, R364, R494): OWNER_SET while every context is FREE; CTX_LOAD reads
the header by accesses of the control class (R179) and binds an image that passes every check, with each stake of the
image at its INIT, nothing of the context in any unit but tiles that were staged for a collective (R118), and no engine of
another context changed; CTX_UNLOAD leaves the context FREE with the same left in its units; CTX_START starts a LOADED
context and CTX_PREEMPT pre-empts a RUNNING one, their receipts to come; without an effect they end with 0x0334.
QUEUE_RESUME makes a stopped queue run, wherever its state lies. -/
def Obligations.ContextCommands : Prop :=
  (∀ (s : State) (h : Hdr) (owner : BitVec 32) (r : Started), Admitted s h 0x0301 (Instr.params (.ownerSet h owner)) r →
    ((∀ c, c < 8 → (s.ctx c).st = .free) → exec (.ownerSet h owner) s = .next (({ s with
      owner := owner.toNat
      sec := { s.sec with jobKeys := if owner.toNat = s.owner then s.sec.jobKeys else [] } } : State).finish r 0)) ∧
    (∀ c, c < 8 → (s.ctx c).st ≠ .free → exec (.ownerSet h owner) s = .next (s.finish r 0x0330))) ∧
  (∀ (s : State) (h : Hdr) (c : Byte) (a : BitVec 48) (x : EccResult) (r : Started), Admitted s h 0x0302 (Instr.params (.ctxLoad h c a x)) r →
    c.toNat < 8 →
    let s' := s.headerRead c.toNat a.toNat x
    ((s.ctx c.toNat).st ≠ .free → exec (.ctxLoad h c a x) s = .next (s.finish r 0x0332)) ∧
    ((s.ctx c.toNat).st = .free → s.stackStatus a.toNat 4096 = 0 → s'.badIn a.toNat 4096 = false →
      s.mem.readLE a.toNat 4 ≠ s.owner → exec (.ctxLoad h c a x) s = .next (s'.finish r 0x0331)) ∧
    (∀ st, st ≠ 0x0723 → s'.loadStatus c.toNat a.toNat = some st → exec (.ctxLoad h c a x) s = .next (s'.finish r st)) ∧
    (s'.loadStatus c.toNat a.toNat = some 0x0723 →
      exec (.ctxLoad h c a x) s = .next ((s'.lineUnc (s'.loadBad a.toNat) codeMgmt).finish r 0x0723)) ∧
    ((s.ctx c.toNat).st = .free → s.stackStatus a.toNat 4096 = 0 → a.toNat < 0x018000000000 → s.cached a.toNat = none →
      x = .uncorrectable → ∃ t : State, exec (.ctxLoad h c a x) s = .next (t.finish r 0x0723) ∧ t.ctxs = s.ctxs ∧ t.eng = s.eng ∧
      t.mem = s.mem ∧ t.badIn a.toNat 1 = true) ∧
    (s'.loadStatus c.toNat a.toNat = none →
      let v := s.headerOf a.toNat
      let at' := fun (u : Nat) => v.blockAddr u + syncOff u
      ∃ t, exec (.ctxLoad h c a x) s = .next t ∧ t.ctx c.toNat = v ∧ (∀ d, d ≠ c.toNat → t.ctx d = s.ctx d) ∧
        (∀ k, keyCtx k = c.toNat → t.engOf k = (s.engOf k).bare) ∧ (∀ k, keyCtx k ≠ c.toNat → t.engOf k = s.engOf k) ∧
        (∀ u i, u ∈ s.unitsIn v → i < 48 →
          t.mem.read (at' u + i) = BitVec.ofNat 8 (b2n ((s.mem.readLE (at' u + 48 + 4 * i) 4).testBit 20))) ∧
        (∀ b, (∀ u ∈ s.unitsIn v, b < at' u ∨ at' u + 48 ≤ b) → t.mem.read b = s.mem.read b))) ∧
  (∀ (s : State) (h : Hdr) (c : Byte) (r : Started), Admitted s h 0x0303 (Instr.params (.ctxUnload h c)) r → c.toNat < 8 →
    ((s.ctx c.toNat).st = .loaded → ∃ t, exec (.ctxUnload h c) s = .next t ∧ t.ctx c.toNat = Ctx.free ∧
      (∀ k, keyCtx k = c.toNat → t.engOf k = (s.engOf k).bare) ∧ (∀ k, keyCtx k ≠ c.toNat → t.engOf k = s.engOf k)) ∧
    ((s.ctx c.toNat).st = .running → exec (.ctxUnload h c) s = .next (s.finish r 0x0333))) ∧
  (∀ (s : State) (h : Hdr) (c : Byte) (r : Started), Admitted s h 0x0304 (Instr.params (.ctxStart h c)) r → c.toNat < 8 →
    s.ctxActs = [] → s.ctxMoving = false → s.d3hot = false →
    ((s.ctx c.toNat).st = .loaded → s.flt.drained = false → ∃ t, exec (.ctxStart h c) s = .next t ∧
      (t.ctx c.toNat).st = .starting ∧ (t.ctx c.toNat).fromImage = true ∧ t.cmd = (s.begin r).cmd) ∧
    ((s.ctx c.toNat).st = .free → exec (.ctxStart h c) s = .next ((s.begin r).finish { r with begun := true } 0x0334))) ∧
  (∀ (s : State) (h : Hdr) (c : Byte) (r : Started), Admitted s h 0x0305 (Instr.params (.ctxPreempt h c)) r → c.toNat < 8 →
    s.ctxActs = [] → s.ctxMoving = false → s.d3hot = false →
    ((s.ctx c.toNat).st = .running → exec (.ctxPreempt h c) s =
      .next ((s.begin r).setCtx c.toNat { s.ctx c.toNat with parking := true })) ∧
    ((s.ctx c.toNat).st = .parked → exec (.ctxPreempt h c) s = .next ((s.begin r).finish { r with begun := true } 0x0334))) ∧
  (∀ (s : State) (h : Hdr) (path : BitVec 24) (q c : Byte) (g : BitVec 16) (u : Nat) (r : Started),
    Admitted s h 0x0306 (Instr.params (.queueResume h path q c g)) r →
    (4 < path.toNat % 8 → exec (.queueResume h path q c g) s = .next (s.finish r 0x0801)) ∧
    (c.toNat < 8 → q.toNat ≤ 3 → path.toNat < 2 ^ 17 → path.toNat % 8 ≤ 4 → pathUnit path.toNat = some u →
      inFoot (s.ctx c.toNat).foot u = true →
      let key := engKey c.toNat u
      let p := ixQ q.toNat
      let w := s.queue key p
      (s.queueRun c.toNat u p ≠ .stopped → exec (.queueResume h path q c g) s = .next (s.finish r 0x0335)) ∧
      (s.queueRun c.toNat u p = .stopped → exec (.queueResume h path q c g) s =
        .next ((s.onSaved c.toNat [u] fun s => s.resumeQueue key p g.toNat).finish r 0)) ∧
      ((s.ctx c.toNat).st = .running → w.run = .stopped → ∃ t, exec (.queueResume h path q c g) s = .next t ∧
        t.queue key p = { w with run := .running, pc := if g = 0xFFFF then w.pc else g.toNat, branched := false } ∧
        (∀ k z, (k, z) ≠ (key, p) → t.queue k z = s.queue k z) ∧ t.mem = s.mem ∧ t.ctxs = s.ctxs)))

/-- The catalogue's commands (R304-R307, R363): while the bearing is not valid CAT_CONFIG and CAT_UNSEED change the
entries of their range at once, and no other; while it is valid they, and CAT_LOAD, wait for the wrap. CAT_SAVE writes the
64 bytes of each entry and no other byte of memory. A range past the last entry ends each with 0x0801. Seed requests and
the end of wrap processing (R311, R313, R315, R316): a request is taken when its area's SEEDSTK is set, which the engine
consumes; while wrap processing runs it waits; else every unseeded entry that a valid seed record names is seeded with the
largest AMAX that its records give. The end of wrap processing clears BUSY and leaves no request waiting. -/
def Obligations.CatalogueCommands : Prop :=
  (∀ (s : State) (h : Hdr) (first : BitVec 16) (count : BitVec 24) (r : Started),
      let f := first.toNat
      let n := count.toNat
      (∀ fmt dm wth, Admitted s h 0x0204 (Instr.params (.catConfig h first count fmt dm wth)) r →
        1 ≤ n → f + n ≤ 65536 → catFmtOk fmt.toNat = true →
        (s.brg.valid = true → ∃ t, exec (.catConfig h first count fmt dm wth) s = .next t ∧
          t.cat = { s.cat with cmds := s.cat.cmds ++ [.config f n fmt.toNat (dm.toNat % 16 + 1) (dm.toNat / 16) wth.toNat] }) ∧
        (s.brg.valid = false → ∃ t, exec (.catConfig h first count fmt dm wth) s = .next t ∧
          (∀ k, f ≤ k → k < f + n → t.catEntry k = CatEntry.refresh { s.catEntry k with
            fmt := fmt.toNat
            delay := dm.toNat % 16 + 1
            margin := dm.toNat / 16
            wth := wth.toNat
            zrun := 0
            srun := 0
            clamps := 0
            zev := false
            sev := false
            cev := false }) ∧ (∀ k, k < f ∨ f + n ≤ k → t.catEntry k = s.catEntry k))) ∧
      (Admitted s h 0x0207 (Instr.params (.catUnseed h first count)) r → 1 ≤ n → f + n ≤ 65536 →
        (s.brg.valid = true → ∃ t, exec (.catUnseed h first count) s = .next t ∧
          t.cat = { s.cat with cmds := s.cat.cmds ++ [.unseed f n] }) ∧
        (s.brg.valid = false → ∃ t, exec (.catUnseed h first count) s = .next t ∧
          (∀ k, f ≤ k → k < f + n → t.catEntry k = CatEntry.refresh { s.catEntry k with seeded := false }) ∧
          (∀ k, k < f ∨ f + n ≤ k → t.catEntry k = s.catEntry k))) ∧
      (∀ a : BitVec 48, Admitted s h 0x0205 (Instr.params (.catSave h first count a)) r →
        1 ≤ n → f + n ≤ 65536 → a.toNat % 64 = 0 → s.fwStatus a.toNat (64 * n) = 0 →
        ∃ t, exec (.catSave h first count a) s = .next t ∧
          (∀ i, i < n → t.mem.readN (a.toNat + 64 * i) 64 = (s.catEntry (f + i)).bytes) ∧
          (∀ b, b < a.toNat ∨ a.toNat + 64 * n ≤ b → t.mem.read b = s.mem.read b) ∧ t.cat = s.cat) ∧
      (∀ (a : BitVec 48) (es : List CatEntry), Admitted s h 0x0206 (Instr.params (.catLoad h first count a)) r →
        1 ≤ n → f + n ≤ 65536 → a.toNat % 64 = 0 →
        s.fwStatus a.toNat (64 * n) = 0 → s.badIn a.toNat (64 * n) = false → s.brg.valid = true →
        ((List.range n).map fun i => catOfBytes (s.mem.readN (a.toNat + 64 * i) 64)) = es.map some →
        ∃ t, exec (.catLoad h first count a) s = .next t ∧ t.cat = { s.cat with cmds := s.cat.cmds ++ [.load f es] } ∧ t.mem = s.mem) ∧
      (n = 0 ∨ 65536 < f + n →
        (∀ fmt dm wth, Admitted s h 0x0204 (Instr.params (.catConfig h first count fmt dm wth)) r →
          exec (.catConfig h first count fmt dm wth) s = .next (s.finish r 0x0801)) ∧
        (Admitted s h 0x0207 (Instr.params (.catUnseed h first count)) r →
          exec (.catUnseed h first count) s = .next (s.finish r 0x0801)) ∧
        (∀ a, Admitted s h 0x0205 (Instr.params (.catSave h first count a)) r →
          exec (.catSave h first count a) s = .next (s.finish r 0x0801)) ∧
        (∀ a, Admitted s h 0x0206 (Instr.params (.catLoad h first count a)) r →
          exec (.catLoad h first count a) s = .next (s.finish r 0x0801)))) ∧
  ((∀ (s : State) (c : Fin 8), (s.area c.val).en = true → s.areaOk c.val = true → (s.ctx c.val).st = .running →
      (s.seedStake c.val = none → exec (.catSeedRequest c) s = .next s) ∧
      (∀ w, s.seedStake c.val = some w → s.cat.busy = true → ∃ t, exec (.catSeedRequest c) s = .next t ∧
        (t.stake w.1 w.2).st = .clear ∧ t.cat = { s.cat with heldSeeds := s.cat.heldSeeds ++ [c.val] } ∧ t.mem = s.mem) ∧
      (∀ w k, s.seedStake c.val = some w → s.cat.busy = false →
        let rs := s.recsOf [c.val] fun r => r.valid && r.seed
        let good := rs.filter fun r => amaxOk r.amax && !(s.catEntry r.entry).seeded
        ∃ t, exec (.catSeedRequest c) s = .next t ∧
          (k ∈ good.map (·.entry) → t.catEntry k = (s.catEntry k).seed (largest good k)) ∧
          (k ∉ good.map (·.entry) → t.catEntry k = s.catEntry k))) ∧
    (∀ (s : State), (s.cat.busy = false → exec .catalogueWrapProcessingDone s = .next s) ∧
      (s.cat.busy = true → ∃ t, exec .catalogueWrapProcessingDone s = .next t ∧ t.cat.busy = false ∧ t.cat.heldSeeds = []) ∧
      (s.cat.busy = true → s.cat.heldSeeds = [] → s.waitingMdecls = [] →
        exec .catalogueWrapProcessingDone s = .next { s with cat := { s.cat with busy := false } })))

/-- Rings, doorbells and the direct word (R345-R348, R353, R354, R460): a doorbell of an enabled ring moves its tail or
its head; one of a ring that is not enabled, or out of range, or before READY, is a host-access fault. Enabling a ring,
once the device is READY, starts it at head and tail 0. A direct command that has a receipt slot and no one to wait for
starts; without a slot it is dropped and counted; each start has a number of its own. The signal timer sends the vector of
the receipts not yet signalled. -/
def Obligations.RingsAndDoorbells : Prop :=
  ∀ (s : State),
    (∀ (q : Fin 64) (v : BitVec 32) us,
      (s.mod.ready = true → v.toNat < 4096 → (s.sub q.val).en = true → v.toNat ≠ (s.sub q.val).tail →
        exec (.submissionDoorbell q v us) s = .next (s.setSub q.val { s.sub q.val with
          tail := v.toNat
          bells := (s.sub q.val).bells ++ [(v.toNat, us)] })) ∧
      (s.mod.ready = true → v.toNat < 4096 → (s.rcp q.val).en = true → s.cmd.evLost = 0 →
        ∃ t, exec (.receiptDoorbell q v) s = .next t ∧ t.rcp q.val = { s.rcp q.val with head := v.toNat } ∧ t.cmd.stalled = [] ∧
          (∀ r, r ≠ q.val → t.rcp r = s.rcp r) ∧ t = { s with cmd := t.cmd }) ∧
      (s.mod.ready = false ∨ 4096 ≤ v.toNat ∨ (s.sub q.val).en = false →
        exec (.submissionDoorbell q v us) s = .next (s.hostFault (0x1000 * q.val))) ∧
      (s.mod.ready = false ∨ 4096 ≤ v.toNat ∨ (s.rcp q.val).en = false →
        exec (.receiptDoorbell q v) s = .next (s.hostFault (0x40000 + 0x1000 * q.val)))) ∧
    (s.mod.ready = false → ∀ (q : Fin 64) (en : Bool),
      exec (.submissionRingEnable q en) s = .next (s.hostFault (0x10600 + 4 * q.val)) ∧
      exec (.receiptRingEnable q en) s = .next (s.hostFault (0x10700 + 4 * q.val))) ∧
    (∀ q : Fin 64, s.mod.ready = true → (s.sub q.val).en = false → ∃ t, exec (.submissionRingEnable q true) s = .next t ∧
      t.sub q.val = { s.sub q.val with en := true, head := 0, tail := 0, bells := [], passed := 0 } ∧
      (∀ r, r ≠ q.val → t.sub r = s.sub r) ∧ t = { s with cmd := t.cmd }) ∧
    (∀ r : Fin 64, s.mod.ready = true → (s.rcp r.val).en = false → s.cmd.evLost = 0 → ∃ t, exec (.receiptRingEnable r true) s = .next t ∧
      t.rcp r.val = { s.rcp r.val with en := true, head := 0, tail := 0, phase := true, unsignalled := 0 } ∧
      (∀ x, x ≠ r.val → t.rcp x = s.rcp x) ∧ t = { s with cmd := t.cmd }) ∧
    (s.mod.ready = true → ∀ r : Fin 64, exec (.submissionRingEnable r false) s = .next (s.setSub r.val { s.sub r.val with en := false }) ∧
      exec (.receiptRingEnable r false) s = .next (s.setRcp r.val { s.rcp r.val with en := false })) ∧
    (∀ r : Fin 64, (s.rcp r.val).en = true → 0 < (s.rcp r.val).unsignalled →
      (Map.getD s.cmd.msix (4 * (s.rcp r.val).vec + 3) 1).testBit 0 = false →
      ∃ t, exec (.receiptSignalTimer r) s = .next t ∧ t.out = .msix (s.rcp r.val).vec :: s.out ∧
        t.rcp r.val = { s.rcp r.val with unsignalled := 0 } ∧ t.cmd.pba = s.cmd.pba) ∧
    (∀ v : BitVec 64, s.mod.ready = true → bitsOf v.toNat 0 16 = 0x0304 ∨ bitsOf v.toNat 0 16 = 0x0305 →
      let r := directRecord v.toNat
      ((s.rcp r.rr).freeSlots = 0 → exec (.directWord v) s =
        .next (State.count { s with cmd := { s.cmd with ddrop := true } } (ctrDev 18))) ∧
      (0 < (s.rcp r.rr).freeSlots → (s.cmd.started.any fun x => x.holds && r.objs.any fun o => x.objs.any (objClash o)) = false →
        ∃ t, exec (.directWord v) s = .next t ∧ t.cmd.started = s.cmd.started ++ [{ r with uid := s.cmd.nextUid, holds := true }] ∧
          t.cmd.nextUid = s.cmd.nextUid + 1 ∧ (t.rcp r.rr).reserved = (s.rcp r.rr).reserved + 1 ∧ t = { s with cmd := t.cmd }))

/-- The fetch of commands (R347, R349-R353, R358, R359): the slot at the head of the ring whose turn it is, with a good
header, a rising accession number and the parameters of its opcode, starts its command: the head moves, SQLAST is its
number, a receipt slot is reserved, and it holds its objects at once if nothing that it names is held (R350). A number
that does not rise ends with 0x0341; any other bad header or parameter ends with 0x0801, its number taken by SQLAST (log
entry 66). Management cores out of service refuse a firmware command with 0x0301 (R414, log entry 150). Without a receipt
slot nothing is fetched, which counts once. A started command that runs into T4 before it has begun ends with 0x0507. -/
def Obligations.CommandFetches : Prop :=
  (∀ (s : State) (q : Fin 64) (us : Nat) (slot params : List Byte), s.d3hot = false → s.mod.ready = true →
    s.fetchRing = some q.val → slot.length = 64 →
    let l := cmdSlotOf slot
    let g := s.sub q.val
    let rr := if l.rr < 64 then l.rr else q.val
    let p := l.params params
    let late := (g.bells.head?).any fun b => decide (b.2 + s.cmd.dlyth < us)
    ((s.rcp rr).freeSlots = 0 → s.cmd.counted.contains q.val = false → exec (.commandFetch q us false slot params) s =
      .next (State.count { s with cmd := { s.cmd with stalled := s.cmd.stalled ++ [q.val], counted := q.val :: s.cmd.counted } }
        (ctrDev 13))) ∧
    ((s.rcp rr).freeSlots = 0 → s.cmd.counted.contains q.val = true → exec (.commandFetch q us false slot params) s =
      .next { s with cmd := { s.cmd with stalled := s.cmd.stalled ++ [q.val] } }) ∧
    (0 < (s.rcp rr).freeSlots → fastOp l.op = true ∨ (s.cmd.fwrun = true ∧ s.cmdHeld < 256) →
      (g.last < l.acc → l.ok = true → plenOf l.op p = some l.plen → paramsOk l.op p = true → s.mgmtRefuses l.op p = true →
        exec (.commandFetch q us false slot params) s = .next (((s.fetched q.val).numbered q.val l).receipt
          ⟨rr, 0x0301, l.op, false, q.val, (g.head + 1) % 4096, l.acc, []⟩)) ∧
      (g.last < l.acc → l.ok = true → plenOf l.op p = some l.plen → paramsOk l.op p = true → s.mgmtRefuses l.op p = false →
        ∃ t, exec (.commandFetch q us false slot params) s = .next t ∧ (t.sub q.val).head = (g.head + 1) % 4096 ∧
          (t.sub q.val).last = l.acc ∧ (t.rcp rr).reserved = (s.rcp rr).reserved + 1 ∧
          (∃ r, t.cmd.started = s.cmd.started ++ [r] ∧ r.op = l.op ∧ r.q = q.val ∧ r.acc = l.acc ∧ r.rr = l.rr ∧
            r.fence = (l.flags == 1) ∧ r.delayed = late ∧ r.sqhead = (g.head + 1) % 4096 ∧ r.objs = cmdObjs l.op p ∧
            r.params = p ∧ r.uid = s.cmd.nextUid ∧ r.begun = false ∧ r.holds = mayStart s.cmd.started { r with uid := 0, holds := false }) ∧
          t.host = s.host ∧ t.mem = s.mem) ∧
      (g.last < l.acc → l.ok = false ∨ plenOf l.op p ≠ some l.plen ∨ paramsOk l.op p = false →
        exec (.commandFetch q us false slot params) s = .next (((s.fetched q.val).numbered q.val l).receipt
          ⟨rr, 0x0801, l.op, false, q.val, (g.head + 1) % 4096, l.acc, []⟩)) ∧
      (l.acc ≤ g.last → exec (.commandFetch q us false slot params) s =
        .next ((s.fetched q.val).receipt ⟨rr, 0x0341, l.op, false, q.val, (g.head + 1) % 4096, l.acc, []⟩)))) ∧
  (∀ (s : State) (q : Fin 64) (us : Nat) (e : Bool) (slot params : List Byte), s.fetchRing ≠ some q.val →
    exec (.commandFetch q us e slot params) s = .next s) ∧
  (∀ (s : State) (h : Hdr) (r : Started), (s.cmd.started.find? fun r => r.isFor h && !s.cmd.expired.contains r.uid) = some r →
    r.begun = false → let s1 := s.count (ctrDev 43)
    exec (.commandT4Expiry h) s =
      .next (({ s1 with cmd := { s1.cmd with expired := r.uid :: s1.cmd.expired } }).finish r 0x0507))

/-- Accesses of BAR0 and of the MSI-X table (R8-R15, R345, R354, R379, R460): a write of a register has its field rules: a
read-only one keeps its value, SCRATCH takes any value, a ring's base only while the ring is not enabled, PWR.CAP keeps a
value out of range out, a W1C bit clears, and a 64-bit pair takes one 64-bit write. A write that names no register, or one
of a clock domain that is OFF (R378, log entry 113), is a host-access fault, in D3hot as in D0; in D3hot an access wakes
the PCI Express domains that it passes (R302). A word of the MSI-X table keeps what is written, and unmasking a pending
vector sends it. Host-access faults further (R302, R378, R423): a 64-bit access one of whose words holds no register is
refused whole (the model's choice, log entry 76), and so is an access to a register whose clock domain is OFF (which
domains are, log entry 113). The log entry holds the offset in ADDR (the model's choice, log entry 118), and a recurrence
is counted in the entry open for it. -/
def Obligations.RegisterAccesses : Prop :=
  (∀ (s : State), let s' := s.wakeRegs []
      (s'.mod.gated = s.mod.gated ∧ (s.d3hot = false → s' = s)) ∧
      (s.mod.ready = true →
        (∀ (k : Fin 4) (v : BitVec 64), exec (.regWrite (BitVec.ofNat 26 (0x180 + 4 * k.val)) false v) s =
          .next { s' with scratch := s.scratch.set k.val (v.toNat % 2 ^ 32) }) ∧
        (∀ (q : Fin 64) (v : BitVec 64), exec (.regWrite (BitVec.ofNat 26 (0x10000 + 8 * q.val)) true v) s =
          .next (if (s.sub q.val).en then s' else s'.setSub q.val { s.sub q.val with base := v.toNat / 4096 * 4096 })) ∧
        (∀ v : BitVec 64, exec (.regWrite 0x40000 false v) s = .next { s' with pwr := { s.pwr with
          cap := if 1800 ≤ bitsOf v.toNat 0 13 ∧ bitsOf v.toNat 0 13 ≤ 5200 then bitsOf v.toNat 0 13 else s.pwr.cap
          mode := v.toNat.testBit 13 } }) ∧
        (∀ v : BitVec 64, exec (.regWrite 0x50020 false v) s =
          .next { s' with flt := { s.flt with new := s.flt.new && !v.toNat.testBit 24 } }) ∧
        (∀ v : BitVec 64, exec (.regWrite 0x100 false v) s = .next s' ∧ exec (.regWrite 0x104 false v) s = .next s')) ∧
      (∀ (off : BitVec 26) (wide : Bool) (v : BitVec 64) rs, s.regsAt off.toNat (if wide then 8 else 4) = some rs →
        s.regOff rs = true → exec (.regWrite off wide v) s = .next (s.hostFault off.toNat)) ∧
      (∀ (off : BitVec 26) (wide : Bool) (v : BitVec 64), s.regsAt off.toNat (if wide then 8 else 4) = none →
        exec (.regWrite off wide v) s = .next (s.hostFault off.toNat)) ∧
      (s.mod.ready = true → ∀ (w : Fin 8192) (v : BitVec 32),
        let off := BitVec.ofNat 26 (0xF00000 + 4 * w.val)
        (w.val % 4 ≠ 3 → exec (.msiXTableWrite off v) s = .next { s with cmd := { s.cmd with
          msix := Map.putD s.cmd.msix w.val v.toNat 0 } }) ∧
        (w.val % 4 = 3 → v.toNat.testBit 0 = false → (Map.find s.cmd.pba (w.val / 4)).isSome = true →
          ∃ t, exec (.msiXTableWrite off v) s = .next t ∧ t.out = .msix (w.val / 4) :: s.out ∧
            Map.find t.cmd.pba (w.val / 4) = none ∧ Map.getD t.cmd.msix w.val 1 = v.toNat)) ∧
      (s.mod.ready = true → ∀ (w : Fin 64) (v : BitVec 32),
        exec (.msiXTableWrite (BitVec.ofNat 26 (0xF08000 + 4 * w.val)) v) s = .next s)) ∧
  (∀ (s : State) (off : BitVec 26) (size : Nat) (v : BitVec 64),
      let o := off.toNat
      ((size = 8 ∧ (regAt o = none ∨ ((regAt o).all (fun x => x.2 != 1) = true ∧ regAt (o + 4) = none))) ∨
          (∃ rs, s.regsAt o size = some rs ∧ s.regOff rs = true) →
        exec (.bar0InvalidAccess false true off size v) s = .next (s.hostFault o) ∧
        exec (.bar0InvalidAccess false false off size v) s =
          .next { s.hostFault o with out := .readData (List.replicate size 0) :: (s.hostFault o).out }) ∧
      (s.flt.openIx = [] → ∃ e, Map.find (s.hostFault o).flt.vlog (s.flt.next % 4096) = some e ∧ e.addr = o ∧ e.req = 0) ∧
      (∀ i e, s.flt.openIx = [i] → Map.find s.flt.vlog (i % 4096) = some e → e.index = i → e.kind = 0x0001 → e.unit = 0xFFFFFFFF →
        e.addr = o → ∃ e', Map.find (s.hostFault o).flt.vlog (i % 4096) = some e' ∧ e'.count = e.count + 1 ∧ e'.kind = 0x0001 ∧
          e'.addr = o ∧ (s.hostFault o).flt.next = s.flt.next))

/-- Receipts and admission (R350, R352-R354, R358, R426, R456, R460), seen on NOP: its receipt is the 32 bytes at the tail
of its ring and no other byte of host memory; the tail moves on, PHASE changes at the wrap, its slot is no more reserved,
its record is gone and the commands that waited for what it held start, and nothing else of the block changes but the
interface, its outputs and a counter. DONE of a late command is DELAYED, with 0x0102 where a message of it waited too long
to be injected (R244); in D3hot the receipt is kept. A command whose objects another holds, or that no fetch has started,
does nothing; a drained device ends one of its other groups with 0x0340. -/
def Obligations.ReceiptsAndAdmission : Prop :=
  (∀ (s : State) (h : Hdr) (r : Started), Admitted s h 0x0100 (Instr.params (.nop h)) r → r.hushed = false →
    s.cmd.expired.contains r.uid = false → s.cmd.aborted.contains r.uid = false →
    let g := s.rcp r.rr
    let rc : Receipt := ⟨r.rr, if r.delayed then 0x0103 else if r.linkLate then 0x0102 else 0, r.op, false, if r.direct then 0xFF else r.q, r.sqhead, r.acc, []⟩
    ∃ t, exec (.nop h) s = .next t ∧ t = { s with host := t.host, cmd := t.cmd, out := t.out, ctr := t.ctr } ∧
      t.cmd.started = startAll (s.cmd.started.filter (·.uid != r.uid)) ∧
      (s.d3hot = true → t.cmd.late = s.cmd.late ++ [rc] ∧ t.host = s.host ∧ t.out = s.out) ∧
      (s.d3hot = false → g.en = false → t.host = s.host ∧ t.out = s.out) ∧
      (s.d3hot = false → g.en = true → t.host = s.host.writeN (g.base + 32 * g.tail) (rc.bytes g.phase) ∧
        (rc.bytes g.phase).length = 32 ∧ (t.rcp r.rr).tail = (g.tail + 1) % 4096 ∧ (t.rcp r.rr).reserved = g.reserved - 1 ∧
        (t.rcp r.rr).phase = (if (g.tail + 1) % 4096 = 0 then !g.phase else g.phase) ∧
        (∀ x, x ≠ r.rr → t.rcp x = s.rcp x))) ∧
  (∀ (s : State) (h : Hdr) (r : Started),
    (s.cmd.started.find? fun x => x.isFor h && x.op == 0x0100 && x.params == Instr.params (.nop h) && !x.begun) = some r →
    s.blocked r = true → exec (.nop h) s = .next s) ∧
  (∀ (s : State) (h : Hdr),
    (s.cmd.started.find? fun x => x.isFor h && x.op == 0x0100 && x.params == Instr.params (.nop h) && !x.begun) = none →
    exec (.nop h) s = .next s) ∧
  (∀ (s : State) (h : Hdr) (r : Started), s.blocked r = false → s.flt.drained = true →
    let found := fun op ps => (s.cmd.started.find? fun x => x.isFor h && x.op == op && x.params == ps && !x.begun) = some r
    (∀ p, found 0x0602 (Instr.params (.oppoint h p)) → exec (.oppoint h p) s = .next (s.finish r 0x0340)) ∧
    (∀ c, found 0x0304 (Instr.params (.ctxStart h c)) → exec (.ctxStart h c) s = .next (s.finish r 0x0340)) ∧
    (∀ c, found 0x0408 (Instr.params (.colClose h c)) → exec (.colClose h c) s = .next (s.finish r 0x0340)) ∧
    (found 0x0902 (Instr.params (.freeze h)) → exec (.freeze h) s = .next (s.finish r 0x0340)))

/-- The device group (R362, R360, R380, R422, R455): NOP completes with DONE and does nothing else; IDENTIFY writes the
identity registers to the host and HEALTH answers in its RESULT; FAULT_LOG_READ writes the entries that it finds and says
how many; a warm reset leaves every context FREE, the units, closures and collectives empty, the Fieldbooks zero, the
bearing UNLOCKED, device memory outside the Fieldbooks as it was where no collective or closure was open, and the epochs
one on; after a thermal trip it waits for TMAX below 90. -/
def Obligations.DeviceCommands : Prop :=
  (∀ (s : State) (h : Hdr) (r : Started), Admitted s h 0x0100 (Instr.params (.nop h)) r →
    exec (.nop h) s = .next (s.finish r 0)) ∧
  (∀ (s : State) (h : Hdr) (a : BitVec 64) (r : Started), Admitted s h 0x0101 (Instr.params (.identify h a)) r →
    (a.toNat % 64 ≠ 0 → exec (.identify h a) s = .next (s.finish r 0x0801)) ∧
    (a.toNat % 64 = 0 → exec (.identify h a) s = .next ((s.hostOut r a.toNat s.identity).finish r 0 (toLE 3 s.station))) ∧
    s.identity.length = 256 ∧ leAt s.identity 0 2 = 0x9160) ∧
  (∀ (s : State) (h : Hdr) (r : Started), Admitted s h 0x0102 (Instr.params (.health h)) r →
    ∃ res, exec (.health h) s = .next (s.finish r 0 res) ∧
    leAt res 0 2 = s.tmax % 2 ^ 16 ∧ leAt res 2 2 = s.pin % 2 ^ 16 ∧ (leAt res 8 1).testBit 0 = s.flt.drained ∧
    (leAt res 8 1).testBit 1 = s.flt.flagged ∧ (leAt res 8 1).testBit 2 = s.dbgOpen) ∧
  (∀ (s : State) (h : Hdr) (a : BitVec 64) (first : BitVec 32) (n : BitVec 16) (r : Started),
    Admitted s h 0x0104 (Instr.params (.faultLogRead h a first n)) r →
    (n.toNat = 0 ∨ 256 < n.toNat → exec (.faultLogRead h a first n) s = .next (s.finish r 0x0801)) ∧
    (1 ≤ n.toNat → n.toNat ≤ 256 → ∃ es : List LogEntry, exec (.faultLogRead h a first n) s =
        .next ((s.hostOut r a.toNat (es.flatMap LogEntry.bytes)).finish r 0 (toLE 4 es.length)) ∧ es.length ≤ n.toNat ∧
      (first.toNat < 2 ^ 31 → ∀ e, e ∈ es ↔ ∃ i, i < n.toNat ∧ e.index = (first.toNat + i) % 2 ^ 32 ∧
        Map.find s.flt.vlog (e.index % 4096) = some e) ∧
      (2 ^ 31 ≤ first.toNat → es = (s.flt.plog.drop (first.toNat % 256)).take n.toNat))) ∧
  (∀ (s : State) (h : Hdr) (r : Started), Admitted s h 0x0103 (Instr.params (.warmReset h)) r →
    (s.pwr.tripped = true → 90 ≤ s.tmax → exec (.warmReset h) s =
      .next { s.begin r with mod := { s.mod with warmNext := true } }) ∧
    (s.pwr.tripped = false → ∃ t, exec (.warmReset h) s = .next t ∧ t.ctxs = [] ∧ t.eng = [] ∧ t.closures = [] ∧ t.stracts = [] ∧
      t.cols = [] ∧ t.brg.st = .unlocked ∧ t.brg.run = false ∧ t.flt.epochBase = (s.flt.epochBase + 1) % 65536 ∧
      t.cmd.mgstop = true ∧ t.sec.session = false ∧
      (∀ b, 0xC00000000000 ≤ b → b < 0xC02000000000 → t.mem.read b = 0) ∧
      (s.cols = [] → s.closures = [] → ∀ b, b < 0xC00000000000 → t.mem.read b = s.mem.read b)))

/-- The memory group (R182, R204-R206, R363): SHELF_PARTITION gives each of its shelves its target, and one shelf of each
slice begins to change, unless it would leave no firmware shelf or one of them is changing; BINDERY_RUN queues its
descriptor last on the host queue of its Bindery; BINDERY_RESTART makes the stopped queues that it names run, at their
descriptor or at the next; FP_FLUSH latches every unit of its range that does not scan. -/
def Obligations.MemoryCommands : Prop :=
  (∀ (s : State) (h : Hdr) (xs : List ShelfReq) (r : Started), Admitted s h 0x0201 (Instr.params (.shelfPartition h xs)) r →
    (shelvesOk xs = false → exec (.shelfPartition h xs) s = .next (s.finish r 0x0801)) ∧
    (shelvesOk xs = true → s.fwShelfLeft xs = false → exec (.shelfPartition h xs) s = .next (s.finish r 0x0203)) ∧
    (shelvesOk xs = true → s.fwShelfLeft xs = true → (xs.any fun x => (s.shelf x.shelf.toNat).target.isSome) = true →
      exec (.shelfPartition h xs) s = .next (s.finish r 0x0316)) ∧
    (shelvesOk xs = true → s.fwShelfLeft xs = true → (xs.any fun x => (s.shelf x.shelf.toNat).target.isSome) = false →
      exec (.shelfPartition h xs) s =
        .next ((List.range 64).foldl (fun s n => s.shelfNext n) (xs.foldl (fun s x => s.shelfBegins x) (s.begin r))) ∧
      (r.objs = cmdObjs r.op r.params → (∀ n, (s.shelf n).target = none ∧ (s.shelf n).qst = 0) →
        ∃ t, exec (.shelfPartition h xs) s = .next t ∧
          (∀ x, x ∈ xs → ∃ q, q ≤ 1 ∧ t.shelf x.shelf.toNat = { s.shelf x.shelf.toNat with
            qst := q
            target := some (x.mode.toNat, x.ctxm.toNat, x.fw, x.host) }) ∧
          (∀ n, n ∉ xs.map (·.shelf.toNat) → t.shelf n = s.shelf n) ∧
          (∀ x, x ∈ xs → ((xs.filter fun y => y.shelf.toNat % 64 == x.shelf.toNat % 64).filter fun y =>
            (t.shelf y.shelf.toNat).qst == 1).length = 1) ∧ t.cmd = (s.begin r).cmd ∧ t.mem = s.mem))) ∧
  (∀ (s : State) (h : Hdr) (n : Byte) (d : List Byte) (r : Started), Admitted s h 0x0202 (Instr.params (.binderyRun h n d)) r →
    n.toNat < 12 → d.length = 128 →
    let off := s.svcOf (codeStack n.toNat) ≠ .inService ∨ s.refOff (.stack n.toNat) = true
    (off → exec (.binderyRun h n d) s = .next (s.finish r 0x0301)) ∧
    (¬ off → s.descFault n.toNat none d = some 0x0803 → exec (.binderyRun h n d) s = .next (s.finish r 0x0803)) ∧
    (¬ off → s.descFault n.toNat none d ≠ some 0x0803 →
      ∃ t, exec (.binderyRun h n d) s = .next t ∧ t.bindery n.toNat = { s.bindery n.toNat with
        hostq := (s.bindery n.toNat).hostq ++ [d]
        hostAcc := (s.bindery n.toNat).hostAcc ++ [r.acc] } ∧
      (∀ m, m ≠ n.toNat → t.bindery m = s.bindery m) ∧ t.cmd = (s.begin r).cmd)) ∧
  (∀ (s : State) (h : Hdr) (m : BitVec 16) (cs : Byte) (skip : Bool) (r : Started),
    Admitted s h 0x0203 (Instr.params (.binderyRestart h m cs skip)) r → m.toNat < 4096 →
    ∃ t, exec (.binderyRestart h m cs skip) s = .next t ∧ ∀ n c, n < 12 → c < 8 →
      let q := (s.bindery n).queue c
      (t.bindery n).queue c = if m.toNat.testBit n && cs.toNat.testBit c && q.run == .stopped then
        { q with run := .running, pc := if skip then q.pc + 1 else q.pc } else q) ∧
  (∀ (s : State) (h : Hdr) (first count : Byte) (r : Started), Admitted s h 0x0208 (Instr.params (.fpFlush h first count)) r →
    s.flt.replay = none →
    (127 < first.toNat ∨ 127 < count.toNat → exec (.fpFlush h first count) s = .next (s.finish r 0x0801)) ∧
    (first.toNat ≤ 127 → count.toNat ≤ 127 → ∃ t, exec (.fpFlush h first count) s = .next t ∧
      (∀ i, i ≤ count.toNat → let j := (first.toNat + i) % 128
        ((s.fp j).busy = true → t.fp j = s.fp j) ∧
        ((s.fp j).busy = false → (s.fp j).scan = false →
          t.fp j = { s.fp j with lat := (s.fp j).acc, latCnt := (s.fp j).cnt, acc := 0, cnt := 0 })) ∧
      (∀ j, (∀ i, i ≤ count.toNat → j ≠ (first.toNat + i) % 128) → t.fp j = s.fp j)))

/-- The fabric group (R151, R236, R237, R243, R365): FABRIC_SETUP writes the station number, the domain size and B
together, with their locks, unless one is locked; ROUTE_LOAD writes its entries but those with a reserved NP, and no
other; STRACT_SETUP records its handle, and at another station's home is done at once; STRACT_RELEASE forgets the handle
with the queues and stakes that it held here. -/
def Obligations.FabricCommands : Prop :=
  (∀ (s : State) (h : Hdr) (sn : BitVec 24) (l1 l2 : Bool) (size : BitVec 24) (b : Byte) (r : Started),
    Admitted s h 0x0401 (Instr.params (.fabricSetup h sn l1 l2 size b)) r →
    stationOk sn.toNat = true → size.toNat ≤ 4194304 → 9 ≤ b.toNat → b.toNat ≤ 13 →
    (s.fab.snLock = true ∨ s.domLock = true → exec (.fabricSetup h sn l1 l2 size b) s = .next (s.finish r 0x0342)) ∧
    (s.fab.snLock = false → s.domLock = false → ∃ t, exec (.fabricSetup h sn l1 l2 size b) s = .next t ∧
      t.station = sn.toNat ∧ t.domSize = size.toNat ∧ t.domLock = l2 ∧ t.fab = { s.fab with snLock := l1, b := b.toNat } ∧
      t.mem = s.mem ∧ t.eng = s.eng ∧ t.ports = s.ports)) ∧
  (∀ (s : State) (h : Hdr) (rtl : Bool) (first : BitVec 16) (es : List (BitVec 32)) (r : Started),
    Admitted s h 0x0402 (Instr.params (.routeLoad h rtl first es)) r →
    (es = [] ∨ 1022 < es.length ∨ 8192 < first.toNat + es.length →
      exec (.routeLoad h rtl first es) s = .next (s.finish r 0x0801)) ∧
    (1 ≤ es.length → es.length ≤ 1022 → first.toNat + es.length ≤ 8192 → ∃ t, exec (.routeLoad h rtl first es) s = .next t ∧
      let tab := fun (x : State) => if rtl then x.fab.rtl else x.fab.rtr
      let other := fun (x : State) => if rtl then x.fab.rtr else x.fab.rtl
      other t = other s ∧
      (∀ i, (hi : i < es.length) → bitsOf es[i].toNat 28 3 ≤ 4 → Map.getD (tab t) (first.toNat + i) 0 = es[i].toNat % 2 ^ 31) ∧
      (∀ i, (hi : i < es.length) → 4 < bitsOf es[i].toNat 28 3 →
        Map.getD (tab t) (first.toNat + i) 0 = Map.getD (tab s) (first.toNat + i) 0) ∧
      (∀ j, j < first.toNat ∨ first.toNat + es.length ≤ j → Map.getD (tab t) j 0 = Map.getD (tab s) j 0))) ∧
  (∀ (s : State) (h : Hdr) (n : BitVec 16) (home : BitVec 24) (o : Byte) (ms : List (BitVec 32)) (r : Started),
    Admitted s h 0x0403 (Instr.params (.stractSetup h n home o ms)) r → 5 ≤ o.toNat → o.toNat ≤ 10 → 1 ≤ ms.length → ms.length ≤ 1022 → stationOk home.toNat = true →
    ((ms.map (·.toNat)).all stationOk) = true →
    ((Map.find s.stracts n.toNat).isSome = true → exec (.stractSetup h n home o ms) s = .next (s.finish r 0x0343)) ∧
    (Map.find s.stracts n.toNat = none → 256 ≤ s.stracts.length → exec (.stractSetup h n home o ms) s = .next (s.finish r 0x0206)) ∧
    (Map.find s.stracts n.toNat = none → s.stracts.length < 256 → home.toNat ≠ s.station →
      exec (.stractSetup h n home o ms) s = .next (State.finish { s with
        stracts := Map.put s.stracts n.toNat ⟨home.toNat, o.toNat, ms.map (·.toNat)⟩ } r 0)) ∧
    (Map.find s.stracts n.toNat = none → s.stracts.length < 256 → home.toNat = s.station →
      ∃ t, exec (.stractSetup h n home o ms) s = .next t ∧
        Map.find t.stracts n.toNat = some ⟨home.toNat, o.toNat, ms.map (·.toNat)⟩ ∧
        ((t.fab.waiting.drop s.fab.waiting.length).map (·.dst)) = (ms.map (·.toNat)).filter (· != s.station) ∧
        (t.fab.waiting.drop s.fab.waiting.length).all (fun w => w.chan == 1 && w.cmd == some { r with begun := true }) = true)) ∧
  (∀ (s : State) (h : Hdr) (n : BitVec 16) (r : Started), Admitted s h 0x0404 (Instr.params (.stractRelease h n)) r →
    (Map.find s.stracts n.toNat = none → exec (.stractRelease h n) s = .next (s.finish r 0x0732)) ∧
    (∀ v, Map.find s.stracts n.toNat = some v → ∃ t, exec (.stractRelease h n) s = .next t ∧ Map.find t.stracts n.toNat = none ∧
      (∀ m, m ≠ n.toNat → Map.find t.stracts m = Map.find s.stracts m) ∧
      (∀ k, keyUnit k = stractUnit n.toNat → t.engOf k = Eng.empty) ∧
      (∀ k, keyUnit k ≠ stractUnit n.toNat → t.engOf k = s.engOf k)))

/-- Closures by command (R164, R165, R365, R412): CLOSURE_SETUP opens its context with the tree and the participants of
its list: parity 0, count 0, MEMBER alone set in each participant, wherever its state lies (R161, R332), no other closure
changed; one that is open already ends with 0x0344. CLOSURE_RELEASE makes a context with no arrival pending IDLE; a busy
one ends with 0x0345. -/
def Obligations.ClosureCommands : Prop :=
  (∀ (s : State) (h : Hdr) (cid : BitVec 16) (ctx nchild : Byte) (parent : BitVec 24) (limit : BitVec 32) (nlocal : BitVec 16)
    (list : BitVec 48) (r : Started),
    Admitted s h 0x0405 (Instr.params (.closureSetup h cid ctx nchild parent limit nlocal list)) r →
    let bad := closureRangesOk cid.toNat ctx.toNat nchild.toNat parent.toNat limit.toNat nlocal.toNat = false
    let run := exec (.closureSetup h cid ctx nchild parent limit nlocal list) s
    (bad → run = .next (s.finish r 0x0801)) ∧
    (¬ bad → (s.closure cid.toNat).st = .opened → run = .next (s.finish r 0x0344)) ∧
    (∀ child units, ¬ bad → (s.closure cid.toNat).st ≠ .opened → s.fwStatus list.toNat (4 * (nchild.toNat + nlocal.toNat)) = 0 →
      s.badIn list.toNat (4 * (nchild.toNat + nlocal.toNat)) = false →
      s.closureList list.toNat nchild.toNat nlocal.toNat = some (child, units) →
      run = .next (((s.access .control false list.toNat (4 * (nchild.toNat + nlocal.toNat))).setupClosure cid.toNat ctx.toNat parent.toNat limit.toNat child units).finish r 0) ∧
      ∃ t, run = .next t ∧ t.closure cid.toNat = { Closure.idle with
          st := .opened
          ctx := ctx.toNat
          parent := parent.toNat
          child := child
          units := units
          limit := if limit.toNat = 0 then s.flt.wlim.getD 3 20000 else limit.toNat } ∧
        (∀ j, j ≠ cid.toNat → t.closure j = s.closure j) ∧
        ((∀ c, c < 8 → (s.ctx c).st = .free ∨ (s.ctx c).st = .running ∨ (s.ctx c).st = .slicing) →
          (∀ u, u ∈ units → t.cbits (engKey ctx.toNat u) cid.toNat = 1) ∧
          (∀ k j, j ≠ cid.toNat → t.cbits k j = s.cbits k j) ∧ t.mem = s.mem))) ∧
  (∀ (s : State) (h : Hdr) (cid : BitVec 16) (r : Started), Admitted s h 0x0406 (Instr.params (.closureRelease h cid)) r → cid.toNat < 1024 →
    (s.closureBusy cid.toNat = true → exec (.closureRelease h cid) s = .next (s.finish r 0x0345)) ∧
    (s.closureBusy cid.toNat = false → ∃ t, exec (.closureRelease h cid) s = .next t ∧ t.closure cid.toNat = Closure.idle ∧
      (∀ j, j ≠ cid.toNat → t.closure j = s.closure j) ∧ t.eng = s.eng ∧ t.mem = s.mem))

/-- Power by command (R389, R396, R401, R404): POWER_CAP within 1,800 to 5,200 W and OPPOINT to P0 to P5 take effect,
another value ends with 0x0801 and changes nothing; FILLER_PROFILE stores its record when its fields keep their ranges;
THROTTLE_LOG_READ writes the entries that are still held, by index, and says how many. -/
def Obligations.PowerCommands : Prop :=
  (∀ (s : State) (h : Hdr) (w : BitVec 32) (r : Started), Admitted s h 0x0601 (Instr.params (.powerCap h w)) r →
    (w.toNat < 1800 ∨ 5200 < w.toNat → exec (.powerCap h w) s = .next (s.finish r 0x0801)) ∧
    (1800 ≤ w.toNat → w.toNat ≤ 5200 → ∃ t, exec (.powerCap h w) s = .next t ∧ t.pwr = { s.pwr with cap := w.toNat } ∧
      t.mem = s.mem ∧ t.eng = s.eng ∧ t.brg = s.brg)) ∧
  (∀ (s : State) (h : Hdr) (p : Byte) (r : Started), Admitted s h 0x0602 (Instr.params (.oppoint h p)) r →
    (5 < p.toNat → exec (.oppoint h p) s = .next (s.finish r 0x0801)) ∧
    (p.toNat ≤ 5 → s.pwr.change = none → ∃ t, exec (.oppoint h p) s = .next t ∧ t.pwr.req = p.toNat ∧ t.pwr.src = false ∧
      t.pwr.eff = s.pwr.eff ∧
      let want := max p.toNat (max s.pwr.tceil s.pwr.cceil)
      t.pwr.change = (if want = s.pwr.eff then none else some ⟨want, false⟩))) ∧
  (∀ (s : State) (h : Hdr) (k : Byte) (rec : BitVec 512) (r : Started), Admitted s h 0x0603 (Instr.params (.fillerProfile h k rec)) r →
    (15 < k.toNat ∨ fillerOk rec.toNat = false → exec (.fillerProfile h k rec) s = .next (s.finish r 0x0801)) ∧
    (k.toNat ≤ 15 → fillerOk rec.toNat = true → ∃ t, exec (.fillerProfile h k rec) s = .next t ∧
      Map.find t.pwr.fills k.toNat = some rec.toNat ∧ (∀ j, j ≠ k.toNat → Map.find t.pwr.fills j = Map.find s.pwr.fills j) ∧
      t.pwr.fill = s.pwr.fill)) ∧
  (∀ (s : State) (h : Hdr) (a : BitVec 64) (first : BitVec 32) (n : BitVec 16) (r : Started), Admitted s h 0x0604 (Instr.params (.throttleLogRead h a first n)) r →
    (n.toNat = 0 ∨ 256 < n.toNat → exec (.throttleLogRead h a first n) s = .next (s.finish r 0x0801)) ∧
    (1 ≤ n.toNat → n.toNat ≤ 256 → ∃ es : List ThrEntry, exec (.throttleLogRead h a first n) s =
        .next ((s.hostOut r a.toNat (es.flatMap ThrEntry.bytes)).finish r 0 (toLE 4 es.length)) ∧
      (∀ e, e ∈ es ↔ ∃ i, i < n.toNat ∧ e.ep.ix = (first.toNat + i) % 2 ^ 32 ∧ Map.find s.pwr.log (e.ep.ix % 1024) = some e)))

/-- Counters (R465, R469-R471): a delta moves into the store modulo 2^48, a clock counter's with the clocks that it has
gathered; FREEZE holds the image of the store with every delta, THAW lets it go; a snapshot takes its image at once and is
refused while a copy runs, or a SNAP stakeout issues in the same clock; the end of a copy has written the header, every
pair of the image, and nothing outside its slot, and counts, while one whose shelf no longer takes it is abandoned and
does not. CTR_READ gives the counters of the image while it is held. -/
def Obligations.CounterCommands : Prop :=
  (∀ (s : State) (k : BitVec 20) (n : BitVec 48),
    (counterNamed k.toNat = false → exec (.counterDeltaMove k n) s = .next s) ∧
    (counterNamed k.toNat = true → ∃ t, exec (.counterDeltaMove k n) s = .next t ∧
      Map.getD t.ctr.store k.toNat 0 = (Map.getD s.ctr.store k.toNat 0 + (Map.getD s.ctr.delta k.toNat 0 +
        (if clockCounter k.toNat then n.toNat else 0))) % 2 ^ 48 ∧ Map.getD t.ctr.delta k.toNat 0 = 0 ∧
      (∀ j, j ≠ k.toNat → Map.getD t.ctr.store j 0 = Map.getD s.ctr.store j 0 ∧
        Map.getD t.ctr.delta j 0 = Map.getD s.ctr.delta j 0) ∧ t = { s with ctr := { s.ctr with
          store := t.ctr.store
          delta := t.ctr.delta } })) ∧
  (∀ (s : State) (h : Hdr) (r : Started),
    (Admitted s h 0x0902 (Instr.params (.freeze h)) r → ∃ t, exec (.freeze h) s = .next t ∧ t.ctr.held = true ∧ t.ctr.store = s.ctr.store ∧
      t.ctr.image = (if s.ctr.image.isSome then s.ctr.image else some s.ctr.freeze)) ∧
    (Admitted s h 0x0903 (Instr.params (.thaw h)) r → s.ctr.copy = none → s.ctr.held = true → ∃ t, exec (.thaw h) s = .next t ∧ t.ctr.held = false ∧
      t.ctr.image = none ∧ t.ctr.store = s.ctr.store) ∧
    (Admitted s h 0x0903 (Instr.params (.thaw h)) r → s.ctr.copy.isSome = true → s.ctr.held = true → ∃ t, exec (.thaw h) s = .next t ∧
      t.ctr.thawNext = true ∧ t.ctr.image = s.ctr.image) ∧
    (∀ tag, Admitted s h 0x0901 (Instr.params (.snapshot h tag)) r → s.snapDue = true →
      exec (.snapshot h tag) s = .next (s.finish r 0x0301)) ∧
    (∀ tag, Admitted s h 0x0901 (Instr.params (.snapshot h tag)) r → s.snapDue = false → s.ctr.copy = none → s.ctr.en = true → s.snapShelfOk s.ctr.shelf = true →
      ∃ t k, exec (.snapshot h tag) s = .next t ∧ t.ctr.copy = some k ∧ k.n = s.ctr.nSnap + 1 ∧ k.tag = tag.toNat ∧
        k.stakeout = false ∧ k.time = s.ns ∧ k.bearing = s.brg.bearingAt s.now ∧ k.rev = s.brg.rev ∧ t.ctr.image = (if s.ctr.image.isSome then s.ctr.image else some s.ctr.freeze) ∧
        t.cmd = (s.begin r).cmd ∧ t.mem = s.mem) ∧
    (∀ tag, Admitted s h 0x0901 (Instr.params (.snapshot h tag)) r → s.snapDue = false → s.ctr.copy.isSome = true → exec (.snapshot h tag) s =
      .next (((State.count { s with ctr := { s.ctr with smiss := true } } (ctrDev 56))).finish r 0x0301)) ∧
    (∀ (first count : BitVec 32) (a : BitVec 64), Admitted s h 0x0904 (Instr.params (.ctrRead h first count a)) r → first.toNat + count.toNat ≤ 1040384 →
      exec (.ctrRead h first count a) s = .next ((s.hostOut r a.toNat ((List.range count.toNat).flatMap fun i =>
        toLE 8 (if first.toNat + i < 669312 then Map.getD (s.ctr.image.getD s.ctr.store) (first.toNat + i) 0 else 0))).finish r 0
        (toLE 4 count.toNat)))) ∧
  (∀ (s : State) (k : SnapCopy) (m : Map Nat), s.ctr.copy = some k → s.ctr.image = some m →
    s.snapAdmits (shelfAddr k.shelf (0x800000 * ((k.n - 1) % 7))) 0x800000 = true →
    Map.rising m = true → (m.all fun kv => decide (kv.2 < 2 ^ 48)) = true →
    let a := shelfAddr k.shelf (0x800000 * ((k.n - 1) % 7))
    ∃ t, exec .snapshotCopyDone s = .next t ∧ t.ctr.copy = none ∧ t.ctr.sdone = true ∧ t.ctr.ltag = k.tag ∧
      t.ctr.scount = k.n % 65536 ∧ t.ctr.nSnap = k.n ∧ t.mem.readN a (s.snapHeader k).length = s.snapHeader k ∧
      (∀ i, i < 669312 → t.mem.readLE (a + 0x10000 + 8 * i) 8 = Map.getD m i 0) ∧
      (∀ b, b < a ∨ a + 0x800000 ≤ b → t.mem.read b = s.mem.read b)) ∧
  (∀ (s : State) (k : SnapCopy), s.ctr.copy = some k →
    s.snapAdmits (shelfAddr k.shelf (0x800000 * ((k.n - 1) % 7))) 0x800000 = false →
    ∃ t, exec .snapshotCopyDone s = .next t ∧ t.ctr.copy = none ∧ t.ctr.smiss = true ∧ t.ctr.sdone = s.ctr.sdone ∧
      t.ctr.scount = s.ctr.scount ∧ t.ctr.nSnap = s.ctr.nSnap ∧ t.mem = s.mem) ∧
  (∀ s : State, s.ctr.copy = none → exec .snapshotCopyDone s = .next s)

/-- Surveys, replays, drains and wait limits (R411, R426-R434): a survey compares the images of the pairs of its mask,
each computed by R433 from its seed but for those of faulty parcels (log entry 71), and answers how many it compared, how
many disagreed and the lowest suspect; it is logged, and one with a suspect flags and drains the device. REPLAY_STEP
restores the catalogue from a complete record and begins its comparison. DRAIN pre-empts every running context and
releases every slot. WAIT_LIMITS sets the levels that its mask names when all six keep their order and ranges, and else
none. -/
def Obligations.ReliabilityCommands : Prop :=
  (∀ (s : State) (h : Hdr) (seed : BitVec 64) (tiles : BitVec 32) (mask : Byte) (faults referees : List SurveyFault) (r : Started),
    Admitted s h 0x0701 (Instr.params (.survey h seed tiles mask faults referees)) r →
    let run := exec (.survey h seed tiles mask faults referees) s
    let n := if mask = 15 then 8192 else 4096
    let sus := (List.range n).map fun q =>
      (List.range tiles.toNat).flatMap fun t => surveySuspects seed mask.toNat faults referees q t
    let dis := (sus.filter fun l => !l.isEmpty).length
    (tiles.toNat = 0 ∨ 65536 < tiles.toNat ∨ ¬ (mask = 3 ∨ mask = 12 ∨ mask = 15) → run = .next (s.finish r 0x0801)) ∧
    (mask = 3 ∨ mask = 12 ∨ mask = 15 → 1 ≤ tiles.toNat → tiles.toNat ≤ 65536 →
      (s.surveyBusy mask.toNat = true → run = .next (s.finish r 0x0301)) ∧
      (s.surveyBusy mask.toNat = false → sus.flatten = [] →
        let res := toLE 4 n ++ toLE 4 0 ++ toLE 3 0xFFFFFF
        run = .next ((s.log 0x0070 0 0 0xFFFFFFFF 0 0 res).finish r 0 res)) ∧
      (∀ p, s.surveyBusy mask.toNat = false → p ∈ sus.flatten → (∀ x ∈ sus.flatten, p ≤ x) → ∃ u t, run = .next t ∧
        t = State.finish u r 0 (toLE 4 n ++ toLE 4 dis ++ toLE 3 (unitPath p)) ∧ t.flt.flagged = true ∧ t.flt.drained = true))) ∧
  (∀ (s : State) (h : Hdr) (rev : BitVec 32) (es : List CatEntry) (r : Started), Admitted s h 0x0702 (Instr.params (.replayStep h rev)) r →
    (s.brg.valid = true → exec (.replayStep h rev) s = .next (s.finish r 0x0301)) ∧
    (s.brg.valid = false → s.journalHeld rev.toNat = false → exec (.replayStep h rev) s = .next (s.finish r 0x0801)) ∧
    (s.brg.valid = false → s.journalHeld rev.toNat = true → s.badIn (journalAddr rev.toNat) 0x410000 = false →
      s.journalCat rev.toNat = es.map some → ∃ t, exec (.replayStep h rev) s = .next t ∧
        (∀ k, k < 65536 → t.catEntry k = (es.getD k CatEntry.default).refresh) ∧
        t.cat.skiprun = s.mem.readLE (journalAddr rev.toNat + 16) 2 ∧
        t.flt.replay = some ⟨rev.toNat, (List.range 128).map fun i => (i, s.journalRow rev.toNat i), false⟩ ∧
        t.cmd = (s.begin r).cmd ∧ t.mem = s.mem)) ∧
  (∀ (s : State) (h : Hdr) (r : Started), Admitted s h 0x0703 (Instr.params (.drain h)) r → s.flt.drained = false → ∃ t, exec (.drain h) s = .next t ∧
    t.flt.drained = true ∧ t.flt.flagged = s.flt.flagged ∧ (∀ k c, t.col k = some c → c.grant = 0) ∧
    (∀ c, c < 8 → (s.ctx c).st = .running → (t.ctx c).st = .running ∧ (t.ctx c).parking = true)) ∧
  (∀ (s : State) (h : Hdr) (mask : Byte) (t0 t1 t2 t3 t4 t5 : BitVec 32) (r : Started), Admitted s h 0x0704 (Instr.params (.waitLimits h mask t0 t1 t2 t3 t4 t5)) r →
    let new := [if mask.toNat.testBit 0 then t0.toNat else s.flt.wlim.getD 0 0, if mask.toNat.testBit 1 then t1.toNat else s.flt.wlim.getD 1 0,
      if mask.toNat.testBit 2 then t2.toNat else s.flt.wlim.getD 2 0, if mask.toNat.testBit 3 then t3.toNat else s.flt.wlim.getD 3 0,
      if mask.toNat.testBit 4 then t4.toNat else s.flt.wlim.getD 4 0, if mask.toNat.testBit 5 then t5.toNat else s.flt.wlim.getD 5 0]
    (64 ≤ mask.toNat ∨ limitsOk new s.flt.wlong = false → exec (.waitLimits h mask t0 t1 t2 t3 t4 t5) s = .next (s.finish r 0x0801)) ∧
    (mask.toNat < 64 → limitsOk new s.flt.wlong = true → ∃ t, exec (.waitLimits h mask t0 t1 t2 t3 t4 t5) s = .next t ∧
      t.flt = { s.flt with wlim := new } ∧ t.mem = s.mem))

/-- Units out of service and back (R414-R419, R368): UNIT_QUIESCE of a unit in service begins its quiesce, and its receipt
is to come; a unit with nothing left is QUIESCED, and so is one whose bound expires, which ends what its engines and what
a slice still held; UNIT_RESET of a quiesced parcel or tract raises its epoch, clears its Fieldbooks and returns it to
service, but for the state of parked contexts that its save areas hold; UNIT_RESUME returns it without a reset. SPARE_SWAP
uses a spare of the parcel's tract; with none left the device is flagged and drained. -/
def Obligations.UnitService : Prop :=
  (∀ (s : State) (h : Hdr) (code : BitVec 32) (u : UnitRef) (r : Started), unitRef code.toNat = some u → s.unitStatus code.toNat = none →
    (Admitted s h 0x0705 (Instr.params (.unitQuiesce h code)) r → s.svcOf u.code = .quiesced → exec (.unitQuiesce h code) s = .next (s.finish r 0)) ∧
    (Admitted s h 0x0705 (Instr.params (.unitQuiesce h code)) r → s.svcOf u.code = .inService → exec (.unitQuiesce h code) s = .next ((s.begin r).quiesceBegin u)) ∧
    (∀ n, Admitted s h 0x0705 (Instr.params (.unitQuiesce h code)) r → u = .slice n → s.svcOf u.code = .inService → ∃ t, exec (.unitQuiesce h code) s = .next t ∧
      t.svcOf u.code = .quiescing ∧ t.eng = s.eng ∧ t.arc = s.arc ∧ t.mem = s.mem) ∧
    (Admitted s h 0x0706 (Instr.params (.unitReset h code)) r → s.svcOf u.code = .inService → exec (.unitReset h code) s = .next ((s.begin r).quiesceBegin u)) ∧
    (∀ v, Admitted s h 0x0706 (Instr.params (.unitReset h code)) r → u = .unit v → s.svcOf u.code = .quiesced → ∃ t, exec (.unitReset h code) s = .next t ∧
      t.svcOf u.code = .inService ∧ t.epochOf u.code = (s.epochOf u.code + 1) % 65536 ∧
      ((∀ c, (s.ctx c).resident = true → (s.ctx c).st = .running) →
        ∀ p j, p ∈ parcelsOf v → j < 0xC0000 → t.mem.read (fbAddr p j) = 0)) ∧
    (∀ v, Admitted s h 0x0707 (Instr.params (.unitResume h code)) r → u = .unit v → s.svcOf u.code = .quiesced → exec (.unitResume h code) s =
      .next ((s.setSvc u.code .inService).finish r 0))) ∧
  (∀ (s : State) (h : Hdr) (code : BitVec 32) (r : Started), 4 < code.toNat % 16 ∨ 2 ^ 21 ≤ code.toNat ∨
    (code.toNat % 16 = 0 ∧ 4 < code.toNat / 16 % 8) →
    (Admitted s h 0x0705 (Instr.params (.unitQuiesce h code)) r → exec (.unitQuiesce h code) s = .next (s.finish r 0x0801)) ∧
    (Admitted s h 0x0706 (Instr.params (.unitReset h code)) r → exec (.unitReset h code) s = .next (s.finish r 0x0801)) ∧
    (Admitted s h 0x0707 (Instr.params (.unitResume h code)) r → exec (.unitResume h code) s = .next (s.finish r 0x0801))) ∧
  (∀ (s : State) (code : BitVec 32) (u : UnitRef), unitRef code.toNat = some u →
    (s.cmd.started.filter fun r => r.begun && r.names objUnit u.code) = [] →
    (s.svcOf u.code ≠ .quiescing → exec (.quiesceAcceptedDone code) s = .next s ∧ exec (.quiesceBoundExpiry code) s = .next s) ∧
    (s.svcOf u.code = .quiescing → s.acceptedDone u = false → exec (.quiesceAcceptedDone code) s = .next s) ∧
    (s.svcOf u.code = .quiescing → s.acceptedDone u = true →
      exec (.quiesceAcceptedDone code) s = .next (s.quiesceEnd u) ∧ (s.quiesceEnd u).svcOf u.code = .quiesced ∧
        (s.quiesceEnd u).eng = s.eng ∧ (s.quiesceEnd u).mem = s.mem) ∧
    (∀ v, u = .unit v → s.svcOf u.code = .quiescing → ∃ t, exec (.quiesceBoundExpiry code) s = .next t ∧
      t.svcOf u.code = .quiesced ∧ t.mem = s.mem ∧ (s.acceptedDone u = true → t.eng = s.eng) ∧
      (∀ k, keyUnit k < 17477 → within (keyUnit k) v = true → (t.engOf k).settled = true)) ∧
    (∀ n, u = .slice n → s.svcOf u.code = .quiescing → ∃ t, exec (.quiesceBoundExpiry code) s = .next t ∧
      t.svcOf u.code = .quiesced ∧ (∀ k q, q ∈ (t.slice k).reqs → sliceOf q.addr ≠ n) ∧ t.mem = s.mem)) ∧
  (∀ (s : State) (h : Hdr) (path : BitVec 24) (p : Nat) (r : Started), Admitted s h 0x0708 (Instr.params (.spareSwap h path)) r → path.toNat < 2 ^ 17 →
    path.toNat % 8 = 0 → pathUnit path.toNat = some p →
    (s.sparesLeft p ≠ 0 → ∃ t, exec (.spareSwap h path) s = .next t ∧ t.flt.spares = s.flt.spares.set (p / 256) (s.sparesLeft p - 1) ∧
      p ∈ t.flt.swapped ∧ t.eng = s.eng ∧ t.mem = s.mem) ∧
    (s.sparesLeft p = 0 → ∃ t, exec (.spareSwap h path) s = .next t ∧ t.flt.flagged = true ∧ t.flt.drained = true))

/-- Security by command (R437-R452): ATTEST writes a report of 768 bytes that carries the nonce, and its signature;
IDENTITY_READ writes the identity record; the signatures are those of the keys that R438 derives. DEBUG_OPEN with a good
record for this part opens it for good, zeroises its secrets, derives its keys again and unlocks its test access port, and
any other leaves it closed; IMAGE_STAGE stages an image whose bytes pass every check; IMAGE_ACTIVATE of the policy class
makes the staged copy the active one, keeps the old one as the inactive copy and raises the anti-rollback counter, and one
below that counter ends with 0x0902; of the slice class it resets its quiesced slice, and where it does not start there
the mark returns to the previous copy; IMAGE_QUERY answers with version and counter. -/
def Obligations.SecurityCommands : Prop :=
  (∀ (s : State) (h : Hdr) (nonce : BitVec 256) (a : BitVec 64) (r : Started), Admitted s h 0x0801 (Instr.params (.attest h nonce a)) r →
    let body := s.attestBody nonce
    exec (.attest h nonce a) s = .next ((s.hostOut r a.toNat (body ++ (List.range 35664).map
      (Config.slhSign s.sec.atk body))).finish r 0 (toLE 4 36432)) ∧
    body.length = 768 ∧ leAt body 0 4 = 0x54414C47 ∧ leAt body 24 32 = nonce.toNat ∧
    (leAt body 6 2).testBit 0 = s.dbgOpen ∧ (leAt body 6 2).testBit 1 = s.flt.drained) ∧
  (∀ (s : State) (h : Hdr) (a : BitVec 64) (r : Started), Admitted s h 0x0802 (Instr.params (.identityRead h a)) r →
    let body := s.identityBody
    let chain := Config.chain s.dbgOpen
    exec (.identityRead h a) s = .next ((s.hostOut r a.toNat (body ++ (List.range 35664).map (Config.slhSign s.sec.idk body) ++
      toLE 4 chain.length ++ chain)).finish r 0 (toLE 4 (35796 + chain.length))) ∧
    body.length = 128 ∧ leAt body 0 4 = 0x44494C47) ∧
  (∀ (s : State) (h : Hdr) (rec : List Byte) (sig : Option (List Byte)) (sigOk : Bool) (r : Started),
    Admitted s h 0x0803 (Instr.params (.debugOpen h rec sig sigOk)) r →
    let run := exec (.debugOpen h rec sig sigOk) s
    let mine := leAt rec 8 8 = Config.serial.toNat ∧ sha256 (bytesAt rec 16 48) = s.sec.dkh ∧ s.sec.nodbg = false
    (debugRecordOk rec = false → run = .next (s.finish r 0x0801)) ∧
    (debugRecordOk rec = true → s.dbgOpen = true → run = .next (s.finish r 0)) ∧
    (debugRecordOk rec = true → s.dbgOpen = false → ¬ mine → run = .next (s.finish r 0x0903)) ∧
    (debugRecordOk rec = true → s.dbgOpen = false → mine → sig = none → run = .next (s.finish r 0x0771)) ∧
    (debugRecordOk rec = true → s.dbgOpen = false → mine → sig.isSome = true → sigOk = false → run = .next (s.finish r 0x0903)) ∧
    (debugRecordOk rec = true → s.dbgOpen = false → mine → sig.isSome = true → sigOk = true →
      ∃ t, run = .next t ∧ t.dbgOpen = true ∧ t.sec = { s.sec with
        jobKeys := []
        session := false
        sessionKey := 0
        ide := []
        ideKeys := []
        tapOpen := true
        idk := idkOf s.sec.uds 1
        atk := atkOf s.sec.uds 1 s.sec.arbs } ∧ t.mem = s.mem)) ∧
  (∀ (s : State) (h : Hdr) (cls : Byte) (a : BitVec 64) (len : BitVec 32) (img : Option (List Byte)) (ok : Bool) (r : Started),
    Admitted s h 0x0A01 (Instr.params (.imageStage h cls a len img ok)) r → cls.toNat ≤ 6 →
    let run := exec (.imageStage h cls a len img ok) s
    (s.sec.noimg = true → run = .next (s.finish r 0x0301)) ∧
    (s.sec.noimg = false → img = none → run = .next (s.finish r 0x0771)) ∧
    (∀ b, s.sec.noimg = false → img = some b →
      let kslot := leAt b 6 1
      let small := s.stagedOther cls.toNat + b.length ≤ 2 ^ 26
      let signed := kslot < 4 ∧ s.sec.ikrev.testBit kslot = false ∧ sha256 (bytesAt b 64 48) = s.sec.ikh.getD kslot [] ∧
        sha256 (b.drop 16336) = bytesAt b 16 32 ∧ ok = true
      (imageHdrOk cls.toNat b = false → run = .next (s.finish r 0x0801)) ∧
      (imageHdrOk cls.toNat b = true → ¬ small → run = .next (s.finish r 0x0207)) ∧
      (imageHdrOk cls.toNat b = true → small → ¬ signed → run = .next (s.finish r 0x0901)) ∧
      (imageHdrOk cls.toNat b = true → small → signed → leAt b 5 1 < s.arb cls.toNat → run = .next (s.finish r 0x0902)) ∧
      (imageHdrOk cls.toNat b = true → small → signed → s.arb cls.toNat ≤ leAt b 5 1 → ∃ t, run = .next t ∧
        Map.find t.sec.staged cls.toNat = some ⟨leAt b 8 4, leAt b 5 1, kslot, leAt b 16 32, b⟩ ∧
        (∀ j, j ≠ cls.toNat → Map.find t.sec.staged j = Map.find s.sec.staged j) ∧ t.sec.active = s.sec.active))) ∧
  (∀ (s : State) (h : Hdr) (code : BitVec 32) (ap : Bool) (r : Started), Admitted s h 0x0A02 (Instr.params (.imageActivate h 5 code ap)) r → s.sec.noimg = false →
    (Map.find s.sec.staged 5 = none → exec (.imageActivate h 5 code ap) s = .next (s.finish r 0x0801)) ∧
    (∀ i, Map.find s.sec.staged 5 = some i → i.svn < s.arb 5 → exec (.imageActivate h 5 code ap) s = .next (s.finish r 0x0902)) ∧
    (∀ i, Map.find s.sec.staged 5 = some i → s.arb 5 ≤ i.svn → ∃ t, exec (.imageActivate h 5 code ap) s = .next t ∧
      Map.find t.sec.active 5 = some i ∧ Map.find t.sec.inactive 5 = Map.find s.sec.active 5 ∧ t.arb 5 = max (s.arb 5) i.svn ∧
      (∀ j, j ≠ 5 → Map.find t.sec.active j = Map.find s.sec.active j ∧ t.arb j = s.arb j))) ∧
  (∀ (s : State) (h : Hdr) (code : BitVec 32) (ap : Bool) (r : Started) (i : Image) (n : Nat),
    Admitted s h 0x0A02 (Instr.params (.imageActivate h 3 code ap)) r → s.sec.noimg = false →
    Map.find s.sec.staged 3 = some i → s.arb 3 ≤ i.svn → unitRef code.toNat = some (.slice n) → s.unitStatus code.toNat = none →
    s.svcOf (codeSlice n) = .quiesced → ∃ t, exec (.imageActivate h 3 code ap) s = .next t ∧ t.svcOf (codeSlice n) = .inService ∧
      t.epochOf (codeSlice n) = (s.epochOf (codeSlice n) + 1) % 65536 ∧
      (ap = true → Map.find t.sec.active 3 = some i ∧ Map.find t.sec.inactive 3 = Map.find s.sec.active 3 ∧
        t.arb 3 = max (s.arb 3) i.svn) ∧
      (ap = false → (∀ j, Map.find t.sec.active j = Map.find s.sec.active j) ∧ Map.find t.sec.inactive 3 = some i ∧ t.arb 3 = s.arb 3)) ∧
  (∀ (s : State) (h : Hdr) (cls : Byte) (r : Started), Admitted s h 0x0A03 (Instr.params (.imageQuery h cls)) r → cls.toNat ≤ 6 →
    exec (.imageQuery h cls) s = .next (s.finish r 0 (toLE 4 (s.activeVersion cls.toNat) ++ toLE 4 (s.arb cls.toNat))))

/-- The secured session and the test access port (R436, R440, R450, R487): a session is established where the requester
offers every algorithm of R436 and asks for no mutual authentication; keys are stored, read back and used only within a
session, and its end takes its own and the stream keys with it; a message without a session is answered with an error and
changes nothing. A locked port answers BYPASS and IDCODE and nothing else. The side band (R424, R484-R486): while the 12 V
input powers it the SMBus target answers with the health bytes, the serial number, the station number, the log entry at
the cursor, which then moves on, and the number of persistent entries; a low ALERT# is answered with the address and
released. Without 12 V it answers nothing. The state of the management port is as its link. -/
def Obligations.SessionAndSideBand : Prop :=
  (∀ (s : State),
      (∀ offer auth, spdmOffers offer = true → auth = false → exec (.spdmMessage (.establish offer auth)) s = .next { s with
        sec := { s.sec with session := true, sessionKey := (s.free 256).toNat }
        fresh := s.fresh + 1
        out := .spdm [] :: s.out }) ∧
      (∀ offer auth, spdmOffers offer = false ∨ auth = true →
        ∃ bs, exec (.spdmMessage (.establish offer auth)) s = .next { s with out := .spdm bs :: s.out }) ∧
      (s.sec.session = true →
        (exec (.spdmMessage .endSession) s =
          .next { s with
            sec := { s.sec with session := false, sessionKey := 0, ide := [], ideKeys := [] }
            out := .spdm [] :: s.out }) ∧
        (∀ k v, ∃ t, exec (.spdmMessage (.ideKey k v)) s = .next t ∧ Map.getD t.sec.ide k.val false = true ∧
          Map.find t.sec.ideKeys k.val = some v.toNat ∧
          (∀ j, j ≠ k.val → Map.getD t.sec.ide j false = Map.getD s.sec.ide j false ∧
            Map.find t.sec.ideKeys j = Map.find s.sec.ideKeys j)) ∧
        (∀ k, ∃ t, exec (.spdmMessage (.ideStop k)) s = .next t ∧ Map.getD t.sec.ide k.val false = false ∧
          Map.find t.sec.ideKeys k.val = none) ∧
        (∀ k (v : BitVec 256), ∃ t, exec (.jobKeyMessage (.store k v)) s = .next t ∧ Map.getD t.sec.jobKeys k.val 0 = v.toNat ∧
          (∀ j, j ≠ k.val → Map.getD t.sec.jobKeys j 0 = Map.getD s.sec.jobKeys j 0)) ∧
        (∀ k, exec (.jobKeyMessage (.readBack k)) s =
          .next { s with out := .spdm (toLE 32 (Map.getD s.sec.jobKeys k.val 0)) :: s.out })) ∧
      (s.sec.session = false →
        (∀ m, ∃ bs, exec (.jobKeyMessage m) s = .next { s with out := .spdm bs :: s.out }) ∧
        (∀ k v, ∃ bs, exec (.spdmMessage (.ideKey k v)) s = .next { s with out := .spdm bs :: s.out })) ∧
      (exec (.tapInstruction .idcode) s = .next { s with out := .tap 0x09160E8B :: s.out }) ∧
      (exec (.tapInstruction .bypass) s = .next { s with out := .tap 0 :: s.out }) ∧
      (s.sec.tapOpen = false → ∀ c, exec (.tapInstruction (.other c)) s = .next s)) ∧
  (∀ (s : State),
      (s.mod.v12 = true →
        (∃ bs, exec .smbusHealthRead s = .next { s with out := .smbus bs :: s.out } ∧ bs.length = 16 ∧
          leAt bs 0 2 = (if s.mod.v50 then s.tmax else 0) % 2 ^ 16 ∧ leAt bs 4 2 = s.flt.spares.sum % 2 ^ 16 ∧
          (leAt bs 11 1).testBit 1 = s.flt.flagged) ∧
        (exec .smbusSerialRead s = .next { s with out := .smbus (toLE 8 Config.serial.toNat) :: s.out }) ∧
        (exec .smbusStationRead s = .next { s with out := .smbus (toLE 2 s.station) :: s.out }) ∧
        (∀ w : BitVec 16, exec (.smbusLogCursorWrite w) s = .next { s with mod := { s.mod with cursor := w.toNat } }) ∧
        (∀ e, s.mod.cursor < 4096 → Map.find s.flt.vlog s.mod.cursor = some e → exec .smbusLogEntryRead s = .next { s with
          out := .smbus e.bytes :: s.out
          mod := { s.mod with cursor := (s.mod.cursor + 1) % 4096 } }) ∧
        (exec .smbusPcntRead s = .next { s with out := .smbus (toLE 1 (min 255 s.flt.plog.length)) :: s.out }) ∧
        (s.mod.alertLow = true → exec .smbusAlertResponse s = .next { s with
          out := .smbus (toLE 1 (2 * (0x60 + Config.smbusStrap.toNat))) :: s.out
          mod := { s.mod with alertLow := false } })) ∧
      (s.mod.v12 = false → exec .smbusHealthRead s = .next s ∧ exec .smbusSerialRead s = .next s ∧ exec .smbusStationRead s = .next s ∧
        (∀ w, exec (.smbusLogCursorWrite w) s = .next s) ∧ exec .smbusLogEntryRead s = .next s ∧ exec .smbusPcntRead s = .next s) ∧
      (s.mod.alertLow = false → exec .smbusAlertResponse s = .next s) ∧
      (∀ up, exec (.managementPortLinkChange up) s = .next { s with mod := { s.mod with mgmtUp := up } }))

/-- The power controller (R387, R390-R396): each update moves the two bubble fractions by the error against the cap and
against the guard, kept in 0 to BMAX, and the fraction in force is the largest of them, of EXTB while the external
throttle is asserted, and of BMAX in an emergency; the ceiling falls one point after ten updates at the maximum. A switch
takes the target point, unless a droop event is under way, which it waits for; the end of a falling ramp ends the change.
A detected droop stretches its domain's clock, for 8 cycles at least, and the event ends only when no domain is stretched.
Temperature and filler (R397-R400): at 105 °C the emergency begins and the ceiling is P5, below 100 °C it ends, and at 110
°C the device trips: it drains, the domains stop and TRIP# is driven; every 100 ms the ceiling falls one point at 95 °C
and above and rises one below 90 °C. A filler is released when the bearing of a later revolution reaches its release, or
after its longest hold, and not before. -/
def Obligations.PowerControl : Prop :=
  ((∀ (s : State) (t watts measured ma : Nat) (bins : List Nat), 1 ≤ s.pwr.cap →
      let p := s.pwr
      let bc := bubbleUpdate (if p.mode then watts else measured) p.cap p.bcap p.gain p.bmax
      let bi := max (bubbleUpdate measured 5200 p.bcur p.gain p.bmax) (bubbleUpdate ma 125000 p.bcur p.gain p.bmax)
      ∃ u, exec (.powerUpdate t watts measured ma bins) s = .next u ∧ u.pin = measured ∧ u.pwr.bcap = bc ∧ u.pwr.bcur = bi ∧
        bc ≤ p.bmax * 256 ∧ bi ≤ p.bmax * 256 ∧
        u.pwr.b = max (max bc bi) (max (if p.ext then min p.extb p.bmax * 256 else 0) (if p.emergency then p.bmax * 256 else 0)) ∧
        (bc = p.bmax * 256 → p.maxRun = 9 → u.pwr.cceil = min 5 (p.cceil + 1)) ∧ u.mem = s.mem ∧ u.eng = s.eng) ∧
    (∀ (s : State) (p : Nat), s.pwr.change = some ⟨p, false⟩ →
      (s.pwr.droop = false → ∃ u, exec .oppSwitch s = .next u ∧ u.pwr.eff = p ∧ u.pwr.pend = false ∧
        (s.pwr.eff < p → u.pwr.change = some ⟨p, true⟩)) ∧
      (s.pwr.droop = true → s.pwr.pend = false → exec .oppSwitch s =
        .next (State.count { s with pwr := { s.pwr with pend := true } } (ctrDev 29))) ∧
      (s.pwr.droop = true → s.pwr.pend = true → exec .oppSwitch s = .next s ∧
        (s.pwr.stretched = [] → ∃ u, exec .droopEventEnd s = .next u ∧ u.pwr.droop = false ∧ u.pwr.eff = p))) ∧
    (∀ (s : State) (p : Nat), s.pwr.change = some ⟨p, true⟩ → s.pwr.wanted = s.pwr.eff → ∃ u, exec .oppVoltageRampDone s = .next u ∧
      u.pwr.change = none ∧ u.pwr.eff = s.pwr.eff) ∧
    (∀ (s : State) (d : Fin 64), ∃ u, exec (.droopDetect d) s = .next u ∧ d.val ∈ u.pwr.stretched ∧ u.pwr.droop = true ∧
      u = { s with pwr := u.pwr }) ∧
    (∀ (s : State) (d : Fin 64) (n : Nat), (n < 8 → exec (.droopStretchEnd d n) s = .next s) ∧
      (8 ≤ n → ∃ u, exec (.droopStretchEnd d n) s = .next u ∧ d.val ∉ u.pwr.stretched ∧
        (∀ x, x ≠ d.val → (x ∈ u.pwr.stretched ↔ x ∈ s.pwr.stretched)) ∧ u = { s with pwr := u.pwr })) ∧
    (∀ (s : State), (s.pwr.stretched ≠ [] → exec .droopEventEnd s = .next s) ∧
      (s.pwr.stretched = [] → s.pwr.droop = true → s.pwr.change = none →
        exec .droopEventEnd s = .next { s with pwr := { s.pwr with droop := false } })) ∧
    (∀ (s : State) (a : Bool), exec (.extThrottleChange a) s = .next { s with pwr := { s.pwr with ext := a } })) ∧
  ((∀ (s : State) (x : Byte), s.mod.warmNext = false → s.pwr.change = none →
      (x.toNat < 100 → ∃ u, exec (.thermalReading x) s = .next u ∧ u.tmax = x.toNat ∧ u.pwr.emergency = false ∧
        u.pwr.tceil = s.pwr.tceil ∧ u.flt = s.flt ∧ u.mem = s.mem) ∧
      (100 ≤ x.toNat → x.toNat < 105 → ∃ u, exec (.thermalReading x) s = .next u ∧ u.tmax = x.toNat ∧
        u.pwr.emergency = s.pwr.emergency ∧ u.pwr.tceil = s.pwr.tceil) ∧
      (105 ≤ x.toNat → x.toNat < 110 → ∃ u, exec (.thermalReading x) s = .next u ∧ u.tmax = x.toNat ∧ u.pwr.emergency = true ∧
        u.pwr.tceil = 5 ∧ u.flt = s.flt) ∧
      (110 ≤ x.toNat → s.pwr.tripped = false → ∃ u, exec (.thermalReading x) s = .next u ∧ u.pwr.tripped = true ∧
        u.flt.drained = true ∧ u.mod.tripLow = true ∧ u.pwr.emergency = true)) ∧
    (∀ (s : State), s.pwr.change = none → ∃ u, exec .tceilUpdate s = .next u ∧ u = { s with pwr := u.pwr } ∧
      (s.tmax < 90 → u.pwr.tceil = s.pwr.tceil - 1) ∧ (90 ≤ s.tmax → s.tmax < 95 → u.pwr.tceil = s.pwr.tceil) ∧
      (95 ≤ s.tmax → u.pwr.tceil = min 5 (s.pwr.tceil + 1))) ∧
    (∀ (s : State) (t : Nat) (f : FillRun), s.now ≤ t → s.pwr.fill = some f → f.released = none →
      let rel := s.brg.valid && s.brg.rev != f.rev && decide (s.pwr.fill1 f.k 32 32 ≤ s.brg.bearingAt t)
      let held := decide (f.fireAt + s.pwr.fill1 f.k 64 32 * 256000 ≤ t)
      (rel = true ∨ held = true → ∃ u, exec (.fillerRelease t) s = .next u ∧
        u.pwr = { s.pwr with fill := some { f with released := some (t, s.pwr.duty t) } }) ∧
      (rel = false → held = false → exec (.fillerRelease t) s = .next (s.at t))))

/-- Faults reported without a command (R413, R422-R425): the first expiry of a watchdog resets its unit, raises its epoch
and the FATAL cause; a second one within 60 s is a warm reset; one of a unit that has no heartbeat does nothing; an engine
that is watched and has no unit code is named by the reserved kinds 5 to 7, and nothing of it is cleared (the model's
choice, log entry 146); an entry closed takes no more recurrences; a health report, and the repetition of an urgent one,
leave on the management port while fewer than 1,000 have left in the second. -/
def Obligations.FaultEvents : Prop :=
  (∀ (s : State) (code : BitVec 32) (u : UnitRef) (t : Nat), unitRef code.toNat = some u → s.now ≤ t →
    (∀ v, u = .unit v → s.watched u = true → s.flt.wdogLast = none ∨ (∃ x, s.flt.wdogLast = some x ∧ x + 60000000000 * 256 < t) →
      ∃ w, exec (.watchdogExpiry code t) s = .next w ∧ w.cmd.wdog = true ∧ w.flt.wdogLast = some t ∧
        w.epochOf u.code = (s.epochOf u.code + 1) % 65536 ∧ w.svcOf u.code = .inService ∧
        ((∀ c, (s.ctx c).resident = true → (s.ctx c).st = .running) →
          ∀ p j, p ∈ parcelsOf v → j < 0xC0000 → w.mem.read (fbAddr p j) = 0)) ∧
    (∀ x, s.watched u = true → s.flt.wdogLast = some x → t ≤ x + 60000000000 * 256 → s.pwr.tripped = false →
      ∃ w, exec (.watchdogExpiry code t) s = .next w ∧ w.cmd.wdog = true ∧ w.cmd.mgstop = true ∧ w.ctxs = [] ∧ w.eng = [] ∧
        w.flt.epochBase = (s.flt.epochBase + 1) % 65536) ∧
    (s.watched u = false → exec (.watchdogExpiry code t) s = .next (s.at t))) ∧
  (∀ (s : State) (code : BitVec 32) (t : Nat), unitRef code.toNat = none → s.now ≤ t →
    (5 ≤ code.toNat % 16 → code.toNat % 16 ≤ 7 →
      s.flt.wdogLast = none ∨ (∃ x, s.flt.wdogLast = some x ∧ x + 60000000000 * 256 < t) →
      ∃ w, exec (.watchdogExpiry code t) s = .next w ∧ w.cmd.wdog = true ∧ w.flt.wdogLast = some t ∧ w.mem = s.mem ∧
        w.eng = s.eng ∧ w.brg = s.brg ∧ w.cat = s.cat ∧ w.cols = s.cols ∧
        (s.flt.openIx = [] → ∃ e, Map.find w.flt.vlog (s.flt.next % 4096) = some e ∧ e.kind = 0x0021 ∧ e.unit = 0xFFFFFFFF)) ∧
    (code.toNat % 16 < 5 ∨ 7 < code.toNat % 16 → exec (.watchdogExpiry code t) s = .next (s.at t))) ∧
  (∀ (s : State) (i : BitVec 32), exec (.logEntryClose i) s =
    .next { s with flt := { s.flt with openIx := s.flt.openIx.filter (· != i.toNat) } }) ∧
  (∀ (s : State), (s.cmd.fwrun = false → exec .healthReportTimer s = .next s) ∧
    (s.cmd.fwrun = true → s.mod.mgmtUp = true → s.ns / 1000000000 ≠ s.flt.frSecond ∨ s.flt.frSent < 1000 →
      ∃ t bs, exec .healthReportTimer s = .next t ∧ t.out = .report bs :: s.out ∧ bs.length = 256 ∧ leAt bs 2 2 = 3 ∧
        leAt bs 4 4 = s.flt.rseq % 2 ^ 32 ∧ leAt bs 44 2 = s.tmax % 2 ^ 16 ∧ t.flt.rseq = (s.flt.rseq + 1) % 2 ^ 32) ∧
    (s.cmd.fwrun = true → s.ns / 1000000000 = s.flt.frSecond → 1000 ≤ s.flt.frSent →
      ∃ t, exec .healthReportTimer s = .next t ∧ t.out = s.out ∧ t.flt.frDropped = s.flt.frDropped + 1)) ∧
  (∀ (s : State) (i : BitVec 32), (Map.find s.flt.repeats i.toNat = none → exec (.fieldReportRepeat i) s = .next s) ∧
    (∀ n bs, Map.find s.flt.repeats i.toNat = some (n, bs) → s.mod.mgmtUp = true →
      s.ns / 1000000000 ≠ s.flt.frSecond ∨ s.flt.frSent < 1000 →
      ∃ t, exec (.fieldReportRepeat i) s = .next t ∧ t.out = .report bs :: s.out ∧
        Map.find t.flt.repeats i.toNat = (if n ≤ 1 then none else some (n - 1, bs))))

/-- Resets and supplies (R382, R422, R427, R453-R456, R462, R464, R477, R480): MRST# holds the block in reset with its
memory gone and what fuses, images and the persistent logs hold kept; a cold reset, where inputs and references are good
and the tests and images pass, ends it with READY and the catalogue lost; a stack that does not train is FAILED and flags
the device, a Bindery or vector unit whose tables differ stays in reset, and with no good firmware copy there is no READY;
a host reset and a function-level reset clear the host's side and leave the work of the device; a fall of the 12 V input
stops the management cores and loses the volatile log; a lost reference is latched; that of the links quiesces the
sub-ports in service, and once it has been back for 100 windows of 10 µs those that went down train. A reference is
present in a window in which its measured frequency lies within ±1,000 ppm of nominal; two losses in one window are two
entries. A class whose active copy fails falls back to its other copy. That a copy's signature is not computed anew is the
model's choice (log entry 50). Power states (R458-R461, R465): entering D3hot pre-empts what runs and moves the counter
deltas to the store; in D-Sleep the sub-ports in service quiesce and those in training go down, every epoch one on; in
D-Nap the sub-ports stay. The return to D0 writes the receipts that waited. An idle A or BD domain is gated; one with work
is not. -/
def Obligations.ResetsAndPowerStates : Prop :=
  (∀ (s : State),
      let b := s.mod.boot
      let good := ∀ k, k < 7 → s.sec.copyStale k (Map.find s.sec.active k) = false
      let kept := fun (t : State) => t.dbgOpen = s.dbgOpen ∧ t.sec.arb = s.sec.arb ∧ t.sec.active = s.sec.active ∧
        t.sec.ikrev = s.sec.ikrev ∧ t.flt.flagged = s.flt.flagged ∧ t.flt.spares = s.flt.spares ∧ t.host = s.host ∧
        t.pending = s.pending
      let fresh := fun (t : State) => t.mem = [] ∧ t.eng = [] ∧ t.ctxs = [] ∧ t.closures = [] ∧ t.cols = [] ∧ t.arc = Arc.reset ∧
        t.brg = Brg.reset ∧ t.station = 0xFFFFFF ∧ t.owner = 0 ∧ t.cmd.sub = [] ∧ t.cmd.started = []
      (∃ t, exec .mrstAssert s = .next t ∧ kept t ∧ fresh t ∧ t.flt.plog = s.flt.plog ∧ t.flt.vlog = s.flt.vlog ∧
        t.cat = Cat.reset ∧ t.ctr = Ctr.reset ∧ t.fab = Fabric.reset ∧ t.mod.ready = false ∧ t.mod.mrst = true ∧ t.linkUp = false) ∧
      (s.mod.qualifies = false → exec .coldReset s = .next s) ∧
      (s.mod.qualifies = true → s.flt.flagged = false → good → b = ⟨[], [], [], [], [], []⟩ → ∃ t, exec .coldReset s = .next t ∧ kept t ∧
        fresh t ∧ t.cat = { Cat.reset with lost := true } ∧ t.mod.ready = true ∧ t.cmd.fwrun = true ∧ t.flt.drained = false ∧
        (s.flt.openIx = [] → t.flt.plog = s.flt.plog ∧
          ∃ e, Map.find t.flt.vlog (s.flt.next % 4096) = some e ∧ e.kind = 0x0060)) ∧
      (s.mod.qualifies = true → s.flt.flagged = true → ∃ t, exec .coldReset s = .next t ∧ t.flt.flagged = true ∧
        t.flt.drained = true) ∧
      (s.mod.qualifies = true → ∃ t, exec .coldReset s = .next t ∧
        (∀ x, x ∈ b.untrained → (t.stack x.val).st = 3 ∧ t.flt.flagged = true ∧ t.flt.drained = true) ∧
        (∀ x, x ∈ b.binderies → t.svcOf (codeStack x.val) = .disabled) ∧
        (∀ x, x ∈ b.vectors → t.svcOf (codeUnit x.val) = .disabled) ∧
        (0 ∈ b.active → 0 ∈ b.other → t.mod.ready = false ∧ t.cmd.fwrun = false) ∧
        (∀ k, k ∈ b.active → k ∉ b.other → s.sec.copyStale k (Map.find s.sec.inactive k) = false →
          Map.find t.sec.active k = Map.find s.sec.inactive k ∧ Map.find t.sec.inactive k = Map.find s.sec.active k)) ∧
      (s.d3hot = false → ∃ t, exec .hostReset s = .next t ∧ exec .flr s = .next t ∧ t.scratch = [0, 0, 0, 0] ∧ t.arc.b2win = [] ∧
        (∀ q, t.sub q = { SubRing.reset with last := (s.sub q).last }) ∧ (∀ r, t.rcp r = RcpRing.reset) ∧
        t.sec.session = false ∧ t.sec.ide = [] ∧ t.cmd.started.length = s.cmd.started.length ∧
        (t.cmd.started.all (·.hushed)) = true ∧ t.mem = s.mem ∧ t.eng = s.eng ∧ t.ctxs = s.ctxs ∧ t.brg = s.brg ∧ t.ports = s.ports) ∧
      (∀ b, exec (.input50vChange b) s = .next { s with mod := { s.mod with v50 := b } }) ∧
      (s.mod.v12 = true → ∃ t, exec (.input12vChange false) s = .next t ∧ t.flt.vlog = [] ∧ t.flt.next = 0 ∧ t.flt.plog = s.flt.plog ∧
        t.cmd.fwrun = false ∧ t.cmd.mgstop = true ∧ t.mod.v12 = false ∧ t.mod.alertLow = false ∧ t.mem = s.mem ∧ t.eng = s.eng) ∧
      (∃ t, exec (.input12vChange true) s = .next t ∧ t.mod.v12 = true ∧ t.cmd.fwrun = true ∧ t.flt = s.flt) ∧
      (∀ n, refPresent n none = false ∧ ∀ f, refPresent n (some f) = true ↔ 999 * n ≤ 1000 * f ∧ 1000 * f ≤ 1001 * n) ∧
      (∀ hz lhz, s.mod.refL = true → refPresent 156250000 lhz = true → let h := refPresent 100000000 hz
        ∃ t, exec (.refClockWindow hz lhz) s = .next t ∧ t.mod.refH = h ∧ t.mod.refL = true ∧
        t.mod.hLost = (s.mod.hLost || (s.mod.refH && !h)) ∧ t.mem = s.mem ∧
        (s.mod.lBack ≠ 99 → s.mod.refH = h → t.ports = s.ports) ∧
        (s.mod.lBack = 99 → s.mod.refH = h → ∀ p, p < 128 → s.present p = true → (s.port p).st = 1 → (s.pctl (p / 4)).en = true →
          s.svcOf (codePort (p / 4)) = .inService → (t.port p).st ≠ 1)) ∧
      (∀ hz lhz, s.mod.refL = true → refPresent 156250000 lhz = false → ∃ t, exec (.refClockWindow hz lhz) s = .next t ∧
        t.mod.lLost = true ∧ t.mod.refL = false ∧ t.mod.refH = refPresent 100000000 hz ∧
        (∀ p, p < 128 → s.present p = true → (s.port p).st = 7 → (t.port p).st = 8) ∧
        (s.mod.refH = true → refPresent 100000000 hz = false → s.flt.openIx = [] → (∀ p, s.present p = true → (s.port p).st = 8) →
          t.flt.next = (s.flt.next + 2) % 2 ^ 32 ∧ ∀ k, k < 2 →
            ∃ e, Map.find t.flt.vlog ((s.flt.next + k) % 2 ^ 32 % 4096) = some e ∧ e.kind = 0x0042))) ∧
  (∀ (s : State),
      (s.d3hot = true → exec .d3hotEntry s = .next s) ∧ (s.d3hot = false → exec .d0Entry s = .next s) ∧
      (s.d3hot = false → ∃ t, exec .d3hotEntry s = .next t ∧ t.d3hot = true ∧ t.ctr.delta = [] ∧
        (s.bnd = [] → s.d3depth = false → t.mem = s.mem ∧ t.eng = s.eng) ∧
        (∀ c, c < 8 → (s.ctx c).st = .running → (t.ctx c).st = .running ∧ (t.ctx c).parking = true) ∧
        (∀ c, c < 8 → (s.ctx c).st = .running → (s.ctx c).parking = false → c ∈ t.mod.napped) ∧
        (∀ c, c < 8 → (s.ctx c).st = .running → (s.ctx c).parking = true → c ∉ t.mod.napped) ∧
        (s.d3depth = false → t.ports = s.ports) ∧
        (s.d3depth = true → ∀ p, p < 128 → s.present p = true → ((s.port p).st = 7 → (t.port p).st = 8) ∧
          (2 ≤ (s.port p).st → (s.port p).st ≤ 6 → (t.port p).st = 1 ∧
            (t.port p).epoch = ((s.port p).epoch + 1) % 65536))) ∧
      (s.d3hot = true → s.d3depth = false → s.mod.napped = [] → s.ctxActs = [] →
        (∀ c, c < 8 → (s.ctx c).st ≠ .starting ∧ (s.ctx c).sliceNext = false) → s.cmd.evLost = 0 →
        let s' : State := { s with d3hot := false, mod := { s.mod with awake := [] } }
        (s.cmd.late = [] → exec .d0Entry s = .next s') ∧
        (∀ rc, s.cmd.late = [rc] → exec .d0Entry s =
          .next (State.putReceipt { s' with cmd := { s.cmd with late := [] } } rc))) ∧
      (∀ d : Fin 260, (s.gateable d.val = false → exec (.domainGate d) s = .next s) ∧
        (s.gateable d.val = true → ∃ t, exec (.domainGate d) s = .next t ∧ t.domGated d.val = true ∧
          (∀ k, k ≠ d.val → t.domGated k = s.domGated k) ∧ t = { s with mod := t.mod })))
end

