-- ==== Sys2Proof/Laws/Map.lean ====
section
/-! SUPPORT. Laws of the sparse maps and of byte memory: reading after writing, and that every operation keeps the canonical
form. -/

namespace Sys2Proof.Machine

/-! ## Reading a map after an update -/

@[simp] theorem Map.find_nil {α : Type} (k : Nat) : Map.find ([] : Map α) k = none := rfl

@[simp] theorem Map.find_put {α : Type} (m : Map α) (k : Nat) (v : α) : Map.find (Map.put m k v) k = some v := by
  induction m with
  | nil => simp [Map.put, Map.find]
  | cons x m ih =>
    obtain ⟨k', v'⟩ := x
    simp only [Map.put]
    split_ifs with h1 h2
    · simp [Map.find]
    · simp [Map.find]
    · simp [Map.find, h1, ih]

theorem Map.find_put_ne {α : Type} (m : Map α) (k j : Nat) (v : α) (h : j ≠ k) :
    Map.find (Map.put m k v) j = Map.find m j := by
  induction m with
  | nil => simp [Map.put, Map.find, Ne.symm h]
  | cons x m ih =>
    obtain ⟨k', v'⟩ := x
    simp only [Map.put]
    split_ifs with h1 h2
    · subst h1; simp [Map.find, Ne.symm h]
    · simp [Map.find, Ne.symm h]
    · simp only [Map.find, ih]

@[simp] theorem Map.getD_put {α : Type} (m : Map α) (k : Nat) (v d : α) : Map.getD (Map.put m k v) k d = v := by
  simp [Map.getD]

/-- A map filtered by its keys. -/
theorem Map.find_filter {α : Type} (m : Map α) (p : Nat → Bool) (k : Nat) :
    Map.find (m.filter fun kv => p kv.1) k = if p k then Map.find m k else none := by
  induction m with
  | nil => simp [Map.find]
  | cons x m ih =>
    obtain ⟨k', v'⟩ := x
    simp only [List.filter_cons]
    by_cases hk : k' = k
    · subst hk
      cases hp : p k' <;> simp_all [Map.find]
    · cases hp : p k' <;> simp_all [Map.find]

theorem Map.find_del {α : Type} (m : Map α) (k j : Nat) : Map.find (Map.del m k) j = if j = k then none else Map.find m j := by
  unfold Map.del
  rw [Map.find_filter m fun i => i != k]
  by_cases h : j = k <;> simp [h]

/-- A map with the default at a key: reading there and elsewhere. -/
theorem Map.getD_putD {α : Type} [DecidableEq α] (m : Map α) (k j : Nat) (v d : α) :
    Map.getD (Map.putD m k v d) j d = if j = k then v else Map.getD m j d := by
  unfold Map.putD Map.getD
  by_cases hv : v = d
  · simp only [hv, if_true, Map.find_del]
    by_cases hj : j = k <;> simp [hj]
  · simp only [hv, if_false]
    by_cases hj : j = k
    · simp [hj]
    · simp [hj, Map.find_put_ne m k j v hj]

@[simp] theorem Map.getD_putD_self {α : Type} [DecidableEq α] (m : Map α) (k : Nat) (v d : α) :
    Map.getD (Map.putD m k v d) k d = v := by simp [Map.getD_putD]

theorem Map.getD_putD_ne {α : Type} [DecidableEq α] (m : Map α) {k j : Nat} (v d : α) (h : j ≠ k) :
    Map.getD (Map.putD m k v d) j d = Map.getD m j d := by simp [Map.getD_putD, h]

theorem Map.find_putD_ne {α : Type} [DecidableEq α] (m : Map α) {k j : Nat} (v d : α) (h : j ≠ k) :
    Map.find (Map.putD m k v d) j = Map.find m j := by
  unfold Map.putD
  split_ifs
  · simp [Map.find_del, h]
  · exact Map.find_put_ne m k j v h

theorem Map.find_append {α : Type} (m n : Map α) (k : Nat) : Map.find (m ++ n) k = (Map.find m k).or (Map.find n k) := by
  induction m with
  | nil => simp [Map.find]
  | cons x m ih =>
    obtain ⟨k', v'⟩ := x
    simp only [List.cons_append, Map.find]
    split_ifs <;> simp [ih]

/-- Nothing is found at a key that no pair has. -/
theorem Map.find_none {α : Type} (m : Map α) (k : Nat) (h : ∀ kv ∈ m, kv.1 ≠ k) : Map.find m k = none := by
  induction m with
  | nil => rfl
  | cons x m ih =>
    obtain ⟨k', v'⟩ := x
    have h1 := h (k', v') (by simp)
    simp only [Map.find, h1, if_false]
    exact ih fun kv hk => h kv (by simp [hk])

/-! ## Keys strictly rising -/

/-- Keys above a bound, the first of a rising map, are above every smaller bound. -/
theorem Map.risingFrom_mono {α : Type} {m : Map α} {a b : Nat} (h : Map.risingFrom (some b) m = true) (hab : a ≤ b) :
    Map.risingFrom (some a) m = true := by
  cases m with
  | nil => rfl
  | cons x m =>
    obtain ⟨k, v⟩ := x
    simp only [Map.risingFrom, Bool.and_eq_true, decide_eq_true_eq] at h ⊢
    exact ⟨by omega, h.2⟩

theorem Map.risingFrom_none {α : Type} {m : Map α} {a : Nat} (h : Map.risingFrom (some a) m = true) : Map.rising m = true := by
  cases m with
  | nil => rfl
  | cons x m => simp_all [Map.rising, Map.risingFrom]

/-- The form that proofs use: a bound below every key. -/
theorem Map.risingFrom_iff {α : Type} (lo : Nat) (m : Map α) :
    Map.risingFrom (some lo) m = true ↔ (m.map (·.1)).Pairwise (· < ·) ∧ ∀ kv ∈ m, lo < kv.1 := by
  induction m generalizing lo with
  | nil => simp [Map.risingFrom]
  | cons x m ih =>
    obtain ⟨k, v⟩ := x
    simp only [Map.risingFrom, Bool.and_eq_true, decide_eq_true_eq, ih, List.map_cons, List.pairwise_cons, List.mem_map,
      List.mem_cons]
    constructor
    · rintro ⟨h1, h2, h3⟩
      refine ⟨⟨?_, h2⟩, ?_⟩
      · rintro _ ⟨kv, hk, rfl⟩; exact h3 kv hk
      · rintro kv (rfl | hk)
        · exact h1
        · exact lt_trans h1 (h3 kv hk)
    · rintro ⟨⟨h1, h2⟩, h3⟩
      exact ⟨h3 (k, v) (Or.inl rfl), h2, fun kv hk => h1 kv.1 ⟨kv, hk, rfl⟩⟩

theorem Map.rising_iff {α : Type} (m : Map α) : Map.rising m = true ↔ (m.map (·.1)).Pairwise (· < ·) := by
  cases m with
  | nil => simp [Map.rising, Map.risingFrom]
  | cons x m =>
    obtain ⟨k, v⟩ := x
    simp only [Map.rising, Map.risingFrom, Bool.true_and, Map.risingFrom_iff, List.map_cons, List.pairwise_cons, List.mem_map]
    constructor
    · rintro ⟨h2, h3⟩
      exact ⟨by rintro _ ⟨kv, hk, rfl⟩; exact h3 kv hk, h2⟩
    · rintro ⟨h1, h2⟩
      exact ⟨h2, fun kv hk => h1 kv.1 ⟨kv, hk, rfl⟩⟩

/-! ## Canonical memory -/

theorem Memory.wf_iff (m : Memory) : m.wf = true ↔ (m.map (·.1)).Pairwise (· < ·) ∧ ∀ kv ∈ m, kv.2 ≠ 0 := by
  simp [Memory.wf, Map.rising_iff]

theorem Memory.wf_nil : Memory.wf [] = true := rfl

/-- A part of a canonical memory is canonical. -/
theorem Memory.wf_keep {m : Memory} (p : Nat → Byte → Bool) (h : m.wf = true) : Memory.wf (Map.keep m p) = true := by
  rw [Memory.wf_iff] at h ⊢
  refine ⟨?_, fun kv hk => h.2 kv (List.mem_of_mem_filter hk)⟩
  exact List.Pairwise.sublist (List.Sublist.map _ List.filter_sublist) h.1

/-- Cells given for [a, a + len) take their place in a canonical memory. -/
theorem Memory.wf_splice {m cells : Memory} {a len : Nat} (h : m.wf = true) (hc : cells.wf = true)
    (hr : ∀ kv ∈ cells, a ≤ kv.1 ∧ kv.1 < a + len) : (m.splice a len cells).wf = true := by
  have h1 := Memory.wf_keep (fun k _ => decide (k < a)) h
  have h2 := Memory.wf_keep (fun k _ => decide (a + len ≤ k)) h
  rw [Memory.wf_iff] at *
  unfold Memory.splice
  refine ⟨?_, ?_⟩
  · simp only [List.map_append, List.pairwise_append, List.mem_append, List.mem_map]
    refine ⟨⟨h1.1, hc.1, ?_⟩, h2.1, ?_⟩
    · rintro _ ⟨x, hx, rfl⟩ _ ⟨y, hy, rfl⟩
      have := hr y hy
      simp only [Map.keep, List.mem_filter, decide_eq_true_eq] at hx
      omega
    · rintro _ (⟨x, hx, rfl⟩ | ⟨x, hx, rfl⟩) _ ⟨y, hy, rfl⟩
      · simp only [Map.keep, List.mem_filter, decide_eq_true_eq] at hx hy
        omega
      · have := hr x hx
        simp only [Map.keep, List.mem_filter, decide_eq_true_eq] at hy
        omega
  · intro kv hk
    simp only [List.mem_append] at hk
    rcases hk with (hk | hk) | hk
    · exact h1.2 kv hk
    · exact hc.2 kv hk
    · exact h2.2 kv hk

theorem cellsOf_range (a : Nat) (bs : List Byte) : ∀ kv ∈ cellsOf a bs, a ≤ kv.1 ∧ kv.1 < a + bs.length := by
  induction bs generalizing a with
  | nil => simp [cellsOf]
  | cons b bs ih =>
    intro kv hk
    simp only [cellsOf] at hk
    split_ifs at hk with hb
    · have := ih (a + 1) kv hk; simp only [List.length_cons]; omega
    · simp only [List.mem_cons] at hk
      rcases hk with rfl | hk
      · simp
      · have := ih (a + 1) kv hk; simp only [List.length_cons]; omega

theorem cellsOf_wf (a : Nat) (bs : List Byte) : Memory.wf (cellsOf a bs) = true := by
  induction bs generalizing a with
  | nil => rfl
  | cons b bs ih =>
    simp only [cellsOf]
    split_ifs with hb
    · exact ih _
    · have h := ih (a + 1)
      have hr := cellsOf_range (a + 1) bs
      rw [Memory.wf_iff] at h ⊢
      simp only [List.map_cons, List.pairwise_cons, List.mem_map, List.mem_cons]
      refine ⟨⟨?_, h.1⟩, ?_⟩
      · rintro _ ⟨kv, hk, rfl⟩
        have := (hr kv hk).1; omega
      · rintro kv (rfl | hk)
        · exact hb
        · exact h.2 kv hk

/-- A write of bytes keeps the canonical form. -/
theorem Memory.wf_writeN {m : Memory} (h : m.wf = true) (a : Nat) (bs : List Byte) : (m.writeN a bs).wf = true :=
  Memory.wf_splice h (cellsOf_wf a bs) (cellsOf_range a bs)

theorem Memory.wf_writeLE {m : Memory} (h : m.wf = true) (a len n : Nat) : (m.writeLE a len n).wf = true :=
  Memory.wf_writeN h a _

theorem Memory.wf_clear {m : Memory} (h : m.wf = true) (a len : Nat) : (m.clear a len).wf = true :=
  Memory.wf_splice h Memory.wf_nil (by simp)

/-- A copy keeps the canonical form. -/
theorem Memory.wf_copy {m : Memory} (h : m.wf = true) (dst src len : Nat) : (m.copy dst src len).wf = true := by
  have hk := Memory.wf_keep (fun k _ => decide (src ≤ k) && decide (k < src + len)) h
  unfold Memory.copy
  refine Memory.wf_splice h ?_ ?_
  · rw [Memory.wf_iff] at hk ⊢
    refine ⟨?_, ?_⟩
    · have h1 := hk.1
      rw [List.pairwise_map] at h1
      rw [List.map_map, List.pairwise_map]
      refine List.Pairwise.imp_of_mem ?_ h1
      intro x y hx hy hxy
      simp only [Map.keep, List.mem_filter, Bool.and_eq_true, decide_eq_true_eq] at hx hy
      simp only [Function.comp]
      omega
    · intro kv hm
      simp only [List.mem_map] at hm
      obtain ⟨x, hx, rfl⟩ := hm
      exact hk.2 x hx
  · intro kv hm
    simp only [List.mem_map] at hm
    obtain ⟨x, hx, rfl⟩ := hm
    simp only [Map.keep, List.mem_filter, Bool.and_eq_true, decide_eq_true_eq] at hx
    omega

/-- A write of one byte keeps the canonical form. -/
theorem Memory.wf_put {m : Memory} (h : m.wf = true) (k : Nat) (b : Byte) (hb : b ≠ 0) : Memory.wf (Map.put m k b) = true := by
  have key : ∀ (m : Memory), Memory.wf m = true → Memory.wf (Map.put m k b) = true ∧
      ∀ kv ∈ Map.put m k b, kv.1 = k ∨ ∃ x ∈ m, x.1 = kv.1 := by
    intro m
    induction m with
    | nil =>
      intro _
      refine ⟨?_, by simp [Map.put]⟩
      rw [Memory.wf_iff]; simpa [Map.put] using hb
    | cons x m ih =>
      obtain ⟨k', v'⟩ := x
      intro h
      rw [Memory.wf_iff] at h
      simp only [List.map_cons, List.pairwise_cons, List.mem_cons] at h
      simp only [Map.put]
      split_ifs with h1 h2
      · subst h1
        refine ⟨?_, ?_⟩
        · rw [Memory.wf_iff]
          simp only [List.map_cons, List.pairwise_cons, List.mem_cons]
          exact ⟨h.1, by rintro kv (rfl | hk); exact hb; exact h.2 kv (Or.inr hk)⟩
        · intro kv hk
          simp only [List.mem_cons] at hk
          rcases hk with rfl | hk
          · exact Or.inl rfl
          · exact Or.inr ⟨kv, by simp [hk], rfl⟩
      · refine ⟨?_, ?_⟩
        · rw [Memory.wf_iff]
          simp only [List.map_cons, List.pairwise_cons, List.mem_cons]
          refine ⟨⟨?_, h.1⟩, ?_⟩
          · rintro y (rfl | hz)
            · omega
            · have := h.1.1 y hz; omega
          · rintro kv (rfl | hk)
            · exact hb
            · exact h.2 kv hk
        · intro kv hk
          simp only [List.mem_cons] at hk
          rcases hk with rfl | hk
          · exact Or.inl rfl
          · exact Or.inr ⟨kv, by simpa using hk, rfl⟩
      · have hm : Memory.wf m = true := by
          rw [Memory.wf_iff]; exact ⟨h.1.2, fun kv hk => h.2 kv (Or.inr hk)⟩
        obtain ⟨i1, i2⟩ := ih hm
        rw [Memory.wf_iff] at i1
        refine ⟨?_, ?_⟩
        · rw [Memory.wf_iff]
          simp only [List.map_cons, List.pairwise_cons, List.mem_cons, List.mem_map]
          refine ⟨⟨?_, i1.1⟩, ?_⟩
          · rintro y ⟨z, hz, rfl⟩
            rcases i2 z hz with hzk | ⟨x, hx, hxz⟩
            · omega
            · have := h.1.1 x.1 (List.mem_map.mpr ⟨x, hx, rfl⟩); omega
          · rintro kv (rfl | hk)
            · exact h.2 _ (Or.inl rfl)
            · exact i1.2 kv hk
        · intro kv hk
          simp only [List.mem_cons] at hk
          rcases hk with rfl | hk
          · exact Or.inr ⟨(k', v'), by simp, rfl⟩
          · rcases i2 kv hk with hzk | ⟨x, hx, hxz⟩
            · exact Or.inl hzk
            · exact Or.inr ⟨x, by simp [hx], hxz⟩
  exact (key m h).1

theorem Memory.wf_del {m : Memory} (h : m.wf = true) (k : Nat) : Memory.wf (Map.del m k) = true :=
  Memory.wf_keep (fun i _ => i != k) h

theorem Memory.wf_write {m : Memory} (h : m.wf = true) (a : Nat) (b : Byte) : (m.write a b).wf = true := by
  unfold Memory.write Map.putD
  split_ifs with hb
  · exact Memory.wf_del h a
  · exact Memory.wf_put h a b hb

/-- Putting an element into a list, in whatever order, adds that element and nothing else. -/
theorem insertBy_perm {α : Type} (le : α → α → Bool) (x : α) (xs : List α) : (insertBy le x xs).Perm (x :: xs) := by
  induction xs with
  | nil => exact List.Perm.refl _
  | cons y ys ih =>
    unfold insertBy
    split
    · exact List.Perm.refl _
    · exact (List.Perm.cons y ih).trans (List.Perm.swap x y ys)

/-- Sorting keeps what a list holds. -/
theorem sortBy_perm {α : Type} (le : α → α → Bool) (xs : List α) : (sortBy le xs).Perm xs := by
  induction xs with
  | nil => exact List.Perm.refl _
  | cons x xs ih => exact (insertBy_perm le x _).trans (List.Perm.cons x ih)

@[simp] theorem mem_sortBy {α : Type} (le : α → α → Bool) (x : α) (xs : List α) : x ∈ sortBy le xs ↔ x ∈ xs :=
  (sortBy_perm le xs).mem_iff

end Sys2Proof.Machine
end

