-- ==== Sys2Proof/Laws/Memory.lean ====
section
/-! SUPPORT. Laws of byte memory: what a read gives after a write, inside the bytes written and outside them. -/

namespace Sys2Proof.Machine

/-- Reading outside a replaced range gives what it gave. -/
theorem Memory.read_splice_out {m cells : Memory} {a len : Nat} (hr : ∀ kv ∈ cells, a ≤ kv.1 ∧ kv.1 < a + len) {x : Nat}
    (hx : x < a ∨ a + len ≤ x) : (m.splice a len cells).read x = m.read x := by
  have hc : Map.find cells x = none := Map.find_none cells x fun kv hk => by have := hr kv hk; omega
  unfold Memory.read Map.getD Memory.splice Map.keep
  rw [Map.find_append, Map.find_append, hc, Map.find_filter m fun k => decide (k < a),
    Map.find_filter m fun k => decide (a + len ≤ k)]
  rcases hx with hx | hx
  · rw [if_pos (by simpa using hx), if_neg (by simp only [decide_eq_true_eq]; omega)]
    simp
  · rw [if_neg (by simp only [decide_eq_true_eq]; omega), if_pos (by simpa using hx)]
    simp

/-- Reading inside a replaced range gives what the new cells hold. -/
theorem Memory.read_splice_in {m cells : Memory} {a len : Nat} {x : Nat} (h1 : a ≤ x) (h2 : x < a + len) :
    (m.splice a len cells).read x = cells.read x := by
  unfold Memory.read Map.getD Memory.splice Map.keep
  rw [Map.find_append, Map.find_append, Map.find_filter m fun k => decide (k < a),
    Map.find_filter m fun k => decide (a + len ≤ k), if_neg (by simp only [decide_eq_true_eq]; omega),
    if_neg (by simp only [decide_eq_true_eq]; omega)]
  simp

/-- The cells of bytes laid from `a` up hold those bytes. -/
theorem cellsOf_read (a : Nat) (bs : List Byte) (i : Nat) (hi : i < bs.length) :
    Memory.read (cellsOf a bs) (a + i) = bs[i] := by
  induction bs generalizing a i with
  | nil => simp at hi
  | cons b bs ih =>
    simp only [cellsOf]
    cases i with
    | zero =>
      split_ifs with hb
      · have below : Map.find (cellsOf (a + 1) bs) a = none :=
          Map.find_none _ _ fun kv hk => by have := cellsOf_range (a + 1) bs kv hk; omega
        simp [Memory.read, Map.getD, below, hb]
      · simp [Memory.read, Map.getD, Map.find]
    | succ i =>
      have hi' : i < bs.length := by simpa using hi
      have := ih (a + 1) i hi'
      have e : a + (i + 1) = a + 1 + i := by omega
      split_ifs with hb
      · rw [e, this]; simp
      · simp only [Memory.read, Map.getD, Map.find]
        rw [if_neg (by omega), e]
        simpa [Memory.read, Map.getD] using this

/-- A byte outside the bytes written reads as before. -/
theorem Memory.read_writeN_out (m : Memory) {a : Nat} {bs : List Byte} {x : Nat} (hx : x < a ∨ a + bs.length ≤ x) :
    (m.writeN a bs).read x = m.read x :=
  Memory.read_splice_out (cellsOf_range a bs) hx

/-- A byte written reads as written. -/
theorem Memory.read_writeN_in (m : Memory) {a : Nat} {bs : List Byte} {i : Nat} (hi : i < bs.length) :
    (m.writeN a bs).read (a + i) = bs[i] := by
  rw [← cellsOf_read a bs i hi]
  exact Memory.read_splice_in (by omega) (by omega)

/-- The bytes written read back. -/
theorem Memory.readN_writeN (m : Memory) (a : Nat) (bs : List Byte) : (m.writeN a bs).readN a bs.length = bs := by
  have key : ∀ (n i : Nat), i + n = bs.length → (m.writeN a bs).readN (a + i) n = bs.drop i := by
    intro n
    induction n with
    | zero => intro i hi; simp [Memory.readN, show bs.length ≤ i by omega]
    | succ n ih =>
      intro i hi
      have hlt : i < bs.length := by omega
      simp only [Memory.readN]
      rw [Memory.read_writeN_in m hlt, show a + i + 1 = a + (i + 1) by omega, ih (i + 1) (by omega)]
      exact (List.drop_eq_getElem_cons hlt).symm
  simpa using key bs.length 0 (by omega)

/-- A run of bytes outside the bytes written reads as before. -/
theorem Memory.readN_writeN_out (m : Memory) {a : Nat} {bs : List Byte} :
    ∀ (n x : Nat), x + n ≤ a ∨ a + bs.length ≤ x → (m.writeN a bs).readN x n = m.readN x n := by
  intro n
  induction n with
  | zero => intro x _; rfl
  | succ n ih =>
    intro x hx
    simp only [Memory.readN]
    rw [Memory.read_writeN_out m (by omega), ih (x + 1) (by omega)]

/-- A byte of a cleared range reads as 0, any other as before. -/
theorem Memory.read_clear (m : Memory) (a len x : Nat) :
    (m.clear a len).read x = if a ≤ x ∧ x < a + len then 0 else m.read x := by
  unfold Memory.clear
  split_ifs with h
  · rw [Memory.read_splice_in h.1 h.2]; rfl
  · exact Memory.read_splice_out (by simp) (by omega)

@[simp] theorem toLE_length (len n : Nat) : (toLE len n).length = len := by
  induction len generalizing n with
  | zero => rfl
  | succ len ih => simp [toLE, ih]

/-- A number written little-endian reads back, but for the bits above its bytes. -/
theorem leNat_toLE (len n : Nat) : leNat (toLE len n) = n % 256 ^ len := by
  induction len generalizing n with
  | zero => simp [toLE, leNat, Nat.mod_one]
  | succ len ih =>
    simp only [toLE, leNat, ih, BitVec.toNat_ofNat]
    have e : 256 ^ (len + 1) = 256 * 256 ^ len := by ring
    rw [e, Nat.mod_mul]

theorem Memory.readLE_writeLE (m : Memory) (a len n : Nat) : (m.writeLE a len n).readLE a len = n % 256 ^ len := by
  have := Memory.readN_writeN m a (toLE len n)
  rw [toLE_length] at this
  rw [Memory.readLE, Memory.writeLE, this, leNat_toLE]

end Sys2Proof.Machine
end

