-- ==== Sys2Proof/Laws/State.lean ====
section
/-! SUPPORT. What each named update of the state leaves as it was, one lemma per field and update, and what reading a part
gives after that part or another has been replaced. -/

namespace Sys2Proof.Machine

/-! ## `State.count` -/

@[simp] theorem State.count_pending (s : State) (k n : Nat) : (s.count k n).pending = s.pending := rfl
@[simp] theorem State.count_now (s : State) (k n : Nat) : (s.count k n).now = s.now := rfl
@[simp] theorem State.count_fresh (s : State) (k n : Nat) : (s.count k n).fresh = s.fresh := rfl
@[simp] theorem State.count_mem (s : State) (k n : Nat) : (s.count k n).mem = s.mem := rfl
@[simp] theorem State.count_host (s : State) (k n : Nat) : (s.count k n).host = s.host := rfl
@[simp] theorem State.count_bad (s : State) (k n : Nat) : (s.count k n).bad = s.bad := rfl
@[simp] theorem State.count_owner (s : State) (k n : Nat) : (s.count k n).owner = s.owner := rfl
@[simp] theorem State.count_scratch (s : State) (k n : Nat) : (s.count k n).scratch = s.scratch := rfl
@[simp] theorem State.count_eng (s : State) (k n : Nat) : (s.count k n).eng = s.eng := rfl
@[simp] theorem State.count_closures (s : State) (k n : Nat) : (s.count k n).closures = s.closures := rfl
@[simp] theorem State.count_stracts (s : State) (k n : Nat) : (s.count k n).stracts = s.stracts := rfl
@[simp] theorem State.count_arc (s : State) (k n : Nat) : (s.count k n).arc = s.arc := rfl
@[simp] theorem State.count_ctxs (s : State) (k n : Nat) : (s.count k n).ctxs = s.ctxs := rfl
@[simp] theorem State.count_ctxActs (s : State) (k n : Nat) : (s.count k n).ctxActs = s.ctxActs := rfl
@[simp] theorem State.count_cmd (s : State) (k n : Nat) : (s.count k n).cmd = s.cmd := rfl
@[simp] theorem State.count_flt (s : State) (k n : Nat) : (s.count k n).flt = s.flt := rfl
@[simp] theorem State.count_brg (s : State) (k n : Nat) : (s.count k n).brg = s.brg := rfl
@[simp] theorem State.count_cat (s : State) (k n : Nat) : (s.count k n).cat = s.cat := rfl
@[simp] theorem State.count_bndWaits (s : State) (k n : Nat) : (s.count k n).bndWaits = s.bndWaits := rfl
@[simp] theorem State.count_station (s : State) (k n : Nat) : (s.count k n).station = s.station := rfl
@[simp] theorem State.count_d3hot (s : State) (k n : Nat) : (s.count k n).d3hot = s.d3hot := rfl
@[simp] theorem State.count_d3depth (s : State) (k n : Nat) : (s.count k n).d3depth = s.d3depth := rfl
@[simp] theorem State.count_linkUp (s : State) (k n : Nat) : (s.count k n).linkUp = s.linkUp := rfl
@[simp] theorem State.count_tmax (s : State) (k n : Nat) : (s.count k n).tmax = s.tmax := rfl
@[simp] theorem State.count_pin (s : State) (k n : Nat) : (s.count k n).pin = s.pin := rfl
@[simp] theorem State.count_dbgOpen (s : State) (k n : Nat) : (s.count k n).dbgOpen = s.dbgOpen := rfl
@[simp] theorem State.count_ports (s : State) (k n : Nat) : (s.count k n).ports = s.ports := rfl
@[simp] theorem State.count_egress (s : State) (k n : Nat) : (s.count k n).egress = s.egress := rfl
@[simp] theorem State.count_hbm (s : State) (k n : Nat) : (s.count k n).hbm = s.hbm := rfl
@[simp] theorem State.count_bnd (s : State) (k n : Nat) : (s.count k n).bnd = s.bnd := rfl
@[simp] theorem State.count_fab (s : State) (k n : Nat) : (s.count k n).fab = s.fab := rfl
@[simp] theorem State.count_cols (s : State) (k n : Nat) : (s.count k n).cols = s.cols := rfl
@[simp] theorem State.count_slotRes (s : State) (k n : Nat) : (s.count k n).slotRes = s.slotRes := rfl
@[simp] theorem State.count_domSize (s : State) (k n : Nat) : (s.count k n).domSize = s.domSize := rfl
@[simp] theorem State.count_domLock (s : State) (k n : Nat) : (s.count k n).domLock = s.domLock := rfl
@[simp] theorem State.count_pwr (s : State) (k n : Nat) : (s.count k n).pwr = s.pwr := rfl
@[simp] theorem State.count_sec (s : State) (k n : Nat) : (s.count k n).sec = s.sec := rfl
@[simp] theorem State.count_mod (s : State) (k n : Nat) : (s.count k n).mod = s.mod := rfl
@[simp] theorem State.count_out (s : State) (k n : Nat) : (s.count k n).out = s.out := rfl

/-! ## `State.useFree` -/

@[simp] theorem State.useFree_pending (s : State) : (s.useFree).pending = s.pending := rfl
@[simp] theorem State.useFree_now (s : State) : (s.useFree).now = s.now := rfl
@[simp] theorem State.useFree_mem (s : State) : (s.useFree).mem = s.mem := rfl
@[simp] theorem State.useFree_host (s : State) : (s.useFree).host = s.host := rfl
@[simp] theorem State.useFree_bad (s : State) : (s.useFree).bad = s.bad := rfl
@[simp] theorem State.useFree_owner (s : State) : (s.useFree).owner = s.owner := rfl
@[simp] theorem State.useFree_scratch (s : State) : (s.useFree).scratch = s.scratch := rfl
@[simp] theorem State.useFree_eng (s : State) : (s.useFree).eng = s.eng := rfl
@[simp] theorem State.useFree_closures (s : State) : (s.useFree).closures = s.closures := rfl
@[simp] theorem State.useFree_stracts (s : State) : (s.useFree).stracts = s.stracts := rfl
@[simp] theorem State.useFree_arc (s : State) : (s.useFree).arc = s.arc := rfl
@[simp] theorem State.useFree_ctxs (s : State) : (s.useFree).ctxs = s.ctxs := rfl
@[simp] theorem State.useFree_ctxActs (s : State) : (s.useFree).ctxActs = s.ctxActs := rfl
@[simp] theorem State.useFree_cmd (s : State) : (s.useFree).cmd = s.cmd := rfl
@[simp] theorem State.useFree_ctr (s : State) : (s.useFree).ctr = s.ctr := rfl
@[simp] theorem State.useFree_flt (s : State) : (s.useFree).flt = s.flt := rfl
@[simp] theorem State.useFree_brg (s : State) : (s.useFree).brg = s.brg := rfl
@[simp] theorem State.useFree_cat (s : State) : (s.useFree).cat = s.cat := rfl
@[simp] theorem State.useFree_bndWaits (s : State) : (s.useFree).bndWaits = s.bndWaits := rfl
@[simp] theorem State.useFree_station (s : State) : (s.useFree).station = s.station := rfl
@[simp] theorem State.useFree_d3hot (s : State) : (s.useFree).d3hot = s.d3hot := rfl
@[simp] theorem State.useFree_d3depth (s : State) : (s.useFree).d3depth = s.d3depth := rfl
@[simp] theorem State.useFree_linkUp (s : State) : (s.useFree).linkUp = s.linkUp := rfl
@[simp] theorem State.useFree_tmax (s : State) : (s.useFree).tmax = s.tmax := rfl
@[simp] theorem State.useFree_pin (s : State) : (s.useFree).pin = s.pin := rfl
@[simp] theorem State.useFree_dbgOpen (s : State) : (s.useFree).dbgOpen = s.dbgOpen := rfl
@[simp] theorem State.useFree_ports (s : State) : (s.useFree).ports = s.ports := rfl
@[simp] theorem State.useFree_egress (s : State) : (s.useFree).egress = s.egress := rfl
@[simp] theorem State.useFree_hbm (s : State) : (s.useFree).hbm = s.hbm := rfl
@[simp] theorem State.useFree_bnd (s : State) : (s.useFree).bnd = s.bnd := rfl
@[simp] theorem State.useFree_fab (s : State) : (s.useFree).fab = s.fab := rfl
@[simp] theorem State.useFree_cols (s : State) : (s.useFree).cols = s.cols := rfl
@[simp] theorem State.useFree_slotRes (s : State) : (s.useFree).slotRes = s.slotRes := rfl
@[simp] theorem State.useFree_domSize (s : State) : (s.useFree).domSize = s.domSize := rfl
@[simp] theorem State.useFree_domLock (s : State) : (s.useFree).domLock = s.domLock := rfl
@[simp] theorem State.useFree_pwr (s : State) : (s.useFree).pwr = s.pwr := rfl
@[simp] theorem State.useFree_sec (s : State) : (s.useFree).sec = s.sec := rfl
@[simp] theorem State.useFree_mod (s : State) : (s.useFree).mod = s.mod := rfl
@[simp] theorem State.useFree_out (s : State) : (s.useFree).out = s.out := rfl

/-! ## `State.setEng` -/

@[simp] theorem State.setEng_pending (s : State) (k : Nat) (v : Eng) : (s.setEng k v).pending = s.pending := rfl
@[simp] theorem State.setEng_now (s : State) (k : Nat) (v : Eng) : (s.setEng k v).now = s.now := rfl
@[simp] theorem State.setEng_fresh (s : State) (k : Nat) (v : Eng) : (s.setEng k v).fresh = s.fresh := rfl
@[simp] theorem State.setEng_mem (s : State) (k : Nat) (v : Eng) : (s.setEng k v).mem = s.mem := rfl
@[simp] theorem State.setEng_host (s : State) (k : Nat) (v : Eng) : (s.setEng k v).host = s.host := rfl
@[simp] theorem State.setEng_bad (s : State) (k : Nat) (v : Eng) : (s.setEng k v).bad = s.bad := rfl
@[simp] theorem State.setEng_owner (s : State) (k : Nat) (v : Eng) : (s.setEng k v).owner = s.owner := rfl
@[simp] theorem State.setEng_scratch (s : State) (k : Nat) (v : Eng) : (s.setEng k v).scratch = s.scratch := rfl
@[simp] theorem State.setEng_closures (s : State) (k : Nat) (v : Eng) : (s.setEng k v).closures = s.closures := rfl
@[simp] theorem State.setEng_stracts (s : State) (k : Nat) (v : Eng) : (s.setEng k v).stracts = s.stracts := rfl
@[simp] theorem State.setEng_arc (s : State) (k : Nat) (v : Eng) : (s.setEng k v).arc = s.arc := rfl
@[simp] theorem State.setEng_ctxs (s : State) (k : Nat) (v : Eng) : (s.setEng k v).ctxs = s.ctxs := rfl
@[simp] theorem State.setEng_ctxActs (s : State) (k : Nat) (v : Eng) : (s.setEng k v).ctxActs = s.ctxActs := rfl
@[simp] theorem State.setEng_cmd (s : State) (k : Nat) (v : Eng) : (s.setEng k v).cmd = s.cmd := rfl
@[simp] theorem State.setEng_ctr (s : State) (k : Nat) (v : Eng) : (s.setEng k v).ctr = s.ctr := rfl
@[simp] theorem State.setEng_flt (s : State) (k : Nat) (v : Eng) : (s.setEng k v).flt = s.flt := rfl
@[simp] theorem State.setEng_brg (s : State) (k : Nat) (v : Eng) : (s.setEng k v).brg = s.brg := rfl
@[simp] theorem State.setEng_cat (s : State) (k : Nat) (v : Eng) : (s.setEng k v).cat = s.cat := rfl
@[simp] theorem State.setEng_bndWaits (s : State) (k : Nat) (v : Eng) : (s.setEng k v).bndWaits = s.bndWaits := rfl
@[simp] theorem State.setEng_station (s : State) (k : Nat) (v : Eng) : (s.setEng k v).station = s.station := rfl
@[simp] theorem State.setEng_d3hot (s : State) (k : Nat) (v : Eng) : (s.setEng k v).d3hot = s.d3hot := rfl
@[simp] theorem State.setEng_d3depth (s : State) (k : Nat) (v : Eng) : (s.setEng k v).d3depth = s.d3depth := rfl
@[simp] theorem State.setEng_linkUp (s : State) (k : Nat) (v : Eng) : (s.setEng k v).linkUp = s.linkUp := rfl
@[simp] theorem State.setEng_tmax (s : State) (k : Nat) (v : Eng) : (s.setEng k v).tmax = s.tmax := rfl
@[simp] theorem State.setEng_pin (s : State) (k : Nat) (v : Eng) : (s.setEng k v).pin = s.pin := rfl
@[simp] theorem State.setEng_dbgOpen (s : State) (k : Nat) (v : Eng) : (s.setEng k v).dbgOpen = s.dbgOpen := rfl
@[simp] theorem State.setEng_ports (s : State) (k : Nat) (v : Eng) : (s.setEng k v).ports = s.ports := rfl
@[simp] theorem State.setEng_egress (s : State) (k : Nat) (v : Eng) : (s.setEng k v).egress = s.egress := rfl
@[simp] theorem State.setEng_hbm (s : State) (k : Nat) (v : Eng) : (s.setEng k v).hbm = s.hbm := rfl
@[simp] theorem State.setEng_bnd (s : State) (k : Nat) (v : Eng) : (s.setEng k v).bnd = s.bnd := rfl
@[simp] theorem State.setEng_fab (s : State) (k : Nat) (v : Eng) : (s.setEng k v).fab = s.fab := rfl
@[simp] theorem State.setEng_cols (s : State) (k : Nat) (v : Eng) : (s.setEng k v).cols = s.cols := rfl
@[simp] theorem State.setEng_slotRes (s : State) (k : Nat) (v : Eng) : (s.setEng k v).slotRes = s.slotRes := rfl
@[simp] theorem State.setEng_domSize (s : State) (k : Nat) (v : Eng) : (s.setEng k v).domSize = s.domSize := rfl
@[simp] theorem State.setEng_domLock (s : State) (k : Nat) (v : Eng) : (s.setEng k v).domLock = s.domLock := rfl
@[simp] theorem State.setEng_pwr (s : State) (k : Nat) (v : Eng) : (s.setEng k v).pwr = s.pwr := rfl
@[simp] theorem State.setEng_sec (s : State) (k : Nat) (v : Eng) : (s.setEng k v).sec = s.sec := rfl
@[simp] theorem State.setEng_out (s : State) (k : Nat) (v : Eng) : (s.setEng k v).out = s.out := rfl

/-! ## `State.setSync` -/

@[simp] theorem State.setSync_pending (s : State) (k : Nat) (v : Sync) : (s.setSync k v).pending = s.pending := rfl
@[simp] theorem State.setSync_now (s : State) (k : Nat) (v : Sync) : (s.setSync k v).now = s.now := rfl
@[simp] theorem State.setSync_fresh (s : State) (k : Nat) (v : Sync) : (s.setSync k v).fresh = s.fresh := rfl
@[simp] theorem State.setSync_mem (s : State) (k : Nat) (v : Sync) : (s.setSync k v).mem = s.mem := rfl
@[simp] theorem State.setSync_host (s : State) (k : Nat) (v : Sync) : (s.setSync k v).host = s.host := rfl
@[simp] theorem State.setSync_bad (s : State) (k : Nat) (v : Sync) : (s.setSync k v).bad = s.bad := rfl
@[simp] theorem State.setSync_owner (s : State) (k : Nat) (v : Sync) : (s.setSync k v).owner = s.owner := rfl
@[simp] theorem State.setSync_scratch (s : State) (k : Nat) (v : Sync) : (s.setSync k v).scratch = s.scratch := rfl
@[simp] theorem State.setSync_closures (s : State) (k : Nat) (v : Sync) : (s.setSync k v).closures = s.closures := rfl
@[simp] theorem State.setSync_stracts (s : State) (k : Nat) (v : Sync) : (s.setSync k v).stracts = s.stracts := rfl
@[simp] theorem State.setSync_arc (s : State) (k : Nat) (v : Sync) : (s.setSync k v).arc = s.arc := rfl
@[simp] theorem State.setSync_ctxs (s : State) (k : Nat) (v : Sync) : (s.setSync k v).ctxs = s.ctxs := rfl
@[simp] theorem State.setSync_ctxActs (s : State) (k : Nat) (v : Sync) : (s.setSync k v).ctxActs = s.ctxActs := rfl
@[simp] theorem State.setSync_cmd (s : State) (k : Nat) (v : Sync) : (s.setSync k v).cmd = s.cmd := rfl
@[simp] theorem State.setSync_ctr (s : State) (k : Nat) (v : Sync) : (s.setSync k v).ctr = s.ctr := rfl
@[simp] theorem State.setSync_flt (s : State) (k : Nat) (v : Sync) : (s.setSync k v).flt = s.flt := rfl
@[simp] theorem State.setSync_brg (s : State) (k : Nat) (v : Sync) : (s.setSync k v).brg = s.brg := rfl
@[simp] theorem State.setSync_cat (s : State) (k : Nat) (v : Sync) : (s.setSync k v).cat = s.cat := rfl
@[simp] theorem State.setSync_bndWaits (s : State) (k : Nat) (v : Sync) : (s.setSync k v).bndWaits = s.bndWaits := rfl
@[simp] theorem State.setSync_station (s : State) (k : Nat) (v : Sync) : (s.setSync k v).station = s.station := rfl
@[simp] theorem State.setSync_d3hot (s : State) (k : Nat) (v : Sync) : (s.setSync k v).d3hot = s.d3hot := rfl
@[simp] theorem State.setSync_d3depth (s : State) (k : Nat) (v : Sync) : (s.setSync k v).d3depth = s.d3depth := rfl
@[simp] theorem State.setSync_linkUp (s : State) (k : Nat) (v : Sync) : (s.setSync k v).linkUp = s.linkUp := rfl
@[simp] theorem State.setSync_tmax (s : State) (k : Nat) (v : Sync) : (s.setSync k v).tmax = s.tmax := rfl
@[simp] theorem State.setSync_pin (s : State) (k : Nat) (v : Sync) : (s.setSync k v).pin = s.pin := rfl
@[simp] theorem State.setSync_dbgOpen (s : State) (k : Nat) (v : Sync) : (s.setSync k v).dbgOpen = s.dbgOpen := rfl
@[simp] theorem State.setSync_ports (s : State) (k : Nat) (v : Sync) : (s.setSync k v).ports = s.ports := rfl
@[simp] theorem State.setSync_egress (s : State) (k : Nat) (v : Sync) : (s.setSync k v).egress = s.egress := rfl
@[simp] theorem State.setSync_hbm (s : State) (k : Nat) (v : Sync) : (s.setSync k v).hbm = s.hbm := rfl
@[simp] theorem State.setSync_bnd (s : State) (k : Nat) (v : Sync) : (s.setSync k v).bnd = s.bnd := rfl
@[simp] theorem State.setSync_fab (s : State) (k : Nat) (v : Sync) : (s.setSync k v).fab = s.fab := rfl
@[simp] theorem State.setSync_cols (s : State) (k : Nat) (v : Sync) : (s.setSync k v).cols = s.cols := rfl
@[simp] theorem State.setSync_slotRes (s : State) (k : Nat) (v : Sync) : (s.setSync k v).slotRes = s.slotRes := rfl
@[simp] theorem State.setSync_domSize (s : State) (k : Nat) (v : Sync) : (s.setSync k v).domSize = s.domSize := rfl
@[simp] theorem State.setSync_domLock (s : State) (k : Nat) (v : Sync) : (s.setSync k v).domLock = s.domLock := rfl
@[simp] theorem State.setSync_pwr (s : State) (k : Nat) (v : Sync) : (s.setSync k v).pwr = s.pwr := rfl
@[simp] theorem State.setSync_sec (s : State) (k : Nat) (v : Sync) : (s.setSync k v).sec = s.sec := rfl
@[simp] theorem State.setSync_out (s : State) (k : Nat) (v : Sync) : (s.setSync k v).out = s.out := rfl

/-! ## `State.setQueue` -/

@[simp] theorem State.setQueue_pending (s : State) (k : Nat) (q : Q) (v : Queue) : (s.setQueue k q v).pending = s.pending := rfl
@[simp] theorem State.setQueue_now (s : State) (k : Nat) (q : Q) (v : Queue) : (s.setQueue k q v).now = s.now := rfl
@[simp] theorem State.setQueue_fresh (s : State) (k : Nat) (q : Q) (v : Queue) : (s.setQueue k q v).fresh = s.fresh := rfl
@[simp] theorem State.setQueue_mem (s : State) (k : Nat) (q : Q) (v : Queue) : (s.setQueue k q v).mem = s.mem := rfl
@[simp] theorem State.setQueue_host (s : State) (k : Nat) (q : Q) (v : Queue) : (s.setQueue k q v).host = s.host := rfl
@[simp] theorem State.setQueue_bad (s : State) (k : Nat) (q : Q) (v : Queue) : (s.setQueue k q v).bad = s.bad := rfl
@[simp] theorem State.setQueue_owner (s : State) (k : Nat) (q : Q) (v : Queue) : (s.setQueue k q v).owner = s.owner := rfl
@[simp] theorem State.setQueue_scratch (s : State) (k : Nat) (q : Q) (v : Queue) : (s.setQueue k q v).scratch = s.scratch := rfl
@[simp] theorem State.setQueue_closures (s : State) (k : Nat) (q : Q) (v : Queue) : (s.setQueue k q v).closures = s.closures := rfl
@[simp] theorem State.setQueue_stracts (s : State) (k : Nat) (q : Q) (v : Queue) : (s.setQueue k q v).stracts = s.stracts := rfl
@[simp] theorem State.setQueue_arc (s : State) (k : Nat) (q : Q) (v : Queue) : (s.setQueue k q v).arc = s.arc := rfl
@[simp] theorem State.setQueue_ctxs (s : State) (k : Nat) (q : Q) (v : Queue) : (s.setQueue k q v).ctxs = s.ctxs := rfl
@[simp] theorem State.setQueue_ctxActs (s : State) (k : Nat) (q : Q) (v : Queue) : (s.setQueue k q v).ctxActs = s.ctxActs := rfl
@[simp] theorem State.setQueue_cmd (s : State) (k : Nat) (q : Q) (v : Queue) : (s.setQueue k q v).cmd = s.cmd := rfl
@[simp] theorem State.setQueue_ctr (s : State) (k : Nat) (q : Q) (v : Queue) : (s.setQueue k q v).ctr = s.ctr := rfl
@[simp] theorem State.setQueue_flt (s : State) (k : Nat) (q : Q) (v : Queue) : (s.setQueue k q v).flt = s.flt := rfl
@[simp] theorem State.setQueue_brg (s : State) (k : Nat) (q : Q) (v : Queue) : (s.setQueue k q v).brg = s.brg := rfl
@[simp] theorem State.setQueue_cat (s : State) (k : Nat) (q : Q) (v : Queue) : (s.setQueue k q v).cat = s.cat := rfl
@[simp] theorem State.setQueue_bndWaits (s : State) (k : Nat) (q : Q) (v : Queue) : (s.setQueue k q v).bndWaits = s.bndWaits := rfl
@[simp] theorem State.setQueue_station (s : State) (k : Nat) (q : Q) (v : Queue) : (s.setQueue k q v).station = s.station := rfl
@[simp] theorem State.setQueue_d3hot (s : State) (k : Nat) (q : Q) (v : Queue) : (s.setQueue k q v).d3hot = s.d3hot := rfl
@[simp] theorem State.setQueue_d3depth (s : State) (k : Nat) (q : Q) (v : Queue) : (s.setQueue k q v).d3depth = s.d3depth := rfl
@[simp] theorem State.setQueue_linkUp (s : State) (k : Nat) (q : Q) (v : Queue) : (s.setQueue k q v).linkUp = s.linkUp := rfl
@[simp] theorem State.setQueue_tmax (s : State) (k : Nat) (q : Q) (v : Queue) : (s.setQueue k q v).tmax = s.tmax := rfl
@[simp] theorem State.setQueue_pin (s : State) (k : Nat) (q : Q) (v : Queue) : (s.setQueue k q v).pin = s.pin := rfl
@[simp] theorem State.setQueue_dbgOpen (s : State) (k : Nat) (q : Q) (v : Queue) : (s.setQueue k q v).dbgOpen = s.dbgOpen := rfl
@[simp] theorem State.setQueue_ports (s : State) (k : Nat) (q : Q) (v : Queue) : (s.setQueue k q v).ports = s.ports := rfl
@[simp] theorem State.setQueue_egress (s : State) (k : Nat) (q : Q) (v : Queue) : (s.setQueue k q v).egress = s.egress := rfl
@[simp] theorem State.setQueue_hbm (s : State) (k : Nat) (q : Q) (v : Queue) : (s.setQueue k q v).hbm = s.hbm := rfl
@[simp] theorem State.setQueue_bnd (s : State) (k : Nat) (q : Q) (v : Queue) : (s.setQueue k q v).bnd = s.bnd := rfl
@[simp] theorem State.setQueue_fab (s : State) (k : Nat) (q : Q) (v : Queue) : (s.setQueue k q v).fab = s.fab := rfl
@[simp] theorem State.setQueue_cols (s : State) (k : Nat) (q : Q) (v : Queue) : (s.setQueue k q v).cols = s.cols := rfl
@[simp] theorem State.setQueue_slotRes (s : State) (k : Nat) (q : Q) (v : Queue) : (s.setQueue k q v).slotRes = s.slotRes := rfl
@[simp] theorem State.setQueue_domSize (s : State) (k : Nat) (q : Q) (v : Queue) : (s.setQueue k q v).domSize = s.domSize := rfl
@[simp] theorem State.setQueue_domLock (s : State) (k : Nat) (q : Q) (v : Queue) : (s.setQueue k q v).domLock = s.domLock := rfl
@[simp] theorem State.setQueue_pwr (s : State) (k : Nat) (q : Q) (v : Queue) : (s.setQueue k q v).pwr = s.pwr := rfl
@[simp] theorem State.setQueue_sec (s : State) (k : Nat) (q : Q) (v : Queue) : (s.setQueue k q v).sec = s.sec := rfl
@[simp] theorem State.setQueue_out (s : State) (k : Nat) (q : Q) (v : Queue) : (s.setQueue k q v).out = s.out := rfl

/-! ## `State.setMat` -/

@[simp] theorem State.setMat_pending (s : State) (k : Nat) (v : Mat) : (s.setMat k v).pending = s.pending := rfl
@[simp] theorem State.setMat_now (s : State) (k : Nat) (v : Mat) : (s.setMat k v).now = s.now := rfl
@[simp] theorem State.setMat_fresh (s : State) (k : Nat) (v : Mat) : (s.setMat k v).fresh = s.fresh := rfl
@[simp] theorem State.setMat_mem (s : State) (k : Nat) (v : Mat) : (s.setMat k v).mem = s.mem := rfl
@[simp] theorem State.setMat_host (s : State) (k : Nat) (v : Mat) : (s.setMat k v).host = s.host := rfl
@[simp] theorem State.setMat_bad (s : State) (k : Nat) (v : Mat) : (s.setMat k v).bad = s.bad := rfl
@[simp] theorem State.setMat_owner (s : State) (k : Nat) (v : Mat) : (s.setMat k v).owner = s.owner := rfl
@[simp] theorem State.setMat_scratch (s : State) (k : Nat) (v : Mat) : (s.setMat k v).scratch = s.scratch := rfl
@[simp] theorem State.setMat_closures (s : State) (k : Nat) (v : Mat) : (s.setMat k v).closures = s.closures := rfl
@[simp] theorem State.setMat_stracts (s : State) (k : Nat) (v : Mat) : (s.setMat k v).stracts = s.stracts := rfl
@[simp] theorem State.setMat_arc (s : State) (k : Nat) (v : Mat) : (s.setMat k v).arc = s.arc := rfl
@[simp] theorem State.setMat_ctxs (s : State) (k : Nat) (v : Mat) : (s.setMat k v).ctxs = s.ctxs := rfl
@[simp] theorem State.setMat_ctxActs (s : State) (k : Nat) (v : Mat) : (s.setMat k v).ctxActs = s.ctxActs := rfl
@[simp] theorem State.setMat_cmd (s : State) (k : Nat) (v : Mat) : (s.setMat k v).cmd = s.cmd := rfl
@[simp] theorem State.setMat_ctr (s : State) (k : Nat) (v : Mat) : (s.setMat k v).ctr = s.ctr := rfl
@[simp] theorem State.setMat_flt (s : State) (k : Nat) (v : Mat) : (s.setMat k v).flt = s.flt := rfl
@[simp] theorem State.setMat_brg (s : State) (k : Nat) (v : Mat) : (s.setMat k v).brg = s.brg := rfl
@[simp] theorem State.setMat_cat (s : State) (k : Nat) (v : Mat) : (s.setMat k v).cat = s.cat := rfl
@[simp] theorem State.setMat_bndWaits (s : State) (k : Nat) (v : Mat) : (s.setMat k v).bndWaits = s.bndWaits := rfl
@[simp] theorem State.setMat_station (s : State) (k : Nat) (v : Mat) : (s.setMat k v).station = s.station := rfl
@[simp] theorem State.setMat_d3hot (s : State) (k : Nat) (v : Mat) : (s.setMat k v).d3hot = s.d3hot := rfl
@[simp] theorem State.setMat_d3depth (s : State) (k : Nat) (v : Mat) : (s.setMat k v).d3depth = s.d3depth := rfl
@[simp] theorem State.setMat_linkUp (s : State) (k : Nat) (v : Mat) : (s.setMat k v).linkUp = s.linkUp := rfl
@[simp] theorem State.setMat_tmax (s : State) (k : Nat) (v : Mat) : (s.setMat k v).tmax = s.tmax := rfl
@[simp] theorem State.setMat_pin (s : State) (k : Nat) (v : Mat) : (s.setMat k v).pin = s.pin := rfl
@[simp] theorem State.setMat_dbgOpen (s : State) (k : Nat) (v : Mat) : (s.setMat k v).dbgOpen = s.dbgOpen := rfl
@[simp] theorem State.setMat_ports (s : State) (k : Nat) (v : Mat) : (s.setMat k v).ports = s.ports := rfl
@[simp] theorem State.setMat_egress (s : State) (k : Nat) (v : Mat) : (s.setMat k v).egress = s.egress := rfl
@[simp] theorem State.setMat_hbm (s : State) (k : Nat) (v : Mat) : (s.setMat k v).hbm = s.hbm := rfl
@[simp] theorem State.setMat_bnd (s : State) (k : Nat) (v : Mat) : (s.setMat k v).bnd = s.bnd := rfl
@[simp] theorem State.setMat_fab (s : State) (k : Nat) (v : Mat) : (s.setMat k v).fab = s.fab := rfl
@[simp] theorem State.setMat_cols (s : State) (k : Nat) (v : Mat) : (s.setMat k v).cols = s.cols := rfl
@[simp] theorem State.setMat_slotRes (s : State) (k : Nat) (v : Mat) : (s.setMat k v).slotRes = s.slotRes := rfl
@[simp] theorem State.setMat_domSize (s : State) (k : Nat) (v : Mat) : (s.setMat k v).domSize = s.domSize := rfl
@[simp] theorem State.setMat_domLock (s : State) (k : Nat) (v : Mat) : (s.setMat k v).domLock = s.domLock := rfl
@[simp] theorem State.setMat_pwr (s : State) (k : Nat) (v : Mat) : (s.setMat k v).pwr = s.pwr := rfl
@[simp] theorem State.setMat_sec (s : State) (k : Nat) (v : Mat) : (s.setMat k v).sec = s.sec := rfl
@[simp] theorem State.setMat_out (s : State) (k : Nat) (v : Mat) : (s.setMat k v).out = s.out := rfl

/-! ## `State.setVec` -/

@[simp] theorem State.setVec_pending (s : State) (k : Nat) (v : Vec) : (s.setVec k v).pending = s.pending := rfl
@[simp] theorem State.setVec_now (s : State) (k : Nat) (v : Vec) : (s.setVec k v).now = s.now := rfl
@[simp] theorem State.setVec_fresh (s : State) (k : Nat) (v : Vec) : (s.setVec k v).fresh = s.fresh := rfl
@[simp] theorem State.setVec_mem (s : State) (k : Nat) (v : Vec) : (s.setVec k v).mem = s.mem := rfl
@[simp] theorem State.setVec_host (s : State) (k : Nat) (v : Vec) : (s.setVec k v).host = s.host := rfl
@[simp] theorem State.setVec_bad (s : State) (k : Nat) (v : Vec) : (s.setVec k v).bad = s.bad := rfl
@[simp] theorem State.setVec_owner (s : State) (k : Nat) (v : Vec) : (s.setVec k v).owner = s.owner := rfl
@[simp] theorem State.setVec_scratch (s : State) (k : Nat) (v : Vec) : (s.setVec k v).scratch = s.scratch := rfl
@[simp] theorem State.setVec_closures (s : State) (k : Nat) (v : Vec) : (s.setVec k v).closures = s.closures := rfl
@[simp] theorem State.setVec_stracts (s : State) (k : Nat) (v : Vec) : (s.setVec k v).stracts = s.stracts := rfl
@[simp] theorem State.setVec_arc (s : State) (k : Nat) (v : Vec) : (s.setVec k v).arc = s.arc := rfl
@[simp] theorem State.setVec_ctxs (s : State) (k : Nat) (v : Vec) : (s.setVec k v).ctxs = s.ctxs := rfl
@[simp] theorem State.setVec_ctxActs (s : State) (k : Nat) (v : Vec) : (s.setVec k v).ctxActs = s.ctxActs := rfl
@[simp] theorem State.setVec_cmd (s : State) (k : Nat) (v : Vec) : (s.setVec k v).cmd = s.cmd := rfl
@[simp] theorem State.setVec_ctr (s : State) (k : Nat) (v : Vec) : (s.setVec k v).ctr = s.ctr := rfl
@[simp] theorem State.setVec_flt (s : State) (k : Nat) (v : Vec) : (s.setVec k v).flt = s.flt := rfl
@[simp] theorem State.setVec_brg (s : State) (k : Nat) (v : Vec) : (s.setVec k v).brg = s.brg := rfl
@[simp] theorem State.setVec_cat (s : State) (k : Nat) (v : Vec) : (s.setVec k v).cat = s.cat := rfl
@[simp] theorem State.setVec_bndWaits (s : State) (k : Nat) (v : Vec) : (s.setVec k v).bndWaits = s.bndWaits := rfl
@[simp] theorem State.setVec_station (s : State) (k : Nat) (v : Vec) : (s.setVec k v).station = s.station := rfl
@[simp] theorem State.setVec_d3hot (s : State) (k : Nat) (v : Vec) : (s.setVec k v).d3hot = s.d3hot := rfl
@[simp] theorem State.setVec_d3depth (s : State) (k : Nat) (v : Vec) : (s.setVec k v).d3depth = s.d3depth := rfl
@[simp] theorem State.setVec_linkUp (s : State) (k : Nat) (v : Vec) : (s.setVec k v).linkUp = s.linkUp := rfl
@[simp] theorem State.setVec_tmax (s : State) (k : Nat) (v : Vec) : (s.setVec k v).tmax = s.tmax := rfl
@[simp] theorem State.setVec_pin (s : State) (k : Nat) (v : Vec) : (s.setVec k v).pin = s.pin := rfl
@[simp] theorem State.setVec_dbgOpen (s : State) (k : Nat) (v : Vec) : (s.setVec k v).dbgOpen = s.dbgOpen := rfl
@[simp] theorem State.setVec_ports (s : State) (k : Nat) (v : Vec) : (s.setVec k v).ports = s.ports := rfl
@[simp] theorem State.setVec_egress (s : State) (k : Nat) (v : Vec) : (s.setVec k v).egress = s.egress := rfl
@[simp] theorem State.setVec_hbm (s : State) (k : Nat) (v : Vec) : (s.setVec k v).hbm = s.hbm := rfl
@[simp] theorem State.setVec_bnd (s : State) (k : Nat) (v : Vec) : (s.setVec k v).bnd = s.bnd := rfl
@[simp] theorem State.setVec_fab (s : State) (k : Nat) (v : Vec) : (s.setVec k v).fab = s.fab := rfl
@[simp] theorem State.setVec_cols (s : State) (k : Nat) (v : Vec) : (s.setVec k v).cols = s.cols := rfl
@[simp] theorem State.setVec_slotRes (s : State) (k : Nat) (v : Vec) : (s.setVec k v).slotRes = s.slotRes := rfl
@[simp] theorem State.setVec_domSize (s : State) (k : Nat) (v : Vec) : (s.setVec k v).domSize = s.domSize := rfl
@[simp] theorem State.setVec_domLock (s : State) (k : Nat) (v : Vec) : (s.setVec k v).domLock = s.domLock := rfl
@[simp] theorem State.setVec_pwr (s : State) (k : Nat) (v : Vec) : (s.setVec k v).pwr = s.pwr := rfl
@[simp] theorem State.setVec_sec (s : State) (k : Nat) (v : Vec) : (s.setVec k v).sec = s.sec := rfl
@[simp] theorem State.setVec_out (s : State) (k : Nat) (v : Vec) : (s.setVec k v).out = s.out := rfl

/-! ## `State.setX` -/

@[simp] theorem State.setX_pending (s : State) (k : Nat) (v : Option XRun) : (s.setX k v).pending = s.pending := rfl
@[simp] theorem State.setX_now (s : State) (k : Nat) (v : Option XRun) : (s.setX k v).now = s.now := rfl
@[simp] theorem State.setX_fresh (s : State) (k : Nat) (v : Option XRun) : (s.setX k v).fresh = s.fresh := rfl
@[simp] theorem State.setX_mem (s : State) (k : Nat) (v : Option XRun) : (s.setX k v).mem = s.mem := rfl
@[simp] theorem State.setX_host (s : State) (k : Nat) (v : Option XRun) : (s.setX k v).host = s.host := rfl
@[simp] theorem State.setX_bad (s : State) (k : Nat) (v : Option XRun) : (s.setX k v).bad = s.bad := rfl
@[simp] theorem State.setX_owner (s : State) (k : Nat) (v : Option XRun) : (s.setX k v).owner = s.owner := rfl
@[simp] theorem State.setX_scratch (s : State) (k : Nat) (v : Option XRun) : (s.setX k v).scratch = s.scratch := rfl
@[simp] theorem State.setX_closures (s : State) (k : Nat) (v : Option XRun) : (s.setX k v).closures = s.closures := rfl
@[simp] theorem State.setX_stracts (s : State) (k : Nat) (v : Option XRun) : (s.setX k v).stracts = s.stracts := rfl
@[simp] theorem State.setX_arc (s : State) (k : Nat) (v : Option XRun) : (s.setX k v).arc = s.arc := rfl
@[simp] theorem State.setX_ctxs (s : State) (k : Nat) (v : Option XRun) : (s.setX k v).ctxs = s.ctxs := rfl
@[simp] theorem State.setX_ctxActs (s : State) (k : Nat) (v : Option XRun) : (s.setX k v).ctxActs = s.ctxActs := rfl
@[simp] theorem State.setX_cmd (s : State) (k : Nat) (v : Option XRun) : (s.setX k v).cmd = s.cmd := rfl
@[simp] theorem State.setX_ctr (s : State) (k : Nat) (v : Option XRun) : (s.setX k v).ctr = s.ctr := rfl
@[simp] theorem State.setX_flt (s : State) (k : Nat) (v : Option XRun) : (s.setX k v).flt = s.flt := rfl
@[simp] theorem State.setX_brg (s : State) (k : Nat) (v : Option XRun) : (s.setX k v).brg = s.brg := rfl
@[simp] theorem State.setX_cat (s : State) (k : Nat) (v : Option XRun) : (s.setX k v).cat = s.cat := rfl
@[simp] theorem State.setX_bndWaits (s : State) (k : Nat) (v : Option XRun) : (s.setX k v).bndWaits = s.bndWaits := rfl
@[simp] theorem State.setX_station (s : State) (k : Nat) (v : Option XRun) : (s.setX k v).station = s.station := rfl
@[simp] theorem State.setX_d3hot (s : State) (k : Nat) (v : Option XRun) : (s.setX k v).d3hot = s.d3hot := rfl
@[simp] theorem State.setX_d3depth (s : State) (k : Nat) (v : Option XRun) : (s.setX k v).d3depth = s.d3depth := rfl
@[simp] theorem State.setX_linkUp (s : State) (k : Nat) (v : Option XRun) : (s.setX k v).linkUp = s.linkUp := rfl
@[simp] theorem State.setX_tmax (s : State) (k : Nat) (v : Option XRun) : (s.setX k v).tmax = s.tmax := rfl
@[simp] theorem State.setX_pin (s : State) (k : Nat) (v : Option XRun) : (s.setX k v).pin = s.pin := rfl
@[simp] theorem State.setX_dbgOpen (s : State) (k : Nat) (v : Option XRun) : (s.setX k v).dbgOpen = s.dbgOpen := rfl
@[simp] theorem State.setX_ports (s : State) (k : Nat) (v : Option XRun) : (s.setX k v).ports = s.ports := rfl
@[simp] theorem State.setX_egress (s : State) (k : Nat) (v : Option XRun) : (s.setX k v).egress = s.egress := rfl
@[simp] theorem State.setX_hbm (s : State) (k : Nat) (v : Option XRun) : (s.setX k v).hbm = s.hbm := rfl
@[simp] theorem State.setX_bnd (s : State) (k : Nat) (v : Option XRun) : (s.setX k v).bnd = s.bnd := rfl
@[simp] theorem State.setX_fab (s : State) (k : Nat) (v : Option XRun) : (s.setX k v).fab = s.fab := rfl
@[simp] theorem State.setX_cols (s : State) (k : Nat) (v : Option XRun) : (s.setX k v).cols = s.cols := rfl
@[simp] theorem State.setX_slotRes (s : State) (k : Nat) (v : Option XRun) : (s.setX k v).slotRes = s.slotRes := rfl
@[simp] theorem State.setX_domSize (s : State) (k : Nat) (v : Option XRun) : (s.setX k v).domSize = s.domSize := rfl
@[simp] theorem State.setX_domLock (s : State) (k : Nat) (v : Option XRun) : (s.setX k v).domLock = s.domLock := rfl
@[simp] theorem State.setX_pwr (s : State) (k : Nat) (v : Option XRun) : (s.setX k v).pwr = s.pwr := rfl
@[simp] theorem State.setX_sec (s : State) (k : Nat) (v : Option XRun) : (s.setX k v).sec = s.sec := rfl
@[simp] theorem State.setX_out (s : State) (k : Nat) (v : Option XRun) : (s.setX k v).out = s.out := rfl

/-! ## `State.advance` -/

@[simp] theorem State.advance_pending (s : State) (c u : Nat) (q : Q) : (s.advance c u q).pending = s.pending := rfl
@[simp] theorem State.advance_now (s : State) (c u : Nat) (q : Q) : (s.advance c u q).now = s.now := rfl
@[simp] theorem State.advance_fresh (s : State) (c u : Nat) (q : Q) : (s.advance c u q).fresh = s.fresh := rfl
@[simp] theorem State.advance_mem (s : State) (c u : Nat) (q : Q) : (s.advance c u q).mem = s.mem := rfl
@[simp] theorem State.advance_host (s : State) (c u : Nat) (q : Q) : (s.advance c u q).host = s.host := rfl
@[simp] theorem State.advance_bad (s : State) (c u : Nat) (q : Q) : (s.advance c u q).bad = s.bad := rfl
@[simp] theorem State.advance_owner (s : State) (c u : Nat) (q : Q) : (s.advance c u q).owner = s.owner := rfl
@[simp] theorem State.advance_scratch (s : State) (c u : Nat) (q : Q) : (s.advance c u q).scratch = s.scratch := rfl
@[simp] theorem State.advance_closures (s : State) (c u : Nat) (q : Q) : (s.advance c u q).closures = s.closures := rfl
@[simp] theorem State.advance_stracts (s : State) (c u : Nat) (q : Q) : (s.advance c u q).stracts = s.stracts := rfl
@[simp] theorem State.advance_arc (s : State) (c u : Nat) (q : Q) : (s.advance c u q).arc = s.arc := rfl
@[simp] theorem State.advance_ctxs (s : State) (c u : Nat) (q : Q) : (s.advance c u q).ctxs = s.ctxs := rfl
@[simp] theorem State.advance_ctxActs (s : State) (c u : Nat) (q : Q) : (s.advance c u q).ctxActs = s.ctxActs := rfl
@[simp] theorem State.advance_cmd (s : State) (c u : Nat) (q : Q) : (s.advance c u q).cmd = s.cmd := rfl
@[simp] theorem State.advance_ctr (s : State) (c u : Nat) (q : Q) : (s.advance c u q).ctr = s.ctr := rfl
@[simp] theorem State.advance_flt (s : State) (c u : Nat) (q : Q) : (s.advance c u q).flt = s.flt := rfl
@[simp] theorem State.advance_brg (s : State) (c u : Nat) (q : Q) : (s.advance c u q).brg = s.brg := rfl
@[simp] theorem State.advance_cat (s : State) (c u : Nat) (q : Q) : (s.advance c u q).cat = s.cat := rfl
@[simp] theorem State.advance_bndWaits (s : State) (c u : Nat) (q : Q) : (s.advance c u q).bndWaits = s.bndWaits := rfl
@[simp] theorem State.advance_station (s : State) (c u : Nat) (q : Q) : (s.advance c u q).station = s.station := rfl
@[simp] theorem State.advance_d3hot (s : State) (c u : Nat) (q : Q) : (s.advance c u q).d3hot = s.d3hot := rfl
@[simp] theorem State.advance_d3depth (s : State) (c u : Nat) (q : Q) : (s.advance c u q).d3depth = s.d3depth := rfl
@[simp] theorem State.advance_linkUp (s : State) (c u : Nat) (q : Q) : (s.advance c u q).linkUp = s.linkUp := rfl
@[simp] theorem State.advance_tmax (s : State) (c u : Nat) (q : Q) : (s.advance c u q).tmax = s.tmax := rfl
@[simp] theorem State.advance_pin (s : State) (c u : Nat) (q : Q) : (s.advance c u q).pin = s.pin := rfl
@[simp] theorem State.advance_dbgOpen (s : State) (c u : Nat) (q : Q) : (s.advance c u q).dbgOpen = s.dbgOpen := rfl
@[simp] theorem State.advance_ports (s : State) (c u : Nat) (q : Q) : (s.advance c u q).ports = s.ports := rfl
@[simp] theorem State.advance_egress (s : State) (c u : Nat) (q : Q) : (s.advance c u q).egress = s.egress := rfl
@[simp] theorem State.advance_hbm (s : State) (c u : Nat) (q : Q) : (s.advance c u q).hbm = s.hbm := rfl
@[simp] theorem State.advance_bnd (s : State) (c u : Nat) (q : Q) : (s.advance c u q).bnd = s.bnd := rfl
@[simp] theorem State.advance_fab (s : State) (c u : Nat) (q : Q) : (s.advance c u q).fab = s.fab := rfl
@[simp] theorem State.advance_cols (s : State) (c u : Nat) (q : Q) : (s.advance c u q).cols = s.cols := rfl
@[simp] theorem State.advance_slotRes (s : State) (c u : Nat) (q : Q) : (s.advance c u q).slotRes = s.slotRes := rfl
@[simp] theorem State.advance_domSize (s : State) (c u : Nat) (q : Q) : (s.advance c u q).domSize = s.domSize := rfl
@[simp] theorem State.advance_domLock (s : State) (c u : Nat) (q : Q) : (s.advance c u q).domLock = s.domLock := rfl
@[simp] theorem State.advance_pwr (s : State) (c u : Nat) (q : Q) : (s.advance c u q).pwr = s.pwr := rfl
@[simp] theorem State.advance_sec (s : State) (c u : Nat) (q : Q) : (s.advance c u q).sec = s.sec := rfl
@[simp] theorem State.advance_out (s : State) (c u : Nat) (q : Q) : (s.advance c u q).out = s.out := rfl

/-! ## `State.waitHead` -/

@[simp] theorem State.waitHead_pending (s : State) (c u : Nat) (q : Q) (v : Head) : (s.waitHead c u q v).pending = s.pending := rfl
@[simp] theorem State.waitHead_now (s : State) (c u : Nat) (q : Q) (v : Head) : (s.waitHead c u q v).now = s.now := rfl
@[simp] theorem State.waitHead_fresh (s : State) (c u : Nat) (q : Q) (v : Head) : (s.waitHead c u q v).fresh = s.fresh := rfl
@[simp] theorem State.waitHead_mem (s : State) (c u : Nat) (q : Q) (v : Head) : (s.waitHead c u q v).mem = s.mem := rfl
@[simp] theorem State.waitHead_host (s : State) (c u : Nat) (q : Q) (v : Head) : (s.waitHead c u q v).host = s.host := rfl
@[simp] theorem State.waitHead_bad (s : State) (c u : Nat) (q : Q) (v : Head) : (s.waitHead c u q v).bad = s.bad := rfl
@[simp] theorem State.waitHead_owner (s : State) (c u : Nat) (q : Q) (v : Head) : (s.waitHead c u q v).owner = s.owner := rfl
@[simp] theorem State.waitHead_scratch (s : State) (c u : Nat) (q : Q) (v : Head) : (s.waitHead c u q v).scratch = s.scratch := rfl
@[simp] theorem State.waitHead_closures (s : State) (c u : Nat) (q : Q) (v : Head) : (s.waitHead c u q v).closures = s.closures := rfl
@[simp] theorem State.waitHead_stracts (s : State) (c u : Nat) (q : Q) (v : Head) : (s.waitHead c u q v).stracts = s.stracts := rfl
@[simp] theorem State.waitHead_arc (s : State) (c u : Nat) (q : Q) (v : Head) : (s.waitHead c u q v).arc = s.arc := rfl
@[simp] theorem State.waitHead_ctxs (s : State) (c u : Nat) (q : Q) (v : Head) : (s.waitHead c u q v).ctxs = s.ctxs := rfl
@[simp] theorem State.waitHead_ctxActs (s : State) (c u : Nat) (q : Q) (v : Head) : (s.waitHead c u q v).ctxActs = s.ctxActs := rfl
@[simp] theorem State.waitHead_cmd (s : State) (c u : Nat) (q : Q) (v : Head) : (s.waitHead c u q v).cmd = s.cmd := rfl
@[simp] theorem State.waitHead_ctr (s : State) (c u : Nat) (q : Q) (v : Head) : (s.waitHead c u q v).ctr = s.ctr := rfl
@[simp] theorem State.waitHead_flt (s : State) (c u : Nat) (q : Q) (v : Head) : (s.waitHead c u q v).flt = s.flt := rfl
@[simp] theorem State.waitHead_brg (s : State) (c u : Nat) (q : Q) (v : Head) : (s.waitHead c u q v).brg = s.brg := rfl
@[simp] theorem State.waitHead_cat (s : State) (c u : Nat) (q : Q) (v : Head) : (s.waitHead c u q v).cat = s.cat := rfl
@[simp] theorem State.waitHead_bndWaits (s : State) (c u : Nat) (q : Q) (v : Head) : (s.waitHead c u q v).bndWaits = s.bndWaits := rfl
@[simp] theorem State.waitHead_station (s : State) (c u : Nat) (q : Q) (v : Head) : (s.waitHead c u q v).station = s.station := rfl
@[simp] theorem State.waitHead_d3hot (s : State) (c u : Nat) (q : Q) (v : Head) : (s.waitHead c u q v).d3hot = s.d3hot := rfl
@[simp] theorem State.waitHead_d3depth (s : State) (c u : Nat) (q : Q) (v : Head) : (s.waitHead c u q v).d3depth = s.d3depth := rfl
@[simp] theorem State.waitHead_linkUp (s : State) (c u : Nat) (q : Q) (v : Head) : (s.waitHead c u q v).linkUp = s.linkUp := rfl
@[simp] theorem State.waitHead_tmax (s : State) (c u : Nat) (q : Q) (v : Head) : (s.waitHead c u q v).tmax = s.tmax := rfl
@[simp] theorem State.waitHead_pin (s : State) (c u : Nat) (q : Q) (v : Head) : (s.waitHead c u q v).pin = s.pin := rfl
@[simp] theorem State.waitHead_dbgOpen (s : State) (c u : Nat) (q : Q) (v : Head) : (s.waitHead c u q v).dbgOpen = s.dbgOpen := rfl
@[simp] theorem State.waitHead_ports (s : State) (c u : Nat) (q : Q) (v : Head) : (s.waitHead c u q v).ports = s.ports := rfl
@[simp] theorem State.waitHead_egress (s : State) (c u : Nat) (q : Q) (v : Head) : (s.waitHead c u q v).egress = s.egress := rfl
@[simp] theorem State.waitHead_hbm (s : State) (c u : Nat) (q : Q) (v : Head) : (s.waitHead c u q v).hbm = s.hbm := rfl
@[simp] theorem State.waitHead_bnd (s : State) (c u : Nat) (q : Q) (v : Head) : (s.waitHead c u q v).bnd = s.bnd := rfl
@[simp] theorem State.waitHead_fab (s : State) (c u : Nat) (q : Q) (v : Head) : (s.waitHead c u q v).fab = s.fab := rfl
@[simp] theorem State.waitHead_cols (s : State) (c u : Nat) (q : Q) (v : Head) : (s.waitHead c u q v).cols = s.cols := rfl
@[simp] theorem State.waitHead_slotRes (s : State) (c u : Nat) (q : Q) (v : Head) : (s.waitHead c u q v).slotRes = s.slotRes := rfl
@[simp] theorem State.waitHead_domSize (s : State) (c u : Nat) (q : Q) (v : Head) : (s.waitHead c u q v).domSize = s.domSize := rfl
@[simp] theorem State.waitHead_domLock (s : State) (c u : Nat) (q : Q) (v : Head) : (s.waitHead c u q v).domLock = s.domLock := rfl
@[simp] theorem State.waitHead_pwr (s : State) (c u : Nat) (q : Q) (v : Head) : (s.waitHead c u q v).pwr = s.pwr := rfl
@[simp] theorem State.waitHead_sec (s : State) (c u : Nat) (q : Q) (v : Head) : (s.waitHead c u q v).sec = s.sec := rfl
@[simp] theorem State.waitHead_out (s : State) (c u : Nat) (q : Q) (v : Head) : (s.waitHead c u q v).out = s.out := rfl

/-! ## `State.leaveHead` -/

@[simp] theorem State.leaveHead_pending (s : State) (c u : Nat) (q : Q) : (s.leaveHead c u q).pending = s.pending := rfl
@[simp] theorem State.leaveHead_now (s : State) (c u : Nat) (q : Q) : (s.leaveHead c u q).now = s.now := rfl
@[simp] theorem State.leaveHead_fresh (s : State) (c u : Nat) (q : Q) : (s.leaveHead c u q).fresh = s.fresh := rfl
@[simp] theorem State.leaveHead_mem (s : State) (c u : Nat) (q : Q) : (s.leaveHead c u q).mem = s.mem := rfl
@[simp] theorem State.leaveHead_host (s : State) (c u : Nat) (q : Q) : (s.leaveHead c u q).host = s.host := rfl
@[simp] theorem State.leaveHead_bad (s : State) (c u : Nat) (q : Q) : (s.leaveHead c u q).bad = s.bad := rfl
@[simp] theorem State.leaveHead_owner (s : State) (c u : Nat) (q : Q) : (s.leaveHead c u q).owner = s.owner := rfl
@[simp] theorem State.leaveHead_scratch (s : State) (c u : Nat) (q : Q) : (s.leaveHead c u q).scratch = s.scratch := rfl
@[simp] theorem State.leaveHead_closures (s : State) (c u : Nat) (q : Q) : (s.leaveHead c u q).closures = s.closures := rfl
@[simp] theorem State.leaveHead_stracts (s : State) (c u : Nat) (q : Q) : (s.leaveHead c u q).stracts = s.stracts := rfl
@[simp] theorem State.leaveHead_arc (s : State) (c u : Nat) (q : Q) : (s.leaveHead c u q).arc = s.arc := rfl
@[simp] theorem State.leaveHead_ctxs (s : State) (c u : Nat) (q : Q) : (s.leaveHead c u q).ctxs = s.ctxs := rfl
@[simp] theorem State.leaveHead_ctxActs (s : State) (c u : Nat) (q : Q) : (s.leaveHead c u q).ctxActs = s.ctxActs := rfl
@[simp] theorem State.leaveHead_cmd (s : State) (c u : Nat) (q : Q) : (s.leaveHead c u q).cmd = s.cmd := rfl
@[simp] theorem State.leaveHead_ctr (s : State) (c u : Nat) (q : Q) : (s.leaveHead c u q).ctr = s.ctr := rfl
@[simp] theorem State.leaveHead_flt (s : State) (c u : Nat) (q : Q) : (s.leaveHead c u q).flt = s.flt := rfl
@[simp] theorem State.leaveHead_brg (s : State) (c u : Nat) (q : Q) : (s.leaveHead c u q).brg = s.brg := rfl
@[simp] theorem State.leaveHead_cat (s : State) (c u : Nat) (q : Q) : (s.leaveHead c u q).cat = s.cat := rfl
@[simp] theorem State.leaveHead_bndWaits (s : State) (c u : Nat) (q : Q) : (s.leaveHead c u q).bndWaits = s.bndWaits := rfl
@[simp] theorem State.leaveHead_station (s : State) (c u : Nat) (q : Q) : (s.leaveHead c u q).station = s.station := rfl
@[simp] theorem State.leaveHead_d3hot (s : State) (c u : Nat) (q : Q) : (s.leaveHead c u q).d3hot = s.d3hot := rfl
@[simp] theorem State.leaveHead_d3depth (s : State) (c u : Nat) (q : Q) : (s.leaveHead c u q).d3depth = s.d3depth := rfl
@[simp] theorem State.leaveHead_linkUp (s : State) (c u : Nat) (q : Q) : (s.leaveHead c u q).linkUp = s.linkUp := rfl
@[simp] theorem State.leaveHead_tmax (s : State) (c u : Nat) (q : Q) : (s.leaveHead c u q).tmax = s.tmax := rfl
@[simp] theorem State.leaveHead_pin (s : State) (c u : Nat) (q : Q) : (s.leaveHead c u q).pin = s.pin := rfl
@[simp] theorem State.leaveHead_dbgOpen (s : State) (c u : Nat) (q : Q) : (s.leaveHead c u q).dbgOpen = s.dbgOpen := rfl
@[simp] theorem State.leaveHead_ports (s : State) (c u : Nat) (q : Q) : (s.leaveHead c u q).ports = s.ports := rfl
@[simp] theorem State.leaveHead_egress (s : State) (c u : Nat) (q : Q) : (s.leaveHead c u q).egress = s.egress := rfl
@[simp] theorem State.leaveHead_hbm (s : State) (c u : Nat) (q : Q) : (s.leaveHead c u q).hbm = s.hbm := rfl
@[simp] theorem State.leaveHead_bnd (s : State) (c u : Nat) (q : Q) : (s.leaveHead c u q).bnd = s.bnd := rfl
@[simp] theorem State.leaveHead_fab (s : State) (c u : Nat) (q : Q) : (s.leaveHead c u q).fab = s.fab := rfl
@[simp] theorem State.leaveHead_cols (s : State) (c u : Nat) (q : Q) : (s.leaveHead c u q).cols = s.cols := rfl
@[simp] theorem State.leaveHead_slotRes (s : State) (c u : Nat) (q : Q) : (s.leaveHead c u q).slotRes = s.slotRes := rfl
@[simp] theorem State.leaveHead_domSize (s : State) (c u : Nat) (q : Q) : (s.leaveHead c u q).domSize = s.domSize := rfl
@[simp] theorem State.leaveHead_domLock (s : State) (c u : Nat) (q : Q) : (s.leaveHead c u q).domLock = s.domLock := rfl
@[simp] theorem State.leaveHead_pwr (s : State) (c u : Nat) (q : Q) : (s.leaveHead c u q).pwr = s.pwr := rfl
@[simp] theorem State.leaveHead_sec (s : State) (c u : Nat) (q : Q) : (s.leaveHead c u q).sec = s.sec := rfl
@[simp] theorem State.leaveHead_out (s : State) (c u : Nat) (q : Q) : (s.leaveHead c u q).out = s.out := rfl

/-! ## `State.queueOp` -/

@[simp] theorem State.queueOp_pending (s : State) (c u : Nat) (q : Q) (f : Queue → Queue) : (s.queueOp c u q f).pending = s.pending := rfl
@[simp] theorem State.queueOp_now (s : State) (c u : Nat) (q : Q) (f : Queue → Queue) : (s.queueOp c u q f).now = s.now := rfl
@[simp] theorem State.queueOp_fresh (s : State) (c u : Nat) (q : Q) (f : Queue → Queue) : (s.queueOp c u q f).fresh = s.fresh := rfl
@[simp] theorem State.queueOp_mem (s : State) (c u : Nat) (q : Q) (f : Queue → Queue) : (s.queueOp c u q f).mem = s.mem := rfl
@[simp] theorem State.queueOp_host (s : State) (c u : Nat) (q : Q) (f : Queue → Queue) : (s.queueOp c u q f).host = s.host := rfl
@[simp] theorem State.queueOp_bad (s : State) (c u : Nat) (q : Q) (f : Queue → Queue) : (s.queueOp c u q f).bad = s.bad := rfl
@[simp] theorem State.queueOp_owner (s : State) (c u : Nat) (q : Q) (f : Queue → Queue) : (s.queueOp c u q f).owner = s.owner := rfl
@[simp] theorem State.queueOp_scratch (s : State) (c u : Nat) (q : Q) (f : Queue → Queue) : (s.queueOp c u q f).scratch = s.scratch := rfl
@[simp] theorem State.queueOp_closures (s : State) (c u : Nat) (q : Q) (f : Queue → Queue) : (s.queueOp c u q f).closures = s.closures := rfl
@[simp] theorem State.queueOp_stracts (s : State) (c u : Nat) (q : Q) (f : Queue → Queue) : (s.queueOp c u q f).stracts = s.stracts := rfl
@[simp] theorem State.queueOp_arc (s : State) (c u : Nat) (q : Q) (f : Queue → Queue) : (s.queueOp c u q f).arc = s.arc := rfl
@[simp] theorem State.queueOp_ctxs (s : State) (c u : Nat) (q : Q) (f : Queue → Queue) : (s.queueOp c u q f).ctxs = s.ctxs := rfl
@[simp] theorem State.queueOp_ctxActs (s : State) (c u : Nat) (q : Q) (f : Queue → Queue) : (s.queueOp c u q f).ctxActs = s.ctxActs := rfl
@[simp] theorem State.queueOp_cmd (s : State) (c u : Nat) (q : Q) (f : Queue → Queue) : (s.queueOp c u q f).cmd = s.cmd := rfl
@[simp] theorem State.queueOp_ctr (s : State) (c u : Nat) (q : Q) (f : Queue → Queue) : (s.queueOp c u q f).ctr = s.ctr := rfl
@[simp] theorem State.queueOp_flt (s : State) (c u : Nat) (q : Q) (f : Queue → Queue) : (s.queueOp c u q f).flt = s.flt := rfl
@[simp] theorem State.queueOp_brg (s : State) (c u : Nat) (q : Q) (f : Queue → Queue) : (s.queueOp c u q f).brg = s.brg := rfl
@[simp] theorem State.queueOp_cat (s : State) (c u : Nat) (q : Q) (f : Queue → Queue) : (s.queueOp c u q f).cat = s.cat := rfl
@[simp] theorem State.queueOp_bndWaits (s : State) (c u : Nat) (q : Q) (f : Queue → Queue) : (s.queueOp c u q f).bndWaits = s.bndWaits := rfl
@[simp] theorem State.queueOp_station (s : State) (c u : Nat) (q : Q) (f : Queue → Queue) : (s.queueOp c u q f).station = s.station := rfl
@[simp] theorem State.queueOp_d3hot (s : State) (c u : Nat) (q : Q) (f : Queue → Queue) : (s.queueOp c u q f).d3hot = s.d3hot := rfl
@[simp] theorem State.queueOp_d3depth (s : State) (c u : Nat) (q : Q) (f : Queue → Queue) : (s.queueOp c u q f).d3depth = s.d3depth := rfl
@[simp] theorem State.queueOp_linkUp (s : State) (c u : Nat) (q : Q) (f : Queue → Queue) : (s.queueOp c u q f).linkUp = s.linkUp := rfl
@[simp] theorem State.queueOp_tmax (s : State) (c u : Nat) (q : Q) (f : Queue → Queue) : (s.queueOp c u q f).tmax = s.tmax := rfl
@[simp] theorem State.queueOp_pin (s : State) (c u : Nat) (q : Q) (f : Queue → Queue) : (s.queueOp c u q f).pin = s.pin := rfl
@[simp] theorem State.queueOp_dbgOpen (s : State) (c u : Nat) (q : Q) (f : Queue → Queue) : (s.queueOp c u q f).dbgOpen = s.dbgOpen := rfl
@[simp] theorem State.queueOp_ports (s : State) (c u : Nat) (q : Q) (f : Queue → Queue) : (s.queueOp c u q f).ports = s.ports := rfl
@[simp] theorem State.queueOp_egress (s : State) (c u : Nat) (q : Q) (f : Queue → Queue) : (s.queueOp c u q f).egress = s.egress := rfl
@[simp] theorem State.queueOp_hbm (s : State) (c u : Nat) (q : Q) (f : Queue → Queue) : (s.queueOp c u q f).hbm = s.hbm := rfl
@[simp] theorem State.queueOp_bnd (s : State) (c u : Nat) (q : Q) (f : Queue → Queue) : (s.queueOp c u q f).bnd = s.bnd := rfl
@[simp] theorem State.queueOp_fab (s : State) (c u : Nat) (q : Q) (f : Queue → Queue) : (s.queueOp c u q f).fab = s.fab := rfl
@[simp] theorem State.queueOp_cols (s : State) (c u : Nat) (q : Q) (f : Queue → Queue) : (s.queueOp c u q f).cols = s.cols := rfl
@[simp] theorem State.queueOp_slotRes (s : State) (c u : Nat) (q : Q) (f : Queue → Queue) : (s.queueOp c u q f).slotRes = s.slotRes := rfl
@[simp] theorem State.queueOp_domSize (s : State) (c u : Nat) (q : Q) (f : Queue → Queue) : (s.queueOp c u q f).domSize = s.domSize := rfl
@[simp] theorem State.queueOp_domLock (s : State) (c u : Nat) (q : Q) (f : Queue → Queue) : (s.queueOp c u q f).domLock = s.domLock := rfl
@[simp] theorem State.queueOp_pwr (s : State) (c u : Nat) (q : Q) (f : Queue → Queue) : (s.queueOp c u q f).pwr = s.pwr := rfl
@[simp] theorem State.queueOp_sec (s : State) (c u : Nat) (q : Q) (f : Queue → Queue) : (s.queueOp c u q f).sec = s.sec := rfl
@[simp] theorem State.queueOp_out (s : State) (c u : Nat) (q : Q) (f : Queue → Queue) : (s.queueOp c u q f).out = s.out := rfl

/-! ## `State.setStake` -/

@[simp] theorem State.setStake_pending (s : State) (k i : Nat) (v : StakeSt) : (s.setStake k i v).pending = s.pending := rfl
@[simp] theorem State.setStake_now (s : State) (k i : Nat) (v : StakeSt) : (s.setStake k i v).now = s.now := rfl
@[simp] theorem State.setStake_fresh (s : State) (k i : Nat) (v : StakeSt) : (s.setStake k i v).fresh = s.fresh := rfl
@[simp] theorem State.setStake_mem (s : State) (k i : Nat) (v : StakeSt) : (s.setStake k i v).mem = s.mem := rfl
@[simp] theorem State.setStake_host (s : State) (k i : Nat) (v : StakeSt) : (s.setStake k i v).host = s.host := rfl
@[simp] theorem State.setStake_bad (s : State) (k i : Nat) (v : StakeSt) : (s.setStake k i v).bad = s.bad := rfl
@[simp] theorem State.setStake_owner (s : State) (k i : Nat) (v : StakeSt) : (s.setStake k i v).owner = s.owner := rfl
@[simp] theorem State.setStake_scratch (s : State) (k i : Nat) (v : StakeSt) : (s.setStake k i v).scratch = s.scratch := rfl
@[simp] theorem State.setStake_closures (s : State) (k i : Nat) (v : StakeSt) : (s.setStake k i v).closures = s.closures := rfl
@[simp] theorem State.setStake_stracts (s : State) (k i : Nat) (v : StakeSt) : (s.setStake k i v).stracts = s.stracts := rfl
@[simp] theorem State.setStake_arc (s : State) (k i : Nat) (v : StakeSt) : (s.setStake k i v).arc = s.arc := rfl
@[simp] theorem State.setStake_ctxs (s : State) (k i : Nat) (v : StakeSt) : (s.setStake k i v).ctxs = s.ctxs := rfl
@[simp] theorem State.setStake_ctxActs (s : State) (k i : Nat) (v : StakeSt) : (s.setStake k i v).ctxActs = s.ctxActs := rfl
@[simp] theorem State.setStake_cmd (s : State) (k i : Nat) (v : StakeSt) : (s.setStake k i v).cmd = s.cmd := rfl
@[simp] theorem State.setStake_ctr (s : State) (k i : Nat) (v : StakeSt) : (s.setStake k i v).ctr = s.ctr := rfl
@[simp] theorem State.setStake_flt (s : State) (k i : Nat) (v : StakeSt) : (s.setStake k i v).flt = s.flt := rfl
@[simp] theorem State.setStake_brg (s : State) (k i : Nat) (v : StakeSt) : (s.setStake k i v).brg = s.brg := rfl
@[simp] theorem State.setStake_cat (s : State) (k i : Nat) (v : StakeSt) : (s.setStake k i v).cat = s.cat := rfl
@[simp] theorem State.setStake_bndWaits (s : State) (k i : Nat) (v : StakeSt) : (s.setStake k i v).bndWaits = s.bndWaits := rfl
@[simp] theorem State.setStake_station (s : State) (k i : Nat) (v : StakeSt) : (s.setStake k i v).station = s.station := rfl
@[simp] theorem State.setStake_d3hot (s : State) (k i : Nat) (v : StakeSt) : (s.setStake k i v).d3hot = s.d3hot := rfl
@[simp] theorem State.setStake_d3depth (s : State) (k i : Nat) (v : StakeSt) : (s.setStake k i v).d3depth = s.d3depth := rfl
@[simp] theorem State.setStake_linkUp (s : State) (k i : Nat) (v : StakeSt) : (s.setStake k i v).linkUp = s.linkUp := rfl
@[simp] theorem State.setStake_tmax (s : State) (k i : Nat) (v : StakeSt) : (s.setStake k i v).tmax = s.tmax := rfl
@[simp] theorem State.setStake_pin (s : State) (k i : Nat) (v : StakeSt) : (s.setStake k i v).pin = s.pin := rfl
@[simp] theorem State.setStake_dbgOpen (s : State) (k i : Nat) (v : StakeSt) : (s.setStake k i v).dbgOpen = s.dbgOpen := rfl
@[simp] theorem State.setStake_ports (s : State) (k i : Nat) (v : StakeSt) : (s.setStake k i v).ports = s.ports := rfl
@[simp] theorem State.setStake_egress (s : State) (k i : Nat) (v : StakeSt) : (s.setStake k i v).egress = s.egress := rfl
@[simp] theorem State.setStake_hbm (s : State) (k i : Nat) (v : StakeSt) : (s.setStake k i v).hbm = s.hbm := rfl
@[simp] theorem State.setStake_bnd (s : State) (k i : Nat) (v : StakeSt) : (s.setStake k i v).bnd = s.bnd := rfl
@[simp] theorem State.setStake_fab (s : State) (k i : Nat) (v : StakeSt) : (s.setStake k i v).fab = s.fab := rfl
@[simp] theorem State.setStake_cols (s : State) (k i : Nat) (v : StakeSt) : (s.setStake k i v).cols = s.cols := rfl
@[simp] theorem State.setStake_slotRes (s : State) (k i : Nat) (v : StakeSt) : (s.setStake k i v).slotRes = s.slotRes := rfl
@[simp] theorem State.setStake_domSize (s : State) (k i : Nat) (v : StakeSt) : (s.setStake k i v).domSize = s.domSize := rfl
@[simp] theorem State.setStake_domLock (s : State) (k i : Nat) (v : StakeSt) : (s.setStake k i v).domLock = s.domLock := rfl
@[simp] theorem State.setStake_pwr (s : State) (k i : Nat) (v : StakeSt) : (s.setStake k i v).pwr = s.pwr := rfl
@[simp] theorem State.setStake_sec (s : State) (k i : Nat) (v : StakeSt) : (s.setStake k i v).sec = s.sec := rfl
@[simp] theorem State.setStake_out (s : State) (k i : Nat) (v : StakeSt) : (s.setStake k i v).out = s.out := rfl

/-! ## `State.misuse` -/

@[simp] theorem State.misuse_pending (s : State) (k i : Nat) : (s.misuse k i).pending = s.pending := rfl
@[simp] theorem State.misuse_now (s : State) (k i : Nat) : (s.misuse k i).now = s.now := rfl
@[simp] theorem State.misuse_fresh (s : State) (k i : Nat) : (s.misuse k i).fresh = s.fresh := rfl
@[simp] theorem State.misuse_mem (s : State) (k i : Nat) : (s.misuse k i).mem = s.mem := rfl
@[simp] theorem State.misuse_host (s : State) (k i : Nat) : (s.misuse k i).host = s.host := rfl
@[simp] theorem State.misuse_bad (s : State) (k i : Nat) : (s.misuse k i).bad = s.bad := rfl
@[simp] theorem State.misuse_owner (s : State) (k i : Nat) : (s.misuse k i).owner = s.owner := rfl
@[simp] theorem State.misuse_scratch (s : State) (k i : Nat) : (s.misuse k i).scratch = s.scratch := rfl
@[simp] theorem State.misuse_closures (s : State) (k i : Nat) : (s.misuse k i).closures = s.closures := rfl
@[simp] theorem State.misuse_stracts (s : State) (k i : Nat) : (s.misuse k i).stracts = s.stracts := rfl
@[simp] theorem State.misuse_arc (s : State) (k i : Nat) : (s.misuse k i).arc = s.arc := rfl
@[simp] theorem State.misuse_ctxs (s : State) (k i : Nat) : (s.misuse k i).ctxs = s.ctxs := rfl
@[simp] theorem State.misuse_ctxActs (s : State) (k i : Nat) : (s.misuse k i).ctxActs = s.ctxActs := rfl
@[simp] theorem State.misuse_cmd (s : State) (k i : Nat) : (s.misuse k i).cmd = s.cmd := rfl
@[simp] theorem State.misuse_ctr (s : State) (k i : Nat) : (s.misuse k i).ctr = s.ctr := rfl
@[simp] theorem State.misuse_flt (s : State) (k i : Nat) : (s.misuse k i).flt = s.flt := rfl
@[simp] theorem State.misuse_brg (s : State) (k i : Nat) : (s.misuse k i).brg = s.brg := rfl
@[simp] theorem State.misuse_cat (s : State) (k i : Nat) : (s.misuse k i).cat = s.cat := rfl
@[simp] theorem State.misuse_bndWaits (s : State) (k i : Nat) : (s.misuse k i).bndWaits = s.bndWaits := rfl
@[simp] theorem State.misuse_station (s : State) (k i : Nat) : (s.misuse k i).station = s.station := rfl
@[simp] theorem State.misuse_d3hot (s : State) (k i : Nat) : (s.misuse k i).d3hot = s.d3hot := rfl
@[simp] theorem State.misuse_d3depth (s : State) (k i : Nat) : (s.misuse k i).d3depth = s.d3depth := rfl
@[simp] theorem State.misuse_linkUp (s : State) (k i : Nat) : (s.misuse k i).linkUp = s.linkUp := rfl
@[simp] theorem State.misuse_tmax (s : State) (k i : Nat) : (s.misuse k i).tmax = s.tmax := rfl
@[simp] theorem State.misuse_pin (s : State) (k i : Nat) : (s.misuse k i).pin = s.pin := rfl
@[simp] theorem State.misuse_dbgOpen (s : State) (k i : Nat) : (s.misuse k i).dbgOpen = s.dbgOpen := rfl
@[simp] theorem State.misuse_ports (s : State) (k i : Nat) : (s.misuse k i).ports = s.ports := rfl
@[simp] theorem State.misuse_egress (s : State) (k i : Nat) : (s.misuse k i).egress = s.egress := rfl
@[simp] theorem State.misuse_hbm (s : State) (k i : Nat) : (s.misuse k i).hbm = s.hbm := rfl
@[simp] theorem State.misuse_bnd (s : State) (k i : Nat) : (s.misuse k i).bnd = s.bnd := rfl
@[simp] theorem State.misuse_fab (s : State) (k i : Nat) : (s.misuse k i).fab = s.fab := rfl
@[simp] theorem State.misuse_cols (s : State) (k i : Nat) : (s.misuse k i).cols = s.cols := rfl
@[simp] theorem State.misuse_slotRes (s : State) (k i : Nat) : (s.misuse k i).slotRes = s.slotRes := rfl
@[simp] theorem State.misuse_domSize (s : State) (k i : Nat) : (s.misuse k i).domSize = s.domSize := rfl
@[simp] theorem State.misuse_domLock (s : State) (k i : Nat) : (s.misuse k i).domLock = s.domLock := rfl
@[simp] theorem State.misuse_pwr (s : State) (k i : Nat) : (s.misuse k i).pwr = s.pwr := rfl
@[simp] theorem State.misuse_sec (s : State) (k i : Nat) : (s.misuse k i).sec = s.sec := rfl
@[simp] theorem State.misuse_out (s : State) (k i : Nat) : (s.misuse k i).out = s.out := rfl

/-! ## `State.setCbits` -/

@[simp] theorem State.setCbits_pending (s : State) (k i v : Nat) : (s.setCbits k i v).pending = s.pending := rfl
@[simp] theorem State.setCbits_now (s : State) (k i v : Nat) : (s.setCbits k i v).now = s.now := rfl
@[simp] theorem State.setCbits_fresh (s : State) (k i v : Nat) : (s.setCbits k i v).fresh = s.fresh := rfl
@[simp] theorem State.setCbits_mem (s : State) (k i v : Nat) : (s.setCbits k i v).mem = s.mem := rfl
@[simp] theorem State.setCbits_host (s : State) (k i v : Nat) : (s.setCbits k i v).host = s.host := rfl
@[simp] theorem State.setCbits_bad (s : State) (k i v : Nat) : (s.setCbits k i v).bad = s.bad := rfl
@[simp] theorem State.setCbits_owner (s : State) (k i v : Nat) : (s.setCbits k i v).owner = s.owner := rfl
@[simp] theorem State.setCbits_scratch (s : State) (k i v : Nat) : (s.setCbits k i v).scratch = s.scratch := rfl
@[simp] theorem State.setCbits_closures (s : State) (k i v : Nat) : (s.setCbits k i v).closures = s.closures := rfl
@[simp] theorem State.setCbits_stracts (s : State) (k i v : Nat) : (s.setCbits k i v).stracts = s.stracts := rfl
@[simp] theorem State.setCbits_arc (s : State) (k i v : Nat) : (s.setCbits k i v).arc = s.arc := rfl
@[simp] theorem State.setCbits_ctxs (s : State) (k i v : Nat) : (s.setCbits k i v).ctxs = s.ctxs := rfl
@[simp] theorem State.setCbits_ctxActs (s : State) (k i v : Nat) : (s.setCbits k i v).ctxActs = s.ctxActs := rfl
@[simp] theorem State.setCbits_cmd (s : State) (k i v : Nat) : (s.setCbits k i v).cmd = s.cmd := rfl
@[simp] theorem State.setCbits_ctr (s : State) (k i v : Nat) : (s.setCbits k i v).ctr = s.ctr := rfl
@[simp] theorem State.setCbits_flt (s : State) (k i v : Nat) : (s.setCbits k i v).flt = s.flt := rfl
@[simp] theorem State.setCbits_brg (s : State) (k i v : Nat) : (s.setCbits k i v).brg = s.brg := rfl
@[simp] theorem State.setCbits_cat (s : State) (k i v : Nat) : (s.setCbits k i v).cat = s.cat := rfl
@[simp] theorem State.setCbits_bndWaits (s : State) (k i v : Nat) : (s.setCbits k i v).bndWaits = s.bndWaits := rfl
@[simp] theorem State.setCbits_station (s : State) (k i v : Nat) : (s.setCbits k i v).station = s.station := rfl
@[simp] theorem State.setCbits_d3hot (s : State) (k i v : Nat) : (s.setCbits k i v).d3hot = s.d3hot := rfl
@[simp] theorem State.setCbits_d3depth (s : State) (k i v : Nat) : (s.setCbits k i v).d3depth = s.d3depth := rfl
@[simp] theorem State.setCbits_linkUp (s : State) (k i v : Nat) : (s.setCbits k i v).linkUp = s.linkUp := rfl
@[simp] theorem State.setCbits_tmax (s : State) (k i v : Nat) : (s.setCbits k i v).tmax = s.tmax := rfl
@[simp] theorem State.setCbits_pin (s : State) (k i v : Nat) : (s.setCbits k i v).pin = s.pin := rfl
@[simp] theorem State.setCbits_dbgOpen (s : State) (k i v : Nat) : (s.setCbits k i v).dbgOpen = s.dbgOpen := rfl
@[simp] theorem State.setCbits_ports (s : State) (k i v : Nat) : (s.setCbits k i v).ports = s.ports := rfl
@[simp] theorem State.setCbits_egress (s : State) (k i v : Nat) : (s.setCbits k i v).egress = s.egress := rfl
@[simp] theorem State.setCbits_hbm (s : State) (k i v : Nat) : (s.setCbits k i v).hbm = s.hbm := rfl
@[simp] theorem State.setCbits_bnd (s : State) (k i v : Nat) : (s.setCbits k i v).bnd = s.bnd := rfl
@[simp] theorem State.setCbits_fab (s : State) (k i v : Nat) : (s.setCbits k i v).fab = s.fab := rfl
@[simp] theorem State.setCbits_cols (s : State) (k i v : Nat) : (s.setCbits k i v).cols = s.cols := rfl
@[simp] theorem State.setCbits_slotRes (s : State) (k i v : Nat) : (s.setCbits k i v).slotRes = s.slotRes := rfl
@[simp] theorem State.setCbits_domSize (s : State) (k i v : Nat) : (s.setCbits k i v).domSize = s.domSize := rfl
@[simp] theorem State.setCbits_domLock (s : State) (k i v : Nat) : (s.setCbits k i v).domLock = s.domLock := rfl
@[simp] theorem State.setCbits_pwr (s : State) (k i v : Nat) : (s.setCbits k i v).pwr = s.pwr := rfl
@[simp] theorem State.setCbits_sec (s : State) (k i v : Nat) : (s.setCbits k i v).sec = s.sec := rfl
@[simp] theorem State.setCbits_out (s : State) (k i v : Nat) : (s.setCbits k i v).out = s.out := rfl

/-! ## `State.setCbit` -/

@[simp] theorem State.setCbit_pending (s : State) (k i j : Nat) (v : Bool) : (s.setCbit k i j v).pending = s.pending := rfl
@[simp] theorem State.setCbit_now (s : State) (k i j : Nat) (v : Bool) : (s.setCbit k i j v).now = s.now := rfl
@[simp] theorem State.setCbit_fresh (s : State) (k i j : Nat) (v : Bool) : (s.setCbit k i j v).fresh = s.fresh := rfl
@[simp] theorem State.setCbit_mem (s : State) (k i j : Nat) (v : Bool) : (s.setCbit k i j v).mem = s.mem := rfl
@[simp] theorem State.setCbit_host (s : State) (k i j : Nat) (v : Bool) : (s.setCbit k i j v).host = s.host := rfl
@[simp] theorem State.setCbit_bad (s : State) (k i j : Nat) (v : Bool) : (s.setCbit k i j v).bad = s.bad := rfl
@[simp] theorem State.setCbit_owner (s : State) (k i j : Nat) (v : Bool) : (s.setCbit k i j v).owner = s.owner := rfl
@[simp] theorem State.setCbit_scratch (s : State) (k i j : Nat) (v : Bool) : (s.setCbit k i j v).scratch = s.scratch := rfl
@[simp] theorem State.setCbit_closures (s : State) (k i j : Nat) (v : Bool) : (s.setCbit k i j v).closures = s.closures := rfl
@[simp] theorem State.setCbit_stracts (s : State) (k i j : Nat) (v : Bool) : (s.setCbit k i j v).stracts = s.stracts := rfl
@[simp] theorem State.setCbit_arc (s : State) (k i j : Nat) (v : Bool) : (s.setCbit k i j v).arc = s.arc := rfl
@[simp] theorem State.setCbit_ctxs (s : State) (k i j : Nat) (v : Bool) : (s.setCbit k i j v).ctxs = s.ctxs := rfl
@[simp] theorem State.setCbit_ctxActs (s : State) (k i j : Nat) (v : Bool) : (s.setCbit k i j v).ctxActs = s.ctxActs := rfl
@[simp] theorem State.setCbit_cmd (s : State) (k i j : Nat) (v : Bool) : (s.setCbit k i j v).cmd = s.cmd := rfl
@[simp] theorem State.setCbit_ctr (s : State) (k i j : Nat) (v : Bool) : (s.setCbit k i j v).ctr = s.ctr := rfl
@[simp] theorem State.setCbit_flt (s : State) (k i j : Nat) (v : Bool) : (s.setCbit k i j v).flt = s.flt := rfl
@[simp] theorem State.setCbit_brg (s : State) (k i j : Nat) (v : Bool) : (s.setCbit k i j v).brg = s.brg := rfl
@[simp] theorem State.setCbit_cat (s : State) (k i j : Nat) (v : Bool) : (s.setCbit k i j v).cat = s.cat := rfl
@[simp] theorem State.setCbit_bndWaits (s : State) (k i j : Nat) (v : Bool) : (s.setCbit k i j v).bndWaits = s.bndWaits := rfl
@[simp] theorem State.setCbit_station (s : State) (k i j : Nat) (v : Bool) : (s.setCbit k i j v).station = s.station := rfl
@[simp] theorem State.setCbit_d3hot (s : State) (k i j : Nat) (v : Bool) : (s.setCbit k i j v).d3hot = s.d3hot := rfl
@[simp] theorem State.setCbit_d3depth (s : State) (k i j : Nat) (v : Bool) : (s.setCbit k i j v).d3depth = s.d3depth := rfl
@[simp] theorem State.setCbit_linkUp (s : State) (k i j : Nat) (v : Bool) : (s.setCbit k i j v).linkUp = s.linkUp := rfl
@[simp] theorem State.setCbit_tmax (s : State) (k i j : Nat) (v : Bool) : (s.setCbit k i j v).tmax = s.tmax := rfl
@[simp] theorem State.setCbit_pin (s : State) (k i j : Nat) (v : Bool) : (s.setCbit k i j v).pin = s.pin := rfl
@[simp] theorem State.setCbit_dbgOpen (s : State) (k i j : Nat) (v : Bool) : (s.setCbit k i j v).dbgOpen = s.dbgOpen := rfl
@[simp] theorem State.setCbit_ports (s : State) (k i j : Nat) (v : Bool) : (s.setCbit k i j v).ports = s.ports := rfl
@[simp] theorem State.setCbit_egress (s : State) (k i j : Nat) (v : Bool) : (s.setCbit k i j v).egress = s.egress := rfl
@[simp] theorem State.setCbit_hbm (s : State) (k i j : Nat) (v : Bool) : (s.setCbit k i j v).hbm = s.hbm := rfl
@[simp] theorem State.setCbit_bnd (s : State) (k i j : Nat) (v : Bool) : (s.setCbit k i j v).bnd = s.bnd := rfl
@[simp] theorem State.setCbit_fab (s : State) (k i j : Nat) (v : Bool) : (s.setCbit k i j v).fab = s.fab := rfl
@[simp] theorem State.setCbit_cols (s : State) (k i j : Nat) (v : Bool) : (s.setCbit k i j v).cols = s.cols := rfl
@[simp] theorem State.setCbit_slotRes (s : State) (k i j : Nat) (v : Bool) : (s.setCbit k i j v).slotRes = s.slotRes := rfl
@[simp] theorem State.setCbit_domSize (s : State) (k i j : Nat) (v : Bool) : (s.setCbit k i j v).domSize = s.domSize := rfl
@[simp] theorem State.setCbit_domLock (s : State) (k i j : Nat) (v : Bool) : (s.setCbit k i j v).domLock = s.domLock := rfl
@[simp] theorem State.setCbit_pwr (s : State) (k i j : Nat) (v : Bool) : (s.setCbit k i j v).pwr = s.pwr := rfl
@[simp] theorem State.setCbit_sec (s : State) (k i j : Nat) (v : Bool) : (s.setCbit k i j v).sec = s.sec := rfl
@[simp] theorem State.setCbit_out (s : State) (k i j : Nat) (v : Bool) : (s.setCbit k i j v).out = s.out := rfl

/-! ## `State.setClosure` -/

@[simp] theorem State.setClosure_pending (s : State) (k : Nat) (v : Closure) : (s.setClosure k v).pending = s.pending := rfl
@[simp] theorem State.setClosure_now (s : State) (k : Nat) (v : Closure) : (s.setClosure k v).now = s.now := rfl
@[simp] theorem State.setClosure_fresh (s : State) (k : Nat) (v : Closure) : (s.setClosure k v).fresh = s.fresh := rfl
@[simp] theorem State.setClosure_mem (s : State) (k : Nat) (v : Closure) : (s.setClosure k v).mem = s.mem := rfl
@[simp] theorem State.setClosure_host (s : State) (k : Nat) (v : Closure) : (s.setClosure k v).host = s.host := rfl
@[simp] theorem State.setClosure_bad (s : State) (k : Nat) (v : Closure) : (s.setClosure k v).bad = s.bad := rfl
@[simp] theorem State.setClosure_owner (s : State) (k : Nat) (v : Closure) : (s.setClosure k v).owner = s.owner := rfl
@[simp] theorem State.setClosure_scratch (s : State) (k : Nat) (v : Closure) : (s.setClosure k v).scratch = s.scratch := rfl
@[simp] theorem State.setClosure_eng (s : State) (k : Nat) (v : Closure) : (s.setClosure k v).eng = s.eng := rfl
@[simp] theorem State.setClosure_stracts (s : State) (k : Nat) (v : Closure) : (s.setClosure k v).stracts = s.stracts := rfl
@[simp] theorem State.setClosure_arc (s : State) (k : Nat) (v : Closure) : (s.setClosure k v).arc = s.arc := rfl
@[simp] theorem State.setClosure_ctxs (s : State) (k : Nat) (v : Closure) : (s.setClosure k v).ctxs = s.ctxs := rfl
@[simp] theorem State.setClosure_ctxActs (s : State) (k : Nat) (v : Closure) : (s.setClosure k v).ctxActs = s.ctxActs := rfl
@[simp] theorem State.setClosure_cmd (s : State) (k : Nat) (v : Closure) : (s.setClosure k v).cmd = s.cmd := rfl
@[simp] theorem State.setClosure_ctr (s : State) (k : Nat) (v : Closure) : (s.setClosure k v).ctr = s.ctr := rfl
@[simp] theorem State.setClosure_flt (s : State) (k : Nat) (v : Closure) : (s.setClosure k v).flt = s.flt := rfl
@[simp] theorem State.setClosure_brg (s : State) (k : Nat) (v : Closure) : (s.setClosure k v).brg = s.brg := rfl
@[simp] theorem State.setClosure_cat (s : State) (k : Nat) (v : Closure) : (s.setClosure k v).cat = s.cat := rfl
@[simp] theorem State.setClosure_bndWaits (s : State) (k : Nat) (v : Closure) : (s.setClosure k v).bndWaits = s.bndWaits := rfl
@[simp] theorem State.setClosure_station (s : State) (k : Nat) (v : Closure) : (s.setClosure k v).station = s.station := rfl
@[simp] theorem State.setClosure_d3hot (s : State) (k : Nat) (v : Closure) : (s.setClosure k v).d3hot = s.d3hot := rfl
@[simp] theorem State.setClosure_d3depth (s : State) (k : Nat) (v : Closure) : (s.setClosure k v).d3depth = s.d3depth := rfl
@[simp] theorem State.setClosure_linkUp (s : State) (k : Nat) (v : Closure) : (s.setClosure k v).linkUp = s.linkUp := rfl
@[simp] theorem State.setClosure_tmax (s : State) (k : Nat) (v : Closure) : (s.setClosure k v).tmax = s.tmax := rfl
@[simp] theorem State.setClosure_pin (s : State) (k : Nat) (v : Closure) : (s.setClosure k v).pin = s.pin := rfl
@[simp] theorem State.setClosure_dbgOpen (s : State) (k : Nat) (v : Closure) : (s.setClosure k v).dbgOpen = s.dbgOpen := rfl
@[simp] theorem State.setClosure_ports (s : State) (k : Nat) (v : Closure) : (s.setClosure k v).ports = s.ports := rfl
@[simp] theorem State.setClosure_egress (s : State) (k : Nat) (v : Closure) : (s.setClosure k v).egress = s.egress := rfl
@[simp] theorem State.setClosure_hbm (s : State) (k : Nat) (v : Closure) : (s.setClosure k v).hbm = s.hbm := rfl
@[simp] theorem State.setClosure_bnd (s : State) (k : Nat) (v : Closure) : (s.setClosure k v).bnd = s.bnd := rfl
@[simp] theorem State.setClosure_fab (s : State) (k : Nat) (v : Closure) : (s.setClosure k v).fab = s.fab := rfl
@[simp] theorem State.setClosure_cols (s : State) (k : Nat) (v : Closure) : (s.setClosure k v).cols = s.cols := rfl
@[simp] theorem State.setClosure_slotRes (s : State) (k : Nat) (v : Closure) : (s.setClosure k v).slotRes = s.slotRes := rfl
@[simp] theorem State.setClosure_domSize (s : State) (k : Nat) (v : Closure) : (s.setClosure k v).domSize = s.domSize := rfl
@[simp] theorem State.setClosure_domLock (s : State) (k : Nat) (v : Closure) : (s.setClosure k v).domLock = s.domLock := rfl
@[simp] theorem State.setClosure_pwr (s : State) (k : Nat) (v : Closure) : (s.setClosure k v).pwr = s.pwr := rfl
@[simp] theorem State.setClosure_sec (s : State) (k : Nat) (v : Closure) : (s.setClosure k v).sec = s.sec := rfl
@[simp] theorem State.setClosure_mod (s : State) (k : Nat) (v : Closure) : (s.setClosure k v).mod = s.mod := rfl
@[simp] theorem State.setClosure_out (s : State) (k : Nat) (v : Closure) : (s.setClosure k v).out = s.out := rfl

/-! ## `State.setCtx` -/

@[simp] theorem State.setCtx_pending (s : State) (k : Nat) (v : Ctx) : (s.setCtx k v).pending = s.pending := rfl
@[simp] theorem State.setCtx_now (s : State) (k : Nat) (v : Ctx) : (s.setCtx k v).now = s.now := rfl
@[simp] theorem State.setCtx_fresh (s : State) (k : Nat) (v : Ctx) : (s.setCtx k v).fresh = s.fresh := rfl
@[simp] theorem State.setCtx_mem (s : State) (k : Nat) (v : Ctx) : (s.setCtx k v).mem = s.mem := rfl
@[simp] theorem State.setCtx_host (s : State) (k : Nat) (v : Ctx) : (s.setCtx k v).host = s.host := rfl
@[simp] theorem State.setCtx_bad (s : State) (k : Nat) (v : Ctx) : (s.setCtx k v).bad = s.bad := rfl
@[simp] theorem State.setCtx_owner (s : State) (k : Nat) (v : Ctx) : (s.setCtx k v).owner = s.owner := rfl
@[simp] theorem State.setCtx_scratch (s : State) (k : Nat) (v : Ctx) : (s.setCtx k v).scratch = s.scratch := rfl
@[simp] theorem State.setCtx_eng (s : State) (k : Nat) (v : Ctx) : (s.setCtx k v).eng = s.eng := rfl
@[simp] theorem State.setCtx_closures (s : State) (k : Nat) (v : Ctx) : (s.setCtx k v).closures = s.closures := rfl
@[simp] theorem State.setCtx_stracts (s : State) (k : Nat) (v : Ctx) : (s.setCtx k v).stracts = s.stracts := rfl
@[simp] theorem State.setCtx_arc (s : State) (k : Nat) (v : Ctx) : (s.setCtx k v).arc = s.arc := rfl
@[simp] theorem State.setCtx_ctxActs (s : State) (k : Nat) (v : Ctx) : (s.setCtx k v).ctxActs = s.ctxActs := rfl
@[simp] theorem State.setCtx_cmd (s : State) (k : Nat) (v : Ctx) : (s.setCtx k v).cmd = s.cmd := rfl
@[simp] theorem State.setCtx_ctr (s : State) (k : Nat) (v : Ctx) : (s.setCtx k v).ctr = s.ctr := rfl
@[simp] theorem State.setCtx_flt (s : State) (k : Nat) (v : Ctx) : (s.setCtx k v).flt = s.flt := rfl
@[simp] theorem State.setCtx_brg (s : State) (k : Nat) (v : Ctx) : (s.setCtx k v).brg = s.brg := rfl
@[simp] theorem State.setCtx_cat (s : State) (k : Nat) (v : Ctx) : (s.setCtx k v).cat = s.cat := rfl
@[simp] theorem State.setCtx_bndWaits (s : State) (k : Nat) (v : Ctx) : (s.setCtx k v).bndWaits = s.bndWaits := rfl
@[simp] theorem State.setCtx_station (s : State) (k : Nat) (v : Ctx) : (s.setCtx k v).station = s.station := rfl
@[simp] theorem State.setCtx_d3hot (s : State) (k : Nat) (v : Ctx) : (s.setCtx k v).d3hot = s.d3hot := rfl
@[simp] theorem State.setCtx_d3depth (s : State) (k : Nat) (v : Ctx) : (s.setCtx k v).d3depth = s.d3depth := rfl
@[simp] theorem State.setCtx_linkUp (s : State) (k : Nat) (v : Ctx) : (s.setCtx k v).linkUp = s.linkUp := rfl
@[simp] theorem State.setCtx_tmax (s : State) (k : Nat) (v : Ctx) : (s.setCtx k v).tmax = s.tmax := rfl
@[simp] theorem State.setCtx_pin (s : State) (k : Nat) (v : Ctx) : (s.setCtx k v).pin = s.pin := rfl
@[simp] theorem State.setCtx_dbgOpen (s : State) (k : Nat) (v : Ctx) : (s.setCtx k v).dbgOpen = s.dbgOpen := rfl
@[simp] theorem State.setCtx_ports (s : State) (k : Nat) (v : Ctx) : (s.setCtx k v).ports = s.ports := rfl
@[simp] theorem State.setCtx_egress (s : State) (k : Nat) (v : Ctx) : (s.setCtx k v).egress = s.egress := rfl
@[simp] theorem State.setCtx_hbm (s : State) (k : Nat) (v : Ctx) : (s.setCtx k v).hbm = s.hbm := rfl
@[simp] theorem State.setCtx_bnd (s : State) (k : Nat) (v : Ctx) : (s.setCtx k v).bnd = s.bnd := rfl
@[simp] theorem State.setCtx_fab (s : State) (k : Nat) (v : Ctx) : (s.setCtx k v).fab = s.fab := rfl
@[simp] theorem State.setCtx_cols (s : State) (k : Nat) (v : Ctx) : (s.setCtx k v).cols = s.cols := rfl
@[simp] theorem State.setCtx_slotRes (s : State) (k : Nat) (v : Ctx) : (s.setCtx k v).slotRes = s.slotRes := rfl
@[simp] theorem State.setCtx_domSize (s : State) (k : Nat) (v : Ctx) : (s.setCtx k v).domSize = s.domSize := rfl
@[simp] theorem State.setCtx_domLock (s : State) (k : Nat) (v : Ctx) : (s.setCtx k v).domLock = s.domLock := rfl
@[simp] theorem State.setCtx_pwr (s : State) (k : Nat) (v : Ctx) : (s.setCtx k v).pwr = s.pwr := rfl
@[simp] theorem State.setCtx_sec (s : State) (k : Nat) (v : Ctx) : (s.setCtx k v).sec = s.sec := rfl
@[simp] theorem State.setCtx_mod (s : State) (k : Nat) (v : Ctx) : (s.setCtx k v).mod = s.mod := rfl
@[simp] theorem State.setCtx_out (s : State) (k : Nat) (v : Ctx) : (s.setCtx k v).out = s.out := rfl

/-! ## `State.store` -/

@[simp] theorem State.store_pending (s : State) (a : Nat) (v : List Byte) : (s.store a v).pending = s.pending := rfl
@[simp] theorem State.store_now (s : State) (a : Nat) (v : List Byte) : (s.store a v).now = s.now := rfl
@[simp] theorem State.store_fresh (s : State) (a : Nat) (v : List Byte) : (s.store a v).fresh = s.fresh := rfl
@[simp] theorem State.store_host (s : State) (a : Nat) (v : List Byte) : (s.store a v).host = s.host := rfl
@[simp] theorem State.store_owner (s : State) (a : Nat) (v : List Byte) : (s.store a v).owner = s.owner := rfl
@[simp] theorem State.store_scratch (s : State) (a : Nat) (v : List Byte) : (s.store a v).scratch = s.scratch := rfl
@[simp] theorem State.store_eng (s : State) (a : Nat) (v : List Byte) : (s.store a v).eng = s.eng := rfl
@[simp] theorem State.store_closures (s : State) (a : Nat) (v : List Byte) : (s.store a v).closures = s.closures := rfl
@[simp] theorem State.store_stracts (s : State) (a : Nat) (v : List Byte) : (s.store a v).stracts = s.stracts := rfl
@[simp] theorem State.store_arc (s : State) (a : Nat) (v : List Byte) : (s.store a v).arc = s.arc := rfl
@[simp] theorem State.store_ctxs (s : State) (a : Nat) (v : List Byte) : (s.store a v).ctxs = s.ctxs := rfl
@[simp] theorem State.store_ctxActs (s : State) (a : Nat) (v : List Byte) : (s.store a v).ctxActs = s.ctxActs := rfl
@[simp] theorem State.store_cmd (s : State) (a : Nat) (v : List Byte) : (s.store a v).cmd = s.cmd := rfl
@[simp] theorem State.store_ctr (s : State) (a : Nat) (v : List Byte) : (s.store a v).ctr = s.ctr := rfl
@[simp] theorem State.store_flt (s : State) (a : Nat) (v : List Byte) : (s.store a v).flt = s.flt := rfl
@[simp] theorem State.store_brg (s : State) (a : Nat) (v : List Byte) : (s.store a v).brg = s.brg := rfl
@[simp] theorem State.store_cat (s : State) (a : Nat) (v : List Byte) : (s.store a v).cat = s.cat := rfl
@[simp] theorem State.store_bndWaits (s : State) (a : Nat) (v : List Byte) : (s.store a v).bndWaits = s.bndWaits := rfl
@[simp] theorem State.store_station (s : State) (a : Nat) (v : List Byte) : (s.store a v).station = s.station := rfl
@[simp] theorem State.store_d3hot (s : State) (a : Nat) (v : List Byte) : (s.store a v).d3hot = s.d3hot := rfl
@[simp] theorem State.store_d3depth (s : State) (a : Nat) (v : List Byte) : (s.store a v).d3depth = s.d3depth := rfl
@[simp] theorem State.store_linkUp (s : State) (a : Nat) (v : List Byte) : (s.store a v).linkUp = s.linkUp := rfl
@[simp] theorem State.store_tmax (s : State) (a : Nat) (v : List Byte) : (s.store a v).tmax = s.tmax := rfl
@[simp] theorem State.store_pin (s : State) (a : Nat) (v : List Byte) : (s.store a v).pin = s.pin := rfl
@[simp] theorem State.store_dbgOpen (s : State) (a : Nat) (v : List Byte) : (s.store a v).dbgOpen = s.dbgOpen := rfl
@[simp] theorem State.store_ports (s : State) (a : Nat) (v : List Byte) : (s.store a v).ports = s.ports := rfl
@[simp] theorem State.store_egress (s : State) (a : Nat) (v : List Byte) : (s.store a v).egress = s.egress := rfl
@[simp] theorem State.store_hbm (s : State) (a : Nat) (v : List Byte) : (s.store a v).hbm = s.hbm := rfl
@[simp] theorem State.store_bnd (s : State) (a : Nat) (v : List Byte) : (s.store a v).bnd = s.bnd := rfl
@[simp] theorem State.store_fab (s : State) (a : Nat) (v : List Byte) : (s.store a v).fab = s.fab := rfl
@[simp] theorem State.store_cols (s : State) (a : Nat) (v : List Byte) : (s.store a v).cols = s.cols := rfl
@[simp] theorem State.store_slotRes (s : State) (a : Nat) (v : List Byte) : (s.store a v).slotRes = s.slotRes := rfl
@[simp] theorem State.store_domSize (s : State) (a : Nat) (v : List Byte) : (s.store a v).domSize = s.domSize := rfl
@[simp] theorem State.store_domLock (s : State) (a : Nat) (v : List Byte) : (s.store a v).domLock = s.domLock := rfl
@[simp] theorem State.store_pwr (s : State) (a : Nat) (v : List Byte) : (s.store a v).pwr = s.pwr := rfl
@[simp] theorem State.store_sec (s : State) (a : Nat) (v : List Byte) : (s.store a v).sec = s.sec := rfl
@[simp] theorem State.store_mod (s : State) (a : Nat) (v : List Byte) : (s.store a v).mod = s.mod := rfl
@[simp] theorem State.store_out (s : State) (a : Nat) (v : List Byte) : (s.store a v).out = s.out := rfl

/-! ## `State.putNibs` -/

@[simp] theorem State.putNibs_pending (s : State) (v : List (Nat × Nat × Nat)) : (s.putNibs v).pending = s.pending := rfl
@[simp] theorem State.putNibs_now (s : State) (v : List (Nat × Nat × Nat)) : (s.putNibs v).now = s.now := rfl
@[simp] theorem State.putNibs_fresh (s : State) (v : List (Nat × Nat × Nat)) : (s.putNibs v).fresh = s.fresh := rfl
@[simp] theorem State.putNibs_host (s : State) (v : List (Nat × Nat × Nat)) : (s.putNibs v).host = s.host := rfl
@[simp] theorem State.putNibs_owner (s : State) (v : List (Nat × Nat × Nat)) : (s.putNibs v).owner = s.owner := rfl
@[simp] theorem State.putNibs_scratch (s : State) (v : List (Nat × Nat × Nat)) : (s.putNibs v).scratch = s.scratch := rfl
@[simp] theorem State.putNibs_eng (s : State) (v : List (Nat × Nat × Nat)) : (s.putNibs v).eng = s.eng := rfl
@[simp] theorem State.putNibs_closures (s : State) (v : List (Nat × Nat × Nat)) : (s.putNibs v).closures = s.closures := rfl
@[simp] theorem State.putNibs_stracts (s : State) (v : List (Nat × Nat × Nat)) : (s.putNibs v).stracts = s.stracts := rfl
@[simp] theorem State.putNibs_arc (s : State) (v : List (Nat × Nat × Nat)) : (s.putNibs v).arc = s.arc := rfl
@[simp] theorem State.putNibs_ctxs (s : State) (v : List (Nat × Nat × Nat)) : (s.putNibs v).ctxs = s.ctxs := rfl
@[simp] theorem State.putNibs_ctxActs (s : State) (v : List (Nat × Nat × Nat)) : (s.putNibs v).ctxActs = s.ctxActs := rfl
@[simp] theorem State.putNibs_cmd (s : State) (v : List (Nat × Nat × Nat)) : (s.putNibs v).cmd = s.cmd := rfl
@[simp] theorem State.putNibs_ctr (s : State) (v : List (Nat × Nat × Nat)) : (s.putNibs v).ctr = s.ctr := rfl
@[simp] theorem State.putNibs_flt (s : State) (v : List (Nat × Nat × Nat)) : (s.putNibs v).flt = s.flt := rfl
@[simp] theorem State.putNibs_brg (s : State) (v : List (Nat × Nat × Nat)) : (s.putNibs v).brg = s.brg := rfl
@[simp] theorem State.putNibs_cat (s : State) (v : List (Nat × Nat × Nat)) : (s.putNibs v).cat = s.cat := rfl
@[simp] theorem State.putNibs_bndWaits (s : State) (v : List (Nat × Nat × Nat)) : (s.putNibs v).bndWaits = s.bndWaits := rfl
@[simp] theorem State.putNibs_station (s : State) (v : List (Nat × Nat × Nat)) : (s.putNibs v).station = s.station := rfl
@[simp] theorem State.putNibs_d3hot (s : State) (v : List (Nat × Nat × Nat)) : (s.putNibs v).d3hot = s.d3hot := rfl
@[simp] theorem State.putNibs_d3depth (s : State) (v : List (Nat × Nat × Nat)) : (s.putNibs v).d3depth = s.d3depth := rfl
@[simp] theorem State.putNibs_linkUp (s : State) (v : List (Nat × Nat × Nat)) : (s.putNibs v).linkUp = s.linkUp := rfl
@[simp] theorem State.putNibs_tmax (s : State) (v : List (Nat × Nat × Nat)) : (s.putNibs v).tmax = s.tmax := rfl
@[simp] theorem State.putNibs_pin (s : State) (v : List (Nat × Nat × Nat)) : (s.putNibs v).pin = s.pin := rfl
@[simp] theorem State.putNibs_dbgOpen (s : State) (v : List (Nat × Nat × Nat)) : (s.putNibs v).dbgOpen = s.dbgOpen := rfl
@[simp] theorem State.putNibs_ports (s : State) (v : List (Nat × Nat × Nat)) : (s.putNibs v).ports = s.ports := rfl
@[simp] theorem State.putNibs_egress (s : State) (v : List (Nat × Nat × Nat)) : (s.putNibs v).egress = s.egress := rfl
@[simp] theorem State.putNibs_hbm (s : State) (v : List (Nat × Nat × Nat)) : (s.putNibs v).hbm = s.hbm := rfl
@[simp] theorem State.putNibs_bnd (s : State) (v : List (Nat × Nat × Nat)) : (s.putNibs v).bnd = s.bnd := rfl
@[simp] theorem State.putNibs_fab (s : State) (v : List (Nat × Nat × Nat)) : (s.putNibs v).fab = s.fab := rfl
@[simp] theorem State.putNibs_cols (s : State) (v : List (Nat × Nat × Nat)) : (s.putNibs v).cols = s.cols := rfl
@[simp] theorem State.putNibs_slotRes (s : State) (v : List (Nat × Nat × Nat)) : (s.putNibs v).slotRes = s.slotRes := rfl
@[simp] theorem State.putNibs_domSize (s : State) (v : List (Nat × Nat × Nat)) : (s.putNibs v).domSize = s.domSize := rfl
@[simp] theorem State.putNibs_domLock (s : State) (v : List (Nat × Nat × Nat)) : (s.putNibs v).domLock = s.domLock := rfl
@[simp] theorem State.putNibs_pwr (s : State) (v : List (Nat × Nat × Nat)) : (s.putNibs v).pwr = s.pwr := rfl
@[simp] theorem State.putNibs_sec (s : State) (v : List (Nat × Nat × Nat)) : (s.putNibs v).sec = s.sec := rfl
@[simp] theorem State.putNibs_mod (s : State) (v : List (Nat × Nat × Nat)) : (s.putNibs v).mod = s.mod := rfl
@[simp] theorem State.putNibs_out (s : State) (v : List (Nat × Nat × Nat)) : (s.putNibs v).out = s.out := rfl

/-! ## `State.lose` -/

@[simp] theorem State.lose_pending (s : State) (a : Nat) : (s.lose a).pending = s.pending := rfl
@[simp] theorem State.lose_now (s : State) (a : Nat) : (s.lose a).now = s.now := rfl
@[simp] theorem State.lose_fresh (s : State) (a : Nat) : (s.lose a).fresh = s.fresh := rfl
@[simp] theorem State.lose_mem (s : State) (a : Nat) : (s.lose a).mem = s.mem := rfl
@[simp] theorem State.lose_host (s : State) (a : Nat) : (s.lose a).host = s.host := rfl
@[simp] theorem State.lose_owner (s : State) (a : Nat) : (s.lose a).owner = s.owner := rfl
@[simp] theorem State.lose_scratch (s : State) (a : Nat) : (s.lose a).scratch = s.scratch := rfl
@[simp] theorem State.lose_eng (s : State) (a : Nat) : (s.lose a).eng = s.eng := rfl
@[simp] theorem State.lose_closures (s : State) (a : Nat) : (s.lose a).closures = s.closures := rfl
@[simp] theorem State.lose_stracts (s : State) (a : Nat) : (s.lose a).stracts = s.stracts := rfl
@[simp] theorem State.lose_arc (s : State) (a : Nat) : (s.lose a).arc = s.arc := rfl
@[simp] theorem State.lose_ctxs (s : State) (a : Nat) : (s.lose a).ctxs = s.ctxs := rfl
@[simp] theorem State.lose_ctxActs (s : State) (a : Nat) : (s.lose a).ctxActs = s.ctxActs := rfl
@[simp] theorem State.lose_cmd (s : State) (a : Nat) : (s.lose a).cmd = s.cmd := rfl
@[simp] theorem State.lose_ctr (s : State) (a : Nat) : (s.lose a).ctr = s.ctr := rfl
@[simp] theorem State.lose_flt (s : State) (a : Nat) : (s.lose a).flt = s.flt := rfl
@[simp] theorem State.lose_brg (s : State) (a : Nat) : (s.lose a).brg = s.brg := rfl
@[simp] theorem State.lose_cat (s : State) (a : Nat) : (s.lose a).cat = s.cat := rfl
@[simp] theorem State.lose_bndWaits (s : State) (a : Nat) : (s.lose a).bndWaits = s.bndWaits := rfl
@[simp] theorem State.lose_station (s : State) (a : Nat) : (s.lose a).station = s.station := rfl
@[simp] theorem State.lose_d3hot (s : State) (a : Nat) : (s.lose a).d3hot = s.d3hot := rfl
@[simp] theorem State.lose_d3depth (s : State) (a : Nat) : (s.lose a).d3depth = s.d3depth := rfl
@[simp] theorem State.lose_linkUp (s : State) (a : Nat) : (s.lose a).linkUp = s.linkUp := rfl
@[simp] theorem State.lose_tmax (s : State) (a : Nat) : (s.lose a).tmax = s.tmax := rfl
@[simp] theorem State.lose_pin (s : State) (a : Nat) : (s.lose a).pin = s.pin := rfl
@[simp] theorem State.lose_dbgOpen (s : State) (a : Nat) : (s.lose a).dbgOpen = s.dbgOpen := rfl
@[simp] theorem State.lose_ports (s : State) (a : Nat) : (s.lose a).ports = s.ports := rfl
@[simp] theorem State.lose_egress (s : State) (a : Nat) : (s.lose a).egress = s.egress := rfl
@[simp] theorem State.lose_hbm (s : State) (a : Nat) : (s.lose a).hbm = s.hbm := rfl
@[simp] theorem State.lose_bnd (s : State) (a : Nat) : (s.lose a).bnd = s.bnd := rfl
@[simp] theorem State.lose_fab (s : State) (a : Nat) : (s.lose a).fab = s.fab := rfl
@[simp] theorem State.lose_cols (s : State) (a : Nat) : (s.lose a).cols = s.cols := rfl
@[simp] theorem State.lose_slotRes (s : State) (a : Nat) : (s.lose a).slotRes = s.slotRes := rfl
@[simp] theorem State.lose_domSize (s : State) (a : Nat) : (s.lose a).domSize = s.domSize := rfl
@[simp] theorem State.lose_domLock (s : State) (a : Nat) : (s.lose a).domLock = s.domLock := rfl
@[simp] theorem State.lose_pwr (s : State) (a : Nat) : (s.lose a).pwr = s.pwr := rfl
@[simp] theorem State.lose_sec (s : State) (a : Nat) : (s.lose a).sec = s.sec := rfl
@[simp] theorem State.lose_mod (s : State) (a : Nat) : (s.lose a).mod = s.mod := rfl
@[simp] theorem State.lose_out (s : State) (a : Nat) : (s.lose a).out = s.out := rfl

/-! ## `State.hostStore` -/

@[simp] theorem State.hostStore_pending (s : State) (a : Nat) (v : List Byte) : (s.hostStore a v).pending = s.pending := rfl
@[simp] theorem State.hostStore_now (s : State) (a : Nat) (v : List Byte) : (s.hostStore a v).now = s.now := rfl
@[simp] theorem State.hostStore_fresh (s : State) (a : Nat) (v : List Byte) : (s.hostStore a v).fresh = s.fresh := rfl
@[simp] theorem State.hostStore_mem (s : State) (a : Nat) (v : List Byte) : (s.hostStore a v).mem = s.mem := rfl
@[simp] theorem State.hostStore_bad (s : State) (a : Nat) (v : List Byte) : (s.hostStore a v).bad = s.bad := rfl
@[simp] theorem State.hostStore_owner (s : State) (a : Nat) (v : List Byte) : (s.hostStore a v).owner = s.owner := rfl
@[simp] theorem State.hostStore_scratch (s : State) (a : Nat) (v : List Byte) : (s.hostStore a v).scratch = s.scratch := rfl
@[simp] theorem State.hostStore_eng (s : State) (a : Nat) (v : List Byte) : (s.hostStore a v).eng = s.eng := rfl
@[simp] theorem State.hostStore_closures (s : State) (a : Nat) (v : List Byte) : (s.hostStore a v).closures = s.closures := rfl
@[simp] theorem State.hostStore_stracts (s : State) (a : Nat) (v : List Byte) : (s.hostStore a v).stracts = s.stracts := rfl
@[simp] theorem State.hostStore_arc (s : State) (a : Nat) (v : List Byte) : (s.hostStore a v).arc = s.arc := rfl
@[simp] theorem State.hostStore_ctxs (s : State) (a : Nat) (v : List Byte) : (s.hostStore a v).ctxs = s.ctxs := rfl
@[simp] theorem State.hostStore_ctxActs (s : State) (a : Nat) (v : List Byte) : (s.hostStore a v).ctxActs = s.ctxActs := rfl
@[simp] theorem State.hostStore_cmd (s : State) (a : Nat) (v : List Byte) : (s.hostStore a v).cmd = s.cmd := rfl
@[simp] theorem State.hostStore_ctr (s : State) (a : Nat) (v : List Byte) : (s.hostStore a v).ctr = s.ctr := rfl
@[simp] theorem State.hostStore_flt (s : State) (a : Nat) (v : List Byte) : (s.hostStore a v).flt = s.flt := rfl
@[simp] theorem State.hostStore_brg (s : State) (a : Nat) (v : List Byte) : (s.hostStore a v).brg = s.brg := rfl
@[simp] theorem State.hostStore_cat (s : State) (a : Nat) (v : List Byte) : (s.hostStore a v).cat = s.cat := rfl
@[simp] theorem State.hostStore_bndWaits (s : State) (a : Nat) (v : List Byte) : (s.hostStore a v).bndWaits = s.bndWaits := rfl
@[simp] theorem State.hostStore_station (s : State) (a : Nat) (v : List Byte) : (s.hostStore a v).station = s.station := rfl
@[simp] theorem State.hostStore_d3hot (s : State) (a : Nat) (v : List Byte) : (s.hostStore a v).d3hot = s.d3hot := rfl
@[simp] theorem State.hostStore_d3depth (s : State) (a : Nat) (v : List Byte) : (s.hostStore a v).d3depth = s.d3depth := rfl
@[simp] theorem State.hostStore_linkUp (s : State) (a : Nat) (v : List Byte) : (s.hostStore a v).linkUp = s.linkUp := rfl
@[simp] theorem State.hostStore_tmax (s : State) (a : Nat) (v : List Byte) : (s.hostStore a v).tmax = s.tmax := rfl
@[simp] theorem State.hostStore_pin (s : State) (a : Nat) (v : List Byte) : (s.hostStore a v).pin = s.pin := rfl
@[simp] theorem State.hostStore_dbgOpen (s : State) (a : Nat) (v : List Byte) : (s.hostStore a v).dbgOpen = s.dbgOpen := rfl
@[simp] theorem State.hostStore_ports (s : State) (a : Nat) (v : List Byte) : (s.hostStore a v).ports = s.ports := rfl
@[simp] theorem State.hostStore_egress (s : State) (a : Nat) (v : List Byte) : (s.hostStore a v).egress = s.egress := rfl
@[simp] theorem State.hostStore_hbm (s : State) (a : Nat) (v : List Byte) : (s.hostStore a v).hbm = s.hbm := rfl
@[simp] theorem State.hostStore_bnd (s : State) (a : Nat) (v : List Byte) : (s.hostStore a v).bnd = s.bnd := rfl
@[simp] theorem State.hostStore_fab (s : State) (a : Nat) (v : List Byte) : (s.hostStore a v).fab = s.fab := rfl
@[simp] theorem State.hostStore_cols (s : State) (a : Nat) (v : List Byte) : (s.hostStore a v).cols = s.cols := rfl
@[simp] theorem State.hostStore_slotRes (s : State) (a : Nat) (v : List Byte) : (s.hostStore a v).slotRes = s.slotRes := rfl
@[simp] theorem State.hostStore_domSize (s : State) (a : Nat) (v : List Byte) : (s.hostStore a v).domSize = s.domSize := rfl
@[simp] theorem State.hostStore_domLock (s : State) (a : Nat) (v : List Byte) : (s.hostStore a v).domLock = s.domLock := rfl
@[simp] theorem State.hostStore_pwr (s : State) (a : Nat) (v : List Byte) : (s.hostStore a v).pwr = s.pwr := rfl
@[simp] theorem State.hostStore_sec (s : State) (a : Nat) (v : List Byte) : (s.hostStore a v).sec = s.sec := rfl
@[simp] theorem State.hostStore_mod (s : State) (a : Nat) (v : List Byte) : (s.hostStore a v).mod = s.mod := rfl
@[simp] theorem State.hostStore_out (s : State) (a : Nat) (v : List Byte) : (s.hostStore a v).out = s.out := rfl

/-! ## `State.setShelf` -/

@[simp] theorem State.setShelf_pending (s : State) (k : Nat) (v : Shelf) : (s.setShelf k v).pending = s.pending := rfl
@[simp] theorem State.setShelf_now (s : State) (k : Nat) (v : Shelf) : (s.setShelf k v).now = s.now := rfl
@[simp] theorem State.setShelf_fresh (s : State) (k : Nat) (v : Shelf) : (s.setShelf k v).fresh = s.fresh := rfl
@[simp] theorem State.setShelf_mem (s : State) (k : Nat) (v : Shelf) : (s.setShelf k v).mem = s.mem := rfl
@[simp] theorem State.setShelf_host (s : State) (k : Nat) (v : Shelf) : (s.setShelf k v).host = s.host := rfl
@[simp] theorem State.setShelf_bad (s : State) (k : Nat) (v : Shelf) : (s.setShelf k v).bad = s.bad := rfl
@[simp] theorem State.setShelf_owner (s : State) (k : Nat) (v : Shelf) : (s.setShelf k v).owner = s.owner := rfl
@[simp] theorem State.setShelf_scratch (s : State) (k : Nat) (v : Shelf) : (s.setShelf k v).scratch = s.scratch := rfl
@[simp] theorem State.setShelf_eng (s : State) (k : Nat) (v : Shelf) : (s.setShelf k v).eng = s.eng := rfl
@[simp] theorem State.setShelf_closures (s : State) (k : Nat) (v : Shelf) : (s.setShelf k v).closures = s.closures := rfl
@[simp] theorem State.setShelf_stracts (s : State) (k : Nat) (v : Shelf) : (s.setShelf k v).stracts = s.stracts := rfl
@[simp] theorem State.setShelf_ctxs (s : State) (k : Nat) (v : Shelf) : (s.setShelf k v).ctxs = s.ctxs := rfl
@[simp] theorem State.setShelf_ctxActs (s : State) (k : Nat) (v : Shelf) : (s.setShelf k v).ctxActs = s.ctxActs := rfl
@[simp] theorem State.setShelf_cmd (s : State) (k : Nat) (v : Shelf) : (s.setShelf k v).cmd = s.cmd := rfl
@[simp] theorem State.setShelf_ctr (s : State) (k : Nat) (v : Shelf) : (s.setShelf k v).ctr = s.ctr := rfl
@[simp] theorem State.setShelf_flt (s : State) (k : Nat) (v : Shelf) : (s.setShelf k v).flt = s.flt := rfl
@[simp] theorem State.setShelf_brg (s : State) (k : Nat) (v : Shelf) : (s.setShelf k v).brg = s.brg := rfl
@[simp] theorem State.setShelf_cat (s : State) (k : Nat) (v : Shelf) : (s.setShelf k v).cat = s.cat := rfl
@[simp] theorem State.setShelf_bndWaits (s : State) (k : Nat) (v : Shelf) : (s.setShelf k v).bndWaits = s.bndWaits := rfl
@[simp] theorem State.setShelf_station (s : State) (k : Nat) (v : Shelf) : (s.setShelf k v).station = s.station := rfl
@[simp] theorem State.setShelf_d3hot (s : State) (k : Nat) (v : Shelf) : (s.setShelf k v).d3hot = s.d3hot := rfl
@[simp] theorem State.setShelf_d3depth (s : State) (k : Nat) (v : Shelf) : (s.setShelf k v).d3depth = s.d3depth := rfl
@[simp] theorem State.setShelf_linkUp (s : State) (k : Nat) (v : Shelf) : (s.setShelf k v).linkUp = s.linkUp := rfl
@[simp] theorem State.setShelf_tmax (s : State) (k : Nat) (v : Shelf) : (s.setShelf k v).tmax = s.tmax := rfl
@[simp] theorem State.setShelf_pin (s : State) (k : Nat) (v : Shelf) : (s.setShelf k v).pin = s.pin := rfl
@[simp] theorem State.setShelf_dbgOpen (s : State) (k : Nat) (v : Shelf) : (s.setShelf k v).dbgOpen = s.dbgOpen := rfl
@[simp] theorem State.setShelf_ports (s : State) (k : Nat) (v : Shelf) : (s.setShelf k v).ports = s.ports := rfl
@[simp] theorem State.setShelf_egress (s : State) (k : Nat) (v : Shelf) : (s.setShelf k v).egress = s.egress := rfl
@[simp] theorem State.setShelf_hbm (s : State) (k : Nat) (v : Shelf) : (s.setShelf k v).hbm = s.hbm := rfl
@[simp] theorem State.setShelf_bnd (s : State) (k : Nat) (v : Shelf) : (s.setShelf k v).bnd = s.bnd := rfl
@[simp] theorem State.setShelf_fab (s : State) (k : Nat) (v : Shelf) : (s.setShelf k v).fab = s.fab := rfl
@[simp] theorem State.setShelf_cols (s : State) (k : Nat) (v : Shelf) : (s.setShelf k v).cols = s.cols := rfl
@[simp] theorem State.setShelf_slotRes (s : State) (k : Nat) (v : Shelf) : (s.setShelf k v).slotRes = s.slotRes := rfl
@[simp] theorem State.setShelf_domSize (s : State) (k : Nat) (v : Shelf) : (s.setShelf k v).domSize = s.domSize := rfl
@[simp] theorem State.setShelf_domLock (s : State) (k : Nat) (v : Shelf) : (s.setShelf k v).domLock = s.domLock := rfl
@[simp] theorem State.setShelf_pwr (s : State) (k : Nat) (v : Shelf) : (s.setShelf k v).pwr = s.pwr := rfl
@[simp] theorem State.setShelf_sec (s : State) (k : Nat) (v : Shelf) : (s.setShelf k v).sec = s.sec := rfl
@[simp] theorem State.setShelf_mod (s : State) (k : Nat) (v : Shelf) : (s.setShelf k v).mod = s.mod := rfl
@[simp] theorem State.setShelf_out (s : State) (k : Nat) (v : Shelf) : (s.setShelf k v).out = s.out := rfl

/-! ## `State.setSlice` -/

@[simp] theorem State.setSlice_pending (s : State) (k : Nat) (v : Slice) : (s.setSlice k v).pending = s.pending := rfl
@[simp] theorem State.setSlice_now (s : State) (k : Nat) (v : Slice) : (s.setSlice k v).now = s.now := rfl
@[simp] theorem State.setSlice_fresh (s : State) (k : Nat) (v : Slice) : (s.setSlice k v).fresh = s.fresh := rfl
@[simp] theorem State.setSlice_mem (s : State) (k : Nat) (v : Slice) : (s.setSlice k v).mem = s.mem := rfl
@[simp] theorem State.setSlice_host (s : State) (k : Nat) (v : Slice) : (s.setSlice k v).host = s.host := rfl
@[simp] theorem State.setSlice_bad (s : State) (k : Nat) (v : Slice) : (s.setSlice k v).bad = s.bad := rfl
@[simp] theorem State.setSlice_owner (s : State) (k : Nat) (v : Slice) : (s.setSlice k v).owner = s.owner := rfl
@[simp] theorem State.setSlice_scratch (s : State) (k : Nat) (v : Slice) : (s.setSlice k v).scratch = s.scratch := rfl
@[simp] theorem State.setSlice_eng (s : State) (k : Nat) (v : Slice) : (s.setSlice k v).eng = s.eng := rfl
@[simp] theorem State.setSlice_closures (s : State) (k : Nat) (v : Slice) : (s.setSlice k v).closures = s.closures := rfl
@[simp] theorem State.setSlice_stracts (s : State) (k : Nat) (v : Slice) : (s.setSlice k v).stracts = s.stracts := rfl
@[simp] theorem State.setSlice_ctxs (s : State) (k : Nat) (v : Slice) : (s.setSlice k v).ctxs = s.ctxs := rfl
@[simp] theorem State.setSlice_ctxActs (s : State) (k : Nat) (v : Slice) : (s.setSlice k v).ctxActs = s.ctxActs := rfl
@[simp] theorem State.setSlice_cmd (s : State) (k : Nat) (v : Slice) : (s.setSlice k v).cmd = s.cmd := rfl
@[simp] theorem State.setSlice_ctr (s : State) (k : Nat) (v : Slice) : (s.setSlice k v).ctr = s.ctr := rfl
@[simp] theorem State.setSlice_flt (s : State) (k : Nat) (v : Slice) : (s.setSlice k v).flt = s.flt := rfl
@[simp] theorem State.setSlice_brg (s : State) (k : Nat) (v : Slice) : (s.setSlice k v).brg = s.brg := rfl
@[simp] theorem State.setSlice_cat (s : State) (k : Nat) (v : Slice) : (s.setSlice k v).cat = s.cat := rfl
@[simp] theorem State.setSlice_bndWaits (s : State) (k : Nat) (v : Slice) : (s.setSlice k v).bndWaits = s.bndWaits := rfl
@[simp] theorem State.setSlice_station (s : State) (k : Nat) (v : Slice) : (s.setSlice k v).station = s.station := rfl
@[simp] theorem State.setSlice_d3hot (s : State) (k : Nat) (v : Slice) : (s.setSlice k v).d3hot = s.d3hot := rfl
@[simp] theorem State.setSlice_d3depth (s : State) (k : Nat) (v : Slice) : (s.setSlice k v).d3depth = s.d3depth := rfl
@[simp] theorem State.setSlice_linkUp (s : State) (k : Nat) (v : Slice) : (s.setSlice k v).linkUp = s.linkUp := rfl
@[simp] theorem State.setSlice_tmax (s : State) (k : Nat) (v : Slice) : (s.setSlice k v).tmax = s.tmax := rfl
@[simp] theorem State.setSlice_pin (s : State) (k : Nat) (v : Slice) : (s.setSlice k v).pin = s.pin := rfl
@[simp] theorem State.setSlice_dbgOpen (s : State) (k : Nat) (v : Slice) : (s.setSlice k v).dbgOpen = s.dbgOpen := rfl
@[simp] theorem State.setSlice_ports (s : State) (k : Nat) (v : Slice) : (s.setSlice k v).ports = s.ports := rfl
@[simp] theorem State.setSlice_egress (s : State) (k : Nat) (v : Slice) : (s.setSlice k v).egress = s.egress := rfl
@[simp] theorem State.setSlice_hbm (s : State) (k : Nat) (v : Slice) : (s.setSlice k v).hbm = s.hbm := rfl
@[simp] theorem State.setSlice_bnd (s : State) (k : Nat) (v : Slice) : (s.setSlice k v).bnd = s.bnd := rfl
@[simp] theorem State.setSlice_fab (s : State) (k : Nat) (v : Slice) : (s.setSlice k v).fab = s.fab := rfl
@[simp] theorem State.setSlice_cols (s : State) (k : Nat) (v : Slice) : (s.setSlice k v).cols = s.cols := rfl
@[simp] theorem State.setSlice_slotRes (s : State) (k : Nat) (v : Slice) : (s.setSlice k v).slotRes = s.slotRes := rfl
@[simp] theorem State.setSlice_domSize (s : State) (k : Nat) (v : Slice) : (s.setSlice k v).domSize = s.domSize := rfl
@[simp] theorem State.setSlice_domLock (s : State) (k : Nat) (v : Slice) : (s.setSlice k v).domLock = s.domLock := rfl
@[simp] theorem State.setSlice_pwr (s : State) (k : Nat) (v : Slice) : (s.setSlice k v).pwr = s.pwr := rfl
@[simp] theorem State.setSlice_sec (s : State) (k : Nat) (v : Slice) : (s.setSlice k v).sec = s.sec := rfl
@[simp] theorem State.setSlice_mod (s : State) (k : Nat) (v : Slice) : (s.setSlice k v).mod = s.mod := rfl
@[simp] theorem State.setSlice_out (s : State) (k : Nat) (v : Slice) : (s.setSlice k v).out = s.out := rfl

/-! ## `State.setFp` -/

@[simp] theorem State.setFp_pending (s : State) (k : Nat) (v : FpUnit) : (s.setFp k v).pending = s.pending := rfl
@[simp] theorem State.setFp_now (s : State) (k : Nat) (v : FpUnit) : (s.setFp k v).now = s.now := rfl
@[simp] theorem State.setFp_fresh (s : State) (k : Nat) (v : FpUnit) : (s.setFp k v).fresh = s.fresh := rfl
@[simp] theorem State.setFp_mem (s : State) (k : Nat) (v : FpUnit) : (s.setFp k v).mem = s.mem := rfl
@[simp] theorem State.setFp_host (s : State) (k : Nat) (v : FpUnit) : (s.setFp k v).host = s.host := rfl
@[simp] theorem State.setFp_bad (s : State) (k : Nat) (v : FpUnit) : (s.setFp k v).bad = s.bad := rfl
@[simp] theorem State.setFp_owner (s : State) (k : Nat) (v : FpUnit) : (s.setFp k v).owner = s.owner := rfl
@[simp] theorem State.setFp_scratch (s : State) (k : Nat) (v : FpUnit) : (s.setFp k v).scratch = s.scratch := rfl
@[simp] theorem State.setFp_eng (s : State) (k : Nat) (v : FpUnit) : (s.setFp k v).eng = s.eng := rfl
@[simp] theorem State.setFp_closures (s : State) (k : Nat) (v : FpUnit) : (s.setFp k v).closures = s.closures := rfl
@[simp] theorem State.setFp_stracts (s : State) (k : Nat) (v : FpUnit) : (s.setFp k v).stracts = s.stracts := rfl
@[simp] theorem State.setFp_ctxs (s : State) (k : Nat) (v : FpUnit) : (s.setFp k v).ctxs = s.ctxs := rfl
@[simp] theorem State.setFp_ctxActs (s : State) (k : Nat) (v : FpUnit) : (s.setFp k v).ctxActs = s.ctxActs := rfl
@[simp] theorem State.setFp_cmd (s : State) (k : Nat) (v : FpUnit) : (s.setFp k v).cmd = s.cmd := rfl
@[simp] theorem State.setFp_ctr (s : State) (k : Nat) (v : FpUnit) : (s.setFp k v).ctr = s.ctr := rfl
@[simp] theorem State.setFp_flt (s : State) (k : Nat) (v : FpUnit) : (s.setFp k v).flt = s.flt := rfl
@[simp] theorem State.setFp_brg (s : State) (k : Nat) (v : FpUnit) : (s.setFp k v).brg = s.brg := rfl
@[simp] theorem State.setFp_cat (s : State) (k : Nat) (v : FpUnit) : (s.setFp k v).cat = s.cat := rfl
@[simp] theorem State.setFp_bndWaits (s : State) (k : Nat) (v : FpUnit) : (s.setFp k v).bndWaits = s.bndWaits := rfl
@[simp] theorem State.setFp_station (s : State) (k : Nat) (v : FpUnit) : (s.setFp k v).station = s.station := rfl
@[simp] theorem State.setFp_d3hot (s : State) (k : Nat) (v : FpUnit) : (s.setFp k v).d3hot = s.d3hot := rfl
@[simp] theorem State.setFp_d3depth (s : State) (k : Nat) (v : FpUnit) : (s.setFp k v).d3depth = s.d3depth := rfl
@[simp] theorem State.setFp_linkUp (s : State) (k : Nat) (v : FpUnit) : (s.setFp k v).linkUp = s.linkUp := rfl
@[simp] theorem State.setFp_tmax (s : State) (k : Nat) (v : FpUnit) : (s.setFp k v).tmax = s.tmax := rfl
@[simp] theorem State.setFp_pin (s : State) (k : Nat) (v : FpUnit) : (s.setFp k v).pin = s.pin := rfl
@[simp] theorem State.setFp_dbgOpen (s : State) (k : Nat) (v : FpUnit) : (s.setFp k v).dbgOpen = s.dbgOpen := rfl
@[simp] theorem State.setFp_ports (s : State) (k : Nat) (v : FpUnit) : (s.setFp k v).ports = s.ports := rfl
@[simp] theorem State.setFp_egress (s : State) (k : Nat) (v : FpUnit) : (s.setFp k v).egress = s.egress := rfl
@[simp] theorem State.setFp_hbm (s : State) (k : Nat) (v : FpUnit) : (s.setFp k v).hbm = s.hbm := rfl
@[simp] theorem State.setFp_bnd (s : State) (k : Nat) (v : FpUnit) : (s.setFp k v).bnd = s.bnd := rfl
@[simp] theorem State.setFp_fab (s : State) (k : Nat) (v : FpUnit) : (s.setFp k v).fab = s.fab := rfl
@[simp] theorem State.setFp_cols (s : State) (k : Nat) (v : FpUnit) : (s.setFp k v).cols = s.cols := rfl
@[simp] theorem State.setFp_slotRes (s : State) (k : Nat) (v : FpUnit) : (s.setFp k v).slotRes = s.slotRes := rfl
@[simp] theorem State.setFp_domSize (s : State) (k : Nat) (v : FpUnit) : (s.setFp k v).domSize = s.domSize := rfl
@[simp] theorem State.setFp_domLock (s : State) (k : Nat) (v : FpUnit) : (s.setFp k v).domLock = s.domLock := rfl
@[simp] theorem State.setFp_pwr (s : State) (k : Nat) (v : FpUnit) : (s.setFp k v).pwr = s.pwr := rfl
@[simp] theorem State.setFp_sec (s : State) (k : Nat) (v : FpUnit) : (s.setFp k v).sec = s.sec := rfl
@[simp] theorem State.setFp_mod (s : State) (k : Nat) (v : FpUnit) : (s.setFp k v).mod = s.mod := rfl
@[simp] theorem State.setFp_out (s : State) (k : Nat) (v : FpUnit) : (s.setFp k v).out = s.out := rfl

/-! ## `State.setSub` -/

@[simp] theorem State.setSub_pending (s : State) (k : Nat) (v : SubRing) : (s.setSub k v).pending = s.pending := rfl
@[simp] theorem State.setSub_now (s : State) (k : Nat) (v : SubRing) : (s.setSub k v).now = s.now := rfl
@[simp] theorem State.setSub_fresh (s : State) (k : Nat) (v : SubRing) : (s.setSub k v).fresh = s.fresh := rfl
@[simp] theorem State.setSub_mem (s : State) (k : Nat) (v : SubRing) : (s.setSub k v).mem = s.mem := rfl
@[simp] theorem State.setSub_host (s : State) (k : Nat) (v : SubRing) : (s.setSub k v).host = s.host := rfl
@[simp] theorem State.setSub_bad (s : State) (k : Nat) (v : SubRing) : (s.setSub k v).bad = s.bad := rfl
@[simp] theorem State.setSub_owner (s : State) (k : Nat) (v : SubRing) : (s.setSub k v).owner = s.owner := rfl
@[simp] theorem State.setSub_scratch (s : State) (k : Nat) (v : SubRing) : (s.setSub k v).scratch = s.scratch := rfl
@[simp] theorem State.setSub_eng (s : State) (k : Nat) (v : SubRing) : (s.setSub k v).eng = s.eng := rfl
@[simp] theorem State.setSub_closures (s : State) (k : Nat) (v : SubRing) : (s.setSub k v).closures = s.closures := rfl
@[simp] theorem State.setSub_stracts (s : State) (k : Nat) (v : SubRing) : (s.setSub k v).stracts = s.stracts := rfl
@[simp] theorem State.setSub_arc (s : State) (k : Nat) (v : SubRing) : (s.setSub k v).arc = s.arc := rfl
@[simp] theorem State.setSub_ctxs (s : State) (k : Nat) (v : SubRing) : (s.setSub k v).ctxs = s.ctxs := rfl
@[simp] theorem State.setSub_ctxActs (s : State) (k : Nat) (v : SubRing) : (s.setSub k v).ctxActs = s.ctxActs := rfl
@[simp] theorem State.setSub_ctr (s : State) (k : Nat) (v : SubRing) : (s.setSub k v).ctr = s.ctr := rfl
@[simp] theorem State.setSub_flt (s : State) (k : Nat) (v : SubRing) : (s.setSub k v).flt = s.flt := rfl
@[simp] theorem State.setSub_brg (s : State) (k : Nat) (v : SubRing) : (s.setSub k v).brg = s.brg := rfl
@[simp] theorem State.setSub_cat (s : State) (k : Nat) (v : SubRing) : (s.setSub k v).cat = s.cat := rfl
@[simp] theorem State.setSub_bndWaits (s : State) (k : Nat) (v : SubRing) : (s.setSub k v).bndWaits = s.bndWaits := rfl
@[simp] theorem State.setSub_station (s : State) (k : Nat) (v : SubRing) : (s.setSub k v).station = s.station := rfl
@[simp] theorem State.setSub_d3hot (s : State) (k : Nat) (v : SubRing) : (s.setSub k v).d3hot = s.d3hot := rfl
@[simp] theorem State.setSub_d3depth (s : State) (k : Nat) (v : SubRing) : (s.setSub k v).d3depth = s.d3depth := rfl
@[simp] theorem State.setSub_linkUp (s : State) (k : Nat) (v : SubRing) : (s.setSub k v).linkUp = s.linkUp := rfl
@[simp] theorem State.setSub_tmax (s : State) (k : Nat) (v : SubRing) : (s.setSub k v).tmax = s.tmax := rfl
@[simp] theorem State.setSub_pin (s : State) (k : Nat) (v : SubRing) : (s.setSub k v).pin = s.pin := rfl
@[simp] theorem State.setSub_dbgOpen (s : State) (k : Nat) (v : SubRing) : (s.setSub k v).dbgOpen = s.dbgOpen := rfl
@[simp] theorem State.setSub_ports (s : State) (k : Nat) (v : SubRing) : (s.setSub k v).ports = s.ports := rfl
@[simp] theorem State.setSub_egress (s : State) (k : Nat) (v : SubRing) : (s.setSub k v).egress = s.egress := rfl
@[simp] theorem State.setSub_hbm (s : State) (k : Nat) (v : SubRing) : (s.setSub k v).hbm = s.hbm := rfl
@[simp] theorem State.setSub_bnd (s : State) (k : Nat) (v : SubRing) : (s.setSub k v).bnd = s.bnd := rfl
@[simp] theorem State.setSub_fab (s : State) (k : Nat) (v : SubRing) : (s.setSub k v).fab = s.fab := rfl
@[simp] theorem State.setSub_cols (s : State) (k : Nat) (v : SubRing) : (s.setSub k v).cols = s.cols := rfl
@[simp] theorem State.setSub_slotRes (s : State) (k : Nat) (v : SubRing) : (s.setSub k v).slotRes = s.slotRes := rfl
@[simp] theorem State.setSub_domSize (s : State) (k : Nat) (v : SubRing) : (s.setSub k v).domSize = s.domSize := rfl
@[simp] theorem State.setSub_domLock (s : State) (k : Nat) (v : SubRing) : (s.setSub k v).domLock = s.domLock := rfl
@[simp] theorem State.setSub_pwr (s : State) (k : Nat) (v : SubRing) : (s.setSub k v).pwr = s.pwr := rfl
@[simp] theorem State.setSub_sec (s : State) (k : Nat) (v : SubRing) : (s.setSub k v).sec = s.sec := rfl
@[simp] theorem State.setSub_mod (s : State) (k : Nat) (v : SubRing) : (s.setSub k v).mod = s.mod := rfl
@[simp] theorem State.setSub_out (s : State) (k : Nat) (v : SubRing) : (s.setSub k v).out = s.out := rfl

/-! ## `State.setRcp` -/

@[simp] theorem State.setRcp_pending (s : State) (k : Nat) (v : RcpRing) : (s.setRcp k v).pending = s.pending := rfl
@[simp] theorem State.setRcp_now (s : State) (k : Nat) (v : RcpRing) : (s.setRcp k v).now = s.now := rfl
@[simp] theorem State.setRcp_fresh (s : State) (k : Nat) (v : RcpRing) : (s.setRcp k v).fresh = s.fresh := rfl
@[simp] theorem State.setRcp_mem (s : State) (k : Nat) (v : RcpRing) : (s.setRcp k v).mem = s.mem := rfl
@[simp] theorem State.setRcp_host (s : State) (k : Nat) (v : RcpRing) : (s.setRcp k v).host = s.host := rfl
@[simp] theorem State.setRcp_bad (s : State) (k : Nat) (v : RcpRing) : (s.setRcp k v).bad = s.bad := rfl
@[simp] theorem State.setRcp_owner (s : State) (k : Nat) (v : RcpRing) : (s.setRcp k v).owner = s.owner := rfl
@[simp] theorem State.setRcp_scratch (s : State) (k : Nat) (v : RcpRing) : (s.setRcp k v).scratch = s.scratch := rfl
@[simp] theorem State.setRcp_eng (s : State) (k : Nat) (v : RcpRing) : (s.setRcp k v).eng = s.eng := rfl
@[simp] theorem State.setRcp_closures (s : State) (k : Nat) (v : RcpRing) : (s.setRcp k v).closures = s.closures := rfl
@[simp] theorem State.setRcp_stracts (s : State) (k : Nat) (v : RcpRing) : (s.setRcp k v).stracts = s.stracts := rfl
@[simp] theorem State.setRcp_arc (s : State) (k : Nat) (v : RcpRing) : (s.setRcp k v).arc = s.arc := rfl
@[simp] theorem State.setRcp_ctxs (s : State) (k : Nat) (v : RcpRing) : (s.setRcp k v).ctxs = s.ctxs := rfl
@[simp] theorem State.setRcp_ctxActs (s : State) (k : Nat) (v : RcpRing) : (s.setRcp k v).ctxActs = s.ctxActs := rfl
@[simp] theorem State.setRcp_ctr (s : State) (k : Nat) (v : RcpRing) : (s.setRcp k v).ctr = s.ctr := rfl
@[simp] theorem State.setRcp_flt (s : State) (k : Nat) (v : RcpRing) : (s.setRcp k v).flt = s.flt := rfl
@[simp] theorem State.setRcp_brg (s : State) (k : Nat) (v : RcpRing) : (s.setRcp k v).brg = s.brg := rfl
@[simp] theorem State.setRcp_cat (s : State) (k : Nat) (v : RcpRing) : (s.setRcp k v).cat = s.cat := rfl
@[simp] theorem State.setRcp_bndWaits (s : State) (k : Nat) (v : RcpRing) : (s.setRcp k v).bndWaits = s.bndWaits := rfl
@[simp] theorem State.setRcp_station (s : State) (k : Nat) (v : RcpRing) : (s.setRcp k v).station = s.station := rfl
@[simp] theorem State.setRcp_d3hot (s : State) (k : Nat) (v : RcpRing) : (s.setRcp k v).d3hot = s.d3hot := rfl
@[simp] theorem State.setRcp_d3depth (s : State) (k : Nat) (v : RcpRing) : (s.setRcp k v).d3depth = s.d3depth := rfl
@[simp] theorem State.setRcp_linkUp (s : State) (k : Nat) (v : RcpRing) : (s.setRcp k v).linkUp = s.linkUp := rfl
@[simp] theorem State.setRcp_tmax (s : State) (k : Nat) (v : RcpRing) : (s.setRcp k v).tmax = s.tmax := rfl
@[simp] theorem State.setRcp_pin (s : State) (k : Nat) (v : RcpRing) : (s.setRcp k v).pin = s.pin := rfl
@[simp] theorem State.setRcp_dbgOpen (s : State) (k : Nat) (v : RcpRing) : (s.setRcp k v).dbgOpen = s.dbgOpen := rfl
@[simp] theorem State.setRcp_ports (s : State) (k : Nat) (v : RcpRing) : (s.setRcp k v).ports = s.ports := rfl
@[simp] theorem State.setRcp_egress (s : State) (k : Nat) (v : RcpRing) : (s.setRcp k v).egress = s.egress := rfl
@[simp] theorem State.setRcp_hbm (s : State) (k : Nat) (v : RcpRing) : (s.setRcp k v).hbm = s.hbm := rfl
@[simp] theorem State.setRcp_bnd (s : State) (k : Nat) (v : RcpRing) : (s.setRcp k v).bnd = s.bnd := rfl
@[simp] theorem State.setRcp_fab (s : State) (k : Nat) (v : RcpRing) : (s.setRcp k v).fab = s.fab := rfl
@[simp] theorem State.setRcp_cols (s : State) (k : Nat) (v : RcpRing) : (s.setRcp k v).cols = s.cols := rfl
@[simp] theorem State.setRcp_slotRes (s : State) (k : Nat) (v : RcpRing) : (s.setRcp k v).slotRes = s.slotRes := rfl
@[simp] theorem State.setRcp_domSize (s : State) (k : Nat) (v : RcpRing) : (s.setRcp k v).domSize = s.domSize := rfl
@[simp] theorem State.setRcp_domLock (s : State) (k : Nat) (v : RcpRing) : (s.setRcp k v).domLock = s.domLock := rfl
@[simp] theorem State.setRcp_pwr (s : State) (k : Nat) (v : RcpRing) : (s.setRcp k v).pwr = s.pwr := rfl
@[simp] theorem State.setRcp_sec (s : State) (k : Nat) (v : RcpRing) : (s.setRcp k v).sec = s.sec := rfl
@[simp] theorem State.setRcp_mod (s : State) (k : Nat) (v : RcpRing) : (s.setRcp k v).mod = s.mod := rfl
@[simp] theorem State.setRcp_out (s : State) (k : Nat) (v : RcpRing) : (s.setRcp k v).out = s.out := rfl

/-! ## `State.begin` -/

@[simp] theorem State.begin_pending (s : State) (r : Started) : (s.begin r).pending = s.pending := rfl
@[simp] theorem State.begin_now (s : State) (r : Started) : (s.begin r).now = s.now := rfl
@[simp] theorem State.begin_fresh (s : State) (r : Started) : (s.begin r).fresh = s.fresh := rfl
@[simp] theorem State.begin_mem (s : State) (r : Started) : (s.begin r).mem = s.mem := rfl
@[simp] theorem State.begin_host (s : State) (r : Started) : (s.begin r).host = s.host := rfl
@[simp] theorem State.begin_bad (s : State) (r : Started) : (s.begin r).bad = s.bad := rfl
@[simp] theorem State.begin_owner (s : State) (r : Started) : (s.begin r).owner = s.owner := rfl
@[simp] theorem State.begin_scratch (s : State) (r : Started) : (s.begin r).scratch = s.scratch := rfl
@[simp] theorem State.begin_eng (s : State) (r : Started) : (s.begin r).eng = s.eng := rfl
@[simp] theorem State.begin_closures (s : State) (r : Started) : (s.begin r).closures = s.closures := rfl
@[simp] theorem State.begin_stracts (s : State) (r : Started) : (s.begin r).stracts = s.stracts := rfl
@[simp] theorem State.begin_arc (s : State) (r : Started) : (s.begin r).arc = s.arc := rfl
@[simp] theorem State.begin_ctxs (s : State) (r : Started) : (s.begin r).ctxs = s.ctxs := rfl
@[simp] theorem State.begin_ctxActs (s : State) (r : Started) : (s.begin r).ctxActs = s.ctxActs := rfl
@[simp] theorem State.begin_ctr (s : State) (r : Started) : (s.begin r).ctr = s.ctr := rfl
@[simp] theorem State.begin_flt (s : State) (r : Started) : (s.begin r).flt = s.flt := rfl
@[simp] theorem State.begin_brg (s : State) (r : Started) : (s.begin r).brg = s.brg := rfl
@[simp] theorem State.begin_cat (s : State) (r : Started) : (s.begin r).cat = s.cat := rfl
@[simp] theorem State.begin_bndWaits (s : State) (r : Started) : (s.begin r).bndWaits = s.bndWaits := rfl
@[simp] theorem State.begin_station (s : State) (r : Started) : (s.begin r).station = s.station := rfl
@[simp] theorem State.begin_d3hot (s : State) (r : Started) : (s.begin r).d3hot = s.d3hot := rfl
@[simp] theorem State.begin_d3depth (s : State) (r : Started) : (s.begin r).d3depth = s.d3depth := rfl
@[simp] theorem State.begin_linkUp (s : State) (r : Started) : (s.begin r).linkUp = s.linkUp := rfl
@[simp] theorem State.begin_tmax (s : State) (r : Started) : (s.begin r).tmax = s.tmax := rfl
@[simp] theorem State.begin_pin (s : State) (r : Started) : (s.begin r).pin = s.pin := rfl
@[simp] theorem State.begin_dbgOpen (s : State) (r : Started) : (s.begin r).dbgOpen = s.dbgOpen := rfl
@[simp] theorem State.begin_ports (s : State) (r : Started) : (s.begin r).ports = s.ports := rfl
@[simp] theorem State.begin_egress (s : State) (r : Started) : (s.begin r).egress = s.egress := rfl
@[simp] theorem State.begin_hbm (s : State) (r : Started) : (s.begin r).hbm = s.hbm := rfl
@[simp] theorem State.begin_bnd (s : State) (r : Started) : (s.begin r).bnd = s.bnd := rfl
@[simp] theorem State.begin_fab (s : State) (r : Started) : (s.begin r).fab = s.fab := rfl
@[simp] theorem State.begin_cols (s : State) (r : Started) : (s.begin r).cols = s.cols := rfl
@[simp] theorem State.begin_slotRes (s : State) (r : Started) : (s.begin r).slotRes = s.slotRes := rfl
@[simp] theorem State.begin_domSize (s : State) (r : Started) : (s.begin r).domSize = s.domSize := rfl
@[simp] theorem State.begin_domLock (s : State) (r : Started) : (s.begin r).domLock = s.domLock := rfl
@[simp] theorem State.begin_pwr (s : State) (r : Started) : (s.begin r).pwr = s.pwr := rfl
@[simp] theorem State.begin_sec (s : State) (r : Started) : (s.begin r).sec = s.sec := rfl
@[simp] theorem State.begin_mod (s : State) (r : Started) : (s.begin r).mod = s.mod := rfl
@[simp] theorem State.begin_out (s : State) (r : Started) : (s.begin r).out = s.out := rfl

/-! ## `State.setSvc` -/

@[simp] theorem State.setSvc_pending (s : State) (k : Nat) (v : Svc) : (s.setSvc k v).pending = s.pending := rfl
@[simp] theorem State.setSvc_now (s : State) (k : Nat) (v : Svc) : (s.setSvc k v).now = s.now := rfl
@[simp] theorem State.setSvc_fresh (s : State) (k : Nat) (v : Svc) : (s.setSvc k v).fresh = s.fresh := rfl
@[simp] theorem State.setSvc_mem (s : State) (k : Nat) (v : Svc) : (s.setSvc k v).mem = s.mem := rfl
@[simp] theorem State.setSvc_host (s : State) (k : Nat) (v : Svc) : (s.setSvc k v).host = s.host := rfl
@[simp] theorem State.setSvc_bad (s : State) (k : Nat) (v : Svc) : (s.setSvc k v).bad = s.bad := rfl
@[simp] theorem State.setSvc_owner (s : State) (k : Nat) (v : Svc) : (s.setSvc k v).owner = s.owner := rfl
@[simp] theorem State.setSvc_scratch (s : State) (k : Nat) (v : Svc) : (s.setSvc k v).scratch = s.scratch := rfl
@[simp] theorem State.setSvc_eng (s : State) (k : Nat) (v : Svc) : (s.setSvc k v).eng = s.eng := rfl
@[simp] theorem State.setSvc_closures (s : State) (k : Nat) (v : Svc) : (s.setSvc k v).closures = s.closures := rfl
@[simp] theorem State.setSvc_stracts (s : State) (k : Nat) (v : Svc) : (s.setSvc k v).stracts = s.stracts := rfl
@[simp] theorem State.setSvc_arc (s : State) (k : Nat) (v : Svc) : (s.setSvc k v).arc = s.arc := rfl
@[simp] theorem State.setSvc_ctxs (s : State) (k : Nat) (v : Svc) : (s.setSvc k v).ctxs = s.ctxs := rfl
@[simp] theorem State.setSvc_ctxActs (s : State) (k : Nat) (v : Svc) : (s.setSvc k v).ctxActs = s.ctxActs := rfl
@[simp] theorem State.setSvc_cmd (s : State) (k : Nat) (v : Svc) : (s.setSvc k v).cmd = s.cmd := rfl
@[simp] theorem State.setSvc_ctr (s : State) (k : Nat) (v : Svc) : (s.setSvc k v).ctr = s.ctr := rfl
@[simp] theorem State.setSvc_brg (s : State) (k : Nat) (v : Svc) : (s.setSvc k v).brg = s.brg := rfl
@[simp] theorem State.setSvc_cat (s : State) (k : Nat) (v : Svc) : (s.setSvc k v).cat = s.cat := rfl
@[simp] theorem State.setSvc_bndWaits (s : State) (k : Nat) (v : Svc) : (s.setSvc k v).bndWaits = s.bndWaits := rfl
@[simp] theorem State.setSvc_station (s : State) (k : Nat) (v : Svc) : (s.setSvc k v).station = s.station := rfl
@[simp] theorem State.setSvc_d3hot (s : State) (k : Nat) (v : Svc) : (s.setSvc k v).d3hot = s.d3hot := rfl
@[simp] theorem State.setSvc_d3depth (s : State) (k : Nat) (v : Svc) : (s.setSvc k v).d3depth = s.d3depth := rfl
@[simp] theorem State.setSvc_linkUp (s : State) (k : Nat) (v : Svc) : (s.setSvc k v).linkUp = s.linkUp := rfl
@[simp] theorem State.setSvc_tmax (s : State) (k : Nat) (v : Svc) : (s.setSvc k v).tmax = s.tmax := rfl
@[simp] theorem State.setSvc_pin (s : State) (k : Nat) (v : Svc) : (s.setSvc k v).pin = s.pin := rfl
@[simp] theorem State.setSvc_dbgOpen (s : State) (k : Nat) (v : Svc) : (s.setSvc k v).dbgOpen = s.dbgOpen := rfl
@[simp] theorem State.setSvc_ports (s : State) (k : Nat) (v : Svc) : (s.setSvc k v).ports = s.ports := rfl
@[simp] theorem State.setSvc_egress (s : State) (k : Nat) (v : Svc) : (s.setSvc k v).egress = s.egress := rfl
@[simp] theorem State.setSvc_hbm (s : State) (k : Nat) (v : Svc) : (s.setSvc k v).hbm = s.hbm := rfl
@[simp] theorem State.setSvc_bnd (s : State) (k : Nat) (v : Svc) : (s.setSvc k v).bnd = s.bnd := rfl
@[simp] theorem State.setSvc_fab (s : State) (k : Nat) (v : Svc) : (s.setSvc k v).fab = s.fab := rfl
@[simp] theorem State.setSvc_cols (s : State) (k : Nat) (v : Svc) : (s.setSvc k v).cols = s.cols := rfl
@[simp] theorem State.setSvc_slotRes (s : State) (k : Nat) (v : Svc) : (s.setSvc k v).slotRes = s.slotRes := rfl
@[simp] theorem State.setSvc_domSize (s : State) (k : Nat) (v : Svc) : (s.setSvc k v).domSize = s.domSize := rfl
@[simp] theorem State.setSvc_domLock (s : State) (k : Nat) (v : Svc) : (s.setSvc k v).domLock = s.domLock := rfl
@[simp] theorem State.setSvc_pwr (s : State) (k : Nat) (v : Svc) : (s.setSvc k v).pwr = s.pwr := rfl
@[simp] theorem State.setSvc_sec (s : State) (k : Nat) (v : Svc) : (s.setSvc k v).sec = s.sec := rfl
@[simp] theorem State.setSvc_mod (s : State) (k : Nat) (v : Svc) : (s.setSvc k v).mod = s.mod := rfl
@[simp] theorem State.setSvc_out (s : State) (k : Nat) (v : Svc) : (s.setSvc k v).out = s.out := rfl

/-! ## `State.bumpEpoch` -/

@[simp] theorem State.bumpEpoch_pending (s : State) (k : Nat) : (s.bumpEpoch k).pending = s.pending := rfl
@[simp] theorem State.bumpEpoch_now (s : State) (k : Nat) : (s.bumpEpoch k).now = s.now := rfl
@[simp] theorem State.bumpEpoch_fresh (s : State) (k : Nat) : (s.bumpEpoch k).fresh = s.fresh := rfl
@[simp] theorem State.bumpEpoch_mem (s : State) (k : Nat) : (s.bumpEpoch k).mem = s.mem := rfl
@[simp] theorem State.bumpEpoch_host (s : State) (k : Nat) : (s.bumpEpoch k).host = s.host := rfl
@[simp] theorem State.bumpEpoch_bad (s : State) (k : Nat) : (s.bumpEpoch k).bad = s.bad := rfl
@[simp] theorem State.bumpEpoch_owner (s : State) (k : Nat) : (s.bumpEpoch k).owner = s.owner := rfl
@[simp] theorem State.bumpEpoch_scratch (s : State) (k : Nat) : (s.bumpEpoch k).scratch = s.scratch := rfl
@[simp] theorem State.bumpEpoch_eng (s : State) (k : Nat) : (s.bumpEpoch k).eng = s.eng := rfl
@[simp] theorem State.bumpEpoch_closures (s : State) (k : Nat) : (s.bumpEpoch k).closures = s.closures := rfl
@[simp] theorem State.bumpEpoch_stracts (s : State) (k : Nat) : (s.bumpEpoch k).stracts = s.stracts := rfl
@[simp] theorem State.bumpEpoch_arc (s : State) (k : Nat) : (s.bumpEpoch k).arc = s.arc := rfl
@[simp] theorem State.bumpEpoch_ctxs (s : State) (k : Nat) : (s.bumpEpoch k).ctxs = s.ctxs := rfl
@[simp] theorem State.bumpEpoch_ctxActs (s : State) (k : Nat) : (s.bumpEpoch k).ctxActs = s.ctxActs := rfl
@[simp] theorem State.bumpEpoch_cmd (s : State) (k : Nat) : (s.bumpEpoch k).cmd = s.cmd := rfl
@[simp] theorem State.bumpEpoch_ctr (s : State) (k : Nat) : (s.bumpEpoch k).ctr = s.ctr := rfl
@[simp] theorem State.bumpEpoch_brg (s : State) (k : Nat) : (s.bumpEpoch k).brg = s.brg := rfl
@[simp] theorem State.bumpEpoch_cat (s : State) (k : Nat) : (s.bumpEpoch k).cat = s.cat := rfl
@[simp] theorem State.bumpEpoch_bndWaits (s : State) (k : Nat) : (s.bumpEpoch k).bndWaits = s.bndWaits := rfl
@[simp] theorem State.bumpEpoch_station (s : State) (k : Nat) : (s.bumpEpoch k).station = s.station := rfl
@[simp] theorem State.bumpEpoch_d3hot (s : State) (k : Nat) : (s.bumpEpoch k).d3hot = s.d3hot := rfl
@[simp] theorem State.bumpEpoch_d3depth (s : State) (k : Nat) : (s.bumpEpoch k).d3depth = s.d3depth := rfl
@[simp] theorem State.bumpEpoch_linkUp (s : State) (k : Nat) : (s.bumpEpoch k).linkUp = s.linkUp := rfl
@[simp] theorem State.bumpEpoch_tmax (s : State) (k : Nat) : (s.bumpEpoch k).tmax = s.tmax := rfl
@[simp] theorem State.bumpEpoch_pin (s : State) (k : Nat) : (s.bumpEpoch k).pin = s.pin := rfl
@[simp] theorem State.bumpEpoch_dbgOpen (s : State) (k : Nat) : (s.bumpEpoch k).dbgOpen = s.dbgOpen := rfl
@[simp] theorem State.bumpEpoch_ports (s : State) (k : Nat) : (s.bumpEpoch k).ports = s.ports := rfl
@[simp] theorem State.bumpEpoch_egress (s : State) (k : Nat) : (s.bumpEpoch k).egress = s.egress := rfl
@[simp] theorem State.bumpEpoch_hbm (s : State) (k : Nat) : (s.bumpEpoch k).hbm = s.hbm := rfl
@[simp] theorem State.bumpEpoch_bnd (s : State) (k : Nat) : (s.bumpEpoch k).bnd = s.bnd := rfl
@[simp] theorem State.bumpEpoch_fab (s : State) (k : Nat) : (s.bumpEpoch k).fab = s.fab := rfl
@[simp] theorem State.bumpEpoch_cols (s : State) (k : Nat) : (s.bumpEpoch k).cols = s.cols := rfl
@[simp] theorem State.bumpEpoch_slotRes (s : State) (k : Nat) : (s.bumpEpoch k).slotRes = s.slotRes := rfl
@[simp] theorem State.bumpEpoch_domSize (s : State) (k : Nat) : (s.bumpEpoch k).domSize = s.domSize := rfl
@[simp] theorem State.bumpEpoch_domLock (s : State) (k : Nat) : (s.bumpEpoch k).domLock = s.domLock := rfl
@[simp] theorem State.bumpEpoch_pwr (s : State) (k : Nat) : (s.bumpEpoch k).pwr = s.pwr := rfl
@[simp] theorem State.bumpEpoch_sec (s : State) (k : Nat) : (s.bumpEpoch k).sec = s.sec := rfl
@[simp] theorem State.bumpEpoch_mod (s : State) (k : Nat) : (s.bumpEpoch k).mod = s.mod := rfl
@[simp] theorem State.bumpEpoch_out (s : State) (k : Nat) : (s.bumpEpoch k).out = s.out := rfl

/-! ## `State.setPort` -/

@[simp] theorem State.setPort_pending (s : State) (k : Nat) (v : SubPort) : (s.setPort k v).pending = s.pending := rfl
@[simp] theorem State.setPort_now (s : State) (k : Nat) (v : SubPort) : (s.setPort k v).now = s.now := rfl
@[simp] theorem State.setPort_fresh (s : State) (k : Nat) (v : SubPort) : (s.setPort k v).fresh = s.fresh := rfl
@[simp] theorem State.setPort_mem (s : State) (k : Nat) (v : SubPort) : (s.setPort k v).mem = s.mem := rfl
@[simp] theorem State.setPort_host (s : State) (k : Nat) (v : SubPort) : (s.setPort k v).host = s.host := rfl
@[simp] theorem State.setPort_bad (s : State) (k : Nat) (v : SubPort) : (s.setPort k v).bad = s.bad := rfl
@[simp] theorem State.setPort_owner (s : State) (k : Nat) (v : SubPort) : (s.setPort k v).owner = s.owner := rfl
@[simp] theorem State.setPort_scratch (s : State) (k : Nat) (v : SubPort) : (s.setPort k v).scratch = s.scratch := rfl
@[simp] theorem State.setPort_eng (s : State) (k : Nat) (v : SubPort) : (s.setPort k v).eng = s.eng := rfl
@[simp] theorem State.setPort_closures (s : State) (k : Nat) (v : SubPort) : (s.setPort k v).closures = s.closures := rfl
@[simp] theorem State.setPort_stracts (s : State) (k : Nat) (v : SubPort) : (s.setPort k v).stracts = s.stracts := rfl
@[simp] theorem State.setPort_arc (s : State) (k : Nat) (v : SubPort) : (s.setPort k v).arc = s.arc := rfl
@[simp] theorem State.setPort_ctxs (s : State) (k : Nat) (v : SubPort) : (s.setPort k v).ctxs = s.ctxs := rfl
@[simp] theorem State.setPort_ctxActs (s : State) (k : Nat) (v : SubPort) : (s.setPort k v).ctxActs = s.ctxActs := rfl
@[simp] theorem State.setPort_cmd (s : State) (k : Nat) (v : SubPort) : (s.setPort k v).cmd = s.cmd := rfl
@[simp] theorem State.setPort_ctr (s : State) (k : Nat) (v : SubPort) : (s.setPort k v).ctr = s.ctr := rfl
@[simp] theorem State.setPort_flt (s : State) (k : Nat) (v : SubPort) : (s.setPort k v).flt = s.flt := rfl
@[simp] theorem State.setPort_brg (s : State) (k : Nat) (v : SubPort) : (s.setPort k v).brg = s.brg := rfl
@[simp] theorem State.setPort_cat (s : State) (k : Nat) (v : SubPort) : (s.setPort k v).cat = s.cat := rfl
@[simp] theorem State.setPort_bndWaits (s : State) (k : Nat) (v : SubPort) : (s.setPort k v).bndWaits = s.bndWaits := rfl
@[simp] theorem State.setPort_station (s : State) (k : Nat) (v : SubPort) : (s.setPort k v).station = s.station := rfl
@[simp] theorem State.setPort_d3hot (s : State) (k : Nat) (v : SubPort) : (s.setPort k v).d3hot = s.d3hot := rfl
@[simp] theorem State.setPort_d3depth (s : State) (k : Nat) (v : SubPort) : (s.setPort k v).d3depth = s.d3depth := rfl
@[simp] theorem State.setPort_linkUp (s : State) (k : Nat) (v : SubPort) : (s.setPort k v).linkUp = s.linkUp := rfl
@[simp] theorem State.setPort_tmax (s : State) (k : Nat) (v : SubPort) : (s.setPort k v).tmax = s.tmax := rfl
@[simp] theorem State.setPort_pin (s : State) (k : Nat) (v : SubPort) : (s.setPort k v).pin = s.pin := rfl
@[simp] theorem State.setPort_dbgOpen (s : State) (k : Nat) (v : SubPort) : (s.setPort k v).dbgOpen = s.dbgOpen := rfl
@[simp] theorem State.setPort_egress (s : State) (k : Nat) (v : SubPort) : (s.setPort k v).egress = s.egress := rfl
@[simp] theorem State.setPort_hbm (s : State) (k : Nat) (v : SubPort) : (s.setPort k v).hbm = s.hbm := rfl
@[simp] theorem State.setPort_bnd (s : State) (k : Nat) (v : SubPort) : (s.setPort k v).bnd = s.bnd := rfl
@[simp] theorem State.setPort_fab (s : State) (k : Nat) (v : SubPort) : (s.setPort k v).fab = s.fab := rfl
@[simp] theorem State.setPort_cols (s : State) (k : Nat) (v : SubPort) : (s.setPort k v).cols = s.cols := rfl
@[simp] theorem State.setPort_slotRes (s : State) (k : Nat) (v : SubPort) : (s.setPort k v).slotRes = s.slotRes := rfl
@[simp] theorem State.setPort_domSize (s : State) (k : Nat) (v : SubPort) : (s.setPort k v).domSize = s.domSize := rfl
@[simp] theorem State.setPort_domLock (s : State) (k : Nat) (v : SubPort) : (s.setPort k v).domLock = s.domLock := rfl
@[simp] theorem State.setPort_pwr (s : State) (k : Nat) (v : SubPort) : (s.setPort k v).pwr = s.pwr := rfl
@[simp] theorem State.setPort_sec (s : State) (k : Nat) (v : SubPort) : (s.setPort k v).sec = s.sec := rfl
@[simp] theorem State.setPort_mod (s : State) (k : Nat) (v : SubPort) : (s.setPort k v).mod = s.mod := rfl
@[simp] theorem State.setPort_out (s : State) (k : Nat) (v : SubPort) : (s.setPort k v).out = s.out := rfl

/-! ## `State.setPctl` -/

@[simp] theorem State.setPctl_pending (s : State) (k : Nat) (v : PortCtl) : (s.setPctl k v).pending = s.pending := rfl
@[simp] theorem State.setPctl_now (s : State) (k : Nat) (v : PortCtl) : (s.setPctl k v).now = s.now := rfl
@[simp] theorem State.setPctl_fresh (s : State) (k : Nat) (v : PortCtl) : (s.setPctl k v).fresh = s.fresh := rfl
@[simp] theorem State.setPctl_mem (s : State) (k : Nat) (v : PortCtl) : (s.setPctl k v).mem = s.mem := rfl
@[simp] theorem State.setPctl_host (s : State) (k : Nat) (v : PortCtl) : (s.setPctl k v).host = s.host := rfl
@[simp] theorem State.setPctl_bad (s : State) (k : Nat) (v : PortCtl) : (s.setPctl k v).bad = s.bad := rfl
@[simp] theorem State.setPctl_owner (s : State) (k : Nat) (v : PortCtl) : (s.setPctl k v).owner = s.owner := rfl
@[simp] theorem State.setPctl_scratch (s : State) (k : Nat) (v : PortCtl) : (s.setPctl k v).scratch = s.scratch := rfl
@[simp] theorem State.setPctl_eng (s : State) (k : Nat) (v : PortCtl) : (s.setPctl k v).eng = s.eng := rfl
@[simp] theorem State.setPctl_closures (s : State) (k : Nat) (v : PortCtl) : (s.setPctl k v).closures = s.closures := rfl
@[simp] theorem State.setPctl_stracts (s : State) (k : Nat) (v : PortCtl) : (s.setPctl k v).stracts = s.stracts := rfl
@[simp] theorem State.setPctl_arc (s : State) (k : Nat) (v : PortCtl) : (s.setPctl k v).arc = s.arc := rfl
@[simp] theorem State.setPctl_ctxs (s : State) (k : Nat) (v : PortCtl) : (s.setPctl k v).ctxs = s.ctxs := rfl
@[simp] theorem State.setPctl_ctxActs (s : State) (k : Nat) (v : PortCtl) : (s.setPctl k v).ctxActs = s.ctxActs := rfl
@[simp] theorem State.setPctl_cmd (s : State) (k : Nat) (v : PortCtl) : (s.setPctl k v).cmd = s.cmd := rfl
@[simp] theorem State.setPctl_ctr (s : State) (k : Nat) (v : PortCtl) : (s.setPctl k v).ctr = s.ctr := rfl
@[simp] theorem State.setPctl_flt (s : State) (k : Nat) (v : PortCtl) : (s.setPctl k v).flt = s.flt := rfl
@[simp] theorem State.setPctl_brg (s : State) (k : Nat) (v : PortCtl) : (s.setPctl k v).brg = s.brg := rfl
@[simp] theorem State.setPctl_cat (s : State) (k : Nat) (v : PortCtl) : (s.setPctl k v).cat = s.cat := rfl
@[simp] theorem State.setPctl_bndWaits (s : State) (k : Nat) (v : PortCtl) : (s.setPctl k v).bndWaits = s.bndWaits := rfl
@[simp] theorem State.setPctl_station (s : State) (k : Nat) (v : PortCtl) : (s.setPctl k v).station = s.station := rfl
@[simp] theorem State.setPctl_d3hot (s : State) (k : Nat) (v : PortCtl) : (s.setPctl k v).d3hot = s.d3hot := rfl
@[simp] theorem State.setPctl_d3depth (s : State) (k : Nat) (v : PortCtl) : (s.setPctl k v).d3depth = s.d3depth := rfl
@[simp] theorem State.setPctl_linkUp (s : State) (k : Nat) (v : PortCtl) : (s.setPctl k v).linkUp = s.linkUp := rfl
@[simp] theorem State.setPctl_tmax (s : State) (k : Nat) (v : PortCtl) : (s.setPctl k v).tmax = s.tmax := rfl
@[simp] theorem State.setPctl_pin (s : State) (k : Nat) (v : PortCtl) : (s.setPctl k v).pin = s.pin := rfl
@[simp] theorem State.setPctl_dbgOpen (s : State) (k : Nat) (v : PortCtl) : (s.setPctl k v).dbgOpen = s.dbgOpen := rfl
@[simp] theorem State.setPctl_ports (s : State) (k : Nat) (v : PortCtl) : (s.setPctl k v).ports = s.ports := rfl
@[simp] theorem State.setPctl_egress (s : State) (k : Nat) (v : PortCtl) : (s.setPctl k v).egress = s.egress := rfl
@[simp] theorem State.setPctl_hbm (s : State) (k : Nat) (v : PortCtl) : (s.setPctl k v).hbm = s.hbm := rfl
@[simp] theorem State.setPctl_bnd (s : State) (k : Nat) (v : PortCtl) : (s.setPctl k v).bnd = s.bnd := rfl
@[simp] theorem State.setPctl_cols (s : State) (k : Nat) (v : PortCtl) : (s.setPctl k v).cols = s.cols := rfl
@[simp] theorem State.setPctl_slotRes (s : State) (k : Nat) (v : PortCtl) : (s.setPctl k v).slotRes = s.slotRes := rfl
@[simp] theorem State.setPctl_domSize (s : State) (k : Nat) (v : PortCtl) : (s.setPctl k v).domSize = s.domSize := rfl
@[simp] theorem State.setPctl_domLock (s : State) (k : Nat) (v : PortCtl) : (s.setPctl k v).domLock = s.domLock := rfl
@[simp] theorem State.setPctl_pwr (s : State) (k : Nat) (v : PortCtl) : (s.setPctl k v).pwr = s.pwr := rfl
@[simp] theorem State.setPctl_sec (s : State) (k : Nat) (v : PortCtl) : (s.setPctl k v).sec = s.sec := rfl
@[simp] theorem State.setPctl_mod (s : State) (k : Nat) (v : PortCtl) : (s.setPctl k v).mod = s.mod := rfl
@[simp] theorem State.setPctl_out (s : State) (k : Nat) (v : PortCtl) : (s.setPctl k v).out = s.out := rfl

/-! ## `State.deliver` -/

@[simp] theorem State.deliver_pending (s : State) (v : Packet) : (s.deliver v).pending = s.pending := rfl
@[simp] theorem State.deliver_now (s : State) (v : Packet) : (s.deliver v).now = s.now := rfl
@[simp] theorem State.deliver_fresh (s : State) (v : Packet) : (s.deliver v).fresh = s.fresh := rfl
@[simp] theorem State.deliver_mem (s : State) (v : Packet) : (s.deliver v).mem = s.mem := rfl
@[simp] theorem State.deliver_host (s : State) (v : Packet) : (s.deliver v).host = s.host := rfl
@[simp] theorem State.deliver_bad (s : State) (v : Packet) : (s.deliver v).bad = s.bad := rfl
@[simp] theorem State.deliver_owner (s : State) (v : Packet) : (s.deliver v).owner = s.owner := rfl
@[simp] theorem State.deliver_scratch (s : State) (v : Packet) : (s.deliver v).scratch = s.scratch := rfl
@[simp] theorem State.deliver_eng (s : State) (v : Packet) : (s.deliver v).eng = s.eng := rfl
@[simp] theorem State.deliver_closures (s : State) (v : Packet) : (s.deliver v).closures = s.closures := rfl
@[simp] theorem State.deliver_stracts (s : State) (v : Packet) : (s.deliver v).stracts = s.stracts := rfl
@[simp] theorem State.deliver_arc (s : State) (v : Packet) : (s.deliver v).arc = s.arc := rfl
@[simp] theorem State.deliver_ctxs (s : State) (v : Packet) : (s.deliver v).ctxs = s.ctxs := rfl
@[simp] theorem State.deliver_ctxActs (s : State) (v : Packet) : (s.deliver v).ctxActs = s.ctxActs := rfl
@[simp] theorem State.deliver_cmd (s : State) (v : Packet) : (s.deliver v).cmd = s.cmd := rfl
@[simp] theorem State.deliver_ctr (s : State) (v : Packet) : (s.deliver v).ctr = s.ctr := rfl
@[simp] theorem State.deliver_flt (s : State) (v : Packet) : (s.deliver v).flt = s.flt := rfl
@[simp] theorem State.deliver_brg (s : State) (v : Packet) : (s.deliver v).brg = s.brg := rfl
@[simp] theorem State.deliver_cat (s : State) (v : Packet) : (s.deliver v).cat = s.cat := rfl
@[simp] theorem State.deliver_bndWaits (s : State) (v : Packet) : (s.deliver v).bndWaits = s.bndWaits := rfl
@[simp] theorem State.deliver_station (s : State) (v : Packet) : (s.deliver v).station = s.station := rfl
@[simp] theorem State.deliver_d3hot (s : State) (v : Packet) : (s.deliver v).d3hot = s.d3hot := rfl
@[simp] theorem State.deliver_d3depth (s : State) (v : Packet) : (s.deliver v).d3depth = s.d3depth := rfl
@[simp] theorem State.deliver_linkUp (s : State) (v : Packet) : (s.deliver v).linkUp = s.linkUp := rfl
@[simp] theorem State.deliver_tmax (s : State) (v : Packet) : (s.deliver v).tmax = s.tmax := rfl
@[simp] theorem State.deliver_pin (s : State) (v : Packet) : (s.deliver v).pin = s.pin := rfl
@[simp] theorem State.deliver_dbgOpen (s : State) (v : Packet) : (s.deliver v).dbgOpen = s.dbgOpen := rfl
@[simp] theorem State.deliver_ports (s : State) (v : Packet) : (s.deliver v).ports = s.ports := rfl
@[simp] theorem State.deliver_egress (s : State) (v : Packet) : (s.deliver v).egress = s.egress := rfl
@[simp] theorem State.deliver_hbm (s : State) (v : Packet) : (s.deliver v).hbm = s.hbm := rfl
@[simp] theorem State.deliver_bnd (s : State) (v : Packet) : (s.deliver v).bnd = s.bnd := rfl
@[simp] theorem State.deliver_cols (s : State) (v : Packet) : (s.deliver v).cols = s.cols := rfl
@[simp] theorem State.deliver_slotRes (s : State) (v : Packet) : (s.deliver v).slotRes = s.slotRes := rfl
@[simp] theorem State.deliver_domSize (s : State) (v : Packet) : (s.deliver v).domSize = s.domSize := rfl
@[simp] theorem State.deliver_domLock (s : State) (v : Packet) : (s.deliver v).domLock = s.domLock := rfl
@[simp] theorem State.deliver_pwr (s : State) (v : Packet) : (s.deliver v).pwr = s.pwr := rfl
@[simp] theorem State.deliver_sec (s : State) (v : Packet) : (s.deliver v).sec = s.sec := rfl
@[simp] theorem State.deliver_mod (s : State) (v : Packet) : (s.deliver v).mod = s.mod := rfl
@[simp] theorem State.deliver_out (s : State) (v : Packet) : (s.deliver v).out = s.out := rfl

/-! ## `State.setStack` -/

@[simp] theorem State.setStack_pending (s : State) (k : Nat) (v : Stack) : (s.setStack k v).pending = s.pending := rfl
@[simp] theorem State.setStack_now (s : State) (k : Nat) (v : Stack) : (s.setStack k v).now = s.now := rfl
@[simp] theorem State.setStack_fresh (s : State) (k : Nat) (v : Stack) : (s.setStack k v).fresh = s.fresh := rfl
@[simp] theorem State.setStack_mem (s : State) (k : Nat) (v : Stack) : (s.setStack k v).mem = s.mem := rfl
@[simp] theorem State.setStack_host (s : State) (k : Nat) (v : Stack) : (s.setStack k v).host = s.host := rfl
@[simp] theorem State.setStack_bad (s : State) (k : Nat) (v : Stack) : (s.setStack k v).bad = s.bad := rfl
@[simp] theorem State.setStack_owner (s : State) (k : Nat) (v : Stack) : (s.setStack k v).owner = s.owner := rfl
@[simp] theorem State.setStack_scratch (s : State) (k : Nat) (v : Stack) : (s.setStack k v).scratch = s.scratch := rfl
@[simp] theorem State.setStack_eng (s : State) (k : Nat) (v : Stack) : (s.setStack k v).eng = s.eng := rfl
@[simp] theorem State.setStack_closures (s : State) (k : Nat) (v : Stack) : (s.setStack k v).closures = s.closures := rfl
@[simp] theorem State.setStack_stracts (s : State) (k : Nat) (v : Stack) : (s.setStack k v).stracts = s.stracts := rfl
@[simp] theorem State.setStack_arc (s : State) (k : Nat) (v : Stack) : (s.setStack k v).arc = s.arc := rfl
@[simp] theorem State.setStack_ctxs (s : State) (k : Nat) (v : Stack) : (s.setStack k v).ctxs = s.ctxs := rfl
@[simp] theorem State.setStack_ctxActs (s : State) (k : Nat) (v : Stack) : (s.setStack k v).ctxActs = s.ctxActs := rfl
@[simp] theorem State.setStack_cmd (s : State) (k : Nat) (v : Stack) : (s.setStack k v).cmd = s.cmd := rfl
@[simp] theorem State.setStack_ctr (s : State) (k : Nat) (v : Stack) : (s.setStack k v).ctr = s.ctr := rfl
@[simp] theorem State.setStack_flt (s : State) (k : Nat) (v : Stack) : (s.setStack k v).flt = s.flt := rfl
@[simp] theorem State.setStack_brg (s : State) (k : Nat) (v : Stack) : (s.setStack k v).brg = s.brg := rfl
@[simp] theorem State.setStack_cat (s : State) (k : Nat) (v : Stack) : (s.setStack k v).cat = s.cat := rfl
@[simp] theorem State.setStack_bndWaits (s : State) (k : Nat) (v : Stack) : (s.setStack k v).bndWaits = s.bndWaits := rfl
@[simp] theorem State.setStack_station (s : State) (k : Nat) (v : Stack) : (s.setStack k v).station = s.station := rfl
@[simp] theorem State.setStack_d3hot (s : State) (k : Nat) (v : Stack) : (s.setStack k v).d3hot = s.d3hot := rfl
@[simp] theorem State.setStack_d3depth (s : State) (k : Nat) (v : Stack) : (s.setStack k v).d3depth = s.d3depth := rfl
@[simp] theorem State.setStack_linkUp (s : State) (k : Nat) (v : Stack) : (s.setStack k v).linkUp = s.linkUp := rfl
@[simp] theorem State.setStack_tmax (s : State) (k : Nat) (v : Stack) : (s.setStack k v).tmax = s.tmax := rfl
@[simp] theorem State.setStack_pin (s : State) (k : Nat) (v : Stack) : (s.setStack k v).pin = s.pin := rfl
@[simp] theorem State.setStack_dbgOpen (s : State) (k : Nat) (v : Stack) : (s.setStack k v).dbgOpen = s.dbgOpen := rfl
@[simp] theorem State.setStack_ports (s : State) (k : Nat) (v : Stack) : (s.setStack k v).ports = s.ports := rfl
@[simp] theorem State.setStack_egress (s : State) (k : Nat) (v : Stack) : (s.setStack k v).egress = s.egress := rfl
@[simp] theorem State.setStack_bnd (s : State) (k : Nat) (v : Stack) : (s.setStack k v).bnd = s.bnd := rfl
@[simp] theorem State.setStack_fab (s : State) (k : Nat) (v : Stack) : (s.setStack k v).fab = s.fab := rfl
@[simp] theorem State.setStack_cols (s : State) (k : Nat) (v : Stack) : (s.setStack k v).cols = s.cols := rfl
@[simp] theorem State.setStack_slotRes (s : State) (k : Nat) (v : Stack) : (s.setStack k v).slotRes = s.slotRes := rfl
@[simp] theorem State.setStack_domSize (s : State) (k : Nat) (v : Stack) : (s.setStack k v).domSize = s.domSize := rfl
@[simp] theorem State.setStack_domLock (s : State) (k : Nat) (v : Stack) : (s.setStack k v).domLock = s.domLock := rfl
@[simp] theorem State.setStack_pwr (s : State) (k : Nat) (v : Stack) : (s.setStack k v).pwr = s.pwr := rfl
@[simp] theorem State.setStack_sec (s : State) (k : Nat) (v : Stack) : (s.setStack k v).sec = s.sec := rfl
@[simp] theorem State.setStack_mod (s : State) (k : Nat) (v : Stack) : (s.setStack k v).mod = s.mod := rfl
@[simp] theorem State.setStack_out (s : State) (k : Nat) (v : Stack) : (s.setStack k v).out = s.out := rfl

/-! ## `State.setBindery` -/

@[simp] theorem State.setBindery_pending (s : State) (k : Nat) (v : Bindery) : (s.setBindery k v).pending = s.pending := rfl
@[simp] theorem State.setBindery_now (s : State) (k : Nat) (v : Bindery) : (s.setBindery k v).now = s.now := rfl
@[simp] theorem State.setBindery_fresh (s : State) (k : Nat) (v : Bindery) : (s.setBindery k v).fresh = s.fresh := rfl
@[simp] theorem State.setBindery_mem (s : State) (k : Nat) (v : Bindery) : (s.setBindery k v).mem = s.mem := rfl
@[simp] theorem State.setBindery_host (s : State) (k : Nat) (v : Bindery) : (s.setBindery k v).host = s.host := rfl
@[simp] theorem State.setBindery_bad (s : State) (k : Nat) (v : Bindery) : (s.setBindery k v).bad = s.bad := rfl
@[simp] theorem State.setBindery_owner (s : State) (k : Nat) (v : Bindery) : (s.setBindery k v).owner = s.owner := rfl
@[simp] theorem State.setBindery_scratch (s : State) (k : Nat) (v : Bindery) : (s.setBindery k v).scratch = s.scratch := rfl
@[simp] theorem State.setBindery_eng (s : State) (k : Nat) (v : Bindery) : (s.setBindery k v).eng = s.eng := rfl
@[simp] theorem State.setBindery_closures (s : State) (k : Nat) (v : Bindery) : (s.setBindery k v).closures = s.closures := rfl
@[simp] theorem State.setBindery_stracts (s : State) (k : Nat) (v : Bindery) : (s.setBindery k v).stracts = s.stracts := rfl
@[simp] theorem State.setBindery_arc (s : State) (k : Nat) (v : Bindery) : (s.setBindery k v).arc = s.arc := rfl
@[simp] theorem State.setBindery_ctxs (s : State) (k : Nat) (v : Bindery) : (s.setBindery k v).ctxs = s.ctxs := rfl
@[simp] theorem State.setBindery_ctxActs (s : State) (k : Nat) (v : Bindery) : (s.setBindery k v).ctxActs = s.ctxActs := rfl
@[simp] theorem State.setBindery_cmd (s : State) (k : Nat) (v : Bindery) : (s.setBindery k v).cmd = s.cmd := rfl
@[simp] theorem State.setBindery_ctr (s : State) (k : Nat) (v : Bindery) : (s.setBindery k v).ctr = s.ctr := rfl
@[simp] theorem State.setBindery_flt (s : State) (k : Nat) (v : Bindery) : (s.setBindery k v).flt = s.flt := rfl
@[simp] theorem State.setBindery_brg (s : State) (k : Nat) (v : Bindery) : (s.setBindery k v).brg = s.brg := rfl
@[simp] theorem State.setBindery_cat (s : State) (k : Nat) (v : Bindery) : (s.setBindery k v).cat = s.cat := rfl
@[simp] theorem State.setBindery_bndWaits (s : State) (k : Nat) (v : Bindery) : (s.setBindery k v).bndWaits = s.bndWaits := rfl
@[simp] theorem State.setBindery_station (s : State) (k : Nat) (v : Bindery) : (s.setBindery k v).station = s.station := rfl
@[simp] theorem State.setBindery_d3hot (s : State) (k : Nat) (v : Bindery) : (s.setBindery k v).d3hot = s.d3hot := rfl
@[simp] theorem State.setBindery_d3depth (s : State) (k : Nat) (v : Bindery) : (s.setBindery k v).d3depth = s.d3depth := rfl
@[simp] theorem State.setBindery_linkUp (s : State) (k : Nat) (v : Bindery) : (s.setBindery k v).linkUp = s.linkUp := rfl
@[simp] theorem State.setBindery_tmax (s : State) (k : Nat) (v : Bindery) : (s.setBindery k v).tmax = s.tmax := rfl
@[simp] theorem State.setBindery_pin (s : State) (k : Nat) (v : Bindery) : (s.setBindery k v).pin = s.pin := rfl
@[simp] theorem State.setBindery_dbgOpen (s : State) (k : Nat) (v : Bindery) : (s.setBindery k v).dbgOpen = s.dbgOpen := rfl
@[simp] theorem State.setBindery_ports (s : State) (k : Nat) (v : Bindery) : (s.setBindery k v).ports = s.ports := rfl
@[simp] theorem State.setBindery_egress (s : State) (k : Nat) (v : Bindery) : (s.setBindery k v).egress = s.egress := rfl
@[simp] theorem State.setBindery_hbm (s : State) (k : Nat) (v : Bindery) : (s.setBindery k v).hbm = s.hbm := rfl
@[simp] theorem State.setBindery_fab (s : State) (k : Nat) (v : Bindery) : (s.setBindery k v).fab = s.fab := rfl
@[simp] theorem State.setBindery_cols (s : State) (k : Nat) (v : Bindery) : (s.setBindery k v).cols = s.cols := rfl
@[simp] theorem State.setBindery_slotRes (s : State) (k : Nat) (v : Bindery) : (s.setBindery k v).slotRes = s.slotRes := rfl
@[simp] theorem State.setBindery_domSize (s : State) (k : Nat) (v : Bindery) : (s.setBindery k v).domSize = s.domSize := rfl
@[simp] theorem State.setBindery_domLock (s : State) (k : Nat) (v : Bindery) : (s.setBindery k v).domLock = s.domLock := rfl
@[simp] theorem State.setBindery_pwr (s : State) (k : Nat) (v : Bindery) : (s.setBindery k v).pwr = s.pwr := rfl
@[simp] theorem State.setBindery_sec (s : State) (k : Nat) (v : Bindery) : (s.setBindery k v).sec = s.sec := rfl
@[simp] theorem State.setBindery_out (s : State) (k : Nat) (v : Bindery) : (s.setBindery k v).out = s.out := rfl

/-! ## `State.setCat` -/

@[simp] theorem State.setCat_pending (s : State) (k : Nat) (v : CatEntry) : (s.setCat k v).pending = s.pending := rfl
@[simp] theorem State.setCat_now (s : State) (k : Nat) (v : CatEntry) : (s.setCat k v).now = s.now := rfl
@[simp] theorem State.setCat_fresh (s : State) (k : Nat) (v : CatEntry) : (s.setCat k v).fresh = s.fresh := rfl
@[simp] theorem State.setCat_mem (s : State) (k : Nat) (v : CatEntry) : (s.setCat k v).mem = s.mem := rfl
@[simp] theorem State.setCat_host (s : State) (k : Nat) (v : CatEntry) : (s.setCat k v).host = s.host := rfl
@[simp] theorem State.setCat_bad (s : State) (k : Nat) (v : CatEntry) : (s.setCat k v).bad = s.bad := rfl
@[simp] theorem State.setCat_owner (s : State) (k : Nat) (v : CatEntry) : (s.setCat k v).owner = s.owner := rfl
@[simp] theorem State.setCat_scratch (s : State) (k : Nat) (v : CatEntry) : (s.setCat k v).scratch = s.scratch := rfl
@[simp] theorem State.setCat_eng (s : State) (k : Nat) (v : CatEntry) : (s.setCat k v).eng = s.eng := rfl
@[simp] theorem State.setCat_closures (s : State) (k : Nat) (v : CatEntry) : (s.setCat k v).closures = s.closures := rfl
@[simp] theorem State.setCat_stracts (s : State) (k : Nat) (v : CatEntry) : (s.setCat k v).stracts = s.stracts := rfl
@[simp] theorem State.setCat_arc (s : State) (k : Nat) (v : CatEntry) : (s.setCat k v).arc = s.arc := rfl
@[simp] theorem State.setCat_ctxs (s : State) (k : Nat) (v : CatEntry) : (s.setCat k v).ctxs = s.ctxs := rfl
@[simp] theorem State.setCat_ctxActs (s : State) (k : Nat) (v : CatEntry) : (s.setCat k v).ctxActs = s.ctxActs := rfl
@[simp] theorem State.setCat_cmd (s : State) (k : Nat) (v : CatEntry) : (s.setCat k v).cmd = s.cmd := rfl
@[simp] theorem State.setCat_ctr (s : State) (k : Nat) (v : CatEntry) : (s.setCat k v).ctr = s.ctr := rfl
@[simp] theorem State.setCat_flt (s : State) (k : Nat) (v : CatEntry) : (s.setCat k v).flt = s.flt := rfl
@[simp] theorem State.setCat_brg (s : State) (k : Nat) (v : CatEntry) : (s.setCat k v).brg = s.brg := rfl
@[simp] theorem State.setCat_bndWaits (s : State) (k : Nat) (v : CatEntry) : (s.setCat k v).bndWaits = s.bndWaits := rfl
@[simp] theorem State.setCat_station (s : State) (k : Nat) (v : CatEntry) : (s.setCat k v).station = s.station := rfl
@[simp] theorem State.setCat_d3hot (s : State) (k : Nat) (v : CatEntry) : (s.setCat k v).d3hot = s.d3hot := rfl
@[simp] theorem State.setCat_d3depth (s : State) (k : Nat) (v : CatEntry) : (s.setCat k v).d3depth = s.d3depth := rfl
@[simp] theorem State.setCat_linkUp (s : State) (k : Nat) (v : CatEntry) : (s.setCat k v).linkUp = s.linkUp := rfl
@[simp] theorem State.setCat_tmax (s : State) (k : Nat) (v : CatEntry) : (s.setCat k v).tmax = s.tmax := rfl
@[simp] theorem State.setCat_pin (s : State) (k : Nat) (v : CatEntry) : (s.setCat k v).pin = s.pin := rfl
@[simp] theorem State.setCat_dbgOpen (s : State) (k : Nat) (v : CatEntry) : (s.setCat k v).dbgOpen = s.dbgOpen := rfl
@[simp] theorem State.setCat_ports (s : State) (k : Nat) (v : CatEntry) : (s.setCat k v).ports = s.ports := rfl
@[simp] theorem State.setCat_egress (s : State) (k : Nat) (v : CatEntry) : (s.setCat k v).egress = s.egress := rfl
@[simp] theorem State.setCat_hbm (s : State) (k : Nat) (v : CatEntry) : (s.setCat k v).hbm = s.hbm := rfl
@[simp] theorem State.setCat_bnd (s : State) (k : Nat) (v : CatEntry) : (s.setCat k v).bnd = s.bnd := rfl
@[simp] theorem State.setCat_fab (s : State) (k : Nat) (v : CatEntry) : (s.setCat k v).fab = s.fab := rfl
@[simp] theorem State.setCat_cols (s : State) (k : Nat) (v : CatEntry) : (s.setCat k v).cols = s.cols := rfl
@[simp] theorem State.setCat_slotRes (s : State) (k : Nat) (v : CatEntry) : (s.setCat k v).slotRes = s.slotRes := rfl
@[simp] theorem State.setCat_domSize (s : State) (k : Nat) (v : CatEntry) : (s.setCat k v).domSize = s.domSize := rfl
@[simp] theorem State.setCat_domLock (s : State) (k : Nat) (v : CatEntry) : (s.setCat k v).domLock = s.domLock := rfl
@[simp] theorem State.setCat_pwr (s : State) (k : Nat) (v : CatEntry) : (s.setCat k v).pwr = s.pwr := rfl
@[simp] theorem State.setCat_sec (s : State) (k : Nat) (v : CatEntry) : (s.setCat k v).sec = s.sec := rfl
@[simp] theorem State.setCat_mod (s : State) (k : Nat) (v : CatEntry) : (s.setCat k v).mod = s.mod := rfl
@[simp] theorem State.setCat_out (s : State) (k : Nat) (v : CatEntry) : (s.setCat k v).out = s.out := rfl

/-! ## `State.setArea` -/

@[simp] theorem State.setArea_pending (s : State) (k : Nat) (v : CatArea) : (s.setArea k v).pending = s.pending := rfl
@[simp] theorem State.setArea_now (s : State) (k : Nat) (v : CatArea) : (s.setArea k v).now = s.now := rfl
@[simp] theorem State.setArea_fresh (s : State) (k : Nat) (v : CatArea) : (s.setArea k v).fresh = s.fresh := rfl
@[simp] theorem State.setArea_mem (s : State) (k : Nat) (v : CatArea) : (s.setArea k v).mem = s.mem := rfl
@[simp] theorem State.setArea_host (s : State) (k : Nat) (v : CatArea) : (s.setArea k v).host = s.host := rfl
@[simp] theorem State.setArea_bad (s : State) (k : Nat) (v : CatArea) : (s.setArea k v).bad = s.bad := rfl
@[simp] theorem State.setArea_owner (s : State) (k : Nat) (v : CatArea) : (s.setArea k v).owner = s.owner := rfl
@[simp] theorem State.setArea_scratch (s : State) (k : Nat) (v : CatArea) : (s.setArea k v).scratch = s.scratch := rfl
@[simp] theorem State.setArea_eng (s : State) (k : Nat) (v : CatArea) : (s.setArea k v).eng = s.eng := rfl
@[simp] theorem State.setArea_closures (s : State) (k : Nat) (v : CatArea) : (s.setArea k v).closures = s.closures := rfl
@[simp] theorem State.setArea_stracts (s : State) (k : Nat) (v : CatArea) : (s.setArea k v).stracts = s.stracts := rfl
@[simp] theorem State.setArea_arc (s : State) (k : Nat) (v : CatArea) : (s.setArea k v).arc = s.arc := rfl
@[simp] theorem State.setArea_ctxs (s : State) (k : Nat) (v : CatArea) : (s.setArea k v).ctxs = s.ctxs := rfl
@[simp] theorem State.setArea_ctxActs (s : State) (k : Nat) (v : CatArea) : (s.setArea k v).ctxActs = s.ctxActs := rfl
@[simp] theorem State.setArea_cmd (s : State) (k : Nat) (v : CatArea) : (s.setArea k v).cmd = s.cmd := rfl
@[simp] theorem State.setArea_ctr (s : State) (k : Nat) (v : CatArea) : (s.setArea k v).ctr = s.ctr := rfl
@[simp] theorem State.setArea_flt (s : State) (k : Nat) (v : CatArea) : (s.setArea k v).flt = s.flt := rfl
@[simp] theorem State.setArea_brg (s : State) (k : Nat) (v : CatArea) : (s.setArea k v).brg = s.brg := rfl
@[simp] theorem State.setArea_bndWaits (s : State) (k : Nat) (v : CatArea) : (s.setArea k v).bndWaits = s.bndWaits := rfl
@[simp] theorem State.setArea_station (s : State) (k : Nat) (v : CatArea) : (s.setArea k v).station = s.station := rfl
@[simp] theorem State.setArea_d3hot (s : State) (k : Nat) (v : CatArea) : (s.setArea k v).d3hot = s.d3hot := rfl
@[simp] theorem State.setArea_d3depth (s : State) (k : Nat) (v : CatArea) : (s.setArea k v).d3depth = s.d3depth := rfl
@[simp] theorem State.setArea_linkUp (s : State) (k : Nat) (v : CatArea) : (s.setArea k v).linkUp = s.linkUp := rfl
@[simp] theorem State.setArea_tmax (s : State) (k : Nat) (v : CatArea) : (s.setArea k v).tmax = s.tmax := rfl
@[simp] theorem State.setArea_pin (s : State) (k : Nat) (v : CatArea) : (s.setArea k v).pin = s.pin := rfl
@[simp] theorem State.setArea_dbgOpen (s : State) (k : Nat) (v : CatArea) : (s.setArea k v).dbgOpen = s.dbgOpen := rfl
@[simp] theorem State.setArea_ports (s : State) (k : Nat) (v : CatArea) : (s.setArea k v).ports = s.ports := rfl
@[simp] theorem State.setArea_egress (s : State) (k : Nat) (v : CatArea) : (s.setArea k v).egress = s.egress := rfl
@[simp] theorem State.setArea_hbm (s : State) (k : Nat) (v : CatArea) : (s.setArea k v).hbm = s.hbm := rfl
@[simp] theorem State.setArea_bnd (s : State) (k : Nat) (v : CatArea) : (s.setArea k v).bnd = s.bnd := rfl
@[simp] theorem State.setArea_fab (s : State) (k : Nat) (v : CatArea) : (s.setArea k v).fab = s.fab := rfl
@[simp] theorem State.setArea_cols (s : State) (k : Nat) (v : CatArea) : (s.setArea k v).cols = s.cols := rfl
@[simp] theorem State.setArea_slotRes (s : State) (k : Nat) (v : CatArea) : (s.setArea k v).slotRes = s.slotRes := rfl
@[simp] theorem State.setArea_domSize (s : State) (k : Nat) (v : CatArea) : (s.setArea k v).domSize = s.domSize := rfl
@[simp] theorem State.setArea_domLock (s : State) (k : Nat) (v : CatArea) : (s.setArea k v).domLock = s.domLock := rfl
@[simp] theorem State.setArea_pwr (s : State) (k : Nat) (v : CatArea) : (s.setArea k v).pwr = s.pwr := rfl
@[simp] theorem State.setArea_sec (s : State) (k : Nat) (v : CatArea) : (s.setArea k v).sec = s.sec := rfl
@[simp] theorem State.setArea_mod (s : State) (k : Nat) (v : CatArea) : (s.setArea k v).mod = s.mod := rfl
@[simp] theorem State.setArea_out (s : State) (k : Nat) (v : CatArea) : (s.setArea k v).out = s.out := rfl

/-! ## `State.setCol` -/

@[simp] theorem State.setCol_pending (s : State) (k : Nat) (v : Col) : (s.setCol k v).pending = s.pending := rfl
@[simp] theorem State.setCol_now (s : State) (k : Nat) (v : Col) : (s.setCol k v).now = s.now := rfl
@[simp] theorem State.setCol_fresh (s : State) (k : Nat) (v : Col) : (s.setCol k v).fresh = s.fresh := rfl
@[simp] theorem State.setCol_mem (s : State) (k : Nat) (v : Col) : (s.setCol k v).mem = s.mem := rfl
@[simp] theorem State.setCol_host (s : State) (k : Nat) (v : Col) : (s.setCol k v).host = s.host := rfl
@[simp] theorem State.setCol_bad (s : State) (k : Nat) (v : Col) : (s.setCol k v).bad = s.bad := rfl
@[simp] theorem State.setCol_owner (s : State) (k : Nat) (v : Col) : (s.setCol k v).owner = s.owner := rfl
@[simp] theorem State.setCol_scratch (s : State) (k : Nat) (v : Col) : (s.setCol k v).scratch = s.scratch := rfl
@[simp] theorem State.setCol_eng (s : State) (k : Nat) (v : Col) : (s.setCol k v).eng = s.eng := rfl
@[simp] theorem State.setCol_closures (s : State) (k : Nat) (v : Col) : (s.setCol k v).closures = s.closures := rfl
@[simp] theorem State.setCol_stracts (s : State) (k : Nat) (v : Col) : (s.setCol k v).stracts = s.stracts := rfl
@[simp] theorem State.setCol_arc (s : State) (k : Nat) (v : Col) : (s.setCol k v).arc = s.arc := rfl
@[simp] theorem State.setCol_ctxs (s : State) (k : Nat) (v : Col) : (s.setCol k v).ctxs = s.ctxs := rfl
@[simp] theorem State.setCol_ctxActs (s : State) (k : Nat) (v : Col) : (s.setCol k v).ctxActs = s.ctxActs := rfl
@[simp] theorem State.setCol_cmd (s : State) (k : Nat) (v : Col) : (s.setCol k v).cmd = s.cmd := rfl
@[simp] theorem State.setCol_ctr (s : State) (k : Nat) (v : Col) : (s.setCol k v).ctr = s.ctr := rfl
@[simp] theorem State.setCol_flt (s : State) (k : Nat) (v : Col) : (s.setCol k v).flt = s.flt := rfl
@[simp] theorem State.setCol_brg (s : State) (k : Nat) (v : Col) : (s.setCol k v).brg = s.brg := rfl
@[simp] theorem State.setCol_cat (s : State) (k : Nat) (v : Col) : (s.setCol k v).cat = s.cat := rfl
@[simp] theorem State.setCol_bndWaits (s : State) (k : Nat) (v : Col) : (s.setCol k v).bndWaits = s.bndWaits := rfl
@[simp] theorem State.setCol_station (s : State) (k : Nat) (v : Col) : (s.setCol k v).station = s.station := rfl
@[simp] theorem State.setCol_d3hot (s : State) (k : Nat) (v : Col) : (s.setCol k v).d3hot = s.d3hot := rfl
@[simp] theorem State.setCol_d3depth (s : State) (k : Nat) (v : Col) : (s.setCol k v).d3depth = s.d3depth := rfl
@[simp] theorem State.setCol_linkUp (s : State) (k : Nat) (v : Col) : (s.setCol k v).linkUp = s.linkUp := rfl
@[simp] theorem State.setCol_tmax (s : State) (k : Nat) (v : Col) : (s.setCol k v).tmax = s.tmax := rfl
@[simp] theorem State.setCol_pin (s : State) (k : Nat) (v : Col) : (s.setCol k v).pin = s.pin := rfl
@[simp] theorem State.setCol_dbgOpen (s : State) (k : Nat) (v : Col) : (s.setCol k v).dbgOpen = s.dbgOpen := rfl
@[simp] theorem State.setCol_ports (s : State) (k : Nat) (v : Col) : (s.setCol k v).ports = s.ports := rfl
@[simp] theorem State.setCol_egress (s : State) (k : Nat) (v : Col) : (s.setCol k v).egress = s.egress := rfl
@[simp] theorem State.setCol_hbm (s : State) (k : Nat) (v : Col) : (s.setCol k v).hbm = s.hbm := rfl
@[simp] theorem State.setCol_bnd (s : State) (k : Nat) (v : Col) : (s.setCol k v).bnd = s.bnd := rfl
@[simp] theorem State.setCol_fab (s : State) (k : Nat) (v : Col) : (s.setCol k v).fab = s.fab := rfl
@[simp] theorem State.setCol_slotRes (s : State) (k : Nat) (v : Col) : (s.setCol k v).slotRes = s.slotRes := rfl
@[simp] theorem State.setCol_domSize (s : State) (k : Nat) (v : Col) : (s.setCol k v).domSize = s.domSize := rfl
@[simp] theorem State.setCol_domLock (s : State) (k : Nat) (v : Col) : (s.setCol k v).domLock = s.domLock := rfl
@[simp] theorem State.setCol_pwr (s : State) (k : Nat) (v : Col) : (s.setCol k v).pwr = s.pwr := rfl
@[simp] theorem State.setCol_sec (s : State) (k : Nat) (v : Col) : (s.setCol k v).sec = s.sec := rfl
@[simp] theorem State.setCol_mod (s : State) (k : Nat) (v : Col) : (s.setCol k v).mod = s.mod := rfl
@[simp] theorem State.setCol_out (s : State) (k : Nat) (v : Col) : (s.setCol k v).out = s.out := rfl

/-! ## `State.answer` -/

@[simp] theorem State.answer_pending (s : State) (v : Out) : (s.answer v).pending = s.pending := rfl
@[simp] theorem State.answer_now (s : State) (v : Out) : (s.answer v).now = s.now := rfl
@[simp] theorem State.answer_fresh (s : State) (v : Out) : (s.answer v).fresh = s.fresh := rfl
@[simp] theorem State.answer_mem (s : State) (v : Out) : (s.answer v).mem = s.mem := rfl
@[simp] theorem State.answer_host (s : State) (v : Out) : (s.answer v).host = s.host := rfl
@[simp] theorem State.answer_bad (s : State) (v : Out) : (s.answer v).bad = s.bad := rfl
@[simp] theorem State.answer_owner (s : State) (v : Out) : (s.answer v).owner = s.owner := rfl
@[simp] theorem State.answer_scratch (s : State) (v : Out) : (s.answer v).scratch = s.scratch := rfl
@[simp] theorem State.answer_eng (s : State) (v : Out) : (s.answer v).eng = s.eng := rfl
@[simp] theorem State.answer_closures (s : State) (v : Out) : (s.answer v).closures = s.closures := rfl
@[simp] theorem State.answer_stracts (s : State) (v : Out) : (s.answer v).stracts = s.stracts := rfl
@[simp] theorem State.answer_arc (s : State) (v : Out) : (s.answer v).arc = s.arc := rfl
@[simp] theorem State.answer_ctxs (s : State) (v : Out) : (s.answer v).ctxs = s.ctxs := rfl
@[simp] theorem State.answer_ctxActs (s : State) (v : Out) : (s.answer v).ctxActs = s.ctxActs := rfl
@[simp] theorem State.answer_cmd (s : State) (v : Out) : (s.answer v).cmd = s.cmd := rfl
@[simp] theorem State.answer_ctr (s : State) (v : Out) : (s.answer v).ctr = s.ctr := rfl
@[simp] theorem State.answer_flt (s : State) (v : Out) : (s.answer v).flt = s.flt := rfl
@[simp] theorem State.answer_brg (s : State) (v : Out) : (s.answer v).brg = s.brg := rfl
@[simp] theorem State.answer_cat (s : State) (v : Out) : (s.answer v).cat = s.cat := rfl
@[simp] theorem State.answer_bndWaits (s : State) (v : Out) : (s.answer v).bndWaits = s.bndWaits := rfl
@[simp] theorem State.answer_station (s : State) (v : Out) : (s.answer v).station = s.station := rfl
@[simp] theorem State.answer_d3hot (s : State) (v : Out) : (s.answer v).d3hot = s.d3hot := rfl
@[simp] theorem State.answer_d3depth (s : State) (v : Out) : (s.answer v).d3depth = s.d3depth := rfl
@[simp] theorem State.answer_linkUp (s : State) (v : Out) : (s.answer v).linkUp = s.linkUp := rfl
@[simp] theorem State.answer_tmax (s : State) (v : Out) : (s.answer v).tmax = s.tmax := rfl
@[simp] theorem State.answer_pin (s : State) (v : Out) : (s.answer v).pin = s.pin := rfl
@[simp] theorem State.answer_dbgOpen (s : State) (v : Out) : (s.answer v).dbgOpen = s.dbgOpen := rfl
@[simp] theorem State.answer_ports (s : State) (v : Out) : (s.answer v).ports = s.ports := rfl
@[simp] theorem State.answer_egress (s : State) (v : Out) : (s.answer v).egress = s.egress := rfl
@[simp] theorem State.answer_hbm (s : State) (v : Out) : (s.answer v).hbm = s.hbm := rfl
@[simp] theorem State.answer_bnd (s : State) (v : Out) : (s.answer v).bnd = s.bnd := rfl
@[simp] theorem State.answer_fab (s : State) (v : Out) : (s.answer v).fab = s.fab := rfl
@[simp] theorem State.answer_cols (s : State) (v : Out) : (s.answer v).cols = s.cols := rfl
@[simp] theorem State.answer_slotRes (s : State) (v : Out) : (s.answer v).slotRes = s.slotRes := rfl
@[simp] theorem State.answer_domSize (s : State) (v : Out) : (s.answer v).domSize = s.domSize := rfl
@[simp] theorem State.answer_domLock (s : State) (v : Out) : (s.answer v).domLock = s.domLock := rfl
@[simp] theorem State.answer_pwr (s : State) (v : Out) : (s.answer v).pwr = s.pwr := rfl
@[simp] theorem State.answer_sec (s : State) (v : Out) : (s.answer v).sec = s.sec := rfl
@[simp] theorem State.answer_mod (s : State) (v : Out) : (s.answer v).mod = s.mod := rfl

/-! ## Reading a part after it, or another, has been replaced -/

@[simp] theorem State.engOf_setEng (s : State) (k : Nat) (e : Eng) : (s.setEng k e).engOf k = e := by
  simp [State.engOf, State.setEng]

theorem State.engOf_setEng_ne (s : State) {k j : Nat} (e : Eng) (h : j ≠ k) : (s.setEng k e).engOf j = s.engOf j := by
  simp [State.engOf, State.setEng, Map.getD_putD_ne _ _ _ h]

/-- A field of the state that is not the engines does not matter to an engine. -/
theorem State.engOf_congr {s t : State} (h : t.eng = s.eng) (k : Nat) : t.engOf k = s.engOf k := by
  simp [State.engOf, h]

@[simp] theorem Sync.queue_setQueue (y : Sync) (q : Q) (v : Queue) : (y.setQueue q v).queue q = v := by cases q <;> rfl

theorem Sync.queue_setQueue_ne (y : Sync) {q r : Q} (v : Queue) (h : r ≠ q) : (y.setQueue q v).queue r = y.queue r := by
  cases q <;> cases r <;> first | rfl | exact absurd rfl h

@[simp] theorem Sync.setQueue_setQueue (y : Sync) (q : Q) (v w : Queue) : (y.setQueue q v).setQueue q w = y.setQueue q w := by
  cases q <;> rfl

@[simp] theorem State.queue_setQueue (s : State) (k : Nat) (q : Q) (v : Queue) : (s.setQueue k q v).queue k q = v := by
  simp [State.queue, State.setQueue, State.setSync]

@[simp] theorem State.ctx_setCtx (s : State) (c : Nat) (v : Ctx) : (s.setCtx c v).ctx c = v := by
  simp [State.ctx, State.setCtx]

theorem State.ctx_setCtx_ne (s : State) {c d : Nat} (v : Ctx) (h : d ≠ c) : (s.setCtx c v).ctx d = s.ctx d := by
  simp [State.ctx, State.setCtx, Map.getD_putD_ne _ _ _ h]

@[simp] theorem State.closure_setClosure (s : State) (k : Nat) (v : Closure) : (s.setClosure k v).closure k = v := by
  simp [State.closure, State.setClosure]

theorem State.closure_setClosure_ne (s : State) {k j : Nat} (v : Closure) (h : j ≠ k) :
    (s.setClosure k v).closure j = s.closure j := by
  simp [State.closure, State.setClosure, Map.getD_putD_ne _ _ _ h]

@[simp] theorem State.shelf_setShelf (s : State) (k : Nat) (v : Shelf) : (s.setShelf k v).shelf k = v := by
  simp [State.shelf, State.setShelf]

theorem State.shelf_setShelf_ne (s : State) {k j : Nat} (v : Shelf) (h : j ≠ k) : (s.setShelf k v).shelf j = s.shelf j := by
  simp [State.shelf, State.setShelf, Map.getD, Map.find_putD_ne _ _ _ h]

@[simp] theorem State.slice_setSlice (s : State) (k : Nat) (v : Slice) : (s.setSlice k v).slice k = v := by
  simp [State.slice, State.setSlice]

theorem State.slice_setSlice_ne (s : State) {k j : Nat} (v : Slice) (h : j ≠ k) : (s.setSlice k v).slice j = s.slice j := by
  simp [State.slice, State.setSlice, Map.getD_putD_ne _ _ _ h]

@[simp] theorem State.sub_setSub (s : State) (k : Nat) (v : SubRing) : (s.setSub k v).sub k = v := by
  simp [State.sub, State.setSub]

theorem State.sub_setSub_ne (s : State) {k j : Nat} (v : SubRing) (h : j ≠ k) : (s.setSub k v).sub j = s.sub j := by
  simp [State.sub, State.setSub, Map.getD_putD_ne _ _ _ h]

@[simp] theorem State.rcp_setRcp (s : State) (k : Nat) (v : RcpRing) : (s.setRcp k v).rcp k = v := by
  simp [State.rcp, State.setRcp]

theorem State.rcp_setRcp_ne (s : State) {k j : Nat} (v : RcpRing) (h : j ≠ k) : (s.setRcp k v).rcp j = s.rcp j := by
  simp [State.rcp, State.setRcp, Map.getD_putD_ne _ _ _ h]

@[simp] theorem State.svcOf_setSvc (s : State) (k : Nat) (v : Svc) : (s.setSvc k v).svcOf k = v := by
  simp [State.svcOf, State.setSvc]

theorem State.svcOf_setSvc_ne (s : State) {k j : Nat} (v : Svc) (h : j ≠ k) : (s.setSvc k v).svcOf j = s.svcOf j := by
  simp [State.svcOf, State.setSvc, Map.getD_putD_ne _ _ _ h]

@[simp] theorem State.port_setPort (s : State) (k : Nat) (v : SubPort) : (s.setPort k v).port k = v := by
  simp [State.port, State.setPort]

theorem State.port_setPort_ne (s : State) {k j : Nat} (v : SubPort) (h : j ≠ k) : (s.setPort k v).port j = s.port j := by
  simp [State.port, State.setPort, Map.getD_putD_ne _ _ _ h]

@[simp] theorem State.stack_setStack (s : State) (k : Nat) (v : Stack) : (s.setStack k v).stack k = v := by
  simp [State.stack, State.setStack]

theorem State.stack_setStack_ne (s : State) {k j : Nat} (v : Stack) (h : j ≠ k) : (s.setStack k v).stack j = s.stack j := by
  simp [State.stack, State.setStack, Map.getD_putD_ne _ _ _ h]

@[simp] theorem State.bindery_setBindery (s : State) (k : Nat) (v : Bindery) : (s.setBindery k v).bindery k = v := by
  simp [State.bindery, State.setBindery]

theorem State.bindery_setBindery_ne (s : State) {k j : Nat} (v : Bindery) (h : j ≠ k) :
    (s.setBindery k v).bindery j = s.bindery j := by
  simp [State.bindery, State.setBindery, Map.getD_putD_ne _ _ _ h]

/-- A counter moves by what is added, modulo 2^48, and no other moves. -/
theorem State.count_delta (s : State) (k n j : Nat) :
    Map.getD (s.count k n).ctr.delta j 0 =
      if j = k then (Map.getD s.ctr.delta k 0 + n) % 2 ^ 48 else Map.getD s.ctr.delta j 0 := by
  simp [State.count, Map.getD_putD]

/-- Counting several counters changes the deltas alone. -/
theorem State.countAll_frame (s : State) (ks : List Nat) :
    s.countAll ks = { s with ctr := { s.ctr with delta := (s.countAll ks).ctr.delta } } := by
  unfold State.countAll
  induction ks generalizing s with
  | nil => rfl
  | cons k ks ih => rw [List.foldl_cons, ih (s.count k)]; rfl

end Sys2Proof.Machine
end

