-- ==== Sys2Proof/Laws/Frames.lean ====
section
/-! SUPPORT. How an entry issues and ends, in the terms of the frames: what statements about queue entries are proved from. -/

namespace Sys2Proof.Machine

/-! ## One engine replaced -/

theorem UnitsOnly.refl (s : State) : UnitsOnly s s := rfl

theorem UnitsOnly.trans {s t u : State} (h : UnitsOnly s t) (g : UnitsOnly t u) : UnitsOnly s u := by
  unfold UnitsOnly at *; rw [g, h]

theorem UnitsOnly.setEng (s : State) (k : Nat) (e : Eng) : UnitsOnly s (s.setEng k e) := rfl

theorem EngStep.refl (s : State) (k : Nat) : EngStep s s k (s.engOf k) := ⟨rfl, rfl, fun _ _ => rfl⟩

/-- The engine replaced once more. -/
theorem EngStep.set {s t : State} {k : Nat} {e : Eng} (h : EngStep s t k e) (e' : Eng) : EngStep s (t.setEng k e') k e' :=
  ⟨h.rest.trans (UnitsOnly.setEng t k e'), State.engOf_setEng t k e',
    fun j hj => (State.engOf_setEng_ne t e' hj).trans (h.away j hj)⟩

theorem EngStep.of_setEng (s : State) (k : Nat) (e : Eng) : EngStep s (s.setEng k e) k e := (EngStep.refl s k).set e

theorem EngStep.setQueue {s t : State} {k : Nat} {e : Eng} (h : EngStep s t k e) (q : Q) (w : Queue) :
    EngStep s (t.setQueue k q w) k { e with sync := e.sync.setQueue q w } := by
  unfold State.setQueue State.setSync; rw [h.here]; exact h.set _

theorem EngStep.setMat {s t : State} {k : Nat} {e : Eng} (h : EngStep s t k e) (m : Mat) :
    EngStep s (t.setMat k m) k { e with mat := m } := by
  unfold State.setMat; rw [h.here]; exact h.set _

theorem EngStep.setVec {s t : State} {k : Nat} {e : Eng} (h : EngStep s t k e) (v : Vec) :
    EngStep s (t.setVec k v) k { e with vec := v } := by
  unfold State.setVec; rw [h.here]; exact h.set _

theorem EngStep.setX {s t : State} {k : Nat} {e : Eng} (h : EngStep s t k e) (x : Option XRun) :
    EngStep s (t.setX k x) k { e with x := x } := by
  unfold State.setX; rw [h.here]; exact h.set _

/-- Every part of the state but the engines and the gated domains stands as it was. -/
theorem EngStep.eq {s t : State} {k : Nat} {e : Eng} (h : EngStep s t k e) :
    t = { s with eng := t.eng, mod := { s.mod with gated := t.mod.gated } } := h.rest

/-- What changes neither engines nor gated domains may come before or after. -/
theorem EngStep.map {s t : State} {k : Nat} {e : Eng} (h : EngStep s t k e) (f : State → State)
    (hf : ∀ (s : State) (g : Map Eng) (w : Map Bool),
      f { s with eng := g, mod := { s.mod with gated := w } } = { f s with eng := g, mod := { (f s).mod with gated := w } })
    (he : ∀ s : State, (f s).eng = s.eng) : EngStep (f s) (f t) k e := by
  refine ⟨?_, ?_, ?_⟩
  · have := hf s t.eng t.mod.gated
    rw [← h.rest] at this
    unfold UnitsOnly
    rw [this]
  · rw [State.engOf_congr (he t)]; exact h.here
  · intro j hj; rw [State.engOf_congr (he t), State.engOf_congr (he s)]; exact h.away j hj

theorem EngStep.count {s t : State} {k : Nat} {e : Eng} (h : EngStep s t k e) (i n : Nat) :
    EngStep (s.count i n) (t.count i n) k e := h.map (fun s => s.count i n) (fun _ _ _ => rfl) fun _ => rfl

theorem EngStep.countAll {s t : State} {k : Nat} {e : Eng} (h : EngStep s t k e) (is : List Nat) :
    EngStep (s.countAll is) (t.countAll is) k e := by
  unfold State.countAll
  induction is generalizing s t with
  | nil => exact h
  | cons i is ih => exact ih (h.count i 1)

theorem EngStep.countShed {s t : State} {k : Nat} {e : Eng} (h : EngStep s t k e) (i : Nat) (vs : List ShedEv) :
    EngStep (s.countShed i vs) (t.countShed i vs) k e := h.countAll _

theorem EngStep.store {s t : State} {k : Nat} {e : Eng} (h : EngStep s t k e) (a : Nat) (bs : List Byte) :
    EngStep (s.store a bs) (t.store a bs) k e := h.map (fun s => s.store a bs) (fun _ _ _ => rfl) fun _ => rfl

theorem EngStep.putNibs {s t : State} {k : Nat} {e : Eng} (h : EngStep s t k e) (ws : List (Nat × Nat × Nat)) :
    EngStep (s.putNibs ws) (t.putNibs ws) k e := h.map (fun s => s.putNibs ws) (fun _ _ _ => rfl) fun _ => rfl

/-! ## Issue and end of an entry -/

/-- In a parcel an entry runs where it issues (R153). -/
theorem State.issue_parcel {s : State} {u c : Nat} {q : Q} {op : Nat} {e : Entry} (h0 : unitOrder u = 0)
    (h : Ready s u q c) (ho : fld e 0 8 = op) (run : State → Nat → Nat → Nat → Entry → State) :
    s.issue u q op e run = run (s.advance c u q) c u (s.queue (engKey c u) q).pc e := by
  simp [State.issue, h.issuer, h.fetches, h0, ho]

/-- A synchronisation entry runs where it issues. -/
theorem State.syncIssue_ready {s : State} {u c : Nat} {q : Q} {op : Nat} {e : Entry} (h : SyncReady s u q c op)
    (ho : fld e 0 8 = op) (hk : syncOk (unitOrder u) e = true) (run : State → Nat → Nat → State) :
    s.syncIssue u q op e run = run (s.advance c u q) c (s.queue (engKey c u) q).pc := by
  simp [State.syncIssue, h.issuer, h.fetches, h.quiet, h.done, ho, hk]

/-- The queue after its next entry has issued. -/
theorem State.advance_step (s : State) (c u : Nat) (q : Q) :
    EngStep s (s.advance c u q) (engKey c u) { s.engOf (engKey c u) with
      sync := (s.engOf (engKey c u)).sync.setQueue q
        (s.queue (engKey c u) q).advanced } :=
  (EngStep.refl s _).setQueue q _

/-- An entry that ends with DONE leaves the head of its queue. -/
theorem State.endEntry_done (s : State) (c u : Nat) (q : Q) (a : Nat) : s.endEntry c u q a 0 = s.leaveHead c u q := rfl

theorem EngStep.leaveHead {s t : State} {c u : Nat} {e : Eng} (h : EngStep s t (engKey c u) e) (q : Q) :
    EngStep s (t.leaveHead c u q) (engKey c u)
      { e with sync := e.sync.setQueue q { e.sync.queue q with head := none } } := by
  have := h.setQueue q { e.sync.queue q with head := none }
  unfold State.leaveHead State.queue
  rw [h.here]; exact this

theorem EngStep.waitHead {s t : State} {c u : Nat} {e : Eng} (h : EngStep s t (engKey c u) e) (q : Q) (w : Head) :
    EngStep s (t.waitHead c u q w) (engKey c u)
      { e with sync := e.sync.setQueue q { e.sync.queue q with head := some w, since := s.now, t2rem := s.t2 } } := by
  have hn : t.now = s.now := by rw [h.rest]
  have hl : t.t2 = s.t2 := by rw [h.rest]; rfl
  have := h.setQueue q { e.sync.queue q with head := some w, since := s.now, t2rem := s.t2 }
  unfold State.waitHead State.queue
  rw [h.here, hn, hl]; exact this

/-! ## What packets, receipts, events and log entries change -/

/-- Nothing differs but what was sent or is to be sent: host memory, the command interface, the counters, the fault state,
the alert pin, the packets on their way and the bytes of the ports. -/
def LogOnly (s t : State) : Prop :=
  t = { s with host := t.host, cmd := t.cmd, ctr := t.ctr, flt := t.flt, fab := t.fab, egress := t.egress,
               mod := { s.mod with alertLow := t.mod.alertLow }, out := t.out }

theorem LogOnly.refl (s : State) : LogOnly s s := rfl

theorem LogOnly.trans {s t u : State} (h : LogOnly s t) (g : LogOnly t u) : LogOnly s u := by
  unfold LogOnly at *; rw [g, h]

theorem LogOnly.eng {s t : State} (h : LogOnly s t) : t.eng = s.eng := by rw [h]

theorem LogOnly.mem {s t : State} (h : LogOnly s t) : t.mem = s.mem := by rw [h]

theorem LogOnly.ite {s t u : State} {p : Prop} [Decidable p] (h : LogOnly s t) (g : LogOnly s u) :
    LogOnly s (if p then t else u) := by split <;> assumption

theorem State.count_logOnly (s : State) (i n : Nat) : LogOnly s (s.count i n) := rfl

theorem State.withFlt_logOnly (s : State) (f : Flt) : LogOnly s { s with flt := f } := rfl

theorem State.withCmd_logOnly (s : State) (c : CmdIf) : LogOnly s { s with cmd := c } := rfl

theorem State.setRcp_logOnly (s : State) (q : Nat) (v : RcpRing) : LogOnly s (s.setRcp q v) := rfl

theorem State.placePacket_logOnly (s : State) (k : Packet) (i : Nat) : LogOnly s (s.placePacket k i).1 := by
  unfold State.placePacket
  split
  · rfl
  · split
    · unfold State.enqueue; dsimp only; split <;> rfl
    · rfl

theorem State.sendOn_logOnly (s : State) (k : Packet) : LogOnly s (s.sendOn k) := by
  unfold State.sendOn State.routePacket
  have h := State.placePacket_logOnly s k 128
  split
  · rename_i s1 e; rw [e] at h; exact h
  · rename_i s1 st e
    rw [e] at h
    refine h.trans ?_
    unfold State.noticeOf
    split
    · exact State.placePacket_logOnly _ _ _
    · exact LogOnly.refl _

theorem State.fwmsg_logOnly (s : State) (d c : Nat) (bs : List Byte) (r : Option Started) : LogOnly s (s.fwmsg d c bs r) := by
  unfold State.fwmsg; dsimp only
  exact LogOnly.trans (t := { s with fab := _ }) rfl (State.sendOn_logOnly _ _)

theorem State.report_logOnly (s : State) (k sev : Nat) (bs : List Byte) : LogOnly s (s.report k sev bs) := by
  unfold State.report
  extract_lets sec sent src bs f
  refine LogOnly.ite ((State.withFlt_logOnly s _).trans (State.count_logOnly _ _ _)) ?_
  refine (((State.withFlt_logOnly s f).trans ?_).trans (State.count_logOnly _ _ _))
  unfold State.reportOut
  split
  · rfl
  · split
    · exact State.fwmsg_logOnly _ _ _ _ _
    · exact LogOnly.refl _

theorem State.signal_logOnly (s : State) (v : Nat) : LogOnly s (s.signal v) := by
  unfold State.signal; split <;> rfl

theorem State.signalRing_logOnly (s : State) (q : Nat) : LogOnly s (s.signalRing q) := by
  unfold State.signalRing; dsimp only
  split
  · exact (State.setRcp_logOnly s q _).trans (State.signal_logOnly _ _)
  · exact LogOnly.refl s

theorem State.putReceipt_logOnly (s : State) (r : Receipt) : LogOnly s (s.putReceipt r) := by
  unfold State.putReceipt; dsimp only
  split
  · exact LogOnly.refl s
  · exact LogOnly.trans (LogOnly.trans (t := s.hostStore _ _) rfl (State.setRcp_logOnly _ _ _))
      (State.signalRing_logOnly _ _)

theorem State.eventPut_logOnly (s : State) (k st : Nat) (r : List Byte) : LogOnly s (s.eventPut k st r) :=
  (State.withCmd_logOnly s _).trans (State.putReceipt_logOnly _ _)

theorem State.lostEvents_logOnly (s : State) : LogOnly s s.lostEvents := by
  unfold State.lostEvents
  split
  · exact (State.withCmd_logOnly s _).trans (State.eventPut_logOnly _ _ _ _)
  · exact LogOnly.refl s

theorem State.event_logOnly (s : State) (k st : Nat) (r : List Byte) : LogOnly s (s.event k st r) := by
  unfold State.event
  split
  · exact State.eventPut_logOnly _ _ _ _
  · exact ((State.withCmd_logOnly s _).trans (State.count_logOnly _ _ _)).trans (State.lostEvents_logOnly _)

theorem State.withAlert_logOnly (s : State) (f : Flt) (b : Bool) :
    LogOnly s { s with flt := f, mod := if b then { s.mod with alertLow := true } else s.mod } := by cases b <;> rfl

theorem State.logNew_logOnly (s : State) (kind st sev u a r : Nat) (d : List Byte) :
    LogOnly s (s.logNew kind st sev u a r d) :=
  (((State.withAlert_logOnly s _ _).trans (State.count_logOnly _ _ _)).trans (State.event_logOnly _ _ _ _)).trans
    (State.report_logOnly _ _ _ _)

/-- An entry into the fault log, with its receipts and reports, changes nothing but what is sent. -/
theorem State.log_logOnly (s : State) (kind st sev u a r : Nat) (d : List Byte) :
    LogOnly s (s.log kind st sev u a r d) := by
  unfold State.log; dsimp only
  split
  · exact State.withFlt_logOnly s _
  · exact State.logNew_logOnly _ _ _ _ _ _ _ _

/-! ## What an access changes -/

/-- Nothing differs but the caches, the lines known to be lost, the counters, and which domains run. -/
def AccessOnly (s t : State) : Prop :=
  t = { s with arc := { s.arc with cache := t.arc.cache }, bad := t.bad, ctr := t.ctr,
               mod := { s.mod with gated := t.mod.gated, awake := t.mod.awake } }

theorem AccessOnly.refl (s : State) : AccessOnly s s := rfl

theorem AccessOnly.trans {s t u : State} (h : AccessOnly s t) (g : AccessOnly t u) : AccessOnly s u := by
  unfold AccessOnly at *; rw [g, h]

theorem AccessOnly.eng {s t : State} (h : AccessOnly s t) : t.eng = s.eng := by rw [h]

theorem AccessOnly.mem {s t : State} (h : AccessOnly s t) : t.mem = s.mem := by rw [h]

theorem AccessOnly.foldl {α : Type} {f : State → α → State} (hf : ∀ s x, AccessOnly s (f s x)) (l : List α) (s : State) :
    AccessOnly s (l.foldl f s) := by
  induction l generalizing s with
  | nil => exact AccessOnly.refl s
  | cons x l ih => exact (hf s x).trans (ih _)

theorem State.count_accessOnly (s : State) (i n : Nat) : AccessOnly s (s.count i n) := rfl

theorem State.setWays_accessOnly (s : State) (k : Nat) (w : List CLine) : AccessOnly s (s.setWays k w) := rfl

theorem State.dropLine_accessOnly (s : State) (k : Nat) (l : CLine) : AccessOnly s (s.dropLine k l) := by
  unfold State.dropLine; split <;> rfl

theorem State.countAll_accessOnly (s : State) (is : List Nat) : AccessOnly s (s.countAll is) :=
  AccessOnly.foldl (fun s i => State.count_accessOnly s i 1) is s

theorem State.wakeMem_accessOnly (s : State) (n a : Nat) : AccessOnly s (s.wakeMem n a) := by
  unfold State.wakeMem; split <;> rfl

theorem State.cacheLine_accessOnly (s : State) (w : Bool) (a : Nat) : AccessOnly s (s.cacheLine w a) := by
  unfold State.cacheLine
  split
  · split <;> rfl
  · dsimp only
    split
    · rfl
    · split
      · rfl
      · refine AccessOnly.trans ?_ (State.countAll_accessOnly _ _)
        have h := fun v => ((State.count_accessOnly s (ctrSlice (sliceOf a) + 3) 1).trans
          (State.setWays_accessOnly _ (cacheKey a) v)).trans
          (AccessOnly.foldl (fun s l => State.dropLine_accessOnly s (cacheKey a) l)
            ((Map.getD s.arc.cache (cacheKey a) []).drop 15) _)
        split
        · exact h _
        · exact (h _).trans (State.count_accessOnly _ _ _)

/-- An access changes no memory, no unit, no register. -/
theorem State.access_accessOnly (s : State) (cls : Cls) (w : Bool) (a len : Nat) : AccessOnly s (s.access cls w a len) := by
  unfold State.access
  split
  · rfl
  · exact ((State.wakeMem_accessOnly s _ _).trans (State.count_accessOnly _ _ _)).trans (State.count_accessOnly _ _ _)
  · refine AccessOnly.foldl (fun s a => ?_) _ s
    exact (((State.wakeMem_accessOnly s _ _).trans (State.count_accessOnly _ _ _)).trans
      (State.count_accessOnly _ _ _)).trans (State.cacheLine_accessOnly _ _ _)

/-- What a slice reads of an image (R332). -/
theorem State.imageAccess_accessOnly (s : State) (c : Nat) (w : Bool) : AccessOnly s (s.imageAccess c w) :=
  AccessOnly.foldl (fun s _ => State.access_accessOnly s _ _ _ _) _ s

theorem State.copyLost_bad (s : State) (dst src len : Nat) :
    s.copyLost dst src len = { s with mem := s.mem.copy dst src len, bad := (s.copyLost dst src len).bad } := by
  have lost : ∀ (l : List Nat) (f : Nat → Nat) (s : State), ∃ b, l.foldl (fun s i => s.lose (f i)) s = { s with bad := b } := by
    intro l f
    induction l with
    | nil => exact fun s => ⟨s.bad, rfl⟩
    | cons i l ih => exact fun s => (ih (s.lose (f i))).imp fun b h => h
  have all : ∀ (ks : List Nat) (n : Nat → Nat) (f : Nat → Nat → Nat) (s : State),
      ∃ b, ks.foldl (fun s k => (List.range (n k)).foldl (fun s i => s.lose (f k i)) s) s = { s with bad := b } := by
    intro ks n f
    induction ks with
    | nil => exact fun s => ⟨s.bad, rfl⟩
    | cons k ks ih =>
      intro s
      obtain ⟨b, h⟩ := lost (List.range (n k)) (f k) s
      rw [List.foldl_cons, h]
      exact (ih _).imp fun b' h' => h'
  obtain ⟨b, h⟩ := all (s.badKeys src len) (fun k => (min (k + badSpan k) (src + len) - max k src + 15) / 16)
    (fun k i => dst + (max k src - src) + 16 * i) { s with
      mem := s.mem.copy dst src len
      bad := Map.keep s.bad fun k _ => !(decide (dst ≤ k) && decide (k + badSpan k ≤ dst + len)) }
  have e : s.copyLost dst src len = { s with mem := s.mem.copy dst src len, bad := b } := h
  rw [e]

theorem AccessOnly.copyLost {s t : State} (h : AccessOnly s t) (d a n : Nat) : AccessOnly (s.copyLost d a n) (t.copyLost d a n) := by
  have y := State.copyLost_bad t d a n
  have x := State.copyLost_bad s d a n
  generalize t.copyLost d a n = t1 at y ⊢
  generalize s.copyLost d a n = s1 at x ⊢
  unfold AccessOnly at *
  rw [y, x, h]

/-- What a slice-in copies does not depend on what its accesses changed. -/
theorem AccessOnly.copyIn {s t : State} (h : AccessOnly s t) (v : Ctx) : AccessOnly (s.copyIn v) (t.copyIn v) := by
  unfold State.copyIn
  generalize footParcels v.foot = ps
  induction ps generalizing s t with
  | nil => exact h
  | cons p ps ih => exact ih (h.copyLost _ _ _)

theorem AccessOnly.blocks (c : Nat) (v : Ctx) (us : List Nat) {s t : State} (h : AccessOnly s t) :
    (us.foldl (fun o u => o.bind fun s => (s.blockIn c u (v.blockAddr u) true).map fun e => s.placeEng (engKey c u) e)
      (some t)).map (·.eng) =
    (us.foldl (fun o u => o.bind fun s => (s.blockIn c u (v.blockAddr u) true).map fun e => s.placeEng (engKey c u) e)
      (some s)).map (·.eng) := by
  have nothing : ∀ us : List Nat, us.foldl (fun (o : Option State) u => o.bind fun s =>
      (s.blockIn c u (v.blockAddr u) true).map fun e => s.placeEng (engKey c u) e) none = none := by
    intro us
    induction us with
    | nil => rfl
    | cons u us ih => exact ih
  induction us generalizing s t with
  | nil => exact congrArg some h.eng
  | cons u us ih =>
    have e : t.blockIn c u (v.blockAddr u) true = s.blockIn c u (v.blockAddr u) true := by rw [h]; rfl
    simp only [List.foldl_cons, Option.bind_some, e]
    rcases s.blockIn c u (v.blockAddr u) true with _ | x
    · simp only [Option.map_none, nothing]
    · refine ih (?_ : AccessOnly (s.placeEng (engKey c u) x) (t.placeEng (engKey c u) x))
      unfold AccessOnly at h ⊢
      rw [h]
      rfl

/-- Nor does what it takes from the state blocks. -/
theorem AccessOnly.blocksIn {s t : State} (h : AccessOnly s t) (c : Nat) :
    (t.blocksIn c).map (·.eng) = (s.blocksIn c).map (·.eng) := by
  have hc : t.ctx c = s.ctx c := by rw [h]; rfl
  unfold State.blocksIn
  rw [hc]
  exact h.blocks c _ _

end Sys2Proof.Machine
end

