-- ==== Sys2Proof/Tests/Slice0.lean ====
section
/-! SUPPORT. The model's own tests: for every statement with hypotheses a state and operands that meet them, each clause at
a value of its own; the spec's worked examples; terms that spell no command. -/

open Sys2Proof

set_option Elab.async false

namespace Sys2Proof.Machine

/-- On an empty queue the block idles. -/
theorem test_idle : step State.reset = .next State.reset := rfl

/-- A word with its fields at their lowest bits. -/
def ent (fs : List (Nat × Nat)) : Entry := BitVec.ofNat 128 (fs.foldl (fun a x => a + x.2 * 2 ^ x.1) 0)

/-- Context 0 RUNNING on the whole die. -/
def run0 : State := State.reset.setCtx 0 { Ctx.free with st := .running, foot := 2 ^ 64 - 1 }

/-- A queue of a unit of context 0 running, with nothing at its head. -/
def State.runs (s : State) (u : Nat) (q : Q) : State := s.setQueue (engKey 0 u) q { Queue.empty with run := .running }

/-- An entry that waits in its engine at the head of a queue of context 0. -/
def State.heads (s : State) (u : Nat) (q : Q) (e : Entry) (k : WaitKind := .engine) : State :=
  s.setQueue (engKey 0 u) q { Queue.empty with run := .running, head := some ⟨7, e, k⟩ }

theorem ready_of {s : State} {u c : Nat} {q : Q}
    (h : (s.issuer u q == some c && s.fetches c u q && s.membersQuiet c q u) = true) : Ready s u q c := by
  simp only [Bool.and_eq_true, beq_iff_eq] at h
  exact ⟨h.1.1, h.1.2, h.2⟩

theorem syncReady_of {s : State} {u c op : Nat} {q : Q}
    (h : (s.issuer u q == some c && s.fetches c u q && s.membersQuiet c q u && s.vDone c u q op) = true) :
    SyncReady s u q c op :=
  have x : _ ∧ _ := by simpa only [Bool.and_eq_true] using h
  { ready_of (by simpa only [Bool.and_eq_true] using x.1) with done := x.2 }

/-- A collective record of handle 5, of a kind, whose tiles hold 64 * 2 ^ te Tally-24 elements, at rank 0 of two members. -/
def rec0 (kind te : Nat) : ColRec :=
  { handle := 5, ctx := 0, kind := BitVec.ofNat 4 kind, vl := 0, acls := 0, te := BitVec.ofNat 2 te, tw := 0, sreq := 1, smin := 1,
           limit := 0, nmem := 2, zmode := false, stream := false, datumw := false, rank := 0, ntile := 4, sop := 0, sfmt := 0,
           slen := 0, plan := 0, src := 0, scode := 0, dest := 0, dcode := 0, sexp := 0, dtag := 0, rcnt := 0, scr := 0,
           pin := 0, runadr := 0, cadr := 0, voteadr := 0, votein := 0, scrlen := 0, rowb := 0, cap := 0, arm := 0,
           start := 0, done := 0, sparent := 0xFFFFFF }

/-- A collective open on that record, with a run in progress. -/
def col0 (kind te : Nat) : Col :=
  { r := rec0 kind te, schild := [], limit := 4000, acc := 0, waiting := false, grant := 1, reason := 0, st := .running, run := 1,
    cur := ColRun.empty, epochs := [], early := [] }

/-- A direct command of an opcode. -/
def hdr0 : Hdr := ⟨0, 0xFFFFFFFFFF000000, 0, true⟩

/-- Its record when it has started, with its parameters. -/
def started0 (op : Nat) (ps : List Byte) : Started :=
  ⟨op, 0, 0xFFFFFFFFFF000000, 0, true, false, false, 0, [], false, 1, false, false, 0, ps, true⟩

/-- A state in which that command has started. -/
def State.asked (s : State) (op : Nat) (ps : List Byte) : State := { s with cmd := { s.cmd with started := [started0 op ps] } }

theorem admitted_started {s : State} {op : Nat} {ps : List Byte} (h : s.cmd.started = [started0 op ps]) (d : s.flt.drained = false) :
    Admitted s hdr0 op ps (started0 op ps) := by
  refine ⟨?_, ?_, fun x => absurd x (by simp [d])⟩
  · simp [h, started0, Started.isFor, hdr0]
  · rfl

/-- A descriptor in granules 0-3 of parcel 0. -/
def withDesc (d : Nat) (s : State) : State := { s with mem := s.mem.writeLE (granAddr 0 0) 64 d }

theorem test_witness_MdeclFillsSlot :
    (let s := withDesc 0x66 (run0.runs 0 .m)
     Ready s 0 .m 0 ∧ s.badIn (granAddr 0 0) 64 = false ∧ descOk (BitVec.ofNat 512 (s.mem.readLE (granAddr 0 0) 64)) = true ∧
       (s.mat 0 0).slotInUse 3 = false ∧ s.datum 0 0x66 = .value (some 14)) ∧
    (let s := withDesc 0x20133 (run0.runs 0 .m)
     Ready s 0 .m 0 ∧ descOk (BitVec.ofNat 512 (s.mem.readLE (granAddr 0 0) 64)) = true ∧ s.datum 0 0x20133 = .wait) ∧
    (let s := withDesc 0x20133 (run0.heads 0 .m (ent [(0, 1), (8, 7)]))
     s.engineCtx 0 (fun x => (x.engineHead .m).any fun h => fld h.2 0 8 == 1) = some 0 ∧
       (s.engOf (engKey 0 0)).engineHead .m = some (7, ent [(0, 1), (8, 7)]) ∧ (s.queue (engKey 0 0) .m).passed = [] ∧
       s.badIn (granAddr 0 0) 64 = false ∧
       descOk (BitVec.ofNat 512 (s.mem.readLE (granAddr 0 0) 64)) = true ∧ (s.mat 0 0).slotInUse 7 = false ∧
       s.datum 0 0x20133 = .wait) := by
  refine ⟨⟨ready_of ?_, ?_⟩, ⟨ready_of ?_, ?_⟩, ?_⟩ <;> decide +kernel

/-- A slot of an S8 by S8 descriptor, uncoupled or coupled with a 24-bit Tally for N products. -/
def slotS8 (d : Nat) : Slot := slotOf (BitVec.ofNat 512 d) (some 14)

/-- An accumulating segment of one output bound to slot 0. -/
def seg1x1 (d : Nat) : Segment := openSegment (slotS8 d) 0 false 1 1

/-- Parcel 0 of context 0 with its M queue running and a matrix state. -/
def matRun (m : Mat) : State := (run0.runs 0 .m).setMat (engKey 0 0) m

/-- An MACC of K steps on segment 0. -/
def maccE (k : Nat) : Entry := ent [(0, 3), (80, k)]

/-- An MOPEN on an empty segment and with OVR on one that holds a tile; a first MACC, a second and a third; a step that is not
the last and one that is. -/
theorem test_witness_MaccOpensAndPlaces :
    (let m : Mat := { Mat.empty with slots := [(0, slotS8 0x66)] }
     let e := ent [(0, 2), (14, 16), (19, 16)]
     Ready (matRun m) 0 .m 0 ∧ Map.find m.slots (fld e 9 3) = some (slotS8 0x66) ∧
       tileSizeOk (dWide (slotS8 0x66).desc) e = true ∧ (m.seg (eSeg e)).st = .empty) ∧
    (let m : Mat := { Mat.empty with slots := [(0, slotS8 0x66)], seg0 := seg1x1 0x66 }
     let e := ent [(0, 2), (13, 1), (14, 1), (19, 1)]
     Ready (matRun m) 0 .m 0 ∧ Map.find m.slots (fld e 9 3) = some (slotS8 0x66) ∧
       tileSizeOk (dWide (slotS8 0x66).desc) e = true ∧ (m.seg (eSeg e)).holds = true ∧ bit e 13 = true ∧
       m.placing (eSeg e) = false ∧ m.maccStatus (maccE 1) = none ∧ m.cur = none) ∧
    (let m : Mat := { Mat.empty with slots := [(0, slotS8 0x66)], seg0 := seg1x1 0x66, cur := some ⟨0, maccE 1, 0⟩ }
     Ready (matRun m) 0 .m 0 ∧ m.maccStatus (maccE 1) = none ∧ m.cur ≠ none ∧ m.pend = none ∧
       (matRun m).maccCtx 0 = some 0 ∧ (0 : Nat) + 1 = eK (maccE 1) ∧
       (matRun m).fbBad 0 (stepRanges (slotS8 0x66).desc (maccE 1) 16 0) = none ∧
       ((matRun m).engOf (engKey 0 0)).engineHead .m = none) ∧
    (let m : Mat := { Mat.empty with slots := [(0, slotS8 0x66)], seg0 := seg1x1 0x66, cur := some ⟨0, maccE 2, 0⟩,
                                     pend := some ⟨1, maccE 2, 0⟩ }
     Ready (matRun m) 0 .m 0 ∧ m.maccStatus (maccE 1) = none ∧ m.cur ≠ none ∧ m.pend ≠ none ∧
       (matRun m).maccCtx 0 = some 0 ∧ (0 : Nat) + 1 ≠ eK (maccE 2) ∧
       (matRun m).fbBad 0 (stepRanges (slotS8 0x66).desc (maccE 2) 16 0) = none) := by
  refine ⟨⟨ready_of ?_, ?_⟩, ⟨ready_of ?_, ?_⟩, ⟨ready_of ?_, ?_⟩, ⟨ready_of ?_, ?_⟩⟩ <;> decide +kernel

/-- A coupled S8 descriptor whose target is Tally-24, for one product. -/
def tallyD : Nat := 0x66 + 2 ^ 28 + 2 ^ 32 + 12 * 2 ^ 163

/-- An MFIN of segment 0 to the Fieldbook, four granules a row, and one to collective 5. -/
def mfinE (coll : Bool) : Entry := if coll then ent [(0, 4), (10, 1), (88, 5)] else ent [(0, 4), (12, 4), (28, 4)]

/-- A matrix state that waits to finish a coupled tile with `n` tiles staged before it. -/
def matFin (n : Nat) : Mat :=
  { Mat.empty with slots := [(0, slotS8 tallyD)], seg0 := seg1x1 tallyD,
                   stage := List.replicate n ⟨5, 0, 16, 16, 12, 0, false, [], []⟩ }

/-- An MFIN that waits for products and that finds none to place, to the Fieldbook and to a collective; the end of a drain; an
MFIN that waits for staging, with room and without. -/
theorem test_witness_MfinDrains :
    (let m : Mat := { Mat.empty with slots := [(0, slotS8 0x66)], seg0 := seg1x1 0x66, cur := some ⟨0, maccE 1, 0⟩ }
     Ready (matRun m) 0 .m 0 ∧ ((bit (mfinE false) 9 || !eSeg (mfinE false)) && m.placing false) = true ∧
       fld (mfinE false) 0 8 = 4) ∧
    (let m : Mat := { Mat.empty with slots := [(0, slotS8 0x66)], seg0 := seg1x1 0x66 }
     let e := mfinE false
     Ready (matRun m) 0 .m 0 ∧ ((bit e 9 || !eSeg e) && m.placing false) = false ∧
       ((bit e 9 || eSeg e) && m.placing true) = false ∧ (matRun m).mfinStatus 0 0 e = none ∧
       (matRun m).fbBad 0 ((matRun m).mfinReads 0 0 e) = none ∧ fld e 10 2 = 0 ∧ bit (slotS8 0x66).desc 128 = false) ∧
    (let s := { matRun (matFin 0) with cols := [(5, col0 0 2)] }
     let e := mfinE true
     Ready s 0 .m 0 ∧ (matFin 0).placing false = false ∧ s.mfinStatus 0 0 e = none ∧
       s.fbBad 0 (s.mfinReads 0 0 e) = none ∧ fld e 10 2 = 1 ∧ s.tileMisfit 0 0 e = false ∧ s.stagedIn 0 < 4 ∧
       bit ((matFin 0).slot ((finSegs (matFin 0) e).headD Segment.empty).dslot).desc 128 = false) ∧
    (let s := { matRun (matFin 4) with cols := [(5, col0 0 2)] }
     let e := mfinE true
     Ready s 0 .m 0 ∧ (matFin 4).placing false = false ∧ s.mfinStatus 0 0 e = none ∧
       s.fbBad 0 (s.mfinReads 0 0 e) = none ∧ fld e 10 2 = 1 ∧ s.tileMisfit 0 0 e = false ∧ 4 ≤ s.stagedIn 0) ∧
    (let m : Mat := { Mat.empty with drains := [⟨true, false, []⟩] }
     (List.range 8).find? (fun c => ((matRun m).mat c 0).drains.any fun d => if false then d.seg1 else d.seg0) = some 0 ∧
       ((matRun m).engOf (engKey 0 0)).engineHead .m = none) ∧
    (∀ n ∈ [3, 4],
      let e := mfinE true
      let s : State := { (run0.heads 0 .m e).setMat (engKey 0 0) (matFin n) with cols := [(5, col0 0 2)] }
      s.engineCtx 0 (fun x => (x.engineHead .m).any fun h => fld h.2 0 8 == 4) = some 0 ∧
        (s.engOf (engKey 0 0)).engineHead .m = some (7, e) ∧ (s.queue (engKey 0 0) .m).passed = [] ∧
        ((bit e 9 || !eSeg e) && (s.mat 0 0).placing false) = false ∧ ((bit e 9 || eSeg e) && (s.mat 0 0).placing true) = false ∧
        s.stagedIn 0 = n ∧ s.mfinStatus 0 0 e = none ∧
        s.fbBad 0 (s.mfinReads 0 0 e) = none ∧ s.tileMisfit 0 0 e = false ∧
        s.engineCtx 0 (fun x => (x.engineHead .m).any fun h => fld h.2 0 8 == 4 && fld h.2 10 2 == 1) = some 0) := by
  refine ⟨⟨ready_of ?_, ?_⟩, ⟨ready_of ?_, ?_⟩, ⟨ready_of ?_, ?_⟩, ⟨ready_of ?_, ?_⟩, ?_⟩ <;> decide +kernel

/-- 256 segment images that say only that the segment accumulates (R61). -/
def images1 (b : Nat) : Memory := (List.range 256).map fun j => (b + 32 * j + 29, 1)

theorem find_images (b k : Nat) (l : List Nat) :
    Map.find (l.map fun j => (b + 32 * j + 29, (1 : Byte))) k = if l.any (fun j => b + 32 * j + 29 == k) then some 1 else none := by
  induction l with
  | nil => rfl
  | cons x l ih =>
    simp only [List.map_cons, Map.find, List.any_cons, ih, Bool.or_eq_true, beq_iff_eq]
    by_cases h : b + 32 * x + 29 = k <;> simp [h]

theorem read_images (b i k : Nat) (hk : k < 32) :
    (images1 b).read (b + 32 * i + k) = if k = 29 ∧ i < 256 then 1 else 0 := by
  have e : ((List.range 256).any fun j => b + 32 * j + 29 == b + 32 * i + k) = decide (k = 29 ∧ i < 256) := by
    rw [Bool.eq_iff_iff]
    simp only [List.any_eq_true, List.mem_range, beq_iff_eq, decide_eq_true_eq]
    constructor
    · rintro ⟨j, hj, h⟩; omega
    · rintro ⟨rfl, hi⟩; exact ⟨i, hi, rfl⟩
  unfold images1 Memory.read Map.getD
  rw [find_images, e]
  by_cases h : k = 29 ∧ i < 256 <;> simp [h]

theorem readLE_images (b i : Nat) : (images1 b).readLE (b + 32 * i) 32 = if i < 256 then 2 ^ 232 else 0 := by
  have h := fun k hk => read_images b i k hk
  have h0 := h 0 (by decide)
  rw [Nat.add_zero] at h0
  simp only [Memory.readLE, Memory.readN, Nat.add_assoc, h0]
  simp only [Nat.add_assoc] at h
  simp only [Nat.reduceAdd]
  rw [h 1, h 2, h 3, h 4, h 5, h 6, h 7, h 8, h 9, h 10, h 11, h 12, h 13, h 14, h 15, h 16, h 17, h 18, h 19, h 20, h 21, h 22,
    h 23, h 24, h 25, h 26, h 27, h 28, h 29, h 30, h 31] <;> try decide
  by_cases hi : i < 256 <;> simp [hi, leNat]

/-- An MSUM of one step, an MSAVE of a clear tile, and an MLOAD of 256 images that say their segment accumulates. -/
theorem test_witness_MsumMsaveMload :
    (let e := ent [(0, 5), (10, 6), (15, 0), (31, 1), (55, 4)]
     Ready (matRun Mat.empty) 0 .m 0 ∧ fmtOf (fld e 10 4) = some .s8 ∧ Fmt.s8.isInt = true ∧ fld e 31 24 ≠ 0 ∧
       (Mat.empty.seg (eSeg e)).st = .empty ∧ fld e 71 57 = 0 ∧
       granOk (fld e 15 16) (elemBytes 8 16) = true ∧ granOk (fld e 55 16) 128 = true ∧
       (matRun Mat.empty).badIn (granAddr 0 0) 16 = false) ∧
    (let m : Mat := { Mat.empty with slots := [(0, slotS8 0x66)], seg0 := seg1x1 0x66 }
     let e := ent [(0, 6), (9, 16)]
     Ready (matRun m) 0 .m 0 ∧ (m.seg (eSeg e)).holds = true ∧ m.placing (eSeg e) = false ∧ granOk (fld e 9 16) 8448 = true) ∧
    (let m : Mat := { Mat.empty with slots := [(0, slotS8 0x66)] }
     let e := ent [(0, 7), (9, 16)]
     let s := { matRun m with mem := images1 (granAddr 0 16) }
     Ready s 0 .m 0 ∧ (m.seg (eSeg e)).st = .empty ∧ granOk (fld e 9 16) 8448 = true ∧
       s.badIn (granAddr 0 (fld e 9 16)) 8448 = false ∧
       ∃ g, segmentOfImages (fun i => s.mem.readLE (granAddr 0 16 + 32 * i) 32)
         (fun n => (Map.find m.slots n).isSome) = some g ∧ g.st ≠ .empty) := by
  refine ⟨⟨ready_of ?_, ?_⟩, ⟨ready_of ?_, ?_⟩, ⟨ready_of ?_, ?_, ?_, ?_, ?_⟩⟩
  · decide +kernel
  · decide +kernel
  · decide +kernel
  · decide +kernel
  · decide +kernel
  · decide +kernel
  · decide +kernel
  · decide +kernel
  · simp only [readLE_images]
    have h : ((segmentOfImages (fun i => if i < 256 then 2 ^ 232 else 0) fun n => (Map.find [(0, slotS8 0x66)] n).isSome).any
        fun g => g.st != .empty) = true := by decide +kernel
    rcases hg : segmentOfImages (fun i => if i < 256 then 2 ^ 232 else 0) fun n => (Map.find [(0, slotS8 0x66)] n).isSome with _ | g
    · rw [hg] at h; cases h
    · rw [hg] at h; exact ⟨g, rfl, by simpa using h⟩

/-- A VADD of n FP32 elements: A at granule 0, B at 64, the result at 128. -/
def vaddE (n : Nat) : Entry := ent [(0, 0x11), (24, n), (64, 64), (96, 128)]

/-- The vector unit of parcel 0 with a state of its own and its queue running. -/
def vecRun (v : Vec) : State := (run0.runs 0 .v).setVec (engKey 0 0) v

/-- A VSET of a record of zeros (FP32 throughout) at the last granule it may lie at; a VADD with the engine idle and with it busy;
a group that is not the last, one that is the last, and an element of it. -/
theorem test_witness_VectorEntries :
    (let e := ent [(0, 0x10), (8, 3), (10, 0xBFFC)]
     Ready (vecRun Vec.empty) 0 .v 0 ∧ vFieldsOk e = true ∧ fld e 10 16 % 4 = 0 ∧ fld e 10 16 ≤ 0xBFFF ∧ Vec.empty.run = none ∧
       (vecRun Vec.empty).badIn (granAddr 0 (fld e 10 16)) 64 = false ∧ setupOk 0 = true) ∧
    (Ready (vecRun Vec.empty) 0 .v 0 ∧ vStartStatus (Vec.empty.setup (vaddE 3)) (vaddE 3) Vec.empty.openLed = none) ∧
    (Ready (vecRun { Vec.empty with run := some ⟨0, vaddE 3, 0, []⟩ }) 0 .v 0) ∧
    (let r : VRun := ⟨0, vaddE 33, 0, []⟩
     let s := vecRun { Vec.empty with run := some r }
     s.vecCtx 0 = some 0 ∧
       s.fbBad 0 (vStepRanges s.mem (fbAddr 0 0) 0 r.entry (vReadElems 0 r.entry 0)) = none ∧
       (r.group + 1 == vSteps 0 r.entry) = false) ∧
    (let r : VRun := ⟨0, vaddE 3, 0, []⟩
     let s := vecRun { Vec.empty with run := some r }
     s.vecCtx 0 = some 0 ∧
       s.fbBad 0 (vStepRanges s.mem (fbAddr 0 0) 0 r.entry (vReadElems 0 r.entry 0)) = none ∧
       (r.group + 1 == vSteps 0 r.entry) = true ∧ (s.engOf (engKey 0 0)).engineHead .v = none ∧
       vOsc 0 = 0 ∧ bit r.entry 10 = false ∧ (vFd 0).width ∈ [8, 16, 32] ∧ setupOk 0 = true ∧ 2 ∈ vElems 0 r.entry 0) := by
  refine ⟨⟨ready_of ?_, ?_⟩, ⟨ready_of ?_, ?_⟩, ready_of ?_, ?_, ?_⟩ <;> decide +kernel

/-- SJMP under each of its four conditions, SHND, SLDC and SEND, this also with a Bindery of the context still running. -/
theorem test_witness_QueueControl :
    (∀ op, SyncReady (run0.runs 17476 .s) 17476 .s 0 op) ∧
    (∀ e ∈ [[(0, 0xF7), (64, 0xFFFF)], [(0, 0xF8), (64, 9)], [(0, 0xF8), (64, 9), (80, 1), (83, 3)],
        [(0, 0xF8), (64, 9), (80, 2), (91, 3)], [(0, 0xF8), (64, 9), (80, 3)],
        [(0, 0xF9), (91, 3), (93, 0xFFFFFF)], [(0, 0xFA)]], syncOk 4 (ent e) = true) ∧
    (let s : State := { run0.runs 17476 .s with bnd := [(0, { Bindery.empty with queues := [(0, { BndQueue.empty with run := .running })] })] }
     SyncReady s 17476 .s 0 0xFA ∧ s.bndIdle 0 = false) :=
  ⟨fun _ => { ready_of (by decide +kernel) with done := rfl }, by decide +kernel, syncReady_of (by decide +kernel),
    by decide +kernel⟩

/-- Queue S of parcel 0 running, with its last stake in a state and an entry of the stake table. -/
def staked (st : StakeSt) (entry : BitVec 32) : State :=
  let s := run0.runs 0 .s
  s.setSync (engKey 0 0) { (s.engOf (engKey 0 0)).sync with stakes := [(47, ⟨st, entry⟩)] }

/-- A synchronisation entry on the unit's own last stake. -/
def onStake (op : Nat) (more : List (Nat × Nat)) : Entry := ent ([(0, op), (11, 47)] ++ more)

/-- SWAIT with and without CLR and SWAITC, on a stake SET, CLEAR and ABANDONED, owned and unowned; and a wait that expires. -/
theorem test_witness_StakeWaits :
    (∀ y ∈ [(StakeSt.set, 0xF0, []), (.set, 0xF0, [(8, 1)]), (.clear, 0xF0, []), (.abandoned, 0xF0, []), (.set, 0xF1, []),
        (.clear, 0xF1, [])],
      ∀ n ∈ [0, 19],
        let w := BitVec.ofNat 32 (2 ^ n)
        let x := (y.1, onStake y.2.1 y.2.2)
        ((staked x.1 w).issuer 0 .s == some 0 && (staked x.1 w).fetches 0 0 .s && (staked x.1 w).membersQuiet 0 .s 0 &&
          (staked x.1 w).vDone 0 0 .s y.2.1) = true ∧
          syncOk 0 x.2 = true ∧ (staked x.1 w).target 0 0 x.2 = .here (engKey 0 0) ∧
          ((staked x.1 w).stake (engKey 0 0) (yStake x.2)).st = x.1 ∧
          bit ((staked x.1 w).stake (engKey 0 0) (yStake x.2)).entry 19 = bit w 19) ∧
    (let e := onStake 0xF0 []
     let s := run0.heads 0 .s e (.stake (engKey 0 0) 47 .set)
     s.waiting 0 .s (fun k => match k with | .stake _ _ _ => true | _ => false) = some 0 ∧
       (s.queue (engKey 0 0) .s).head = some ⟨7, e, .stake (engKey 0 0) 47 .set⟩ ∧
       Want.set.met (s.stake (engKey 0 0) 47).st = false) := by
  decide +kernel

/-- Parcel 0 beside a station tract whose home is station 9, with the slips that await their acknowledgement. -/
def awayStart (acks : List (Nat × List Byte)) : State :=
  { run0.runs 0 .m with station := 3, stracts := [(7, ⟨9, 5, []⟩)], fab := { run0.fab with acks := acks } }

/-- A matrix state whose engine has written nothing, or has a drain under way. -/
def matDrain (busy : Bool) : Mat := { Mat.empty with drains := if busy then [⟨true, false, []⟩] else [] }

/-- SSET, SCLR and SFENCE with no fence, with a fence whose writes have landed and with one whose writes have not, and
FENCE_COMPLETE behind them, and behind nothing; targets here, away, absent, at a unit that quiesces, and in the quiescing unit
itself; a set and a clear of a stake in each of its states. -/
theorem test_witness_StakeSetsAndFences :
    (∀ y ∈ [[(0, 0xF2), (11, 47)], [(0, 0xF3), (11, 47)], [(0, 0xF2), (11, 47), (9, 1)], [(0, 0xF3), (11, 47), (9, 2)],
        [(0, 0xF4), (9, 3)]], ∀ b,
      let x := ent y
      let s := matRun (matDrain b)
      (s.issuer 0 .m == some 0 && s.fetches 0 0 .m && s.membersQuiet 0 .m 0) = true ∧ syncOk 0 x = true ∧
        s.target 0 0 x = .here (engKey 0 0) ∧ s.unitBusy 0 = false ∧ s.fenced 0 0 .m x = (yFsc x == 0 || !b)) ∧
    (∀ y ∈ [[(0, 0xF2), (11, 47), (9, 1)], [(0, 0xF3), (11, 47), (9, 2)], [(0, 0xF4), (9, 3)]],
      let x := ent y
      let s := run0.heads 0 .m x
      s.waiting 0 .m (fun k => k == .engine) = some 0 ∧ (s.engOf (engKey 0 0)).engineHead .m = some (7, x) ∧
        s.fenced 0 0 .m x = true ∧ s.target 0 0 x = .here (engKey 0 0) ∧ s.unitBusy (stakeUnit (engKey 0 0)) = false) ∧
    (∀ op ∈ [0xF2, 0xF3], ∀ k ∈ [0, 3],
      let x := ent [(0, op), (9, k), (11, 47), (17, 6), (37, 7)]
      let s := awayStart []
      (s.issuer 0 .m == some 0 && s.fetches 0 0 .m && s.membersQuiet 0 .m 0) = true ∧ syncOk 0 x = true ∧
        s.target 0 0 x = .away 9 ∧ s.fenced 0 0 .m x = true ∧ (awayStart [(qKey 0 0 0, [])]).fenced 0 0 .m x = (k == 0)) ∧
    (∀ op ∈ [0xF2, 0xF3],
      let x := ent [(0, op), (11, 47), (17, 5), (20, unitPath 1)]
      let s := { run0.runs 0 .m with flt := { run0.flt with svc := [(codeUnit 1, .quiescing)] } }
      (s.issuer 0 .m == some 0 && s.fetches 0 0 .m && s.membersQuiet 0 .m 0) = true ∧ syncOk 0 x = true ∧
        s.target 0 0 x = .here (engKey 0 1) ∧ s.fenced 0 0 .m x = true ∧ s.unitBusy (stakeUnit (engKey 0 1)) = true) ∧
    (∀ op ∈ [0xF2, 0xF3],
      let x := ent [(0, op), (11, 47), (17, 6), (37, 8)]
      let s := awayStart []
      syncOk 0 x = true ∧ s.target 0 0 x = .absent ∧ s.fenced 0 0 .m x = true) ∧
    (∀ op ∈ [0xF2, 0xF3],
      let x := ent [(0, op), (11, 47)]
      let s := { run0.runs 0 .m with flt := { run0.flt with svc := [(codeUnit 0, .quiescing)] } }
      syncOk 0 x = true ∧ s.refuser 0 .m = some 0 ∧ s.target 0 0 x = .here (engKey 0 0) ∧
        s.unitBusy (stakeUnit (engKey 0 0)) = true) ∧
    (∀ op ∈ [0xF2, 0xF3],
      let x := ent [(0, op), (9, 1), (11, 47), (17, 6), (37, 7)]
      let s : State := { run0.heads 0 .m x with station := 3, stracts := [(7, ⟨9, 5, []⟩)] }
      s.waiting 0 .m (fun k => k == .engine) = some 0 ∧ (s.engOf (engKey 0 0)).engineHead .m = some (7, x) ∧
        s.fenced 0 0 .m x = true ∧ s.target 0 0 x = .away 9 ∧ yFsc x ≠ 3) ∧
    (let x := ent [(0, 0xF4), (9, 3)]
     let s := (run0.heads 0 .m x).setMat (engKey 0 0) (matDrain true)
     s.waiting 0 .m (fun k => k == .engine) = some 0 ∧ (s.engOf (engKey 0 0)).engineHead .m = some (7, x) ∧
       s.fenced 0 0 .m x = false) ∧
    run0.waiting 0 .m (fun k => k == .engine) = none ∧
    (∀ x ∈ [StakeSt.set, .clear, .abandoned], ((staked x 0).stake (engKey 0 0) 47).st = x) ∧
    ∀ y ∈ [(0xF2, StakeSt.clear, StakeSt.set), (0xF3, .set, .clear)],
      let x := onStake y.1 []
      let s := staked y.2.1 0
      (s.issuer 0 .s == some 0 && s.fetches 0 0 .s && s.membersQuiet 0 .s 0) = true ∧ syncOk 0 x = true ∧
        s.target 0 0 x = .here (engKey 0 0) ∧ s.unitBusy 0 = false ∧ s.fenced 0 0 .s x = true ∧
        (s.stake (engKey 0 0) 47).st = y.2.1 ∧
        (((s.advance 0 0 .s).leaveHead 0 0 .s).setStake (engKey 0 0) 47 y.2.2).waiters (engKey 0 0) 47 = [] := by
  decide +kernel

/-- That the last law of `StakeSetsAndFences` has a state it speaks of. -/
theorem test_witness_StakeSet : ∃ x, EngStep (staked .clear 0) ((staked .clear 0).setStake (engKey 0 0) 47 .set) (engKey 0 0) x :=
  ⟨_, EngStep.of_setEng _ _ _⟩

/-- Closure 1023 of context 0 in a state, in which parcel 0 takes part with its closure bits. -/
def closed (st : ClSt) (bits : Nat) : State :=
  let s := run0.runs 0 .s
  { s.setSync (engKey 0 0) { (s.engOf (engKey 0 0)).sync with closures := [(1023, bits)] } with
    closures := [(1023, { Closure.idle with st := st, units := [0, 1], child := [1] })] }

/-- CARR as the first of two arrivals and as an early second one, CWAIT with and without an arrival pending, both on a FAILED closure and on a closure that is not set up, and T3. -/
theorem test_witness_ClosureArrivals :
    (let e := ent [(0, 0xF5), (53, 1023)]
     let s := closed .opened 1
     SyncReady s 0 .s 0 (fld e 0 8) ∧ syncOk 0 e = true ∧ yClos e = 1023 ∧ (s.closure 1023).st = .opened ∧ (s.closure 1023).ctx = keyCtx (engKey 0 0) ∧
       (s.cbits (engKey 0 0) 1023).testBit 0 = true ∧ (s.cbits (engKey 0 0) 1023).testBit 1 = (s.closure 1023).parity ∧
       (s.cbits (engKey 0 0) 1023).testBit 3 = false ∧ (s.closure 1023).count + 1 ≠ (s.closure 1023).total ∧ bit e 63 = false) ∧
    (∀ b ∈ [1, 5], let e := ent [(0, 0xF6), (53, 1023)]
      syncOk 0 e = true ∧ ((closed .opened b).closure 1023).st = .opened ∧
        ((closed .opened b).cbits (engKey 0 0) (yClos e)).testBit 0 = true ∧
        ((closed .opened b).cbits (engKey 0 0) (yClos e)).testBit 2 = (b == 5)) ∧
    (((closed .opened 3).cbits (engKey 0 0) 1023).testBit 1 ≠ ((closed .opened 3).closure 1023).parity ∧
      ((closed .opened 3).cbits (engKey 0 0) 1023).testBit 3 = false ∧
      ((closed .opened 3).closure 1023).count ≠ ((closed .opened 3).closure 1023).total) ∧
    (((closed (.failed 0x504) 1).closure 1023).st = .failed 0x504 ∧ advances 0x504 = false) ∧
    (SyncReady (closed .idle 0) 0 .s 0 0xF5 ∧ ((closed .idle 0).closure 1023).st = .idle) ∧
    (let s := { closed .opened 1 with closures := [(1023, { Closure.idle with st := .opened, t3 := true })] }
     (s.closure 1023).st = .opened ∧ (s.closure 1023).t3 = true) := by
  refine ⟨⟨syncReady_of ?_, ?_⟩, ?_, ?_, ?_, ⟨syncReady_of ?_, ?_⟩, ?_⟩ <;> decide +kernel

/-- A queue with and without a handler; one that a failure has just branched to its handler; a program counter above the Fieldbook and at its last granule, unreadable. -/
theorem test_witness_QueueFailures :
    (∀ h ∈ [none, some 5], ((run0.setQueue (engKey 0 0) .s { Queue.empty with run := .running, handler := h }).queue
      (engKey 0 0) .s).handler = h) ∧
    (∀ pc ∈ [0xC000, 0xBFFF],
      let s := { run0.setQueue (engKey 0 0) .s { Queue.empty with run := .running, pc := pc } with
        bad := [(granAddr 0 0xBFFF, true)] }
      s.issuer 0 .s = some 0 ∧ (s.queue (engKey 0 0) .s).handler ≠ some pc ∧ (s.queue (engKey 0 0) .s).fed = false ∧
        s.badIn (granAddr (firstParcel 0) 0xBFFF) 16 = true ∧ s.sparesLeft (firstParcel 0) ≠ 0) ∧
    (let s := run0.setQueue (engKey 0 0) .s
       { Queue.empty with run := .running, pc := 0xC000, handler := some 0xC000, branched := true }
     s.issuer 0 .s = some 0 ∧ (s.queue (engKey 0 0) .s).branched = true ∧ (s.queue (engKey 0 0) .s).handler = some 0xC000 ∧
       (s.queue (engKey 0 0) .s).pc = 0xC000) := by
  decide +kernel

/-- An XGET or XPUT of n granules between granule 0 and a device address. -/
def xferE (op d n : Nat) : Entry := ent [(0, op), (8, 2), (36, d), (84, n)]

/-- The X queue of parcel 0 running, with a run in its engine or none. -/
def xRun (r : Option XRun) : State := (run0.runs 0 .x).setX (engKey 0 0) r

/-- Parcel 0 ready, with the bulk queue of slice 0 full. -/
def fullSlice : State :=
  let s := xRun none
  { s with arc := { s.arc with slices := [(0, ⟨List.replicate 128 ⟨staleKey, .bulk, 0, 16, 0, false, 0, false⟩, [], 0⟩)] } }

/-- An XGET of the last HBM granule, an XPUT, a second entry behind a run, one that is refused for its length of 0, one whose
class queue is full, and one whose stack is stopped. -/
theorem test_witness_TransferEntries :
    (Ready (xRun none) 0 .x 0 ∧ ((xRun none).engOf (engKey 0 0)).x = none ∧
      (∀ op ∈ [1, 2], xStartStatus 0 (xferE op 0x017FFFFFFFF0 1) = none) ∧ xDadr (xferE 1 0x017FFFFFFFF0 1) < 0xC00000000000 ∧
      (xRun none).devStatus 0 0x017FFFFFFFF0 = 0 ∧ keyCtx (engKey 0 0) = 0 ∧
      (((xRun none).slice (sliceOf 0x017FFFFFFFF0)).reqs.filter fun y => y.cls == xCls (xferE 1 0x017FFFFFFFF0 1) && !y.served).length < 128 ∧
      ((xRun none).slice (sliceOf 0x017FFFFFFFF0)).wait = []) ∧
    (xStartStatus 0 (ent [(0, 3), (8, 2), (10, 4), (14, 13), (84, 1)]) = none) ∧
    (let s := xRun (some ⟨0, xferE 1 0 1, 0, false, false, 0⟩)
     Ready s 0 .x 0 ∧ (s.engOf (engKey 0 0)).x ≠ none) ∧
    xStartStatus 0 (xferE 1 0 0) = some 0x0803 ∧
    (let s := fullSlice
     Ready s 0 .x 0 ∧ (s.engOf (engKey 0 0)).x = none ∧ xCls (xferE 1 0 1) = .bulk ∧ xDadr (xferE 1 0 1) = 0 ∧
       s.devStatus 0 0 = 0 ∧ Cls.bulk.depth ≤ ((s.slice (sliceOf 0)).reqs.filter fun y => y.cls == .bulk && !y.served).length ∧
       (s.slice (sliceOf 0)).wait.contains (engKey 0 0) = false) ∧
    (let s : State := { xRun none with hbm := [(0, { Stack.reset with stop := true })] }
     Ready s 0 .x 0 ∧ (s.engOf (engKey 0 0)).x = none ∧ xStartStatus 0 (xferE 1 0 1) = none ∧ s.devStatus 0 0 = 0x0752) := by
  refine ⟨⟨ready_of ?_, ?_⟩, ?_, ⟨ready_of ?_, ?_⟩, ?_, ⟨ready_of ?_, ?_⟩, ⟨ready_of ?_, ?_⟩⟩ <;> decide +kernel

/-- A copy within a Fieldbook, both ways. -/
theorem test_witness_LocalTransfers :
    Ready (xRun none) 0 .x 0 ∧ ∀ op ∈ [1, 2], let e := xferE op (fbAddr 0 0x1000) 4
      ((xRun none).engOf (engKey 0 0)).x = none ∧
      fld e 0 8 = op ∧ xStartStatus 0 e = none ∧ 0xC00000000000 ≤ xDadr e ∧ region (xDadr e) = .fieldbook 0 ∧
        keyUnit (engKey 0 0) = 0 ∧ (xRun none).bad = [] :=
  ⟨ready_of (by decide +kernel), by decide +kernel⟩

/-- A request of the run of parcel 0 at slice 0, served or not. -/
def req0 (served : Bool) : SliceReq := ⟨engKey 0 0, .bulk, 0, 16, 0, served, 0, false⟩

/-- Slice 0 with one request of a run of one granule, of which `done` are moved. -/
def sliced (served : Bool) (done : Nat) : State :=
  let s := xRun (some ⟨0, xferE 1 0 1, done, true, false, 0⟩)
  { s with arc := { s.arc with slices := [(0, ⟨[req0 served], [], 0⟩)] } }

/-- A slice with nothing to serve, with a request whose run is gone and with one whose run stands; a served request; T1. -/
theorem test_witness_SliceServes :
    (State.reset.slice 63).reqs = [] ∧
    (let s := { State.reset with arc := { Arc.reset with slices := [(0, ⟨[req0 false], [], 0⟩)] } }
     (s.slice 0).reqs = [req0 false] ∧ s.xrun (engKey 0 0) = none) ∧
    (let s := sliced false 0
     (s.slice 0).reqs = [req0 false] ∧ s.xrun (engKey 0 0) = some ⟨0, xferE 1 0 1, 0, true, false, 0⟩ ∧ s.bad = [] ∧
       (0 : Nat) + 16 * ((req0 false).len / 16) ≤ shelfAddr 636 0 ∧ s.reqOf (engKey 0 0) = some (0, req0 false) ∧
       s.engineCtx 0 (fun x => x.x.isSome) = some 0) ∧
    (let s := sliced true 1
     (s.slice 0).reqs.find? (·.served) = some (req0 true) ∧ (req0 true).eng ≠ staleKey ∧ (req0 true).status = 0 ∧
       (1 : Nat) = xTotal (xferE 1 0 1) ∧ (s.engOf (engKey 0 0)).engineHead .x = none ∧
       engKey (keyCtx (engKey 0 0)) (keyUnit (engKey 0 0)) = engKey 0 0) ∧
    (let s : State := { sliced false 0 with bad := [(0, true)] }
     (s.slice 0).reqs = [req0 false] ∧ (req0 false).served = false ∧ s.xrun (engKey 0 0) = some ⟨0, xferE 1 0 1, 0, true, false, 0⟩ ∧
       1 ≤ (req0 false).len / 16 ∧ s.badIn 0 16 = true) := by
  decide +kernel

/-- No run asks for anything where there is none, nor that of `sliced`, which has asked. -/
theorem test_witness_SliceServes_runs : (∀ k r, State.reset.xrun k = some r → r.asked = true) ∧
    ∀ b d k r, (sliced b d).xrun k = some r → r.asked = true := by
  refine ⟨?_, ?_⟩
  · intro k r h; cases h
  intro b d k r h
  by_cases hk : k = engKey 0 0
  · subst hk; cases h; rfl
  · have e : (sliced b d).engOf k = (run0.runs 0 .x).engOf k :=
      State.engOf_setEng_ne (run0.runs 0 .x) { (run0.runs 0 .x).engOf (engKey 0 0) with x := some ⟨0, xferE 1 0 1, d, true, false, 0⟩ } hk
    have e2 : (run0.runs 0 .x).engOf k = run0.engOf k := State.engOf_setEng_ne run0 _ hk
    have : (run0.engOf k).x = some r := by rw [← e2, ← e]; exact h
    cases this

/-- Shelf 639 in shelf mode, and shelf 0 as a cache that holds line 0, clean over a good or a bad place, or dirty. -/
def lineHeld (dirty : Bool) (under : Bool := false) : State :=
  { State.reset with arc := { Arc.reset with
      shelves := [(0, ⟨1, 0, false, false, 0, none⟩), (639, ⟨2, 255, false, false, 0, none⟩)], cache := [(0, [⟨0, dirty, under⟩])] } }

/-- The first and the third correction of the last granule; a line of HBM and one of a shelf, held and not held. -/
theorem test_witness_Scrubs :
    (0xBFFF : BitVec 16).toNat < 0xC000 ∧ Map.getD State.reset.flt.scrubCorr (3 * 2 ^ 16 + 0xBFFF) 0 + 1 < 3 ∧
      (let s := { State.reset with flt := { Flt.reset with scrubCorr := [(3 * 2 ^ 16 + 0xBFFF, 2)] } }
       Map.getD s.flt.scrubCorr (3 * 2 ^ 16 + 0xBFFF) 0 + 1 = 3) ∧
      region (0x017FFFFFFFFF / 256 * 256) = .hbm ∧ (State.reset.cached (0x017FFFFFFFFF / 256 * 256)).isSome = false ∧
      region (shelfAddr 639 0) = .shelf 639 ∧ shelfAddr 639 0 / 256 * 256 = shelfAddr 639 0 ∧
      ((lineHeld false).shelf 639).mode = 2 ∧ (lineHeld false).badIn (shelfAddr 639 0) 256 = false ∧
      (lineHeld false).inCatalogue (shelfAddr 639 0) = false ∧
      (∃ m : Fin 64, sliceOf (shelfAddr 639 0) = m.val) ∧ (∃ m : Fin 64, sliceOf 0 = m.val) ∧ (∃ m : Fin 64, sliceOf 0 ≠ m.val) ∧
      ∀ d u, region 0 = .hbm ∧ (lineHeld d u).cached 0 = some ⟨0, d, u⟩ := by
  decide +kernel

/-- Window 0 open on a page. -/
def windowed (page : Nat) (wp : Bool) : State :=
  { State.reset with arc := { Arc.reset with b2win := [(0, ⟨true, wp, page⟩)] } }

/-- A closed window, an open one for a read and a write, a refusing stack and an uncorrectable line. -/
theorem test_witness_HostAperture :
    State.reset.bar2Addr 0 4 false = none ∧
    (let s := windowed 0x017F false
     (s.bar2Addr 0 4 false).any (fun a => !s.bar2Refused a && !s.badIn a 4) = true ∧
       (s.bar2Addr 0 1 true).any (fun a => !s.bar2Refused a) = true) ∧
    (let s : State := { windowed 0x017F false with hbm := [(11, { Stack.reset with stop := true })] }
     (s.bar2Addr 0 4 false).any s.bar2Refused = true) ∧
    (let s : State := { windowed 0 false with bad := [(0, true)] }
     (s.bar2Addr 0 4 false).any (fun a => !s.bar2Refused a && s.badIn a 4) = true) ∧
    (windowed 0 true).bar2Addr 0 4 true = none ∧
    (let s : State := { windowed 0x017F false with hbm := [(11, { Stack.reset with stop := true })] }
     (s.bar2Addr 0 1 true).any s.bar2Refused = true) := by
  decide +kernel

/-- Shelf 0 on its way to shelf mode, with a request of a slice still under way in it. -/
def shelfUsed : State :=
  { State.reset with arc := { Arc.reset with
      shelves := [(0, ⟨2, 0, false, false, 2, some (2, 255, true, true)⟩)],
      slices := [(0, ⟨[⟨0, .bulk, shelfAddr 0 0, 16, 0, false, 0, false⟩], [], 0⟩)] } }

/-- Shelf 639 on its way to shelf mode, shelf 0 while it is in use; a scan that runs, over good and over bad data. -/
theorem test_witness_ShelfModesAndScans :
    (let s := { State.reset with arc := { Arc.reset with shelves := [(639, ⟨1, 0, false, false, 1, some (2, 255, true, true)⟩)] } }
     (s.shelf 639).target = some (2, 255, true, true) ∧ (s.shelf 639).mode ≠ 2 ∧ (s.shelf 639).qst ≠ 0 ∧
       s.shelfInUse 639 = false ∧ s.cmd.started = []) ∧
    shelfUsed.shelfInUse 0 = true ∧ (shelfUsed.shelf 0).qst ≠ 0 ∧ (shelfUsed.shelf 0).target = some (2, 255, true, true) ∧
    (let s := { State.reset with arc := { Arc.reset with fp := [(127, { FpUnit.reset with busy := true })] } }
     (s.fp 127).busy = true ∧ s.flt.replay = none ∧ s.badKeys (s.fp 127).base (s.fp 127).len = [] ∧
       s.sliceBusy (s.fp 127).base (s.fp 127).len = false) ∧
    (let s := { State.reset with
       flt := { Flt.reset with svc := [(codeSlice (sliceOf 0), .quiesced)] }
       arc := { Arc.reset with fp := [(127, { FpUnit.reset with busy := true, base := 0, len := 16 })] } }
     (s.fp 127).busy = true ∧ s.sliceBusy (s.fp 127).base (s.fp 127).len = true) ∧
    (let s := { State.reset with
       bad := [(0, true)]
       arc := { Arc.reset with fp := [(127, { FpUnit.reset with busy := true, base := 0, len := 16 })] } }
     (s.fp 127).base < 0xC00000000000 ∧ s.sliceBusy (s.fp 127).base (s.fp 127).len = false ∧ s.badKeys (s.fp 127).base (s.fp 127).len ≠ [] ∧
       ∀ k ∈ s.badKeys (s.fp 127).base (s.fp 127).len, k < 0xC00000000000) := by
  decide +kernel

/-- An element of each atomic operation and format of the statement, with nothing unreadable. -/
theorem test_witness_AtomicElements :
    State.reset.bad = [] ∧ (∀ x ∈ [(0, 12), (0, 13), (0, 14), (1, 0), (4, 13), (4, 14), (5, 13), (5, 14)],
      let e := ent [(0, 3), (8, 2), (10, x.1), (14, x.2), (84, 1)]
      bit e 19 = false ∧ xAop e = x.1 ∧ fld e 14 4 = x.2 ∧ bit e 18 = false) ∧
    (let e := ent [(0, 3), (8, 2), (10, 2), (14, 13), (19, 1), (84, 1)]
     bit e 19 = true ∧ xAop e = 2 ∧ fmtOf (fld e 14 4) = some .t32 ∧ fld e 14 4 ≠ 0xC ∧
       (xDadr e + atomW e ≤ fbAddr 0 (16 * xFadr e) ∨ fbAddr 0 (16 * xFadr e) + atomStride e ≤ xDadr e)) := by
  decide +kernel

/-- Readings at and past each threshold, from a cool stack and from a stopped one; an error count; a scheduled repair; a patrol
read. -/
theorem test_witness_StackReadings :
    (let s := State.reset
     (s.stack 11).st ≠ 3 ∧ (s.stack 11).stop = false ∧ (s.stack 11).thr = false ∧ (s.stack 11).rmul = 0 ∧
       (s.bindery 11).cur = none ∧ (∀ t ∈ [0, 85, 86, 95, 96, 105, 106, 115], (BitVec.ofNat 8 t).toNat ≤ 115) ∧
       115 < (116 : Byte).toNat) ∧
    (let s := { State.reset with hbm := [(11, { Stack.reset with stop := true, soft := [7] })] }
     (s.stack 11).stop = true ∧ (s.stack 11).st ≠ 3 ∧ (7 : BitVec 32).toNat ∈ (s.stack 11).soft) ∧
    (0x017FFFFFFFFF : BitVec 48).toNat / 256 * 256 / 2 ^ 37 = 11 ∧
    State.reset.cached ((0x017FFFFFFFFF : BitVec 48).toNat / 256 * 256) = none ∧
    (lineHeld false).cached ((0 : BitVec 48).toNat / 256 * 256) ≠ none := by
  decide +kernel

/-- A descriptor from its fields: byte, length, value. -/
def bdesc (fs : List (Nat × Nat × Nat)) : List Byte := toLE 128 (fs.foldl (fun a x => a + x.2.2 % 256 ^ x.2.1 * 256 ^ x.1) 0)

/-- An FPR descriptor of one byte, record at 0x10000, with a flag byte, and its vote at 0x20000. -/
def fprD (flags : Nat) : List Byte := bdesc [(0, 1, 4), (1, 1, flags), (10, 5, 1), (16, 6, 0x20000), (24, 6, 0x10000), (40, 6, 0x100)]

/-- Bindery 0 with a host queue. -/
def hostq (ds : List (List Byte)) : State :=
  { State.reset with bnd := [(0, { Bindery.empty with hostq := ds })], mem := State.reset.mem.writeLE 0x20000 1 1 }

/-- Bindery 0 that runs a descriptor of context 0 or of the host. -/
def bndRuns (c : Option Nat) (d : List Byte) (ran : Bool) : State :=
  { run0 with bnd := [(0, { Bindery.empty with
    queues := [(0, { BndQueue.empty with run := .running, count := 4 })], cur := some { BndRun.fresh c 0 d with ran := ran } })] }

/-- A host descriptor with and without a vote, a wait, the end of a descriptor, and END and JMP. -/
theorem test_witness_BinderyTakesAndEnds :
    (∀ f ∈ [0, 4], let s := hostq [fprD f]
      (s.bindery 0).cur = none ∧ s.flt.drained = false ∧ s.d3hot = false ∧ s.svcOf (codeStack 0) = .inService ∧
        (s.bindery 0).hostq = [fprD f] ∧ (s.bindery 0).hostSaved = none ∧ s.bndAccess (dF (fprD f) 16 6) = 0 ∧ dWen (fprD f) = false ∧ s.descFault 0 none (fprD f) = none ∧
        dVoten (fprD f) = (f == 4) ∧ dOp (fprD f) = 4 ∧ s.badIn (dF (fprD f) 16 6) 1 = false ∧ s.byteAt (dF (fprD f) 16 6) ≠ 0) ∧
    (let s := { hostq [fprD 1] with
       bnd := [(0, { Bindery.empty with hostq := [fprD 1], waitOrder := [8] })]
       bndWaits := [(8, (0, 0))] }
     (s.bindery 0).waitOrder.find? (fun i => !s.bndWaited 0 i) = some 8 ∧ s.bndHead 0 8 = some (BndRun.fresh none 0 (fprD 1)) ∧
       (s.bndWait 0 8 (BndRun.fresh none 0 (fprD 1))).isSome = true) ∧
    (let s := bndRuns (some 0) (fprD 0) true
     ((s.bindery 0).cur.any fun r => r.ran && r.status == 0 && r.ctx == some 0 && s.bndRecordStatus 0 r == 0) = true ∧ dDen (fprD 0) = false) ∧
    (∀ op ∈ [0, 7], let d := bdesc [(0, 1, op), (24, 6, 0x10000), (32, 4, 3)]
      ((bndRuns (some 0) d false).bindery 0).cur = some { BndRun.fresh (some 0) 0 d with ran := false } ∧ dDen d = false ∧
        dOp d = op ∧ (bndRuns (some 0) d false).bndRecordStatus 0 (BndRun.fresh (some 0) 0 d) = 0) := by
  decide +kernel

/-- A descriptor of each operation; GATH with its result before and after its table; SCAT with valid fields. -/
theorem test_witness_BinderyOperations :
    (∀ op ∈ [1, 2, 3, 4, 5, 6],
      ((bndRuns none (bdesc [(0, 1, op)]) false).bindery 0).cur = some (BndRun.fresh none 0 (bdesc [(0, 1, op)])) ∧
        dOp (bdesc [(0, 1, op)]) = op ∧ (bndRuns none (bdesc [(0, 1, op)]) false).bad = []) ∧
    (let d := bdesc [(0, 1, 5), (10, 5, 2), (32, 2, 16), (36, 4, 3), (40, 6, 0), (52, 6, 48)]
     dF d 40 6 + dF d 36 4 * dRowB d ≤ dF d 52 6) ∧
    (let d := bdesc [(0, 1, 5), (10, 5, 2), (32, 2, 16), (36, 4, 3), (40, 6, 32), (52, 6, 0)]
     dF d 52 6 + dN d * dRowB d ≤ dF d 40 6) ∧
    descFieldsOk (bdesc [(0, 1, 6), (10, 5, 2), (32, 2, 16), (36, 4, 3), (40, 6, 0), (46, 6, 256), (52, 6, 512)]) = true := by
  decide +kernel

theorem reverseBits_lt (w n : Nat) : reverseBits w n < 2 ^ w := by
  induction w generalizing n with
  | zero => simp [reverseBits]
  | succ w ih =>
    have h := ih (n / 2)
    have hb : n % 2 < 2 := Nat.mod_lt _ (by decide)
    simp only [reverseBits, pow_succ]
    nlinarith [Nat.mod_two_eq_zero_or_one n]

theorem crc32c_lt (bs : List Byte) : crc32c bs < 2 ^ 32 := by
  have : crc32c bs = reverseBits 32 (bs.foldl (crcByte (crcParams 0)) 0xFFFFFFFF) ^^^ 0xFFFFFFFF := rfl
  rw [this]
  exact Nat.xor_lt_two_pow (reverseBits_lt _ _) (by decide)

/-- A frame with its check sum. -/
def framed (body : List Byte) : List Byte := body ++ toLE 4 (crc32c body)

theorem frameGood_framed (body : List Byte) (h : body.length = 1281) (n : Nat) : frameGood (.good n) (framed body) = true := by
  simp only [frameGood, framed, Bool.and_eq_true, beq_iff_eq]
  refine ⟨by simp [h], ?_⟩
  rw [List.take_left' h]
  unfold leAt
  rw [List.drop_left' h, List.take_of_length_le (by simp), leNat_toLE]
  exact Nat.mod_eq_of_lt (crc32c_lt body)

/-- The body of a data frame of a header, with no slot or with one used. -/
def dataBody (hd : Nat) (used : Bool) : List Byte := toLE 4 hd ++ toLE 12 (if used then 2 ^ 4 else 0) ++ List.replicate 1265 0

theorem dataBody_length (hd : Nat) (used : Bool) : (dataBody hd used).length = 1281 := by
  simp only [dataBody, List.length_append, toLE_length, List.length_replicate]

/-- Sub-port 127 in a state; port 31 is split in four. -/
def ported (v : SubPort) : State :=
  { State.reset with ports := [(127, v)], fab := { Fabric.reset with snLock := true, ctl := [(31, { PortCtl.reset with split := 2 })] } }

/-- A sub-port that is UP. -/
def upPort : SubPort := { SubPort.reset with st := 7 }

/-- A packet of a type from station 9 to a station, on sub-port 0. -/
def pkt (ptype : Byte) (vl : Fin 8) (dst : BitVec 24) (flow : BitVec 16) (body : List Byte) : Packet :=
  ⟨0, vl, dst, 9, 0, ptype, flow, 0, 0, body ++ List.replicate (48 - body.length) 0⟩

/-- A full window and one with room and a packet to send; a frame to resend; training; the states that send nothing. -/
theorem test_witness_FramesSent :
    (let v := { upPort with held := List.replicate 64 (0, []) }
     (ported v).present 127 = true ∧ ((ported v).port 127).resend = [] ∧ (ported v).window 127 ≤ v.held.length ∧ v.freed.length = 8) ∧
    (let s : State := { ported { upPort with credIn := List.replicate 8 1 } with
        egress := [⟨pkt 0x11 7 0 0 [], 127, 0, 128⟩] }
     ((s.port 127).held.length < s.window 127) ∧ ((s.at 5).fill 127 5).2 ≠ []) ∧
    (let v := { upPort with resend := [5], held := [(5, [])] }
     ((ported v).port 127).st = 7 ∧ ((ported v).port 127).resend = [5] ∧ (v.held.find? fun y => y.1 == 5) = some (5, []) ∧
       v.freed.length = 8) ∧
    (∀ st ∈ [4, 5, 6, 0, 3, 9], ((ported { upPort with st := st }).port 127).st = st) := by
  decide +kernel

/-- A bad frame; good frames empty, out of sequence and in sequence; one that asks for a replay; a training frame to a sub-port that
is UP. -/
theorem test_witness_FramesReceived :
    frameGood (.uncorrectable 1) [] = false ∧
    (∀ hd used, frameGood (.good 3) (framed (dataBody hd used)) = true) ∧
    (∀ x ∈ [(1, false), (2, true), (0, true)],
      let b := framed (dataBody x.1 x.2)
      bitsOf (leAt b 0 4) 24 2 = 0 ∧ (leAt b 0 4).testBit 26 = false ∧
        ((List.range 19).any fun j => (leAt b 4 12).testBit (5 * j + 4)) = x.2 ∧
        decide (bitsOf (leAt b 0 4) 0 12 = (((ported upPort).port 127).ack + 1) % 4096) = (x.1 == 0)) ∧
    (let b := framed (dataBody (2 ^ 26 + 2 ^ 12) false)
     let v := { upPort with held := [(1, []), (2, [])] }
     bitsOf (leAt b 0 4) 24 2 = 0 ∧ (leAt b 0 4).testBit 26 = true ∧
       ((List.range 19).any fun j => (leAt b 4 12).testBit (5 * j + 4)) = false ∧
       ((v.timed 0 b).release (bitsOf (leAt b 0 4) 12 12)).held ≠ [] ∧ ((ported v).port 127).rplNext = none ∧
       ((ported v).port 127).rplAck = none) ∧
    bitsOf (leAt (framed (dataBody (2 ^ 24) false)) 0 4) 24 2 = 1 ∧
    (∀ f, ((ported { upPort with pendRpl := true, follow := f }).port 127).pendRpl = true ∧
      ((ported { upPort with pendRpl := true, follow := f }).port 127).follow = f) ∧ (ported upPort).present 127 = true := by
  refine ⟨rfl, fun hd used => frameGood_framed _ (dataBody_length hd used) 3, ?_, ?_, ?_, ?_, ?_⟩ <;> decide +kernel

/-- The body of a training frame of state `ts`, with flags and the neighbour's number, and the pattern of TSEQ 0 or zeros. -/
def trainBody (ts fl sn : Nat) (pat : Bool) (echo : Nat) : List Byte :=
  toLE 4 (2 ^ 24) ++ List.replicate 12 0 ++ toLE 2 1 ++ toLE 1 ts ++ toLE 1 fl ++ toLE 3 sn ++ List.replicate 49 0 ++
    (if pat then (List.range 1160).map fun j => BitVec.ofNat 8 (j * 37) else List.replicate 1160 0) ++
    List.replicate 38 0 ++ toLE 6 echo ++ List.replicate 5 0

theorem trainBody_length (ts fl sn : Nat) (pat : Bool) (echo : Nat) : (trainBody ts fl sn pat echo).length = 1281 := by
  cases pat <;>
    simp only [trainBody, List.length_append, toLE_length, List.length_replicate, if_true, if_false, List.length_map,
      List.length_range, Bool.false_eq_true]

theorem trainBody_pattern (ts fl sn echo : Nat) (h : leAt (framed (trainBody ts fl sn true echo)) 26 2 = 0) :
    patternGood (framed (trainBody ts fl sn true echo)) = true := by
  unfold patternGood
  rw [h, List.all_eq_true]
  intro j hj
  rw [List.mem_range] at hj
  obtain ⟨P, R, hP, e⟩ : ∃ P R : List Byte, P.length = 72 ∧ framed (trainBody ts fl sn true echo) =
      P ++ (((List.range 1160).map fun j => BitVec.ofNat 8 (j * 37)) ++ R) := by
    refine ⟨toLE 4 (2 ^ 24) ++ List.replicate 12 0 ++ toLE 2 1 ++ toLE 1 ts ++ toLE 1 fl ++ toLE 3 sn ++ List.replicate 49 0,
      List.replicate 38 0 ++ toLE 6 echo ++ List.replicate 5 0 ++ toLE 4 (crc32c (trainBody ts fl sn true echo)), ?_, ?_⟩
    · simp only [List.length_append, toLE_length, List.length_replicate]
    · simp only [framed, trainBody, if_true, List.append_assoc]
  rw [e, beq_iff_eq, List.getD_eq_getElem?_getD, List.getElem?_append_right (by omega), hP, Nat.add_sub_cancel_left,
    List.getElem?_append_left (by simpa using hj), List.getElem?_map, List.getElem?_range hj]
  rfl

/-- What a good training frame is, and one that says nothing; in ALIGN below and at its last count, with the pattern and without
it; in EXCHANGE with the neighbour's split and another, with its own number and another, ready or not; in DELAY with enough
round trips and with too few. -/
theorem test_witness_TrainingFrames :
    (∀ ts fl sn pat echo, frameGood (.good 0) (framed (trainBody ts fl sn pat echo)) = true) ∧
    (let b := framed (trainBody 4 64 3 true 0)
     bitsOf (leAt b 0 4) 24 2 = 1 ∧ leAt b 16 2 = 1 ∧ leAt b 18 1 = 4 ∧ (leAt b 19 1).testBit 6 = true) ∧
    patternGood (framed (trainBody 4 64 3 true 0)) = true ∧
    patternGood (framed (trainBody 4 64 3 false 0)) = false ∧
    (∀ st ∈ [4, 5, 6, 7], ∀ n ∈ [0, 62, 63, 64], ((ported { upPort with st := st, aligned := n }).port 127).aligned = n ∧
      ((ported { upPort with st := st }).port 127).st = st ∧ (ported { upPort with st := 4, aligned := n }).fab.snLock = true) ∧
    State.reset.fab.snLock = false ∧ frameGood (.uncorrectable 0) [] = false ∧
    (bitsOf (leAt (framed (dataBody 1 false)) 0 4) 24 2 = 0 ∧ bitsOf (leAt (framed (dataBody (2 ^ 25) false)) 0 4) 24 2 = 2 ∧
      ∀ hd, frameGood (.good 0) (framed (dataBody hd false)) = true) ∧
    (∀ f ∈ [2, 0x12], let b := framed (trainBody 5 f 3 false 0)
     leAt b 18 1 = 5 ∧ bitsOf (leAt b 19 1) 0 2 = ((ported upPort).pctl 31).split ∧ leAt b 20 3 ≠ (ported upPort).station ∧
       (leAt b 19 1).testBit 4 = (f == 0x12)) ∧
    leAt (framed (trainBody 5 2 0xFFFFFF false 0)) 20 3 = (ported upPort).station ∧
    (let b := framed (trainBody 5 0 3 false 0)
     bitsOf (leAt b 19 1) 0 2 ≠ ((ported upPort).pctl 31).split) ∧
    (let b := framed (trainBody 6 0x22 3 false 100)
     ∀ n ∈ [254, 255], let v := { upPort with st := 6, dcount := n, sentAt := [100], best := 900 }
       ((ported v).port 127).sentAt.contains (leAt b 1270 6) = true ∧ (leAt b 19 1).testBit 5 = true ∧ leAt b 18 1 = 6 ∧
         ((ported v).port 127).dcount = n) := by
  refine ⟨fun ts fl sn pat echo => frameGood_framed _ (trainBody_length ts fl sn pat echo) 0, ?_, trainBody_pattern _ _ _ _ ?_,
    ?_, ?_, ?_, ?_, ⟨?_, ?_, fun hd => frameGood_framed _ (dataBody_length hd false) 0⟩, ?_, ?_, ?_, ?_⟩ <;> decide +kernel

/-- A sub-port in each training state, with and without signal, with all lanes and with one missing; a port that is enabled and
not split. -/
theorem test_witness_TrainingEvents :
    (∀ st ∈ [2, 3, 5, 6], ∀ l ∈ [0, 1], ((ported { upPort with st := st, lanes := l }).port 127).st = st ∧
      ((ported { upPort with st := st, lanes := l }).port 127).lanes = l ∧
      ((ported { upPort with st := st, lanes := l }).port 127).fastNext = false) ∧
    (∀ f, ((ported { upPort with follow := f }).port 127).follow = f) ∧
    (ported upPort).present 127 = true ∧ (15 : BitVec 16).toNat = 2 ^ ((ported upPort).pctl 31).lanes - 1 ∧
    (14 : BitVec 16).toNat < 2 ^ ((ported upPort).pctl 31).lanes - 1 ∧
    (State.reset.pctl 0).split = 0 ∧ (State.reset.pctl 0).en = true := by
  decide +kernel

/-- A sub-port UP on an unsplit port; one that quiesces; a packet for another station with a route. -/
theorem test_witness_PortsQuiesceAndForward :
    (let s : State := { State.reset with ports := [(0, upPort)] }
     (s.pctl 0).split = 0 ∧ (s.port (4 * 0)).st = 7) ∧
    ((ported { upPort with st := 8 }).port 127).st = 8 ∧
    (let s : State := { ported upPort with station := 3, fab := { (ported upPort).fab with rtl := [(5, 127 + 2 ^ 28)] } }
     let k := pkt 0x11 7 5 0 []
     packetOk k = true ∧ k.dst.toNat ≠ s.station ∧ s.fab.inbox.contains k = false ∧ s.fab.loop.contains k = false ∧
       s.fab.kept.contains k = false ∧ s.route k = .inl 127) := by
  decide +kernel

/-- A state of station 3 with closure 1023 of context 0 open, of two arrivals, at a count; its parent and child are station 9. -/
def closing (count : Nat) (t3 : Bool) (parent : Nat) : State :=
  let c : Closure := ⟨.opened, 0, parent, [9], [0], 0, false, count, t3, 0, []⟩
  { run0 with station := 3, closures := [(1023, c)] }

/-- A slip of closure 1023 with a parity and a status. -/
def clSlip (ptype : Byte) (par status : Nat) : Packet := pkt ptype 7 3 0 (toLE 2 (1023 + par * 2 ^ 13) ++ toLE 2 status)

/-- ARRIVE from no child, of the other parity, before the last and as the last; COMPLETE; FAIL. -/
theorem test_witness_ClosureSlips :
    (∀ x ∈ [(0, 0), (0, 1), (1, 0)],
      let k := clSlip 0x11 x.2 0
      let s := closing x.1 true 4
      let c := s.closure (pf k 0 2 % 1024)
      c.st = .opened ∧ c.ctx = bitsOf (pf k 0 2) 10 3 ∧ s.handles k 0x11 ∧ closureSlipOk k false = true ∧ k.src.toNat ∈ c.child ∧
        (pf k 0 2).testBit 13 = (x.2 == 1) ∧ c.parity = false ∧ decide (c.count + 1 = c.total) = (x.1 == 1) ∧ c.parent ≠ 0xFFFFFF) ∧
    (let s := { closing 0 true 4 with closures := [(1023, { Closure.idle with st := .opened, child := [10] })] }
     s.handles (clSlip 0x11 0 0) 0x11 ∧ (s.closure 1023).st = .opened ∧ (clSlip 0x11 0 0).src.toNat ∉ (s.closure 1023).child) ∧
    (let k := clSlip 0x12 0 0
     let s := closing 2 false 9
     let c := s.closure 1023
     s.handles k 0x12 ∧ closureSlipOk k false = true ∧ k.src.toNat = c.parent ∧ (pf k 0 2).testBit 13 = c.parity ∧
       c.heldOrder = [] ∧ 0 < c.total ∧ c.st = .opened) ∧
    (∀ st ∈ [0x0504, 0x0602], (closing 0 true 4).handles (clSlip 0x13 0 st) 0x13 ∧ closureSlipOk (clSlip 0x13 0 st) true = true) := by
  unfold State.handles
  decide +kernel

/-- A STAKE slip that sets and one that clears the last stake of parcel 0. -/
def stakeSlip (clr ack : Nat) : Packet :=
  pkt 0x16 7 3 0 (toLE 3 (unitPath 0) ++ toLE 1 0 ++ toLE 1 47 ++ toLE 1 clr ++ toLE 1 ack)

/-- Parcel 0 with an entry that waits for the acknowledgement of its sets of stake 5 of another station, of which `n` are
outstanding. -/
def acking (n : Nat) : State :=
  let s := run0.heads 0 .m (ent [(0, 0xF2), (11, 5), (9, 3)]) .ack
  { s with station := 3, fab := { s.fab with
      acks := List.replicate n (qKey 0 0 0, bytesAt (stakeBody (ent [(0, 0xF2), (11, 5), (9, 3)]) true true) 0 6) } }

/-- STAKE on a stake CLEAR, SET and ABANDONED, with its acknowledgement asked for and without; EPOCH; a CACK of the last slip
outstanding, which ends a wait, and of one of two. -/
theorem test_witness_StakePackets :
    (∀ clr ∈ [0, 1], ∀ a ∈ [0, 1], ∀ st ∈ [StakeSt.set, .clear, .abandoned],
      let s := { staked st 0 with station := 3 }
      let k := stakeSlip clr a
      s.handles k 0x16 ∧ stakeSlipOk k = true ∧ pf k 6 1 = a ∧ (s.take k).slipHolder k = some (engKey 0 0) ∧
        (s.ctx (keyCtx (engKey 0 0))).st = .running ∧
        s.waiters (engKey 0 0) (pf k 4 1) = [] ∧ (s.stake (engKey 0 0) (pf k 4 1)).st = st) ∧
    (let s := { staked .clear (2 ^ 21) with station := 3 }
     let k := pkt 5 6 3 0 (toLE 4 0 ++ toLE 2 0 ++ toLE 1 0xFF)
     s.handles k 5 ∧ (unitRef (pf k 0 4)).isSome = true ∧ tailZero k 7 = true ∧
       bit (s.stake (engKey 0 0) 47).entry 21 = true ∧ (pf k 6 1).testBit (keyCtx (engKey 0 0)) = true ∧ ∀ c, c < 8 → (s.ctx c).inImage = false) ∧
    (∀ n ∈ [1, 2],
      let k := pkt 2 4 3 0 (toLE 1 1 ++ bytesAt (stakeBody (ent [(0, 0xF2), (11, 5), (9, 3)]) true true) 0 6)
      let s := acking n
      s.handles k 2 ∧ pf k 0 1 = 1 ∧ pf k 7 1 = 0 ∧ k.flow = 0 ∧
        (s.fab.acks.find? fun j => keyCtx (j.1 / 4) == k.ctx.toNat && j.2 == bytesAt k.body 1 6) = s.fab.acks.head? ∧
        ((s.fab.acks.erase (s.fab.acks.headD (0, []))).any fun j => j.1 == qKey 0 0 0) = (n == 2) ∧
        (s.ctx k.ctx.toNat).st = .running ∧
        (s.queue (engKey 0 0) .m).head = some ⟨7, ent [(0, 0xF2), (11, 5), (9, 3)], .ack⟩) := by
  unfold State.handles
  decide +kernel

/-- The queues M of the die, bound to station tract 7 or not, and of what lies on the way to parcel 0, bound to their tracts; parcel 0
runs an entry already, or nothing. -/
def stracted (fed full : Bool) : State :=
  let p := if full then { Queue.empty with fed := true, head := some ⟨7, 0, .engine⟩, passed := [(0, 0)] }
    else { Queue.empty with fed := true }
  { [0, 16384, 17408, 17472].foldl (fun s u =>
      s.setQueue (engKey 0 u) .m (if u = 0 then p else { Queue.empty with fed := true }))
      (run0.setQueue (engKey 0 17476) .m { Queue.empty with fed := fed }) with
    station := 3, stracts := [(7, ⟨9, 5, []⟩)] }

/-- An STENTRY for a die that is bound and for one that is not. -/
theorem test_witness_StationEntries : ∀ b f,
    let s := stracted b f
    let k := pkt 0x15 7 3 0 (toLE 2 7 ++ toLE 14 0 ++ toLE 16 0x11)
    s.handles k 0x15 ∧ stentryOk k = true ∧ (Map.find s.stracts (pf k 0 2)).isSome = true ∧ (s.queue (engKey 0 17476) .m).fed = b ∧
      s.runsIn 0 17476 = true ∧ (s.take k).fedParcels 0 .m 4 17476 = [0] ∧
      (s.queue (engKey 0 0) .m).head.isSome = f := by
  unfold State.handles
  decide +kernel

/-- A firmware message of a channel with a payload, in as many slots as it takes. -/
def fwPkt (chan : Nat) (bs : List Byte) : Packet :=
  let n := (bs.length + 31) / 64
  { pkt 3 5 3 (BitVec.ofNat 16 chan) (bytesAt (toLE 4 77 ++ toLE 2 bs.length ++ List.replicate 10 0 ++ bs) 0 (48 + 64 * n)) with nslot := n }

/-- A message that waits, sent again a number of times. -/
def fwWait (tries : Nat) (r : Option Started) : State :=
  { State.reset with station := 3, fab := { Fabric.reset with waiting := [⟨55, 9, 3, [], tries, r⟩] },
                     cmd := { State.reset.cmd with started := r.toList } }

/-- A begun command. -/
def began : Started := ⟨0x0403, 0, 7, 0, false, false, false, 0, [], true, 1, false, false, 0, [], true⟩

/-- STJOIN and STLEAVE, new and answered before; a ROUTEPUSH of two entries at the end of the table; RELAY; MACK; a message that
is sent again and one that is given up, with a command and without. -/
theorem test_witness_FirmwareMessages :
    (∀ o ∈ [[], [(9, 77, 0)]],
      let s : State := { State.reset with station := 3, fab := { Fabric.reset with answered := o } }
      let j := fwPkt 1 (toLE 2 7 ++ toLE 3 9 ++ toLE 1 10 ++ toLE 1 7 ++ toLE 5 0)
      let l := fwPkt 2 (toLE 2 7)
      (s.handles j 3 ∧ fwOk j = true ∧ j.flow = 1 ∧ fwLen j = 12 ∧ leAt (fwPayload j) 5 1 = 10 ∧ leAt (fwPayload j) 6 1 = 7 ∧
        leAt (fwPayload j) 7 1 = 0) ∧
      (s.handles l 3 ∧ fwOk l = true ∧ l.flow = 2 ∧ fwLen l = 2) ∧
      (s.fab.answered.find? fun a => a.1 == j.src.toNat && a.2.1 == pf j 0 4) = o.head? ∧ s.stracts.length < 256) ∧
    (let s : State := { State.reset with station := 3, mod := { State.reset.mod with mgmtUp := true } }
     let k := fwPkt 3 (toLE 2 1 ++ toLE 2 8190 ++ toLE 2 2 ++ toLE 2 0 ++ toLE 4 5 ++ toLE 4 6)
     let b := fwPayload k
     let r := fwPkt 4 (List.replicate 256 0)
     s.handles k 3 ∧ fwOk k = true ∧ k.flow = 3 ∧ fwLen k = 8 + 4 * leAt b 4 2 ∧ 1 ≤ leAt b 4 2 ∧ leAt b 4 2 ≤ 1022 ∧
       leAt b 2 2 + leAt b 4 2 ≤ 8192 ∧ (leAt b 0 1).testBit 0 = true ∧ s.fab.answered = [] ∧ paramsOk 0x0402 b = true ∧
       paramsOk 0x0402 (toLE 2 3 ++ b.drop 2) = false ∧
       s.handles r 3 ∧ fwOk r = true ∧ r.flow = 4 ∧ fwLen r = 256 ∧ s.mod.mgmtUp = true) ∧
    (∀ r ∈ [none, some began, some { began with op := 0x0402 }], ∀ st ∈ [0, 0x0204], let s := fwWait 0 r
     let k := fwPkt 5 (toLE 4 55 ++ toLE 2 st ++ toLE 2 3)
     let b := fwPayload k
     s.handles k 3 ∧ fwOk k = true ∧ k.flow = 5 ∧ fwLen k = 8 ∧ pf k 6 1 = 0 ∧ leAt b 4 2 = st ∧
       (s.fab.waiting.find? fun w => w.mseq == leAt b 0 4 && w.dst == k.src.toNat && w.chan == leAt b 6 2) =
         some ⟨55, 9, 3, [], 0, r⟩ ∧
       ((s.fab.waiting.erase ⟨55, 9, 3, [], 0, r⟩).any fun x => x.cmd == r) = false ∧ s.cmd.started = r.toList) ∧
    (let s : State := { fwWait 0 (some began) with fab := { Fabric.reset with
        waiting := [⟨55, 9, 3, [], 0, some began⟩, ⟨56, 10, 3, [], 0, some began⟩] } }
     (s.fab.waiting.erase ⟨55, 9, 3, [], 0, some began⟩).any (fun x => x.cmd == some began) = true) ∧
    (∀ n ∈ [2, 3], ∀ r ∈ [none, some began, some { began with op := 0x0402 }],
      ((fwWait n r).fab.waiting.find? fun w => w.mseq == (55 : BitVec 32).toNat) = some ⟨55, 9, 3, [], n, r⟩ ∧
      (fwWait n r).cmd.started = r.toList) := by
  unfold State.handles
  refine ⟨?_, ?_, ?_, ?_, ?_⟩ <;> decide +kernel

/-- Collective 5 of two members, whose plan gives rank 1, station 9, the second granule, tile or row; the packet's station has an
epoch recorded or not. -/
def dataAt (kind : Nat) (st : ColSt) (ep : Map Nat) : State :=
  let c := col0 kind 0
  { State.reset with
    station := 3
    cols := [(5, { c with r := { c.r with plan := 0x1000, dest := 0x4000, dtag := 0x5000, rcnt := 0x6000, cap := 1, rowb := 16 },
                          st := st, epochs := ep })]
    mem := (State.reset.mem.writeN 0x1000 ([0x40, 2, 0x50, 2].flatMap fun x => toLE 4 x)).writeN 0x1040
      ([0, 1, 1, 1, 3, 9].flatMap fun x => toLE 4 x) }

/-- A DATA packet of one granule for a run. -/
def dataPkt (role tidx run boff : Nat) : Packet :=
  pkt 1 0 3 5 (toLE 4 (tidx + role * 2 ^ 20) ++ toLE 2 run ++ toLE 6 0 ++ toLE 4 boff ++ toLE 4 1 ++ toLE 2 16)

/-- A permute whose only run has not been read, without scratch. -/
def permuting : State :=
  let s := dataAt 4 .running []
  { s with
    cols := s.cols.map fun kv => (kv.1, { kv.2 with r := { kv.2.r with pin := 100 } })
    mem := (s.mem.writeN 0x1030 (toLE 4 0x80 ++ toLE 4 1)).writeN 0x1080 ([0, 9, 0, 16].flatMap fun x => toLE 4 x) }

/-- DATA of another epoch, of a run to come and of one that has ended, and taken by each of the roles 0, 2, 3 and 4; a stack that refuses
the count word; a permute packet that has to wait. -/
theorem test_witness_DataPackets :
    (∀ x ∈ [(0, 0, ColSt.running, [(9, 1)]), (0, 0, .idle, [(9, 0)]), (0, 7, .running, [(9, 0)]), (0, 0, .running, [(9, 0)]),
        (1, 2, .armed, []), (3, 3, .running, []), (3, 4, .running, [(9, 0)])],
      let s := dataAt x.1 x.2.2.1 x.2.2.2
      let k := dataPkt (if x.2.1 = 7 then 0 else x.2.1) 1 (if x.2.1 = 7 then 9 else 1) (if x.2.1 = 2 then 16 else 0)
      s.handles k 1 ∧ dataOk k = true ∧
      (s.col k.flow.toNat).any (fun c => !c.waiting && c.r.ctx == k.ctx &&
        (match Map.find c.epochs k.src.toNat with
         | some e => e != k.sepoch.toNat || c.runCheck (pf k 4 2) == (if x.2.1 = 7 then .inr false else if c.st = .idle then .inr true else .inl ())
         | none => c.runCheck (pf k 4 2) == .inl ()) && Map.find c.cur.counts 1 == none && c.r.cap == 1 && c.rowBytes == 16 &&
        ((List.range c.r.nmem.toNat).find? fun o => s.member c.r o == k.src.toNat) == some 1 &&
        s.ownerIn c.r (dBoff k / 16) == some (dBoff k / 16) && s.shard c.r 1 == (1, 1) && s.planStatus c.r == 0 &&
        ([(0x4010, 16), (0x5004, 4), (0x6004, 4)].all fun x => s.rangeStatus c.r.ctx.toNat x.1 x.2 == 0) &&
        (c.sums == (x.1 == 0) && c.gathers == (x.1 == 1) && c.isA2a == (x.1 == 3))) = true) ∧
    (let s : State := { dataAt 3 .running [(9, 0)] with hbm := [(0, { Stack.reset with stop := true })] }
     s.rangeStatus 0 0x6004 4 = 0x0752) ∧
    (permuting.handles (dataPkt 5 0 1 0) 1 ∧ permuting.permWaits (dataPkt 5 0 1 0) = true) := by
  unfold State.handles
  decide +kernel

/-- A notice about DATA for a collective that is armed and one that runs; one about a firmware message and another; slips of a
child for the current run and for the next, of the recorded epoch and of another. -/
theorem test_witness_NoticesAndReductions :
    (∀ st ∈ [ColSt.armed, .running], let s := dataAt 2 st []
      let k := pkt 4 6 3 0 (toLE 2 0x0712 ++ toLE 3 9 ++ toLE 1 0xFF ++ toLE 2 5 ++ toLE 1 1)
      s.handles k 4 ∧ leAt k.body 8 1 = 1 ∧ s.stagingWaiters (leAt k.body 6 2 % 4096) = [] ∧ (s.col (leAt k.body 6 2 % 4096)).any (fun c => !c.waiting && c.st == st) = true) ∧
    ((dataAt 2 .idle []).handles (pkt 4 6 3 0 (toLE 8 0 ++ toLE 1 4)) 4 ∧ leAt (pkt 4 6 3 0 (toLE 8 0 ++ toLE 1 4)).body 8 1 = 4) ∧
    (∀ f ∈ [0, 5], let k := pkt 4 6 3 0 (toLE 2 0x0712 ++ toLE 3 9 ++ toLE 1 0xFF ++ toLE 2 f ++ toLE 1 2)
      (dataAt 2 .running []).handles k 4 ∧ leAt k.body 8 1 = 2 ∧ leAt k.body 6 2 = f) ∧
    (let s := fwWait 0 (some began)
     let k := pkt 4 6 3 0 (toLE 2 0x0761 ++ toLE 4 0 ++ toLE 2 3 ++ toLE 1 3 ++ toLE 3 9)
     s.handles k 4 ∧ leAt k.body 8 1 = 3 ∧ ((s.take k).fab.waiting.filter fun w => w.chan == leAt k.body 6 2 && w.dst == leAt k.body 9 3) =
       [⟨55, 9, 3, [], 0, some began⟩]) ∧
    (∀ x ∈ [(ColSt.running, 1), (.idle, 2), (.complete, 2)], ∀ ep ∈ [[], [(9, 0)], [(9, 1)]],
      let c := { col0 6 0 with epochs := ep, schild := [9], st := x.1, r := { (col0 6 0).r with sop := 2, slen := 4 } }
      let s : State := { State.reset with station := 3, cols := [(5, c)] }
      let k := pkt 0x14 7 3 0 (toLE 2 5 ++ toLE 2 x.2 ++ toLE 1 2 ++ toLE 1 0 ++ toLE 1 3)
      s.handles k 0x14 ∧ s.col (pf k 0 2 % 4096) = some c ∧ c.waiting = false ∧ c.slipOk k = true ∧ (pf k 6 1).testBit 6 = false ∧
        Map.find c.epochs k.src.toNat = (ep.head?).map (·.2) ∧ k.sepoch.toNat = 0 ∧ k.src.toNat ∈ c.schild ∧ c.isSlip = true ∧ c.cur.slipFrom = [] ∧ c.cur.slipOwn = false ∧ c.early = [] ∧
        pf k 2 2 = (if c.st = .running then c.run else (c.run + 1) % 65536)) := by
  unfold State.handles
  decide +kernel

/-- A record of a SLIP collective of handle 5, and one with a kind that does not exist. -/
def slipRec (kind : Nat) : ColRec := { rec0 kind 0 with nmem := 0, sreq := 0, smin := 0, ntile := 0, sop := 2, slen := 4 }

/-- An RS collective of two members with its plan at 0x1000, and a state that holds that plan for station 3. -/
def planRec : ColRec :=
  { rec0 0 0 with plan := 0x1000, src := 0x8000, dest := 0x4000, scode := 0x9000, dcode := 0xA000, cadr := 0x7000, sreq := 1, smin := 1,
                  start := 2 ^ 18, done := 3 * 2 ^ 17 }

/-- See `planRec`. -/
def planned : State := { run0 with station := 3, mem := State.reset.mem.writeN 0x1000 ([0x40, 2, 0x50, 2].flatMap fun x => toLE 4 x) }

/-- COL_OPEN of a good record, of a bad one, of a handle that is open and with an unreadable plan. -/
theorem test_witness_CollectiveOpens :
    (∀ rec, let ps := Instr.params (.colOpen hdr0 rec [])
      Admitted (run0.asked 0x0407 ps) hdr0 0x0407 ps (started0 0x0407 ps)) ∧
    (run0.asked 0x0407 (Instr.params (.colOpen hdr0 (slipRec 6) []))).openStatus (slipRec 6) [] = none ∧
    recordOk (slipRec 7) [] = false ∧
    (let s : State := { planned.asked 0x0407 [] with hbm := [(0, { Stack.reset with stop := true })] }
     recordOk planRec [] = true ∧ s.recordPlaces planRec = true ∧ s.planStatus planRec = 0x0752) ∧
    (let s : State := { run0.asked 0x0407 (Instr.params (.colOpen hdr0 (slipRec 6) [])) with cols := [(5, col0 6 0)] }
     Admitted s hdr0 0x0407 (Instr.params (.colOpen hdr0 (slipRec 6) [])) (started0 0x0407 (Instr.params (.colOpen hdr0 (slipRec 6) []))) ∧
       s.openStatus (slipRec 6) [] = some 0x0323) ∧
    (let s : State := { planned.asked 0x0407 (Instr.params (.colOpen hdr0 planRec [])) with bad := [(0x1000, true)] }
     s.openStatus planRec [] = some 0x0723) := by
  refine ⟨fun _ => admitted_started rfl rfl, ?_, ?_, ?_, ⟨admitted_started rfl rfl, ?_⟩, ?_⟩ <;> decide +kernel

/-- Collective 5 alone in a round, of a kind and an admission class, with slots asked for and the least that it takes. -/
def joining (kind acls sreq smin res : Nat) : State :=
  let c := col0 kind 0
  { run0 with
    cols := [(5, { c with grant := 0, waiting := true, st := .idle, r := { c.r with
      acls := BitVec.ofNat 2 acls, sreq := BitVec.ofNat 13 sreq, smin := BitVec.ofNat 13 smin } })]
    slotRes := res }

/-- Rounds of one collective: granted in full up to the last slot, in part, not at all, and of a kind without slots. -/
theorem test_witness_AdmissionGrants :
    ∀ x ∈ [(0, 0, 4096, 4096, 0), (2, 1, 2, 1, 4095), (2, 1, 2, 2, 4095), (6, 0, 0, 0, 0)],
      let s := joining x.1 x.2.1 x.2.2.1 x.2.2.2.1 x.2.2.2.2
      let c := (s.cols.headD (0, col0 0 0)).2
      let free := 4096 - (s.cols.map fun kv => kv.2.grant).sum
      let av := if c.r.acls = 0 then free else free - s.freeReserved
      Map.rising s.cols = true ∧ (s.cols.map fun kv => kv.2.grant).sum ≤ 4096 ∧
        (s.cols.filter fun kv => kv.2.waiting) = [(5, c)] ∧ s.col 5 = some c ∧ c.sums = (x.1 != 6) ∧
        decide (c.r.sreq.toNat ≤ av) = (x.2.2.1 != 2) ∧ decide (max c.r.smin.toNat 1 ≤ av) = (x.2.2.2.1 != 2) := by
  decide +kernel

/-- Collective 5 of two members with a plan, in a state; its ARM, START and DONE stakes are stakes 1, 2 and 3 of parcel 0. -/
def running (kind : Nat) (st : ColSt) (cur : ColRun) (set : List Nat) : State :=
  let c := col0 kind 0
  let r : ColRec :=
                  { c.r with
                    plan := 0x1000, src := 0x8000, dest := 0x4000, dtag := 0x5000, rcnt := 0x6000, cadr := 0x7000
                    cap := 1, rowb := 16, slen := 4, arm := 2 ^ 17, start := 2 ^ 18, done := 3 * 2 ^ 17 }
  let s := run0.setSync (engKey 0 0) { (run0.engOf (engKey 0 0)).sync with stakes := set.map fun i => (i, ⟨.set, 0⟩) }
  { s with
    station := 3
    cols := [(5, { c with r := r, st := st, cur := cur })]
    mem := ((State.reset.mem.writeN 0x1000 ([0x40, 2, 0x50, 2, 0x60, 2].flatMap fun x => toLE 4 x)).writeN 0x1040
      ([0, 1, 1, 3, 3, 9].flatMap fun x => toLE 4 x)).writeN 0x1060 ([0x2000003, 0, 0x2000009, 0].flatMap fun x => toLE 4 x) }

/-- COL_ARM of an A2A and of an RS collective, COL_START of a SLIP collective alone, a tile of an RS run taken, a plan in a stack
that refuses accesses, and a collective at rest. -/
theorem test_witness_CollectiveRuns :
    (let s := running 3 .idle ColRun.empty [1]
     (s.col (5 : BitVec 12).toNat).any (fun c => !c.waiting && !c.isSlip && c.st == .idle && c.isA2a &&
       stakeRef c.r.ctx.toNat c.r.arm.toNat == some (engKey 0 0, 1) && s.refState c c.r.start.toNat != .abandoned &&
       s.refState c c.r.arm.toNat == .set && (s.ctx c.r.ctx.toNat).st == .running &&
       s.rangeStatus c.r.ctx.toNat c.r.rcnt.toNat (4 * c.r.nmem.toNat) == 0) = true) ∧
    (let s := running 0 .idle ColRun.empty [1]
     (s.col (5 : BitVec 12).toNat).any (fun c => !c.waiting && !c.isSlip && c.st == .idle && c.sums &&
       s.refState c c.r.arm.toNat == .set && s.planStatus c.r == 0 &&
       (let own := s.shard c.r c.r.rank.toNat
        (c.tileRanges c.r.dest.toNat c.r.dcode.toNat own.1 own.2).all fun x => s.rangeStatus 0 x.1 x.2 == 0)) = true) ∧
    (let s := running 6 .complete ColRun.empty [2]
     (s.col (5 : BitVec 12).toNat).any (fun c => c.isSlip && c.st == .complete && s.refState c c.r.start.toNat == .set &&
       c.schild == [] && c.early == [] && c.r.sparent == 0xFFFFFF && !c.r.datumw &&
       (s.ctx c.r.ctx.toNat).st == .running &&
       s.rangeStatus 0 c.r.src.toNat c.r.slen.toNat == 0 && s.badKeys c.r.src.toNat c.r.slen.toNat == [] &&
       s.rangeStatus 0 c.r.dest.toNat c.r.slen.toNat == 0) = true) ∧
    (let s := running 0 .running ColRun.empty []
     (s.col (5 : BitVec 12).toNat).any (fun c => c.st == .running && c.sums && !c.r.stream && decide (1 ≤ c.grant) && c.cur.pos == [] &&
       decide (c.cur.next < c.r.ntile.toNat) && s.planStatus c.r == 0 &&
       (c.tileRanges c.r.src.toNat c.r.scode.toNat c.cur.next 1).all (fun x => s.rangeStatus 0 x.1 x.2 == 0 && s.badKeys x.1 x.2 == []) &&
       c.cur.first == none &&
       decide (c.cur.rcv + 1 < s.xt c.r) && decide (1 < (s.mergeOf c.r (s.ownerOf c.r c.cur.next)).2)) = true) ∧
    (let s : State := { running 0 .running ColRun.empty [] with hbm := [(0, { Stack.reset with stop := true })] }
     (s.col (5 : BitVec 12).toNat).any (fun c => !c.waiting && c.st == .running && c.sums && s.planStatus c.r == 0x0752) = true) ∧
    ((running 2 .armed ColRun.empty []).col (5 : BitVec 12).toNat).any (fun c => c.st != .running) = true ∧
    (∀ k ∈ [3, 0, 6], (running k .idle ColRun.empty [1]).flt.drained = false) ∧
    ({ State.reset with flt := { Flt.reset with drained := true } } : State).flt.drained = true := by
  decide +kernel

/-- A permute whose runs are all read, with bytes that wait; a slip run with its result and one without. -/
theorem test_witness_CollectiveEnds :
    (let s := running 4 .running { ColRun.empty with sentAll := true, held := [(0, 0, 16)] } []
     (s.col (5 : BitVec 12).toNat).any (fun c => !c.waiting && c.st == .running && c.isPerm && c.cur.sentAll &&
       c.cur.held.all fun x => s.rangeStatus 0 (c.r.scr.toNat + x.2.1) x.2.2 == 0 && s.badKeys (c.r.scr.toNat + x.2.1) x.2.2 == [] &&
         s.rangeStatus 0 (c.r.src.toNat + x.1) x.2.2 == 0) = true) ∧
    (∀ b, let s := running 6 .running { ColRun.empty with result := b } []
     (s.col (5 : BitVec 12).toNat).any (fun c => !c.waiting && c.st == .running && (s.colDone c == b) &&
       stakeRef c.r.ctx.toNat c.r.done.toNat == some (engKey 0 0, 3) && inFoot (s.ctx c.r.ctx.toNat).foot (keyUnit (engKey 0 0)) &&
       (s.ctx c.r.ctx.toNat).st == .running && s.rangeStatus 0 c.r.cadr.toNat 32 == 0) = true ∧
       (s.stake (engKey 0 0) 3).st = .clear ∧ s.waiters (engKey 0 0) 3 = [] ∧ s.stagingWaiters 5 = []) ∧
    (∀ b, let s : State := { running 0 .running { ColRun.empty with result := true, next := 4, rcv := 8 } [] with
       bad := if b then [(0, true)] else [] }
     (s.col (5 : BitVec 12).toNat).any (fun c => c.sums && s.colDone c && (s.badIn c.r.voteadr.toNat 1 == b)) = true) := by
  decide +kernel

/-- The state after reset with a bearing of its own. -/
def bearing (b : Brg) : State := { State.reset with brg := b }

/-- A bearing of a role that runs in a state. -/
def brg0 (role : Bool) (st : BrgSt) : Brg := { Brg.reset with role := role, run := true, st := st }

/-- A datum device that runs and one that does not; at the top; with a first edge, a second at the least distance and one too
soon. -/
theorem test_witness_DatumBearing :
    (∀ r, (bearing { Brg.reset with role := true, run := r }).brg.role = true) ∧
    (let s := bearing { brg0 true .locked with b0 := 0xFFFFFFFF, step := true }
     s.brg.valid = true ∧ s.brg.bearingAt 0 = 0xFFFFFFFF ∧ s.brg.top = false ∧ s.now ≤ 0 ∧ s.brg.edgeTime = none ∧ s.brg.run = true ∧
       max s.now 0 < s.brg.lastTok + 1024 * 256 ∧ s.brg.lastTok + 1024 * 256 ≤ max s.now (1024 * 256)) ∧
    (let s := bearing { brg0 true .locked with step := true, edgeTime := some 256 }
     s.brg.step = true ∧ s.brg.edgeTime = some 256 ∧ (1048576 * 256 - 256) / 256 < 1048576 ∧
       ∀ e, s.brg.edgeTime = some e → 1048576 ≤ (1048577 * 256 - e) / 256) := by
  refine ⟨by decide +kernel, by decide +kernel, ?_⟩
  refine ⟨rfl, rfl, by decide, fun e h => ?_⟩
  cases h
  decide

/-- A token of revolution `rev` at a bearing. -/
def tokenPkt (rev b : Nat) : Packet := pkt 0x10 7 0xFFFFFF 0 (toLE 4 rev ++ toLE 4 b ++ toLE 6 1048576 ++ toLE 6 0)

/-- A follower whose parent path is sub-port 0, in a state, at a bearing. -/
def following (st : BrgSt) (b : Nat) : State :=
  bearing { brg0 false st with tpv := true, tparent := 0, b0 := b, src := some (9, 0), rev := 4 }

/-- A first token; one of the present revolution behind the bearing and ahead of it; one where there is no parent path; the times
of coasting and of the loss. -/
theorem test_witness_Followers :
    (∀ x ∈ [(BrgSt.unlocked, 0), (.locked, 100), (.locked, 0)],
      let s := following x.1 x.2
      let k := tokenPkt 4 50
      s.brg.role = false ∧ s.brg.st = x.1 ∧ k.ptype.toNat = 0x10 ∧ k.dst = 0xFFFFFF ∧ packetOk k = true ∧ s.brg.tpv = true ∧
        s.brg.tparent = k.path.val ∧
        (tokenOf k).any (fun tok => !tok.wrap && !tok.hold && s.brg.src == some (tok.src, tok.sepoch) && tok.rev == s.brg.rev &&
          (decide (tok.reference 0 < s.brg.bearingAt 0) == (x.2 == 100))) = true) ∧
    (bearing (brg0 false .unlocked)).brg.tpv = false ∧
    ((following .locked 0).brg.lastTok + 4096 * 256 ≤ 4096 * 256) ∧
    ((following .coast 0).brg.lastTok + (following .coast 0).brg.loss * 256000 ≤ 256000000) := by
  decide +kernel

/-- Words that may be committed and words that may not, before the bearing has passed and after, on a device that is READY and one
that is not; STAKEOUT_WRITE, in the clock of a register write and not, and STAKEOUT_READ. -/
theorem test_witness_StakeoutEntries :
    (∀ w2 ∈ [8, 9], let s := bearing { brg0 true .locked with b0 := 100, staged := [(255, [99, 0, w2, 0])] }
      s.brg.dueStill = [] ∧ s.brg.dueAt s.now = [] ∧ (s.brg.stage 255).length = 4 ∧
        stakeoutOk (((s.brg.stage 255).set 3 5).getD 2 0) 5 = (w2 == 8)) ∧
    stakeoutOk 5 5 = true ∧ stakeoutOk 5 6 = false ∧ (∀ b, ({ State.reset with mod := { State.reset.mod with ready := b } } : State).mod.ready = b) ∧
    Map.find (bearing { Brg.reset with bar0At := [(255, 0)] }).brg.bar0At 255 = some State.reset.now ∧
    Map.find State.reset.brg.bar0At 255 ≠ some State.reset.now ∧
    (∀ op ps, let s := State.reset.asked op ps
      Admitted s hdr0 op ps (started0 op ps) ∧ s.brg.dueStill = [] ∧ s.brg.dueAt s.now = [] ∧ (s.brg.stage 255).length = 4) :=
  ⟨by decide +kernel, by decide +kernel, by decide +kernel, fun b => by cases b <;> rfl, by decide +kernel, by decide +kernel,
    fun _ _ => ⟨admitted_started rfl rfl, rfl, rfl, rfl⟩⟩

/-- Stakeout 255 due with an action, a context and a parameter. -/
def due0 (a c w : Nat) : Brg := { brg0 true .locked with stk := [(255, [0, 0, a + 16 + c * 64, w])] }

/-- Context 0 in a state, and a stakeout of an action due. -/
def firing (st : CtxSt) (a w : Nat) : State := { (run0.setCtx 0 { run0.ctx 0 with st := st }) with brg := due0 a 0 w }

/-- A snapshot under way. -/
def snap0 : SnapCopy := ⟨1, 0, true, false, true, 0, 0, 0, 637⟩

/-- Each action due, with its effect and without it. -/
theorem test_witness_StakeoutActions :
    (∀ x ∈ [(1, 47 * 2 ^ 17), (1, 48 * 2 ^ 17), (2, 7), (3, 0), (4, 0), (5, 5), (6, 0), (7, 2 ^ 8), (8, 9)],
      let s := firing .loaded x.1 x.2
      (s.at 0).brg.nextDue (s.at 0).now = some (255, 0) ∧ s.brg.sAction 255 = x.1 ∧ s.brg.sParam 255 = x.2 ∧ s.brg.sCtx 255 = 0 ∧
        s.flt.drained = false ∧ s.d3hot = false ∧ s.ctxActs = [] ∧ s.ctxMoving = false ∧ (s.ctx 0).st = .loaded ∧
        s.flt.replay = none ∧ s.ctr.copy = none ∧ s.ctr.en = true ∧ s.snapShelfOk s.ctr.shelf = true ∧
        s.snapAdmits (shelfAddr s.ctr.shelf (0x3800000 + 32 * ((s.ctr.nPhase + 1) % 262144))) 32 = true ∧
        stakeRef 0 (48 * 2 ^ 17) = none ∧ stakeRef 0 (47 * 2 ^ 17) = some (engKey 0 0, 47) ∧ inFoot (s.ctx 0).foot (keyUnit (engKey 0 0)) = true ∧
        s.unitBusy 0 = false ∧ (s.stake (engKey 0 0) 47).st = .clear ∧ s.waiters (engKey 0 0) 47 = [] ∧ s.pwr.fill1 0 96 1 = 0) ∧
    ((firing .running 4 0).ctx 0).st = .running ∧
    (let s := firing .loaded 6 3
     ({ s with pwr := { s.pwr with fills := [(3, 2 ^ 96)] } } : State).pwr.fill1 (bitsOf (s.brg.sParam 255) 0 4) 96 1 = 1) ∧
    ({ State.reset with ctr := { Ctr.reset with copy := some snap0 } } : State).ctr.copy.isSome = true ∧
    (let s := { State.reset with arc := { Arc.reset with fp := [(127, { FpUnit.reset with scan := true })] } }
     (s.fp 127).scan = true ∧ (s.fp 0).scan = false) := by
  decide +kernel

/-- Context 7 in a state, on the last order-2 tract, with the highest image and its save area at the top of its range. -/
def ctx7 (st : CtxSt) : Ctx :=
  { Ctx.free with
    st := st, foot := 2 ^ 63, fblo := 0xB800, fbhi := 0xC000, save := 0xBB00,
    img := 0x018000000000 - 0x14113000 - 16384 * 0x8000 }

/-- That context alone, with a pre-empt or a start under way, and a byte of the state block of the last parcel in its image. -/
def moving (st : CtxSt) (b : Byte) : State :=
  { State.reset with
    ctxs := [(7, { ctx7 st with parking := st == .running, fromImage := st == .starting })]
    mem := State.reset.mem.writeN ((ctx7 st).blockAddr 16383 + 29) [b] }

/-- A pre-empt at its boundaries and before them, a slice-out, a slice-in of an image whose segments are empty and of one whose
parcel 16383 holds a segment that breaks R62, and both with the image's stack stopped. -/
theorem test_witness_ContextTransitions :
    (∀ st ∈ [CtxSt.running, .slicing, .starting], let s := moving st 0
      let v := s.ctx 7
      s.ctxActs = [] ∧ v.st = st ∧ s.atBoundary 7 = true ∧ s.clearFor 7 = true ∧ v.parkNext = false ∧ s.bad = [] ∧
        v.fblo ≤ v.save ∧ v.save + 0x500 ≤ v.fbhi ∧ v.fbhi ≤ 0xC000 ∧ s.imageStatus v = 0 ∧
        v.img + 0x14113000 + 16384 * v.rangeBytes ≤ 0x018000000000 ∧
        (∀ d, d < 8 → (s.ctx d).sliceNext = false) ∧
        (s.setStack 11 { s.stack 11 with stop := true }).imageStatus v ≠ 0) ∧
    ((moving .running 0).ctx 7).parking = true ∧ ((moving .starting 0).ctx 7).fromImage = true ∧
    ((((moving .starting 0).imageAccess 7 false).copyIn (ctx7 .starting)).blocksIn 7).map (·.eng) = some [] ∧
    ((((moving .starting 1).imageAccess 7 false).copyIn (ctx7 .starting)).blocksIn 7).map (·.eng) = none ∧
    (matRun (matDrain true)).atBoundary 0 = false ∧ (matRun (matDrain true)).ctxActs = [] := by
  rw [(((moving .starting 0).imageAccess_accessOnly 7 false).copyIn _).blocksIn,
    (((moving .starting 1).imageAccess_accessOnly 7 false).copyIn _).blocksIn]
  refine ⟨?_, ?_, ?_, ?_, ?_, ?_, ?_⟩ <;> decide +kernel

/-- That no other context is starting there. -/
theorem test_witness_ContextTransitions_others (st : CtxSt) (b : Byte) (d : Nat) (h : d ≠ 7) :
    ((moving st b).ctx d).st ≠ .starting := by
  simp only [State.ctx, moving, Map.getD, Map.find]
  rw [if_neg (fun e => h e.symm)]
  decide

/-- The image of context 0 at address 0x100000: an owner, a range, a save area and a footprint of one tract; queue S of
parcel 0 runs from granule 0x400 of its range, where an SEND stands, and its stake 47 is set at the start. -/
def imaged (own : Nat) : State :=
  { State.reset with
    mem := (((State.reset.mem.writeN 0x100000 (toLE 4 own ++ toLE 2 0x400 ++ toLE 2 0xC000 ++ toLE 2 0x400 ++ toLE 6 0 ++ toLE 8 1)).writeN
      0x14213000 [0xFA]).writeN (0x101000 + 18688 + 48 + 4 * 47) (toLE 4 (2 ^ 20))).writeN (0x101000 + 18688 + 768 + 96) (toLE 7 (0x400 + 2 ^ 48)) }

/-- A state with context 0 in a state, for a started command. -/
def withCtx (st : CtxSt) (op : Nat) (ps : List Byte) : State :=
  (State.reset.setCtx 0 { Ctx.free with st := st, foot := 2 ^ 64 - 1 }).asked op ps

/-- Queue S of parcel 0 in context 0 in a run state, for QUEUE_RESUME. -/
def queued (r : QRun) (ps : List Byte) : State :=
  (run0.setQueue (engKey 0 0) .s { Queue.empty with run := r }).asked 0x0306 ps

/-- Context 0 LOADED from the image at 0x100000, where queue S of parcel 0 runs, is idle or has stopped. -/
def imageQueued (r : QRun) (ps : List Byte) : State :=
  ({ (imaged 0).setCtx 0 ((imaged 0).headerOf 0x100000) with
     mem := (imaged 0).mem.writeN (0x101000 + 18688 + 768 + 96 + 6) (toLE 1 r.code) } : State).asked 0x0306 ps

/-- Each command of contexts, with its effect and without it. -/
theorem test_witness_ContextCommands :
    (∀ ps, Admitted (State.reset.asked 0x0301 ps) hdr0 0x0301 ps (started0 0x0301 ps) ∧
      (∀ c, c < 8 → ((State.reset.asked 0x0301 ps).ctx c).st = .free) ∧
      Admitted (withCtx .loaded 0x0301 ps) hdr0 0x0301 ps (started0 0x0301 ps) ∧ ((withCtx .loaded 0x0301 ps).ctx 0).st ≠ .free) ∧
    (∀ ps own, Admitted (withCtx .running 0x0302 ps) hdr0 0x0302 ps (started0 0x0302 ps) ∧ ((withCtx .running 0x0302 ps).ctx 0).st ≠ .free ∧
      Admitted ((imaged own).asked 0x0302 ps) hdr0 0x0302 ps (started0 0x0302 ps) ∧ (((imaged own).asked 0x0302 ps).ctx 0).st = .free) ∧
    (let s := (imaged 5).asked 0x0302 [];
      s.stackStatus 0x100000 4096 = 0 ∧ (s.headerRead 0 0x100000 .clean).badIn 0x100000 4096 = false ∧
        (s.headerRead 0 0x100000 .clean).loadStatus 0 0x100000 = some 0x0331 ∧ s.mem.readLE 0x100000 4 ≠ s.owner) ∧
    (let s : State := { (imaged 0).asked 0x0302 [] with bad := [(0x100000, true)] }
     (s.headerRead 0 0x100000 .clean).loadStatus 0 0x100000 = some 0x0723) ∧
    (∀ st ∈ [CtxSt.loaded, .running, .free, .parked], ∀ op ps, let s := withCtx st op ps
      Admitted s hdr0 op ps (started0 op ps) ∧ (s.ctx 0).st = st ∧ s.ctxActs = [] ∧ s.ctxMoving = false ∧ s.d3hot = false ∧
        s.flt.drained = false) ∧
    (∀ r ps, Admitted (queued r ps) hdr0 0x0306 ps (started0 0x0306 ps) ∧ Admitted (imageQueued r ps) hdr0 0x0306 ps (started0 0x0306 ps)) ∧
    (∀ r ∈ [QRun.stopped, .running], (queued r []).queueRun 0 0 (ixQ 3) = r ∧ ((queued r []).queue (engKey 0 0) (ixQ 3)).run = r ∧
      ((queued r []).ctx 0).st = .running ∧ (imageQueued r []).queueRun 0 0 (ixQ 3) = r ∧ inFoot ((imageQueued r []).ctx 0).foot 0 = true) ∧
    pathUnit 0 = some 0 ∧ 4 < (7 : BitVec 24).toNat % 8 ∧ inFoot ((queued .stopped []).ctx 0).foot 0 = true := by
  refine ⟨fun ps => ⟨admitted_started rfl rfl, ?_, admitted_started rfl rfl, ?_⟩,
    fun ps own => ⟨admitted_started rfl rfl, ?_, admitted_started rfl rfl, rfl⟩, ?_, ?_,
    fun st hst op ps => ⟨admitted_started rfl rfl, ?_, rfl, ?_, rfl, rfl⟩,
    fun r ps => ⟨admitted_started rfl rfl, admitted_started rfl rfl⟩, ?_, ?_, ?_, ?_⟩
  · intro c _
    exact (by decide +kernel : ∀ c < 8, ((State.reset.asked 0x0301 []).ctx c).st = .free) c ‹_›
  · exact (by decide +kernel : ((withCtx .loaded 0x0301 []).ctx 0).st ≠ .free)
  · exact (by decide +kernel : ((withCtx .running 0x0302 []).ctx 0).st ≠ .free)
  · decide +kernel
  · decide +kernel
  · cases st <;> rfl
  · cases st <;> first | rfl | simp at hst
  all_goals decide +kernel

/-- An image that passes every check of the load. -/
theorem test_witness_ContextLoads :
    (((imaged 0).asked 0x0302 []).headerRead 0 0x100000 .clean).loadStatus 0 0x100000 = none ∧
      0 ∈ ((imaged 0).asked 0x0302 []).unitsIn (((imaged 0).asked 0x0302 []).headerOf 0x100000) := by
  decide +kernel

/-- The state after reset with a bearing that is valid or not, for a started command. -/
def catAsked (v : Bool) (op : Nat) (ps : List Byte) : State :=
  ({ bearing (brg0 true (if v then .locked else .unlocked)) with
     mem := State.reset.mem.writeN 0x1000 (List.replicate 33 0 ++ [3]) } : State).asked op ps

/-- Each command on the last entry, with the bearing valid and not, and on a range past it. -/
theorem test_witness_CatalogueCommands :
    (∀ v op ps, Admitted (catAsked v op ps) hdr0 op ps (started0 op ps)) ∧ (∀ v op ps, (catAsked v op ps).brg.valid = v) ∧
    (1 ≤ (1 : BitVec 24).toNat ∧ (65535 : BitVec 16).toNat + (1 : BitVec 24).toNat ≤ 65536 ∧ catFmtOk (10 : Byte).toNat = true) ∧
    65536 < (65535 : BitVec 16).toNat + (2 : BitVec 24).toNat ∧
    (let s := catAsked true 0x0206 [];
     s.fwStatus 0x1000 64 = 0 ∧ s.badIn 0x1000 64 = false ∧ (catOfBytes (s.mem.readN 0x1000 64)).isSome = true) := by
  refine ⟨fun v op ps => ?_, fun v op ps => ?_, ?_, ?_, ?_⟩
  · cases v <;> exact admitted_started rfl rfl
  · cases v <;> rfl
  all_goals decide +kernel

/-- Area 0 at the foot of shelf 600, open to context 0, with SEEDSTK stake 47 of parcel 0 and a seed record of entry 9. -/
def seeding (set busy : Bool) : State :=
  let a := shelfAddr 600 0
  let s : State := { staked (if set then .set else .clear) 0 with
    cat := { Cat.reset with areas := [(0, ⟨true, a⟩)], busy := busy }
    arc := { Arc.reset with shelves := [(600, ⟨2, 1, false, false, 0, none⟩)] } }
  let m := (s.mem.writeN (a + 4) (toLE 2 1)).writeN (a + 12) (toLE 3 (47 * 2 ^ 17) ++ toLE 1 1)
  { s with mem := m.writeN (a + 65600) (toLE 2 9 ++ toLE 2 0x7FFD ++ toLE 1 3) }

/-- A request without its stake, one during wrap processing, one that is served; the end of wrap processing. -/
theorem test_witness_CatalogueSeeds :
    (∀ set busy, let s := seeding set busy
      (s.area 0).en = true ∧ s.areaOk 0 = true ∧ s.seedStake 0 = (if set then some (engKey 0 0, 47) else none) ∧ s.cat.busy = busy ∧
        (((s.recsOf [0] fun r => r.valid && r.seed).filter fun r => amaxOk r.amax && !(s.catEntry r.entry).seeded).map (·.entry)) = [9]) ∧
    (seeding true true).cat.heldSeeds = [] ∧ (seeding true true).waitingMdecls = [] := by
  decide +kernel

/-- A device that is READY, with submission and receipt rings 63 enabled or not. -/
def rings (en : Bool) : State :=
  { State.reset with
    mod := { State.reset.mod with ready := true }
    cmd := { CmdIf.reset with sub := [(63, { SubRing.reset with en := en })], rcp := [(63, { RcpRing.reset with en := en })] } }

/-- Doorbells, rings and the direct word: each with its effect, and each of the accesses that is refused. -/
theorem test_witness_RingsAndDoorbells :
    ({ State.reset with d3hot := true } : State).d3hot = true ∧
    (∀ en, (rings en).d3hot = false ∧ (rings en).mod.ready = true ∧ ((rings en).sub 63).en = en ∧ ((rings en).rcp 63).en = en ∧
      (4095 : BitVec 32).toNat ≠ ((rings en).sub 63).tail ∧ (rings en).cmd.evLost = 0) ∧
    (let s : State := { State.reset with mod := { State.reset.mod with ready := false } }
     s.mod.ready = false ∧ s.d3hot = false) ∧
    (let s : State := { rings true with cmd := { (rings true).cmd with
       rcp := [(63, { RcpRing.reset with en := true, unsignalled := 1, vec := 2047 })], msix := [(4 * 2047 + 3, 2)] } }
     (s.rcp 63).en = true ∧ 0 < (s.rcp 63).unsignalled ∧ (Map.getD s.cmd.msix (4 * (s.rcp 63).vec + 3) 1).testBit 0 = false) ∧
    (∀ op ∈ [0x0304, 0x0305], let v : BitVec 64 := BitVec.ofNat 64 (op + 7 * 2 ^ 16 + 63 * 2 ^ 24)
      bitsOf v.toNat 0 16 = op ∧ (directRecord v.toNat).rr = 63 ∧ 0 < ((rings true).rcp 63).freeSlots ∧
        ((rings false).rcp 63).freeSlots = 0 ∧ (rings true).cmd.started = [] ∧ (rings true).mod.ready = true) := by
  decide +kernel

/-- A ring with one command, after an accession number, with a receipt ring that has a slot or none. -/
def fetching (free : Bool) : State :=
  { rings true with cmd := { (rings true).cmd with
      sub := [(63, { SubRing.reset with en := true, tail := 1, last := 6 })], rcp := [(63, { RcpRing.reset with en := free })] } }

/-- The slot of a NOP for receipt ring 63, with FLAGS and an accession number. -/
def nopSlot (flags acc : Nat) : List Byte := bytesAt (toLE 2 0x0100 ++ toLE 1 flags ++ toLE 1 63 ++ toLE 8 acc) 0 64

/-- A fetch that starts a command, one that the management cores refuse, one of a bad header, one of bad parameters, one of a number that does not rise, one without a slot, one out of turn;
T4. -/
theorem test_witness_CommandFetches :
    (∀ free, let s := fetching free
      s.d3hot = false ∧ s.mod.ready = true ∧ s.fetchRing = some (63 : Fin 64).val ∧ s.cmd.fwrun = true ∧ s.cmdHeld < 256 ∧
        decide (0 < (s.rcp 63).freeSlots) = free ∧ (s.sub 63).last = 6) ∧
    (∀ x ∈ [(0, 7), (2, 7), (1, 6)], let l := cmdSlotOf (nopSlot x.1 x.2)
      (nopSlot x.1 x.2).length = 64 ∧ l.ok = (x.1 != 2) ∧ l.rr = 63 ∧ l.acc = x.2 ∧ plenOf l.op (l.params []) = some l.plen ∧
        paramsOk l.op (l.params []) = true) ∧
    (let l := cmdSlotOf (bytesAt (toLE 2 0x0302 ++ toLE 1 0 ++ toLE 1 63 ++ toLE 8 7 ++ toLE 2 16 ++ List.replicate 19 0 ++ [1]) 0 64)
     l.ok = true ∧ plenOf l.op (l.params []) = some l.plen ∧ paramsOk l.op (l.params []) = false) ∧
    State.reset.fetchRing ≠ some (63 : Fin 64).val ∧
    (∀ b, let s : State := { fetching true with flt := { Flt.reset with svc := if b then [(codeMgmt, .quiesced)] else [] } }
      s.mgmtRefuses 0x0100 [] = b ∧ s.fetchRing = some (63 : Fin 64).val) ∧
    (∀ b, let s : State := { fetching false with cmd := { (fetching false).cmd with counted := if b then [63] else [] } }
      s.cmd.counted.contains 63 = b ∧ (s.rcp 63).freeSlots = 0) ∧
    ((State.reset.asked 0x0100 []).cmd.started.find? fun r => r.isFor hdr0 && !(State.reset.asked 0x0100 []).cmd.expired.contains r.uid) =
      some (started0 0x0100 []) ∧ (started0 0x0100 []).begun = false := by
  refine ⟨?_, ?_, ?_, ?_, ?_, ?_, ?_, ?_⟩ <;> decide +kernel

/-- An address without a register, a vector that is pending, and a register whose clock domain is OFF in D3hot. -/
theorem test_witness_RegisterAccesses :
    (rings true).mod.ready = true ∧
    (let s : State := { rings true with d3hot := true }
     s.regsAt (BitVec.ofNat 26 0x400000).toNat 4 = some [(.qsw 0 0, 0)] ∧ s.regOff [(.qsw 0 0, 0)] = true) ∧
    (rings true).regsAt (BitVec.ofNat 26 0x3FFFFFC).toNat 4 = none ∧
    (let s : State := { rings true with cmd := { (rings true).cmd with pba := [(2047, true)] } }
     (8191 : Fin 8192).val % 4 = 3 ∧ (Map.find s.cmd.pba ((8191 : Fin 8192).val / 4)).isSome = true ∧ (0 : BitVec 32).toNat.testBit 0 = false) := by
  decide +kernel

/-- A NOP with a receipt ring that is enabled at its last slot, or not, in D0 or D3hot. -/
def nopAsked (en d3 late hushed : Bool) : State :=
  { rings en with
    d3hot := d3
    cmd := { (rings en).cmd with
      rcp := [(0, { RcpRing.reset with en := en, base := 0x1000, tail := 4095, reserved := 1 })]
      started := [{ started0 0x0100 (Instr.params (.nop hdr0)) with delayed := late, hushed := hushed }] } }

/-- A record that holds a context before one that names it too, and waits. -/
def behind : State :=
  { State.reset with cmd := { CmdIf.reset with started :=
      [{ started0 0x0100 (Instr.params (.nop hdr0)) with acc := 9, objs := [(1, 0, 0)] },
       { started0 0x0100 (Instr.params (.nop hdr0)) with objs := [(1, 0, 0)], holds := false }] } }

/-- A command that has started on a drained device. -/
def drainedAsked (op : Nat) (ps : List Byte) : State := { State.reset.asked op ps with flt := { Flt.reset with drained := true } }

/-- NOP in D0 and D3hot, on time and late; one that is blocked, one that is not started, and commands of a drained device. -/
theorem test_witness_ReceiptsAndAdmission :
    (∀ en d3 late, let s := nopAsked en d3 late false
      let r := { started0 0x0100 (Instr.params (.nop hdr0)) with delayed := late }
      Admitted s hdr0 0x0100 (Instr.params (.nop hdr0)) r ∧ r.hushed = false ∧ s.cmd.expired.contains r.uid = false ∧
        s.cmd.aborted.contains r.uid = false ∧ s.d3hot = d3 ∧ (s.rcp r.rr).en = en) ∧
    (let r := { started0 0x0100 (Instr.params (.nop hdr0)) with objs := [(1, 0, 0)], holds := false }
     (behind.cmd.started.find? fun x => x.isFor hdr0 && x.op == 0x0100 && x.params == Instr.params (.nop hdr0) && !x.begun) = some r ∧
      behind.blocked r = true) ∧
    (State.reset.cmd.started.find? fun x => x.isFor hdr0 && x.op == 0x0100 && x.params == Instr.params (.nop hdr0) && !x.begun) = none ∧
    (∀ op ps, (drainedAsked op ps).blocked (started0 op ps) = false ∧ (drainedAsked op ps).flt.drained = true ∧
        ((drainedAsked op ps).cmd.started.find? fun x => x.isFor hdr0 && x.op == op && x.params == ps && !x.begun) =
          some (started0 op ps)) := by
  refine ⟨fun en d3 late => ⟨⟨?_, ?_, ?_⟩, rfl, rfl, rfl, rfl, rfl⟩, ⟨?_, ?_⟩, ?_, fun op ps => ⟨rfl, rfl, ?_⟩⟩
  · revert en d3 late; decide +kernel
  · revert en d3 late; decide +kernel
  · exact fun h => absurd (show false = true by cases en <;> exact h) (by decide)
  · decide +kernel
  · decide +kernel
  · decide +kernel
  · simp [drainedAsked, State.asked, started0, Started.isFor, hdr0]

/-- Each command of the device group with good and with bad operands; a warm reset of a device that has tripped and of one that
has not. -/
theorem test_witness_DeviceCommands :
    (∀ op ps, Admitted (State.reset.asked op ps) hdr0 op ps (started0 op ps)) ∧
    (64 : BitVec 64).toNat % 64 = 0 ∧ (32 : BitVec 64).toNat % 64 ≠ 0 ∧ 256 < (257 : BitVec 16).toNat ∧ 1 ≤ (256 : BitVec 16).toNat ∧
      (0x7FFFFFFF : BitVec 32).toNat < 2 ^ 31 ∧ 2 ^ 31 ≤ (0x80000000 : BitVec 32).toNat ∧
    (let s : State := { State.reset with tmax := 90, pwr := { State.reset.pwr with tripped := true } }
     ∀ ps, Admitted (s.asked 0x0103 ps) hdr0 0x0103 ps (started0 0x0103 ps) ∧ (s.asked 0x0103 ps).pwr.tripped = true ∧
       90 ≤ (s.asked 0x0103 ps).tmax) ∧
    (State.reset.pwr.tripped = false ∧ State.reset.cols = [] ∧ State.reset.closures = []) :=
  ⟨fun _ _ => admitted_started rfl rfl, by decide, by decide, by decide, by decide, by decide, by decide,
    fun _ => ⟨admitted_started rfl rfl, rfl, by exact Nat.le_refl 90⟩, by decide +kernel⟩

/-- A change of shelf 639 to a mode. -/
def shelfReq (n mode : Nat) (fw : Bool) : ShelfReq := ⟨BitVec.ofNat 16 n, BitVec.ofNat 8 mode, 0, fw, false⟩

/-- A state in which shelf 639 alone is a firmware shelf, and is changing or not. -/
def oneShelf (q : Bool) : State :=
  { State.reset with arc := { Arc.reset with shelves := [636, 637, 638, 639].map fun n =>
      (n, ⟨2, 0, n == 639, false, if q then 1 else 0, if q then some (2, 0, true, false) else none⟩) } }

/-- Each command of the memory group with its effect and with each refusal; FP_FLUSH of a unit that is busy and of one that is not. -/
theorem test_witness_MemoryCommands :
    (∀ op ps, Admitted (State.reset.asked op ps) hdr0 op ps (started0 op ps)) ∧
    (∀ q op ps, Admitted ((oneShelf q).asked op ps) hdr0 op ps (started0 op ps)) ∧
    (let r : Started := { started0 0x0201 (Instr.params (.shelfPartition hdr0 [shelfReq 639 2 true])) with
       objs := cmdObjs 0x0201 (Instr.params (.shelfPartition hdr0 [shelfReq 639 2 true])) }
     let s : State := { oneShelf false with cmd := { CmdIf.reset with started := [r] } }
     Admitted s hdr0 0x0201 (Instr.params (.shelfPartition hdr0 [shelfReq 639 2 true])) r ∧ r.objs = cmdObjs r.op r.params) ∧
    (shelvesOk [shelfReq 640 0 false] = false ∧ shelvesOk [shelfReq 639 1 false] = true ∧ shelvesOk [shelfReq 639 2 true] = true ∧
      (oneShelf false).fwShelfLeft [shelfReq 639 1 false] = false ∧ ∀ q ∈ [false, true], (oneShelf q).fwShelfLeft [shelfReq 639 2 true] = true ∧
        ([shelfReq 639 2 true].any fun x => ((oneShelf q).shelf x.shelf.toNat).target.isSome) = q) ∧
    (State.reset.svcOf (codeStack 11) = .inService ∧ State.reset.refOff (.stack 11) = false ∧
      ({ State.reset with flt := { Flt.reset with svc := [(codeStack 11, .disabled)] } } : State).svcOf (codeStack 11) ≠ .inService ∧
      State.reset.descFault 0 none (fprD 0) = none ∧ State.reset.descFault 0 none (bdesc [(0, 1, 99)]) = some 0x0803 ∧
      (fprD 0).length = 128) ∧
    ((0xFFF : BitVec 16).toNat < 4096 ∧ State.reset.flt.replay = none ∧ 127 < (128 : Byte).toNat ∧ (127 : Byte).toNat ≤ 127 ∧
      (State.reset.fp 127).scan = false ∧ (State.reset.fp 127).busy = false) := by
  refine ⟨fun _ _ => admitted_started rfl rfl, fun _ _ _ => admitted_started rfl rfl, ⟨⟨?_, ?_, ?_⟩, ?_⟩, ?_, ?_, ?_⟩
  all_goals decide +kernel

/-- A station of number 3 with its number locked or not, for a started command. -/
def locked (l : Bool) (op : Nat) (ps : List Byte) : State := { State.reset.asked op ps with station := 3, fab := { Fabric.reset with snLock := l } }

/-- A station with station tract 7, at home here or at station 9, and with tracts besides. -/
def tracts (home n op : Nat) (ps : List Byte) : State :=
  { State.reset.asked op ps with station := 3, stracts := (7, ⟨home, 5, [3, 9]⟩) :: (List.range n).map fun i => (i + 8, ⟨9, 5, []⟩) }

/-- Each command of the fabric group with its effect and with each refusal. -/
theorem test_witness_FabricCommands :
    (∀ l op ps, Admitted (locked l op ps) hdr0 op ps (started0 op ps) ∧ (locked l op ps).fab.snLock = l ∧ (locked l op ps).domLock = false) ∧
    (stationOk (9 : BitVec 24).toNat = true ∧ (4194304 : BitVec 24).toNat ≤ 4194304 ∧ 9 ≤ (13 : Byte).toNat ∧ (13 : Byte).toNat ≤ 13) ∧
    (8192 < (8191 : BitVec 16).toNat + [(0 : BitVec 32), 0].length ∧
      (8190 : BitVec 16).toNat + [(5 : BitVec 32), 0x50000000].length ≤ 8192 ∧ bitsOf (5 : BitVec 32).toNat 28 3 ≤ 4 ∧
      4 < bitsOf (0x50000000 : BitVec 32).toNat 28 3) ∧
    (∀ n h op ps, Admitted (tracts h n op ps) hdr0 op ps (started0 op ps)) ∧
    (∀ n ∈ [0, 254, 255], ∀ h ∈ [3, 9], let s := tracts h n 0x0403 []
      (Map.find s.stracts 7).isSome = true ∧ Map.find s.stracts 6 = none ∧ s.station = 3 ∧
        decide (256 ≤ s.stracts.length) = (n == 255)) ∧
    ((9 : BitVec 24).toNat ≠ 3 ∧ (3 : BitVec 24).toNat = 3 ∧ (([(3 : BitVec 32), 9].map (·.toNat)).all stationOk) = true ∧
      5 ≤ (10 : Byte).toNat ∧ (10 : Byte).toNat ≤ 10) ∧
    (∀ h ps, Map.find (tracts h 0 0x0404 ps).stracts 6 = none ∧
      Map.find (tracts h 0 0x0404 ps).stracts 7 = some ⟨h, 5, [3, 9]⟩) := by
  refine ⟨fun l op ps => ⟨admitted_started rfl rfl, rfl, rfl⟩, by decide +kernel, by decide +kernel,
    fun n h op ps => admitted_started rfl rfl, by decide +kernel, by decide +kernel, fun h ps => ⟨rfl, rfl⟩⟩

/-- Closure 1023 in a state and at a count, with a list of station 9 and parcel 0 at address 0. -/
def closing2 (st : ClSt) (n op : Nat) (ps : List Byte) : State :=
  { run0.asked op ps with closures := [(1023, { Closure.idle with st := st, count := n })], mem := State.reset.mem.writeN 0 (toLE 4 9 ++ toLE 4 0) }

/-- CLOSURE_SETUP of a good record, of a bad one and of an open closure; CLOSURE_RELEASE of a busy one and of one at rest. -/
theorem test_witness_ClosureCommands :
    (∀ st n op ps, Admitted (closing2 st n op ps) hdr0 op ps (started0 op ps)) ∧
    (closureRangesOk 1024 0 1 9 0 1 = false ∧ closureRangesOk 1023 7 1 9 1000 1 = true ∧
      ((closing2 .opened 0 0x0405 []).closure 1023).st = .opened ∧
      (let s := closing2 .idle 0 0x0405 [];
       (s.closure 1023).st ≠ .opened ∧ s.fwStatus 0 8 = 0 ∧ s.badIn 0 8 = false ∧ s.closureList 0 1 1 = some ([9], [0]) ∧
        ∀ c, c < 8 → (s.ctx c).st = .free ∨ (s.ctx c).st = .running ∨ (s.ctx c).st = .slicing)) ∧
    ((closing2 .opened 1 0x0406 []).closureBusy 1023 = true ∧ (closing2 .opened 0 0x0406 []).closureBusy 1023 = false) := by
  refine ⟨fun st n op ps => admitted_started rfl rfl, ?_, ?_⟩ <;> decide +kernel

/-- Each command of power with good and with bad operands. -/
theorem test_witness_PowerCommands :
    (∀ op ps, Admitted (State.reset.asked op ps) hdr0 op ps (started0 op ps)) ∧
    (∀ w ∈ [1799, 5201], w < 1800 ∨ 5200 < w) ∧ 1800 ≤ (5200 : BitVec 32).toNat ∧ (5200 : BitVec 32).toNat ≤ 5200 ∧
    5 < (6 : Byte).toNat ∧ (5 : Byte).toNat ≤ 5 ∧ State.reset.pwr.change = none ∧
    fillerOk (255 + 4 * 2 ^ 16 + 2 ^ 64) = true ∧ fillerOk (2 ^ 512 - 1) = false ∧ (15 : Byte).toNat ≤ 15 ∧
    256 < (257 : BitVec 16).toNat ∧ 1 ≤ (256 : BitVec 16).toNat ∧ (256 : BitVec 16).toNat ≤ 256 := by
  refine ⟨fun op ps => admitted_started rfl rfl, ?_, ?_, ?_, ?_, ?_, ?_, ?_, ?_, ?_, ?_, ?_, ?_⟩ <;> decide +kernel

/-- Counters held or not, with a copy under way or not, for a started command. -/
def counting (held copy : Bool) (op : Nat) (ps : List Byte) : State :=
  { State.reset.asked op ps with ctr := { Ctr.reset with held := held, copy := if copy then some snap0 else none, image := some [] } }

/-- A counter that is named and one that is not; each command with its effect, a SNAP stakeout due in its clock or not; a copy at
its end, on its shelf and on one that takes it no more. -/
theorem test_witness_CounterCommands :
    (counterNamed (0 : BitVec 20).toNat = true ∧ counterNamed (0xFFFFF : BitVec 20).toNat = false) ∧
    (∀ held copy op ps, Admitted (counting held copy op ps) hdr0 op ps (started0 op ps) ∧ (counting held copy op ps).ctr.held = held ∧
      (counting held copy op ps).ctr.copy = (if copy then some snap0 else none) ∧ (counting held copy op ps).snapDue = false) ∧
    ({ counting false false 0x0901 [] with brg := due0 2 0 7 } : State).snapDue = true ∧
    State.reset.snapAdmits (shelfAddr 0 (0x800000 * ((snap0.n - 1) % 7))) 0x800000 = false ∧
    (∀ copy, let s := counting false copy 0x0901 []
      s.ctr.en = true ∧ s.snapShelfOk 637 = true ∧ s.ctr.shelf = 637 ∧ s.ctr.image = some [] ∧
        s.snapAdmits (shelfAddr 637 (0x800000 * ((snap0.n - 1) % 7))) 0x800000 = true) ∧
    (1040383 : BitVec 32).toNat + (1 : BitVec 32).toNat ≤ 1040384 ∧ snap0.shelf = 637 ∧ Map.rising ([] : Map Nat) = true := by
  refine ⟨by decide +kernel, fun held copy op ps => ⟨admitted_started rfl rfl, rfl, rfl, rfl⟩, ?_, ?_, ?_, ?_, ?_, ?_⟩ <;>
    decide +kernel

/-- The images of 65,536 catalogue entries of format 3, and of nothing else, from an address up. -/
def catCells (b n : Nat) : Memory := (List.range n).map fun k => (b + 64 * k + 33, 3)

theorem catCells_find (b n x : Nat) :
    Map.find (catCells b n) x = if ∃ k, k < n ∧ x = b + 64 * k + 33 then some 3 else none := by
  induction n with
  | zero => simp [catCells]
  | succ n ih =>
    have e : catCells b (n + 1) = catCells b n ++ [(b + 64 * n + 33, 3)] := by simp [catCells, List.range_succ]
    rw [e, Map.find_append, ih]
    by_cases h : ∃ k, k < n ∧ x = b + 64 * k + 33
    · obtain ⟨k, hk, hx⟩ := h
      rw [if_pos ⟨k, hk, hx⟩, if_pos ⟨k, by omega, hx⟩]
      rfl
    · rw [if_neg h]
      simp only [Option.none_or, Map.find]
      by_cases hx : b + 64 * n + 33 = x
      · rw [if_pos hx, if_pos ⟨n, by omega, hx.symm⟩]
      · rw [if_neg hx, if_neg]
        rintro ⟨k, hk, hx'⟩
        rcases Nat.lt_succ_iff_lt_or_eq.1 hk with hk | rfl
        · exact h ⟨k, hk, hx'⟩
        · exact hx hx'.symm

theorem readN_eq_map (m : Memory) (a n : Nat) : m.readN a n = (List.range n).map fun i => m.read (a + i) := by
  induction n generalizing a with
  | zero => rfl
  | succ n ih =>
    rw [Memory.readN, ih, List.range_succ_eq_map, List.map_cons, List.map_map, Nat.add_zero]
    congr 1
    apply List.map_congr_left
    intro i _
    rw [Function.comp, Nat.succ_eq_add_one]
    congr 1
    omega

/-- A device with the complete record of revolution 0 in the journal. -/
def journaled (op : Nat) (ps : List Byte) : State :=
  { State.reset.asked op ps with mem := (journalAddr 0 + 13, 1) :: catCells (journalAddr 0 + 0x10000) 65536 }

theorem journaled_cat (op : Nat) (ps : List Byte) :
    ∃ es : List CatEntry, (journaled op ps).journalCat 0 = es.map some := by
  obtain ⟨e, he⟩ : ∃ e, catOfBytes ((List.range 64).map fun i => if i = 33 then 3 else 0) = some e := ⟨_, rfl⟩
  refine ⟨(List.range 65536).map fun _ => e, ?_⟩
  rw [List.map_map]
  apply List.map_congr_left
  intro k hk
  rw [List.mem_range] at hk
  have hr : (journaled op ps).mem.readN (journalAddr 0 + 0x10000 + 64 * k) 64 = (List.range 64).map fun i => if i = 33 then 3 else 0 := by
    rw [readN_eq_map]
    apply List.map_congr_left
    intro i hi
    rw [List.mem_range] at hi
    simp only [journaled, Memory.read, Map.getD, Map.find]
    rw [if_neg (by omega), catCells_find]
    by_cases h : i = 33
    · rw [if_pos h, if_pos ⟨k, hk, by omega⟩]; rfl
    · rw [if_neg h, if_neg]
      · rfl
      · rintro ⟨j, _, hj⟩; omega
  rw [hr, he]
  rfl

theorem journaled_held (op : Nat) (ps : List Byte) : (journaled op ps).journalHeld 0 = true := by
  have r : ∀ i, i < 14 → (journaled op ps).mem.read (journalAddr 0 + i) = if i = 13 then 1 else 0 := by
    intro i hi
    simp only [journaled, Memory.read, Map.getD, Map.find]
    by_cases h : i = 13
    · rw [if_pos (by omega), if_pos h]; rfl
    · rw [if_neg (by omega), catCells_find, if_neg, if_neg h]
      · rfl
      · rintro ⟨k, _, hk⟩; omega
  have h0 : (journaled op ps).mem.readLE (journalAddr 0) 4 = 0 := by
    rw [Memory.readLE, readN_eq_map, List.map_congr_left (g := fun _ => 0) fun i hi => by
      rw [List.mem_range] at hi
      rw [r i (by omega), if_neg (by omega)]]
    rfl
  have h1 : (journaled op ps).mem.readLE (journalAddr 0 + 13) 1 = 1 := by
    simp only [Memory.readLE, Memory.readN]
    rw [r 13 (by decide)]
    rfl
  have h2 : (journaled op ps).journalOk 0 = true := by
    show State.reset.journalOk 0 = true
    decide +kernel
  rw [State.journalHeld, h0, h1, h2]
  rfl

/-- A device that is busy or not, drained or not, its bearing valid or not, for a started command. -/
def serving (st : CtxSt) (v : Bool) (op : Nat) (ps : List Byte) : State :=
  { withCtx st op ps with brg := brg0 true (if v then .locked else .unlocked) }

/-- What every parcel makes of tile 0 of a survey, as faults. -/
def madeBy (g : Nat → List Byte) : List SurveyFault := (List.finRange 16384).map fun p => ⟨p, 0, g p.val⟩

theorem made_by (g : Nat → List Byte) (p : Nat) (h : p < 16384) (sound : List Byte) : surveyMade (madeBy g) p 0 sound = g p := by
  have e : (madeBy g).find? (fun f => f.parcel.val == p && f.tile.toNat == 0) = some ⟨⟨p, h⟩, 0, g p⟩ := by
    rw [madeBy, List.find?_map]
    rcases hx : (List.finRange 16384).find? ((fun f : SurveyFault => f.parcel.val == p && f.tile.toNat == 0) ∘
        fun q => ⟨q, 0, g q.val⟩) with _ | x
    · exact absurd (List.find?_eq_none.1 hx ⟨p, h⟩ (List.mem_finRange _)) (by simp)
    · have hp := List.find?_some hx
      simp only [Function.comp, Bool.and_eq_true, beq_iff_eq] at hp
      obtain ⟨rfl, -⟩ := hp
      rfl
  rw [surveyMade, e]

/-- The suspects of tile 0, where the parcels make `g` and their referees all make `z`. -/
theorem suspects_by (seed : BitVec 64) (g : Nat → List Byte) (z : List Byte) (q : Nat) (h : q < 4096) :
    surveySuspects seed 3 (madeBy g) (madeBy fun _ => z) q 0 =
      if g q = g (q + 4096) then [] else (if g q = z then [] else [q]) ++ (if g (q + 4096) = z then [] else [q + 4096]) := by
  have e : surveyFirst 3 q = q := by simp [surveyFirst]; omega
  have r : q - 256 * (q / 256 % 16) + 256 * (q / 256 % 16 ^^^ 1) < 16384 := by
    have := Nat.xor_lt_two_pow (x := q / 256 % 16) (y := 1) (n := 4) (by omega) (by decide)
    omega
  simp only [surveySuspects, e, made_by _ _ (show q < 16384 by omega), made_by _ _ (show q + 4096 < 16384 by omega), made_by _ _ r]

theorem survey_by (seed : BitVec 64) (y z : List Byte) (n : y ≠ z) :
    ((List.range 4096).map fun q => (List.range 1).flatMap fun t =>
      surveySuspects seed 3 (madeBy fun _ => z) (madeBy fun _ => z) q t).flatten = [] ∧
    (let l := ((List.range 4096).map fun q => (List.range 1).flatMap fun t =>
        surveySuspects seed 3 (madeBy fun p => if p = 4096 then y else z) (madeBy fun _ => z) q t).flatten
     4096 ∈ l ∧ ∀ x ∈ l, 4096 ≤ x) := by
  simp only [List.range_one, List.flatMap_cons, List.flatMap_nil, List.append_nil]
  refine ⟨?_, ?_, ?_⟩
  · rw [List.flatten_eq_nil_iff]
    intro l hl
    obtain ⟨q, hq, rfl⟩ := List.mem_map.1 hl
    rw [suspects_by _ _ _ _ (List.mem_range.1 hq), if_pos rfl]
  · rw [List.mem_flatten]
    refine ⟨_, List.mem_map.2 ⟨0, by simp, rfl⟩, ?_⟩
    rw [suspects_by _ _ _ 0 (by decide)]
    simp [n, Ne.symm n]
  · intro x hx
    obtain ⟨l, hl, hx⟩ := List.mem_flatten.1 hx
    obtain ⟨q, hq, rfl⟩ := List.mem_map.1 hl
    rw [List.mem_range] at hq
    rw [suspects_by _ _ _ _ hq] at hx
    by_cases h : q = 0
    · subst h
      simp [n, Ne.symm n] at hx
      omega
    · simp [h, show q ≠ 4096 by omega] at hx

/-- A survey of one tile in which every pair agrees, and one in which parcel 4096 differs from its pair and from the referee. -/
theorem test_witness_Survey (seed : BitVec 64) :
    let z := List.replicate 8192 (0 : Byte)
    let y := List.replicate 8192 (1 : Byte)
    ((List.range 4096).map fun q => (List.range 1).flatMap fun t =>
      surveySuspects seed 3 (madeBy fun _ => z) (madeBy fun _ => z) q t).flatten = [] ∧
    (let l := ((List.range 4096).map fun q => (List.range 1).flatMap fun t =>
        surveySuspects seed 3 (madeBy fun p => if p = 4096 then y else z) (madeBy fun _ => z) q t).flatten
     4096 ∈ l ∧ ∀ x ∈ l, 4096 ≤ x) :=
  survey_by seed _ _ (by decide +kernel)

/-- SURVEY of a busy and of a quiet device, with no tile and with too many; REPLAY_STEP with a valid bearing, without a record and with one; DRAIN; WAIT_LIMITS
with good limits, with one that breaks the order, and with a reserved bit of the mask. -/
theorem test_witness_ReliabilityCommands :
    (∀ st v op ps, Admitted (serving st v op ps) hdr0 op ps (started0 op ps)) ∧ (∀ op ps, Admitted (journaled op ps) hdr0 op ps (started0 op ps)) ∧
    ((0 : BitVec 32).toNat = 0 ∧ 65536 < (65537 : BitVec 32).toNat ∧ 1 ≤ (65536 : BitVec 32).toNat ∧ (65536 : BitVec 32).toNat ≤ 65536) ∧
    (∀ m ∈ [3, 12, 15], (serving .running false 0x0701 []).surveyBusy m = true ∧ (serving .parked false 0x0701 []).surveyBusy m = false) ∧
    ((serving .parked true 0x0702 []).brg.valid = true ∧ (serving .parked false 0x0702 []).brg.valid = false ∧
      (serving .parked false 0x0702 []).journalHeld 5 = false ∧ (journaled 0x0702 []).brg.valid = false ∧
      (journaled 0x0702 []).journalHeld 0 = true ∧ (journaled 0x0702 []).badIn (journalAddr 0) 0x410000 = false) ∧
    ((serving .running false 0x0703 []).flt.drained = false ∧ ((serving .running false 0x0703 []).ctx 0).st = .running) ∧
    (limitsOk [2000, 20000, 500, 20000, 200000, 16000] State.reset.flt.wlong = true ∧
      limitsOk [2000, 7999, 500, 20000, 200000, 2000] State.reset.flt.wlong = false ∧ 64 ≤ (64 : Byte).toNat) := by
  refine ⟨fun st v op ps => admitted_started rfl rfl, fun op ps => admitted_started rfl rfl, by decide, ?_, ⟨?_, ?_, ?_, ?_, ?_, ?_⟩, ?_, ?_⟩
  case refine_6 => exact journaled_held _ _
  all_goals decide +kernel

/-- A unit in a condition of service, for a started command. -/
def inSvc (code : Nat) (v : Svc) (op : Nat) (ps : List Byte) : State :=
  { State.reset.asked op ps with flt := { Flt.reset with svc := [(code, v)] } }

/-- Each command of units on a parcel and on a slice, with its effect; the ends of a quiesce; a tract with spares and one without. -/
theorem test_witness_UnitService :
    (∀ x ∈ [(0, UnitRef.unit 0), (63 * 16 + 2, UnitRef.slice 63)], ∀ v ∈ [Svc.inService, .quiescing, .quiesced],
      let s := inSvc x.2.code v 0 []
      (BitVec.ofNat 32 x.1).toNat = x.1 ∧ unitRef x.1 = some x.2 ∧ s.unitStatus x.1 = none ∧ s.svcOf x.2.code = v ∧
        s.acceptedDone x.2 = true ∧ (s.cmd.started.filter fun r => r.begun && r.names objUnit x.2.code) = [] ∧
        ∀ c < 8, (s.ctx c).resident = false) ∧
    (∀ code v op ps, Admitted (inSvc code v op ps) hdr0 op ps (started0 op ps)) ∧
    (4 < (5 : BitVec 32).toNat % 16 ∧ 2 ^ 21 ≤ (0x200000 : BitVec 32).toNat ∧ (0x50 : BitVec 32).toNat % 16 = 0 ∧
      4 < (0x50 : BitVec 32).toNat / 16 % 8) ∧
    (let s : State := { inSvc (UnitRef.slice 0).code .quiescing 0 [] with arc := (sliced false 0).arc }
     s.acceptedDone (.slice 0) = false ∧ s.svcOf (UnitRef.slice 0).code = .quiescing) ∧
    (State.reset.sparesLeft 0 ≠ 0 ∧ ({ State.reset with flt := { Flt.reset with spares := List.replicate 64 0 } } : State).sparesLeft 0 = 0 ∧
      (0 : BitVec 24).toNat % 8 = 0 ∧ pathUnit 0 = some 0) := by
  refine ⟨?_, fun code v op ps => admitted_started rfl rfl, ?_, ?_, ?_⟩ <;> decide +kernel

/-- A DEBUG_OPEN record that names a part. -/
def dbgRec (sn : Nat) : List Byte :=
  (toLE 4 0x42444C47 ++ toLE 2 1 ++ toLE 2 0) ++ (toLE 8 sn ++ (List.replicate 56 0 ++ toLE 4 16224 ++ List.replicate 4020 0))

theorem dbgRec_serial : leAt (dbgRec Config.serial.toNat) 8 8 = Config.serial.toNat := by
  unfold leAt dbgRec
  rw [List.drop_left' (by simp only [List.length_append, toLE_length]), List.take_left' (by simp only [toLE_length]), leNat_toLE]
  exact Nat.mod_eq_of_lt Config.serial.isLt

/-- An image of a class with a body of 16 bytes and a security version; its key and its body are zeros. -/
def imgOf (cls svn : Nat) : List Byte :=
  toLE 4 0x4D494C47 ++ toLE 1 cls ++ toLE 1 svn ++ toLE 2 0 ++ toLE 4 7 ++ toLE 4 16 ++ sha256 (List.replicate 16 0) ++
    List.replicate 16 0 ++ List.replicate 48 0 ++ List.replicate 16240 0

/-- A device with staged images of classes 3 and 5 of security version 3, an anti-rollback counter, images refused or not, and
slice 63 quiesced. -/
def staging (no : Bool) (arb op : Nat) (ps : List Byte) : State :=
  { State.reset.asked op ps with
    flt := { Flt.reset with svc := [(codeSlice 63, .quiesced)] }
    sec := { State.reset.sec with
      noimg := no, ikh := [sha256 (List.replicate 48 0)], dkh := sha256 (bytesAt (dbgRec Config.serial.toNat) 16 48)
      staged := [(3, ⟨7, 3, 0, 0, [1]⟩), (5, ⟨7, 3, 0, 0, [1]⟩)], arb := [(3, arb), (5, arb)] } }

/-- Each command of security with its effect and with each refusal. -/
theorem test_witness_SecurityCommands :
    (∀ op ps, Admitted (State.reset.asked op ps) hdr0 op ps (started0 op ps)) ∧
    (∀ no arb op ps, Admitted (staging no arb op ps) hdr0 op ps (started0 op ps)) ∧
    (debugRecordOk [] = false ∧ debugRecordOk (dbgRec Config.serial.toNat) = true ∧ State.reset.dbgOpen = false ∧
      ({ State.reset with dbgOpen := true } : State).dbgOpen = true) ∧
    (let s := staging false 0 0x0803 []
     leAt (dbgRec Config.serial.toNat) 8 8 = Config.serial.toNat ∧ sha256 (bytesAt (dbgRec Config.serial.toNat) 16 48) = s.sec.dkh ∧
       s.sec.nodbg = false ∧ s.dbgOpen = false) ∧
    ((staging true 0 0x0803 []).sec.noimg = true ∧
      ({ State.reset with sec := { State.reset.sec with nodbg := true } } : State).sec.nodbg = true) ∧
    (let s := staging false 3 0x0A01 []
     s.sec.noimg = false ∧ imageHdrOk 5 (imgOf 4 3) = false ∧
     ∀ v ∈ [2, 3], let b := imgOf 5 v
       imageHdrOk 5 b = true ∧ s.stagedOther 5 + b.length ≤ 2 ^ 26 ∧ leAt b 6 1 < 4 ∧ s.sec.ikrev.testBit (leAt b 6 1) = false ∧
       sha256 (bytesAt b 64 48) = s.sec.ikh.getD (leAt b 6 1) [] ∧ sha256 (b.drop 16336) = bytesAt b 16 32 ∧
       leAt b 5 1 = v ∧ s.arb 5 = 3) ∧
    (let s : State := { State.reset with sec := { State.reset.sec with ikrev := 15, staged := [(4, ⟨7, 3, 0, 0, List.replicate (2 ^ 26) 0⟩)] } }
     s.sec.ikrev.testBit 0 = true ∧ 2 ^ 26 ≤ s.stagedOther 5) ∧
    (Map.find State.reset.sec.staged 5 = none ∧ State.reset.sec.noimg = false ∧
      ∀ a ∈ [3, 4], Map.find (staging false a 0x0A02 []).sec.staged 5 = some ⟨7, 3, 0, 0, [1]⟩ ∧ (staging false a 0x0A02 []).arb 5 = a) ∧
    (let s := staging false 3 0x0A02 []
     Map.find s.sec.staged 3 = some ⟨7, 3, 0, 0, [1]⟩ ∧ s.arb 3 ≤ 3 ∧ unitRef (63 * 16 + 2) = some (.slice 63) ∧
       s.unitStatus (63 * 16 + 2) = none ∧ s.svcOf (codeSlice 63) = .quiesced) := by
  refine ⟨fun op ps => admitted_started rfl rfl, fun no arb op ps => admitted_started rfl rfl, ?_, ⟨dbgRec_serial, rfl, ?_, ?_⟩, ?_,
    ?_, ⟨?_, ?_⟩, ?_, ?_⟩
  case refine_7 => simp [State.stagedOther, -List.reduceReplicate]
  all_goals decide +kernel

/-- An offer of every algorithm and one that lacks a digest; a session and none; a port that is locked. -/
theorem test_witness_SecureSession :
    spdmOffers [.slhDsaSha2192f, .mlKem1024, .aes256Gcm, .sha256] = true ∧ spdmOffers [.slhDsaSha2192f, .mlKem1024, .aes256Gcm] = false ∧
    ({ State.reset with sec := { State.reset.sec with session := true } } : State).sec.session = true ∧
      State.reset.sec.session = false ∧ State.reset.sec.tapOpen = false := by
  decide +kernel

/-- The power controller with a change under way, a droop event, a switch that waits and stretched domains. -/
def powered (ch : Option OppChange) (droop pend : Bool) (str : List Nat) : State :=
  { State.reset with pwr := { State.reset.pwr with change := ch, droop := droop, pend := pend, stretched := str } }

/-- An update with the cap at its least; switches without a droop event and within one; a ramp's end; a short stretch and a full
one. -/
theorem test_witness_PowerControl :
    1 ≤ State.reset.pwr.cap ∧ State.reset.pwr.maxRun = 0 ∧
    (∀ ch droop pend str, (powered ch droop pend str).pwr.change = ch ∧ (powered ch droop pend str).pwr.droop = droop ∧
      (powered ch droop pend str).pwr.pend = pend ∧ (powered ch droop pend str).pwr.stretched = str) ∧
    (let s := powered (some ⟨0, true⟩) false false []
     s.pwr.wanted = s.pwr.eff) ∧
    (let s : State := { State.reset with pwr := { State.reset.pwr with maxRun := 9, bcap := 65536, bcur := 65536, bmax := 128 } }
     bubbleUpdate 5200 1800 s.pwr.bcap s.pwr.gain s.pwr.bmax = s.pwr.bmax * 256) := by
  refine ⟨by decide +kernel, by decide +kernel, fun ch droop pend str => ⟨rfl, rfl, rfl, rfl⟩, ?_, ?_⟩ <;> decide +kernel

/-- A filler of profile 3 that was fired in revolution 4 at time 0. -/
def filling (rev b : Nat) : State :=
  { bearing { brg0 true .locked with rev := rev, b0 := b } with
    pwr := { State.reset.pwr with fills := [(3, 100 * 2 ^ 32 + 1000 * 2 ^ 64)], fill := some ⟨3, 0, 0, 4, none⟩ } }

/-- Readings at each threshold; TMAX at each; a filler whose release has come, whose hold has ended, and neither. -/
theorem test_witness_TemperatureAndFiller :
    (State.reset.mod.warmNext = false ∧ State.reset.pwr.change = none ∧ State.reset.pwr.tripped = false ∧
      ∀ x ∈ [(99, 0), (100, 1), (104, 1), (105, 2), (109, 2), (110, 3)], (BitVec.ofNat 8 x.1).toNat = x.1) ∧
    (∀ x ∈ [89, 90, 94, 95], ({ State.reset with tmax := x } : State).tmax = x) ∧
    (∀ x ∈ [(5, 100, 0, true, false), (4, 100, 256000000, false, true), (5, 99, 0, false, false)],
      let s := filling x.1 x.2.1
      s.pwr.fill = some ⟨3, 0, 0, 4, none⟩ ∧
        (s.brg.valid && s.brg.rev != 4 && decide (s.pwr.fill1 3 32 32 ≤ s.brg.bearingAt x.2.2.1)) = x.2.2.2.1 ∧
        decide (0 + s.pwr.fill1 3 64 32 * 256000 ≤ x.2.2.1) = x.2.2.2.2 ∧ s.now ≤ x.2.2.1) := by
  decide +kernel

/-- A device whose watchdog has acted at a time or never, whose reports of this second are used up or not, with a report to repeat. -/
def watching (last : Option Nat) (sent : Nat) (fw : Bool) (n : Nat) : State :=
  { State.reset with
    mod := { State.reset.mod with mgmtUp := true }
    cmd := { CmdIf.reset with fwrun := fw }
    flt := { Flt.reset with wdogLast := last, frSent := sent, repeats := [(5, (n, [1]))] } }

/-- A first expiry, a second at the last tick of the 60 s and one after them, and one of a parcel in D3hot; reports that leave and
one that is dropped; the last repetition and one before it, and no such report. -/
theorem test_witness_FaultEvents :
    (unitRef 0 = some (.unit 0) ∧ (∀ l, (watching l 0 true 1).watched (.unit 0) = true ∧ (watching l 0 true 1).now ≤ 0 ∧
      (watching l 0 true 1).flt.wdogLast = l ∧ (watching l 0 true 1).pwr.tripped = false ∧
      ∀ c, ((watching l 0 true 1).ctx c).resident = false)) ∧
    (unitRef 7 = none ∧ unitRef 5 = none ∧ unitRef 8 = none ∧ (∀ l, (watching l 0 true 1).flt.openIx = [])) ∧
    (0 + 60000000000 * 256 < 60000000000 * 256 + 1) ∧ ({ State.reset with d3hot := true } : State).watched (.unit 0) = false ∧
    (∀ fw, (watching none 999 fw 1).cmd.fwrun = fw ∧ (watching none 999 fw 1).mod.mgmtUp = true ∧
      (watching none 999 fw 1).ns / 1000000000 = (watching none 999 fw 1).flt.frSecond ∧ (watching none 999 fw 1).flt.frSent < 1000) ∧
    (1000 ≤ (watching none 1000 true 1).flt.frSent) ∧
    (∀ n, Map.find (watching none 0 true n).flt.repeats 5 = some (n, [1]) ∧ Map.find (watching none 0 true n).flt.repeats 6 = none) := by
  refine ⟨⟨rfl, fun l => ⟨rfl, Nat.le_refl 0, rfl, rfl, fun _ => rfl⟩⟩, ⟨rfl, rfl, rfl, fun _ => rfl⟩, ?_, ?_, ?_, ?_,
    fun n => ⟨rfl, rfl⟩⟩ <;> decide +kernel

/-- The side band with power and without it, a log entry at the last place of the cursor, and an alert or none. -/
theorem test_witness_SideBand :
    (∀ v a, let s : State := { State.reset with mod := { State.reset.mod with v12 := v, alertLow := a } }
      s.mod.v12 = v ∧ s.mod.alertLow = a) ∧
    (let e : LogEntry := ⟨4095, 1, 0, 0, false, 0, 0, 0, 0, 0, 0, 1, []⟩
     let s : State := { State.reset with mod := { State.reset.mod with cursor := 4095 }, flt := { Flt.reset with vlog := [(4095, e)] } }
     s.mod.cursor < 4096 ∧ Map.find s.flt.vlog s.mod.cursor = some e) :=
  ⟨fun _ _ => ⟨rfl, rfl⟩, by decide, rfl⟩

/-- Inputs and references good or not, and the flag of a drained device. -/
def supplied (good flag : Bool) : State :=
  { State.reset with
    mod := { State.reset.mod with v50 := good, v12 := good, refH := good, refL := good, mrst := false }
    flt := { Flt.reset with flagged := flag } }

/-- A sub-port that is DOWN, with the link reference back for all windows but the last. -/
def refBack : State :=
  let s := ported { upPort with st := 1 }
  { s with mod := { s.mod with lBack := 99 } }

theorem copyStale_reset (k : Nat) : State.reset.sec.copyStale k none = false := by
  have a : State.reset.sec.ikrev = 0 := rfl
  have b : State.reset.sec.arb = [] := rfl
  simp [Sec.copyStale, a, b, Map.getD]

/-- A cold reset that qualifies and one that does not, flagged and not, with active images that are good; one in which a stack, a
Bindery, a vector unit and both firmware copies fail, and one in which only the active copy does; windows of each reference at the
bounds of its frequency; a host reset in D0; the 12 V input falls; a reference is lost with a sub-port
in service, and has been back while one was DOWN. -/
theorem test_witness_ResetsAndSupplies :
    (∀ good flag, (supplied good flag).mod.qualifies = good ∧ (supplied good flag).flt.flagged = flag ∧
      (supplied good flag).mod.v12 = good ∧ (supplied good flag).mod.refL = good) ∧
    (∀ good flag k, (supplied good flag).sec.copyStale k (Map.find (supplied good flag).sec.active k) = false ∧
      (supplied good flag).sec.copyStale k (Map.find (supplied good flag).sec.inactive k) = false) ∧
    (0 ∈ (⟨[], [], [], [], [0], []⟩ : Boot).active ∧ 0 ∉ (⟨[], [], [], [], [0], []⟩ : Boot).other) ∧
    (refPresent 156250000 (some 156406250) = true ∧ refPresent 156250000 (some 156406251) = false ∧ refPresent 100000000 none = false) ∧
    (let s := ported { upPort with st := 8 }
     s.mod.refL = true ∧ s.mod.refH = true ∧ s.flt.openIx = []) ∧
    (∀ good flag, (supplied good flag).flt.openIx = []) ∧
    (∀ good flag, (supplied good flag).mod.boot = ⟨[], [], [], [], [], []⟩) ∧
    (let s : State := { State.reset with mod := { State.reset.mod with boot := ⟨[], [16383], [11], [11], [0], [0]⟩ } }
     s.mod.qualifies = true ∧ 11 ∈ s.mod.boot.untrained ∧ 11 ∈ s.mod.boot.binderies ∧ 16383 ∈ s.mod.boot.vectors ∧
       0 ∈ s.mod.boot.active ∧ 0 ∈ s.mod.boot.other) ∧
    (refBack.mod.refL = true ∧ refBack.mod.lBack = 99 ∧ refBack.present 127 = true ∧ (refBack.port 127).st = 1 ∧
      (refBack.pctl (127 / 4)).en = true ∧ refBack.svcOf (codePort (127 / 4)) = .inService) ∧
    State.reset.d3hot = false ∧ (ported upPort).present 127 = true ∧ ((ported upPort).port 127).st = 7 ∧ (ported upPort).mod.refL = true := by
  refine ⟨?_, fun _ _ k => ⟨copyStale_reset k, copyStale_reset k⟩, ?_, ?_, ?_, ?_, ?_, ?_, ?_, ?_⟩ <;> decide +kernel

/-- D-states on the way in with a context that runs and a sub-port UP, and on the way out with receipts that waited; a domain that
may be gated and one that may not. -/
theorem test_witness_PowerStates :
    (∀ d deep, let s : State := { ported upPort with d3hot := d, d3depth := deep }
      s.d3hot = d ∧ s.d3depth = deep ∧ s.present 127 = true ∧ (s.port 127).st = 7 ∧ s.mod.napped = [] ∧ s.ctxActs = [] ∧ s.cmd.evLost = 0) ∧
    (∀ st ∈ [2, 6], ((ported { upPort with st := st }).port 127).st = st) ∧
    (run0.ctx 0).st = .running ∧ (run0.ctx 0).parking = false ∧ run0.bnd = [] ∧
    ((run0.setCtx 0 { run0.ctx 0 with parking := true }).ctx 0).parking = true ∧
    (∀ c, c < 8 → (State.reset.ctx c).st ≠ .starting ∧ (State.reset.ctx c).sliceNext = false) ∧
    (let rc : Receipt := ⟨0, 0, 0x0100, false, 0, 0, 0, []⟩
     ({ State.reset with d3hot := true, cmd := { CmdIf.reset with late := [rc] } } : State).cmd.late = [rc]) ∧
    (∃ d : Fin 260, State.reset.gateable d.val = true) ∧ (∃ d : Fin 260, State.reset.gateable d.val = false) := by
  refine ⟨?_, ?_, ?_, ?_, ?_, ?_, ?_, ?_, ⟨0, ?_⟩, ⟨259, ?_⟩⟩ <;> decide +kernel

/-- A queue with a command in it and an empty one; a step that answers a next state from a state that keeps both invariants. -/
theorem test_witness_Steps :
    ({ State.reset with pending := [.tceilUpdate] } : State).pending = .tceilUpdate :: [] ∧ State.reset.pending = [] ∧
    (∃ t, step State.reset = .next t) ∧ (∃ t, exec .tceilUpdate State.reset = .next t) ∧
    State.reset.memOk ∧ State.reset.fieldsOk = true :=
  ⟨rfl, rfl, ⟨_, rfl⟩, ⟨_, rfl⟩, ⟨rfl, rfl⟩, by decide +kernel⟩

/-- A device with a blown fuse, the flag and both locks. -/
theorem test_witness_FusesAndLocks :
    let s : State := { State.reset with dbgOpen := true, domLock := true, flt := { Flt.reset with flagged := true },
                                        fab := { Fabric.reset with snLock := true } }
    s.dbgOpen = true ∧ s.flt.flagged = true ∧ s.fab.snLock = true ∧ s.domLock = true ∧ (∃ t, exec .tceilUpdate s = .next t) ∧
      Instr.tceilUpdate ≠ .mrstAssert ∧ Instr.tceilUpdate ≠ .coldReset :=
  ⟨rfl, rfl, rfl, rfl, ⟨_, rfl⟩, by decide, by decide⟩

/-- A collective at rest and one that runs, and no collective. -/
theorem test_witness_CollectiveClose :
    (∀ st, ({ State.reset with cols := [(4095, { col0 2 0 with st := st })] } : State).col (4095 : BitVec 16).toNat =
      some { col0 2 0 with st := st }) ∧ (col0 2 0).waiting = false ∧ Map.rising [(4095, col0 2 0)] = true ∧
    State.reset.col 4095 = none ∧ ∀ ps, Admitted (State.reset.asked 0x0408 ps) hdr0 0x0408 ps (started0 0x0408 ps) :=
  ⟨fun _ => rfl, rfl, rfl, rfl, fun _ => admitted_started rfl rfl⟩

/-- An access of each wrong kind, with no entry open and with one open for the same offset. -/
theorem test_witness_InvalidAccesses :
    State.reset.d3hot = false ∧ (2 ≠ 4 ∧ 2 ≠ 8) ∧ (0x182 % 4 ≠ 0) ∧ regAt 0x3FFFFFC = none ∧ (0x184 % 8 ≠ 0) ∧ regAt 0x3FFFFF8 = none ∧
    State.reset.flt.openIx = [] ∧
    (let e : LogEntry := ⟨7, 1, 0, 0, false, 0xFFFFFFFF, 0, 0, 0, 0x182, 0, 1, []⟩
     let s : State := { State.reset with flt := { Flt.reset with openIx := [7], vlog := [(7, e)] } }
     s.flt.openIx = [7] ∧ Map.find s.flt.vlog (7 % 4096) = some e) ∧
    (∃ s : State, s.mod.mgmtUp = true) := by
  refine ⟨by decide, by decide, by decide, by decide +kernel, by decide, by decide +kernel, by decide, ⟨rfl, rfl⟩, ⟨watching none 0 true 1, rfl⟩⟩

/-- A 64-bit access whose second word holds no register, one of a word that holds none, and one to a register whose clock domain
is OFF; an entry open for the same offset. -/
theorem test_witness_HostFaultEntries :
    ((regAt 0x70018).all (fun x => x.2 != 1) = true ∧ regAt (0x70018 + 4) = none) ∧ regAt 0x3FFFFF8 = none ∧
    (let s : State := { State.reset with d3hot := true, mod := { State.reset.mod with ready := true } }
     s.regsAt 0x400000 4 = some [(.qsw 0 0, 0)] ∧ s.regOff [(.qsw 0 0, 0)] = true) ∧
    (let e : LogEntry := ⟨7, 1, 0, 0, false, 0xFFFFFFFF, 0, 0, 0, 0x182, 0, 1, []⟩
     let s : State := { State.reset with flt := { Flt.reset with openIx := [7], vlog := [(7, e)] } }
     s.flt.openIx = [7] ∧ Map.find s.flt.vlog (7 % 4096) = some e ∧ e.index = 7 ∧ e.kind = 0x0001 ∧ e.unit = 0xFFFFFFFF ∧
       e.addr = 0x182) := by
  refine ⟨?_, ?_, ?_, ?_⟩ <;> decide +kernel

/-! ## The spec's worked examples -/

/-- The check values of the four polynomials over the bytes of "123456789" (R194). -/
theorem test_crc_checks :
    (List.range 4).map (fun i => crc i ([49, 50, 51, 52, 53, 54, 55, 56, 57] : List Byte)) =
      [0xE3069283, 0xCBF43926, 0x6C40DF5F0B497347, 0x29B1] := by decide +kernel

/-- Number formats, "one pair of values, two paths": L8 × L8 by sum then antilog, L8 × FP32 by decode then multiply. -/
theorem test_product_paths :
    product .l8 0x41 0 none .l8 0x42 0 none = .fin 10878679 (-23) ∧
    (product .l8 0x41 0 none .fp32 0x3F9837F0 0 none).cmp (.fin 91256969040864 (-46)) = some .eq := by decide +kernel

/-- The eight E4M3 products of The ledger, "one dot product, two mappings", by number, placed in a coupled ledger. -/
def ledgerOf (ks : List Nat) : Ledger × List ShedEv :=
  let codes : List (Nat × Nat) := [(0x7E, 0x40), (0x3E, 0x2C), (0xC4, 0x36), (0x28, 0x28), (0xFE, 0x40), (0x52, 0x2A), (0xBC, 0x3C),
    (0x4C, 0x20)]
  ks.foldl (fun a k =>
    let c := codes.getD (k - 1) (0, 0)
    let l := a.1.place (product .e4m3 c.1 0 none .e4m3 c.2 0 none)
    (l.1, a.2 ++ l.2)) (Ledger.clearAs false true true 18 (-1), [])

/-- The element t of both mappings, and the events that mapping 1 counts. -/
theorem test_dot_product :
    (ledgerOf [1, 2, 3, 4, 5, 6, 7, 8]).1.tally 24 = 0xFFFFFF ∧
    (ledgerOf [1, 2, 3, 4, 5, 6, 7, 8]).2 =
      [.shedPart, .shedPart, .shedWhole, .shedPart, .shedPart, .shedPart] ∧
    (ledgerOf [5, 6, 7, 8, 4]).1.tally 24 = 0xFFF903 ∧ (ledgerOf [3, 1, 2]).1.tally 24 = 0x0006FC ∧
    (finaliseOne ⟨.fp32, false, false, false, 0, 0⟩ false 0 false (ledgerOf [1, 2, 3, 4, 5, 6, 7, 8]).1).code = 0xBF000000 := by
  decide +kernel

/-- The ledger, "a block that outgrows its scale": a scale clamped at 2^127, one element saturated. -/
theorem test_block_clamp :
    let l := fun (m : Int) => (({ Ledger.clearAs false false false 0 120 with val := m, allnz := false } : Ledger), false)
    let o := finaliseBlock ⟨.e4m3, false, false, false, 2, 0⟩ 0 ([l (3 * 2 ^ 16), l (5 * 2 ^ 8)] ++ List.replicate 29 (l 0) ++ [l (-1)])
    o.scale = 0xFE ∧ o.clamp = true ∧ o.codes = [0x7E, 0x52] ++ List.replicate 29 0 ++ [0x84] ∧
      o.events.filter (· == .satFin) = [.satFin] := by decide +kernel

/-- The vector engine, "soft-maximum rows of an attention head": scores, masks, and what each row receives. -/
def sweepRow (mask : Nat) (xs : List Nat) : List (Nat × Nat) :=
  let d : BitVec 512 := BitVec.ofNat 512 (2 * 2 ^ 12 + 2 ^ 25 + 8 * 2 ^ 124 + 6 * 2 ^ 172)
  let m := (Memory.writeN [] 0 (xs.flatMap (toLE 4))).writeLE 64 1 mask
  let o := vSweepRow m 0 d (ent [(0, 0x30), (10, 1), (24, 8), (96, 5), (112, 4)]) 0 (List.range 8) 8
  o.writes.map fun w => (w.1, w.2.2)

/-- Each element's place in 4-bit units from granule 5, and the row-status byte at granule 6. -/
def sweepOut (codes : List Nat) (st : Nat) : List (Nat × Nat) := (codes.zipIdx.map fun c => (160 + 4 * c.2, c.1)) ++ [(192, st)]

/-- The four rows of the example. -/
theorem test_sweep_rows :
    sweepRow 0x3F [0x40400000, 0x3F800000, 0xFF800000, 0x40000000, 0x40400000, 0, 0x7FC00000, 0x40A00000] =
      sweepOut [0x3EB2, 0x3DB2, 0, 0x3E32, 0x3EB2, 0x3D32, 0, 0] 0 ∧
    sweepRow 0 [0x40400000, 0, 0, 0, 0, 0, 0, 0] = sweepOut [0, 0, 0, 0, 0, 0, 0, 0] 1 ∧
    sweepRow 0xFF [0x7F800000, 0x40800000, 0x7F800000, 0xFF800000, 0, 0x3F800000, 0x40000000, 0x40400000] =
      sweepOut [0x3F00, 0, 0x3F00, 0, 0, 0, 0, 0] 2 ∧
    sweepRow 0xFF [0, 0, 0, 0, 0, 0x7FC00000, 0, 0] = sweepOut (List.replicate 8 0x7FC0) 4 := by
  decide +kernel

/-- The matrix array, "a quantised scorer output": both columns, from the raw sums to V and the code written. -/
theorem test_quantised_outputs :
    let d : BitVec 512 := BitVec.ofNat 512 (7 + 7 * 16 + 2 ^ 11 + 2 ^ 13 + 7 * 2 ^ 163 + 128 * 2 ^ 173 + 128 * 2 ^ 181 + 3 * 2 ^ 189)
    let m := (Memory.writeN [] 0 (toLE 2 0 ++ toLE 2 0 ++ toLE 2 0xFFFF ++ toLE 2 0xFFFF ++ toLE 2 4)).writeN 64
      (toLE 4 0x5A827999 ++ toLE 4 36 ++ toLE 4 0x5A827999 ++ toLE 4 36)
    let l := fun (v : Int) => ({ Ledger.clearAs false false true 16 0 with val := v, cnt := 4 } : Ledger)
    let sg : Segment := { Segment.empty with ledgers := [(0, l 3154), (1, l 1714)], rowsum := [(0, 578)], colsum := [(0, 19), (1, 14)] }
    let v := fun j => qCorrect m 0 d 0 sg 0 j j
    [(v 0).val, (v 1).val] = [524, -276] ∧ [(qOutput m 0 d 0 (v 0) 0).1, (qOutput m 0 d 0 (v 1) 1).1] = [0x8B, 0x7A] := by
  decide +kernel

/-- Bindery, "what the remainder keeps": both steps' codes and remainders, in units of 2^-30. -/
theorem test_remainder :
    (convert .l8 ⟨false, false, false, 0⟩ (.fin 1107296256 (-30))).code = 0x40 ∧
    optRem .l8 (.fin 1107296256 (-30)) 0x40 none = (44, false) ∧
    (convert .l8 ⟨false, false, false, 0⟩ (.fin 1140702552 (-30))).code = 0x41 ∧
    optRem .l8 (.fin 1140702552 (-30)) 0x41 none = (-36, false) := by decide +kernel

/-- Wenade links: the entries of station 1,027 with B = 10 for stations 1,100 and 5,000. -/
theorem test_route_entries :
    let s : State := { State.reset with station := 1027, fab := { Fabric.reset with b := 10, rtl := [(76, 11)], rtr := [(4, 22)] } }
    s.routeEntry 1100 = 11 ∧ s.routeEntry 5000 = 22 := by decide +kernel

/-- Collectives, the admission round: grant and REASON of B, A and C. -/
theorem test_admission_round :
    let open1 := fun (h acls acc sreq smin grant : Nat) (w : Bool) =>
      ((h, { col0 0 0 with r := { rec0 0 0 with acls := BitVec.ofNat 2 acls, sreq := BitVec.ofNat 13 sreq, smin := BitVec.ofNat 13 smin },
                           acc := acc, waiting := w, grant := grant }) : Nat × Col)
    let s : State := { State.reset with slotRes := 64, cols := [open1 1 1 901 48 16 0 true, open1 2 2 899 32 0 0 true,
      open1 3 0 905 64 64 0 true, open1 4 3 1 0 0 3996 false] }
    (match exec .admissionRound s with
     | .next t => (t.cols.map fun kv => (kv.1, kv.2.grant, kv.2.reason)) == [(1, 36, 1), (2, 0, 2), (3, 64, 0), (4, 3996, 0)]
     | _ => false) = true := by decide +kernel

/-- Bearings, "a wrap reaching two followers": the bearing that each follower takes from the WRAP token. -/
theorem test_wrap_bearings :
    let k := fun (age : Nat) => (⟨1, 0, 3214000000, age, false, true, false, 0, 0⟩ : Token)
    (k 0).reference (60 * 256) = 80 ∧ (k (60 * 256 + 22400)).reference (40 * 256) = 250 := by decide +kernel

/-- Numerics, "a prescription following a gradient": PSC before revolution n and after each of its postings. -/
theorem test_prescriptions :
    let e0 : CatEntry := ({ CatEntry.default with delay := 2, margin := 1, seeded := true,
                                                  hist := [0x3C80, 0x3DC0] ++ List.replicate 14 0, head := 1 } : CatEntry).refresh
    let e1 := e0.post 0x4180 1
    let e2 := e1.post 0x4140 2
    let e3 := e2.post 0x4080 3
    [e0.psc, e1.psc, e2.psc, e3.psc] = [0x76, 0x7A, 0x7A, 0x7A] := by decide +kernel

/-- The register map, "finding three registers", and Counters, "one counter, live and in a snapshot". -/
theorem test_register_places :
    regAt 0x4CAD48 = some (.qsw 12981 2, 0) ∧ (regAt 0x510CA4).map (·.1) = some (.psw (16384 + 1024 + 50)) ∧
    regAt 0x218130 = some (.rtl 76, 0) ∧ regAt 0xC062D0 = some (.counter 519258, 1) := by decide +kernel

/-- SHA-256 of "abc" (FIPS 180-4, which R436 names). -/
theorem test_sha256 : sha256 (ascii "abc") = (toLE 32 0xba7816bf8f01cfea414140de5dae2223b00361a396177a9cb410ff61f20015ad).reverse := by
  decide +kernel

/-! ## Terms that spell no command -/

/-- The header of a command from ring 5, and of a direct command; the direct word has no ring, and its accession
numbers start at 0xFFFFFFFFFF000000 (R346). -/
theorem test_wf_header :
    (Instr.nop ⟨5, 12, 0, false⟩).wf = true ∧ (Instr.nop ⟨0, 0xFFFFFFFFFF000007, 0, true⟩).wf = true ∧
    (Instr.nop ⟨5, 0xFFFFFFFFFF000007, 0, true⟩).wf = false ∧ (Instr.nop ⟨0, 12, 0, true⟩).wf = false := by decide +kernel

/-- An entry word whose opcode byte is another's (R98, R128, R155, R175). -/
theorem test_wf_opcode :
    (Instr.macc 0 (ent [(0, 3)])).wf = true ∧ (Instr.macc 0 (ent [(0, 4)])).wf = false ∧ (Instr.vfun 0 (ent [(0, 0x21)])).wf = false ∧
    (Instr.sset 0 .v (ent [(0, 0xF3)])).wf = false ∧ (Instr.xput 0 (ent [(0, 1)])).wf = false := by decide +kernel

/-- Accesses of no byte, or of more than the 4,096 bytes of the largest request (Host interface, the PCI Express link). -/
theorem test_wf_access :
    (Instr.bar0InvalidAccess false true 0 3 0).wf = true ∧ (Instr.bar0InvalidAccess false true 0 0 0).wf = false ∧
    (Instr.bar0InvalidAccess false true 0 4097 0).wf = false ∧ (Instr.bar2Read 0 0).wf = false ∧
    (Instr.bar2Read 0 4097).wf = false ∧ (Instr.bar2Write 0 []).wf = false := by decide +kernel

theorem test_wf_write_too_long (bs : List Byte) (h : 4096 < bs.length) : (Instr.bar2Write 0 bs).wf = false := by
  simp [Instr.wf, Nat.not_le.mpr h]

/-- A frame has 1,285 bytes (R222). -/
theorem test_wf_frame :
    (Instr.frameReceive 0 0 (.good 0) [1, 2, 3]).wf = false ∧ (Instr.trainingFrameReceive 0 0 (.good 0) []).wf = false := by
  decide +kernel

/-- A packet whose body is not as long as NSLOT says, one of more than 64 slots, and one of another type (R226). -/
theorem test_wf_packet :
    (Instr.cack (pkt 2 5 3 1 [])).wf = true ∧ (Instr.cack { pkt 2 5 3 1 [] with nslot := 1 }).wf = false ∧
    (Instr.packetForward { pkt 2 5 3 1 [] with nslot := 64, body := List.replicate 4144 0 }).wf = false ∧
    (Instr.cack (pkt 4 5 3 1 [])).wf = false := by decide +kernel

/-- More children than SCHILD can count, and a malformed header (R249). -/
theorem test_wf_open :
    (Instr.colOpen hdr0 (rec0 0 0) []).wf = true ∧ (Instr.colOpen hdr0 (rec0 0 0) (List.replicate 256 1)).wf = false := by
  decide +kernel

/-- A slot that is not 64 bytes; below, parameters of more than 4,096 bytes (R347). -/
theorem test_wf_fetch :
    (Instr.commandFetch 0 0 true [] []).wf = true ∧ (Instr.commandFetch 0 0 false [] []).wf = false ∧
    (Instr.commandFetch 0 0 false (List.replicate 63 0) []).wf = false := by decide +kernel

theorem test_wf_fetch_too_long (bs : List Byte) (h : 4096 < bs.length) : (Instr.commandFetch 0 0 true [] bs).wf = false := by
  simp [Instr.wf, Nat.not_le.mpr h]

/-- Lists longer than their 16-bit counts (R363, R365). -/
theorem test_wf_counts (xs : List ShelfReq) (ws : List (BitVec 32)) (hx : 65536 ≤ xs.length) (hw : 65536 ≤ ws.length) :
    (Instr.shelfPartition hdr0 xs).wf = false ∧ (Instr.routeLoad hdr0 true 0 ws).wf = false ∧
    (Instr.stractSetup hdr0 1 1 1 ws).wf = false := by
  simp [Instr.wf, Nat.not_lt.mpr hx, Nat.not_lt.mpr hw]

/-- A descriptor has 128 bytes, a debug record 4,096, an image as many as its length says, a power reading one bin for each of
eight contexts (R363, R451, R443, R407). -/
theorem test_wf_lengths :
    (Instr.binderyRun hdr0 0 [1]).wf = false ∧ (Instr.debugOpen hdr0 [1] none true).wf = false ∧
    (Instr.imageStage hdr0 5 0 2 (some [1]) true).wf = false ∧ (Instr.imageStage hdr0 5 0 1 (some [1]) true).wf = true ∧
    (Instr.powerUpdate 0 0 0 0 [1, 2, 3]).wf = false := by decide +kernel

/-- A context command whose direct header has no number of the direct word (R346). -/
theorem test_wf_ctxLoad :
    (Instr.ctxLoad hdr0 0 0 .clean).wf = true ∧ (Instr.ctxLoad { hdr0 with acc := 0 } 0 0 .clean).wf = false := by
  decide +kernel

/-- A tile of a survey has 256 images of 32 bytes (R433). -/
theorem test_wf_survey :
    (Instr.survey hdr0 0 1 3 [⟨3, 0, List.replicate 8192 1⟩] []).wf = true ∧ (Instr.survey hdr0 0 1 3 [] [⟨3, 0, [1]⟩]).wf = false := by
  decide +kernel

/-- An MSI-X write outside the table or off a word (the map of BAR4). -/
theorem test_wf_msix :
    (Instr.msiXTableWrite 0xF00004 0).wf = true ∧ (Instr.msiXTableWrite 0xF00002 0).wf = false ∧
    (Instr.msiXTableWrite 0xEFFFFC 0).wf = false ∧ (Instr.msiXTableWrite 0xF08100 0).wf = false := by decide +kernel

/-- Two L operands, one block-scaled; S8 three, minus one and a half in E4M3 under a scale; L8 with BF16. -/
theorem test_witness_ProductPaths :
    (decode .l4 5 = .fin (antilog 128) (-23) ∧ decode .l8 0xC0 = .fin (-(antilog 0 : Int)) (-23)) ∧
    CForm (decode .s8 3) false (3 * 2 ^ 22) 1 ∧ CForm (decode .e4m3 0xBC) true (3 * 2 ^ 22) 0 ∧
    CForm (decode .l8 64) false (2 ^ 23) 0 ∧ CForm (decode .bf16 0x3F80) false (2 ^ 23) 0 ∧
    (Fmt.s8.isLog && Fmt.e4m3.isLog) = false ∧ (Fmt.l8.isLog && Fmt.bf16.isLog) = false ∧
    (some 130 : Option Nat) ≠ some 255 := by
  refine ⟨by decide +kernel, ⟨by decide, 3, 0, by decide +kernel, by norm_num [zpow_neg]⟩,
    ⟨by decide, -12, -3, by decide +kernel, by norm_num [zpow_neg]⟩,
    ⟨by decide, 2 ^ 23, -23, by decide +kernel, by norm_num [zpow_neg]⟩,
    ⟨by decide, 128, -7, by decide +kernel, by norm_num [zpow_neg]⟩, by decide, by decide, by decide⟩

/-- Each product of the witness above, worked out by hand from R47 and R48. -/
theorem test_products :
    product .l4 5 0 (some 128) .l8 0xC0 0 none = .fin (-(antilog 128 : Int)) (-22) ∧
    product .s8 3 0 (some 130) .e4m3 0xBC 0 none = .fin (-36) 0 := by decide +kernel

end Sys2Proof.Machine
end

namespace Sys2Proof.Machine

set_option Elab.async false

/-! # What every command keeps (O5, O6)

`Keeps s t`: the registers of `t` hold values that their tables allow if those of `s` do, and `t` takes back nothing that
no command takes back. Each operation of the model has one lemma `Keeps.<operation>`, by the lemmas of the operations that
it is made of; one that writes nothing of concern is a case of `Keeps.upd`. Each command is then composed of these. -/

/-- What no command takes back, and the registers at allowed values. -/

structure Keeps (s t : State) : Prop where
  fields : s.fieldsOk = true → t.fieldsOk = true
  fuse : s.dbgOpen = true → t.dbgOpen = true
  flag : s.flt.flagged = true → t.flt.flagged = true
  arb : ∀ k, s.arb k ≤ t.arb k
  station : s.fab.snLock = true → t.fab.snLock = true ∧ t.station = s.station
  domain : s.domLock = true → t.domLock = true ∧ t.domSize = s.domSize

/-- The next state of a command, where it has one, keeps all that. -/
def KeepsNext (s : State) (o : Host.Outcome State Fault Refusal) : Prop := ∀ t, o = .next t → Keeps s t

namespace KeepsNext

variable {s t : State} {o p : Host.Outcome State Fault Refusal}

theorem next (h : Keeps s t) : KeepsNext s (.next t) := fun _ e => by cases e; exact h
theorem refused {r : Refusal} : KeepsNext s (.refused r) := fun _ e => nomatch e

theorem ite {c : Prop} [Decidable c] (h : KeepsNext s o) (g : KeepsNext s p) : KeepsNext s (if c then o else p) := by
  split <;> assumption

end KeepsNext

/-! ### Maps all of whose entries have a property -/

section

variable {α : Type} {p : Nat × α → Bool} {m : Map α} {k : Nat} {v : α}

theorem Map.all_put (h : m.all p = true) (hv : p (k, v) = true) : (Map.put m k v).all p = true := by
  induction m with
  | nil => simpa [Map.put] using hv
  | cons kv m ih =>
    obtain ⟨h1, h2⟩ : p kv = true ∧ List.all m p = true := by simpa using h
    unfold Map.put
    split
    · simp [hv, h2]
    · split
      · simp [hv, h1, h2]
      · simp [h1, ih h2]

theorem Map.all_find (h : m.all p = true) (hf : Map.find m k = some v) : p (k, v) = true := by
  induction m with
  | nil => cases hf
  | cons kv m ih =>
    obtain ⟨h1, h2⟩ : p kv = true ∧ List.all m p = true := by simpa using h
    unfold Map.find at hf
    split at hf
    · next e => cases hf; rwa [← e]
    · exact ih h2 hf

theorem Map.all_del (h : m.all p = true) : (Map.del m k).all p = true := by
  rw [List.all_eq_true] at h ⊢
  exact fun x hx => h x (List.mem_of_mem_filter hx)

theorem Map.all_putD [DecidableEq α] {d : α} (h : m.all p = true) (hv : p (k, v) = true) :
    (Map.putD m k v d).all p = true := by
  unfold Map.putD
  split
  · exact Map.all_del h
  · exact Map.all_put h hv

end

/-! ### The bearing's fields -/

theorem Brg.fieldsOk_of {b c : Brg} (hb : b.fieldsOk = true) (h1 : c.loss = b.loss := by rfl)
    (h2 : c.pinit = b.pinit := by rfl) (h3 : c.stk = b.stk := by rfl) : c.fieldsOk = true := by
  rw [← hb, Brg.fieldsOk, Brg.fieldsOk, h1, h2, h3]

theorem action_clearEn (n : Nat) : bitsOf (setBits n 4 1 0) 0 4 = bitsOf n 0 4 := by
  simp only [bitsOf, setBits]
  omega

/-- Clearing EN changes neither ACTION nor PARAM of an entry. -/
theorem stakeoutOk_clearEn {ws : List Nat} (h : stakeoutOk (ws.getD 2 0) (ws.getD 3 0) = true) :
    stakeoutOk ((ws.set 2 (setBits (ws.getD 2 0) 4 1 0)).getD 2 0)
      ((ws.set 2 (setBits (ws.getD 2 0) 4 1 0)).getD 3 0) = true := by
  have h3 : (ws.set 2 (setBits (ws.getD 2 0) 4 1 0)).getD 3 0 = ws.getD 3 0 := by simp [List.getD_eq_getElem?_getD]
  rw [h3]
  by_cases hl : 2 < ws.length
  · have h2 : (ws.set 2 (setBits (ws.getD 2 0) 4 1 0)).getD 2 0 = setBits (ws.getD 2 0) 4 1 0 := by
      simp [List.getD_eq_getElem?_getD, hl]
    rw [h2]
    simpa only [stakeoutOk, action_clearEn] using h
  · rwa [List.set_eq_of_length_le (Nat.le_of_not_lt hl)]

theorem Brg.fieldsOk_fire {b : Brg} {d : Nat × Nat} (h : b.fieldsOk = true) : (b.fire d).fieldsOk = true := by
  simp only [Brg.fieldsOk, Bool.and_eq_true] at h ⊢
  obtain ⟨hb, hs⟩ := h
  refine ⟨hb, ?_⟩
  unfold Brg.fire
  dsimp only
  split
  · refine Map.all_put hs (stakeoutOk_clearEn ?_)
    cases hf : Map.find b.stk d.1 with
    | none => simp [Map.getD, hf]; decide
    | some ws => simpa [Map.getD, hf] using Map.all_find hs hf
  · exact hs

theorem Brg.fieldsOk_settleNones {b : Brg} {t : Nat} (h : b.fieldsOk = true) : (b.settleNones t).fieldsOk = true := by
  unfold Brg.settleNones
  generalize (b.dueStill ++ b.dueAt t).filter _ = ds
  induction ds generalizing b with
  | nil => exact h
  | cons d ds ih => exact ih (fieldsOk_fire h)

theorem Brg.fieldsOk_closeRev {b : Brg} {t : Nat} (h : b.fieldsOk = true) : (b.closeRev t).fieldsOk = true :=
  fieldsOk_of (fieldsOk_settleNones h)

theorem Brg.fieldsOk_unlock {b : Brg} {t : Nat} (h : b.fieldsOk = true) : (b.unlock t).fieldsOk = true :=
  fieldsOk_of (fieldsOk_settleNones h)

theorem Brg.fieldsOk_applyTok {b : Brg} {k : Token} {w t : Nat} (h : b.fieldsOk = true) :
    (b.applyTok k w t).fieldsOk = true := by
  unfold Brg.applyTok
  dsimp only
  split <;> exact fieldsOk_of h

/-- Entries marked as fired keep what they hold. -/
theorem Brg.fieldsOk_fired {b : Brg} {ns : List Nat} (h : b.fieldsOk = true) :
    (ns.foldl (fun b n => { b with fired := Map.put b.fired n b.rev }) b).fieldsOk = true := by
  induction ns generalizing b with
  | nil => exact h
  | cons n ns ih => exact ih (fieldsOk_of h)

/-! ### The counters -/

theorem Ctr.fieldsOk_iff {c : Ctr} : c.fieldsOk = true ↔ (c.store.all fun kv => decide (kv.2 < 2 ^ 48)) = true ∧
    (c.image.all fun m => m.all fun kv => decide (kv.2 < 2 ^ 48)) = true ∧ c.shelf ≤ 639 := by
  simp only [Ctr.fieldsOk, Bool.and_eq_true, decide_eq_true_eq, and_assoc]

/-- A sum that the store takes fits in 48 bits. -/
theorem store_add {m : Map Nat} {k n : Nat} (h : (m.all fun kv => decide (kv.2 < 2 ^ 48)) = true) :
    ((Map.putD m k ((Map.getD m k 0 + n) % 2 ^ 48) 0).all fun kv => decide (kv.2 < 2 ^ 48)) = true :=
  Map.all_putD h (decide_eq_true (Nat.mod_lt _ (by decide)))

theorem Ctr.moveAll_store {c : Ctr} (h : (c.store.all fun kv => decide (kv.2 < 2 ^ 48)) = true) :
    (c.moveAll.store.all fun kv => decide (kv.2 < 2 ^ 48)) = true := by
  unfold Ctr.moveAll
  dsimp only
  generalize c.store = m at h ⊢
  induction c.delta generalizing m with
  | nil => exact h
  | cons kv ds ih => exact ih _ (store_add h)

theorem Ctr.fieldsOk_moveAll {c : Ctr} (h : c.fieldsOk = true) : c.moveAll.fieldsOk = true := by
  obtain ⟨hs, hi, hl⟩ := Ctr.fieldsOk_iff.mp h
  exact Ctr.fieldsOk_iff.mpr ⟨Ctr.moveAll_store hs, hi, hl⟩

/-- The image of a freeze is as good as the store. -/
theorem Ctr.freeze_image {c : Ctr} (h : c.fieldsOk = true) :
    ((if c.image.isSome then c.image else some c.freeze).all fun m =>
      m.all fun kv => decide (kv.2 < 2 ^ 48)) = true := by
  obtain ⟨hs, hi, -⟩ := Ctr.fieldsOk_iff.mp h
  split
  · exact hi
  · exact Ctr.moveAll_store hs

theorem Ctr.fieldsOk_hold {c : Ctr} (h : c.fieldsOk = true) : c.hold.fieldsOk = true := by
  obtain ⟨hs, -, hl⟩ := Ctr.fieldsOk_iff.mp h
  exact Ctr.fieldsOk_iff.mpr ⟨hs, Ctr.freeze_image h, hl⟩

theorem Ctr.fieldsOk_thaw {c : Ctr} (h : c.fieldsOk = true) : c.thaw.fieldsOk = true := by
  obtain ⟨hs, hi, hl⟩ := Ctr.fieldsOk_iff.mp h
  unfold Ctr.thaw
  split
  · exact Ctr.fieldsOk_iff.mpr ⟨hs, hi, hl⟩
  · split
    · exact Ctr.fieldsOk_iff.mpr ⟨hs, rfl, hl⟩
    · exact h

theorem Ctr.fieldsOk_afterCopy {c : Ctr} (h : c.fieldsOk = true) : c.afterCopy.fieldsOk = true := by
  obtain ⟨hs, hi, hl⟩ := Ctr.fieldsOk_iff.mp h
  refine Ctr.fieldsOk_iff.mpr ⟨hs, ?_, hl⟩
  unfold Ctr.afterCopy
  dsimp only
  split
  · exact hi
  · rfl

/-! ### Fields of the power controller, the bearing and the fault log -/

theorem pick_ind {p : Nat → Prop} {ok : Bool} {new old : Nat} (h : ok = true → p new) (g : p old) :
    p (pick ok new old) := by
  unfold pick
  split
  · next hok => exact h hok
  · exact g

theorem Pwr.fieldsOk_iff {p : Pwr} : p.fieldsOk = true ↔ (1800 ≤ p.cap ∧ p.cap ≤ 5200) ∧ p.gain ≠ 0 ∧
    (32 ≤ p.bmax ∧ p.bmax ≤ 240) ∧ (p.req ≤ 5 ∧ p.tceil ≤ 5 ∧ p.cceil ≤ 5) ∧ p.eff ≤ 5 ∧
    ∀ x ∈ p.change, x.target ≤ 5 := by
  simp [Pwr.fieldsOk, Option.all_eq_true, and_assoc]

theorem Pwr.fieldsOk_req {p : Pwr} {n : Nat} {src : Bool} (h : p.fieldsOk = true) (hn : n ≤ 5) :
    ({ p with req := n, src := src } : Pwr).fieldsOk = true := by
  obtain ⟨hc, hg, hb, ⟨-, ht, hcc⟩, he, hx⟩ := Pwr.fieldsOk_iff.mp h
  exact Pwr.fieldsOk_iff.mpr ⟨hc, hg, hb, ⟨hn, ht, hcc⟩, he, hx⟩

/-- The effective point is moved to a target. -/
theorem Pwr.fieldsOk_switched {p : Pwr} {n : Nat} {pend c : Bool} (h : p.fieldsOk = true) (hn : n ≤ 5) :
    ({ p with eff := n, pend := pend, change := if c then some ⟨n, true⟩ else none } : Pwr).fieldsOk = true := by
  obtain ⟨hc, hg, hb, hr, -, -⟩ := Pwr.fieldsOk_iff.mp h
  refine Pwr.fieldsOk_iff.mpr ⟨hc, hg, hb, hr, hn, fun x hx => ?_⟩
  cases c
  · cases hx
  · cases hx; exact hn

theorem Pwr.fieldsOk_retarget {p : Pwr} (h : p.fieldsOk = true) : p.retarget.fieldsOk = true := by
  obtain ⟨hc, hg, hb, ⟨hr, ht, hcc⟩, he, -⟩ := Pwr.fieldsOk_iff.mp h
  have hw : p.wanted ≤ 5 := by simp [Pwr.wanted, hr, ht, hcc]
  unfold Pwr.retarget
  split
  · exact h
  · split
    · exact Pwr.fieldsOk_iff.mpr ⟨hc, hg, hb, ⟨hr, ht, hcc⟩, he, by simp⟩
    · split
      · exact h
      · exact Pwr.fieldsOk_iff.mpr ⟨hc, hg, hb, ⟨hr, ht, hcc⟩, he, by simpa using hw⟩

/-- The effective point's thermal ceiling is replaced by one in range. -/
theorem Pwr.fieldsOk_tceil {p : Pwr} {n : Nat} {e : Bool} (h : p.fieldsOk = true) (hn : n ≤ 5) :
    ({ p with emergency := e, tceil := n } : Pwr).fieldsOk = true := by
  obtain ⟨hc, hg, hb, ⟨hr, -, hcc⟩, he, hx⟩ := Pwr.fieldsOk_iff.mp h
  exact Pwr.fieldsOk_iff.mpr ⟨hc, hg, hb, ⟨hr, hn, hcc⟩, he, hx⟩

theorem Pwr.fieldsOk_cceil {p : Pwr} {n mx zr : Nat} (h : p.fieldsOk = true) (hn : n ≤ 5) :
    ({ p with cceil := n, maxRun := mx, zeroRun := zr } : Pwr).fieldsOk = true := by
  obtain ⟨hc, hg, hb, ⟨hr, ht, -⟩, he, hx⟩ := Pwr.fieldsOk_iff.mp h
  exact Pwr.fieldsOk_iff.mpr ⟨hc, hg, hb, ⟨hr, ht, hn⟩, he, hx⟩

theorem Pwr.fieldsOk_endChange {p : Pwr} (h : p.fieldsOk = true) :
    ({ p with change := none } : Pwr).fieldsOk = true := by
  obtain ⟨hc, hg, hb, hr, he, -⟩ := Pwr.fieldsOk_iff.mp h
  exact Pwr.fieldsOk_iff.mpr ⟨hc, hg, hb, hr, he, by simp⟩

theorem Pwr.target_le {p : Pwr} {x : OppChange} (h : p.fieldsOk = true) (hx : p.change = some x) : x.target ≤ 5 := by
  obtain ⟨-, -, -, -, -, hc⟩ := Pwr.fieldsOk_iff.mp h
  exact hc x (by simp [hx])

theorem Pwr.fieldsOk_limits {p : Pwr} {est w m : Nat} (h : p.fieldsOk = true) :
    (p.limits est w m).fieldsOk = true := by
  obtain ⟨-, -, -, ⟨-, -, hcc⟩, -, -⟩ := Pwr.fieldsOk_iff.mp h
  unfold Pwr.limits
  extract_lets bc bw ba
  have h1 : ({ p with bcap := bc, bcur := max bw ba } : Pwr).fieldsOk = true := h
  unfold Pwr.ceiling
  extract_lets mx zr
  split
  · exact Pwr.fieldsOk_cceil h1 (Nat.min_le_left ..)
  · split
    · exact Pwr.fieldsOk_cceil h1 ((Nat.sub_le ..).trans hcc)
    · exact h1

theorem Pwr.fieldsOk_writeGain {p : Pwr} {v : Nat} (h : p.fieldsOk = true) : (p.writeGain v).fieldsOk = true := by
  obtain ⟨hc, hg, hb, hr, he, hx⟩ := Pwr.fieldsOk_iff.mp h
  refine Pwr.fieldsOk_iff.mpr ⟨hc, ?_, ?_, hr, he, hx⟩
  · exact pick_ind (p := (· ≠ 0)) (by simp) hg
  · exact pick_ind (p := fun n => 32 ≤ n ∧ n ≤ 240) (by simp) hb

theorem Pwr.fieldsOk_writeCap {p : Pwr} {w : Nat} {m : Bool} (h : p.fieldsOk = true) :
    ({ p with cap := pick (decide (1800 ≤ w) && decide (w ≤ 5200)) w p.cap, mode := m } : Pwr).fieldsOk = true := by
  obtain ⟨hc, hr⟩ := Pwr.fieldsOk_iff.mp h
  exact Pwr.fieldsOk_iff.mpr ⟨pick_ind (p := fun n => 1800 ≤ n ∧ n ≤ 5200) (by simp) hc, hr⟩

theorem Pwr.fieldsOk_cap {p : Pwr} {w : Nat} (h : p.fieldsOk = true) (hw : 1800 ≤ w ∧ w ≤ 5200) :
    ({ p with cap := w } : Pwr).fieldsOk = true := by
  obtain ⟨-, hr⟩ := Pwr.fieldsOk_iff.mp h
  exact Pwr.fieldsOk_iff.mpr ⟨hw, hr⟩

theorem Brg.fieldsOk_writePinit {b : Brg} {w : Nat} (h : b.fieldsOk = true) :
    ({ b with pinit := pick (decide (1048576 ≤ w)) w b.pinit } : Brg).fieldsOk = true := by
  simp only [Brg.fieldsOk, Bool.and_eq_true, decide_eq_true_eq] at h ⊢
  exact ⟨⟨h.1.1, pick_ind (p := (1048576 ≤ ·)) of_decide_eq_true h.1.2⟩, h.2⟩

theorem Brg.fieldsOk_writeLoss {b : Brg} {w : Nat} (h : b.fieldsOk = true) :
    ({ b with loss := pick (decide (10 ≤ w)) w b.loss } : Brg).fieldsOk = true := by
  simp only [Brg.fieldsOk, Bool.and_eq_true, decide_eq_true_eq] at h ⊢
  exact ⟨⟨pick_ind (p := (10 ≤ ·)) of_decide_eq_true h.1.1, h.1.2⟩, h.2⟩

theorem Ctr.fieldsOk_writeShelf {c : Ctr} {w : Nat} {en : Bool} (h : c.fieldsOk = true) :
    ({ c with shelf := pick (decide (w ≤ 639)) w c.shelf, en := en } : Ctr).fieldsOk = true := by
  obtain ⟨hs, hi, hl⟩ := Ctr.fieldsOk_iff.mp h
  exact Ctr.fieldsOk_iff.mpr ⟨hs, hi, pick_ind (p := (· ≤ 639)) of_decide_eq_true hl⟩

theorem Brg.fieldsOk_commit {b : Brg} {n : Nat} {ws : List Nat} {t : Nat} (h : b.fieldsOk = true)
    (hs : stakeoutOk (ws.getD 2 0) (ws.getD 3 0) = true) : (b.commit n ws t).fieldsOk = true := by
  have hb : ({ b with stk := Map.put b.stk n ws } : Brg).fieldsOk = true := by
    simp only [Brg.fieldsOk, Bool.and_eq_true] at h ⊢
    exact ⟨h.1, Map.all_put h.2 hs⟩
  unfold Brg.commit
  dsimp only
  split <;> exact Brg.fieldsOk_of hb

theorem Brg.settleNones_staged {b : Brg} {t : Nat} : (b.settleNones t).staged = b.staged := by
  unfold Brg.settleNones
  generalize (b.dueStill ++ b.dueAt t).filter _ = ds
  induction ds generalizing b with
  | nil => rfl
  | cons d ds ih => exact (ih (b := b.fire d)).trans rfl

theorem stakeoutOk_zero {w v : Nat} (h : stakeoutOk w v = true) : stakeoutOk w 0 = true := by
  simp [stakeoutOk] at h ⊢
  exact ⟨h.1, .inr (by decide)⟩

/-- What the words staged with W3 hold is what the commit checks. -/
theorem Brg.stakeoutOk_staged {b : Brg} {n w t : Nat}
    (h : stakeoutOk ((((b.setStage n 3 w).settleNones t).stage n).getD 2 0) w = true) :
    stakeoutOk ((((b.setStage n 3 w).settleNones t).stage n).getD 2 0)
      ((((b.setStage n 3 w).settleNones t).stage n).getD 3 0) = true := by
  have hs : ((b.setStage n 3 w).settleNones t).stage n = (b.stage n).set 3 w := by
    simp [Brg.stage, Brg.settleNones_staged, Brg.setStage, Map.getD_put]
  rw [hs] at h ⊢
  by_cases hl : 3 < (b.stage n).length
  · rwa [show ((b.stage n).set 3 w).getD 3 0 = w by simp [List.getD_eq_getElem?_getD, hl]]
  · rw [show ((b.stage n).set 3 w).getD 3 0 = 0 by
      rw [List.getD_eq_default _ _ (by simpa using Nat.le_of_not_lt hl)]]
    exact stakeoutOk_zero h

theorem State.at_brg {s : State} {t : Nat} : (s.at t).brg = s.brg := by
  unfold State.at
  split <;> rfl

/-- An entry that requests an operating point names one of P0 to P5. -/
theorem Brg.point_le {b : Brg} {n : Nat} (h : b.fieldsOk = true) (ha : b.sAction n = 5) :
    bitsOf (b.sParam n) 0 3 ≤ 5 := by
  simp only [Brg.fieldsOk, Bool.and_eq_true] at h
  cases hf : Map.find b.stk n with
  | none => simp [Brg.sAction, Brg.word, Map.getD, hf, bitsOf] at ha
  | some ws =>
    have hs : stakeoutOk (ws.getD 2 0) (ws.getD 3 0) = true := Map.all_find h.2 hf
    simp only [Brg.sAction, Brg.sParam, Brg.word, Map.getD, hf, Option.getD_some] at ha ⊢
    have ha5 : bitsOf (ws[2]?.getD 0) 0 4 = 5 := by simpa using ha
    simpa [stakeoutOk, ha5] using hs

theorem State.fieldsOk_iff {s : State} : s.fieldsOk = true ↔ s.pwr.fieldsOk = true ∧ s.brg.fieldsOk = true ∧
    s.ctr.fieldsOk = true ∧ limitsOk s.flt.wlim s.flt.wlong = true ∧ (9 ≤ s.fab.b ∧ s.fab.b ≤ 13) ∧ s.slotRes ≤ 4096 ∧
    s.domSize ≤ 4194304 := by
  simp only [State.fieldsOk, Bool.and_eq_true, decide_eq_true_eq, and_assoc]

theorem limitsOk_wlong {ts : List Nat} {v w : Nat} (h : limitsOk ts v = true) (hw : ts.getD 4 0 ≤ 1000 * w) :
    limitsOk ts w = true := by
  simp only [limitsOk, Bool.and_eq_true, decide_eq_true_eq] at h ⊢
  exact ⟨h.1, hw⟩

/-- A state with its locks cleared. -/
def State.unlocked (s : State) : State :=
  { s with fab := { s.fab with snLock := false }, domLock := false }

namespace Keeps

variable {s₀ s t : State}

theorem refl : Keeps s s := ⟨id, id, id, fun _ => le_rfl, fun h => ⟨h, rfl⟩, fun h => ⟨h, rfl⟩⟩

theorem trans (h : Keeps s t) (g : Keeps t u) : Keeps s u where
  fields := g.fields ∘ h.fields
  fuse := g.fuse ∘ h.fuse
  flag := g.flag ∘ h.flag
  arb k := (h.arb k).trans (g.arb k)
  station l := ⟨(g.station (h.station l).1).1, (g.station (h.station l).1).2.trans (h.station l).2⟩
  domain l := ⟨(g.domain (h.domain l).1).1, (g.domain (h.domain l).1).2.trans (h.domain l).2⟩

/-- A state whose fields are good when those before it are, and which keeps the rest. -/
theorem ofFields (h : Keeps s₀ s) (hs : s₀.fieldsOk = true → s.fieldsOk = true → t.fieldsOk = true)
    (hd : t.dbgOpen = s.dbgOpen := by rfl) (hf : s.flt.flagged = true → t.flt.flagged = true := by exact id)
    (ha : t.sec.arb = s.sec.arb := by rfl)
    (hn : t.fab.snLock = s.fab.snLock ∧ t.station = s.station := by exact ⟨rfl, rfl⟩)
    (hl : t.domLock = s.domLock ∧ t.domSize = s.domSize := by exact ⟨rfl, rfl⟩) : Keeps s₀ t where
  fields h0 := hs h0 (h.fields h0)
  fuse h0 := hd ▸ h.fuse h0
  flag h0 := hf (h.flag h0)
  arb k := (h.arb k).trans (by rw [State.arb, State.arb, ha])
  station l := by rw [hn.1, hn.2]; exact h.station l
  domain l := by rw [hl.1, hl.2]; exact h.domain l

/-- A state that differs from `s` in nothing that `Keeps` speaks of. -/
theorem upd (h : Keeps s₀ s) {pending now fresh mem host bad owner scratch eng closures stracts arc ctxs ctxActs cmd
    cat bndWaits d3hot d3depth linkUp tmax pin ports egress hbm bnd cols mod out} {ctr : Ctr} {flt : Flt} {brg : Brg}
    {fab : Fabric} {sec : Sec} {pwr : Pwr}
    (hc : ctr.store = s.ctr.store ∧ ctr.image = s.ctr.image ∧ ctr.shelf = s.ctr.shelf := by exact ⟨rfl, rfl, rfl⟩)
    (hf : flt.wlim = s.flt.wlim ∧ flt.wlong = s.flt.wlong ∧ (s.flt.flagged = true → flt.flagged = true) := by
      exact ⟨rfl, rfl, id⟩)
    (hb : brg.loss = s.brg.loss ∧ brg.pinit = s.brg.pinit ∧ brg.stk = s.brg.stk := by exact ⟨rfl, rfl, rfl⟩)
    (hn : fab.b = s.fab.b ∧ fab.snLock = s.fab.snLock := by exact ⟨rfl, rfl⟩)
    (ha : sec.arb = s.sec.arb := by rfl)
    (hp : s.pwr.fieldsOk = true → pwr.fieldsOk = true := by exact id) :
    Keeps s₀ ⟨pending, now, fresh, mem, host, bad, owner, scratch, eng, closures, stracts, arc, ctxs, ctxActs, cmd, ctr,
      flt, brg, cat, bndWaits, s.station, d3hot, d3depth, linkUp, tmax, pin, s.dbgOpen, ports, egress, hbm, bnd, fab,
      cols, s.slotRes, s.domSize, s.domLock, pwr, sec, mod, out⟩ := by
  obtain ⟨hstore, himage, hshelf⟩ := hc
  obtain ⟨hwlim, hwlong, hflag⟩ := hf
  obtain ⟨hb', hlock⟩ := hn
  refine h.ofFields (fun _ hs => ?_) rfl hflag ha ⟨hlock, rfl⟩
  obtain ⟨pwr, brg, ctr, lim, rest⟩ := State.fieldsOk_iff.mp hs
  obtain ⟨hloss, hpinit, hstk⟩ := hb
  refine State.fieldsOk_iff.mpr ⟨hp pwr, Brg.fieldsOk_of brg hloss hpinit hstk, ?_, ?_, ?_⟩
  · rwa [Ctr.fieldsOk, hstore, himage, hshelf]
  · rwa [hwlim, hwlong]
  · rwa [hb']

/-- The bearing engine replaced by one whose fields are as good. -/
theorem setBrg {b : Brg} (h : Keeps s₀ s) (hb : s.brg.fieldsOk = true → b.fieldsOk = true) :
    Keeps s₀ { s with brg := b } :=
  h.ofFields fun _ hs =>
    have ⟨pwr, brg, rest⟩ := State.fieldsOk_iff.mp hs
    State.fieldsOk_iff.mpr ⟨pwr, hb brg, rest⟩

/-- The counters replaced by some whose fields are as good. -/
theorem setCtr {c : Ctr} (h : Keeps s₀ s) (hc : s.ctr.fieldsOk = true → c.fieldsOk = true) :
    Keeps s₀ { s with ctr := c } :=
  h.ofFields fun _ hs =>
    have ⟨pwr, brg, ctr, rest⟩ := State.fieldsOk_iff.mp hs
    State.fieldsOk_iff.mpr ⟨pwr, brg, hc ctr, rest⟩

/-- The power controller replaced by one whose fields are good when those before, and those of the first state, are. -/
theorem setPwrOf {p : Pwr} (h : Keeps s₀ s) (hp : s₀.fieldsOk = true → s.pwr.fieldsOk = true → p.fieldsOk = true) :
    Keeps s₀ { s with pwr := p } :=
  h.ofFields fun h0 hs =>
    have ⟨pwr, rest⟩ := State.fieldsOk_iff.mp hs
    State.fieldsOk_iff.mpr ⟨hp h0 pwr, rest⟩

/-- The power controller replaced by one whose fields are as good. -/
theorem setPwr {p : Pwr} (h : Keeps s₀ s) (hp : s.pwr.fieldsOk = true → p.fieldsOk = true) :
    Keeps s₀ { s with pwr := p } :=
  setPwrOf h fun _ => hp

theorem ite {c : Prop} [Decidable c] (h : Keeps s₀ s) (g : Keeps s₀ t) : Keeps s₀ (if c then s else t) := by
  split <;> assumption

/-- The same where the state comes with a result. -/
theorem iteFst {α : Type} {c : Prop} [Decidable c] {p q : State × α} (h : Keeps s₀ p.1) (g : Keeps s₀ q.1) :
    Keeps s₀ (if c then p else q).1 := by
  split <;> assumption

theorem foldl {α : Type} {f : State → α → State} {l : List α} (hf : ∀ {s x}, Keeps s₀ s → Keeps s₀ (f s x))
    (h : Keeps s₀ s) : Keeps s₀ (l.foldl f s) := by
  induction l generalizing s with
  | nil => exact h
  | cons x l ih => exact ih (hf h)

theorem of_eq {α : Type} {p : State × α} {x : α} (e : p = (s, x)) (h : Keeps s₀ p.1) : Keeps s₀ s := by
  subst e; exact h

/-! ### Route -/

theorem count {k n} (h : Keeps s₀ s) : Keeps s₀ (s.count k n) := .upd h
theorem setSvc {code v} (h : Keeps s₀ s) : Keeps s₀ (s.setSvc code v) := .upd h
theorem bumpEpoch {code} (h : Keeps s₀ s) : Keeps s₀ (s.bumpEpoch code) := .upd h
theorem setPort {p v} (h : Keeps s₀ s) : Keeps s₀ (s.setPort p v) := .upd h
theorem setPctl {n v} (h : Keeps s₀ s) : Keeps s₀ (s.setPctl n v) := .upd h
theorem deliver {k} (h : Keeps s₀ s) : Keeps s₀ (s.deliver k) := .upd h
theorem deliverOwn {k} (h : Keeps s₀ s) : Keeps s₀ (s.deliverOwn k) := .upd h
theorem enqueue {k path inp} (h : Keeps s₀ s) : Keeps s₀ (s.enqueue k path inp) := .ite (.count (.upd h)) (.upd h)

theorem placePacket {k inp} (h : Keeps s₀ s) : Keeps s₀ (s.placePacket k inp).1 := by
  unfold State.placePacket
  split
  · exact .deliverOwn h
  · split
    · exact .enqueue h
    · exact h

theorem noticeFrom {reporter sn status path flow ptype dst ctx} (h : Keeps s₀ s) :
    Keeps s₀ (s.noticeFrom reporter sn status path flow ptype dst ctx) :=
  .placePacket h

theorem notice {sn status path flow ptype dst ctx} (h : Keeps s₀ s) :
    Keeps s₀ (s.notice sn status path flow ptype dst ctx) :=
  .noticeFrom h

theorem noticeOf {k status path} (h : Keeps s₀ s) : Keeps s₀ (s.noticeOf k status path) := .ite (.notice h) h

theorem routePacket {k inp} (h : Keeps s₀ s) : Keeps s₀ (s.routePacket k inp) := by
  unfold State.routePacket
  split
  · exact .of_eq ‹_› (.placePacket h)
  · exact .noticeOf (.of_eq ‹_› (.placePacket h))

theorem sendOn {k} (h : Keeps s₀ s) : Keeps s₀ (s.sendOn k) := .routePacket h
theorem sendBy {k path} (h : Keeps s₀ s) : Keeps s₀ (s.sendBy k path) := .ite (.enqueue h) h
theorem slip {dst ptype flow ctx body} (h : Keeps s₀ s) : Keeps s₀ (s.slip dst ptype flow ctx body) := .sendOn h
theorem fwmsg {dst chan payload cmd} (h : Keeps s₀ s) : Keeps s₀ (s.fwmsg dst chan payload cmd) := .sendOn (.upd h)

/-! ### Ops -/

theorem countAll {ks} (h : Keeps s₀ s) : Keeps s₀ (s.countAll ks) := .foldl .count h
theorem useFree (h : Keeps s₀ s) : Keeps s₀ s.useFree := .upd h
theorem setEng {key e} (h : Keeps s₀ s) : Keeps s₀ (s.setEng key e) := .upd h
theorem setSync {key y} (h : Keeps s₀ s) : Keeps s₀ (s.setSync key y) := .setEng h
theorem setQueue {key q v} (h : Keeps s₀ s) : Keeps s₀ (s.setQueue key q v) := .setSync h
theorem setMat {key m} (h : Keeps s₀ s) : Keeps s₀ (s.setMat key m) := .setEng h
theorem setVec {key v} (h : Keeps s₀ s) : Keeps s₀ (s.setVec key v) := .setEng h
theorem setCtx {c v} (h : Keeps s₀ s) : Keeps s₀ (s.setCtx c v) := .upd h
theorem wakeMem {slice a} (h : Keeps s₀ s) : Keeps s₀ (s.wakeMem slice a) := .ite h (.upd h)
theorem store {a bs} (h : Keeps s₀ s) : Keeps s₀ (s.store a bs) := .upd h
theorem heal {a len} (h : Keeps s₀ s) : Keeps s₀ (s.heal a len) := .upd h
theorem lose {a} (h : Keeps s₀ s) : Keeps s₀ (s.lose a) := .upd h
theorem hostStore {a bs} (h : Keeps s₀ s) : Keeps s₀ (s.hostStore a bs) := .upd h
theorem setShelf {n v} (h : Keeps s₀ s) : Keeps s₀ (s.setShelf n v) := .upd h
theorem setSlice {n v} (h : Keeps s₀ s) : Keeps s₀ (s.setSlice n v) := .upd h
theorem timeAt {t} (h : Keeps s₀ s) : Keeps s₀ (s.at t) := .ite h (.upd h)

theorem reportOut {bs} (h : Keeps s₀ s) : Keeps s₀ (s.reportOut bs) := by
  unfold State.reportOut
  split
  · exact .upd h
  · split
    · exact .fwmsg h
    · exact h

theorem report {rkind sev payload} (h : Keeps s₀ s) : Keeps s₀ (s.report rkind sev payload) :=
  .ite (.count (.upd h)) (.count (.reportOut (.upd h)))

theorem setSub {q v} (h : Keeps s₀ s) : Keeps s₀ (s.setSub q v) := .upd h
theorem setRcp {r v} (h : Keeps s₀ s) : Keeps s₀ (s.setRcp r v) := .upd h
theorem signal {vec} (h : Keeps s₀ s) : Keeps s₀ (s.signal vec) := .ite (.upd h) (.upd h)
theorem signalRing {q} (h : Keeps s₀ s) : Keeps s₀ (s.signalRing q) := .ite (.signal (.setRcp h)) h
theorem putReceipt {r} (h : Keeps s₀ s) : Keeps s₀ (s.putReceipt r) := .ite h (.signalRing (.setRcp (.hostStore h)))
theorem eventPut {k status result} (h : Keeps s₀ s) : Keeps s₀ (s.eventPut k status result) := .putReceipt (.upd h)
theorem lostEvents (h : Keeps s₀ s) : Keeps s₀ s.lostEvents := .ite (.eventPut (.upd h)) h

theorem event {k status result} (h : Keeps s₀ s) : Keeps s₀ (s.event k status result) :=
  .ite (.eventPut h) (.lostEvents (.count (.upd h)))

theorem logNew {kind status sev unit addr req detail} (h : Keeps s₀ s) :
    Keeps s₀ (s.logNew kind status sev unit addr req detail) :=
  .report (.event (.count (.upd h)))

theorem log {kind status sev unit addr req detail} (h : Keeps s₀ s) :
    Keeps s₀ (s.log kind status sev unit addr req detail) := by
  unfold State.log
  dsimp only
  split
  · exact .upd h
  · exact .logNew h

theorem hostFault {addr} (h : Keeps s₀ s) : Keeps s₀ (s.hostFault addr) := .log h
theorem setClosure {cid v} (h : Keeps s₀ s) : Keeps s₀ (s.setClosure cid v) := .upd h
theorem setCbits {key cid v} (h : Keeps s₀ s) : Keeps s₀ (s.setCbits key cid v) := .setSync h
theorem setCbit {key cid i b} (h : Keeps s₀ s) : Keeps s₀ (s.setCbit key cid i b) := .setCbits h

theorem dropHeld {key q} (h : Keeps s₀ s) : Keeps s₀ (s.dropHeld key q) := by
  unfold State.dropHeld
  split
  · exact .ite (.setClosure h) (.setCbit (.setClosure h))
  · exact h

theorem failQueue {s : State} {n c u q addr status pc member} (h : Keeps s₀ s) :
    Keeps s₀ (State.failQueue n s c u q addr status pc member) := by
  unfold State.failQueue
  extract_lets key w before _ w' s1 s2
  split
  · exact .ite (.setQueue h) h
  · have h1 : Keeps s₀ s1 := .setQueue (.dropHeld h)
    have h2 : Keeps s₀ s2 := .ite (.ite (.count h1) (.ite (.count h1) h1)) h1
    refine .ite ?_ (.ite (.event h2) h2)
    cases n with
    | zero => exact h2
    | succ n => exact failQueue (.count h2)

theorem endEntry {c u q addr status} (h : Keeps s₀ s) : Keeps s₀ (s.endEntry c u q addr status) :=
  .ite (.setQueue h) (.failQueue h)

theorem advance {c u q} (h : Keeps s₀ s) : Keeps s₀ (s.advance c u q) := .setQueue h
theorem waitHead {c u q h'} (h : Keeps s₀ s) : Keeps s₀ (s.waitHead c u q h') := .setQueue h
theorem countShed {first evs} (h : Keeps s₀ s) : Keeps s₀ (s.countShed first evs) := .countAll h

/-! ### Cache -/

theorem dropLine {k l} (h : Keeps s₀ s) : Keeps s₀ (s.dropLine k l) := .ite (.lose h) h
theorem setWays {k w} (h : Keeps s₀ s) : Keeps s₀ (s.setWays k w) := .upd h

theorem cacheLine {write a} (h : Keeps s₀ s) : Keeps s₀ (s.cacheLine write a) := by
  unfold State.cacheLine
  extract_lets k n ways s1 s2 s3
  refine .ite (.ite (.count h) h) ?_
  split
  · exact .count (.setWays h)
  · have h1 : Keeps s₀ s1 := .count h
    have h2 : Keeps s₀ s2 := .foldl .dropLine (.setWays h1)
    exact .ite (.count h1) (.countAll (.ite h2 (.count h2)))

theorem accessLine {cls write a} (h : Keeps s₀ s) : Keeps s₀ (s.accessLine cls write a) :=
  .cacheLine (.count (.count (.wakeMem h)))

theorem access {cls write a len} (h : Keeps s₀ s) : Keeps s₀ (s.access cls write a len) := by
  unfold State.access
  split
  · exact .upd h
  · exact .count (.count (.wakeMem h))
  · exact .foldl .accessLine h

theorem lineUnc {addr req} (h : Keeps s₀ s) : Keeps s₀ (s.lineUnc addr req) :=
  .ite (.log (.count h)) (.log (.count (.count h)))

theorem writeBack {p} (h : Keeps s₀ s) : Keeps s₀ (s.writeBack p) := .upd (.countAll h)
theorem writeBackAs {cls p} (h : Keeps s₀ s) : Keeps s₀ (s.writeBackAs cls p) := .writeBack (.countAll h)
theorem invalidate {p} (h : Keeps s₀ s) : Keeps s₀ (s.invalidate p) := .foldl .dropLine (.upd h)
theorem invalidateAs {cls p} (h : Keeps s₀ s) : Keeps s₀ (s.invalidateAs cls p) := .invalidate (.countAll h)

/-! ### Image -/

theorem zeroFill {a len} (h : Keeps s₀ s) : Keeps s₀ (s.zeroFill a len) := .upd h
theorem storeOr {zero a len bs} (h : Keeps s₀ s) : Keeps s₀ (s.storeOr zero a len bs) := .ite (.zeroFill h) (.store h)

theorem copyLost {dst src len} (h : Keeps s₀ s) : Keeps s₀ (s.copyLost dst src len) :=
  .foldl (fun h1 => .foldl .lose h1) (.upd h)

theorem putBlock {u a e} (h : Keeps s₀ s) : Keeps s₀ (s.putBlock u a e) :=
  .ite (.storeOr (.storeOr (.storeOr (.storeOr h)))) (.storeOr h)

theorem placeEng {key e} (h : Keeps s₀ s) : Keeps s₀ (s.placeEng key e) := .upd h

theorem blocksOut {c} (h : Keeps s₀ s) : Keeps s₀ (s.blocksOut c) :=
  .foldl (fun h1 => .placeEng (.ite (.copyLost h1) (.putBlock h1))) h

/-- A unit taken from an image or a save area, where it can be read. -/
theorem taken {o : Option Eng} {k} (h : Keeps s₀ s) : ∀ t ∈ o.map fun e => s.placeEng k e, Keeps s₀ t := by
  rintro _ ht
  obtain ⟨e, -, rfl⟩ := Option.map_eq_some_iff.mp ht
  exact h.placeEng

/-- A state passed on through operations that may find nothing. -/
theorem foldlBind {α : Type} {f : State → α → Option State} {l : List α} {o : Option State}
    (hf : ∀ {s x}, Keeps s₀ s → ∀ t ∈ f s x, Keeps s₀ t) (h : ∀ t ∈ o, Keeps s₀ t) :
    ∀ t ∈ l.foldl (fun o x => o.bind fun s => f s x) o, Keeps s₀ t := by
  induction l generalizing o with
  | nil => exact h
  | cons x l ih =>
    refine ih fun t ht => ?_
    obtain ⟨r, hr, hx⟩ := Option.bind_eq_some_iff.mp ht
    exact hf (h r hr) t hx

theorem ofSome (h : Keeps s₀ s) : ∀ t ∈ some s, Keeps s₀ t := fun _ e => Option.some.inj e ▸ h
theorem blocksIn {c} (h : Keeps s₀ s) : ∀ t ∈ s.blocksIn c, Keeps s₀ t := foldlBind taken (ofSome h)
theorem suspend {c} (h : Keeps s₀ s) : Keeps s₀ (s.suspend c) := .upd h
theorem unsuspend {c} (h : Keeps s₀ s) : Keeps s₀ (s.unsuspend c) := .upd h
theorem saveAll {c} (h : Keeps s₀ s) : Keeps s₀ (s.saveAll c) := .foldl .putBlock h
theorem restoreAll {c} (h : Keeps s₀ s) : ∀ t ∈ s.restoreAll c, Keeps s₀ t := foldlBind taken (ofSome h)
theorem putSync {c u a} (h : Keeps s₀ s) : Keeps s₀ (s.putSync c u a) := .ite h (.ite (.upd (.store h)) (.store h))
theorem syncReport {u a} (h : Keeps s₀ s) : Keeps s₀ (s.syncReport u a) := .ite h (.foldl .lineUnc h)

theorem onSaved {c us f} (h : Keeps s₀ s) (hf : ∀ {s}, Keeps s₀ s → Keeps s₀ (f s)) : Keeps s₀ (s.onSaved c us f) := by
  unfold State.onSaved
  extract_lets v real s1 own s2
  have h1 : Keeps s₀ s1 := .foldl (fun h => .placeEng (.syncReport h)) h
  have h2 : Keeps s₀ s2 := .foldl .placeEng h
  exact .ite (.foldl (fun h => .placeEng (.putSync h)) (hf h1)) (.ite (.foldl .putSync (hf h2)) (hf h))

theorem onUnits {c us f} (h : Keeps s₀ s) (hf : ∀ {s}, Keeps s₀ s → Keeps s₀ (f s)) :
    Keeps s₀ (s.onUnits c us f) := by
  unfold State.onUnits
  dsimp only
  refine .ite h ?_
  split
  next s1 e => exact .foldl (fun h1 => .placeEng (.putBlock h1)) (hf (foldlBind taken (ofSome h) s1 e))
  · exact h

/-! ### Stakes -/

theorem setStake {holder i st} (h : Keeps s₀ s) : Keeps s₀ (s.setStake holder i st) := .setSync h
theorem misuse {key which} (h : Keeps s₀ s) : Keeps s₀ (s.misuse key which) := .setSync h

theorem endWait {key q status} (h : Keeps s₀ s) : Keeps s₀ (s.endWait key q status) := by
  unfold State.endWait
  split
  · exact .endEntry h
  · exact h

theorem endWaits {ws status} (h : Keeps s₀ s) : Keeps s₀ (s.endWaits ws status) := .foldl .endWait h

theorem wakeStake {holder i} (h : Keeps s₀ s) : Keeps s₀ (s.wakeStake holder i) := by
  unfold State.wakeStake
  dsimp only
  split
  · exact .endWaits h
  · exact .endWaits h
  · split
    · exact .endWaits (.endWait (.setStake (.endWaits (.upd h))))
    · exact .endWaits (.upd h)

theorem stakeOp {holder i set} (h : Keeps s₀ s) : Keeps s₀ (s.stakeOp holder i set) := by
  unfold State.stakeOp
  dsimp only
  split
  · exact .countAll (.countAll h)
  · exact .wakeStake (.setStake (.countAll h))
  · exact .misuse (.countAll h)
  · exact .misuse (.countAll h)
  · exact .wakeStake (.setStake (.countAll h))

theorem abandonStake {holder i} (h : Keeps s₀ s) : Keeps s₀ (s.abandonStake holder i) :=
  .wakeStake (.setSync (.setStake h))

theorem abandonIn {c p} (h : Keeps s₀ s) : Keeps s₀ (s.abandonIn c p) := .foldl .abandonStake h
theorem abandonAll {p} (h : Keeps s₀ s) : Keeps s₀ (s.abandonAll p) := .foldl (fun h1 => .onSaved h1 .abandonIn) h
theorem stakeOpAny {holder i set} (h : Keeps s₀ s) : Keeps s₀ (s.stakeOpAny holder i set) := .onSaved h .stakeOp

theorem takeStake {holder i} (h : Keeps s₀ s) : Keeps s₀ (s.takeStake holder i) :=
  .onSaved h fun h1 => .wakeStake (.setStake h1)

theorem setRef {c w} (h : Keeps s₀ s) : Keeps s₀ (s.setRef c w) := by
  unfold State.setRef
  split
  · exact .ite (.stakeOpAny h) h
  · exact h

/-! ### Catalogue -/

theorem setCat {k v} (h : Keeps s₀ s) : Keeps s₀ (s.setCat k v) := .upd h
theorem storeCat {first count a} (h : Keeps s₀ s) : Keeps s₀ (s.storeCat first count a) := .upd h

theorem applyCat {c} (h : Keeps s₀ s) : Keeps s₀ (s.applyCat c) := by
  unfold State.applyCat
  split
  · exact .foldl .setCat h
  · exact .foldl .setCat h
  · exact .foldl .setCat h

theorem catCommand {c} (h : Keeps s₀ s) : Keeps s₀ (s.catCommand c) := .ite (.upd h) (.applyCat h)
theorem catLose {first count} (h : Keeps s₀ s) : Keeps s₀ (s.catLose first count) := .log (.upd h)
theorem setArea {c a} (h : Keeps s₀ s) : Keeps s₀ (s.setArea c a) := .upd h
theorem checkArea {c} (h : Keeps s₀ s) : Keeps s₀ (s.checkArea c) := .ite (.log (.upd (.setArea h))) h
theorem clearPost {r} (h : Keeps s₀ s) : Keeps s₀ (s.clearPost r) := .store h

theorem applySeeds {rs} (h : Keeps s₀ s) : Keeps s₀ (s.applySeeds rs) :=
  .foldl (fun h1 => .count (.setCat h1)) (.countAll h)

theorem publish {c rev} (h : Keeps s₀ s) : Keeps s₀ (s.publish c rev) := .access (.store (.store h))
theorem pubStake {c} (h : Keeps s₀ s) : Keeps s₀ (s.pubStake c) := .ite (.setRef h) h
theorem readArea {c} (h : Keeps s₀ s) : Keeps s₀ (s.readArea c) := .foldl .lineUnc (.foldl .access h)

theorem watch {entry kind n value} (h : Keeps s₀ s) : Keeps s₀ (s.watch entry kind n value) :=
  .ite (.count h) (.report (.event (.count (.upd h))))

theorem watchEntry {n k posted} (h : Keeps s₀ s) : Keeps s₀ (s.watchEntry n k posted) := by
  unfold State.watchEntry
  extract_lets e up rep z sr cl zhit shit chit s1 s2 s3
  have h1 : Keeps s₀ s1 := .setCat h
  have h2 : Keeps s₀ s2 := .ite (.watch h1) h1
  have h3 : Keeps s₀ s3 := .ite (.watch h2) h2
  exact .ite (.watch h3) h3

theorem catReport {k shedAll clamp} (h : Keeps s₀ s) : Keeps s₀ (s.catReport k shedAll clamp) := .upd h
theorem wrapBegin (h : Keeps s₀ s) : Keeps s₀ s.wrapBegin := .foldl .checkArea (.foldl .applyCat (.upd h))

theorem postEntry {n k a} (h : Keeps s₀ s) : Keeps s₀ (s.postEntry n k a) :=
  .ite (.count (.setCat h)) (.count (.setCat h))

theorem applyPosts {n posts} (h : Keeps s₀ s) : Keeps s₀ (s.applyPosts n posts) :=
  .foldl .watchEntry (.foldl .postEntry (.countAll h))

theorem skipRun {n votes failed} (h : Keeps s₀ s) : Keeps s₀ (s.skipRun n votes failed) :=
  .ite (.ite (.watch (.count (.upd h))) (.count (.upd h))) (.ite h (.upd h))

theorem wrapPublish {cs recs next} (h : Keeps s₀ s) : Keeps s₀ (s.wrapPublish cs recs next) :=
  .foldl .pubStake (.foldl .clearPost (.foldl .publish h))

theorem wrapProcess {n next failed} (h : Keeps s₀ s) : Keeps s₀ (s.wrapProcess n next failed) := by
  unfold State.wrapProcess
  extract_lets sb cs s0 recs votes s1 s2
  have h1 : Keeps s₀ s1 := .applySeeds (.foldl .readArea (.wrapBegin h))
  have h2 : Keeps s₀ s2 := .ite h1 (.applyPosts h1)
  exact .wrapPublish (.skipRun (.upd h2))

theorem seedRequest {c} (h : Keeps s₀ s) : Keeps s₀ (s.seedRequest c) :=
  .ite (.checkArea h) (.pubStake (.foldl .clearPost (.foldl .store (.applySeeds (.readArea (.checkArea h))))))

/-! ### Bearing -/

theorem journalBegin (h : Keeps s₀ s) : Keeps s₀ s.journalBegin := .ite (.access (.storeCat (.store h))) h
theorem journalLatch {rows} (h : Keeps s₀ s) : Keeps s₀ (s.journalLatch rows) := .ite (.foldl .store (.store h)) h
theorem emitToken {wrap} (h : Keeps s₀ s) : Keeps s₀ (s.emitToken wrap) := .foldl .sendBy (.upd h)

theorem datumWrap {failed} (h : Keeps s₀ s) : Keeps s₀ (s.datumWrap failed) := by
  unfold State.datumWrap
  extract_lets b period next s1
  have h1 : Keeps s₀ s1 := .setBrg h fun g => Brg.fieldsOk_of (b := b) (Brg.fieldsOk_closeRev g)
  exact .journalBegin (.wrapProcess (.emitToken h1))

theorem closureEnds {cid failed} (h : Keeps s₀ s) : Keeps s₀ (s.closureEnds cid failed) := .ite (.datumWrap h) h
theorem runStart {t} (h : Keeps s₀ s) : Keeps s₀ (s.runStart t) := .journalBegin (.emitToken (.upd (.timeAt h)))

theorem runStop (h : Keeps s₀ s) : Keeps s₀ s.runStop :=
  .ite (.setBrg h fun g => Brg.fieldsOk_of (Brg.fieldsOk_settleNones g)) (.upd h)

theorem followWrap {k w t} (h : Keeps s₀ s) : Keeps s₀ (s.followWrap k w t) := by
  unfold State.followWrap
  extract_lets b lost sweep fell due b0 _ b1 late missed s1 s2
  have hb : s.brg.fieldsOk = true → b0.fieldsOk = true := fun g => Brg.fieldsOk_fired (Brg.fieldsOk_closeRev g)
  have h1 : Keeps s₀ s1 := .setBrg h fun g => Brg.fieldsOk_of (hb g)
  exact .journalBegin (.wrapProcess (.count (.count (.count h1))))

theorem takeLocked {k w t} (h : Keeps s₀ s) : Keeps s₀ (s.takeLocked k w t) :=
  .ite (.setBrg h Brg.fieldsOk_applyTok) (.ite (.followWrap h) (.count (.upd h)))

theorem adoptToken {k w t} (h : Keeps s₀ s) : Keeps s₀ (s.adoptToken k w t) := by
  unfold State.adoptToken
  extract_lets again b0 b' b under
  have hb : s.brg.fieldsOk = true → b.fieldsOk = true := fun g => by
    unfold b; split <;> exact Brg.fieldsOk_of g
  refine .ite ?_ (.setBrg h fun g => Brg.fieldsOk_fired (hb g))
  exact .journalBegin (.count (.setBrg h fun g => Brg.fieldsOk_of (hb g)))

theorem takeToken {k oneway t} (h : Keeps s₀ s) : Keeps s₀ (s.takeToken k oneway t) := by
  have h1 : Keeps s₀ (s.at t) := .timeAt h
  exact .ite (.adoptToken h1) (.ite (.ite (.takeLocked (.upd h1)) (.count (.upd h1))) (.takeLocked h1))

theorem forwardToken {k oneway t} (h : Keeps s₀ s) : Keeps s₀ (s.forwardToken k oneway t) :=
  .foldl (fun h1 => .ite (.upd h1) h1) h

/-! ### Closures -/

theorem countArrival {cid} (h : Keeps s₀ s) : Keeps s₀ (s.countArrival cid) := .setClosure h

theorem arriveOne {cid key q addr e again} (h : Keeps s₀ s) : Keeps s₀ (s.arriveOne cid key q addr e again) := by
  unfold State.arriveOne
  extract_lets c u bits s1 s2 c1
  have h1 : Keeps s₀ s1 := .countArrival (.setCbit (.setCbit h))
  have h2 : Keeps s₀ s2 := .ite (.ite h (.misuse h)) (.countAll (.setCbit h))
  exact .ite (.ite (.waitHead h1) (.endEntry h1)) (.waitHead (.setClosure h2))

theorem countTracts {units e} (h : Keeps s₀ s) : Keeps s₀ (s.countTracts units e) := .foldl .countAll h

theorem countIn {cid qk} (h : Keeps s₀ s) : Keeps s₀ (s.countIn cid qk) := by
  unfold State.countIn
  dsimp only
  split
  · exact .arriveOne h
  · exact h

theorem roundDone {cid} (h : Keeps s₀ s) : Keeps s₀ (s.roundDone cid) := by
  refine .onSaved h fun h => ?_
  extract_lets c s1 s2 s3 s4
  have h1 : Keeps s₀ s1 := .setClosure h
  have h2 : Keeps s₀ s2 := .foldl (fun h => .setCbit (.setCbit h)) h1
  have h3 : Keeps s₀ s3 := .foldl .endWait h2
  have h4 : Keeps s₀ s4 := .foldl .slip h3
  exact .foldl .countIn (.countTracts h4)

theorem closureCheck {s : State} {n cid} (h : Keeps s₀ s) : Keeps s₀ (State.closureCheck n s cid) := by
  unfold State.closureCheck
  refine .ite (.ite ?_ (.slip h)) h
  cases n with
  | zero => exact h
  | succ n => exact closureCheck (.closureEnds (.roundDone h))

theorem carr {cid key q addr e} (h : Keeps s₀ s) : Keeps s₀ (s.carr cid key q addr e) := by
  unfold State.carr
  dsimp only
  split
  · exact .endEntry h
  · exact .endEntry h
  · exact .ite (.endEntry h) (.ite (.closureCheck (.arriveOne h)) (.arriveOne h))

theorem closureFail {cid status sender} (h : Keeps s₀ s) : Keeps s₀ (s.closureFail cid status sender) :=
  .ite h (.closureEnds (.countTracts (.onSaved (.foldl .slip (.setClosure h)) fun h1 => .foldl .endWait h1)))

theorem closuresFail {p status} (h : Keeps s₀ s) : Keeps s₀ (s.closuresFail p status) := .foldl .closureFail h

/-! ### Cmd -/

theorem receipt {r} (h : Keeps s₀ s) : Keeps s₀ (s.receipt r) := .ite (.upd h) (.putReceipt h)

theorem finish {r status result} (h : Keeps s₀ s) : Keeps s₀ (s.finish r status result) := by
  unfold State.finish
  extract_lets halted cut st late g cmd s1 s2 s3
  have h1 : Keeps s₀ s1 := .upd h
  have h2 : Keeps s₀ s2 := .ite h1 (.setRcp h1)
  have h3 : Keeps s₀ s3 := .ite (.count h2) (.ite (.count h2) h2)
  exact .ite h3 (.receipt h3)

theorem hostOut {r a bs} (h : Keeps s₀ s) : Keeps s₀ (s.hostOut r a bs) := .ite h (.hostStore h)
theorem begin {r} (h : Keeps s₀ s) : Keeps s₀ (s.begin r) := .upd h

theorem command {h' op ps body} (h : Keeps s₀ s) (hbody : ∀ {s r}, Keeps s₀ s → Keeps s₀ (body s r)) :
    Keeps s₀ (s.command h' op ps body) := by
  unfold State.command
  split
  · exact .ite h (.ite (.finish h) (hbody h))
  · exact h

theorem putStarted {r r'} (h : Keeps s₀ s) : Keeps s₀ (s.putStarted r r') := .upd h
theorem finishAll {p status result} (h : Keeps s₀ s) : Keeps s₀ (s.finishAll p status result) := .foldl .finish h
theorem dropStract {handle} (h : Keeps s₀ s) : Keeps s₀ (s.dropStract handle) := .upd h

/-! ### Contexts -/

theorem copyIn {c} (h : Keeps s₀ s) : Keeps s₀ (s.copyIn c) := .foldl .copyLost h
theorem copyOut {c} (h : Keeps s₀ s) : Keeps s₀ (s.copyOut c) := .foldl .copyLost h
theorem setBindery {h' v} (h : Keeps s₀ s) : Keeps s₀ (s.setBindery h' v) := .upd h
theorem bindsIn {c} (h : Keeps s₀ s) : Keeps s₀ (s.bindsIn c) := .foldl .setBindery h
theorem bindsOut {c} (h : Keeps s₀ s) : Keeps s₀ (s.bindsOut c) := .foldl (fun h1 => .ite (.store h1) h1) h
theorem bndRestart {c} (h : Keeps s₀ s) : Keeps s₀ (s.bndRestart c) := .foldl (fun h1 => .ite (.setBindery h1) h1) h
theorem preempt {c} (h : Keeps s₀ s) : Keeps s₀ (s.preempt c) := .ite (.setCtx h) h
theorem endPreempts {c} (h : Keeps s₀ s) : Keeps s₀ (s.endPreempts c) := .finishAll h
theorem countSwitch {c} (h : Keeps s₀ s) : Keeps s₀ (s.countSwitch c) := .countAll h

theorem dropStarts {status} (h : Keeps s₀ s) : Keeps s₀ (s.dropStarts status) :=
  .foldl (fun h1 => by
    split
    · exact .ite (.finish h1) h1
    · exact .ite (.count h1) h1) (.upd h)

theorem endedCheck {c bndEnded} (h : Keeps s₀ s) : Keeps s₀ (s.endedCheck c bndEnded) := .ite (.event (.setCtx h)) h

/-! ### FpCore -/

theorem setFp {n u} (h : Keeps s₀ s) : Keeps s₀ (s.setFp n u) := .upd h
theorem mapFp {f} (h : Keeps s₀ s) : Keeps s₀ (s.mapFp f) := .upd h
theorem captureWrite {a len} (h : Keeps s₀ s) : Keeps s₀ (s.captureWrite a len) := .ite (.mapFp h) h
theorem write {a bs} (h : Keeps s₀ s) : Keeps s₀ (s.write a bs) := .captureWrite (.store h)
theorem captureLines {src h' rs} (h : Keeps s₀ s) : Keeps s₀ (s.captureLines src h' rs) := .ite h (.mapFp h)

theorem capturePort {src port handle tidx payload} (h : Keeps s₀ s) :
    Keeps s₀ (s.capturePort src port handle tidx payload) :=
  .mapFp h

/-! ### ColCore -/

theorem setCol {h' c} (h : Keeps s₀ s) : Keeps s₀ (s.setCol h' c) := .upd h

theorem updRun {h' f} (h : Keeps s₀ s) : Keeps s₀ (s.updRun h' f) := by
  unfold State.updRun
  split
  · exact .setCol h
  · exact h

theorem colClose {h' c status waitns} (h : Keeps s₀ s) : Keeps s₀ (s.colClose h' c status waitns) :=
  .setCol (.ite (.store (.access h)) h)

theorem dropTiles {h'} (h : Keeps s₀ s) : Keeps s₀ (s.dropTiles h') := .upd h

theorem stagingEnd {key status} (h : Keeps s₀ s) : Keeps s₀ (s.stagingEnd key status) :=
  .onUnits h fun h1 => by
    split
    · exact .endWait (.setMat h1)
    · exact h1

theorem colFail {h' status failsn} (h : Keeps s₀ s) : Keeps s₀ (s.colFail h' status failsn) := by
  unfold State.colFail
  split
  · exact h
  · exact .ite (.foldl .noticeFrom (.foldl .stagingEnd (.dropTiles (.colClose h)))) h

theorem colFailOwn {h' status} (h : Keeps s₀ s) : Keeps s₀ (s.colFailOwn h' status) := .colFail h

theorem colStop {h' a status} (h : Keeps s₀ s) : Keeps s₀ (s.colStop h' a status) :=
  .colFailOwn (.ite (.lineUnc h) (.ite (.count h) h))

theorem colGuard {h' c reads writes k} (h : Keeps s₀ s) (hk : ∀ {s}, Keeps s₀ s → Keeps s₀ (k s)) :
    Keeps s₀ (s.colGuard h' c reads writes k) := by
  unfold State.colGuard
  dsimp only
  split
  · exact .colStop h
  · split
    · exact .colStop h
    · exact hk (.foldl .access (.foldl .access h))

theorem colPlanned {h' c k} (h : Keeps s₀ s) (hk : ∀ {s}, Keeps s₀ s → Keeps s₀ (k s)) :
    Keeps s₀ (s.colPlanned h' c k) :=
  .ite (hk (.ite h (.foldl .access h))) (.colStop h)

theorem colsFail {p status} (h : Keeps s₀ s) : Keeps s₀ (s.colsFail p status) := .foldl .colFailOwn h
theorem colAbandonCheck (h : Keeps s₀ s) : Keeps s₀ s.colAbandonCheck := .foldl .colFailOwn h

theorem colSend {h' c dst head payload} (h : Keeps s₀ s) : Keeps s₀ (s.colSend h' c dst head payload) :=
  .updRun (.sendOn h)

theorem sendTile {h' c dst role tidx mcnt vals codes} (h : Keeps s₀ s) :
    Keeps s₀ (s.sendTile h' c dst role tidx mcnt vals codes) :=
  .colSend h

theorem sendSlip {h' c dst dir bs} (h : Keeps s₀ s) : Keeps s₀ (s.sendSlip h' c dst dir bs) := by
  unfold State.sendSlip
  exact .updRun (.slip h)

theorem slipResult {h' bs} (h : Keeps s₀ s) : Keeps s₀ (s.slipResult h' bs) := by
  unfold State.slipResult
  split
  · exact h
  · next c _ =>
    extract_lets down mark put dp
    have hdown : ∀ {s}, Keeps s₀ s → Keeps s₀ (down s) := fun h1 => .foldl .sendSlip h1
    have hput : ∀ {a v}, Keeps s₀ (put a v) := .colGuard h fun h1 => .updRun (hdown (.write h1))
    exact .ite hput (.ite (.ite (.colFailOwn (hdown h)) hput) hput)

theorem slipCheck {h'} (h : Keeps s₀ s) : Keeps s₀ (s.slipCheck h') := by
  unfold State.slipCheck
  split
  · exact h
  · exact .ite (.ite (.slipResult (.updRun h)) (.sendSlip (.updRun h))) h

theorem slipAdd {h' child bs} (h : Keeps s₀ s) : Keeps s₀ (s.slipAdd h' child bs) := by
  unfold State.slipAdd
  split
  · exact h
  · exact .slipCheck (.updRun h)

theorem voteCheck {h'} (h : Keeps s₀ s) : Keeps s₀ (s.voteCheck h') := by
  unfold State.voteCheck
  split
  · exact h
  · exact .ite (.colGuard h .slipAdd) h

theorem tadd {h' tidx mcnt vals codes} (h : Keeps s₀ s) : Keeps s₀ (s.tadd h' tidx mcnt vals codes) := by
  unfold State.tadd
  split
  · exact h
  · refine .colGuard h fun h => ?_
    extract_lets sum n sl s1 s2 s3
    have h2 : Keeps s₀ s2 := .updRun (.count (.count (.upd h)))
    exact .voteCheck (.ite (.foldl .sendTile h2) h2)

theorem flush {h' p} (h : Keeps s₀ s) : Keeps s₀ (s.flush h' p) := by
  unfold State.flush
  split
  · exact h
  · exact .ite (.tadd (.updRun h)) (.sendTile (.updRun h))

theorem placeTile {h' c tidx mcnt vals codes} (h : Keeps s₀ s) :
    Keeps s₀ (s.placeTile h' c tidx mcnt vals codes) := by
  unfold State.placeTile
  dsimp only
  split
  · exact .updRun h
  · refine .updRun (.ite h ?_)
    split
    · exact .updRun (.flush h)
    · exact h

theorem mergeTile {h' c tidx mcnt vals codes} (h : Keeps s₀ s) :
    Keeps s₀ (s.mergeTile h' c tidx mcnt vals codes) := by
  unfold State.mergeTile
  dsimp only
  split
  · exact .ite (.tadd h) (.sendTile h)
  · split
    · exact .ite (.colFailOwn (.placeTile h)) (.ite (.flush (.placeTile h)) (.placeTile h))
    · exact .placeTile h

theorem flushAll {h'} (h : Keeps s₀ s) : Keeps s₀ (s.flushAll h') := by
  unfold State.flushAll
  split
  · exact h
  · exact .ite (.foldl .flush h) h

theorem acceptTile {h' tidx mcnt ds wc zm len vals codes again} (h : Keeps s₀ s) :
    Keeps s₀ (s.acceptTile h' tidx mcnt ds wc zm len vals codes again) := by
  unfold State.acceptTile
  split
  · exact h
  · split
    · exact .colFailOwn h
    · exact .ite (.colFailOwn h) (.flushAll (.mergeTile (.setCol h)))

theorem colComplete {h' c waitns} (h : Keeps s₀ s) : Keeps s₀ (s.colComplete h' c waitns) :=
  .ite (.colStop h) (.setRef (.colClose h))

/-! ### BndCore -/

theorem setStack {h' v} (h : Keeps s₀ s) : Keeps s₀ (s.setStack h' v) := .upd h
theorem bndUnregister {h' qi} (h : Keeps s₀ s) : Keeps s₀ (s.bndUnregister h' qi) := .upd (.setBindery h)

theorem bndAdvance {h' r} (h : Keeps s₀ s) : Keeps s₀ (s.bndAdvance h' r) := by
  unfold State.bndAdvance
  dsimp only
  split
  · exact .finishAll (.setBindery h)
  · exact .ite (.setBindery h) (.event (.setBindery h))

theorem bndClose {h' r} (h : Keeps s₀ s) : Keeps s₀ (s.bndClose h' r) := by
  unfold State.bndClose
  extract_lets s0 s1 s2
  have h0 : Keeps s₀ s0 := .captureLines h
  have h2 : Keeps s₀ s2 := .count (.ite (.store h0) h0)
  exact .ite (.setRef h2) h2

theorem bndEnd {h' r} (h : Keeps s₀ s) : Keeps s₀ (s.bndEnd h' r) := .bndAdvance (.bndClose h)

/-! ### BndOps -/

theorem bndMove {h' r n} (h : Keeps s₀ s) : Keeps s₀ (s.bndMove h' r n).1 :=
  .count (.count (.countShed (.invalidateAs (.upd (.countAll (.captureLines h))))))

theorem bndHalt {h'} (h : Keeps s₀ s) : Keeps s₀ (s.bndHalt h') := by
  unfold State.bndHalt
  split
  · exact .ite (.ite (.useFree h) (.setBindery (.bndMove (.useFree h)))) h
  · exact h

theorem bndAbort {h' status} (h : Keeps s₀ s) : Keeps s₀ (s.bndAbort h' status) := by
  unfold State.bndAbort
  dsimp only
  split
  · exact .bndEnd (.bndHalt h)
  · exact .bndHalt h

theorem bndAside {h' p} (h : Keeps s₀ s) : Keeps s₀ (s.bndAside h' p) := by
  unfold State.bndAside
  split
  · dsimp only
    split
    · exact .setBindery (.bndHalt h)
    · exact .bndHalt h
  · exact h

theorem bndPark {c} (h : Keeps s₀ s) : Keeps s₀ (s.bndPark c) :=
  .foldl (fun h1 => .setBindery (.bndAside h1)) (.upd h)

theorem bndStopAll (h : Keeps s₀ s) : Keeps s₀ s.bndStopAll := .foldl .bndAside (.foldl .bndPark h)

/-! ### LinkCore -/

theorem freeSlots {p vl n} (h : Keeps s₀ s) : Keeps s₀ (s.freeSlots p vl n) := .setPort h
theorem take {k} (h : Keeps s₀ s) : Keeps s₀ (s.take k) := .ite (.freeSlots (.upd h)) (.ite (.upd h) (.upd h))
theorem malformedAt {p} (h : Keeps s₀ s) : Keeps s₀ (s.malformedAt p) := .count h
theorem malformed {k} (h : Keeps s₀ s) : Keeps s₀ (s.malformed k) := .malformedAt h
theorem reject {k} (h : Keeps s₀ s) : Keeps s₀ (s.reject k) := .noticeOf (.malformed h)
theorem retrainFast {p} (h : Keeps s₀ s) : Keeps s₀ (s.retrainFast p) := .count (.setPort h)
theorem detect {p} (h : Keeps s₀ s) : Keeps s₀ (s.detect p) := .ite (.ite (.retrainFast h) (.setPort h)) h

theorem dropBuffers {p status waiting} (h : Keeps s₀ s) : Keeps s₀ (s.dropBuffers p status waiting) :=
  .foldl .noticeOf (.setPort (.ite (.upd h) (.upd h)))

theorem subportDown {p} (h : Keeps s₀ s) : Keeps s₀ (s.subportDown p) := .setPort (.dropBuffers (.setPort h))

theorem trainFull {p retry fails} (h : Keeps s₀ s) : Keeps s₀ (s.trainFull p retry fails) := by
  unfold State.trainFull
  extract_lets _ s0 s1
  have h1 : Keeps s₀ s1 := .dropBuffers (.setPort h)
  exact .detect (.setPort h1)

theorem subportQuiesce {p} (h : Keeps s₀ s) : Keeps s₀ (s.subportQuiesce p) := by
  unfold State.subportQuiesce
  split
  · exact .setPort h
  · exact h
  · exact .setPort h
  · exact .setPort h
  · exact .subportDown h

theorem subportFail {p reason} (h : Keeps s₀ s) : Keeps s₀ (s.subportFail p reason) :=
  .log (.setPort (.dropBuffers (.setPort h)))

theorem trainingFails {p reason} (h : Keeps s₀ s) : Keeps s₀ (s.trainingFails p reason) :=
  .ite (.trainFull h) (.ite (.ite (.trainFull h) (.subportFail h)) (.subportFail h))

theorem trainIfEnabled {p} (h : Keeps s₀ s) : Keeps s₀ (s.trainIfEnabled p) := .ite (.trainFull h) h

theorem portReset {n quiet} (h : Keeps s₀ s) : Keeps s₀ (s.portReset n quiet) :=
  .foldl (fun h1 => .trainIfEnabled (.setPort (.ite h1 (.subportDown h1)))) h

/-! ### Recover -/

theorem stopContexts (h : Keeps s₀ s) : Keeps s₀ s.stopContexts :=
  .foldl (fun h1 => .ite (.setCtx h1) (.preempt h1)) (.dropStarts h)

theorem releaseSlots (h : Keeps s₀ s) : Keeps s₀ s.releaseSlots := .upd h

theorem drainDevice (h : Keeps s₀ s) : Keeps s₀ s.drainDevice :=
  .ite h (.releaseSlots (.bndStopAll (.closuresFail (.colsFail (.stopContexts (.log (.upd h)))))))

theorem flagDevice (h : Keeps s₀ s) : Keeps s₀ s.flagDevice :=
  .ite (.drainDevice h) (.drainDevice (.log (.upd h (hf := ⟨rfl, rfl, fun _ => rfl⟩))))

theorem spareSwap {p} (h : Keeps s₀ s) : Keeps s₀ (s.spareSwap p).1 := by
  unfold State.spareSwap
  split
  · exact .flagDevice h
  · exact .log (.count (.upd h))

theorem fbUnc {p addr req} (h : Keeps s₀ s) : Keeps s₀ (s.fbUnc p addr req) := .spareSwap (.log (.count h))

theorem uncRead {addr req} (h : Keeps s₀ s) : Keeps s₀ (s.uncRead addr req) := by
  unfold State.uncRead
  split
  · exact .fbUnc h
  · exact .lineUnc h

theorem loseLine {line} (h : Keeps s₀ s) : Keeps s₀ (s.loseLine line) := by
  unfold State.loseLine
  extract_lets n s1 lost
  have h1 : Keeps s₀ s1 := .count (.lose (.invalidate h))
  exact .ite h1 (.ite (.flagDevice (.log h1)) (.upd h1))

theorem quiesceBegin {r} (h : Keeps s₀ s) : Keeps s₀ (s.quiesceBegin r) := by
  unfold State.quiesceBegin
  dsimp only
  split
  · exact .foldl .subportQuiesce (.log (.setSvc h))
  · exact .setStack (.bndAbort (.log (.setSvc h)))
  · exact .log (.setSvc h)

theorem endX {key status} (h : Keeps s₀ s) : Keeps s₀ (s.endX key status) := by
  unfold State.endX
  split
  · exact .endEntry (.setEng h)
  · exact h

theorem dropRequests {r late} (h : Keeps s₀ s) : Keeps s₀ (s.dropRequests r late) := .foldl .endX (.upd h)

theorem quiesceEnd {r} (h : Keeps s₀ s) : Keeps s₀ (s.quiesceEnd r) := by
  refine .count (.setSvc ?_)
  split
  · exact .writeBack h
  · exact h

theorem reportReset {u key old} (h : Keeps s₀ s) : Keeps s₀ (s.reportReset u key old) :=
  .foldl (fun h1 => .ite h1 (.ite (.ite (.failQueue h1) h1) (.event h1))) h

theorem sendEpochs {u mask named} (h : Keeps s₀ s) : Keeps s₀ (s.sendEpochs u mask named) := .foldl .sendOn h
theorem orphanRequests {p} (h : Keeps s₀ s) : Keeps s₀ (s.orphanRequests p) := .upd h

theorem resetEngines {u} (h : Keeps s₀ s) : Keeps s₀ (s.resetEngines u) :=
  .foldl .reportReset (.orphanRequests (.upd h))

theorem abandonOwned {u} (h : Keeps s₀ s) : Keeps s₀ (s.abandonOwned u) := .abandonAll h
theorem resave {u} (h : Keeps s₀ s) : Keeps s₀ (s.resave u) := .foldl .putSync h

theorem resetUnit {u} (h : Keeps s₀ s) : Keeps s₀ (s.resetUnit u) := by
  unfold State.resetUnit
  extract_lets mask used s1 s2 s3 s4
  have h1 : Keeps s₀ s1 := .abandonOwned (.resetEngines h)
  have h3 : Keeps s₀ s3 := .colAbandonCheck (.closuresFail (.foldl .colFailOwn h1))
  exact .sendEpochs (.resave (.upd h3))

theorem giveUp {r} (h : Keeps s₀ s) : Keeps s₀ (s.giveUp r) := by
  unfold State.giveUp
  split
  · exact h
  · split
    · exact .foldl (fun h1 => .ite (.setShelf h1) h1) h
    · exact .foldl (fun h1 => .ite h1 (.setBindery (.ite (.bndUnregister h1) h1))) h
    · exact .upd (.dropStract h)
    · exact .upd h
    · exact .upd h
    · exact .upd h
    · exact .upd h
    · exact .upd h

theorem abortCommands (h : Keeps s₀ s) : Keeps s₀ s.abortCommands := .foldl (fun h1 => .finish (.giveUp h1)) h

theorem fatal {wdog} (h : Keeps s₀ s) : Keeps s₀ (s.fatal wdog) :=
  .ite (.upd h) (.ite (.upd (.upd h)) (.upd (.upd h)))

theorem stackFails {h'} (h : Keeps s₀ s) : Keeps s₀ (s.stackFails h') := .flagDevice (.log (.setStack h))

theorem retrainStack {h'} (h : Keeps s₀ s) : Keeps s₀ (s.retrainStack h') :=
  .ite (.stackFails (.setStack (.useFree h))) (.setStack (.useFree h))

theorem mgmtReset (h : Keeps s₀ s) : Keeps s₀ s.mgmtReset := .fatal (.upd h)

theorem unitReset {r} (h : Keeps s₀ s) : Keeps s₀ (s.unitReset r) := by
  unfold State.unitReset
  extract_lets s0 s1 s2
  have h1 : Keeps s₀ s1 := .log (.count (.bumpEpoch (.ite (.abortCommands h) h)))
  refine .setSvc ?_
  unfold s2
  split
  · exact .resetUnit h1
  · exact .portReset h1
  · exact .colsFail (.invalidate (.dropRequests h1))
  · exact .retrainStack (.colsFail (.dropRequests (.bndAbort h1)))
  · exact .mgmtReset h1

theorem portResume {n} (h : Keeps s₀ s) : Keeps s₀ (s.portResume n) :=
  .foldl (fun h => by
    extract_lets s1
    have h1 : Keeps s₀ s1 := .ite (.subportDown h) h
    exact .ite (.trainIfEnabled h1) h1) h

theorem unitResume {r} (h : Keeps s₀ s) : Keeps s₀ (s.unitResume r) := by
  unfold State.unitResume
  split
  · exact h
  · exact h
  · dsimp only
    split
    · exact .setStack (.setSvc h)
    · exact .portResume (.setSvc h)
    · exact .setSvc h

/-! ### Fp -/

theorem surveyed {pairs disagree suspect} (h : Keeps s₀ s) : Keeps s₀ (s.surveyed pairs disagree suspect) :=
  .ite (.flagDevice (.log h)) (.log h)

theorem replaySurvey (h : Keeps s₀ s) : Keeps s₀ s.replaySurvey :=
  .ite (.surveyed (.useFree h)) (.surveyed (.useFree h))

theorem replayCheck (h : Keeps s₀ s) : Keeps s₀ s.replayCheck := by
  unfold State.replayCheck
  split
  · extract_lets rows wrong compared ok res src s1 s2
    have h2 : Keeps s₀ s2 := .finishAll (.log (.upd h))
    exact .ite (.ite h2 (.replaySurvey h2)) h
  · exact h

theorem flushOne {n} (h : Keeps s₀ s) : Keeps s₀ (s.flushOne n) :=
  .ite (.count h) (.ite (.setFp h) (.journalLatch (.setFp h)))

theorem fpFlushRange {first count} (h : Keeps s₀ s) : Keeps s₀ (s.fpFlushRange first count) := by
  unfold State.fpFlushRange
  dsimp only
  split
  · exact .replayCheck (.upd (.foldl .flushOne h))
  · exact .foldl .flushOne h

/-! ### Issue -/

theorem restart {c u q} (h : Keeps s₀ s) : Keeps s₀ (s.restart c u q) := .ite h (.setQueue h)

theorem passOn {c p q a e run} (h : Keeps s₀ s) (hrun : ∀ {s c p addr e}, Keeps s₀ s → Keeps s₀ (run s c p addr e)) :
    Keeps s₀ (s.passOn c p q a e run) :=
  .ite (.setQueue (.restart h)) (hrun (.restart h))

theorem passAll {c u q a e run} (h : Keeps s₀ s)
    (hrun : ∀ {s c p addr e}, Keeps s₀ s → Keeps s₀ (run s c p addr e)) : Keeps s₀ (s.passAll c u q a e run) :=
  .foldl (fun h1 => .passOn h1 hrun) (.foldl .restart h)

theorem feed {s : State} {c p q run n} (h : Keeps s₀ s)
    (hrun : ∀ {s c p addr e}, Keeps s₀ s → Keeps s₀ (run s c p addr e)) : Keeps s₀ (s.feed c p q run n) := by
  induction n generalizing s with
  | zero => exact h
  | succ n ih =>
    unfold State.feed
    dsimp only
    split
    · exact ih (hrun (.setQueue h))
    · exact h

theorem issue {u q op e run} (h : Keeps s₀ s)
    (hrun : ∀ {s c p addr e}, Keeps s₀ s → Keeps s₀ (run s c p addr e)) : Keeps s₀ (s.issue u q op e run) := by
  unfold State.issue
  split
  · exact h
  · exact .ite h (.ite (hrun (.advance h)) (.passAll (.count (.advance h)) hrun))

theorem leaveHead {c p q} (h : Keeps s₀ s) : Keeps s₀ (s.leaveHead c p q) := .setQueue h
theorem endRun {c u q addr status} (h : Keeps s₀ s) : Keeps s₀ (s.endRun c u q addr status) := .ite h (.failQueue h)
theorem putNibs {ws} (h : Keeps s₀ s) : Keeps s₀ (s.putNibs ws) := .upd h

/-! ### Matrix -/

theorem mWithdraw {c p addr status} (h : Keeps s₀ s) : Keeps s₀ (s.mWithdraw c p addr status) :=
  .failQueue (.setMat h)

theorem datumReads {d} (h : Keeps s₀ s) : Keeps s₀ (s.datumReads d) := by
  unfold State.datumReads
  extract_lets one entry
  have hentry : ∀ {s on k}, Keeps s₀ s → Keeps s₀ (entry s on k) := fun h => .ite (.access h) h
  refine .ite h ?_
  split
  · exact hentry (hentry h)
  · exact .access h
  · exact h

theorem mfinReport {d t} (h : Keeps s₀ s) : Keeps s₀ (s.mfinReport d t) := .ite (.catReport h) h

theorem mfinGo {c p e} (h : Keeps s₀ s) : Keeps s₀ (s.mfinGo c p e) :=
  .mfinReport (.count (.countShed (.setMat (.ite (.updRun h) h))))

end Keeps

/-- What an M entry leaves when it ends, it keeps. -/
def KeepsRes (s : State) : MRes → Prop
  | .wait => True
  | .done _ t => Keeps s t

namespace KeepsRes

variable {s₀ s : State}

theorem wait : KeepsRes s₀ .wait := trivial
theorem ends {st : Nat} (h : Keeps s₀ s) : KeepsRes s₀ (.end s st) := h

theorem ite {c : Prop} [Decidable c] {r q : MRes} (h : KeepsRes s₀ r) (g : KeepsRes s₀ q) :
    KeepsRes s₀ (if c then r else q) := by
  split <;> assumption

theorem mdecl {c p e} (h : Keeps s₀ s) : KeepsRes s₀ (s.mdecl c p e) := by
  refine .ite (.ends h) (.ite (.ends h) (.ite (.ends h) ?_))
  refine .ite (.ends (.fbUnc h)) (.ite (.ends h) (.ite (.ends h) ?_))
  split
  · exact .wait
  · exact .ends (.ite (.lineUnc h) h)
  · exact .ends (.setMat (.datumReads h))

theorem mopen {c p e} (h : Keeps s₀ s) : KeepsRes s₀ (s.mopen c p e) := by
  refine .ite (.ends h) ?_
  split
  · exact .ends h
  · exact .ite (.ends h) (.ite .wait (.ite (.ends h) (.ite .wait (.ends (.setMat h)))))

theorem macc {c p addr e} (h : Keeps s₀ s) : KeepsRes s₀ (s.macc c p addr e) := by
  refine .ite .wait ?_
  split
  · exact .ends h
  · exact .ends (.setMat h)

theorem mfin {c p e} (h : Keeps s₀ s) : KeepsRes s₀ (s.mfin c p e) := by
  refine .ite .wait (.ite .wait ?_)
  split
  · exact .ends h
  · split
    · exact .ends (.fbUnc h)
    · exact .ite (.ends h) (.ite .wait (.ends (.mfinGo h)))

theorem msum {c p e} (h : Keeps s₀ s) : KeepsRes s₀ (s.msum c p e) :=
  .ite (.ends h) (.ite (.ends h) (.ite (.ends h) (.ite (.ends (.fbUnc h)) (.ends (.store h)))))

theorem msave {c p e} (h : Keeps s₀ s) : KeepsRes s₀ (s.msave c p e) := by
  unfold State.msave
  extract_lets m one g a
  generalize granOk a 8448 = ok
  exact .ite (.ends h) (.ite (.ends h) (.ite .wait (.ite (.ends h) (.ends (.setMat (.store h))))))

theorem mload {c p e} (h : Keeps s₀ s) : KeepsRes s₀ (s.mload c p e) := by
  unfold State.mload
  extract_lets m one g a
  generalize granOk g 8448 = ok
  refine .ite (.ends h) (.ite (.ends h) (.ite (.ends h) (.ite (.ends (.fbUnc h)) ?_)))
  split
  · exact .ends h
  · exact .ends (.setMat h)

theorem mExec {c p addr e} (h : Keeps s₀ s) : KeepsRes s₀ (s.mExec c p addr e) := by
  unfold State.mExec
  split
  · exact .mdecl h
  · exact .mopen h
  · exact .macc h
  · exact .mfin h
  · exact .msum h
  · exact .msave h
  · exact .mload h
  · exact .ends h

end KeepsRes

namespace Keeps

variable {s₀ s t : State}

theorem mSettle {c p addr e r} (h : Keeps s₀ s) (hr : KeepsRes s₀ r) : Keeps s₀ (s.mSettle c p addr e r) := by
  unfold State.mSettle
  split
  · exact .waitHead h
  · exact .endEntry hr

theorem mRun {c p a e} (h : Keeps s₀ s) : Keeps s₀ (s.mRun c p a e) := .mSettle h (.mExec h)
theorem mFeed {c p} (h : Keeps s₀ s) : Keeps s₀ (s.mFeed c p) := .feed h .mRun

theorem mRetry {c p} (h : Keeps s₀ s) : Keeps s₀ (s.mRetry c p) := by
  unfold State.mRetry
  split
  · exact .ite h (.mFeed (.mRun h))
  · exact h

theorem mIssue {u op e} (h : Keeps s₀ s) : Keeps s₀ (s.mIssue u op e) := .issue h .mRun

theorem maccStep {c p r} (h : Keeps s₀ s) : Keeps s₀ (s.maccStep c p r) := by
  unfold State.maccStep
  dsimp only
  split
  · exact .mWithdraw (.setMat (.fbUnc h))
  · exact .ite (.mRetry (.count (.countShed (.setMat h)))) (.count (.countShed (.setMat h)))

theorem drainEnd {c p seg} (h : Keeps s₀ s) : Keeps s₀ (s.drainEnd c p seg) := by
  unfold State.drainEnd
  dsimp only
  split
  · exact h
  · exact .mRetry (.setMat (.putNibs h))

/-! ### Vector -/

theorem vset {c p e} (h : Keeps s₀ s) : Keeps s₀ (s.vset c p e).1 :=
  .iteFst h (.iteFst h (.iteFst (.fbUnc h) (.iteFst h (.setVec h))))

theorem vExec {c p addr e} (h : Keeps s₀ s) : Keeps s₀ (s.vExec c p addr e) := by
  unfold State.vExec
  dsimp only
  split
  · exact .waitHead h
  · split
    · exact .endEntry h
    · split
      · exact .endEntry (.vset h)
      · split
        · exact .endEntry h
        · exact .setVec (.leaveHead h)

theorem vRetry {c p} (h : Keeps s₀ s) : Keeps s₀ (s.vRetry c p) := by
  unfold State.vRetry
  split
  · exact .ite h (.feed (.vExec h) .vExec)
  · exact h

theorem vIssue {u op e} (h : Keeps s₀ s) : Keeps s₀ (s.vIssue u op e) := .issue h .vExec
theorem vEnd {c p status r} (h : Keeps s₀ s) : Keeps s₀ (s.vEnd c p status r) := .vRetry (.endRun (.setVec h))
theorem vLand {p d e o is} (h : Keeps s₀ s) : Keeps s₀ (s.vLand p d e o is) := .count (.countShed (.putNibs h))

theorem vGroup {c p r} (h : Keeps s₀ s) : Keeps s₀ (s.vGroup c p r) := by
  unfold State.vGroup
  dsimp only
  split
  · exact .vEnd (.fbUnc (.setVec (.ite h (.vLand h))))
  · exact .ite (.vEnd (.setVec (.vLand h))) (.setVec (.vLand h))

/-! ### SyncCmds -/

theorem syncIssue {u q op e run} (h : Keeps s₀ s) (hrun : ∀ {s c a}, Keeps s₀ s → Keeps s₀ (run s c a)) :
    Keeps s₀ (s.syncIssue u q op e run) := by
  unfold State.syncIssue
  split
  · exact h
  · exact .ite h (.ite (.endEntry (.advance h)) (hrun (.advance h)))

theorem orphan {holder i} (h : Keeps s₀ s) : Keeps s₀ (s.orphan holder i) := .ite h (.misuse h)

theorem stakeWait {c u q a e want} (h : Keeps s₀ s) : Keeps s₀ (s.stakeWait c u q a e want) := by
  have h1 : Keeps s₀ (s.endEntry c u q a 0) := .endEntry h
  unfold State.stakeWait
  dsimp only
  split
  · exact .ite (.endEntry h) (.ite (.ite (.wakeStake (.setStake h1)) h1) (.waitHead (.orphan h)))
  · exact .endEntry h
  · exact .endEntry h

theorem stakeExpiry {c u q} (h : Keeps s₀ s) : Keeps s₀ (s.stakeExpiry c u q) := by
  unfold State.stakeExpiry
  split
  · exact .ite (.ite (.wakeStake (.setStake (.endEntry h))) (.endEntry h)) (.endEntry (.count h))
  · exact h

theorem stakeSend {c u q a e set} (h : Keeps s₀ s) : Keeps s₀ (s.stakeSend c u q a e set) := by
  unfold State.stakeSend
  split
  · exact .ite (.endEntry h) (.stakeOp (.endEntry h))
  · exact .ite (.waitHead (.upd (.slip h))) (.endEntry (.upd (.slip h)))
  · exact .endEntry h

theorem fence {c u q a e go} (h : Keeps s₀ s) (hgo : ∀ {s}, Keeps s₀ s → Keeps s₀ (go s)) :
    Keeps s₀ (s.fence c u q a e go) :=
  .ite (hgo h) (.waitHead h)

theorem refuse {c u q} (h : Keeps s₀ s) : Keeps s₀ (s.refuse c u q) := .endEntry (.advance h)

theorem stakeEntry {u q op e set} (h : Keeps s₀ s) : Keeps s₀ (s.stakeEntry u q op e set) := by
  unfold State.stakeEntry
  split
  · exact .refuse h
  · exact .syncIssue h fun h1 => .fence h1 .stakeSend

theorem fenceDone {c u q} (h : Keeps s₀ s) : Keeps s₀ (s.fenceDone c u q) := by
  unfold State.fenceDone
  split
  · exact .ite h (.ite (.endEntry h) (.stakeSend h))
  · exact h

theorem cwait {c u q a e} (h : Keeps s₀ s) : Keeps s₀ (s.cwait c u q a e) := by
  unfold State.cwait
  dsimp only
  split
  · exact .endEntry h
  · exact .endEntry h
  · exact .ite (.endEntry h) (.ite (.waitHead h) (.endEntry h))

theorem queueOp {c u q f} (h : Keeps s₀ s) : Keeps s₀ (s.queueOp c u q f) := .setQueue h

theorem fetchFault {c u q status} (h : Keeps s₀ s) : Keeps s₀ (s.fetchFault c u q status) :=
  .ite (.queueOp (.failQueue (.ite (.setQueue h) h))) (.failQueue (.ite (.setQueue h) h))

/-! ### XCore -/

theorem moveGranules {p e done n} (h : Keeps s₀ s) : Keeps s₀ (s.moveGranules p e done n).1 :=
  .count (.ite h (.ite (.store h) (.write h)))

/-- An element that an atomic operation can read and write. -/
theorem atomOne {p e k} (h : Keeps s₀ s) (e' : s.atomOne p e k = .inl t) : Keeps s₀ t := by
  dsimp only [State.atomOne] at e'
  split at e'
  · exact nomatch e'
  · split at e'
    · exact nomatch e'
    · rw [← Sum.inl.inj e']
      exact .count (.count (.ite (.store (.store h)) (.store h)))

theorem atoms {s : State} {p e n done} (h : Keeps s₀ s) : Keeps s₀ (s.atoms p e n done).1 := by
  induction n generalizing s done with
  | zero => exact h
  | succ n ih =>
    unfold State.atoms
    split
    · exact h
    next s1 e1 => exact ih (.atomOne h e1)

theorem xMove {p e done n} (h : Keeps s₀ s) : Keeps s₀ (s.xMove p e done n).1 := .iteFst (.atoms h) (.moveGranules h)
theorem setX {key r} (h : Keeps s₀ s) : Keeps s₀ (s.setX key r) := .setEng h
theorem xEnd {key addr status} (h : Keeps s₀ s) : Keeps s₀ (s.xEnd key addr status) := .endRun (.setX h)

theorem ask {key r} (h : Keeps s₀ s) : Keeps s₀ (s.ask key r) :=
  .ite (.xEnd (.ite (.count h) h)) (.ite (.setSlice h) (.setX (.setSlice h)))

theorem xLocal {key r} (h : Keeps s₀ s) : Keeps s₀ (s.xLocal key r) := by
  unfold State.xLocal
  dsimp only
  split
  · exact .xEnd h
  · split
    · exact .xEnd (.uncRead (.xMove h))
    · exact .xEnd (.xMove h)

theorem xExec {c p addr e} (h : Keeps s₀ s) : Keeps s₀ (s.xExec c p addr e) := by
  unfold State.xExec
  dsimp only
  split
  · exact .waitHead h
  · split
    · exact .endEntry h
    · exact .ite (.xLocal (.setX (.leaveHead h))) (.ask (.setX (.leaveHead h)))

theorem xRetry {c p} (h : Keeps s₀ s) : Keeps s₀ (s.xRetry c p) := by
  unfold State.xRetry
  split
  · exact .ite h (.feed (.xExec h) .xExec)
  · exact h

theorem xFinish {key addr status} (h : Keeps s₀ s) : Keeps s₀ (s.xFinish key addr status) := .xRetry (.xEnd h)
theorem xIssue {u op e} (h : Keeps s₀ s) : Keeps s₀ (s.xIssue u op e) := .issue h .xExec
theorem runServed {q r} (h : Keeps s₀ s) : Keeps s₀ (s.runServed q r).1 := .ite (.count h) h

theorem requestDone {n q} (h : Keeps s₀ s) : Keeps s₀ (s.requestDone n q) := by
  unfold State.requestDone
  extract_lets v s1
  have h1 : Keeps s₀ s1 := .setSlice h
  split
  · exact .count h1
  · extract_lets v s3
    have hv : Keeps s₀ v.1 := .runServed h1
    have h3 : Keeps s₀ s3 := .setX hv
    exact .ite (.xFinish h1) (.ite (.xFinish hv) (.ite (.ask h3) h3))

theorem xServed {c} (h : Keeps s₀ s) : Keeps s₀ (s.xServed c) := .foldl .requestDone h
theorem xPark {c} (h : Keeps s₀ s) : Keeps s₀ (s.xPark c) := .upd (.xServed h)

theorem loseShelfLine {line} (h : Keeps s₀ s) : Keeps s₀ (s.loseShelfLine line) :=
  .ite h (.ite (.catLose (.upd (.count (.lose h)))) (.count (.lose h)))

theorem readVerdict {a r} (h : Keeps s₀ s) : Keeps s₀ (s.readVerdict a r) := by
  unfold State.readVerdict
  dsimp only
  split
  · exact h
  · exact .ite (.count h) (.count h)
  · split
    · exact .loseShelfLine h
    · split
      · exact .ite (.loseLine h) (.ite (.invalidate (.countAll h)) (.countAll h))
      · exact .lose h

/-! ### Archive -/

theorem askWaiting {n} (h : Keeps s₀ s) : Keeps s₀ (s.askWaiting n) :=
  .foldl (fun h1 => by
    split
    · exact .ite (.ask h1) h1
    · exact h1) (.setSlice h)

theorem serveReq {n q} (h : Keeps s₀ s) : Keeps s₀ (s.serveReq n q) := by
  unfold State.serveReq
  dsimp only
  split
  · exact .setSlice (.count h)
  · split
    · exact .setSlice (.count h)
    · split
      · exact .setSlice (.uncRead (.accessLine (.setX (.xMove h))))
      · exact .setSlice (.accessLine (.setX (.xMove h)))

theorem serveOne {n} (h : Keeps s₀ s) : Keeps s₀ (s.serveOne n) := by
  unfold State.serveOne
  split
  · exact .ite (.setSlice (.serveReq h)) (.serveReq h)
  · exact h

theorem ageSlice {n} (h : Keeps s₀ s) : Keeps s₀ (s.ageSlice n) := .setSlice (.foldl .setX (.countAll h))
theorem t1Expiry {key r} (h : Keeps s₀ s) : Keeps s₀ (s.t1Expiry key r) := .xFinish (.count (.count (.setSlice h)))

theorem scrubCorrect {p g} (h : Keeps s₀ s) : Keeps s₀ (s.scrubCorrect p g) :=
  .ite (.upd (.count h)) (.spareSwap (.upd (.count h)))

theorem scrubLost {line} (h : Keeps s₀ s) : Keeps s₀ (s.scrubLost line) := by
  unfold State.scrubLost
  dsimp only
  split
  · exact .ite (.loseLine (.log (.count h))) (.readVerdict h)
  · exact .log (.loseShelfLine (.count h))

theorem answer {o} (h : Keeps s₀ s) : Keeps s₀ (s.answer o) := .upd h
theorem partitionCheck (h : Keeps s₀ s) : Keeps s₀ s.partitionCheck := .foldl .finish h

theorem shelfNext {n} (h : Keeps s₀ s) : Keeps s₀ (s.shelfNext n) := by
  unfold State.shelfNext
  dsimp only
  split
  · exact h
  · split
    · exact .setShelf h
    · exact h

theorem withMemory {mem : Memory} {bad} (h : Keeps s₀ s) : Keeps s₀ { s with mem := mem, bad := bad } := .upd h

theorem shelfTakes {n v t} (h : Keeps s₀ s) : Keeps s₀ (s.shelfTakes n v t) := by
  unfold State.shelfTakes
  extract_lets enters gone s0 s1 s3 s2
  have h1 : Keeps s₀ s1 := .setShelf (.invalidate (.writeBackAs h))
  have h2 : Keeps s₀ s2 := .ite (.withMemory (.access h1)) h1
  exact .ite (.catLose h2) h2

theorem fpScanEnd {n} (h : Keeps s₀ s) : Keeps s₀ (s.fpScanEnd n) := by
  unfold State.fpScanEnd
  dsimp only
  split
  · exact h
  · split
    · exact .replayCheck (.setFp h)
    · split
      · exact .replayCheck (.uncRead (.setFp (.access h)))
      · exact .replayCheck (.journalLatch (.setFp (.access h)))

/-! ### Bindery -/

theorem bndStop {h' status} (h : Keeps s₀ s) : Keeps s₀ (s.bndStop h' status) := .ite (.bndAbort h) h

theorem patrolLoses {a} (h : Keeps s₀ s) : Keeps s₀ (s.patrolLoses a) := by
  unfold State.patrolLoses
  split
  · exact .setWays h
  · exact .lose h

theorem bndRegister {h' qi w} (h : Keeps s₀ s) : Keeps s₀ (s.bndRegister h' qi w) :=
  .ite h (.orphan (.upd (.setBindery h)))

theorem bndBegin {h' r} (h : Keeps s₀ s) : Keeps s₀ (s.bndBegin h' r) := by
  unfold State.bndBegin
  split
  · exact .bndEnd h
  · exact .ite (.bndEnd h) (.ite (.bndEnd (.uncRead h)) (.setBindery (.ite (.count h) (.writeBackAs h))))

theorem bndGoOn {h' r} (h : Keeps s₀ s) : Keeps s₀ (s.bndGoOn h' r) :=
  .ite (.setBindery h) (.ite (.bndEnd h) (.ite (.bndEnd h) (.setBindery (.writeBackAs h))))

theorem bndTake {h' qi r} (h : Keeps s₀ s) : Keeps s₀ (s.bndTake h' qi r) := by
  unfold State.bndTake
  extract_lets s1 b b' b1 s2
  have h2 : Keeps s₀ s2 := .setBindery (.bndUnregister h)
  refine .ite (.bndGoOn h2) ?_
  split
  · exact .bndEnd (.ite (.uncRead h2) h2)
  · exact .ite (.bndEnd h2) (.bndBegin h2)

theorem bndScan {s : State} {h' a} (h : Keeps s₀ s) : Keeps s₀ (s.bndScan h' a) := by
  induction a generalizing s with
  | nil => exact h
  | cons qi rest ih =>
    unfold State.bndScan
    split
    · exact ih h
    · refine .ite (.bndTake h) ?_
      split
      · exact ih (.bndRegister h)
      · exact .bndTake h

theorem bndRan {h' r bad} (h : Keeps s₀ s) : Keeps s₀ (s.bndRan h' r bad) := by
  refine .setBindery ?_
  split
  · exact .uncRead h
  · exact h

theorem bndOperate {h' op} (h : Keeps s₀ s) : Keeps s₀ (s.bndOperate h' op) := by
  unfold State.bndOperate
  split
  · exact h
  · exact .ite (.bndRan (.captureLines h)) (.bndRan (.bndMove h))

/-! ### Links -/

theorem messageLate {mseq} (h : Keeps s₀ s) : Keeps s₀ (s.messageLate mseq) := by
  unfold State.messageLate
  split
  · exact h
  · exact .upd h

theorem startPacket {p t o} (h : Keeps s₀ s) : Keeps s₀ (s.startPacket p t o).1 := by
  unfold State.startPacket
  extract_lets k k1 v s1 s2 late s3
  have h2 : Keeps s₀ s2 := .setPort (.upd h)
  have h3 : Keeps s₀ s3 := .ite (.count (.ite (.messageLate h2) h2)) h2
  exact .ite (.capturePort h3) h3

/-- A slot taken from a virtual lane that has one. -/
theorem takeSlot {p t vl x} (h : Keeps s₀ s) (e : s.takeSlot p t vl = some (u, x)) : Keeps s₀ u := by
  dsimp only [State.takeSlot] at e
  split at e
  · exact nomatch e
  · split at e
    · rw [← (Prod.mk.inj (Option.some.inj e)).1]
      exact .setPort h
    · split at e
      · rw [← (Prod.mk.inj (Option.some.inj e)).1]
        exact .setPort (.startPacket h)
      · exact nomatch e

theorem fillFrom {s : State} {p t vls n a} (h : Keeps s₀ s) : Keeps s₀ (s.fillFrom p t vls n a).1 := by
  induction n generalizing s a with
  | zero => exact h
  | succ n ih =>
    unfold State.fillFrom
    refine .iteFst h ?_
    split
    next s1 x e =>
      obtain ⟨vl, -, hx⟩ := List.exists_of_findSome?_eq_some e
      exact ih (.takeSlot h hx)
    · exact h

theorem fillDrr {s : State} {p t n a} (h : Keeps s₀ s) : Keeps s₀ (s.fillDrr p t n a).1 := by
  induction n generalizing s a with
  | zero => exact h
  | succ n ih =>
    unfold State.fillDrr
    refine .iteFst h ?_
    dsimp only
    split
    next s1 x e =>
      split at e
      · exact ih (.setPort (.takeSlot h e))
      · exact nomatch e
    · exact ih (.setPort h)

theorem fill {p t} (h : Keeps s₀ s) : Keeps s₀ (s.fill p t).1 := .fillFrom (.fillDrr (.fillFrom (.fillFrom h)))
theorem frameOut {p bs} (h : Keeps s₀ s) : Keeps s₀ (s.frameOut p bs) := .upd h
theorem sendTraining {p t} (h : Keeps s₀ s) : Keeps s₀ (s.sendTraining p t) := .frameOut (.setPort h)
theorem sendData {p t fseq slots} (h : Keeps s₀ s) : Keeps s₀ (s.sendData p t fseq slots) := .frameOut h

theorem sendFrame {p t} (h : Keeps s₀ s) : Keeps s₀ (s.sendFrame p t) := by
  unfold State.sendFrame
  dsimp only
  split
  · split
    · exact .sendData ((by
  split
  · exact .count (.setPort h)
  · exact .setPort h))
    · exact .sendData ((by
  split
  · exact .count (.setPort h)
  · exact .setPort h))
  · exact .ite (.sendData h) (.ite (.sendData (.fill h)) (.setPort (.sendData (.fill h))))

theorem fecCount {p fec} (h : Keeps s₀ s) : Keeps s₀ (s.fecCount p fec) := by
  unfold State.fecCount
  split
  · exact .count h
  · exact .count h

theorem replay {p t ack} (h : Keeps s₀ s) : Keeps s₀ (s.replay p t ack) := .ite h (.setPort h)

theorem arrived {k} (h : Keeps s₀ s) : Keeps s₀ (s.arrived k) :=
  .ite (.freeSlots (.reject h)) (.ite (.freeSlots (.noticeOf h)) (.ite (.deliver (.capturePort h)) (.deliver h)))

theorem takeIn {p code bs} (h : Keeps s₀ s) : Keeps s₀ (s.takeIn p code bs) := by
  unfold State.takeIn
  dsimp only
  split
  · split
    · exact .arrived (.setPort ((by
  split
  · exact .reject (.freeSlots h)
  · exact h)))
    · exact .setPort ((by
  split
  · exact .reject (.freeSlots h)
  · exact h))
  · split
    · exact .ite (.arrived (.setPort h)) (.setPort h)
    · exact .count (.freeSlots h)

theorem takeSlots {p bytes} (h : Keeps s₀ s) : Keeps s₀ (s.takeSlots p bytes) :=
  .foldl (fun h1 => .ite (.takeIn h1) h1) h

theorem takeFrame {p t bytes} (h : Keeps s₀ s) : Keeps s₀ (s.takeFrame p t bytes) := by
  unfold State.takeFrame
  extract_lets hd fseq ack v0 used v v1 s1 s2
  have h2 : Keeps s₀ s2 := .ite (.replay (.setPort h)) (.setPort h)
  exact .ite (.setPort h) (.ite (.takeSlots (.setPort h2)) h2)

theorem followDown {p} (h : Keeps s₀ s) : Keeps s₀ (s.followDown p) := .setPort (.subportDown h)
theorem linkLost {p} (h : Keeps s₀ s) : Keeps s₀ (s.linkLost p) := .ite (.followDown h) (.retrainFast h)

theorem takeAlign {p bytes} (h : Keeps s₀ s) : Keeps s₀ (s.takeAlign p bytes) := by
  unfold State.takeAlign
  extract_lets v fl ts n v1
  generalize patternGood bytes = good
  exact .ite (.setPort h) (.setPort h)

theorem takeExchange {p bytes} (h : Keeps s₀ s) : Keeps s₀ (s.takeExchange p bytes) :=
  .ite (.trainingFails h) (.ite (.trainingFails h) (.ite (.setPort h) (.setPort h)))

theorem takeDelay {p t bytes} (h : Keeps s₀ s) : Keeps s₀ (s.takeDelay p t bytes) := .ite (.setPort h) (.setPort h)

theorem portDisable {n} (h : Keeps s₀ s) : Keeps s₀ (s.portDisable n) :=
  .foldl (fun h1 => .ite (.subportDown h1) (.ite h1 (.subportQuiesce h1))) (.setPctl h)

/-! ### Packets -/

theorem onPacket {k ptype f} (h : Keeps s₀ s) (hf : ∀ {s}, Keeps s₀ s → Keeps s₀ (f s)) :
    Keeps s₀ (s.onPacket k ptype f) :=
  .ite h (.ite (.reject (.take h)) (hf (.take h)))

theorem writeTile {c t vals codes} (h : Keeps s₀ s) : Keeps s₀ (s.writeTile c t vals codes) :=
  .captureWrite (.upd (.write h))

theorem takeRole1 {h' c k} (h : Keeps s₀ s) : Keeps s₀ (s.takeRole1 h' c k) := by
  unfold State.takeRole1
  dsimp only
  split
  · exact .colFailOwn h
  · exact .ite (.colFailOwn h) (.colGuard h fun h1 => .foldl .colSend (.updRun (.writeTile h1)))

theorem takeRole2 {h' c k} (h : Keeps s₀ s) : Keeps s₀ (s.takeRole2 h' c k) := by
  unfold State.takeRole2
  split
  · exact .colFailOwn h
  · exact .ite (.colFailOwn h) (.colGuard h fun h1 => .foldl .colSend (.updRun (.write h1)))

theorem takeRow {h' c rank tidx boff tag bs} (h : Keeps s₀ s) : Keeps s₀ (s.takeRow h' c rank tidx boff tag bs) :=
  .ite (.colFailOwn h) (.colGuard h fun h1 => .updRun (.write (.write h1)))

theorem takeCount {h' c rank word} (h : Keeps s₀ s) : Keeps s₀ (s.takeCount h' c rank word) :=
  .ite (.colFailOwn h) (.colGuard h fun h1 => .updRun (.write h1))

theorem takeA2a {h' c k} (h : Keeps s₀ s) : Keeps s₀ (s.takeA2a h' c k) := by
  unfold State.takeA2a
  split
  · exact .colFailOwn h
  · exact .ite (.takeCount h) (.ite (.colFailOwn h) (.takeRow h))

theorem takePerm {h' c off bs} (h : Keeps s₀ s) : Keeps s₀ (s.takePerm h' c off bs) :=
  .ite (.colFailOwn h) (.ite (.colGuard h fun h1 => .updRun (.write h1)) (.colGuard h fun h1 => .updRun (.write h1)))

theorem takeData {h' c k} (h : Keeps s₀ s) : Keeps s₀ (s.takeData h' c k) :=
  .colPlanned h fun h1 => by
    split
    · exact .ite (.acceptTile h1) (.colFailOwn h1)
    · exact .ite (.takeRole1 h1) (.colFailOwn h1)
    · exact .ite (.takeRole2 h1) (.colFailOwn h1)
    · exact .ite (.takePerm h1) (.colFailOwn h1)
    · exact .ite (.takeA2a h1) (.colFailOwn h1)

theorem epochChecked {h' c k f} (h : Keeps s₀ s) (hf : ∀ {s x}, Keeps s₀ s → Keeps s₀ (f s x)) :
    Keeps s₀ (s.epochChecked h' c k f) :=
  .ite (.count h) (hf (.setCol h))

theorem onData {k} (h : Keeps s₀ s) : Keeps s₀ (s.onData k) := by
  unfold State.onData
  split
  · exact .reject h
  · dsimp only
    split
    · exact .noticeOf h
    · refine .ite (.noticeOf h) (.epochChecked h fun h1 => ?_)
      split
      · exact .takeData h1
      · exact .noticeOf h1
      · exact .count h1

theorem ackIn {c bs} (h : Keeps s₀ s) : Keeps s₀ (s.ackIn c bs) := by
  unfold State.ackIn
  split
  · exact h
  · refine .ite (.upd h) (.onSaved (.upd h) fun h1 => ?_)
    split
    · exact .endWait h1
    · exact h1

theorem onCack {k} (h : Keeps s₀ s) : Keeps s₀ (s.onCack k) := by
  unfold State.onCack
  split
  · exact .reject h
  · split
    · exact .ackIn h
    · split
      · exact .noticeOf h
      · exact .epochChecked h .ackIn

theorem onEpoch {k} (h : Keeps s₀ s) : Keeps s₀ (s.onEpoch k) :=
  .ite (.malformed h) (.colAbandonCheck (.abandonAll h))

theorem onToken {k t} (h : Keeps s₀ s) : Keeps s₀ (s.onToken k t) := by
  unfold State.onToken
  split
  · exact .malformed h
  · exact .ite h (.forwardToken (.takeToken h))

theorem onArrive {k} (h : Keeps s₀ s) : Keeps s₀ (s.onArrive k) := by
  unfold State.onArrive
  split
  · exact .malformed h
  · split
    · exact h
    · exact .ite h (.closureCheck (.countArrival h))

theorem onComplete {k} (h : Keeps s₀ s) : Keeps s₀ (s.onComplete k) := by
  unfold State.onComplete
  split
  · exact .malformed h
  · split
    · exact h
    · exact .ite h (.closureCheck (.closureEnds (.roundDone h)))

theorem onFail {k} (h : Keeps s₀ s) : Keeps s₀ (s.onFail k) := by
  unfold State.onFail
  split
  · exact .malformed h
  · split
    · exact h
    · exact .closureFail h

theorem slipUp {h' c k bs} (h : Keeps s₀ s) : Keeps s₀ (s.slipUp h' c k bs) :=
  .ite (.slipAdd h) (.ite (.setCol h) (.malformed h))

theorem onSlipred {k} (h : Keeps s₀ s) : Keeps s₀ (s.onSlipred k) := by
  unfold State.onSlipred
  dsimp only
  split
  · exact .malformed h
  · exact .ite (.malformed h) (.epochChecked h fun h1 => .ite (.slipUp h1) (.ite (.slipResult h1) (.malformed h1)))

theorem runEntry {c p a q e} (h : Keeps s₀ s) : Keeps s₀ (s.runEntry c p a q e) := by
  unfold State.runEntry
  split
  · exact .mRun h
  · exact .vExec h
  · exact .xExec h
  · exact .endEntry h

theorem tractEntry {c q e} (h : Keeps s₀ s) : Keeps s₀ (s.tractEntry c q e) :=
  .ite h (.passAll (.count (.advance h)) .runEntry)

theorem onStake {k} (h : Keeps s₀ s) : Keeps s₀ (s.onStake k) := by
  unfold State.onStake
  split
  · exact .malformed h
  · split
    · exact h
    · exact .ite (.sendOn (.stakeOpAny h)) (.stakeOpAny h)

theorem onFw {k chan shape f} (h : Keeps s₀ s) (hf : ∀ {s}, Keeps s₀ s → Keeps s₀ (f s).1) :
    Keeps s₀ (s.onFw k chan shape f) := by
  refine .onPacket h fun h1 => .ite h1 (.ite (.reject h1) ?_)
  extract_lets src n old done after fab r
  have hr : Keeps s₀ r.1 := by
    unfold r
    cases old with
    | none => exact .upd (hf h1)
    | some _ => exact h1
  exact .ite (.fwmsg hr) hr

theorem routeLoad {rtl first es} (h : Keeps s₀ s) : Keeps s₀ (s.routeLoad rtl first es) :=
  .foldl (fun h1 => .ite h1 (.ite (.upd h1) (.upd h1))) h

theorem fwAnswered {r status} (h : Keeps s₀ s) : Keeps s₀ (s.fwAnswered r status) := by
  unfold State.fwAnswered
  split
  · exact h
  · exact .ite (.finish (.ite (.giveUp h) h)) (.ite h (.finish h))

theorem messageEnds {w status} (h : Keeps s₀ s) : Keeps s₀ (s.messageEnds w status) := by
  unfold State.messageEnds
  dsimp only
  split
  · exact .fwAnswered (.upd h)
  · exact .upd h

theorem takeNotice {body} (h : Keeps s₀ s) : Keeps s₀ (s.takeNotice body) :=
  .ite (.colFail h) (.ite (.foldl .messageEnds h) h)

theorem onMack {k} (h : Keeps s₀ s) : Keeps s₀ (s.onMack k) := by
  unfold State.onMack
  dsimp only
  split
  · exact h
  · exact .messageEnds h

/-! ### Collectives -/

theorem planUnc {r} (h : Keeps s₀ s) : Keeps s₀ (s.planUnc r) := .lineUnc h
theorem planRead {r} (h : Keeps s₀ s) : Keeps s₀ (s.planRead r) := .foldl .access h

theorem admitCol {h'} (h : Keeps s₀ s) : Keeps s₀ (s.admitCol h') := by
  unfold State.admitCol
  split
  · exact h
  · exact .finishAll (.setCol h)

theorem consumeRef {c w} (h : Keeps s₀ s) : Keeps s₀ (s.consumeRef c w) := by
  unfold State.consumeRef
  split
  · exact .takeStake h
  · exact h

theorem prepare {h' c} (h : Keeps s₀ s) : Keeps s₀ (s.prepare h' c) :=
  .ite (.colPlanned h fun h1 => .colGuard h1 fun h2 => .upd (.foldl .heal h2)) (.ite (.colGuard h .store) h)

theorem gatherStart {h' c} (h : Keeps s₀ s) : Keeps s₀ (s.gatherStart h' c) := by
  unfold State.gatherStart
  extract_lets o sh len a d
  refine .colGuard h fun h1 => ?_
  extract_lets bs s1 cut s2
  have hs1 : Keeps s₀ s1 := .ite h1 (.write h1)
  exact .updRun (.foldl (fun h2 => .foldl .colSend h2) hs1)

theorem sendRow {h' c i e j n} (h : Keeps s₀ s) : Keeps s₀ (s.sendRow h' c i e j n) :=
  .ite (.colGuard h fun h1 => .ite (.takeRow h1) (.foldl .colSend h1)) (.updRun h)

theorem a2aRows {s : State} {h' c n i seen} (h : Keeps s₀ s) : Keeps s₀ (State.a2aRows h' c n i seen s) := by
  induction n generalizing s i seen with
  | zero => exact .ite h (.updRun (.foldl (fun h1 => .ite (.takeCount h1) (.colSend h1)) h))
  | succ n ih =>
    unfold State.a2aRows
    refine .ite h ?_
    split
    · exact .colFailOwn h
    · exact ih (.sendRow h)

theorem a2aStart {h' c} (h : Keeps s₀ s) : Keeps s₀ (s.a2aStart h' c) := .colGuard (.updRun h) .a2aRows

theorem permStart {h' c} (h : Keeps s₀ s) : Keeps s₀ (s.permStart h' c) := by
  unfold State.permStart
  extract_lets ms
  refine .colGuard h fun h1 => ?_
  extract_lets data s1
  have hs1 : Keeps s₀ s1 := .updRun h1
  exact .foldl (fun h2 => .ite (.takePerm h2) (.foldl .colSend h2)) hs1

theorem slipStart {h' c} (h : Keeps s₀ s) : Keeps s₀ (s.slipStart h' c) := by
  have hk : ∀ {s}, Keeps s₀ s → Keeps s₀ (s.colGuard h' c [(c.r.src.toNat, c.r.slen.toNat)] [] fun s =>
      (c.early.foldl (fun s x => s.slipAdd h' (some x.1) x.2) s).slipAdd h' none
        (s.mem.readN c.r.src.toNat c.r.slen.toNat)) :=
    fun h1 => .colGuard h1 fun h2 => .slipAdd (.foldl .slipAdd h2)
  exact .ite (.colGuard (.setCol h) fun h1 => hk (.write h1)) (hk (.setCol h))

theorem sumStart {h' c} (h : Keeps s₀ s) : Keeps s₀ (s.sumStart h' c) := .voteCheck (.updRun h)

theorem runBegin {h' c} (h : Keeps s₀ s) : Keeps s₀ (s.runBegin h' c) := by
  refine .colPlanned h fun h1 => .ite (.colGuard h1 .sumStart) (.ite (.colGuard h1 .a2aStart) ?_)
  exact .ite (.permStart h1) (.ite (.slipStart h1) (.gatherStart h1))

theorem takeStaged {h' c} (h : Keeps s₀ s) : Keeps s₀ (s.takeStaged h' c) := by
  unfold State.takeStaged
  split
  · exact h
  · dsimp only
    split
    · exact .updRun h
    · exact .acceptTile (.updRun (.setMat h))

theorem takeSrc {h' c} (h : Keeps s₀ s) : Keeps s₀ (s.takeSrc h' c) :=
  .ite h (.colGuard h fun h1 => .acceptTile (.updRun h1))

/-! ### Counters -/

theorem snapRequest {tag stakeout at'} (h : Keeps s₀ s) : Keeps s₀ (s.snapRequest tag stakeout at').1 := by
  refine .iteFst (.count (.upd h)) (.setCtr h fun g => ?_)
  obtain ⟨hs, -, hl⟩ := Ctr.fieldsOk_iff.mp g
  exact Ctr.fieldsOk_iff.mpr ⟨hs, Ctr.freeze_image g, hl⟩

theorem snapWrite {k} (h : Keeps s₀ s) : Keeps s₀ (s.snapWrite k) := .upd h

/-- The times of the next phase record begin anew. -/
theorem phaseCounted {n} (h : Keeps s₀ s) :
    Keeps s₀ { s with ctr := { s.ctr with nPhase := n, peerWait := 0, thrTime := 0 } } :=
  .upd h

theorem phaseMark {mark bearing rev} (h : Keeps s₀ s) : Keeps s₀ (s.phaseMark mark bearing rev) :=
  .ite (.phaseCounted (.access (.store h))) (.count (.upd h))

/-! ### Load -/

theorem initStakes {c} (h : Keeps s₀ s) : Keeps s₀ (s.initStakes c) := .foldl .upd h
theorem purge {c} (h : Keeps s₀ s) : Keeps s₀ (s.purge c) := .foldl .setBindery (.upd h)

/-! ### Switch -/

theorem engineRetry {c p} (h : Keeps s₀ s) : Keeps s₀ (s.engineRetry c p) := .xRetry (.vRetry (.mRetry h))

theorem becomeRunning {c} (h : Keeps s₀ s) : Keeps s₀ (s.becomeRunning c) :=
  .finishAll (.foldl .engineRetry (.foldl .wakeStake (.setCtx (.unsuspend (.bndRestart (.countSwitch h))))))

theorem startFails {c st status} (h : Keeps s₀ s) : Keeps s₀ (s.startFails c st status) :=
  .endPreempts (.finishAll (.setCtx h))

theorem cancelled {c} (h : Keeps s₀ s) : Keeps s₀ (s.cancelled c) := .onSaved h fun h1 => .suspend (.unsuspend h1)

theorem settle {c} (h : Keeps s₀ s) : Keeps s₀ (s.settle c) := by
  unfold State.settle
  dsimp only
  split
  · split
    · exact .endPreempts (.setCtx (.cancelled h))
    · split
      · exact .startFails h
      · split
        next s1 e => exact .becomeRunning (restoreAll h s1 e)
        · exact .startFails h
  · exact h

theorem sliceOut {d} (h : Keeps s₀ s) : Keeps s₀ (s.sliceOut d) := .setCtx h

theorem sliceTurn (h : Keeps s₀ s) : Keeps s₀ s.sliceTurn := by
  unfold State.sliceTurn
  split
  · exact h
  · split
    · exact .setCtx (.count h)
    · exact h

theorem startNow {c} (h : Keeps s₀ s) : Keeps s₀ (s.startNow c) := by
  unfold State.startNow
  extract_lets v s1 s2
  have h1 : Keeps s₀ s1 := .foldl (fun h => .ite (.preempt (.ite h (.count h))) h) h
  have h2 : Keeps s₀ s2 := .foldl (fun h => .ite (.sliceOut h) h) h1
  exact .settle (.sliceTurn (.setCtx h2))

theorem ctxStartOp {c} (h : Keeps s₀ s) : Keeps s₀ (s.ctxStartOp c).1 := by
  unfold State.ctxStartOp
  split
  · exact h
  · split
    · exact .startNow h
    · exact .startNow h
    · exact h

theorem ctxPreOp {c} (h : Keeps s₀ s) : Keeps s₀ (s.ctxPreOp c).1 := by
  unfold State.ctxPreOp
  dsimp only
  split
  · exact .setCtx h
  · exact .preempt h
  · exact h

theorem actTake {a} (h : Keeps s₀ s) : Keeps s₀ (s.actTake a) := by
  have h1 : Keeps s₀ (if a.start then s.ctxStartOp a.ctx else s.ctxPreOp a.ctx).1 :=
    .iteFst (.ctxStartOp h) (.ctxPreOp h)
  unfold State.actTake
  split
  · next e => exact .of_eq e h1
  · next e =>
    split
    · exact .ite (.finish (.of_eq e h1)) (.of_eq e h1)
    · exact .ite (.count (.of_eq e h1)) (.of_eq e h1)

theorem actsTake {s : State} {fuel} (h : Keeps s₀ s) : Keeps s₀ (s.actsTake fuel) := by
  induction fuel generalizing s with
  | zero => exact h
  | succ fuel ih =>
    unfold State.actsTake
    split
    · exact h
    · exact .ite (ih (.actTake (.upd h))) h

theorem settleAll (h : Keeps s₀ s) : Keeps s₀ s.settleAll := .actsTake (.foldl .settle (.sliceTurn h))
theorem ctxIssue {a} (h : Keeps s₀ s) : Keeps s₀ (s.ctxIssue a) := .actsTake (.upd h)

theorem parked {c} (h : Keeps s₀ s) : Keeps s₀ (s.parked c) :=
  .ite (.settleAll (.countSwitch (.endPreempts (.setCtx (.saveAll (.suspend h)))))) h

theorem sliceOutDone {c} (h : Keeps s₀ s) : Keeps s₀ (s.sliceOutDone c) :=
  .ite (.settleAll (.setCtx (.bindsOut (.blocksOut (.copyOut h))))) h

theorem sliceInDone {c} (h : Keeps s₀ s) : Keeps s₀ (s.sliceInDone c) := by
  have hfail : ∀ {st status}, Keeps s₀ (s.startFails c st status).settleAll := .settleAll (.startFails h)
  unfold State.sliceInDone
  refine .ite (.ite hfail (.ite hfail ?_)) h
  split
  · exact hfail
  · next s1 e =>
    have h1 : Keeps s₀ s1 := blocksIn (.copyIn h) s1 e
    have h2 : Keeps s₀ (((s1.saveAll c).bindsIn c).count (ctrDev 54)) := .count (.bindsIn (.saveAll h1))
    exact .ite (.settleAll (.endPreempts (.setCtx (.cancelled (.setCtx h2))))) (.settleAll (.becomeRunning h2))

/-! ### CtxCmds -/

theorem copyReport {c fromImage} (h : Keeps s₀ s) : Keeps s₀ (s.copyReport c fromImage) := .ite h (.foldl .uncRead h)
theorem imageAccess {c write} (h : Keeps s₀ s) : Keeps s₀ (s.imageAccess c write) := .foldl .access h
theorem headerRead {c a read} (h : Keeps s₀ s) : Keeps s₀ (s.headerRead c a read) := .ite (.access (.readVerdict h)) h
theorem resumeQueue {key q gadr} (h : Keeps s₀ s) : Keeps s₀ (s.resumeQueue key q gadr) := .setQueue h

theorem catImage {r first count a f} (h : Keeps s₀ s) (hf : ∀ {s}, Keeps s₀ s → Keeps s₀ (f s)) :
    Keeps s₀ (s.catImage r first count a f) :=
  .ite (.finish h) (.ite (.finish h) (.ite (.finish h) (hf h)))

/-! ### Registers replaced -/

/-- The wait limits replaced by some in their order. -/
theorem setLimits {ts : List Nat} {w : Nat} (h : Keeps s₀ s)
    (hl : limitsOk s.flt.wlim s.flt.wlong = true → limitsOk ts w = true) :
    Keeps s₀ { s with flt := { s.flt with wlim := ts, wlong := w } } :=
  h.ofFields fun _ hs =>
    have ⟨pwr, brg, ctr, lim, rest⟩ := State.fieldsOk_iff.mp hs
    State.fieldsOk_iff.mpr ⟨pwr, brg, ctr, hl lim, rest⟩

/-- The slots that SLOT_CFG reserves replaced by a number in range. -/
theorem setSlots {n : Nat} (h : Keeps s₀ s) (hn : s.slotRes ≤ 4096 → n ≤ 4096) :
    Keeps s₀ { s with slotRes := n } :=
  h.ofFields fun _ hs =>
    have ⟨pwr, brg, ctr, lim, b, slots, dom⟩ := State.fieldsOk_iff.mp hs
    State.fieldsOk_iff.mpr ⟨pwr, brg, ctr, lim, b, hn slots, dom⟩

/-- The exponent of the table size replaced by one in range. -/
theorem setTableB {n : Nat} (h : Keeps s₀ s) (hn : 9 ≤ s.fab.b ∧ s.fab.b ≤ 13 → 9 ≤ n ∧ n ≤ 13) :
    Keeps s₀ { s with fab := { s.fab with b := n } } :=
  h.ofFields fun _ hs =>
    have ⟨pwr, brg, ctr, lim, b, rest⟩ := State.fieldsOk_iff.mp hs
    State.fieldsOk_iff.mpr ⟨pwr, brg, ctr, lim, hn b, rest⟩

/-- The fabric set up while neither lock is set. -/
theorem setFabric {n d b : Nat} {l k : Bool} (h : Keeps s₀ s) (hn : ¬s.fab.snLock = true) (hd : ¬s.domLock = true)
    (hs : d ≤ 4194304) (hb : 9 ≤ b) (hb' : b ≤ 13) :
    Keeps s₀ { s with station := n, domSize := d, domLock := k, fab := { s.fab with snLock := l, b := b } } := by
  refine h.trans ⟨fun hf => ?_, id, id, fun _ => le_rfl, fun l => absurd l hn, fun l => absurd l hd⟩
  obtain ⟨pwr, brg, ctr, lim, -, slots, -⟩ := State.fieldsOk_iff.mp hf
  exact State.fieldsOk_iff.mpr ⟨pwr, brg, ctr, lim, ⟨hb, hb'⟩, slots, hs⟩

/-- The copy of a snapshot ends, written. -/
theorem copied {d t n m} (h : Keeps s₀ s) :
    Keeps s₀ { s with ctr := { s.ctr.afterCopy with sdone := d, ltag := t, scount := n, nSnap := m } } :=
  .setCtr h Ctr.fieldsOk_afterCopy

/-- The copy of a snapshot ends, missed. -/
theorem copyMissed {d} (h : Keeps s₀ s) : Keeps s₀ { s with ctr := { s.ctr.afterCopy with smiss := d } } :=
  .setCtr h Ctr.fieldsOk_afterCopy

theorem withReplay {c : Cat} {r} (h : Keeps s₀ s) : Keeps s₀ { s with cat := c, flt := { s.flt with replay := r } } :=
  .upd h

/-! ### Rings -/

theorem hostWrite {addr f} (h : Keeps s₀ s) (hf : ∀ {s}, Keeps s₀ s → Keeps s₀ (f s)) :
    Keeps s₀ (s.hostWrite addr f) :=
  .ite (.hostFault h) (hf h)

theorem subDoorbell {q v us} (h : Keeps s₀ s) : Keeps s₀ (s.subDoorbell q v us) :=
  .hostWrite h fun h1 => .ite (.hostFault h1) (.setSub h1)

theorem withCmd {c : CmdIf} (h : Keeps s₀ s) : Keeps s₀ { s with cmd := c } := .upd h

theorem rcpDoorbell {r v} (h : Keeps s₀ s) : Keeps s₀ (s.rcpDoorbell r v) :=
  .hostWrite h fun h1 => .ite (.hostFault h1) (.withCmd (.lostEvents (.setRcp h1)))

theorem subEnable {q en} (h : Keeps s₀ s) : Keeps s₀ (s.subEnable q en) := .ite (.upd (.setSub h)) (.setSub h)

theorem rcpEnable {r en} (h : Keeps s₀ s) : Keeps s₀ (s.rcpEnable r en) :=
  .ite (.upd (.lostEvents (.setRcp h))) (.setRcp h)

theorem startCmd {r} (h : Keeps s₀ s) : Keeps s₀ (s.startCmd r) := .upd (.setRcp h)
theorem dropDirect (h : Keeps s₀ s) : Keeps s₀ s.dropDirect := .count (.upd h)

theorem directWrite {v} (h : Keeps s₀ s) : Keeps s₀ (s.directWrite v) :=
  .hostWrite h fun h1 => .ite (.hostFault h1) (.ite (.dropDirect h1) (.ite (.dropDirect h1) (.startCmd h1)))

theorem stall {q rcpt} (h : Keeps s₀ s) : Keeps s₀ (s.stall q rcpt) := .ite (.count (.upd h)) (.upd h)
theorem fetched {q} (h : Keeps s₀ s) : Keeps s₀ (s.fetched q) := .count (.upd (.setSub (.foldl .setSub h)))
theorem answerSlot {q l rr status} (h : Keeps s₀ s) : Keeps s₀ (s.answerSlot q l rr status) := .receipt h
theorem numbered {q l} (h : Keeps s₀ s) : Keeps s₀ (s.numbered q l) := .setSub h

theorem fetchError {q header l rr} (h : Keeps s₀ s) : Keeps s₀ (s.fetchError q header l rr) :=
  .log (.setSub (.ite h (.ite (.answerSlot (.fetched h)) (.answerSlot (.numbered (.fetched h))))))

theorem takeSlotCmd {q us l rr params} (h : Keeps s₀ s) : Keeps s₀ (s.takeSlotCmd q us l rr params) := by
  have h1 : Keeps s₀ (s.fetched q) := .fetched h
  have h2 : Keeps s₀ ((s.fetched q).numbered q l) := .numbered h1
  exact .ite (.answerSlot h1) (.ite (.answerSlot h2) (.ite (.answerSlot h2) (.startCmd h2)))

theorem expire {r} (h : Keeps s₀ s) : Keeps s₀ (s.expire r) := by
  have h1 : ∀ {c r'}, Keeps s₀ (({ (s.count (ctrDev 43)).giveUp r with cmd := c }).putStarted r r') :=
    .putStarted (.withCmd (.giveUp (.count h)))
  exact .ite (.finish h1) h1

/-! ### Restart -/

theorem clearFieldbooks (h : Keeps s₀ s) : Keeps s₀ s.clearFieldbooks := .upd h

theorem warmNotices (h : Keeps s₀ s) : Keeps s₀ s.warmNotices :=
  .foldl .sendOn (.upd (.closuresFail (.colsFail (.foldl .finish (.upd h)))))

theorem warmUnits (h : Keeps s₀ s) : Keeps s₀ s.warmUnits := .upd h

theorem warmPort {p quiet} (h : Keeps s₀ s) : Keeps s₀ (s.warmPort p quiet) := by
  unfold State.warmPort
  extract_lets old v s1
  have h1 : Keeps s₀ s1 := .setPort h
  exact .ite (.ite (.subportDown h) h1) (.ite (.retrainFast (.setPort h1)) (.ite (.trainIfEnabled h1) h1))

theorem brgUnlocked {b0} (h : Keeps s₀ s) : Keeps s₀ { s with brg := { s.brg with
    st := .unlocked, run := false, b0 := b0, due := [], top := false, src := none, foreign := 0 } } := .upd h

theorem warmReset (h : Keeps s₀ s) : Keeps s₀ s.warmReset := by
  unfold State.warmReset
  extract_lets quiet s1 s2 b s3 cmd s4
  have h1 : Keeps s₀ s1 := .clearFieldbooks (.warmUnits (.invalidate (.writeBack (.warmNotices h))))
  have h2 : Keeps s₀ s2 := .foldl (fun h => .ite (.warmPort h) h) h1
  have h3 : Keeps s₀ s3 := .brgUnlocked h2
  have h4 : Keeps s₀ s4 := .fatal (.withCmd h3)
  exact .ite (.drainDevice h4) h4

theorem requestWarm (h : Keeps s₀ s) : Keeps s₀ s.requestWarm := .ite (.upd h) (.warmReset h)

/-! ### Power -/

theorem oppRequest {point stakeout} (h : Keeps s₀ s) (hpt : s₀.fieldsOk = true → point ≤ 5) :
    Keeps s₀ (s.oppRequest point stakeout) :=
  .setPwrOf h fun h0 hp => Pwr.fieldsOk_retarget (Pwr.fieldsOk_req hp (hpt h0))

theorem oppSwitchNow {target} (h : Keeps s₀ s) (ht : s.pwr.fieldsOk = true → target ≤ 5) :
    Keeps s₀ (s.oppSwitchNow target) := by
  unfold State.oppSwitchNow
  extract_lets p down p1
  refine .count (.setPwr h fun hp => ?_)
  have h1 : p1.fieldsOk = true := Pwr.fieldsOk_switched hp (ht hp)
  split
  · exact h1
  · exact Pwr.fieldsOk_retarget h1

theorem withThrLog {l b} (h : Keeps s₀ s) : Keeps s₀ { s with pwr := { s.pwr with log := l, logged := b } } := .upd h
theorem thrPut {e isOpen} (h : Keeps s₀ s) : Keeps s₀ (s.thrPut e isOpen) := .withThrLog h
theorem episodeBegin {r} (h : Keeps s₀ s) : Keeps s₀ (s.episodeBegin r) := .count (.thrPut (.upd h))
theorem episodes (h : Keeps s₀ s) : Keeps s₀ s.episodes := .foldl .episodeBegin (.foldl .thrPut (.upd h))

theorem powerCounts {measured bins} (h : Keeps s₀ s) : Keeps s₀ (s.powerCounts measured bins) :=
  .ite (.count (.foldl .count h)) (.foldl .count h)

theorem tripQueue {key q} (h : Keeps s₀ s) : Keeps s₀ (s.tripQueue key q) := .ite (.failQueue (.setEng h)) (.setEng h)
theorem tripBindery {h'} (h : Keeps s₀ s) : Keeps s₀ (s.tripBindery h') := .foldl .bndEnd (.bndAbort h)

theorem withTrip {m : Module} {b : Bool} (h : Keeps s₀ s) :
    Keeps s₀ { s with pwr := { s.pwr with tripped := b }, mod := m } :=
  .upd h

theorem trip (h : Keeps s₀ s) : Keeps s₀ s.trip := by
  unfold State.trip
  extract_lets keys s1 s2
  have h1 : Keeps s₀ s1 := .foldl (fun h => .foldl .tripQueue h) (.orphanRequests h)
  have h2 : Keeps s₀ s2 := .foldl .tripBindery h1
  exact .drainDevice (.log (.withTrip h2))

theorem fillerFire {k rev} (h : Keeps s₀ s) : Keeps s₀ (s.fillerFire k rev).1 := by
  unfold State.fillerFire
  split
  · exact h
  · exact .upd h

/-! ### Stakeouts -/

theorem runSet {t} (h : Keeps s₀ s) : Keeps s₀ (s.runSet t) := .ite h (.ite (.runStart h) (.upd (.timeAt h)))

theorem roleChange (h : Keeps s₀ s) : Keeps s₀ s.roleChange :=
  .setBrg h fun hb => Brg.fieldsOk_of (Brg.fieldsOk_unlock hb)

theorem tpvClear (h : Keeps s₀ s) : Keeps s₀ s.tpvClear :=
  .ite (.upd h) (.setBrg h fun hb => Brg.fieldsOk_of (Brg.fieldsOk_unlock hb))

theorem datumRuns (h : Keeps s₀ s) : Keeps s₀ s.datumRuns := .ite (.runStart h) h

theorem stakeoutCommit {n w3} (h : Keeps s₀ s) : Keeps s₀ (s.stakeoutCommit n w3) := by
  unfold State.stakeoutCommit
  extract_lets b ws
  refine .setBrg h fun hb => ?_
  have hb1 : b.fieldsOk = true := Brg.fieldsOk_settleNones (Brg.fieldsOk_of hb)
  split
  · next hs => exact Brg.fieldsOk_commit hb1 (Brg.stakeoutOk_staged hs)
  · exact hb1

theorem stakeoutBar0 {n w3} (h : Keeps s₀ s) : Keeps s₀ (s.stakeoutBar0 n w3) := .upd (.stakeoutCommit h)

/-- An entry fires only with the action it holds. -/
theorem firesOf {n t action f} (h : Keeps s₀ s)
    (hf : s.brg.sAction n.val = action → ∀ {x s}, Keeps s₀ s → Keeps s₀ (f x s)) :
    Keeps s₀ (s.fires n t action f) := by
  unfold State.fires
  extract_lets s1
  have h1 : Keeps s₀ s1 := .timeAt h
  split
  · next d _ =>
    split
    · next hd =>
      obtain ⟨hn, ha⟩ : d.1 = n.val ∧ s1.brg.sAction d.1 = action := by simpa using hd
      have hb : s1.brg = s.brg := State.at_brg
      exact hf (by rw [← ha, hn, hb]) (.setBrg h1 fun hb => Brg.fieldsOk_fire (Brg.fieldsOk_settleNones hb))
    · exact h1
  · exact h1

theorem fires {n t action f} (h : Keeps s₀ s) (hf : ∀ {x s}, Keeps s₀ s → Keeps s₀ (f x s)) :
    Keeps s₀ (s.fires n t action f) :=
  .firesOf h fun _ => hf

theorem brgNop (h : Keeps s₀ s) : Keeps s₀ s.brgNop := .count h

theorem unlessD3 {f} (h : Keeps s₀ s) (hf : ∀ {s}, Keeps s₀ s → Keeps s₀ (f s)) : Keeps s₀ (s.unlessD3 f) :=
  .ite (.brgNop h) (hf h)

theorem unlessDrained {f} (h : Keeps s₀ s) (hf : ∀ {s}, Keeps s₀ s → Keeps s₀ (f s)) : Keeps s₀ (s.unlessDrained f) :=
  .ite (.brgNop h) (hf h)

theorem setStakeAction {ctx w} (h : Keeps s₀ s) : Keeps s₀ (s.setStakeAction ctx w) := by
  unfold State.setStakeAction
  split
  · exact .ite (.stakeOpAny h) (.brgNop h)
  · exact .brgNop h

/-! ### HostCmds -/

theorem shelfBegins {x} (h : Keeps s₀ s) : Keeps s₀ (s.shelfBegins x) := .setShelf h
theorem bndResume {h' c skip} (h : Keeps s₀ s) : Keeps s₀ (s.bndResume h' c skip) := .ite (.setBindery h) h

theorem joinMembers {handle home order members r} (h : Keeps s₀ s) :
    Keeps s₀ (s.joinMembers handle home order members r) :=
  .foldl (fun h1 => .ite h1 (.useFree (.fwmsg h1))) h

theorem awaitMacks {r send} (h : Keeps s₀ s) (hsend : ∀ {s}, Keeps s₀ s → Keeps s₀ (send s)) :
    Keeps s₀ (s.awaitMacks r send) :=
  .fwAnswered (hsend (.begin h))

theorem clearClosureBits {c cid} (h : Keeps s₀ s) : Keeps s₀ (s.clearClosureBits c cid) := .upd h

theorem setupClosure {cid ctx parent limit child units} (h : Keeps s₀ s) :
    Keeps s₀ (s.setupClosure cid ctx parent limit child units) := by
  unfold State.setupClosure
  extract_lets s1 idle c
  have h1 : Keeps s₀ s1 := .foldl (fun h => .onSaved h .clearClosureBits) h
  have h2 : Keeps s₀ (s1.setClosure cid c) := .setClosure h1
  exact .onSaved h2 fun h => .foldl .setCbit h

/-! ### Resets -/

theorem unlocked : Keeps s.unlocked s := ⟨id, id, id, fun _ => le_rfl, nofun, nofun⟩

/-- A cold reset clears the locks, and puts every other field to the value its table gives. -/
theorem cold {held} : Keeps s.unlocked (s.cold held) := by
  have hfields : (s.cold held).fieldsOk = true := (by decide : State.reset.fieldsOk = true)
  refine ⟨fun _ => hfields, id, id, fun k => ?_, nofun, nofun⟩
  change Map.getD s.sec.arb k 0 ≤ Map.getD (s.sec.cold s.dbgOpen held).arb k 0
  cases held <;> exact le_rfl

theorem bootFault {code} (h : Keeps s₀ s) : Keeps s₀ (s.bootFault code) := .log h
theorem holdUnit {code} (h : Keeps s₀ s) : Keeps s₀ (s.holdUnit code) := .setSvc h

theorem bootTables {b} (h : Keeps s₀ s) : Keeps s₀ (s.bootTables b) := by
  unfold State.bootTables
  extract_lets s1 s2
  have h1 : Keeps s₀ s1 := .foldl (fun h => .spareSwap (.bootFault h)) h
  have h2 : Keeps s₀ s2 := .foldl (fun h => .holdUnit (.bootFault h)) h1
  exact .foldl (fun h => .holdUnit (.bootFault h)) h2

theorem firmwareRuns {cls} (h : Keeps s₀ s) : Keeps s₀ (s.firmwareRuns cls) := .ite (.upd h) h

theorem bootImage {b cls} (h : Keeps s₀ s) : Keeps s₀ (s.bootImage b cls) := by
  unfold State.bootImage
  extract_lets x s1
  have h1 : Keeps s₀ s1 := .foldl .holdUnit (.bootFault h)
  exact .ite (.firmwareRuns h) (.ite (.firmwareRuns (.upd h)) (.ite (.upd h1) h1))

theorem bootNext (h : Keeps s₀ s) : Keeps s₀ s.bootNext := .upd (.useFree h)
theorem standbyLost (h : Keeps s₀ s) : Keeps s₀ s.standbyLost := .fatal (.upd h)

theorem napCtx {c} (h : Keeps s₀ s) : Keeps s₀ (s.napCtx c) := by
  unfold State.napCtx
  extract_lets v s1
  have h1 : Keeps s₀ s1 := .ite (.setCtx h) (.preempt h)
  exact .ite (.sliceOut h1) h1

theorem wakeCtx {c} (h : Keeps s₀ s) : Keeps s₀ (s.wakeCtx c) := .ite (.setCtx h) (.ctxIssue h)

theorem wakePort {p} (h : Keeps s₀ s) : Keeps s₀ (s.wakePort p) := by
  unfold State.wakePort
  extract_lets s1
  have h1 : Keeps s₀ s1 := .ite (.subportDown h) h
  exact .ite (.detect (.setPort h1)) h1

theorem flushLate (h : Keeps s₀ s) : Keeps s₀ s.flushLate := .foldl .putReceipt (.upd h)

theorem toD0 (h : Keeps s₀ s) : Keeps s₀ s.toD0 := by
  unfold State.toD0
  extract_lets m s1 gone s2 s3
  have h1 : Keeps s₀ s1 := .upd h
  have h2 : Keeps s₀ s2 := .ite (.clearFieldbooks h1) h1
  have h3 : Keeps s₀ s3 := .ite (.foldl (fun h => .ite (.wakePort h) h) h2) (.foldl .wakeCtx h2)
  exact .ite h (.lostEvents (.flushLate (.settleAll h3)))

theorem hostReset (h : Keeps s₀ s) : Keeps s₀ s.hostReset := .upd (.toD0 (.upd h))

theorem refLink {present} (h : Keeps s₀ s) : Keeps s₀ (s.refLink present) :=
  .foldl (fun h1 => .ite h1 (.ite (.subportQuiesce h1) (.ite (.trainIfEnabled (.ite (.subportDown h1) h1)) h1))) h

theorem smbus {bs} (h : Keeps s₀ s) : Keeps s₀ (s.smbus bs) := .ite (.answer h) h

/-! ### Service -/

theorem quiesceOnce {r} (h : Keeps s₀ s) : Keeps s₀ (s.quiesceOnce r) := .ite (.quiesceBegin h) h

theorem resetByCommand {r u} (h : Keeps s₀ s) : Keeps s₀ (s.resetByCommand r u) :=
  .ite (.unitReset h) (.finish (.unitReset h))

theorem advanceArb {cls} (h : Keeps s₀ s) : Keeps s₀ (s.advanceArb cls) := by
  unfold State.advanceArb
  split
  · refine h.trans ⟨id, id, id, fun k => ?_, fun l => ⟨l, rfl⟩, fun l => ⟨l, rfl⟩⟩
    change Map.getD s.sec.arb k 0 ≤ Map.getD (Map.putD s.sec.arb cls (max (s.arb cls) _) 0) k 0
    rw [Map.getD_putD]
    split
    · next e => exact e ▸ le_max_left ..
    · exact le_rfl
  · exact h

theorem activated {r} (h : Keeps s₀ s) : Keeps s₀ (s.activated r) := .ite (.finish (.upd h)) (.finish (.advanceArb h))

theorem activateUnit {r u} (h : Keeps s₀ s) : Keeps s₀ (s.activateUnit r u) := by
  unfold State.activateUnit
  extract_lets renew
  have hrenew : ∀ {s}, Keeps s₀ s → Keeps s₀ (renew s) := fun h =>
    .ite (.unitResume (.unitReset h)) (.log (.unitResume (.unitReset h)))
  exact .ite (hrenew (.activated h)) (.activated (hrenew h))

theorem quiesceEnds {u} (h : Keeps s₀ s) : Keeps s₀ (s.quiesceEnds u) :=
  .foldl (fun h1 => by
    split
    · exact .finish h1
    · exact .resetByCommand h1
    · exact .activateUnit h1
    · exact h1) (.quiesceEnd h)

theorem quiesceDrops {u} (h : Keeps s₀ s) : Keeps s₀ (s.quiesceDrops u) := by
  unfold State.quiesceDrops
  split
  · exact .foldl (fun h1 => .tripQueue (.tripQueue h1)) h
  · exact .foldl (fun h1 => .ite (.subportDown h1) h1) h
  · exact .foldl .finish h
  · exact .dropRequests h

theorem watchdog {code reset} (h : Keeps s₀ s) (hreset : ∀ {s}, Keeps s₀ s → Keeps s₀ (reset s)) :
    Keeps s₀ (s.watchdog code reset) :=
  .log (.fatal (.count (.ite (.requestWarm (.upd h)) (hreset (.upd h)))))

theorem openDebug (h : Keeps s₀ s) : Keeps s₀ s.openDebug :=
  h.trans ⟨id, fun _ => rfl, id, fun _ => le_rfl, fun l => ⟨l, rfl⟩, fun l => ⟨l, rfl⟩⟩

theorem activate {r cls i u fails} (h : Keeps s₀ s) : Keeps s₀ (s.activate r cls i u fails) := by
  unfold State.activate
  dsimp only
  split
  · exact .finish (.advanceArb (.upd h))
  · exact .ite (.activateUnit (.putStarted (.upd h))) (.quiesceOnce (.begin (.putStarted (.upd h))))

theorem spdmError (h : Keeps s₀ s) : Keeps s₀ s.spdmError := .answer h

/-! ### Regs -/

theorem writeSqctl {q v} (h : Keeps s₀ s) : Keeps s₀ (s.writeSqctl q v) := .subEnable (.setSub h)
theorem writeRqctl {q v} (h : Keeps s₀ s) : Keeps s₀ (s.writeRqctl q v) := .signalRing (.rcpEnable (.setRcp h))
theorem writeEvcfg {v} (h : Keeps s₀ s) : Keeps s₀ (s.writeEvcfg v) := .lostEvents (.upd h)

theorem writeDcfg {v} (h : Keeps s₀ s) : Keeps s₀ (s.writeDcfg v) := by
  unfold State.writeDcfg
  extract_lets b m s1 s2
  have h1 : Keeps s₀ s1 := .upd h
  have h2 : Keeps s₀ s2 := .ite (.roleChange h1) h1
  exact .ite (.runSet (.ite (.datumRuns h2) h2)) (.ite (.runStop h2) h2)

theorem writeTree {v} (h : Keeps s₀ s) : Keeps s₀ (s.writeTree v) := .ite (.tpvClear (.upd h)) (.upd (.upd h))
theorem writeStk {n k v} (h : Keeps s₀ s) : Keeps s₀ (s.writeStk n k v) := .ite (.upd h) (.stakeoutBar0 h)

theorem writeWlim {k v} (h : Keeps s₀ s) : Keeps s₀ (s.writeWlim k v) := by
  unfold State.writeWlim
  dsimp only
  split
  · next hok => exact .setLimits h fun _ => hok
  · exact h

theorem writeWlong {v} (h : Keeps s₀ s) : Keeps s₀ (s.writeWlong v) := by
  unfold State.writeWlong
  split
  · next hok => exact .setLimits h fun hl => limitsOk_wlong hl (by simp_all)
  · exact h

theorem writePctl {n v} (h : Keeps s₀ s) : Keeps s₀ (s.writePctl n v) := by
  unfold State.writePctl
  extract_lets c w sp down s1 s2
  have h2 : Keeps s₀ s2 := .setPctl (.ite h (.foldl (fun h => .ite h (.subportDown h)) h))
  exact .ite (.portDisable h2) (.ite (.foldl .trainIfEnabled h2) h2)

theorem writeStation {v} (h : Keeps s₀ s) : Keeps s₀ (s.writeStation v) :=
  h.trans ⟨id, id, id, fun _ => le_rfl, fun l => by simp [State.writeStation, l, pick], fun l => ⟨l, rfl⟩⟩

theorem writeDomain {v} (h : Keeps s₀ s) : Keeps s₀ (s.writeDomain v) := by
  refine h.trans ⟨fun hs => ?_, id, id, fun _ => le_rfl, fun l => ⟨l, rfl⟩,
    fun l => by simp [State.writeDomain, l, pick]⟩
  obtain ⟨pwr, brg, ctr, lim, b, slots, dom⟩ := State.fieldsOk_iff.mp hs
  refine State.fieldsOk_iff.mpr ⟨pwr, brg, ctr, lim, b, slots, pick_ind (p := (· ≤ 4194304)) (fun hn => ?_) dom⟩
  exact of_decide_eq_true (Bool.and_eq_true_iff.mp hn).2

theorem writeB2win {n v} (h : Keeps s₀ s) : Keeps s₀ (s.writeB2win n v) := .upd h
theorem writeCatArea {c v} (h : Keeps s₀ s) : Keeps s₀ (s.writeCatArea c v) := .setArea h
theorem writeFpctl {n v} (h : Keeps s₀ s) : Keeps s₀ (s.writeFpctl n v) := .setFp h

theorem updShown {u f} (h : Keeps s₀ s) : Keeps s₀ (s.updShown u f) := by
  unfold State.updShown
  split
  · exact .onSaved h .setSync
  · exact h

theorem writeReg1 {r v} (h : Keeps s₀ s) : Keeps s₀ (s.writeReg1 r v) := by
  unfold State.writeReg1
  split
  · exact .upd h
  · exact .ite h (.setSub h)
  · exact .ite h (.setRcp h)
  · exact .ite h (.setSub h)
  · exact .writeSqctl h
  · exact .writeRqctl h
  · exact .writeEvcfg h
  · exact .upd h
  · exact .upd h
  · exact .upd h
  · exact .upd h
  · exact .upd h
  · exact .setPwr h Pwr.fieldsOk_writeCap
  · exact .setPwr h Pwr.fieldsOk_writeGain
  · exact .upd h
  · exact .writeWlim h
  · exact .writeWlong h
  · exact .upd h
  · exact .upd h
  · exact h

theorem writeReg2 {r v} (h : Keeps s₀ s) : Keeps s₀ (s.writeReg2 r v) := by
  unfold State.writeReg2
  split
  · exact .writeDcfg h
  · exact .writeTree h
  · exact .setBrg h Brg.fieldsOk_writePinit
  · exact .setBrg h Brg.fieldsOk_writeLoss
  · exact .upd h
  · exact .upd h
  · exact .writeStk h
  · exact .setStack h
  · exact .setSlots h (pick_ind (p := (· ≤ 4096)) of_decide_eq_true)
  · exact .writeDomain h
  · exact .upd h
  · exact .upd h
  · exact .upd h
  · exact .writeCatArea h
  · exact .writeB2win h
  · exact .writeFpctl h
  · exact .setFp h
  · exact .setFp h
  · exact .writePctl h
  · exact .writeStation h
  · exact .setTableB h (pick_ind (p := fun n => 9 ≤ n ∧ n ≤ 13) (by simp))
  · exact .upd h
  · exact .routeLoad h
  · exact .routeLoad h
  · exact .updShown h
  · exact .updShown h
  · exact .upd h
  · exact .setCtr h Ctr.fieldsOk_writeShelf
  · exact h

theorem writeReg {r v} (h : Keeps s₀ s) : Keeps s₀ (s.writeReg r v) := .writeReg2 (.writeReg1 h)

theorem writePart {r part v} (h : Keeps s₀ s) : Keeps s₀ (s.writePart r part v) := by
  unfold State.writePart
  split
  · exact .writeReg h
  · exact .writeReg h
  · exact .writeReg h
  · exact .writeReg h

theorem wakeRegs {rs} (h : Keeps s₀ s) : Keeps s₀ (s.wakeRegs rs) := .upd h

theorem bar0Write {off size v} (h : Keeps s₀ s) : Keeps s₀ (s.bar0Write off size v) := by
  unfold State.bar0Write
  split
  · exact .hostFault h
  · split
    · exact .hostFault h
    · split
      · exact .writePart (.wakeRegs h)
      · exact .foldl .writePart (.wakeRegs h)

theorem bar0Read {off size} (h : Keeps s₀ s) : Keeps s₀ (s.bar0Read off size) := by
  unfold State.bar0Read
  dsimp only
  split
  · exact .answer (.hostFault h)
  · split
    · exact .answer (.hostFault h)
    · split
      · exact .answer (.useFree (.wakeRegs h))
      · exact .answer (.useFree (.wakeRegs h))

theorem msixWrite {i v} (h : Keeps s₀ s) : Keeps s₀ (s.msixWrite i v) :=
  .ite h (.ite (.signal (.upd (.upd h))) (.upd h))

theorem bar4Write {off size v} (h : Keeps s₀ s) : Keeps s₀ (s.bar4Write off size v) := by
  unfold State.bar4Write
  dsimp only
  split
  · exact .ite (.foldl .msixWrite h) (.hostFault h)
  · exact .ite (.subDoorbell h) (.ite (.rcpDoorbell h) (.ite (.directWrite h) (.hostFault h)))

theorem bar4Read {off size} (h : Keeps s₀ s) : Keeps s₀ (s.bar4Read off size) := by
  unfold State.bar4Read
  split
  · exact .ite (.answer h) (.answer (.hostFault h))
  · exact .answer (.ite h (.hostFault h))

end Keeps

namespace KeepsNext

variable {s₀ s t : State}

/-! ### Matrix -/

theorem mdeclSourceValid {p} (h : Keeps s₀ s) : KeepsNext s₀ (execMdeclSourceValid p s) := by
  unfold execMdeclSourceValid
  split
  · exact .next (.mRetry h)
  · exact .next h

theorem mdeclDatumExpiry {p} (h : Keeps s₀ s) : KeepsNext s₀ (execMdeclDatumExpiry p s) := by
  unfold execMdeclDatumExpiry
  split
  · split
    · split
      · exact .next (.endEntry (.count h))
      · exact .next (.mFeed (.mSettle h (.mdecl h)))
    · exact .next h
  · exact .next h

theorem maccStep {p} (h : Keeps s₀ s) : KeepsNext s₀ (execMaccStep p s) := by
  unfold execMaccStep
  split
  · split
    · exact .next (.maccStep h)
    · exact .next h
  · exact .next h

theorem segmentDrainEnd {p seg} (h : Keeps s₀ s) : KeepsNext s₀ (execSegmentDrainEnd p seg s) := by
  unfold execSegmentDrainEnd
  split
  · exact .next (.drainEnd h)
  · exact .next h

theorem mfinStagingFree {p} (h : Keeps s₀ s) : KeepsNext s₀ (execMfinStagingFree p s) := by
  unfold execMfinStagingFree
  split
  · exact .next (.mRetry h)
  · exact .next h

theorem mfinStagingExpiry {p} (h : Keeps s₀ s) : KeepsNext s₀ (execMfinStagingExpiry p s) := by
  unfold execMfinStagingExpiry
  split
  · split
    · split
      · exact .ite (.next (.endEntry (.log (.count h)))) (.next h)
      · exact .next (.mFeed (.mSettle h (.mfin h)))
    · exact .next h
  · exact .next h

/-! ### Vector -/

theorem vGroup {p} (h : Keeps s₀ s) : KeepsNext s₀ (execVGroup p s) := by
  unfold execVGroup
  split
  · split
    · exact .next (.vGroup h)
    · exact .next h
  · exact .next h

/-! ### SyncCmds -/

theorem stakeWaitExpiry {u q} (h : Keeps s₀ s) : KeepsNext s₀ (execStakeWaitExpiry u q s) := by
  unfold execStakeWaitExpiry
  split
  · exact .next (.stakeExpiry h)
  · exact .next (.foldl (fun h1 => .onSaved h1 .stakeExpiry) h)

theorem fenceComplete {u q} (h : Keeps s₀ s) : KeepsNext s₀ (execFenceComplete u q s) := by
  unfold execFenceComplete
  split
  · exact .next (.fenceDone h)
  · exact .next h

theorem carr {u q e} (h : Keeps s₀ s) : KeepsNext s₀ (execCarr u q e s) := by
  unfold execCarr
  split
  · exact .next (.refuse h)
  · exact .next (.syncIssue h .carr)

theorem queueFetchFault {u q} (h : Keeps s₀ s) : KeepsNext s₀ (execQueueFetchFault u q s) := by
  unfold execQueueFetchFault
  split
  · exact .next h
  · exact .ite (.next (.fetchFault h)) (.ite (.next (.fetchFault (.fbUnc h))) (.next h))

/-! ### Archive -/

theorem archiveSliceServe {c} (h : Keeps s₀ s) : KeepsNext s₀ (execArchiveSliceServe c s) := by
  refine .next (.ageSlice (.serveOne (.serveOne ?_)))
  split
  · exact .ite (.readVerdict (.askWaiting h)) (.askWaiting h)
  · exact .askWaiting h

theorem archiveRequestComplete {n} (h : Keeps s₀ s) : KeepsNext s₀ (execArchiveRequestComplete n s) := by
  unfold execArchiveRequestComplete
  split
  · exact .next (.requestDone h)
  · exact .next h

theorem archiveT1Expiry {p} (h : Keeps s₀ s) : KeepsNext s₀ (execArchiveT1Expiry p s) := by
  unfold execArchiveT1Expiry
  split
  · split
    · exact .next (.t1Expiry h)
    · exact .next h
  · exact .next h

theorem fieldbookScrub {p granule r} (h : Keeps s₀ s) : KeepsNext s₀ (execFieldbookScrub p granule r s) := by
  unfold execFieldbookScrub
  split
  · exact .next h
  · split
    · exact .next h
    · exact .next (.scrubCorrect h)
    · exact .next (.fbUnc (.lose h))

theorem archivePatrolScrub {n line r} (h : Keeps s₀ s) :
    KeepsNext s₀ (execArchivePatrolScrub n line r s) := by
  unfold execArchivePatrolScrub
  extract_lets a held s1
  have h1 : Keeps s₀ s1 := .countAll h
  refine .ite (.next h) ?_
  split
  · exact .next (.ite (.log h1) h1)
  · exact .next (.count h1)
  · exact .next (.scrubLost h1)

theorem bar2Read {off len} (h : Keeps s₀ s) : KeepsNext s₀ (execBar2Read off len s) := by
  unfold execBar2Read
  split
  · exact .next (.answer (.hostFault h))
  · exact .ite (.next (.answer h)) (.ite (.next (.answer (.lineUnc h))) (.next (.answer (.access h))))

theorem bar2Write {off bytes} (h : Keeps s₀ s) : KeepsNext s₀ (execBar2Write off bytes s) := by
  unfold execBar2Write
  split
  · exact .next (.hostFault h)
  · exact .ite (.next h) (.next (.access (.write h)))

theorem shelfModeChangeDone {shelf} (h : Keeps s₀ s) : KeepsNext s₀ (execShelfModeChangeDone shelf s) := by
  unfold execShelfModeChangeDone
  dsimp only
  split
  · exact .ite (.next h) (.next (.partitionCheck (.shelfNext (.shelfTakes h))))
  · exact .next h

/-! ### Bindery -/

theorem hbmTempReading {h' temp} (h : Keeps s₀ s) : KeepsNext s₀ (execHbmTempReading h' temp s) :=
  .ite (.next h) (.ite (.next (.bndStop (.log (.count (.setStack h))))) (.next (.setStack h)))

theorem hbmPatrolRead {line r row day} (h : Keeps s₀ s) :
    KeepsNext s₀ (execHbmPatrolRead line r row day s) := by
  unfold execHbmPatrolRead
  dsimp only
  split
  · exact .next h
  · split
    · exact .next (.count h)
    · exact .next (.setStack (.count (.count h)))
    · exact .next (.log (.count (.patrolLoses (.setStack (.count h)))))

theorem binderyWaitExpiry {h'} (h : Keeps s₀ s) : KeepsNext s₀ (execBinderyWaitExpiry h' s) := by
  unfold execBinderyWaitExpiry
  split
  · exact .next h
  · split
    · exact .ite (.next (.bndEnd (.bndUnregister (.count h)))) (.next (.upd h))
    · exact .next (.bndUnregister h)

theorem bEnd {h'} (h : Keeps s₀ s) : KeepsNext s₀ (execBEnd h' s) := by
  unfold execBEnd
  split
  · exact .next h
  · dsimp only
    split
    · exact .next (.bndAdvance (.bndClose h))
    · exact .ite (.next (.bndAdvance (.bndClose h))) (.next (.endedCheck (.setBindery (.bndClose h))))

theorem bJmp {h'} (h : Keeps s₀ s) : KeepsNext s₀ (execBJmp h' s) := by
  unfold execBJmp
  split
  · exact .next h
  · dsimp only
    split
    · exact .next (.bndAdvance (.bndClose h))
    · exact .ite (.next (.bndAdvance (.bndClose h))) (.next (.setBindery (.bndClose h)))

theorem binderyDescriptorDone {h'} (h : Keeps s₀ s) : KeepsNext s₀ (execBinderyDescriptorDone h' s) := by
  unfold execBinderyDescriptorDone
  split
  · exact .ite (.next (.bndEnd h)) (.next h)
  · exact .next h

/-! ### Links -/

theorem frameSend {p t} (h : Keeps s₀ s) : KeepsNext s₀ (execFrameSend p t s) := by
  unfold execFrameSend
  extract_lets s1 v
  have h1 : Keeps s₀ s1 := .timeAt h
  exact .ite (.next h1) (.ite (.next (.sendFrame h1)) (.ite (.next (.sendTraining h1)) (.next h1)))

theorem frameReceive {p t fec bytes} (h : Keeps s₀ s) : KeepsNext s₀ (execFrameReceive p t fec bytes s) := by
  unfold execFrameReceive
  dsimp only
  split
  · exact .next h
  · split
    · exact .next (.count (.setPort (.fecCount (.timeAt h))))
    · split
      · exact .next (.takeFrame (.fecCount (.timeAt h)))
      · exact .next (.setPort (.fecCount (.timeAt h)))
      · exact .next (.malformedAt (.fecCount (.timeAt h)))

theorem trainingFrameReceive {p t fec bytes} (h : Keeps s₀ s) :
    KeepsNext s₀ (execTrainingFrameReceive p t fec bytes s) := by
  unfold execTrainingFrameReceive
  extract_lets s1 v broken ftype ts s2
  have h1 : ∀ {v}, Keeps s₀ (s1.setPort p.val v) := .setPort (.fecCount (.timeAt h))
  refine .ite (.next h) (.ite (.next (.count h1)) (.ite (.next h1) (.ite (.next (.malformedAt h1)) ?_)))
  exact .ite (.next (.takeAlign h1)) (.ite (.next (.takeDelay h1)) (.ite (.next h1) (.next (.takeExchange h1))))

theorem laneSignalChange {p lanes} (h : Keeps s₀ s) : KeepsNext s₀ (execLaneSignalChange p lanes s) := by
  unfold execLaneSignalChange
  extract_lets n old s1 v
  have h1 : Keeps s₀ s1 := .setPort h
  refine .ite (.next h) (.ite (.next (.detect h1)) (.ite (.next h1) ?_))
  exact .ite (.next (.linkLost h1)) (.ite (.next (.trainingFails h1)) (.next h1))

/-! ### Packets -/

theorem stentry {k} (h : Keeps s₀ s) : KeepsNext s₀ (execStentry k s) := by
  have h1 : Keeps s₀ (s.take k) := .take h
  refine .ite (.next h) (.ite (.next (.reject h1)) (.ite (.next (.malformed h1)) ?_))
  exact .ite (.next h1) (.next (.tractEntry h1))

theorem stjoin {k} (h : Keeps s₀ s) : KeepsNext s₀ (execStjoin k s) :=
  .next (.onFw h fun h1 => by
    dsimp only
    exact .iteFst h1 (.upd h1))

theorem fwmsgRetryExpiry {mseq} (h : Keeps s₀ s) : KeepsNext s₀ (execFwmsgRetryExpiry mseq s) := by
  unfold execFwmsgRetryExpiry
  split
  · exact .next h
  · exact .ite (.next (.sendOn (.upd h))) (.next (.messageEnds h))

/-! ### Collectives -/

theorem colOpen {h' r schild} (h : Keeps s₀ s) : KeepsNext s₀ (execColOpen h' r schild s) :=
  .next (.command h fun h1 => by
  split
  · exact .finish (.ite (.planUnc h1) h1)
  · exact .begin (.setCol (.planRead h1)))

theorem colClose {h' handle} (h : Keeps s₀ s) : KeepsNext s₀ (execColClose h' handle s) :=
  .next (.command h fun h1 => by
  split
  · exact .finish h1
  · exact .ite (.finish h1) (.ite (.finish h1) (.finish (.upd (.dropTiles h1)))))

theorem colArm {handle} (h : Keeps s₀ s) : KeepsNext s₀ (execColArm handle s) := by
  unfold execColArm
  split
  · exact .next h
  · exact .ite (.next (.prepare (.setCol (.consumeRef h)))) (.next h)

theorem colStart {handle} (h : Keeps s₀ s) : KeepsNext s₀ (execColStart handle s) := by
  unfold execColStart
  split
  · exact .next h
  · exact .ite (.next (.runBegin (.setCol (.consumeRef h)))) (.next h)

theorem colTileAccept {handle} (h : Keeps s₀ s) : KeepsNext s₀ (execColTileAccept handle s) := by
  unfold execColTileAccept
  split
  · exact .next h
  · exact .ite (.next (.colPlanned h fun h1 => .ite (.takeStaged h1) (.takeSrc h1))) (.next h)

theorem permScratchCopy {handle} (h : Keeps s₀ s) : KeepsNext s₀ (execPermScratchCopy handle s) := by
  unfold execPermScratchCopy
  split
  · exact .next h
  · exact .ite (.next (.colGuard h fun h1 => .updRun (.foldl .write h1))) (.next h)

theorem colRunComplete {handle waitns} (h : Keeps s₀ s) :
    KeepsNext s₀ (execColRunComplete handle waitns s) := by
  unfold execColRunComplete
  split
  · exact .next h
  · exact .ite (.next (.colComplete h)) (.next h)

theorem colT3Expiry {handle} (h : Keeps s₀ s) : KeepsNext s₀ (execColT3Expiry handle s) := by
  unfold execColT3Expiry
  split
  · exact .next h
  · exact .ite (.next h) (.ite (.next (.colComplete h)) (.next (.colFailOwn (.log (.count h)))))

/-! ### Counters -/

theorem counterDeltaMove {k n} (h : Keeps s₀ s) : KeepsNext s₀ (execCounterDeltaMove k n s) :=
  .ite (.next (.setCtr h fun hc => by
    obtain ⟨hs, hi, hl⟩ := Ctr.fieldsOk_iff.mp hc
    exact Ctr.fieldsOk_iff.mpr ⟨store_add hs, hi, hl⟩)) (.next h)

theorem snapshotCopyDone (h : Keeps s₀ s) : KeepsNext s₀ (execSnapshotCopyDone s) := by
  unfold execSnapshotCopyDone
  split
  · exact .next h
  · refine .ite ?_ ?_
    · exact .next (.finishAll (.copied (.access (.snapWrite h))))
    · exact .next (.finishAll (.count (.copyMissed h)))

theorem snapshot {h' tag} (h : Keeps s₀ s) : KeepsNext s₀ (execSnapshot h' tag s) :=
  .next (.command h fun h1 => .ite (.finish h1) (by
    split
    · exact .begin (.of_eq ‹_› (.snapRequest h1))
    · exact .finish (.of_eq ‹_› (.snapRequest h1))))

/-! ### CtxCmds -/

theorem ctxLoad {h' c addr read} (h : Keeps s₀ s) : KeepsNext s₀ (execCtxLoad h' c addr read s) :=
  .next (.command h fun h1 => .ite (.finish h1) (by
    dsimp only
    split
    · exact .finish (.ite (.lineUnc (.headerRead h1)) (.headerRead h1))
    · exact .finish (.initStakes (.setCtx (.purge (.headerRead h1))))))

theorem ctxUnload {h' c} (h : Keeps s₀ s) : KeepsNext s₀ (execCtxUnload h' c s) :=
  .next (.command h fun h1 => .ite (.finish h1) (by
    split
    · exact .finish h1
    · exact .finish (.setCtx (.purge h1))
    · exact .settleAll (.finish (.setCtx (.purge h1)))
    · exact .finish h1))

theorem queueResume {h' path q c gadr} (h : Keeps s₀ s) : KeepsNext s₀ (execQueueResume h' path q c gadr s) :=
  .next (.command h fun h1 => .ite (.finish h1) (by
    split
    · exact .finish h1
    · exact .ite (.finish h1) (.ite (.finish h1) (.finish (.onSaved h1 .resumeQueue)))))

theorem catSave {h' first count addr} (h : Keeps s₀ s) : KeepsNext s₀ (execCatSave h' first count addr s) :=
  .next (.command h fun h1 => .catImage h1 fun h2 => .finish (.access (.captureWrite (.storeCat h2))))

theorem catLoad {h' first count addr} (h : Keeps s₀ s) : KeepsNext s₀ (execCatLoad h' first count addr s) := by
  refine .next (.command h fun h1 => .catImage h1 fun h2 => .ite (.finish (.uncRead h2)) ?_)
  exact .ite (.finish h2) (.finish (.catCommand (.access h2)))

theorem catSeedRequest {c} (h : Keeps s₀ s) : KeepsNext s₀ (execCatSeedRequest c s) := by
  unfold execCatSeedRequest
  dsimp only
  split
  · exact .next (.checkArea h)
  · exact .ite (.next (.upd (.takeStake (.checkArea h)))) (.next (.seedRequest (.takeStake (.checkArea h))))

/-! ### Rings -/

theorem commandFetch {q us error slot params} (h : Keeps s₀ s) :
    KeepsNext s₀ (execCommandFetch q us error slot params s) := by
  refine .ite (.next h) (.ite (.next (.fetchError h)) (.ite (.next (.stall h)) (.ite (.next (.stall h)) ?_)))
  exact .ite (.next (.fetchError h)) (.next (.takeSlotCmd h))

theorem commandT4Expiry {h'} (h : Keeps s₀ s) : KeepsNext s₀ (execCommandT4Expiry h' s) := by
  unfold execCommandT4Expiry
  split
  · exact .next (.expire h)
  · exact .next h

/-! ### Power -/

theorem oppSwitch (h : Keeps s₀ s) : KeepsNext s₀ (execOppSwitch s) := by
  unfold execOppSwitch
  split
  · next ht => exact .ite (.ite (.next h) (.next (.count (.upd h)))) (.next (.oppSwitchNow h (Pwr.target_le · ht)))
  · exact .next h

theorem oppVoltageRampDone (h : Keeps s₀ s) : KeepsNext s₀ (execOppVoltageRampDone s) := by
  unfold execOppVoltageRampDone
  split
  · exact .next (.setPwr h fun hp => Pwr.fieldsOk_retarget (Pwr.fieldsOk_endChange hp))
  · exact .next h

theorem droopEventEnd (h : Keeps s₀ s) : KeepsNext s₀ (execDroopEventEnd s) := by
  unfold execDroopEventEnd
  split
  · exact .next h
  · dsimp only
    split
    · next ht _ => exact .next (.oppSwitchNow (.setPwr h id) fun hp => Pwr.target_le hp ht)
    · exact .next (.setPwr h id)

theorem powerUpdate {t watts measured milliamps bins} (h : Keeps s₀ s) :
    KeepsNext s₀ (execPowerUpdate t watts measured milliamps bins s) := by
  unfold execPowerUpdate
  extract_lets s1 p s2
  have h1 : Keeps s₀ s1 := .timeAt h
  have h2 : Keeps s₀ s2 := .upd h1 (hp := fun hp => Pwr.fieldsOk_retarget (Pwr.fieldsOk_limits hp))
  exact .next (.episodes (.powerCounts h2))

theorem thermalReading {tmax} (h : Keeps s₀ s) : KeepsNext s₀ (execThermalReading tmax s) := by
  unfold execThermalReading
  extract_lets t p p1 s1
  have h1 : Keeps s₀ s1 := .upd h (hp := fun hp => Pwr.fieldsOk_retarget (by
    unfold p1
    split
    · exact Pwr.fieldsOk_tceil hp le_rfl
    · split <;> exact hp))
  exact .ite (.next (.trip h1)) (.ite (.next (.warmReset h1)) (.next h1))

theorem tceilUpdate (h : Keeps s₀ s) : KeepsNext s₀ (execTceilUpdate s) :=
  .next (.setPwr h fun hp => Pwr.fieldsOk_retarget (Pwr.fieldsOk_tceil hp (by
    obtain ⟨-, -, -, ⟨-, ht, -⟩, -, -⟩ := Pwr.fieldsOk_iff.mp hp
    split
    · omega
    · split <;> omega)))

theorem fillerRelease {t} (h : Keeps s₀ s) : KeepsNext s₀ (execFillerRelease t s) := by
  unfold execFillerRelease
  dsimp only
  split
  · exact .ite (.next (.upd (.timeAt h))) (.next (.timeAt h))
  · exact .next (.timeAt h)

theorem powerCap {h' watts} (h : Keeps s₀ s) : KeepsNext s₀ (execPowerCap h' watts s) :=
  .next (.command h fun h1 => by
    split
    · exact .finish h1
    · next hw => exact .finish (.setPwr h1 fun hp => Pwr.fieldsOk_cap hp (by simpa using hw)))

theorem oppoint {h' point} (h : Keeps s₀ s) : KeepsNext s₀ (execOppoint h' point s) :=
  .next (.command h fun h1 => by
    split
    · exact .finish h1
    · next hp => exact .finish (.oppRequest h1 fun _ => Nat.le_of_not_lt hp))

/-! ### Stakeouts -/

theorem bearingLost {t} (h : Keeps s₀ s) : KeepsNext s₀ (execBearingLost t s) :=
  .ite (.next (.log (.setBrg (.timeAt h) fun hb => Brg.fieldsOk_of (Brg.fieldsOk_closeRev hb)))) (.next (.timeAt h))

theorem snap {n t} (h : Keeps s₀ s) : KeepsNext s₀ (execSnap n t s) :=
  .next (.fires h fun h1 => by
    split
    · exact .of_eq ‹_› (.snapRequest h1)
    · exact .brgNop (.of_eq ‹_› (.snapRequest h1)))

theorem oppointAction {n t} (h : Keeps s₀ s) : KeepsNext s₀ (execOppointAction n t s) := by
  unfold execOppointAction
  extract_lets w
  refine .next (.firesOf h fun ha _ _ h1 => .unlessD3 h1 fun h2 => .unlessDrained h2 fun h3 => ?_)
  refine .oppRequest h3 fun h0 => ?_
  obtain ⟨-, hb, -⟩ := State.fieldsOk_iff.mp (h.fields h0)
  exact Brg.point_le hb ha

theorem filler {n t} (h : Keeps s₀ s) : KeepsNext s₀ (execFiller n t s) :=
  .next (.fires h fun h1 => .unlessD3 h1 fun h2 => .unlessDrained h2 fun h3 => by
    split
    · exact .of_eq ‹_› (.fillerFire h3)
    · exact .brgNop (.of_eq ‹_› (.fillerFire h3)))

/-! ### HostCmds -/

theorem shelfPartition {h' shelves} (h : Keeps s₀ s) : KeepsNext s₀ (execShelfPartition h' shelves s) := by
  refine .next (.command h fun h1 => .ite (.finish h1) (.ite (.finish h1) (.ite (.finish h1) ?_)))
  exact .foldl .shelfNext (.foldl .shelfBegins (.begin h1))

theorem binderyRun {h' stack desc} (h : Keeps s₀ s) : KeepsNext s₀ (execBinderyRun h' stack desc s) :=
  .next (.command h fun h1 => .ite (.finish h1) (.ite (.finish h1) (.ite (.finish h1) (.setBindery (.begin h1)))))

theorem binderyRestart {h' stackMask ctxs skip} (h : Keeps s₀ s) :
    KeepsNext s₀ (execBinderyRestart h' stackMask ctxs skip s) :=
  .next (.command h fun h1 => .ite (.finish h1) (.finish (.foldl (fun h2 => .foldl .bndResume h2) h1)))

theorem fabricSetup {h' sn lockSn lockSize size b} (h : Keeps s₀ s) :
    KeepsNext s₀ (execFabricSetup h' sn lockSn lockSize size b s) :=
  .next (.command h fun h1 => by
    split
    · exact .finish h1
    · next hr =>
      split
      · exact .finish h1
      · next hl =>
        simp only [Bool.or_eq_true, decide_eq_true_eq, not_or, not_lt] at hr hl
        obtain ⟨⟨⟨-, hsize⟩, hb⟩, hb'⟩ := hr
        exact .finish (.setFabric h1 hl.1 hl.2 hsize hb hb'))

theorem stractSetup {h' handle home order members} (h : Keeps s₀ s) :
    KeepsNext s₀ (execStractSetup h' handle home order members s) := by
  refine .next (.command h fun h1 => .ite (.finish h1) (.ite (.finish h1) (.ite (.finish h1) ?_)))
  exact .ite (.awaitMacks (.upd h1) .joinMembers) (.finish (.upd h1))

theorem stractRelease {h' handle} (h : Keeps s₀ s) : KeepsNext s₀ (execStractRelease h' handle s) :=
  .next (.command h fun h1 => by
    split
    · exact .finish h1
    · exact .ite (.awaitMacks (.dropStract h1) fun h2 => .foldl .fwmsg h2) (.finish (.dropStract h1)))

theorem closureSetup {h' cid ctx nchild parent limit nlocal list} (h : Keeps s₀ s) :
    KeepsNext s₀ (execClosureSetup h' cid ctx nchild parent limit nlocal list s) := by
  refine .next (.command h fun h1 => .ite (.finish h1) (.ite (.finish h1) (.ite (.finish h1) ?_)))
  refine .ite (.finish (.uncRead h1)) ?_
  split
  · exact .finish h1
  · exact .finish (.setupClosure (.access h1))

theorem closureRelease {h' cid} (h : Keeps s₀ s) : KeepsNext s₀ (execClosureRelease h' cid s) :=
  .next (.command h fun h1 => .ite (.finish h1) (.ite (.finish h1) (.finish (.setClosure h1))))

theorem stakeoutWrite {h' n w0 w1 w2 w3} (h : Keeps s₀ s) : KeepsNext s₀ (execStakeoutWrite h' n w0 w1 w2 w3 s) :=
  .next (.command h fun h1 => .ite (.finish h1) (.finish (.ite h1 (.stakeoutCommit (.upd h1)))))

/-! ### Resets -/

theorem mrstAssert : KeepsNext s.unlocked (execMrstAssert s) := .next .cold

theorem coldReset : KeepsNext s.unlocked (execColdReset s) := by
  unfold execColdReset
  extract_lets found s1 s2 s3
  have h1 : Keeps s.unlocked s1 := .foldl .bootImage (.bootTables .cold)
  have h2 : Keeps s.unlocked s2 := .foldl .stackFails (.catLose h1)
  have h3 : Keeps s.unlocked s3 := .ite (.foldl (fun h => .ite (.detect h) h) h2) h2
  exact .ite (.next (.bootNext (.ite (.drainDevice h3) h3))) (.next .unlocked)

theorem d3hotEntry (h : Keeps s₀ s) : KeepsNext s₀ (execD3hotEntry s) := by
  unfold execD3hotEntry
  extract_lets naps m s1 s2 s3
  have h1 : Keeps s₀ s1 := .upd h
  have h2 : Keeps s₀ s2 := .sliceTurn (.foldl .napCtx (.bndStopAll h1))
  have h3 : Keeps s₀ s3 := .ite (.colsFail (.foldl (fun h => .ite (.subportQuiesce h) h) h2)) h2
  exact .ite (.next h) (.next (.setCtr h3 Ctr.fieldsOk_moveAll))

theorem refClockWindow {hz lhz} (h : Keeps s₀ s) : KeepsNext s₀ (execRefClockWindow hz lhz s) := by
  unfold execRefClockWindow
  extract_lets m h' l lostH lostL back s1 s2 s3
  have h1 : Keeps s₀ s1 := .upd h
  have h2 : Keeps s₀ s2 := .ite (.log h1) h1
  have h3 : Keeps s₀ s3 := .ite (.logNew h2) (.ite (.log h2) h2)
  exact .next (.ite (.refLink h3) (.ite (.refLink h3) h3))

theorem fieldReportRepeat {rseq} (h : Keeps s₀ s) : KeepsNext s₀ (execFieldReportRepeat rseq s) := by
  unfold execFieldReportRepeat
  split
  · exact .next h
  · exact .ite (.next (.count (.upd h))) (.next (.count (.reportOut (.upd h))))

theorem tapInstruction {i} (h : Keeps s₀ s) : KeepsNext s₀ (execTapInstruction i s) := by
  unfold execTapInstruction
  split
  · exact .next (.answer h)
  · exact .next (.answer h)
  · exact .ite .refused (.next h)

/-! ### Service -/

theorem waitLimits {h' mask t0 t1 t2 t3 t4 t5} (h : Keeps s₀ s) :
    KeepsNext s₀ (execWaitLimits h' mask t0 t1 t2 t3 t4 t5 s) :=
  .next (.command h fun h1 => by
    dsimp only
    split
    · exact .finish h1
    · next hok =>
      simp only [Bool.or_eq_true, Bool.not_eq_true', not_or, Bool.not_eq_false] at hok
      exact .finish (.setLimits h1 fun _ => hok.2))

theorem replayStep {h' rev} (h : Keeps s₀ s) : KeepsNext s₀ (execReplayStep h' rev s) :=
  .next (.command h fun h1 => by
    dsimp only
    refine .ite (.finish h1) (.ite (.finish h1) (.ite (.finish (.uncRead h1)) (.ite (.finish h1) ?_)))
    exact .begin (.withReplay (.applyCat h1)))

theorem unitQuiesce {h' code} (h : Keeps s₀ s) : KeepsNext s₀ (execUnitQuiesce h' code s) :=
  .next (.command h fun h1 => by
    split
    · exact .finish h1
    · exact .ite (.finish h1) (.quiesceOnce (.begin h1))
    · exact .finish h1)

theorem unitReset {h' code} (h : Keeps s₀ s) : KeepsNext s₀ (execUnitReset h' code s) :=
  .next (.command h fun h1 => by
    split
    · exact .finish h1
    · exact .ite (.resetByCommand h1) (.quiesceOnce (.begin h1))
    · exact .finish h1)

theorem unitResume {h' code} (h : Keeps s₀ s) : KeepsNext s₀ (execUnitResume h' code s) :=
  .next (.command h fun h1 => by
    split
    · exact .finish h1
    · exact .finish (.unitResume h1)
    · exact .finish h1)

theorem spareSwap {h' path} (h : Keeps s₀ s) : KeepsNext s₀ (execSpareSwap h' path s) :=
  .next (.command h fun h1 => .ite (.finish h1) (by
    split
    · exact .finish (.spareSwap h1)
    · exact .finish h1))

theorem quiesceAcceptedDone {code} (h : Keeps s₀ s) : KeepsNext s₀ (execQuiesceAcceptedDone code s) := by
  unfold execQuiesceAcceptedDone
  split
  · exact .ite (.next (.quiesceEnds h)) (.next h)
  · exact .next h

theorem quiesceBoundExpiry {code} (h : Keeps s₀ s) : KeepsNext s₀ (execQuiesceBoundExpiry code s) := by
  unfold execQuiesceBoundExpiry
  split
  · exact .ite (.next (.quiesceEnds (.quiesceDrops h))) (.next h)
  · exact .next h

theorem watchdogExpiry {code t} (h : Keeps s₀ s) : KeepsNext s₀ (execWatchdogExpiry code t s) := by
  unfold execWatchdogExpiry
  dsimp only
  split
  · exact .next (.ite (.watchdog (.timeAt h) .count) (.timeAt h))
  · exact .next (.ite (.watchdog (.timeAt h) .unitReset) (.timeAt h))

theorem debugOpen {h' rec sig sigOk} (h : Keeps s₀ s) : KeepsNext s₀ (execDebugOpen h' rec sig sigOk s) := by
  refine .next (.command h fun h1 => .ite (.finish h1) (.ite (.finish h1) (.ite (.finish h1) ?_)))
  exact .ite (.finish h1) (.ite (.finish h1) (.finish (.openDebug h1)))

theorem imageStage {h' cls addr len img sigOk} (h : Keeps s₀ s) :
    KeepsNext s₀ (execImageStage h' cls addr len img sigOk s) := by
  refine .next (.command h fun h1 => .ite (.finish h1) (.ite (.finish h1) ?_))
  split
  · exact .finish h1
  · split
    · exact .finish h1
    · exact .finish (.upd h1)

theorem imageActivate {h' cls code applies} (h : Keeps s₀ s) :
    KeepsNext s₀ (execImageActivate h' cls code applies s) := by
  refine .next (.command h fun h1 => .ite (.finish h1) (.ite (.finish h1) ?_))
  split
  · exact .finish h1
  · exact .finish h1
  · exact .ite (.finish h1) (.activate h1)

theorem spdmMessage {m} (h : Keeps s₀ s) : KeepsNext s₀ (execSpdmMessage m s) := by
  unfold execSpdmMessage
  dsimp only
  split
  · exact .ite (.next (.answer (.upd (.useFree h)))) (.next (.spdmError h))
  · exact .ite (.next (.answer (.upd h))) (.next (.spdmError h))
  · exact .ite (.next (.answer (.upd h))) (.next (.spdmError h))
  · exact .ite (.next (.answer (.upd h))) (.next (.spdmError h))

theorem jobKeyMessage {m} (h : Keeps s₀ s) : KeepsNext s₀ (execJobKeyMessage m s) := by
  unfold execJobKeyMessage
  dsimp only
  split
  · exact .next (.spdmError h)
  · split
    · exact .next (.answer (.upd h))
    · exact .next (.answer h)

/-! ### Regs -/

theorem bar0InvalidAccess {bar4 write off size v} (h : Keeps s₀ s) :
    KeepsNext s₀ (execBar0InvalidAccess bar4 write off size v s) := by
  refine .next ?_
  split
  · exact .bar4Write h
  · exact .bar4Read h
  · exact .bar0Write h
  · exact .bar0Read h

end KeepsNext

/-- Every command but the assertion of MRST# and a cold reset keeps the fields, the fuse, the flag, the counters and the
locks. -/
theorem exec_keeps {s₀ s : State} (h : Keeps s₀ s) :
    ∀ c : Instr, c ≠ .mrstAssert → c ≠ .coldReset → KeepsNext s₀ (exec c s)
  | .regWrite .., _, _ => .next (.bar0Write h)
  | .bar0InvalidAccess .., _, _ => .bar0InvalidAccess h
  | .mdecl .., _, _ => .next (.mIssue h)
  | .mdeclSourceValid .., _, _ => .mdeclSourceValid h
  | .mdeclDatumExpiry .., _, _ => .mdeclDatumExpiry h
  | .mopen .., _, _ => .next (.mIssue h)
  | .macc .., _, _ => .next (.mIssue h)
  | .maccStep .., _, _ => .maccStep h
  | .mfin .., _, _ => .next (.mIssue h)
  | .segmentDrainEnd .., _, _ => .segmentDrainEnd h
  | .mfinStagingFree .., _, _ => .mfinStagingFree h
  | .mfinStagingExpiry .., _, _ => .mfinStagingExpiry h
  | .msum .., _, _ => .next (.mIssue h)
  | .msave .., _, _ => .next (.mIssue h)
  | .mload .., _, _ => .next (.mIssue h)
  | .vset .., _, _ => .next (.vIssue h)
  | .vadd .., _, _ => .next (.vIssue h)
  | .vsub .., _, _ => .next (.vIssue h)
  | .vmul .., _, _ => .next (.vIssue h)
  | .vfma .., _, _ => .next (.vIssue h)
  | .vmin .., _, _ => .next (.vIssue h)
  | .vmax .., _, _ => .next (.vIssue h)
  | .vabs .., _, _ => .next (.vIssue h)
  | .vneg .., _, _ => .next (.vIssue h)
  | .vcvt .., _, _ => .next (.vIssue h)
  | .vcmp .., _, _ => .next (.vIssue h)
  | .vsel .., _, _ => .next (.vIssue h)
  | .vfun .., _, _ => .next (.vIssue h)
  | .vsweep .., _, _ => .next (.vIssue h)
  | .vred .., _, _ => .next (.vIssue h)
  | .vperm .., _, _ => .next (.vIssue h)
  | .vgath .., _, _ => .next (.vIssue h)
  | .vGroup .., _, _ => .vGroup h
  | .swait .., _, _ => .next (.syncIssue h .stakeWait)
  | .swaitc .., _, _ => .next (.syncIssue h .stakeWait)
  | .sset .., _, _ => .next (.stakeEntry h)
  | .sclr .., _, _ => .next (.stakeEntry h)
  | .stakeWaitExpiry .., _, _ => .stakeWaitExpiry h
  | .sfence .., _, _ => .next (.syncIssue h fun h1 => .fence h1 .endEntry)
  | .fenceComplete .., _, _ => .fenceComplete h
  | .carr .., _, _ => .carr h
  | .cwait .., _, _ => .next (.syncIssue h .cwait)
  | .closureT3Expiry .., _, _ => .ite (.next (.closureFail (.log (.count h)))) (.next h)
  | .shnd .., _, _ => .next (.syncIssue h .queueOp)
  | .sjmp .., _, _ => .next (.syncIssue h .queueOp)
  | .sldc .., _, _ => .next (.syncIssue h .queueOp)
  | .send .., _, _ => .next (.syncIssue h fun h1 => .endedCheck (.queueOp h1))
  | .queueFetchFault .., _, _ => .queueFetchFault h
  | .xget .., _, _ => .next (.xIssue h)
  | .xput .., _, _ => .next (.xIssue h)
  | .xatom .., _, _ => .next (.xIssue h)
  | .archiveSliceServe .., _, _ => .archiveSliceServe h
  | .archiveRequestComplete .., _, _ => .archiveRequestComplete h
  | .archiveT1Expiry .., _, _ => .archiveT1Expiry h
  | .fieldbookScrub .., _, _ => .fieldbookScrub h
  | .archivePatrolScrub .., _, _ => .archivePatrolScrub h
  | .bar2Read .., _, _ => .bar2Read h
  | .bar2Write .., _, _ => .bar2Write h
  | .barAtomicopRequest .., _, _ => .next (.answer h)
  | .shelfModeChangeDone .., _, _ => .shelfModeChangeDone h
  | .fpScanDone .., _, _ => .next (.fpScanEnd h)
  | .hbmTempReading .., _, _ => .hbmTempReading h
  | .hbmPatrolRead .., _, _ => .hbmPatrolRead h
  | .hbmEcsRead .., _, _ => .next (.count (.setStack h))
  | .hbmSoftRepair .., _, _ => .ite (.next (.count (.setStack h))) (.next h)
  | .binderyDispatch .., _, _ => .ite (.next h) (.next (.bndScan h))
  | .binderyWaitExpiry .., _, _ => .binderyWaitExpiry h
  | .bEnd .., _, _ => .bEnd h
  | .bOpt .., _, _ => .next (.bndOperate h)
  | .bReq .., _, _ => .next (.bndOperate h)
  | .bAmax .., _, _ => .next (.bndOperate h)
  | .bFpr .., _, _ => .next (.bndOperate h)
  | .bGath .., _, _ => .next (.bndOperate h)
  | .bScat .., _, _ => .next (.bndOperate h)
  | .bJmp .., _, _ => .bJmp h
  | .binderyDescriptorDone .., _, _ => .binderyDescriptorDone h
  | .frameSend .., _, _ => .frameSend h
  | .frameReceive .., _, _ => .frameReceive h
  | .trainingFrameReceive .., _, _ => .trainingFrameReceive h
  | .replayPendingExpiry .., _, _ => .ite (.next (.linkLost h)) (.next h)
  | .trainingLimitExpiry .., _, _ => .ite (.next (.trainingFails h)) (.next h)
  | .laneSignalChange .., _, _ => .laneSignalChange h
  | .retrain .., _, _ => .next (.foldl .trainIfEnabled h)
  | .wenPortDisable .., _, _ => .next (.portDisable h)
  | .subportQuiesceDone .., _, _ => .ite (.next (.subportDown h)) (.ite (.next (.followDown h)) (.next h))
  | .packetForward .., _, _ => .ite (.next (.reject (.take h))) (.ite (.next h) (.next (.routePacket (.take h))))
  | .data .., _, _ => .ite (.next h) (.next (.onPacket h .onData))
  | .cack .., _, _ => .next (.onPacket h .onCack)
  | .notice .., _, _ => .next (.onPacket h .takeNotice)
  | .epoch .., _, _ => .next (.onPacket h .onEpoch)
  | .benchmark .., _, _ => .next (.onPacket h .onToken)
  | .arrive .., _, _ => .next (.onPacket h .onArrive)
  | .complete .., _, _ => .next (.onPacket h .onComplete)
  | .fail .., _, _ => .next (.onPacket h .onFail)
  | .slipred .., _, _ => .next (.onPacket h .onSlipred)
  | .stentry .., _, _ => .stentry h
  | .stake .., _, _ => .next (.onPacket h .onStake)
  | .stjoin .., _, _ => .stjoin h
  | .stleave .., _, _ => .next (.onFw h fun h1 => .upd h1)
  | .routepush .., _, _ => .next (.onFw h fun h1 => .iteFst h1 (.iteFst h1 (.routeLoad h1)))
  | .relay .., _, _ => .next (.onFw h fun h1 => .ite (.upd h1) h1)
  | .mack .., _, _ => .next (.onPacket h fun h1 => .ite h1 (.ite (.reject h1) (.onMack h1)))
  | .fwmsgRetryExpiry .., _, _ => .fwmsgRetryExpiry h
  | .colOpen .., _, _ => .colOpen h
  | .admissionRound .., _, _ => .next (.foldl .admitCol h)
  | .colClose .., _, _ => .colClose h
  | .colArm .., _, _ => .colArm h
  | .colStart .., _, _ => .colStart h
  | .colTileAccept .., _, _ => .colTileAccept h
  | .permScratchCopy .., _, _ => .permScratchCopy h
  | .colRunComplete .., _, _ => .colRunComplete h
  | .colT3Expiry .., _, _ => .colT3Expiry h
  | .bearingRunStart .., _, _ => .next (.runSet h)
  | .bearingRunStop .., _, _ => .next (.runStop h)
  | .bearingUnlock .., _, _ => .next (.ite (.datumRuns (.roleChange h)) (.tpvClear h))
  | .bearingTop .., _, _ => .ite (.next (.upd (.timeAt h))) (.next (.timeAt h))
  | .benchmarkEmit .., _, _ => .ite (.next (.emitToken (.timeAt h))) (.next (.timeAt h))
  | .bearingCoast .., _, _ => .ite (.next (.upd (.timeAt h))) (.next (.timeAt h))
  | .bearingLost .., _, _ => .bearingLost h
  | .brgStkCommit .., _, _ => .next (.ite (.stakeoutBar0 h) (.hostFault h))
  | .setstake .., _, _ => .next (.fires h fun h1 => .unlessDrained h1 .setStakeAction)
  | .snap .., _, _ => .snap h
  | .ctxstart .., _, _ => .next (.fires h fun h1 => .unlessD3 h1 fun h2 => .unlessDrained h2 .ctxIssue)
  | .ctxpre .., _, _ => .next (.fires h fun h1 => .unlessD3 h1 .ctxIssue)
  | .oppointAction .., _, _ => .oppointAction h
  | .filler .., _, _ => .filler h
  | .fpflush .., _, _ => .next (.fires h .fpFlushRange)
  | .phasemark .., _, _ => .next (.fires h .phaseMark)
  | .stepEdge .., _, _ => .ite (.next (.timeAt h)) (.ite (.next (.count (.timeAt h))) (.next (.upd (.timeAt h))))
  | .catSeedRequest .., _, _ => .catSeedRequest h
  | .ctxSliceInDone .., _, _ => .ite (.next (.sliceInDone (.imageAccess (.copyReport h)))) (.next h)
  | .ctxSliceOutDone .., _, _ => .ite (.next (.sliceOutDone (.imageAccess (.copyReport h)))) (.next h)
  | .ctxParked .., _, _ => .ite (.next (.parked (.xPark (.bndPark h)))) (.next h)
  | .submissionDoorbell .., _, _ => .next (.subDoorbell h)
  | .receiptDoorbell .., _, _ => .next (.rcpDoorbell h)
  | .directWord .., _, _ => .next (.directWrite h)
  | .submissionRingEnable .., _, _ => .next (.hostWrite h .subEnable)
  | .receiptRingEnable .., _, _ => .next (.hostWrite h .rcpEnable)
  | .commandFetch .., _, _ => .commandFetch h
  | .receiptSignalTimer .., _, _ => .ite (.next (.signal (.setRcp h))) (.next h)
  | .commandT4Expiry .., _, _ => .commandT4Expiry h
  | .nop .., _, _ => .next (.command h .finish)
  | .identify .., _, _ => .next (.command h fun h1 => .ite (.finish h1) (.finish (.hostOut h1)))
  | .health .., _, _ => .next (.command h .finish)
  | .warmReset .., _, _ => .next (.command h fun h1 => .requestWarm (.begin h1))
  | .faultLogRead .., _, _ => .next (.command h fun h1 => .ite (.finish h1) (.finish (.hostOut h1)))
  | .shelfPartition .., _, _ => .shelfPartition h
  | .binderyRun .., _, _ => .binderyRun h
  | .binderyRestart .., _, _ => .binderyRestart h
  | .catConfig .., _, _ => .next (.command h fun h1 => .ite (.finish h1) (.finish (.catCommand h1)))
  | .catSave .., _, _ => .catSave h
  | .catLoad .., _, _ => .catLoad h
  | .catUnseed .., _, _ => .next (.command h fun h1 => .ite (.finish h1) (.finish (.catCommand h1)))
  | .fpFlush .., _, _ => .next (.command h fun h1 => .ite (.finish h1) (.finish (.fpFlushRange h1)))
  | .ownerSet .., _, _ => .next (.command h fun h1 => .ite (.finish (.upd h1)) (.finish h1))
  | .ctxLoad .., _, _ => .ctxLoad h
  | .ctxUnload .., _, _ => .ctxUnload h
  | .ctxStart .., _, _ => .next (.command h fun h1 => .ite (.finish h1) (.ctxIssue (.begin h1)))
  | .ctxPreempt .., _, _ => .next (.command h fun h1 => .ite (.finish h1) (.ctxIssue (.begin h1)))
  | .queueResume .., _, _ => .queueResume h
  | .fabricSetup .., _, _ => .fabricSetup h
  | .routeLoad .., _, _ => .next (.command h fun h1 => .ite (.finish h1) (.finish (.routeLoad h1)))
  | .stractSetup .., _, _ => .stractSetup h
  | .stractRelease .., _, _ => .stractRelease h
  | .closureSetup .., _, _ => .closureSetup h
  | .closureRelease .., _, _ => .closureRelease h
  | .stakeoutWrite .., _, _ => .stakeoutWrite h
  | .stakeoutRead .., _, _ => .next (.command h .finish)
  | .powerCap .., _, _ => .powerCap h
  | .oppoint .., _, _ => .oppoint h
  | .fillerProfile .., _, _ => .next (.command h fun h1 => .ite (.finish h1) (.finish (.upd h1)))
  | .throttleLogRead .., _, _ => .next (.command h fun h1 => .ite (.finish h1) (.finish (.hostOut h1)))
  | .snapshot .., _, _ => .snapshot h
  | .freeze .., _, _ => .next (.command h fun h1 => .finish (.setCtr h1 Ctr.fieldsOk_hold))
  | .thaw .., _, _ => .next (.command h fun h1 => .finish (.setCtr h1 Ctr.fieldsOk_thaw))
  | .ctrRead .., _, _ => .next (.command h fun h1 => .ite (.finish h1) (.finish (.hostOut h1)))
  | .snapshotCopyDone .., _, _ => .snapshotCopyDone h
  | .survey .., _, _ => .next (.command h fun h1 => .ite (.finish h1) (.ite (.finish h1) (.finish (.surveyed h1))))
  | .replayStep .., _, _ => .replayStep h
  | .drain .., _, _ => .next (.command h fun h1 => .finish (.drainDevice h1))
  | .waitLimits .., _, _ => .waitLimits h
  | .unitQuiesce .., _, _ => .unitQuiesce h
  | .quiesceAcceptedDone .., _, _ => .quiesceAcceptedDone h
  | .quiesceBoundExpiry .., _, _ => .quiesceBoundExpiry h
  | .unitReset .., _, _ => .unitReset h
  | .unitResume .., _, _ => .unitResume h
  | .spareSwap .., _, _ => .spareSwap h
  | .attest .., _, _ => .next (.command h fun h1 => .finish (.hostOut h1))
  | .identityRead .., _, _ => .next (.command h fun h1 => .finish (.hostOut h1))
  | .debugOpen .., _, _ => .debugOpen h
  | .imageStage .., _, _ => .imageStage h
  | .imageActivate .., _, _ => .imageActivate h
  | .imageQuery .., _, _ => .next (.command h fun h1 => .ite (.finish h1) (.finish h1))
  | .powerUpdate .., _, _ => .powerUpdate h
  | .thermalReading .., _, _ => .thermalReading h
  | .tceilUpdate .., _, _ => .tceilUpdate h
  | .oppSwitch .., _, _ => .oppSwitch h
  | .oppVoltageRampDone .., _, _ => .oppVoltageRampDone h
  | .droopDetect .., _, _ => .next (.upd h)
  | .droopStretchEnd .., _, _ => .ite (.next h) (.next (.upd h))
  | .droopEventEnd .., _, _ => .droopEventEnd h
  | .extThrottleChange .., _, _ => .next (.upd h)
  | .fillerRelease .., _, _ => .fillerRelease h
  | .watchdogExpiry .., _, _ => .watchdogExpiry h
  | .logEntryClose .., _, _ => .next (.upd h)
  | .healthReportTimer .., _, _ => .ite (.next (.report h)) (.next h)
  | .fieldReportRepeat .., _, _ => .fieldReportRepeat h
  | .spdmMessage .., _, _ => .spdmMessage h
  | .jobKeyMessage .., _, _ => .jobKeyMessage h
  | .tapInstruction .., _, _ => .tapInstruction h
  | .input50vChange .., _, _ => .next (.upd h)
  | .input12vChange .., _, _ => .ite (.next (.upd h)) (.ite (.next (.standbyLost h)) (.next h))
  | .hostReset .., _, _ => .next (.hostReset h)
  | .flr .., _, _ => .next (.hostReset h)
  | .d3hotEntry .., _, _ => .d3hotEntry h
  | .d0Entry .., _, _ => .next (.toD0 h)
  | .domainGate .., _, _ => .ite (.next (.upd h)) (.next h)
  | .refClockWindow .., _, _ => .refClockWindow h
  | .counterDeltaMove .., _, _ => .counterDeltaMove h
  | .smbusHealthRead .., _, _ => .next (.smbus h)
  | .smbusSerialRead .., _, _ => .next (.smbus h)
  | .smbusStationRead .., _, _ => .next (.smbus h)
  | .smbusLogCursorWrite .., _, _ => .ite (.next (.upd h)) (.next h)
  | .smbusLogEntryRead .., _, _ => .ite (.next (.upd (.smbus h))) (.next h)
  | .smbusPcntRead .., _, _ => .next (.smbus h)
  | .smbusAlertResponse .., _, _ => .ite (.next (.upd (.smbus h))) (.next h)
  | .equalisationDone .., _, _ => .ite (.next h) (.ite (.next (.setPort h)) (.next (.trainingFails h)))
  | .catalogueWrapProcessingDone .., _, _ => .ite (.next h) (.next (.foldl .mRetry (.foldl .seedRequest (.upd h))))
  | .managementPortLinkChange .., _, _ => .next (.upd h)
  | .msiXTableWrite .., _, _ => .next (.bar4Write h)
  | .mrstAssert, hm, _ => absurd rfl hm
  | .coldReset, _, hc => absurd rfl hc

/-- Every command keeps what no command takes back, once the locks are cleared. -/
theorem exec_keeps_unlocked {s : State} (c : Instr) : KeepsNext s.unlocked (exec c s) := by
  by_cases hm : c = .mrstAssert
  · subst hm; exact .mrstAssert
  · by_cases hc : c = .coldReset
    · subst hc; exact .coldReset
    · exact exec_keeps .unlocked c hm hc

end Sys2Proof.Machine

section

open Sys2Proof Sys2Proof.Machine

/-- Settles O5: every command keeps the fields in range, by the lemma of each command; the idle step changes nothing. -/
theorem stepKeepsFields : Obligations.StepKeepsFields := by
  intro s t e hs
  unfold step at e
  split at e
  · cases e; exact hs
  · next c rest _ => exact (exec_keeps_unlocked (s := { s with pending := rest }) c t e).fields hs

/-- Settles O6: the lemma of each command; the two that clear the locks keep the rest. -/
theorem fusesAndLocks : Obligations.FusesAndLocks := by
  intro s t c e
  obtain ⟨-, hfuse, hflag, harb, -, -⟩ := exec_keeps_unlocked c t e
  refine ⟨hfuse, hflag, harb, fun hm hc => ?_⟩
  obtain ⟨-, -, -, -, hstation, hdomain⟩ := exec_keeps .refl c hm hc t e
  exact ⟨hstation, hdomain⟩

end

namespace Sys2Proof.Machine

/-! # Accesses of BAR0 and of the MSI-X table (O7, O46) -/

/-! ### What an event and a report leave of the fault log -/

/-- Nothing differs but host memory, the command interface, the counters and what was sent. -/
def EventOnly (s t : State) : Prop := t = { s with host := t.host, cmd := t.cmd, ctr := t.ctr, out := t.out }

namespace EventOnly

variable {s t u : State}

theorem refl : EventOnly s s := rfl

theorem trans (h : EventOnly s t) (g : EventOnly t u) : EventOnly s u := by
  unfold EventOnly at *; rw [g, h]

theorem flt (h : EventOnly s t) : t.flt = s.flt := by rw [h]

theorem ite {c : Prop} [Decidable c] (h : EventOnly s t) (g : EventOnly s u) : EventOnly s (if c then t else u) := by
  split <;> assumption

theorem signal {v} (h : EventOnly s t) : EventOnly s (t.signal v) := .ite (h.trans rfl) (h.trans rfl)
theorem signalRing {q} (h : EventOnly s t) : EventOnly s (t.signalRing q) := .ite (.signal (h.trans rfl)) h
theorem putReceipt {r} (h : EventOnly s t) : EventOnly s (t.putReceipt r) := .ite h (.signalRing (h.trans rfl))
theorem eventPut {k st bs} (h : EventOnly s t) : EventOnly s (t.eventPut k st bs) := .putReceipt (h.trans rfl)
theorem lostEvents (h : EventOnly s t) : EventOnly s t.lostEvents := .ite (.eventPut (h.trans rfl)) h

theorem event {k st bs} (h : EventOnly s t) : EventOnly s (t.event k st bs) :=
  .ite (.eventPut h) (.lostEvents (h.trans rfl))

end EventOnly

theorem State.placePacket_flt {s : State} {k : Packet} {i : Nat} : (s.placePacket k i).1.flt = s.flt := by
  unfold State.placePacket
  split
  · rfl
  · split
    · exact (apply_ite State.flt ..).trans (ite_self _)
    · rfl

theorem State.sendOn_flt {s : State} {k : Packet} : (s.sendOn k).flt = s.flt := by
  unfold State.sendOn State.routePacket
  have h : (s.placePacket k 128).1.flt = s.flt := State.placePacket_flt
  split
  · next e => rwa [e] at h
  · next e =>
    rw [e] at h
    unfold State.noticeOf
    split
    · exact State.placePacket_flt.trans h
    · exact h

theorem State.reportOut_flt {s : State} {bs : List Byte} : (s.reportOut bs).flt = s.flt := by
  unfold State.reportOut
  split
  · rfl
  · split
    · exact State.sendOn_flt
    · rfl

/-- A report leaves the fault log as it is. -/
theorem State.report_flt {s : State} {k sev : Nat} {bs : List Byte} :
    ∃ r d x y z, (s.report k sev bs).flt =
      { s.flt with rseq := r, frDropped := d, frSecond := x, frSent := y, repeats := z } := by
  unfold State.report
  extract_lets sec sent src bs' f
  split
  · exact ⟨_, _, _, _, _, rfl⟩
  · exact ⟨_, _, _, _, _, State.reportOut_flt⟩

/-- With the management port up a report goes out of it. -/
theorem State.report_up {s t : State} {k sev : Nat} {bs : List Byte} (h : EventOnly s t) (hup : s.mod.mgmtUp = true) :
    ∃ f n c m x, t.report k sev bs = { s with flt := f, ctr := n, cmd := c, host := m, out := x } := by
  unfold EventOnly at h
  have hup' : t.mod.mgmtUp = true := by rw [h]; exact hup
  unfold State.report
  extract_lets sec sent src bs' f
  split
  · exact ⟨_, _, _, _, _, by rw [h]; rfl⟩
  · refine ⟨f, (t.count (ctrDev 49)).ctr, t.cmd, t.host, .report bs' :: t.out, ?_⟩
    rw [State.reportOut, if_pos hup', h]
    rfl

/-! ### A host-access fault in the fault log -/

/-- The entry that a new fault makes. -/
theorem State.logNew_entry {s : State} {kind st sev u a r : Nat} :
    ∃ e, Map.find (s.logNew kind st sev u a r).flt.vlog (s.flt.next % 4096) = some e ∧ e.kind = kind ∧ e.count = 1 ∧
      e.index = s.flt.next ∧ e.addr = a ∧ e.req = r ∧ (s.logNew kind st sev u a r).flt.new = true := by
  unfold State.logNew
  extract_lets e src f kept mod md
  obtain ⟨_, _, _, _, _, hf⟩ := State.report_flt (k := 1) (sev := sev) (bs := e.bytes)
    (s := (State.count { s with flt := f, mod := md } (ctrDev 48)).event 5 st (toLE 4 e.index))
  rw [hf, EventOnly.refl.event.flt]
  exact ⟨e, Map.find_put .., rfl, rfl, rfl, rfl, rfl, rfl⟩

/-- With no entry open a host-access fault makes a new entry, with the offset in ADDR. -/
theorem State.hostFault_entry {s : State} {a : Nat} (h : s.flt.openIx = []) :
    ∃ e, Map.find (s.hostFault a).flt.vlog (s.flt.next % 4096) = some e ∧ e.kind = 0x0001 ∧ e.count = 1 ∧
      e.index = s.flt.next ∧ e.addr = a ∧ e.req = 0 ∧ (s.hostFault a).flt.new = true := by
  have hn : s.hostFault a = s.logNew 0x0001 0 0 0xFFFFFFFF a 0 := by simp [State.hostFault, State.log, h]
  rw [hn]
  exact State.logNew_entry

/-- A fault of severity 0 raises no alert: with the management port up nothing but the fault state, the counters, the
command interface, host memory and the outputs changes. -/
theorem State.hostFault_up {s : State} {a : Nat} (h : s.mod.mgmtUp = true) :
    ∃ f n c m x, s.hostFault a = { s with flt := f, ctr := n, cmd := c, host := m, out := x } := by
  unfold State.hostFault State.log
  dsimp only
  split
  · exact ⟨_, _, _, _, _, rfl⟩
  · unfold State.logNew
    extract_lets e src f kept mod md
    exact State.report_up (s := { s with flt := f }) (.event rfl) h

theorem Map.find_mapVals {α : Type} {m : Map α} {f : Nat → α → α} {k : Nat} :
    Map.find (Map.mapVals m f) k = (Map.find m k).map (f k) := by
  induction m with
  | nil => rfl
  | cons kv m ih =>
    by_cases h : kv.1 = k
    · simp [Map.mapVals, Map.find, h]
    · simpa [Map.mapVals, Map.find, h] using ih

/-- A recurrence is counted in the entry open for it. -/
theorem State.hostFault_again {s : State} {a i : Nat} {e : LogEntry} (ho : s.flt.openIx = [i])
    (hf : Map.find s.flt.vlog (i % 4096) = some e) (hi : e.index = i) (hk : e.kind = 0x0001)
    (hu : e.unit = 0xFFFFFFFF) (ha : e.addr = a) :
    Map.find (s.hostFault a).flt.vlog (i % 4096) = some { e with count := e.count + 1 } ∧
      (s.hostFault a).flt.next = s.flt.next := by
  have hx : (s.flt.openIx.findSome? fun j => (Map.find s.flt.vlog (j % 4096)).filter fun x =>
      (x.kind == 0x0001 && x.unit == 0xFFFFFFFF && x.addr == a) && x.index == j) = some e := by
    simp [ho, hf, hi, hk, hu, ha, Option.filter]
  simp only [State.hostFault, State.log, hx, Map.find_mapVals, hf]
  simp

/-! ### Accesses of BAR0 -/

/-- A write that names no register, or one of a domain that is OFF. -/
theorem State.bar0Write_refused {s : State} {o size v : Nat}
    (h : s.regsAt o size = none ∨ ∃ rs, s.regsAt o size = some rs ∧ s.regOff rs = true) :
    s.bar0Write o size v = s.hostFault o := by
  unfold State.bar0Write
  obtain h | ⟨rs, h, hoff⟩ := h
  · rw [h]
  · simp only [h, hoff, if_true]

/-- The same of a read. -/
theorem State.bar0Read_refused {s : State} {o size : Nat}
    (h : s.regsAt o size = none ∨ ∃ rs, s.regsAt o size = some rs ∧ s.regOff rs = true) :
    s.bar0Read o size = (s.hostFault o).answer (.readData (List.replicate size 0)) := by
  unfold State.bar0Read
  obtain h | ⟨rs, h, hoff⟩ := h
  · rw [h]
  · simp only [h, hoff, if_true]

theorem State.regsAt_size {s : State} {o size : Nat} (h4 : size ≠ 4) (h8 : size ≠ 8) : s.regsAt o size = none := by
  simp [State.regsAt, h4, h8]

theorem State.regsAt_word {s : State} {o : Nat} (h : o % 4 ≠ 0 ∨ regAt o = none) : s.regsAt o 4 = none := by
  obtain h | h := h <;> simp [State.regsAt, h]

theorem State.regsAt_unaligned {s : State} {o : Nat} (h : o % 8 ≠ 0) : s.regsAt o 8 = none := by
  simp [State.regsAt, h]

/-- A 64-bit access is refused where a word of it holds no register and it does not name a pair. -/
theorem State.regsAt_half {s : State} {o : Nat}
    (h : regAt o = none ∨ ((regAt o).all (fun x => x.2 != 1) = true ∧ regAt (o + 4) = none)) :
    s.regsAt o 8 = none := by
  unfold State.regsAt
  extract_lets one
  refine (if_neg (by decide)).trans (ite_eq_right_iff.mpr fun _ => ?_)
  obtain h | ⟨h, h'⟩ := h
  · simp [one, h]
  · have hhi : one (o + 4) = none := by simp [one, h']
    rw [hhi]
    split
    · next r _ e =>
      have hr := (Option.filter_eq_some_iff.mp e).1
      simp [hr] at h
    · next e => cases e
    · rfl

/-- A write of a whole 32-bit register whose clock domain never stops. -/
theorem State.bar0Write_word {s : State} {o v : Nat} {r : Reg} (hready : s.mod.ready = true) (ho : o % 4 = 0)
    (hr : regAt o = some (r, 0)) (hc : r.clockDomain = none) :
    s.bar0Write o 4 v = (s.wakeRegs []).writeReg r (v % 2 ^ 32) := by
  simp [State.bar0Write, State.regsAt, State.regOff, State.wakeRegs, State.writePart, ho, hr, hready, hc,
    Option.filter]

/-- The same of a 64-bit pair. -/
theorem State.bar0Write_pair {s : State} {o v : Nat} {r : Reg} (hready : s.mod.ready = true) (ho : o % 8 = 0)
    (hr : regAt o = some (r, 1)) (hc : r.clockDomain = none) :
    s.bar0Write o 8 v = (s.wakeRegs []).writeReg r v := by
  simp [State.bar0Write, State.regsAt, State.regOff, State.wakeRegs, State.writePart, ho, hr, hready, hc,
    Option.filter]

theorem regAt_scratch : ∀ k : Fin 4, regAt (0x180 + 4 * k.val) = some (.scratch k.val, 0) := by decide +kernel
theorem regAt_sqbase : ∀ q : Fin 64, regAt (0x10000 + 8 * q.val) = some (.sqbase q.val, 1) := by decide +kernel

/-! ### Accesses of the MSI-X table -/

theorem State.bar4Write_msix {s : State} {w v : Nat} (hready : s.mod.ready = true) (hw : w < 8256) (hv : v < 2 ^ 32) :
    s.bar4Write (0xF00000 + 4 * w) 4 v = s.msixWrite w v := by
  have hx : msixWords (0xF00000 + 4 * w) 4 = some [w] := by
    have h1 : ¬(0xF00000 + 4 * w < 0xF00000 ∨ 0xF08100 < 0xF00000 + 4 * w + 4 ∨ (0xF00000 + 4 * w) % 4 ≠ 0) := by
      omega
    have h2 : (0xF00000 + 4 * w - 0xF00000) / 4 = w := by omega
    simp only [not_or] at h1
    simp [msixWords, h1]
  have hv' : v / 2 ^ (32 * 0) % 2 ^ 32 = v := by rw [Nat.mul_zero, Nat.pow_zero, Nat.div_one, Nat.mod_eq_of_lt hv]
  simp only [State.bar4Write, hx, hready, if_true, List.zipIdx_cons, List.zipIdx_nil, List.foldl, hv']

/-- A word other than a vector's control word keeps what is written. -/
theorem State.msixWrite_data {s : State} {w v : Nat} (hw : w < 8192) (h : w % 4 ≠ 3) :
    s.msixWrite w v = { s with cmd := { s.cmd with msix := Map.putD s.cmd.msix w v 0 } } := by
  simp [State.msixWrite, Nat.not_le_of_lt hw, h]

/-- Unmasking a vector with its pending bit set sends its message and clears the bit. -/
theorem State.msixWrite_unmask {s : State} {w v : Nat} (hw : w < 8192) (h : w % 4 = 3) (hv : v.testBit 0 = false)
    (hp : (Map.find s.cmd.pba (w / 4)).isSome = true) :
    s.msixWrite w v = { s with out := .msix (w / 4) :: s.out, cmd := { s.cmd with
      msix := Map.putD s.cmd.msix w v 1, pba := Map.del s.cmd.pba (w / 4) } } := by
  have hctl : 4 * (w / 4) + 3 = w := by omega
  have hmask : CmdIf.vecMasked { s.cmd with
      msix := Map.putD s.cmd.msix w v 1, pba := Map.del s.cmd.pba (w / 4) } (w / 4) = false := by
    simpa only [CmdIf.vecMasked, hctl, Map.getD_putD_self] using hv
  simp [State.msixWrite, State.signal, Nat.not_le_of_lt hw, h, hv, hp, hmask]

/-- The pending-bit array is read-only. -/
theorem State.msixWrite_pba {s : State} {w v : Nat} (hw : 8192 ≤ w) : s.msixWrite w v = s := if_pos hw

/-! ### The field rules of a write -/

theorem State.writeReg_cap {s : State} {v : Nat} : s.writeReg .cap (v % 2 ^ 32) = { s with pwr := { s.pwr with
    cap := if 1800 ≤ bitsOf v 0 13 ∧ bitsOf v 0 13 ≤ 5200 then bitsOf v 0 13 else s.pwr.cap
    mode := v.testBit 13 } } := by
  have hb : bitsOf (v % 2 ^ 32) 0 13 = bitsOf v 0 13 := by simp only [bitsOf]; omega
  have ht : (v % 2 ^ 32).testBit 13 = v.testBit 13 := Nat.testBit_mod_two_pow ..
  simp only [State.writeReg, State.writeReg1, State.writeReg2, hb, ht, pick, Bool.and_eq_true, decide_eq_true_eq]

theorem State.writeReg_logStat {s : State} {v : Nat} : s.writeReg .logStat (v % 2 ^ 32) =
    { s with flt := { s.flt with new := s.flt.new && !v.testBit 24 } } := by
  have ht : (v % 2 ^ 32).testBit 24 = v.testBit 24 := Nat.testBit_mod_two_pow ..
  simp only [State.writeReg, State.writeReg1, State.writeReg2, ht]

/-- Outside D3hot an access of registers whose domains never stop wakes nothing. -/
theorem State.wakeRegs_nil {s : State} (h : s.d3hot = false) : s.wakeRegs [] = s := by
  simp only [State.wakeRegs, List.filterMap_nil, List.foldl_nil, if_neg (Bool.eq_false_iff.mp h)]

/-- A 32-bit write of a register whose domain never stops. -/
theorem exec_regWrite_word {s : State} {o : Nat} {r : Reg} (hready : s.mod.ready = true) (hlt : o < 2 ^ 26)
    (ho : o % 4 = 0) (hr : regAt o = some (r, 0)) (hc : r.clockDomain = none) (v : BitVec 64) :
    exec (.regWrite (BitVec.ofNat 26 o) false v) s = .next ((s.wakeRegs []).writeReg r (v.toNat % 2 ^ 32)) := by
  have e : (BitVec.ofNat 26 o).toNat = o := Nat.mod_eq_of_lt hlt
  change Host.Outcome.next (s.bar0Write (BitVec.ofNat 26 o).toNat 4 v.toNat) = _
  rw [e, State.bar0Write_word hready ho hr hc]

/-- A word of the MSI-X table or of the pending-bit array written. -/
theorem exec_msiXTableWrite {s : State} {w : Nat} (hready : s.mod.ready = true) (hw : w < 8256) (v : BitVec 32) :
    exec (.msiXTableWrite (BitVec.ofNat 26 (0xF00000 + 4 * w)) v) s = .next (s.msixWrite w v.toNat) := by
  have e : (BitVec.ofNat 26 (0xF00000 + 4 * w)).toNat = 0xF00000 + 4 * w := Nat.mod_eq_of_lt (by omega)
  change Host.Outcome.next (s.bar4Write (BitVec.ofNat 26 (0xF00000 + 4 * w)).toNat 4 v.toNat) = _
  rw [e, State.bar4Write_msix hready hw v.isLt]

/-- SCRATCH takes any value. -/
theorem exec_regWrite_scratch {s : State} (hready : s.mod.ready = true) (k : Fin 4) (v : BitVec 64) :
    exec (.regWrite (BitVec.ofNat 26 (0x180 + 4 * k.val)) false v) s =
      .next { s.wakeRegs [] with scratch := s.scratch.set k.val (v.toNat % 2 ^ 32) } :=
  exec_regWrite_word hready (by omega) (by omega) (regAt_scratch k) rfl v

/-- The base of a ring, a 64-bit pair, takes one 64-bit write while the ring is not enabled. -/
theorem exec_regWrite_sqbase {s : State} (hready : s.mod.ready = true) (q : Fin 64) (v : BitVec 64) :
    exec (.regWrite (BitVec.ofNat 26 (0x10000 + 8 * q.val)) true v) s = .next (if (s.sub q.val).en then s.wakeRegs []
      else (s.wakeRegs []).setSub q.val { s.sub q.val with base := v.toNat / 4096 * 4096 }) := by
  have e : (BitVec.ofNat 26 (0x10000 + 8 * q.val)).toNat = 0x10000 + 8 * q.val := Nat.mod_eq_of_lt (by omega)
  change Host.Outcome.next (s.bar0Write (BitVec.ofNat 26 (0x10000 + 8 * q.val)).toNat 8 v.toNat) = _
  rw [e, State.bar0Write_pair hready (by omega) (regAt_sqbase q) rfl]
  rfl

/-- Unmasking a pending vector sends it. -/
theorem exec_msiXTableWrite_unmask {s : State} (hready : s.mod.ready = true) (w : Fin 8192) (v : BitVec 32)
    (hw : w.val % 4 = 3) (hv : v.toNat.testBit 0 = false) (hp : (Map.find s.cmd.pba (w.val / 4)).isSome = true) :
    ∃ t, exec (.msiXTableWrite (BitVec.ofNat 26 (0xF00000 + 4 * w.val)) v) s = .next t ∧
      t.out = .msix (w.val / 4) :: s.out ∧ Map.find t.cmd.pba (w.val / 4) = none ∧
      Map.getD t.cmd.msix w.val 1 = v.toNat := by
  refine ⟨_, exec_msiXTableWrite hready (by omega) v, ?_⟩
  rw [State.msixWrite_unmask w.isLt hw hv hp]
  exact ⟨rfl, by simp [Map.find_del], Map.getD_putD_self ..⟩

/-- The pending-bit array takes no write. -/
theorem exec_msiXTableWrite_pba {s : State} (hready : s.mod.ready = true) (w : Fin 64) (v : BitVec 32) :
    exec (.msiXTableWrite (BitVec.ofNat 26 (0xF08000 + 4 * w.val)) v) s = .next s := by
  have e : 0xF08000 + 4 * w.val = 0xF00000 + 4 * (8192 + w.val) := by omega
  rw [e, exec_msiXTableWrite hready (by omega), State.msixWrite_pba (by omega)]

end Sys2Proof.Machine

section

open Sys2Proof Sys2Proof.Machine

/-- Settles O7: each kind of refused access names no register, and the fault log takes the entry. -/
theorem invalidAccesses : Obligations.InvalidAccesses := by
  intro s off size v o h
  have hr : s.regsAt o size = none := by
    obtain ⟨h4, h8⟩ | ⟨rfl, h⟩ | ⟨rfl, h | ⟨h, -⟩⟩ := h
    · exact State.regsAt_size h4 h8
    · exact State.regsAt_word h
    · exact State.regsAt_unaligned h
    · exact State.regsAt_half (.inl h)
  refine ⟨congrArg _ (State.bar0Write_refused (.inl hr)), congrArg _ (State.bar0Read_refused (.inl hr)), fun hn => ?_,
    State.hostFault_up⟩
  obtain ⟨e, hfind, hkind, hcount, hindex, -, -, hnew⟩ := State.hostFault_entry hn
  exact ⟨e, hfind, hkind, hcount, hindex, hnew⟩

/-- Settles O46: each register by the lemma of its write, refused accesses and the log entry by the lemmas of O7. -/
theorem registerAccesses : Obligations.RegisterAccesses := by
  refine ⟨fun s => ⟨⟨rfl, State.wakeRegs_nil⟩, fun hready => ?_, fun off wide v rs hrs hoff => ?_,
    fun off wide v hrs => ?_, fun hready w v => ⟨fun hw => ?_, exec_msiXTableWrite_unmask hready w v⟩,
    exec_msiXTableWrite_pba⟩, fun s off size v => ⟨fun h => ?_, fun hn => ?_, fun i e ho hf hi hk hu ha => ?_⟩⟩
  · refine ⟨exec_regWrite_scratch hready, exec_regWrite_sqbase hready, fun v => ?_, fun v => ?_, fun v => ⟨?_, ?_⟩⟩
    · exact (exec_regWrite_word (o := 0x40000) hready (by omega) (by omega) (by decide +kernel) rfl v).trans
        (congrArg _ State.writeReg_cap)
    · exact (exec_regWrite_word (o := 0x50020) hready (by omega) (by omega) (by decide +kernel) rfl v).trans
        (congrArg _ State.writeReg_logStat)
    · exact exec_regWrite_word (o := 0x100) (r := .status) hready (by omega) (by omega) (by decide +kernel) rfl v
    · exact exec_regWrite_word (o := 0x104) (r := .owner) hready (by omega) (by omega) (by decide +kernel) rfl v
  · exact congrArg _ (State.bar0Write_refused (.inr ⟨rs, hrs, hoff⟩))
  · exact congrArg _ (State.bar0Write_refused (.inl hrs))
  · rw [exec_msiXTableWrite hready (by omega), State.msixWrite_data w.isLt hw]
  · have hr : s.regsAt off.toNat size = none ∨ ∃ rs, s.regsAt off.toNat size = some rs ∧ s.regOff rs = true :=
      h.imp_left fun ⟨h8, h⟩ => h8 ▸ State.regsAt_half h
    exact ⟨congrArg _ (State.bar0Write_refused hr), congrArg _ (State.bar0Read_refused hr)⟩
  · obtain ⟨e, hfind, -, -, -, haddr, hreq, -⟩ := State.hostFault_entry hn
    exact ⟨e, hfind, haddr, hreq⟩
  · obtain ⟨hfind, hnext⟩ := State.hostFault_again ho hf hi hk hu ha
    exact ⟨_, hfind, rfl, hk, ha, hnext⟩

end

namespace Sys2Proof.Machine

/-! # The end of a run whose DONE stake lies in a unit out of service (O36)

R256 and R259 have a completion set the DONE stake. R414 has a unit that quiesces, or is quiesced, refuse every new request,
and the model refuses the set of DONE with the rest (`State.setRef`): such a run ends COMPLETE, and its stake stays as it
was. O36 does not ask that the unit of DONE be in service. -/

/-! ### What the record leaves as it was -/

theorem AccessOnly.flt {s t : State} (h : AccessOnly s t) : t.flt = s.flt := by rw [h]

theorem State.colClose_eng (s : State) (h : Nat) (c : Col) (st w : Nat) : (s.colClose h c st w).eng = s.eng := by
  unfold State.colClose
  split
  · exact (State.access_accessOnly ..).eng
  · rfl

theorem State.colClose_flt (s : State) (h : Nat) (c : Col) (st w : Nat) : (s.colClose h c st w).flt = s.flt := by
  unfold State.colClose
  split
  · exact (State.access_accessOnly ..).flt
  · rfl

/-- Which stakes are set is read from the units alone. -/
theorem State.stake_congr {s t : State} (h : t.eng = s.eng) (key i : Nat) : t.stake key i = s.stake key i := by
  simp only [State.stake, State.engOf, h]

/-- Whether a unit takes requests is read from the service states alone. -/
theorem State.unitBusy_congr {s t : State} (h : t.flt = s.flt) (u : Nat) : t.unitBusy u = s.unitBusy u := by
  simp only [State.unitBusy, State.svcOf, h]

/-! ### A completion whose DONE stake cannot be set -/

/-- A stake reference of a unit that takes no request is not set (R414). -/
theorem State.setRef_of_unitBusy {s : State} {c w : Nat} {a : Nat × Nat} (ha : stakeRef c w = some a)
    (hb : s.unitBusy (keyUnit a.1) = true) : s.setRef c w = s := by
  simp [State.setRef, ha, hb]

/-- COL_RUN_COMPLETE of a run that is done ends it (R259). -/
theorem exec_colRunComplete_of_done {s : State} {h : BitVec 12} {c : Col} (hc : s.col h.toNat = some c)
    (hrun : c.st = .running) (hdone : s.colDone c = true) (w : BitVec 48) :
    exec (.colRunComplete h w) s = .next (s.colComplete h.toNat c w.toNat) := by
  change execColRunComplete h w s = _
  simp [execColRunComplete, hc, hrun, hdone]

/-- Where DONE names a unit that takes no request, a completion sets no stake. -/
theorem exec_colRunComplete_stake_of_unitBusy {s t : State} {h : BitVec 12} {c : Col} {w : BitVec 48} {a : Nat × Nat}
    (e : exec (.colRunComplete h w) s = .next t) (hc : s.col h.toNat = some c) (hrun : c.st = .running)
    (hdone : s.colDone c = true) (hvote : (c.sums && s.badIn c.r.voteadr.toNat 1) = false)
    (ha : stakeRef c.r.ctx.toNat c.r.done.toNat = some a) (hb : s.unitBusy (keyUnit a.1) = true) (key i : Nat) :
    t.stake key i = s.stake key i := by
  rw [exec_colRunComplete_of_done hc hrun hdone] at e
  cases e
  rw [State.colComplete, if_neg (by rw [hvote]; exact Bool.false_ne_true),
    State.setRef_of_unitBusy ha ((State.unitBusy_congr (State.colClose_flt ..) _).trans hb)]
  exact State.stake_congr (State.colClose_eng ..) key i

/-! ### Such a run -/

/-- A SLIP collective of context 0 whose DONE stake is stake 3 of parcel 0. -/
def slipDoneRec : ColRec :=
  { handle := 5, ctx := 0, kind := 6, vl := 0, acls := 0, te := 0, tw := 0, sreq := 0, smin := 0, limit := 0, nmem := 0,
    zmode := false, stream := false, datumw := false, rank := 0, ntile := 0, sop := 0, sfmt := 0, slen := 4, plan := 0,
    src := 0x8000, scode := 0, dest := 0x4000, dcode := 0, sexp := 0, dtag := 0, rcnt := 0, scr := 0, pin := 0, runadr := 0,
    cadr := 0x7000, voteadr := 0, votein := 0, scrlen := 0, rowb := 0, cap := 0, arm := 0, start := 0, done := 3 * 2 ^ 17,
    sparent := 0xFFFFFF }

/-- Its run, with the result written at DEST: everything that R259 asks of it. -/
def slipDone : Col :=
  { r := slipDoneRec, schild := [], limit := 0, acc := 0, waiting := false, grant := 0, reason := 0, st := .running, run := 1,
    cur := { ColRun.empty with result := true }, epochs := [], early := [] }

/-- Context 0 runs in the first order-2 tract, and parcel 0, where DONE lies, is quiesced. -/
def slipDoneQuiesced : State :=
  { State.reset with
    ctxs := [(0, { Ctx.free with st := .running, foot := 1 })]
    flt := { Flt.reset with svc := [(codeUnit 0, .quiesced)] }
    cols := [(5, slipDone)] }

theorem slipDone_stakeRef : stakeRef slipDone.r.ctx.toNat slipDone.r.done.toNat = some (engKey 0 0, 3) := by
  decide +kernel

theorem slipDoneQuiesced_unitBusy : slipDoneQuiesced.unitBusy (keyUnit (engKey 0 0)) = true := by
  decide

theorem slipDoneQuiesced_inFoot :
    inFoot (slipDoneQuiesced.ctx slipDone.r.ctx.toNat).foot (keyUnit (engKey 0 0)) = true := by
  decide

/-- COL_RUN_COMPLETE of the run leaves its DONE stake clear. -/
theorem slipDoneQuiesced_stake {w : BitVec 48} {t : State} (e : exec (.colRunComplete 5 w) slipDoneQuiesced = .next t) :
    (t.stake (engKey 0 0) 3).st = .clear :=
  congrArg Stake.st (exec_colRunComplete_stake_of_unitBusy (c := slipDone) e rfl rfl rfl rfl slipDone_stakeRef
    slipDoneQuiesced_unitBusy _ _)

end Sys2Proof.Machine

section

open Sys2Proof Sys2Proof.Machine

/-- Refutes O36: a run whose conditions hold ends COMPLETE with its DONE stake clear where the parcel of that stake is
quiesced (R414). -/
theorem not_collectiveEnds : ¬ Obligations.CollectiveEnds := by
  intro holds
  obtain ⟨-, -, completes, -⟩ := holds slipDoneQuiesced 5 slipDone rfl rfl rfl
  obtain ⟨t, hexec, -, hset, -⟩ := completes 0 (engKey 0 0, 3) rfl slipDone_stakeRef slipDoneQuiesced_inFoot rfl rfl
    rfl rfl
  rw [slipDoneQuiesced_stake hexec] at hset
  cases hset

end

namespace Sys2Proof.Machine

/-! # Products of finite nonzero operands (O9)

Both paths of R46 rest on one fact: a finite nonzero element decodes to m × 2^e with 0 < |m| < 2^24, so that it has a C-form.
For an L code, |m| is an entry of the antilog table, and its sign and log field are those of the code. -/

/-! ### The antilog table -/

theorem antilog_bounds : ∀ i < 256, 2 ^ 23 ≤ antilog i ∧ antilog i < 2 ^ 24 := by decide +kernel

/-- Bits [7:0] of any log select an entry with SIG[23] = 1. -/
theorem antilog_emod_bounds (s : Int) : 2 ^ 23 ≤ antilog (s % 256).toNat ∧ antilog (s % 256).toNat < 2 ^ 24 :=
  antilog_bounds _ (by omega)

theorem antilogVal_eq (neg : Bool) (s : Int) :
    antilogVal neg s = .fin (if neg then -(antilog (s % 256).toNat : Int) else antilog (s % 256).toNat) (s / 256 - 23) := rfl

theorem antilogVal_neg (neg : Bool) (s : Int) : (antilogVal neg s).neg = neg := by
  have hpos := (antilog_emod_bounds s).1
  cases neg <;> simp [antilogVal_eq, Val.neg]; omega

/-! ### What a finite nonzero element decodes to -/

theorem Val.mk_eq_fin {m e m' e' : Int} {neg : Bool} : Val.mk m e neg = .fin m' e' ↔ m ≠ 0 ∧ m = m' ∧ e = e' := by
  unfold Val.mk
  split <;> simp [*]

theorem decode_eq_decodeLog {f : Fmt} (hf : f.isLog = true) (c : Nat) (zp : Int) : decode f c zp = decodeLog f c := by
  cases f with
  | l4 | l8 | l16 => rfl
  | _ => cases hf

/-- A finite nonzero L code splits into the sign bit and the log field of its layout (R35, R36). -/
theorem splitLog_eq_of_fin {f : Fmt} {c : Nat} {m e : Int} (hf : f.isLog = true) (h : (splitLog f c).1 = .fin m e) :
    splitLog f c = (.fin (if c.testBit (logLay f).1 then -1 else 1) 0, c % 2 ^ (logLay f).1) := by
  cases f with
  | l4 | l8 | l16 =>
    simp only [splitLog] at h ⊢
    split_ifs at h ⊢ <;> trivial
  | _ => cases hf

/-- A finite nonzero L code decodes to the antilog of its unbiased log, with its sign (R37, R42). -/
theorem decode_log_of_fin {f : Fmt} {c : Nat} {zp m e : Int} (hf : f.isLog = true) (h : decode f c zp = .fin m e) :
    (splitLog f c).2 = c % 2 ^ (logLay f).1 ∧
    decode f c zp = antilogVal (c.testBit (logLay f).1) (unbias f (c % 2 ^ (logLay f).1)) := by
  rw [decode_eq_decodeLog hf] at h ⊢
  have hsplit : ∃ m' e', (splitLog f c).1 = .fin m' e' := by
    cases hv : (splitLog f c).1 with
    | fin m' e' => exact ⟨m', e', rfl⟩
    | nan | inf | zero => simp [decodeLog, hv] at h
  obtain ⟨m', e', hv⟩ := hsplit
  have hs := splitLog_eq_of_fin hf hv
  refine ⟨by rw [hs], ?_⟩
  simp only [decodeLog, hs]
  cases c.testBit (logLay f).1 <;> rfl

theorem fpLay_fbits_le (f : Fmt) : (fpLay f).fbits ≤ 23 := by cases f <;> decide

/-- The significand of a floating-point code fits SIG: at most 23 fraction bits and the implicit one (R30, R31). -/
theorem decodeFp_fin_bounds {f : Fmt} {c : Nat} {m e : Int} (h : decodeFp f c = .fin m e) :
    m ≠ 0 ∧ m.natAbs < 2 ^ 24 := by
  have hfrac : c % 2 ^ (fpLay f).fbits < 2 ^ (fpLay f).fbits := Nat.mod_lt _ (by positivity)
  have hfit : 2 ^ (fpLay f).fbits ≤ 2 ^ 23 := Nat.pow_le_pow_right (by decide) (fpLay_fbits_le f)
  have hcast : ((2 ^ (fpLay f).fbits : Nat) : Int) = 2 ^ (fpLay f).fbits := Nat.cast_pow ..
  simp only [decodeFp] at h
  split_ifs at h
  all_goals
    obtain ⟨hne, rfl, -⟩ := Val.mk_eq_fin.1 h
    exact ⟨hne, by omega⟩

/-- The stored integer of every integer format lies in -128 to 255 (R34). -/
theorem storedInt_bounds (f : Fmt) (c : Nat) : -128 ≤ storedInt f c ∧ storedInt f c ≤ 255 := by
  cases f <;> simp only [storedInt, sx] <;> omega

/-- A finite nonzero element is m × 2^e with a nonzero m of at most 24 bits (R42). -/
theorem decode_fin_bounds {f : Fmt} {c : Nat} {zp m e : Int} (hf : f.isTally = false) (hlo : -255 ≤ zp) (hhi : zp ≤ 255)
    (h : decode f c zp = .fin m e) : m ≠ 0 ∧ m.natAbs < 2 ^ 24 := by
  have ofLog (hlog : f.isLog = true) : m ≠ 0 ∧ m.natAbs < 2 ^ 24 := by
    have hv := (decode_log_of_fin hlog h).2
    rw [h, antilogVal_eq] at hv
    obtain ⟨rfl, -⟩ := Val.fin.inj hv
    have hb := antilog_emod_bounds (unbias f (c % 2 ^ (logLay f).1))
    split <;> omega
  have ofInt (g : Fmt) (hg : Val.mk (storedInt g c - zp) 0 = .fin m e) : m ≠ 0 ∧ m.natAbs < 2 ^ 24 := by
    obtain ⟨hne, rfl, -⟩ := Val.mk_eq_fin.1 hg
    have hb := storedInt_bounds g c
    exact ⟨hne, by omega⟩
  cases f with
  | fp32 | fp16 | bf16 | e4m3 | e5m2 | fp4 =>
    simp only [decode] at h
    exact decodeFp_fin_bounds h
  | s8 | u8 | s4 => exact ofInt _ h
  | l4 | l8 | l16 => exact ofLog rfl
  | t24 | t32 | t64 => cases hf

/-! ### C-forms -/

/-- A nonzero m of at most 24 bits is shifted until its leading one stands in SIG[23] (R41, R42). -/
theorem cForm_fin {m e : Int} (hne : m ≠ 0) (hlt : m.natAbs < 2 ^ 24) :
    CForm (.fin m e) (decide (m < 0)) (m.natAbs * 2 ^ (23 - m.natAbs.log2)) (e + m.natAbs.log2) := by
  have habs : m.natAbs ≠ 0 := Int.natAbs_ne_zero.2 hne
  have hlog : m.natAbs.log2 ≤ 23 := Nat.le_of_lt_succ ((Nat.log2_lt habs).2 hlt)
  have hpow (k : Nat) : 2 ^ (m.natAbs.log2 + k) * 2 ^ (23 - m.natAbs.log2) = 2 ^ (23 + k) := by
    rw [← pow_add]
    congr 1
    omega
  refine ⟨⟨?_, ?_⟩, m, e, rfl, ?_⟩
  · exact (hpow 0).symm.trans_le (Nat.mul_le_mul_right _ (Nat.log2_self_le habs))
  · exact (Nat.mul_lt_mul_of_pos_right Nat.lt_log2_self (by positivity)).trans_eq (hpow 1)
  · have hm : (m : ℚ) = (if decide (m < 0) then -1 else 1) * m.natAbs := by
      rw [Nat.cast_natAbs]
      by_cases hneg : m < 0
      · simp [hneg, abs_of_neg hneg]
      · simp [hneg, abs_of_nonneg (not_lt.1 hneg)]
    have he : (2 : ℚ) ^ e = 2 ^ (23 - m.natAbs.log2) * 2 ^ (e + m.natAbs.log2 - 23) := by
      rw [← zpow_natCast, ← zpow_add₀ two_ne_zero]
      congr 1
      omega
    rw [he]
    nth_rw 1 [hm]
    push_cast
    ring

/-! ### The two paths -/

/-- Two finite nonzero operands of blocks that are not NaN: the path is that of the pair of formats, and the scale exponents
are added to its result (R40, R46). -/
theorem product_of_fin {fa fb : Fmt} {a b : Nat} {za zb : Int} {xa xb : Option Nat} {ma ea mb eb : Int}
    (hxa : xa ≠ some 255) (hxb : xb ≠ some 255) (ha : decode fa a za = .fin ma ea) (hb : decode fb b zb = .fin mb eb) :
    product fa a za xa fb b zb xb =
      (if fa.isLog && fb.isLog then
        antilogVal ((decode fa a za).neg != (decode fb b zb).neg) (unbias fa (splitLog fa a).2 + unbias fb (splitLog fb b).2)
      else .fin (ma * mb) (ea + eb)).scale (scaleExp xa + scaleExp xb) := by
  simp only [product, if_neg hxa, if_neg hxb, ha, hb]
  split <;> rfl

/-- Sum-then-antilog (R47). -/
theorem product_log {fa fb : Fmt} {a b : Nat} {za zb : Int} {xa xb : Option Nat} {ma ea mb eb : Int}
    (hfa : fa.isLog = true) (hfb : fb.isLog = true) (hxa : xa ≠ some 255) (hxb : xb ≠ some 255)
    (ha : decode fa a za = .fin ma ea) (hb : decode fb b zb = .fin mb eb) :
    product fa a za xa fb b zb xb =
      (antilogVal (a.testBit (logLay fa).1 != b.testBit (logLay fb).1)
        (unbias fa (a % 2 ^ (logLay fa).1) + unbias fb (b % 2 ^ (logLay fb).1))).scale (scaleExp xa + scaleExp xb) := by
  obtain ⟨hlogA, hvalA⟩ := decode_log_of_fin hfa ha
  obtain ⟨hlogB, hvalB⟩ := decode_log_of_fin hfb hb
  rw [product_of_fin hxa hxb ha hb, hlogA, hlogB, hvalA, hvalB, antilogVal_neg, antilogVal_neg]
  simp [hfa, hfb]

/-- Decode-then-multiply, over the C-forms of the operands (R48). -/
theorem product_cForm {fa fb : Fmt} {a b : Nat} {za zb : Int} {xa xb : Option Nat} {sa sb : Bool} {ga gb : Nat}
    {ea eb : Int} (hpath : (fa.isLog && fb.isLog) = false) (hxa : xa ≠ some 255) (hxb : xb ≠ some 255)
    (ha : CForm (decode fa a za) sa ga ea) (hb : CForm (decode fb b zb) sb gb eb) :
    ∃ m e, product fa a za xa fb b zb xb = .fin m e ∧
      (m : ℚ) * 2 ^ e = (if sa != sb then -1 else 1) * (ga * gb : Nat) *
        2 ^ ((ea - 23) + (eb - 23) + scaleExp xa + scaleExp xb) := by
  obtain ⟨-, ma, xea, hva, hqa⟩ := ha
  obtain ⟨-, mb, xeb, hvb, hqb⟩ := hb
  refine ⟨ma * mb, xea + xeb + (scaleExp xa + scaleExp xb), ?_, ?_⟩
  · rw [product_of_fin hxa hxb hva hvb, hpath]
    rfl
  · have hsign : (if sa != sb then (-1 : ℚ) else 1) = (if sa then -1 else 1) * (if sb then -1 else 1) := by
      cases sa <;> cases sb <;> simp
    calc ((ma * mb : Int) : ℚ) * 2 ^ (xea + xeb + (scaleExp xa + scaleExp xb))
        = (ma * 2 ^ xea) * (mb * 2 ^ xeb) * 2 ^ (scaleExp xa + scaleExp xb) := by
          rw [zpow_add₀ two_ne_zero, zpow_add₀ two_ne_zero]
          push_cast
          ring
      _ = _ := by
          rw [hqa, hqb, hsign, add_assoc _ (scaleExp xa), zpow_add₀ two_ne_zero (_ + _), zpow_add₀ two_ne_zero (ea - 23)]
          push_cast
          ring

end Sys2Proof.Machine

section

open Sys2Proof Sys2Proof.Machine

/-- Settles O9: each path from what a finite nonzero element decodes to. -/
theorem productPaths : Obligations.ProductPaths := by
  refine ⟨?logPath, ?hasCForm, ?cFormPath⟩
  case logPath =>
    intro fa fb a b za zb xa xb ma ea mb eb hfa hfb hxa hxb ha hb s sig
    obtain ⟨hlo, hhi⟩ := antilog_emod_bounds s
    exact ⟨hlo, hhi, product_log hfa hfb hxa hxb ha hb⟩
  case hasCForm =>
    intro f c zp m e hf hlo hhi h
    obtain ⟨hne, hlt⟩ := decode_fin_bounds hf hlo hhi h
    exact ⟨_, _, _, h ▸ cForm_fin hne hlt⟩
  case cFormPath =>
    intro fa fb a b za zb xa xb sa sb ga gb ea eb hpath hxa hxb ha hb
    obtain ⟨-, hga⟩ := ha.norm
    obtain ⟨-, hgb⟩ := hb.norm
    exact ⟨(Nat.mul_lt_mul'' hga hgb).trans_eq (pow_add 2 24 24).symm, product_cForm hpath hxa hxb ha hb⟩

end

namespace Sys2Proof.Machine

/-! # A slice-in that loses a line of its own image (O41)

A slice-in reads its image through the cache (R183, R332). A miss of it can put out a clean line that stands over a line of HBM
that cannot be read (R201): from then on that line reads as uncorrectable. Where it belongs to a state block of the image, the
block cannot be read and the start fails (R189). O41 asks only that nothing reads as uncorrectable before those accesses. -/

/-! ### An access loses lines and finds none again -/

/-- Putting a value keeps every key. -/
theorem Map.any_key_put {α : Type} {p : Nat → Bool} {m : Map α} (k : Nat) (v : α) (h : m.any (fun kv => p kv.1) = true) :
    (Map.put m k v).any (fun kv => p kv.1) = true := by
  induction m with
  | nil => cases h
  | cons kv m ih =>
    simp only [List.any_cons, Bool.or_eq_true] at h
    unfold Map.put
    split_ifs with heq <;> simp only [List.any_cons, Bool.or_eq_true]
    · exact heq ▸ h
    · exact .inr h
    · exact h.imp_right ih

/-- What reads as uncorrectable in one state does so in the other. -/
def BadKept (s t : State) : Prop := ∀ a n, s.badIn a n = true → t.badIn a n = true

namespace BadKept

theorem of_eq {s t : State} (h : t.bad = s.bad) : BadKept s t := fun _ _ hb => by
  rwa [State.badIn, h]

theorem refl (s : State) : BadKept s s := of_eq rfl

theorem trans {s t u : State} (h : BadKept s t) (g : BadKept t u) : BadKept s u := fun a n hb => g a n (h a n hb)

theorem foldl {α : Type} {f : State → α → State} (hf : ∀ s x, BadKept s (f s x)) (l : List α) (s : State) :
    BadKept s (l.foldl f s) := by
  induction l generalizing s with
  | nil => exact refl s
  | cons x l ih => exact (hf s x).trans (ih _)

theorem count (s : State) (k n : Nat) : BadKept s (s.count k n) := of_eq rfl

theorem countAll (s : State) (ks : List Nat) : BadKept s (s.countAll ks) := of_eq (by rw [State.countAll_frame])

theorem wakeMem (s : State) (n a : Nat) : BadKept s (s.wakeMem n a) := of_eq (by unfold State.wakeMem; split <;> rfl)

theorem lose (s : State) (a : Nat) : BadKept s (s.lose a) := fun a n =>
  Map.any_key_put (p := fun k => decide (k < a + n) && decide (a < k + badSpan k)) _ _

theorem dropLine (s : State) (k : Nat) (l : CLine) : BadKept s (s.dropLine k l) := by
  unfold State.dropLine
  split
  · exact lose s _
  · exact refl s

theorem cacheLine (s : State) (w : Bool) (a : Nat) : BadKept s (s.cacheLine w a) := by
  have evict (ways rest : List CLine) (t : State) (ht : t.bad = s.bad) :
      BadKept s (rest.foldl (fun s l => s.dropLine (cacheKey a) l) (t.setWays (cacheKey a) ways)) :=
    (of_eq ht : BadKept s (t.setWays (cacheKey a) ways)).trans (foldl (fun s l => dropLine s _ l) _ _)
  unfold State.cacheLine
  split
  · split <;> exact of_eq rfl
  · dsimp only
    split
    · exact of_eq rfl
    · split
      · exact of_eq rfl
      · refine trans ?_ (countAll _ _)
        split
        · exact evict _ _ (s.count _ _) rfl
        · exact (evict _ _ (s.count _ _) rfl).trans (count _ _ _)

theorem accessLine (s : State) (cls : Cls) (w : Bool) (a : Nat) : BadKept s (s.accessLine cls w a) :=
  (((wakeMem s _ _).trans (count _ _ _)).trans (count _ _ _)).trans (cacheLine _ _ _)

theorem access (s : State) (cls : Cls) (w : Bool) (a n : Nat) : BadKept s (s.access cls w a n) := by
  unfold State.access
  split
  · exact of_eq rfl
  · exact ((wakeMem s _ _).trans (count _ _ _)).trans (count _ _ _)
  · exact foldl (fun s l => accessLine s cls w l) _ s

end BadKept

/-- The lines of a range that is not empty begin with that of its address. -/
theorem linesOf_eq_cons {a n : Nat} (hn : n ≠ 0) : ∃ ls, linesOf a n = a / 256 * 256 :: ls := by
  obtain ⟨k, hk⟩ := Nat.exists_eq_add_one.2 (show 0 < (a % 256 + n + 255) / 256 by omega)
  simp [linesOf, hn, hk, List.range_succ_eq_map]

/-- What the first line of an access to HBM loses is lost after it. -/
theorem State.access_badIn_of_firstLine {s : State} {cls : Cls} {w : Bool} {a n x k : Nat} (hr : region a = .hbm) (hn : n ≠ 0)
    (h : (s.accessLine cls w (a / 256 * 256)).badIn x k = true) : (s.access cls w a n).badIn x k = true := by
  obtain ⟨ls, hls⟩ := linesOf_eq_cons (a := a) hn
  simp only [State.access, hr, hls, List.foldl_cons]
  exact BadKept.foldl (fun s l => BadKept.accessLine s cls w l) ls _ _ _ h

/-- A slice reads the header of the image first, then the area of the first parcel: what is lost by then stays lost. -/
theorem State.imageAccess_badIn_of_firstArea {s : State} {c p x k : Nat} {ps : List Nat} {w : Bool}
    (hp : footParcels (s.ctx c).foot = p :: ps)
    (h : ((s.access .bulk w (s.ctx c).img 4096).access .bulk w ((s.ctx c).areaAddr p) (s.ctx c).rangeBytes).badIn x k = true) :
    (s.imageAccess c w).badIn x k = true := by
  simp only [State.imageAccess, hp, List.flatMap_cons, List.cons_append, List.foldl_cons]
  exact BadKept.foldl (fun s (x : Nat × Nat) => BadKept.access s .bulk w x.1 x.2) _ _ _ _ (BadKept.access _ _ _ _ _ _ _ h)

/-! ### The end of a command reaches nothing but what is sent -/

theorem LogOnly.foldl {α : Type} {f : State → α → State} (hf : ∀ s x, LogOnly s (f s x)) (l : List α) (s : State) :
    LogOnly s (l.foldl f s) := by
  induction l generalizing s with
  | nil => exact LogOnly.refl s
  | cons x l ih => exact (hf s x).trans (ih _)

theorem LogOnly.ctx {s t : State} (h : LogOnly s t) (c : Nat) : t.ctx c = s.ctx c := by rw [h]; rfl

theorem LogOnly.ctxActs {s t : State} (h : LogOnly s t) : t.ctxActs = s.ctxActs := by rw [h]

theorem State.receipt_logOnly (s : State) (r : Receipt) : LogOnly s (s.receipt r) := .ite rfl (s.putReceipt_logOnly r)

theorem State.finish_logOnly (s : State) (r : Started) (status : Nat) (result : List Byte) :
    LogOnly s (s.finish r status result) := by
  unfold State.finish
  extract_lets halted cut st late g cmd s1 s2 s3
  have h1 : LogOnly s s1 := s.withCmd_logOnly _
  have h2 : LogOnly s s2 := .ite h1 (h1.trans (s1.setRcp_logOnly _ _))
  have h3 : LogOnly s s3 := .ite (h2.trans (s2.count_logOnly _ _)) (.ite (h2.trans (s2.count_logOnly _ _)) h2)
  exact .ite h3 (h3.trans (s3.receipt_logOnly _))

theorem State.finishAll_logOnly (s : State) (p : Started → Bool) (status : Nat) (result : List Byte) :
    LogOnly s (s.finishAll p status result) := .foldl (fun s r => s.finish_logOnly r status result) _ s

/-- A start that fails replaces its context, and ends commands. -/
theorem State.startFails_logOnly (s : State) (c : Nat) (st : CtxSt) (status : Nat) :
    LogOnly (s.setCtx c { s.ctx c with st := st, fromImage := false, parkNext := false }) (s.startFails c st status) :=
  (State.finishAll_logOnly _ _ _ _).trans (State.finishAll_logOnly _ _ _ _)

theorem State.startFails_ctx (s : State) (c : Nat) (st : CtxSt) (status : Nat) :
    (s.startFails c st status).ctx c = { s.ctx c with st := st, fromImage := false, parkNext := false } :=
  ((s.startFails_logOnly c st status).ctx c).trans (State.ctx_setCtx ..)

theorem State.startFails_ctx_ne (s : State) {c d : Nat} (h : d ≠ c) (st : CtxSt) (status : Nat) :
    (s.startFails c st status).ctx d = s.ctx d :=
  ((s.startFails_logOnly c st status).ctx d).trans (State.ctx_setCtx_ne _ _ h)

theorem State.startFails_ctxActs (s : State) (c : Nat) (st : CtxSt) (status : Nat) :
    (s.startFails c st status).ctxActs = s.ctxActs :=
  (s.startFails_logOnly c st status).ctxActs

/-! ### A slice-in whose state blocks cannot be read -/

/-- Nothing moves where no context starts, none is to be sliced out and no action waits. -/
theorem State.settleAll_of_still {s : State} (hacts : s.ctxActs = []) (hstart : ∀ d, (s.ctx d).st ≠ .starting)
    (hstay : ∀ d < 8, (s.ctx d).sliceNext = false ∨ (s.ctx d).st ≠ .parked) : s.settleAll = s := by
  have hturn : s.sliceTurn = s := by
    have hnone : ((List.range 8).find? fun d => (s.ctx d).sliceNext && (s.ctx d).st == .parked) = none :=
      List.find?_eq_none.2 fun d hd => by
        obtain h | h := hstay d (List.mem_range.1 hd) <;> simp [h]
    rw [State.sliceTurn, hnone]
    split <;> rfl
  have hsettle (d : Nat) : s.settle d = s := by simp [State.settle, hstart d]
  have hall (l : List Nat) : l.foldl (fun s d => s.settle d) s = s := by
    induction l with
    | nil => rfl
    | cons d l ih => rw [List.foldl_cons, hsettle, ih]
  simp only [State.settleAll, hturn, hall, hacts, List.length_nil, State.actsTake]

theorem AccessOnly.ctx {s t : State} (h : AccessOnly s t) (c : Nat) : t.ctx c = s.ctx c := by rw [h]; rfl

theorem AccessOnly.ctxActs {s t : State} (h : AccessOnly s t) : t.ctxActs = s.ctxActs := by rw [h]

theorem AccessOnly.clearFor {s t : State} (h : AccessOnly s t) (c : Nat) : t.clearFor c = s.clearFor c := by
  simp only [State.clearFor, h.ctx]

theorem AccessOnly.imageStatus {s t : State} (h : AccessOnly s t) (v : Ctx) : t.imageStatus v = s.imageStatus v := by
  rw [h]; rfl

theorem State.copyReport_of_bad_nil {s : State} (h : s.bad = []) (c : Nat) (fromImage : Bool) :
    s.copyReport c fromImage = s := by
  simp [State.copyReport, h]

/-- Where its own accesses leave a state block that reads as uncorrectable, a slice-in fails with 0x0723. -/
theorem exec_ctxSliceInDone_of_blocksBad {s : State} {c : Fin 8} (hst : (s.ctx c.val).st = .starting)
    (hfrom : (s.ctx c.val).fromImage = true) (hclear : s.clearFor c.val = true) (hbad : s.bad = [])
    (hstatus : s.imageStatus (s.ctx c.val) = 0) (hblocks : (s.imageAccess c.val false).blocksBad c.val = true) :
    exec (.ctxSliceInDone c) s = .next ((s.imageAccess c.val false).startFails c.val .loaded 0x0723).settleAll := by
  have hacc := s.imageAccess_accessOnly c.val false
  change execCtxSliceInDone c s = _
  simp [execCtxSliceInDone, State.sliceInDone, hacc.ctx, hacc.clearFor, hacc.imageStatus, s.copyReport_of_bad_nil hbad, *]

/-- Such a context is LOADED again. -/
theorem exec_ctxSliceInDone_loaded_of_blocksBad {s t : State} {c : Fin 8} (hacts : s.ctxActs = [])
    (hothers : ∀ d, d ≠ c.val → (s.ctx d).st ≠ .starting) (hstay : ∀ d, d < 8 → d ≠ c.val → (s.ctx d).sliceNext = false)
    (hst : (s.ctx c.val).st = .starting) (hfrom : (s.ctx c.val).fromImage = true) (hclear : s.clearFor c.val = true)
    (hbad : s.bad = []) (hstatus : s.imageStatus (s.ctx c.val) = 0)
    (hblocks : (s.imageAccess c.val false).blocksBad c.val = true) (h : exec (.ctxSliceInDone c) s = .next t) :
    (t.ctx c.val).st = .loaded := by
  have hacc := s.imageAccess_accessOnly c.val false
  rw [exec_ctxSliceInDone_of_blocksBad hst hfrom hclear hbad hstatus hblocks] at h
  generalize s.imageAccess c.val false = s0 at hacc h
  have hself := s0.startFails_ctx c.val .loaded 0x0723
  have hother (d : Nat) (hd : d ≠ c.val) : (s0.startFails c.val .loaded 0x0723).ctx d = s.ctx d :=
    (s0.startFails_ctx_ne hd _ _).trans (hacc.ctx d)
  have hacts0 : (s0.startFails c.val .loaded 0x0723).ctxActs = [] :=
    (s0.startFails_ctxActs _ _ _).trans (hacc.ctxActs.trans hacts)
  generalize s0.startFails c.val .loaded 0x0723 = s1 at hself hother hacts0 h
  have hstarting (d : Nat) : (s1.ctx d).st ≠ .starting := by
    obtain rfl | hd := eq_or_ne d c.val
    · simp [hself]
    · exact hother d hd ▸ hothers d hd
  have hslice (d : Nat) (hlt : d < 8) : (s1.ctx d).sliceNext = false ∨ (s1.ctx d).st ≠ .parked := by
    obtain rfl | hd := eq_or_ne d c.val
    · simp [hself]
    · exact .inl (hother d hd ▸ hstay d hlt hd)
  rw [State.settleAll_of_still hacts0 hstarting hslice] at h
  cases h
  rw [hself]

/-! ### Such a slice-in -/

/-- Context 0 starts from an image at address 0: order-2 tract 27, granules 0x0000 to 0x57FF, save areas at granule 0. -/
def evictingCtx : Ctx := { Ctx.free with st := .starting, fromImage := true, foot := 2 ^ 27, fbhi := 0x5800 }

/-- The set that caches the first line of the state block of parcel 7018 and the first line of the area of parcel 6912, the
lowest of the footprint: 16 clean lines, of which the oldest is that of the state block. It stands over a line of HBM that
cannot be read, as a patrol read leaves it (R201). -/
def fullWays : List CLine := (List.range' 2 15).map (⟨·, false, false⟩) ++ [⟨0, false, true⟩]

/-- The machine after reset with that context and that set. -/
def evicting : State :=
  { State.reset with
    ctxs := [(0, evictingCtx)]
    arc := { Arc.reset with cache := [(cacheKey (evictingCtx.blockAddr 7018), fullWays)] } }

theorem evicting_ctx (d : Nat) : evicting.ctx d = if d = 0 then evictingCtx else Ctx.free := by
  simp only [State.ctx, evicting, Map.getD, Map.find, eq_comm (a := 0)]
  split <;> rfl

theorem footParcels_evicting : footParcels evictingCtx.foot = 6912 :: (footParcels evictingCtx.foot).tail := by
  decide +kernel

/-- Once the slice-in has read the header and the first line of the first area, the line of the state block is lost. -/
theorem evicting_firstLine_badIn :
    ((evicting.access .bulk false 0 4096).accessLine .bulk false (evictingCtx.areaAddr 6912 / 256 * 256)).badIn
      (evictingCtx.blockAddr 7018) 20480 = true := by
  decide +kernel

theorem evicting_imageAccess_badIn : (evicting.imageAccess 0 false).badIn (evictingCtx.blockAddr 7018) 20480 = true :=
  State.imageAccess_badIn_of_firstArea footParcels_evicting
    (State.access_badIn_of_firstLine (by decide +kernel) (by decide +kernel) evicting_firstLine_badIn)

/-- A state block that reads as uncorrectable in part. -/
theorem State.blocksBad_of_badIn {s : State} {c p : Nat} (hp : p ∈ footParcels (s.ctx c).foot) (hlt : p < 16384)
    (h : s.badIn ((s.ctx c).blockAddr p) 20480 = true) : s.blocksBad c = true := by
  have hne : s.bad.isEmpty = false := by
    cases hb : s.bad with
    | nil => simp [State.badIn, hb] at h
    | cons => rfl
  have hany : (footParcels (s.ctx c).foot ++ footTracts (s.ctx c).foot).any
      (fun u => s.badIn ((s.ctx c).blockAddr u) (if u < 16384 then 20480 else 1024)) = true :=
    List.any_eq_true.2 ⟨p, List.mem_append_left _ hp, by rwa [if_pos hlt]⟩
  simp [State.blocksBad, hne, hany]

theorem evicting_blocksBad : (evicting.imageAccess 0 false).blocksBad 0 = true := by
  have hctx : (evicting.imageAccess 0 false).ctx 0 = evictingCtx := (evicting.imageAccess_accessOnly 0 false).ctx 0
  refine State.blocksBad_of_badIn (p := 7018) ?_ (by decide) ?_ <;> rw [hctx]
  · decide +kernel
  · exact evicting_imageAccess_badIn

/-- The memory is all zero, so that every state block passes its checks, and no unit holds anything after them. -/
theorem evicting_blocksIn :
    (((evicting.imageAccess 0 false).copyIn evictingCtx).blocksIn 0).map (·.eng) = some [] := by
  rw [((evicting.imageAccess_accessOnly 0 false).copyIn _).blocksIn]
  decide +kernel

end Sys2Proof.Machine

section

open Sys2Proof Sys2Proof.Machine

/-- Refutes O41: a slice-in ends LOADED where its own accesses put a line of its image out of the cache and HBM cannot be read
there (R189, R201), though nothing read as uncorrectable before them. -/
theorem not_contextTransitions : ¬ Obligations.ContextTransitions := by
  intro holds
  have hothers : ∀ d, d ≠ 0 → (evicting.ctx d).st ≠ .starting := fun d hd => by
    rw [evicting_ctx, if_neg hd]; decide
  have hstay : ∀ d, d < 8 → d ≠ 0 → (evicting.ctx d).sliceNext = false := fun d _ hd => by
    rw [evicting_ctx, if_neg hd]; rfl
  have hclear : evicting.clearFor 0 = true := by decide +kernel
  have hstatus : evicting.imageStatus (evicting.ctx 0) = 0 := by decide +kernel
  obtain ⟨s1, hs1, heng⟩ := Option.map_eq_some_iff.1 evicting_blocksIn
  obtain ⟨-, -, -, -, sliceIn⟩ := holds evicting 0 rfl hothers
  obtain ⟨t, hexec, hrun, -⟩ := (sliceIn rfl rfl hclear rfl hstay).2 s1 rfl hstatus (by decide +kernel) (by decide +kernel) hs1
    fun k q _ => by rw [State.queue, State.engOf, heng]; cases q <;> rfl
  have hloaded := exec_ctxSliceInDone_loaded_of_blocksBad (c := 0) rfl hothers hstay rfl rfl hclear rfl hstatus evicting_blocksBad hexec
  rw [hrun] at hloaded
  cases hloaded

end

namespace Sys2Proof.Machine

/-! # The M queue (O10 to O13)

An M entry that issues in a parcel is examined at once, in the state after the issue (R153); so is one that waits in the
engine, when what it waited for has come. One lemma for each outcome (it waits; it ends with DONE) says what becomes of the
unit, and one for each entry under which conditions it has that outcome. -/

/-! ### What the issue of an entry leaves as it was -/

/-- The unit after the next entry of its queue has issued; the entry still stands before its head (R152). -/
def Eng.advanced (e : Eng) (q : Q) : Eng := { e with sync := e.sync.setQueue q (e.sync.queue q).advanced }

/-- An entry that issues and leaves the head at once has issued in the sense of the statements. -/
theorem Eng.vacated_advanced (e : Eng) (q : Q) (m : Mat) :
    ({ e.advanced q with mat := m } : Eng).vacated q = { e.issued q with mat := m } := by
  simp [Eng.vacated, Eng.advanced, Eng.issued]

/-- An entry that issues and waits stands at the head of the advanced queue. -/
theorem Eng.waits_eq_advanced (e : Eng) (q : Q) (w : BitVec 128) (k : WaitKind) (now limit : Nat) :
    e.waits q w k now limit = { e.advanced q with
      sync := (e.advanced q).sync.setQueue q { (e.advanced q).sync.queue q with
        head := some ⟨(e.sync.queue q).pc, w, k⟩, since := now, t2rem := limit } } := by
  simp [Eng.waits, Eng.advanced]

theorem State.advance_engStep (s : State) (c u : Nat) (q : Q) :
    EngStep s (s.advance c u q) (engKey c u) ((s.engOf (engKey c u)).advanced q) := s.advance_step c u q

@[simp] theorem State.advance_badIn (s : State) (c u : Nat) (q : Q) (a n : Nat) :
    (s.advance c u q).badIn a n = s.badIn a n := rfl

@[simp] theorem State.advance_datum (s : State) (c u : Nat) (q : Q) (d : Nat) (w : BitVec 512) :
    (s.advance c u q).datum d w = s.datum d w := rfl

@[simp] theorem State.advance_fbBad (s : State) (c u : Nat) (q : Q) (p : Nat) (rs : List (Nat × Nat)) :
    (s.advance c u q).fbBad p rs = s.fbBad p rs := rfl

@[simp] theorem State.advance_mat (s : State) (c u : Nat) (q : Q) (d p : Nat) : (s.advance c u q).mat d p = s.mat d p := by
  unfold State.mat
  by_cases h : engKey d p = engKey c u
  · rw [h, (s.advance_engStep c u q).here]; rfl
  · rw [(s.advance_engStep c u q).away _ h]

/-! ### Entries examined at their issue -/

/-- In a parcel an M entry is examined where it issues. -/
theorem State.mIssue_ready {s : State} {u c op : Nat} {e : Entry} (h0 : unitOrder u = 0) (h : Ready s u .m c)
    (ho : fld e 0 8 = op) : s.mIssue u op e = (s.advance c u .m).mRun c u (s.queue (engKey c u) .m).pc e :=
  State.issue_parcel h0 h ho _

/-- An M entry that finds no room, no data or no turn waits at the head of its queue. -/
theorem State.mIssue_wait {s : State} {u c op : Nat} {e : Entry} (h0 : unitOrder u = 0) (h : Ready s u .m c)
    (ho : fld e 0 8 = op) (hw : (s.advance c u .m).mExec c u (s.queue (engKey c u) .m).pc e = .wait) :
    EngStep s (s.mIssue u op e) (engKey c u) ((s.engOf (engKey c u)).waits .m e .engine s.now s.t2) := by
  rw [State.mIssue_ready h0 h ho, State.mRun, hw, Eng.waits_eq_advanced]
  exact (s.advance_engStep c u .m).waitHead .m _

/-- An M entry that ends with DONE leaves the head, with the matrix state that its own effect gives. -/
theorem State.mIssue_done {b s s' : State} {u c op : Nat} {e : Entry} {m : Mat} (h0 : unitOrder u = 0)
    (h : Ready s u .m c) (ho : fld e 0 8 = op)
    (hd : (s.advance c u .m).mExec c u (s.queue (engKey c u) .m).pc e = .done 0 s')
    (hs : EngStep b s' (engKey c u) { (s.engOf (engKey c u)).advanced .m with mat := m }) :
    EngStep b (s.mIssue u op e) (engKey c u) { (s.engOf (engKey c u)).issued .m with mat := m } := by
  rw [State.mIssue_ready h0 h ho, State.mRun, hd, ← Eng.vacated_advanced]
  exact hs.leaveHead .m

/-! ### Entries examined again at the head -/

theorem State.engineCtx_some {s : State} {p c : Nat} {f : Eng → Bool} (h : s.engineCtx p f = some c) :
    s.runsIn c p = true ∧ f (s.engOf (engKey c p)) = true := by
  unfold State.engineCtx at h
  split at h
  · cases h
  · simpa using List.find?_some h

/-- Behind the entry that ends no entry of a tract stands: the queue goes no further. -/
theorem State.mFeed_done {s : State} {c p a : Nat} {e : Entry} {s' : State}
    (hp : (s'.queue (engKey c p) .m).passed = []) :
    (s.mSettle c p a e (.done 0 s')).mFeed c p = s'.leaveHead c p .m := by
  have hq : ((s'.leaveHead c p .m).queue (engKey c p) .m).passed = [] := by simpa [State.leaveHead] using hp
  change (s'.leaveHead c p .m).mFeed c p = _
  rw [State.mFeed, hq]
  rfl

/-- An entry that waits in the engine is examined again and ends with DONE. -/
theorem State.mRetry_done {s s' : State} {c p a : Nat} {e : Entry} (hh : (s.engOf (engKey c p)).engineHead .m = some (a, e))
    (ho : fld e 0 8 < 0xF0) (hr : s.runsIn c p = true) (hd : s.mExec c p a e = .done 0 s')
    (hp : (s'.queue (engKey c p) .m).passed = []) : s.mRetry c p = s'.leaveHead c p .m := by
  have hop : ¬ (0xF0 ≤ fld e 0 8 || !s.runsIn c p) = true := by simp [hr]; omega
  rw [State.mRetry, hh]
  dsimp only
  rw [if_neg hop, State.mRun, hd, State.mFeed_done hp]

/-- With nothing at its head that waits in the engine, a queue stands. -/
theorem State.mRetry_idle {s : State} {c p : Nat} (h : (s.engOf (engKey c p)).engineHead .m = none) :
    s.mRetry c p = s := by rw [State.mRetry, h]

/-! ### MDECL (R99-R101) -/

/-- An MDECL whose descriptor is whole, aligned and in range, of a slot that is free; all that is left is its datum. -/
structure MdeclOk (s : State) (c p : Nat) (e : Entry) : Prop where
  opcode : fld e 0 8 = 1
  zeros : fld e 27 101 = 0
  aligned : fld e 11 16 % 4 = 0
  inRange : fld e 11 16 + 3 ≤ 0xBFFF
  readable : s.badIn (granAddr p (fld e 11 16)) 64 = false
  desc : descOk (BitVec.ofNat 512 (s.mem.readLE (granAddr p (fld e 11 16)) 64)) = true
  free : (s.mat c p).slotInUse (fld e 8 3) = false

theorem MdeclOk.advance {s : State} {c p : Nat} {e : Entry} (h : MdeclOk s c p e) : MdeclOk (s.advance c p .m) c p e :=
  { h with free := by simpa using h.free }

theorem MdeclOk.value {s : State} {c p : Nat} {e : Entry} (h : MdeclOk s c p e) {d : BitVec 512} {dp : Option Int}
    (hd : BitVec.ofNat 512 (s.mem.readLE (granAddr p (fld e 11 16)) 64) = d) (hv : s.datum c d = .value dp) :
    s.mdecl c p e = .done 0 ((s.datumReads d).setMat (engKey c p)
      { s.mat c p with slots := Map.put (s.mat c p).slots (fld e 8 3) (slotOf d dp) }) := by
  obtain ⟨hop, hz, ha, hin, hr, hk, hf⟩ := h
  subst hd
  unfold granAddr at hr hk hv ⊢
  simp [State.mdecl, MRes.end, hop, hz, ha, hr, hk, hf, hv, Nat.not_lt.2 hin]

theorem MdeclOk.wait {s : State} {c p : Nat} {e : Entry} (h : MdeclOk s c p e)
    (hw : s.datum c (BitVec.ofNat 512 (s.mem.readLE (granAddr p (fld e 11 16)) 64)) = .wait) : s.mdecl c p e = .wait := by
  obtain ⟨hop, hz, ha, hin, hr, hk, hf⟩ := h
  unfold granAddr at hr hk hw
  simp [State.mdecl, hop, hz, ha, hr, hk, hf, hw, Nat.not_lt.2 hin]

theorem State.mExec_mdecl {s : State} {c p a : Nat} {e : Entry} (h : fld e 0 8 = 1) : s.mExec c p a e = s.mdecl c p e := by
  simp [State.mExec, h]

/-- The reads of a datum reach no unit (R183). -/
theorem State.datumReads_accessOnly (s : State) (d : BitVec 512) : AccessOnly s (s.datumReads d) := by
  unfold State.datumReads
  extract_lets one entry
  have hentry : ∀ s on k, AccessOnly s (entry s on k) := fun s on k => by
    cases on
    · exact AccessOnly.refl s
    · exact s.access_accessOnly _ _ _ _
  split
  · exact AccessOnly.refl s
  · split
    · exact (hentry _ _ _).trans (hentry _ _ _)
    · exact s.access_accessOnly _ _ _ _
    · exact AccessOnly.refl s

theorem State.engOf_datumReads (s : State) (d : BitVec 512) (k : Nat) : (s.datumReads d).engOf k = s.engOf k :=
  State.engOf_congr (s.datumReads_accessOnly d).eng k

/-- What MDECL leaves when its datum can be read. -/
theorem State.mdecl_engStep {s : State} {c p : Nat} (d : BitVec 512) (m : Mat) :
    EngStep (s.datumReads d) ((s.datumReads d).setMat (engKey c p) m) (engKey c p)
      { s.engOf (engKey c p) with mat := m } := by
  have h := (EngStep.refl (s.datumReads d) (engKey c p)).setMat m
  rwa [s.engOf_datumReads] at h

end Sys2Proof.Machine

section

open Sys2Proof Sys2Proof.Machine

/-- Settles O10: an MDECL without a defect does what its datum allows, at its issue and when it is examined again. -/
theorem mdeclFillsSlot : Obligations.MdeclFillsSlot := by
  intro s c
  refine ⟨?issues, ?waiting⟩
  case issues =>
    intro u e h0 hready hop hz ha hin hr hk hf key m d
    have hok : MdeclOk (s.advance c u.val .m) c u.val e := MdeclOk.advance ⟨hop, hz, ha, hin, hr, hk, hf⟩
    refine ⟨fun dp hv => ⟨_, rfl, State.mIssue_done h0 hready hop
      ((State.mExec_mdecl hop).trans (hok.value rfl hv)) ?_⟩, fun hw => ⟨_, rfl, State.mIssue_wait h0 hready hop
      ((State.mExec_mdecl hop).trans (hok.wait hw))⟩⟩
    have h := State.mdecl_engStep (s := s.advance c u.val .m) (c := c) (p := u.val) d
      { m with slots := Map.put m.slots (fld e 8 3) (slotOf d dp) }
    rw [(s.advance_engStep c u.val .m).here] at h
    rwa [State.advance_mat]
  case waiting =>
    intro p a e hctx hhead hpassed hz ha hin hr hk hf key m d
    obtain ⟨hruns, hop⟩ := State.engineCtx_some hctx
    have hop : fld e 0 8 = 1 := by simpa [hhead] using hop
    have hok : MdeclOk s c p.val e := ⟨hop, hz, ha, hin, hr, hk, hf⟩
    refine ⟨fun dp hv => ?_, fun hw => ?_⟩
    · have hd := hok.value rfl hv
      have hstep := State.mdecl_engStep (s := s) (c := c) (p := p.val) d
        { m with slots := Map.put m.slots (fld e 8 3) (slotOf d dp) }
      have hstands : ((((s.datumReads d).setMat key { m with slots := Map.put m.slots (fld e 8 3) (slotOf d dp) }).queue
          key .m).passed = []) := by rw [State.queue, hstep.here]; exact hpassed
      refine ⟨_, ?_, ?_, hstep.leaveHead .m⟩
      · simp only [exec, execMdeclSourceValid, hctx]
        rw [State.mRetry_done hhead (by omega) hruns ((State.mExec_mdecl hop).trans hd) hstands]
      · simp only [exec, execMdeclDatumExpiry, hctx, hhead, hd]
        rw [State.mFeed_done hstands]
    · simp only [exec, execMdeclDatumExpiry, hctx, hhead, hok.wait hw]
      rfl

end

namespace Sys2Proof.Machine

/-! ### MOPEN and MACC (R102-R105, R109) -/

theorem State.mExec_mopen {s : State} {c p a : Nat} {e : Entry} (h : fld e 0 8 = 2) : s.mExec c p a e = s.mopen c p e := by
  simp [State.mExec, h]

theorem State.mExec_macc {s : State} {c p a : Nat} {e : Entry} (h : fld e 0 8 = 3) :
    s.mExec c p a e = s.macc c p a e := by simp [State.mExec, h]

/-- A segment that MOPEN may bind: empty, or one with a tile that OVR discards and nothing still to place. -/
def Mat.opens (m : Mat) (e : Entry) : Prop :=
  (m.seg (eSeg e)).st = .empty ∨ ((m.seg (eSeg e)).holds = true ∧ bit e 13 = true ∧ m.placing (eSeg e) = false)

theorem Segment.not_draining_of_holds {g : Segment} (h : g.holds = true) : (g.st == .draining) = false := by
  simp only [Segment.holds, Bool.or_eq_true, beq_iff_eq] at h
  obtain h | h := h <;> rw [h] <;> rfl

theorem State.mopen_done {s : State} {c p : Nat} {e : Entry} {sl : Slot} (hop : fld e 0 8 = 2) (hz : fld e 24 104 = 0)
    (hsl : Map.find (s.mat c p).slots (fld e 9 3) = some sl) (hsize : tileSizeOk (dWide sl.desc) e = true)
    (hseg : (s.mat c p).opens e) :
    s.mopen c p e = .done 0 (s.setMat (engKey c p)
      ((s.mat c p).setSeg (eSeg e) (openSegment sl (fld e 9 3) (bit e 12) (fld e 14 5) (fld e 19 5)))) := by
  obtain hempty | ⟨hholds, hovr, hidle⟩ := hseg
  · simp [State.mopen, MRes.end, hop, hz, hsl, hsize, hempty, Segment.holds]
  · simp [State.mopen, MRes.end, hop, hz, hsl, hsize, Segment.not_draining_of_holds hholds, hovr, hidle]

/-- An MACC without a defect begins, or becomes pending behind the one that places. -/
theorem State.macc_done {s : State} {c p a : Nat} {e : Entry} (hroom : (s.mat c p).cur = none ∨ (s.mat c p).pend = none)
    (hok : (s.mat c p).maccStatus e = none) :
    s.macc c p a e = .done 0 (s.setMat (engKey c p)
      (if (s.mat c p).cur.isSome then { s.mat c p with pend := some ⟨a, e, 0⟩ } else (s.mat c p).begin ⟨a, e, 0⟩)) := by
  have hfull : ((s.mat c p).cur.isSome && (s.mat c p).pend.isSome) = false := by
    obtain h | h := hroom <;> simp [h]
  simp [State.macc, MRes.end, hfull, hok]

theorem State.macc_wait {s : State} {c p a : Nat} {e : Entry} (hcur : (s.mat c p).cur ≠ none)
    (hpend : (s.mat c p).pend ≠ none) : s.macc c p a e = .wait := by
  simp [State.macc, Option.isSome_iff_ne_none.2 hcur, Option.isSome_iff_ne_none.2 hpend]

theorem Mat.opcode_of_maccStatus {m : Mat} {e : Entry} (h : m.maccStatus e = none) : fld e 0 8 = 3 := by
  by_contra hop
  simp [Mat.maccStatus, hop] at h

/-- An entry that replaces the matrix state, and nothing else, as it ends. -/
theorem State.mIssue_setMat {s : State} {u c op : Nat} {e : Entry} {m : Mat} (h0 : unitOrder u = 0) (h : Ready s u .m c)
    (ho : fld e 0 8 = op) (hd : (s.advance c u .m).mExec c u (s.queue (engKey c u) .m).pc e =
      .done 0 ((s.advance c u .m).setMat (engKey c u) m)) :
    EngStep s (s.mIssue u op e) (engKey c u) { (s.engOf (engKey c u)).issued .m with mat := m } :=
  State.mIssue_done h0 h ho hd ((s.advance_engStep c u .m).setMat m)

/-! ### The steps of an MACC (R96, R105) -/

/-- The state in which a step has placed its products: the matrix state replaced, the events and the clocks counted. -/
def State.placed (s : State) (c p : Nat) (m : Mat) (evs : List ShedEv) (clocks : Nat) : State :=
  ((s.setMat (engKey c p) m).countShed (ctrBase p + 17) evs).count (ctrBase p + 16) clocks

theorem State.placed_engStep (s : State) (c p : Nat) (m : Mat) (evs : List ShedEv) (clocks : Nat) :
    EngStep ((s.countShed (ctrBase p + 17) evs).count (ctrBase p + 16) clocks) (s.placed c p m evs clocks) (engKey c p)
      { s.engOf (engKey c p) with mat := m } :=
  (((EngStep.refl s _).setMat m).countShed _ evs).count _ clocks

/-- A step whose reads are good places its products; after the last one the next MACC begins, and the entry at the head is
examined again. -/
theorem State.maccStep_eq (s : State) (c p : Nat) (r : MaccRun) :
    let m := s.mat c p
    let g := m.seg (eSeg r.entry)
    let d := (m.slot g.dslot).desc
    let o := placeStep s.mem (fbAddr p 0) d r.entry r.done g
    s.fbBad p (stepRanges d r.entry (tileDim (dWide d) g.geom) r.done) = none →
    s.maccStep c p r = if r.done + 1 = eK r.entry then
        (s.placed c p (m.setSeg (eSeg r.entry) o.1).next o.2 (stepClocks d g.geom r.done)).mRetry c p
      else s.placed c p { m.setSeg (eSeg r.entry) o.1 with cur := some { r with done := r.done + 1 } } o.2
        (stepClocks d g.geom r.done) := by
  intro m g d o hfb
  rw [State.maccStep, hfb]
  by_cases hk : r.done + 1 = eK r.entry
  · simp only [if_pos hk]; rfl
  · simp only [if_neg hk]; rfl

end Sys2Proof.Machine

section

open Sys2Proof Sys2Proof.Machine

/-- Settles O11: each outcome of MOPEN and MACC at their issue, and a step that is not the last and one that is. -/
theorem maccOpensAndPlaces : Obligations.MaccOpensAndPlaces := by
  refine ⟨?issues, ?steps⟩
  case issues =>
    intro s c u e h0 hready key m
    refine ⟨fun sl hop hz hsl hsize hseg => ?_, fun hok => ?_⟩
    · have hd := State.mopen_done (s := s.advance c u.val .m) (c := c) (p := u.val) hop hz (by rwa [State.advance_mat]) hsize
        (by rwa [State.advance_mat])
      rw [State.advance_mat] at hd
      exact ⟨_, rfl, State.mIssue_setMat h0 hready hop ((State.mExec_mopen hop).trans hd)⟩
    · have hop := Mat.opcode_of_maccStatus hok
      have hmat : (s.advance c u.val .m).mat c u.val = m := s.advance_mat ..
      have hdone := fun hroom => State.macc_done (s := s.advance c u.val .m) (c := c) (p := u.val)
        (a := (s.queue key .m).pc) (e := e) hroom (hmat ▸ hok)
      rw [hmat] at hdone
      refine ⟨fun hcur => ⟨_, rfl, ?_⟩, fun hcur hpend => ⟨_, rfl, ?_⟩, fun hcur hpend => ⟨_, rfl, ?_⟩⟩
      · refine State.mIssue_setMat h0 hready hop ((State.mExec_macc hop).trans ((hdone (.inl hcur)).trans ?_))
        simp [hcur]
      · refine State.mIssue_setMat h0 hready hop ((State.mExec_macc hop).trans ((hdone (.inr hpend)).trans ?_))
        simp [Option.isSome_iff_ne_none.2 hcur]
      · exact State.mIssue_wait h0 hready hop ((State.mExec_macc hop).trans
          (State.macc_wait (hmat ▸ hcur) (hmat ▸ hpend)))
  case steps =>
    intro s c p r hctx hcur key m g d hfb o s1
    have hexec : exec (.maccStep p) s = .next (s.maccStep c p.val r) := by simp only [exec, execMaccStep, hctx, hcur]
    refine ⟨fun hk => ⟨_, hexec, ?_⟩, fun hk hidle => ⟨_, hexec, ?_⟩⟩
    · rw [s.maccStep_eq c p.val r hfb, if_neg hk]
      exact s.placed_engStep c p.val _ o.2 _
    · rw [s.maccStep_eq c p.val r hfb, if_pos hk]
      have hstep := s.placed_engStep c p.val (m.setSeg (eSeg r.entry) o.1).next o.2 (stepClocks d g.geom r.done)
      rw [State.mRetry_idle (by rw [hstep.here]; exact hidle)]
      exact hstep

end

namespace Sys2Proof.Machine

/-! ### MSUM, MSAVE and MLOAD (R62, R110, R117) -/

theorem State.mExec_msum {s : State} {c p a : Nat} {e : Entry} (h : fld e 0 8 = 5) : s.mExec c p a e = s.msum c p e := by
  simp [State.mExec, h]

theorem State.mExec_msave {s : State} {c p a : Nat} {e : Entry} (h : fld e 0 8 = 6) : s.mExec c p a e = s.msave c p e := by
  simp [State.mExec, h]

theorem State.mExec_mload {s : State} {c p a : Nat} {e : Entry} (h : fld e 0 8 = 7) : s.mExec c p a e = s.mload c p e := by
  simp [State.mExec, h]

theorem State.msum_done {s : State} {c p : Nat} {e : Entry} {f : Fmt} {dim len : Nat} (hop : fld e 0 8 = 5)
    (hz : fld e 71 57 = 0) (hf : fmtOf (fld e 10 4) = some f) (hint : f.isInt = true) (hk : fld e 31 24 ≠ 0)
    (hseg : ((s.mat c p).seg (eSeg e)).st = .empty) (hdim : (if bit e 14 then 8 else 16) = dim)
    (hlen : elemBytes f.width (dim * fld e 31 24) = len) (hsrc : granOk (fld e 15 16) len = true)
    (hdst : granOk (fld e 55 16) (8 * dim) = true) (hr : s.badIn (granAddr p (fld e 15 16)) len = false) :
    s.msum c p e = .done 0 (s.store (granAddr p (fld e 55 16))
      ((msumSums s.mem (granAddr p (fld e 15 16)) f dim (fld e 31 24)).flatMap fun v => toLE 8 (wrapU 64 v))) := by
  simp [State.msum, MRes.end, hop, hz, hf, hint, hk, hseg, hdim, hlen, hsrc, hdst, hr]

theorem State.msave_done {s : State} {c p : Nat} {e : Entry} (hop : fld e 0 8 = 6) (hz : fld e 25 103 = 0)
    (hholds : ((s.mat c p).seg (eSeg e)).holds = true) (hidle : (s.mat c p).placing (eSeg e) = false)
    (hdst : granOk (fld e 9 16) 8448 = true) :
    s.msave c p e = .done 0 ((s.store (granAddr p (fld e 9 16))
      (((s.mat c p).seg (eSeg e)).images ++ ((s.mat c p).seg (eSeg e)).laneBytes)).setMat (engKey c p)
        ((s.mat c p).setSeg (eSeg e) Segment.empty)) := by
  simp [State.msave, MRes.end, hop, hz, hholds, hidle, hdst]

theorem State.mload_done {s : State} {c p : Nat} {e : Entry} {g : Segment} (hop : fld e 0 8 = 7) (hz : fld e 25 103 = 0)
    (hempty : ((s.mat c p).seg (eSeg e)).st = .empty) (hsrc : granOk (fld e 9 16) 8448 = true)
    (hr : s.badIn (granAddr p (fld e 9 16)) 8448 = false)
    (hg : segmentOfImages (fun i => s.mem.readLE (granAddr p (fld e 9 16) + 32 * i) 32)
      (fun n => (Map.find (s.mat c p).slots n).isSome) = some g) (hst : g.st ≠ .empty) :
    s.mload c p e = .done 0 (s.setMat (engKey c p) ((s.mat c p).setSeg (eSeg e)
      { g with rowsum := (laneOf s.mem (granAddr p (fld e 9 16) + 8192)).1
               colsum := (laneOf s.mem (granAddr p (fld e 9 16) + 8192)).2 })) := by
  simp [State.mload, MRes.end, hop, hz, hempty, hsrc, hr, hg, hst]

end Sys2Proof.Machine

section

open Sys2Proof Sys2Proof.Machine

/-- Settles O13: what each of the three stores or loads when it has no defect. -/
theorem msumMsaveMload : Obligations.MsumMsaveMload := by
  intro s c u e h0 hready key m
  have hmat : (s.advance c u.val .m).mat c u.val = m := s.advance_mat ..
  have hissued := s.advance_engStep c u.val .m
  refine ⟨?msum, ?msave, ?mload⟩
  case msum =>
    intro f hop hz hf hint hk hseg dim len hsrc hdst hr bs
    have hd := State.msum_done (s := s.advance c u.val .m) (c := c) hop hz hf hint hk (hmat ▸ hseg) rfl rfl hsrc hdst hr
    exact ⟨_, rfl, State.mIssue_done h0 hready hop ((State.mExec_msum hop).trans hd) (hissued.store _ bs)⟩
  case msave =>
    intro hop hz hholds hidle hdst g
    have hd := State.msave_done (s := s.advance c u.val .m) (c := c) hop hz (hmat ▸ hholds) (hmat ▸ hidle) hdst
    rw [hmat] at hd
    exact ⟨_, rfl, State.mIssue_done h0 hready hop ((State.mExec_msave hop).trans hd) ((hissued.store _ _).setMat _)⟩
  case mload =>
    intro g hop hz hempty hsrc hr hg hst lane
    have hd := State.mload_done (s := s.advance c u.val .m) (c := c) hop hz (hmat ▸ hempty) hsrc hr (hmat ▸ hg) hst
    rw [hmat] at hd
    exact ⟨_, rfl, State.mIssue_setMat h0 hready hop ((State.mExec_mload hop).trans hd)⟩

end

namespace Sys2Proof.Machine

/-! ### MFIN (R106-R108, R118) -/

theorem State.mExec_mfin {s : State} {c p a : Nat} {e : Entry} (h : fld e 0 8 = 4) : s.mExec c p a e = s.mfin c p e := by
  simp [State.mExec, h]

/-- A segment that an MFIN finishes has still products to place (R106). -/
def Mat.mustPlace (m : Mat) (e : Entry) : Prop :=
  ((bit e 9 || !eSeg e) && m.placing false) = true ∨ ((bit e 9 || eSeg e) && m.placing true) = true

/-- An MFIN without a defect, all of whose products are placed. -/
structure MfinOk (s : State) (c p : Nat) (e : Entry) : Prop where
  placed0 : ((bit e 9 || !eSeg e) && (s.mat c p).placing false) = false
  placed1 : ((bit e 9 || eSeg e) && (s.mat c p).placing true) = false
  status : s.mfinStatus c p e = none
  readable : s.fbBad p (s.mfinReads c p e) = none

@[simp] theorem State.advance_mfinStatus (s : State) (c u : Nat) (q : Q) (d p : Nat) (e : Entry) :
    (s.advance c u q).mfinStatus d p e = s.mfinStatus d p e := by
  simp only [State.mfinStatus, State.advance_mat, State.advance_mem]

@[simp] theorem State.advance_mfinReads (s : State) (c u : Nat) (q : Q) (d p : Nat) (e : Entry) :
    (s.advance c u q).mfinReads d p e = s.mfinReads d p e := by
  simp only [State.mfinReads, State.advance_mat, State.advance_mem]

@[simp] theorem State.advance_tileMisfit (s : State) (c u : Nat) (q : Q) (d p : Nat) (e : Entry) :
    (s.advance c u q).tileMisfit d p e = s.tileMisfit d p e := by
  simp only [State.tileMisfit, State.advance_mat, State.col, State.advance_cols]

@[simp] theorem State.advance_stagedIn (s : State) (c u : Nat) (q : Q) (p : Nat) :
    (s.advance c u q).stagedIn p = s.stagedIn p := by simp only [State.stagedIn, State.advance_mat]

theorem MfinOk.advance {s : State} {c p : Nat} {e : Entry} (h : MfinOk s c p e) : MfinOk (s.advance c p .m) c p e where
  placed0 := by simpa using h.placed0
  placed1 := by simpa using h.placed1
  status := by simpa using h.status
  readable := by simpa using h.readable

theorem MfinOk.opcode {s : State} {c p : Nat} {e : Entry} (h : MfinOk s c p e) : fld e 0 8 = 4 := by
  by_contra hop
  simpa [State.mfinStatus, hop] using h.status

theorem State.mfin_wait_of_mustPlace {s : State} {c p : Nat} {e : Entry} (h : (s.mat c p).mustPlace e) :
    s.mfin c p e = .wait := by
  unfold State.mfin
  obtain h | h := h
  · rw [if_pos h]
  · simp only [if_pos h, ite_self]

/-- With a Fieldbook destination the tile is finished. -/
theorem MfinOk.finish {s : State} {c p : Nat} {e : Entry} (h : MfinOk s c p e) (hd : fld e 10 2 ≠ 1) :
    s.mfin c p e = .done 0 (s.mfinGo c p e) := by
  simp [State.mfin, MRes.end, h.placed0, h.placed1, h.status, h.readable, hd]

/-- A tile that fits its collective is finished while staging has room. -/
theorem MfinOk.stage {s : State} {c p : Nat} {e : Entry} (h : MfinOk s c p e) (hfit : s.tileMisfit c p e = false)
    (hroom : s.stagedIn p < 4) : s.mfin c p e = .done 0 (s.mfinGo c p e) := by
  simp [State.mfin, MRes.end, h.placed0, h.placed1, h.status, h.readable, hfit, Nat.not_le.2 hroom]

/-- While four tiles stand in staging the MFIN of a collective waits. -/
theorem MfinOk.wait {s : State} {c p : Nat} {e : Entry} (h : MfinOk s c p e) (hd : fld e 10 2 = 1)
    (hfit : s.tileMisfit c p e = false) (hfull : 4 ≤ s.stagedIn p) : s.mfin c p e = .wait := by
  simp [State.mfin, h.placed0, h.placed1, h.status, h.readable, hd, hfit, hfull]

/-! ### The tile that MFIN finishes -/

/-- The slot of the tile: that of segment 0 of a pair. -/
def Mat.finSlot (m : Mat) (e : Entry) : Slot := m.slot ((finSegs m e).headD Segment.empty).dslot

/-- Rows of the full tile. -/
def Mat.finDim (m : Mat) (e : Entry) : Nat := tileDim (dWide (m.finSlot e).desc) ((finSegs m e).headD Segment.empty).geom

/-- What MFIN computes of the Fieldbook of a parcel. -/
def Mat.finished (m : Mat) (mem : Memory) (p : Nat) (e : Entry) : FinTile :=
  finTile mem (fbAddr p 0) m (m.finSlot e).desc e (m.finDim e)

/-- The tile as it is staged for a collective (R118). -/
def Mat.stagedTile (m : Mat) (mem : Memory) (p : Nat) (e : Entry) : Tile :=
  ⟨fld e 88 12, fld e 100 20, m.finDim e, if bit e 9 then 2 * m.finDim e else m.finDim e, fld (m.finSlot e).desc 163 4,
    (m.finSlot e).ds, dZmode (m.finSlot e).desc, (m.finished mem p e).values, (m.finished mem p e).codes⟩

/-- The events of a finished tile and its MFIN counted, and its report to the catalogue made (R89, R90). -/
def State.finCounted (s : State) (p : Nat) (d : BitVec 512) (f : FinTile) : State :=
  ((s.countShed (ctrBase p + 17) f.events).count (ctrBase p + 31)).mfinReport d f

theorem State.mfinGo_fieldbook {s : State} {c p : Nat} {e : Entry} {m : Mat} (hm : s.mat c p = m) (hd : fld e 10 2 = 0) :
    s.mfinGo c p e = (s.setMat (engKey c p)
      (m.drain e ((m.finished s.mem p e).writes ++ (m.finished s.mem p e).scales))).finCounted p (m.finSlot e).desc
        (m.finished s.mem p e) := by
  subst hm
  simp only [State.mfinGo, hd]
  rfl

theorem State.mfinGo_collective {s : State} {c p : Nat} {e : Entry} {m : Mat} (hm : s.mat c p = m) (hd : fld e 10 2 = 1) :
    s.mfinGo c p e = ((s.updRun (fld e 88 12) fun r => { r with stagedQ := r.stagedQ ++ [engKey c p] }).setMat (engKey c p)
      { m.drain e (m.finished s.mem p e).scales with
        stage := (m.drain e (m.finished s.mem p e).scales).stage ++ [m.stagedTile s.mem p e] }).finCounted p
          (m.finSlot e).desc (m.finished s.mem p e) := by
  subst hm
  simp only [State.mfinGo, hd]
  rfl

theorem EngStep.mfinReport {s t : State} {k : Nat} {e : Eng} (h : EngStep s t k e) (d : BitVec 512) (f : FinTile) :
    EngStep (s.mfinReport d f) (t.mfinReport d f) k e := by
  unfold State.mfinReport
  split
  · exact h.map (fun s => s.catReport _ _ _) (fun _ _ _ => rfl) fun _ => rfl
  · exact h

theorem EngStep.finCounted {s t : State} {k : Nat} {e : Eng} (h : EngStep s t k e) (p : Nat) (d : BitVec 512)
    (f : FinTile) : EngStep (s.finCounted p d f) (t.finCounted p d f) k e :=
  ((h.countShed _ f.events).count _ 1).mfinReport d f

theorem EngStep.updRun {s t : State} {k : Nat} {e : Eng} (h : EngStep s t k e) (i : Nat) (f : ColRun → ColRun) :
    EngStep (s.updRun i f) (t.updRun i f) k e := by
  have hcol : ∀ (s : State) (g : Map Eng) (w : Map Bool),
      ({ s with eng := g, mod := { s.mod with gated := w } } : State).col i = s.col i := fun _ _ _ => rfl
  refine h.map (fun s => s.updRun i f) (fun s g w => ?_) fun s => ?_
  · simp only [State.updRun, hcol]
    split <;> rfl
  · unfold State.updRun
    split <;> rfl

theorem EngStep.mfinGo_fieldbook {b s : State} {c p : Nat} {e : Entry} {x : Eng} {m : Mat}
    (h : EngStep b s (engKey c p) x) (hm : s.mat c p = m) (hd : fld e 10 2 = 0) :
    EngStep (b.finCounted p (m.finSlot e).desc (m.finished s.mem p e)) (s.mfinGo c p e) (engKey c p)
      { x with mat := m.drain e ((m.finished s.mem p e).writes ++ (m.finished s.mem p e).scales) } := by
  rw [State.mfinGo_fieldbook hm hd]
  exact (h.setMat _).finCounted _ _ _

theorem EngStep.mfinGo_collective {b s : State} {c p : Nat} {e : Entry} {x : Eng} {m : Mat}
    (h : EngStep b s (engKey c p) x) (hm : s.mat c p = m) (hd : fld e 10 2 = 1) :
    EngStep ((b.updRun (fld e 88 12) fun r => { r with stagedQ := r.stagedQ ++ [engKey c p] }).finCounted p
        (m.finSlot e).desc (m.finished s.mem p e)) (s.mfinGo c p e) (engKey c p)
      { x with mat := { m.drain e (m.finished s.mem p e).scales with
        stage := (m.drain e (m.finished s.mem p e).scales).stage ++ [m.stagedTile s.mem p e] } } := by
  rw [State.mfinGo_collective hm hd]
  exact ((h.updRun _ _).setMat _).finCounted _ _ _

/-! ### The end of a drain (R106, R109) -/

/-- The matrix state after a drain has ended: its segments are empty. -/
def Mat.drained (m : Mat) (d : Drain) : Mat :=
  { m with
    drains := m.drains.erase d
    seg0 := if d.seg0 then Segment.empty else m.seg0
    seg1 := if d.seg1 then Segment.empty else m.seg1 }

theorem State.drainEnd_eq {s : State} {c p : Nat} {seg : Bool} {d : Drain}
    (h : (s.mat c p).drains.find? (fun d => if seg then d.seg1 else d.seg0) = some d) :
    s.drainEnd c p seg = ((s.putNibs d.writes).setMat (engKey c p) ((s.mat c p).drained d)).mRetry c p := by
  rw [State.drainEnd, h]
  cases h0 : d.seg0 <;> cases h1 : d.seg1 <;> simp [Mat.drained, Mat.setSeg, h0, h1]

theorem State.drainEnd_engStep (s : State) (c p : Nat) (d : Drain) :
    EngStep (s.putNibs d.writes) ((s.putNibs d.writes).setMat (engKey c p) ((s.mat c p).drained d)) (engKey c p)
      { s.engOf (engKey c p) with mat := (s.mat c p).drained d } :=
  (EngStep.refl (s.putNibs d.writes) (engKey c p)).setMat _

end Sys2Proof.Machine

section

open Sys2Proof Sys2Proof.Machine

/-- Settles O12: what MFIN does at its issue, at the end of its drain, and when it is examined again for a place in staging. -/
theorem mfinDrains : Obligations.MfinDrains := by
  intro s c
  refine ⟨?issues, ?drains, ?staging⟩
  case issues =>
    intro u e h0 hready key m
    have hmat : (s.advance c u.val .m).mat c u.val = m := s.advance_mat ..
    have hissued := s.advance_engStep c u.val .m
    refine ⟨fun hplace hop => ⟨_, rfl, State.mIssue_wait h0 hready hop
      ((State.mExec_mfin hop).trans (State.mfin_wait_of_mustPlace (hmat ▸ hplace)))⟩, ?_⟩
    intro hp0 hp1 hstatus hread sl dim f after
    have hok : MfinOk s c u.val e := ⟨hp0, hp1, hstatus, hread⟩
    have hop := hok.opcode
    refine ⟨fun hd => ⟨_, rfl, ?_⟩, fun hd hfit hroom => ⟨_, rfl, ?_⟩, fun hd hfit hfull => ⟨_, rfl, ?_⟩⟩
    · exact State.mIssue_done h0 hready hop ((State.mExec_mfin hop).trans (hok.advance.finish (by omega)))
        (hissued.mfinGo_fieldbook hmat hd)
    · exact State.mIssue_done h0 hready hop
        ((State.mExec_mfin hop).trans (hok.advance.stage (by simpa using hfit) (by simpa using hroom)))
        (hissued.mfinGo_collective hmat hd)
    · exact State.mIssue_wait h0 hready hop
        ((State.mExec_mfin hop).trans (hok.advance.wait hd (by simpa using hfit) (by simpa using hfull)))
  case drains =>
    intro p seg d hctx hfind hidle
    have hstep := s.drainEnd_engStep c p.val d
    refine ⟨_, by simp only [exec, execSegmentDrainEnd, hctx]; rw [State.drainEnd_eq hfind], ?_⟩
    rw [State.mRetry_idle (by rw [hstep.here]; exact hidle)]
    exact hstep
  case staging =>
    intro p a e hctx hhead hpassed hd hp0 hp1 hstatus hread hfit
    obtain ⟨hruns, -⟩ := State.engineCtx_some hctx
    have hok : MfinOk s c p.val e := ⟨hp0, hp1, hstatus, hread⟩
    have hop := hok.opcode
    refine ⟨fun hroom => ?_, fun hfull hctx3 => ?_⟩
    · have hstands : ((s.mfinGo c p.val e).queue (engKey c p.val) .m).passed = [] := by
        rw [State.queue, ((EngStep.refl s _).mfinGo_collective rfl hd).here]
        exact hpassed
      simp only [exec, execMfinStagingFree, hctx]
      rw [State.mRetry_done hhead (by omega) hruns ((State.mExec_mfin hop).trans (hok.stage hfit hroom)) hstands]
    · simp only [exec, execMfinStagingExpiry, hctx3, hhead, hok.wait hd hfit hfull, if_pos hfull]
      rfl

end

namespace Sys2Proof.Machine

/-! # The V queue (O14)

A V entry that issues in a parcel waits while the engine is busy, or starts in it; VSET ends at once. A step of the running
entry writes its results as half-bytes of the Fieldbook and replaces the vector state. Of an element-wise entry whose results
are whole bytes, unmasked and without an output scale, those writes are one for each element of the step, so that the place
of an element holds what the write of that element put there. -/

/-! ### Entries at their issue (R125, R126, R131) -/

@[simp] theorem State.advance_vec (s : State) (c u : Nat) (q : Q) (d p : Nat) : (s.advance c u q).vec d p = s.vec d p := by
  unfold State.vec
  by_cases h : engKey d p = engKey c u
  · rw [h, (s.advance_engStep c u q).here]; rfl
  · rw [(s.advance_engStep c u q).away _ h]

/-- In a parcel a V entry is examined where it issues. -/
theorem State.vIssue_ready {s : State} {u c op : Nat} {e : Entry} (h0 : unitOrder u = 0) (h : Ready s u .v c)
    (ho : fld e 0 8 = op) : s.vIssue u op e = (s.advance c u .v).vExec c u (s.queue (engKey c u) .v).pc e :=
  State.issue_parcel h0 h ho _

theorem State.vExec_busy {s : State} {c p a : Nat} {e : Entry} (h : (s.vec c p).run ≠ none) :
    s.vExec c p a e = s.waitHead c p .v ⟨a, e, .engine⟩ := by
  simp [State.vExec, Option.isSome_iff_ne_none.2 h]

/-- An entry that no check refuses takes the engine as it leaves the head. -/
theorem State.vExec_start {s : State} {c p a : Nat} {e : Entry} (hidle : (s.vec c p).run = none)
    (hop : vOpcode (fld e 0 8) = true) (hne : fld e 0 8 ≠ 0x10)
    (hok : vStartStatus ((s.vec c p).setup e) e (s.vec c p).openLed = none) :
    s.vExec c p a e = (s.leaveHead c p .v).setVec (engKey c p) { s.vec c p with run := some ⟨a, e, 0, []⟩ } := by
  simp [State.vExec, hidle, hop, hne, hok]

theorem State.vExec_vset {s : State} {c p a : Nat} {e : Entry} (hidle : (s.vec c p).run = none) (hop : fld e 0 8 = 0x10) :
    s.vExec c p a e = (s.vset c p e).1.endEntry c p .v a (s.vset c p e).2 := by
  simp [State.vExec, hidle, hop, vOpcode]

/-- A VSET of a record that keeps R127, at an aligned granule that can be read, loads its slot. -/
theorem State.vset_done {s : State} {c p : Nat} {e : Entry} {d : BitVec 512} (hfields : vFieldsOk e = true)
    (haligned : fld e 10 16 % 4 = 0) (hrange : fld e 10 16 ≤ 0xBFFF)
    (hread : s.badIn (granAddr p (fld e 10 16)) 64 = false)
    (hd : BitVec.ofNat 512 (s.mem.readLE (granAddr p (fld e 10 16)) 64) = d) (hsetup : setupOk d = true) :
    s.vset c p e =
      (s.setVec (engKey c p) { s.vec c p with slots := Map.put (s.vec c p).slots (fld e 8 2) d }, 0) := by
  subst hd
  unfold granAddr at hread hsetup ⊢
  simp [State.vset, hfields, haligned, Nat.not_lt.2 hrange, hread, hsetup]

/-- An entry that replaces the vector state as it leaves the head has issued in the sense of the statements. -/
theorem Eng.vacated_advanced_vec (x : Eng) (v : Vec) :
    ({ x.advanced .v with vec := v } : Eng).vacated .v = { x.issued .v with vec := v } := by
  simp [Eng.vacated, Eng.advanced, Eng.issued]

theorem State.vIssue_busy {s : State} {u c op : Nat} {e : Entry} (h0 : unitOrder u = 0) (h : Ready s u .v c)
    (ho : fld e 0 8 = op) (hbusy : (s.vec c u).run ≠ none) :
    EngStep s (s.vIssue u op e) (engKey c u) ((s.engOf (engKey c u)).waits .v e .engine s.now s.t2) := by
  rw [State.vIssue_ready h0 h ho, State.vExec_busy (by simpa using hbusy), Eng.waits_eq_advanced]
  exact (s.advance_engStep c u .v).waitHead .v _

theorem State.vIssue_start {s : State} {u c op : Nat} {e : Entry} (h0 : unitOrder u = 0) (h : Ready s u .v c)
    (ho : fld e 0 8 = op) (hop : vOpcode op = true) (hne : op ≠ 0x10) (hidle : (s.vec c u).run = none)
    (hok : vStartStatus ((s.vec c u).setup e) e (s.vec c u).openLed = none) :
    EngStep s (s.vIssue u op e) (engKey c u) { (s.engOf (engKey c u)).issued .v with
      vec := { s.vec c u with run := some ⟨(s.queue (engKey c u) .v).pc, e, 0, []⟩ } } := by
  subst ho
  rw [State.vIssue_ready h0 h rfl, State.vExec_start (by simpa using hidle) hop hne (by simpa using hok),
    State.advance_vec, ← Eng.vacated_advanced_vec]
  exact ((s.advance_engStep c u .v).leaveHead .v).setVec _

theorem State.vIssue_vset {s : State} {u c : Nat} {e : Entry} {v : Vec} (h0 : unitOrder u = 0) (h : Ready s u .v c)
    (ho : fld e 0 8 = 0x10) (hidle : (s.vec c u).run = none)
    (hdone : (s.advance c u .v).vset c u e = ((s.advance c u .v).setVec (engKey c u) v, 0)) :
    EngStep s (s.vIssue u 0x10 e) (engKey c u) { (s.engOf (engKey c u)).issued .v with vec := v } := by
  rw [State.vIssue_ready h0 h ho, State.vExec_vset (by simpa using hidle) ho, hdone, State.endEntry_done,
    ← Eng.vacated_advanced_vec]
  exact ((s.advance_engStep c u .v).setVec v).leaveHead .v

/-- The commands of the entries that the engine runs, with their opcodes (R129). -/
def vCommands (u : UnitIx) (e : Entry) : List (Nat × Instr) :=
  [(0x11, .vadd u e), (0x12, .vsub u e), (0x13, .vmul u e), (0x14, .vfma u e), (0x15, .vmin u e), (0x16, .vmax u e),
    (0x17, .vabs u e), (0x18, .vneg u e), (0x19, .vcvt u e), (0x1A, .vcmp u e), (0x1B, .vsel u e), (0x20, .vfun u e),
    (0x30, .vsweep u e), (0x31, .vred u e), (0x32, .vperm u e), (0x33, .vgath u e)]

theorem exec_vCommands (u : UnitIx) (e : Entry) (s : State) :
    ∀ x ∈ vCommands u e, exec x.2 s = .next (s.vIssue u.val x.1 e) := by
  simp only [vCommands, List.forall_mem_cons]
  exact ⟨rfl, rfl, rfl, rfl, rfl, rfl, rfl, rfl, rfl, rfl, rfl, rfl, rfl, rfl, rfl, rfl, List.forall_mem_nil _⟩

theorem vOpcode_vCommands (u : UnitIx) (e : Entry) : ∀ x ∈ vCommands u e, vOpcode x.1 = true ∧ x.1 ≠ 0x10 := by
  simp [vCommands, vOpcode]

/-! ### A step of the running entry (R124, R147) -/

/-- What the next step of a running entry does. -/
def State.vStepOut (s : State) (c p : Nat) (r : VRun) : VOut :=
  let d := (s.vec c p).setup r.entry
  let fb := fbAddr p 0
  let ahead := vAhead d r.entry r.group
  vStep s.mem fb d r.entry r.group
    (Map.getD ((s.vec c p).openRow d r.entry r.group).ledgers (fld r.entry 19 3) vRedClear) r.kept
    (if s.fbBad p (vStepRanges s.mem fb d r.entry ahead) = none then ahead else [])

/-- The state in which the writes of that step have landed. -/
def State.vStepped (s : State) (c p : Nat) (r : VRun) : State :=
  let d := (s.vec c p).setup r.entry
  s.vLand p d r.entry (s.vStepOut c p r) (vReadElems d r.entry r.group)

/-- The vector state after that step; what runs then is given. -/
def State.vecStepped (s : State) (c p : Nat) (r : VRun) (run : Option VRun) : Vec :=
  let d := (s.vec c p).setup r.entry
  { ((s.vec c p).openRow d r.entry r.group).keepLedger r.entry (vFinal d r.entry r.group) (s.vStepOut c p r).ledger with
    run := run }

/-- The running entry at its next step. -/
def State.vNext (s : State) (c p : Nat) (r : VRun) : VRun :=
  { r with
    group := r.group + 1
    kept := vKeep s.mem (fbAddr p 0) ((s.vec c p).setup r.entry) r.entry r.group r.kept }

/-- The reads of the next step of a running entry are good. -/
def State.vReadable (s : State) (c p : Nat) (r : VRun) : Prop :=
  let d := (s.vec c p).setup r.entry
  s.fbBad p (vStepRanges s.mem (fbAddr p 0) d r.entry (vReadElems d r.entry r.group)) = none

/-- The next step of a running entry is its last. -/
def State.vLast (s : State) (c p : Nat) (r : VRun) : Bool := r.group + 1 == vSteps ((s.vec c p).setup r.entry) r.entry

/-- A step whose reads are good lands its writes and moves on; after the last one the entry ends. -/
theorem State.vGroup_eq {s : State} {c p : Nat} {r : VRun} (hgood : s.vReadable c p r) :
    s.vGroup c p r =
      if s.vLast c p r then ((s.vStepped c p r).setVec (engKey c p) (s.vecStepped c p r (some (s.vNext c p r)))).vEnd c p 0 r
      else (s.vStepped c p r).setVec (engKey c p) (s.vecStepped c p r (some (s.vNext c p r))) := by
  have hahead : ∀ (o : Option Nat) (l : List Nat), (if o.isSome then [] else l) = if o = none then l else [] := by
    rintro (_ | _) _ <;> rfl
  rw [State.vReadable] at hgood
  simp only [State.vGroup, hgood, hahead]
  rfl

theorem EngStep.vLand {s t : State} {k : Nat} {x : Eng} (h : EngStep s t k x) (p : Nat) (d : BitVec 512) (e : Entry)
    (o : VOut) (is : List Nat) : EngStep (s.vLand p d e o is) (t.vLand p d e o is) k x :=
  ((h.putNibs _).countShed _ _).count _ _

/-- With nothing at the head that waits in the engine, an entry that ends with DONE only leaves the engine. -/
theorem EngStep.vEnd {b s : State} {c p : Nat} {x : Eng} (h : EngStep b s (engKey c p) x)
    (hhead : x.engineHead .v = none) (r : VRun) :
    EngStep b (s.vEnd c p 0 r) (engKey c p) { x with vec := { x.vec with run := none } } := by
  have hvec : s.vec c p = x.vec := congrArg Eng.vec h.here
  have hended := h.setVec { x.vec with run := none }
  change EngStep b ((s.setVec (engKey c p) { s.vec c p with run := none }).vRetry c p) _ _
  rw [hvec, State.vRetry, hended.here]
  dsimp only
  rw [show Eng.engineHead { x with vec := { x.vec with run := none } } .v = none from hhead]
  exact hended

/-- What such a step leaves of the unit: nothing changes there but the vector state. -/
theorem State.vGroup_engStep {s : State} {c p : Nat} {r : VRun} (hgood : s.vReadable c p r)
    (hstands : (s.engOf (engKey c p)).engineHead .v = none ∨ s.vLast c p r = false) :
    EngStep (s.vStepped c p r) (s.vGroup c p r) (engKey c p) { s.engOf (engKey c p) with
      vec := s.vecStepped c p r (if s.vLast c p r then none else some (s.vNext c p r)) } := by
  have hstep : EngStep (s.vStepped c p r) _ (engKey c p) _ :=
    ((EngStep.refl s (engKey c p)).vLand p _ r.entry _ _).setVec (s.vecStepped c p r (some (s.vNext c p r)))
  rw [State.vGroup_eq hgood]
  cases hlast : s.vLast c p r with
  | false => exact hstep
  | true => exact hstep.vEnd (hstands.resolve_right (by simp [hlast])) r

theorem State.vStepped_mem (s : State) (c p : Nat) (r : VRun) :
    (s.vStepped c p r).mem = Machine.putNibs s.mem (s.vStepOut c p r).writes :=
  (State.countAll_accessOnly (s.putNibs _) _).mem

/-- The memory after such a step is that before it with the writes of the step. -/
theorem State.vGroup_mem {s : State} {c p : Nat} {r : VRun} (hgood : s.vReadable c p r)
    (hstands : (s.engOf (engKey c p)).engineHead .v = none ∨ s.vLast c p r = false) :
    (s.vGroup c p r).mem = Machine.putNibs s.mem (s.vStepOut c p r).writes := by
  rw [(State.vGroup_engStep hgood hstands).eq, ← State.vStepped_mem]

/-- V_GROUP takes the next step of the entry that the engine runs. -/
theorem exec_vGroup {s : State} {p : ParcelIx} {c : Nat} {r : VRun} (hctx : s.vecCtx p.val = some c)
    (hrun : (s.vec c p.val).run = some r) : exec (.vGroup p) s = .next (s.vGroup c p.val r) := by
  simp only [exec, execVGroup, hctx, hrun]

/-! ### Elements of whole bytes -/

/-- Where an element of `n` bytes begins. -/
theorem nibOf_bytes (a n k : Nat) : nibOf a (8 * n) k / 2 = a + n * k := by
  have hw : 8 * n / 4 = 2 * n := by omega
  rw [nibOf, hw, mul_assoc]
  omega

theorem putNib_bytes {n : Nat} (m : Memory) (a k v : Nat) :
    putNib m (nibOf a (8 * n) k) (8 * n) v = m.writeLE (a + n * k) n v := by
  rw [putNib, if_neg (by omega), nibOf_bytes, Nat.mul_div_cancel_left _ (by decide)]

theorem elemAt_bytes {n : Nat} (m : Memory) (a k : Nat) : elemAt m a (8 * n) k = m.readLE (a + n * k) n := by
  rw [elemAt, if_neg (by omega), Nat.mul_div_cancel_left _ (by decide)]

theorem elemAt_putNib_self (m : Memory) (a n k v : Nat) :
    elemAt (putNib m (nibOf a (8 * n) k) (8 * n) v) a (8 * n) k = v % 2 ^ (8 * n) := by
  rw [putNib_bytes, elemAt_bytes, Memory.readLE_writeLE, pow_mul]
  norm_num

theorem elemAt_putNib_ne (m : Memory) (a n v : Nat) {j k : Nat} (h : k ≠ j) :
    elemAt (putNib m (nibOf a (8 * n) j) (8 * n) v) a (8 * n) k = elemAt m a (8 * n) k := by
  have hapart : n * k + n ≤ n * j ∨ n * j + n ≤ n * k := by
    obtain h | h := h.lt_or_gt
    · exact .inl (Nat.mul_le_mul_left n h)
    · exact .inr (Nat.mul_le_mul_left n h)
  rw [putNib_bytes, elemAt_bytes, elemAt_bytes, Memory.readLE, Memory.writeLE,
    Memory.readN_writeN_out _ _ _ (by rw [toLE_length]; omega), Memory.readLE]

/-- After a list of elements has been written, each with its code, the place of each of them holds its code. -/
theorem elemAt_putNibs (m : Memory) (a n : Nat) (code : Nat → Nat) (js : List Nat) (k : Nat) :
    elemAt (putNibs m (js.map fun j => (nibOf a (8 * n) j, 8 * n, code j))) a (8 * n) k =
      if k ∈ js then code k % 2 ^ (8 * n) else elemAt m a (8 * n) k := by
  induction js generalizing m with
  | nil => simp [putNibs]
  | cons j js ih =>
    rw [List.map_cons, putNibs, List.foldl_cons]
    refine (ih _).trans ?_
    by_cases hjs : k ∈ js
    · simp [hjs]
    · obtain rfl | hj := eq_or_ne k j
      · simp [hjs, elemAt_putNib_self]
      · simp [hjs, hj, elemAt_putNib_ne _ _ _ _ hj]

/-! ### Results of element-wise entries (R132-R138) -/

theorem Val.scale_zero (v : Val) : v.scale 0 = v := by
  cases v <;> simp [Val.scale]

/-- The settings of the conversion of a result (R51, R132). -/
def vConv (d : BitVec 512) : ConvSet := ⟨bit d 20, bit d 21, bit d 22, vZo d⟩

/-- No block becomes NaN in a format of whole bytes without a scale (R53). -/
theorem nanBlockTarget_unscaled {f : Fmt} (h : f.width ≠ 4) : nanBlockTarget f false = false := by
  cases f with
  | fp4 | l4 => exact absurd rfl h
  | _ => rfl

/-- Without an output scale a block of whole-byte elements is converted element by element. -/
theorem writeBlock_unscaled {d : BitVec 512} (hosc : vOsc d = 0) (hw : (vFd d).width ≠ 4) (given : Nat) (vs : List Val) :
    (writeBlock (vFin d) given vs).codes = vs.map fun v => (convert (vFd d) (vConv d) v).code := by
  simp [writeBlock, vFin, vConv, hosc, nanBlockTarget_unscaled hw, Val.scale_zero]

theorem vPut_bytes {d : BitVec 512} (hw : (vFd d).width ≠ 4) (fb : Nat) (e : Entry) (i code : Nat) :
    vPut fb d e i code = (nibOf (fb + 16 * fld e 96 16) (vFd d).width i, (vFd d).width, code) := by
  simp [vPut, hw]

/-- The elements of a list, in the order in which a step writes them: block by block (R130). -/
def vByBlock (d : BitVec 512) (e : Entry) (is : List Nat) : List Nat :=
  (is.map (vBlock d e)).eraseDups.flatMap fun b => is.filter (vBlock d e · == b)

theorem mem_vByBlock {d : BitVec 512} {e : Entry} {is : List Nat} {i : Nat} : i ∈ vByBlock d e is ↔ i ∈ is := by
  simp only [vByBlock, List.mem_flatMap, List.mem_eraseDups, List.mem_map, List.mem_filter, beq_iff_eq]
  exact ⟨fun ⟨_, _, hi, _⟩ => hi, fun hi => ⟨_, ⟨i, hi, rfl⟩, hi, rfl⟩⟩

/-- Unscaled results of whole bytes with every element active: one write for each element, of its result once converted. -/
theorem vWriteBlocks_unscaled {d : BitVec 512} (hosc : vOsc d = 0) (hw : (vFd d).width ≠ 4) (m : Memory) (fb : Nat)
    (e : Entry) (val : Nat → Val) (is : List Nat) (putZero : Bool) :
    (vWriteBlocks m fb d e (is.map fun i => (i, some (val i))) [] putZero).1 = (vByBlock d e is).map fun i =>
      (nibOf (fb + 16 * fld e 96 16) (vFd d).width i, (vFd d).width, (convert (vFd d) (vConv d) (val i)).code) := by
  simp [vWriteBlocks, vByBlock, List.filter_map, List.map_flatMap, List.flatMap_map, Function.comp_def, hosc, vPut_bytes hw,
    writeBlock_unscaled hosc hw, List.zip_map']

/-- The opcodes of the element-wise entries (R129). -/
def vElementwise (op : Nat) : Bool := [0x11, 0x12, 0x13, 0x14, 0x15, 0x16, 0x17, 0x18, 0x19, 0x1B, 0x20].contains op

/-- A step of an unmasked element-wise entry without a given scale writes the results of its elements by blocks. -/
theorem vStep_elementwise {e : Entry} (hop : vElementwise (fld e 0 8) = true) (hmask : bit e 10 = false) (m : Memory)
    (fb : Nat) (d : BitVec 512) (g : Nat) (l0 : Ledger) (kept : Map Nat) :
    (vStep m fb d e g l0 kept []).writes =
      (vWriteBlocks m fb d e ((vElems d e g).map fun i => (i, some (vResultVal m fb d e i))) [] (bit e 12)).1 := by
  simp only [vElementwise, List.contains_iff_mem, List.mem_cons, List.not_mem_nil, or_false] at hop
  obtain hop | hop | hop | hop | hop | hop | hop | hop | hop | hop | hop := hop <;> simp [vStep, hop, vActive, hmask]

theorem vAhead_unscaled {d : BitVec 512} (hosc : vOsc d = 0) (e : Entry) (g : Nat) : vAhead d e g = [] := by
  simp [vAhead, hosc]

/-- Where no output scale is given a step looks at no element behind its own (R53). -/
theorem State.vStepOut_unscaled {s : State} {c p : Nat} {r : VRun} {d : BitVec 512} (hd : (s.vec c p).setup r.entry = d)
    (hosc : vOsc d = 0) : ∃ l0, s.vStepOut c p r = vStep s.mem (fbAddr p 0) d r.entry r.group l0 r.kept [] := by
  subst hd
  simp only [State.vStepOut, vAhead_unscaled hosc, ite_self]
  exact ⟨_, rfl⟩

/-- After such a step the place of each of its elements holds the code of its exact result, once rounded. -/
theorem elemAt_vStep {e : Entry} {d : BitVec 512} {i g : Nat} (hop : vElementwise (fld e 0 8) = true)
    (hmask : bit e 10 = false) (hosc : vOsc d = 0) (hw : (vFd d).width ∈ [8, 16, 32]) (hi : i ∈ vElems d e g) (m : Memory)
    (fb : Nat) (l0 : Ledger) (kept : Map Nat) :
    elemAt (putNibs m (vStep m fb d e g l0 kept []).writes) (fb + 16 * fld e 96 16) (vFd d).width i =
      (convert (vFd d) (vConv d) (vResultVal m fb d e i)).code % 2 ^ (vFd d).width := by
  obtain ⟨n, hn⟩ : ∃ n, (vFd d).width = 8 * n := by
    simp only [List.mem_cons, List.not_mem_nil, or_false] at hw
    exact ⟨(vFd d).width / 8, by omega⟩
  have hw4 : (vFd d).width ≠ 4 := by omega
  rw [vStep_elementwise hop hmask, vWriteBlocks_unscaled hosc hw4, hn, elemAt_putNibs, if_pos (mem_vByBlock.2 hi)]

/-- The element-wise opcodes, each with its exact result (R132-R138); a product takes the path of its pair of formats
(R46). -/
def vResults (m : Memory) (fb : Nat) (d : BitVec 512) (e : Entry) (i : Nat) : List (Nat × Val) :=
  let a := vOperand m fb d e 0 i
  let b := vOperand m fb d e 1 i
  [(0x11, a.add b), (0x12, a.add b.negate), (0x13, vProduct m fb d e 1 i),
    (0x14, (vProduct m fb d e 1 i).add (vOperand m fb d e 2 i)), (0x15, a.min b), (0x16, a.max b), (0x17, a.abs),
    (0x18, a.negate), (0x19, match a with | .zero _ => .zero false | v => v),
    (0x1B, if maskBit m fb (fld e 80 16) i then a else b), (0x20, vfunVal (vSub e) a)]

theorem vElementwise_of_mem_vResults {m : Memory} {fb : Nat} {d : BitVec 512} {e : Entry} {i op : Nat} {x : Val}
    (h : (op, x) ∈ vResults m fb d e i) : vElementwise op = true := by
  have hops : (vResults m fb d e i).map Prod.fst = [0x11, 0x12, 0x13, 0x14, 0x15, 0x16, 0x17, 0x18, 0x19, 0x1B, 0x20] := rfl
  exact List.contains_iff_mem.2 (hops ▸ List.mem_map_of_mem h)

theorem vResultVal_of_mem_vResults {m : Memory} {fb : Nat} {d : BitVec 512} {e : Entry} {i : Nat} {x : Val}
    (h : (fld e 0 8, x) ∈ vResults m fb d e i) : vResultVal m fb d e i = x := by
  simp only [vResults, List.mem_cons, Prod.mk.injEq, List.not_mem_nil, or_false] at h
  unfold vResultVal
  obtain ⟨hop, rfl⟩ | ⟨hop, rfl⟩ | ⟨hop, rfl⟩ | ⟨hop, rfl⟩ | ⟨hop, rfl⟩ | ⟨hop, rfl⟩ | ⟨hop, rfl⟩ | ⟨hop, rfl⟩ | ⟨hop, rfl⟩ |
    ⟨hop, rfl⟩ | ⟨hop, rfl⟩ := h <;> rw [hop] <;> rfl

end Sys2Proof.Machine

section

open Sys2Proof Sys2Proof.Machine

/-- Settles O14: entries at their issue, a step of the one that runs, and the place of an element after such a step. -/
theorem vectorEntries : Obligations.VectorEntries := by
  refine ⟨?issues, ?steps, ?results⟩
  case issues =>
    intro s c u e h0 hready key v
    refine ⟨fun hop hidle hfields haligned hrange hread hsetup => ?vset, fun cmd hcmd => ?entry⟩
    case vset =>
      have hdone := State.vset_done (s := s.advance c u.val .v) (c := c) hfields haligned hrange hread rfl hsetup
      rw [State.advance_vec] at hdone
      exact ⟨_, rfl, State.vIssue_vset h0 hready hop hidle hdone⟩
    case entry =>
      obtain ⟨hop, hne⟩ := vOpcode_vCommands u e _ hcmd
      have hexec := exec_vCommands u e s _ hcmd
      exact ⟨fun hidle hok => ⟨_, hexec, State.vIssue_start h0 hready rfl hop hne hidle hok⟩,
        fun hbusy => ⟨_, hexec, State.vIssue_busy h0 hready rfl hbusy⟩⟩
  case steps =>
    intro s c p r hctx hrun key e d v fb is ahead hgood o last s1 hstands
    exact ⟨s.vGroup c p.val r, exec_vGroup hctx hrun, State.vGroup_engStep hgood hstands⟩
  case results =>
    intro s c p r i x hctx hrun e d fb hgood hidle hosc hmask hw _ hi hx
    have hresult : (fld e 0 8, x) ∈ vResults s.mem fb d e i := hx
    refine ⟨s.vGroup c p.val r, exec_vGroup hctx hrun, ?_⟩
    obtain ⟨l0, hout⟩ := State.vStepOut_unscaled (s := s) (c := c) (p := p.val) rfl hosc
    rw [State.vGroup_mem hgood (.inl hidle), hout, ← vResultVal_of_mem_vResults hresult]
    exact elemAt_vStep (vElementwise_of_mem_vResults hresult) hmask hosc hw hi ..

end

namespace Sys2Proof.Machine

/-! # The synchronisation entries (O15 to O19)

A synchronisation entry that its queue can issue runs in the state after the issue (R153): `State.syncIssue_ready`. -/

/-! ### What the issue of an entry leaves as it was, for the synchronisation entries -/

@[simp] theorem State.advance_queue (s : State) (c u : Nat) (q : Q) :
    (s.advance c u q).queue (engKey c u) q = (s.queue (engKey c u) q).advanced := State.queue_setQueue ..

/-- An entry that issues and leaves the head at once. -/
theorem Eng.vacated_advanced_self (e : Eng) (q : Q) : (e.advanced q).vacated q = e.issued q := by
  simp [Eng.vacated, Eng.advanced, Eng.issued]

/-! ### Entries that change their own queue (R154, R155) -/

/-- An entry that issues and changes the queue that it has passed. -/
theorem State.queueOp_advance_engStep (s : State) (c u : Nat) (q : Q) (f : Queue → Queue) :
    EngStep s ((s.advance c u q).queueOp c u q f) (engKey c u) { s.engOf (engKey c u) with
      sync := (s.engOf (engKey c u)).sync.setQueue q (f (s.queue (engKey c u) q).advanced) } := by
  have h := (s.advance_engStep c u q).setQueue q (f (s.queue (engKey c u) q).advanced)
  simpa [State.queueOp, Eng.advanced] using h

/-- The end of a context touches no unit (R336). -/
theorem State.endedCheck_eng (s : State) (c : Nat) (b : Bool) : (s.endedCheck c b).eng = s.eng := by
  unfold State.endedCheck
  dsimp only
  split
  · exact (State.event_logOnly _ _ _ _).eng
  · rfl

/-- While a Bindery queue of the context has not reached END, the context has not ended (R336). -/
theorem State.endedCheck_of_not_bndEnded {s : State} {c : Nat} {b : Bool} (hb : b = false) : s.endedCheck c b = s := by
  simp [State.endedCheck, hb]

section

variable {w : Queue} {e : Entry}

theorem Queue.jump_always (h : fld e 80 3 = 0) : w.jump e = { w with pc := fld e 64 16 } := by
  simp [Queue.jump, yCond, yAddr, h]

theorem Queue.jump_class (h : fld e 80 3 = 1) :
    w.jump e = if w.status / 256 = fld e 83 8 then { w with pc := fld e 64 16 } else w := by
  simp [Queue.jump, yCond, yAddr, h]

theorem Queue.jump_counted (h : fld e 80 3 = 2) : w.jump e = if w.loops.getD (fld e 91 2) 0 = 0 then w else
    { w with pc := fld e 64 16, loops := w.loops.set (fld e 91 2) (w.loops.getD (fld e 91 2) 0 - 1) } := by
  simp [Queue.jump, yCond, yAddr, yLc, h]

theorem Queue.jump_clear (h : fld e 80 3 = 3) : w.jump e = { w with pc := fld e 64 16, status := 0 } := by
  simp [Queue.jump, yCond, yAddr, h]

end

end Sys2Proof.Machine

section

open Sys2Proof Sys2Proof.Machine

/-- Settles O15: each entry changes the queue that it has passed; a SEND may end its context besides, which touches no unit. -/
theorem queueControl : Obligations.QueueControl := by
  intro s c u q e hready hok key x w becomes
  have step (f : Queue → Queue) := s.queueOp_advance_engStep c u.val q f
  refine ⟨fun hop => ?shnd, fun hop => ?sjmp, fun hop => ?sldc, fun hop => ?send⟩
  case shnd =>
    rw [hop] at hready
    refine ⟨_, congrArg Host.Outcome.next (State.syncIssue_ready hready hop hok _), ?_⟩
    exact step _
  case sjmp =>
    rw [hop] at hready
    have jumps {v : Queue} (hv : w.jump e = v) : becomes _ v := hv ▸ step fun w => w.jump e
    refine ⟨_, congrArg Host.Outcome.next (State.syncIssue_ready hready hop hok _), fun h => jumps (Queue.jump_always h),
      fun h => jumps (Queue.jump_class h), fun h n hn => jumps (hn ▸ Queue.jump_counted h),
      fun h => jumps (Queue.jump_clear h)⟩
  case sldc =>
    rw [hop] at hready
    exact ⟨_, congrArg Host.Outcome.next (State.syncIssue_ready hready hop hok _), step _⟩
  case send =>
    rw [hop] at hready
    refine ⟨_, congrArg Host.Outcome.next (State.syncIssue_ready hready hop hok _), ?_, fun hb => ?_⟩
    · rw [State.queue, State.engOf_congr (State.endedCheck_eng ..), (step _).here]
      exact Sync.queue_setQueue ..
    · dsimp only
      rw [State.endedCheck_of_not_bndEnded]
      · exact step _
      · exact hb

end

namespace Sys2Proof.Machine

/-! ### A queue replaced leaves the stakes and the closure bits -/

@[simp] theorem Sync.setQueue_stakes (y : Sync) (q : Q) (v : Queue) : (y.setQueue q v).stakes = y.stakes := by cases q <;> rfl

@[simp] theorem State.setQueue_stake (s : State) (k : Nat) (q : Q) (v : Queue) (h i : Nat) :
    (s.setQueue k q v).stake h i = s.stake h i := by
  unfold State.stake State.setQueue State.setSync
  obtain rfl | hne := eq_or_ne h k
  · simp
  · rw [State.engOf_setEng_ne _ _ hne]

@[simp] theorem State.advance_stake (s : State) (c u : Nat) (q : Q) (h i : Nat) :
    (s.advance c u q).stake h i = s.stake h i := State.setQueue_stake ..

@[simp] theorem State.advance_target (s : State) (c u d v : Nat) (q : Q) (e : Entry) :
    (s.advance c u q).target d v e = s.target d v e := rfl

/-- An entry that ends with a status with which its queue does not advance fails it (R154). -/
theorem State.endEntry_failing {status : Nat} (h : advances status = false) (s : State) (c u : Nat) (q : Q) (a : Nat) :
    s.endEntry c u q a status = s.failQueue 4 c u q a status (a + 1) 0 := by
  simp [State.endEntry, h]

/-- An entry that issues and leaves the head at once. -/
theorem State.leaveHead_advance_engStep (s : State) (c u : Nat) (q : Q) :
    EngStep s ((s.advance c u q).leaveHead c u q) (engKey c u) ((s.engOf (engKey c u)).issued q) :=
  Eng.vacated_advanced_self (s.engOf (engKey c u)) q ▸ (s.advance_engStep c u q).leaveHead q

/-- An entry that issues and waits at the head. -/
theorem State.waitHead_advance_engStep (s : State) (c u : Nat) (q : Q) (e : Entry) (k : WaitKind) :
    EngStep s ((s.advance c u q).waitHead c u q ⟨(s.queue (engKey c u) q).pc, e, k⟩) (engKey c u)
      ((s.engOf (engKey c u)).waits q e k s.now s.t2) := by
  rw [Eng.waits_eq_advanced]
  exact (s.advance_engStep c u q).waitHead q _

/-! ### Waits on stakes (R155, R157, R160) -/

section

variable {s : State} {c u h a : Nat} {q : Q} {e : Entry} {want : Want}

/-- A wait on a stake in the state that it waits for proceeds; one with CLR clears the stake. -/
theorem State.stakeWait_met (ht : s.target c u e = .here h) (hst : (s.stake h (yStake e)).st ≠ .abandoned)
    (hmet : want.met (s.stake h (yStake e)).st = true) :
    s.stakeWait c u q a e want = if want = .setClr then ((s.leaveHead c u q).setStake h (yStake e) .clear).wakeStake h (yStake e)
      else s.leaveHead c u q := by
  simp [State.stakeWait, ht, hst, hmet, State.endEntry_done]

theorem State.stakeWait_unmet (ht : s.target c u e = .here h) (hst : (s.stake h (yStake e)).st ≠ .abandoned)
    (hmet : want.met (s.stake h (yStake e)).st = false) :
    s.stakeWait c u q a e want = (s.orphan h (yStake e)).waitHead c u q ⟨a, e, .stake h (yStake e) want⟩ := by
  simp [State.stakeWait, ht, hst, hmet]

theorem State.stakeWait_abandoned (ht : s.target c u e = .here h) (hst : (s.stake h (yStake e)).st = .abandoned) :
    s.stakeWait c u q a e want = s.failQueue 4 c u q a 0x0601 (a + 1) 0 := by
  simp only [State.stakeWait, ht, hst, beq_self_eq_true, if_true]
  exact State.endEntry_failing (by decide) s c u q a

theorem State.orphan_owned {i : Nat} (ho : bit (s.stake h i).entry 19 = true) : s.orphan h i = s := if_pos ho

theorem State.orphan_free {i : Nat} (ho : bit (s.stake h i).entry 19 = false) : s.orphan h i = s.misuse h 2 :=
  if_neg (by simp [ho])

end

/-- The wait commands, each with the opcode and CLR of its entry and what it waits for (R155). -/
def waitCommands (u : UnitIx) (q : Q) (e : Entry) : List (Nat × Bool × Want × Instr) :=
  [(0xF0, false, .set, .swait u q e), (0xF0, true, .setClr, .swait u q e), (0xF1, bit e 8, .clear, .swaitc u q e)]

/-- A wait that can issue is examined in the state after its issue. -/
theorem exec_waitCommands {s : State} {c : Nat} {u : UnitIx} {q : Q} {e : Entry} {want : Want} {cmd : Instr}
    (hready : SyncReady s u.val q c (fld e 0 8)) (hok : syncOk (unitOrder u.val) e = true)
    (hcmd : (fld e 0 8, bit e 8, want, cmd) ∈ waitCommands u q e) :
    exec cmd s = .next ((s.advance c u.val q).stakeWait c u.val q (s.queue (engKey c u.val) q).pc e want) := by
  simp only [waitCommands, List.mem_cons, Prod.mk.injEq, List.not_mem_nil, or_false] at hcmd
  obtain ⟨hop, hclr, rfl, rfl⟩ | ⟨hop, hclr, rfl, rfl⟩ | ⟨hop, -, rfl, rfl⟩ := hcmd
  all_goals rw [hop] at hready
  all_goals refine congrArg Host.Outcome.next ((State.syncIssue_ready hready hop hok _).trans ?_)
  · simp [hclr]
  · simp [hclr]
  · rfl

/-- T2 ends a wait whose stake has not reached its state (R157). -/
theorem exec_stakeWaitExpiry_unmet {s : State} {c a h i : Nat} {u : UnitIx} {q : Q} {e : Entry} {want : Want}
    (hw : s.waiting u.val q (fun k => match k with | .stake _ _ _ => true | _ => false) = some c)
    (hh : (s.queue (engKey c u.val) q).head = some ⟨a, e, .stake h i want⟩) (hmet : want.met (s.stake h i).st = false) :
    exec (.stakeWaitExpiry u q) s = .next ((s.count (ctrDev 41)).failQueue 4 c u.val q a 0x0503 (a + 1) 0) := by
  have hx : exec (.stakeWaitExpiry u q) s = .next (s.stakeExpiry c u.val q) := by
    change execStakeWaitExpiry u q s = _
    unfold execStakeWaitExpiry
    split
    · next d hd => rw [Option.some.inj (hw.symm.trans hd)]
    · next hd => cases hw.symm.trans hd
  rw [hx, State.stakeExpiry, hh]
  simp only [hmet, Bool.false_eq_true, if_false]
  rw [State.endEntry_failing (by decide)]

end Sys2Proof.Machine

section

open Sys2Proof Sys2Proof.Machine

/-- Settles O16: each outcome of a wait in the state after its issue, which leaves the stakes as they were; then the expiry. -/
theorem stakeWaits : Obligations.StakeWaits := by
  intro s c u q
  refine ⟨?issues, ?expiry⟩
  case issues =>
    intro e h want cmd hready hok ht hcmd key st a
    rw [exec_waitCommands hready hok hcmd]
    have ht' : (s.advance c u.val q).target c u.val e = .here h := ht
    have hst' : ((s.advance c u.val q).stake h (yStake e)).st = st := by rw [State.advance_stake]
    refine ⟨fun hst hmet hw => ?_, fun hset hw => ?_, fun hst hmet ho => ?_, fun hst hmet ho => ?_, fun hab => ?_⟩
    · rw [State.stakeWait_met ht' (by rwa [hst']) (by rwa [hst']), if_neg hw]
      exact ⟨_, rfl, s.leaveHead_advance_engStep c u.val q⟩
    · rw [State.stakeWait_met ht' (by rw [hst', hset]; decide) (by rw [hst', hset, hw]; rfl), if_pos hw]
    · rw [State.stakeWait_unmet ht' (by rwa [hst']) (by rwa [hst']), State.orphan_owned (by rwa [State.advance_stake])]
      exact ⟨_, rfl, s.waitHead_advance_engStep c u.val q e _⟩
    · rw [State.stakeWait_unmet ht' (by rwa [hst']) (by rwa [hst']), State.orphan_free (by rwa [State.advance_stake])]
    · rw [State.stakeWait_abandoned ht' (hst'.trans hab)]
  case expiry =>
    exact fun a e h i want hw hh hmet => exec_stakeWaitExpiry_unmet hw hh hmet

end

namespace Sys2Proof.Machine

/-! ### Whether a set, clear or fence can issue (R125, R159, R163) -/

theorem Ready.unitBusy {s : State} {u c : Nat} {q : Q} (h : Ready s u q c) : s.unitBusy u = false := by
  have hi := h.issuer
  unfold State.issuer at hi
  split at hi
  · cases hi
  · next hb => simpa using hb

/-- A unit that takes requests is not quiescing. -/
theorem State.quiescing_of_not_unitBusy {s : State} {u : Nat} (h : s.unitBusy u = false) : s.quiescing u = false := by
  simp only [State.unitBusy, List.any_eq_false, Bool.and_eq_true, bne_iff_ne, not_and, not_not] at h
  simp only [State.quiescing, List.any_eq_false, Bool.and_eq_true, beq_iff_eq, not_and]
  exact fun k hk ho => by rw [h k hk ho]; decide

theorem Ready.refuser {s : State} {u c : Nat} {q : Q} (h : Ready s u q c) : s.refuser u q = none := by
  simp [State.refuser, State.quiescing_of_not_unitBusy h.unitBusy]

/-- A running vector entry lets a set, clear or fence issue. -/
theorem Ready.sync {s : State} {u c op : Nat} {q : Q} (h : Ready s u q c) (h2 : 0xF2 ≤ op) (h4 : op ≤ 0xF4) :
    SyncReady s u q c op := { h with done := by simp [State.vDone, h2, h4] }

/-- What a queue's engine has written does not depend on its queues. -/
theorem Eng.written_advanced (e : Eng) (q r : Q) : (e.advanced q).written r = e.written r := by cases r <;> rfl

@[simp] theorem State.advance_fenced (s : State) (c u : Nat) (q : Q) (e : Entry) :
    (s.advance c u q).fenced c u q e = s.fenced c u q e := by
  unfold State.fenced
  rw [(s.advance_engStep c u q).here, Eng.written_advanced]
  rfl

@[simp] theorem State.advance_unitBusy (s : State) (c u v : Nat) (q : Q) : (s.advance c u q).unitBusy v = s.unitBusy v := rfl

/-! ### What a set or clear makes of its stake (R157, R158, R160) -/

@[simp] theorem State.stake_setStake (s : State) (h i : Nat) (st : StakeSt) :
    (s.setStake h i st).stake h i = { s.stake h i with st := st } := by
  rw [State.stake, State.setStake, State.setSync, State.engOf_setEng]
  exact Map.getD_putD_self ..

theorem State.stake_countAll (s : State) (ks : List Nat) (h i : Nat) : (s.countAll ks).stake h i = s.stake h i := by
  rw [State.countAll_frame]; rfl

/-- The state that a set or clear gives a stake. -/
def stakeAfter (set : Bool) : StakeSt := if set then .set else .clear

/-- The state of a stake in which a set or clear changes it. -/
def stakeBefore (set : Bool) : StakeSt := if set then .clear else .set

/-- The state after the counts of a set or clear that reaches its stake (R467). -/
def State.stakeCounted (s : State) (h : Nat) (set : Bool) : State :=
  s.countAll (stakeCtr (keyUnit h) none (some (if set then 0 else 1)))

theorem State.stakeOp_changes {s : State} {h i : Nat} {set : Bool} (hst : (s.stake h i).st = stakeBefore set) :
    s.stakeOp h i set = ((s.stakeCounted h set).setStake h i (stakeAfter set)).wakeStake h i := by
  unfold State.stakeOp
  simp only [State.stake_countAll, hst]
  cases set <;> rfl

/-- A set of a set stake, or a clear of a clear one, counts at its unit as a misuse. -/
theorem State.stakeOp_misuse {s : State} {h i : Nat} {set : Bool} (hst : (s.stake h i).st = stakeAfter set) :
    s.stakeOp h i set = (s.stakeCounted h set).misuse h (if set then 0 else 1) := by
  unfold State.stakeOp
  simp only [State.stake_countAll, hst]
  cases set <;> rfl

theorem State.stakeOp_abandoned {s : State} {h i : Nat} {set : Bool} (hst : (s.stake h i).st = .abandoned) :
    s.stakeOp h i set = (s.stakeCounted h set).countAll (stakeCtr (keyUnit h) (some 27) (some 2)) := by
  unfold State.stakeOp
  simp only [State.stake_countAll, hst]
  rfl

/-- A misuse changes the counts and flags of its unit alone. -/
theorem State.misuse_engStep (s : State) (h n : Nat) :
    EngStep s (s.misuse h n) h { s.engOf h with sync := (s.engOf h).sync.misuseUp n } := EngStep.of_setEng ..

theorem State.engOf_stakeCounted (s : State) (h k : Nat) (set : Bool) : (s.stakeCounted h set).engOf k = s.engOf k := by
  rw [State.stakeCounted, State.countAll_frame]; rfl

/-- The Bindery waits that a stake which has changed leaves (R206). -/
def State.bndWaitsAfter (s : State) (h i : Nat) : Map (Nat × Nat) :=
  if (s.stake h i).st = .set then Map.keep s.bndWaits fun _ w => w != (h, i) else s.bndWaits

/-- A stake on which no queue waits wakes none. -/
theorem State.wakeStake_of_no_waiters {s : State} {h i : Nat} (hw : s.waiters h i = []) :
    s.wakeStake h i = { s with bndWaits := s.bndWaitsAfter h i } := by
  simp only [State.wakeStake, State.bndWaitsAfter, hw, List.filter_nil, List.find?_nil]
  cases (s.stake h i).st <;> rfl

theorem State.stake_wakeStake_of_no_waiters {s : State} {h i : Nat} (hw : s.waiters h i = []) (k j : Nat) :
    (s.wakeStake h i).stake k j = s.stake k j := by
  rw [State.wakeStake_of_no_waiters hw]; rfl

/-- A set or clear that changes a stake on which no queue waits. -/
theorem State.stakeOp_of_no_waiters {s : State} {h i : Nat} {set : Bool} (hst : (s.stake h i).st = stakeBefore set)
    (hw : (s.setStake h i (stakeAfter set)).waiters h i = []) :
    ((s.stakeOp h i set).stake h i).st = stakeAfter set ∧ (s.stakeOp h i set).mem = s.mem := by
  have hw' : ((s.stakeCounted h set).setStake h i (stakeAfter set)).waiters h i = [] := by
    rw [State.stakeCounted, State.countAll_frame]; exact hw
  rw [State.stakeOp_changes hst]
  refine ⟨by rw [State.stake_wakeStake_of_no_waiters hw', State.stake_setStake], ?_⟩
  rw [State.wakeStake_of_no_waiters hw', State.stakeCounted, State.countAll_frame]; rfl

/-! ### Where a set or clear goes (R155, R163, R242) -/

/-- The STAKE slip of a set or clear on its way, its acknowledgement outstanding. -/
def State.stakeSlip (s : State) (c u : Nat) (q : Q) (e : Entry) (home : Nat) (set : Bool) : State :=
  let body := stakeBody e set true
  let s1 := s.slip home 0x16 0 c body
  { s1 with fab := { s1.fab with acks := s1.fab.acks ++ [(qKey c u (qIx q), bytesAt body 0 6)] } }

section

variable {s : State} {c u h home a : Nat} {q : Q} {e : Entry} {set : Bool}

theorem State.stakeSend_here (ht : s.target c u e = .here h) (hb : s.unitBusy (stakeUnit h) = false) :
    s.stakeSend c u q a e set = (s.leaveHead c u q).stakeOp h (yStake e) set := by
  simp [State.stakeSend, ht, hb, State.endEntry_done]

theorem State.stakeSend_busy (ht : s.target c u e = .here h) (hb : s.unitBusy (stakeUnit h) = true) :
    s.stakeSend c u q a e set = s.failQueue 4 c u q a 0x0301 (a + 1) 0 := by
  simp only [State.stakeSend, ht, hb, if_true]
  exact State.endEntry_failing (by decide) ..

theorem State.stakeSend_away (ht : s.target c u e = .away home) (hf : yFsc e ≠ 3) :
    s.stakeSend c u q a e set = (s.stakeSlip c u q e home set).leaveHead c u q := by
  simp only [State.stakeSend, ht, if_neg hf]; rfl

theorem State.stakeSend_away_fabric (ht : s.target c u e = .away home) (hf : yFsc e = 3) :
    s.stakeSend c u q a e set = (s.stakeSlip c u q e home set).waitHead c u q ⟨a, e, .ack⟩ := by
  simp only [State.stakeSend, ht, if_pos hf]; rfl

theorem State.stakeSend_absent (ht : s.target c u e = .absent) :
    s.stakeSend c u q a e set = s.failQueue 4 c u q a 0x0732 (a + 1) 0 := by
  simp only [State.stakeSend, ht]
  exact State.endEntry_failing (by decide) ..

end

/-- SSET and SCLR, each with its opcode and whether it sets (R155). -/
def setCommands (u : UnitIx) (q : Q) (e : Entry) : List (Nat × Bool × Instr) :=
  [(0xF2, true, .sset u q e), (0xF3, false, .sclr u q e)]

section

variable {s : State} {c : Nat} {u : UnitIx} {q : Q} {e : Entry} {set : Bool} {cmd : Instr}

theorem exec_setCommands (hcmd : (fld e 0 8, set, cmd) ∈ setCommands u q e) :
    exec cmd s = .next (s.stakeEntry u.val q (fld e 0 8) e set) ∧ 0xF2 ≤ fld e 0 8 ∧ fld e 0 8 ≤ 0xF3 := by
  simp only [setCommands, List.mem_cons, Prod.mk.injEq, List.not_mem_nil, or_false] at hcmd
  obtain ⟨hop, rfl, rfl⟩ | ⟨hop, rfl, rfl⟩ := hcmd
  all_goals rw [hop]; exact ⟨rfl, by decide, by decide⟩

/-- A set or clear that can issue: fenced, and then sent. -/
theorem exec_setCommands_ready (hready : Ready s u.val q c) (hok : syncOk (unitOrder u.val) e = true)
    (hcmd : (fld e 0 8, set, cmd) ∈ setCommands u q e) :
    exec cmd s = .next ((s.advance c u.val q).fence c u.val q (s.queue (engKey c u.val) q).pc e
      fun s' => s'.stakeSend c u.val q (s.queue (engKey c u.val) q).pc e set) := by
  obtain ⟨hx, h2, h3⟩ := exec_setCommands (s := s) hcmd
  have hnone : s.setRefused u.val q (fld e 0 8) e = none := by simp [State.setRefused, hready.refuser]
  rw [hx, State.stakeEntry, hnone]
  exact congrArg Host.Outcome.next (State.syncIssue_ready (hready.sync h2 (by omega)) rfl hok _)

/-- One whose fence is complete reaches its target. -/
theorem exec_setCommands_fenced (hready : Ready s u.val q c) (hok : syncOk (unitOrder u.val) e = true)
    (hcmd : (fld e 0 8, set, cmd) ∈ setCommands u q e) (hf : s.fenced c u.val q e = true) :
    exec cmd s = .next ((s.advance c u.val q).stakeSend c u.val q (s.queue (engKey c u.val) q).pc e set) := by
  rw [exec_setCommands_ready hready hok hcmd, State.fence, State.advance_fenced, if_pos hf]

/-- One whose fence is not complete waits at the head. -/
theorem exec_setCommands_unfenced (hready : Ready s u.val q c) (hok : syncOk (unitOrder u.val) e = true)
    (hcmd : (fld e 0 8, set, cmd) ∈ setCommands u q e) (hf : s.fenced c u.val q e = false) :
    ∃ t, exec cmd s = .next t ∧
      EngStep s t (engKey c u.val) ((s.engOf (engKey c u.val)).waits q e .engine s.now s.t2) := by
  rw [exec_setCommands_ready hready hok hcmd, State.fence, State.advance_fenced, if_neg (by simp [hf])]
  exact ⟨_, rfl, s.waitHead_advance_engStep c u.val q e _⟩

/-- What a set or clear whose fence is complete does, by where its stake lies. -/
theorem exec_setCommands_sent (hready : Ready s u.val q c) (hok : syncOk (unitOrder u.val) e = true)
    (hcmd : (fld e 0 8, set, cmd) ∈ setCommands u q e) (hf : s.fenced c u.val q e = true) :
    let pc := (s.queue (engKey c u.val) q).pc
    let s0 := s.advance c u.val q
    (∀ h, s.target c u.val e = .here h →
      (s.unitBusy (stakeUnit h) = false →
        exec cmd s = .next ((s0.leaveHead c u.val q).stakeOp h (yStake e) set)) ∧
      (s.unitBusy (stakeUnit h) = false → (s.stake h (yStake e)).st = stakeBefore set →
        ((s0.leaveHead c u.val q).setStake h (yStake e) (stakeAfter set)).waiters h (yStake e) = [] →
        ∃ t, exec cmd s = .next t ∧ (t.stake h (yStake e)).st = stakeAfter set ∧ t.mem = s.mem) ∧
      (s.unitBusy (stakeUnit h) = true → exec cmd s = .next (s0.failQueue 4 c u.val q pc 0x0301 (pc + 1) 0))) ∧
    (∀ home, s.target c u.val e = .away home →
      (yFsc e ≠ 3 → exec cmd s = .next ((s0.stakeSlip c u.val q e home set).leaveHead c u.val q)) ∧
      (yFsc e = 3 → exec cmd s = .next ((s0.stakeSlip c u.val q e home set).waitHead c u.val q ⟨pc, e, .ack⟩))) ∧
    (s.target c u.val e = .absent → exec cmd s = .next (s0.failQueue 4 c u.val q pc 0x0732 (pc + 1) 0)) := by
  intro pc s0
  rw [exec_setCommands_fenced hready hok hcmd hf]
  rw [← s.advance_target c u.val c u.val q e]
  refine ⟨fun h ht => ?_, fun home ht => ⟨fun hfsc => ?_, fun hfsc => ?_⟩, fun ht => ?_⟩
  · refine ⟨fun hb => ?_, fun hb hst hw => ?_, fun hb => ?_⟩
    · rw [State.stakeSend_here ht hb]
    · rw [State.stakeSend_here ht hb]
      have hst' : ((s0.leaveHead c u.val q).stake h (yStake e)).st = stakeBefore set := by
        rw [State.leaveHead, State.setQueue_stake, State.advance_stake, hst]
      exact ⟨_, rfl, State.stakeOp_of_no_waiters hst' hw⟩
    · rw [State.stakeSend_busy ht hb]
  · rw [State.stakeSend_away ht hfsc]
  · rw [State.stakeSend_away_fabric ht hfsc]
  · rw [State.stakeSend_absent ht]

/-- At a unit that quiesces, its own queue's set or clear for a stake of a unit that takes nothing (R163). -/
theorem exec_setCommands_refused {h : Nat} (hok : syncOk (unitOrder u.val) e = true)
    (hcmd : (fld e 0 8, set, cmd) ∈ setCommands u q e) (hr : s.refuser u.val q = some c)
    (ht : s.target c u.val e = .here h) (hb : s.unitBusy (stakeUnit h) = true) :
    exec cmd s = .next ((s.advance c u.val q).failQueue 4 c u.val q (s.queue (engKey c u.val) q).pc 0x0301
      ((s.queue (engKey c u.val) q).pc + 1) 0) := by
  have hsome : s.setRefused u.val q (fld e 0 8) e = some c := by simp [State.setRefused, hok, hr, ht, hb]
  rw [(exec_setCommands hcmd).1, State.stakeEntry, hsome]
  exact congrArg Host.Outcome.next (State.endEntry_failing (by decide) ..)

end

/-! ### Fences (R159) -/

section

variable {s : State} {c a : Nat} {u : UnitIx} {q : Q} {e : Entry}

theorem exec_sfence_ready (hready : Ready s u.val q c) (hok : syncOk (unitOrder u.val) e = true) (hop : fld e 0 8 = 0xF4) :
    exec (.sfence u q e) s = .next (if s.fenced c u.val q e then (s.advance c u.val q).leaveHead c u.val q
      else (s.advance c u.val q).waitHead c u.val q ⟨(s.queue (engKey c u.val) q).pc, e, .engine⟩) := by
  refine congrArg Host.Outcome.next ((State.syncIssue_ready (hready.sync (by decide) (by decide)) hop hok _).trans ?_)
  rw [State.fence, State.advance_fenced]
  rfl

theorem exec_fenceComplete (hw : s.waiting u.val q (fun k => k == .engine) = some c)
    (hh : (s.engOf (engKey c u.val)).engineHead q = some (a, e)) :
    exec (.fenceComplete u q) s = .next (if fld e 0 8 < 0xF2 || !s.fenced c u.val q e then s
      else if fld e 0 8 = 0xF4 then s.leaveHead c u.val q else s.stakeSend c u.val q a e (fld e 0 8 == 0xF2)) := by
  change execFenceComplete u q s = _
  rw [execFenceComplete, hw]
  dsimp only
  rw [State.fenceDone, hh]
  rfl

/-- A set or clear that waits for its fence is sent once the writes are visible. -/
theorem exec_fenceComplete_set {set : Bool} {cmd : Instr} (hw : s.waiting u.val q (fun k => k == .engine) = some c)
    (hh : (s.engOf (engKey c u.val)).engineHead q = some (a, e)) (hf : s.fenced c u.val q e = true)
    (hcmd : (fld e 0 8, set, cmd) ∈ setCommands u q e) :
    exec (.fenceComplete u q) s = .next (s.stakeSend c u.val q a e set) := by
  rw [exec_fenceComplete hw hh]
  simp only [setCommands, List.mem_cons, Prod.mk.injEq, List.not_mem_nil, or_false] at hcmd
  obtain ⟨hop, rfl, -⟩ | ⟨hop, rfl, -⟩ := hcmd <;> simp [hop, hf]

end

end Sys2Proof.Machine

section

open Sys2Proof Sys2Proof.Machine

/-- Settles O17: SSET and SCLR by one lemma over both, the fences by theirs, and each outcome of a set or clear that reaches
its stake by the lemma of that outcome. -/
theorem stakeSetsAndFences : Obligations.StakeSetsAndFences := by
  refine ⟨?entries, ?reached, ?unwaited⟩
  case entries =>
    intro s c u q e key x pc s0 past refused slip
    have hset (hop : fld e 0 8 = 0xF2) : (fld e 0 8, true, Instr.sset u q e) ∈ setCommands u q e := by simp [setCommands, hop]
    have hclr (hop : fld e 0 8 = 0xF3) : (fld e 0 8, false, Instr.sclr u q e) ∈ setCommands u q e := by simp [setCommands, hop]
    refine ⟨?fenced, ?unfenced, ?waiting, ?idle, ?quiescing⟩
    case fenced =>
      intro hready hok hf
      refine ⟨fun hop => exec_setCommands_sent hready hok (hset hop) hf,
        fun hop => exec_setCommands_sent hready hok (hclr hop) hf, fun hop => ?_⟩
      rw [exec_sfence_ready hready hok hop, if_pos hf]
      exact ⟨_, rfl, s.leaveHead_advance_engStep c u.val q⟩
    case unfenced =>
      intro hready hok hf
      refine ⟨fun hop => exec_setCommands_unfenced hready hok (hset hop) hf,
        fun hop => exec_setCommands_unfenced hready hok (hclr hop) hf, fun hop => ?_⟩
      rw [exec_sfence_ready hready hok hop, if_neg (by simp [hf])]
      exact ⟨_, rfl, s.waitHead_advance_engStep c u.val q e _⟩
    case waiting =>
      intro a hw hh
      refine ⟨fun hf => ⟨fun hop => ?_, fun h ht hb => ⟨fun hop => ?_, fun hop => ?_⟩,
        fun home ht hfsc => ⟨fun hop => ?_, fun hop => ?_⟩⟩, fun hf => ?_⟩
      · rw [exec_fenceComplete hw hh, if_neg (by simp [hf, hop]), if_pos hop]
        exact ⟨_, rfl, (EngStep.refl s _).leaveHead q⟩
      · rw [exec_fenceComplete_set hw hh hf (hset hop), State.stakeSend_here ht hb]
      · rw [exec_fenceComplete_set hw hh hf (hclr hop), State.stakeSend_here ht hb]
      · rw [exec_fenceComplete_set hw hh hf (hset hop), State.stakeSend_away ht hfsc]; rfl
      · rw [exec_fenceComplete_set hw hh hf (hclr hop), State.stakeSend_away ht hfsc]; rfl
      · rw [exec_fenceComplete hw hh, if_pos (by simp [hf])]
    case idle =>
      intro hw
      change execFenceComplete u q s = _
      rw [execFenceComplete, hw]
    case quiescing =>
      exact fun h hok hr ht hb => ⟨fun hop => exec_setCommands_refused hok (hset hop) hr ht hb,
        fun hop => exec_setCommands_refused hok (hclr hop) hr ht hb⟩
  case reached =>
    intro s h i set s1
    have misuse (n : Nat) := (s.stakeCounted h set).misuse_engStep h n
    rw [State.engOf_stakeCounted] at misuse
    refine ⟨fun hst hb => ?_, fun hst hb => ?_, fun hst hb => ?_, fun hst hb => ?_, fun hst => State.stakeOp_abandoned hst⟩
    · subst hb
      exact State.stakeOp_changes hst
    · subst hb
      exact State.stakeOp_changes hst
    · subst hb
      rw [State.stakeOp_misuse hst]
      exact misuse 0
    · subst hb
      rw [State.stakeOp_misuse hst]
      exact misuse 1
  case unwaited =>
    intro s h i x hst hstep hw
    have hset : (s.setStake h i .set).bndWaitsAfter h i = Map.keep s.bndWaits fun _ w => w != (h, i) := by
      simp [State.bndWaitsAfter]
    refine ⟨?_, by rw [State.stake_wakeStake_of_no_waiters hw, State.stake_setStake]⟩
    rw [State.wakeStake_of_no_waiters hw, hset]
    exact hstep.map (fun s => { s with bndWaits := Map.keep s.bndWaits fun _ w => w != (h, i) }) (fun _ _ _ => rfl)
      fun _ => rfl

end

namespace Sys2Proof.Machine

/-! ### The four bits of a closure (R165) -/

/-- One bit of a number replaced. -/
theorem testBit_setBits (n lo j : Nat) (b : Bool) : (setBits n lo 1 (b2n b)).testBit j = if j = lo then b else n.testBit j := by
  have hlow : n % 2 ^ lo < 2 ^ lo := Nat.mod_lt _ (Nat.two_pow_pos _)
  have hn : 2 ^ lo * (n / 2 ^ lo) + n % 2 ^ lo = n := Nat.div_add_mod n (2 ^ lo)
  have hset : setBits n lo 1 (b2n b) = 2 ^ lo * (2 * (n / 2 ^ lo / 2) + b2n b) + n % 2 ^ lo := by
    have hb : b2n b % 2 ^ 1 = b2n b := by cases b <;> rfl
    have hm := Nat.div_add_mod (n / 2 ^ lo) 2
    have hcut : n - n / 2 ^ lo % 2 * 2 ^ lo = 2 ^ lo * (2 * (n / 2 ^ lo / 2)) + n % 2 ^ lo := by
      refine Nat.sub_eq_of_eq_add ?_
      conv_lhs => rw [← hn, ← hm]
      ring
    rw [setBits, bitsOf, hb, pow_one, hcut]
    ring
  rw [hset, Nat.testBit_two_pow_mul_add _ hlow]
  conv_rhs => rw [← hn, Nat.testBit_two_pow_mul_add _ hlow]
  obtain hlt | rfl | hgt := lt_trichotomy j lo
  · simp [hlt, hlt.ne]
  · cases b <;> simp [b2n]
  · obtain ⟨d, hd⟩ := Nat.exists_eq_add_of_lt hgt
    have hj : j - lo = d + 1 := by omega
    cases b <;> simp [hj, hgt.not_gt, hgt.ne', Nat.testBit_succ, b2n]
    all_goals congr 1; omega

/-- The four bits of a closure in a synchronisation state. -/
def Sync.cbits (y : Sync) (cid : Nat) : Nat := Map.getD y.closures cid 0

/-- One of the four bits set to `b`. -/
def Sync.setCbit (y : Sync) (cid i : Nat) (b : Bool) : Sync :=
  { y with closures := Map.putD y.closures cid (setBits (y.cbits cid) i 1 (b2n b)) 0 }

theorem Sync.testBit_cbits_setCbit (y : Sync) (cid i j : Nat) (b : Bool) :
    ((y.setCbit cid i b).cbits cid).testBit j = if j = i then b else (y.cbits cid).testBit j := by
  rw [Sync.cbits, Sync.setCbit, Map.getD_putD_self]
  exact testBit_setBits ..

@[simp] theorem Sync.setCbit_queue (y : Sync) (cid i : Nat) (b : Bool) (q : Q) : (y.setCbit cid i b).queue q = y.queue q := by
  cases q <;> rfl

@[simp] theorem Sync.setQueue_cbits (y : Sync) (q : Q) (v : Queue) (cid : Nat) : (y.setQueue q v).cbits cid = y.cbits cid := by
  cases q <;> rfl

theorem State.cbits_eq (s : State) (k cid : Nat) : s.cbits k cid = (s.engOf k).sync.cbits cid := rfl

theorem EngStep.setCbit {s t : State} {k : Nat} {x : Eng} (h : EngStep s t k x) (cid i : Nat) (b : Bool) :
    EngStep s (t.setCbit k cid i b) k { x with sync := x.sync.setCbit cid i b } := by
  have := h.set { x with sync := x.sync.setCbit cid i b }
  unfold State.setCbit State.setCbits State.cbits State.setSync
  rw [h.here]
  exact this

theorem EngStep.setClosure {s t : State} {k : Nat} {x : Eng} (h : EngStep s t k x) (cid : Nat) (v : Closure) :
    EngStep (s.setClosure cid v) (t.setClosure cid v) k x :=
  h.map (fun s => s.setClosure cid v) (fun _ _ _ => rfl) fun _ => rfl

/-- Beside the unit nothing differs but the closures. -/
theorem EngStep.eq_setClosure {s t : State} {k cid : Nat} {x : Eng} {v : Closure} (h : EngStep (s.setClosure cid v) t k x) :
    t = { s with eng := t.eng, mod := { s.mod with gated := t.mod.gated }, closures := t.closures } := by
  have hc : t.closures = (s.setClosure cid v).closures := by rw [h.eq]
  rw [hc]
  exact h.eq

theorem EngStep.closure {s t : State} {k : Nat} {x : Eng} (h : EngStep s t k x) (i : Nat) : t.closure i = s.closure i := by
  rw [h.eq]; rfl

theorem State.closure_setQueue (s : State) (k : Nat) (q : Q) (v : Queue) (i : Nat) :
    (s.setQueue k q v).closure i = s.closure i := rfl

@[simp] theorem State.advance_closure (s : State) (c u : Nat) (q : Q) (i : Nat) :
    (s.advance c u q).closure i = s.closure i := rfl

/-! ### Arrivals (R165, R166) -/

/-- While the count has not reached the total, nothing follows from an arrival. -/
theorem State.closureCheck_of_count_ne {s : State} {cid : Nat} (h : (s.closure cid).count ≠ (s.closure cid).total) (n : Nat) :
    s.closureCheck n cid = s := by
  unfold State.closureCheck
  simp [h]

/-- A closure after one more arrival, at a state (R167). -/
def State.arrivedClosure (s : State) (k : Closure) : Closure :=
  { k with count := k.count + 1, t3 := true, t3limit := if k.t3 then k.t3limit else s.t3For k.limit }

/-- A closure with one more held arrival, at a state (R166). -/
def State.heldClosure (s : State) (k : Closure) (qk : Nat) : Closure :=
  { k with heldOrder := k.heldOrder ++ [qk], t3 := true, t3limit := if k.t3 then k.t3limit else s.t3For k.limit }

/-- An arrival has the parity of the round, and no arrival of its unit is held: it counts. -/
def State.counts (s : State) (key cid : Nat) : Bool :=
  (s.cbits key cid).testBit 1 == (s.closure cid).parity && !(s.cbits key cid).testBit 3

section

variable {s : State} {key cid a c u : Nat} {q : Q} {e : Entry}

/-- A CARR at an open closure of its context in which its unit takes part. -/
theorem State.carr_opened (hst : (s.closure cid).st = .opened) (hctx : (s.closure cid).ctx = keyCtx key)
    (hm : (s.cbits key cid).testBit 0 = true) :
    s.carr cid key q a e = if s.counts key cid then (s.arriveOne cid key q a e false).closureCheck 2 cid
      else s.arriveOne cid key q a e false := by
  simp [State.carr, State.counts, hst, hctx, hm]

/-- A closure that is not set up, or has failed, ends a CARR with a status. -/
theorem State.carr_ends {st : Nat} (hc : keyCtx key = c) (hu : keyUnit key = u) (hadv : advances st = false)
    (hst : (s.closure cid).st = .failed st ∨ (s.closure cid).st = .idle ∧ st = 0x0731) :
    s.carr cid key q a e = s.failQueue 4 c u q a st (a + 1) 0 := by
  rw [← State.endEntry_failing hadv]
  obtain hst | ⟨hst, rfl⟩ := hst <;> simp [State.carr, hst, hc, hu]

theorem State.cwait_ends {st : Nat} (hadv : advances st = false)
    (hst : (s.closure (yClos e)).st = .failed st ∨ (s.closure (yClos e)).st = .idle ∧ st = 0x0731) :
    s.cwait c u q a e = s.failQueue 4 c u q a st (a + 1) 0 := by
  rw [← State.endEntry_failing hadv]
  obtain hst | ⟨hst, rfl⟩ := hst <;> simp [State.cwait, hst]

/-- A CWAIT at an open closure of its context in which its unit takes part. -/
theorem State.cwait_opened (hst : (s.closure (yClos e)).st = .opened) (hctx : (s.closure (yClos e)).ctx = c)
    (hm : (s.cbits (engKey c u) (yClos e)).testBit 0 = true) :
    s.cwait c u q a e = if (s.cbits (engKey c u) (yClos e)).testBit 2 then s.waitHead c u q ⟨a, e, .closure (yClos e)⟩
      else s.leaveHead c u q := by
  simp [State.cwait, hst, hctx, hm, State.endEntry_done]

/-- An arrival that counts flips the parity bit of its unit and sets its PENDING (R165). -/
theorem State.arriveOne_counts {again : Bool} (hn : s.counts key cid = true) (hw : bit e 63 = false) (hc : keyCtx key = c)
    (hu : keyUnit key = u) :
    s.arriveOne cid key q a e again = (((s.setCbit key cid 1 (!(s.closure cid).parity)).setCbit key cid 2 true).setClosure cid
      (s.arrivedClosure (s.closure cid))).leaveHead c u q := by
  unfold State.counts at hn
  simp only [State.arriveOne, hn, hw, hc, hu, if_true, Bool.false_eq_true, if_false]
  rfl

/-- A CARR whose arrival counts and does not complete the round. -/
theorem State.carr_counts (hst : (s.closure cid).st = .opened) (hctx : (s.closure cid).ctx = keyCtx key)
    (hm : (s.cbits key cid).testBit 0 = true) (hn : s.counts key cid = true) (hw : bit e 63 = false)
    (hne : (s.closure cid).count + 1 ≠ (s.closure cid).total) (hc : keyCtx key = c) (hu : keyUnit key = u) :
    s.carr cid key q a e = (((s.setCbit key cid 1 (!(s.closure cid).parity)).setCbit key cid 2 true).setClosure cid
      (s.arrivedClosure (s.closure cid))).leaveHead c u q := by
  rw [State.carr_opened hst hctx hm, if_pos hn, State.arriveOne_counts hn hw hc hu, State.closureCheck_of_count_ne]
  rw [State.leaveHead, State.closure_setQueue, State.closure_setClosure]
  exact hne

/-- One of the other parity is HELD at the head of its queue (R166). -/
theorem State.arriveOne_held (hp : (s.cbits key cid).testBit 1 ≠ (s.closure cid).parity)
    (hh : (s.cbits key cid).testBit 3 = false) (hc : keyCtx key = c) (hu : keyUnit key = u) :
    s.arriveOne cid key q a e false = ((((s.setCbit key cid 3 true).countAll (stakeCtr u none (some 5))).setClosure cid
      (s.heldClosure (s.closure cid) (key * 4 + qIx q)))).waitHead c u q ⟨a, e, .held cid⟩ := by
  have hn : ((s.cbits key cid).testBit 1 == (s.closure cid).parity) = false := by simpa using hp
  simp only [State.arriveOne, hn, hh, hc, hu, Bool.false_and, Bool.false_eq_true, if_false]
  rw [State.countAll_frame]
  rfl

end

@[simp] theorem State.advance_cbits (s : State) (c u : Nat) (q : Q) (k cid : Nat) :
    (s.advance c u q).cbits k cid = s.cbits k cid := by
  obtain rfl | hne := eq_or_ne k (engKey c u)
  · rw [State.cbits_eq, (s.advance_engStep c u q).here, Eng.advanced, Sync.setQueue_cbits]; rfl
  · rw [State.cbits_eq, (s.advance_engStep c u q).away _ hne]; rfl

section

variable {s : State} {c : Nat} {u : UnitIx} {q : Q} {e : Entry}

/-- A CARR that can issue runs in the state after its issue. -/
theorem exec_carr_ready (hready : SyncReady s u.val q c 0xF5) (hok : syncOk (unitOrder u.val) e = true)
    (hop : fld e 0 8 = 0xF5) : exec (.carr u q e) s = .next ((s.advance c u.val q).carr (yClos e) (engKey c u.val) q
      (s.queue (engKey c u.val) q).pc e) := by
  change execCarr u q e s = _
  rw [execCarr, hready.toReady.refuser]
  exact congrArg Host.Outcome.next (State.syncIssue_ready hready hop hok _)

theorem exec_cwait_ready (hready : SyncReady s u.val q c 0xF6) (hok : syncOk (unitOrder u.val) e = true)
    (hop : fld e 0 8 = 0xF6) : exec (.cwait u q e) s = .next ((s.advance c u.val q).cwait c u.val q
      (s.queue (engKey c u.val) q).pc e) :=
  congrArg Host.Outcome.next (State.syncIssue_ready hready hop hok _)

end

/-- What an arrival that counts leaves of the unit. -/
def Eng.arrived (x : Eng) (q : Q) (cid : Nat) (parity : Bool) : Eng :=
  ({ x.advanced q with sync := ((x.advanced q).sync.setCbit cid 1 (!parity)).setCbit cid 2 true } : Eng).vacated q

theorem State.arrival_engStep (s : State) (c u : Nat) (q : Q) (cid : Nat) :
    let s' := s.advance c u q
    let key := engKey c u
    EngStep (s.setClosure cid (s.arrivedClosure (s.closure cid)))
      ((((s'.setCbit key cid 1 (!(s'.closure cid).parity)).setCbit key cid 2 true).setClosure cid
        (s'.arrivedClosure (s'.closure cid))).leaveHead c u q) key ((s.engOf key).arrived q cid (s.closure cid).parity) :=
  (((((s.advance_engStep c u q).setCbit cid 1 _).setCbit cid 2 true).setClosure cid _).leaveHead q)

/-- What a held arrival leaves of the unit. -/
def Eng.heldBy (x : Eng) (q : Q) (cid : Nat) (e : Entry) (now limit : Nat) : Eng :=
  let y := (x.advanced q).sync.setCbit cid 3 true
  let w : Queue := { y.queue q with head := some ⟨(x.sync.queue q).pc, e, .held cid⟩, since := now, t2rem := limit }
  { x.advanced q with sync := y.setQueue q w }

theorem State.held_engStep (s : State) (c u : Nat) (q : Q) (cid qk : Nat) (ks : List Nat) (e : Entry) :
    let s' := s.advance c u q
    let key := engKey c u
    EngStep ((s.countAll ks).setClosure cid (s.heldClosure (s.closure cid) qk))
      ((((s'.setCbit key cid 3 true).countAll ks).setClosure cid (s'.heldClosure (s'.closure cid) qk)).waitHead c u q
        ⟨(s.queue key q).pc, e, .held cid⟩) key ((s.engOf key).heldBy q cid e s.now s.t2) := by
  intro s' key
  have h := ((((s.advance_engStep c u q).setCbit cid 3 true).countAll ks).setClosure cid
    (s.heldClosure (s.closure cid) qk)).waitHead q ⟨(s.queue key q).pc, e, .held cid⟩
  have hnow : ((s.countAll ks).setClosure cid (s.heldClosure (s.closure cid) qk)).now = s.now := by
    rw [State.countAll_frame]; rfl
  have ht2 : ((s.countAll ks).setClosure cid (s.heldClosure (s.closure cid) qk)).t2 = s.t2 := by
    rw [State.countAll_frame]; rfl
  rw [hnow, ht2] at h
  exact h

end Sys2Proof.Machine

section

open Sys2Proof Sys2Proof.Machine

/-- Settles O18: each outcome of CARR and CWAIT in the state after their issue, which leaves closures and bits as they were. -/
theorem closureArrivals : Obligations.ClosureArrivals := by
  intro s c u q e hready hok key cid k bits a s0
  have hbits : s0.cbits key cid = bits := s.advance_cbits ..
  have hclosure : s0.closure cid = k := rfl
  refine ⟨?counts, ?cwait, ?held, ?failed, ?idle, ?t3⟩
  case counts =>
    intro hop hst hctx hm hp hh hne hw hc hu
    rw [hop] at hready
    have hn : s0.counts key cid = true := by simp [State.counts, hbits, hclosure, hp, hh]
    have hstep := s.arrival_engStep c u.val q cid
    rw [exec_carr_ready hready hok hop, State.carr_counts (s := s0) hst hctx (by rwa [hbits]) hn hw hne hc hu]
    refine ⟨_, rfl, (hstep.closure cid).trans (State.closure_setClosure ..), ?_, ?_, ?_, ?_⟩
    · rw [State.cbits_eq, hstep.here]
      simp [Eng.arrived, Eng.vacated, Sync.testBit_cbits_setCbit, k]
    · rw [State.cbits_eq, hstep.here]
      simp [Eng.arrived, Eng.vacated, Sync.testBit_cbits_setCbit]
    · rw [State.queue, hstep.here]
      simp [Eng.arrived, Eng.vacated, Eng.advanced, State.queue, key]
    · exact hstep.eq_setClosure
  case cwait =>
    intro hop hst hctx hm
    rw [hop] at hready
    rw [exec_cwait_ready hready hok hop, State.cwait_opened (s := s0) hst hctx (by rwa [State.advance_cbits]), State.advance_cbits]
    refine ⟨fun hpend => ?_, fun hpend => ?_⟩
    · rw [if_neg (by simp [bits, key, cid] at hpend; simp [hpend])]
      exact ⟨_, rfl, s.leaveHead_advance_engStep c u.val q⟩
    · rw [if_pos hpend]
      exact ⟨_, rfl, s.waitHead_advance_engStep c u.val q e _⟩
  case held =>
    intro hop hst hctx hm hp hh hc hu
    rw [hop] at hready
    have hn : s0.counts key cid = false := by simp [State.counts, hbits, hclosure, hp]
    have hstep := s.held_engStep c u.val q cid (key * 4 + qIx q) (stakeCtr u.val none (some 5)) e
    rw [exec_carr_ready hready hok hop, State.carr_opened (s := s0) hst hctx (by rwa [hbits]), if_neg (by simp [hn]),
      State.arriveOne_held (by rwa [hbits]) (by rwa [hbits]) hc hu]
    refine ⟨_, rfl, ?_, ?_, ?_, ?_⟩
    · rw [State.cbits_eq, hstep.here]
      simp [Eng.heldBy, Sync.testBit_cbits_setCbit]
    · rw [hstep.closure, State.closure_setClosure]; rfl
    · rw [State.queue, hstep.here]
      simp [Eng.heldBy, Eng.advanced, State.queue, key, a]
    · rw [hstep.eq, State.countAll_frame]; rfl
  case failed =>
    intro st hst hadv hc hu
    refine ⟨fun hop => ?_, fun hop => ?_⟩ <;> rw [hop] at hready
    · rw [exec_carr_ready hready hok hop, State.carr_ends (s := s0) hc hu hadv (.inl hst)]
    · rw [exec_cwait_ready hready hok hop, State.cwait_ends (s := s0) hadv (.inl hst)]
  case idle =>
    intro hst hc hu
    refine ⟨fun hop => ?_, fun hop => ?_⟩ <;> rw [hop] at hready
    · rw [exec_carr_ready hready hok hop, State.carr_ends (s := s0) hc hu (by decide) (.inr ⟨hst, rfl⟩)]
    · rw [exec_cwait_ready hready hok hop, State.cwait_ends (s := s0) (by decide) (.inr ⟨hst, rfl⟩)]
  case t3 =>
    intro i hst ht3
    change execClosureT3Expiry i s = _
    simp [execClosureT3Expiry, hst, ht3]

end

namespace Sys2Proof.Machine

/-! ### The failure of an entry at a queue of its own program (R154, R495) -/

/-- The queue after its entry at an address has failed: where it goes on, and whether it runs or has stopped (R154). -/
def Queue.failedAt (w : Queue) (addr status at' : Nat) (r : QRun) : Queue :=
  { w with status := status, faddr := addr, head := none, passed := [], pc := at', run := r, branched := r == .running }

/-- The counters of a parcel whose entry fails with a status (R466). -/
def State.failCounted (s : State) (u status : Nat) : State :=
  if unitOrder u = 0 then
    (if status / 256 = 2 ∨ status / 256 = 3 then s.count (ctrBase u + 29)
     else if status / 256 = 5 then s.count (ctrBase u + 30) else s)
  else s

theorem EngStep.ite {s s' t t' : State} {k : Nat} {x : Eng} {p : Prop} [Decidable p] (h : EngStep s t k x)
    (g : EngStep s' t' k x) : EngStep (if p then s else s') (if p then t else t') k x := by
  split <;> assumption

theorem EngStep.failCounted {s t : State} {k : Nat} {x : Eng} (h : EngStep s t k x) (u status : Nat) :
    EngStep (s.failCounted u status) (t.failCounted u status) k x :=
  .ite (.ite (h.count _ _) (.ite (h.count _ _) h)) h

section

variable {s : State} {n c u addr status pc : Nat} {q : Q}

/-- A failing entry of a queue's own program: what was held is withdrawn, the queue branches or stops, and one that stops tells
of it. -/
theorem State.failQueue_own (hfed : (s.queue (engKey c u) q).fed = false) :
    s.failQueue n c u q addr status pc 0 =
      let w := (s.queue (engKey c u) q).branch addr status pc
      let t := ((s.dropHeld (engKey c u) q).setQueue (engKey c u) q w).failCounted u status
      if w.run == .stopped then t.event 1 status (stopResult u (qIx q) c addr) else t := by
  have hfailed : ((s.queue (engKey c u) q).branch addr status pc).failed = (s.queue (engKey c u) q).failed := by
    simp only [Queue.branch, hfed, Bool.false_eq_true, if_false]
    split <;> rfl
  have hw : { (s.queue (engKey c u) q).branch addr status pc with failed := (s.queue (engKey c u) q).failed } =
      (s.queue (engKey c u) q).branch addr status pc := by rw [← hfailed]
  unfold State.failQueue
  simp [hfed, hw, State.failCounted]

theorem Queue.branch_handler {w : Queue} {h : Nat} (hfed : w.fed = false) (hh : w.handler = some h) :
    w.branch addr status pc = w.failedAt addr status h .running := by
  simp [Queue.branch, Queue.failedAt, hfed, hh]

theorem Queue.branch_stops {w : Queue} (hfed : w.fed = false) (hh : w.handler = none) :
    w.branch addr status pc = w.failedAt addr status (pc % 65536) .stopped := by
  simp [Queue.branch, Queue.failedAt, hfed, hh]

/-- The queue replaced, after what it held has been withdrawn and with the failure counted. -/
theorem State.failed_engStep (s : State) (k u status : Nat) (q : Q) (w : Queue) :
    EngStep ((s.dropHeld k q).failCounted u status) (((s.dropHeld k q).setQueue k q w).failCounted u status) k
      { (s.dropHeld k q).engOf k with sync := ((s.dropHeld k q).engOf k).sync.setQueue q w } :=
  ((EngStep.refl _ k).setQueue q w).failCounted u status

end

/-! ### A queue whose next entry cannot be fetched (R152, R189) -/

/-- An entry of the fault log touches no spare. -/
theorem State.log_spares (s : State) (kind st sev u a r : Nat) (d : List Byte) :
    (s.log kind st sev u a r d).flt.spares = s.flt.spares := by
  unfold State.log
  dsimp only
  split
  · rfl
  · unfold State.logNew
    extract_lets e src f kept mod md
    obtain ⟨_, _, _, _, _, hf⟩ := State.report_flt (k := 1) (sev := sev) (bs := e.bytes)
      (s := (State.count { s with flt := f, mod := md } (ctrDev 48)).event 5 st (toLE 4 e.index))
    rw [hf, EventOnly.refl.event.flt]
    rfl

/-- While a spare parcel is left, uncorrectable data touches no unit: a spare takes the place of the parcel as it is (R419). -/
theorem State.fbUnc_eng {s : State} {p : Nat} (h : s.sparesLeft p ≠ 0) (a r : Nat) : (s.fbUnc p a r).eng = s.eng := by
  have hs : ((s.count (ctrBase p + 26)).log 0x0010 0x0723 1 (codeUnit p) a r).sparesLeft p ≠ 0 := by
    rwa [State.sparesLeft, State.log_spares]
  rw [State.fbUnc, State.spareSwap, if_neg hs]
  exact (State.log_logOnly ..).eng.trans (State.log_logOnly ..).eng

section

variable {s : State} {c u status : Nat} {q : Q}

/-- At the handler that a failure has just reached, the queue fails without its handler, and keeps it. -/
theorem State.fetchFault_own (hb : (s.queue (engKey c u) q).branched = true)
    (hh : (s.queue (engKey c u) q).handler = some (s.queue (engKey c u) q).pc) :
    s.fetchFault c u q status =
      ((s.setQueue (engKey c u) q { s.queue (engKey c u) q with handler := none }).failQueue 4 c u q
        (s.queue (engKey c u) q).pc status ((s.queue (engKey c u) q).pc + 1) 0).queueOp c u q
        fun v => { v with handler := some (s.queue (engKey c u) q).pc } := by
  simp [State.fetchFault, hb, hh]

theorem State.fetchFault_program
    (h : (s.queue (engKey c u) q).branched = false ∨ (s.queue (engKey c u) q).handler ≠ some (s.queue (engKey c u) q).pc) :
    s.fetchFault c u q status =
      s.failQueue 4 c u q (s.queue (engKey c u) q).pc status ((s.queue (engKey c u) q).pc + 1) 0 := by
  have hown : ((s.queue (engKey c u) q).branched &&
      (s.queue (engKey c u) q).handler == some (s.queue (engKey c u) q).pc) = false := by
    obtain h | h := h <;> simp [h]
  simp [State.fetchFault, hown]

end

section

variable {s : State} {c pc : Nat} {u : UnitIx} {q : Q}

theorem exec_queueFetchFault_range (h : s.issuer u.val q = some c) (hpc : 0xBFFF < (s.queue (engKey c u.val) q).pc) :
    exec (.queueFetchFault u q) s = .next (s.fetchFault c u.val q 0x0722) := by
  change execQueueFetchFault u q s = _
  simp only [execQueueFetchFault, h, if_pos hpc]

theorem exec_queueFetchFault_bad (h : s.issuer u.val q = some c) (hpc : (s.queue (engKey c u.val) q).pc = pc)
    (hle : pc ≤ 0xBFFF) (hbad : s.badIn (granAddr (firstParcel u.val) pc) 16 = true) :
    exec (.queueFetchFault u q) s = .next
      ((s.fbUnc (firstParcel u.val) (granAddr (firstParcel u.val) pc) (codeUnit u.val)).fetchFault c u.val q 0x0723) := by
  change execQueueFetchFault u q s = _
  simp only [execQueueFetchFault, h, hpc, if_neg (Nat.not_lt.2 hle), if_pos hbad]

end

end Sys2Proof.Machine

section

open Sys2Proof Sys2Proof.Machine

/-- Settles O19: a failure by whether the queue has a handler, a fetch by why it fails and where the queue stands. -/
theorem queueFailures : Obligations.QueueFailures := by
  refine ⟨?failure, ?fetch⟩
  case failure =>
    intro s n c u addr status pc q hfed key w s0 went s1
    refine ⟨fun h hh => ?_, fun hh => ?_⟩
    · rw [State.failQueue_own hfed, Queue.branch_handler hfed hh]
      exact s.failed_engStep key u status q _
    · rw [State.failQueue_own hfed, Queue.branch_stops hfed hh]
      exact ⟨_, rfl, s.failed_engStep key u status q _⟩
  case fetch =>
    intro s c u q hissuer w pc
    refine ⟨fun hb hh hpc => ?_, fun h hpc => ?_, fun h hpc hbad hspare => ?_⟩
    · rw [exec_queueFetchFault_range hissuer hpc, State.fetchFault_own hb hh]
    · rw [exec_queueFetchFault_range hissuer hpc, State.fetchFault_program h]
    · have hq : (s.fbUnc (firstParcel u.val) (granAddr (firstParcel u.val) pc) (codeUnit u.val)).queue
          (engKey c u.val) q = w := by
        rw [State.queue, State.engOf_congr (State.fbUnc_eng hspare _ _)]; rfl
      rw [exec_queueFetchFault_bad hissuer rfl hpc hbad, State.fetchFault_program (by rwa [hq]), hq]

end

namespace Sys2Proof.Machine

/-! # An EPOCH that meets a parked context (O30)

A context that is resident and does not run has its synchronisation state in its save areas (R161, R332), and an operation
there starts from what they hold, beside whatever the units hold. O30 asks of an EPOCH that every stake of the units keeps its
table entry, and that one with a remote owner becomes ABANDONED. -/

/-- Context 0 PARKED in the first order-2 tract. Parcel 0 lists stake 3 with a remote owner; the save area of that parcel, at
granule 0, holds zeros. -/
def parkedOwned : State :=
  { State.reset with
    ctxs := [(0, { Ctx.free with st := .parked, foot := 1 })]
    eng := [(engKey 0 0, { Eng.empty with sync := { Sync.empty with stakes := [(3, ⟨.clear, 2 ^ 21⟩)] } })] }

/-- An EPOCH of the management cores, with context 0 in its mask. -/
def epochOfContext0 : Packet :=
  State.reset.packet 6 0xFFFFFF 5 0 0 (toLE 4 codeMgmt ++ toLE 2 0 ++ toLE 1 1 ++ List.replicate 41 0)

theorem parkedOwned_handles : parkedOwned.handles epochOfContext0 5 := ⟨rfl, rfl, by decide +kernel⟩

theorem parkedOwned_inImage (c : Nat) : (parkedOwned.ctx c).inImage = false := by
  simp only [State.ctx, parkedOwned, Map.getD, Map.find]
  split <;> rfl

/-- After the EPOCH the parcel lists no stake: what its save area holds has taken the place of what it listed. -/
theorem parkedOwned_epoch_stake :
    (((parkedOwned.take epochOfContext0).abandonAll fun key e =>
      bit e 21 && (pf epochOfContext0 6 1).testBit (keyCtx key)).colAbandonCheck).stake (engKey 0 0) 3 = ⟨.clear, 0⟩ := by
  decide +kernel

end Sys2Proof.Machine

section

open Sys2Proof Sys2Proof.Machine

/-- Refutes O30: an EPOCH leaves a stake with a remote owner CLEAR where its context is PARKED and the save area of its parcel
does not hold that stake. -/
theorem not_slipsReceived : ¬ Obligations.SlipsReceived := by
  intro holds
  obtain ⟨-, -, epoch, -⟩ := holds
  obtain ⟨hexec, hstakes⟩ := epoch parkedOwned epochOfContext0 parkedOwned_handles (by decide +kernel) (by decide +kernel)
  obtain ⟨t, ht, habandoned, -⟩ := hstakes fun c _ => parkedOwned_inImage c
  have hst := habandoned (engKey 0 0) 3 (by decide +kernel) (by decide +kernel) (by decide)
  rw [← Host.Outcome.next.inj (hexec.symm.trans ht), parkedOwned_epoch_stake] at hst
  exact absurd hst (by decide)

end

namespace Sys2Proof.Machine

/-! # A started command that nothing holds runs (R347, R350, R426) -/

theorem Admitted.command {s : State} {h : Hdr} {op : Nat} {ps : List Byte} {r : Started} (ha : Admitted s h op ps r)
    (body : State → Started → State) : s.command h op ps body = body s r := by
  have hserved : (s.flt.drained && !drainAllows op) = false := by
    cases hd : s.flt.drained with
    | false => rfl
    | true => rw [ha.served hd]; rfl
  simp [State.command, ha.found, ha.free, hserved]

/-- CTX_UNLOAD of a LOADED context (R330, R364): it is discarded and FREE. -/
theorem Admitted.ctxUnload_loaded {s : State} {h : Hdr} {c : Byte} {r : Started}
    (ha : Admitted s h 0x0303 (Instr.params (.ctxUnload h c)) r) (hc : c.toNat < 8) (hst : (s.ctx c.toNat).st = .loaded) :
    exec (.ctxUnload h c) s = .next (((s.purge c.toNat).setCtx c.toNat Ctx.free).finish r 0) := by
  change Host.Outcome.next (s.command h 0x0303 (Instr.params (.ctxUnload h c)) _) = _
  rw [ha.command]
  simp [ctxOk, hc, hst]

/-! # A CTX_UNLOAD where a unit is listed twice (O42)

The engine states are a list of key and value, of which a lookup takes the first for a key. Discarding a context drops the
entries without staged tiles before it bares the others (R118), so an entry that was hidden behind another for its key can come
to light. -/

/-- A tile staged for a collective, and nothing else. -/
def stagedOnly : Eng := { Eng.empty with mat := { Mat.empty with stage := [⟨0, 0, 1, 1, 0, 0, false, [0], [0]⟩] } }

/-- Context 0 LOADED, and its first parcel listed twice: first with an empty engine state, then with a staged tile. -/
def twiceListed : State :=
  State.asked { State.reset with
    ctxs := [(0, { Ctx.free with st := .loaded, foot := 1 })]
    eng := [(engKey 0 0, Eng.empty), (engKey 0 0, stagedOnly)] } 0x0303 (Instr.params (.ctxUnload hdr0 0))

theorem twiceListed_admitted :
    Admitted twiceListed hdr0 0x0303 (Instr.params (.ctxUnload hdr0 0)) (started0 0x0303 (Instr.params (.ctxUnload hdr0 0))) :=
  admitted_started rfl rfl

/-- The parcel has no staged tile before, and one after. -/
theorem twiceListed_stage :
    (twiceListed.engOf (engKey 0 0)).mat.stage.length = 0 ∧
      (((twiceListed.purge (0 : Byte).toNat).setCtx (0 : Byte).toNat Ctx.free).engOf (engKey 0 0)).mat.stage.length = 1 := by
  decide +kernel

theorem State.finish_engOf (s : State) (r : Started) (st : Nat) (bs : List Byte) (k : Nat) :
    (s.finish r st bs).engOf k = s.engOf k := by
  rw [State.engOf, (s.finish_logOnly r st bs).eng, ← State.engOf]

theorem Eng.bare_stage (e : Eng) : e.bare.mat.stage = e.mat.stage := rfl

end Sys2Proof.Machine

section

open Sys2Proof Sys2Proof.Machine

/-- Refutes O42 at its clause for CTX_UNLOAD: where the engine states list the parcel of a LOADED context twice, the second time
with a staged tile, the parcel has no staged tile before the command and one after it. The list of that state is not in the
canonical form (keys strictly rising); no hypothesis of the statement asks for it. -/
theorem not_contextCommands : ¬ Obligations.ContextCommands := by
  intro holds
  obtain ⟨-, -, unload, -⟩ := holds
  obtain ⟨t, ht, -, hbare, -⟩ := (unload twiceListed hdr0 0 _ twiceListed_admitted (by decide)).1 (by decide)
  obtain ⟨before, after⟩ := twiceListed_stage
  have heq : t.engOf (engKey 0 0) = (twiceListed.engOf (engKey 0 0)).bare := hbare _ (by decide)
  rw [← Host.Outcome.next.inj ((twiceListed_admitted.ctxUnload_loaded (by decide) (by decide)).symm.trans ht), State.finish_engOf] at heq
  rw [heq, Eng.bare_stage, before] at after
  exact absurd after (by decide)

end

namespace Sys2Proof.Machine

/-! # What a command's end and its firmware messages leave unchanged (R243, R357) -/

theorem EventOnly.logOnly {s t : State} (h : EventOnly s t) : LogOnly s t := by
  unfold EventOnly at h
  rw [h]; rfl

theorem State.receipt_eventOnly (s : State) (r : Receipt) : EventOnly s (s.receipt r) := .ite rfl (.putReceipt rfl)

theorem State.finish_eventOnly (s : State) (r : Started) (status : Nat) (result : List Byte) :
    EventOnly s (s.finish r status result) := by
  unfold State.finish
  extract_lets halted cut st late g cmd s1 s2 s3
  have h1 : EventOnly s s1 := rfl
  have h2 : EventOnly s s2 := .ite h1 (h1.trans rfl)
  have h3 : EventOnly s s3 := .ite (h2.trans rfl) (.ite (h2.trans rfl) h2)
  exact .ite h3 (h3.trans (s3.receipt_eventOnly _))

/-- Answers without a refusal: the command ends or waits on, and nothing else changes. -/
theorem State.fwAnswered_zero_eventOnly (s : State) (r : Started) : EventOnly s (s.fwAnswered r 0) := by
  unfold State.fwAnswered
  split
  · exact .refl
  · simpa using EventOnly.ite .refl (s.finish_eventOnly r 0 [])

theorem State.placePacket_waiting (s : State) (k : Packet) (i : Nat) : (s.placePacket k i).1.fab.waiting = s.fab.waiting := by
  unfold State.placePacket
  split
  · rfl
  · split
    · unfold State.enqueue; dsimp only; split <;> rfl
    · rfl

theorem State.sendOn_waiting (s : State) (k : Packet) : (s.sendOn k).fab.waiting = s.fab.waiting := by
  unfold State.sendOn State.routePacket
  have h := s.placePacket_waiting k 128
  split
  · rename_i e; rw [e] at h; exact h
  · rename_i e
    rw [e] at h
    unfold State.noticeOf
    split
    · exact (State.placePacket_waiting _ _ _).trans h
    · exact h

/-- Between two states only these messages of a command were sent, one to each of `dsts`, and all wait for their answers. -/
structure Sent (s t : State) (chan : Nat) (r : Started) (dsts : List Nat) : Prop where
  station : t.station = s.station
  stracts : t.stracts = s.stracts
  waiting : ∃ new : List FwMsg, t.fab.waiting = s.fab.waiting ++ new ∧ new.map (·.dst) = dsts ∧
    new.all (fun w => w.chan == chan && w.cmd == some r) = true

namespace Sent

variable {s t u : State} {chan : Nat} {r : Started} {ds es : List Nat}

theorem refl : Sent s s chan r [] := ⟨rfl, rfl, [], by simp, rfl, rfl⟩

theorem trans (h : Sent s t chan r ds) (g : Sent t u chan r es) : Sent s u chan r (ds ++ es) := by
  obtain ⟨new, hw, hd, ha⟩ := h.waiting
  obtain ⟨new', hw', hd', ha'⟩ := g.waiting
  refine ⟨g.station.trans h.station, g.stracts.trans h.stracts, new ++ new', ?_, ?_, ?_⟩
  · rw [hw', hw, List.append_assoc]
  · rw [List.map_append, hd, hd']
  · rw [List.all_append, ha, ha']; rfl

theorem useFree (h : Sent s t chan r ds) : Sent s t.useFree chan r ds := ⟨h.station, h.stracts, h.waiting⟩

theorem eventOnly (h : Sent s t chan r ds) (g : EventOnly t u) : Sent s u chan r ds := by
  unfold EventOnly at g
  rw [g]; exact ⟨h.station, h.stracts, h.waiting⟩

/-- The messages that wait in the end and did not wait before. -/
theorem drop (h : Sent s t chan r ds) :
    ((t.fab.waiting.drop s.fab.waiting.length).map (·.dst)) = ds ∧
      (t.fab.waiting.drop s.fab.waiting.length).all (fun w => w.chan == chan && w.cmd == some r) = true := by
  obtain ⟨new, hw, hd, ha⟩ := h.waiting
  rw [hw, List.drop_left]; exact ⟨hd, ha⟩

end Sent

theorem State.fwmsg_sent (s : State) (dst chan : Nat) (bs : List Byte) (r : Started) (hc : chan ≤ 3) :
    Sent s (s.fwmsg dst chan bs (some r)) chan r [dst] := by
  have hlog := s.fwmsg_logOnly dst chan bs (some r)
  refine ⟨by rw [hlog], by rw [hlog], [⟨s.fab.mseq, dst, chan, bs, 0, some r⟩], ?_, rfl, by simp⟩
  unfold State.fwmsg
  simp [State.sendOn_waiting, hc]

/-- STJOIN goes to every member but this station, in the order of the list (R243). -/
theorem State.joinMembers_sent (s : State) (handle home order : Nat) (ms : List Nat) (r : Started) :
    Sent s (s.joinMembers handle home order ms r) 1 { r with begun := true } (ms.filter (· != s.station)) := by
  have hfold : ∀ (l : List (Nat × Nat)) (t : State), t.station = s.station →
      Sent t (l.foldl (fun s x => if x.1 = s.station then s
        else (s.fwmsg x.1 1 (s.stjoin handle home order x.2 ms.length) (some { r with begun := true })).useFree) t) 1
        { r with begun := true } ((l.map (·.1)).filter (· != s.station)) := by
    intro l
    induction l with
    | nil => intro t _; exact .refl
    | cons x l ih =>
      intro t ht
      rw [List.foldl_cons, List.map_cons]
      by_cases hx : x.1 = t.station
      · rw [if_pos hx, List.filter_cons_of_neg (by simp [hx, ht])]
        exact ih t ht
      · have hsent := (t.fwmsg_sent x.1 1 (t.stjoin handle home order x.2 ms.length) { r with begun := true }
          (by decide)).useFree
        rw [if_neg hx, List.filter_cons_of_pos (by simpa [← ht] using hx)]
        exact hsent.trans (ih _ (hsent.station.trans ht))
  simpa [State.joinMembers] using hfold ms.zipIdx s rfl

theorem State.begin_logOnly (s : State) (r : Started) : LogOnly s (s.begin r) := s.withCmd_logOnly _

theorem State.awaitMacks_logOnly {s : State} {r : Started} {send : State → State} (hsend : ∀ t, LogOnly t (send t)) :
    LogOnly s (s.awaitMacks r send) :=
  ((s.begin_logOnly r).trans (hsend _)).trans (State.fwAnswered_zero_eventOnly _ _).logOnly

theorem LogOnly.stracts {s t : State} (h : LogOnly s t) : t.stracts = s.stracts := by rw [h]

/-! # Route entries (R237) -/

/-- One of the two route tables. -/
def State.routeTab (s : State) (rtl : Bool) : Map Nat := if rtl then s.fab.rtl else s.fab.rtr

/-- One route entry written, but for a reserved NP or an index past the table. -/
def State.putRoute (s : State) (rtl : Bool) (i e : Nat) : State :=
  if 4 < bitsOf (e % 2 ^ 31) 28 3 || 8192 ≤ i then s
  else if rtl then { s with fab := { s.fab with rtl := Map.putD s.fab.rtl i (e % 2 ^ 31) 0 } }
  else { s with fab := { s.fab with rtr := Map.putD s.fab.rtr i (e % 2 ^ 31) 0 } }

theorem State.routeLoad_eq (s : State) (rtl : Bool) (first : Nat) (es : List Nat) :
    s.routeLoad rtl first es = es.zipIdx.foldl (fun s x => s.putRoute rtl (first + x.2) x.1) s := rfl

theorem State.routeLoad_cons (s : State) (rtl : Bool) (first e : Nat) (es : List Nat) :
    s.routeLoad rtl first (e :: es) = (s.putRoute rtl first e).routeLoad rtl (first + 1) es := by
  rw [State.routeLoad_eq, State.routeLoad_eq, List.zipIdx_cons, List.foldl_cons, List.zipIdx_succ, List.foldl_map]
  simp only [Nat.add_right_comm first 1, Nat.add_assoc, Nat.add_zero]

/-- NP lies in the 31 bits of an entry that count. -/
theorem bitsOf_np (e : Nat) : bitsOf (e % 2 ^ 31) 28 3 = bitsOf e 28 3 := by
  unfold bitsOf; omega

theorem State.putRoute_other (s : State) (rtl : Bool) (i e : Nat) :
    (s.putRoute rtl i e).routeTab (!rtl) = s.routeTab (!rtl) := by
  unfold State.putRoute
  split
  · rfl
  · cases rtl <;> rfl

theorem State.putRoute_routeTab (s : State) (rtl : Bool) (i e j : Nat) (hi : i < 8192) :
    Map.getD ((s.putRoute rtl i e).routeTab rtl) j 0 =
      if j = i ∧ bitsOf e 28 3 ≤ 4 then e % 2 ^ 31 else Map.getD (s.routeTab rtl) j 0 := by
  unfold State.putRoute
  rw [bitsOf_np]
  by_cases hnp : bitsOf e 28 3 ≤ 4
  · have hguard : (decide (4 < bitsOf e 28 3) || decide (8192 ≤ i)) = false := by simp [hnp, hi]
    cases rtl <;> simp [hguard, State.routeTab, Map.getD_putD, hnp]
  · simp [hnp, Nat.lt_of_not_le hnp]

theorem State.routeLoad_other (s : State) (rtl : Bool) (first : Nat) (es : List Nat) :
    (s.routeLoad rtl first es).routeTab (!rtl) = s.routeTab (!rtl) := by
  induction es generalizing s first with
  | nil => rfl
  | cons e es ih => rw [State.routeLoad_cons, ih, State.putRoute_other]

theorem State.routeLoad_outside (s : State) (rtl : Bool) (first j : Nat) (es : List Nat) (hfit : first + es.length ≤ 8192)
    (hj : j < first ∨ first + es.length ≤ j) :
    Map.getD ((s.routeLoad rtl first es).routeTab rtl) j 0 = Map.getD (s.routeTab rtl) j 0 := by
  induction es generalizing s first with
  | nil => rfl
  | cons e es ih =>
    rw [List.length_cons] at hfit hj
    rw [State.routeLoad_cons, ih _ _ (by omega) (by omega), State.putRoute_routeTab _ _ _ _ _ (by omega), if_neg (by omega)]

theorem State.routeLoad_inside (s : State) (rtl : Bool) (first : Nat) (es : List Nat) (hfit : first + es.length ≤ 8192)
    (i : Nat) (hi : i < es.length) :
    Map.getD ((s.routeLoad rtl first es).routeTab rtl) (first + i) 0 =
      if bitsOf es[i] 28 3 ≤ 4 then es[i] % 2 ^ 31 else Map.getD (s.routeTab rtl) (first + i) 0 := by
  induction es generalizing s first i with
  | nil => exact absurd hi (Nat.not_lt_zero i)
  | cons e es ih =>
    rw [List.length_cons] at hfit hi
    rw [State.routeLoad_cons]
    cases i with
    | zero =>
      rw [State.routeLoad_outside _ _ _ _ _ (by omega) (by omega), State.putRoute_routeTab _ _ _ _ _ (by omega)]
      simp
    | succ i =>
      rw [show first + (i + 1) = first + 1 + i by omega, ih _ _ (by omega) i (by omega),
        State.putRoute_routeTab _ _ _ _ _ (by omega), if_neg (c := _ ∧ _) (by omega)]
      rfl

theorem EventOnly.routeTab {s t : State} (h : EventOnly s t) (rtl : Bool) : t.routeTab rtl = s.routeTab rtl := by
  unfold EventOnly at h; rw [h]; rfl

/-- A station tract recorded under its handle. -/
def State.recordStract (s : State) (n : Nat) (v : Stract) : State := { s with stracts := Map.put s.stracts n v }

/-! # The fabric commands (R151, R236, R237, R365) -/

section

variable {s : State} {h : Hdr} {r : Started}

theorem Admitted.fabricSetup {sn size : BitVec 24} {l1 l2 : Bool} {b : Byte}
    (ha : Admitted s h 0x0401 (Instr.params (.fabricSetup h sn l1 l2 size b)) r) (hsn : stationOk sn.toNat = true)
    (hsize : size.toNat ≤ 4194304) (hlo : 9 ≤ b.toNat) (hhi : b.toNat ≤ 13) :
    exec (.fabricSetup h sn l1 l2 size b) s = .next (if s.fab.snLock || s.domLock then s.finish r 0x0342
      else State.finish { s with
        station := sn.toNat, domSize := size.toNat, domLock := l2
        fab := { s.fab with snLock := l1, b := b.toNat } } r 0) := by
  change Host.Outcome.next (s.command h 0x0401 (Instr.params (.fabricSetup h sn l1 l2 size b)) _) = _
  rw [ha.command]
  simp [hsn, Nat.not_lt.2 hsize, Nat.not_lt.2 hlo, Nat.not_lt.2 hhi]

theorem Admitted.routeLoad {rtl : Bool} {first : BitVec 16} {es : List (BitVec 32)}
    (ha : Admitted s h 0x0402 (Instr.params (.routeLoad h rtl first es)) r) :
    exec (.routeLoad h rtl first es) s = .next (if es = [] ∨ 1022 < es.length ∨ 8192 < first.toNat + es.length then
      s.finish r 0x0801 else (s.routeLoad rtl first.toNat (es.map (·.toNat))).finish r 0) := by
  change Host.Outcome.next (s.command h 0x0402 (Instr.params (.routeLoad h rtl first es)) _) = _
  rw [ha.command]
  simp [or_assoc]

theorem Admitted.stractSetup {n : BitVec 16} {home : BitVec 24} {o : Byte} {ms : List (BitVec 32)}
    (ha : Admitted s h 0x0403 (Instr.params (.stractSetup h n home o ms)) r) (hlo : 5 ≤ o.toNat) (hhi : o.toNat ≤ 10)
    (hms : 1 ≤ ms.length) (hms' : ms.length ≤ 1022) (hhome : stationOk home.toNat = true)
    (hall : ((ms.map (·.toNat)).all stationOk) = true) :
    let s1 := s.recordStract n.toNat ⟨home.toNat, o.toNat, ms.map (·.toNat)⟩
    exec (.stractSetup h n home o ms) s = .next (if (Map.find s.stracts n.toNat).isSome then s.finish r 0x0343
      else if 256 ≤ s.stracts.length then s.finish r 0x0206
      else if home.toNat = s.station then
        s1.awaitMacks r fun s => s.joinMembers n.toNat home.toNat o.toNat (ms.map (·.toNat)) r
      else s1.finish r 0) := by
  intro s1
  change Host.Outcome.next (s.command h 0x0403 (Instr.params (.stractSetup h n home o ms)) _) = _
  rw [ha.command]
  have hne : ms ≠ [] := List.length_pos_iff.1 hms
  simp only [List.all_map] at hall
  simp [Nat.not_lt.2 hlo, Nat.not_lt.2 hhi, hne, Nat.not_lt.2 hms', hhome, hall, s1, State.recordStract]

theorem Admitted.stractRelease_none {n : BitVec 16} (ha : Admitted s h 0x0404 (Instr.params (.stractRelease h n)) r)
    (hf : Map.find s.stracts n.toNat = none) : exec (.stractRelease h n) s = .next (s.finish r 0x0732) := by
  change Host.Outcome.next (s.command h 0x0404 (Instr.params (.stractRelease h n)) _) = _
  rw [ha.command, hf]

/-- Beside the tract forgotten, a release only sends (R243). -/
theorem Admitted.stractRelease {n : BitVec 16} {v : Stract} (ha : Admitted s h 0x0404 (Instr.params (.stractRelease h n)) r)
    (hf : Map.find s.stracts n.toNat = some v) :
    ∃ t, exec (.stractRelease h n) s = .next t ∧ LogOnly (s.dropStract n.toNat) t := by
  refine ⟨_, rfl, ?_⟩
  rw [ha.command, hf]
  exact .ite (State.awaitMacks_logOnly fun t => .foldl (fun s m => s.fwmsg_logOnly _ _ _ _) _ t) (State.finish_logOnly _ _ _ _)

end

theorem State.find_dropStract (s : State) (n m : Nat) :
    Map.find (s.dropStract n).stracts m = if m = n then none else Map.find s.stracts m := Map.find_del _ _ _

theorem State.dropStract_engOf (s : State) (n k : Nat) :
    (s.dropStract n).engOf k = if keyUnit k = stractUnit n then Eng.empty else s.engOf k := by
  have hfind : Map.find (s.dropStract n).eng k = _ := Map.find_filter s.eng (fun k => keyUnit k != stractUnit n) k
  unfold State.engOf Map.getD
  rw [hfind]
  by_cases hk : keyUnit k = stractUnit n <;> simp [hk]

end Sys2Proof.Machine

section

open Sys2Proof Sys2Proof.Machine

/-- Settles O50. -/
theorem fabricCommands : Obligations.FabricCommands := by
  refine ⟨?setup, ?routes, ?stract, ?release⟩
  case setup =>
    intro s h sn l1 l2 size b r ha hsn hsize hlo hhi
    have hrun := ha.fabricSetup hsn hsize hlo hhi
    refine ⟨fun hlock => ?_, fun hsl hdl => ?_⟩
    · rw [hrun, if_pos (by simpa using hlock)]
    · rw [if_neg (by simp [hsl, hdl])] at hrun
      refine ⟨_, hrun, ?_⟩
      rw [State.finish_eventOnly]
      exact ⟨rfl, rfl, rfl, rfl, rfl, rfl, rfl⟩
  case routes =>
    intro s h rtl first es r ha
    refine ⟨fun hbad => by rw [ha.routeLoad, if_pos hbad], fun hlo hhi hfit => ?_⟩
    have hne : es ≠ [] := List.length_pos_iff.1 hlo
    have hrun := ha.routeLoad
    rw [if_neg (by simp [hne, hhi, hfit])] at hrun
    refine ⟨_, hrun, ?_⟩
    set t := (s.routeLoad rtl first.toNat (es.map (·.toNat))).finish r 0
    have htab : ∀ b, t.routeTab b = (s.routeLoad rtl first.toNat (es.map (·.toNat))).routeTab b :=
      (State.finish_eventOnly _ r 0 []).routeTab
    have hlen : first.toNat + (es.map (·.toNat)).length ≤ 8192 := by simpa using hfit
    have hin : ∀ i, (hi : i < es.length) → Map.getD (t.routeTab rtl) (first.toNat + i) 0 = if bitsOf es[i].toNat 28 3 ≤ 4 then
        es[i].toNat % 2 ^ 31 else Map.getD (s.routeTab rtl) (first.toNat + i) 0 := by
      intro i hi
      have hload := s.routeLoad_inside rtl first.toNat _ hlen i (by simpa using hi)
      rwa [List.getElem_map, ← htab] at hload
    refine ⟨?_, fun i hi hnp => (hin i hi).trans (if_pos hnp), fun i hi hnp => (hin i hi).trans (if_neg (by omega)), fun j hj => ?_⟩
    · have hother : t.routeTab (!rtl) = s.routeTab (!rtl) := (htab _).trans (s.routeLoad_other rtl first.toNat _)
      cases rtl <;> exact hother
    · change Map.getD (t.routeTab rtl) j 0 = Map.getD (s.routeTab rtl) j 0
      rw [htab]
      exact s.routeLoad_outside rtl first.toNat j _ hlen (by simpa using hj)
  case stract =>
    intro s h n home o ms r ha hlo hhi hms hms' hhome hall
    have hrun := ha.stractSetup hlo hhi hms hms' hhome hall
    dsimp only at hrun
    refine ⟨fun hf => ?_, fun hf hfull => ?_, fun hf hroom haway => ?_, fun hf hroom hown => ?_⟩
    · rw [hrun, if_pos hf]
    · rw [hrun, if_neg (by simp [hf]), if_pos hfull]
    · rw [hrun, if_neg (by simp [hf]), if_neg (by omega), if_neg haway]; rfl
    · rw [if_neg (by simp [hf]), if_neg (by omega), if_pos hown] at hrun
      refine ⟨_, hrun, ?_⟩
      have hsent := (State.joinMembers_sent ((s.recordStract n.toNat ⟨home.toNat, o.toNat, ms.map (·.toNat)⟩).begin r)
        n.toNat home.toNat o.toNat (ms.map (·.toNat)) r).eventOnly (State.fwAnswered_zero_eventOnly _ { r with begun := true })
      exact ⟨by rw [State.awaitMacks, hsent.stracts]; exact Map.find_put _ _ _, hsent.drop⟩
  case release =>
    intro s h n r ha
    refine ⟨ha.stractRelease_none, fun v hf => ?_⟩
    obtain ⟨t, ht, hlog⟩ := ha.stractRelease hf
    have heng : ∀ k, t.engOf k = (s.dropStract n.toNat).engOf k := fun k => by rw [State.engOf, hlog.eng]; rfl
    refine ⟨t, ht, ?_, fun m hm => ?_, fun k hk => ?_, fun k hk => ?_⟩
    · rw [hlog.stracts, State.find_dropStract, if_pos rfl]
    · rw [hlog.stracts, State.find_dropStract, if_neg hm]
    · rw [heng, State.dropStract_engOf, if_pos hk]
    · rw [heng, State.dropStract_engOf, if_neg hk]

end

namespace Sys2Proof.Machine

/-! # Operations on synchronisation states, wherever they lie (R161, R332), and the closures -/

theorem foldl_closures {α : Type} {f : State → α → State} (hf : ∀ s x, (f s x).closures = s.closures) (l : List α) (s : State) :
    (l.foldl f s).closures = s.closures := by
  induction l generalizing s with
  | nil => rfl
  | cons x l ih => rw [List.foldl_cons, ih, hf]

theorem LogOnly.closures {s t : State} (h : LogOnly s t) : t.closures = s.closures := by rw [h]

theorem State.lineUnc_logOnly (s : State) (a req : Nat) : LogOnly s (s.lineUnc a req) := by
  unfold State.lineUnc
  exact .ite ((s.count_logOnly _ 1).trans (State.log_logOnly _ _ _ _ _ _ _ _))
    (((s.count_logOnly _ 1).trans (State.count_logOnly _ _ 1)).trans (State.log_logOnly _ _ _ _ _ _ _ _))

theorem State.syncReport_closures (s : State) (u a : Nat) : (s.syncReport u a).closures = s.closures := by
  unfold State.syncReport
  split
  · rfl
  · exact foldl_closures (fun s k => (s.lineUnc_logOnly k _).closures) _ s

theorem State.putSync_closures (s : State) (c u a : Nat) : (s.putSync c u a).closures = s.closures := by
  unfold State.putSync
  dsimp only
  split
  · rfl
  · split <;> rfl

theorem State.onSaved_closures (s : State) (c : Nat) (us : List Nat) {f : State → State}
    (hf : ∀ t, (f t).closures = t.closures) : (s.onSaved c us f).closures = s.closures := by
  unfold State.onSaved
  dsimp only
  split
  · rw [foldl_closures fun s u => by exact s.putSync_closures _ _ _, hf,
      foldl_closures fun s u => by exact s.syncReport_closures _ _]
  · split
    · rw [foldl_closures fun s u => s.putSync_closures _ _ _, hf, foldl_closures fun s u => by rfl]
    · exact hf s

/-- The state of the context lies in the engines alone (R161, R332): no save area and no image holds it. -/
def Ctx.live (v : Ctx) : Prop := v.st = .free ∨ v.st = .running ∨ v.st = .slicing

theorem State.onSaved_live {s : State} {c : Nat} (hl : (s.ctx c).live) (us : List Nat) (f : State → State) :
    s.onSaved c us f = f s := by
  unfold State.onSaved
  obtain hst | hst | hst := hl <;> simp [Ctx.inImage, Ctx.resident, hst]

/-! # The bits of a closure (R165) -/

theorem State.cbits_setCbit (s : State) (key cid i k j : Nat) (b : Bool) :
    (s.setCbit key cid i b).cbits k j =
      if k = key ∧ j = cid then setBits (s.cbits key cid) i 1 (b2n b) else s.cbits k j := by
  simp only [State.cbits, State.setCbit, State.setCbits, State.setSync, State.setEng, State.engOf]
  rw [Map.getD_putD]
  by_cases hk : k = key
  · subst hk
    simp [Map.getD_putD]
  · simp [hk]

/-- MEMBER of a closure set in a list of units of a context. -/
def State.setMembers (s : State) (ctx cid : Nat) (us : List Nat) : State :=
  us.foldl (fun s u => s.setCbit (engKey ctx u) cid 0 true) s

theorem State.setMembers_cbits_ne (s : State) (ctx : Nat) (us : List Nat) {cid j : Nat} (k : Nat) (hj : j ≠ cid) :
    (s.setMembers ctx cid us).cbits k j = s.cbits k j := by
  unfold State.setMembers
  induction us generalizing s with
  | nil => rfl
  | cons u us ih => rw [List.foldl_cons, ih, State.cbits_setCbit, if_neg fun h => hj h.2]

/-- MEMBER alone stands in a unit in which no bit stood, once it is set there. -/
theorem State.setMembers_cbits (s : State) (ctx cid : Nat) (us : List Nat) (k : Nat) (h0 : s.cbits k cid = 0) :
    (s.setMembers ctx cid us).cbits k cid = if ∃ u ∈ us, k = engKey ctx u then 1 else 0 := by
  induction us using List.reverseRecOn with
  | nil => simpa [State.setMembers] using h0
  | append_singleton us u ih =>
    have hstep : s.setMembers ctx cid (us ++ [u]) = (s.setMembers ctx cid us).setCbit (engKey ctx u) cid 0 true :=
      List.foldl_concat _ _ _ _
    rw [hstep, State.cbits_setCbit]
    by_cases hu : k = engKey ctx u
    · subst hu
      rw [if_pos ⟨rfl, rfl⟩, ih, if_pos (c := ∃ x ∈ us ++ [u], engKey ctx u = engKey ctx x)
        ⟨u, List.mem_append_right _ (List.mem_singleton_self u), rfl⟩]
      split <;> rfl
    · rw [if_neg fun h => hu h.1, ih]
      simp [hu, or_and_right, exists_or]

theorem State.setMembers_closures (s : State) (ctx cid : Nat) (us : List Nat) :
    (s.setMembers ctx cid us).closures = s.closures := foldl_closures (fun s u => s.setCbit_closures (engKey ctx u) cid 0 true) us s

theorem State.setMembers_mem (s : State) (ctx cid : Nat) (us : List Nat) : (s.setMembers ctx cid us).mem = s.mem := by
  unfold State.setMembers
  induction us generalizing s with
  | nil => rfl
  | cons u us ih => rw [List.foldl_cons, ih, State.setCbit_mem]

theorem State.clearClosureBits_closures (s : State) (c cid : Nat) : (s.clearClosureBits c cid).closures = s.closures := rfl

theorem State.clearClosureBits_cbits (s : State) (c cid k j : Nat) :
    (s.clearClosureBits c cid).cbits k j = if keyCtx k = c ∧ j = cid then 0 else s.cbits k j := by
  simp only [State.cbits, State.clearClosureBits, State.engOf, Map.getD, Map.find_mapVals]
  cases hf : Map.find s.eng k with
  | none => simp [Eng.empty, Sync.empty]
  | some e =>
    by_cases hk : keyCtx k = c
    · by_cases hj : j = cid <;> simp [hk, hj, Map.find_del]
    · simp [hk]

/-- The bits of a closure cleared in every unit of a list of contexts. -/
def State.clearAll (s : State) (cid : Nat) (cs : List Nat) : State := cs.foldl (fun s c => s.clearClosureBits c cid) s

theorem State.clearAll_cbits (s : State) (cid k j : Nat) (cs : List Nat) :
    (s.clearAll cid cs).cbits k j = if keyCtx k ∈ cs ∧ j = cid then 0 else s.cbits k j := by
  unfold State.clearAll
  induction cs generalizing s with
  | nil => simp
  | cons c cs ih =>
    rw [List.foldl_cons, ih, State.clearClosureBits_cbits]
    by_cases hj : j = cid <;> by_cases hc : keyCtx k = c <;> simp [hj, hc]

theorem State.clearAll_mem (s : State) (cid : Nat) (cs : List Nat) : (s.clearAll cid cs).mem = s.mem := by
  unfold State.clearAll
  induction cs generalizing s with
  | nil => rfl
  | cons c cs ih => rw [List.foldl_cons, ih]; rfl

theorem State.clearAll_ctx (s : State) (cid : Nat) (cs : List Nat) (d : Nat) : (s.clearAll cid cs).ctx d = s.ctx d := by
  unfold State.clearAll
  induction cs generalizing s with
  | nil => rfl
  | cons c cs ih => rw [List.foldl_cons, ih]; rfl

/-- With every context's state in the engines alone, the bits are cleared there. -/
theorem State.foldl_clear_live (cid : Nat) (cs : List Nat) (s : State) (hlive : ∀ c ∈ cs, (s.ctx c).live) :
    cs.foldl (fun s c => s.onSaved c (s.unitsOf c) fun s => s.clearClosureBits c cid) s = s.clearAll cid cs := by
  induction cs generalizing s with
  | nil => rfl
  | cons c cs ih =>
    rw [List.foldl_cons, State.onSaved_live (hlive c List.mem_cons_self)]
    exact ih _ fun d hd => hlive d (List.mem_cons_of_mem _ hd)

/-! # Setting up and releasing a closure (R164, R165, R365) -/

theorem orderBase_le (k : Nat) : orderBase k ≤ 17476 := by
  unfold orderBase
  split <;> decide

/-- The units that a closure's list names are units of the device. -/
theorem pathUnit_lt {w u : Nat} (h : pathUnit w = some u) : u < 2 ^ 18 := by
  unfold pathUnit at h
  extract_lets k p v at h
  split at h
  · cases h
  · rename_i hk
    split at h
    · have huv : v = u := Option.some.inj h
      have hp : p < 16384 := by simp only [p, bitsOf]; omega
      have hdiv : p / orderSpan k ≤ p := Nat.div_le_self _ _
      have hbase : orderBase k ≤ 17476 := orderBase_le k
      rw [← huv]; simp only [v]; omega
    · cases h

theorem State.closureList_units_lt {s : State} {a nchild nlocal : Nat} {child units : List Nat}
    (h : s.closureList a nchild nlocal = some (child, units)) : ∀ u ∈ units, u < 2 ^ 18 := by
  unfold State.closureList at h
  extract_lets word child' ws us at h
  split at h
  · have hus : us = units := congrArg Prod.snd (Option.some.inj h)
    intro u hu
    obtain ⟨w, -, hw⟩ := List.mem_filterMap.1 (hus ▸ hu)
    split at hw
    · exact pathUnit_lt hw
    · cases hw
  · cases h

theorem keyCtx_engKey {c u : Nat} (hu : u < 2 ^ 18) : keyCtx (engKey c u) = c := by
  unfold keyCtx engKey; omega

/-- What a closure is once it is set up. -/
def State.freshClosure (s : State) (ctx parent limit : Nat) (child units : List Nat) : Closure :=
  { Closure.idle with
    st := .opened, ctx := ctx, parent := parent, child := child, units := units
    limit := if limit = 0 then s.flt.wlim.getD 3 20000 else limit }

theorem State.setupClosure_eq (s : State) (cid ctx parent limit : Nat) (child units : List Nat) :
    s.setupClosure cid ctx parent limit child units =
      (((List.range 8).foldl (fun s c => s.onSaved c (s.unitsOf c) fun s => s.clearClosureBits c cid) s).setClosure cid
        (s.freshClosure ctx parent limit child units)).onSaved ctx units fun s => s.setMembers ctx cid units := rfl

theorem State.setClosure_closures (s : State) (cid : Nat) (v : Closure) :
    (s.setClosure cid v).closures = Map.putD s.closures cid v Closure.idle := rfl

theorem State.setupClosure_closures (s : State) (cid ctx parent limit : Nat) (child units : List Nat) :
    (s.setupClosure cid ctx parent limit child units).closures =
      Map.putD s.closures cid (s.freshClosure ctx parent limit child units) Closure.idle := by
  rw [State.setupClosure_eq, State.onSaved_closures _ _ _ fun t => t.setMembers_closures ctx cid units,
    State.setClosure_closures, foldl_closures fun s c => s.onSaved_closures c _ fun t => t.clearClosureBits_closures c cid]

/-- With every context's state in the engines alone, so are all the bits that it changes. -/
theorem State.setupClosure_live {s : State} {ctx : Nat} (hctx : ctx < 8) (hlive : ∀ c, c < 8 → (s.ctx c).live)
    (cid parent limit : Nat) (child units : List Nat) :
    s.setupClosure cid ctx parent limit child units =
      ((s.clearAll cid (List.range 8)).setClosure cid (s.freshClosure ctx parent limit child units)).setMembers ctx cid units := by
  have hafter : (((s.clearAll cid (List.range 8)).setClosure cid (s.freshClosure ctx parent limit child units)).ctx ctx).live :=
    (congrArg Ctx.live (s.clearAll_ctx cid _ ctx)).mpr (hlive ctx hctx)
  rw [State.setupClosure_eq, State.foldl_clear_live _ _ _ fun c hc => hlive c (List.mem_range.1 hc), State.onSaved_live hafter]

section

variable {s : State} {h : Hdr} {r : Started}

variable {cid nlocal : BitVec 16} {ctx nchild : Byte} {parent : BitVec 24} {limit : BitVec 32} {list : BitVec 48}

/-- CLOSURE_SETUP of a record that keeps its ranges, with a list that can be read and keeps R164. -/
theorem Admitted.closureSetup {l : List Nat × List Nat}
    (ha : Admitted s h 0x0405 (Instr.params (.closureSetup h cid ctx nchild parent limit nlocal list)) r)
    (hok : closureRangesOk cid.toNat ctx.toNat nchild.toNat parent.toNat limit.toNat nlocal.toNat = true)
    (hopen : (s.closure cid.toNat).st ≠ .opened) (hfw : s.fwStatus list.toNat (4 * (nchild.toNat + nlocal.toNat)) = 0)
    (hread : s.badIn list.toNat (4 * (nchild.toNat + nlocal.toNat)) = false)
    (hlist : s.closureList list.toNat nchild.toNat nlocal.toNat = some l) :
    exec (.closureSetup h cid ctx nchild parent limit nlocal list) s =
      .next (((s.access .control false list.toNat (4 * (nchild.toNat + nlocal.toNat))).setupClosure cid.toNat ctx.toNat
        parent.toNat limit.toNat l.1 l.2).finish r 0) := by
  change Host.Outcome.next (s.command h 0x0405 (Instr.params (.closureSetup h cid ctx nchild parent limit nlocal list)) _) = _
  rw [ha.command, if_neg (by simp [hok]), if_neg (by simpa using hopen), if_neg (by simp [hfw]), if_neg (by simp [hread]), hlist]

theorem Admitted.closureSetup_ranges
    (ha : Admitted s h 0x0405 (Instr.params (.closureSetup h cid ctx nchild parent limit nlocal list)) r)
    (hbad : closureRangesOk cid.toNat ctx.toNat nchild.toNat parent.toNat limit.toNat nlocal.toNat = false) :
    exec (.closureSetup h cid ctx nchild parent limit nlocal list) s = .next (s.finish r 0x0801) := by
  change Host.Outcome.next (s.command h 0x0405 (Instr.params (.closureSetup h cid ctx nchild parent limit nlocal list)) _) = _
  rw [ha.command, if_pos (by simp [hbad])]

theorem Admitted.closureSetup_open
    (ha : Admitted s h 0x0405 (Instr.params (.closureSetup h cid ctx nchild parent limit nlocal list)) r)
    (hok : closureRangesOk cid.toNat ctx.toNat nchild.toNat parent.toNat limit.toNat nlocal.toNat = true)
    (hopen : (s.closure cid.toNat).st = .opened) :
    exec (.closureSetup h cid ctx nchild parent limit nlocal list) s = .next (s.finish r 0x0344) := by
  change Host.Outcome.next (s.command h 0x0405 (Instr.params (.closureSetup h cid ctx nchild parent limit nlocal list)) _) = _
  rw [ha.command, if_neg (by simp [hok]), if_pos (by simp [hopen])]

theorem Admitted.closureRelease (ha : Admitted s h 0x0406 (Instr.params (.closureRelease h cid)) r)
    (hc : cid.toNat < 1024) :
    exec (.closureRelease h cid) s = .next (if s.closureBusy cid.toNat then s.finish r 0x0345
      else (s.setClosure cid.toNat Closure.idle).finish r 0) := by
  change Host.Outcome.next (s.command h 0x0406 (Instr.params (.closureRelease h cid)) _) = _
  rw [ha.command, if_neg (Nat.not_le.2 hc)]

end

theorem closureRangesOk_ctx {cid ctx nchild parent limit nlocal : Nat}
    (h : closureRangesOk cid ctx nchild parent limit nlocal = true) : ctx < 8 := by
  simp only [closureRangesOk, Bool.and_eq_true, decide_eq_true_eq] at h
  exact h.1.1.1.1.1.2

theorem EventOnly.closure {s t : State} (h : EventOnly s t) (j : Nat) : t.closure j = s.closure j := by
  unfold EventOnly at h; rw [h]; rfl

theorem EventOnly.cbits {s t : State} (h : EventOnly s t) (k j : Nat) : t.cbits k j = s.cbits k j := by
  unfold EventOnly at h; rw [h]; rfl

theorem EventOnly.mem {s t : State} (h : EventOnly s t) : t.mem = s.mem := h.logOnly.mem

theorem EventOnly.eng {s t : State} (h : EventOnly s t) : t.eng = s.eng := h.logOnly.eng

theorem AccessOnly.closures {s t : State} (h : AccessOnly s t) : t.closures = s.closures := by rw [h]

theorem AccessOnly.cbits {s t : State} (h : AccessOnly s t) (k j : Nat) : t.cbits k j = s.cbits k j := by rw [h]; rfl

theorem State.closure_of_putD {s t : State} {cid : Nat} {v : Closure}
    (h : t.closures = Map.putD s.closures cid v Closure.idle) (j : Nat) :
    t.closure j = if j = cid then v else s.closure j := by
  rw [State.closure, h, Map.getD_putD]; rfl

end Sys2Proof.Machine

section

open Sys2Proof Sys2Proof.Machine

/-- Settles O51. -/
theorem closureCommands : Obligations.ClosureCommands := by
  refine ⟨?setup, ?release⟩
  case setup =>
    intro s h cid ctx nchild parent limit nlocal list r ha bad run
    have hranges : ¬ bad → closureRangesOk cid.toNat ctx.toNat nchild.toNat parent.toNat limit.toNat nlocal.toNat = true :=
      Bool.not_eq_false _ |>.mp
    refine ⟨ha.closureSetup_ranges, fun hok hopen => ha.closureSetup_open (hranges hok) hopen,
      fun child units hok hopen hfw hread hlist => ?_⟩
    have hrun := ha.closureSetup (hranges hok) hopen hfw hread hlist
    have hacc := s.access_accessOnly .control false list.toNat (4 * (nchild.toNat + nlocal.toNat))
    set s1 := s.access .control false list.toNat (4 * (nchild.toNat + nlocal.toNat))
    have hctx : ctx.toNat < 8 := closureRangesOk_ctx (hranges hok)
    have hfin := (s1.setupClosure cid.toNat ctx.toNat parent.toNat limit.toNat child units).finish_eventOnly r 0 []
    have hclosures := State.closure_of_putD (s1.setupClosure_closures cid.toNat ctx.toNat parent.toNat limit.toNat child units)
    refine ⟨hrun, _, hrun, ?_, fun j hj => ?_, fun hlive => ?_⟩
    · rw [hfin.closure, hclosures, if_pos rfl, State.freshClosure, hacc.flt]
    · rw [hfin.closure, hclosures, if_neg hj, State.closure, hacc.closures]; rfl
    have hlive1 : ∀ c, c < 8 → (s1.ctx c).live := fun c hc => by rw [hacc.ctx]; exact hlive c hc
    have hset := s1.setupClosure_live hctx hlive1 cid.toNat parent.toNat limit.toNat child units
    refine ⟨fun u hu => ?_, fun k j hj => ?_, ?_⟩
    · have hkey : keyCtx (engKey ctx.toNat u) ∈ List.range 8 := by
        rw [keyCtx_engKey (State.closureList_units_lt hlist u hu)]; exact List.mem_range.2 hctx
      rw [hfin.cbits, hset, State.setMembers_cbits, if_pos ⟨u, hu, rfl⟩]
      exact (s1.clearAll_cbits _ _ _ _).trans (if_pos ⟨hkey, rfl⟩)
    · rw [hfin.cbits, hset, State.setMembers_cbits_ne _ _ _ _ hj]
      exact ((s1.clearAll_cbits _ _ _ _).trans (if_neg fun h => hj h.2)).trans (hacc.cbits k j)
    · rw [hfin.mem, hset, State.setMembers_mem]
      exact (s1.clearAll_mem _ _).trans hacc.mem
  case release =>
    intro s h cid r ha hc
    have hrun := ha.closureRelease hc
    refine ⟨fun hbusy => by rw [hrun, if_pos hbusy], fun hidle => ?_⟩
    rw [if_neg (by simp [hidle])] at hrun
    have hfin := (s.setClosure cid.toNat Closure.idle).finish_eventOnly r 0 []
    have hclosures := State.closure_of_putD (s.setClosure_closures cid.toNat Closure.idle)
    exact ⟨_, hrun, by rw [hfin.closure, hclosures, if_pos rfl], fun j hj => by rw [hfin.closure, hclosures, if_neg hj],
      hfin.eng, hfin.mem⟩

end

namespace Sys2Proof.Machine

/-! # Canonical memory (O4)

Memory is written in few ways: bytes laid from an address up, a range cleared or copied, elements, tiles and rows put in place.
Each keeps the canonical form. `State.memOk.<operation>` says so of an operation of the model, by the lemmas of the operations
that it is made of; one that writes no memory is a case of `State.memOk.upd`. Each command is then composed of these. -/

/-! ### Writes of memory -/

theorem putNib_wf {m : Memory} {a w v : Nat} (h : m.wf = true) : (putNib m a w v).wf = true := by
  unfold putNib
  split
  · exact Memory.wf_write h ..
  · exact Memory.wf_writeLE h ..

theorem foldl_wf {α : Type} {f : Memory → α → Memory} (hf : ∀ {m x}, Memory.wf m = true → (f m x).wf = true)
    {l : List α} {m : Memory} (h : m.wf = true) : (l.foldl f m).wf = true := by
  induction l generalizing m with
  | nil => exact h
  | cons x l ih => exact ih (hf h)

theorem setCodeAt_wf {m : Memory} {z : Bool} {a k c : Nat} (h : m.wf = true) : (setCodeAt m z a k c).wf = true :=
  Memory.wf_writeLE h ..

theorem Col.putTile_wf {c : Col} {m : Memory} {va ca t : Nat} {vals codes : List Nat} (h : m.wf = true) :
    (c.putTile m va ca t vals codes).wf = true :=
  foldl_wf setCodeAt_wf (Memory.wf_writeN h ..)

theorem optBlock_wf {d : List Byte} {o : BndOut} {b : Nat} {ks : List Nat} (h : o.mem.wf = true) :
    (optBlock d o b ks).mem.wf = true := by
  unfold optBlock
  extract_lets w es osc out sc ws m1 m2
  have h1 : m1.wf = true := foldl_wf (fun h => by
    extract_lets n1 n2
    have hn : n2.wf = true := Memory.wf_writeLE (Memory.wf_writeLE (putNib_wf h) ..) ..
    split
    · exact hn
    · exact Memory.wf_writeLE hn ..) h
  change m2.wf = true
  unfold m2
  split
  · exact Memory.wf_writeLE h1 ..
  · exact h1

theorem reqBlock_wf {d : List Byte} {o : BndOut} {b : Nat} {ks : List Nat} (h : o.mem.wf = true) :
    (reqBlock d o b ks).mem.wf = true := by
  unfold reqBlock
  extract_lets i fo osc set given out lone spoilt earlier m1
  have h1 : m1.wf = true := foldl_wf putNib_wf h
  dsimp only
  split
  · exact Memory.wf_writeLE h1 ..
  · exact h1

theorem blocks_wf {α : Type} {f : BndOut → α → BndOut} (hf : ∀ {o x}, o.mem.wf = true → (f o x).mem.wf = true)
    {l : List α} {o : BndOut} (h : o.mem.wf = true) : (l.foldl f o).mem.wf = true := by
  induction l generalizing o with
  | nil => exact h
  | cons x l ih => exact ih (hf h)

theorem gathRow_wf {d : List Byte} {ix : List Nat} {m : Memory} {i : Nat} (h : m.wf = true) :
    (gathRow d ix m i).wf = true := by
  unfold gathRow
  dsimp only
  split
  · exact Memory.wf_copy h ..
  · exact Memory.wf_clear h ..

theorem scatRow_wf {d : List Byte} {ix : List Nat} {m : Memory} {i : Nat} (h : m.wf = true) :
    (scatRow d ix m i).wf = true := by
  unfold scatRow
  dsimp only
  split
  · exact Memory.wf_writeN h ..
  · exact h

theorem bndOut_wf {d : List Byte} {ix : List Nat} {m n : Nat} {mem : Memory} (h : mem.wf = true) :
    (bndOut d ix m n mem).mem.wf = true := by
  unfold bndOut
  split
  · exact blocks_wf optBlock_wf h
  · exact blocks_wf reqBlock_wf h
  · exact foldl_wf gathRow_wf h
  · exact foldl_wf scatRow_wf h
  · exact h

/-- Cells of two ranges, one behind the other. -/
theorem cells_append_wf {m n : Memory} {a b c : Nat} (hm : m.wf = true) (hn : n.wf = true)
    (hmr : ∀ kv ∈ m, a ≤ kv.1 ∧ kv.1 < b) (hnr : ∀ kv ∈ n, b ≤ kv.1 ∧ kv.1 < c) :
    Memory.wf (m ++ n) = true := by
  rw [Memory.wf_iff] at *
  refine ⟨?_, fun kv hk => (List.mem_append.mp hk).elim (hm.2 kv) (hn.2 kv)⟩
  rw [List.map_append, List.pairwise_append]
  refine ⟨hm.1, hn.1, fun x hx y hy => ?_⟩
  obtain ⟨kv, hk, rfl⟩ := List.mem_map.mp hx
  obtain ⟨kw, hl, rfl⟩ := List.mem_map.mp hy
  exact (hmr kv hk).2.trans_le (hnr kw hl).1

/-- The images of entries take their places one after another. -/
theorem catCells_wf {f : Nat → List Byte} (hf : ∀ i, (f i).length = 64) (a n : Nat) :
    Memory.wf ((List.range n).flatMap fun i => cellsOf (a + 64 * i) (f i)) = true ∧
      ∀ kv ∈ (List.range n).flatMap fun i => cellsOf (a + 64 * i) (f i), a ≤ kv.1 ∧ kv.1 < a + 64 * n := by
  induction n with
  | zero => exact ⟨rfl, nofun⟩
  | succ n ih =>
    have hr := cellsOf_range (a + 64 * n) (f n)
    rw [hf] at hr
    simp only [List.range_succ, List.flatMap_append, List.flatMap_singleton]
    refine ⟨cells_append_wf ih.1 (cellsOf_wf ..) ih.2 hr, fun kv hk => ?_⟩
    obtain hk | hk := List.mem_append.mp hk
    · have := ih.2 kv hk; omega
    · have := hr kv hk; omega

theorem CatEntry.bytes_length (e : CatEntry) : e.bytes.length = 64 := by
  simp [CatEntry.bytes, bytesAt]
  omega

/-- The next state of a command, where it has one, has both memories in canonical form. -/
def NextMemOk (o : Host.Outcome State Fault Refusal) : Prop := ∀ t, o = .next t → t.memOk

namespace NextMemOk

variable {t : State} {o p : Host.Outcome State Fault Refusal}

theorem next (h : t.memOk) : NextMemOk (.next t) := fun _ e => by cases e; exact h
theorem refused {r : Refusal} : NextMemOk (.refused r) := fun _ e => nomatch e

theorem ite {c : Prop} [Decidable c] (h : NextMemOk o) (g : NextMemOk p) : NextMemOk (if c then o else p) := by
  split <;> assumption

end NextMemOk

namespace State.memOk

variable {s t : State}

/-- A state whose memories are those of `s`. -/
theorem upd (h : s.memOk) {pending now fresh bad owner scratch eng closures stracts arc ctxs ctxActs cmd ctr flt brg cat
    bndWaits station d3hot d3depth linkUp tmax pin dbgOpen ports egress hbm bnd fab cols slotRes domSize domLock pwr sec
    mod out} :
    State.memOk ⟨pending, now, fresh, s.mem, s.host, bad, owner, scratch, eng, closures, stracts, arc, ctxs, ctxActs, cmd,
      ctr, flt, brg, cat, bndWaits, station, d3hot, d3depth, linkUp, tmax, pin, dbgOpen, ports, egress, hbm, bnd, fab,
      cols, slotRes, domSize, domLock, pwr, sec, mod, out⟩ := h

/-- A state whose host memory is that of `s`, and whose device memory is as canonical. -/
theorem updMem (h : s.memOk) {mem : Memory} {pending now fresh bad owner scratch eng closures stracts arc ctxs ctxActs cmd
    ctr flt brg cat bndWaits station d3hot d3depth linkUp tmax pin dbgOpen ports egress hbm bnd fab cols slotRes domSize
    domLock pwr sec mod out} (hm : s.mem.wf = true → mem.wf = true) :
    State.memOk ⟨pending, now, fresh, mem, s.host, bad, owner, scratch, eng, closures, stracts, arc, ctxs, ctxActs, cmd,
      ctr, flt, brg, cat, bndWaits, station, d3hot, d3depth, linkUp, tmax, pin, dbgOpen, ports, egress, hbm, bnd, fab,
      cols, slotRes, domSize, domLock, pwr, sec, mod, out⟩ := ⟨hm h.1, h.2⟩

theorem ite {c : Prop} [Decidable c] (h : s.memOk) (g : t.memOk) : (if c then s else t).memOk := by
  split <;> assumption

/-- The same where the state comes with a result. -/
theorem iteFst {α : Type} {c : Prop} [Decidable c] {p q : State × α} (h : p.1.memOk) (g : q.1.memOk) :
    (if c then p else q).1.memOk := by
  split <;> assumption

theorem foldl {α : Type} {f : State → α → State} {l : List α} (hf : ∀ {s x}, s.memOk → (f s x).memOk)
    (h : s.memOk) : (l.foldl f s).memOk := by
  induction l generalizing s with
  | nil => exact h
  | cons x l ih => exact ih (hf h)

theorem of_eq {α : Type} {p : State × α} {x : α} (e : p = (s, x)) (h : p.1.memOk) : s.memOk := by
  subst e; exact h

/-! ### Route -/

theorem count {k n} (h : s.memOk) : (s.count k n).memOk := .upd h
theorem setSvc {code v} (h : s.memOk) : (s.setSvc code v).memOk := .upd h
theorem bumpEpoch {code} (h : s.memOk) : (s.bumpEpoch code).memOk := .upd h
theorem setPort {p v} (h : s.memOk) : (s.setPort p v).memOk := .upd h
theorem setPctl {n v} (h : s.memOk) : (s.setPctl n v).memOk := .upd h
theorem deliver {k} (h : s.memOk) : (s.deliver k).memOk := .upd h
theorem deliverOwn {k} (h : s.memOk) : (s.deliverOwn k).memOk := .upd h
theorem enqueue {k path inp} (h : s.memOk) : (s.enqueue k path inp).memOk := .ite (.count (.upd h)) (.upd h)

theorem placePacket {k inp} (h : s.memOk) : (s.placePacket k inp).1.memOk := by
  unfold State.placePacket
  split
  · exact .deliverOwn h
  · split
    · exact .enqueue h
    · exact h

theorem noticeFrom {reporter sn status path flow ptype dst ctx} (h : s.memOk) :
    (s.noticeFrom reporter sn status path flow ptype dst ctx).memOk :=
  .placePacket h

theorem notice {sn status path flow ptype dst ctx} (h : s.memOk) :
    (s.notice sn status path flow ptype dst ctx).memOk :=
  .noticeFrom h

theorem noticeOf {k status path} (h : s.memOk) : (s.noticeOf k status path).memOk := .ite (.notice h) h

theorem routePacket {k inp} (h : s.memOk) : (s.routePacket k inp).memOk := by
  unfold State.routePacket
  split
  · exact .of_eq ‹_› (.placePacket h)
  · exact .noticeOf (.of_eq ‹_› (.placePacket h))

theorem sendOn {k} (h : s.memOk) : (s.sendOn k).memOk := .routePacket h
theorem sendBy {k path} (h : s.memOk) : (s.sendBy k path).memOk := .ite (.enqueue h) h
theorem slip {dst ptype flow ctx body} (h : s.memOk) : (s.slip dst ptype flow ctx body).memOk := .sendOn h
theorem fwmsg {dst chan payload cmd} (h : s.memOk) : (s.fwmsg dst chan payload cmd).memOk := .sendOn (.upd h)

/-! ### Ops -/

theorem countAll {ks} (h : s.memOk) : (s.countAll ks).memOk := .foldl .count h
theorem useFree (h : s.memOk) : s.useFree.memOk := .upd h
theorem setEng {key e} (h : s.memOk) : (s.setEng key e).memOk := .upd h
theorem setSync {key y} (h : s.memOk) : (s.setSync key y).memOk := .setEng h
theorem setQueue {key q v} (h : s.memOk) : (s.setQueue key q v).memOk := .setSync h
theorem setMat {key m} (h : s.memOk) : (s.setMat key m).memOk := .setEng h
theorem setVec {key v} (h : s.memOk) : (s.setVec key v).memOk := .setEng h
theorem setCtx {c v} (h : s.memOk) : (s.setCtx c v).memOk := .upd h
theorem wakeMem {slice a} (h : s.memOk) : (s.wakeMem slice a).memOk := .ite h (.upd h)
theorem store {a bs} (h : s.memOk) : (s.store a bs).memOk := h.updMem (Memory.wf_writeN · ..)
theorem heal {a len} (h : s.memOk) : (s.heal a len).memOk := .upd h
theorem lose {a} (h : s.memOk) : (s.lose a).memOk := .upd h
theorem hostStore {a bs} (h : s.memOk) : (s.hostStore a bs).memOk := ⟨h.1, Memory.wf_writeN h.2 ..⟩
theorem setShelf {n v} (h : s.memOk) : (s.setShelf n v).memOk := .upd h
theorem setSlice {n v} (h : s.memOk) : (s.setSlice n v).memOk := .upd h
theorem timeAt {t} (h : s.memOk) : (s.at t).memOk := .ite h (.upd h)

theorem reportOut {bs} (h : s.memOk) : (s.reportOut bs).memOk := by
  unfold State.reportOut
  split
  · exact .upd h
  · split
    · exact .fwmsg h
    · exact h

theorem report {rkind sev payload} (h : s.memOk) : (s.report rkind sev payload).memOk :=
  .ite (.count (.upd h)) (.count (.reportOut (.upd h)))

theorem setSub {q v} (h : s.memOk) : (s.setSub q v).memOk := .upd h
theorem setRcp {r v} (h : s.memOk) : (s.setRcp r v).memOk := .upd h
theorem signal {vec} (h : s.memOk) : (s.signal vec).memOk := .ite (.upd h) (.upd h)
theorem signalRing {q} (h : s.memOk) : (s.signalRing q).memOk := .ite (.signal (.setRcp h)) h
theorem putReceipt {r} (h : s.memOk) : (s.putReceipt r).memOk := .ite h (.signalRing (.setRcp (.hostStore h)))
theorem eventPut {k status result} (h : s.memOk) : (s.eventPut k status result).memOk := .putReceipt (.upd h)
theorem lostEvents (h : s.memOk) : s.lostEvents.memOk := .ite (.eventPut (.upd h)) h

theorem event {k status result} (h : s.memOk) : (s.event k status result).memOk :=
  .ite (.eventPut h) (.lostEvents (.count (.upd h)))

theorem logNew {kind status sev unit addr req detail} (h : s.memOk) :
    (s.logNew kind status sev unit addr req detail).memOk :=
  .report (.event (.count (.upd h)))

theorem log {kind status sev unit addr req detail} (h : s.memOk) :
    (s.log kind status sev unit addr req detail).memOk := by
  unfold State.log
  dsimp only
  split
  · exact .upd h
  · exact .logNew h

theorem hostFault {addr} (h : s.memOk) : (s.hostFault addr).memOk := .log h
theorem setClosure {cid v} (h : s.memOk) : (s.setClosure cid v).memOk := .upd h
theorem setCbits {key cid v} (h : s.memOk) : (s.setCbits key cid v).memOk := .setSync h
theorem setCbit {key cid i b} (h : s.memOk) : (s.setCbit key cid i b).memOk := .setCbits h

theorem dropHeld {key q} (h : s.memOk) : (s.dropHeld key q).memOk := by
  unfold State.dropHeld
  split
  · exact .ite (.setClosure h) (.setCbit (.setClosure h))
  · exact h

theorem failQueue {s : State} {n c u q addr status pc member} (h : s.memOk) :
    (State.failQueue n s c u q addr status pc member).memOk := by
  unfold State.failQueue
  extract_lets key w before _ w' s1 s2
  split
  · exact .ite (.setQueue h) h
  · have h1 : s1.memOk := .setQueue (.dropHeld h)
    have h2 : s2.memOk := .ite (.ite (.count h1) (.ite (.count h1) h1)) h1
    refine .ite ?_ (.ite (.event h2) h2)
    cases n with
    | zero => exact h2
    | succ n => exact failQueue (.count h2)

theorem endEntry {c u q addr status} (h : s.memOk) : (s.endEntry c u q addr status).memOk :=
  .ite (.setQueue h) (.failQueue h)

theorem advance {c u q} (h : s.memOk) : (s.advance c u q).memOk := .setQueue h
theorem waitHead {c u q h'} (h : s.memOk) : (s.waitHead c u q h').memOk := .setQueue h
theorem countShed {first evs} (h : s.memOk) : (s.countShed first evs).memOk := .countAll h

/-! ### Cache -/

theorem dropLine {k l} (h : s.memOk) : (s.dropLine k l).memOk := .ite (.lose h) h
theorem setWays {k w} (h : s.memOk) : (s.setWays k w).memOk := .upd h

theorem cacheLine {write a} (h : s.memOk) : (s.cacheLine write a).memOk := by
  unfold State.cacheLine
  extract_lets k n ways s1 s2 s3
  refine .ite (.ite (.count h) h) ?_
  split
  · exact .count (.setWays h)
  · have h1 : s1.memOk := .count h
    have h2 : s2.memOk := .foldl .dropLine (.setWays h1)
    exact .ite (.count h1) (.countAll (.ite h2 (.count h2)))

theorem accessLine {cls write a} (h : s.memOk) : (s.accessLine cls write a).memOk :=
  .cacheLine (.count (.count (.wakeMem h)))

theorem access {cls write a len} (h : s.memOk) : (s.access cls write a len).memOk := by
  unfold State.access
  split
  · exact .upd h
  · exact .count (.count (.wakeMem h))
  · exact .foldl .accessLine h

theorem lineUnc {addr req} (h : s.memOk) : (s.lineUnc addr req).memOk :=
  .ite (.log (.count h)) (.log (.count (.count h)))

theorem writeBack {p} (h : s.memOk) : (s.writeBack p).memOk := .upd (.countAll h)
theorem writeBackAs {cls p} (h : s.memOk) : (s.writeBackAs cls p).memOk := .writeBack (.countAll h)
theorem invalidate {p} (h : s.memOk) : (s.invalidate p).memOk := .foldl .dropLine (.upd h)
theorem invalidateAs {cls p} (h : s.memOk) : (s.invalidateAs cls p).memOk := .invalidate (.countAll h)

/-! ### Image -/

theorem zeroFill {a len} (h : s.memOk) : (s.zeroFill a len).memOk := h.updMem (Memory.wf_clear · ..)
theorem storeOr {zero a len bs} (h : s.memOk) : (s.storeOr zero a len bs).memOk := .ite (.zeroFill h) (.store h)

theorem copyLost {dst src len} (h : s.memOk) : (s.copyLost dst src len).memOk :=
  .foldl (fun h1 => .foldl .lose h1) (h.updMem (Memory.wf_copy · ..))

theorem putBlock {u a e} (h : s.memOk) : (s.putBlock u a e).memOk :=
  .ite (.storeOr (.storeOr (.storeOr (.storeOr h)))) (.storeOr h)

theorem placeEng {key e} (h : s.memOk) : (s.placeEng key e).memOk := .upd h

theorem blocksOut {c} (h : s.memOk) : (s.blocksOut c).memOk :=
  .foldl (fun h1 => .placeEng (.ite (.copyLost h1) (.putBlock h1))) h

/-- A unit taken from an image or a save area, where it can be read. -/
theorem taken {o : Option Eng} {k} (h : s.memOk) : ∀ t ∈ o.map fun e => s.placeEng k e, t.memOk := by
  rintro _ ht
  obtain ⟨e, -, rfl⟩ := Option.map_eq_some_iff.mp ht
  exact h.placeEng

/-- A state passed on through operations that may find nothing. -/
theorem foldlBind {α : Type} {f : State → α → Option State} {l : List α} {o : Option State}
    (hf : ∀ {s x}, s.memOk → ∀ t ∈ f s x, t.memOk) (h : ∀ t ∈ o, t.memOk) :
    ∀ t ∈ l.foldl (fun o x => o.bind fun s => f s x) o, t.memOk := by
  induction l generalizing o with
  | nil => exact h
  | cons x l ih =>
    refine ih fun t ht => ?_
    obtain ⟨r, hr, hx⟩ := Option.bind_eq_some_iff.mp ht
    exact hf (h r hr) t hx

theorem ofSome (h : s.memOk) : ∀ t ∈ some s, t.memOk := fun _ e => Option.some.inj e ▸ h
theorem blocksIn {c} (h : s.memOk) : ∀ t ∈ s.blocksIn c, t.memOk := foldlBind taken (ofSome h)
theorem suspend {c} (h : s.memOk) : (s.suspend c).memOk := .upd h
theorem unsuspend {c} (h : s.memOk) : (s.unsuspend c).memOk := .upd h
theorem saveAll {c} (h : s.memOk) : (s.saveAll c).memOk := .foldl .putBlock h
theorem restoreAll {c} (h : s.memOk) : ∀ t ∈ s.restoreAll c, t.memOk := foldlBind taken (ofSome h)
theorem putSync {c u a} (h : s.memOk) : (s.putSync c u a).memOk := .ite h (.ite (.upd (.store h)) (.store h))
theorem syncReport {u a} (h : s.memOk) : (s.syncReport u a).memOk := .ite h (.foldl .lineUnc h)

theorem onSaved {c us f} (h : s.memOk) (hf : ∀ {s}, s.memOk → (f s).memOk) : (s.onSaved c us f).memOk := by
  unfold State.onSaved
  extract_lets v real s1 own s2
  have h1 : s1.memOk := .foldl (fun h => .placeEng (.syncReport h)) h
  have h2 : s2.memOk := .foldl .placeEng h
  exact .ite (.foldl (fun h => .placeEng (.putSync h)) (hf h1)) (.ite (.foldl .putSync (hf h2)) (hf h))

theorem onUnits {c us f} (h : s.memOk) (hf : ∀ {s}, s.memOk → (f s).memOk) :
    (s.onUnits c us f).memOk := by
  unfold State.onUnits
  dsimp only
  refine .ite h ?_
  split
  next s1 e => exact .foldl (fun h1 => .placeEng (.putBlock h1)) (hf (foldlBind taken (ofSome h) s1 e))
  · exact h

/-! ### Stakes -/

theorem setStake {holder i st} (h : s.memOk) : (s.setStake holder i st).memOk := .setSync h
theorem misuse {key which} (h : s.memOk) : (s.misuse key which).memOk := .setSync h

theorem endWait {key q status} (h : s.memOk) : (s.endWait key q status).memOk := by
  unfold State.endWait
  split
  · exact .endEntry h
  · exact h

theorem endWaits {ws status} (h : s.memOk) : (s.endWaits ws status).memOk := .foldl .endWait h

theorem wakeStake {holder i} (h : s.memOk) : (s.wakeStake holder i).memOk := by
  unfold State.wakeStake
  dsimp only
  split
  · exact .endWaits h
  · exact .endWaits h
  · split
    · exact .endWaits (.endWait (.setStake (.endWaits (.upd h))))
    · exact .endWaits (.upd h)

theorem stakeOp {holder i set} (h : s.memOk) : (s.stakeOp holder i set).memOk := by
  unfold State.stakeOp
  dsimp only
  split
  · exact .countAll (.countAll h)
  · exact .wakeStake (.setStake (.countAll h))
  · exact .misuse (.countAll h)
  · exact .misuse (.countAll h)
  · exact .wakeStake (.setStake (.countAll h))

theorem abandonStake {holder i} (h : s.memOk) : (s.abandonStake holder i).memOk :=
  .wakeStake (.setSync (.setStake h))

theorem abandonIn {c p} (h : s.memOk) : (s.abandonIn c p).memOk := .foldl .abandonStake h
theorem abandonAll {p} (h : s.memOk) : (s.abandonAll p).memOk := .foldl (fun h1 => .onSaved h1 .abandonIn) h
theorem stakeOpAny {holder i set} (h : s.memOk) : (s.stakeOpAny holder i set).memOk := .onSaved h .stakeOp

theorem takeStake {holder i} (h : s.memOk) : (s.takeStake holder i).memOk :=
  .onSaved h fun h1 => .wakeStake (.setStake h1)

theorem setRef {c w} (h : s.memOk) : (s.setRef c w).memOk := by
  unfold State.setRef
  split
  · exact .ite (.stakeOpAny h) h
  · exact h

/-! ### Catalogue -/

theorem setCat {k v} (h : s.memOk) : (s.setCat k v).memOk := .upd h
theorem storeCat {first count a} (h : s.memOk) : (s.storeCat first count a).memOk :=
  have hc := catCells_wf (fun i => CatEntry.bytes_length (s.catEntry (first + i))) a count
  h.updMem (Memory.wf_splice · hc.1 hc.2)

theorem applyCat {c} (h : s.memOk) : (s.applyCat c).memOk := by
  unfold State.applyCat
  split
  · exact .foldl .setCat h
  · exact .foldl .setCat h
  · exact .foldl .setCat h

theorem catCommand {c} (h : s.memOk) : (s.catCommand c).memOk := .ite (.upd h) (.applyCat h)
theorem catLose {first count} (h : s.memOk) : (s.catLose first count).memOk := .log (.upd h)
theorem setArea {c a} (h : s.memOk) : (s.setArea c a).memOk := .upd h
theorem checkArea {c} (h : s.memOk) : (s.checkArea c).memOk := .ite (.log (.upd (.setArea h))) h
theorem clearPost {r} (h : s.memOk) : (s.clearPost r).memOk := .store h

theorem applySeeds {rs} (h : s.memOk) : (s.applySeeds rs).memOk :=
  .foldl (fun h1 => .count (.setCat h1)) (.countAll h)

theorem publish {c rev} (h : s.memOk) : (s.publish c rev).memOk := .access (.store (.store h))
theorem pubStake {c} (h : s.memOk) : (s.pubStake c).memOk := .ite (.setRef h) h
theorem readArea {c} (h : s.memOk) : (s.readArea c).memOk := .foldl .lineUnc (.foldl .access h)

theorem watch {entry kind n value} (h : s.memOk) : (s.watch entry kind n value).memOk :=
  .ite (.count h) (.report (.event (.count (.upd h))))

theorem watchEntry {n k posted} (h : s.memOk) : (s.watchEntry n k posted).memOk := by
  unfold State.watchEntry
  extract_lets e up rep z sr cl zhit shit chit s1 s2 s3
  have h1 : s1.memOk := .setCat h
  have h2 : s2.memOk := .ite (.watch h1) h1
  have h3 : s3.memOk := .ite (.watch h2) h2
  exact .ite (.watch h3) h3

theorem catReport {k shedAll clamp} (h : s.memOk) : (s.catReport k shedAll clamp).memOk := .upd h
theorem wrapBegin (h : s.memOk) : s.wrapBegin.memOk := .foldl .checkArea (.foldl .applyCat (.upd h))

theorem postEntry {n k a} (h : s.memOk) : (s.postEntry n k a).memOk :=
  .ite (.count (.setCat h)) (.count (.setCat h))

theorem applyPosts {n posts} (h : s.memOk) : (s.applyPosts n posts).memOk :=
  .foldl .watchEntry (.foldl .postEntry (.countAll h))

theorem skipRun {n votes failed} (h : s.memOk) : (s.skipRun n votes failed).memOk :=
  .ite (.ite (.watch (.count (.upd h))) (.count (.upd h))) (.ite h (.upd h))

theorem wrapPublish {cs recs next} (h : s.memOk) : (s.wrapPublish cs recs next).memOk :=
  .foldl .pubStake (.foldl .clearPost (.foldl .publish h))

theorem wrapProcess {n next failed} (h : s.memOk) : (s.wrapProcess n next failed).memOk := by
  unfold State.wrapProcess
  extract_lets sb cs s0 recs votes s1 s2
  have h1 : s1.memOk := .applySeeds (.foldl .readArea (.wrapBegin h))
  have h2 : s2.memOk := .ite h1 (.applyPosts h1)
  exact .wrapPublish (.skipRun (.upd h2))

theorem seedRequest {c} (h : s.memOk) : (s.seedRequest c).memOk :=
  .ite (.checkArea h) (.pubStake (.foldl .clearPost (.foldl .store (.applySeeds (.readArea (.checkArea h))))))

/-! ### Bearing -/

theorem journalBegin (h : s.memOk) : s.journalBegin.memOk := .ite (.access (.storeCat (.store h))) h
theorem journalLatch {rows} (h : s.memOk) : (s.journalLatch rows).memOk := .ite (.foldl .store (.store h)) h
theorem emitToken {wrap} (h : s.memOk) : (s.emitToken wrap).memOk := .foldl .sendBy (.upd h)

theorem datumWrap {failed} (h : s.memOk) : (s.datumWrap failed).memOk := by
  unfold State.datumWrap
  extract_lets b period next s1
  have h1 : s1.memOk := .upd h
  exact .journalBegin (.wrapProcess (.emitToken h1))

theorem closureEnds {cid failed} (h : s.memOk) : (s.closureEnds cid failed).memOk := .ite (.datumWrap h) h
theorem runStart {t} (h : s.memOk) : (s.runStart t).memOk := .journalBegin (.emitToken (.upd (.timeAt h)))

theorem runStop (h : s.memOk) : s.runStop.memOk :=
  .ite (.upd h) (.upd h)

theorem followWrap {k w t} (h : s.memOk) : (s.followWrap k w t).memOk := by
  unfold State.followWrap
  extract_lets b lost sweep fell due b0 _ b1 late missed s1 s2
  have h1 : s1.memOk := .upd h
  exact .journalBegin (.wrapProcess (.count (.count (.count h1))))

theorem takeLocked {k w t} (h : s.memOk) : (s.takeLocked k w t).memOk :=
  .ite (.upd h) (.ite (.followWrap h) (.count (.upd h)))

theorem adoptToken {k w t} (h : s.memOk) : (s.adoptToken k w t).memOk := by
  unfold State.adoptToken
  extract_lets again b0 b' b under
  refine .ite ?_ (.upd h)
  exact .journalBegin (.count (.upd h))

theorem takeToken {k oneway t} (h : s.memOk) : (s.takeToken k oneway t).memOk := by
  have h1 : (s.at t).memOk := .timeAt h
  exact .ite (.adoptToken h1) (.ite (.ite (.takeLocked (.upd h1)) (.count (.upd h1))) (.takeLocked h1))

theorem forwardToken {k oneway t} (h : s.memOk) : (s.forwardToken k oneway t).memOk :=
  .foldl (fun h1 => .ite (.upd h1) h1) h

/-! ### Closures -/

theorem countArrival {cid} (h : s.memOk) : (s.countArrival cid).memOk := .setClosure h

theorem arriveOne {cid key q addr e again} (h : s.memOk) : (s.arriveOne cid key q addr e again).memOk := by
  unfold State.arriveOne
  extract_lets c u bits s1 s2 c1
  have h1 : s1.memOk := .countArrival (.setCbit (.setCbit h))
  have h2 : s2.memOk := .ite (.ite h (.misuse h)) (.countAll (.setCbit h))
  exact .ite (.ite (.waitHead h1) (.endEntry h1)) (.waitHead (.setClosure h2))

theorem countTracts {units e} (h : s.memOk) : (s.countTracts units e).memOk := .foldl .countAll h

theorem countIn {cid qk} (h : s.memOk) : (s.countIn cid qk).memOk := by
  unfold State.countIn
  dsimp only
  split
  · exact .arriveOne h
  · exact h

theorem roundDone {cid} (h : s.memOk) : (s.roundDone cid).memOk := by
  refine .onSaved h fun h => ?_
  extract_lets c s1 s2 s3 s4
  have h1 : s1.memOk := .setClosure h
  have h2 : s2.memOk := .foldl (fun h => .setCbit (.setCbit h)) h1
  have h3 : s3.memOk := .foldl .endWait h2
  have h4 : s4.memOk := .foldl .slip h3
  exact .foldl .countIn (.countTracts h4)

theorem closureCheck {s : State} {n cid} (h : s.memOk) : (State.closureCheck n s cid).memOk := by
  unfold State.closureCheck
  refine .ite (.ite ?_ (.slip h)) h
  cases n with
  | zero => exact h
  | succ n => exact closureCheck (.closureEnds (.roundDone h))

theorem carr {cid key q addr e} (h : s.memOk) : (s.carr cid key q addr e).memOk := by
  unfold State.carr
  dsimp only
  split
  · exact .endEntry h
  · exact .endEntry h
  · exact .ite (.endEntry h) (.ite (.closureCheck (.arriveOne h)) (.arriveOne h))

theorem closureFail {cid status sender} (h : s.memOk) : (s.closureFail cid status sender).memOk :=
  .ite h (.closureEnds (.countTracts (.onSaved (.foldl .slip (.setClosure h)) fun h1 => .foldl .endWait h1)))

theorem closuresFail {p status} (h : s.memOk) : (s.closuresFail p status).memOk := .foldl .closureFail h

/-! ### Cmd -/

theorem receipt {r} (h : s.memOk) : (s.receipt r).memOk := .ite (.upd h) (.putReceipt h)

theorem finish {r status result} (h : s.memOk) : (s.finish r status result).memOk := by
  unfold State.finish
  extract_lets halted cut st late g cmd s1 s2 s3
  have h1 : s1.memOk := .upd h
  have h2 : s2.memOk := .ite h1 (.setRcp h1)
  have h3 : s3.memOk := .ite (.count h2) (.ite (.count h2) h2)
  exact .ite h3 (.receipt h3)

theorem hostOut {r a bs} (h : s.memOk) : (s.hostOut r a bs).memOk := .ite h (.hostStore h)
theorem begin {r} (h : s.memOk) : (s.begin r).memOk := .upd h

theorem command {h' op ps body} (h : s.memOk) (hbody : ∀ {s r}, s.memOk → (body s r).memOk) :
    (s.command h' op ps body).memOk := by
  unfold State.command
  split
  · exact .ite h (.ite (.finish h) (hbody h))
  · exact h

theorem putStarted {r r'} (h : s.memOk) : (s.putStarted r r').memOk := .upd h
theorem finishAll {p status result} (h : s.memOk) : (s.finishAll p status result).memOk := .foldl .finish h
theorem dropStract {handle} (h : s.memOk) : (s.dropStract handle).memOk := .upd h

/-! ### Contexts -/

theorem copyIn {c} (h : s.memOk) : (s.copyIn c).memOk := .foldl .copyLost h
theorem copyOut {c} (h : s.memOk) : (s.copyOut c).memOk := .foldl .copyLost h
theorem setBindery {h' v} (h : s.memOk) : (s.setBindery h' v).memOk := .upd h
theorem bindsIn {c} (h : s.memOk) : (s.bindsIn c).memOk := .foldl .setBindery h
theorem bindsOut {c} (h : s.memOk) : (s.bindsOut c).memOk := .foldl (fun h1 => .ite (.store h1) h1) h
theorem bndRestart {c} (h : s.memOk) : (s.bndRestart c).memOk := .foldl (fun h1 => .ite (.setBindery h1) h1) h
theorem preempt {c} (h : s.memOk) : (s.preempt c).memOk := .ite (.setCtx h) h
theorem endPreempts {c} (h : s.memOk) : (s.endPreempts c).memOk := .finishAll h
theorem countSwitch {c} (h : s.memOk) : (s.countSwitch c).memOk := .countAll h

theorem dropStarts {status} (h : s.memOk) : (s.dropStarts status).memOk :=
  .foldl (fun h1 => by
    split
    · exact .ite (.finish h1) h1
    · exact .ite (.count h1) h1) (.upd h)

theorem endedCheck {c bndEnded} (h : s.memOk) : (s.endedCheck c bndEnded).memOk := .ite (.event (.setCtx h)) h

/-! ### FpCore -/

theorem setFp {n u} (h : s.memOk) : (s.setFp n u).memOk := .upd h
theorem mapFp {f} (h : s.memOk) : (s.mapFp f).memOk := .upd h
theorem captureWrite {a len} (h : s.memOk) : (s.captureWrite a len).memOk := .ite (.mapFp h) h
theorem write {a bs} (h : s.memOk) : (s.write a bs).memOk := .captureWrite (.store h)
theorem captureLines {src h' rs} (h : s.memOk) : (s.captureLines src h' rs).memOk := .ite h (.mapFp h)

theorem capturePort {src port handle tidx payload} (h : s.memOk) :
    (s.capturePort src port handle tidx payload).memOk :=
  .mapFp h

/-! ### ColCore -/

theorem setCol {h' c} (h : s.memOk) : (s.setCol h' c).memOk := .upd h

theorem updRun {h' f} (h : s.memOk) : (s.updRun h' f).memOk := by
  unfold State.updRun
  split
  · exact .setCol h
  · exact h

theorem colClose {h' c status waitns} (h : s.memOk) : (s.colClose h' c status waitns).memOk :=
  .setCol (.ite (.store (.access h)) h)

theorem dropTiles {h'} (h : s.memOk) : (s.dropTiles h').memOk := .upd h

theorem stagingEnd {key status} (h : s.memOk) : (s.stagingEnd key status).memOk :=
  .onUnits h fun h1 => by
    split
    · exact .endWait (.setMat h1)
    · exact h1

theorem colFail {h' status failsn} (h : s.memOk) : (s.colFail h' status failsn).memOk := by
  unfold State.colFail
  split
  · exact h
  · exact .ite (.foldl .noticeFrom (.foldl .stagingEnd (.dropTiles (.colClose h)))) h

theorem colFailOwn {h' status} (h : s.memOk) : (s.colFailOwn h' status).memOk := .colFail h

theorem colStop {h' a status} (h : s.memOk) : (s.colStop h' a status).memOk :=
  .colFailOwn (.ite (.lineUnc h) (.ite (.count h) h))

theorem colGuard {h' c reads writes k} (h : s.memOk) (hk : ∀ {s}, s.memOk → (k s).memOk) :
    (s.colGuard h' c reads writes k).memOk := by
  unfold State.colGuard
  dsimp only
  split
  · exact .colStop h
  · split
    · exact .colStop h
    · exact hk (.foldl .access (.foldl .access h))

theorem colPlanned {h' c k} (h : s.memOk) (hk : ∀ {s}, s.memOk → (k s).memOk) :
    (s.colPlanned h' c k).memOk :=
  .ite (hk (.ite h (.foldl .access h))) (.colStop h)

theorem colsFail {p status} (h : s.memOk) : (s.colsFail p status).memOk := .foldl .colFailOwn h
theorem colAbandonCheck (h : s.memOk) : s.colAbandonCheck.memOk := .foldl .colFailOwn h

theorem colSend {h' c dst head payload} (h : s.memOk) : (s.colSend h' c dst head payload).memOk :=
  .updRun (.sendOn h)

theorem sendTile {h' c dst role tidx mcnt vals codes} (h : s.memOk) :
    (s.sendTile h' c dst role tidx mcnt vals codes).memOk :=
  .colSend h

theorem sendSlip {h' c dst dir bs} (h : s.memOk) : (s.sendSlip h' c dst dir bs).memOk := by
  unfold State.sendSlip
  exact .updRun (.slip h)

theorem slipResult {h' bs} (h : s.memOk) : (s.slipResult h' bs).memOk := by
  unfold State.slipResult
  split
  · exact h
  · next c _ =>
    extract_lets down mark put dp
    have hdown : ∀ {s}, s.memOk → (down s).memOk := fun h1 => .foldl .sendSlip h1
    have hput : ∀ {a v}, (put a v).memOk := .colGuard h fun h1 => .updRun (hdown (.write h1))
    exact .ite hput (.ite (.ite (.colFailOwn (hdown h)) hput) hput)

theorem slipCheck {h'} (h : s.memOk) : (s.slipCheck h').memOk := by
  unfold State.slipCheck
  split
  · exact h
  · exact .ite (.ite (.slipResult (.updRun h)) (.sendSlip (.updRun h))) h

theorem slipAdd {h' child bs} (h : s.memOk) : (s.slipAdd h' child bs).memOk := by
  unfold State.slipAdd
  split
  · exact h
  · exact .slipCheck (.updRun h)

theorem voteCheck {h'} (h : s.memOk) : (s.voteCheck h').memOk := by
  unfold State.voteCheck
  split
  · exact h
  · exact .ite (.colGuard h .slipAdd) h

theorem tadd {h' tidx mcnt vals codes} (h : s.memOk) : (s.tadd h' tidx mcnt vals codes).memOk := by
  unfold State.tadd
  split
  · exact h
  · refine .colGuard h fun h => ?_
    extract_lets sum n sl s1 s2 s3
    have h2 : s2.memOk := .updRun (.count (.count (h.updMem Col.putTile_wf)))
    exact .voteCheck (.ite (.foldl .sendTile h2) h2)

theorem flush {h' p} (h : s.memOk) : (s.flush h' p).memOk := by
  unfold State.flush
  split
  · exact h
  · exact .ite (.tadd (.updRun h)) (.sendTile (.updRun h))

theorem placeTile {h' c tidx mcnt vals codes} (h : s.memOk) :
    (s.placeTile h' c tidx mcnt vals codes).memOk := by
  unfold State.placeTile
  dsimp only
  split
  · exact .updRun h
  · refine .updRun (.ite h ?_)
    split
    · exact .updRun (.flush h)
    · exact h

theorem mergeTile {h' c tidx mcnt vals codes} (h : s.memOk) :
    (s.mergeTile h' c tidx mcnt vals codes).memOk := by
  unfold State.mergeTile
  dsimp only
  split
  · exact .ite (.tadd h) (.sendTile h)
  · split
    · exact .ite (.colFailOwn (.placeTile h)) (.ite (.flush (.placeTile h)) (.placeTile h))
    · exact .placeTile h

theorem flushAll {h'} (h : s.memOk) : (s.flushAll h').memOk := by
  unfold State.flushAll
  split
  · exact h
  · exact .ite (.foldl .flush h) h

theorem acceptTile {h' tidx mcnt ds wc zm len vals codes again} (h : s.memOk) :
    (s.acceptTile h' tidx mcnt ds wc zm len vals codes again).memOk := by
  unfold State.acceptTile
  split
  · exact h
  · split
    · exact .colFailOwn h
    · exact .ite (.colFailOwn h) (.flushAll (.mergeTile (.setCol h)))

theorem colComplete {h' c waitns} (h : s.memOk) : (s.colComplete h' c waitns).memOk :=
  .ite (.colStop h) (.setRef (.colClose h))

/-! ### BndCore -/

theorem setStack {h' v} (h : s.memOk) : (s.setStack h' v).memOk := .upd h
theorem bndUnregister {h' qi} (h : s.memOk) : (s.bndUnregister h' qi).memOk := .upd (.setBindery h)

theorem bndAdvance {h' r} (h : s.memOk) : (s.bndAdvance h' r).memOk := by
  unfold State.bndAdvance
  dsimp only
  split
  · exact .finishAll (.setBindery h)
  · exact .ite (.setBindery h) (.event (.setBindery h))

theorem bndClose {h' r} (h : s.memOk) : (s.bndClose h' r).memOk := by
  unfold State.bndClose
  extract_lets s0 s1 s2
  have h0 : s0.memOk := .captureLines h
  have h2 : s2.memOk := .count (.ite (.store h0) h0)
  exact .ite (.setRef h2) h2

theorem bndEnd {h' r} (h : s.memOk) : (s.bndEnd h' r).memOk := .bndAdvance (.bndClose h)

/-! ### BndOps -/

theorem bndMove {h' r n} (h : s.memOk) : (s.bndMove h' r n).1.memOk :=
  .count (.count (.countShed (.invalidateAs (updMem (.countAll (.captureLines h)) fun _ => bndOut_wf h.1))))

theorem bndHalt {h'} (h : s.memOk) : (s.bndHalt h').memOk := by
  unfold State.bndHalt
  split
  · exact .ite (.ite (.useFree h) (.setBindery (.bndMove (.useFree h)))) h
  · exact h

theorem bndAbort {h' status} (h : s.memOk) : (s.bndAbort h' status).memOk := by
  unfold State.bndAbort
  dsimp only
  split
  · exact .bndEnd (.bndHalt h)
  · exact .bndHalt h

theorem bndAside {h' p} (h : s.memOk) : (s.bndAside h' p).memOk := by
  unfold State.bndAside
  split
  · dsimp only
    split
    · exact .setBindery (.bndHalt h)
    · exact .bndHalt h
  · exact h

theorem bndPark {c} (h : s.memOk) : (s.bndPark c).memOk :=
  .foldl (fun h1 => .setBindery (.bndAside h1)) (.upd h)

theorem bndStopAll (h : s.memOk) : s.bndStopAll.memOk := .foldl .bndAside (.foldl .bndPark h)

/-! ### LinkCore -/

theorem freeSlots {p vl n} (h : s.memOk) : (s.freeSlots p vl n).memOk := .setPort h
theorem take {k} (h : s.memOk) : (s.take k).memOk := .ite (.freeSlots (.upd h)) (.ite (.upd h) (.upd h))
theorem malformedAt {p} (h : s.memOk) : (s.malformedAt p).memOk := .count h
theorem malformed {k} (h : s.memOk) : (s.malformed k).memOk := .malformedAt h
theorem reject {k} (h : s.memOk) : (s.reject k).memOk := .noticeOf (.malformed h)
theorem retrainFast {p} (h : s.memOk) : (s.retrainFast p).memOk := .count (.setPort h)
theorem detect {p} (h : s.memOk) : (s.detect p).memOk := .ite (.ite (.retrainFast h) (.setPort h)) h

theorem dropBuffers {p status waiting} (h : s.memOk) : (s.dropBuffers p status waiting).memOk :=
  .foldl .noticeOf (.setPort (.ite (.upd h) (.upd h)))

theorem subportDown {p} (h : s.memOk) : (s.subportDown p).memOk := .setPort (.dropBuffers (.setPort h))

theorem trainFull {p retry fails} (h : s.memOk) : (s.trainFull p retry fails).memOk := by
  unfold State.trainFull
  extract_lets _ s0 s1
  have h1 : s1.memOk := .dropBuffers (.setPort h)
  exact .detect (.setPort h1)

theorem subportQuiesce {p} (h : s.memOk) : (s.subportQuiesce p).memOk := by
  unfold State.subportQuiesce
  split
  · exact .setPort h
  · exact h
  · exact .setPort h
  · exact .setPort h
  · exact .subportDown h

theorem subportFail {p reason} (h : s.memOk) : (s.subportFail p reason).memOk :=
  .log (.setPort (.dropBuffers (.setPort h)))

theorem trainingFails {p reason} (h : s.memOk) : (s.trainingFails p reason).memOk :=
  .ite (.trainFull h) (.ite (.ite (.trainFull h) (.subportFail h)) (.subportFail h))

theorem trainIfEnabled {p} (h : s.memOk) : (s.trainIfEnabled p).memOk := .ite (.trainFull h) h

theorem portReset {n quiet} (h : s.memOk) : (s.portReset n quiet).memOk :=
  .foldl (fun h1 => .trainIfEnabled (.setPort (.ite h1 (.subportDown h1)))) h

/-! ### Recover -/

theorem stopContexts (h : s.memOk) : s.stopContexts.memOk :=
  .foldl (fun h1 => .ite (.setCtx h1) (.preempt h1)) (.dropStarts h)

theorem releaseSlots (h : s.memOk) : s.releaseSlots.memOk := .upd h

theorem drainDevice (h : s.memOk) : s.drainDevice.memOk :=
  .ite h (.releaseSlots (.bndStopAll (.closuresFail (.colsFail (.stopContexts (.log (.upd h)))))))

theorem flagDevice (h : s.memOk) : s.flagDevice.memOk :=
  .ite (.drainDevice h) (.drainDevice (.log (.upd h)))

theorem spareSwap {p} (h : s.memOk) : (s.spareSwap p).1.memOk := by
  unfold State.spareSwap
  split
  · exact .flagDevice h
  · exact .log (.count (.upd h))

theorem fbUnc {p addr req} (h : s.memOk) : (s.fbUnc p addr req).memOk := .spareSwap (.log (.count h))

theorem uncRead {addr req} (h : s.memOk) : (s.uncRead addr req).memOk := by
  unfold State.uncRead
  split
  · exact .fbUnc h
  · exact .lineUnc h

theorem loseLine {line} (h : s.memOk) : (s.loseLine line).memOk := by
  unfold State.loseLine
  extract_lets n s1 lost
  have h1 : s1.memOk := .count (.lose (.invalidate h))
  exact .ite h1 (.ite (.flagDevice (.log h1)) (.upd h1))

theorem quiesceBegin {r} (h : s.memOk) : (s.quiesceBegin r).memOk := by
  unfold State.quiesceBegin
  dsimp only
  split
  · exact .foldl .subportQuiesce (.log (.setSvc h))
  · exact .setStack (.bndAbort (.log (.setSvc h)))
  · exact .log (.setSvc h)

theorem endX {key status} (h : s.memOk) : (s.endX key status).memOk := by
  unfold State.endX
  split
  · exact .endEntry (.setEng h)
  · exact h

theorem dropRequests {r late} (h : s.memOk) : (s.dropRequests r late).memOk := .foldl .endX (.upd h)

theorem quiesceEnd {r} (h : s.memOk) : (s.quiesceEnd r).memOk := by
  refine .count (.setSvc ?_)
  split
  · exact .writeBack h
  · exact h

theorem reportReset {u key old} (h : s.memOk) : (s.reportReset u key old).memOk :=
  .foldl (fun h1 => .ite h1 (.ite (.ite (.failQueue h1) h1) (.event h1))) h

theorem sendEpochs {u mask named} (h : s.memOk) : (s.sendEpochs u mask named).memOk := .foldl .sendOn h
theorem orphanRequests {p} (h : s.memOk) : (s.orphanRequests p).memOk := .upd h

theorem resetEngines {u} (h : s.memOk) : (s.resetEngines u).memOk :=
  .foldl .reportReset (.orphanRequests (.upd h))

theorem abandonOwned {u} (h : s.memOk) : (s.abandonOwned u).memOk := .abandonAll h
theorem resave {u} (h : s.memOk) : (s.resave u).memOk := .foldl .putSync h

theorem resetUnit {u} (h : s.memOk) : (s.resetUnit u).memOk := by
  unfold State.resetUnit
  extract_lets mask used s1 s2 s3 s4
  have h1 : s1.memOk := .abandonOwned (.resetEngines h)
  have h3 : s3.memOk := .colAbandonCheck (.closuresFail (.foldl .colFailOwn h1))
  exact .sendEpochs (.resave (h3.updMem (foldl_wf fun g => Memory.wf_clear g ..)))

theorem giveUp {r} (h : s.memOk) : (s.giveUp r).memOk := by
  unfold State.giveUp
  split
  · exact h
  · split
    · exact .foldl (fun h1 => .ite (.setShelf h1) h1) h
    · exact .foldl (fun h1 => .ite h1 (.setBindery (.ite (.bndUnregister h1) h1))) h
    · exact .upd (.dropStract h)
    · exact .upd h
    · exact .upd h
    · exact .upd h
    · exact .upd h
    · exact .upd h

theorem abortCommands (h : s.memOk) : s.abortCommands.memOk := .foldl (fun h1 => .finish (.giveUp h1)) h

theorem fatal {wdog} (h : s.memOk) : (s.fatal wdog).memOk :=
  .ite (.upd h) (.ite (.upd (.upd h)) (.upd (.upd h)))

theorem stackFails {h'} (h : s.memOk) : (s.stackFails h').memOk := .flagDevice (.log (.setStack h))

theorem retrainStack {h'} (h : s.memOk) : (s.retrainStack h').memOk :=
  .ite (.stackFails (.setStack (.useFree h))) (.setStack (.useFree h))

theorem mgmtReset (h : s.memOk) : s.mgmtReset.memOk := .fatal (.upd h)

theorem unitReset {r} (h : s.memOk) : (s.unitReset r).memOk := by
  unfold State.unitReset
  extract_lets s0 s1 s2
  have h1 : s1.memOk := .log (.count (.bumpEpoch (.ite (.abortCommands h) h)))
  refine .setSvc ?_
  unfold s2
  split
  · exact .resetUnit h1
  · exact .portReset h1
  · exact .colsFail (.invalidate (.dropRequests h1))
  · exact .retrainStack (.colsFail (.dropRequests (.bndAbort h1)))
  · exact .mgmtReset h1

theorem portResume {n} (h : s.memOk) : (s.portResume n).memOk :=
  .foldl (fun h => by
    extract_lets s1
    have h1 : s1.memOk := .ite (.subportDown h) h
    exact .ite (.trainIfEnabled h1) h1) h

theorem unitResume {r} (h : s.memOk) : (s.unitResume r).memOk := by
  unfold State.unitResume
  split
  · exact h
  · exact h
  · dsimp only
    split
    · exact .setStack (.setSvc h)
    · exact .portResume (.setSvc h)
    · exact .setSvc h

/-! ### Fp -/

theorem surveyed {pairs disagree suspect} (h : s.memOk) : (s.surveyed pairs disagree suspect).memOk :=
  .ite (.flagDevice (.log h)) (.log h)

theorem replaySurvey (h : s.memOk) : s.replaySurvey.memOk :=
  .ite (.surveyed (.useFree h)) (.surveyed (.useFree h))

theorem replayCheck (h : s.memOk) : s.replayCheck.memOk := by
  unfold State.replayCheck
  split
  · extract_lets rows wrong compared ok res src s1 s2
    have h2 : s2.memOk := .finishAll (.log (.upd h))
    exact .ite (.ite h2 (.replaySurvey h2)) h
  · exact h

theorem flushOne {n} (h : s.memOk) : (s.flushOne n).memOk :=
  .ite (.count h) (.ite (.setFp h) (.journalLatch (.setFp h)))

theorem fpFlushRange {first count} (h : s.memOk) : (s.fpFlushRange first count).memOk := by
  unfold State.fpFlushRange
  dsimp only
  split
  · exact .replayCheck (.upd (.foldl .flushOne h))
  · exact .foldl .flushOne h

/-! ### Issue -/

theorem restart {c u q} (h : s.memOk) : (s.restart c u q).memOk := .ite h (.setQueue h)

theorem passOn {c p q a e run} (h : s.memOk) (hrun : ∀ {s c p addr e}, s.memOk → (run s c p addr e).memOk) :
    (s.passOn c p q a e run).memOk :=
  .ite (.setQueue (.restart h)) (hrun (.restart h))

theorem passAll {c u q a e run} (h : s.memOk)
    (hrun : ∀ {s c p addr e}, s.memOk → (run s c p addr e).memOk) : (s.passAll c u q a e run).memOk :=
  .foldl (fun h1 => .passOn h1 hrun) (.foldl .restart h)

theorem feed {s : State} {c p q run n} (h : s.memOk)
    (hrun : ∀ {s c p addr e}, s.memOk → (run s c p addr e).memOk) : (s.feed c p q run n).memOk := by
  induction n generalizing s with
  | zero => exact h
  | succ n ih =>
    unfold State.feed
    dsimp only
    split
    · exact ih (hrun (.setQueue h))
    · exact h

theorem issue {u q op e run} (h : s.memOk)
    (hrun : ∀ {s c p addr e}, s.memOk → (run s c p addr e).memOk) : (s.issue u q op e run).memOk := by
  unfold State.issue
  split
  · exact h
  · exact .ite h (.ite (hrun (.advance h)) (.passAll (.count (.advance h)) hrun))

theorem leaveHead {c p q} (h : s.memOk) : (s.leaveHead c p q).memOk := .setQueue h
theorem endRun {c u q addr status} (h : s.memOk) : (s.endRun c u q addr status).memOk := .ite h (.failQueue h)
theorem putNibs {ws} (h : s.memOk) : (s.putNibs ws).memOk := h.updMem (foldl_wf putNib_wf)

/-! ### Matrix -/

theorem mWithdraw {c p addr status} (h : s.memOk) : (s.mWithdraw c p addr status).memOk :=
  .failQueue (.setMat h)

theorem datumReads {d} (h : s.memOk) : (s.datumReads d).memOk := by
  unfold State.datumReads
  extract_lets one entry
  have hentry : ∀ {s on k}, s.memOk → (entry s on k).memOk := fun h => .ite (.access h) h
  refine .ite h ?_
  split
  · exact hentry (hentry h)
  · exact .access h
  · exact h

theorem mfinReport {d t} (h : s.memOk) : (s.mfinReport d t).memOk := .ite (.catReport h) h

theorem mfinGo {c p e} (h : s.memOk) : (s.mfinGo c p e).memOk :=
  .mfinReport (.count (.countShed (.setMat (.ite (.updRun h) h))))

end State.memOk

/-- An M entry that ends leaves canonical memories. -/
def MRes.memOk : MRes → Prop
  | .wait => True
  | .done _ t => t.memOk

namespace MRes.memOk

variable {s : State}

theorem wait : MRes.wait.memOk := trivial
theorem ends {st : Nat} (h : s.memOk) : (MRes.end s st).memOk := h

theorem ite {c : Prop} [Decidable c] {r q : MRes} (h : r.memOk) (g : q.memOk) :
    (if c then r else q).memOk := by
  split <;> assumption

theorem mdecl {c p e} (h : s.memOk) : (s.mdecl c p e).memOk := by
  refine .ite (.ends h) (.ite (.ends h) (.ite (.ends h) ?_))
  refine .ite (.ends (.fbUnc h)) (.ite (.ends h) (.ite (.ends h) ?_))
  split
  · exact .wait
  · exact .ends (.ite (.lineUnc h) h)
  · exact .ends (.setMat (.datumReads h))

theorem mopen {c p e} (h : s.memOk) : (s.mopen c p e).memOk := by
  refine .ite (.ends h) ?_
  split
  · exact .ends h
  · exact .ite (.ends h) (.ite .wait (.ite (.ends h) (.ite .wait (.ends (.setMat h)))))

theorem macc {c p addr e} (h : s.memOk) : (s.macc c p addr e).memOk := by
  refine .ite .wait ?_
  split
  · exact .ends h
  · exact .ends (.setMat h)

theorem mfin {c p e} (h : s.memOk) : (s.mfin c p e).memOk := by
  refine .ite .wait (.ite .wait ?_)
  split
  · exact .ends h
  · split
    · exact .ends (.fbUnc h)
    · exact .ite (.ends h) (.ite .wait (.ends (.mfinGo h)))

theorem msum {c p e} (h : s.memOk) : (s.msum c p e).memOk :=
  .ite (.ends h) (.ite (.ends h) (.ite (.ends h) (.ite (.ends (.fbUnc h)) (.ends (.store h)))))

theorem msave {c p e} (h : s.memOk) : (s.msave c p e).memOk := by
  unfold State.msave
  extract_lets m one g a
  generalize granOk a 8448 = ok
  exact .ite (.ends h) (.ite (.ends h) (.ite .wait (.ite (.ends h) (.ends (.setMat (.store h))))))

theorem mload {c p e} (h : s.memOk) : (s.mload c p e).memOk := by
  unfold State.mload
  extract_lets m one g a
  generalize granOk g 8448 = ok
  refine .ite (.ends h) (.ite (.ends h) (.ite (.ends h) (.ite (.ends (.fbUnc h)) ?_)))
  split
  · exact .ends h
  · exact .ends (.setMat h)

theorem mExec {c p addr e} (h : s.memOk) : (s.mExec c p addr e).memOk := by
  unfold State.mExec
  split
  · exact .mdecl h
  · exact .mopen h
  · exact .macc h
  · exact .mfin h
  · exact .msum h
  · exact .msave h
  · exact .mload h
  · exact .ends h

end MRes.memOk

namespace State.memOk

variable {s t : State}

theorem mSettle {c p addr e r} (h : s.memOk) (hr : r.memOk) : (s.mSettle c p addr e r).memOk := by
  unfold State.mSettle
  split
  · exact .waitHead h
  · exact .endEntry hr

theorem mRun {c p a e} (h : s.memOk) : (s.mRun c p a e).memOk := .mSettle h (.mExec h)
theorem mFeed {c p} (h : s.memOk) : (s.mFeed c p).memOk := .feed h .mRun

theorem mRetry {c p} (h : s.memOk) : (s.mRetry c p).memOk := by
  unfold State.mRetry
  split
  · exact .ite h (.mFeed (.mRun h))
  · exact h

theorem mIssue {u op e} (h : s.memOk) : (s.mIssue u op e).memOk := .issue h .mRun

theorem maccStep {c p r} (h : s.memOk) : (s.maccStep c p r).memOk := by
  unfold State.maccStep
  dsimp only
  split
  · exact .mWithdraw (.setMat (.fbUnc h))
  · exact .ite (.mRetry (.count (.countShed (.setMat h)))) (.count (.countShed (.setMat h)))

theorem drainEnd {c p seg} (h : s.memOk) : (s.drainEnd c p seg).memOk := by
  unfold State.drainEnd
  dsimp only
  split
  · exact h
  · exact .mRetry (.setMat (.putNibs h))

/-! ### Vector -/

theorem vset {c p e} (h : s.memOk) : (s.vset c p e).1.memOk :=
  .iteFst h (.iteFst h (.iteFst (.fbUnc h) (.iteFst h (.setVec h))))

theorem vExec {c p addr e} (h : s.memOk) : (s.vExec c p addr e).memOk := by
  unfold State.vExec
  dsimp only
  split
  · exact .waitHead h
  · split
    · exact .endEntry h
    · split
      · exact .endEntry (.vset h)
      · split
        · exact .endEntry h
        · exact .setVec (.leaveHead h)

theorem vRetry {c p} (h : s.memOk) : (s.vRetry c p).memOk := by
  unfold State.vRetry
  split
  · exact .ite h (.feed (.vExec h) .vExec)
  · exact h

theorem vIssue {u op e} (h : s.memOk) : (s.vIssue u op e).memOk := .issue h .vExec
theorem vEnd {c p status r} (h : s.memOk) : (s.vEnd c p status r).memOk := .vRetry (.endRun (.setVec h))
theorem vLand {p d e o is} (h : s.memOk) : (s.vLand p d e o is).memOk := .count (.countShed (.putNibs h))

theorem vGroup {c p r} (h : s.memOk) : (s.vGroup c p r).memOk := by
  unfold State.vGroup
  dsimp only
  split
  · exact .vEnd (.fbUnc (.setVec (.ite h (.vLand h))))
  · exact .ite (.vEnd (.setVec (.vLand h))) (.setVec (.vLand h))

/-! ### SyncCmds -/

theorem syncIssue {u q op e run} (h : s.memOk) (hrun : ∀ {s c a}, s.memOk → (run s c a).memOk) :
    (s.syncIssue u q op e run).memOk := by
  unfold State.syncIssue
  split
  · exact h
  · exact .ite h (.ite (.endEntry (.advance h)) (hrun (.advance h)))

theorem orphan {holder i} (h : s.memOk) : (s.orphan holder i).memOk := .ite h (.misuse h)

theorem stakeWait {c u q a e want} (h : s.memOk) : (s.stakeWait c u q a e want).memOk := by
  have h1 : (s.endEntry c u q a 0).memOk := .endEntry h
  unfold State.stakeWait
  dsimp only
  split
  · exact .ite (.endEntry h) (.ite (.ite (.wakeStake (.setStake h1)) h1) (.waitHead (.orphan h)))
  · exact .endEntry h
  · exact .endEntry h

theorem stakeExpiry {c u q} (h : s.memOk) : (s.stakeExpiry c u q).memOk := by
  unfold State.stakeExpiry
  split
  · exact .ite (.ite (.wakeStake (.setStake (.endEntry h))) (.endEntry h)) (.endEntry (.count h))
  · exact h

theorem stakeSend {c u q a e set} (h : s.memOk) : (s.stakeSend c u q a e set).memOk := by
  unfold State.stakeSend
  split
  · exact .ite (.endEntry h) (.stakeOp (.endEntry h))
  · exact .ite (.waitHead (.upd (.slip h))) (.endEntry (.upd (.slip h)))
  · exact .endEntry h

theorem fence {c u q a e go} (h : s.memOk) (hgo : ∀ {s}, s.memOk → (go s).memOk) :
    (s.fence c u q a e go).memOk :=
  .ite (hgo h) (.waitHead h)

theorem refuse {c u q} (h : s.memOk) : (s.refuse c u q).memOk := .endEntry (.advance h)

theorem stakeEntry {u q op e set} (h : s.memOk) : (s.stakeEntry u q op e set).memOk := by
  unfold State.stakeEntry
  split
  · exact .refuse h
  · exact .syncIssue h fun h1 => .fence h1 .stakeSend

theorem fenceDone {c u q} (h : s.memOk) : (s.fenceDone c u q).memOk := by
  unfold State.fenceDone
  split
  · exact .ite h (.ite (.endEntry h) (.stakeSend h))
  · exact h

theorem cwait {c u q a e} (h : s.memOk) : (s.cwait c u q a e).memOk := by
  unfold State.cwait
  dsimp only
  split
  · exact .endEntry h
  · exact .endEntry h
  · exact .ite (.endEntry h) (.ite (.waitHead h) (.endEntry h))

theorem queueOp {c u q f} (h : s.memOk) : (s.queueOp c u q f).memOk := .setQueue h

theorem fetchFault {c u q status} (h : s.memOk) : (s.fetchFault c u q status).memOk :=
  .ite (.queueOp (.failQueue (.ite (.setQueue h) h))) (.failQueue (.ite (.setQueue h) h))

/-! ### XCore -/

theorem moveGranules {p e done n} (h : s.memOk) : (s.moveGranules p e done n).1.memOk :=
  .count (.ite h (.ite (.store h) (.write h)))

/-- An element that an atomic operation can read and write. -/
theorem atomOne {p e k} (h : s.memOk) (e' : s.atomOne p e k = .inl t) : t.memOk := by
  dsimp only [State.atomOne] at e'
  split at e'
  · exact nomatch e'
  · split at e'
    · exact nomatch e'
    · rw [← Sum.inl.inj e']
      exact .count (.count (.ite (.store (.store h)) (.store h)))

theorem atoms {s : State} {p e n done} (h : s.memOk) : (s.atoms p e n done).1.memOk := by
  induction n generalizing s done with
  | zero => exact h
  | succ n ih =>
    unfold State.atoms
    split
    · exact h
    next s1 e1 => exact ih (.atomOne h e1)

theorem xMove {p e done n} (h : s.memOk) : (s.xMove p e done n).1.memOk := .iteFst (.atoms h) (.moveGranules h)
theorem setX {key r} (h : s.memOk) : (s.setX key r).memOk := .setEng h
theorem xEnd {key addr status} (h : s.memOk) : (s.xEnd key addr status).memOk := .endRun (.setX h)

theorem ask {key r} (h : s.memOk) : (s.ask key r).memOk :=
  .ite (.xEnd (.ite (.count h) h)) (.ite (.setSlice h) (.setX (.setSlice h)))

theorem xLocal {key r} (h : s.memOk) : (s.xLocal key r).memOk := by
  unfold State.xLocal
  dsimp only
  split
  · exact .xEnd h
  · split
    · exact .xEnd (.uncRead (.xMove h))
    · exact .xEnd (.xMove h)

theorem xExec {c p addr e} (h : s.memOk) : (s.xExec c p addr e).memOk := by
  unfold State.xExec
  dsimp only
  split
  · exact .waitHead h
  · split
    · exact .endEntry h
    · exact .ite (.xLocal (.setX (.leaveHead h))) (.ask (.setX (.leaveHead h)))

theorem xRetry {c p} (h : s.memOk) : (s.xRetry c p).memOk := by
  unfold State.xRetry
  split
  · exact .ite h (.feed (.xExec h) .xExec)
  · exact h

theorem xFinish {key addr status} (h : s.memOk) : (s.xFinish key addr status).memOk := .xRetry (.xEnd h)
theorem xIssue {u op e} (h : s.memOk) : (s.xIssue u op e).memOk := .issue h .xExec
theorem runServed {q r} (h : s.memOk) : (s.runServed q r).1.memOk := .ite (.count h) h

theorem requestDone {n q} (h : s.memOk) : (s.requestDone n q).memOk := by
  unfold State.requestDone
  extract_lets v s1
  have h1 : s1.memOk := .setSlice h
  split
  · exact .count h1
  · extract_lets v s3
    have hv : v.1.memOk := .runServed h1
    have h3 : s3.memOk := .setX hv
    exact .ite (.xFinish h1) (.ite (.xFinish hv) (.ite (.ask h3) h3))

theorem xServed {c} (h : s.memOk) : (s.xServed c).memOk := .foldl .requestDone h
theorem xPark {c} (h : s.memOk) : (s.xPark c).memOk := .upd (.xServed h)

theorem loseShelfLine {line} (h : s.memOk) : (s.loseShelfLine line).memOk :=
  .ite h (.ite (.catLose (.upd (.count (.lose h)))) (.count (.lose h)))

theorem readVerdict {a r} (h : s.memOk) : (s.readVerdict a r).memOk := by
  unfold State.readVerdict
  dsimp only
  split
  · exact h
  · exact .ite (.count h) (.count h)
  · split
    · exact .loseShelfLine h
    · split
      · exact .ite (.loseLine h) (.ite (.invalidate (.countAll h)) (.countAll h))
      · exact .lose h

/-! ### Archive -/

theorem askWaiting {n} (h : s.memOk) : (s.askWaiting n).memOk :=
  .foldl (fun h1 => by
    split
    · exact .ite (.ask h1) h1
    · exact h1) (.setSlice h)

theorem serveReq {n q} (h : s.memOk) : (s.serveReq n q).memOk := by
  unfold State.serveReq
  dsimp only
  split
  · exact .setSlice (.count h)
  · split
    · exact .setSlice (.count h)
    · split
      · exact .setSlice (.uncRead (.accessLine (.setX (.xMove h))))
      · exact .setSlice (.accessLine (.setX (.xMove h)))

theorem serveOne {n} (h : s.memOk) : (s.serveOne n).memOk := by
  unfold State.serveOne
  split
  · exact .ite (.setSlice (.serveReq h)) (.serveReq h)
  · exact h

theorem ageSlice {n} (h : s.memOk) : (s.ageSlice n).memOk := .setSlice (.foldl .setX (.countAll h))
theorem t1Expiry {key r} (h : s.memOk) : (s.t1Expiry key r).memOk := .xFinish (.count (.count (.setSlice h)))

theorem scrubCorrect {p g} (h : s.memOk) : (s.scrubCorrect p g).memOk :=
  .ite (.upd (.count h)) (.spareSwap (.upd (.count h)))

theorem scrubLost {line} (h : s.memOk) : (s.scrubLost line).memOk := by
  unfold State.scrubLost
  dsimp only
  split
  · exact .ite (.loseLine (.log (.count h))) (.readVerdict h)
  · exact .log (.loseShelfLine (.count h))

theorem answer {o} (h : s.memOk) : (s.answer o).memOk := .upd h
theorem partitionCheck (h : s.memOk) : s.partitionCheck.memOk := .foldl .finish h

theorem shelfNext {n} (h : s.memOk) : (s.shelfNext n).memOk := by
  unfold State.shelfNext
  dsimp only
  split
  · exact h
  · split
    · exact .setShelf h
    · exact h

theorem withMemory {mem : Memory} {bad} (h : s.memOk) (hm : mem.wf = true) :
    State.memOk { s with mem := mem, bad := bad } :=
  ⟨hm, h.2⟩

theorem shelfTakes {n v t} (h : s.memOk) : (s.shelfTakes n v t).memOk := by
  unfold State.shelfTakes
  extract_lets enters gone s0 s1 s3 s2
  have h1 : s1.memOk := .setShelf (.invalidate (.writeBackAs h))
  have h2 : s2.memOk := .ite (.withMemory (.access h1) (Memory.wf_clear h1.1 ..)) h1
  exact .ite (.catLose h2) h2

theorem fpScanEnd {n} (h : s.memOk) : (s.fpScanEnd n).memOk := by
  unfold State.fpScanEnd
  dsimp only
  split
  · exact h
  · split
    · exact .replayCheck (.setFp h)
    · split
      · exact .replayCheck (.uncRead (.setFp (.access h)))
      · exact .replayCheck (.journalLatch (.setFp (.access h)))

/-! ### Bindery -/

theorem bndStop {h' status} (h : s.memOk) : (s.bndStop h' status).memOk := .ite (.bndAbort h) h

theorem patrolLoses {a} (h : s.memOk) : (s.patrolLoses a).memOk := by
  unfold State.patrolLoses
  split
  · exact .setWays h
  · exact .lose h

theorem bndRegister {h' qi w} (h : s.memOk) : (s.bndRegister h' qi w).memOk :=
  .ite h (.orphan (.upd (.setBindery h)))

theorem bndBegin {h' r} (h : s.memOk) : (s.bndBegin h' r).memOk := by
  unfold State.bndBegin
  split
  · exact .bndEnd h
  · exact .ite (.bndEnd h) (.ite (.bndEnd (.uncRead h)) (.setBindery (.ite (.count h) (.writeBackAs h))))

theorem bndGoOn {h' r} (h : s.memOk) : (s.bndGoOn h' r).memOk :=
  .ite (.setBindery h) (.ite (.bndEnd h) (.ite (.bndEnd h) (.setBindery (.writeBackAs h))))

theorem bndTake {h' qi r} (h : s.memOk) : (s.bndTake h' qi r).memOk := by
  unfold State.bndTake
  extract_lets s1 b b' b1 s2
  have h2 : s2.memOk := .setBindery (.bndUnregister h)
  refine .ite (.bndGoOn h2) ?_
  split
  · exact .bndEnd (.ite (.uncRead h2) h2)
  · exact .ite (.bndEnd h2) (.bndBegin h2)

theorem bndScan {s : State} {h' a} (h : s.memOk) : (s.bndScan h' a).memOk := by
  induction a generalizing s with
  | nil => exact h
  | cons qi rest ih =>
    unfold State.bndScan
    split
    · exact ih h
    · refine .ite (.bndTake h) ?_
      split
      · exact ih (.bndRegister h)
      · exact .bndTake h

theorem bndRan {h' r bad} (h : s.memOk) : (s.bndRan h' r bad).memOk := by
  refine .setBindery ?_
  split
  · exact .uncRead h
  · exact h

theorem bndOperate {h' op} (h : s.memOk) : (s.bndOperate h' op).memOk := by
  unfold State.bndOperate
  split
  · exact h
  · exact .ite (.bndRan (.captureLines h)) (.bndRan (.bndMove h))

/-! ### Links -/

theorem messageLate {mseq} (h : s.memOk) : (s.messageLate mseq).memOk := by
  unfold State.messageLate
  split
  · exact h
  · exact .upd h

theorem startPacket {p t o} (h : s.memOk) : (s.startPacket p t o).1.memOk := by
  unfold State.startPacket
  extract_lets k k1 v s1 s2 late s3
  have h2 : s2.memOk := .setPort (.upd h)
  have h3 : s3.memOk := .ite (.count (.ite (.messageLate h2) h2)) h2
  exact .ite (.capturePort h3) h3

/-- A slot taken from a virtual lane that has one. -/
theorem takeSlot {p t vl x} (h : s.memOk) (e : s.takeSlot p t vl = some (u, x)) : u.memOk := by
  dsimp only [State.takeSlot] at e
  split at e
  · exact nomatch e
  · split at e
    · rw [← (Prod.mk.inj (Option.some.inj e)).1]
      exact .setPort h
    · split at e
      · rw [← (Prod.mk.inj (Option.some.inj e)).1]
        exact .setPort (.startPacket h)
      · exact nomatch e

theorem fillFrom {s : State} {p t vls n a} (h : s.memOk) : (s.fillFrom p t vls n a).1.memOk := by
  induction n generalizing s a with
  | zero => exact h
  | succ n ih =>
    unfold State.fillFrom
    refine .iteFst h ?_
    split
    next s1 x e =>
      obtain ⟨vl, -, hx⟩ := List.exists_of_findSome?_eq_some e
      exact ih (.takeSlot h hx)
    · exact h

theorem fillDrr {s : State} {p t n a} (h : s.memOk) : (s.fillDrr p t n a).1.memOk := by
  induction n generalizing s a with
  | zero => exact h
  | succ n ih =>
    unfold State.fillDrr
    refine .iteFst h ?_
    dsimp only
    split
    next s1 x e =>
      split at e
      · exact ih (.setPort (.takeSlot h e))
      · exact nomatch e
    · exact ih (.setPort h)

theorem fill {p t} (h : s.memOk) : (s.fill p t).1.memOk := .fillFrom (.fillDrr (.fillFrom (.fillFrom h)))
theorem frameOut {p bs} (h : s.memOk) : (s.frameOut p bs).memOk := .upd h
theorem sendTraining {p t} (h : s.memOk) : (s.sendTraining p t).memOk := .frameOut (.setPort h)
theorem sendData {p t fseq slots} (h : s.memOk) : (s.sendData p t fseq slots).memOk := .frameOut h

theorem sendFrame {p t} (h : s.memOk) : (s.sendFrame p t).memOk := by
  unfold State.sendFrame
  dsimp only
  split
  · split
    · exact .sendData ((by
  split
  · exact .count (.setPort h)
  · exact .setPort h))
    · exact .sendData ((by
  split
  · exact .count (.setPort h)
  · exact .setPort h))
  · exact .ite (.sendData h) (.ite (.sendData (.fill h)) (.setPort (.sendData (.fill h))))

theorem fecCount {p fec} (h : s.memOk) : (s.fecCount p fec).memOk := by
  unfold State.fecCount
  split
  · exact .count h
  · exact .count h

theorem replay {p t ack} (h : s.memOk) : (s.replay p t ack).memOk := .ite h (.setPort h)

theorem arrived {k} (h : s.memOk) : (s.arrived k).memOk :=
  .ite (.freeSlots (.reject h)) (.ite (.freeSlots (.noticeOf h)) (.ite (.deliver (.capturePort h)) (.deliver h)))

theorem takeIn {p code bs} (h : s.memOk) : (s.takeIn p code bs).memOk := by
  unfold State.takeIn
  dsimp only
  split
  · split
    · exact .arrived (.setPort ((by
  split
  · exact .reject (.freeSlots h)
  · exact h)))
    · exact .setPort ((by
  split
  · exact .reject (.freeSlots h)
  · exact h))
  · split
    · exact .ite (.arrived (.setPort h)) (.setPort h)
    · exact .count (.freeSlots h)

theorem takeSlots {p bytes} (h : s.memOk) : (s.takeSlots p bytes).memOk :=
  .foldl (fun h1 => .ite (.takeIn h1) h1) h

theorem takeFrame {p t bytes} (h : s.memOk) : (s.takeFrame p t bytes).memOk := by
  unfold State.takeFrame
  extract_lets hd fseq ack v0 used v v1 s1 s2
  have h2 : s2.memOk := .ite (.replay (.setPort h)) (.setPort h)
  exact .ite (.setPort h) (.ite (.takeSlots (.setPort h2)) h2)

theorem followDown {p} (h : s.memOk) : (s.followDown p).memOk := .setPort (.subportDown h)
theorem linkLost {p} (h : s.memOk) : (s.linkLost p).memOk := .ite (.followDown h) (.retrainFast h)

theorem takeAlign {p bytes} (h : s.memOk) : (s.takeAlign p bytes).memOk := by
  unfold State.takeAlign
  extract_lets v fl ts n v1
  generalize patternGood bytes = good
  exact .ite (.setPort h) (.setPort h)

theorem takeExchange {p bytes} (h : s.memOk) : (s.takeExchange p bytes).memOk :=
  .ite (.trainingFails h) (.ite (.trainingFails h) (.ite (.setPort h) (.setPort h)))

theorem takeDelay {p t bytes} (h : s.memOk) : (s.takeDelay p t bytes).memOk := .ite (.setPort h) (.setPort h)

theorem portDisable {n} (h : s.memOk) : (s.portDisable n).memOk :=
  .foldl (fun h1 => .ite (.subportDown h1) (.ite h1 (.subportQuiesce h1))) (.setPctl h)

/-! ### Packets -/

theorem onPacket {k ptype f} (h : s.memOk) (hf : ∀ {s}, s.memOk → (f s).memOk) :
    (s.onPacket k ptype f).memOk :=
  .ite h (.ite (.reject (.take h)) (hf (.take h)))

theorem writeTile {c t vals codes} (h : s.memOk) : (s.writeTile c t vals codes).memOk :=
  .captureWrite (updMem (.write h) Col.putTile_wf)

theorem takeRole1 {h' c k} (h : s.memOk) : (s.takeRole1 h' c k).memOk := by
  unfold State.takeRole1
  dsimp only
  split
  · exact .colFailOwn h
  · exact .ite (.colFailOwn h) (.colGuard h fun h1 => .foldl .colSend (.updRun (.writeTile h1)))

theorem takeRole2 {h' c k} (h : s.memOk) : (s.takeRole2 h' c k).memOk := by
  unfold State.takeRole2
  split
  · exact .colFailOwn h
  · exact .ite (.colFailOwn h) (.colGuard h fun h1 => .foldl .colSend (.updRun (.write h1)))

theorem takeRow {h' c rank tidx boff tag bs} (h : s.memOk) : (s.takeRow h' c rank tidx boff tag bs).memOk :=
  .ite (.colFailOwn h) (.colGuard h fun h1 => .updRun (.write (.write h1)))

theorem takeCount {h' c rank word} (h : s.memOk) : (s.takeCount h' c rank word).memOk :=
  .ite (.colFailOwn h) (.colGuard h fun h1 => .updRun (.write h1))

theorem takeA2a {h' c k} (h : s.memOk) : (s.takeA2a h' c k).memOk := by
  unfold State.takeA2a
  split
  · exact .colFailOwn h
  · exact .ite (.takeCount h) (.ite (.colFailOwn h) (.takeRow h))

theorem takePerm {h' c off bs} (h : s.memOk) : (s.takePerm h' c off bs).memOk :=
  .ite (.colFailOwn h) (.ite (.colGuard h fun h1 => .updRun (.write h1)) (.colGuard h fun h1 => .updRun (.write h1)))

theorem takeData {h' c k} (h : s.memOk) : (s.takeData h' c k).memOk :=
  .colPlanned h fun h1 => by
    split
    · exact .ite (.acceptTile h1) (.colFailOwn h1)
    · exact .ite (.takeRole1 h1) (.colFailOwn h1)
    · exact .ite (.takeRole2 h1) (.colFailOwn h1)
    · exact .ite (.takePerm h1) (.colFailOwn h1)
    · exact .ite (.takeA2a h1) (.colFailOwn h1)

theorem epochChecked {h' c k f} (h : s.memOk) (hf : ∀ {s x}, s.memOk → (f s x).memOk) :
    (s.epochChecked h' c k f).memOk :=
  .ite (.count h) (hf (.setCol h))

theorem onData {k} (h : s.memOk) : (s.onData k).memOk := by
  unfold State.onData
  split
  · exact .reject h
  · dsimp only
    split
    · exact .noticeOf h
    · refine .ite (.noticeOf h) (.epochChecked h fun h1 => ?_)
      split
      · exact .takeData h1
      · exact .noticeOf h1
      · exact .count h1

theorem ackIn {c bs} (h : s.memOk) : (s.ackIn c bs).memOk := by
  unfold State.ackIn
  split
  · exact h
  · refine .ite (.upd h) (.onSaved (.upd h) fun h1 => ?_)
    split
    · exact .endWait h1
    · exact h1

theorem onCack {k} (h : s.memOk) : (s.onCack k).memOk := by
  unfold State.onCack
  split
  · exact .reject h
  · split
    · exact .ackIn h
    · split
      · exact .noticeOf h
      · exact .epochChecked h .ackIn

theorem onEpoch {k} (h : s.memOk) : (s.onEpoch k).memOk :=
  .ite (.malformed h) (.colAbandonCheck (.abandonAll h))

theorem onToken {k t} (h : s.memOk) : (s.onToken k t).memOk := by
  unfold State.onToken
  split
  · exact .malformed h
  · exact .ite h (.forwardToken (.takeToken h))

theorem onArrive {k} (h : s.memOk) : (s.onArrive k).memOk := by
  unfold State.onArrive
  split
  · exact .malformed h
  · split
    · exact h
    · exact .ite h (.closureCheck (.countArrival h))

theorem onComplete {k} (h : s.memOk) : (s.onComplete k).memOk := by
  unfold State.onComplete
  split
  · exact .malformed h
  · split
    · exact h
    · exact .ite h (.closureCheck (.closureEnds (.roundDone h)))

theorem onFail {k} (h : s.memOk) : (s.onFail k).memOk := by
  unfold State.onFail
  split
  · exact .malformed h
  · split
    · exact h
    · exact .closureFail h

theorem slipUp {h' c k bs} (h : s.memOk) : (s.slipUp h' c k bs).memOk :=
  .ite (.slipAdd h) (.ite (.setCol h) (.malformed h))

theorem onSlipred {k} (h : s.memOk) : (s.onSlipred k).memOk := by
  unfold State.onSlipred
  dsimp only
  split
  · exact .malformed h
  · exact .ite (.malformed h) (.epochChecked h fun h1 => .ite (.slipUp h1) (.ite (.slipResult h1) (.malformed h1)))

theorem runEntry {c p a q e} (h : s.memOk) : (s.runEntry c p a q e).memOk := by
  unfold State.runEntry
  split
  · exact .mRun h
  · exact .vExec h
  · exact .xExec h
  · exact .endEntry h

theorem tractEntry {c q e} (h : s.memOk) : (s.tractEntry c q e).memOk :=
  .ite h (.passAll (.count (.advance h)) .runEntry)

theorem onStake {k} (h : s.memOk) : (s.onStake k).memOk := by
  unfold State.onStake
  split
  · exact .malformed h
  · split
    · exact h
    · exact .ite (.sendOn (.stakeOpAny h)) (.stakeOpAny h)

theorem onFw {k chan shape f} (h : s.memOk) (hf : ∀ {s}, s.memOk → (f s).1.memOk) :
    (s.onFw k chan shape f).memOk := by
  refine .onPacket h fun h1 => .ite h1 (.ite (.reject h1) ?_)
  extract_lets src n old done after fab r
  have hr : r.1.memOk := by
    unfold r
    cases old with
    | none => exact .upd (hf h1)
    | some _ => exact h1
  exact .ite (.fwmsg hr) hr

theorem routeLoad {rtl first es} (h : s.memOk) : (s.routeLoad rtl first es).memOk :=
  .foldl (fun h1 => .ite h1 (.ite (.upd h1) (.upd h1))) h

theorem fwAnswered {r status} (h : s.memOk) : (s.fwAnswered r status).memOk := by
  unfold State.fwAnswered
  split
  · exact h
  · exact .ite (.finish (.ite (.giveUp h) h)) (.ite h (.finish h))

theorem messageEnds {w status} (h : s.memOk) : (s.messageEnds w status).memOk := by
  unfold State.messageEnds
  dsimp only
  split
  · exact .fwAnswered (.upd h)
  · exact .upd h

theorem takeNotice {body} (h : s.memOk) : (s.takeNotice body).memOk :=
  .ite (.colFail h) (.ite (.foldl .messageEnds h) h)

theorem onMack {k} (h : s.memOk) : (s.onMack k).memOk := by
  unfold State.onMack
  dsimp only
  split
  · exact h
  · exact .messageEnds h

/-! ### Collectives -/

theorem planUnc {r} (h : s.memOk) : (s.planUnc r).memOk := .lineUnc h
theorem planRead {r} (h : s.memOk) : (s.planRead r).memOk := .foldl .access h

theorem admitCol {h'} (h : s.memOk) : (s.admitCol h').memOk := by
  unfold State.admitCol
  split
  · exact h
  · exact .finishAll (.setCol h)

theorem consumeRef {c w} (h : s.memOk) : (s.consumeRef c w).memOk := by
  unfold State.consumeRef
  split
  · exact .takeStake h
  · exact h

theorem prepare {h' c} (h : s.memOk) : (s.prepare h' c).memOk :=
  .ite (.colPlanned h fun h1 => .colGuard h1 fun h2 => updMem (.foldl .heal h2) (foldl_wf Col.putTile_wf))
    (.ite (.colGuard h .store) h)

theorem gatherStart {h' c} (h : s.memOk) : (s.gatherStart h' c).memOk := by
  unfold State.gatherStart
  extract_lets o sh len a d
  refine .colGuard h fun h1 => ?_
  extract_lets bs s1 cut s2
  have hs1 : s1.memOk := .ite h1 (.write h1)
  exact .updRun (.foldl (fun h2 => .foldl .colSend h2) hs1)

theorem sendRow {h' c i e j n} (h : s.memOk) : (s.sendRow h' c i e j n).memOk :=
  .ite (.colGuard h fun h1 => .ite (.takeRow h1) (.foldl .colSend h1)) (.updRun h)

theorem a2aRows {s : State} {h' c n i seen} (h : s.memOk) : (State.a2aRows h' c n i seen s).memOk := by
  induction n generalizing s i seen with
  | zero => exact .ite h (.updRun (.foldl (fun h1 => .ite (.takeCount h1) (.colSend h1)) h))
  | succ n ih =>
    unfold State.a2aRows
    refine .ite h ?_
    split
    · exact .colFailOwn h
    · exact ih (.sendRow h)

theorem a2aStart {h' c} (h : s.memOk) : (s.a2aStart h' c).memOk := .colGuard (.updRun h) .a2aRows

theorem permStart {h' c} (h : s.memOk) : (s.permStart h' c).memOk := by
  unfold State.permStart
  extract_lets ms
  refine .colGuard h fun h1 => ?_
  extract_lets data s1
  have hs1 : s1.memOk := .updRun h1
  exact .foldl (fun h2 => .ite (.takePerm h2) (.foldl .colSend h2)) hs1

theorem slipStart {h' c} (h : s.memOk) : (s.slipStart h' c).memOk := by
  have hk : ∀ {s : State}, s.memOk → (s.colGuard h' c [(c.r.src.toNat, c.r.slen.toNat)] [] fun s =>
      (c.early.foldl (fun s x => s.slipAdd h' (some x.1) x.2) s).slipAdd h' none
        (s.mem.readN c.r.src.toNat c.r.slen.toNat)).memOk :=
    fun h1 => .colGuard h1 fun h2 => .slipAdd (.foldl .slipAdd h2)
  exact .ite (.colGuard (.setCol h) fun h1 => hk (.write h1)) (hk (.setCol h))

theorem sumStart {h' c} (h : s.memOk) : (s.sumStart h' c).memOk := .voteCheck (.updRun h)

theorem runBegin {h' c} (h : s.memOk) : (s.runBegin h' c).memOk := by
  refine .colPlanned h fun h1 => .ite (.colGuard h1 .sumStart) (.ite (.colGuard h1 .a2aStart) ?_)
  exact .ite (.permStart h1) (.ite (.slipStart h1) (.gatherStart h1))

theorem takeStaged {h' c} (h : s.memOk) : (s.takeStaged h' c).memOk := by
  unfold State.takeStaged
  split
  · exact h
  · dsimp only
    split
    · exact .updRun h
    · exact .acceptTile (.updRun (.setMat h))

theorem takeSrc {h' c} (h : s.memOk) : (s.takeSrc h' c).memOk :=
  .ite h (.colGuard h fun h1 => .acceptTile (.updRun h1))

/-! ### Counters -/

theorem snapRequest {tag stakeout at'} (h : s.memOk) : (s.snapRequest tag stakeout at').1.memOk := by
  exact .iteFst (.count (.upd h)) (.upd h)

theorem snapWrite {k} (h : s.memOk) : (s.snapWrite k).memOk :=
  h.updMem fun g => foldl_wf (fun g1 => Memory.wf_writeLE g1 ..) (Memory.wf_writeN (Memory.wf_clear g ..) ..)

/-- The times of the next phase record begin anew. -/
theorem phaseCounted {n} (h : s.memOk) :
    State.memOk { s with ctr := { s.ctr with nPhase := n, peerWait := 0, thrTime := 0 } } :=
  .upd h

theorem phaseMark {mark bearing rev} (h : s.memOk) : (s.phaseMark mark bearing rev).memOk :=
  .ite (.phaseCounted (.access (.store h))) (.count (.upd h))

/-! ### Load -/

theorem initStakes {c} (h : s.memOk) : (s.initStakes c).memOk :=
  .foldl (fun h1 => h1.updMem (Memory.wf_writeN · ..)) h
theorem purge {c} (h : s.memOk) : (s.purge c).memOk := .foldl .setBindery (.upd h)

/-! ### Switch -/

theorem engineRetry {c p} (h : s.memOk) : (s.engineRetry c p).memOk := .xRetry (.vRetry (.mRetry h))

theorem becomeRunning {c} (h : s.memOk) : (s.becomeRunning c).memOk :=
  .finishAll (.foldl .engineRetry (.foldl .wakeStake (.setCtx (.unsuspend (.bndRestart (.countSwitch h))))))

theorem startFails {c st status} (h : s.memOk) : (s.startFails c st status).memOk :=
  .endPreempts (.finishAll (.setCtx h))

theorem cancelled {c} (h : s.memOk) : (s.cancelled c).memOk := .onSaved h fun h1 => .suspend (.unsuspend h1)

theorem settle {c} (h : s.memOk) : (s.settle c).memOk := by
  unfold State.settle
  dsimp only
  split
  · split
    · exact .endPreempts (.setCtx (.cancelled h))
    · split
      · exact .startFails h
      · split
        next s1 e => exact .becomeRunning (restoreAll h s1 e)
        · exact .startFails h
  · exact h

theorem sliceOut {d} (h : s.memOk) : (s.sliceOut d).memOk := .setCtx h

theorem sliceTurn (h : s.memOk) : s.sliceTurn.memOk := by
  unfold State.sliceTurn
  split
  · exact h
  · split
    · exact .setCtx (.count h)
    · exact h

theorem startNow {c} (h : s.memOk) : (s.startNow c).memOk := by
  unfold State.startNow
  extract_lets v s1 s2
  have h1 : s1.memOk := .foldl (fun h => .ite (.preempt (.ite h (.count h))) h) h
  have h2 : s2.memOk := .foldl (fun h => .ite (.sliceOut h) h) h1
  exact .settle (.sliceTurn (.setCtx h2))

theorem ctxStartOp {c} (h : s.memOk) : (s.ctxStartOp c).1.memOk := by
  unfold State.ctxStartOp
  split
  · exact h
  · split
    · exact .startNow h
    · exact .startNow h
    · exact h

theorem ctxPreOp {c} (h : s.memOk) : (s.ctxPreOp c).1.memOk := by
  unfold State.ctxPreOp
  dsimp only
  split
  · exact .setCtx h
  · exact .preempt h
  · exact h

theorem actTake {a} (h : s.memOk) : (s.actTake a).memOk := by
  have h1 : (if a.start then s.ctxStartOp a.ctx else s.ctxPreOp a.ctx).1.memOk :=
    .iteFst (.ctxStartOp h) (.ctxPreOp h)
  unfold State.actTake
  split
  · next e => exact .of_eq e h1
  · next e =>
    split
    · exact .ite (.finish (.of_eq e h1)) (.of_eq e h1)
    · exact .ite (.count (.of_eq e h1)) (.of_eq e h1)

theorem actsTake {s : State} {fuel} (h : s.memOk) : (s.actsTake fuel).memOk := by
  induction fuel generalizing s with
  | zero => exact h
  | succ fuel ih =>
    unfold State.actsTake
    split
    · exact h
    · exact .ite (ih (.actTake (.upd h))) h

theorem settleAll (h : s.memOk) : s.settleAll.memOk := .actsTake (.foldl .settle (.sliceTurn h))
theorem ctxIssue {a} (h : s.memOk) : (s.ctxIssue a).memOk := .actsTake (.upd h)

theorem parked {c} (h : s.memOk) : (s.parked c).memOk :=
  .ite (.settleAll (.countSwitch (.endPreempts (.setCtx (.saveAll (.suspend h)))))) h

theorem sliceOutDone {c} (h : s.memOk) : (s.sliceOutDone c).memOk :=
  .ite (.settleAll (.setCtx (.bindsOut (.blocksOut (.copyOut h))))) h

theorem sliceInDone {c} (h : s.memOk) : (s.sliceInDone c).memOk := by
  have hfail : ∀ {st status}, (s.startFails c st status).settleAll.memOk := .settleAll (.startFails h)
  unfold State.sliceInDone
  refine .ite (.ite hfail (.ite hfail ?_)) h
  split
  · exact hfail
  · next s1 e =>
    have h1 : s1.memOk := blocksIn (.copyIn h) s1 e
    have h2 : (((s1.saveAll c).bindsIn c).count (ctrDev 54)).memOk := .count (.bindsIn (.saveAll h1))
    exact .ite (.settleAll (.endPreempts (.setCtx (.cancelled (.setCtx h2))))) (.settleAll (.becomeRunning h2))

/-! ### CtxCmds -/

theorem copyReport {c fromImage} (h : s.memOk) : (s.copyReport c fromImage).memOk := .ite h (.foldl .uncRead h)
theorem imageAccess {c write} (h : s.memOk) : (s.imageAccess c write).memOk := .foldl .access h
theorem headerRead {c a read} (h : s.memOk) : (s.headerRead c a read).memOk := .ite (.access (.readVerdict h)) h
theorem resumeQueue {key q gadr} (h : s.memOk) : (s.resumeQueue key q gadr).memOk := .setQueue h

theorem catImage {r first count a f} (h : s.memOk) (hf : ∀ {s}, s.memOk → (f s).memOk) :
    (s.catImage r first count a f).memOk :=
  .ite (.finish h) (.ite (.finish h) (.ite (.finish h) (hf h)))

/-- The copy of a snapshot ends, written. -/
theorem copied {d t n m} (h : s.memOk) :
    State.memOk { s with ctr := { s.ctr.afterCopy with sdone := d, ltag := t, scount := n, nSnap := m } } :=
  .upd h

/-- The copy of a snapshot ends, missed. -/
theorem copyMissed {d} (h : s.memOk) : State.memOk { s with ctr := { s.ctr.afterCopy with smiss := d } } :=
  .upd h

theorem withReplay {c : Cat} {r} (h : s.memOk) : State.memOk { s with cat := c, flt := { s.flt with replay := r } } :=
  .upd h

/-! ### Rings -/

theorem hostWrite {addr f} (h : s.memOk) (hf : ∀ {s}, s.memOk → (f s).memOk) :
    (s.hostWrite addr f).memOk :=
  .ite (.hostFault h) (hf h)

theorem subDoorbell {q v us} (h : s.memOk) : (s.subDoorbell q v us).memOk :=
  .hostWrite h fun h1 => .ite (.hostFault h1) (.setSub h1)

theorem withCmd {c : CmdIf} (h : s.memOk) : State.memOk { s with cmd := c } := .upd h

theorem rcpDoorbell {r v} (h : s.memOk) : (s.rcpDoorbell r v).memOk :=
  .hostWrite h fun h1 => .ite (.hostFault h1) (.withCmd (.lostEvents (.setRcp h1)))

theorem subEnable {q en} (h : s.memOk) : (s.subEnable q en).memOk := .ite (.upd (.setSub h)) (.setSub h)

theorem rcpEnable {r en} (h : s.memOk) : (s.rcpEnable r en).memOk :=
  .ite (.upd (.lostEvents (.setRcp h))) (.setRcp h)

theorem startCmd {r} (h : s.memOk) : (s.startCmd r).memOk := .upd (.setRcp h)
theorem dropDirect (h : s.memOk) : s.dropDirect.memOk := .count (.upd h)

theorem directWrite {v} (h : s.memOk) : (s.directWrite v).memOk :=
  .hostWrite h fun h1 => .ite (.hostFault h1) (.ite (.dropDirect h1) (.ite (.dropDirect h1) (.startCmd h1)))

theorem stall {q rcpt} (h : s.memOk) : (s.stall q rcpt).memOk := .ite (.count (.upd h)) (.upd h)
theorem fetched {q} (h : s.memOk) : (s.fetched q).memOk := .count (.upd (.setSub (.foldl .setSub h)))
theorem answerSlot {q l rr status} (h : s.memOk) : (s.answerSlot q l rr status).memOk := .receipt h
theorem numbered {q l} (h : s.memOk) : (s.numbered q l).memOk := .setSub h

theorem fetchError {q header l rr} (h : s.memOk) : (s.fetchError q header l rr).memOk :=
  .log (.setSub (.ite h (.ite (.answerSlot (.fetched h)) (.answerSlot (.numbered (.fetched h))))))

theorem takeSlotCmd {q us l rr params} (h : s.memOk) : (s.takeSlotCmd q us l rr params).memOk := by
  have h1 : (s.fetched q).memOk := .fetched h
  have h2 : ((s.fetched q).numbered q l).memOk := .numbered h1
  exact .ite (.answerSlot h1) (.ite (.answerSlot h2) (.ite (.answerSlot h2) (.startCmd h2)))

theorem expire {r} (h : s.memOk) : (s.expire r).memOk := by
  have h1 : ∀ {c r'}, (({ (s.count (ctrDev 43)).giveUp r with cmd := c }).putStarted r r').memOk :=
    .putStarted (.withCmd (.giveUp (.count h)))
  exact .ite (.finish h1) h1

/-! ### Restart -/

theorem clearFieldbooks (h : s.memOk) : s.clearFieldbooks.memOk := h.updMem (Memory.wf_clear · ..)

theorem warmNotices (h : s.memOk) : s.warmNotices.memOk :=
  .foldl .sendOn (.upd (.closuresFail (.colsFail (.foldl .finish (.upd h)))))

theorem warmUnits (h : s.memOk) : s.warmUnits.memOk := .upd h

theorem warmPort {p quiet} (h : s.memOk) : (s.warmPort p quiet).memOk := by
  unfold State.warmPort
  extract_lets old v s1
  have h1 : s1.memOk := .setPort h
  exact .ite (.ite (.subportDown h) h1) (.ite (.retrainFast (.setPort h1)) (.ite (.trainIfEnabled h1) h1))

theorem brgUnlocked {b0} (h : s.memOk) : State.memOk { s with brg := { s.brg with
    st := .unlocked, run := false, b0 := b0, due := [], top := false, src := none, foreign := 0 } } := .upd h

theorem warmReset (h : s.memOk) : s.warmReset.memOk := by
  unfold State.warmReset
  extract_lets quiet s1 s2 b s3 cmd s4
  have h1 : s1.memOk := .clearFieldbooks (.warmUnits (.invalidate (.writeBack (.warmNotices h))))
  have h2 : s2.memOk := .foldl (fun h => .ite (.warmPort h) h) h1
  have h3 : s3.memOk := .brgUnlocked h2
  have h4 : s4.memOk := .fatal (.withCmd h3)
  exact .ite (.drainDevice h4) h4

theorem requestWarm (h : s.memOk) : s.requestWarm.memOk := .ite (.upd h) (.warmReset h)

/-! ### Power -/

theorem oppRequest {point stakeout} (h : s.memOk) : (s.oppRequest point stakeout).memOk := .upd h

theorem oppSwitchNow {target} (h : s.memOk) : (s.oppSwitchNow target).memOk := .count (.upd h)

theorem withThrLog {l b} (h : s.memOk) : State.memOk { s with pwr := { s.pwr with log := l, logged := b } } := .upd h
theorem thrPut {e isOpen} (h : s.memOk) : (s.thrPut e isOpen).memOk := .withThrLog h
theorem episodeBegin {r} (h : s.memOk) : (s.episodeBegin r).memOk := .count (.thrPut (.upd h))
theorem episodes (h : s.memOk) : s.episodes.memOk := .foldl .episodeBegin (.foldl .thrPut (.upd h))

theorem powerCounts {measured bins} (h : s.memOk) : (s.powerCounts measured bins).memOk :=
  .ite (.count (.foldl .count h)) (.foldl .count h)

theorem tripQueue {key q} (h : s.memOk) : (s.tripQueue key q).memOk := .ite (.failQueue (.setEng h)) (.setEng h)
theorem tripBindery {h'} (h : s.memOk) : (s.tripBindery h').memOk := .foldl .bndEnd (.bndAbort h)

theorem withTrip {m : Module} {b : Bool} (h : s.memOk) :
    State.memOk { s with pwr := { s.pwr with tripped := b }, mod := m } :=
  .upd h

theorem trip (h : s.memOk) : s.trip.memOk := by
  unfold State.trip
  extract_lets keys s1 s2
  have h1 : s1.memOk := .foldl (fun h => .foldl .tripQueue h) (.orphanRequests h)
  have h2 : s2.memOk := .foldl .tripBindery h1
  exact .drainDevice (.log (.withTrip h2))

theorem fillerFire {k rev} (h : s.memOk) : (s.fillerFire k rev).1.memOk := by
  unfold State.fillerFire
  split
  · exact h
  · exact .upd h

/-! ### Stakeouts -/

theorem runSet {t} (h : s.memOk) : (s.runSet t).memOk := .ite h (.ite (.runStart h) (.upd (.timeAt h)))

theorem roleChange (h : s.memOk) : s.roleChange.memOk := .upd h

theorem tpvClear (h : s.memOk) : s.tpvClear.memOk :=
  .ite (.upd h) (.upd h)

theorem datumRuns (h : s.memOk) : s.datumRuns.memOk := .ite (.runStart h) h

theorem stakeoutCommit {n w3} (h : s.memOk) : (s.stakeoutCommit n w3).memOk := .upd h

theorem stakeoutBar0 {n w3} (h : s.memOk) : (s.stakeoutBar0 n w3).memOk := .upd (.stakeoutCommit h)

theorem fires {n t action f} (h : s.memOk) (hf : ∀ {x s}, s.memOk → (f x s).memOk) :
    (s.fires n t action f).memOk := by
  unfold State.fires
  extract_lets s1
  have h1 : s1.memOk := .timeAt h
  split
  · exact .ite (hf (.upd h1)) h1
  · exact h1

theorem brgNop (h : s.memOk) : s.brgNop.memOk := .count h

theorem unlessD3 {f} (h : s.memOk) (hf : ∀ {s}, s.memOk → (f s).memOk) : (s.unlessD3 f).memOk :=
  .ite (.brgNop h) (hf h)

theorem unlessDrained {f} (h : s.memOk) (hf : ∀ {s}, s.memOk → (f s).memOk) : (s.unlessDrained f).memOk :=
  .ite (.brgNop h) (hf h)

theorem setStakeAction {ctx w} (h : s.memOk) : (s.setStakeAction ctx w).memOk := by
  unfold State.setStakeAction
  split
  · exact .ite (.stakeOpAny h) (.brgNop h)
  · exact .brgNop h

/-! ### HostCmds -/

theorem shelfBegins {x} (h : s.memOk) : (s.shelfBegins x).memOk := .setShelf h
theorem bndResume {h' c skip} (h : s.memOk) : (s.bndResume h' c skip).memOk := .ite (.setBindery h) h

theorem joinMembers {handle home order members r} (h : s.memOk) :
    (s.joinMembers handle home order members r).memOk :=
  .foldl (fun h1 => .ite h1 (.useFree (.fwmsg h1))) h

theorem awaitMacks {r send} (h : s.memOk) (hsend : ∀ {s}, s.memOk → (send s).memOk) :
    (s.awaitMacks r send).memOk :=
  .fwAnswered (hsend (.begin h))

theorem clearClosureBits {c cid} (h : s.memOk) : (s.clearClosureBits c cid).memOk := .upd h

theorem setupClosure {cid ctx parent limit child units} (h : s.memOk) :
    (s.setupClosure cid ctx parent limit child units).memOk := by
  unfold State.setupClosure
  extract_lets s1 idle c
  have h1 : s1.memOk := .foldl (fun h => .onSaved h .clearClosureBits) h
  have h2 : (s1.setClosure cid c).memOk := .setClosure h1
  exact .onSaved h2 fun h => .foldl .setCbit h

/-! ### Resets -/

/-- A cold reset clears the device memory, and leaves the host's. -/
theorem cold {held} (h : s.memOk) : (s.cold held).memOk := ⟨rfl, h.2⟩

theorem bootFault {code} (h : s.memOk) : (s.bootFault code).memOk := .log h
theorem holdUnit {code} (h : s.memOk) : (s.holdUnit code).memOk := .setSvc h

theorem bootTables {b} (h : s.memOk) : (s.bootTables b).memOk := by
  unfold State.bootTables
  extract_lets s1 s2
  have h1 : s1.memOk := .foldl (fun h => .spareSwap (.bootFault h)) h
  have h2 : s2.memOk := .foldl (fun h => .holdUnit (.bootFault h)) h1
  exact .foldl (fun h => .holdUnit (.bootFault h)) h2

theorem firmwareRuns {cls} (h : s.memOk) : (s.firmwareRuns cls).memOk := .ite (.upd h) h

theorem bootImage {b cls} (h : s.memOk) : (s.bootImage b cls).memOk := by
  unfold State.bootImage
  extract_lets x s1
  have h1 : s1.memOk := .foldl .holdUnit (.bootFault h)
  exact .ite (.firmwareRuns h) (.ite (.firmwareRuns (.upd h)) (.ite (.upd h1) h1))

theorem bootNext (h : s.memOk) : s.bootNext.memOk := .upd (.useFree h)
theorem standbyLost (h : s.memOk) : s.standbyLost.memOk := .fatal (.upd h)

theorem napCtx {c} (h : s.memOk) : (s.napCtx c).memOk := by
  unfold State.napCtx
  extract_lets v s1
  have h1 : s1.memOk := .ite (.setCtx h) (.preempt h)
  exact .ite (.sliceOut h1) h1

theorem wakeCtx {c} (h : s.memOk) : (s.wakeCtx c).memOk := .ite (.setCtx h) (.ctxIssue h)

theorem wakePort {p} (h : s.memOk) : (s.wakePort p).memOk := by
  unfold State.wakePort
  extract_lets s1
  have h1 : s1.memOk := .ite (.subportDown h) h
  exact .ite (.detect (.setPort h1)) h1

theorem flushLate (h : s.memOk) : s.flushLate.memOk := .foldl .putReceipt (.upd h)

theorem toD0 (h : s.memOk) : s.toD0.memOk := by
  unfold State.toD0
  extract_lets m s1 gone s2 s3
  have h1 : s1.memOk := .upd h
  have h2 : s2.memOk := .ite (.clearFieldbooks h1) h1
  have h3 : s3.memOk := .ite (.foldl (fun h => .ite (.wakePort h) h) h2) (.foldl .wakeCtx h2)
  exact .ite h (.lostEvents (.flushLate (.settleAll h3)))

theorem hostReset (h : s.memOk) : s.hostReset.memOk := .upd (.toD0 (.upd h))

theorem refLink {present} (h : s.memOk) : (s.refLink present).memOk :=
  .foldl (fun h1 => .ite h1 (.ite (.subportQuiesce h1) (.ite (.trainIfEnabled (.ite (.subportDown h1) h1)) h1))) h

theorem smbus {bs} (h : s.memOk) : (s.smbus bs).memOk := .ite (.answer h) h

/-! ### Service -/

theorem quiesceOnce {r} (h : s.memOk) : (s.quiesceOnce r).memOk := .ite (.quiesceBegin h) h

theorem resetByCommand {r u} (h : s.memOk) : (s.resetByCommand r u).memOk :=
  .ite (.unitReset h) (.finish (.unitReset h))

theorem advanceArb {cls} (h : s.memOk) : (s.advanceArb cls).memOk := by
  unfold State.advanceArb
  split
  · exact .upd h
  · exact h

theorem activated {r} (h : s.memOk) : (s.activated r).memOk := .ite (.finish (.upd h)) (.finish (.advanceArb h))

theorem activateUnit {r u} (h : s.memOk) : (s.activateUnit r u).memOk := by
  unfold State.activateUnit
  extract_lets renew
  have hrenew : ∀ {s}, s.memOk → (renew s).memOk := fun h =>
    .ite (.unitResume (.unitReset h)) (.log (.unitResume (.unitReset h)))
  exact .ite (hrenew (.activated h)) (.activated (hrenew h))

theorem quiesceEnds {u} (h : s.memOk) : (s.quiesceEnds u).memOk :=
  .foldl (fun h1 => by
    split
    · exact .finish h1
    · exact .resetByCommand h1
    · exact .activateUnit h1
    · exact h1) (.quiesceEnd h)

theorem quiesceDrops {u} (h : s.memOk) : (s.quiesceDrops u).memOk := by
  unfold State.quiesceDrops
  split
  · exact .foldl (fun h1 => .tripQueue (.tripQueue h1)) h
  · exact .foldl (fun h1 => .ite (.subportDown h1) h1) h
  · exact .foldl .finish h
  · exact .dropRequests h

theorem watchdog {code reset} (h : s.memOk) (hreset : ∀ {s}, s.memOk → (reset s).memOk) :
    (s.watchdog code reset).memOk :=
  .log (.fatal (.count (.ite (.requestWarm (.upd h)) (hreset (.upd h)))))

theorem openDebug (h : s.memOk) : s.openDebug.memOk := .upd h

theorem activate {r cls i u fails} (h : s.memOk) : (s.activate r cls i u fails).memOk := by
  unfold State.activate
  dsimp only
  split
  · exact .finish (.advanceArb (.upd h))
  · exact .ite (.activateUnit (.putStarted (.upd h))) (.quiesceOnce (.begin (.putStarted (.upd h))))

theorem spdmError (h : s.memOk) : s.spdmError.memOk := .answer h

/-! ### Regs -/

theorem writeSqctl {q v} (h : s.memOk) : (s.writeSqctl q v).memOk := .subEnable (.setSub h)
theorem writeRqctl {q v} (h : s.memOk) : (s.writeRqctl q v).memOk := .signalRing (.rcpEnable (.setRcp h))
theorem writeEvcfg {v} (h : s.memOk) : (s.writeEvcfg v).memOk := .lostEvents (.upd h)

theorem writeDcfg {v} (h : s.memOk) : (s.writeDcfg v).memOk := by
  unfold State.writeDcfg
  extract_lets b m s1 s2
  have h1 : s1.memOk := .upd h
  have h2 : s2.memOk := .ite (.roleChange h1) h1
  exact .ite (.runSet (.ite (.datumRuns h2) h2)) (.ite (.runStop h2) h2)

theorem writeTree {v} (h : s.memOk) : (s.writeTree v).memOk := .ite (.tpvClear (.upd h)) (.upd (.upd h))
theorem writeStk {n k v} (h : s.memOk) : (s.writeStk n k v).memOk := .ite (.upd h) (.stakeoutBar0 h)

theorem writeWlim {k v} (h : s.memOk) : (s.writeWlim k v).memOk := by
  unfold State.writeWlim
  dsimp only
  split
  · exact .upd h
  · exact h

theorem writeWlong {v} (h : s.memOk) : (s.writeWlong v).memOk := by
  unfold State.writeWlong
  split
  · exact .upd h
  · exact h

theorem writePctl {n v} (h : s.memOk) : (s.writePctl n v).memOk := by
  unfold State.writePctl
  extract_lets c w sp down s1 s2
  have h2 : s2.memOk := .setPctl (.ite h (.foldl (fun h => .ite h (.subportDown h)) h))
  exact .ite (.portDisable h2) (.ite (.foldl .trainIfEnabled h2) h2)

theorem writeStation {v} (h : s.memOk) : (s.writeStation v).memOk := .upd h

theorem writeDomain {v} (h : s.memOk) : (s.writeDomain v).memOk := .upd h

theorem writeB2win {n v} (h : s.memOk) : (s.writeB2win n v).memOk := .upd h
theorem writeCatArea {c v} (h : s.memOk) : (s.writeCatArea c v).memOk := .setArea h
theorem writeFpctl {n v} (h : s.memOk) : (s.writeFpctl n v).memOk := .setFp h

theorem updShown {u f} (h : s.memOk) : (s.updShown u f).memOk := by
  unfold State.updShown
  split
  · exact .onSaved h .setSync
  · exact h

theorem writeReg1 {r v} (h : s.memOk) : (s.writeReg1 r v).memOk := by
  unfold State.writeReg1
  split
  · exact .upd h
  · exact .ite h (.setSub h)
  · exact .ite h (.setRcp h)
  · exact .ite h (.setSub h)
  · exact .writeSqctl h
  · exact .writeRqctl h
  · exact .writeEvcfg h
  · exact .upd h
  · exact .upd h
  · exact .upd h
  · exact .upd h
  · exact .upd h
  · exact .upd h
  · exact .upd h
  · exact .upd h
  · exact .writeWlim h
  · exact .writeWlong h
  · exact .upd h
  · exact .upd h
  · exact h

theorem writeReg2 {r v} (h : s.memOk) : (s.writeReg2 r v).memOk := by
  unfold State.writeReg2
  split
  · exact .writeDcfg h
  · exact .writeTree h
  · exact .upd h
  · exact .upd h
  · exact .upd h
  · exact .upd h
  · exact .writeStk h
  · exact .setStack h
  · exact .upd h
  · exact .writeDomain h
  · exact .upd h
  · exact .upd h
  · exact .upd h
  · exact .writeCatArea h
  · exact .writeB2win h
  · exact .writeFpctl h
  · exact .setFp h
  · exact .setFp h
  · exact .writePctl h
  · exact .writeStation h
  · exact .upd h
  · exact .upd h
  · exact .routeLoad h
  · exact .routeLoad h
  · exact .updShown h
  · exact .updShown h
  · exact .upd h
  · exact .upd h
  · exact h

theorem writeReg {r v} (h : s.memOk) : (s.writeReg r v).memOk := .writeReg2 (.writeReg1 h)

theorem writePart {r part v} (h : s.memOk) : (s.writePart r part v).memOk := by
  unfold State.writePart
  split
  · exact .writeReg h
  · exact .writeReg h
  · exact .writeReg h
  · exact .writeReg h

theorem wakeRegs {rs} (h : s.memOk) : (s.wakeRegs rs).memOk := .upd h

theorem bar0Write {off size v} (h : s.memOk) : (s.bar0Write off size v).memOk := by
  unfold State.bar0Write
  split
  · exact .hostFault h
  · split
    · exact .hostFault h
    · split
      · exact .writePart (.wakeRegs h)
      · exact .foldl .writePart (.wakeRegs h)

theorem bar0Read {off size} (h : s.memOk) : (s.bar0Read off size).memOk := by
  unfold State.bar0Read
  dsimp only
  split
  · exact .answer (.hostFault h)
  · split
    · exact .answer (.hostFault h)
    · split
      · exact .answer (.useFree (.wakeRegs h))
      · exact .answer (.useFree (.wakeRegs h))

theorem msixWrite {i v} (h : s.memOk) : (s.msixWrite i v).memOk :=
  .ite h (.ite (.signal (.upd (.upd h))) (.upd h))

theorem bar4Write {off size v} (h : s.memOk) : (s.bar4Write off size v).memOk := by
  unfold State.bar4Write
  dsimp only
  split
  · exact .ite (.foldl .msixWrite h) (.hostFault h)
  · exact .ite (.subDoorbell h) (.ite (.rcpDoorbell h) (.ite (.directWrite h) (.hostFault h)))

theorem bar4Read {off size} (h : s.memOk) : (s.bar4Read off size).memOk := by
  unfold State.bar4Read
  split
  · exact .ite (.answer h) (.answer (.hostFault h))
  · exact .answer (.ite h (.hostFault h))

end State.memOk

namespace NextMemOk

variable {s t : State}

/-! ### Matrix -/

theorem mdeclSourceValid {p} (h : s.memOk) : NextMemOk (execMdeclSourceValid p s) := by
  unfold execMdeclSourceValid
  split
  · exact .next (.mRetry h)
  · exact .next h

theorem mdeclDatumExpiry {p} (h : s.memOk) : NextMemOk (execMdeclDatumExpiry p s) := by
  unfold execMdeclDatumExpiry
  split
  · split
    · split
      · exact .next (.endEntry (.count h))
      · exact .next (.mFeed (.mSettle h (.mdecl h)))
    · exact .next h
  · exact .next h

theorem maccStep {p} (h : s.memOk) : NextMemOk (execMaccStep p s) := by
  unfold execMaccStep
  split
  · split
    · exact .next (.maccStep h)
    · exact .next h
  · exact .next h

theorem segmentDrainEnd {p seg} (h : s.memOk) : NextMemOk (execSegmentDrainEnd p seg s) := by
  unfold execSegmentDrainEnd
  split
  · exact .next (.drainEnd h)
  · exact .next h

theorem mfinStagingFree {p} (h : s.memOk) : NextMemOk (execMfinStagingFree p s) := by
  unfold execMfinStagingFree
  split
  · exact .next (.mRetry h)
  · exact .next h

theorem mfinStagingExpiry {p} (h : s.memOk) : NextMemOk (execMfinStagingExpiry p s) := by
  unfold execMfinStagingExpiry
  split
  · split
    · split
      · exact .ite (.next (.endEntry (.log (.count h)))) (.next h)
      · exact .next (.mFeed (.mSettle h (.mfin h)))
    · exact .next h
  · exact .next h

/-! ### Vector -/

theorem vGroup {p} (h : s.memOk) : NextMemOk (execVGroup p s) := by
  unfold execVGroup
  split
  · split
    · exact .next (.vGroup h)
    · exact .next h
  · exact .next h

/-! ### SyncCmds -/

theorem stakeWaitExpiry {u q} (h : s.memOk) : NextMemOk (execStakeWaitExpiry u q s) := by
  unfold execStakeWaitExpiry
  split
  · exact .next (.stakeExpiry h)
  · exact .next (.foldl (fun h1 => .onSaved h1 .stakeExpiry) h)

theorem fenceComplete {u q} (h : s.memOk) : NextMemOk (execFenceComplete u q s) := by
  unfold execFenceComplete
  split
  · exact .next (.fenceDone h)
  · exact .next h

theorem carr {u q e} (h : s.memOk) : NextMemOk (execCarr u q e s) := by
  unfold execCarr
  split
  · exact .next (.refuse h)
  · exact .next (.syncIssue h .carr)

theorem queueFetchFault {u q} (h : s.memOk) : NextMemOk (execQueueFetchFault u q s) := by
  unfold execQueueFetchFault
  split
  · exact .next h
  · exact .ite (.next (.fetchFault h)) (.ite (.next (.fetchFault (.fbUnc h))) (.next h))

/-! ### Archive -/

theorem archiveSliceServe {c} (h : s.memOk) : NextMemOk (execArchiveSliceServe c s) := by
  refine .next (.ageSlice (.serveOne (.serveOne ?_)))
  split
  · exact .ite (.readVerdict (.askWaiting h)) (.askWaiting h)
  · exact .askWaiting h

theorem archiveRequestComplete {n} (h : s.memOk) : NextMemOk (execArchiveRequestComplete n s) := by
  unfold execArchiveRequestComplete
  split
  · exact .next (.requestDone h)
  · exact .next h

theorem archiveT1Expiry {p} (h : s.memOk) : NextMemOk (execArchiveT1Expiry p s) := by
  unfold execArchiveT1Expiry
  split
  · split
    · exact .next (.t1Expiry h)
    · exact .next h
  · exact .next h

theorem fieldbookScrub {p granule r} (h : s.memOk) : NextMemOk (execFieldbookScrub p granule r s) := by
  unfold execFieldbookScrub
  split
  · exact .next h
  · split
    · exact .next h
    · exact .next (.scrubCorrect h)
    · exact .next (.fbUnc (.lose h))

theorem archivePatrolScrub {n line r} (h : s.memOk) :
    NextMemOk (execArchivePatrolScrub n line r s) := by
  unfold execArchivePatrolScrub
  extract_lets a held s1
  have h1 : s1.memOk := .countAll h
  refine .ite (.next h) ?_
  split
  · exact .next (.ite (.log h1) h1)
  · exact .next (.count h1)
  · exact .next (.scrubLost h1)

theorem bar2Read {off len} (h : s.memOk) : NextMemOk (execBar2Read off len s) := by
  unfold execBar2Read
  split
  · exact .next (.answer (.hostFault h))
  · exact .ite (.next (.answer h)) (.ite (.next (.answer (.lineUnc h))) (.next (.answer (.access h))))

theorem bar2Write {off bytes} (h : s.memOk) : NextMemOk (execBar2Write off bytes s) := by
  unfold execBar2Write
  split
  · exact .next (.hostFault h)
  · exact .ite (.next h) (.next (.access (.write h)))

theorem shelfModeChangeDone {shelf} (h : s.memOk) : NextMemOk (execShelfModeChangeDone shelf s) := by
  unfold execShelfModeChangeDone
  dsimp only
  split
  · exact .ite (.next h) (.next (.partitionCheck (.shelfNext (.shelfTakes h))))
  · exact .next h

/-! ### Bindery -/

theorem hbmTempReading {h' temp} (h : s.memOk) : NextMemOk (execHbmTempReading h' temp s) :=
  .ite (.next h) (.ite (.next (.bndStop (.log (.count (.setStack h))))) (.next (.setStack h)))

theorem hbmPatrolRead {line r row day} (h : s.memOk) :
    NextMemOk (execHbmPatrolRead line r row day s) := by
  unfold execHbmPatrolRead
  dsimp only
  split
  · exact .next h
  · split
    · exact .next (.count h)
    · exact .next (.setStack (.count (.count h)))
    · exact .next (.log (.count (.patrolLoses (.setStack (.count h)))))

theorem binderyWaitExpiry {h'} (h : s.memOk) : NextMemOk (execBinderyWaitExpiry h' s) := by
  unfold execBinderyWaitExpiry
  split
  · exact .next h
  · split
    · exact .ite (.next (.bndEnd (.bndUnregister (.count h)))) (.next (.upd h))
    · exact .next (.bndUnregister h)

theorem bEnd {h'} (h : s.memOk) : NextMemOk (execBEnd h' s) := by
  unfold execBEnd
  split
  · exact .next h
  · dsimp only
    split
    · exact .next (.bndAdvance (.bndClose h))
    · exact .ite (.next (.bndAdvance (.bndClose h))) (.next (.endedCheck (.setBindery (.bndClose h))))

theorem bJmp {h'} (h : s.memOk) : NextMemOk (execBJmp h' s) := by
  unfold execBJmp
  split
  · exact .next h
  · dsimp only
    split
    · exact .next (.bndAdvance (.bndClose h))
    · exact .ite (.next (.bndAdvance (.bndClose h))) (.next (.setBindery (.bndClose h)))

theorem binderyDescriptorDone {h'} (h : s.memOk) : NextMemOk (execBinderyDescriptorDone h' s) := by
  unfold execBinderyDescriptorDone
  split
  · exact .ite (.next (.bndEnd h)) (.next h)
  · exact .next h

/-! ### Links -/

theorem frameSend {p t} (h : s.memOk) : NextMemOk (execFrameSend p t s) := by
  unfold execFrameSend
  extract_lets s1 v
  have h1 : s1.memOk := .timeAt h
  exact .ite (.next h1) (.ite (.next (.sendFrame h1)) (.ite (.next (.sendTraining h1)) (.next h1)))

theorem frameReceive {p t fec bytes} (h : s.memOk) : NextMemOk (execFrameReceive p t fec bytes s) := by
  unfold execFrameReceive
  dsimp only
  split
  · exact .next h
  · split
    · exact .next (.count (.setPort (.fecCount (.timeAt h))))
    · split
      · exact .next (.takeFrame (.fecCount (.timeAt h)))
      · exact .next (.setPort (.fecCount (.timeAt h)))
      · exact .next (.malformedAt (.fecCount (.timeAt h)))

theorem trainingFrameReceive {p t fec bytes} (h : s.memOk) :
    NextMemOk (execTrainingFrameReceive p t fec bytes s) := by
  unfold execTrainingFrameReceive
  extract_lets s1 v broken ftype ts s2
  have h1 : ∀ {v}, (s1.setPort p.val v).memOk := .setPort (.fecCount (.timeAt h))
  refine .ite (.next h) (.ite (.next (.count h1)) (.ite (.next h1) (.ite (.next (.malformedAt h1)) ?_)))
  exact .ite (.next (.takeAlign h1)) (.ite (.next (.takeDelay h1)) (.ite (.next h1) (.next (.takeExchange h1))))

theorem laneSignalChange {p lanes} (h : s.memOk) : NextMemOk (execLaneSignalChange p lanes s) := by
  unfold execLaneSignalChange
  extract_lets n old s1 v
  have h1 : s1.memOk := .setPort h
  refine .ite (.next h) (.ite (.next (.detect h1)) (.ite (.next h1) ?_))
  exact .ite (.next (.linkLost h1)) (.ite (.next (.trainingFails h1)) (.next h1))

/-! ### Packets -/

theorem stentry {k} (h : s.memOk) : NextMemOk (execStentry k s) := by
  have h1 : (s.take k).memOk := .take h
  refine .ite (.next h) (.ite (.next (.reject h1)) (.ite (.next (.malformed h1)) ?_))
  exact .ite (.next h1) (.next (.tractEntry h1))

theorem stjoin {k} (h : s.memOk) : NextMemOk (execStjoin k s) :=
  .next (.onFw h fun h1 => by
    dsimp only
    exact .iteFst h1 (.upd h1))

theorem fwmsgRetryExpiry {mseq} (h : s.memOk) : NextMemOk (execFwmsgRetryExpiry mseq s) := by
  unfold execFwmsgRetryExpiry
  split
  · exact .next h
  · exact .ite (.next (.sendOn (.upd h))) (.next (.messageEnds h))

/-! ### Collectives -/

theorem colOpen {h' r schild} (h : s.memOk) : NextMemOk (execColOpen h' r schild s) :=
  .next (.command h fun h1 => by
  split
  · exact .finish (.ite (.planUnc h1) h1)
  · exact .begin (.setCol (.planRead h1)))

theorem colClose {h' handle} (h : s.memOk) : NextMemOk (execColClose h' handle s) :=
  .next (.command h fun h1 => by
  split
  · exact .finish h1
  · exact .ite (.finish h1) (.ite (.finish h1) (.finish (.upd (.dropTiles h1)))))

theorem colArm {handle} (h : s.memOk) : NextMemOk (execColArm handle s) := by
  unfold execColArm
  split
  · exact .next h
  · exact .ite (.next (.prepare (.setCol (.consumeRef h)))) (.next h)

theorem colStart {handle} (h : s.memOk) : NextMemOk (execColStart handle s) := by
  unfold execColStart
  split
  · exact .next h
  · exact .ite (.next (.runBegin (.setCol (.consumeRef h)))) (.next h)

theorem colTileAccept {handle} (h : s.memOk) : NextMemOk (execColTileAccept handle s) := by
  unfold execColTileAccept
  split
  · exact .next h
  · exact .ite (.next (.colPlanned h fun h1 => .ite (.takeStaged h1) (.takeSrc h1))) (.next h)

theorem permScratchCopy {handle} (h : s.memOk) : NextMemOk (execPermScratchCopy handle s) := by
  unfold execPermScratchCopy
  split
  · exact .next h
  · exact .ite (.next (.colGuard h fun h1 => .updRun (.foldl .write h1))) (.next h)

theorem colRunComplete {handle waitns} (h : s.memOk) :
    NextMemOk (execColRunComplete handle waitns s) := by
  unfold execColRunComplete
  split
  · exact .next h
  · exact .ite (.next (.colComplete h)) (.next h)

theorem colT3Expiry {handle} (h : s.memOk) : NextMemOk (execColT3Expiry handle s) := by
  unfold execColT3Expiry
  split
  · exact .next h
  · exact .ite (.next h) (.ite (.next (.colComplete h)) (.next (.colFailOwn (.log (.count h)))))

/-! ### Counters -/

theorem counterDeltaMove {k n} (h : s.memOk) : NextMemOk (execCounterDeltaMove k n s) :=
  .ite (.next (.upd h)) (.next h)

theorem snapshotCopyDone (h : s.memOk) : NextMemOk (execSnapshotCopyDone s) := by
  unfold execSnapshotCopyDone
  split
  · exact .next h
  · refine .ite ?_ ?_
    · exact .next (.finishAll (.copied (.access (.snapWrite h))))
    · exact .next (.finishAll (.count (.copyMissed h)))

theorem snapshot {h' tag} (h : s.memOk) : NextMemOk (execSnapshot h' tag s) :=
  .next (.command h fun h1 => .ite (.finish h1) (by
    split
    · exact .begin (.of_eq ‹_› (.snapRequest h1))
    · exact .finish (.of_eq ‹_› (.snapRequest h1))))

/-! ### CtxCmds -/

theorem ctxLoad {h' c addr read} (h : s.memOk) : NextMemOk (execCtxLoad h' c addr read s) :=
  .next (.command h fun h1 => .ite (.finish h1) (by
    dsimp only
    split
    · exact .finish (.ite (.lineUnc (.headerRead h1)) (.headerRead h1))
    · exact .finish (.initStakes (.setCtx (.purge (.headerRead h1))))))

theorem ctxUnload {h' c} (h : s.memOk) : NextMemOk (execCtxUnload h' c s) :=
  .next (.command h fun h1 => .ite (.finish h1) (by
    split
    · exact .finish h1
    · exact .finish (.setCtx (.purge h1))
    · exact .settleAll (.finish (.setCtx (.purge h1)))
    · exact .finish h1))

theorem queueResume {h' path q c gadr} (h : s.memOk) : NextMemOk (execQueueResume h' path q c gadr s) :=
  .next (.command h fun h1 => .ite (.finish h1) (by
    split
    · exact .finish h1
    · exact .ite (.finish h1) (.ite (.finish h1) (.finish (.onSaved h1 .resumeQueue)))))

theorem catSave {h' first count addr} (h : s.memOk) : NextMemOk (execCatSave h' first count addr s) :=
  .next (.command h fun h1 => .catImage h1 fun h2 => .finish (.access (.captureWrite (.storeCat h2))))

theorem catLoad {h' first count addr} (h : s.memOk) : NextMemOk (execCatLoad h' first count addr s) := by
  refine .next (.command h fun h1 => .catImage h1 fun h2 => .ite (.finish (.uncRead h2)) ?_)
  exact .ite (.finish h2) (.finish (.catCommand (.access h2)))

theorem catSeedRequest {c} (h : s.memOk) : NextMemOk (execCatSeedRequest c s) := by
  unfold execCatSeedRequest
  dsimp only
  split
  · exact .next (.checkArea h)
  · exact .ite (.next (.upd (.takeStake (.checkArea h)))) (.next (.seedRequest (.takeStake (.checkArea h))))

/-! ### Rings -/

theorem commandFetch {q us error slot params} (h : s.memOk) :
    NextMemOk (execCommandFetch q us error slot params s) := by
  refine .ite (.next h) (.ite (.next (.fetchError h)) (.ite (.next (.stall h)) (.ite (.next (.stall h)) ?_)))
  exact .ite (.next (.fetchError h)) (.next (.takeSlotCmd h))

theorem commandT4Expiry {h'} (h : s.memOk) : NextMemOk (execCommandT4Expiry h' s) := by
  unfold execCommandT4Expiry
  split
  · exact .next (.expire h)
  · exact .next h

/-! ### Power -/

theorem oppSwitch (h : s.memOk) : NextMemOk (execOppSwitch s) := by
  unfold execOppSwitch
  split
  · exact .ite (.ite (.next h) (.next (.count (.upd h)))) (.next (.oppSwitchNow h))
  · exact .next h

theorem oppVoltageRampDone (h : s.memOk) : NextMemOk (execOppVoltageRampDone s) := by
  unfold execOppVoltageRampDone
  split
  · exact .next (.upd h)
  · exact .next h

theorem droopEventEnd (h : s.memOk) : NextMemOk (execDroopEventEnd s) := by
  unfold execDroopEventEnd
  split
  · exact .next h
  · dsimp only
    split
    · exact .next (.oppSwitchNow (.upd h))
    · exact .next (.upd h)

theorem powerUpdate {t watts measured milliamps bins} (h : s.memOk) :
    NextMemOk (execPowerUpdate t watts measured milliamps bins s) := by
  unfold execPowerUpdate
  extract_lets s1 p s2
  have h1 : s1.memOk := .timeAt h
  have h2 : s2.memOk := .upd h1
  exact .next (.episodes (.powerCounts h2))

theorem thermalReading {tmax} (h : s.memOk) : NextMemOk (execThermalReading tmax s) := by
  unfold execThermalReading
  extract_lets t p p1 s1
  have h1 : s1.memOk := .upd h
  exact .ite (.next (.trip h1)) (.ite (.next (.warmReset h1)) (.next h1))

theorem tceilUpdate (h : s.memOk) : NextMemOk (execTceilUpdate s) := .next (.upd h)

theorem fillerRelease {t} (h : s.memOk) : NextMemOk (execFillerRelease t s) := by
  unfold execFillerRelease
  dsimp only
  split
  · exact .ite (.next (.upd (.timeAt h))) (.next (.timeAt h))
  · exact .next (.timeAt h)

theorem powerCap {h' watts} (h : s.memOk) : NextMemOk (execPowerCap h' watts s) :=
  .next (.command h fun h1 => by
    split
    · exact .finish h1
    · exact .finish (.upd h1))

theorem oppoint {h' point} (h : s.memOk) : NextMemOk (execOppoint h' point s) :=
  .next (.command h fun h1 => by
    split
    · exact .finish h1
    · exact .finish (.oppRequest h1))

/-! ### Stakeouts -/

theorem bearingLost {t} (h : s.memOk) : NextMemOk (execBearingLost t s) :=
  .ite (.next (.log (.upd (.timeAt h)))) (.next (.timeAt h))

theorem snap {n t} (h : s.memOk) : NextMemOk (execSnap n t s) :=
  .next (.fires h fun h1 => by
    split
    · exact .of_eq ‹_› (.snapRequest h1)
    · exact .brgNop (.of_eq ‹_› (.snapRequest h1)))

theorem oppointAction {n t} (h : s.memOk) : NextMemOk (execOppointAction n t s) :=
  .next (.fires h fun h1 => .unlessD3 h1 fun h2 => .unlessDrained h2 .oppRequest)

theorem filler {n t} (h : s.memOk) : NextMemOk (execFiller n t s) :=
  .next (.fires h fun h1 => .unlessD3 h1 fun h2 => .unlessDrained h2 fun h3 => by
    split
    · exact .of_eq ‹_› (.fillerFire h3)
    · exact .brgNop (.of_eq ‹_› (.fillerFire h3)))

/-! ### HostCmds -/

theorem shelfPartition {h' shelves} (h : s.memOk) : NextMemOk (execShelfPartition h' shelves s) := by
  refine .next (.command h fun h1 => .ite (.finish h1) (.ite (.finish h1) (.ite (.finish h1) ?_)))
  exact .foldl .shelfNext (.foldl .shelfBegins (.begin h1))

theorem binderyRun {h' stack desc} (h : s.memOk) : NextMemOk (execBinderyRun h' stack desc s) :=
  .next (.command h fun h1 => .ite (.finish h1) (.ite (.finish h1) (.ite (.finish h1) (.setBindery (.begin h1)))))

theorem binderyRestart {h' stackMask ctxs skip} (h : s.memOk) :
    NextMemOk (execBinderyRestart h' stackMask ctxs skip s) :=
  .next (.command h fun h1 => .ite (.finish h1) (.finish (.foldl (fun h2 => .foldl .bndResume h2) h1)))

theorem fabricSetup {h' sn lockSn lockSize size b} (h : s.memOk) :
    NextMemOk (execFabricSetup h' sn lockSn lockSize size b s) :=
  .next (.command h fun h1 => .ite (.finish h1) (.ite (.finish h1) (.finish (.upd h1))))

theorem stractSetup {h' handle home order members} (h : s.memOk) :
    NextMemOk (execStractSetup h' handle home order members s) := by
  refine .next (.command h fun h1 => .ite (.finish h1) (.ite (.finish h1) (.ite (.finish h1) ?_)))
  exact .ite (.awaitMacks (.upd h1) .joinMembers) (.finish (.upd h1))

theorem stractRelease {h' handle} (h : s.memOk) : NextMemOk (execStractRelease h' handle s) :=
  .next (.command h fun h1 => by
    split
    · exact .finish h1
    · exact .ite (.awaitMacks (.dropStract h1) fun h2 => .foldl .fwmsg h2) (.finish (.dropStract h1)))

theorem closureSetup {h' cid ctx nchild parent limit nlocal list} (h : s.memOk) :
    NextMemOk (execClosureSetup h' cid ctx nchild parent limit nlocal list s) := by
  refine .next (.command h fun h1 => .ite (.finish h1) (.ite (.finish h1) (.ite (.finish h1) ?_)))
  refine .ite (.finish (.uncRead h1)) ?_
  split
  · exact .finish h1
  · exact .finish (.setupClosure (.access h1))

theorem closureRelease {h' cid} (h : s.memOk) : NextMemOk (execClosureRelease h' cid s) :=
  .next (.command h fun h1 => .ite (.finish h1) (.ite (.finish h1) (.finish (.setClosure h1))))

theorem stakeoutWrite {h' n w0 w1 w2 w3} (h : s.memOk) : NextMemOk (execStakeoutWrite h' n w0 w1 w2 w3 s) :=
  .next (.command h fun h1 => .ite (.finish h1) (.finish (.ite h1 (.stakeoutCommit (.upd h1)))))

/-! ### Resets -/

theorem mrstAssert (h : s.memOk) : NextMemOk (execMrstAssert s) := .next (.cold h)

theorem coldReset (h : s.memOk) : NextMemOk (execColdReset s) := by
  unfold execColdReset
  extract_lets found s1 s2 s3
  have h1 : s1.memOk := .foldl .bootImage (.bootTables (.cold h))
  have h2 : s2.memOk := .foldl .stackFails (.catLose h1)
  have h3 : s3.memOk := .ite (.foldl (fun h => .ite (.detect h) h) h2) h2
  exact .ite (.next (.bootNext (.ite (.drainDevice h3) h3))) (.next h)

theorem d3hotEntry (h : s.memOk) : NextMemOk (execD3hotEntry s) := by
  unfold execD3hotEntry
  extract_lets naps m s1 s2 s3
  have h1 : s1.memOk := .upd h
  have h2 : s2.memOk := .sliceTurn (.foldl .napCtx (.bndStopAll h1))
  have h3 : s3.memOk := .ite (.colsFail (.foldl (fun h => .ite (.subportQuiesce h) h) h2)) h2
  exact .ite (.next h) (.next (.upd h3))

theorem refClockWindow {hz lhz} (h : s.memOk) : NextMemOk (execRefClockWindow hz lhz s) := by
  unfold execRefClockWindow
  extract_lets m h' l lostH lostL back s1 s2 s3
  have h1 : s1.memOk := .upd h
  have h2 : s2.memOk := .ite (.log h1) h1
  have h3 : s3.memOk := .ite (.logNew h2) (.ite (.log h2) h2)
  exact .next (.ite (.refLink h3) (.ite (.refLink h3) h3))

theorem fieldReportRepeat {rseq} (h : s.memOk) : NextMemOk (execFieldReportRepeat rseq s) := by
  unfold execFieldReportRepeat
  split
  · exact .next h
  · exact .ite (.next (.count (.upd h))) (.next (.count (.reportOut (.upd h))))

theorem tapInstruction {i} (h : s.memOk) : NextMemOk (execTapInstruction i s) := by
  unfold execTapInstruction
  split
  · exact .next (.answer h)
  · exact .next (.answer h)
  · exact .ite .refused (.next h)

/-! ### Service -/

theorem waitLimits {h' mask t0 t1 t2 t3 t4 t5} (h : s.memOk) :
    NextMemOk (execWaitLimits h' mask t0 t1 t2 t3 t4 t5 s) :=
  .next (.command h fun h1 => .ite (.finish h1) (.finish (.upd h1)))

theorem replayStep {h' rev} (h : s.memOk) : NextMemOk (execReplayStep h' rev s) :=
  .next (.command h fun h1 => by
    dsimp only
    refine .ite (.finish h1) (.ite (.finish h1) (.ite (.finish (.uncRead h1)) (.ite (.finish h1) ?_)))
    exact .begin (.withReplay (.applyCat h1)))

theorem unitQuiesce {h' code} (h : s.memOk) : NextMemOk (execUnitQuiesce h' code s) :=
  .next (.command h fun h1 => by
    split
    · exact .finish h1
    · exact .ite (.finish h1) (.quiesceOnce (.begin h1))
    · exact .finish h1)

theorem unitReset {h' code} (h : s.memOk) : NextMemOk (execUnitReset h' code s) :=
  .next (.command h fun h1 => by
    split
    · exact .finish h1
    · exact .ite (.resetByCommand h1) (.quiesceOnce (.begin h1))
    · exact .finish h1)

theorem unitResume {h' code} (h : s.memOk) : NextMemOk (execUnitResume h' code s) :=
  .next (.command h fun h1 => by
    split
    · exact .finish h1
    · exact .finish (.unitResume h1)
    · exact .finish h1)

theorem spareSwap {h' path} (h : s.memOk) : NextMemOk (execSpareSwap h' path s) :=
  .next (.command h fun h1 => .ite (.finish h1) (by
    split
    · exact .finish (.spareSwap h1)
    · exact .finish h1))

theorem quiesceAcceptedDone {code} (h : s.memOk) : NextMemOk (execQuiesceAcceptedDone code s) := by
  unfold execQuiesceAcceptedDone
  split
  · exact .ite (.next (.quiesceEnds h)) (.next h)
  · exact .next h

theorem quiesceBoundExpiry {code} (h : s.memOk) : NextMemOk (execQuiesceBoundExpiry code s) := by
  unfold execQuiesceBoundExpiry
  split
  · exact .ite (.next (.quiesceEnds (.quiesceDrops h))) (.next h)
  · exact .next h

theorem watchdogExpiry {code t} (h : s.memOk) : NextMemOk (execWatchdogExpiry code t s) := by
  unfold execWatchdogExpiry
  dsimp only
  split
  · exact .next (.ite (.watchdog (.timeAt h) .count) (.timeAt h))
  · exact .next (.ite (.watchdog (.timeAt h) .unitReset) (.timeAt h))

theorem debugOpen {h' rec sig sigOk} (h : s.memOk) : NextMemOk (execDebugOpen h' rec sig sigOk s) := by
  refine .next (.command h fun h1 => .ite (.finish h1) (.ite (.finish h1) (.ite (.finish h1) ?_)))
  exact .ite (.finish h1) (.ite (.finish h1) (.finish (.openDebug h1)))

theorem imageStage {h' cls addr len img sigOk} (h : s.memOk) :
    NextMemOk (execImageStage h' cls addr len img sigOk s) := by
  refine .next (.command h fun h1 => .ite (.finish h1) (.ite (.finish h1) ?_))
  split
  · exact .finish h1
  · split
    · exact .finish h1
    · exact .finish (.upd h1)

theorem imageActivate {h' cls code applies} (h : s.memOk) :
    NextMemOk (execImageActivate h' cls code applies s) := by
  refine .next (.command h fun h1 => .ite (.finish h1) (.ite (.finish h1) ?_))
  split
  · exact .finish h1
  · exact .finish h1
  · exact .ite (.finish h1) (.activate h1)

theorem spdmMessage {m} (h : s.memOk) : NextMemOk (execSpdmMessage m s) := by
  unfold execSpdmMessage
  dsimp only
  split
  · exact .ite (.next (.answer (.upd (.useFree h)))) (.next (.spdmError h))
  · exact .ite (.next (.answer (.upd h))) (.next (.spdmError h))
  · exact .ite (.next (.answer (.upd h))) (.next (.spdmError h))
  · exact .ite (.next (.answer (.upd h))) (.next (.spdmError h))

theorem jobKeyMessage {m} (h : s.memOk) : NextMemOk (execJobKeyMessage m s) := by
  unfold execJobKeyMessage
  dsimp only
  split
  · exact .next (.spdmError h)
  · split
    · exact .next (.answer (.upd h))
    · exact .next (.answer h)

/-! ### Regs -/

theorem bar0InvalidAccess {bar4 write off size v} (h : s.memOk) :
    NextMemOk (execBar0InvalidAccess bar4 write off size v s) := by
  refine .next ?_
  split
  · exact .bar4Write h
  · exact .bar4Read h
  · exact .bar0Write h
  · exact .bar0Read h

end NextMemOk

/-- Every command leaves canonical memories canonical. -/
theorem exec_memOk {s : State} (h : s.memOk) : ∀ c : Instr, NextMemOk (exec c s)
  | .regWrite .. => .next (.bar0Write h)
  | .bar0InvalidAccess .. => .bar0InvalidAccess h
  | .mdecl .. => .next (.mIssue h)
  | .mdeclSourceValid .. => .mdeclSourceValid h
  | .mdeclDatumExpiry .. => .mdeclDatumExpiry h
  | .mopen .. => .next (.mIssue h)
  | .macc .. => .next (.mIssue h)
  | .maccStep .. => .maccStep h
  | .mfin .. => .next (.mIssue h)
  | .segmentDrainEnd .. => .segmentDrainEnd h
  | .mfinStagingFree .. => .mfinStagingFree h
  | .mfinStagingExpiry .. => .mfinStagingExpiry h
  | .msum .. => .next (.mIssue h)
  | .msave .. => .next (.mIssue h)
  | .mload .. => .next (.mIssue h)
  | .vset .. => .next (.vIssue h)
  | .vadd .. => .next (.vIssue h)
  | .vsub .. => .next (.vIssue h)
  | .vmul .. => .next (.vIssue h)
  | .vfma .. => .next (.vIssue h)
  | .vmin .. => .next (.vIssue h)
  | .vmax .. => .next (.vIssue h)
  | .vabs .. => .next (.vIssue h)
  | .vneg .. => .next (.vIssue h)
  | .vcvt .. => .next (.vIssue h)
  | .vcmp .. => .next (.vIssue h)
  | .vsel .. => .next (.vIssue h)
  | .vfun .. => .next (.vIssue h)
  | .vsweep .. => .next (.vIssue h)
  | .vred .. => .next (.vIssue h)
  | .vperm .. => .next (.vIssue h)
  | .vgath .. => .next (.vIssue h)
  | .vGroup .. => .vGroup h
  | .swait .. => .next (.syncIssue h .stakeWait)
  | .swaitc .. => .next (.syncIssue h .stakeWait)
  | .sset .. => .next (.stakeEntry h)
  | .sclr .. => .next (.stakeEntry h)
  | .stakeWaitExpiry .. => .stakeWaitExpiry h
  | .sfence .. => .next (.syncIssue h fun h1 => .fence h1 .endEntry)
  | .fenceComplete .. => .fenceComplete h
  | .carr .. => .carr h
  | .cwait .. => .next (.syncIssue h .cwait)
  | .closureT3Expiry .. => .ite (.next (.closureFail (.log (.count h)))) (.next h)
  | .shnd .. => .next (.syncIssue h .queueOp)
  | .sjmp .. => .next (.syncIssue h .queueOp)
  | .sldc .. => .next (.syncIssue h .queueOp)
  | .send .. => .next (.syncIssue h fun h1 => .endedCheck (.queueOp h1))
  | .queueFetchFault .. => .queueFetchFault h
  | .xget .. => .next (.xIssue h)
  | .xput .. => .next (.xIssue h)
  | .xatom .. => .next (.xIssue h)
  | .archiveSliceServe .. => .archiveSliceServe h
  | .archiveRequestComplete .. => .archiveRequestComplete h
  | .archiveT1Expiry .. => .archiveT1Expiry h
  | .fieldbookScrub .. => .fieldbookScrub h
  | .archivePatrolScrub .. => .archivePatrolScrub h
  | .bar2Read .. => .bar2Read h
  | .bar2Write .. => .bar2Write h
  | .barAtomicopRequest .. => .next (.answer h)
  | .shelfModeChangeDone .. => .shelfModeChangeDone h
  | .fpScanDone .. => .next (.fpScanEnd h)
  | .hbmTempReading .. => .hbmTempReading h
  | .hbmPatrolRead .. => .hbmPatrolRead h
  | .hbmEcsRead .. => .next (.count (.setStack h))
  | .hbmSoftRepair .. => .ite (.next (.count (.setStack h))) (.next h)
  | .binderyDispatch .. => .ite (.next h) (.next (.bndScan h))
  | .binderyWaitExpiry .. => .binderyWaitExpiry h
  | .bEnd .. => .bEnd h
  | .bOpt .. => .next (.bndOperate h)
  | .bReq .. => .next (.bndOperate h)
  | .bAmax .. => .next (.bndOperate h)
  | .bFpr .. => .next (.bndOperate h)
  | .bGath .. => .next (.bndOperate h)
  | .bScat .. => .next (.bndOperate h)
  | .bJmp .. => .bJmp h
  | .binderyDescriptorDone .. => .binderyDescriptorDone h
  | .frameSend .. => .frameSend h
  | .frameReceive .. => .frameReceive h
  | .trainingFrameReceive .. => .trainingFrameReceive h
  | .replayPendingExpiry .. => .ite (.next (.linkLost h)) (.next h)
  | .trainingLimitExpiry .. => .ite (.next (.trainingFails h)) (.next h)
  | .laneSignalChange .. => .laneSignalChange h
  | .retrain .. => .next (.foldl .trainIfEnabled h)
  | .wenPortDisable .. => .next (.portDisable h)
  | .subportQuiesceDone .. => .ite (.next (.subportDown h)) (.ite (.next (.followDown h)) (.next h))
  | .packetForward .. => .ite (.next (.reject (.take h))) (.ite (.next h) (.next (.routePacket (.take h))))
  | .data .. => .ite (.next h) (.next (.onPacket h .onData))
  | .cack .. => .next (.onPacket h .onCack)
  | .notice .. => .next (.onPacket h .takeNotice)
  | .epoch .. => .next (.onPacket h .onEpoch)
  | .benchmark .. => .next (.onPacket h .onToken)
  | .arrive .. => .next (.onPacket h .onArrive)
  | .complete .. => .next (.onPacket h .onComplete)
  | .fail .. => .next (.onPacket h .onFail)
  | .slipred .. => .next (.onPacket h .onSlipred)
  | .stentry .. => .stentry h
  | .stake .. => .next (.onPacket h .onStake)
  | .stjoin .. => .stjoin h
  | .stleave .. => .next (.onFw h fun h1 => .upd h1)
  | .routepush .. => .next (.onFw h fun h1 => .iteFst h1 (.iteFst h1 (.routeLoad h1)))
  | .relay .. => .next (.onFw h fun h1 => .ite (.upd h1) h1)
  | .mack .. => .next (.onPacket h fun h1 => .ite h1 (.ite (.reject h1) (.onMack h1)))
  | .fwmsgRetryExpiry .. => .fwmsgRetryExpiry h
  | .colOpen .. => .colOpen h
  | .admissionRound .. => .next (.foldl .admitCol h)
  | .colClose .. => .colClose h
  | .colArm .. => .colArm h
  | .colStart .. => .colStart h
  | .colTileAccept .. => .colTileAccept h
  | .permScratchCopy .. => .permScratchCopy h
  | .colRunComplete .. => .colRunComplete h
  | .colT3Expiry .. => .colT3Expiry h
  | .bearingRunStart .. => .next (.runSet h)
  | .bearingRunStop .. => .next (.runStop h)
  | .bearingUnlock .. => .next (.ite (.datumRuns (.roleChange h)) (.tpvClear h))
  | .bearingTop .. => .ite (.next (.upd (.timeAt h))) (.next (.timeAt h))
  | .benchmarkEmit .. => .ite (.next (.emitToken (.timeAt h))) (.next (.timeAt h))
  | .bearingCoast .. => .ite (.next (.upd (.timeAt h))) (.next (.timeAt h))
  | .bearingLost .. => .bearingLost h
  | .brgStkCommit .. => .next (.ite (.stakeoutBar0 h) (.hostFault h))
  | .setstake .. => .next (.fires h fun h1 => .unlessDrained h1 .setStakeAction)
  | .snap .. => .snap h
  | .ctxstart .. => .next (.fires h fun h1 => .unlessD3 h1 fun h2 => .unlessDrained h2 .ctxIssue)
  | .ctxpre .. => .next (.fires h fun h1 => .unlessD3 h1 .ctxIssue)
  | .oppointAction .. => .oppointAction h
  | .filler .. => .filler h
  | .fpflush .. => .next (.fires h .fpFlushRange)
  | .phasemark .. => .next (.fires h .phaseMark)
  | .stepEdge .. => .ite (.next (.timeAt h)) (.ite (.next (.count (.timeAt h))) (.next (.upd (.timeAt h))))
  | .catSeedRequest .. => .catSeedRequest h
  | .ctxSliceInDone .. => .ite (.next (.sliceInDone (.imageAccess (.copyReport h)))) (.next h)
  | .ctxSliceOutDone .. => .ite (.next (.sliceOutDone (.imageAccess (.copyReport h)))) (.next h)
  | .ctxParked .. => .ite (.next (.parked (.xPark (.bndPark h)))) (.next h)
  | .submissionDoorbell .. => .next (.subDoorbell h)
  | .receiptDoorbell .. => .next (.rcpDoorbell h)
  | .directWord .. => .next (.directWrite h)
  | .submissionRingEnable .. => .next (.hostWrite h .subEnable)
  | .receiptRingEnable .. => .next (.hostWrite h .rcpEnable)
  | .commandFetch .. => .commandFetch h
  | .receiptSignalTimer .. => .ite (.next (.signal (.setRcp h))) (.next h)
  | .commandT4Expiry .. => .commandT4Expiry h
  | .nop .. => .next (.command h .finish)
  | .identify .. => .next (.command h fun h1 => .ite (.finish h1) (.finish (.hostOut h1)))
  | .health .. => .next (.command h .finish)
  | .warmReset .. => .next (.command h fun h1 => .requestWarm (.begin h1))
  | .faultLogRead .. => .next (.command h fun h1 => .ite (.finish h1) (.finish (.hostOut h1)))
  | .shelfPartition .. => .shelfPartition h
  | .binderyRun .. => .binderyRun h
  | .binderyRestart .. => .binderyRestart h
  | .catConfig .. => .next (.command h fun h1 => .ite (.finish h1) (.finish (.catCommand h1)))
  | .catSave .. => .catSave h
  | .catLoad .. => .catLoad h
  | .catUnseed .. => .next (.command h fun h1 => .ite (.finish h1) (.finish (.catCommand h1)))
  | .fpFlush .. => .next (.command h fun h1 => .ite (.finish h1) (.finish (.fpFlushRange h1)))
  | .ownerSet .. => .next (.command h fun h1 => .ite (.finish (.upd h1)) (.finish h1))
  | .ctxLoad .. => .ctxLoad h
  | .ctxUnload .. => .ctxUnload h
  | .ctxStart .. => .next (.command h fun h1 => .ite (.finish h1) (.ctxIssue (.begin h1)))
  | .ctxPreempt .. => .next (.command h fun h1 => .ite (.finish h1) (.ctxIssue (.begin h1)))
  | .queueResume .. => .queueResume h
  | .fabricSetup .. => .fabricSetup h
  | .routeLoad .. => .next (.command h fun h1 => .ite (.finish h1) (.finish (.routeLoad h1)))
  | .stractSetup .. => .stractSetup h
  | .stractRelease .. => .stractRelease h
  | .closureSetup .. => .closureSetup h
  | .closureRelease .. => .closureRelease h
  | .stakeoutWrite .. => .stakeoutWrite h
  | .stakeoutRead .. => .next (.command h .finish)
  | .powerCap .. => .powerCap h
  | .oppoint .. => .oppoint h
  | .fillerProfile .. => .next (.command h fun h1 => .ite (.finish h1) (.finish (.upd h1)))
  | .throttleLogRead .. => .next (.command h fun h1 => .ite (.finish h1) (.finish (.hostOut h1)))
  | .snapshot .. => .snapshot h
  | .freeze .. => .next (.command h fun h1 => .finish (.upd h1))
  | .thaw .. => .next (.command h fun h1 => .finish (.upd h1))
  | .ctrRead .. => .next (.command h fun h1 => .ite (.finish h1) (.finish (.hostOut h1)))
  | .snapshotCopyDone .. => .snapshotCopyDone h
  | .survey .. => .next (.command h fun h1 => .ite (.finish h1) (.ite (.finish h1) (.finish (.surveyed h1))))
  | .replayStep .. => .replayStep h
  | .drain .. => .next (.command h fun h1 => .finish (.drainDevice h1))
  | .waitLimits .. => .waitLimits h
  | .unitQuiesce .. => .unitQuiesce h
  | .quiesceAcceptedDone .. => .quiesceAcceptedDone h
  | .quiesceBoundExpiry .. => .quiesceBoundExpiry h
  | .unitReset .. => .unitReset h
  | .unitResume .. => .unitResume h
  | .spareSwap .. => .spareSwap h
  | .attest .. => .next (.command h fun h1 => .finish (.hostOut h1))
  | .identityRead .. => .next (.command h fun h1 => .finish (.hostOut h1))
  | .debugOpen .. => .debugOpen h
  | .imageStage .. => .imageStage h
  | .imageActivate .. => .imageActivate h
  | .imageQuery .. => .next (.command h fun h1 => .ite (.finish h1) (.finish h1))
  | .powerUpdate .. => .powerUpdate h
  | .thermalReading .. => .thermalReading h
  | .tceilUpdate .. => .tceilUpdate h
  | .oppSwitch .. => .oppSwitch h
  | .oppVoltageRampDone .. => .oppVoltageRampDone h
  | .droopDetect .. => .next (.upd h)
  | .droopStretchEnd .. => .ite (.next h) (.next (.upd h))
  | .droopEventEnd .. => .droopEventEnd h
  | .extThrottleChange .. => .next (.upd h)
  | .fillerRelease .. => .fillerRelease h
  | .watchdogExpiry .. => .watchdogExpiry h
  | .logEntryClose .. => .next (.upd h)
  | .healthReportTimer .. => .ite (.next (.report h)) (.next h)
  | .fieldReportRepeat .. => .fieldReportRepeat h
  | .spdmMessage .. => .spdmMessage h
  | .jobKeyMessage .. => .jobKeyMessage h
  | .tapInstruction .. => .tapInstruction h
  | .input50vChange .. => .next (.upd h)
  | .input12vChange .. => .ite (.next (.upd h)) (.ite (.next (.standbyLost h)) (.next h))
  | .hostReset .. => .next (.hostReset h)
  | .flr .. => .next (.hostReset h)
  | .d3hotEntry .. => .d3hotEntry h
  | .d0Entry .. => .next (.toD0 h)
  | .domainGate .. => .ite (.next (.upd h)) (.next h)
  | .refClockWindow .. => .refClockWindow h
  | .counterDeltaMove .. => .counterDeltaMove h
  | .smbusHealthRead .. => .next (.smbus h)
  | .smbusSerialRead .. => .next (.smbus h)
  | .smbusStationRead .. => .next (.smbus h)
  | .smbusLogCursorWrite .. => .ite (.next (.upd h)) (.next h)
  | .smbusLogEntryRead .. => .ite (.next (.upd (.smbus h))) (.next h)
  | .smbusPcntRead .. => .next (.smbus h)
  | .smbusAlertResponse .. => .ite (.next (.upd (.smbus h))) (.next h)
  | .equalisationDone .. => .ite (.next h) (.ite (.next (.setPort h)) (.next (.trainingFails h)))
  | .catalogueWrapProcessingDone .. => .ite (.next h) (.next (.foldl .mRetry (.foldl .seedRequest (.upd h))))
  | .managementPortLinkChange .. => .next (.upd h)
  | .msiXTableWrite .. => .next (.bar4Write h)
  | .mrstAssert => .mrstAssert h
  | .coldReset => .coldReset h

end Sys2Proof.Machine

section

open Sys2Proof Sys2Proof.Machine

/-- Settles O4: every command leaves canonical memories canonical, by the lemma of each command. -/
theorem stepKeepsMemory : Obligations.StepKeepsMemory := by
  intro s t e hs
  unfold step at e
  split at e
  · cases e; exact hs
  · next c rest _ => exact exec_memOk (s := { s with pending := rest }) hs c t e

end

section

open Sys2Proof Sys2Proof.Machine

/-- Settles O2: the tables of reset list nothing, so that each part reads as its own reset value. -/
theorem resetState : Obligations.ResetState := by
  unfold Obligations.ResetState
  refine ⟨⟨rfl, rfl⟩, by decide, rfl, rfl, rfl, rfl, by decide, rfl, rfl, rfl, rfl, rfl, rfl, rfl, rfl, rfl, rfl, rfl, rfl,
    rfl, rfl, rfl, rfl, rfl, rfl, rfl, fun _ => rfl, fun _ => rfl, fun _ => rfl, fun _ q => ?_, fun h i => ?_,
    fun _ => ⟨rfl, rfl⟩, fun _ => ⟨rfl, rfl⟩⟩
  · cases q <;> exact ⟨rfl, rfl⟩
  · rfl

end

namespace Sys2Proof.Machine

/-! # The memory commands (O49) -/

/-! ### SHELF_PARTITION (R182, R363) -/

theorem eraseDups_length_le (l : List Nat) : l.eraseDups.length ≤ l.length := by
  induction h : l.length using Nat.strong_induction_on generalizing l with
  | _ n ih =>
    cases l with
    | nil => simp
    | cons a l =>
      have hf := List.length_filter_le (fun b => !b == a) l
      simp only [List.length_cons] at h
      rw [List.eraseDups_cons, List.length_cons]
      have := ih _ (by omega) (l.filter fun b => !b == a) rfl
      omega

/-- A list that loses nothing with its duplicates has none. -/
theorem nodup_of_eraseDups_length {l : List Nat} (h : l.eraseDups.length = l.length) : l.Nodup := by
  induction l with
  | nil => simp
  | cons a l ih =>
    rw [List.eraseDups_cons, List.length_cons, List.length_cons] at h
    have hle := eraseDups_length_le (l.filter fun b => !b == a)
    have hf := List.length_filter_le (fun b => !b == a) l
    have hall : l.filter (fun b => !b == a) = l := List.filter_eq_self.mpr (List.length_filter_eq_length_iff.mp (by omega))
    rw [hall] at h
    refine List.nodup_cons.mpr ⟨fun ha => ?_, ih (by omega)⟩
    simpa using List.filter_eq_self.mp hall a ha

theorem shelvesOk_iff {xs : List ShelfReq} (h : shelvesOk xs = true) :
    xs.length ≤ 511 ∧ (xs.map (·.shelf.toNat)).Nodup := by
  simp only [shelvesOk, Bool.and_eq_true, decide_eq_true_eq, List.length_map, beq_iff_eq] at h
  obtain ⟨⟨⟨⟨-, hlen⟩, -⟩, hdup⟩, -⟩ := h
  exact ⟨hlen, nodup_of_eraseDups_length (hdup.trans (List.length_map ..).symm)⟩

/-- The eight bytes of a shelf in the parameters of a SHELF_PARTITION (R363). -/
def shelfBytes (x : ShelfReq) : List Byte :=
  leBits x.shelf ++ [x.mode, x.ctxm] ++ toLE 1 (x.fw.toNat + 2 * x.host.toNat) ++ zeros 3

theorem shelfBytes_length (x : ShelfReq) : (shelfBytes x).length = 8 := by simp [shelfBytes, leBits, zeros]

theorem leAt_append_left {a b : List Byte} {len : Nat} (h : len ≤ a.length) : leAt (a ++ b) 0 len = leAt a 0 len := by
  simp [leAt, List.take_append_of_le_length h]

theorem leAt_append_right {a b : List Byte} {off len : Nat} : leAt (a ++ b) (a.length + off) len = leAt b off len := by
  simp [leAt, List.drop_append, List.drop_eq_nil_of_le (Nat.le_add_right a.length off)]

theorem leAt_shelfBytes (x : ShelfReq) : leAt (shelfBytes x) 0 2 = x.shelf.toNat := by
  have h : ((shelfBytes x).take 2) = toLE 2 x.shelf.toNat := rfl
  have hx := x.shelf.isLt
  rw [leAt, List.drop_zero, h, leNat_toLE]
  omega

/-- The shelf at a place of the list that the parameters hold. -/
theorem leAt_shelves {xs : List ShelfReq} {i : Nat} (hi : i < xs.length) :
    leAt (xs.flatMap shelfBytes) (8 * i) 2 = xs[i].shelf.toNat := by
  induction xs generalizing i with
  | nil => simp at hi
  | cons x xs ih =>
    rw [List.flatMap_cons]
    cases i with
    | zero => exact (leAt_append_left (by rw [shelfBytes_length]; decide)).trans (leAt_shelfBytes x)
    | succ i =>
      rw [show 8 * (i + 1) = (shelfBytes x).length + 8 * i by rw [shelfBytes_length x]; omega, leAt_append_right]
      exact ih (by simpa using hi)

theorem shelfPartition_params (h : Hdr) (xs : List ShelfReq) :
    Instr.params (.shelfPartition h xs) = (toLE 2 xs.length ++ zeros 6) ++ xs.flatMap shelfBytes := rfl

/-- A SHELF_PARTITION holds each of its shelves. -/
theorem shelfPartition_objs {h : Hdr} {xs : List ShelfReq} (hn : xs.length < 65536) :
    cmdObjs 0x0201 (Instr.params (.shelfPartition h xs)) = xs.map fun x => (objShelf, x.shelf.toNat, x.shelf.toNat) := by
  have hcount : leAt (Instr.params (.shelfPartition h xs)) 0 2 = xs.length := by
    rw [shelfPartition_params, List.append_assoc, leAt_append_left (by simp), leAt, List.drop_zero,
      List.take_of_length_le (by simp), leNat_toLE]
    omega
  have hat : ∀ i (hi : i < xs.length), leAt (Instr.params (.shelfPartition h xs)) (8 + 8 * i) 2 = xs[i].shelf.toNat := by
    intro i hi
    rw [shelfPartition_params, show 8 + 8 * i = (toLE 2 xs.length ++ zeros 6).length + 8 * i by simp [zeros],
      leAt_append_right, leAt_shelves hi]
  have hobjs : cmdObjs 0x0201 (Instr.params (.shelfPartition h xs)) =
      (List.range (leAt (Instr.params (.shelfPartition h xs)) 0 2)).map fun i =>
        (objShelf, leAt (Instr.params (.shelfPartition h xs)) (8 + 8 * i) 2,
          leAt (Instr.params (.shelfPartition h xs)) (8 + 8 * i) 2) := List.append_nil _
  rw [hobjs, hcount]
  refine List.ext_getElem (by simp) fun i h1 h2 => ?_
  have hi : i < xs.length := by simpa using h2
  simp [hat i hi]

/-- The shelves of slice `n` that the begun SHELF_PARTITION commands name, in the order in which they go (R182). -/
def State.partitionShelves (s : State) (n : Nat) : List Nat :=
  (s.cmd.started.filter fun r => r.op == 0x0201 && r.begun).flatMap fun r =>
    (r.objs.filter fun o => o.1 == objShelf && o.2.1 % 64 == n).map (·.2.1)

theorem State.partitionShelves_slice {s : State} {n k : Nat} (h : k ∈ s.partitionShelves n) : k % 64 = n := by
  simp only [State.partitionShelves, List.mem_flatMap, List.mem_map, List.mem_filter, Bool.and_eq_true, beq_iff_eq] at h
  obtain ⟨_, -, _, ⟨-, -, hn⟩, rfl⟩ := h
  exact hn

theorem State.shelfNext_eq (s : State) (n : Nat) : s.shelfNext n =
    if (s.partitionShelves n).any (fun k => (s.shelf k).qst != 0) = true then s
    else match (s.partitionShelves n).find? fun k => (s.shelf k).target.isSome with
      | some k => s.setShelf k { s.shelf k with qst := 1 }
      | none => s := rfl

/-- While no shelf of slice `n` changes its mode, the first that waits for its turn begins to, where one does. -/
theorem State.shelfNext_cases {s : State} {n : Nat} (hq : ∀ k ∈ s.partitionShelves n, (s.shelf k).qst = 0) :
    (s.shelfNext n = s ∧ ∀ k ∈ s.partitionShelves n, (s.shelf k).target = none) ∨
      ∃ k ∈ s.partitionShelves n, (s.shelf k).target.isSome = true ∧
        s.shelfNext n = s.setShelf k { s.shelf k with qst := 1 } := by
  have hany : ((s.partitionShelves n).any fun k => (s.shelf k).qst != 0) = false :=
    List.any_eq_false.mpr fun k hk => by simp [hq k hk]
  rw [State.shelfNext_eq, if_neg (by rw [hany]; decide)]
  cases hf : (s.partitionShelves n).find? fun k => (s.shelf k).target.isSome with
  | none => exact .inl ⟨rfl, by simpa using hf⟩
  | some k => exact .inr ⟨k, List.mem_of_find?_eq_some hf, by simpa using List.find?_some hf, rfl⟩

/-- A shelf begins to change in each of the slices below `m` of which a shelf waits, and nothing else differs. -/
structure TurnsBegun (u t : State) (m : Nat) : Prop where
  cmd : t.cmd = u.cmd
  mem : t.mem = u.mem
  later : ∀ k, m ≤ k % 64 → t.shelf k = u.shelf k
  turns : ∀ n, n < m → ((∀ k ∈ u.partitionShelves n, (u.shelf k).target = none) ∧ ∀ k, k % 64 = n → t.shelf k = u.shelf k) ∨
    ∃ k ∈ u.partitionShelves n, (u.shelf k).target.isSome = true ∧ t.shelf k = { u.shelf k with qst := 1 } ∧
      ∀ j, j % 64 = n → j ≠ k → t.shelf j = u.shelf j

theorem TurnsBegun.step {u t : State} {m : Nat} (hq : ∀ k, (u.shelf k).qst = 0) (h : TurnsBegun u t m) :
    TurnsBegun u (t.shelfNext m) (m + 1) := by
  have hp : t.partitionShelves m = u.partitionShelves m := by rw [State.partitionShelves, h.cmd]; rfl
  have hs : ∀ k ∈ u.partitionShelves m, t.shelf k = u.shelf k := fun k hk =>
    h.later k (State.partitionShelves_slice hk).ge
  obtain ⟨e, hnone⟩ | ⟨k, hk, htarget, e⟩ := State.shelfNext_cases (s := t) (n := m)
    fun k hk => by rw [hs k (hp ▸ hk)]; exact hq k
  · rw [hp] at hnone
    rw [e]
    refine ⟨h.cmd, h.mem, fun k hk => h.later k (by omega), fun n hn => ?_⟩
    obtain hlt | rfl := Nat.lt_succ_iff_lt_or_eq.mp hn
    · exact h.turns n hlt
    · exact .inl ⟨fun k hk => hs k hk ▸ hnone k hk, fun k hk => h.later k hk.ge⟩
  · rw [hp] at hk
    have hslice := State.partitionShelves_slice hk
    rw [hs k hk] at htarget e
    rw [e]
    refine ⟨h.cmd, h.mem, fun j hj => ?_, fun n hn => ?_⟩
    · rw [State.shelf_setShelf_ne _ _ (by rintro rfl; omega)]
      exact h.later j (by omega)
    · obtain hlt | rfl := Nat.lt_succ_iff_lt_or_eq.mp hn
      · have hne : ∀ j, j % 64 = n → j ≠ k := by rintro j hj rfl; omega
        obtain ⟨hnone, hsame⟩ | ⟨k', hk', htarget', hbegun, hsame⟩ := h.turns n hlt
        · exact .inl ⟨hnone, fun j hj => by rw [State.shelf_setShelf_ne _ _ (hne j hj)]; exact hsame j hj⟩
        · refine .inr ⟨k', hk', htarget', ?_, fun j hj hjk => ?_⟩
          · rw [State.shelf_setShelf_ne _ _ (hne k' (State.partitionShelves_slice hk'))]; exact hbegun
          · rw [State.shelf_setShelf_ne _ _ (hne j hj)]; exact hsame j hj hjk
      · refine .inr ⟨k, hk, htarget, State.shelf_setShelf .., fun j hj hjk => ?_⟩
        rw [State.shelf_setShelf_ne _ _ hjk]
        exact h.later j hj.ge

/-- Every slice takes its turn. -/
theorem State.shelfTurns {u : State} (hq : ∀ k, (u.shelf k).qst = 0) (m : Nat) :
    TurnsBegun u ((List.range m).foldl (fun s n => s.shelfNext n) u) m := by
  induction m with
  | zero => exact ⟨rfl, rfl, fun _ _ => rfl, nofun⟩
  | succ m ih => rw [List.range_succ, List.foldl_append]; exact ih.step hq

/-- Shelves named once each wait for their new modes. -/
theorem State.shelvesBegin {s : State} {xs : List ShelfReq} (hd : (xs.map (·.shelf.toNat)).Nodup) :
    let u := xs.foldl (fun s x => s.shelfBegins x) s
    u.cmd = s.cmd ∧ u.mem = s.mem ∧ (∀ k, k ∉ xs.map (·.shelf.toNat) → u.shelf k = s.shelf k) ∧
      ∀ x ∈ xs, u.shelf x.shelf.toNat =
        { s.shelf x.shelf.toNat with target := some (x.mode.toNat, x.ctxm.toNat, x.fw, x.host) } := by
  induction xs generalizing s with
  | nil => exact ⟨rfl, rfl, fun _ _ => rfl, nofun⟩
  | cons x xs ih =>
    obtain ⟨hx, hd⟩ := List.nodup_cons.mp hd
    obtain ⟨hcmd, hmem, hout, hin⟩ := ih (s := s.shelfBegins x) hd
    refine ⟨hcmd, hmem, fun k hk => ?_, fun y hy => ?_⟩
    · obtain ⟨hkx, hk⟩ : k ≠ x.shelf.toNat ∧ k ∉ xs.map (·.shelf.toNat) := by simpa using hk
      exact (hout k hk).trans (State.shelf_setShelf_ne _ _ hkx)
    · obtain rfl | hy := List.mem_cons.mp hy
      · exact (hout _ hx).trans (State.shelf_setShelf ..)
      · have hne : y.shelf.toNat ≠ x.shelf.toNat := fun e =>
        hx (List.mem_map.mpr ⟨y, hy, e⟩)
        refine (hin y hy).trans ?_
        rw [State.shelfBegins, State.shelf_setShelf_ne _ _ hne]

/-- Of the begun commands only those that name a shelf of slice `n` count, and an admitted SHELF_PARTITION does. -/
theorem Admitted.partitionShelves {s : State} {h : Hdr} {xs : List ShelfReq} {r : Started}
    (ha : Admitted s h 0x0201 (Instr.params (.shelfPartition h xs)) r) (ho : r.objs = cmdObjs r.op r.params)
    (hn : xs.length < 65536) {x : ShelfReq} (hx : x ∈ xs) :
    x.shelf.toNat ∈ (s.begin r).partitionShelves (x.shelf.toNat % 64) := by
  have hfound := List.find?_some ha.found
  simp only [Bool.and_eq_true, beq_iff_eq] at hfound
  obtain ⟨⟨⟨-, hop⟩, hps⟩, -⟩ := hfound
  rw [hop, hps, shelfPartition_objs hn] at ho
  refine List.mem_flatMap.mpr ⟨{ r with begun := true }, List.mem_filter.mpr ⟨?_, by simp [hop]⟩, ?_⟩
  · exact List.mem_map.mpr ⟨r, List.mem_of_find?_eq_some ha.found, by simp⟩
  · refine List.mem_map.mpr ⟨(objShelf, x.shelf.toNat, x.shelf.toNat), List.mem_filter.mpr ⟨?_, by simp⟩, rfl⟩
    rw [ho]
    exact List.mem_map.mpr ⟨x, hx, rfl⟩

/-- Of a list without duplicates one element has the key that only it has. -/
theorem filter_length_one {α : Type} {l : List α} {p : α → Bool} {f : α → Nat} (hd : (l.map f).Nodup) {a : α} (ha : a ∈ l)
    (hp : ∀ b ∈ l, p b = true ↔ f b = f a) : (l.filter p).length = 1 := by
  induction l with
  | nil => simp at ha
  | cons b l ih =>
    obtain ⟨hb, hd⟩ := List.nodup_cons.mp hd
    obtain rfl | ha := List.mem_cons.mp ha
    · have hrest : l.filter p = [] := List.filter_eq_nil_iff.mpr fun c hc hpc =>
        hb (List.mem_map.mpr ⟨c, hc, (hp c (.tail _ hc)).mp hpc⟩)
      rw [List.filter_cons_of_pos ((hp a (.head _)).mpr rfl), hrest]; rfl
    · have hpb : ¬p b = true := fun h => hb (List.mem_map.mpr ⟨a, ha, ((hp b (.head _)).mp h).symm⟩)
      rw [List.filter_cons_of_neg hpb]
      exact ih hd ha fun c hc => hp c (.tail _ hc)

/-- Where the shelves of a command wait for their modes and no other shelf waits, each slice's turn takes one of them. -/
theorem TurnsBegun.effect {s u t : State} {xs : List ShelfReq} (hd : (xs.map (·.shelf.toNat)).Nodup)
    (hs : ∀ n, (s.shelf n).target = none ∧ (s.shelf n).qst = 0)
    (hnamed : ∀ x ∈ xs, x.shelf.toNat ∈ u.partitionShelves (x.shelf.toNat % 64))
    (hout : ∀ k, k ∉ xs.map (·.shelf.toNat) → u.shelf k = s.shelf k)
    (hin : ∀ x ∈ xs, u.shelf x.shelf.toNat =
      { s.shelf x.shelf.toNat with target := some (x.mode.toNat, x.ctxm.toNat, x.fw, x.host) })
    (hbegun : TurnsBegun u t 64) :
    (∀ x, x ∈ xs → ∃ q, q ≤ 1 ∧ t.shelf x.shelf.toNat = { s.shelf x.shelf.toNat with
        qst := q
        target := some (x.mode.toNat, x.ctxm.toNat, x.fw, x.host) }) ∧
      (∀ n, n ∉ xs.map (·.shelf.toNat) → t.shelf n = s.shelf n) ∧
      (∀ x, x ∈ xs → ((xs.filter fun y => y.shelf.toNat % 64 == x.shelf.toNat % 64).filter fun y =>
        (t.shelf y.shelf.toNat).qst == 1).length = 1) := by
  have hwait : ∀ k, (u.shelf k).target.isSome = true → ∃ x ∈ xs, x.shelf.toNat = k := fun k hk => by
    by_contra hno
    rw [hout k fun hm => hno (List.mem_map.mp hm), (hs k).1] at hk
    exact nomatch hk
  have hturn : ∀ x ∈ xs, ∃ y ∈ xs, y.shelf.toNat % 64 = x.shelf.toNat % 64 ∧
      t.shelf y.shelf.toNat = { u.shelf y.shelf.toNat with qst := 1 } ∧
      ∀ j, j % 64 = x.shelf.toNat % 64 → j ≠ y.shelf.toNat → t.shelf j = u.shelf j := by
    intro x hx
    obtain ⟨hnone, -⟩ | ⟨k, hk, htarget, hk1, hsame⟩ := hbegun.turns _ (Nat.mod_lt x.shelf.toNat (by decide : 0 < 64))
    · have hx0 := hnone _ (hnamed x hx)
      rw [hin x hx] at hx0
      exact nomatch hx0
    · obtain ⟨y, hy, rfl⟩ := hwait k htarget
      exact ⟨y, hy, State.partitionShelves_slice hk, hk1, hsame⟩
  refine ⟨fun x hx => ?_, fun n hn => ?_, fun x hx => ?_⟩
  · obtain ⟨y, hy, -, hy1, hsame⟩ := hturn x hx
    by_cases hxy : x.shelf.toNat = y.shelf.toNat
    · exact ⟨1, le_rfl, by rw [hxy, hy1, ← hxy, hin x hx]⟩
    · exact ⟨0, Nat.zero_le _, by rw [hsame _ rfl hxy, hin x hx, ← (hs x.shelf.toNat).2]⟩
  · refine Eq.trans ?_ (hout n hn)
    obtain ⟨-, hsame⟩ | ⟨k, -, htarget, -, hsame⟩ := hbegun.turns _ (Nat.mod_lt n (by decide : 0 < 64))
    · exact hsame n rfl
    · obtain ⟨y, hy, rfl⟩ := hwait k htarget
      exact hsame n rfl fun e => hn (List.mem_map.mpr ⟨y, hy, e.symm⟩)
  · obtain ⟨y, hy, hslice, hy1, hsame⟩ := hturn x hx
    have hqst : ∀ z ∈ xs, (u.shelf z.shelf.toNat).qst = 0 := fun z hz => by rw [hin z hz]; exact (hs _).2
    have hmem : y ∈ xs.filter fun z => z.shelf.toNat % 64 == x.shelf.toNat % 64 :=
      List.mem_filter.mpr ⟨hy, by simpa using hslice⟩
    refine filter_length_one (f := fun z => z.shelf.toNat) (hd.sublist (List.filter_sublist.map _)) hmem fun z hz => ?_
    obtain ⟨hzx, hzslice⟩ := List.mem_filter.mp hz
    by_cases hzy : z.shelf.toNat = y.shelf.toNat
    · simp [hzy, hy1]
    · simp [hsame _ (by simpa using hzslice) hzy, hqst z hzx, hzy]

/-! ### BINDERY_RESTART (R206) -/

theorem State.bindery_of_bnd {s t : State} (h : t.bnd = s.bnd) (n : Nat) : t.bindery n = s.bindery n := by
  simp [State.bindery, h]

theorem Bindery.queue_setQueue (b : Bindery) (c d : Nat) (q : BndQueue) :
    (b.setQueue c q).queue d = if d = c then q else b.queue d := by
  simp [Bindery.queue, Bindery.setQueue, Map.getD_putD]

/-- A queue that runs again where it had stopped. -/
def BndQueue.resumed (q : BndQueue) (skip : Bool) : BndQueue :=
  if q.run == .stopped then { q with run := .running, pc := if skip then q.pc + 1 else q.pc } else q

theorem BndQueue.resumed_resumed (q : BndQueue) (skip : Bool) : (q.resumed skip).resumed skip = q.resumed skip := by
  unfold BndQueue.resumed
  by_cases h : (q.run == .stopped) = true
  · rw [if_pos h]; rfl
  · rw [if_neg h, if_neg h]

theorem State.bndResume_queue (s : State) (h c : Nat) (skip : Bool) :
    ((s.bndResume h c skip).bindery h).queue c = ((s.bindery h).queue c).resumed skip := by
  unfold State.bndResume BndQueue.resumed
  dsimp only
  split
  · rw [State.bindery_setBindery, Bindery.queue_setQueue, if_pos rfl]
  · rfl

theorem State.bndResume_queue_ne (s : State) {h c n d : Nat} (skip : Bool) (hne : ¬(n = h ∧ d = c)) :
    ((s.bndResume h c skip).bindery n).queue d = (s.bindery n).queue d := by
  unfold State.bndResume
  dsimp only
  split
  · by_cases hn : n = h
    · subst hn
      rw [State.bindery_setBindery, Bindery.queue_setQueue, if_neg fun hd => hne ⟨rfl, hd⟩]
    · rw [State.bindery_setBindery_ne _ _ hn]
  · rfl

theorem State.bndResumes_queue_ne {l : List (Nat × Nat)} {n d : Nat} (hl : (n, d) ∉ l) (s : State) (skip : Bool) :
    ((l.foldl (fun s x => s.bndResume x.1 x.2 skip) s).bindery n).queue d = (s.bindery n).queue d := by
  induction l generalizing s with
  | nil => rfl
  | cons x l ih =>
    obtain ⟨hx, hl⟩ := not_or.mp fun h => hl (List.mem_cons.mpr h)
    exact (ih hl _).trans (s.bndResume_queue_ne skip fun e => hx (Prod.ext e.1 e.2))

/-- A queue named more than once is resumed once. -/
theorem State.bndResumes_queue {l : List (Nat × Nat)} {n d : Nat} (hl : (n, d) ∈ l) (s : State) (skip : Bool) :
    ((l.foldl (fun s x => s.bndResume x.1 x.2 skip) s).bindery n).queue d = ((s.bindery n).queue d).resumed skip := by
  induction l generalizing s with
  | nil => simp at hl
  | cons x l ih =>
    rw [List.foldl_cons]
    by_cases hx : (n, d) = x
    · subst hx
      by_cases hr : (n, d) ∈ l
      · rw [ih hr, State.bndResume_queue, BndQueue.resumed_resumed]
      · rw [State.bndResumes_queue_ne hr, State.bndResume_queue]
    · rw [ih ((List.mem_cons.mp hl).resolve_left hx), s.bndResume_queue_ne skip fun e => hx (Prod.ext e.1 e.2)]

/-- The queues of the contexts `ds` in the Binderies `ns`, one Bindery after another. -/
theorem State.bndResumes_product (ns ds : List Nat) (s : State) (skip : Bool) :
    ns.foldl (fun s n => ds.foldl (fun s d => s.bndResume n d skip) s) s =
      (ns.product ds).foldl (fun s x => s.bndResume x.1 x.2 skip) s := by
  simp [List.product, List.foldl_flatMap, List.foldl_map]

/-! ### FP_FLUSH (R196) -/

theorem State.fp_setFp (s : State) (n k : Nat) (u : FpUnit) : (s.setFp n u).fp k = if k = n then u else s.fp k := by
  simp [State.fp, State.setFp, Map.getD_putD]

theorem State.fp_of_arc {s t : State} (h : t.arc = s.arc) (k : Nat) : t.fp k = s.fp k := by simp [State.fp, h]

theorem State.stores_arc_flt {α : Type} (f : α → Nat × List Byte) (l : List α) (s : State) :
    (l.foldl (fun s x => s.store (f x).1 (f x).2) s).arc = s.arc ∧
      (l.foldl (fun s x => s.store (f x).1 (f x).2) s).flt = s.flt := by
  induction l generalizing s with
  | nil => exact ⟨rfl, rfl⟩
  | cons x l ih => exact ih (s.store (f x).1 (f x).2)

/-- The rows of a flush in the journal touch neither the units nor the fault subsystem. -/
theorem State.journalLatch_arc_flt (s : State) (rows : List (Nat × JRow)) :
    (s.journalLatch rows).arc = s.arc ∧ (s.journalLatch rows).flt = s.flt := by
  unfold State.journalLatch
  extract_lets r a
  clear_value a
  split
  · exact State.stores_arc_flt (fun x => (a + 64 + 16 * x.1, x.2.bytes)) rows _
  · exact ⟨rfl, rfl⟩

/-- A unit after its flush: latched and cleared, or its scan begun, or as it was while a scan of it is in progress. -/
def FpUnit.flushed (u : FpUnit) : FpUnit :=
  if u.busy then u else if u.scan then { u with busy := true } else { u with lat := u.acc, latCnt := u.cnt, acc := 0, cnt := 0 }

theorem State.flushOne_fp (s : State) (n k : Nat) : (s.flushOne n).fp k = if k = n then (s.fp n).flushed else s.fp k := by
  unfold State.flushOne FpUnit.flushed
  dsimp only
  split
  · split
    · next e => rw [e]; rfl
    · rfl
  · split
    · exact s.fp_setFp ..
    · rw [State.fp_of_arc (State.journalLatch_arc_flt ..).1, State.fp_setFp]

theorem State.flushOne_flt (s : State) (n : Nat) : (s.flushOne n).flt = s.flt := by
  unfold State.flushOne
  dsimp only
  split
  · rfl
  · split
    · rfl
    · exact (State.journalLatch_arc_flt ..).2

/-- Units named once each are flushed, and no other. -/
theorem State.flushes_fp (l : List Nat) (s : State) (hd : l.Nodup) (k : Nat) :
    (l.foldl (fun s n => s.flushOne n) s).fp k = if k ∈ l then (s.fp k).flushed else s.fp k := by
  induction l generalizing s with
  | nil => rfl
  | cons n l ih =>
    obtain ⟨hn, hd⟩ := List.nodup_cons.mp hd
    rw [List.foldl_cons, ih _ hd, State.flushOne_fp]
    by_cases hk : k = n
    · subst hk; simp [hn]
    · simp [hk]

theorem State.flushes_flt (l : List Nat) (s : State) : (l.foldl (fun s n => s.flushOne n) s).flt = s.flt := by
  induction l generalizing s with
  | nil => rfl
  | cons n l ih => exact (ih _).trans (s.flushOne_flt n)

/-- The units of a flush, each named once (R363). -/
def flushUnits (first count : Nat) : List Nat := (List.range count).map fun i => (first + i) % 128

theorem flushUnits_nodup {first count : Nat} (h : count ≤ 128) : (flushUnits first count).Nodup := by
  refine List.Nodup.map_on (fun i hi j hj e => ?_) List.nodup_range
  rw [List.mem_range] at hi hj
  omega

theorem mem_flushUnits {first count j : Nat} : j ∈ flushUnits first count ↔ ∃ i, i < count ∧ j = (first + i) % 128 := by
  simp [flushUnits, eq_comm]

/-- A flush outside a replay. -/
theorem State.fpFlushRange_of_none {s : State} {first count : Nat} (h : s.flt.replay = none) :
    s.fpFlushRange first count = (flushUnits first count).foldl (fun s n => s.flushOne n) s := by
  have hrep := State.flushes_flt (flushUnits first count) s
  rw [flushUnits, List.foldl_map] at hrep ⊢
  unfold State.fpFlushRange
  dsimp only
  rw [hrep, h]

end Sys2Proof.Machine

section

open Sys2Proof Sys2Proof.Machine

/-- Settles O49: the shelves of a partition wait for their modes and each slice begins with one of them, by induction on the
slices; a descriptor joins its host queue; a named queue that had stopped is resumed, and each unit of a flush latched, by
induction on those named. -/
theorem memoryCommands : Obligations.MemoryCommands := by
  refine ⟨?partition, ?run, ?restart, ?flush⟩
  case partition =>
    intro s h xs r ha
    have hrun : exec (.shelfPartition h xs) s = .next (s.command h 0x0201 (Instr.params (.shelfPartition h xs)) _) := rfl
    rw [ha.command] at hrun
    refine ⟨fun hok => ?_, fun hok hfw => ?_, fun hok hfw hbusy => ?_, fun hok hfw hbusy => ?_⟩
    · rw [hrun, hok]; rfl
    · rw [hrun, hok, hfw]; rfl
    · rw [hrun, hok, hfw, hbusy]; rfl
    · rw [hrun, hok, hfw, hbusy]
      refine ⟨rfl, fun ho hs => ?_⟩
      obtain ⟨hlen, hnodup⟩ := shelvesOk_iff hok
      obtain ⟨hcmd, hmem, hout, hin⟩ := State.shelvesBegin (s := s.begin r) hnodup
      have hq : ∀ k, ((xs.foldl (fun s x => s.shelfBegins x) (s.begin r)).shelf k).qst = 0 := fun k => by
        by_cases hk : k ∈ xs.map (·.shelf.toNat)
        · obtain ⟨x, hx, rfl⟩ := List.mem_map.mp hk
          rw [hin x hx]; exact (hs _).2
        · rw [hout k hk]; exact (hs k).2
      have hbegun := State.shelfTurns hq 64
      have hnamed := fun x hx => (ha.partitionShelves ho (x := x) (by omega) hx)
      obtain ⟨hpart, hrest, hone⟩ := hbegun.effect hnodup hs
        (fun x hx => by rw [State.partitionShelves, hcmd]; exact hnamed x hx) hout hin
      exact ⟨_, rfl, hpart, hrest, hone, hbegun.cmd.trans hcmd, hbegun.mem.trans hmem⟩
  case run =>
    intro s h n d r ha hn hd
    have hrun : exec (.binderyRun h n d) s = .next (s.command h 0x0202 (Instr.params (.binderyRun h n d)) _) := rfl
    rw [ha.command, if_neg (by simp [hd]; omega)] at hrun
    refine ⟨fun hoff => ?_, fun hon hfault => ?_, fun hon hfault => ?_⟩
    · rw [hrun, if_pos (by simpa using hoff)]
    · rw [hrun, if_neg (by simpa using hon), if_pos (by simpa using hfault)]
    · rw [hrun, if_neg (by simpa using hon), if_neg (by simpa using hfault)]
      exact ⟨_, rfl, State.bindery_setBindery .., fun m hm => State.bindery_setBindery_ne _ _ hm, rfl⟩
  case restart =>
    intro s h m cs skip r ha hm
    have hrun : exec (.binderyRestart h m cs skip) s =
        .next (s.command h 0x0203 (Instr.params (.binderyRestart h m cs skip)) _) := rfl
    rw [ha.command, if_neg (by omega)] at hrun
    refine ⟨_, hrun, fun n c hn hc => ?_⟩
    have hbnd : ∀ t : State, (t.finish r 0).bindery n = t.bindery n := fun t =>
      State.bindery_of_bnd (by rw [t.finish_eventOnly r 0 []]) n
    have hmem : (n, c) ∈ ((List.range 12).filter m.toNat.testBit).product ((List.range 8).filter cs.toNat.testBit) ↔
        m.toNat.testBit n = true ∧ cs.toNat.testBit c = true := by
      simp [List.pair_mem_product, hn, hc]
    intro q
    rw [hbnd, State.bndResumes_product]
    by_cases hnamed : m.toNat.testBit n = true ∧ cs.toNat.testBit c = true
    · rw [State.bndResumes_queue (hmem.mpr hnamed), hnamed.1, hnamed.2]; rfl
    · rw [State.bndResumes_queue_ne fun h => hnamed (hmem.mp h),
        if_neg (by simpa using fun h1 h2 => absurd ⟨h1, h2⟩ hnamed)]
  case flush =>
    intro s h first count r ha hrep
    have hrun : exec (.fpFlush h first count) s = .next (s.command h 0x0208 (Instr.params (.fpFlush h first count)) _) := rfl
    rw [ha.command] at hrun
    refine ⟨fun hbad => ?_, fun hf hc => ?_⟩
    · rw [hrun, if_pos (by simpa using hbad)]
    · rw [if_neg (by simp; omega), State.fpFlushRange_of_none hrep] at hrun
      have hfp : ∀ (t : State) j, (t.finish r 0).fp j = t.fp j := fun t j =>
        State.fp_of_arc (by rw [t.finish_eventOnly r 0 []]) j
      have hfl := State.flushes_fp _ s (flushUnits_nodup (first := first.toNat) (count := count.toNat + 1) (by omega))
      refine ⟨_, hrun, fun i hi => ?_, fun j hj => ?_⟩
      · intro j
        have hmem : j ∈ flushUnits first.toNat (count.toNat + 1) := mem_flushUnits.mpr ⟨i, by omega, rfl⟩
        rw [hfp, hfl, if_pos hmem]
        exact ⟨fun hb => by rw [FpUnit.flushed, if_pos hb], fun hb hsc => by simp [FpUnit.flushed, hb, hsc]⟩
      · have hmem : j ∉ flushUnits first.toNat (count.toNat + 1) := fun hm => by
          obtain ⟨i, hi, e⟩ := mem_flushUnits.mp hm
          exact hj i (by omega) e
        rw [hfp, hfl, if_neg hmem]

end

namespace Sys2Proof.Machine

/-! # Scrubs (O22) -/

/-! ### Fieldbook scrubs (R173, R419) -/

theorem execFieldbookScrub_of_lt {g : BitVec 16} (hg : g.toNat < 0xC000) (p : ParcelIx) (s : State) :
    execFieldbookScrub p g .clean s = .next s ∧
    execFieldbookScrub p g .corrected s = .next (s.scrubCorrect p.val g.toNat) ∧
    execFieldbookScrub p g .uncorrectable s =
      .next ((s.lose (granAddr p.val g.toNat)).fbUnc p.val (granAddr p.val g.toNat) 0xFFFFFFFF) := by
  have h : ¬ 0xC000 ≤ g.toNat := by omega
  simp only [execFieldbookScrub, h, if_false, and_self]

theorem State.scrubCorrect_below {s : State} {p g : Nat} (h : Map.getD s.flt.scrubCorr (p * 2 ^ 16 + g) 0 + 1 < 3) :
    s.scrubCorrect p g = { s.count (ctrBase p + 25) with
      flt := { s.flt with scrubCorr := Map.put s.flt.scrubCorr (p * 2 ^ 16 + g) (
          Map.getD s.flt.scrubCorr (p * 2 ^ 16 + g) 0 + 1) } } := if_pos h

theorem State.scrubCorrect_third {s : State} {p g : Nat} (h : Map.getD s.flt.scrubCorr (p * 2 ^ 16 + g) 0 + 1 = 3) :
    s.scrubCorrect p g = (State.spareSwap { s.count (ctrBase p + 25) with
      flt := { s.flt with scrubCorr := Map.keep s.flt.scrubCorr fun i _ => i / 2 ^ 16 != p } } p).1 :=
  if_neg (by omega)

/-! ### Patrol scrubs (R181, R190) -/

/-- The line lies in a shelf in shelf mode, or a cache-mode shelf holds it: a patrol scrub reads it (R181). -/
def State.scrubbed (s : State) (a : Nat) : Prop :=
  (∃ k, region a = .shelf k ∧ (s.shelf k).mode = 2) ∨ (region a = .hbm ∧ (s.cached a).isSome = true)

/-- A patrol scrub of slice `n` reads a line and counts at the slice. -/
def State.patrolCounted (s : State) (n : Nat) : State := (s.count (ctrSlice n + 22)).count (ctrSlice n + 12)

theorem execArchivePatrolScrub_skip {s : State} {m : Fin 64} {line : BitVec 48} (r : EccResult)
    (h : ¬ s.scrubbed (line.toNat / 256 * 256) ∨ sliceOf (line.toNat / 256 * 256) ≠ m.val) :
    execArchivePatrolScrub m line r s = .next s := by
  unfold execArchivePatrolScrub
  refine if_pos ?_
  rw [Bool.or_eq_true, bne_iff_ne]
  refine h.imp_left fun hn => ?_
  unfold State.scrubbed at hn
  cases hr : region (line.toNat / 256 * 256) <;> simp_all

theorem execArchivePatrolScrub_read {s : State} {m : Fin 64} {line : BitVec 48} {a n : Nat} (ha : line.toNat / 256 * 256 = a)
    (hs : s.scrubbed a) (hn : m.val = n) (hm : sliceOf a = n) :
    (s.badIn a 256 = false → execArchivePatrolScrub m line .clean s = .next (s.patrolCounted n)) ∧
    execArchivePatrolScrub m line .corrected s = .next ((s.patrolCounted n).count (ctrSlice n + 6)) ∧
    execArchivePatrolScrub m line .uncorrectable s = .next ((s.patrolCounted n).scrubLost a) := by
  subst ha hn
  have hread : (!(match region (line.toNat / 256 * 256) with
      | .shelf k => (s.shelf k).mode == 2
      | .hbm => (s.cached (line.toNat / 256 * 256)).isSome
      | _ => false) || sliceOf (line.toNat / 256 * 256) != m.val) = false := by
    rcases hs with ⟨k, hr, hm2⟩ | ⟨hr, hc⟩ <;> simp_all
  have hneg := ne_true_of_eq_false hread
  refine ⟨fun hb => (if_neg hneg).trans ?_, if_neg hneg, if_neg hneg⟩
  exact congrArg _ (if_neg (ne_true_of_eq_false hb))

theorem region_of_hbm_le {a : Nat} (h : 0x018000000000 ≤ a) : region a ≠ .hbm := by
  intro hr
  rw [region, if_neg (by omega)] at hr
  split at hr
  · cases hr
  split at hr
  · split at hr
    · split at hr <;> cases hr
    · cases hr
  · cases hr

theorem region_hbm_iff {a : Nat} : region a = .hbm ↔ a < 0x018000000000 :=
  ⟨fun h => by
    by_contra hn
    exact region_of_hbm_le (by omega) h, fun h => if_pos h⟩

theorem region_shelf_bounds {a k : Nat} (h : region a = .shelf k) :
    0x800000000000 ≤ a ∧ a < 0x800A00000000 ∧ k = (a - 0x800000000000) / 2 ^ 26 := by
  unfold region at h
  split at h
  · cases h
  split at h
  case isTrue hb =>
    rw [Bool.and_eq_true, decide_eq_true_eq, decide_eq_true_eq] at hb
    exact ⟨hb.1, hb.2, (Region.shelf.inj h).symm⟩
  split at h
  · split at h
    · split at h <;> cases h
    · cases h
  · cases h

theorem region_shelf_lt {a k : Nat} (h : region a = .shelf k) : a < 0xC00000000000 := by
  obtain ⟨-, hlt, -⟩ := region_shelf_bounds h
  omega

theorem badKey_of_lt {a : Nat} (h : a < 0xC00000000000) : badKey a = a / 256 * 256 := if_neg (by omega)

theorem badSpan_of_lt {k : Nat} (h : k < 0xC00000000000) : badSpan k = 256 := if_neg (by omega)

theorem Map.mem_put {α : Type} (m : Map α) (k : Nat) (v : α) : (k, v) ∈ Map.put m k v := by
  induction m with
  | nil => exact List.mem_cons_self
  | cons x m ih =>
    obtain ⟨j, w⟩ := x
    simp only [Map.put]
    split_ifs
    · exact List.mem_cons_self
    · exact List.mem_cons_self
    · exact List.mem_cons_of_mem _ ih

/-- A line lost reads as uncorrectable. -/
theorem State.lose_badIn (s : State) {a : Nat} (h : a < 0xC00000000000) : (s.lose a).badIn (a / 256 * 256) 1 = true := by
  refine List.any_eq_true.mpr ⟨(badKey a, Map.getD s.bad (badKey a) false), ?_, ?_⟩
  · exact Map.mem_put ..
  · have hk := badKey_of_lt h
    have hb := badSpan_of_lt (k := badKey a) (by omega)
    simp only [hk, badSpan_of_lt (show a / 256 * 256 < 0xC00000000000 by omega), Bool.and_eq_true, decide_eq_true_eq]
    omega

/-- A good line of a shelf, outside the catalogue, is lost where it lies. -/
theorem State.loseShelfLine_of_good {s : State} {a : Nat} (hb : s.badIn a 256 = false) (hc : s.inCatalogue a = false) :
    s.loseShelfLine a = (s.lose a).count (ctrSlice (sliceOf a) + 8) := by
  rw [State.loseShelfLine, if_neg (by simp [hb]), if_neg (by simp [hc])]

theorem State.count_badIn (s : State) (k n a len : Nat) : (s.count k n).badIn a len = s.badIn a len := by
  rw [State.badIn, State.badIn, State.count_bad]

theorem State.patrolCounted_badIn (s : State) (n k a len : Nat) :
    ((s.patrolCounted n).count k).badIn a len = s.badIn a len := by
  rw [State.patrolCounted, State.count_badIn, State.count_badIn, State.count_badIn]

theorem State.patrolCounted_inCatalogue (s : State) (n k a : Nat) :
    ((s.patrolCounted n).count k).inCatalogue a = s.inCatalogue a := by
  have h : ((s.patrolCounted n).count k).arc = s.arc := by
    rw [State.patrolCounted, State.count_arc, State.count_arc, State.count_arc]
  rw [State.inCatalogue, State.inCatalogue, State.shelf, State.shelf, h]

theorem State.cached_of_shelf {s : State} {a k : Nat} (h : region a = .shelf k) : s.cached a = none := by
  simp [State.cached, State.caches, h]

theorem State.scrubLost_of_shelf {s : State} {a k : Nat} (h : region a = .shelf k) :
    s.scrubLost a =
      ((s.count (ctrSlice (sliceOf a) + 7)).loseShelfLine a).log 0x0013 0 0 (codeSlice (sliceOf a)) a 0xFFFFFFFF := by
  rw [State.scrubLost, State.cached_of_shelf h]

/-- A good line of a shelf, outside the catalogue, reads as uncorrectable after the scrub that finds it lost (R190). -/
theorem State.patrolCounted_scrubLost_of_good {s : State} {a k n : Nat} (hr : region a = .shelf k) (hn : sliceOf a = n)
    (ha : a / 256 * 256 = a) (hb : s.badIn a 256 = false) (hc : s.inCatalogue a = false) :
    ∃ t : State, (s.patrolCounted n).scrubLost a = t.log 0x0013 0 0 (codeSlice n) a 0xFFFFFFFF ∧ t.mem = s.mem ∧
      t.badIn a 1 = true := by
  subst hn
  rw [← State.patrolCounted_badIn s (sliceOf a) (ctrSlice (sliceOf a) + 7)] at hb
  rw [← State.patrolCounted_inCatalogue s (sliceOf a) (ctrSlice (sliceOf a) + 7)] at hc
  have hbad := State.lose_badIn ((s.patrolCounted (sliceOf a)).count (ctrSlice (sliceOf a) + 7)) (region_shelf_lt hr)
  rw [ha] at hbad
  refine ⟨_, State.scrubLost_of_shelf hr, ?_, ?_⟩
  all_goals rw [State.loseShelfLine_of_good hb hc]
  · rw [State.count_mem, State.lose_mem, State.count_mem, State.patrolCounted, State.count_mem, State.count_mem]
  · rw [State.count_badIn, hbad]

theorem State.scrubLost_of_dirty {s : State} {a : Nat} {l : CLine} (h : s.cached a = some l) (hd : l.dirty = true) :
    s.scrubLost a =
      ((s.count (ctrSlice (sliceOf a) + 7)).log 0x0013 0 0 (codeSlice (sliceOf a)) a 0xFFFFFFFF).loseLine a := by
  rw [State.scrubLost, h]
  exact if_pos hd

/-- A clean cached line is fetched again, and leaves the cache where its own place in HBM is bad too (R190, R201). -/
theorem State.scrubLost_of_clean {s : State} {a : Nat} {l : CLine} (ha : a / 256 * 256 = a) (hr : region a = .hbm)
    (h : s.cached a = some l) (hd : l.dirty = false) :
    s.scrubLost a = if l.under then
        ((s.count (ctrSlice (sliceOf a) + 5)).count (ctrSlice (sliceOf a) + 7)).invalidate (· == badKey a)
      else (s.count (ctrSlice (sliceOf a) + 5)).count (ctrSlice (sliceOf a) + 7) := by
  have hb := region_hbm_iff.mp hr
  rw [State.scrubLost, h]
  simp only [hd, State.readVerdict, ha, h, show ¬ 0x800000000000 ≤ a by omega, if_false]
  rfl

end Sys2Proof.Machine

section
open Sys2Proof Sys2Proof.Machine

/-- Settles O22: what each scrub finds, one branch of the model for each clause. -/
theorem scrubs : Obligations.Scrubs := by
  unfold Obligations.Scrubs
  refine ⟨fun s p g hg => ?_, fun s m line => ?_⟩
  · obtain ⟨hclean, hcorr, hunc⟩ := execFieldbookScrub_of_lt hg p s
    intro k a
    refine ⟨hclean, fun hn => ?_, fun hn t ht => ?_, hunc⟩
    · exact hcorr.trans (congrArg _ (State.scrubCorrect_below hn))
    · exact ht ▸ hcorr.trans (congrArg _ (State.scrubCorrect_third hn))
  · intro a n s1 shelf cached
    have ha : a / 256 * 256 = a := by omega
    refine ⟨fun h v => ?_, fun hn hs => ?_, fun l hn hr hl => ?_, fun hn hs hb hc => ?_⟩
    · exact execArchivePatrolScrub_skip v (h.imp_left fun ⟨h1, h2⟩ hs => hs.elim h1 h2)
    · obtain ⟨hclean, hcorr, -⟩ := execArchivePatrolScrub_read rfl hs hn.symm rfl
      exact ⟨hclean, hcorr⟩
    · obtain ⟨-, -, hread⟩ := execArchivePatrolScrub_read rfl (Or.inr ⟨hr, by rw [hl]; rfl⟩) hn.symm rfl
      have hl1 : (s.patrolCounted n).cached a = some l := hl
      refine ⟨fun hd hu => hread.trans ?_, fun hd hu => hread.trans ?_, fun hd => hread.trans ?_⟩
      · rw [State.scrubLost_of_clean ha hr hl1 hd, if_neg (ne_true_of_eq_false hu)]
        rfl
      · rw [State.scrubLost_of_clean ha hr hl1 hd, if_pos hu]
        rfl
      · rw [State.scrubLost_of_dirty hl1 hd]
        rfl
    · obtain ⟨-, -, hread⟩ := execArchivePatrolScrub_read rfl (Or.inl hs) hn.symm rfl
      obtain ⟨k, hr, -⟩ := hs
      obtain ⟨t, ht, hmem, hbad⟩ := State.patrolCounted_scrubLost_of_good hr rfl ha hb hc
      exact ⟨t, hread.trans (congrArg _ ht), hmem, hbad⟩

end

namespace Sys2Proof.Machine

/-! # The aperture, shelf modes and scans (O23) -/

/-! ### Accesses of BAR2 (R191, R192) -/

/-- A plain write of the Archive: the bytes, the lines made good, and what the fingerprint units capture (R195). -/
theorem State.write_eq (s : State) (a : Nat) (bs : List Byte) :
    ∃ b f, s.write a bs = { s with mem := s.mem.writeN a bs, bad := b, arc := { s.arc with fp := f } } := by
  unfold State.write State.captureWrite
  split
  · exact ⟨_, _, rfl⟩
  · exact ⟨_, s.arc.fp, rfl⟩

theorem AccessOnly.out {s t : State} (h : AccessOnly s t) : t.out = s.out := by rw [h]

theorem AccessOnly.cmd {s t : State} (h : AccessOnly s t) : t.cmd = s.cmd := by rw [h]

theorem AccessOnly.shelf {s t : State} (h : AccessOnly s t) (k : Nat) : t.shelf k = s.shelf k := by rw [h]; rfl

theorem AccessOnly.fp {s t : State} (h : AccessOnly s t) (k : Nat) : t.fp k = s.fp k := by rw [h]; rfl

theorem execBar2Read_none {s : State} {off : BitVec 36} {len : Nat} (h : s.bar2Addr off.toNat len false = none) :
    execBar2Read off len s = .next ((s.hostFault off.toNat).answer (.readData (List.replicate len 0))) := by
  rw [execBar2Read, h]

theorem execBar2Read_some {s : State} {off : BitVec 36} {len a : Nat} (h : s.bar2Addr off.toNat len false = some a) :
    execBar2Read off len s = if s.bar2Refused a then .next (s.answer .completerAbort)
      else if s.badIn a len then .next ((s.lineUnc ((s.badKeys a len).headD a) 0xFFFFFFFF).answer .completerAbort)
      else .next ((s.access .bulk false a len).answer (.readData (s.load a len))) := by
  rw [execBar2Read, h]

theorem execBar2Write_none {s : State} {off : BitVec 36} {bs : List Byte} (h : s.bar2Addr off.toNat bs.length true = none) :
    execBar2Write off bs s = .next (s.hostFault off.toNat) := by
  rw [execBar2Write, h]

theorem execBar2Write_some {s : State} {off : BitVec 36} {bs : List Byte} {a : Nat}
    (h : s.bar2Addr off.toNat bs.length true = some a) :
    execBar2Write off bs s = if s.bar2Refused a then .next s
      else .next ((s.write a bs).access .bulk true a bs.length) := by
  rw [execBar2Write, h]

/-! ### A shelf that takes its mode (R182) -/

theorem State.writeBackAs_accessOnly (s : State) (cls : Cls) (p : Nat → Bool) : AccessOnly s (s.writeBackAs cls p) :=
  (State.countAll_accessOnly _ _).trans ((State.countAll_accessOnly _ _).trans rfl)

theorem State.invalidate_accessOnly (s : State) (p : Nat → Bool) : AccessOnly s (s.invalidate p) := by
  unfold State.invalidate
  extract_lets m gone
  exact AccessOnly.trans (t := { s with arc := { s.arc with cache := Map.keep m fun _ w => !w.isEmpty } }) rfl
    (AccessOnly.foldl (fun s kl => State.dropLine_accessOnly s kl.1 kl.2) gone _)

/-- The shelf that has taken the mode `t`. -/
def takenShelf (t : Nat × Nat × Bool × Bool) : Shelf := ⟨t.1, t.2.1, t.2.2.1, t.2.2.2, 0, none⟩

/-- Shelf `n` has taken the mode `t`, and memory is `m`. -/
def ShelfTaken (s u : State) (n : Nat) (t : Nat × Nat × Bool × Bool) (m : Memory) : Prop :=
  u.cmd = s.cmd ∧ (∀ k, u.shelf k = if k = n then takenShelf t else s.shelf k) ∧ u.mem = m

namespace ShelfTaken

variable {s u v : State} {n : Nat} {t : Nat × Nat × Bool × Bool} {m : Memory}

theorem setShelf (h : AccessOnly s u) : ShelfTaken s (u.setShelf n (takenShelf t)) n t s.mem := by
  refine ⟨h.cmd, fun k => ?_, h.mem⟩
  split_ifs with hk
  · rw [hk, State.shelf_setShelf]
  · rw [State.shelf_setShelf_ne _ _ hk, h.shelf]

theorem cleared {a len : Nat} {bad} (h : ShelfTaken s u n t m) (g : AccessOnly u v) :
    ShelfTaken s { v with mem := u.mem.clear a len, bad := bad } n t (m.clear a len) := by
  obtain ⟨hcmd, hshelf, hmem⟩ := h
  exact ⟨g.cmd.trans hcmd, fun k => (g.shelf k).trans (hshelf k), congrArg (Memory.clear · a len) hmem⟩

theorem ite {c : Prop} [Decidable c] {m' : Memory} (h : ShelfTaken s u n t m) (g : ShelfTaken s v n t m') :
    ShelfTaken s (if c then u else v) n t (if c then m else m') := by
  split_ifs
  · exact h
  · exact g

end ShelfTaken

/-- A shelf other than the catalogue's takes its mode; one that enters shelf mode is cleared (R182). -/
theorem State.shelfTakes_taken {s : State} {n : Nat} (v : Shelf) (t : Nat × Nat × Bool × Bool) (hn : n ≠ 636) :
    ShelfTaken s (s.shelfTakes n v t) n t
      (if (t.1 == 2 && v.mode != 2) = true then s.mem.clear (shelfAddr n 0) (2 ^ 26) else s.mem) := by
  unfold State.shelfTakes
  extract_lets enters gone s0 s1 s3 s2
  have h0 : AccessOnly s s0 := (State.writeBackAs_accessOnly s _ _).trans (State.invalidate_accessOnly _ _)
  have h1 : ShelfTaken s s1 n t s.mem := .setShelf h0
  rw [if_neg hn]
  exact .ite (h1.cleared (State.access_accessOnly ..)) h1

/-- With no SHELF_PARTITION under way nothing waits for the shelf that has taken its mode. -/
theorem State.shelfNext_of_none {s : State} (h : s.cmd.started = []) (n : Nat) : s.shelfNext n = s := by
  simp [State.shelfNext, h]

theorem State.partitionCheck_of_none {s : State} (h : s.cmd.started = []) : s.partitionCheck = s := by
  simp [State.partitionCheck, h]

theorem execShelfModeChangeDone_of_target {s : State} {n : Fin 640} {t : Nat × Nat × Bool × Bool}
    (ht : (s.shelf n.val).target = some t) (hq : (s.shelf n.val).qst ≠ 0) :
    execShelfModeChangeDone n s = if s.shelfInUse n.val then .next s
      else .next ((s.shelfTakes n.val (s.shelf n.val) t).shelfNext (n.val % 64)).partitionCheck := by
  have hq' : ((s.shelf n.val).qst == 0) = false := beq_eq_false_iff_ne.mpr hq
  rw [execShelfModeChangeDone]
  simp only [ht, hq', Bool.false_or]

/-! ### A scan that ends (R196) -/

/-- An entry into the fault log leaves the record of a replay. -/
theorem State.log_replay (s : State) (kind st sev u a r : Nat) (d : List Byte) :
    (s.log kind st sev u a r d).flt.replay = s.flt.replay := by
  unfold State.log
  dsimp only
  split
  · rfl
  · unfold State.logNew
    extract_lets e src f kept mod md
    obtain ⟨_, _, _, _, _, hf⟩ := State.report_flt (k := 1) (sev := sev) (bs := e.bytes)
      (s := (State.count { s with flt := f, mod := md } (ctrDev 48)).event 5 st (toLE 4 e.index))
    rw [hf, EventOnly.refl.event.flt]
    rfl

theorem State.lineUnc_replay (s : State) (a req : Nat) : (s.lineUnc a req).flt.replay = s.flt.replay := by
  unfold State.lineUnc
  extract_lets sl s1
  split
  · exact State.log_replay ..
  · exact State.log_replay ..

theorem region_ne_fieldbook {a : Nat} (h : a < 0xC00000000000) (p : Nat) : region a ≠ .fieldbook p := by
  unfold region
  split
  · simp
  split
  · simp
  rw [if_neg (by simp only [Bool.and_eq_true, decide_eq_true_eq]; omega)]
  simp

/-- An uncorrectable line, below the Fieldbooks. -/
theorem State.uncRead_of_lt {s : State} {a req : Nat} (h : a < 0xC00000000000) : s.uncRead a req = s.lineUnc a req := by
  unfold State.uncRead
  split
  · next p hp => exact absurd hp (region_ne_fieldbook h p)
  · rfl

theorem State.replayCheck_of_none {s : State} (h : s.flt.replay = none) : s.replayCheck = s := by
  rw [State.replayCheck, h]

theorem State.stores_eng {α : Type} (f : α → Nat × List Byte) (l : List α) (s : State) :
    (l.foldl (fun s x => s.store (f x).1 (f x).2) s).eng = s.eng := by
  induction l generalizing s with
  | nil => rfl
  | cons x l ih => exact ih (s.store (f x).1 (f x).2)

theorem State.journalLatch_eng (s : State) (rows : List (Nat × JRow)) : (s.journalLatch rows).eng = s.eng := by
  unfold State.journalLatch
  extract_lets r a
  clear_value a
  split
  · exact State.stores_eng (fun x => (a + 64 + 16 * x.1, x.2.bytes)) rows _
  · rfl

/-- A scan of a range in a slice out of service ends without a result (R414). -/
theorem State.fpScanEnd_refused {s : State} {n : Nat} (hb : (s.fp n).busy = true) (hr : s.flt.replay = none)
    (h : s.sliceBusy (s.fp n).base (s.fp n).len = true) : s.fpScanEnd n = s.setFp n { s.fp n with busy := false } := by
  simp only [State.fpScanEnd, hb, h, Bool.not_true, Bool.false_eq_true, if_false, if_true]
  exact State.replayCheck_of_none hr

/-- A scan of good data latches the CRC of its range (R195). -/
theorem State.fpScanEnd_latches {s : State} {n : Nat} (hb : (s.fp n).busy = true) (hr : s.flt.replay = none)
    (h : s.sliceBusy (s.fp n).base (s.fp n).len = false) (hk : s.badKeys (s.fp n).base (s.fp n).len = []) :
    (∀ k, (s.fpScanEnd n).fp k = if k = n then
      { s.fp n with busy := false, lat := crc (s.fp n).poly (s.load (s.fp n).base (s.fp n).len), latCnt := 0 }
      else s.fp k) ∧ (s.fpScanEnd n).eng = s.eng := by
  simp only [State.fpScanEnd, hb, h, hk, Bool.not_true, Bool.false_eq_true, if_false, List.head?_nil]
  generalize { s.fp n with busy := false, lat := crc (s.fp n).poly (s.load (s.fp n).base (s.fp n).len), latCnt := 0 } = v
  have ha : AccessOnly s (s.access .background false (s.fp n).base (s.fp n).len) := State.access_accessOnly ..
  generalize s.access .background false (s.fp n).base (s.fp n).len = s1 at ha ⊢
  obtain ⟨harc, hflt⟩ := (s1.setFp n v).journalLatch_arc_flt [(n, v.row)]
  have hnone : ((s1.setFp n v).journalLatch [(n, v.row)]).flt.replay = none := by rw [hflt]; exact ha.flt ▸ hr
  rw [State.replayCheck_of_none hnone]
  refine ⟨fun k => ?_, ?_⟩
  · rw [State.fp_of_arc harc, State.fp_setFp, ha.fp]
  · exact ((s1.setFp n v).journalLatch_eng _).trans ha.eng

/-- A scan of uncorrectable data latches nothing (R189). -/
theorem State.fpScanEnd_uncorrectable {s : State} {n : Nat} (hb : (s.fp n).busy = true) (hr : s.flt.replay = none)
    (h : s.sliceBusy (s.fp n).base (s.fp n).len = false) (hk : s.badKeys (s.fp n).base (s.fp n).len ≠ [])
    (hlt : ∀ k ∈ s.badKeys (s.fp n).base (s.fp n).len, k < 0xC00000000000) :
    (s.fpScanEnd n).fp n = { s.fp n with busy := false } ∧ (s.fpScanEnd n).mem = s.mem := by
  obtain ⟨k, ks, hkeys⟩ := List.exists_cons_of_ne_nil hk
  have hk1 : k < 0xC00000000000 := hlt k (by simp [hkeys])
  simp only [State.fpScanEnd, hb, h, hkeys, Bool.not_true, Bool.false_eq_true, if_false, List.head?_cons]
  have ha : AccessOnly s (s.access .background false (s.fp n).base (s.fp n).len) := State.access_accessOnly ..
  generalize s.access .background false (s.fp n).base (s.fp n).len = s1 at ha ⊢
  rw [State.uncRead_of_lt hk1]
  have hl := (s1.setFp n { s.fp n with busy := false }).lineUnc_logOnly k 0xFFFFFFFF
  have hnone : ((s1.setFp n { s.fp n with busy := false }).lineUnc k 0xFFFFFFFF).flt.replay = none := by
    rw [State.lineUnc_replay]; exact ha.flt ▸ hr
  rw [State.replayCheck_of_none hnone]
  refine ⟨?_, hl.mem.trans ha.mem⟩
  rw [State.fp_of_arc (by rw [hl] : _ = (s1.setFp n { s.fp n with busy := false }).arc), State.fp_setFp, if_pos rfl]

end Sys2Proof.Machine

section
open Sys2Proof Sys2Proof.Machine

/-- Settles O23: the aperture and the scans by the cases of the access or the scan; the shelf by what taking a mode leaves. -/
theorem apertureAndShelves : Obligations.ApertureAndShelves := by
  unfold Obligations.ApertureAndShelves
  refine ⟨fun s => ⟨fun _ => rfl, fun off len h => execBar2Read_none h, fun off len a h => ?_,
    fun off bs h => execBar2Write_none h, fun off bs a h => ?_⟩,
    fun s n mode ctxm fw host ht hq => ?_, fun s n hb hr => ?_⟩
  · have hread := execBar2Read_some h
    refine ⟨fun hr hg => ?_, fun hr => hread.trans (if_pos hr), fun hr hg => ?_⟩
    · rw [hr, hg] at hread
      have ha := s.access_accessOnly .bulk false a len
      exact ⟨_, hread, congrArg _ ha.out, ha.mem, ha.eng⟩
    · rw [hr, hg] at hread
      exact hread
  · have hwrite := execBar2Write_some h
    refine ⟨fun hr => ?_, fun hr => hwrite.trans (if_pos hr)⟩
    rw [hr] at hwrite
    have ha := (s.write a bs).access_accessOnly .bulk true a bs.length
    obtain ⟨b, f, hw⟩ := s.write_eq a bs
    refine ⟨_, hwrite, ?_, ?_, fun x hx => ?_⟩
    · rw [ha.mem, hw]
      exact Memory.readN_writeN ..
    · rw [ha.out, hw]
    · rw [ha.mem, hw]
      exact Memory.read_writeN_out _ hx
  · have hrun := execShelfModeChangeDone_of_target ht hq
    refine ⟨fun hu => hrun.trans (if_pos hu), fun hu hn hstart => ?_⟩
    obtain ⟨hcmd, hshelf, hmem⟩ := State.shelfTakes_taken (s := s) (s.shelf n.val) (mode, ctxm, fw, host) hn
    have hnone := (congrArg CmdIf.started hcmd).trans hstart
    rw [if_neg (ne_true_of_eq_false hu), State.shelfNext_of_none hnone, State.partitionCheck_of_none hnone] at hrun
    refine ⟨_, hrun, (hshelf _).trans (if_pos rfl), fun hm hv i hi => ?_, fun b hb => ?_,
      fun k hk => (hshelf k).trans (if_neg hk)⟩
    · rw [hmem, if_pos (by simp [hm, hv]), Memory.read_clear, if_pos (by unfold shelfAddr; omega)]
    · rw [hmem]
      split_ifs
      · rw [Memory.read_clear, if_neg (by unfold shelfAddr at *; omega)]
      · rfl
  · intro u
    refine ⟨fun h => ?_, fun h hk => ?_, fun h _ hk hlt => ?_⟩
    · have hrun : execFpScanDone n s = .next (s.setFp n { u with busy := false }) :=
        congrArg Host.Outcome.next (State.fpScanEnd_refused hb hr h)
      exact ⟨_, hrun, (State.fp_setFp ..).trans (if_pos rfl), rfl, rfl⟩
    · obtain ⟨hfp, heng⟩ := State.fpScanEnd_latches hb hr h hk
      exact ⟨_, rfl, (hfp _).trans (if_pos rfl), fun k hk => (hfp k).trans (if_neg hk), heng⟩
    · obtain ⟨hfp, hmem⟩ := State.fpScanEnd_uncorrectable hb hr h hk hlt
      exact ⟨_, rfl, hfp, hmem⟩

end

namespace Sys2Proof.Machine

/-! # Transfers and atomic operations (O20) -/

/-! ### The issue of an X entry (R175, R176) -/

/-- In a parcel an X entry is examined where it issues. -/
theorem exec_xEntry {s : State} {c : Nat} {u : UnitIx} {e : Entry} {cmd : Instr} (h0 : unitOrder u.val = 0)
    (h : Ready s u.val .x c) (hc : (fld e 0 8, cmd) ∈ [(1, Instr.xget u e), (2, .xput u e), (3, .xatom u e)]) :
    exec cmd s = .next ((s.advance c u.val .x).xExec c u.val (s.queue (engKey c u.val) .x).pc e) := by
  simp only [List.mem_cons, Prod.mk.injEq, List.not_mem_nil, or_false] at hc
  obtain ⟨hop, rfl⟩ | ⟨hop, rfl⟩ | ⟨hop, rfl⟩ := hc
  all_goals exact congrArg Host.Outcome.next (State.issue_parcel h0 h hop _)

/-- The run that an entry at `a` starts. -/
def XRun.start (a : Nat) (e : Entry) : XRun := ⟨a, e, 0, false, false, 0⟩

/-- A parcel whose engine has begun the run of an entry that has just issued. -/
def State.xBegun (s : State) (c u a : Nat) (e : Entry) : State :=
  ((s.advance c u .x).leaveHead c u .x).setX (engKey c u) (some (XRun.start a e))

@[simp] theorem State.advance_xrun (s : State) (c u : Nat) : (s.advance c u .x).xrun (engKey c u) = s.xrun (engKey c u) := by
  rw [State.xrun, (s.advance_engStep c u .x).here]
  rfl

theorem State.xExec_busy {s : State} {c p a : Nat} {e : Entry} (h : s.xrun (engKey c p) ≠ none) :
    (s.advance c p .x).xExec c p a e = (s.advance c p .x).waitHead c p .x ⟨a, e, .engine⟩ :=
  if_pos (by rwa [State.advance_xrun, Option.isSome_iff_ne_none])

theorem State.xExec_refused {s : State} {c p a st : Nat} {e : Entry} (h : s.xrun (engKey c p) = none)
    (hst : xStartStatus p e = some st) : (s.advance c p .x).xExec c p a e = (s.advance c p .x).endEntry c p .x a st := by
  simp [State.xExec, h, hst]

theorem State.xExec_starts {s : State} {c p a : Nat} {e : Entry} (h : s.xrun (engKey c p) = none)
    (hst : xStartStatus p e = none) :
    (s.advance c p .x).xExec c p a e =
      if 0xC00000000000 ≤ xDadr e then (s.xBegun c p a e).xLocal (engKey c p) (XRun.start a e)
      else (s.xBegun c p a e).ask (engKey c p) (XRun.start a e) := by
  simp [State.xExec, h, hst, State.xBegun, XRun.start]

theorem State.xBegun_engStep (s : State) (c u a : Nat) (e : Entry) :
    EngStep s (s.xBegun c u a e) (engKey c u) { (s.engOf (engKey c u)).issued .x with x := some (XRun.start a e) } :=
  (s.leaveHead_advance_engStep c u .x).setX _

/-! ### What a run asks of a slice (R183, R186) -/

/-- What the units hold does not decide whether a device address is refused. -/
theorem UnitsOnly.devStatus {s t : State} (h : UnitsOnly s t) (c a : Nat) : t.devStatus c a = s.devStatus c a := by
  rw [h]; rfl

theorem UnitsOnly.slice {s t : State} (h : UnitsOnly s t) (n : Nat) : t.slice n = s.slice n := by
  rw [h]; rfl

theorem UnitsOnly.mem {s t : State} (h : UnitsOnly s t) : t.mem = s.mem := by rw [h]

theorem UnitsOnly.badIn {s t : State} (h : UnitsOnly s t) (a len : Nat) : t.badIn a len = s.badIn a len := by
  rw [h]; rfl

theorem EngStep.setSlice {s t : State} {k : Nat} {e : Eng} (h : EngStep s t k e) (n : Nat) (l : Slice) :
    EngStep (s.setSlice n l) (t.setSlice n l) k e := h.map (fun s => s.setSlice n l) (fun _ _ _ => rfl) fun _ => rfl

/-- The request of a run that has moved nothing and asks for its first line. -/
def XRun.firstReq (r : XRun) (key : Nat) : SliceReq :=
  ⟨key, xCls r.entry, xDadr r.entry, r.chunk * xStep r.entry, 0, false, 0, false⟩

section

variable {s : State} {key a : Nat} {e : Entry}

/-- The requests of a class that stand at a slice and are not served. -/
def Slice.inClass (l : Slice) (cls : Cls) : Nat := (l.reqs.filter fun y => y.cls == cls && !y.served).length

theorem XRun.start_addr :
    xDadr (XRun.start a e).entry + xStep (XRun.start a e).entry * (XRun.start a e).done = xDadr e := rfl

theorem State.ask_refused (h : s.devStatus (keyCtx key) (xDadr e) ≠ 0) :
    s.ask key (XRun.start a e) = (if s.devStatus (keyCtx key) (xDadr e) / 256 = 3
      then s.count (ctrSlice (sliceOf (xDadr e)) + 18) else s).xEnd key a (s.devStatus (keyCtx key) (xDadr e)) :=
  if_pos h

theorem State.ask_room (h : s.devStatus (keyCtx key) (xDadr e) = 0)
    (hroom : (s.slice (sliceOf (xDadr e))).inClass (xCls e) < (xCls e).depth)
    (hw : (s.slice (sliceOf (xDadr e))).wait = []) :
    s.ask key (XRun.start a e) = (s.setSlice (sliceOf (xDadr e)) { s.slice (sliceOf (xDadr e)) with
      reqs := (s.slice (sliceOf (xDadr e))).reqs ++ [(XRun.start a e).firstReq key] }).setX key
        (some { XRun.start a e with asked := true }) := by
  refine (if_neg (not_not.mpr h)).trans ((if_neg ?_).trans ?_)
  · rw [XRun.start_addr, hw, Bool.or_eq_true, decide_eq_true_eq]
    exact fun h => h.elim (Nat.not_le.mpr hroom) (by simp)
  · rw [XRun.start_addr]
    dsimp only
    rw [hw]
    rfl

theorem State.ask_full (h : s.devStatus (keyCtx key) (xDadr e) = 0)
    (hfull : (xCls e).depth ≤ (s.slice (sliceOf (xDadr e))).inClass (xCls e))
    (hw : (s.slice (sliceOf (xDadr e))).wait.contains key = false) :
    s.ask key (XRun.start a e) = s.setSlice (sliceOf (xDadr e)) { s.slice (sliceOf (xDadr e)) with
      wait := (s.slice (sliceOf (xDadr e))).wait ++ [key] } := by
  refine (if_neg (not_not.mpr h)).trans ((if_pos ?_).trans ?_)
  · rw [Bool.or_eq_true, decide_eq_true_eq]
    exact Or.inl hfull
  · rw [XRun.start_addr, if_neg (ne_true_of_eq_false hw)]

end

/-! ### Transfers between Fieldbooks (R174, R175) -/

/-- A part of a good range is good. -/
theorem State.badIn_part {s : State} {a len b n : Nat} (h : s.badIn a len = false) (h1 : a ≤ b) (h2 : b + n ≤ a + len) :
    s.badIn b n = false := by
  simp only [State.badIn, List.any_eq_false, Bool.and_eq_true, decide_eq_true_eq, not_and] at h ⊢
  intro kv hkv hlo hhi
  exact h kv hkv (by omega) (by omega)

theorem Memory.readN_length (m : Memory) (a n : Nat) : (m.readN a n).length = n := by
  induction n generalizing a with
  | zero => rfl
  | succ n ih => simp [Memory.readN, ih]

theorem Memory.readN_getElem (m : Memory) (a n i : Nat) (hi : i < (m.readN a n).length) :
    (m.readN a n)[i] = m.read (a + i) := by
  induction n generalizing a i with
  | zero => simp [Memory.readN] at hi
  | succ n ih =>
    cases i with
    | zero => rfl
    | succ i => simp only [Memory.readN, List.getElem_cons_succ, ih, show a + 1 + i = a + (i + 1) by omega]

/-- Bytes read at one place and written at another. -/
theorem Memory.read_writeN_readN (m : Memory) (dst src len : Nat) :
    (∀ i, i < len → (m.writeN dst (m.readN src len)).read (dst + i) = m.read (src + i)) ∧
    ∀ b, b < dst ∨ dst + len ≤ b → (m.writeN dst (m.readN src len)).read b = m.read b := by
  refine ⟨fun i hi => ?_, fun b hb => Memory.read_writeN_out m (by rwa [Memory.readN_length])⟩
  have hlt : i < (m.readN src len).length := by rwa [Memory.readN_length]
  rw [Memory.read_writeN_in m hlt, Memory.readN_getElem]

theorem State.load_fieldbook {s : State} {a : Nat} (h : 0xC00000000000 ≤ a) (len : Nat) :
    s.load a len = s.mem.readN a len := by
  rw [State.load, if_pos]
  have h1 : shelfAddr 637 0 ≤ a := by unfold shelfAddr; omega
  rw [decide_eq_true h1, Bool.or_true]

theorem fbAddr_le (p o : Nat) : 0xC00000000000 ≤ fbAddr p o := by unfold fbAddr; omega

/-- Good granules move all, from the source as it was. -/
theorem State.moveGranules_good {s : State} {p n : Nat} {e : Entry} {dst src : Nat} (hn : n ≠ 0)
    (hd : 0xC00000000000 ≤ xDadr e)
    (hto : fld e 0 8 = 1 ∧ src = xDadr e ∧ dst = fbAddr p (16 * xFadr e) ∨
      fld e 0 8 = 2 ∧ src = fbAddr p (16 * xFadr e) ∧ dst = xDadr e)
    (hg : s.badIn src (16 * n) = false) :
    (s.moveGranules p e 0 n).1.mem = s.mem.writeN dst (s.mem.readN src (16 * n)) ∧
      (s.moveGranules p e 0 n).2.2 = none := by
  have hall : ((List.range n).find? fun i => s.badIn (src + 16 * i) 16) = none := by
    refine List.find?_eq_none.mpr fun i hi => ?_
    have hi := List.mem_range.mp hi
    exact ne_true_of_eq_false (State.badIn_part hg (by omega) (by omega))
  obtain ⟨hop, rfl, rfl⟩ | ⟨hop, rfl, rfl⟩ := hto
  · simp [State.moveGranules, hop, hall, hn, State.load_fieldbook hd, State.store]
  · simp [State.moveGranules, hop, hall, hn, State.load_fieldbook (fbAddr_le _ _), State.write, State.captureWrite,
      Nat.not_lt.2 hd, State.store]

theorem xTotal_of_copy {e : Entry} (h : fld e 0 8 = 1 ∨ fld e 0 8 = 2) : xAtom e = false ∧ xTotal e = fld e 84 24 := by
  have ha : xAtom e = false := by rcases h with h | h <;> simp [xAtom, h]
  exact ⟨ha, by simp [xTotal, ha]⟩

theorem xLen_ne_zero {p : Nat} {e : Entry} (h : xStartStatus p e = none) : fld e 84 24 ≠ 0 := by
  intro h0
  simp [xStartStatus, h0] at h

/-- A transfer that nothing refuses ends with DONE and leaves the engine. -/
theorem State.xLocal_copies {s : State} {key p a : Nat} {e : Entry} {dst src : Nat} (hp : keyUnit key = p)
    (hadm : region (xDadr e) = .fieldbook p ∨ s.devStatus (keyCtx key) (xDadr e) = 0)
    (hd : 0xC00000000000 ≤ xDadr e) (hn : fld e 84 24 ≠ 0)
    (hto : fld e 0 8 = 1 ∧ src = xDadr e ∧ dst = fbAddr p (16 * xFadr e) ∨
      fld e 0 8 = 2 ∧ src = fbAddr p (16 * xFadr e) ∧ dst = xDadr e)
    (hg : s.badIn src (16 * fld e 84 24) = false) :
    (s.xLocal key (XRun.start a e)).mem = s.mem.writeN dst (s.mem.readN src (16 * fld e 84 24)) ∧
      ((s.xLocal key (XRun.start a e)).engOf key).x = none := by
  obtain ⟨hatom, htotal⟩ := xTotal_of_copy (hto.imp (·.1) (·.1))
  obtain ⟨hmem, hbad⟩ := State.moveGranules_good hn hd hto hg
  have hopen : ¬ (s.devStatus (keyCtx key) (xDadr e) ≠ 0 && !(region (xDadr e) == .fieldbook p)) = true := by
    rcases hadm with h | h <;> simp [h]
  have hrun : s.xLocal key (XRun.start a e) = ((s.moveGranules p e 0 (fld e 84 24)).1.setX key none) := by
    subst hp
    refine (if_neg hopen).trans ?_
    have hmove : s.xMove (keyUnit key) (XRun.start a e).entry (XRun.start a e).done
        (xTotal (XRun.start a e).entry - (XRun.start a e).done) = s.moveGranules (keyUnit key) e 0 (fld e 84 24) := by
      simp [State.xMove, XRun.start, hatom, htotal]
    rw [hmove, hbad]
    rfl
  rw [hrun]
  exact ⟨hmem, by rw [State.setX, State.engOf_setEng]⟩

/-- An XGET or XPUT between Fieldbooks that begins has moved its granules when it has issued. -/
theorem State.xExec_copies {s : State} {c p a : Nat} {e : Entry} {dst src : Nat} (hidle : s.xrun (engKey c p) = none)
    (hst : xStartStatus p e = none) (hctx : keyCtx (engKey c p) = c) (hunit : keyUnit (engKey c p) = p)
    (hadm : region (xDadr e) = .fieldbook p ∨ s.devStatus c (xDadr e) = 0) (hd : 0xC00000000000 ≤ xDadr e)
    (hto : fld e 0 8 = 1 ∧ src = xDadr e ∧ dst = fbAddr p (16 * xFadr e) ∨
      fld e 0 8 = 2 ∧ src = fbAddr p (16 * xFadr e) ∧ dst = xDadr e)
    (hg : s.badIn src (16 * fld e 84 24) = false) :
    (∀ i, i < 16 * fld e 84 24 → ((s.advance c p .x).xExec c p a e).mem.read (dst + i) = s.mem.read (src + i)) ∧
    (∀ b, b < dst ∨ dst + 16 * fld e 84 24 ≤ b → ((s.advance c p .x).xExec c p a e).mem.read b = s.mem.read b) ∧
    (((s.advance c p .x).xExec c p a e).engOf (engKey c p)).x = none := by
  have hbegun := (s.xBegun_engStep c p a e).rest
  have hadm' : region (xDadr e) = .fieldbook p ∨ (s.xBegun c p a e).devStatus (keyCtx (engKey c p)) (xDadr e) = 0 := by
    rwa [hbegun.devStatus, hctx]
  obtain ⟨hmem, hx⟩ := State.xLocal_copies (a := a) hunit hadm' hd (xLen_ne_zero hst) hto (by rwa [hbegun.badIn])
  obtain ⟨hin, hout⟩ := Memory.read_writeN_readN s.mem dst src (16 * fld e 84 24)
  rw [State.xExec_starts hidle hst, if_pos hd, hmem, hbegun.mem]
  exact ⟨hin, hout, hx⟩

/-! ### One element of an atomic operation (R187) -/

theorem leNat_lt (bs : List Byte) : leNat bs < 256 ^ bs.length := by
  induction bs with
  | nil => simp [leNat]
  | cons b bs ih =>
    have hb : b.toNat < 256 := b.isLt
    rw [leNat, List.length_cons, pow_succ]
    omega

theorem Memory.readLE_lt (m : Memory) (a len : Nat) : m.readLE a len < 256 ^ len := by
  have h := leNat_lt (m.readN a len)
  rwa [Memory.readN_length] at h

theorem Memory.readLE_writeN_out (m : Memory) {a x n : Nat} {bs : List Byte} (h : x + n ≤ a ∨ a + bs.length ≤ x) :
    (m.writeN a bs).readLE x n = m.readLE x n := by
  rw [Memory.readLE, Memory.readLE, Memory.readN_writeN_out m n x h]

theorem atomOld_le (e : Entry) (v : Nat) : atomOld e v ≤ v := by
  unfold atomOld
  split
  · exact Nat.mod_le ..
  · exact Nat.le_refl _

/-- The value that element `k` of an atomic operation finds, and the one that it leaves, at the device side. -/
def State.atomVals (s : State) (p : Nat) (e : Entry) (k : Nat) : Nat × Nat :=
  let f := fbAddr p (16 * xFadr e) + atomStride e * k
  let old := atomOld e (s.mem.readLE (xDadr e + atomW e * k) (atomW e))
  (old, atomResult e old (atomOld e (s.mem.readLE f (atomW e))) (s.mem.readLE (f + atomW e) (atomW e)))

/-- A good element is written at the device side, its old value with RET at the Fieldbook side. -/
theorem State.atomOne_good {s : State} {p k : Nat} {e : Entry}
    (hf : s.badIn (fbAddr p (16 * xFadr e) + atomStride e * k) (atomStride e) = false)
    (hd : s.badIn (xDadr e + atomW e * k) (atomW e) = false) :
    ∃ t, s.atomOne p e k = .inl t ∧ t.eng = s.eng ∧ t.mem =
      if bit e 19 = true then (s.mem.writeN (xDadr e + atomW e * k) (toLE (atomW e) (s.atomVals p e k).2)).writeN
        (fbAddr p (16 * xFadr e) + atomStride e * k) (toLE (atomW e) (s.atomVals p e k).1)
      else s.mem.writeN (xDadr e + atomW e * k) (toLE (atomW e) (s.atomVals p e k).2) := by
  refine ⟨_, (if_neg (ne_true_of_eq_false hf)).trans (if_neg (ne_true_of_eq_false hd)), ?_, ?_⟩
  all_goals by_cases hret : bit e 19 = true
  all_goals simp [hret, State.store, State.atomVals]

/-- The memory after an element: the new value at the device side, the old one with RET at the Fieldbook side, and no other
byte changed. -/
theorem Memory.atom_effect {m t : Memory} {d f w old new : Nat} {ret : Bool} (hdf : d + w ≤ f ∨ f + w ≤ d)
    (ht : t = if ret = true then (m.writeN d (toLE w new)).writeN f (toLE w old) else m.writeN d (toLE w new)) :
    t.readLE d w = new % 256 ^ w ∧
    (ret = false → ∀ b, b < d ∨ d + w ≤ b → t.read b = m.read b) ∧
    (ret = true → t.readLE f w = old % 256 ^ w ∧
      ∀ b, b < d ∨ d + w ≤ b → b < f ∨ f + w ≤ b → t.read b = m.read b) := by
  have hdev : (m.writeN d (toLE w new)).readLE d w = new % 256 ^ w := m.readLE_writeLE d w new
  have hout : ∀ b, b < d ∨ d + w ≤ b → (m.writeN d (toLE w new)).read b = m.read b :=
    fun b hb => Memory.read_writeN_out m (by rwa [toLE_length])
  cases ret with
  | false =>
    subst ht
    exact ⟨hdev, fun _ => hout, fun h => by cases h⟩
  | true =>
    subst ht
    refine ⟨?_, fun h => (by cases h), fun _ => ⟨Memory.readLE_writeLE _ f w old, fun b hd hf => ?_⟩⟩
    · exact (Memory.readLE_writeN_out _ (by rwa [toLE_length])).trans hdev
    · exact (Memory.read_writeN_out _ (by rwa [toLE_length])).trans (hout b hd)

section

variable {e : Entry} {old x new : Nat}

theorem atomOld_t24 (ha : xAop e ≠ 1) (hf : fld e 14 4 = 0xC) : atomOld e x = x % 2 ^ 24 := by simp [atomOld, ha, hf]

theorem atomOld_self (h : xAop e = 1 ∨ fld e 14 4 ≠ 0xC) : atomOld e x = x := by
  rcases h with h | h <;> simp [atomOld, h]

theorem atomResult_add {f : Fmt} (ha : xAop e = 0) (hf : fmtOf (fld e 14 4) = some f) :
    atomResult e old x new = (old + x) % 2 ^ f.tallyW := by simp [atomResult, ha, hf]

theorem atomResult_or (ha : xAop e = 1) (hb : bit e 18 = false) : atomResult e old x new = old ||| x := by
  simp [atomResult, ha, hb]

theorem atomResult_maxMin {g : Fmt} (ha : xAop e = 2 ∨ xAop e = 3) (hg : fmtOf (fld e 14 4) = some g) :
    atomResult e old x new = maxMinCode (xAop e == 2) g old x := by
  rcases ha with ha | ha <;> simp [atomResult, ha, hg]

theorem atomResult_swap (ha : xAop e = 4) : atomResult e old x new = x := by simp [atomResult, ha]

theorem atomResult_cas (ha : xAop e = 5) : atomResult e old x new = if old = x then new else old := by
  simp [atomResult, ha]

/-- The element bytes of a sum of Tally counts. -/
theorem atomW_tally {f : Fmt} (ha : xAop e = 0) (hf : fmtOf (fld e 14 4) = some f) (ht : f.isTally = true) :
    atomW e = memBytes f := by simp [atomW, atomWidth, ha, hf, ht]

/-- A Tally count fits the memory word that it lies in (R80). -/
theorem tally_fits {f : Fmt} (h : f.isTally = true) : 2 ^ f.tallyW ≤ 256 ^ memBytes f := by
  cases f with
  | t24 => decide
  | t32 => decide
  | t64 => decide
  | _ => cases h

theorem atomW_or (ha : xAop e = 1) : atomW e = 4 := by simp [atomW, atomWidth, ha]

end

end Sys2Proof.Machine

section
open Sys2Proof Sys2Proof.Machine

/-- Settles O20: an entry by what its run asks or moves once it has begun; an element by what is written at its two sides. -/
theorem transferEntries : Obligations.TransferEntries := by
  unfold Obligations.TransferEntries
  refine ⟨fun s c u e cmd h0 hready hcmd => ?_, fun s c u e p h0 hready hidle hst hd hreg hadm hctx hunit => ?_,
    fun s p k e => ?_⟩
  · intro key x a n r inClass
    have hrun := exec_xEntry h0 hready hcmd
    refine ⟨fun hx => ?_, fun hx hst hlt hkey => ?_, fun st hx hst => ?_⟩
    · rw [State.xExec_busy hx] at hrun
      exact ⟨_, hrun, s.waitHead_advance_engStep c u.val .x e .engine⟩
    · rw [State.xExec_starts hx hst, if_neg (by omega)] at hrun
      have hbegun := s.xBegun_engStep c u.val a e
      have hdevs : (s.xBegun c u.val a e).devStatus (keyCtx key) (xDadr e) = s.devStatus c (xDadr e) := by
        rw [hkey, hbegun.rest.devStatus]
      have hslice : (s.xBegun c u.val a e).slice n = s.slice n := hbegun.rest.slice n
      refine ⟨fun hdev hroom hwait => ?_, fun hdev hfull hwait => ?_, fun hdev => ?_⟩
      · rw [State.ask_room (hdevs.trans hdev) (by rwa [hslice]) (by rwa [hslice]), hslice] at hrun
        exact ⟨_, hrun, (hbegun.setSlice n _).setX _⟩
      · rw [State.ask_full (hdevs.trans hdev) (by rwa [hslice]) (by rwa [hslice]), hslice] at hrun
        exact ⟨_, hrun, hbegun.setSlice n _⟩
      · rw [State.ask_refused (by rwa [hdevs]), hdevs] at hrun
        exact hrun
    · rw [State.xExec_refused hx hst] at hrun
      exact hrun
  · intro fb len
    have hown : region (xDadr e) = .fieldbook u.val ∨ s.devStatus c (xDadr e) = 0 :=
      hadm.imp_left fun h => by rw [hreg, h]
    refine ⟨fun hop hg => ?_, fun hop hg => ?_⟩
    · have hrun := exec_xEntry (e := e) (cmd := .xget u e) h0 hready (by simp [hop])
      exact ⟨_, hrun, State.xExec_copies hidle hst hctx hunit hown hd (.inl ⟨hop, rfl, rfl⟩) hg⟩
    · have hrun := exec_xEntry (e := e) (cmd := .xput u e) h0 hready (by simp [hop])
      exact ⟨_, hrun, State.xExec_copies hidle hst hctx hunit hown hd (.inr ⟨hop, rfl, rfl⟩) hg⟩
  · intro w d f old x hf hd hdf
    obtain ⟨t, hrun, heng, hmem⟩ := State.atomOne_good hf hd
    obtain ⟨hnew, hplain, hret⟩ := Memory.atom_effect hdf hmem
    have hold : old < 256 ^ w := s.mem.readLE_lt d w
    have hx : x < 256 ^ w := s.mem.readLE_lt f w
    have hres : t.mem.readLE d w = atomResult e (atomOld e old) (atomOld e x) (s.mem.readLE (f + w) w) % 256 ^ w := hnew
    have fits {r n : Nat} (hr : atomResult e (atomOld e old) (atomOld e x) (s.mem.readLE (f + w) w) = r) (hw : w = n)
        (hlt : r < 256 ^ n) : t.mem.readLE d n = r := by
      rw [hr, hw] at hres
      exact hres.trans (Nat.mod_eq_of_lt hlt)
    have tally (fm : Fmt) (ha : xAop e = 0) (hf : fmtOf (fld e 14 4) = some fm) (ht : fm.isTally = true) :
        t.mem.readLE d (memBytes fm) = (atomOld e old + atomOld e x) % 2 ^ fm.tallyW :=
      fits (atomResult_add ha hf) (atomW_tally ha hf ht) (Nat.lt_of_lt_of_le (Nat.mod_lt _ (by positivity)) (tally_fits ht))
    refine ⟨t, hrun, heng, hplain, fun h => ?_, fun ha hfmt => ?_, fun ha hfmt => ?_, fun ha hfmt => ?_, fun ha hb => ?_,
      fun g ha hg hfmt => ?_, fun ha hfmt => ?_, fun ha hfmt => ?_⟩
    · obtain ⟨hback, hout⟩ := hret h
      exact ⟨hback.trans (Nat.mod_eq_of_lt (Nat.lt_of_le_of_lt (atomOld_le e old) hold)), hout⟩
    · have h := tally .t24 ha (by rw [hfmt]; rfl) rfl
      rwa [atomOld_t24 (by omega) hfmt, atomOld_t24 (by omega) hfmt] at h
    · have h := tally .t32 ha (by rw [hfmt]; rfl) rfl
      rwa [atomOld_self (by omega), atomOld_self (by omega)] at h
    · have h := tally .t64 ha (by rw [hfmt]; rfl) rfl
      rwa [atomOld_self (by omega), atomOld_self (by omega)] at h
    · have hw : w = 4 := atomW_or ha
      rw [hw] at hold hx
      rw [atomOld_self (.inl ha), atomOld_self (.inl ha)] at fits
      exact fits (atomResult_or ha hb) hw (Nat.or_lt_two_pow (n := 32) hold hx)
    · rw [atomResult_maxMin ha hg, atomOld_self (.inr hfmt), atomOld_self (.inr hfmt)] at hres
      exact hres
    · have hne : fld e 14 4 ≠ 0xC := by omega
      rw [atomOld_self (.inr hne), atomOld_self (.inr hne)] at fits
      exact fits (atomResult_swap ha) rfl hx
    · have hne : fld e 14 4 ≠ 0xC := by omega
      rw [atomOld_self (.inr hne), atomOld_self (.inr hne)] at fits
      refine fits (atomResult_cas ha) rfl ?_
      split_ifs
      · exact s.mem.readLE_lt _ w
      · exact hold

end

namespace Sys2Proof.Machine

/-! # The slices of the Archive (O21) -/

/-! ### What a slice serves next (R183) -/

theorem Slice.pick_single {l : Slice} {y : SliceReq} {due : Bool} {ready : SliceReq → Bool} (h : l.reqs = [y])
    (hs : y.served = false) (hr : ready y = true) : l.pick due ready = some y := by
  have hw : l.reqs.filter (fun q => !q.served && ready q) = [y] := by simp [h, hs, hr]
  unfold Slice.pick
  extract_lets w first bg
  have hfirst : ∀ f : SliceReq → Bool, first f = if f y = true then some y else none := fun f => by
    simp only [first, w, hw]
    cases hf : f y <;> simp [hf]
  rw [hfirst, hfirst, hfirst, hfirst, show bg = _ from hfirst _]
  cases hc : y.cls with
  | bulk => by_cases hage : 4096 < y.age <;> simp [hage]
  | background => cases due <;> simp
  | control => simp
  | collective => simp

theorem Slice.pick_served {l : Slice} {due : Bool} {ready : SliceReq → Bool} (h : ∀ q ∈ l.reqs, q.served = true) :
    l.pick due ready = none := by
  have hw : l.reqs.filter (fun q => !q.served && ready q) = [] :=
    List.filter_eq_nil_iff.mpr fun q hq => by simp [h q hq]
  unfold Slice.pick
  extract_lets w first bg
  have hfirst : ∀ f : SliceReq → Bool, first f = none := fun f => by simp only [first, w, hw, List.find?_nil]
  rw [hfirst, hfirst, hfirst, hfirst, show bg = _ from hfirst _]
  cases due <;> rfl

/-- One request never finds all 64 miss-handling entries busy. -/
theorem Slice.busyMhe_single {l : Slice} {y : SliceReq} (h : l.reqs = [y]) : ¬ 64 ≤ l.busyMhe := by
  have hle := List.length_filter_le (·.miss) l.reqs
  rw [h, List.length_singleton] at hle
  rw [Slice.busyMhe, h]
  omega

variable {s : State} {n : Nat} {y : SliceReq}

theorem State.nextReq_single (h : (s.slice n).reqs = [y]) (hs : y.served = false) : s.nextReq n = some y := by
  refine Slice.pick_single h hs ?_
  simp [State.mheWaits, Slice.busyMhe_single h]

theorem State.nextReq_served (h : ∀ q ∈ (s.slice n).reqs, q.served = true) : s.nextReq n = none :=
  Slice.pick_served h

theorem State.serveOne_served (h : ∀ q ∈ (s.slice n).reqs, q.served = true) : s.serveOne n = s := by
  rw [State.serveOne, State.nextReq_served h]

/-- With every run's line asked for, no run asks at the clock. -/
theorem State.askWaiting_of_asked (h : ∀ k r, s.xrun k = some r → r.asked = true) (n : Nat) :
    s.askWaiting n = s.setSlice n { s.slice n with wait := [] } := by
  have hwait : (s.slice n).wait.filter (fun k => (s.xrun k).any fun (r : XRun) => !r.asked) = [] := by
    refine List.filter_eq_nil_iff.mpr fun k _ => ?_
    cases hk : s.xrun k with
    | none => simp
    | some r => simp [h k r hk]
  unfold State.askWaiting
  rw [hwait]
  refine List.foldl_fixed' (fun k => ?_) _
  split
  · next r hr => rw [h k r hr]; rfl
  · rfl

theorem State.countAll_mem_eng_arc (s : State) (ks : List Nat) :
    (s.countAll ks).mem = s.mem ∧ (s.countAll ks).eng = s.eng ∧ (s.countAll ks).arc = s.arc := by
  rw [State.countAll_frame]
  exact ⟨rfl, rfl, rfl⟩

/-- A clock at which nothing waits ages nothing. -/
theorem State.ageSlice_served (hw : (s.slice n).wait = []) (h : ∀ q ∈ (s.slice n).reqs, q.served = true) :
    (s.ageSlice n).mem = s.mem ∧ (s.ageSlice n).eng = s.eng ∧ ((s.ageSlice n).slice n).reqs = (s.slice n).reqs := by
  unfold State.ageSlice
  extract_lets l w out s1 s2
  have hout : out = [] := by simp only [out, l, hw, List.filterMap_nil]
  have hs2 : s2 = s1 := by simp only [s2, hout, List.foldl_nil]
  have hreqs : l.reqs.map (fun q => if q.served then q else { q with age := q.age + 1 }) = l.reqs :=
    (List.map_congr_left fun q hq => if_pos (h q hq)).trans (List.map_id _)
  obtain ⟨hmem, heng, -⟩ := s.countAll_mem_eng_arc ((w.map fun q => ctrSlice n + 13 + q.cls.ix) ++
    out.map (fun kr => ctrSlice n + 13 + (xCls kr.2.entry).ix) ++ if 64 ≤ l.busyMhe then [ctrSlice n + 24] else [])
  rw [hs2, hreqs]
  exact ⟨hmem, heng, by rw [State.slice_setSlice]⟩

/-! ### One request served (R183, R184) -/

/-- A request of a slice marked as served. -/
def State.putServed (s : State) (n : Nat) (y : SliceReq) (st : Nat) (miss : Bool) : State :=
  s.setSlice n { s.slice n with reqs := (s.slice n).reqs.map fun x =>
    if x = y then { x with served := true, status := st, miss := miss } else x }

/-- A request of an engine that holds no run, as one of a unit that was reset, moves nothing. -/
theorem State.serveReq_none (h : (s.slice n).reqs = [y]) (hx : s.xrun y.eng = none) :
    s.serveReq n y = (s.count (ctrSlice n + 9 + y.cls.ix)).putServed n y 0 false := by
  have hfree : ¬ (s.misses y.addr && decide (64 ≤ (s.slice n).busyMhe)) = true := by simp [Slice.busyMhe_single h]
  rw [State.serveReq, if_neg hfree, hx]
  rfl

/-- The state in which a run has moved what its request asks for, before the request is marked as served. -/
def State.moved (s : State) (y : SliceReq) (r : XRun) : State :=
  let m := s.xMove (keyUnit y.eng) r.entry r.done (y.len / xStep r.entry)
  (m.1.setX y.eng (some { r with done := r.done + m.2.1 })).accessLine y.cls (fld r.entry 0 8 != 1) y.addr

theorem State.serveReq_some {r : XRun} (h : (s.slice n).reqs = [y]) (hx : s.xrun y.eng = some r) :
    s.serveReq n y = match (s.xMove (keyUnit y.eng) r.entry r.done (y.len / xStep r.entry)).2.2 with
      | some a => ((s.moved y r).uncRead a (codeUnit (keyUnit y.eng))).putServed n y 0x0723 (s.misses y.addr)
      | none => (s.moved y r).putServed n y 0 (s.misses y.addr) := by
  have hfree : ¬ (s.misses y.addr && decide (64 ≤ (s.slice n).busyMhe)) = true := by simp [Slice.busyMhe_single h]
  rw [State.serveReq, if_neg hfree, hx]
  rfl

/-! ### One clock of a slice with one request -/

/-- The state in which a clock serves its first request, with no run left to ask. -/
def State.allAsked (s : State) (n : Nat) : State := s.setSlice n { s.slice n with wait := [] }

theorem State.allAsked_reqs (h : (s.slice n).reqs = [y]) : ((s.allAsked n).slice n).reqs = [y] := by
  rw [State.allAsked, State.slice_setSlice, h]

theorem State.putServed_slice {u : State} (st : Nat) (miss : Bool) (hu : u.slice n = (s.allAsked n).slice n)
    (h : (s.slice n).reqs = [y]) : (u.putServed n y st miss).slice n =
      { s.slice n with reqs := [{ y with served := true, status := st, miss := miss }], wait := [] } := by
  simp [State.putServed, hu, State.allAsked, h]

theorem State.serveOne_single (h : (s.slice n).reqs = [y]) (hs : y.served = false) :
    s.serveOne n = if y.cls == .background then (s.serveReq n y).setSlice n { (s.serveReq n y).slice n with bgClocks := 0 }
      else s.serveReq n y := by
  rw [State.serveOne, State.nextReq_single h hs]

/-- A served slice that nothing waits for stands through the rest of the clock. -/
theorem State.serveOne_ageSlice_served (hw : (s.slice n).wait = []) (h : ∀ q ∈ (s.slice n).reqs, q.served = true) :
    ((s.serveOne n).ageSlice n).mem = s.mem ∧ ((s.serveOne n).ageSlice n).eng = s.eng ∧
      (((s.serveOne n).ageSlice n).slice n).reqs = (s.slice n).reqs := by
  rw [State.serveOne_served h]
  exact State.ageSlice_served hw h

/-- A clock of a slice without requests. -/
theorem exec_sliceServe_idle {n : Fin 64} (v : EccResult) (hasked : ∀ k r, s.xrun k = some r → r.asked = true)
    (h : (s.slice n.val).reqs = []) :
    ∃ t, exec (.archiveSliceServe ⟨n, v⟩) s = .next t ∧ t.mem = s.mem ∧ t.eng = s.eng ∧ (t.slice n.val).reqs = [] := by
  have hslice : (s.allAsked n.val).slice n.val = { s.slice n.val with wait := [] } := State.slice_setSlice ..
  have hnone : ∀ q ∈ ((s.allAsked n.val).slice n.val).reqs, q.served = true := by simp [hslice, h]
  have hrun : exec (.archiveSliceServe ⟨n, v⟩) s =
      .next ((((s.allAsked n.val).serveOne n.val).serveOne n.val).ageSlice n.val) := by
    change execArchiveSliceServe ⟨n, v⟩ s = _
    rw [execArchiveSliceServe]
    dsimp only
    rw [State.askWaiting_of_asked hasked, ← State.allAsked, State.nextReq_served hnone]
  rw [State.serveOne_served hnone] at hrun
  obtain ⟨hmem, heng, hreqs⟩ := State.serveOne_ageSlice_served (by rw [hslice]) hnone
  exact ⟨_, hrun, hmem, heng, hreqs.trans (by rw [hslice, h])⟩

/-- A clock of a slice with one request, whose line reads as it lies: the request is served, and nothing else happens. -/
theorem exec_sliceServe_single {n : Fin 64} {v : EccResult} {y' : SliceReq}
    (hasked : ∀ k r, s.xrun k = some r → r.asked = true) (h : (s.slice n.val).reqs = [y]) (hs : y.served = false)
    (hv : v = .clean ∨ s.xrun y.eng = none)
    (hy : ((s.allAsked n.val).serveReq n.val y).slice n.val = { s.slice n.val with reqs := [y'], wait := [] })
    (hy' : y'.served = true) :
    ∃ t, exec (.archiveSliceServe ⟨n, v⟩) s = .next t ∧ t.mem = ((s.allAsked n.val).serveReq n.val y).mem ∧
      t.eng = ((s.allAsked n.val).serveReq n.val y).eng ∧ (t.slice n.val).reqs = [y'] := by
  have hslice : (s.allAsked n.val).slice n.val = { s.slice n.val with wait := [] } := State.slice_setSlice ..
  have hreq : ((s.allAsked n.val).slice n.val).reqs = [y] := by rw [hslice, h]
  have hrun : exec (.archiveSliceServe ⟨n, v⟩) s =
      .next ((((s.allAsked n.val).serveOne n.val).serveOne n.val).ageSlice n.val) := by
    change execArchiveSliceServe ⟨n, v⟩ s = _
    rw [execArchiveSliceServe]
    dsimp only
    rw [State.askWaiting_of_asked hasked, ← State.allAsked, State.nextReq_single hreq hs]
    rcases hv with rfl | hx
    · exact congrArg _ (by dsimp only [State.readVerdict]; rw [ite_self])
    · have hx' : (s.allAsked n.val).xrun y.eng = none := hx
      simp only [hx', Option.any_none, Bool.false_eq_true, if_false]
  rw [State.serveOne_single hreq hs] at hrun
  generalize (s.allAsked n.val).serveReq n.val y = u at hrun hy ⊢
  by_cases hb : (y.cls == .background) = true
  · rw [if_pos hb] at hrun
    have hu := State.slice_setSlice u n.val { u.slice n.val with bgClocks := 0 }
    obtain ⟨hmem, heng, hreqs⟩ := State.serveOne_ageSlice_served (n := n.val)
      (s := u.setSlice n.val { u.slice n.val with bgClocks := 0 }) (by rw [hu, hy]) (by rw [hu, hy]; simpa using hy')
    exact ⟨_, hrun, hmem, heng, hreqs.trans (by rw [hu, hy])⟩
  · rw [if_neg hb] at hrun
    obtain ⟨hmem, heng, hreqs⟩ := State.serveOne_ageSlice_served (s := u) (n := n.val) (by rw [hy]) (by rw [hy]; simpa using hy')
    exact ⟨_, hrun, hmem, heng, hreqs.trans (by rw [hy])⟩

/-! ### What a served request of an XGET moves (R175, R189) -/

theorem State.accessLine_accessOnly (s : State) (cls : Cls) (w : Bool) (a : Nat) : AccessOnly s (s.accessLine cls w a) :=
  (((State.wakeMem_accessOnly s _ _).trans (State.count_accessOnly _ _ _)).trans (State.count_accessOnly _ _ _)).trans
    (State.cacheLine_accessOnly _ _ _)

theorem AccessOnly.slice {s t : State} (h : AccessOnly s t) (k : Nat) : t.slice k = s.slice k := by rw [h]; rfl

theorem LogOnly.slice {s t : State} (h : LogOnly s t) (k : Nat) : t.slice k = s.slice k := by rw [h]; rfl

/-- Granules that read well land in the Fieldbook. -/
theorem State.moveGranules_get {s : State} {p done n : Nat} {e : Entry} (hop : fld e 0 8 = 1)
    (hload : s.load (xDadr e + 16 * done) (16 * n) = s.mem.readN (xDadr e + 16 * done) (16 * n))
    (hg : s.badIn (xDadr e + 16 * done) (16 * n) = false) :
    ∃ t, s.moveGranules p e done n = (t, n, none) ∧ t.arc = s.arc ∧ t.eng = s.eng ∧
      t.mem.readN (fbAddr p (16 * (xFadr e + done))) (16 * n) = s.mem.readN (xDadr e + 16 * done) (16 * n) ∧
      ∀ b, b < fbAddr p (16 * (xFadr e + done)) ∨ fbAddr p (16 * (xFadr e + done)) + 16 * n ≤ b →
        t.mem.read b = s.mem.read b := by
  have hall : ((List.range n).find? fun i => s.badIn (xDadr e + 16 * done + 16 * i) 16) = none := by
    refine List.find?_eq_none.mpr fun i hi => ?_
    have hi := List.mem_range.mp hi
    exact ne_true_of_eq_false (State.badIn_part hg (by omega) (by omega))
  by_cases hn : n = 0
  · subst hn
    exact ⟨s.count (ctrBase p + 33) 0, by simp [State.moveGranules], rfl, rfl, rfl, fun b _ => rfl⟩
  · refine ⟨(s.store (fbAddr p (16 * (xFadr e + done))) (s.mem.readN (xDadr e + 16 * done) (16 * n))).count (ctrBase p + 33) n,
      by simp [State.moveGranules, hop, hall, hn, hload], rfl, rfl, ?_, fun b hb => ?_⟩
    · have h := s.mem.readN_writeN (fbAddr p (16 * (xFadr e + done))) (s.mem.readN (xDadr e + 16 * done) (16 * n))
      rwa [Memory.readN_length] at h
    · exact Memory.read_writeN_out _ (by rwa [Memory.readN_length])

/-- Where the first granule is uncorrectable nothing moves. -/
theorem State.moveGranules_bad {s : State} {p done n : Nat} {e : Entry} (hop : fld e 0 8 = 1) (hn : 1 ≤ n)
    (hb : s.badIn (xDadr e + 16 * done) 16 = true) :
    s.moveGranules p e done n = (s.count (ctrBase p + 33) 0, 0, some (xDadr e + 16 * done)) := by
  obtain ⟨m, rfl⟩ : ∃ m, n = m + 1 := ⟨n - 1, by omega⟩
  have hfirst : ((List.range (m + 1)).find? fun i => s.badIn (xDadr e + 16 * done + 16 * i) 16) = some 0 := by
    rw [List.range_succ_eq_map, List.find?_cons_of_pos (by simpa using hb)]
  simp [State.moveGranules, hop, hfirst]

theorem xMove_get {s : State} {p done n : Nat} {e : Entry} (hop : fld e 0 8 = 1) :
    s.xMove p e done (n / xStep e) = s.moveGranules p e done (n / 16) := by
  simp [State.xMove, xAtom, xStep, hop]

/-- What follows the move of a run reaches its engine and the caches only. -/
theorem State.moved_effect {s t : State} {r : XRun} {k : Nat} {o : Option Nat}
    (h : s.xMove (keyUnit y.eng) r.entry r.done (y.len / xStep r.entry) = (t, k, o)) (ht : t.arc = s.arc) (n : Nat) :
    (s.moved y r).mem = t.mem ∧ (s.moved y r).slice n = s.slice n ∧
      (s.moved y r).xrun y.eng = some { r with done := r.done + k } := by
  have hacc := (t.setX y.eng (some { r with done := r.done + k })).accessLine_accessOnly y.cls (fld r.entry 0 8 != 1) y.addr
  have hmoved : s.moved y r =
      (t.setX y.eng (some { r with done := r.done + k })).accessLine y.cls (fld r.entry 0 8 != 1) y.addr := by
    rw [State.moved, h]
  rw [hmoved]
  refine ⟨hacc.mem, (hacc.slice n).trans ?_, ?_⟩
  · simp only [State.slice, State.setX, State.setEng_arc, ht]
  · rw [State.xrun, State.engOf_congr hacc.eng, State.setX, State.engOf_setEng]

theorem State.load_below {s : State} {a len : Nat} (h : a + len ≤ shelfAddr 636 0) : s.load a len = s.mem.readN a len := by
  unfold State.load
  split_ifs with hc
  · rfl
  · simp only [Bool.or_eq_true, decide_eq_true_eq, not_or, Nat.not_lt] at hc
    have h0 : len = 0 := by omega
    rw [h0]
    rfl

/-! ### The end of a run (R185, R186) -/

/-- A run ends with a status with which its queue advances, behind which no entry waits in the engine. -/
theorem State.xFinish_advances {b t : State} {key a st : Nat} {x : Eng} (h : EngStep b t key x) (hst : advances st = true)
    (hhead : x.engineHead .x = none) (hkey : engKey (keyCtx key) (keyUnit key) = key) :
    EngStep b (t.xFinish key a st) key { x with x := none } := by
  have hend : t.xEnd key a st = t.setX key none := if_pos hst
  have hstep := h.setX none
  have hnone : ((t.setX key none).engOf (engKey (keyCtx key) (keyUnit key))).engineHead .x = none := by
    rw [hkey, hstep.here]
    exact hhead
  rw [State.xFinish, hend, State.xRetry, hnone]
  exact hstep

/-- A served request whose run has moved everything ends its entry, late or not (R185). -/
theorem State.requestDone_ends {s : State} {n : Nat} {y : SliceReq} {r : XRun} (hstale : y.eng ≠ staleKey)
    (hx : s.xrun y.eng = some r) (hst : y.status = 0) (hdone : r.done = xTotal r.entry) :
    ∃ d, advances d = true ∧ s.requestDone n y = (if s.arc.dlyth < y.age
      then (s.setSlice n { s.slice n with reqs := (s.slice n).reqs.erase y }).count (ctrBase (keyUnit y.eng) + 28)
      else s.setSlice n { s.slice n with reqs := (s.slice n).reqs.erase y }).xFinish y.eng r.addr d := by
  have hx' : (s.setSlice n { s.slice n with reqs := (s.slice n).reqs.erase y }).xrun y.eng = some r := hx
  unfold State.requestDone
  simp only [if_neg hstale, hx', hst, ne_eq, not_true_eq_false, if_false, State.runServed, hdone, if_true, decide_eq_true_eq]
  refine ⟨_, ?_, rfl⟩
  split_ifs
  · rfl
  · rfl

end Sys2Proof.Machine

section
open Sys2Proof Sys2Proof.Machine

/-- Settles O21: a clock with one request by what serving it does; the end of a run and its T1 by the request that they take. -/
theorem sliceServes : Obligations.SliceServes := by
  unfold Obligations.SliceServes
  refine ⟨fun s n hasked => ⟨fun h v => exec_sliceServe_idle v hasked h, fun y v h hs hx => ?_, fun y r h hs hx hop => ?_⟩,
    fun s n y r hfind hstale hx hst hdone hhead hkey => ?_, fun s c p r n y hctx hx hreq => ?_⟩
  · have hserve := State.serveReq_none (s := s.allAsked n.val) (State.allAsked_reqs h) hx
    obtain ⟨t, hrun, hmem, -, hreqs⟩ := exec_sliceServe_single (v := v) hasked h hs (.inr hx)
      (by rw [hserve]; exact State.putServed_slice 0 false rfl h) rfl
    exact ⟨t, hrun, hmem.trans (by rw [hserve]; rfl), hreqs⟩
  · intro dev fb k
    have hserve := State.serveReq_some (s := s.allAsked n.val) (State.allAsked_reqs h) hx
    refine ⟨fun hend hgood => ?_, fun hk hlt hbad => ?_⟩
    · obtain ⟨u, hmove, harc, -, hin, hout⟩ :=
        State.moveGranules_get (s := s.allAsked n.val) (p := keyUnit y.eng) hop (State.load_below hend) hgood
      rw [← xMove_get hop] at hmove
      obtain ⟨hmem, hslice, hxrun⟩ := State.moved_effect hmove harc n.val
      rw [hmove] at hserve
      obtain ⟨t, hrun, htmem, hteng, hreqs⟩ := exec_sliceServe_single (v := .clean) hasked h hs (.inl rfl)
        (by rw [hserve]; exact State.putServed_slice 0 _ hslice h) rfl
      rw [hserve] at htmem hteng
      have hm : t.mem = u.mem := htmem.trans hmem
      refine ⟨t, hrun, by rw [hm]; exact hin, fun b hb => by rw [hm]; exact hout b hb, ?_, hreqs⟩
      rw [State.xrun, State.engOf_congr hteng]
      exact hxrun
    · have hmove := State.moveGranules_bad (s := s.allAsked n.val) (p := keyUnit y.eng) hop hk hbad
      rw [← xMove_get hop] at hmove
      obtain ⟨hmem, hslice, hxrun⟩ := State.moved_effect hmove rfl n.val
      have hlog := ((s.allAsked n.val).moved y r).lineUnc_logOnly dev (codeUnit (keyUnit y.eng))
      rw [← State.uncRead_of_lt hlt] at hlog
      rw [hmove] at hserve
      obtain ⟨t, hrun, htmem, hteng, hreqs⟩ := exec_sliceServe_single (v := .clean) hasked h hs (.inl rfl)
        (by rw [hserve]; exact State.putServed_slice 0x0723 _ ((hlog.slice _).trans hslice) h) rfl
      rw [hserve] at htmem hteng
      refine ⟨t, hrun, htmem.trans (hlog.mem.trans hmem), ?_, hreqs⟩
      rw [State.xrun, State.engOf_congr (hteng.trans hlog.eng)]
      exact hxrun
  · intro s1
    obtain ⟨d, hadv, hrun⟩ := State.requestDone_ends (n := n.val) hstale hx hst hdone
    have hexec : exec (.archiveRequestComplete n) s = .next (s.requestDone n.val y) := by
      change execArchiveRequestComplete n s = _
      rw [execArchiveRequestComplete, hfind]
    rw [hrun] at hexec
    refine ⟨_, hexec, State.xFinish_advances ?_ hadv hhead hkey⟩
    split_ifs
    · exact EngStep.refl ..
    · exact EngStep.refl ..
  · change execArchiveT1Expiry p s = _
    rw [execArchiveT1Expiry, hctx]
    dsimp only
    rw [hx]
    dsimp only
    rw [State.t1Expiry, hreq]

end

namespace Sys2Proof.Machine

/-! # Opening collectives and the admission round (O34) -/

/-! ### Opens (R249-R253) -/

/-- A record that its fields, its places or its plan refuse. -/
theorem State.openStatus_refused {s : State} {r : ColRec} {schild : List (BitVec 24)}
    (h : recordOk r schild = false ∨ s.recordPlaces r = false ∨
      (s.planStatus r ≠ 0x0723 ∧ (s.planStatus r ≠ 0 ∨ s.planOk r = false))) : s.openStatus r schild = some 0x0806 := by
  unfold State.openStatus
  by_cases hfirst : (!recordOk r schild || !s.recordPlaces r) = true
  · rw [if_pos hfirst]
  rw [if_neg hfirst]
  have hplan : s.planStatus r ≠ 0x0723 ∧ (s.planStatus r ≠ 0 ∨ s.planOk r = false) := by
    rcases h with h | h | h
    · simp [h] at hfirst
    · simp [h] at hfirst
    · exact h
  obtain ⟨h723, hbad⟩ := hplan
  by_cases h0 : s.planStatus r ≠ 0
  · rw [if_pos h0, if_neg h723]
  · rw [if_neg h0, if_pos (by simp [hbad.resolve_left h0])]

/-- A collective whose open enters the next round. -/
def State.opened (s : State) (r : ColRec) (schild : List (BitVec 24)) (acc : Nat) : Col :=
  { r := r, schild := schild.map (·.toNat), acc := acc, waiting := true, grant := 0, reason := 0,
    limit := if r.limit = 0 then s.flt.wlim.getD 3 0 else r.limit.toNat,
    st := .idle, run := 0, cur := ColRun.empty, epochs := [], early := [] }

theorem exec_colOpen {s : State} {h : Hdr} {rec : ColRec} {schild : List (BitVec 24)} {r : Started}
    (ha : Admitted s h 0x0407 (Instr.params (.colOpen h rec schild)) r) :
    exec (.colOpen h rec schild) s = .next (match s.openStatus rec schild with
      | some st => (if st = 0x0723 then s.planUnc rec else s).finish r st
      | none => ((s.planRead rec).setCol rec.handle.toNat (s.opened rec schild r.acc)).begin r) := by
  change Host.Outcome.next (s.command h 0x0407 (Instr.params (.colOpen h rec schild)) _) = _
  rw [ha.command]
  rfl

theorem State.planRead_accessOnly (s : State) (r : ColRec) : AccessOnly s (s.planRead r) :=
  AccessOnly.foldl (fun s (x : Nat × Nat) => s.access_accessOnly .control false x.1 x.2) (s.planRanges r) s

theorem LogOnly.cols {s t : State} (h : LogOnly s t) : t.cols = s.cols := by rw [h]

theorem AccessOnly.cols {s t : State} (h : AccessOnly s t) : t.cols = s.cols := by rw [h]

/-! ### The admission round (R253, R254) -/

theorem State.col_setCol (s : State) (h k : Nat) (c : Col) : (s.setCol h c).col k = if k = h then some c else s.col k := by
  split_ifs with hk
  · rw [hk]
    exact Map.find_put ..
  · exact Map.find_put_ne _ _ _ _ hk

/-- A collective set up before a command begins to wait is all that differs from the command beginning to wait. -/
theorem State.begin_setCol (s : State) (h : Nat) (c : Col) (r : Started) :
    (s.setCol h c).begin r = { s.begin r with cols := ((s.setCol h c).begin r).cols } := rfl

theorem State.col_of_cols {s t : State} (h : t.cols = s.cols) (k : Nat) : t.col k = s.col k := by rw [State.col, h]; rfl

/-- Fabric slots granted in all. -/
def State.granted (s : State) : Nat := (s.cols.map fun kv => kv.2.grant).sum

/-- Slots and REASON that a round gives a collective (R253, R254). -/
def State.award (s : State) (c : Col) : Nat × Nat := if c.sums then s.admit1 c.r else (0, 0)

theorem State.admitCol_none {s : State} {h : Nat} (hc : s.col h = none) : s.admitCol h = s := by rw [State.admitCol, hc]

/-- A collective of a round opens with its award. -/
theorem State.admitCol_cols {s : State} {h : Nat} {c : Col} (hc : s.col h = some c) :
    (s.admitCol h).cols = (s.setCol h { c with waiting := false, grant := (s.award c).1, reason := (s.award c).2 }).cols := by
  rw [State.admitCol, hc]
  exact (State.finishAll_logOnly _ _ _ _).cols

theorem State.admitCol_col {s : State} {h : Nat} {c : Col} (hc : s.col h = some c) (k : Nat) : (s.admitCol h).col k =
    if k = h then some { c with waiting := false, grant := (s.award c).1, reason := (s.award c).2 } else s.col k := by
  rw [State.col_of_cols (State.admitCol_cols hc), State.col_setCol]

/-- The collectives whose handles a round goes through wait no longer, and the others are as they were. -/
theorem State.admitCols_waiting (l : List (Nat × Col)) (s : State) {k : Nat} {c : Col}
    (h : (l.foldl (fun s kv => s.admitCol kv.1) s).col k = some c) (hw : c.waiting = true) :
    s.col k = some c ∧ ∀ kv ∈ l, kv.1 ≠ k := by
  induction l generalizing s with
  | nil => exact ⟨h, fun _ hkv => by cases hkv⟩
  | cons x l ih =>
    obtain ⟨hs, hl⟩ := ih (s.admitCol x.1) h
    cases hx : s.col x.1 with
    | none =>
      rw [State.admitCol_none hx] at hs
      have hne : x.1 ≠ k := fun e => by rw [← e, hx] at hs; cases hs
      exact ⟨hs, fun kv hkv => (List.mem_cons.mp hkv).elim (fun e => e ▸ hne) (hl kv)⟩
    | some d =>
      rw [State.admitCol_col hx] at hs
      have hne : ¬ k = x.1 := fun e => by
        rw [if_pos e] at hs
        rw [← Option.some.inj hs] at hw
        cases hw
      rw [if_neg hne] at hs
      exact ⟨hs, fun kv hkv => (List.mem_cons.mp hkv).elim (fun e => e ▸ Ne.symm hne) (hl kv)⟩

theorem Map.mem_of_find {α : Type} {m : Map α} {k : Nat} {v : α} (h : Map.find m k = some v) : (k, v) ∈ m := by
  induction m with
  | nil => cases h
  | cons x m ih =>
    obtain ⟨j, w⟩ := x
    rw [Map.find] at h
    split_ifs at h with hj
    · rw [← hj, ← Option.some.inj h]
      exact List.mem_cons_self
    · exact List.mem_cons_of_mem _ (ih h)

theorem Map.sum_put_le {α : Type} (f : α → Nat) (m : Map α) (k : Nat) (v : α) :
    ((Map.put m k v).map fun kv => f kv.2).sum ≤ (m.map fun kv => f kv.2).sum + f v := by
  induction m with
  | nil => simp [Map.put]
  | cons x m ih =>
    simp only [Map.put]
    split_ifs <;> simp only [List.map_cons, List.sum_cons] <;> omega

/-- A round gives no more than what is free. -/
theorem State.award_le (s : State) (c : Col) : (s.award c).1 ≤ 4096 - s.granted := by
  unfold State.award
  split
  · unfold State.admit1
    extract_lets av sreq
    have hav : av ≤ 4096 - s.granted := by
      change (if c.r.acls = 0 then s.freeSlotsCol else s.freeSlotsCol - s.freeReserved) ≤ _
      split
      · exact Nat.le_refl _
      · exact Nat.sub_le ..
    split_ifs <;> simp only <;> omega
  · exact Nat.zero_le _

theorem State.admitCol_granted {s : State} (h : Nat) (hs : s.granted ≤ 4096) : (s.admitCol h).granted ≤ 4096 := by
  cases hc : s.col h with
  | none => rwa [State.admitCol_none hc]
  | some c =>
    have haward := s.award_le c
    have hput := Map.sum_put_le Col.grant s.cols h { c with waiting := false, grant := (s.award c).1, reason := (s.award c).2 }
    rw [State.granted, State.admitCol_cols hc]
    unfold State.granted at haward hs
    exact Nat.le_trans hput (by dsimp only; omega)

theorem State.admitCols_granted (l : List (Nat × Col)) {s : State} (hs : s.granted ≤ 4096) :
    (l.foldl (fun s kv => s.admitCol kv.1) s).granted ≤ 4096 := by
  induction l generalizing s with
  | nil => exact hs
  | cons x l ih => exact ih (State.admitCol_granted x.1 hs)

/-- The collectives of a round, in its order. -/
def State.roundOrder (s : State) : List (Nat × Col) :=
  sortBy (fun (x y : Nat × Col) =>
    decide (x.2.r.acls.toNat < y.2.r.acls.toNat) || (x.2.r.acls == y.2.r.acls && decide (x.2.acc ≤ y.2.acc)))
    (s.cols.filter fun kv => kv.2.waiting)

theorem exec_admissionRound (s : State) :
    exec .admissionRound s = .next (s.roundOrder.foldl (fun s kv => s.admitCol kv.1) s) := rfl

/-- After a round nothing waits. -/
theorem State.admissionRound_waiting {s : State} {k : Nat} {c : Col}
    (h : (s.roundOrder.foldl (fun s kv => s.admitCol kv.1) s).col k = some c) : c.waiting = false := by
  by_contra hw
  rw [Bool.not_eq_false] at hw
  obtain ⟨hs, hl⟩ := State.admitCols_waiting _ s h hw
  refine hl (k, c) ((mem_sortBy _ _ _).mpr (List.mem_filter.mpr ⟨?_, hw⟩)) rfl
  exact Map.mem_of_find hs

/-- The slots that a round may give a collective: those of the reservation only to class 0 (R254). -/
def State.available (s : State) (r : ColRec) : Nat :=
  if r.acls = 0 then s.freeSlotsCol else s.freeSlotsCol - s.freeReserved

section

variable {s : State} {c : Col}

theorem State.award_full (hs : c.sums = true) (h1 : 1 ≤ c.r.sreq.toNat) (h : c.r.sreq.toNat ≤ s.available c.r) :
    s.award c = (c.r.sreq.toNat, 0) := by
  rw [State.award, if_pos hs]
  exact (if_neg (by omega)).trans (if_pos h)

theorem State.award_less (hs : c.sums = true) (h : s.available c.r < c.r.sreq.toNat)
    (hmin : max c.r.smin.toNat 1 ≤ s.available c.r) : s.award c = (s.available c.r, 1) := by
  rw [State.award, if_pos hs]
  exact (if_neg (by omega)).trans ((if_neg (Nat.not_le.mpr h)).trans (if_pos hmin))

theorem State.award_none (hs : c.sums = true) (h : s.available c.r < c.r.sreq.toNat)
    (hmin : s.available c.r < max c.r.smin.toNat 1) : s.award c = (0, 2) := by
  rw [State.award, if_pos hs]
  exact (if_neg (by omega)).trans ((if_neg (Nat.not_le.mpr h)).trans (if_neg (Nat.not_le.mpr hmin)))

end

end Sys2Proof.Machine

section
open Sys2Proof Sys2Proof.Machine

/-- Settles O34: an open by its status; a round by what it awards one collective, and by induction over its order. -/
theorem collectiveOpens : Obligations.CollectiveOpens := by
  unfold Obligations.CollectiveOpens
  refine ⟨fun s h rec schild r ha => ?_, fun s => ?_⟩
  · have hrun := exec_colOpen ha
    refine ⟨fun st hst hne => ?_, fun hst => ?_, fun href => ?_, fun hst => ?_⟩
    · rw [hst] at hrun
      exact hrun.trans (congrArg (fun x : State => Host.Outcome.next (x.finish r st)) (if_neg hne))
    · rw [hst] at hrun
      exact hrun
    · rw [State.openStatus_refused href] at hrun
      exact hrun
    · rw [hst] at hrun
      have hcol := fun k => (State.col_of_cols (State.begin_cols _ r) k).trans
        ((s.planRead rec).col_setCol rec.handle.toNat k (s.opened rec schild r.acc))
      refine ⟨_, s.opened rec schild r.acc, hrun, (hcol _).trans (if_pos rfl), rfl, rfl, rfl, rfl, rfl, rfl, fun j hj => ?_,
        State.begin_setCol ..⟩
      exact (hcol j).trans ((if_neg hj).trans (State.col_of_cols (s.planRead_accessOnly rec).cols j))
  · refine ⟨_, exec_admissionRound s, fun h c => State.admissionRound_waiting, fun _ => State.admitCols_granted _,
      fun h c hone hc => ?_⟩
    intro free av
    have hround : s.roundOrder.foldl (fun s kv => s.admitCol kv.1) s = s.admitCol h := by rw [State.roundOrder, hone]; rfl
    have hcol := State.admitCol_col hc
    rw [hround]
    refine ⟨_, (hcol h).trans (if_pos rfl), rfl, fun j hj => (hcol j).trans (if_neg hj), fun hs => ?_, fun hs h1 hav => ?_,
      fun hs hav hmin => ?_, fun hs hav hmin => ?_⟩
    · rw [State.award, if_neg (ne_true_of_eq_false hs)]
      exact ⟨rfl, rfl⟩
    · rw [State.award_full hs h1 hav]
      exact ⟨rfl, rfl⟩
    · rw [State.award_less hs hav hmin]
      exact ⟨rfl, rfl⟩
    · rw [State.award_none hs hav hmin]
      exact ⟨rfl, rfl⟩

end

namespace Sys2Proof.Machine

/-! # A run that loses the tile which it is to take (O35)

A collective reads its plan through the cache (R179, R183). A miss of that read can put out a clean line that stands over a line
of HBM that cannot be read (R201): from then on that line reads as uncorrectable. Where it belongs to the tile that the engine
takes next from SRC, the run fails with 0x0723 (R189) and the tile is not merged. O35 asks only that the tile's lines read well
before the plan is read. -/

/-- The record of an RS collective of one rank whose one tile lies at address 0, values and codes, and whose plan lies one
period of the cache further up: the first lines of both belong to the same set. -/
def tileAtZero : ColRec :=
  { handle := 0, ctx := 0, kind := 0, vl := 0, acls := 0, te := 0, tw := 0, sreq := 0, smin := 0, limit := 0, nmem := 0,
    zmode := false, stream := false, datumw := false, rank := 0, ntile := 1, sop := 0, sfmt := 0, slen := 0,
    plan := 2684354560, src := 0, scode := 0, dest := 0, dcode := 0, sexp := 0, dtag := 0, rcnt := 0, scr := 0, pin := 0,
    runadr := 0, cadr := 0, voteadr := 0, votein := 0, scrlen := 0, rowb := 0, cap := 0, arm := 0, start := 0, done := 0,
    sparent := 0xFFFFFF }

/-- That collective, with a fabric slot, in a run that has taken nothing. -/
def tileCol : Col :=
  { r := tileAtZero, schild := [], limit := 0, acc := 0, waiting := false, grant := 1, reason := 0, st := .running, run := 0,
    cur := ColRun.empty, epochs := [], early := [] }

/-- The machine after reset with that collective, and with `fullWays` in the set of its tile: the oldest line there is the
tile's. The plan's one byte that is not 0 gives rank 0 the one tile, of which 256 contributions are to come. -/
def tileEvicting : State :=
  { State.reset with
    mem := [(2684354564, 1)]
    arc := { Arc.reset with cache := [(cacheKey 0, fullWays)] }
    cols := [(0, tileCol)] }

/-- What is left of the run once the engine has been told to take the tile. -/
def tileEvictingEnd : Option ColSt :=
  match exec (.colTileAccept 0) tileEvicting with
  | .next t => (t.col 0).map Col.st
  | _ => none

/-- Before the plan is read the tile reads well. -/
theorem tileEvicting_reads : ∀ x ∈ tileCol.tileRanges 0 0 0 1,
    tileEvicting.rangeStatus 0 x.1 x.2 = 0 ∧ tileEvicting.badKeys x.1 x.2 = [] := by
  decide +kernel

/-- The read of the plan loses the tile's line, and the run has ended. -/
theorem tileEvicting_ends : tileEvictingEnd = some .complete := by
  decide +kernel

end Sys2Proof.Machine

section
open Sys2Proof Sys2Proof.Machine

/-- Refutes O35: the read of the plan puts the tile's line out of the cache where HBM cannot be read under it (R189, R201), and
the run ends instead of merging the tile. -/
theorem not_collectiveRuns : ¬ Obligations.CollectiveRuns := by
  intro holds
  obtain ⟨-, -, -, accepts, -⟩ := holds tileEvicting 0 tileCol rfl rfl
  have hrun := accepts rfl rfl rfl (by decide) rfl (by decide) (by decide +kernel) tileEvicting_reads (.inl rfl)
    (by decide +kernel) (by decide +kernel)
  have hend := tileEvicting_ends
  rw [tileEvictingEnd, hrun] at hend
  simp [State.col, State.setCol, tileCol] at hend

end

namespace Sys2Proof.Machine

/-! # Temperatures and patrol reads of the stacks (O24) -/

/-! ### The temperature state (R203) -/

/-- On the way up each threshold is passed in turn. -/
theorem levelUp_eq (t : Nat) :
    levelUp t = if t ≤ 85 then 0 else if t ≤ 95 then 1 else if t ≤ 105 then 2 else if t ≤ 115 then 3 else 4 := by
  simp only [levelUp, ← List.countP_eq_length_filter, List.countP_cons, List.countP_nil, tempThreshold, decide_eq_true_eq]
  split_ifs <;> omega

/-- A cool stack goes straight to the state of its reading. -/
theorem nextLevel_zero (t : Nat) : nextLevel 0 t = levelUp t := by
  simp [nextLevel]

/-- A stopped stack stays stopped down to 100 °C. -/
theorem nextLevel_stopped (t : Nat) : nextLevel 4 t = if t < 100 then levelUp t else 4 := rfl

theorem foldl_max_filter_le (p : Nat → Bool) : ([1, 2, 3].filter p).foldl max 0 ≤ 3 := by
  simp only [List.filter_cons, List.filter_nil]
  split_ifs <;> decide

/-- Above 115 °C a stack stops, from whatever state. -/
theorem nextLevel_of_hot (cur : Nat) {t : Nat} (h : 115 < t) : nextLevel cur t = 4 := by
  have hup : levelUp t = 4 := by
    rw [levelUp_eq]
    split_ifs <;> omega
  have hdown := foldl_max_filter_le fun l => decide (l ≤ cur) && decide (tempThreshold l < t + 2)
  unfold nextLevel
  split_ifs <;> omega

theorem Stack.level_of_cool {v : Stack} (hs : v.stop = false) (ht : v.thr = false) (hr : v.rmul = 0) : v.level = 0 := by
  simp [Stack.level, hs, ht, hr]

theorem Stack.level_of_stop {v : Stack} (hs : v.stop = true) : v.level = 4 := if_pos hs

/-- The stack of a reading, at the state that the reading gives. -/
def Stack.read (v : Stack) (t : Nat) : Stack := v.setLevel (nextLevel v.level t) t

theorem Stack.read_cool {v : Stack} {t : Nat} (hs : v.stop = false) (ht : v.thr = false) (hr : v.rmul = 0) (hle : t ≤ 115) :
    (v.read t).stop = false ∧ (v.read t).thr = decide (105 < t) ∧
    (v.read t).rmul = if t ≤ 85 then 0 else if t ≤ 95 then 1 else 2 := by
  simp only [Stack.read, Stack.setLevel, Stack.level_of_cool hs ht hr, nextLevel_zero, levelUp_eq]
  by_cases h1 : t ≤ 85
  · simp [h1, show ¬ 105 < t by omega]
  by_cases h2 : t ≤ 95
  · simp [h1, h2, show ¬ 105 < t by omega]
  by_cases h3 : t ≤ 105
  · simp [h1, h2, h3]
  · simp [h1, h2, h3, hle, show 105 < t by omega]

theorem Stack.read_hot (v : Stack) {t : Nat} (h : 115 < t) : (v.read t).stop = true := by
  rw [Stack.read, nextLevel_of_hot _ h]
  rfl

theorem Stack.read_stopped {v : Stack} (hs : v.stop = true) (t : Nat) : (v.read t).stop = decide (100 ≤ t) := by
  rw [Stack.read, Stack.level_of_stop hs, nextLevel_stopped]
  by_cases h : t < 100
  · have hup : levelUp t ≠ 4 := by
      rw [levelUp_eq]
      split_ifs <;> omega
    simp [Stack.setLevel, h, hup, show ¬ 100 ≤ t by omega]
  · simp [Stack.setLevel, h, show 100 ≤ t by omega]

/-- A reading that does not stop a running stack sets the stack and nothing else. -/
theorem exec_hbmTempReading_stays {s : State} {h : Fin 12} {temp : Byte} (hst : (s.stack h.val).st ≠ 3)
    (hstay : ((s.stack h.val).read temp.toNat).stop = true → (s.stack h.val).stop = true) :
    exec (.hbmTempReading h temp) s = .next (s.setStack h.val ((s.stack h.val).read temp.toNat)) := by
  have hno : ¬ (nextLevel (s.stack h.val).level temp.toNat = 4 && !(s.stack h.val).stop) = true := by
    intro hstop
    rw [Bool.and_eq_true, decide_eq_true_eq, Bool.not_eq_true'] at hstop
    exact absurd (hstay (by rw [Stack.read, hstop.1]; rfl)) (ne_true_of_eq_false hstop.2)
  exact (if_neg hst).trans (if_neg hno)

theorem LogOnly.bnd {s t : State} (h : LogOnly s t) : t.bnd = s.bnd := by rw [h]

theorem LogOnly.hbm {s t : State} (h : LogOnly s t) : t.hbm = s.hbm := by rw [h]

theorem LogOnly.bad {s t : State} (h : LogOnly s t) : t.bad = s.bad := by rw [h]

theorem LogOnly.bindery {s t : State} (h : LogOnly s t) (k : Nat) : t.bindery k = s.bindery k :=
  State.bindery_of_bnd h.bnd k

theorem LogOnly.stack {s t : State} (h : LogOnly s t) (k : Nat) : t.stack k = s.stack k := by
  rw [State.stack, State.stack, h.hbm]

/-- A Bindery that runs nothing has nothing to stop. -/
theorem State.bndStop_of_idle {s : State} {h : Nat} (hcur : (s.bindery h).cur = none) (st : Nat) : s.bndStop h st = s := by
  simp [State.bndStop, hcur]

/-- The reading that stops a stack whose Bindery runs nothing is counted and logged. -/
theorem exec_hbmTempReading_stops {s : State} {h : Fin 12} {temp : Byte} (hst : (s.stack h.val).st ≠ 3)
    (hs : (s.stack h.val).stop = false) (hhot : 115 < temp.toNat) (hcur : (s.bindery h.val).cur = none) :
    ∃ t, exec (.hbmTempReading h temp) s = .next t ∧ LogOnly
      ((s.setStack h.val ((s.stack h.val).read temp.toNat)).count (ctrStack h.val + 9)) t := by
  have hstop : (nextLevel (s.stack h.val).level temp.toNat = 4 && !(s.stack h.val).stop) = true := by
    simp [nextLevel_of_hot _ hhot, hs]
  have hlog := State.log_logOnly ((s.setStack h.val ((s.stack h.val).read temp.toNat)).count (ctrStack h.val + 9))
    0x0051 0 1 (codeStack h.val) 0 0xFFFFFFFF []
  have hidle := (congrArg Bindery.cur (hlog.bindery h.val)).trans hcur
  exact ⟨_, (if_neg hst).trans ((if_pos hstop).trans (congrArg _ (State.bndStop_of_idle hidle _))), hlog⟩

/-! ### Patrol reads (R201) -/

/-- A line that patrol cannot read leaves the state but for the lines known as lost and the lines of the cache. -/
theorem State.patrolLoses_accessOnly (s : State) (a : Nat) : AccessOnly s (s.patrolLoses a) := by
  unfold State.patrolLoses
  cases s.cached a with
  | none => rfl
  | some l => exact State.setWays_accessOnly ..

theorem State.patrolLoses_uncached {s : State} {a : Nat} (h : s.cached a = none) : s.patrolLoses a = s.lose a := by
  rw [State.patrolLoses, h]

theorem State.patrolLoses_cached {s : State} {a : Nat} (h : s.cached a ≠ none) : (s.patrolLoses a).bad = s.bad := by
  unfold State.patrolLoses
  cases hc : s.cached a with
  | none => exact absurd hc h
  | some l => rfl

theorem AccessOnly.hbm {s t : State} (h : AccessOnly s t) : t.hbm = s.hbm := by rw [h]

theorem State.lose_badIn_line (s : State) {a : Nat} (h : a < 0xC00000000000) (ha : a / 256 * 256 = a) :
    (s.lose a).badIn a 256 = true := by
  have hone := s.lose_badIn h
  rw [ha] at hone
  by_contra hb
  rw [State.badIn_part (by simpa using hb) le_rfl (by omega)] at hone
  cases hone

/-- The stack with a row kept for hard repair. -/
def Stack.keepHard (v : Stack) (row : Nat) : Stack :=
  { v with hard := if v.hard.contains row then v.hard else v.hard ++ [row] }

theorem Stack.mem_keepHard (v : Stack) (row : Nat) : row ∈ (v.keepHard row).hard := by
  unfold Stack.keepHard
  by_cases h : row ∈ v.hard <;> simp [h]

/-- What an uncorrectable patrol read of the line at `a` leaves before it is logged. -/
def State.patrolLost (s : State) (h a row : Nat) : State :=
  (((s.count (ctrStack h + 12)).setStack h ((s.stack h).keepHard row)).patrolLoses a).count (ctrStack h + 1)

theorem State.patrolLost_accessOnly (s : State) (h a row : Nat) :
    AccessOnly ((s.count (ctrStack h + 12)).setStack h ((s.stack h).keepHard row)) (s.patrolLost h a row) :=
  (State.patrolLoses_accessOnly _ a).trans (State.count_accessOnly ..)

theorem State.patrolLost_stack (s : State) (h a row : Nat) : (s.patrolLost h a row).stack h = (s.stack h).keepHard row := by
  rw [State.stack, (s.patrolLost_accessOnly h a row).hbm]
  exact State.stack_setStack _ h _

/-- A line that no cache holds reads as uncorrectable from then on. -/
theorem State.patrolLost_badIn {s : State} {a : Nat} (hlt : a < 0xC00000000000) (ha : a / 256 * 256 = a)
    (hc : s.cached a = none) (h row : Nat) : (s.patrolLost h a row).badIn a 256 = true := by
  have hloses := State.patrolLoses_uncached (s := (s.count (ctrStack h + 12)).setStack h ((s.stack h).keepHard row)) hc
  rw [State.patrolLost, State.count_badIn, hloses]
  exact State.lose_badIn_line _ hlt ha

/-- A line that the Archive holds stays as readable as it was. -/
theorem State.patrolLost_bad {s : State} {a : Nat} (hc : s.cached a ≠ none) (h row : Nat) :
    (s.patrolLost h a row).bad = s.bad :=
  (State.count_bad _ _ _).trans (State.patrolLoses_cached hc)

/-- A patrol read of a line of stack `h`, by what it finds. -/
theorem exec_hbmPatrolRead {s : State} {line : BitVec 48} {row day : BitVec 32} {h : Nat} (hlt : h < 12)
    (hh : line.toNat / 256 * 256 / 2 ^ 37 = h) :
    exec (.hbmPatrolRead line .corrected row day) s = .next (((s.count (ctrStack h + 12)).count (ctrStack h)).setStack h
      ((s.stack h).corrected row.toNat day.toNat)) ∧
    exec (.hbmPatrolRead line .uncorrectable row day) s =
      .next ((s.patrolLost h (line.toNat / 256 * 256) row.toNat).log 0x0012 0 1 (codeStack h) (line.toNat / 256 * 256)
        0xFFFFFFFF) := by
  subst hh
  exact ⟨if_neg (by omega), if_neg (by omega)⟩

end Sys2Proof.Machine

section
open Sys2Proof Sys2Proof.Machine

/-- Settles O24: a reading by the state that it enters, a patrol read by what it finds. -/
theorem stackReadings : Obligations.StackReadings := by
  unfold Obligations.StackReadings
  intro s h
  refine ⟨fun temp hst hs ht hr hle => ?_, fun temp hst hs hhot hcur => ?_, fun temp hst hs => ?_, fun errors => ?_,
    fun row hrow => ?_, fun line row day hh => ?_⟩
  · obtain ⟨hstop, hthr, hrmul⟩ := Stack.read_cool hs ht hr hle
    refine ⟨_, exec_hbmTempReading_stays hst fun hon => ?_, fun k hk => State.stack_setStack_ne _ _ hk, ?_⟩
    · rw [hstop] at hon
      cases hon
    · rw [State.stack_setStack]
      exact ⟨rfl, hstop, hthr, hrmul, rfl⟩
  · obtain ⟨t, ht, hlog⟩ := exec_hbmTempReading_stops hst hs hhot hcur
    refine ⟨t, ht, ?_, hlog.eng, hlog.mem⟩
    rw [hlog.stack]
    exact (congrArg Stack.stop (State.stack_setStack s h.val _)).trans (Stack.read_hot _ hhot)
  · refine ⟨_, exec_hbmTempReading_stays hst fun _ => hs, ?_⟩
    rw [State.stack_setStack, Stack.read_stopped hs]
  · exact ⟨_, rfl, State.stack_setStack s h.val _, rfl⟩
  · refine ⟨_, if_pos (List.contains_iff_mem.mpr hrow), ?_, rfl⟩
    exact congrArg Stack.soft (State.stack_setStack s h.val _)
  · obtain ⟨hcorr, hunc⟩ := exec_hbmPatrolRead (s := s) (row := row) (day := day) h.isLt hh
    refine ⟨⟨_, hcorr, State.stack_setStack _ _ _, rfl⟩, _, hunc, ?_⟩
    have hlog := (s.patrolLost h.val (line.toNat / 256 * 256) row.toNat).log_logOnly 0x0012 0 1 (codeStack h.val)
      (line.toNat / 256 * 256) 0xFFFFFFFF []
    have hlost := s.patrolLost_accessOnly h.val (line.toNat / 256 * 256) row.toNat
    have hlt : line.toNat / 256 * 256 < 0xC00000000000 := by omega
    refine ⟨?_, hlog.mem.trans hlost.mem, hlog.eng.trans hlost.eng, fun hc => ?_, fun hc => ?_⟩
    · rw [hlog.stack, State.patrolLost_stack]
      exact Stack.mem_keepHard ..
    · rw [State.badIn, hlog.bad]
      exact State.patrolLost_badIn hlt (by omega) hc ..
    · exact hlog.bad.trans (State.patrolLost_bad hc ..)

end

namespace Sys2Proof.Machine

/-! # How a Bindery takes, ends and controls its descriptors (O25) -/

/-! ### A descriptor of the host queue is taken (R204-R206) -/

/-- The Bindery once the head of its host queue has been taken: no wait of that queue, nothing set aside. -/
def State.hostTaken (s : State) (h : Nat) : State :=
  (s.bndUnregister h 8).setBindery h { (s.bndUnregister h 8).bindery h with hostSaved := none }

theorem State.hostTaken_mem (s : State) (h : Nat) : (s.hostTaken h).mem = s.mem := rfl

theorem State.hostTaken_eng (s : State) (h : Nat) : (s.hostTaken h).eng = s.eng := rfl

theorem State.hostTaken_cmd (s : State) (h : Nat) : (s.hostTaken h).cmd = s.cmd := rfl

theorem State.hostTaken_descFault (s : State) (h : Nat) (ctx : Option Nat) (d : List Byte) :
    (s.hostTaken h).descFault h ctx d = s.descFault h ctx d := rfl

theorem State.bndHead_host {s : State} {h : Nat} {d : List Byte} {ds : List (List Byte)} (hq : (s.bindery h).hostq = d :: ds)
    (hsaved : (s.bindery h).hostSaved = none) : s.bndHead h 8 = some (BndRun.fresh none 0 d) := by
  simp [State.bndHead, hq, hsaved]

theorem State.bndWait_of_not_wen {s : State} {h qi : Nat} {r : BndRun} (hw : dWen r.desc = false) : s.bndWait h qi r = none := by
  simp [State.bndWait, hw]

theorem State.bndAbandoned_of_not_wen {s : State} {r : BndRun} (hw : dWen r.desc = false) : s.bndAbandoned r = false := by
  simp [State.bndAbandoned, hw]

/-- A host descriptor without a wait, not set aside before, begins at once. -/
theorem State.bndTake_host {s : State} {h : Nat} {d : List Byte} (hsaved : (s.bindery h).hostSaved = none)
    (hw : dWen d = false) :
    s.bndTake h 8 (BndRun.fresh none 0 d) = (s.hostTaken h).bndBegin h (BndRun.fresh none 0 d) := by
  have hno : s.bndSaved h 8 = false := by simp [State.bndSaved, hsaved]
  have hab := State.bndAbandoned_of_not_wen (s := s.hostTaken h) (r := BndRun.fresh none 0 d) hw
  refine (if_neg (ne_true_of_eq_false hno)).trans (if_neg ?_)
  exact fun hb => absurd (Bool.and_eq_true_iff.mp hb).2 (ne_true_of_eq_false hab)

/-- The host queue is looked at first (R204). -/
theorem State.bndScan_host {s : State} {h : Nat} {d : List Byte} {ds : List (List Byte)} (rest : List Nat)
    (hq : (s.bindery h).hostq = d :: ds) (hsaved : (s.bindery h).hostSaved = none) (hw : dWen d = false) :
    s.bndScan h (8 :: rest) = (s.hostTaken h).bndBegin h (BndRun.fresh none 0 d) := by
  have hwait := State.bndWait_of_not_wen (s := s) (h := h) (qi := 8) (r := BndRun.fresh none 0 d) hw
  simp only [State.bndScan, State.bndHead_host hq hsaved, hwait, State.bndTake_host hsaved hw, ite_self]

theorem exec_binderyDispatch_host {s : State} {h : Fin 12} {d : List Byte} {ds : List (List Byte)}
    (hcur : (s.bindery h.val).cur = none) (hdr : s.flt.drained = false) (hd3 : s.d3hot = false)
    (hsvc : s.svcOf (codeStack h.val) = .inService) (hq : (s.bindery h.val).hostq = d :: ds)
    (hsaved : (s.bindery h.val).hostSaved = none) (hw : dWen d = false) :
    exec (.binderyDispatch h) s = .next ((s.hostTaken h.val).bndBegin h.val (BndRun.fresh none 0 d)) := by
  rw [← State.bndScan_host _ hq hsaved hw]
  exact if_neg (by simp [hcur, hdr, hd3, hsvc])

/-- The dirty lines of the ranges of a descriptor are written back (R180). -/
def State.rangesCleaned (s : State) (d : List Byte) : State :=
  s.writeBackAs .collective (inRanges ((descRanges d).map fun x => (x.addr, x.len)))

theorem State.rangesCleaned_accessOnly (s : State) (d : List Byte) : AccessOnly s (s.rangesCleaned d) :=
  State.writeBackAs_accessOnly ..

/-- A descriptor that may run and has no vote byte begins. -/
theorem State.bndBegin_runs {s : State} {h : Nat} {r : BndRun} (hf : s.descFault h r.ctx r.desc = none)
    (hv : dVoten r.desc = false) :
    s.bndBegin h r =
      (s.rangesCleaned r.desc).setBindery h { (s.rangesCleaned r.desc).bindery h with cur := some r } := by
  simp [State.bndBegin, State.rangesCleaned, hf, hv]

/-- One whose vote byte is set begins as skipped. -/
theorem State.bndBegin_skips {s : State} {h : Nat} {r : BndRun} (hf : s.descFault h r.ctx r.desc = none)
    (hv : dVoten r.desc = true) (hacc : s.bndAccess (dF r.desc 16 6) = 0) (hbad : s.badIn (dF r.desc 16 6) 1 = false)
    (hbyte : s.byteAt (dF r.desc 16 6) ≠ 0) :
    s.bndBegin h r = (s.count (ctrBindery h + 8)).setBindery h { s.bindery h with
      cur := some { r with skipped := true, ran := true } } := by
  have hskip : (s.byteAt (dF r.desc 16 6) != 0) = true := bne_iff_ne.mpr hbyte
  simp only [State.bndBegin, hf, hv, hacc, hbad, hskip, Bool.and_self]
  rfl

/-! ### A wait ends (R206, R492) -/

/-- T2 ends the longest wait that its stake has not ended. -/
theorem exec_binderyWaitExpiry {s : State} {h : Fin 12} {qi : Nat} {r : BndRun} {w : Nat × Nat}
    (hqi : (s.bindery h.val).waitOrder.find? (fun i => !s.bndWaited h.val i) = some qi)
    (hr : s.bndHead h.val qi = some r) (hwait : s.bndWait h.val qi r = some w) :
    exec (.binderyWaitExpiry h) s =
      .next (((s.count (ctrDev 41)).bndUnregister h.val qi).bndEnd h.val { r with status := 0x0503 }) := by
  change execBinderyWaitExpiry h s = _
  simp only [execBinderyWaitExpiry, hqi, hr, hwait, Option.isSome_some, if_true]

/-! ### A descriptor ends (R206, R216) -/

theorem bytesAt_length (bs : List Byte) (off len : Nat) : (bytesAt bs off len).length = len := by
  simp only [bytesAt, List.length_append, List.length_replicate, List.length_take]
  omega

theorem State.bndRecord_length (s : State) (h : Nat) (r : BndRun) : (s.bndRecord h r).length = 32 := by
  simp only [State.bndRecord, List.length_append, toLE_length, bytesAt_length]

/-- The descriptor has not failed, sets no stake, and its record can be written. -/
structure BndRun.ClosesWell (s : State) (h : Nat) (r : BndRun) : Prop where
  status : r.status = 0
  stake : dDen r.desc = false
  record : s.bndRecordStatus h r = 0

/-- The record of a descriptor has been written in `t`, no unit has changed, and the Bindery is `b`. -/
structure BndRecorded (s t : State) (h : Nat) (r : BndRun) (b : Bindery) : Prop where
  mem : t.mem = s.mem.writeN (dCadr r.desc) (s.bndRecord h r)
  eng : t.eng = s.eng
  bindery : t.bindery h = b

theorem State.captureLines_fp (s : State) (src h : Nat) (rs : List (Nat × Nat)) :
    ∃ f, s.captureLines src h rs = { s with arc := { s.arc with fp := f } } := by
  unfold State.captureLines
  split
  · exact ⟨s.arc.fp, rfl⟩
  · exact ⟨_, rfl⟩

theorem BndRun.ClosesWell.judge {s : State} {h : Nat} {r : BndRun} (hr : r.ClosesWell s h) : s.bndJudge h r = r := by
  obtain ⟨hstatus, -, hrecord⟩ := hr
  rw [State.bndJudge, if_pos hstatus, hrecord, ← hstatus]

namespace BndRecorded

variable {s t : State} {h : Nat} {r : BndRun} {b : Bindery}

theorem bndClose (hr : r.ClosesWell s h) : BndRecorded s (s.bndClose h r) h r (s.bindery h) := by
  obtain ⟨hstatus, hstake, hrecord⟩ := hr
  obtain ⟨f, hf⟩ := s.captureLines_fp 1 h (r.outs.map fun l => (l, 256))
  have hclose : s.bndClose h r = ((s.captureLines 1 h (r.outs.map fun l => (l, 256))).store (dCadr r.desc)
      (s.bndRecord h r)).count (ctrBindery h + 9) := by
    simp [State.bndClose, hstatus, hstake, hrecord]
  rw [hclose, hf]
  exact ⟨rfl, rfl, rfl⟩

theorem setBindery (g : BndRecorded s t h r b) (b' : Bindery) : BndRecorded s (t.setBindery h b') h r b' :=
  ⟨g.mem, g.eng, State.bindery_setBindery ..⟩

theorem endedCheck (g : BndRecorded s t h r b) (c : Nat) (e : Bool) : BndRecorded s (t.endedCheck c e) h r b := by
  unfold State.endedCheck
  extract_lets v idle
  split
  · have hlog := (t.setCtx c { v with ended := true }).event_logOnly 3 0 (toLE 1 c)
    exact ⟨hlog.mem.trans g.mem, hlog.eng.trans g.eng, (hlog.bindery h).trans g.bindery⟩
  · exact g

/-- The record reads back at CADR, and no other byte has changed. -/
theorem reads (g : BndRecorded s t h r b) : t.mem.readN (dCadr r.desc) 32 = s.bndRecord h r ∧
    ∀ a, a < dCadr r.desc ∨ dCadr r.desc + 32 ≤ a → t.mem.read a = s.mem.read a := by
  rw [g.mem, ← s.bndRecord_length h r]
  exact ⟨Memory.readN_writeN .., fun a ha => Memory.read_writeN_out _ ha⟩

end BndRecorded

theorem Bindery.endRun_cur {b : Bindery} {r : BndRun} (hcur : b.cur = some r) : (b.endRun r.ctx).cur = none := by
  simp [Bindery.endRun, hcur]

/-- A descriptor of a context that ends well: its record, and its queue at the next. -/
theorem State.bndEnd_recorded {s : State} {h c : Nat} {r : BndRun} (hr : r.ClosesWell s h) (hc : r.ctx = some c) :
    BndRecorded s (s.bndEnd h r) h r (((s.bindery h).endRun (some c)).setQueue c
      { ((s.bindery h).endRun (some c)).queue c with pc := r.ix + 1, saved := none }) := by
  have hclose := BndRecorded.bndClose hr
  have hnext : s.bndEnd h r = (s.bndClose h r).setBindery h ((((s.bndClose h r).bindery h).endRun (some c)).setQueue c
      { (((s.bndClose h r).bindery h).endRun (some c)).queue c with pc := r.ix + 1, saved := none }) := by
    simp [State.bndEnd, hr.judge, State.bndAdvance, hc, hr.status]
  rw [hnext, hclose.bindery]
  exact hclose.setBindery _

theorem exec_binderyDescriptorDone {s : State} {h : Fin 12} {r : BndRun} (hcur : (s.bindery h.val).cur = some r)
    (hran : r.ran = true) : exec (.binderyDescriptorDone h) s = .next (s.bndEnd h.val r) := by
  change execBinderyDescriptorDone h s = _
  simp only [execBinderyDescriptorDone, hcur, hran, if_true]

/-! ### END and JMP (R209) -/

theorem State.bndRunning_of_cur {s : State} {h op : Nat} {r : BndRun} (hcur : (s.bindery h).cur = some r) (hran : r.ran = false)
    (hop : dOp r.desc = op) : s.bndRunning h op = some r := by
  simp [State.bndRunning, hcur, hran, hop]

/-- The Bindery without its running descriptor, the queue of context `c` replaced. -/
def Bindery.leave (b : Bindery) (c : Nat) (q : BndQueue) : Bindery := { b with cur := none }.setQueue c q

theorem Bindery.leave_cur (b : Bindery) (c : Nat) (q : BndQueue) : (b.leave c q).cur = none := rfl

theorem Bindery.leave_queue (b : Bindery) (c : Nat) (q : BndQueue) : (b.leave c q).queue c = q := by
  rw [Bindery.leave, Bindery.queue_setQueue, if_pos rfl]

/-- What END leaves before its context is seen to have ended: the record, and the queue idle. -/
def State.bndQuit (s : State) (h c : Nat) (r : BndRun) : State :=
  (s.bndClose h r).setBindery h ((s.bindery h).leave c { (s.bindery h).queue c with run := .idle, saved := none })

/-- END makes its queue idle. -/
theorem exec_bEnd_recorded {s : State} {h : Fin 12} {c : Nat} {r : BndRun} (hrun : s.bndRunning h.val 0 = some r)
    (hr : r.ClosesWell s h.val) (hc : r.ctx = some c) :
    ∃ t, exec (.bEnd h) s = .next t ∧ BndRecorded s t h.val r
      ((s.bindery h.val).leave c { (s.bindery h.val).queue c with run := .idle, saved := none }) := by
  refine ⟨(s.bndQuit h.val c r).endedCheck c ((s.bndQuit h.val c r).bndIdle c), ?_,
    ((BndRecorded.bndClose hr).setBindery _).endedCheck c _⟩
  change execBEnd h s = _
  simp only [execBEnd, hrun, hr.judge, hc, hr.status, (BndRecorded.bndClose hr).bindery]
  rfl

/-- JMP takes its queue to the descriptor of its index. -/
theorem exec_bJmp_recorded {s : State} {h : Fin 12} {c : Nat} {r : BndRun} (hrun : s.bndRunning h.val 7 = some r)
    (hr : r.ClosesWell s h.val) (hc : r.ctx = some c) :
    ∃ t, exec (.bJmp h) s = .next t ∧ BndRecorded s t h.val r
      ((s.bindery h.val).leave c { (s.bindery h.val).queue c with pc := dF r.desc 32 4, saved := none }) := by
  refine ⟨_, ?_, (BndRecorded.bndClose hr).setBindery _⟩
  change execBJmp h s = _
  simp only [execBJmp, hrun, hr.judge, hc, hr.status, (BndRecorded.bndClose hr).bindery]
  rfl

end Sys2Proof.Machine

section
open Sys2Proof Sys2Proof.Machine

/-- Settles O25: the host queue by the first step of the scan; each end by the record that it writes and what it makes of the
queue. -/
theorem binderyTakesAndEnds : Obligations.BinderyTakesAndEnds := by
  unfold Obligations.BinderyTakesAndEnds
  refine ⟨fun s h => ⟨fun d ds hcur hdr hd3 hsvc hq hsaved hw hf => ?_, fun qi r w hqi hr hwait => ?_,
    fun r c hcur hran hst hc hden hrec => ?_⟩, fun s h r c hcur hran hc hst hden hrec => ?_⟩
  · have hrun := exec_binderyDispatch_host hcur hdr hd3 hsvc hq hsaved hw
    have hf' : (s.hostTaken h.val).descFault h.val none d = none :=
      (s.hostTaken_descFault ..).trans hf
    refine ⟨fun hv => ?_, fun hv hacc hbad hbyte => ?_⟩
    · rw [State.bndBegin_runs (r := BndRun.fresh none 0 d) hf' hv] at hrun
      refine ⟨_, hrun, ?_, ?_, ?_, ?_⟩
      · rw [State.bindery_setBindery]
      · rw [State.setBindery_mem, (State.rangesCleaned_accessOnly ..).mem, State.hostTaken_mem]
      · rw [State.setBindery_eng, (State.rangesCleaned_accessOnly ..).eng, State.hostTaken_eng]
      · rw [State.setBindery_cmd, (State.rangesCleaned_accessOnly ..).cmd, State.hostTaken_cmd]
    · rw [State.bndBegin_skips (r := BndRun.fresh none 0 d) hf' hv hacc hbad hbyte] at hrun
      refine ⟨_, hrun, ?_, ?_⟩
      · rw [State.bindery_setBindery]
      · rw [State.setBindery_mem, State.count_mem, State.hostTaken_mem]
  · exact exec_binderyWaitExpiry hqi hr hwait
  · have hr : r.ClosesWell s h.val := ⟨hst, hden, hrec⟩
    have g := State.bndEnd_recorded hr hc
    obtain ⟨hread, hout⟩ := g.reads
    refine ⟨_, exec_binderyDescriptorDone hcur hran, hread, hout, ?_, ?_, g.eng⟩
    · rw [g.bindery, ← hc]
      exact Bindery.endRun_cur hcur
    · rw [g.bindery, Bindery.queue_setQueue, if_pos rfl]
  · intro recorded
    have hr : r.ClosesWell s h.val := ⟨hst, hden, hrec⟩
    refine ⟨fun hop => ?_, fun hop => ?_⟩
    · obtain ⟨t, ht, g⟩ := exec_bEnd_recorded (State.bndRunning_of_cur hcur hran hop) hr hc
      refine ⟨t, ht, ?_, ?_, g.reads, g.eng⟩
      · rw [g.bindery, Bindery.leave_cur]
      · rw [g.bindery, Bindery.leave_queue]
    · obtain ⟨t, ht, g⟩ := exec_bJmp_recorded (State.bndRunning_of_cur hcur hran hop) hr hc
      refine ⟨t, ht, ?_, ?_, g.reads, g.eng⟩
      · rw [g.bindery, Bindery.leave_cur]
      · rw [g.bindery, Bindery.leave_queue]

end

namespace Sys2Proof.Machine

/-! # What the Bindery operations write (O26) -/

/-! ### An operation whose lines can all be read (R206, R208) -/

theorem State.goodFrom_of_bad_nil {s : State} (h : s.bad = []) (m n : Nat) (reads : Nat → List (Nat × Nat)) :
    s.goodFrom m n reads = (n, none) := by
  simp [State.goodFrom, h]

theorem State.bndTable_of_bad_nil {s : State} (h : s.bad = []) (d : List Byte) : (s.bndTable d).2 = none := by
  unfold State.bndTable State.goodElems
  split
  · rw [State.goodFrom_of_bad_nil h]
  · rfl

theorem State.bndGood_of_bad_nil {s : State} (h : s.bad = []) (r : BndRun) : s.bndGood r = (dN r.desc, none) := by
  simp [State.bndGood, State.bndTable_of_bad_nil h, State.goodFrom_of_bad_nil h]

theorem State.invalidateAs_accessOnly (s : State) (cls : Cls) (p : Nat → Bool) : AccessOnly s (s.invalidateAs cls p) :=
  (State.countAll_accessOnly _ _).trans (State.invalidate_accessOnly _ _)

theorem State.countShed_mem (s : State) (i : Nat) (vs : List ShedEv) : (s.countShed i vs).mem = s.mem :=
  (State.countAll_accessOnly s _).mem

/-- What a descriptor writes when it moves. -/
theorem State.bndMove_mem (s : State) (h : Nat) (r : BndRun) (n : Nat) :
    (s.bndMove h r n).1.mem = (bndOut r.desc (bndIndex r.desc s.mem) r.doneN n s.mem).mem := by
  unfold State.bndMove
  extract_lets d ix m o w seen fresh lines moved s1 good s2
  exact (State.countShed_mem ..).trans (State.invalidateAs_accessOnly ..).mem

/-- The run of a descriptor that has come to `n`. -/
theorem State.bndMove_run (s : State) (h : Nat) (r : BndRun) (n : Nat) :
    (s.bndMove h r n).2.desc = r.desc ∧ (s.bndMove h r n).2.doneN = n ∧
    (s.bndMove h r n).2.result = bndResult r.desc (bndIndex r.desc s.mem) n (n == dN r.desc) (s.bndMove h r n).1.mem :=
  ⟨rfl, rfl, rfl⟩

/-- The operation of the running descriptor has ended well with a result, and memory is `m`. -/
def BndDid (t : State) (h : Nat) (d : List Byte) (res : List Byte) (m : Memory) : Prop :=
  (∃ r', (t.bindery h).cur = some r' ∧ r'.ran = true ∧ r'.status = 0 ∧ r'.doneN = dN d ∧ r'.result = res ∧ r'.desc = d) ∧
    t.mem = m

/-- With every line readable an operation moves all that it has still to move. -/
theorem State.bndOperate_did {s : State} {h op : Nat} {r : BndRun} {res : List Byte} {m : Memory} (hbad : s.bad = [])
    (hrun : s.bndRunning h op = some r) (hm : (bndOut r.desc (bndIndex r.desc s.mem) r.doneN (dN r.desc) s.mem).mem = m)
    (hres : bndResult r.desc (bndIndex r.desc s.mem) (dN r.desc) true m = res) :
    BndDid (s.bndOperate h op) h r.desc res m := by
  subst hm hres
  have hmove : s.bndOperate h op = (s.bndMove h r (dN r.desc)).1.bndRan h (s.bndMove h r (dN r.desc)).2 none := by
    simp [State.bndOperate, hrun, State.bndTable_of_bad_nil hbad, State.bndGood_of_bad_nil hbad]
  obtain ⟨hdesc, hdone, hres⟩ := s.bndMove_run h r (dN r.desc)
  rw [beq_self_eq_true, State.bndMove_mem] at hres
  rw [hmove]
  exact ⟨⟨_, congrArg Bindery.cur (State.bindery_setBindery ..), rfl, rfl, hdone, hres, hdesc⟩, State.bndMove_mem ..⟩

/-! ### Rows gathered and scattered (R215) -/

theorem Map.find_map_shift {α : Type} (m : Map α) {src dst k : Nat} (h : ∀ kv ∈ m, src ≤ kv.1) :
    Map.find (m.map fun kv => (kv.1 - src + dst, kv.2)) (dst + k) = Map.find m (src + k) := by
  induction m with
  | nil => rfl
  | cons x m ih =>
    have hx := h x List.mem_cons_self
    have hiff : x.1 - src + dst = dst + k ↔ x.1 = src + k := by omega
    simp only [List.map_cons, Map.find, hiff, ih fun kv hkv => h kv (List.mem_cons_of_mem _ hkv)]

/-- Bytes copied read as those of the source, all others as before. -/
theorem Memory.read_copy (m : Memory) (dst src len : Nat) :
    (∀ j, j < len → (m.copy dst src len).read (dst + j) = m.read (src + j)) ∧
    ∀ b, b < dst ∨ dst + len ≤ b → (m.copy dst src len).read b = m.read b := by
  have hkeep : ∀ kv ∈ Map.keep m fun k _ => decide (src ≤ k) && decide (k < src + len), src ≤ kv.1 ∧ kv.1 < src + len := by
    intro kv hkv
    simpa using (List.mem_filter.mp hkv).2
  refine ⟨fun j hj => ?_, fun b hb => Memory.read_splice_out ?_ hb⟩
  · rw [Memory.copy, Memory.read_splice_in (by omega) (by omega), Memory.read, Memory.read, Map.getD, Map.getD,
      Map.find_map_shift _ fun kv hkv => (hkeep kv hkv).1, Map.keep,
      Map.find_filter m fun k => decide (src ≤ k) && decide (k < src + len), if_pos (by simpa using hj)]
  · intro kv hkv
    obtain ⟨x, hx, rfl⟩ := List.mem_map.mp hkv
    have := hkeep x hx
    dsimp only
    omega

theorem foldl_read_frame {α : Type} {f : Memory → α → Memory} {p : Nat → Prop}
    (hf : ∀ m x b, p b → (f m x).read b = m.read b) (l : List α) (m : Memory) {b : Nat} (hb : p b) : (l.foldl f m).read b = m.read b := by
  induction l generalizing m with
  | nil => rfl
  | cons x l ih => exact (ih _).trans (hf m x b hb)

/-- A row of GATH: a row of the table, or zeros where its index lies past the table. -/
theorem gathRow_read (d : List Byte) (ix : List Nat) (m : Memory) (i : Nat) :
    (∀ j, j < dRowB d → (gathRow d ix m i).read (dF d 52 6 + dRowB d * i + j) =
      if ix.getD i 0 < dF d 36 4 then m.read (dF d 40 6 + dRowB d * ix.getD i 0 + j) else 0) ∧
    ∀ b, b < dF d 52 6 + dRowB d * i ∨ dF d 52 6 + dRowB d * i + dRowB d ≤ b → (gathRow d ix m i).read b = m.read b := by
  unfold gathRow
  dsimp only
  split_ifs with hk
  · exact Memory.read_copy ..
  · refine ⟨fun j hj => ?_, fun b hb => ?_⟩
    · rw [Memory.read_clear, if_pos (by omega)]
    · rw [Memory.read_clear, if_neg (by omega)]

/-- Rows gathered from a table that lies apart from the result: each as its index says, and nothing else. -/
theorem gathRows_read_range' {d : List Byte} {ix : List Nat} {mem : Memory} {m n : Nat}
    (apart : dF d 40 6 + dF d 36 4 * dRowB d ≤ dF d 52 6 ∨ dF d 52 6 + n * dRowB d ≤ dF d 40 6) :
    ∀ k, m + k ≤ n →
      (∀ b, b < dF d 52 6 ∨ dF d 52 6 + (m + k) * dRowB d ≤ b →
        ((List.range' m k).foldl (gathRow d ix) mem).read b = mem.read b) ∧
      ∀ i j, m ≤ i → i < m + k → j < dRowB d →
        ((List.range' m k).foldl (gathRow d ix) mem).read (dF d 52 6 + dRowB d * i + j) =
          if ix.getD i 0 < dF d 36 4 then mem.read (dF d 40 6 + dRowB d * ix.getD i 0 + j) else 0 := by
  intro k
  induction k with
  | zero => exact fun _ => ⟨fun _ _ => rfl, fun i j h1 h2 => by omega⟩
  | succ k ih =>
    intro hk
    obtain ⟨hout, hin⟩ := ih (by omega)
    rw [List.range'_1_concat, List.foldl_concat]
    obtain ⟨hrow, hrest⟩ := gathRow_read d ix ((List.range' m k).foldl (gathRow d ix) mem) (m + k)
    have hnext : (m + (k + 1)) * dRowB d = dRowB d * (m + k) + dRowB d := by ring
    have hle : (m + (k + 1)) * dRowB d ≤ n * dRowB d := Nat.mul_le_mul_right _ hk
    have hmk : (m + k) * dRowB d = dRowB d * (m + k) := Nat.mul_comm ..
    refine ⟨fun b hb => ?_, fun i j h1 h2 hj => ?_⟩
    · rw [hrest b (by omega), hout b (by omega)]
    · obtain hlt | rfl : i < m + k ∨ i = m + k := by omega
      · have hi : dRowB d * i + dRowB d ≤ dRowB d * (m + k) := by
          rw [← Nat.mul_succ]
          exact Nat.mul_le_mul_left _ hlt
        rw [hrest _ (by omega), hin i j h1 hlt hj]
      · rw [hrow j hj]
        split_ifs with hx
        · have hx' : dRowB d * ix.getD (m + k) 0 + dRowB d ≤ dF d 36 4 * dRowB d := by
            rw [← Nat.mul_succ, Nat.mul_comm]
            exact Nat.mul_le_mul_right _ hx
          exact hout _ (by omega)
        · rfl

/-- The same of the rows from `m` to below `n`. -/
theorem gathRows_read {d : List Byte} {ix : List Nat} {mem : Memory} {m n : Nat}
    (apart : dF d 40 6 + dF d 36 4 * dRowB d ≤ dF d 52 6 ∨ dF d 52 6 + n * dRowB d ≤ dF d 40 6) :
    (∀ b, b < dF d 52 6 ∨ dF d 52 6 + n * dRowB d ≤ b →
      (((List.range n).drop m).foldl (gathRow d ix) mem).read b = mem.read b) ∧
    ∀ i j, m ≤ i → i < n → j < dRowB d →
      (((List.range n).drop m).foldl (gathRow d ix) mem).read (dF d 52 6 + dRowB d * i + j) =
        if ix.getD i 0 < dF d 36 4 then mem.read (dF d 40 6 + dRowB d * ix.getD i 0 + j) else 0 := by
  have hrows : (List.range n).drop m = List.range' m (n - m) := by
    rw [List.range_eq_range', List.drop_range', Nat.zero_add, Nat.mul_one]
  rw [hrows]
  by_cases hmn : m ≤ n
  · have h := gathRows_read_range' (ix := ix) (mem := mem) (m := m) apart (n - m) (by omega)
    rwa [Nat.add_sub_cancel' hmn] at h
  · rw [Nat.sub_eq_zero_of_le (by omega)]
    exact ⟨fun _ _ => rfl, fun i j h1 h2 => by omega⟩

theorem chunks_length_le {α : Type} (w fuel : Nat) (xs : List α) (hd : w ∣ xs.length) :
    w * (chunks w fuel xs).length ≤ xs.length := by
  induction fuel generalizing xs with
  | zero => simp [chunks]
  | succ fuel ih =>
    cases xs with
    | nil => simp [chunks]
    | cons x xs =>
      have hle : w ≤ (x :: xs).length := Nat.le_of_dvd (by simp) hd
      have hdrop := ih ((x :: xs).drop w) (by rw [List.length_drop]; exact Nat.dvd_sub hd (dvd_refl w))
      rw [List.length_drop] at hdrop
      have hcons : (chunks w (fuel + 1) (x :: xs)).length = (chunks w fuel ((x :: xs).drop w)).length + 1 := rfl
      rw [hcons, Nat.mul_succ]
      omega

theorem length_flatMap_toLE {α : Type} (l : List α) (w : Nat) (f : α → Nat) :
    (l.flatMap fun x => toLE w (f x)).length = w * l.length := by
  induction l with
  | nil => simp
  | cons x l ih => simp only [List.flatMap_cons, List.length_append, toLE_length, ih, List.length_cons]; ring

/-- Rows whose length 8 divides combine to no more bytes than a row has. -/
theorem rowCombine_length_le (ak : Nat) (t24 : Bool) {old src : List Byte} {n : Nat} (ho : old.length = n) (hs : src.length = n)
    (h8 : 8 ∣ n) : (rowCombine ak t24 old src).length ≤ n := by
  have hchunks : ∀ w, w ∣ 8 → ∀ f : List Byte × List Byte → Nat,
      (((chunks w old.length old).zip (chunks w src.length src)).flatMap fun xy => toLE w (f xy)).length ≤ n := by
    intro w hw f
    have hold := chunks_length_le w old.length old (ho ▸ hw.trans h8)
    rw [length_flatMap_toLE, List.length_zip, ← ho]
    exact (Nat.mul_le_mul_left w (Nat.min_le_left ..)).trans hold
  unfold rowCombine
  split
  · exact hs.le
  · rw [List.length_map, List.length_zip, ho]
    exact Nat.min_le_left ..
  · exact hchunks (if ak = 1 then 4 else 8) (by split <;> decide) _

theorem rowsOk_of_descFieldsOk {d : List Byte} (hop : dOp d = 6) (hok : descFieldsOk d = true) : rowsOk d true = true := by
  simp only [descFieldsOk, hop, Bool.and_eq_true] at hok
  obtain ⟨-, hrows⟩ := hok
  exact hrows

theorem dRowB_dvd {d : List Byte} (hop : dOp d = 6) (hok : descFieldsOk d = true) : 8 ∣ dRowB d := by
  have hrows := rowsOk_of_descFieldsOk hop hok
  simp only [rowsOk, Bool.and_eq_true, beq_iff_eq] at hrows
  obtain ⟨⟨⟨⟨⟨hmod, -⟩, -⟩, -⟩, -⟩, -⟩ := hrows
  unfold dRowB
  split_ifs <;> omega

/-- A row of SCAT writes within its table. -/
theorem scatRow_read_out {d : List Byte} (h8 : 8 ∣ dRowB d) (ix : List Nat) (m : Memory) (i b : Nat)
    (hb : b < dF d 52 6 ∨ dF d 52 6 + dF d 36 4 * dRowB d ≤ b) : (scatRow d ix m i).read b = m.read b := by
  unfold scatRow
  dsimp only
  split_ifs with hk
  · have hlen := rowCombine_length_le (bitsOf (dF d 34 1) 0 2) (Config.tally24Rows d)
      (m.readN_length (dF d 52 6 + dRowB d * ix.getD i 0) (dRowB d)) (m.readN_length (dF d 40 6 + dRowB d * i) (dRowB d)) h8
    have hrow : dRowB d * ix.getD i 0 + dRowB d ≤ dF d 36 4 * dRowB d := by
      rw [← Nat.mul_succ, Nat.mul_comm]
      exact Nat.mul_le_mul_right _ hk
    exact Memory.read_writeN_out m (by omega)
  · rfl

section

variable {d : List Byte} {ix : List Nat} {m n : Nat} {whole : Bool} {mem : Memory}

theorem bndOut_opt (h : dOp d = 1) :
    bndOut d ix m n mem = (blocksIn m n (dBs d)).foldl (fun o bk => optBlock d o bk.1 bk.2) (.start mem) := by
  simp only [bndOut, h]

theorem bndOut_req (h : dOp d = 2) :
    bndOut d ix m n mem = (blocksIn m n (dBs d)).foldl (fun o bk => reqBlock d o bk.1 bk.2) (.start mem) := by
  simp only [bndOut, h]

theorem bndOut_reads (h : dOp d = 3 ∨ dOp d = 4) : bndOut d ix m n mem = .start mem := by
  rcases h with h | h <;> simp only [bndOut, h]

theorem bndOut_gath (h : dOp d = 5) :
    bndOut d ix m n mem = .start (((List.range n).drop m).foldl (gathRow d ix) mem) := by
  simp only [bndOut, h]

theorem bndOut_scat (h : dOp d = 6) :
    bndOut d ix m n mem = .start (((List.range n).drop m).foldl (scatRow d ix) mem) := by
  simp only [bndOut, h]

theorem bndResult_blocks (h : dOp d = 1 ∨ dOp d = 2) : bndResult d ix n whole mem = [] := by
  rcases h with h | h <;> simp only [bndResult, h]

theorem bndResult_amax (h : dOp d = 3) : bndResult d ix n true mem =
    amaxResult ((List.range n).foldl (fun a k => Val.amax a ((reqIn d).value mem k)) (.zero false)) := by
  simp only [bndResult, h, if_true]

theorem bndResult_fpr (h : dOp d = 4) :
    bndResult d ix n true mem = toLE 8 (crc (dF d 32 1) (mem.readN (dF d 40 6) n)) := by
  simp only [bndResult, h, if_true]

theorem bndResult_rows (h : dOp d = 5 ∨ dOp d = 6) : bndResult d ix n whole mem = toLE 4 (bndOutOfRange d ix 0 n) := by
  rcases h with h | h <;> simp only [bndResult, h]

theorem bndIndex_rows (h : dOp d = 5 ∨ dOp d = 6) : bndIndex d mem = (List.range (dN d)).map (rowIndex mem d) := by
  rcases h with h | h <;> simp [bndIndex, h]

theorem bndOutOfRange_rows : bndOutOfRange d ((List.range n).map (rowIndex mem d)) 0 n =
    ((List.range n).filter fun i => decide (dF d 36 4 ≤ rowIndex mem d i)).length := by
  rw [bndOutOfRange, List.drop_zero, List.take_of_length_le (by simp), List.filter_map, List.length_map]
  rfl

theorem getD_map_rowIndex {i : Nat} (h : i < n) : ((List.range n).map (rowIndex mem d)).getD i 0 = rowIndex mem d i := by
  simp [h]

end

end Sys2Proof.Machine

section
open Sys2Proof Sys2Proof.Machine

/-- Settles O26: each operation moves all that it has still to move, and what that writes is what its rows or blocks write. -/
theorem binderyOperations : Obligations.BinderyOperations := by
  unfold Obligations.BinderyOperations
  intro s h r hcur hran hbad d m n ran
  have hrun := fun {op : Nat} (hop : dOp d = op) => State.bndRunning_of_cur hcur hran hop
  refine ⟨fun hop => ?_, fun hop => ?_, fun hop => ?_, fun hop => ?_, fun hop apart => ?_, fun hop hok => ?_⟩
  · obtain ⟨hdid, hmem⟩ := State.bndOperate_did hbad (hrun hop) (congrArg BndOut.mem (bndOut_opt hop))
      (bndResult_blocks (.inl hop))
    exact ⟨_, rfl, hdid, hmem⟩
  · obtain ⟨hdid, hmem⟩ := State.bndOperate_did hbad (hrun hop) (congrArg BndOut.mem (bndOut_req hop))
      (bndResult_blocks (.inr hop))
    exact ⟨_, rfl, hdid, hmem⟩
  · obtain ⟨hdid, hmem⟩ := State.bndOperate_did hbad (hrun hop) (congrArg BndOut.mem (bndOut_reads (.inl hop)))
      (bndResult_amax hop)
    exact ⟨_, rfl, hmem, hdid⟩
  · obtain ⟨hdid, hmem⟩ := State.bndOperate_did hbad (hrun hop) (congrArg BndOut.mem (bndOut_reads (.inr hop)))
      (bndResult_fpr hop)
    exact ⟨_, rfl, hmem, hdid⟩
  · obtain ⟨hdid, hmem⟩ := State.bndOperate_did hbad (hrun hop) (congrArg BndOut.mem (bndOut_gath hop))
      ((bndResult_rows (.inl hop)).trans (by rw [bndIndex_rows (.inl hop), bndOutOfRange_rows]))
    obtain ⟨hout, hin⟩ := gathRows_read (mem := s.mem) (ix := bndIndex d s.mem) (m := m) apart
    refine ⟨_, rfl, hdid, fun b hb => ?_, fun i j h1 h2 hj => ?_⟩
    · rw [hmem]
      exact hout b hb
    · have hix : (bndIndex d s.mem).getD i 0 = rowIndex s.mem d i := by rw [bndIndex_rows (.inl hop), getD_map_rowIndex h2]
      rw [hmem, ← hix]
      exact hin i j h1 h2 hj
  · obtain ⟨hdid, hmem⟩ := State.bndOperate_did hbad (hrun hop) (congrArg BndOut.mem (bndOut_scat hop))
      (bndResult_rows (.inr hop))
    refine ⟨_, rfl, ?_, fun b hb => ?_⟩
    · rw [hmem, bndIndex_rows (.inr hop)]
      rfl
    · rw [hmem]
      exact foldl_read_frame (fun m i b => scatRow_read_out (dRowB_dvd hop hok) _ m i b) _ _ hb

end

namespace Sys2Proof.Machine

/-! # Sub-ports: what time, counts and frames leave unchanged (R220-R235) -/

theorem State.at_frame (s : State) (t : Nat) : s.at t = { s with now := (s.at t).now, ctr := (s.at t).ctr } := by
  unfold State.at
  split <;> rfl

/-- One sub-port takes a value; nothing else differs but the time and the counters. -/
structure PortStep (s t : State) (p : Nat) (v : SubPort) : Prop where
  rest : t = { s with now := t.now, ctr := t.ctr, ports := t.ports }
  here : t.port p = v
  away : ∀ k, k ≠ p → t.port k = s.port k

namespace PortStep

variable {s t : State} {p : Nat} {v : SubPort}

theorem refl (s : State) (p : Nat) : PortStep s s p (s.port p) := ⟨rfl, rfl, fun _ _ => rfl⟩

theorem setPort (h : PortStep s t p v) (w : SubPort) : PortStep s (t.setPort p w) p w := by
  refine ⟨?_, t.port_setPort p w, fun k hk => (t.port_setPort_ne w hk).trans (h.away k hk)⟩
  conv_lhs => rw [h.rest]
  rfl

theorem count (h : PortStep s t p v) (k n : Nat) : PortStep s (t.count k n) p v := by
  refine ⟨?_, h.here, h.away⟩
  conv_lhs => rw [h.rest]
  rfl

theorem fecCount (h : PortStep s t p v) (q : Nat) (fec : Fec) : PortStep s (t.fecCount q fec) p v := by
  cases fec <;> exact h.count _ _

theorem timeAt (s : State) (p t : Nat) : PortStep s (s.at t) p (s.port p) := by
  rw [State.at_frame]
  exact ⟨rfl, rfl, fun _ _ => rfl⟩

theorem pctl (h : PortStep s t p v) (n : Nat) : t.pctl n = s.pctl n := by rw [h.rest]; rfl

theorem present (h : PortStep s t p v) (k : Nat) : t.present k = s.present k := by rw [h.rest]; rfl

theorem window (h : PortStep s t p v) (k : Nat) : t.window k = s.window k := by rw [h.rest]; rfl

theorem fab (h : PortStep s t p v) : t.fab = s.fab := by rw [h.rest]

theorem egress (h : PortStep s t p v) : t.egress = s.egress := by rw [h.rest]

theorem out (h : PortStep s t p v) : t.out = s.out := by rw [h.rest]

theorem station (h : PortStep s t p v) : t.station = s.station := by rw [h.rest]

/-- What a command that changes one sub-port leaves unchanged. -/
theorem frame (h : PortStep s t p v) : t.port p = v ∧ (∀ k, k ≠ p → t.port k = s.port k) ∧ t.fab = s.fab ∧
    t.egress = s.egress ∧ t.mem = s.mem ∧ t.eng = s.eng :=
  ⟨h.here, h.away, h.fab, h.egress, by rw [h.rest], by rw [h.rest]⟩

end PortStep

/-- A frame has come in at time `t`, its corrected codewords counted (R246). -/
def State.received (s : State) (p t : Nat) (fec : Fec) : State := (s.at t).fecCount p fec

theorem State.received_portStep (s : State) (p t : Nat) (fec : Fec) : PortStep s (s.received p t fec) p (s.port p) :=
  (PortStep.timeAt s p t).fecCount p fec

/-! ## The bytes of a frame (R223, R224) -/

theorem toLE_take {m k : Nat} (h : k ≤ m) (n : Nat) : (toLE m n).take k = toLE k n := by
  induction k generalizing m n with
  | zero => simp [toLE]
  | succ k ih =>
    cases m with
    | zero => omega
    | succ m => simp [toLE, ih (by omega : k ≤ m)]

theorem leAt_toLE {m k : Nat} (h : k ≤ m) (n : Nat) : leAt (toLE m n) 0 k = n % 256 ^ k := by
  rw [leAt, List.drop_zero, toLE_take h, leNat_toLE]

section

variable (s : State) (p t fseq ack ftype : Nat) (rplq downq : Bool) (smap : Nat) (slots : List Byte) (cred : List Nat)

/-- The head of a frame: its header fields and SMAP. -/
def frameHead (fseq ack ftype : Nat) (rplq downq : Bool) (smap : Nat) : Nat :=
  fseq + ack * 2 ^ 12 + ftype * 2 ^ 24 + b2n rplq * 2 ^ 26 + b2n downq * 2 ^ 27 + smap * 2 ^ 32

/-- The 1,281 bytes of a frame before its FCRC. -/
def State.frameBody : List Byte :=
  toLE 16 (frameHead fseq ack ftype rplq downq smap) ++ bytesAt slots 0 1216 ++ cred.flatMap (toLE 4 ·) ++ toLE 6 t ++
    toLE 6 (s.port p).echo ++ toLE 4 (t - (s.port p).echoAt) ++ [0]

theorem State.frameBytes_eq : s.frameBytes p t fseq ack ftype rplq downq smap slots cred =
    s.frameBody p t fseq ack ftype rplq downq smap slots cred ++
      toLE 4 (crc32c (s.frameBody p t fseq ack ftype rplq downq smap slots cred)) := rfl

theorem State.frameBody_length (h : cred.length = 8) :
    (s.frameBody p t fseq ack ftype rplq downq smap slots cred).length = 1281 := by
  have hcred : (cred.flatMap (toLE 4 ·)).length = 4 * cred.length := length_flatMap_toLE cred 4 id
  simp only [State.frameBody, List.length_append, toLE_length, bytesAt_length, hcred, h, List.length_singleton]

/-- A frame carries a good check sum. -/
theorem State.frameBytes_good (h : cred.length = 8) :
    frameGood (.good 0) (s.frameBytes p t fseq ack ftype rplq downq smap slots cred) = true := by
  have hlen := s.frameBody_length p t fseq ack ftype rplq downq smap slots cred h
  rw [State.frameBytes_eq]
  generalize s.frameBody p t fseq ack ftype rplq downq smap slots cred = body at hlen
  have hcrc : leAt (body ++ toLE 4 (crc32c body)) 1281 4 = crc32c body := by
    rw [← hlen]
    exact (leAt_append_right (off := 0)).trans ((leAt_toLE (Nat.le_refl 4) _).trans (Nat.mod_eq_of_lt (crc32c_lt body)))
  simp [frameGood, hcrc, List.take_left' hlen, hlen]

/-- A frame carries its number. -/
theorem State.frameBytes_fseq :
    bitsOf (leAt (s.frameBytes p t fseq ack ftype rplq downq smap slots cred) 0 4) 0 12 = fseq % 4096 := by
  have hhead : leAt (s.frameBytes p t fseq ack ftype rplq downq smap slots cred) 0 4 =
      frameHead fseq ack ftype rplq downq smap % 256 ^ 4 := by
    simp only [State.frameBytes_eq, State.frameBody, List.append_assoc]
    rw [leAt_append_left (by simp), leAt_toLE (by decide)]
  rw [hhead, frameHead, bitsOf]
  omega

end

end Sys2Proof.Machine

namespace Sys2Proof.Machine

/-! # Frames sent (R222-R225, R231, R232, R235) -/

section

variable {s : State} {p : Fin 128} {t : BitVec 48}

theorem exec_frameSend_traffic (hp : s.present p.val = true) (hst : (s.port p.val).st = 7 ∨ (s.port p.val).st = 8) :
    exec (.frameSend p t) s = .next ((s.at t.toNat).sendFrame p.val t.toNat) := by
  have h := PortStep.timeAt s p.val t.toNat
  change execFrameSend p t s = _
  simp [execFrameSend, h.here, h.present, hp, hst]

theorem exec_frameSend_training (hp : s.present p.val = true)
    (hst : (s.port p.val).st = 4 ∨ (s.port p.val).st = 5 ∨ (s.port p.val).st = 6) :
    exec (.frameSend p t) s = .next ((s.at t.toNat).sendTraining p.val t.toNat) := by
  have h := PortStep.timeAt s p.val t.toNat
  have hne : ¬((s.port p.val).st = 7 ∨ (s.port p.val).st = 8) := by omega
  change execFrameSend p t s = _
  simp [execFrameSend, h.here, h.present, hp, or_assoc, hst, hne]

theorem exec_frameSend_silent (hst : (s.port p.val).st < 4 ∨ 8 < (s.port p.val).st) :
    exec (.frameSend p t) s = .next (s.at t.toNat) := by
  have h := PortStep.timeAt s p.val t.toNat
  have hne : ¬((s.port p.val).st = 7 ∨ (s.port p.val).st = 8) := by omega
  have hne' : ¬((s.port p.val).st = 4 ∨ (s.port p.val).st = 5 ∨ (s.port p.val).st = 6) := by omega
  change execFrameSend p t s = _
  simp [execFrameSend, h.here, or_assoc, hne, hne']

end

section

variable {s : State} {p t : Nat}

/-- The bytes of a data or empty frame. -/
def State.dataFrame (s : State) (p t fseq : Nat) (slots : List Slot64) : List Byte :=
  s.frameBytes p t fseq (s.port p).ack 0 (s.port p).pendRpl ((s.port p).st == 8) (smapOf slots) (slots.flatMap (·.2))
    (s.port p).freed

theorem State.sendData_eq (s : State) (p t fseq : Nat) (slots : List Slot64) :
    s.sendData p t fseq slots = s.frameOut p (s.dataFrame p t fseq slots) := rfl

theorem State.dataFrame_good (h : (s.port p).freed.length = 8) (fseq : Nat) (slots : List Slot64) :
    frameGood (.good 0) (s.dataFrame p t fseq slots) = true := State.frameBytes_good _ _ _ _ _ _ _ _ _ _ _ h

theorem State.dataFrame_fseq (s : State) (p t fseq : Nat) (slots : List Slot64) :
    bitsOf (leAt (s.dataFrame p t fseq slots) 0 4) 0 12 = fseq % 4096 := State.frameBytes_fseq ..

theorem State.sendFrame_full (hr : (s.port p).resend = []) (hw : s.window p ≤ (s.port p).held.length) :
    s.sendFrame p t = s.sendData p t (s.port p).txSeq [] := by
  simp [State.sendFrame, hr, hw]

theorem State.sendFrame_new {s1 : State} {slots : List Slot64} (hr : (s.port p).resend = [])
    (hw : (s.port p).held.length < s.window p) (hf : s.fill p t = (s1, slots)) (hs : slots ≠ []) :
    s.sendFrame p t = (s1.sendData p t (s.port p).txSeq slots).setPort p { s1.port p with
      held := (s1.port p).held ++ [((s.port p).txSeq, slots)], txSeq := ((s.port p).txSeq + 1) % 4096 } := by
  have hslots : slots.isEmpty = false := by simpa using hs
  simp only [State.sendFrame, hr, if_neg (Nat.not_le.mpr hw), hf, hslots]
  rfl

/-- A resend goes on; its first frame marks its time and counts (R232). -/
def State.resends (s : State) (p t : Nat) (rest : List Nat) : State :=
  match (s.port p).rplNext with
  | some a => (s.setPort p { s.port p with resend := rest, rplNext := none, rplAck := some (a, t) }).count (ctrPort p + 2)
  | none => s.setPort p { s.port p with resend := rest }

theorem State.resends_portStep (s : State) (p t : Nat) (rest : List Nat) : PortStep s (s.resends p t rest) p { s.port p with
    resend := rest, rplNext := none,
    rplAck := ((s.port p).rplNext.map fun a => (a, t)) <|> (s.port p).rplAck } := by
  unfold State.resends
  split
  · next a h => rw [h]; exact ((PortStep.refl s p).setPort _).count _ _
  · next h =>
    have hsame : { s.port p with resend := rest } = { s.port p with
        resend := rest, rplNext := none, rplAck := ((s.port p).rplNext.map fun a => (a, t)) <|> (s.port p).rplAck } := by
      rw [SubPort.mk.injEq]
      simp [h]
    exact hsame ▸ (PortStep.refl s p).setPort _

theorem State.sendFrame_resend {f : Nat} {rest : List Nat} {x : Nat × List Slot64} (hr : (s.port p).resend = f :: rest)
    (hx : (s.port p).held.find? (fun y => y.1 == f) = some x) :
    s.sendFrame p t = (s.resends p t rest).sendData p t f x.2 := by
  simp only [State.sendFrame, hr, hx]
  rfl

/-- The bytes of a training frame (R235). -/
def State.trainingFrame (s : State) (p t : Nat) : List Byte :=
  s.frameBytes p t 0 0 1 false false 0 (s.trainingBody p) (List.replicate 8 0)

/-- A sub-port after a training frame has left. -/
def SubPort.trained (v : SubPort) (t : Nat) : SubPort :=
  { v with tseq := (v.tseq + 1) % 65536, sentAt := if v.st = 6 then v.sentAt ++ [t] else v.sentAt }

theorem State.sendTraining_eq (s : State) (p t : Nat) :
    s.sendTraining p t = (s.setPort p ((s.port p).trained t)).frameOut p (s.trainingFrame p t) := rfl

/-- A frame that leaves a sub-port after a step of it. -/
theorem PortStep.frameOut {u : State} {v : SubPort} (h : PortStep s u p v) (bs : List Byte) :
    (u.frameOut p bs).out = .frame p bs (laneSymbols (s.pctl (p / 4)).lanes bs) :: s.out ∧ (u.frameOut p bs).port p = v ∧
      (u.frameOut p bs).egress = s.egress := by
  refine ⟨?_, h.here, h.egress⟩
  rw [← h.pctl, ← h.out]
  rfl

end

end Sys2Proof.Machine
namespace Sys2Proof.Machine

/-! # Data frames received (R224, R225, R229-R232) -/

section

variable {s : State} {p : Fin 128} {t : BitVec 48} {fec : Fec} {bytes : List Byte}

/-- Some slot of a frame is USED (R226). -/
def frameUsed (bytes : List Byte) : Bool := (List.range 19).any fun j => (leAt bytes 4 12).testBit (5 * j + 4)

/-- A sub-port after the acknowledgement and the credit of a frame (R229, R232, R496). -/
def SubPort.credited (v : SubPort) (t : Nat) (bytes : List Byte) : SubPort :=
  { (v.timed t bytes).release (bitsOf (leAt bytes 0 4) 12 12) with
    credIn := (List.range 8).map fun i => leAt bytes (1232 + 4 * i) 4
    follow := v.follow || (v.st == 7 && (leAt bytes 0 4).testBit 27) }

/-- A release touches what is held and what refers to it, and nothing else. -/
theorem SubPort.release_eq (v : SubPort) (a : Nat) : v.release a = { v with
    held := (v.release a).held, resend := (v.release a).resend, unacked := (v.release a).unacked } := by
  unfold SubPort.release
  split <;> rfl

theorem SubPort.credited_eq (v : SubPort) (t : Nat) (bytes : List Byte) :
    { (v.timed t bytes).release (bitsOf (leAt bytes 0 4) 12 12) with
      credIn := (List.range 8).map fun i => leAt bytes (1232 + 4 * i) 4
      follow := ((v.timed t bytes).release (bitsOf (leAt bytes 0 4) 12 12)).follow ||
        (((v.timed t bytes).release (bitsOf (leAt bytes 0 4) 12 12)).st == 7 && (leAt bytes 0 4).testBit 27) } =
    v.credited t bytes := by
  unfold SubPort.credited
  rw [SubPort.release_eq]
  rfl

theorem exec_frameReceive_bad (hp : s.present p.val = true) (hst : (s.port p.val).st = 7 ∨ (s.port p.val).st = 8)
    (hg : frameGood fec bytes = false) : exec (.frameReceive p t fec bytes) s =
      .next (((s.received p.val t.toNat fec).setPort p.val { s.port p.val with pendRpl := true }).count (ctrPort p.val + 1)) := by
  have h := s.received_portStep p.val t.toNat fec
  have hst' : ((s.port p.val).st == 7 || (s.port p.val).st == 8) = true := by simpa using hst
  unfold State.received at h ⊢
  change execFrameReceive p t fec bytes s = _
  simp only [execFrameReceive, h.here, h.present, hp, hst', hg, Bool.and_self, Bool.not_true, Bool.not_false,
    Bool.false_eq_true, if_false, if_true]

theorem exec_frameReceive_data (hp : s.present p.val = true) (hst : (s.port p.val).st = 7 ∨ (s.port p.val).st = 8)
    (hg : frameGood fec bytes = true) (h0 : bitsOf (leAt bytes 0 4) 24 2 = 0) :
    exec (.frameReceive p t fec bytes) s = .next ((s.received p.val t.toNat fec).takeFrame p t.toNat bytes) := by
  have h := s.received_portStep p.val t.toNat fec
  have hst' : ((s.port p.val).st == 7 || (s.port p.val).st == 8) = true := by simpa using hst
  unfold State.received at h ⊢
  change execFrameReceive p t fec bytes s = _
  simp only [execFrameReceive, h.here, h.present, hp, hst', hg, h0, Bool.and_self, Bool.not_true, Bool.false_eq_true,
    if_false]

theorem exec_frameReceive_training (hp : s.present p.val = true) (hst : (s.port p.val).st = 7 ∨ (s.port p.val).st = 8)
    (hg : frameGood fec bytes = true) (h1 : bitsOf (leAt bytes 0 4) 24 2 = 1) : exec (.frameReceive p t fec bytes) s =
      .next ((s.received p.val t.toNat fec).setPort p.val ((s.port p.val).timed t.toNat bytes)) := by
  have h := s.received_portStep p.val t.toNat fec
  have hst' : ((s.port p.val).st == 7 || (s.port p.val).st == 8) = true := by simpa using hst
  unfold State.received at h ⊢
  change execFrameReceive p t fec bytes s = _
  simp only [execFrameReceive, h.here, h.present, hp, hst', hg, h1, Bool.and_self, Bool.not_true, Bool.false_eq_true,
    if_false]

end

section

variable {s : State} {p : Fin 128} {n : Nat} {v : SubPort} {bytes : List Byte}

/-- A good frame without slots (R229, R232). -/
theorem State.takeFrame_empty (hv : s.port p.val = v) (hu : frameUsed bytes = false) : s.takeFrame p n bytes =
    if (leAt bytes 0 4).testBit 26 then (s.setPort p.val (v.credited n bytes)).replay p.val n (bitsOf (leAt bytes 0 4) 12 12)
    else s.setPort p.val (v.credited n bytes) := by
  unfold frameUsed at hu
  simp only [State.takeFrame, hv, hu, Bool.false_and, Bool.false_eq_true, if_false, SubPort.credited_eq]

/-- A good data frame that is the next in sequence and asks for no replay (R225). -/
theorem State.takeFrame_data (hv : s.port p.val = v) (hu : frameUsed bytes = true)
    (hrpl : (leAt bytes 0 4).testBit 26 = false) (hseq : bitsOf (leAt bytes 0 4) 0 12 = (v.ack + 1) % 4096) :
    s.takeFrame p n bytes = ((s.setPort p.val (v.credited n bytes)).setPort p.val { v.credited n bytes with
      ack := bitsOf (leAt bytes 0 4) 0 12, noAck := false, pendRpl := false }).takeSlots p bytes := by
  have hguard : (bitsOf (leAt bytes 0 4) 0 12 != ((v.timed n bytes).ack + 1) % 4096) = false := by
    rw [hseq]; exact bne_self_eq_false _
  unfold frameUsed at hu
  simp only [State.takeFrame, hv, hu, hguard, hrpl, Bool.and_false, Bool.false_eq_true, if_false, if_true,
    SubPort.credited_eq, State.port_setPort]

/-- A good data frame out of sequence (R231). -/
theorem State.takeFrame_out (hv : s.port p.val = v) (hu : frameUsed bytes = true)
    (hseq : bitsOf (leAt bytes 0 4) 0 12 ≠ (v.ack + 1) % 4096) :
    s.takeFrame p n bytes = s.setPort p.val { v.timed n bytes with pendRpl := true } := by
  have hguard : (bitsOf (leAt bytes 0 4) 0 12 != ((v.timed n bytes).ack + 1) % 4096) = true := bne_iff_ne.mpr hseq
  unfold frameUsed at hu
  simp only [State.takeFrame, hv, hu, hguard, Bool.and_true, if_true]

theorem SubPort.credited_rplNext (v : SubPort) (n : Nat) (bytes : List Byte) : (v.credited n bytes).rplNext = v.rplNext := by
  unfold SubPort.credited
  rw [SubPort.release_eq]
  rfl

theorem SubPort.credited_rplAck (v : SubPort) (n : Nat) (bytes : List Byte) : (v.credited n bytes).rplAck = v.rplAck := by
  unfold SubPort.credited
  rw [SubPort.release_eq]
  rfl

/-- A replay request that is none of those acted on, while frames are held (R232). -/
theorem State.replay_fresh {s : State} {p n ack : Nat} {v : SubPort} (hv : s.port p = v) (hnext : v.rplNext ≠ some ack)
    (hack : v.rplAck = none) (hheld : v.held ≠ []) :
    s.replay p n ack = s.setPort p { v with resend := v.held.map (·.1), rplNext := some ack } := by
  have hsoon : (v.rplNext == some ack) = false := by simpa using hnext
  simp [State.replay, hv, hsoon, hack, hheld]

end

theorem exec_replayPendingExpiry {s : State} {p : Fin 128} (hst : (s.port p.val).st = 7)
    (hpend : (s.port p.val).pendRpl = true) : exec (.replayPendingExpiry p) s = .next (s.linkLost p.val) := by
  change execReplayPendingExpiry p s = _
  simp [execReplayPendingExpiry, hst, hpend]

end Sys2Proof.Machine

section
open Sys2Proof Sys2Proof.Machine

/-- Settles O27: a frame sent by what the sub-port's state and window ask for, a frame received by its checks in their order. -/
theorem framesSentAndReceived : Obligations.FramesSentAndReceived := by
  unfold Obligations.FramesSentAndReceived
  refine ⟨fun s p t hp => ?_, fun s p hp => ?_⟩
  · intro v lanes
    have hat := PortStep.timeAt s p.val t.toNat
    refine ⟨fun hst hr hw hfreed => ?_, fun hst hr hw s1 slots hf hs => ?_, fun f rest x hst hr hx hlt hfreed => ?_,
      fun hst => ?_, fun hst => ?_, exec_frameSend_silent⟩
    · have hsend := State.sendFrame_full (t := t.toNat) (by rw [hat.here]; exact hr) (by rw [hat.window, hat.here]; exact hw)
      obtain ⟨hout, hport, -⟩ := hat.frameOut ((s.at t.toNat).dataFrame p.val t.toNat v.txSeq [])
      rw [hat.here, State.sendData_eq] at hsend
      refine ⟨_, _, (exec_frameSend_traffic hp hst).trans (congrArg _ hsend), hout, hport,
        State.dataFrame_good (by rw [hat.here]; exact hfreed) _ _, State.dataFrame_fseq .., rfl⟩
    · have hsend := State.sendFrame_new (by rw [hat.here]; exact hr) (by rw [hat.window, hat.here]; exact hw) hf hs
      rw [hat.here] at hsend
      exact ⟨_, _, (exec_frameSend_traffic hp hst).trans (congrArg _ hsend), rfl, State.port_setPort ..⟩
    · have hsend := State.sendFrame_resend (t := t.toNat) (by rw [hat.here]; exact hr) (by rw [hat.here]; exact hx)
      have hstep := (s.at t.toNat).resends_portStep p.val t.toNat rest
      obtain ⟨hout, hport, -⟩ := hstep.frameOut (((s.at t.toNat).resends p.val t.toNat rest).dataFrame p.val t.toNat f x.2)
      rw [hat.pctl, hat.out] at hout
      rw [hat.here] at hport
      exact ⟨_, _, (exec_frameSend_traffic hp hst).trans (congrArg _ hsend), hout,
        (State.dataFrame_fseq ..).trans (Nat.mod_eq_of_lt hlt), hport⟩
    · obtain ⟨hout, hport, hegress⟩ := (hat.setPort (v.trained t.toNat)).frameOut ((s.at t.toNat).trainingFrame p.val t.toNat)
      have hsend := (s.at t.toNat).sendTraining_eq p.val t.toNat
      rw [hat.here] at hsend
      refine ⟨_, _, (exec_frameSend_training hp (hst.imp_right .inl)).trans (congrArg _ hsend), hout, hport.trans ?_, hegress⟩
      rw [SubPort.trained, if_neg (by omega)]
    · obtain ⟨hout, hport, -⟩ := (hat.setPort (v.trained t.toNat)).frameOut ((s.at t.toNat).trainingFrame p.val t.toNat)
      have hsend := (s.at t.toNat).sendTraining_eq p.val t.toNat
      rw [hat.here] at hsend
      refine ⟨_, _, (exec_frameSend_training hp (.inr (.inr hst))).trans (congrArg _ hsend), hout, hport.trans ?_⟩
      rw [SubPort.trained, if_pos hst]
  · intro v
    refine ⟨fun t fec bytes hst => ?_, fun hst hpend hfollow => ?_, fun hst hpend hfollow => ?_⟩
    · intro hd fseq used w
      have hrecv := s.received_portStep p.val t.toNat fec
      have hstep := hrecv.setPort w
      refine ⟨fun hg => ?_, fun hg h0 hrpl hused => ?_, fun hg h0 hused hseq => ?_, fun hg h0 hrpl hused hheld hne hnone => ?_,
        fun hg h0 hrpl hused hseq => ?_, fun hg h1 => ?_⟩
      · obtain ⟨hport, -, hfab, hegress, -⟩ := ((hrecv.setPort { v with pendRpl := true }).count (ctrPort p.val + 1) 1).frame
        exact ⟨_, exec_frameReceive_bad hp hst hg, hport, hfab, hegress⟩
      · have htake := (State.takeFrame_empty (n := t.toNat) hrecv.here hused).trans (if_neg (ne_true_of_eq_false hrpl))
        exact ⟨_, (exec_frameReceive_data hp hst hg h0).trans (congrArg _ htake), hstep.here, hstep.fab⟩
      · have hout := hrecv.setPort { v.timed t.toNat bytes with pendRpl := true }
        exact ⟨_, (exec_frameReceive_data hp hst hg h0).trans (congrArg _ (State.takeFrame_out hrecv.here hused hseq)),
          hout.here, hout.fab⟩
      · have htake := (State.takeFrame_empty (n := t.toNat) hrecv.here hused).trans (if_pos hrpl)
        have hreplay := State.replay_fresh (n := t.toNat) hstep.here ((v.credited_rplNext _ _).trans_ne hne)
          ((v.credited_rplAck _ _).trans hnone) hheld
        exact ⟨_, (exec_frameReceive_data hp hst hg h0).trans (congrArg _ (htake.trans hreplay)), State.port_setPort ..⟩
      · exact (exec_frameReceive_data hp hst hg h0).trans (congrArg _ (State.takeFrame_data hrecv.here hused hrpl hseq))
      · have hout := hrecv.setPort (v.timed t.toNat bytes)
        exact ⟨_, exec_frameReceive_training hp hst hg h1, hout.here, hout.fab⟩
    · obtain ⟨hport, haway, hfab, -⟩ := (((PortStep.refl s p.val).setPort v.fastRetrain).count (ctrPort p.val + 3) 1).frame
      have hlost : s.linkLost p.val = s.retrainFast p.val := if_neg (ne_true_of_eq_false hfollow)
      exact ⟨_, (exec_replayPendingExpiry hst hpend).trans (congrArg _ hlost), hport, haway, hfab⟩
    · have hlost : s.linkLost p.val = s.followDown p.val := if_pos hfollow
      exact (exec_replayPendingExpiry hst hpend).trans (congrArg _ hlost)

end

namespace Sys2Proof.Machine

/-! # Training frames received (R232-R235) -/

/-- A run of aligned frames that is not yet 64 long is broken (R235). -/
def SubPort.broken (v : SubPort) : SubPort := { v with aligned := if 64 ≤ v.aligned then v.aligned else 0 }

/-- A training frame of the version, the type and a state that R235 names. -/
structure TrainingGood (fec : Fec) (bytes : List Byte) : Prop where
  good : frameGood fec bytes = true
  ftype : bitsOf (leAt bytes 0 4) 24 2 = 1
  version : leAt bytes 16 2 = 1
  state : leAt bytes 18 1 = 4 ∨ leAt bytes 18 1 = 5 ∨ leAt bytes 18 1 = 6

section

variable {s : State} {p : Fin 128} {t : BitVec 48} {fec : Fec} {bytes : List Byte}

theorem exec_trainingFrameReceive_idle (h4 : (s.port p.val).st ≠ 4) (h5 : (s.port p.val).st ≠ 5) (h6 : (s.port p.val).st ≠ 6) :
    exec (.trainingFrameReceive p t fec bytes) s = .next s := by
  have h := s.received_portStep p.val t.toNat fec
  unfold State.received at h
  change execTrainingFrameReceive p t fec bytes s = _
  simp [execTrainingFrameReceive, h.here, h4, h5, h6]

variable (hp : s.present p.val = true) (hst : (s.port p.val).st = 4 ∨ (s.port p.val).st = 5 ∨ (s.port p.val).st = 6)

include hp hst

/-- What TRAINING_FRAME_RECEIVE comes to on a sub-port that trains, by the checks on the frame. -/
theorem exec_trainingFrameReceive : exec (.trainingFrameReceive p t fec bytes) s = .next (
    let v := s.port p.val
    let u := s.received p.val t.toNat fec
    if frameGood fec bytes = false then (u.setPort p.val v.broken).count (ctrPort p.val + 1)
    else if bitsOf (leAt bytes 0 4) 24 2 = 0 then u.setPort p.val (v.broken.timed t.toNat bytes)
    else if bitsOf (leAt bytes 0 4) 24 2 ≠ 1 ∨ leAt bytes 16 2 ≠ 1 ∨
        (leAt bytes 18 1 ≠ 4 ∧ leAt bytes 18 1 ≠ 5 ∧ leAt bytes 18 1 ≠ 6) then (u.setPort p.val v.broken).malformedAt p.val
    else if v.st = 4 then (u.setPort p.val (v.timed t.toNat bytes)).takeAlign p.val bytes
    else if v.st = 6 then (u.setPort p.val (v.timed t.toNat bytes)).takeDelay p.val t.toNat bytes
    else if leAt bytes 18 1 = 4 then u.setPort p.val (v.timed t.toNat bytes)
    else (u.setPort p.val (v.timed t.toNat bytes)).takeExchange p.val bytes) := by
  have h := s.received_portStep p.val t.toNat fec
  have hst' : ((s.port p.val).st == 4 || (s.port p.val).st == 5 || (s.port p.val).st == 6) = true := by
    simpa [or_assoc] using hst
  unfold State.received at h ⊢
  change execTrainingFrameReceive p t fec bytes s = _
  simp only [execTrainingFrameReceive, h.here, h.present, hp, hst', Bool.and_self, Bool.not_true, Bool.false_eq_true, if_false,
    Bool.not_eq_true', Bool.or_eq_true, decide_eq_true_eq, or_assoc, apply_ite Host.Outcome.next]
  simp only [Bool.or_eq_false_iff, beq_eq_false_iff_ne, and_assoc]
  rfl

theorem exec_trainingFrameReceive_bad (hg : frameGood fec bytes = false) : exec (.trainingFrameReceive p t fec bytes) s =
    .next (((s.received p.val t.toNat fec).setPort p.val (s.port p.val).broken).count (ctrPort p.val + 1)) :=
  (exec_trainingFrameReceive hp hst).trans (congrArg _ (if_pos hg))

theorem exec_trainingFrameReceive_data (hg : frameGood fec bytes = true) (h0 : bitsOf (leAt bytes 0 4) 24 2 = 0) :
    exec (.trainingFrameReceive p t fec bytes) s =
      .next ((s.received p.val t.toNat fec).setPort p.val ((s.port p.val).broken.timed t.toNat bytes)) :=
  (exec_trainingFrameReceive hp hst).trans (congrArg _ ((if_neg (by simp [hg])).trans (if_pos h0)))

theorem exec_trainingFrameReceive_malformed (hg : frameGood fec bytes = true) (h0 : bitsOf (leAt bytes 0 4) 24 2 ≠ 0)
    (hbad : bitsOf (leAt bytes 0 4) 24 2 ≠ 1 ∨ leAt bytes 16 2 ≠ 1 ∨
      (leAt bytes 18 1 ≠ 4 ∧ leAt bytes 18 1 ≠ 5 ∧ leAt bytes 18 1 ≠ 6)) : exec (.trainingFrameReceive p t fec bytes) s =
    .next (((s.received p.val t.toNat fec).setPort p.val (s.port p.val).broken).malformedAt p.val) :=
  (exec_trainingFrameReceive hp hst).trans (congrArg _ ((if_neg (by simp [hg])).trans ((if_neg h0).trans (if_pos hbad))))

/-- A training frame that keeps R235 goes to the state that the sub-port is in. -/
theorem exec_trainingFrameReceive_good (hg : TrainingGood fec bytes) : exec (.trainingFrameReceive p t fec bytes) s = .next (
    let w := (s.port p.val).timed t.toNat bytes
    let u := (s.received p.val t.toNat fec).setPort p.val w
    if w.st = 4 then u.takeAlign p.val bytes
    else if w.st = 6 then u.takeDelay p.val t.toNat bytes
    else if leAt bytes 18 1 = 4 then u else u.takeExchange p.val bytes) := by
  obtain ⟨hgood, htype, hver, hts⟩ := hg
  exact (exec_trainingFrameReceive hp hst).trans (congrArg _
    ((if_neg (by simp [hgood])).trans ((if_neg (by rw [htype]; decide)).trans (if_neg (by omega)))))

end

/-! ### ALIGN, EXCHANGE and DELAY -/

section

variable {s : State} {p n : Nat} {v : SubPort} {bytes : List Byte}

theorem State.takeAlign_counts (hv : s.port p = v) (hpat : patternGood bytes = true) (hn : v.aligned < 63) :
    s.takeAlign p bytes = s.setPort p { v with aligned := v.aligned + 1 } := by
  have hmin : min 64 (v.aligned + 1) = v.aligned + 1 := by omega
  have hlt : ¬ 64 ≤ v.aligned + 1 := by omega
  simp [State.takeAlign, hv, hpat, hmin, hlt]

theorem State.takeAlign_breaks (hv : s.port p = v) (hpat : patternGood bytes = false) (hn : v.aligned < 64) :
    s.takeAlign p bytes = s.setPort p { v with aligned := 0 } := by
  simp [State.takeAlign, hv, hpat, Nat.not_le.mpr hn]

/-- Both sides have 64 aligned frames, as far as this frame tells. -/
def alignedThere (bytes : List Byte) : Prop :=
  (leAt bytes 19 1).testBit 6 = true ∨ leAt bytes 18 1 = 5 ∨ leAt bytes 18 1 = 6

theorem State.takeAlign_leaves (hv : s.port p = v) (hpat : patternGood bytes = true) (hn : 63 ≤ v.aligned)
    (hsn : s.fab.snLock = true) (hthere : alignedThere bytes) :
    s.takeAlign p bytes = s.setPort p { ({ v with reason := 6 }).enter 5 0 with aligned := 64 } := by
  have hmin : min 64 (v.aligned + 1) = 64 := by omega
  unfold alignedThere at hthere
  simp only [State.takeAlign, hv, hpat, hmin, hsn, if_true, Nat.le_refl, decide_true, Bool.and_self, Bool.true_and,
    Bool.or_eq_true, beq_iff_eq, or_assoc, hthere]
  rfl

theorem State.takeAlign_stays (hv : s.port p = v) (hpat : patternGood bytes = true) (hn : 63 ≤ v.aligned)
    (hstay : s.fab.snLock = false ∨ ¬ alignedThere bytes) :
    s.takeAlign p bytes = s.setPort p { v with aligned := 64, reason := 6 } := by
  have hmin : min 64 (v.aligned + 1) = 64 := by omega
  have hguard : ¬(s.fab.snLock = true ∧ ((leAt bytes 19 1).testBit 6 = true ∨ leAt bytes 18 1 = 5 ∨ leAt bytes 18 1 = 6)) := by
    rcases hstay with h | h
    · simp [h]
    · exact fun hh => h hh.2
  simp only [State.takeAlign, hv, hpat, hmin, if_true, Nat.le_refl, decide_true, Bool.and_true, Bool.true_and,
    Bool.and_eq_true, Bool.or_eq_true, beq_iff_eq, or_assoc, hguard, if_false]

/-- The sub-port with what a frame of EXCHANGE or DELAY tells of the neighbour (R235). -/
def SubPort.acquainted (v : SubPort) (bytes : List Byte) : SubPort :=
  { (if v.fast && !(leAt bytes 60 2).testBit 15 then v.release (leAt bytes 60 2 % 4096) else v) with
    ready := true, nbrSn := leAt bytes 20 3, nbrPid := leAt bytes 23 1 % 128, nbrEpoch := leAt bytes 24 2
    cred0 := (List.range 8).map fun i => leAt bytes (28 + 4 * i) 4 }

theorem State.takeExchange_split (h : bitsOf (leAt bytes 19 1) 0 2 ≠ (s.pctl (p / 4)).split) :
    s.takeExchange p bytes = s.trainingFails p 4 := if_pos h

theorem State.takeExchange_self (h : bitsOf (leAt bytes 19 1) 0 2 = (s.pctl (p / 4)).split) (hsn : leAt bytes 20 3 = s.station) :
    s.takeExchange p bytes = s.trainingFails p 5 := (if_neg (not_not.mpr h)).trans (if_pos hsn)

theorem State.takeExchange_good (hv : s.port p = v) (h : bitsOf (leAt bytes 19 1) 0 2 = (s.pctl (p / 4)).split)
    (hsn : leAt bytes 20 3 ≠ s.station) : s.takeExchange p bytes =
      if (leAt bytes 19 1).testBit 4 then s.setPort p { (v.acquainted bytes).enter 6 0 with ready := true }
      else s.setPort p (v.acquainted bytes) := by
  unfold State.takeExchange
  rw [hv]
  exact (if_neg (not_not.mpr h)).trans (if_neg hsn)

/-- The sub-port with a round trip counted, where the frame answers one of its own (R234). -/
def SubPort.timedTrip (v : SubPort) (n : Nat) (bytes : List Byte) : SubPort :=
  let trip := n - leAt bytes 1270 6 - leAt bytes 1276 4
  if leAt bytes 18 1 = 6 ∧ v.sentAt.contains (leAt bytes 1270 6) = true then
    { v with dcount := v.dcount + 1, best := if v.dcount = 0 then trip else min v.best trip } else v

/-- A round trip counted touches the count and the best trip alone. -/
theorem SubPort.timedTrip_eq (v : SubPort) (n : Nat) (bytes : List Byte) : v.timedTrip n bytes =
    { v with dcount := (v.timedTrip n bytes).dcount, best := (v.timedTrip n bytes).best } := by
  unfold SubPort.timedTrip
  dsimp only
  split <;> rfl

/-- The round trips that a training asks for (R234). -/
def SubPort.tripsNeeded (v : SubPort) : Nat := if v.fast then 32 else 256

/-- A frame taken in DELAY, with the trip that it counts named. -/
theorem State.takeDelay_eq (hv : s.port p = v) : s.takeDelay p n bytes =
    let x := v.timedTrip n bytes
    let y := { x with ddone := decide (v.tripsNeeded ≤ x.dcount) }
    if y.ddone && (leAt bytes 19 1).testBit 5 then s.setPort p { y.enter 7 0 with
      oneway := y.best / 2 % 2 ^ 32, resend := y.held.map (·.1), rplNext := y.held.head?.map fun x => (x.1 + 4095) % 4096
      fast := false, retry := false, fails := 0, retrains := if v.fast then v.retrains else 0 }
    else s.setPort p y := by
  unfold State.takeDelay SubPort.timedTrip
  simp only [hv, Bool.and_eq_true, beq_iff_eq]
  rfl

theorem State.takeDelay_stays (hv : s.port p = v)
    (h : ¬ v.tripsNeeded ≤ (v.timedTrip n bytes).dcount ∨ (leAt bytes 19 1).testBit 5 = false) : s.takeDelay p n bytes =
      s.setPort p { v.timedTrip n bytes with ddone := decide (v.tripsNeeded ≤ (v.timedTrip n bytes).dcount) } :=
  (State.takeDelay_eq hv).trans (if_neg (by rcases h with h | h <;> simp [h]))

theorem State.takeDelay_ends (hv : s.port p = v) (h : v.tripsNeeded ≤ (v.timedTrip n bytes).dcount)
    (hthere : (leAt bytes 19 1).testBit 5 = true) : s.takeDelay p n bytes =
      s.setPort p { ({ v.timedTrip n bytes with ddone := true }).enter 7 0 with
        oneway := (v.timedTrip n bytes).best / 2 % 2 ^ 32, resend := v.held.map (·.1)
        rplNext := v.held.head?.map fun x => (x.1 + 4095) % 4096
        fast := false, retry := false, fails := 0, retrains := if v.fast then v.retrains else 0 } := by
  have hheld : (v.timedTrip n bytes).held = v.held := by rw [SubPort.timedTrip_eq]
  rw [State.takeDelay_eq hv, ← hheld]
  simp only [h, hthere, decide_true, Bool.and_self, if_true]

end

end Sys2Proof.Machine

section
open Sys2Proof Sys2Proof.Machine

/-- Settles O28: the checks on a training frame in their order, and what each state of the training makes of a good one. -/
theorem trainingFrames : Obligations.TrainingFrames := by
  unfold Obligations.TrainingFrames
  intro s p t fec bytes hp v w cut ts fl la echo trip done fails
  have hrecv := s.received_portStep p.val t.toNat fec
  have hw := hrecv.setPort w
  have hsame := exec_trainingFrameReceive_good (t := t) (fec := fec) (bytes := bytes) hp
  refine ⟨exec_trainingFrameReceive_idle, fun hst hg => ?_, fun hst hg h0 => ?_, fun hst hg h0 hbad => ?_,
    fun hg h1 hver hts => ?_⟩
  · exact ⟨_, exec_trainingFrameReceive_bad hp hst hg, ((hrecv.setPort cut).count _ _).frame⟩
  · exact ⟨_, exec_trainingFrameReceive_data hp hst hg h0, (hrecv.setPort (cut.timed t.toNat bytes)).frame⟩
  · exact ⟨_, exec_trainingFrameReceive_malformed hp hst hg h0 hbad, ((hrecv.setPort cut).count _ _).frame⟩
  · have hgood : TrainingGood fec bytes := ⟨hg, h1, hver, hts⟩
    have align : v.st = 4 → _ := fun h4 => (hsame (.inl h4) hgood).trans (congrArg _ (if_pos h4))
    have delay : v.st = 6 → _ := fun h6 => (hsame (.inr (.inr h6)) hgood).trans
      (congrArg _ ((if_neg (show ¬ v.st = 4 by omega)).trans (if_pos h6)))
    have exchange : v.st = 5 → _ := fun h5 => (hsame (.inr (.inl h5)) hgood).trans
      (congrArg _ ((if_neg (show ¬ v.st = 4 by omega)).trans (if_neg (show ¬ v.st = 6 by omega))))
    refine ⟨fun h4 hpat hn => ?_, fun h4 hpat hn => ?_, fun h4 hpat hn hsn hthere => ?_, fun h4 hpat hn hstay => ?_,
      fun h5 hts4 => ?_, fun h5 hts4 hsplit => ?_, fun h5 hts4 hsplit hsn => ?_, fun h5 hts4 hsplit hsn => ?_, fun h6 => ?_⟩
    · exact ⟨_, (align h4).trans (congrArg _ (State.takeAlign_counts hw.here hpat hn)), (hw.setPort _).frame⟩
    · exact ⟨_, (align h4).trans (congrArg _ (State.takeAlign_breaks hw.here hpat hn)), (hw.setPort _).frame⟩
    · exact ⟨_, (align h4).trans (congrArg _ (State.takeAlign_leaves hw.here hpat hn (by rw [hw.fab]; exact hsn) hthere)),
        (hw.setPort _).frame⟩
    · have hstay' : s.fab.snLock = false ∨ ¬ alignedThere bytes := hstay.imp_right fun ⟨hfl, hts4⟩ hthere => by
        rcases hthere with h | h | h
        · exact absurd (hfl.symm.trans h) (by decide)
        · exact absurd (hts4.symm.trans h) (by decide)
        · exact absurd (hts4.symm.trans h) (by decide)
      exact ⟨_, (align h4).trans (congrArg _ (State.takeAlign_stays hw.here hpat hn (by rw [hw.fab]; exact hstay'))),
        (hw.setPort _).frame⟩
    · exact ⟨_, (exchange h5).trans (congrArg _ (if_pos hts4)), hw.frame⟩
    · exact (exchange h5).trans (congrArg _ ((if_neg hts4).trans (State.takeExchange_split (by rw [hw.pctl]; exact hsplit))))
    · exact (exchange h5).trans (congrArg _ ((if_neg hts4).trans
        (State.takeExchange_self (by rw [hw.pctl]; exact hsplit) (by rw [hw.station]; exact hsn))))
    · have hexec := (exchange h5).trans (congrArg _ ((if_neg hts4).trans
        (State.takeExchange_good hw.here (by rw [hw.pctl]; exact hsplit) (by rw [hw.station]; exact hsn))))
      exact ⟨fun hready => ⟨_, hexec.trans (congrArg _ (if_neg (ne_true_of_eq_false hready))), (hw.setPort _).frame⟩,
        fun hready => ⟨_, hexec.trans (congrArg _ (if_pos hready)), (hw.setPort _).frame⟩⟩
    · exact ⟨fun hstay => ⟨_, (delay h6).trans (congrArg _ (State.takeDelay_stays hw.here hstay)), (hw.setPort _).frame⟩,
        fun henough hthere => ⟨_, (delay h6).trans (congrArg _ (State.takeDelay_ends hw.here henough hthere)),
          (hw.setPort _).frame⟩⟩

end

namespace Sys2Proof.Machine

/-! # What sending packets leaves unchanged (R226, R237, R238, R245) -/

/-- Nothing differs but the packets on their way and the counters. -/
def Sends (s t : State) : Prop :=
  t = { s with ctr := t.ctr, fab := { s.fab with loop := t.fab.loop }, egress := t.egress }

namespace Sends

variable {s t u : State}

theorem refl (s : State) : Sends s s := rfl

theorem trans (h : Sends s t) (g : Sends t u) : Sends s u := by
  unfold Sends at *
  rw [g, h]

theorem foldl {α : Type} {f : State → α → State} (hf : ∀ s x, Sends s (f s x)) (l : List α) (s : State) :
    Sends s (l.foldl f s) := by
  induction l generalizing s with
  | nil => exact refl s
  | cons x l ih => exact (hf s x).trans (ih _)

theorem ports (h : Sends s t) : t.ports = s.ports := by rw [h]

theorem port (h : Sends s t) (k : Nat) : t.port k = s.port k := by rw [State.port, h.ports]; rfl

theorem mem (h : Sends s t) : t.mem = s.mem := by rw [h]

theorem eng (h : Sends s t) : t.eng = s.eng := by rw [h]

theorem cols (h : Sends s t) : t.cols = s.cols := by rw [h]

end Sends

theorem State.placePacket_sends (s : State) (k : Packet) (i : Nat) : Sends s (s.placePacket k i).1 := by
  unfold State.placePacket
  split
  · rfl
  · split
    · unfold State.enqueue
      dsimp only
      split <;> rfl
    · rfl

theorem State.noticeFrom_sends (s : State) (rep sn st path flow ptype dst ctx : Nat) :
    Sends s (s.noticeFrom rep sn st path flow ptype dst ctx) := s.placePacket_sends _ _

theorem State.noticeOf_sends (s : State) (k : Packet) (st path : Nat) : Sends s (s.noticeOf k st path) := by
  unfold State.noticeOf
  split
  · exact s.noticeFrom_sends ..
  · exact .refl s

theorem State.routePacket_sends (s : State) (k : Packet) (i : Nat) : Sends s (s.routePacket k i) := by
  unfold State.routePacket
  have h := s.placePacket_sends k i
  split
  · next e => rwa [e] at h
  · next e =>
    rw [e] at h
    exact h.trans (State.noticeOf_sends ..)

theorem State.sendOn_sends (s : State) (k : Packet) : Sends s (s.sendOn k) := s.routePacket_sends k 128

/-- A packet that a path takes is queued there, and its own station counts it where it is a notice (R237, R246). -/
theorem State.routePacket_queued {s : State} {k : Packet} {path : Nat} (hdst : k.dst.toNat ≠ s.station)
    (h : s.route k = .inl path) (i : Nat) : s.routePacket k i = s.enqueue k path i := by
  simp only [State.routePacket, State.placePacket, if_neg hdst, h]

theorem State.enqueue_frame (s : State) (k : Packet) (path i : Nat) :
    s.enqueue k path i = { s with ctr := (s.enqueue k path i).ctr, egress := s.egress ++ [⟨k, path, s.now, i⟩] } := by
  unfold State.enqueue
  dsimp only
  split <;> rfl

/-- A packet on no list is taken off none. -/
theorem State.take_of_absent {s : State} {k : Packet} (hin : s.fab.inbox.contains k = false)
    (hkept : s.fab.kept.contains k = false) (hloop : s.fab.loop.contains k = false) : s.take k = s := by
  have hmem : k ∉ s.fab.loop := by simpa using hloop
  simp only [State.take, hin, hkept, Bool.false_eq_true, if_false, List.erase_of_not_mem hmem]

/-! # Events of a training, quiesce and forwarding (R221, R233, R237, R238, R240) -/

section

variable {s : State} {p : Fin 128}

theorem exec_trainingLimitExpiry (hp : s.present p.val = true) (h : (s.port p.val).st = 2 ∧ (s.port p.val).lanes ≠ 0 ∨
    (s.port p.val).st = 3 ∨ (s.port p.val).st = 5 ∨ (s.port p.val).st = 6) :
    exec (.trainingLimitExpiry p) s = .next (s.trainingFails p.val (limitReason (s.port p.val).st)) := by
  change execTrainingLimitExpiry p s = _
  rcases h with ⟨hst, hl⟩ | hst | hst | hst
  · simp [execTrainingLimitExpiry, hp, hst, hl]
  all_goals simp [execTrainingLimitExpiry, hp, hst]

/-- No limit runs in DETECT while no lane shows signal. -/
theorem exec_trainingLimitExpiry_dark (hst : (s.port p.val).st = 2) (hl : (s.port p.val).lanes = 0) :
    exec (.trainingLimitExpiry p) s = .next s := by
  change execTrainingLimitExpiry p s = _
  simp [execTrainingLimitExpiry, hst, hl]

/-- The lanes of a sub-port that show signal, replaced. -/
def State.lit (s : State) (p lanes : Nat) : State := s.setPort p { s.port p with lanes := lanes }

theorem State.lit_portStep (s : State) (p lanes : Nat) : PortStep s (s.lit p lanes) p { s.port p with lanes := lanes } :=
  (PortStep.refl s p).setPort _

theorem exec_laneSignalChange_detect (hp : s.present p.val = true) (hst : (s.port p.val).st = 2) (lanes : BitVec 16) :
    exec (.laneSignalChange p lanes) s =
      .next ((s.lit p.val (lanes.toNat % 2 ^ (s.pctl (p.val / 4)).lanes)).detect p.val) := by
  have hstep := s.lit_portStep p.val (lanes.toNat % 2 ^ (s.pctl (p.val / 4)).lanes)
  exact (if_neg (by rw [← State.lit, hstep.present, hp]; decide)).trans (if_pos ((congrArg SubPort.st hstep.here).trans hst))

theorem exec_laneSignalChange_lost (hp : s.present p.val = true) (hst : (s.port p.val).st = 7) {lanes : BitVec 16}
    (hl : lanes.toNat < 2 ^ (s.pctl (p.val / 4)).lanes - 1) :
    exec (.laneSignalChange p lanes) s = .next ((s.lit p.val lanes.toNat).linkLost p.val) := by
  have hmod : lanes.toNat % 2 ^ (s.pctl (p.val / 4)).lanes = lanes.toNat := Nat.mod_eq_of_lt (by omega)
  have hstep := s.lit_portStep p.val lanes.toNat
  have hst' : ((s.lit p.val lanes.toNat).port p.val).st = 7 := (congrArg SubPort.st hstep.here).trans hst
  have hall : (s.lit p.val lanes.toNat).allLanes p.val = false := by
    rw [State.allLanes, hstep.here, hstep.pctl]
    exact beq_eq_false_iff_ne.mpr hl.ne
  change execLaneSignalChange p lanes s = _
  unfold execLaneSignalChange
  extract_lets n src s1 v
  have hs1 : s1 = s.lit p.val lanes.toNat := congrArg (s.lit p.val) hmod
  have hv : v = (s.lit p.val lanes.toNat).port p.val := congrArg (State.port · p.val) hs1
  rw [hv, hs1, if_neg (by simp [hstep.present, hp]), if_neg (by omega), if_neg (by simp [hall]), if_pos hst']

theorem State.detect_all {p : Nat} {v : SubPort} (hv : s.port p = v) (hst : v.st = 2)
    (hl : v.lanes = 2 ^ (s.pctl (p / 4)).lanes - 1) (hfast : v.fastNext = false) : s.detect p = s.setPort p (v.enter 3 0) := by
  simp [State.detect, State.allLanes, hv, hst, hl, hfast]

theorem exec_equalisationDone (hst : (s.port p.val).st = 3) (ok : Bool) : exec (.equalisationDone p ok) s =
    .next (if ok then s.setPort p.val ((s.port p.val).enter 4 0) else s.trainingFails p.val 2) := by
  change execEqualisationDone p ok s = _
  cases ok <;> simp [execEqualisationDone, hst]

/-- An unsplit port has one sub-port. -/
theorem State.portPaths_unsplit {n : Nat} (h : (s.pctl n).split = 0) : s.portPaths n = [4 * n] := by
  simp [State.portPaths, PortCtl.subports, h]

theorem exec_retrain {n : Fin 32} (hsplit : (s.pctl n.val).split = 0) (hen : (s.pctl n.val).en = true) :
    exec (.retrain n) s = .next (s.trainFull (4 * n.val) false 0) := by
  change Host.Outcome.next ((s.portPaths n.val).foldl (fun s p => s.trainIfEnabled p) s) = _
  rw [State.portPaths_unsplit hsplit, List.foldl_cons, List.foldl_nil, State.trainIfEnabled,
    Nat.mul_div_cancel_left _ (by decide), if_pos hen]

@[simp] theorem State.pctl_setPctl (s : State) (n : Nat) (c : PortCtl) : (s.setPctl n c).pctl n = c := by
  simp [State.pctl, State.setPctl]

theorem exec_wenPortDisable {n : Fin 32} (hsplit : (s.pctl n.val).split = 0) (hst : (s.port (4 * n.val)).st = 7) :
    exec (.wenPortDisable n) s = .next ((s.setPctl n.val { s.pctl n.val with en := false }).setPort (4 * n.val)
      { s.port (4 * n.val) with st := 8 }) := by
  have hpaths : (s.setPctl n.val { s.pctl n.val with en := false }).portPaths n.val = [4 * n.val] :=
    State.portPaths_unsplit (by rw [State.pctl_setPctl]; exact hsplit)
  have hport : (s.setPctl n.val { s.pctl n.val with en := false }).port (4 * n.val) = s.port (4 * n.val) := rfl
  change Host.Outcome.next (s.portDisable n.val) = _
  simp [State.portDisable, hpaths, hport, hst, State.subportQuiesce]

/-- What is dropped with a sub-port leaves its buffers empty (R240). -/
theorem State.dropBuffers_port (s : State) (p status : Nat) (waiting : Bool) : (s.dropBuffers p status waiting).port p =
    { s.port p with tx := [], rx := [], held := [], unacked := [], resend := [] } := by
  unfold State.dropBuffers
  exact ((Sends.foldl (fun s k => s.noticeOf_sends k status p) _ _).port p).trans (State.port_setPort _ p _)

theorem State.subportDown_port (s : State) (p : Nat) : (s.subportDown p).port p =
    { ({ s.port p with st := 1, tx := [], rx := [], held := [], unacked := [], resend := [] } : SubPort).enter 1 0 with
      epoch := ((s.port p).epoch + 1) % 65536, follow := false, fastNext := false, fast := false, pendRpl := false
      rplAck := none, rplNext := none, sent := List.replicate 8 0, freed := List.replicate 8 0
      credIn := List.replicate 8 0 } := by
  have hdrop := (s.setPort p { s.port p with st := 1 }).dropBuffers_port p 0x0402 true
  rw [State.port_setPort] at hdrop
  unfold State.subportDown
  dsimp only
  rw [State.port_setPort, hdrop]

theorem exec_subportQuiesceDone (hst : (s.port p.val).st = 8) :
    exec (.subportQuiesceDone p) s = .next (s.subportDown p.val) := if_pos hst

theorem exec_packetForward {k : Packet} (hok : packetOk k = true) (hdst : k.dst.toNat ≠ s.station)
    (hin : s.fab.inbox.contains k = false) (hkept : s.fab.kept.contains k = false) (hloop : s.fab.loop.contains k = false) :
    exec (.packetForward k) s = .next (s.routePacket k k.path.val) := by
  change execPacketForward k s = _
  simp [execPacketForward, State.take_of_absent hin hkept hloop, hok, hdst]

end

end Sys2Proof.Machine

section
open Sys2Proof Sys2Proof.Machine

/-- Settles O29: each event by what it does to the one sub-port, and a packet by the path that its route gives it. -/
theorem trainingAndQuiesce : Obligations.TrainingAndQuiesce := by
  unfold Obligations.TrainingAndQuiesce
  refine ⟨fun s p hp => ?_, fun s n hsplit hst => ?_, fun s p hst => ?_, fun s k path hok hdst hin hloop hkept hroute => ?_⟩
  · intro v all
    refine ⟨fun hst => ?_, fun hst => ?_, fun hst hl => ?_, exec_trainingLimitExpiry_dark, fun lanes hl hst hfast => ?_,
      fun lanes hl hst hfollow => ?_, fun lanes hl hst hfollow => ?_, fun hst => ?_, fun hst => exec_equalisationDone hst false,
      fun n => exec_retrain⟩
    · have h := exec_trainingLimitExpiry hp (.inr (.inl hst))
      rwa [show (s.port p.val).st = 3 from hst] at h
    · have h := exec_trainingLimitExpiry hp (.inr (.inr hst))
      rcases hst with hst | hst <;> rwa [show (s.port p.val).st = _ from hst] at h
    · have h := exec_trainingLimitExpiry hp (.inl ⟨hst, hl⟩)
      rwa [show (s.port p.val).st = 2 from hst] at h
    · have hmod : lanes.toNat % 2 ^ (s.pctl (p.val / 4)).lanes = all := by
        rw [hl]
        exact Nat.mod_eq_of_lt (Nat.sub_lt (Nat.two_pow_pos _) Nat.one_pos)
      have hstep := s.lit_portStep p.val all
      have hexec := exec_laneSignalChange_detect hp hst lanes
      rw [hmod, State.detect_all hstep.here hst (by rw [hstep.pctl]) hfast] at hexec
      have hset := hstep.setPort (({ v with lanes := all } : SubPort).enter 3 0)
      exact ⟨_, hexec, congrArg SubPort.st hset.here, congrArg SubPort.lanes hset.here⟩
    · have hstep := s.lit_portStep p.val lanes.toNat
      exact (exec_laneSignalChange_lost hp hst hl).trans
        (congrArg _ (if_pos ((congrArg SubPort.follow hstep.here).trans hfollow)))
    · have hstep := s.lit_portStep p.val lanes.toNat
      have hlost := (exec_laneSignalChange_lost hp hst hl).trans
        (congrArg _ (if_neg (ne_true_of_eq_false ((congrArg SubPort.follow hstep.here).trans hfollow))))
      have hset := (hstep.setPort ({ v with lanes := lanes.toNat } : SubPort).fastRetrain).count (ctrPort p.val + 3) 1
      rw [State.retrainFast, hstep.here] at hlost
      exact ⟨_, hlost, congrArg SubPort.st hset.here, congrArg SubPort.fast hset.here,
        (congrArg SubPort.held hset.here :)⟩
    · have hstep := (PortStep.refl s p.val).setPort (v.enter 4 0)
      exact ⟨_, exec_equalisationDone hst true, congrArg SubPort.st hstep.here, hstep.away⟩
  · refine ⟨_, exec_wenPortDisable hsplit hst, ?_, ?_, fun k hk => State.port_setPort_ne _ _ hk, rfl⟩
    · exact congrArg PortCtl.en (s.pctl_setPctl n.val _)
    · rw [State.port_setPort]
  · refine ⟨_, exec_subportQuiesceDone hst, ?_⟩
    rw [State.subportDown_port]
    exact ⟨rfl, rfl, rfl, rfl, rfl⟩
  · have hqueue := State.enqueue_frame s k path k.path.val
    refine ⟨_, (exec_packetForward hok hdst hin hkept hloop).trans (congrArg _ (State.routePacket_queued hdst hroute _)), ?_⟩
    rw [hqueue]
    exact ⟨rfl, rfl, rfl⟩

end

namespace Sys2Proof.Machine

/-! # Packets taken (R229) and firmware messages (R243, R441) -/

/-- A packet taken off its list: nothing differs but the lists and the sub-port whose slots are free. -/
theorem State.take_frame (s : State) (k : Packet) : s.take k = { s with
    ports := (s.take k).ports
    fab := { s.fab with
      inbox := (s.take k).fab.inbox, kept := (s.take k).fab.kept, loop := (s.take k).fab.loop } } := by
  unfold State.take State.freeSlots
  split
  · rfl
  · split <;> rfl

/-- A packet of its type for this station is taken and handled. -/
theorem State.handles.onPacket {s : State} {k : Packet} {ptype : Nat} (h : s.handles k ptype) (f : State → State) :
    s.onPacket k ptype f = f (s.take k) := by
  obtain ⟨htype, hdst, hok⟩ := h
  simp [State.onPacket, htype, hdst, hok]

/-- Nothing differs but the counters, the packets on their way, the answers given and the next MSEQ. -/
def Answers (s t : State) : Prop :=
  t = { s with
    ctr := t.ctr, egress := t.egress
    fab := { s.fab with loop := t.fab.loop, answered := t.fab.answered, mseq := t.fab.mseq } }

theorem Sends.answers {s t : State} (h : Sends s t) : Answers s t := by
  unfold Sends at h
  rw [h]
  rfl

theorem Answers.trans {s t u : State} (h : Answers s t) (g : Answers t u) : Answers s u := by
  unfold Answers at *
  rw [g, h]

/-- A message that asks for no answer changes nothing but what is sent and the next MSEQ. -/
theorem State.fwmsg_answers (s : State) (dst : Nat) (bs : List Byte) : Answers s (s.fwmsg dst 5 bs none) := by
  have h : Answers s { s with fab := { s.fab with mseq := (s.fab.mseq + 1) % 2 ^ 32 } } := rfl
  exact h.trans (State.sendOn_sends _ _).answers

section

variable {s : State} {k : Packet} {chan : Nat} {shape : Bool} {f : State → State × Nat}

/-- Whether this station has answered the message before. -/
def State.answeredTo (s : State) (k : Packet) : Option (Nat × Nat × Nat) :=
  s.fab.answered.find? fun a => a.1 == k.src.toNat && a.2.1 == pf k 0 4

theorem State.handles.onFw (h : s.handles k 3) (hchan : k.flow.toNat = chan) (hok : fwOk k = true) (hshape : shape = true) :
    (∀ a, s.answeredTo k = some a → Answers (s.take k) (s.onFw k chan shape f)) ∧
    (s.answeredTo k = none → Answers (f (s.take k)).1 (s.onFw k chan shape f)) := by
  have hold : (s.take k).answeredTo k = s.answeredTo k := by rw [State.answeredTo, State.take_frame]; rfl
  unfold State.answeredTo at hold
  rw [State.onFw, h.onPacket]
  dsimp only
  rw [if_neg (not_not.mpr hchan), if_neg (by simp [hok, hshape]), hold]
  refine ⟨fun a ha => ?_, fun ha => ?_⟩
  · rw [State.answeredTo] at ha
    rw [ha]
    dsimp only
    split
    · exact State.fwmsg_answers _ _ _
    · rfl
  · rw [State.answeredTo] at ha
    rw [ha]
    dsimp only
    have happ : Answers (f (s.take k)).1 { (f (s.take k)).1 with fab := { (f (s.take k)).1.fab with
        answered := (f (s.take k)).1.fab.answered ++ [(k.src.toNat, pf k 0 4, (f (s.take k)).2)] } } := rfl
    split
    · exact happ.trans (State.fwmsg_answers _ _ _)
    · exact happ

end

theorem Answers.stracts {s t : State} (h : Answers s t) : t.stracts = s.stracts := by rw [h]

theorem Answers.routeTab {s t : State} (h : Answers s t) (rtl : Bool) : t.routeTab rtl = s.routeTab rtl := by rw [h]; rfl

theorem Answers.out {s t : State} (h : Answers s t) : t.out = s.out := by rw [h]

theorem State.take_stracts (s : State) (k : Packet) : (s.take k).stracts = s.stracts := by rw [State.take_frame]

theorem State.take_routeTab (s : State) (k : Packet) (rtl : Bool) : (s.take k).routeTab rtl = s.routeTab rtl := by
  rw [State.take_frame]; rfl

theorem State.take_out (s : State) (k : Packet) : (s.take k).out = s.out := by rw [State.take_frame]

theorem State.take_waiting (s : State) (k : Packet) : (s.take k).fab.waiting = s.fab.waiting := by rw [State.take_frame]

theorem State.take_cmd (s : State) (k : Packet) : (s.take k).cmd = s.cmd := by rw [State.take_frame]

/-! ## What each message does (R243) -/

/-- STJOIN, with the status of its answer: the handle recorded, unless 256 station tracts are. -/
def State.joined (s : State) (b : List Byte) : State × Nat :=
  if (Map.find s.stracts (leAt b 0 2)).isNone && 256 ≤ s.stracts.length then (s, 0x0206)
  else (s.recordStract (leAt b 0 2) ⟨leAt b 2 3, leAt b 5 1, []⟩, 0)

theorem exec_stjoin (s : State) (k : Packet) : exec (.stjoin k) s = .next (s.onFw k 1
    (let b := fwPayload k
     fwLen k == 12 && decide (5 ≤ leAt b 5 1) && decide (leAt b 5 1 ≤ 10) && decide (leAt b 6 1 < 8) && leAt b 7 1 == 0)
    fun s => s.joined (fwPayload k)) := rfl

theorem State.joined_room {s : State} (h : s.stracts.length < 256) (b : List Byte) :
    (s.joined b).1.stracts = Map.put s.stracts (leAt b 0 2) ⟨leAt b 2 3, leAt b 5 1, []⟩ :=
  congrArg (fun x : State × Nat => x.1.stracts) (if_neg (by simp [h]))

/-- STLEAVE, with the status of its answer: the handle forgotten. -/
def State.left (s : State) (b : List Byte) : State × Nat := ({ s with stracts := Map.del s.stracts (leAt b 0 2) }, 0)

theorem exec_stleave (s : State) (k : Packet) :
    exec (.stleave k) s = .next (s.onFw k 2 (fwLen k == 2) fun s => s.left (fwPayload k)) := rfl

/-- The route entries of a ROUTEPUSH. -/
def pushedRoutes (b : List Byte) : List Nat := (List.range (leAt b 4 2)).map fun i => leAt b (8 + 4 * i) 4

/-- ROUTEPUSH of a sender, with the status of its answer. -/
def State.pushed (s : State) (src : Nat) (b : List Byte) : State × Nat :=
  if !(Config.routeSources (s.activeDigest 5)).contains src then (s, 0x0346)
  else if leAt b 4 2 = 0 || 1022 < leAt b 4 2 || 8192 < leAt b 2 2 + leAt b 4 2 || !paramsOk 0x0402 b then (s, 0x0801)
  else (s.routeLoad ((leAt b 0 1).testBit 0) (leAt b 2 2) (pushedRoutes b), 0)

theorem exec_routepush (s : State) (k : Packet) : exec (.routepush k) s =
    .next (s.onFw k 3 (fwLen k == 8 + 4 * leAt (fwPayload k) 4 2) fun s => s.pushed k.src.toNat (fwPayload k)) := rfl

theorem State.pushed_refused {s : State} {src : Nat} {b : List Byte}
    (h : (Config.routeSources (s.activeDigest 5)).contains src = false ∨ paramsOk 0x0402 b = false) :
    (s.pushed src b).1 = s := by
  unfold State.pushed
  rcases h with h | h
  · rw [h]; rfl
  · split
    · rfl
    · rw [if_pos (by simp [h])]

/-- The table that a ROUTEPUSH does not name stays. -/
theorem State.pushed_other (s : State) (src : Nat) (b : List Byte) :
    (s.pushed src b).1.routeTab (!(leAt b 0 1).testBit 0) = s.routeTab (!(leAt b 0 1).testBit 0) := by
  unfold State.pushed
  split
  · rfl
  · split
    · rfl
    · exact s.routeLoad_other _ _ _

theorem pushedRoutes_length (b : List Byte) : (pushedRoutes b).length = leAt b 4 2 := by simp [pushedRoutes]

theorem State.pushed_loads {s : State} {src : Nat} {b : List Byte}
    (h : (Config.routeSources (s.activeDigest 5)).contains src = true) (hb : paramsOk 0x0402 b = true) (h1 : 1 ≤ leAt b 4 2)
    (h2 : leAt b 4 2 ≤ 1022) (h3 : leAt b 2 2 + leAt b 4 2 ≤ 8192) :
    (s.pushed src b).1 = s.routeLoad ((leAt b 0 1).testBit 0) (leAt b 2 2) (pushedRoutes b) := by
  have hn : ¬(leAt b 4 2 = 0 ∨ 1022 < leAt b 4 2 ∨ 8192 < leAt b 2 2 + leAt b 4 2) := by omega
  unfold State.pushed
  rw [if_neg (by rw [h]; decide), if_neg (by simp [or_assoc, hn, hb])]

/-- RELAY, with the status of its answer. -/
def State.relayed (s : State) (b : List Byte) : State × Nat :=
  (if s.mod.mgmtUp then { s with out := .report b :: s.out } else s, 0)

theorem exec_relay (s : State) (k : Packet) :
    exec (.relay k) s = .next (s.onFw k 4 (fwLen k == 256) fun s => s.relayed (fwPayload k)) := rfl

/-! ## Answers and repetitions -/

/-- The messages that wait, without one. -/
def State.unwait (s : State) (w : FwMsg) : State := { s with fab := { s.fab with waiting := s.fab.waiting.erase w } }

theorem State.take_unwait (s : State) (k : Packet) (w : FwMsg) : (s.take k).unwait w =
    { s.take k with fab := { (s.take k).fab with waiting := s.fab.waiting.erase w } } := by
  rw [State.unwait, State.take_waiting]

theorem State.messageEnds_none {s : State} {w : FwMsg} (h : w.cmd = none) (st : Nat) : s.messageEnds w st = s.unwait w := by
  rw [State.messageEnds, h]; rfl

theorem State.messageEnds_some {s : State} {w : FwMsg} {r : Started} (h : w.cmd = some r) (st : Nat) :
    s.messageEnds w st = (s.unwait w).fwAnswered r st := by
  rw [State.messageEnds, h]; rfl

theorem State.fwAnswered_started {s : State} {r : Started} (h : r ∈ s.cmd.started) (st : Nat) : s.fwAnswered r st =
    if st ≠ 0 then (if r.op = 0x0403 then s.giveUp r else s).finish r st
    else if (s.fab.waiting.any fun w => w.cmd == some r) = true then s else s.finish r 0 := by
  obtain ⟨x, hx⟩ := Option.isSome_iff_exists.mp
    (List.find?_isSome (p := (· == r)).mpr ⟨r, h, beq_self_eq_true r⟩)
  simp only [State.fwAnswered, hx, beq_iff_eq]

theorem exec_mack {s : State} {k : Packet} {w : FwMsg} (h : s.handles k 3) (hok : fwOk k = true) (hflow : k.flow = 5)
    (hlen : fwLen k = 8) (hack : pf k 6 1 = 0) (hw : (s.fab.waiting.find? fun w =>
      w.mseq == leAt (fwPayload k) 0 4 && w.dst == k.src.toNat && w.chan == leAt (fwPayload k) 6 2) = some w) :
    exec (.mack k) s = .next ((s.take k).messageEnds w (leAt (fwPayload k) 4 2)) := by
  change Host.Outcome.next (s.onPacket k 3 _) = _
  rw [h.onPacket]
  simp [hflow, hok, hlen, hack, State.onMack, State.take_waiting, hw]

theorem exec_fwmsgRetryExpiry {s : State} {m : BitVec 32} {w : FwMsg}
    (hw : (s.fab.waiting.find? fun w => w.mseq == m.toNat) = some w) : exec (.fwmsgRetryExpiry m) s = .next (
      if w.tries < 3 then
        let s1 : State := { s with fab := { s.fab with
          waiting := s.fab.waiting.map fun x => if x = w then { x with tries := x.tries + 1 } else x } }
        s1.sendOn (s1.fwPacket w.dst w.chan w.mseq true w.payload)
      else s.messageEnds w 0x0761) := by
  change execFwmsgRetryExpiry m s = _
  rw [execFwmsgRetryExpiry, hw]
  exact (apply_ite Host.Outcome.next ..).symm

end Sys2Proof.Machine

section
open Sys2Proof Sys2Proof.Machine

/-- Settles O31: what a message does is done once and then answered; an answer or the last repetition ends what waits. -/
theorem firmwareMessages : Obligations.FirmwareMessages := by
  unfold Obligations.FirmwareMessages
  refine ⟨fun s k h hok => ?_, fun s m w hw => ?_⟩
  · intro b old
    refine ⟨fun hflow hlen h5 h10 h6 h7 => ?_, fun hflow hlen => ?_, fun hflow hlen hold h1 h2 h3 hrtl => ?_,
      fun hflow hlen hold hup => ?_, fun w hflow hlen hack hcmd hw => ?_, fun w r hflow hlen hack hcmd hr hw => ?_⟩
    · obtain ⟨hseen, hnew⟩ := h.onFw (f := fun s => s.joined b) (by rw [hflow]; rfl : k.flow.toNat = 1) hok
        (by simp [hlen, b, h5, h10, h6, h7] : (fwLen k == 12 && decide (5 ≤ leAt b 5 1) && decide (leAt b 5 1 ≤ 10) &&
          decide (leAt b 6 1 < 8) && leAt b 7 1 == 0) = true)
      refine ⟨_, exec_stjoin s k, fun hold => ?_, fun hold hroom => ?_⟩
      · obtain ⟨a, ha⟩ := Option.isSome_iff_exists.mp hold
        exact (hseen a ha).stracts.trans (s.take_stracts k)
      · have hput := (hnew hold).stracts.trans (State.joined_room (by rw [State.take_stracts]; exact hroom) b)
        rw [State.take_stracts] at hput
        exact ⟨by rw [hput, Map.find_put], fun j hj => by rw [hput, Map.find_put_ne _ _ _ _ hj]⟩
    · obtain ⟨hseen, hnew⟩ := h.onFw (f := fun s => s.left b) (by rw [hflow]; rfl : k.flow.toNat = 2) hok
        (beq_iff_eq.mpr hlen : (fwLen k == 2) = true)
      refine ⟨_, exec_stleave s k, fun hold => ?_, fun hold => ?_⟩
      · obtain ⟨a, ha⟩ := Option.isSome_iff_exists.mp hold
        exact (hseen a ha).stracts.trans (s.take_stracts k)
      · have hdel : _ = Map.del (s.take k).stracts (leAt b 0 2) := (hnew hold).stracts
        rw [State.take_stracts] at hdel
        exact ⟨by rw [hdel, Map.find_del, if_pos rfl], fun j hj => by rw [hdel, Map.find_del, if_neg hj]⟩
    · obtain ⟨-, hnew⟩ := h.onFw (f := fun s => s.pushed k.src.toNat b) (by rw [hflow]; rfl : k.flow.toNat = 3) hok
        (beq_iff_eq.mpr hlen : (fwLen k == 8 + 4 * leAt b 4 2) = true)
      have htab := fun rtl => (hnew hold).routeTab rtl
      have hdig : (s.take k).activeDigest 5 = s.activeDigest 5 := by rw [State.take_frame]; rfl
      have hlen' := pushedRoutes_length b
      refine ⟨_, exec_routepush s k, ?_, fun href => ?_, fun hsrc hparams => ?_⟩
      · have hother := (s.take k).pushed_other k.src.toNat b
        rw [hrtl, s.take_routeTab] at hother
        exact (htab false).trans hother
      · have hsame := State.pushed_refused (s := s.take k) (by rw [hdig]; exact href)
        exact (htab true).trans ((congrArg (State.routeTab · true) hsame).trans (s.take_routeTab k true))
      · have hload := State.pushed_loads (s := s.take k) (by rw [hdig]; exact hsrc) hparams h1 h2 h3
        have hrtl' := (htab true).trans (congrArg (State.routeTab · true) hload)
        rw [hrtl] at hrtl'
        refine ⟨fun i hi hnp => ?_, fun j hj => ?_⟩
        · have hin := (s.take k).routeLoad_inside true (leAt b 2 2) (pushedRoutes b) (by omega) i (by omega)
          rw [← hrtl', show (pushedRoutes b)[i] = leAt b (8 + 4 * i) 4 by simp [pushedRoutes], if_pos hnp] at hin
          exact hin
        · have hout := (s.take k).routeLoad_outside true (leAt b 2 2) j (pushedRoutes b) (by omega) (by omega)
          rw [← hrtl', s.take_routeTab] at hout
          exact hout
    · obtain ⟨-, hnew⟩ := h.onFw (f := fun s => s.relayed b) (by rw [hflow]; rfl : k.flow.toNat = 4) hok
        (beq_iff_eq.mpr hlen : (fwLen k == 256) = true)
      refine ⟨_, exec_relay s k, (hnew hold).out.trans ?_⟩
      have hup' : (s.take k).mod.mgmtUp = true := by rw [State.take_frame]; exact hup
      rw [← s.take_out k]
      exact congrArg State.out (if_pos hup')
    · exact (exec_mack h hok hflow hlen hack hw).trans
        (congrArg _ ((State.messageEnds_none hcmd _).trans (s.take_unwait k w)))
    · intro s1
      have hr' : r ∈ s1.cmd.started := by rw [show s1.cmd = s.cmd from s.take_cmd k]; exact hr
      have hexec := (exec_mack h hok hflow hlen hack hw).trans (congrArg _ (State.messageEnds_some hcmd _))
      rw [State.take_unwait, State.fwAnswered_started hr'] at hexec
      exact ⟨fun hst => hexec.trans (congrArg _ (if_pos hst)),
        fun hst hany => hexec.trans (congrArg _ ((if_neg (not_not.mpr hst)).trans (if_neg (ne_true_of_eq_false hany)))),
        fun hst hany => hexec.trans (congrArg _ ((if_neg (not_not.mpr hst)).trans (if_pos hany)))⟩
  · have hexec := exec_fwmsgRetryExpiry hw
    refine ⟨fun htries => ?_, fun htries hcmd => ?_, fun r htries hcmd hr => ?_⟩
    · refine ⟨_, hexec.trans (congrArg _ (if_pos htries)), ?_, ?_⟩
      · exact State.sendOn_waiting _ _
      · rw [State.sendOn_sends]
    · exact hexec.trans (congrArg _ ((if_neg (Nat.not_lt.mpr htries)).trans (State.messageEnds_none hcmd _)))
    · intro s1
      have hr' : r ∈ s1.cmd.started := hr
      exact hexec.trans (congrArg _ ((if_neg (Nat.not_lt.mpr htries)).trans ((State.messageEnds_some hcmd _).trans
        ((State.fwAnswered_started hr' _).trans (if_pos (by decide))))))

end

namespace Sys2Proof.Machine

/-! # Data packets of a run (R245, R257, R261-R263, R271, R273) -/

/-! ### The collective of a run -/

/-- The run of an open collective replaced. -/
theorem State.updRun_of_col {s : State} {h : Nat} {c : Col} (hc : s.col h = some c) (f : ColRun → ColRun) :
    s.updRun h f = s.setCol h { c with cur := f c.cur } := by
  rw [State.updRun, hc]

/-- A run that reads nothing does what it does where every range that it writes is admitted (R178). -/
theorem State.colGuard_admitted {s : State} {c : Col} {writes : List (Nat × Nat)}
    (hw : ∀ x ∈ writes, s.rangeStatus c.r.ctx.toNat x.1 x.2 = 0) (h : Nat) (f : State → State) :
    s.colGuard h c [] writes f = f (writes.foldl (fun s x => s.access .collective true x.1 x.2) s) := by
  have hnone : (([] ++ writes).find? fun x : Nat × Nat => s.rangeStatus c.r.ctx.toNat x.1 x.2 != 0) = none :=
    List.find?_eq_none.mpr fun x hx => by simp [hw x hx]
  rw [State.colGuard, hnone]
  rfl

/-- A run that writes a range it may not fails with the status of that access. -/
theorem State.colGuard_refused {s : State} {c : Col} {a n : Nat} (hw : s.rangeStatus c.r.ctx.toNat a n ≠ 0) (h : Nat)
    (f : State → State) : s.colGuard h c [] [(a, n)] f = s.colStop h a (s.rangeStatus c.r.ctx.toNat a n) := by
  have hsome : (([] ++ [(a, n)]).find? fun x : Nat × Nat => s.rangeStatus c.r.ctx.toNat x.1 x.2 != 0) = some (a, n) :=
    List.find?_cons_of_pos (by simpa using hw)
  rw [State.colGuard, hsome]

theorem State.shard_of_mem {s t : State} (h : t.mem = s.mem) (r : ColRec) (o : Nat) : t.shard r o = s.shard r o := by
  simp only [State.shard, State.planAt, State.planTab, h]

theorem State.ownerIn_of_mem {s t : State} (h : t.mem = s.mem) (r : ColRec) (n : Nat) : t.ownerIn r n = s.ownerIn r n := by
  simp only [State.ownerIn, State.ranks, State.planTab, State.shard_of_mem h, h]

theorem State.member_of_mem {s t : State} (h : t.mem = s.mem) (r : ColRec) (o : Nat) : t.member r o = s.member r o := by
  simp only [State.member, State.planAt, State.planTab, h]

/-! ### A packet for an open collective -/

/-- The collective of a packet with the packet's epoch recorded (R245). -/
def Col.heard (c : Col) (k : Packet) : Col := { c with epochs := Map.put c.epochs k.src.toNat k.sepoch.toNat }

theorem State.take_col (s : State) (k : Packet) (h : Nat) : (s.take k).col h = s.col h := by rw [State.take_frame]; rfl

theorem State.epochChecked_other {s : State} {c : Col} {k : Packet} {e : Nat} (he : Map.find c.epochs k.src.toNat = some e)
    (hne : e ≠ k.sepoch.toNat) (h : Nat) (f : State → Col → State) :
    s.epochChecked h c k f = s.count (ctrPort k.path.val + 14) := by
  rw [State.epochChecked, he]
  exact if_pos hne

theorem State.epochChecked_same {s : State} {c : Col} {k : Packet}
    (he : Map.find c.epochs k.src.toNat = none ∨ Map.find c.epochs k.src.toNat = some k.sepoch.toNat) (h : Nat)
    (f : State → Col → State) : s.epochChecked h c k f = f (s.setCol h (c.heard k)) (c.heard k) := by
  have hget : (Map.find c.epochs k.src.toNat).getD k.sepoch.toNat = k.sepoch.toNat := by
    rcases he with he | he <;> rw [he] <;> rfl
  unfold State.epochChecked
  rw [hget]
  exact if_neg (not_not.mpr rfl)

section

variable {s : State} {k : Packet} {c : Col}

/-- What a run does with a packet of the recorded epoch (R257, R261). -/
def State.runChecked (s : State) (h : Nat) (c : Col) (k : Packet) : State :=
  match c.runCheck (pf k 4 2) with
  | .inl () => s.takeData h c k
  | .inr true => s.noticeOf k 0x0325 k.path.val
  | .inr false => s.count (ctrDev 51)

theorem exec_data_kept (hw : s.permWaits k = true) : exec (.data k) s = .next s := if_pos hw

/-- A data packet for the open collective `c` of its context. -/
structure State.DataFor (s : State) (k : Packet) (c : Col) : Prop where
  handles : s.handles k 1
  ok : dataOk k = true
  col : s.col k.flow.toNat = some c
  isOpen : c.waiting = false
  ctx : c.r.ctx = k.ctx

/-- A data packet that does not wait goes to its collective. -/
theorem exec_data_open (h : s.DataFor k c) (hw : s.permWaits k = false) :
    exec (.data k) s = .next ((s.take k).epochChecked k.flow.toNat c k fun s c => s.runChecked k.flow.toNat c k) := by
  have hc' : (s.take k).col k.flow.toNat = some c := (s.take_col k _).trans h.col
  have hexec : exec (.data k) s = .next (s.onPacket k 1 fun s => s.onData k) := if_neg (ne_true_of_eq_false hw)
  rw [hexec, h.handles.onPacket, State.onData, h.ok, if_neg (by decide)]
  dsimp only
  rw [hc']
  dsimp only
  rw [if_neg (by simp [h.isOpen, h.ctx])]
  rfl

theorem State.permWaits_of_role (h : dRole k ≠ 5) : s.permWaits k = false := by simp [State.permWaits, h]

/-- Only a packet of the current run, and of no other epoch, waits. -/
theorem State.permWaits_of_stale (hk : s.DataFor k c) (h : (∃ e, Map.find c.epochs k.src.toNat = some e ∧ e ≠ k.sepoch.toNat) ∨
    ∃ b, c.runCheck (pf k 4 2) = .inr b) : s.permWaits k = false := by
  unfold State.permWaits
  rw [hk.col]
  rcases h with ⟨e, he, hne⟩ | ⟨b, hb⟩
  · simp [he, hne]
  · simp [hb]

end

/-! ### The plan read -/

theorem Col.isSlip_of_sums {c : Col} (h : c.sums = true) : c.isSlip = false := by
  simp only [Col.sums, Bool.or_eq_true, beq_iff_eq] at h
  rcases h with hkind | hkind <;> simp [Col.isSlip, hkind]

theorem Col.isSlip_of_gathers {c : Col} (h : c.gathers = true) : c.isSlip = false := by
  simp only [Col.gathers, Bool.or_eq_true, beq_iff_eq] at h
  rcases h with hkind | hkind <;> simp [Col.isSlip, hkind]

theorem Col.isSlip_of_isA2a {c : Col} (h : c.isA2a = true) : c.isSlip = false := by
  simp only [Col.isA2a, beq_iff_eq] at h
  simp [Col.isSlip, h]

/-- A run whose plan can be read does what it does once the plan's lines have been read (R179). -/
theorem State.colPlanned_read {s : State} {c : Col} (hslip : c.isSlip = false) (hplan : s.planStatus c.r = 0) (h : Nat)
    (f : State → State) :
    s.colPlanned h c f = f ((s.planRanges c.r).foldl (fun s x => s.access .collective false x.1 x.2) s) := by
  unfold State.colPlanned
  rw [hslip]
  exact if_pos hplan

/-- Between two states the memory, the engines and what is admitted stay, and the collective `h` is `c`. -/
structure RunIn (s t : State) (h : Nat) (c : Col) : Prop where
  mem : t.mem = s.mem
  eng : t.eng = s.eng
  col : t.col h = some c
  status : ∀ c a n, t.rangeStatus c a n = s.rangeStatus c a n

theorem RunIn.accessOnly {s t u : State} {h : Nat} {c : Col} (ht : RunIn s t h c) (hu : AccessOnly t u) : RunIn s u h c where
  mem := hu.mem.trans ht.mem
  eng := hu.eng.trans ht.eng
  col := (State.col_of_cols hu.cols h).trans ht.col
  status c a n := Eq.trans (by rw [hu]; rfl) (ht.status c a n)

theorem RunIn.accesses {s t : State} {h : Nat} {c : Col} (ht : RunIn s t h c) (w : Bool) (l : List (Nat × Nat)) :
    RunIn s (l.foldl (fun s x => s.access .collective w x.1 x.2) t) h c :=
  ht.accessOnly (AccessOnly.foldl (fun s (x : Nat × Nat) => s.access_accessOnly .collective w x.1 x.2) l t)

/-- A packet taken for its collective, and the plan read. -/
def State.planned (s : State) (k : Packet) (c : Col) : State :=
  (s.planRanges c.r).foldl (fun s x => s.access .collective false x.1 x.2) ((s.take k).setCol k.flow.toNat (c.heard k))

theorem State.planned_runIn (s : State) (k : Packet) (c : Col) : RunIn s (s.planned k c) k.flow.toNat (c.heard k) := by
  refine RunIn.accesses (t := (s.take k).setCol k.flow.toNat (c.heard k)) ⟨?_, ?_, ?_, fun c a n => ?_⟩ false _
  · rw [State.take_frame]; rfl
  · rw [State.take_frame]; rfl
  · rw [State.col_setCol, if_pos rfl]
  · rw [State.take_frame]; rfl

section

variable {s : State} {k : Packet} {c : Col} {h : Nat}

theorem State.takeData_tile (hrole : dRole k = 0) (hsums : c.sums = true) : s.takeData h c k = s.colPlanned h c fun s =>
    s.acceptTile h (dTidx k) (pf k 8 3) (pf k 6 2) (pf k 3 1 % 4) ((pf k 3 1).testBit 2) (dLen k) (c.tileOf (dPayload k)).1
      (c.tileOf (dPayload k)).2 false := by
  rw [State.takeData, hrole, hsums]
  rfl

theorem State.takeData_shard (hrole : dRole k = 2) (hgathers : c.gathers = true) :
    s.takeData h c k = s.colPlanned h c fun s => s.takeRole2 h c k := by
  rw [State.takeData, hrole, hgathers]
  rfl

theorem State.takeData_a2a (hrole : dRole k = 3 ∨ dRole k = 4) (ha2a : c.isA2a = true) :
    s.takeData h c k = s.colPlanned h c fun s => s.takeA2a h c k := by
  rw [State.takeData, ha2a]
  rcases hrole with hrole | hrole <;> rw [hrole] <;> rfl

end

section

variable {s : State} {k : Packet} {c : Col} {f : State → State}

/-- A packet of the current run is taken by its role once the plan is read. -/
theorem exec_data_live (h : s.DataFor k c) (hrole : dRole k ≠ 5) (hslip : c.isSlip = false)
    (hlive : s.planStatus c.r = 0 ∧
      (Map.find c.epochs k.src.toNat = none ∨ Map.find c.epochs k.src.toNat = some k.sepoch.toNat) ∧
      c.runCheck (pf k 4 2) = .inl ())
    (hf : ∀ s : State, s.takeData k.flow.toNat (c.heard k) k = s.colPlanned k.flow.toNat (c.heard k) f) :
    exec (.data k) s = .next (f (s.planned k c)) := by
  obtain ⟨hplan, he, hrun⟩ := hlive
  have hplan' : ((s.take k).setCol k.flow.toNat (c.heard k)).planStatus (c.heard k).r = 0 := by
    rw [State.take_frame]; exact hplan
  rw [exec_data_open h (State.permWaits_of_role hrole), State.epochChecked_same he, State.runChecked,
    show (c.heard k).runCheck (pf k 4 2) = .inl () from hrun]
  dsimp only
  rw [hf, State.colPlanned_read (c := c.heard k) hslip hplan', State.planned]
  have hranges : ((s.take k).setCol k.flow.toNat (c.heard k)).planRanges (c.heard k).r = s.planRanges c.r := by
    rw [State.take_frame]; rfl
  rw [hranges]

end

/-! ### What a role's packet writes -/

/-- Bytes that a run writes for a collective (R195), nothing else differing but what is captured. -/
theorem State.write_runIn (s : State) (a : Nat) (bs : List Byte) :
    (s.write a bs).mem = s.mem.writeN a bs ∧ (s.write a bs).eng = s.eng ∧ (s.write a bs).cols = s.cols := by
  obtain ⟨b, f, h⟩ := s.write_eq a bs
  rw [h]
  exact ⟨rfl, rfl, rfl⟩

section

variable {s : State} {h : Nat} {c : Col} {k : Packet}

theorem State.takeRole2_accepted {o : Nat} (hown : s.ownerIn c.r (dBoff k / 16) = some o) (hne : o ≠ c.r.rank.toNat)
    (hin : dBoff k + dLen k ≤ 16 * ((s.shard c.r o).1 + (s.shard c.r o).2))
    (hroom : Map.getD c.cur.bytes o 0 + dLen k ≤ 16 * (s.shard c.r o).2)
    (hst : s.rangeStatus c.r.ctx.toNat (c.r.dest.toNat + dBoff k) (dLen k) = 0) : s.takeRole2 h c k =
      let s1 := s.access .collective true (c.r.dest.toNat + dBoff k) (dLen k)
      let s2 := (s1.write (c.r.dest.toNat + dBoff k) (dPayload k)).updRun h fun r =>
        { r with bytes := Map.put r.bytes o (Map.getD c.cur.bytes o 0 + dLen k) }
      (s2.dist c.r o).foldl (fun s d => s.colSend h c d (bytesAt k.body 0 32) (dPayload k)) s2 := by
  rw [State.takeRole2, hown]
  dsimp only
  rw [if_neg (by simp; omega), State.colGuard_admitted (by simpa using hst)]
  rfl

theorem State.takeA2a_row {rank : Nat} (hrole : dRole k = 3)
    (hrank : ((List.range c.r.nmem.toNat).find? fun o => s.member c.r o == k.src.toNat) = some rank)
    (hidx : dTidx k / max 1 c.r.cap.toNat = rank) :
    s.takeA2a h c k = s.takeRow h c rank (dTidx k) (dBoff k) (pf k 16 4) (dPayload k) := by
  rw [State.takeA2a, hrank]
  dsimp only
  rw [if_neg (by omega), if_neg (not_not.mpr hidx)]

theorem State.takeA2a_count {rank : Nat} (hrole : dRole k = 4)
    (hrank : ((List.range c.r.nmem.toNat).find? fun o => s.member c.r o == k.src.toNat) = some rank) :
    s.takeA2a h c k = s.takeCount h c rank (pf k 16 4) := by
  rw [State.takeA2a, hrank]
  exact if_pos hrole

theorem State.takeRow_accepted {rank tidx boff : Nat} {bs : List Byte} (hin : boff + bs.length ≤ c.rowBytes)
    (hnew : Map.find c.cur.counts rank = none)
    (hroom : Map.getD c.cur.bytes rank 0 + bs.length ≤ c.r.cap.toNat * c.rowBytes)
    (hst : s.rangeStatus c.r.ctx.toNat (c.r.dest.toNat + tidx * c.rowBytes + boff) bs.length = 0)
    (hst' : s.rangeStatus c.r.ctx.toNat (c.r.dtag.toNat + 4 * tidx) 4 = 0) (tag : Nat) :
    s.takeRow h c rank tidx boff tag bs =
      ((([(c.r.dest.toNat + tidx * c.rowBytes + boff, bs.length), (c.r.dtag.toNat + 4 * tidx, 4)].foldl
            (fun s x => s.access .collective true x.1 x.2) s).write (c.r.dest.toNat + tidx * c.rowBytes + boff) bs).write
          (c.r.dtag.toNat + 4 * tidx) (toLE 4 tag)).updRun h fun r =>
        { r with bytes := Map.put r.bytes rank (Map.getD c.cur.bytes rank 0 + bs.length) } := by
  rw [State.takeRow, hnew]
  dsimp only
  rw [if_neg (by simp [hin, hroom]), State.colGuard_admitted (by simp [hst, hst'])]

/-- A count word given once, of a rank that has not sent more. -/
theorem State.takeCount_once {rank word : Nat} (hnew : Map.find c.cur.counts rank = none)
    (hroom : Map.getD c.cur.bytes rank 0 ≤ bitsOf word 0 16 * c.rowBytes) : s.takeCount h c rank word =
      s.colGuard h c [] [(c.r.rcnt.toNat + 4 * rank, 4)] fun s =>
        (s.write (c.r.rcnt.toNat + 4 * rank) (toLE 4 word)).updRun h fun r => { r with counts := Map.put r.counts rank word } := by
  rw [State.takeCount, hnew]
  exact if_neg (by simp; omega)

end

/-! ### What sending a run's packets leaves -/

/-- Between two states packets of the run of `h` were sent: the memory, the engines and the collective stay, but for the time
of its last send. -/
structure RunSends (s t : State) (h : Nat) : Prop where
  mem : t.mem = s.mem
  eng : t.eng = s.eng
  col : ∀ c, s.col h = some c → ∃ n, t.col h = some { c with cur := { c.cur with lastSend := n } }

theorem RunSends.refl (s : State) (h : Nat) : RunSends s s h := ⟨rfl, rfl, fun c hc => ⟨c.cur.lastSend, hc⟩⟩

theorem RunSends.trans {s t u : State} {h : Nat} (ht : RunSends s t h) (hu : RunSends t u h) : RunSends s u h where
  mem := hu.mem.trans ht.mem
  eng := hu.eng.trans ht.eng
  col c hc := by
    obtain ⟨_, hc'⟩ := ht.col c hc
    obtain ⟨n, hc''⟩ := hu.col _ hc'
    exact ⟨n, hc''⟩

theorem State.updRun_runSends (s : State) (h n : Nat) : RunSends s (s.updRun h fun r => { r with lastSend := n }) h := by
  cases hc : s.col h with
  | none =>
    rw [State.updRun, hc]
    exact .refl s h
  | some c =>
    rw [State.updRun_of_col hc]
    refine ⟨rfl, rfl, fun c' hc' => ⟨n, ?_⟩⟩
    rw [State.col_setCol, if_pos rfl, ← Option.some.inj (hc.symm.trans hc')]

theorem State.colSend_runSends (s : State) (h : Nat) (c : Col) (dst : Nat) (head payload : List Byte) :
    RunSends s (s.colSend h c dst head payload) h := by
  have hsend := s.sendOn_sends (s.packet c.r.vl.toNat dst 1 h c.r.ctx.toNat (head ++ payload))
  have hcol := State.col_of_cols hsend.cols h
  exact RunSends.trans ⟨hsend.mem, hsend.eng, fun c' hc' => ⟨c'.cur.lastSend, hcol.trans hc'⟩⟩
    (State.updRun_runSends _ h s.ns)

theorem State.colSends_runSends (h : Nat) (c : Col) (head payload : List Byte) (l : List Nat) (s : State) :
    RunSends s (l.foldl (fun s d => s.colSend h c d head payload) s) h := by
  induction l generalizing s with
  | nil => exact .refl s h
  | cons d l ih => exact (s.colSend_runSends h c d head payload).trans (ih _)

/-! ### What is written of a run -/

/-- Bytes written by a run, and the run then changed. -/
theorem State.write_updRun {s t : State} {h : Nat} {c : Col} (ht : RunIn s t h c) (a : Nat) (bs : List Byte)
    (f : ColRun → ColRun) : ((t.write a bs).updRun h f).mem = s.mem.writeN a bs ∧
      ((t.write a bs).updRun h f).eng = s.eng ∧ ((t.write a bs).updRun h f).col h = some { c with cur := f c.cur } := by
  obtain ⟨hmem, heng, hcols⟩ := t.write_runIn a bs
  rw [State.updRun_of_col ((State.col_of_cols hcols h).trans ht.col)]
  exact ⟨hmem.trans (by rw [ht.mem]), heng.trans ht.eng, (State.col_setCol ..).trans (if_pos rfl)⟩

section

variable {s t : State} {h : Nat} {c : Col} {k : Packet} (ht : RunIn s t h c)
include ht

/-- A ROLE 2 packet taken: its bytes are written and counted for its owner (R271). -/
theorem State.takeRole2_writes {o : Nat} (hown : s.ownerIn c.r (dBoff k / 16) = some o) (hne : o ≠ c.r.rank.toNat)
    (hin : dBoff k + dLen k ≤ 16 * ((s.shard c.r o).1 + (s.shard c.r o).2))
    (hroom : Map.getD c.cur.bytes o 0 + dLen k ≤ 16 * (s.shard c.r o).2)
    (hst : s.rangeStatus c.r.ctx.toNat (c.r.dest.toNat + dBoff k) (dLen k) = 0) :
    (t.takeRole2 h c k).mem = s.mem.writeN (c.r.dest.toNat + dBoff k) (dPayload k) ∧ (t.takeRole2 h c k).eng = s.eng ∧
      ∃ c', (t.takeRole2 h c k).col h = some c' ∧
        c'.cur.bytes = Map.put c.cur.bytes o (Map.getD c.cur.bytes o 0 + dLen k) ∧ c'.st = c.st := by
  have hshard : t.shard c.r o = s.shard c.r o := State.shard_of_mem ht.mem _ _
  have htake := State.takeRole2_accepted (s := t) (h := h) ((State.ownerIn_of_mem ht.mem _ _).trans hown) hne
    (by rw [hshard]; exact hin) (by rw [hshard]; exact hroom) ((ht.status _ _ _).trans hst)
  extract_lets s1 s2 at htake
  obtain ⟨hmem, heng, hcol⟩ := State.write_updRun (ht.accessOnly (t.access_accessOnly ..)) (c.r.dest.toNat + dBoff k)
    (dPayload k) fun r => { r with bytes := Map.put r.bytes o (Map.getD c.cur.bytes o 0 + dLen k) }
  have hsent := State.colSends_runSends h c (bytesAt k.body 0 32) (dPayload k) (s2.dist c.r o) s2
  rw [htake]
  obtain ⟨n, hcol'⟩ := hsent.col _ hcol
  exact ⟨hsent.mem.trans hmem, hsent.eng.trans heng, _, hcol', rfl, rfl⟩

/-- A row piece taken: its bytes and its tag are written (R273). -/
theorem State.takeRow_writes {rank tidx boff : Nat} {bs : List Byte} (hin : boff + bs.length ≤ c.rowBytes)
    (hnew : Map.find c.cur.counts rank = none)
    (hroom : Map.getD c.cur.bytes rank 0 + bs.length ≤ c.r.cap.toNat * c.rowBytes)
    (hst : s.rangeStatus c.r.ctx.toNat (c.r.dest.toNat + tidx * c.rowBytes + boff) bs.length = 0)
    (hst' : s.rangeStatus c.r.ctx.toNat (c.r.dtag.toNat + 4 * tidx) 4 = 0) (tag : Nat) :
    let u := t.takeRow h c rank tidx boff tag bs
    u.mem = (s.mem.writeN (c.r.dest.toNat + tidx * c.rowBytes + boff) bs).writeN (c.r.dtag.toNat + 4 * tidx) (toLE 4 tag) ∧
      u.col h = some { c with cur := { c.cur with
        bytes := Map.put c.cur.bytes rank (Map.getD c.cur.bytes rank 0 + bs.length) } } ∧ u.eng = s.eng := by
  intro u
  have htake : u = _ :=
    State.takeRow_accepted hin hnew hroom ((ht.status _ _ _).trans hst) ((ht.status _ _ _).trans hst') tag
  have hacc := ht.accesses true [(c.r.dest.toNat + tidx * c.rowBytes + boff, bs.length), (c.r.dtag.toNat + 4 * tidx, 4)]
  rw [htake]
  generalize List.foldl _ t _ = v at hacc ⊢
  obtain ⟨hmem₁, heng₁, hcols₁⟩ := v.write_runIn (c.r.dest.toNat + tidx * c.rowBytes + boff) bs
  obtain ⟨hmem, heng, hcols⟩ := (v.write (c.r.dest.toNat + tidx * c.rowBytes + boff) bs).write_runIn
    (c.r.dtag.toNat + 4 * tidx) (toLE 4 tag)
  rw [State.updRun_of_col ((State.col_of_cols (hcols.trans hcols₁) h).trans hacc.col)]
  exact ⟨hmem.trans (by rw [hmem₁, hacc.mem]), (State.col_setCol ..).trans (if_pos rfl), heng.trans (heng₁.trans hacc.eng)⟩

/-- A count word taken is written (R273). -/
theorem State.takeCount_writes {rank word : Nat} (hnew : Map.find c.cur.counts rank = none)
    (hroom : Map.getD c.cur.bytes rank 0 ≤ bitsOf word 0 16 * c.rowBytes)
    (hst : s.rangeStatus c.r.ctx.toNat (c.r.rcnt.toNat + 4 * rank) 4 = 0) :
    let u := t.takeCount h c rank word
    u.mem = s.mem.writeN (c.r.rcnt.toNat + 4 * rank) (toLE 4 word) ∧
      u.col h = some { c with cur := { c.cur with counts := Map.put c.cur.counts rank word } } ∧ u.eng = s.eng := by
  intro u
  have htake : u = _ := State.takeCount_once hnew hroom
  rw [State.colGuard_admitted (by simpa using (ht.status _ _ _).trans hst)] at htake
  obtain ⟨hmem, heng, hcol⟩ := State.write_updRun (ht.accesses true [(c.r.rcnt.toNat + 4 * rank, 4)])
    (c.r.rcnt.toNat + 4 * rank) (toLE 4 word) fun r => { r with counts := Map.put r.counts rank word }
  rw [htake]
  exact ⟨hmem, hcol, heng⟩

end

end Sys2Proof.Machine

section
open Sys2Proof Sys2Proof.Machine

/-- Settles O32: a packet that does not wait is checked against its collective's epoch and run, and in the current run its
role's bytes are written once the plan is read. -/
theorem dataPackets : Obligations.DataPackets := by
  unfold Obligations.DataPackets
  intro s k c h0 hok hc hopen hctx h s0 c1 s1 ctx live
  have hk : s.DataFor k c := ⟨h0, hok, hc, hopen, hctx⟩
  have hplanned : RunIn s s1 h c1 := s.planned_runIn k c
  have hlen : (dPayload k).length = dLen k := bytesAt_length ..
  refine ⟨exec_data_kept, fun e he hne => ?_, fun he hrun => ?_, fun he hrun => ?_, fun hlive hrole hsums => ?_,
    fun o hlive hrole hgathers hown hne hin hroom hst => ?_,
    fun rank hlive hrole ha2a hrank hidx hin hnew hroom => ?_, fun rank hlive hrole ha2a hrank hnew hroom => ?_⟩
  · rw [exec_data_open hk (State.permWaits_of_stale hk (.inl ⟨e, he, hne⟩)),
      State.epochChecked_other he hne]
  · rw [exec_data_open hk (State.permWaits_of_stale hk (.inr ⟨true, hrun⟩)),
      State.epochChecked_same (.inr he), State.runChecked, show (c.heard k).runCheck (pf k 4 2) = .inr true from hrun]
    rfl
  · rw [exec_data_open hk (State.permWaits_of_stale hk (.inr ⟨false, hrun⟩)),
      State.epochChecked_same (.inr he), State.runChecked, show (c.heard k).runCheck (pf k 4 2) = .inr false from hrun]
    rfl
  · exact exec_data_live hk (by omega) (Col.isSlip_of_sums hsums) hlive fun s => State.takeData_tile hrole hsums
  · obtain ⟨hmem, heng, hcol⟩ := State.takeRole2_writes hplanned hown hne hin hroom hst
    refine ⟨_, exec_data_live hk (by omega) (Col.isSlip_of_gathers hgathers) hlive fun s =>
      State.takeData_shard hrole hgathers, ?_, fun x hx => ?_, hcol, heng⟩
    · have hread := s.mem.readN_writeN (c.r.dest.toNat + dBoff k) (dPayload k)
      rw [← hmem, hlen] at hread
      exact hread
    · have hread := s.mem.read_writeN_out (bs := dPayload k) (by rw [hlen]; exact hx)
      rw [← hmem] at hread
      exact hread
  · intro a b hst hst'
    have hrank' : ((List.range c1.r.nmem.toNat).find? fun o => s1.member c1.r o == k.src.toNat) = some rank := by
      simpa only [State.member_of_mem hplanned.mem] using hrank
    have hexec : exec (.data k) s = .next (s1.takeA2a h c1 k) := exec_data_live hk (by omega) (Col.isSlip_of_isA2a ha2a)
      hlive fun s => State.takeData_a2a (.inl hrole) ha2a
    rw [State.takeA2a_row hrole hrank' hidx] at hexec
    exact ⟨_, hexec, State.takeRow_writes hplanned (by rw [hlen]; exact hin) hnew (by rw [hlen]; exact hroom)
      (by rw [hlen]; exact hst) hst' _⟩
  · intro a
    have hrank' : ((List.range c1.r.nmem.toNat).find? fun o => s1.member c1.r o == k.src.toNat) = some rank := by
      simpa only [State.member_of_mem hplanned.mem] using hrank
    have hexec : exec (.data k) s = .next (s1.takeA2a h c1 k) := exec_data_live hk (by omega) (Col.isSlip_of_isA2a ha2a)
      hlive fun s => State.takeData_a2a (.inr hrole) ha2a
    rw [State.takeA2a_count hrole hrank'] at hexec
    refine ⟨fun hst => ?_, fun hst => ⟨_, hexec, State.takeCount_writes hplanned hnew hroom hst⟩⟩
    have hst0 := hplanned.status ctx a 4
    rw [State.takeCount_once (c := c1) hnew hroom] at hexec
    exact hexec.trans (congrArg _ ((State.colGuard_refused (c := c1) (ne_of_eq_of_ne hst0 hst) h _).trans (congrArg _ hst0)))

end

namespace Sys2Proof.Machine

/-! # Failure notices (R119, R245, R260) -/

/-! ### What the end of an entry leaves unchanged -/

/-- Between two states the collectives, the device memory and the contexts stay. -/
structure RunsKept (s t : State) : Prop where
  cols : t.cols = s.cols
  mem : t.mem = s.mem
  ctxs : t.ctxs = s.ctxs

namespace RunsKept

variable {s t u : State}

theorem refl (s : State) : RunsKept s s := ⟨rfl, rfl, rfl⟩

theorem trans (h : RunsKept s t) (g : RunsKept t u) : RunsKept s u :=
  ⟨g.cols.trans h.cols, g.mem.trans h.mem, g.ctxs.trans h.ctxs⟩

theorem ite {p : Prop} [Decidable p] (h : RunsKept s t) (g : RunsKept s u) : RunsKept s (if p then t else u) := by
  split
  · exact h
  · exact g

theorem logOnly (h : LogOnly s t) : RunsKept s t := by
  unfold LogOnly at h
  rw [h]
  exact ⟨rfl, rfl, rfl⟩

theorem ctx (h : RunsKept s t) (c : Nat) : t.ctx c = s.ctx c := by rw [State.ctx, h.ctxs]; rfl

end RunsKept

theorem State.dropHeld_runsKept (s : State) (key : Nat) (q : Q) : RunsKept s (s.dropHeld key q) := by
  unfold State.dropHeld
  split
  · exact .ite ⟨rfl, rfl, rfl⟩ ⟨rfl, rfl, rfl⟩
  · exact .refl s

theorem State.failQueue_runsKept {s t : State} {n c u : Nat} {q : Q} {addr status pc member : Nat} (h : RunsKept s t) :
    RunsKept s (t.failQueue n c u q addr status pc member) := by
  unfold State.failQueue
  extract_lets key w before _ w' s1 s2
  split
  · exact .ite (h.trans ⟨rfl, rfl, rfl⟩) h
  · have h1 : RunsKept s s1 := (h.trans (t.dropHeld_runsKept key q)).trans ⟨rfl, rfl, rfl⟩
    have h2 : RunsKept s s2 := .ite (.ite (h1.trans ⟨rfl, rfl, rfl⟩) (.ite (h1.trans ⟨rfl, rfl, rfl⟩) h1)) h1
    refine .ite ?_ (.ite (h2.trans (.logOnly (s2.event_logOnly ..))) h2)
    cases n with
    | zero => exact h2
    | succ n => exact State.failQueue_runsKept (h2.trans ⟨rfl, rfl, rfl⟩)

theorem State.endWait_runsKept (s : State) (key : Nat) (q : Q) (status : Nat) : RunsKept s (s.endWait key q status) := by
  unfold State.endWait
  split
  · exact .ite ⟨rfl, rfl, rfl⟩ (State.failQueue_runsKept (.refl s))
  · exact .refl s

/-! ### An MFIN that waits for staging -/

/-- The end of the MFIN that waits at a key, on its engine's state (R119). -/
def State.mfinEnds (s : State) (key status : Nat) : State :=
  match (s.queue key .m).head with
  | some h => (s.setMat key ((s.engOf key).mat.park h.entry)).endWait key .m status
  | none => s

theorem State.mfinEnds_runsKept (s : State) (key status : Nat) : RunsKept s (s.mfinEnds key status) := by
  unfold State.mfinEnds
  split
  · next h _ =>
    have hpark : RunsKept s (s.setMat key ((s.engOf key).mat.park h.entry)) := ⟨rfl, rfl, rfl⟩
    exact hpark.trans (State.endWait_runsKept _ key .m status)
  · exact .refl s

theorem State.stagingEnd_eq (s : State) (key status : Nat) : s.stagingEnd key status =
    s.onUnits (keyCtx key) (keyUnit key :: [1, 2, 3, 4].map fun k => enclosing (keyUnit key) k) fun s =>
      s.mfinEnds key status := rfl

/-- What is done to a running context's units is done where they are. -/
theorem State.onUnits_running {s : State} {c : Nat} (h : (s.ctx c).st = .running) (us : List Nat) (f : State → State) :
    s.onUnits c us f = f s := by
  have hin : (s.ctx c).inImage = false := by simp [Ctx.inImage, h]
  have hreal : (us.filter fun u => (s.ctx c).inImage ||
      (((s.ctx c).resident && (s.ctx c).st != .running) && decide (u < 16384))) = [] := by simp [hin, h]
  unfold State.onUnits
  extract_lets v away blk real put
  rw [show real = [] from hreal]
  rfl

theorem State.putBlock_cols (s : State) (u a : Nat) (e : Eng) : (s.putBlock u a e).cols = s.cols := by
  have hstore : ∀ (s : State) (z : Bool) (a n : Nat) (bs : List Byte), (s.storeOr z a n bs).cols = s.cols := by
    intro s z a n bs
    unfold State.storeOr
    split <;> rfl
  unfold State.putBlock
  split
  · simp only [hstore]
  · exact hstore ..

/-- What is done to a context's units changes the collectives only as it does itself. -/
theorem State.onUnits_cols {f : State → State} (hf : ∀ s, (f s).cols = s.cols) (s : State) (c : Nat) (us : List Nat) :
    (s.onUnits c us f).cols = s.cols := by
  unfold State.onUnits
  extract_lets v away blk real put
  have hput : ∀ (l : List Nat) (s : State), (l.foldl put s).cols = s.cols := by
    intro l
    induction l with
    | nil => exact fun s => rfl
    | cons u l ih => exact fun s => (ih _).trans (State.putBlock_cols ..)
  have hget : ∀ (l : List Nat) (o : Option State), (∀ t, o = some t → t.cols = s.cols) → ∀ t,
      l.foldl (fun o u => o.bind fun (s : State) =>
        (s.blockIn c u (blk u) v.inImage).map fun e => s.placeEng (engKey c u) e) o = some t → t.cols = s.cols := by
    intro l
    induction l with
    | nil => exact fun o ho => ho
    | cons u l ih =>
      refine fun o ho => ih _ fun t ht => ?_
      obtain ⟨s', hs', hmap⟩ := Option.bind_eq_some_iff.mp ht
      obtain ⟨e, -, rfl⟩ := Option.map_eq_some_iff.mp hmap
      exact ho s' hs'
  split
  · rfl
  · split
    · next s1 hs1 => exact (hput _ _).trans ((hf s1).trans (hget real (some s) (fun t ht => by cases ht; rfl) s1 hs1))
    · rfl

theorem State.stagingEnd_cols (s : State) (key status : Nat) : (s.stagingEnd key status).cols = s.cols :=
  State.onUnits_cols (fun s => (s.mfinEnds_runsKept key status).cols) s _ _

/-- An MFIN of a running context ends where its engine is. -/
theorem State.stagingEnd_runsKept {s : State} {key : Nat} (h : (s.ctx (keyCtx key)).st = .running) (status : Nat) :
    RunsKept s (s.stagingEnd key status) := by
  rw [State.stagingEnd_eq, State.onUnits_running h]
  exact s.mfinEnds_runsKept key status

theorem State.stagingEnds_cols (l : List Nat) (status : Nat) (s : State) :
    (l.foldl (fun s k => s.stagingEnd k status) s).cols = s.cols := by
  induction l generalizing s with
  | nil => rfl
  | cons k l ih => exact (ih _).trans (s.stagingEnd_cols k status)

theorem State.stagingEnds_mem {l : List Nat} {s : State} (h : ∀ x ∈ l, (s.ctx (keyCtx x)).st = .running) (status : Nat) :
    (l.foldl (fun s k => s.stagingEnd k status) s).mem = s.mem := by
  induction l generalizing s with
  | nil => rfl
  | cons k l ih =>
    have hkept := State.stagingEnd_runsKept (h k List.mem_cons_self) status
    refine (ih fun x hx => ?_).trans hkept.mem
    rw [hkept.ctx]
    exact h x (List.mem_cons_of_mem _ hx)

/-! ### A run that fails (R260) -/

theorem State.colClose_col (s : State) (h : Nat) (c : Col) (status waitns j : Nat) : (s.colClose h c status waitns).col j =
    if j = h then some { c with st := .complete, cur := { c.cur with status := status } } else s.col j := by
  unfold State.colClose
  rw [State.col_setCol]
  split
  · rfl
  · split
    · exact State.col_of_cols (s.access_accessOnly ..).cols j
    · rfl

/-- The end of a run writes its record at CADR, where an access is admitted, and nothing else of memory. -/
theorem State.colClose_mem (s : State) (h : Nat) (c : Col) (status waitns : Nat) : (s.colClose h c status waitns).mem =
    if s.rangeStatus c.r.ctx.toNat c.r.cadr.toNat 32 = 0 then s.mem.writeN c.r.cadr.toNat (s.colRecord c status waitns)
    else s.mem := by
  unfold State.colClose
  split
  · exact congrArg (fun m => Memory.writeN m _ _) (s.access_accessOnly ..).mem
  · rfl

theorem State.colClose_ctxs (s : State) (h : Nat) (c : Col) (status waitns : Nat) :
    (s.colClose h c status waitns).ctxs = s.ctxs := by
  unfold State.colClose
  split
  · have hacc := s.access_accessOnly .collective true c.r.cadr.toNat 32
    rw [hacc]; rfl
  · rfl

/-- The run of a collective that has failed: what it held is gone, and its record names who reported the failure. -/
def Col.failing (c : Col) (failsn : Nat) : Col :=
  { c with cur := { c.cur with failsn := failsn, pos := [], held := [], stagedQ := [] } }

section

variable {s : State} {h : Nat} {c : Col} (hc : s.col h = some c) (hopen : c.waiting = false)
  (hst : c.st = .armed ∨ c.st = .running)
include hc hopen hst

/-- What fails of an armed or running collective: the record, the staged tiles, the MFINs that wait, the notices. -/
theorem State.colFail_live (status failsn : Nat) : s.colFail h status failsn =
    (s.failTargets c).foldl (fun s d => s.noticeFrom failsn d status 0xFF h 1 0xFFFFFF c.r.ctx.toNat)
      ((s.stagingWaiters h).foldl (fun s k => s.stagingEnd k status)
        ((s.colClose h (c.failing failsn) status 0).dropTiles h)) := by
  have hlive : (!c.waiting && (c.st == .armed || c.st == .running)) = true := by
    rcases hst with hst | hst <;> simp [hopen, hst]
  rw [State.colFail, hc]
  exact if_pos hlive

theorem State.colFail_col (status failsn j : Nat) : (s.colFail h status failsn).col j =
    if j = h then some { c.failing failsn with st := .complete, cur := { (c.failing failsn).cur with status := status } }
    else s.col j := by
  rw [State.colFail_live hc hopen hst, ← State.colClose_col]
  refine State.col_of_cols ((Sends.foldl (fun s d => ?_) _ _).cols.trans (State.stagingEnds_cols _ status _)) j
  exact s.noticeFrom_sends ..

theorem State.colFail_mem (hrun : ∀ x ∈ s.stagingWaiters h, (s.ctx (keyCtx x)).st = .running) (status failsn : Nat) :
    (s.colFail h status failsn).mem = (s.colClose h (c.failing failsn) status 0).mem := by
  rw [State.colFail_live hc hopen hst]
  refine (Sends.foldl (fun s d => ?_) _ _).mem.trans (State.stagingEnds_mem (fun x hx => ?_) status)
  · exact s.noticeFrom_sends ..
  · have hctx : ((s.colClose h (c.failing failsn) status 0).dropTiles h).ctx (keyCtx x) = s.ctx (keyCtx x) := by
      rw [State.ctx, show ((s.colClose h (c.failing failsn) status 0).dropTiles h).ctxs = s.ctxs from s.colClose_ctxs h _ status 0]
      rfl
    rw [hctx]
    exact hrun x hx

end

/-! ### The notice and its operation -/

section

variable (s : State) (k : Packet)

theorem State.take_mem : (s.take k).mem = s.mem := by rw [State.take_frame]

theorem State.take_ctx (c : Nat) : (s.take k).ctx c = s.ctx c := by rw [State.take_frame]; rfl

theorem State.take_rangeStatus (c a n : Nat) : (s.take k).rangeStatus c a n = s.rangeStatus c a n := by
  rw [State.take_frame]; rfl

theorem State.take_stagingWaiters (h : Nat) : (s.take k).stagingWaiters h = s.stagingWaiters h := by
  rw [State.take_frame]; rfl

theorem State.take_colRecord (c : Col) (st w : Nat) : (s.take k).colRecord c st w = s.colRecord c st w := by
  rw [State.take_frame]; rfl

end

theorem exec_notice {s : State} {k : Packet} (h : s.handles k 4) : exec (.notice k) s = .next ((s.take k).takeNotice k.body) := by
  change Host.Outcome.next (s.onPacket k 4 fun s => s.takeNotice k.body) = _
  rw [h.onPacket]

theorem State.takeNotice_run {body : List Byte} (hp : leAt body 8 1 = 1 ∨ (leAt body 8 1 = 2 ∧ leAt body 6 2 ≠ 0)) (s : State) :
    s.takeNotice body = s.colFail (leAt body 6 2 % 4096) (leAt body 0 2) (leAt body 2 3) :=
  if_pos (by simpa using hp)

theorem State.takeNotice_other {body : List Byte} (h1 : leAt body 8 1 ≠ 1) (h2 : leAt body 8 1 = 2 → leAt body 6 2 = 0)
    (s : State) : s.takeNotice body =
      if leAt body 8 1 = 3 then
        (s.fab.waiting.filter fun w => w.chan == leAt body 6 2 && w.dst == leAt body 9 3).foldl
          (fun s w => s.messageEnds w (leAt body 0 2)) s
      else s :=
  if_neg (by simpa [h1] using h2)

/-! # Reduction packets (R256, R261, R275) -/

section

variable {s : State} {k : Packet} {c : Col}

theorem exec_slipred (h : s.handles k 0x14) (hc : s.col (pf k 0 2 % 4096) = some c) (hopen : c.waiting = false)
    (hok : c.slipOk k = true) : exec (.slipred k) s =
      .next ((s.take k).epochChecked (pf k 0 2 % 4096) c k fun s c =>
        if !(pf k 6 1).testBit 6 then s.slipUp (pf k 0 2 % 4096) c k (bytesAt k.body 16 c.slipForm.2.2)
        else if c.st == .running && pf k 2 2 == c.run && c.r.sparent == k.src && c.cur.slipUp && !c.cur.result then
          s.slipResult (pf k 0 2 % 4096) (bytesAt k.body 16 c.slipForm.2.2)
        else s.malformed k) := by
  have hc' : (s.take k).col (pf k 0 2 % 4096) = some c := (s.take_col k _).trans hc
  change Host.Outcome.next (s.onPacket k 0x14 fun s => s.onSlipred k) = _
  rw [h.onPacket, State.onSlipred]
  dsimp only
  rw [hc']
  exact congrArg _ (if_neg (by simp [hopen, hok]))

/-- The run with a child's contribution combined into what has arrived (R275). -/
def Col.combined (c : Col) (src : Nat) (bs : List Byte) : Col :=
  { c with cur := { c.cur with
      slip := if c.cur.slip.isEmpty then slipRead c.slipForm.1 c.slipForm.2.1 bs
        else slipCombine c.slipForm.1 c.slipForm.2.1 c.cur.slip bs
      slipFrom := c.cur.slipFrom ++ [src] } }

/-- A child's contribution is combined; nothing goes upward before this station's own. -/
theorem State.slipAdd_child {h : Nat} (hc : s.col h = some c) (hown : c.cur.slipOwn = false) (src : Nat) (bs : List Byte) :
    s.slipAdd h (some src) bs = s.setCol h (c.combined src bs) := by
  have hadd : s.slipAdd h (some src) bs = (s.setCol h (c.combined src bs)).slipCheck h := by
    rw [State.slipAdd, hc]
    dsimp only
    rw [State.updRun_of_col hc]
    simp only [Option.isNone_some, Bool.or_false, Option.toList_some]
    rfl
  rw [hadd, State.slipCheck, State.col_setCol, if_pos rfl]
  exact if_neg (by simp [Col.combined, hown])

theorem State.slipUp_running {h : Nat} (hchild : k.src.toNat ∈ c.schild) (hst : c.st = .running) (hrun : pf k 2 2 = c.run)
    (hnew : k.src.toNat ∉ c.cur.slipFrom) (bs : List Byte) : s.slipUp h c k bs = s.slipAdd h (some k.src.toNat) bs :=
  if_pos (by simp [hchild, hst, hrun, hnew])

theorem State.slipUp_early {h : Nat} (hchild : k.src.toNat ∈ c.schild) (hslip : c.isSlip = true)
    (hst : c.st = .idle ∨ c.st = .complete) (hrun : pf k 2 2 = (c.run + 1) % 65536)
    (hnew : (c.early.any fun x => x.1 == k.src.toNat) = false) (bs : List Byte) :
    s.slipUp h c k bs = s.setCol h { c with early := c.early ++ [(k.src.toNat, bs)] } := by
  have hdead : (c.st == .running || (c.st == .armed && !c.isSlip)) = false := by
    rcases hst with hst | hst <;> simp [hst]
  have hrest : (c.st == .idle || c.st == .complete) = true := by simpa using hst
  unfold State.slipUp
  dsimp only
  rw [if_neg (by simp [hdead]), if_pos (by simp [hslip, hrest, hchild, hrun, hnew])]

end

end Sys2Proof.Machine

section
open Sys2Proof Sys2Proof.Machine

/-- Settles O33: a notice is handed to the run or the message that it is about; a child's slip of the current run is
combined, one of the next run held. -/
theorem noticesAndReductions : Obligations.NoticesAndReductions := by
  unfold Obligations.NoticesAndReductions
  refine ⟨fun s k c hk hp => ?_, fun s k hk => ⟨fun h1 h2 h3 => ?_, fun w h3 hw => ?_⟩, fun s k c hk => ?_⟩
  · intro h hc hopen hst c1
    have hc' : (s.take k).col h = some c := (s.take_col k h).trans hc
    have hcol := State.colFail_col hc' hopen hst (leAt k.body 0 2) (leAt k.body 2 3)
    have hmem : (∀ x ∈ s.stagingWaiters h, (s.ctx (keyCtx x)).st = .running) →
        ((s.take k).colFail h (leAt k.body 0 2) (leAt k.body 2 3)).mem =
          if s.rangeStatus c.r.ctx.toNat c.r.cadr.toNat 32 = 0 then
            s.mem.writeN c.r.cadr.toNat (s.colRecord c1 (leAt k.body 0 2) 0)
          else s.mem := by
      intro hrun
      have hrun' : ∀ x ∈ (s.take k).stagingWaiters h, ((s.take k).ctx (keyCtx x)).st = .running := by
        simpa only [s.take_stagingWaiters k, s.take_ctx k] using hrun
      rw [← s.take_rangeStatus k, ← s.take_colRecord k, ← s.take_mem k]
      exact (State.colFail_mem hc' hopen hst hrun' _ _).trans (State.colClose_mem ..)
    refine ⟨_, (exec_notice hk).trans (congrArg _ (State.takeNotice_run hp _)), (hcol h).trans (if_pos rfl),
      fun j hj => (hcol j).trans ((if_neg hj).trans (s.take_col k j)), fun hst0 hrun => ?_, fun hst0 hrun => ?_⟩
    · exact (hmem hrun).trans (if_pos hst0)
    · exact (hmem hrun).trans (if_neg hst0)
  · rw [exec_notice hk, State.takeNotice_other h1 h2, if_neg h3]
  · rw [exec_notice hk, State.takeNotice_other (by omega) (by omega), if_pos h3, hw]
    rfl
  · intro h bs c1 s1 hc hopen hok
    have hexec := exec_slipred hk hc hopen hok
    refine ⟨fun e he hne => hexec.trans (congrArg _ (State.epochChecked_other he hne h _)), fun he hdir hchild => ?_⟩
    have hup : exec (.slipred k) s = .next (s1.slipUp h c1 k bs) :=
      hexec.trans (congrArg _ ((State.epochChecked_same he h _).trans (if_pos (by rw [hdir]; rfl))))
    refine ⟨fun hst hrun hnew hown => ?_, fun hslip hst hrun hnew => ?_⟩
    · have hc1 : s1.col h = some c1 := (State.col_setCol ..).trans (if_pos rfl)
      exact hup.trans (congrArg _ ((State.slipUp_running (c := c1) hchild hst hrun hnew bs).trans
        (State.slipAdd_child hc1 hown _ bs)))
    · exact hup.trans (congrArg _ (State.slipUp_early (c := c1) hchild hslip hst hrun hnew bs))

end

namespace Sys2Proof.Machine

/-! # Closing a collective (R119, R255) -/

/-! ### A key taken out of a map -/

/-- A map whose keys are all greater than `k` has nothing to take out at `k`. -/
theorem Map.del_of_lt {α : Type} {m : Map α} {k : Nat} (h : ∀ j ∈ m.map (·.1), k < j) : Map.del m k = m :=
  List.filter_eq_self.mpr fun kv hkv => bne_iff_ne.mpr (Nat.ne_of_gt (h kv.1 (List.mem_map_of_mem hkv)))

/-- What a key holds is what the total over the map loses with it. -/
theorem Map.sum_del {α : Type} (f : α → Nat) {m : Map α} {k : Nat} {v : α} (hm : Map.rising m = true)
    (hv : Map.find m k = some v) :
    ((Map.del m k).map fun kv => f kv.2).sum + f v = (m.map fun kv => f kv.2).sum := by
  rw [Map.rising_iff] at hm
  induction m with
  | nil => cases hv
  | cons x m ih =>
    obtain ⟨j, w⟩ := x
    obtain ⟨habove, hrest⟩ := List.pairwise_cons.mp hm
    rw [Map.find] at hv
    split_ifs at hv with hj
    · have hdel : Map.del ((j, w) :: m) k = m := by
        rw [← hj]
        exact (List.filter_cons_of_neg (by simp)).trans (Map.del_of_lt habove)
      rw [hdel, ← Option.some.inj hv, List.map_cons, List.sum_cons, Nat.add_comm]
    · have hdel : Map.del ((j, w) :: m) k = (j, w) :: Map.del m k := List.filter_cons_of_pos (by simpa using hj)
      rw [hdel, List.map_cons, List.map_cons, List.sum_cons, List.sum_cons, Nat.add_assoc, ih hrest hv]

/-! ### Staged tiles discarded (R119) -/

/-- A unit's state without the tiles that it staged for a collective. -/
def Eng.dropTiles (e : Eng) (h : Nat) : Eng :=
  { e with mat := { e.mat with stage := e.mat.stage.filter fun t => t.handle != h } }

theorem Eng.dropTiles_sync (e : Eng) (h : Nat) : (e.dropTiles h).sync = e.sync := rfl

theorem Eng.dropTiles_stage (e : Eng) (h : Nat) : ((e.dropTiles h).mat.stage.all fun t => t.handle != h) = true :=
  List.all_eq_true.mpr fun _ ht => (List.mem_filter.mp ht).2

theorem State.dropTiles_eng (s : State) (h : Nat) :
    (s.dropTiles h).eng = Map.mapVals s.eng fun _ (e : Eng) => e.dropTiles h := rfl

theorem State.dropTiles_engOf (s : State) (h key : Nat) : (s.dropTiles h).engOf key = (s.engOf key).dropTiles h := by
  rw [State.engOf, State.engOf, State.dropTiles_eng, Map.getD, Map.getD, Map.find_mapVals]
  cases Map.find s.eng key <;> rfl

/-! ### The command (R255) -/

/-- A collective's handle and slots released, with the tiles that were staged for it (R119). -/
def State.released (s : State) (h : Nat) : State := { s.dropTiles h with cols := Map.del s.cols h }

theorem State.released_col (s : State) (h j : Nat) : (s.released h).col j = if j = h then none else s.col j :=
  Map.find_del s.cols h j

theorem State.released_engOf (s : State) (h key : Nat) : (s.released h).engOf key = (s.engOf key).dropTiles h :=
  s.dropTiles_engOf h key

/-- The fabric slots granted to a collective are granted no more. -/
theorem State.released_granted {s : State} {h : Nat} {c : Col} (hs : Map.rising s.cols = true) (hc : s.col h = some c) :
    (s.released h).granted + c.grant = s.granted := Map.sum_del Col.grant hs hc

section

variable {s : State} {h : Hdr} {handle : BitVec 16} {r : Started} {c : Col}

theorem exec_colClose (ha : Admitted s h 0x0408 (Instr.params (.colClose h handle)) r) :
    exec (.colClose h handle) s = .next (match s.col handle.toNat with
      | none => s.finish r 0x0732
      | some c =>
        if c.waiting then s.finish r 0x0732
        else if c.st == .armed || c.st == .running then s.finish r 0x0323
        else (s.released handle.toNat).finish r 0) := by
  change Host.Outcome.next (s.command h 0x0408 (Instr.params (.colClose h handle)) _) = _
  rw [ha.command]
  rfl

theorem exec_colClose_absent (ha : Admitted s h 0x0408 (Instr.params (.colClose h handle)) r)
    (hc : s.col handle.toNat = none) : exec (.colClose h handle) s = .next (s.finish r 0x0732) := by
  rw [exec_colClose ha, hc]

theorem exec_colClose_live (ha : Admitted s h 0x0408 (Instr.params (.colClose h handle)) r)
    (hc : s.col handle.toNat = some c) (hopen : c.waiting = false) (hst : c.st = .armed ∨ c.st = .running) :
    exec (.colClose h handle) s = .next (s.finish r 0x0323) := by
  rw [exec_colClose ha, hc]
  exact congrArg Host.Outcome.next ((if_neg (ne_true_of_eq_false hopen)).trans (if_pos (by simpa using hst)))

theorem exec_colClose_rest (ha : Admitted s h 0x0408 (Instr.params (.colClose h handle)) r)
    (hc : s.col handle.toNat = some c) (hopen : c.waiting = false) (hst : c.st = .idle ∨ c.st = .complete) :
    exec (.colClose h handle) s = .next ((s.released handle.toNat).finish r 0) := by
  have hrest : ¬ (c.st == .armed || c.st == .running) = true := by rcases hst with hst | hst <;> simp [hst]
  rw [exec_colClose ha, hc]
  exact congrArg Host.Outcome.next ((if_neg (ne_true_of_eq_false hopen)).trans (if_neg hrest))

end

end Sys2Proof.Machine

section
open Sys2Proof Sys2Proof.Machine

/-- Settles O8: the close by the state of its collective; a release takes one key out of the collectives and that handle's
tiles out of every stage, and the answer changes none of what a release changes. -/
theorem collectiveClose : Obligations.CollectiveClose := by
  unfold Obligations.CollectiveClose
  refine fun s h handle r ha => ⟨fun c hc hopen hst => ?_, fun c => exec_colClose_live ha, exec_colClose_absent ha⟩
  have hfin := (s.released handle.toNat).finish_logOnly r 0 []
  have hcol := fun j => (State.col_of_cols hfin.cols j).trans (s.released_col handle.toNat j)
  refine ⟨_, exec_colClose_rest ha hc hopen hst, (hcol _).trans (if_pos rfl), fun j hj => (hcol j).trans (if_neg hj),
    hfin.mem, fun hrising => ?_, fun key => ?_⟩
  · rw [hfin.cols]
    exact State.released_granted hrising hc
  · rw [State.finish_engOf, State.released_engOf]
    exact ⟨Eng.dropTiles_stage .., Eng.dropTiles_sync ..⟩

end

namespace Sys2Proof.Machine
/-! # The queue of commands (O1, O3)

No command touches the queue it was taken from. `State.pends.<operation>` says so of an operation of the model, by the lemmas of
the operations that it is made of; one that replaces other fields only is a case of `State.pends.upd`. Each command is then
composed of these, and `NextPends.<command>` says that it answers a next state. -/

/-- The commands that wait are those given. -/
def State.pends (pend : List Instr) (s : State) : Prop := s.pending = pend

/-- A command answers a next state, in which those commands wait. -/
def NextPends (pend : List Instr) (o : Host.Outcome State Fault Refusal) : Prop := ∃ t, o = .next t ∧ t.pends pend

namespace NextPends

variable {pend : List Instr} {t : State} {o p : Host.Outcome State Fault Refusal}

theorem next (h : t.pends pend) : NextPends pend (.next t) := ⟨t, rfl, h⟩

theorem ite {c : Prop} [Decidable c] (h : NextPends pend o) (g : NextPends pend p) :
    NextPends pend (if c then o else p) := by
  split <;> assumption

end NextPends

namespace State.pends

variable {s t : State} {pend : List Instr}

/-- A state in which nothing but other fields is replaced. -/
theorem upd (h : s.pends pend) {now fresh mem host bad owner scratch eng closures stracts arc ctxs ctxActs cmd ctr flt brg cat
    bndWaits station d3hot d3depth linkUp tmax pin dbgOpen ports egress hbm bnd fab cols slotRes domSize domLock pwr sec
    mod out} :
    State.pends pend ⟨s.pending, now, fresh, mem, host, bad, owner, scratch, eng, closures, stracts, arc, ctxs, ctxActs, cmd,
      ctr, flt, brg, cat, bndWaits, station, d3hot, d3depth, linkUp, tmax, pin, dbgOpen, ports, egress, hbm, bnd, fab,
      cols, slotRes, domSize, domLock, pwr, sec, mod, out⟩ := h

theorem ite {c : Prop} [Decidable c] (h : s.pends pend) (g : t.pends pend) : (if c then s else t).pends pend := by
  split <;> assumption

/-- The same where the state comes with a result. -/
theorem iteFst {α : Type} {c : Prop} [Decidable c] {p q : State × α} (h : p.1.pends pend) (g : q.1.pends pend) :
    (if c then p else q).1.pends pend := by
  split <;> assumption

theorem foldl {α : Type} {f : State → α → State} {l : List α} (hf : ∀ {s x}, s.pends pend → (f s x).pends pend)
    (h : s.pends pend) : (l.foldl f s).pends pend := by
  induction l generalizing s with
  | nil => exact h
  | cons x l ih => exact ih (hf h)

theorem of_eq {α : Type} {p : State × α} {x : α} (e : p = (s, x)) (h : p.1.pends pend) : s.pends pend := by
  subst e; exact h

/-! ### Route -/

theorem count {k n} (h : s.pends pend) : (s.count k n).pends pend := .upd h
theorem setSvc {code v} (h : s.pends pend) : (s.setSvc code v).pends pend := .upd h
theorem bumpEpoch {code} (h : s.pends pend) : (s.bumpEpoch code).pends pend := .upd h
theorem setPort {p v} (h : s.pends pend) : (s.setPort p v).pends pend := .upd h
theorem setPctl {n v} (h : s.pends pend) : (s.setPctl n v).pends pend := .upd h
theorem deliver {k} (h : s.pends pend) : (s.deliver k).pends pend := .upd h
theorem deliverOwn {k} (h : s.pends pend) : (s.deliverOwn k).pends pend := .upd h
theorem enqueue {k path inp} (h : s.pends pend) : (s.enqueue k path inp).pends pend := .ite (.count (.upd h)) (.upd h)

theorem placePacket {k inp} (h : s.pends pend) : (s.placePacket k inp).1.pends pend := by
  unfold State.placePacket
  split
  · exact .deliverOwn h
  · split
    · exact .enqueue h
    · exact h

theorem noticeFrom {reporter sn status path flow ptype dst ctx} (h : s.pends pend) :
    (s.noticeFrom reporter sn status path flow ptype dst ctx).pends pend :=
  .placePacket h

theorem notice {sn status path flow ptype dst ctx} (h : s.pends pend) :
    (s.notice sn status path flow ptype dst ctx).pends pend :=
  .noticeFrom h

theorem noticeOf {k status path} (h : s.pends pend) : (s.noticeOf k status path).pends pend := .ite (.notice h) h

theorem routePacket {k inp} (h : s.pends pend) : (s.routePacket k inp).pends pend := by
  unfold State.routePacket
  split
  · exact .of_eq ‹_› (.placePacket h)
  · exact .noticeOf (.of_eq ‹_› (.placePacket h))

theorem sendOn {k} (h : s.pends pend) : (s.sendOn k).pends pend := .routePacket h
theorem sendBy {k path} (h : s.pends pend) : (s.sendBy k path).pends pend := .ite (.enqueue h) h
theorem slip {dst ptype flow ctx body} (h : s.pends pend) : (s.slip dst ptype flow ctx body).pends pend := .sendOn h
theorem fwmsg {dst chan payload cmd} (h : s.pends pend) : (s.fwmsg dst chan payload cmd).pends pend := .sendOn (.upd h)

/-! ### Ops -/

theorem countAll {ks} (h : s.pends pend) : (s.countAll ks).pends pend := .foldl .count h
theorem useFree (h : s.pends pend) : s.useFree.pends pend := .upd h
theorem setEng {key e} (h : s.pends pend) : (s.setEng key e).pends pend := .upd h
theorem setSync {key y} (h : s.pends pend) : (s.setSync key y).pends pend := .setEng h
theorem setQueue {key q v} (h : s.pends pend) : (s.setQueue key q v).pends pend := .setSync h
theorem setMat {key m} (h : s.pends pend) : (s.setMat key m).pends pend := .setEng h
theorem setVec {key v} (h : s.pends pend) : (s.setVec key v).pends pend := .setEng h
theorem setCtx {c v} (h : s.pends pend) : (s.setCtx c v).pends pend := .upd h
theorem wakeMem {slice a} (h : s.pends pend) : (s.wakeMem slice a).pends pend := .ite h (.upd h)
theorem store {a bs} (h : s.pends pend) : (s.store a bs).pends pend := .upd h
theorem heal {a len} (h : s.pends pend) : (s.heal a len).pends pend := .upd h
theorem lose {a} (h : s.pends pend) : (s.lose a).pends pend := .upd h
theorem hostStore {a bs} (h : s.pends pend) : (s.hostStore a bs).pends pend := .upd h
theorem setShelf {n v} (h : s.pends pend) : (s.setShelf n v).pends pend := .upd h
theorem setSlice {n v} (h : s.pends pend) : (s.setSlice n v).pends pend := .upd h
theorem timeAt {t} (h : s.pends pend) : (s.at t).pends pend := .ite h (.upd h)

theorem reportOut {bs} (h : s.pends pend) : (s.reportOut bs).pends pend := by
  unfold State.reportOut
  split
  · exact .upd h
  · split
    · exact .fwmsg h
    · exact h

theorem report {rkind sev payload} (h : s.pends pend) : (s.report rkind sev payload).pends pend :=
  .ite (.count (.upd h)) (.count (.reportOut (.upd h)))

theorem setSub {q v} (h : s.pends pend) : (s.setSub q v).pends pend := .upd h
theorem setRcp {r v} (h : s.pends pend) : (s.setRcp r v).pends pend := .upd h
theorem signal {vec} (h : s.pends pend) : (s.signal vec).pends pend := .ite (.upd h) (.upd h)
theorem signalRing {q} (h : s.pends pend) : (s.signalRing q).pends pend := .ite (.signal (.setRcp h)) h
theorem putReceipt {r} (h : s.pends pend) : (s.putReceipt r).pends pend := .ite h (.signalRing (.setRcp (.hostStore h)))
theorem eventPut {k status result} (h : s.pends pend) : (s.eventPut k status result).pends pend := .putReceipt (.upd h)
theorem lostEvents (h : s.pends pend) : s.lostEvents.pends pend := .ite (.eventPut (.upd h)) h

theorem event {k status result} (h : s.pends pend) : (s.event k status result).pends pend :=
  .ite (.eventPut h) (.lostEvents (.count (.upd h)))

theorem logNew {kind status sev unit addr req detail} (h : s.pends pend) :
    (s.logNew kind status sev unit addr req detail).pends pend :=
  .report (.event (.count (.upd h)))

theorem log {kind status sev unit addr req detail} (h : s.pends pend) :
    (s.log kind status sev unit addr req detail).pends pend := by
  unfold State.log
  dsimp only
  split
  · exact .upd h
  · exact .logNew h

theorem hostFault {addr} (h : s.pends pend) : (s.hostFault addr).pends pend := .log h
theorem setClosure {cid v} (h : s.pends pend) : (s.setClosure cid v).pends pend := .upd h
theorem setCbits {key cid v} (h : s.pends pend) : (s.setCbits key cid v).pends pend := .setSync h
theorem setCbit {key cid i b} (h : s.pends pend) : (s.setCbit key cid i b).pends pend := .setCbits h

theorem dropHeld {key q} (h : s.pends pend) : (s.dropHeld key q).pends pend := by
  unfold State.dropHeld
  split
  · exact .ite (.setClosure h) (.setCbit (.setClosure h))
  · exact h

theorem failQueue {s : State} {n c u q addr status pc member} (h : s.pends pend) :
    (State.failQueue n s c u q addr status pc member).pends pend := by
  unfold State.failQueue
  extract_lets key w before _ w' s1 s2
  split
  · exact .ite (.setQueue h) h
  · have h1 : s1.pends pend := .setQueue (.dropHeld h)
    have h2 : s2.pends pend := .ite (.ite (.count h1) (.ite (.count h1) h1)) h1
    refine .ite ?_ (.ite (.event h2) h2)
    cases n with
    | zero => exact h2
    | succ n => exact failQueue (.count h2)

theorem endEntry {c u q addr status} (h : s.pends pend) : (s.endEntry c u q addr status).pends pend :=
  .ite (.setQueue h) (.failQueue h)

theorem advance {c u q} (h : s.pends pend) : (s.advance c u q).pends pend := .setQueue h
theorem waitHead {c u q h'} (h : s.pends pend) : (s.waitHead c u q h').pends pend := .setQueue h
theorem countShed {first evs} (h : s.pends pend) : (s.countShed first evs).pends pend := .countAll h

/-! ### Cache -/

theorem dropLine {k l} (h : s.pends pend) : (s.dropLine k l).pends pend := .ite (.lose h) h
theorem setWays {k w} (h : s.pends pend) : (s.setWays k w).pends pend := .upd h

theorem cacheLine {write a} (h : s.pends pend) : (s.cacheLine write a).pends pend := by
  unfold State.cacheLine
  extract_lets k n ways s1 s2 s3
  refine .ite (.ite (.count h) h) ?_
  split
  · exact .count (.setWays h)
  · have h1 : s1.pends pend := .count h
    have h2 : s2.pends pend := .foldl .dropLine (.setWays h1)
    exact .ite (.count h1) (.countAll (.ite h2 (.count h2)))

theorem accessLine {cls write a} (h : s.pends pend) : (s.accessLine cls write a).pends pend :=
  .cacheLine (.count (.count (.wakeMem h)))

theorem access {cls write a len} (h : s.pends pend) : (s.access cls write a len).pends pend := by
  unfold State.access
  split
  · exact .upd h
  · exact .count (.count (.wakeMem h))
  · exact .foldl .accessLine h

theorem lineUnc {addr req} (h : s.pends pend) : (s.lineUnc addr req).pends pend :=
  .ite (.log (.count h)) (.log (.count (.count h)))

theorem writeBack {p} (h : s.pends pend) : (s.writeBack p).pends pend := .upd (.countAll h)
theorem writeBackAs {cls p} (h : s.pends pend) : (s.writeBackAs cls p).pends pend := .writeBack (.countAll h)
theorem invalidate {p} (h : s.pends pend) : (s.invalidate p).pends pend := .foldl .dropLine (.upd h)
theorem invalidateAs {cls p} (h : s.pends pend) : (s.invalidateAs cls p).pends pend := .invalidate (.countAll h)

/-! ### Image -/

theorem zeroFill {a len} (h : s.pends pend) : (s.zeroFill a len).pends pend := .upd h
theorem storeOr {zero a len bs} (h : s.pends pend) : (s.storeOr zero a len bs).pends pend := .ite (.zeroFill h) (.store h)

theorem copyLost {dst src len} (h : s.pends pend) : (s.copyLost dst src len).pends pend :=
  .foldl (fun h1 => .foldl .lose h1) (.upd h)

theorem putBlock {u a e} (h : s.pends pend) : (s.putBlock u a e).pends pend :=
  .ite (.storeOr (.storeOr (.storeOr (.storeOr h)))) (.storeOr h)

theorem placeEng {key e} (h : s.pends pend) : (s.placeEng key e).pends pend := .upd h

theorem blocksOut {c} (h : s.pends pend) : (s.blocksOut c).pends pend :=
  .foldl (fun h1 => .placeEng (.ite (.copyLost h1) (.putBlock h1))) h

/-- A unit taken from an image or a save area, where it can be read. -/
theorem taken {o : Option Eng} {k} (h : s.pends pend) : ∀ t ∈ o.map fun e => s.placeEng k e, t.pends pend := by
  rintro _ ht
  obtain ⟨e, -, rfl⟩ := Option.map_eq_some_iff.mp ht
  exact h.placeEng

/-- A state passed on through operations that may find nothing. -/
theorem foldlBind {α : Type} {f : State → α → Option State} {l : List α} {o : Option State}
    (hf : ∀ {s x}, s.pends pend → ∀ t ∈ f s x, t.pends pend) (h : ∀ t ∈ o, t.pends pend) :
    ∀ t ∈ l.foldl (fun o x => o.bind fun s => f s x) o, t.pends pend := by
  induction l generalizing o with
  | nil => exact h
  | cons x l ih =>
    refine ih fun t ht => ?_
    obtain ⟨r, hr, hx⟩ := Option.bind_eq_some_iff.mp ht
    exact hf (h r hr) t hx

theorem ofSome (h : s.pends pend) : ∀ t ∈ some s, t.pends pend := fun _ e => Option.some.inj e ▸ h
theorem blocksIn {c} (h : s.pends pend) : ∀ t ∈ s.blocksIn c, t.pends pend := foldlBind taken (ofSome h)
theorem suspend {c} (h : s.pends pend) : (s.suspend c).pends pend := .upd h
theorem unsuspend {c} (h : s.pends pend) : (s.unsuspend c).pends pend := .upd h
theorem saveAll {c} (h : s.pends pend) : (s.saveAll c).pends pend := .foldl .putBlock h
theorem restoreAll {c} (h : s.pends pend) : ∀ t ∈ s.restoreAll c, t.pends pend := foldlBind taken (ofSome h)
theorem putSync {c u a} (h : s.pends pend) : (s.putSync c u a).pends pend := .ite h (.ite (.upd (.store h)) (.store h))
theorem syncReport {u a} (h : s.pends pend) : (s.syncReport u a).pends pend := .ite h (.foldl .lineUnc h)

theorem onSaved {c us f} (h : s.pends pend) (hf : ∀ {s}, s.pends pend → (f s).pends pend) : (s.onSaved c us f).pends pend := by
  unfold State.onSaved
  extract_lets v real s1 own s2
  have h1 : s1.pends pend := .foldl (fun h => .placeEng (.syncReport h)) h
  have h2 : s2.pends pend := .foldl .placeEng h
  exact .ite (.foldl (fun h => .placeEng (.putSync h)) (hf h1)) (.ite (.foldl .putSync (hf h2)) (hf h))

theorem onUnits {c us f} (h : s.pends pend) (hf : ∀ {s}, s.pends pend → (f s).pends pend) :
    (s.onUnits c us f).pends pend := by
  unfold State.onUnits
  dsimp only
  refine .ite h ?_
  split
  next s1 e => exact .foldl (fun h1 => .placeEng (.putBlock h1)) (hf (foldlBind taken (ofSome h) s1 e))
  · exact h

/-! ### Stakes -/

theorem setStake {holder i st} (h : s.pends pend) : (s.setStake holder i st).pends pend := .setSync h
theorem misuse {key which} (h : s.pends pend) : (s.misuse key which).pends pend := .setSync h

theorem endWait {key q status} (h : s.pends pend) : (s.endWait key q status).pends pend := by
  unfold State.endWait
  split
  · exact .endEntry h
  · exact h

theorem endWaits {ws status} (h : s.pends pend) : (s.endWaits ws status).pends pend := .foldl .endWait h

theorem wakeStake {holder i} (h : s.pends pend) : (s.wakeStake holder i).pends pend := by
  unfold State.wakeStake
  dsimp only
  split
  · exact .endWaits h
  · exact .endWaits h
  · split
    · exact .endWaits (.endWait (.setStake (.endWaits (.upd h))))
    · exact .endWaits (.upd h)

theorem stakeOp {holder i set} (h : s.pends pend) : (s.stakeOp holder i set).pends pend := by
  unfold State.stakeOp
  dsimp only
  split
  · exact .countAll (.countAll h)
  · exact .wakeStake (.setStake (.countAll h))
  · exact .misuse (.countAll h)
  · exact .misuse (.countAll h)
  · exact .wakeStake (.setStake (.countAll h))

theorem abandonStake {holder i} (h : s.pends pend) : (s.abandonStake holder i).pends pend :=
  .wakeStake (.setSync (.setStake h))

theorem abandonIn {c p} (h : s.pends pend) : (s.abandonIn c p).pends pend := .foldl .abandonStake h
theorem abandonAll {p} (h : s.pends pend) : (s.abandonAll p).pends pend := .foldl (fun h1 => .onSaved h1 .abandonIn) h
theorem stakeOpAny {holder i set} (h : s.pends pend) : (s.stakeOpAny holder i set).pends pend := .onSaved h .stakeOp

theorem takeStake {holder i} (h : s.pends pend) : (s.takeStake holder i).pends pend :=
  .onSaved h fun h1 => .wakeStake (.setStake h1)

theorem setRef {c w} (h : s.pends pend) : (s.setRef c w).pends pend := by
  unfold State.setRef
  split
  · exact .ite (.stakeOpAny h) h
  · exact h

/-! ### Catalogue -/

theorem setCat {k v} (h : s.pends pend) : (s.setCat k v).pends pend := .upd h
theorem storeCat {first count a} (h : s.pends pend) : (s.storeCat first count a).pends pend := .upd h

theorem applyCat {c} (h : s.pends pend) : (s.applyCat c).pends pend := by
  unfold State.applyCat
  split
  · exact .foldl .setCat h
  · exact .foldl .setCat h
  · exact .foldl .setCat h

theorem catCommand {c} (h : s.pends pend) : (s.catCommand c).pends pend := .ite (.upd h) (.applyCat h)
theorem catLose {first count} (h : s.pends pend) : (s.catLose first count).pends pend := .log (.upd h)
theorem setArea {c a} (h : s.pends pend) : (s.setArea c a).pends pend := .upd h
theorem checkArea {c} (h : s.pends pend) : (s.checkArea c).pends pend := .ite (.log (.upd (.setArea h))) h
theorem clearPost {r} (h : s.pends pend) : (s.clearPost r).pends pend := .store h

theorem applySeeds {rs} (h : s.pends pend) : (s.applySeeds rs).pends pend :=
  .foldl (fun h1 => .count (.setCat h1)) (.countAll h)

theorem publish {c rev} (h : s.pends pend) : (s.publish c rev).pends pend := .access (.store (.store h))
theorem pubStake {c} (h : s.pends pend) : (s.pubStake c).pends pend := .ite (.setRef h) h
theorem readArea {c} (h : s.pends pend) : (s.readArea c).pends pend := .foldl .lineUnc (.foldl .access h)

theorem watch {entry kind n value} (h : s.pends pend) : (s.watch entry kind n value).pends pend :=
  .ite (.count h) (.report (.event (.count (.upd h))))

theorem watchEntry {n k posted} (h : s.pends pend) : (s.watchEntry n k posted).pends pend := by
  unfold State.watchEntry
  extract_lets e up rep z sr cl zhit shit chit s1 s2 s3
  have h1 : s1.pends pend := .setCat h
  have h2 : s2.pends pend := .ite (.watch h1) h1
  have h3 : s3.pends pend := .ite (.watch h2) h2
  exact .ite (.watch h3) h3

theorem catReport {k shedAll clamp} (h : s.pends pend) : (s.catReport k shedAll clamp).pends pend := .upd h
theorem wrapBegin (h : s.pends pend) : s.wrapBegin.pends pend := .foldl .checkArea (.foldl .applyCat (.upd h))

theorem postEntry {n k a} (h : s.pends pend) : (s.postEntry n k a).pends pend :=
  .ite (.count (.setCat h)) (.count (.setCat h))

theorem applyPosts {n posts} (h : s.pends pend) : (s.applyPosts n posts).pends pend :=
  .foldl .watchEntry (.foldl .postEntry (.countAll h))

theorem skipRun {n votes failed} (h : s.pends pend) : (s.skipRun n votes failed).pends pend :=
  .ite (.ite (.watch (.count (.upd h))) (.count (.upd h))) (.ite h (.upd h))

theorem wrapPublish {cs recs next} (h : s.pends pend) : (s.wrapPublish cs recs next).pends pend :=
  .foldl .pubStake (.foldl .clearPost (.foldl .publish h))

theorem wrapProcess {n next failed} (h : s.pends pend) : (s.wrapProcess n next failed).pends pend := by
  unfold State.wrapProcess
  extract_lets sb cs s0 recs votes s1 s2
  have h1 : s1.pends pend := .applySeeds (.foldl .readArea (.wrapBegin h))
  have h2 : s2.pends pend := .ite h1 (.applyPosts h1)
  exact .wrapPublish (.skipRun (.upd h2))

theorem seedRequest {c} (h : s.pends pend) : (s.seedRequest c).pends pend :=
  .ite (.checkArea h) (.pubStake (.foldl .clearPost (.foldl .store (.applySeeds (.readArea (.checkArea h))))))

/-! ### Bearing -/

theorem journalBegin (h : s.pends pend) : s.journalBegin.pends pend := .ite (.access (.storeCat (.store h))) h
theorem journalLatch {rows} (h : s.pends pend) : (s.journalLatch rows).pends pend := .ite (.foldl .store (.store h)) h
theorem emitToken {wrap} (h : s.pends pend) : (s.emitToken wrap).pends pend := .foldl .sendBy (.upd h)

theorem datumWrap {failed} (h : s.pends pend) : (s.datumWrap failed).pends pend := by
  unfold State.datumWrap
  extract_lets b period next s1
  have h1 : s1.pends pend := .upd h
  exact .journalBegin (.wrapProcess (.emitToken h1))

theorem closureEnds {cid failed} (h : s.pends pend) : (s.closureEnds cid failed).pends pend := .ite (.datumWrap h) h
theorem runStart {t} (h : s.pends pend) : (s.runStart t).pends pend := .journalBegin (.emitToken (.upd (.timeAt h)))

theorem runStop (h : s.pends pend) : s.runStop.pends pend :=
  .ite (.upd h) (.upd h)

theorem followWrap {k w t} (h : s.pends pend) : (s.followWrap k w t).pends pend := by
  unfold State.followWrap
  extract_lets b lost sweep fell due b0 _ b1 late missed s1 s2
  have h1 : s1.pends pend := .upd h
  exact .journalBegin (.wrapProcess (.count (.count (.count h1))))

theorem takeLocked {k w t} (h : s.pends pend) : (s.takeLocked k w t).pends pend :=
  .ite (.upd h) (.ite (.followWrap h) (.count (.upd h)))

theorem adoptToken {k w t} (h : s.pends pend) : (s.adoptToken k w t).pends pend := by
  unfold State.adoptToken
  extract_lets again b0 b' b under
  refine .ite ?_ (.upd h)
  exact .journalBegin (.count (.upd h))

theorem takeToken {k oneway t} (h : s.pends pend) : (s.takeToken k oneway t).pends pend := by
  have h1 : (s.at t).pends pend := .timeAt h
  exact .ite (.adoptToken h1) (.ite (.ite (.takeLocked (.upd h1)) (.count (.upd h1))) (.takeLocked h1))

theorem forwardToken {k oneway t} (h : s.pends pend) : (s.forwardToken k oneway t).pends pend :=
  .foldl (fun h1 => .ite (.upd h1) h1) h

/-! ### Closures -/

theorem countArrival {cid} (h : s.pends pend) : (s.countArrival cid).pends pend := .setClosure h

theorem arriveOne {cid key q addr e again} (h : s.pends pend) : (s.arriveOne cid key q addr e again).pends pend := by
  unfold State.arriveOne
  extract_lets c u bits s1 s2 c1
  have h1 : s1.pends pend := .countArrival (.setCbit (.setCbit h))
  have h2 : s2.pends pend := .ite (.ite h (.misuse h)) (.countAll (.setCbit h))
  exact .ite (.ite (.waitHead h1) (.endEntry h1)) (.waitHead (.setClosure h2))

theorem countTracts {units e} (h : s.pends pend) : (s.countTracts units e).pends pend := .foldl .countAll h

theorem countIn {cid qk} (h : s.pends pend) : (s.countIn cid qk).pends pend := by
  unfold State.countIn
  dsimp only
  split
  · exact .arriveOne h
  · exact h

theorem roundDone {cid} (h : s.pends pend) : (s.roundDone cid).pends pend := by
  refine .onSaved h fun h => ?_
  extract_lets c s1 s2 s3 s4
  have h1 : s1.pends pend := .setClosure h
  have h2 : s2.pends pend := .foldl (fun h => .setCbit (.setCbit h)) h1
  have h3 : s3.pends pend := .foldl .endWait h2
  have h4 : s4.pends pend := .foldl .slip h3
  exact .foldl .countIn (.countTracts h4)

theorem closureCheck {s : State} {n cid} (h : s.pends pend) : (State.closureCheck n s cid).pends pend := by
  unfold State.closureCheck
  refine .ite (.ite ?_ (.slip h)) h
  cases n with
  | zero => exact h
  | succ n => exact closureCheck (.closureEnds (.roundDone h))

theorem carr {cid key q addr e} (h : s.pends pend) : (s.carr cid key q addr e).pends pend := by
  unfold State.carr
  dsimp only
  split
  · exact .endEntry h
  · exact .endEntry h
  · exact .ite (.endEntry h) (.ite (.closureCheck (.arriveOne h)) (.arriveOne h))

theorem closureFail {cid status sender} (h : s.pends pend) : (s.closureFail cid status sender).pends pend :=
  .ite h (.closureEnds (.countTracts (.onSaved (.foldl .slip (.setClosure h)) fun h1 => .foldl .endWait h1)))

theorem closuresFail {p status} (h : s.pends pend) : (s.closuresFail p status).pends pend := .foldl .closureFail h

/-! ### Cmd -/

theorem receipt {r} (h : s.pends pend) : (s.receipt r).pends pend := .ite (.upd h) (.putReceipt h)

theorem finish {r status result} (h : s.pends pend) : (s.finish r status result).pends pend := by
  unfold State.finish
  extract_lets halted cut st late g cmd s1 s2 s3
  have h1 : s1.pends pend := .upd h
  have h2 : s2.pends pend := .ite h1 (.setRcp h1)
  have h3 : s3.pends pend := .ite (.count h2) (.ite (.count h2) h2)
  exact .ite h3 (.receipt h3)

theorem hostOut {r a bs} (h : s.pends pend) : (s.hostOut r a bs).pends pend := .ite h (.hostStore h)
theorem begin {r} (h : s.pends pend) : (s.begin r).pends pend := .upd h

theorem command {h' op ps body} (h : s.pends pend) (hbody : ∀ {s r}, s.pends pend → (body s r).pends pend) :
    (s.command h' op ps body).pends pend := by
  unfold State.command
  split
  · exact .ite h (.ite (.finish h) (hbody h))
  · exact h

theorem putStarted {r r'} (h : s.pends pend) : (s.putStarted r r').pends pend := .upd h
theorem finishAll {p status result} (h : s.pends pend) : (s.finishAll p status result).pends pend := .foldl .finish h
theorem dropStract {handle} (h : s.pends pend) : (s.dropStract handle).pends pend := .upd h

/-! ### Contexts -/

theorem copyIn {c} (h : s.pends pend) : (s.copyIn c).pends pend := .foldl .copyLost h
theorem copyOut {c} (h : s.pends pend) : (s.copyOut c).pends pend := .foldl .copyLost h
theorem setBindery {h' v} (h : s.pends pend) : (s.setBindery h' v).pends pend := .upd h
theorem bindsIn {c} (h : s.pends pend) : (s.bindsIn c).pends pend := .foldl .setBindery h
theorem bindsOut {c} (h : s.pends pend) : (s.bindsOut c).pends pend := .foldl (fun h1 => .ite (.store h1) h1) h
theorem bndRestart {c} (h : s.pends pend) : (s.bndRestart c).pends pend := .foldl (fun h1 => .ite (.setBindery h1) h1) h
theorem preempt {c} (h : s.pends pend) : (s.preempt c).pends pend := .ite (.setCtx h) h
theorem endPreempts {c} (h : s.pends pend) : (s.endPreempts c).pends pend := .finishAll h
theorem countSwitch {c} (h : s.pends pend) : (s.countSwitch c).pends pend := .countAll h

theorem dropStarts {status} (h : s.pends pend) : (s.dropStarts status).pends pend :=
  .foldl (fun h1 => by
    split
    · exact .ite (.finish h1) h1
    · exact .ite (.count h1) h1) (.upd h)

theorem endedCheck {c bndEnded} (h : s.pends pend) : (s.endedCheck c bndEnded).pends pend := .ite (.event (.setCtx h)) h

/-! ### FpCore -/

theorem setFp {n u} (h : s.pends pend) : (s.setFp n u).pends pend := .upd h
theorem mapFp {f} (h : s.pends pend) : (s.mapFp f).pends pend := .upd h
theorem captureWrite {a len} (h : s.pends pend) : (s.captureWrite a len).pends pend := .ite (.mapFp h) h
theorem write {a bs} (h : s.pends pend) : (s.write a bs).pends pend := .captureWrite (.store h)
theorem captureLines {src h' rs} (h : s.pends pend) : (s.captureLines src h' rs).pends pend := .ite h (.mapFp h)

theorem capturePort {src port handle tidx payload} (h : s.pends pend) :
    (s.capturePort src port handle tidx payload).pends pend :=
  .mapFp h

/-! ### ColCore -/

theorem setCol {h' c} (h : s.pends pend) : (s.setCol h' c).pends pend := .upd h

theorem updRun {h' f} (h : s.pends pend) : (s.updRun h' f).pends pend := by
  unfold State.updRun
  split
  · exact .setCol h
  · exact h

theorem colClose {h' c status waitns} (h : s.pends pend) : (s.colClose h' c status waitns).pends pend :=
  .setCol (.ite (.store (.access h)) h)

theorem dropTiles {h'} (h : s.pends pend) : (s.dropTiles h').pends pend := .upd h

theorem stagingEnd {key status} (h : s.pends pend) : (s.stagingEnd key status).pends pend :=
  .onUnits h fun h1 => by
    split
    · exact .endWait (.setMat h1)
    · exact h1

theorem colFail {h' status failsn} (h : s.pends pend) : (s.colFail h' status failsn).pends pend := by
  unfold State.colFail
  split
  · exact h
  · exact .ite (.foldl .noticeFrom (.foldl .stagingEnd (.dropTiles (.colClose h)))) h

theorem colFailOwn {h' status} (h : s.pends pend) : (s.colFailOwn h' status).pends pend := .colFail h

theorem colStop {h' a status} (h : s.pends pend) : (s.colStop h' a status).pends pend :=
  .colFailOwn (.ite (.lineUnc h) (.ite (.count h) h))

theorem colGuard {h' c reads writes k} (h : s.pends pend) (hk : ∀ {s}, s.pends pend → (k s).pends pend) :
    (s.colGuard h' c reads writes k).pends pend := by
  unfold State.colGuard
  dsimp only
  split
  · exact .colStop h
  · split
    · exact .colStop h
    · exact hk (.foldl .access (.foldl .access h))

theorem colPlanned {h' c k} (h : s.pends pend) (hk : ∀ {s}, s.pends pend → (k s).pends pend) :
    (s.colPlanned h' c k).pends pend :=
  .ite (hk (.ite h (.foldl .access h))) (.colStop h)

theorem colsFail {p status} (h : s.pends pend) : (s.colsFail p status).pends pend := .foldl .colFailOwn h
theorem colAbandonCheck (h : s.pends pend) : s.colAbandonCheck.pends pend := .foldl .colFailOwn h

theorem colSend {h' c dst head payload} (h : s.pends pend) : (s.colSend h' c dst head payload).pends pend :=
  .updRun (.sendOn h)

theorem sendTile {h' c dst role tidx mcnt vals codes} (h : s.pends pend) :
    (s.sendTile h' c dst role tidx mcnt vals codes).pends pend :=
  .colSend h

theorem sendSlip {h' c dst dir bs} (h : s.pends pend) : (s.sendSlip h' c dst dir bs).pends pend := by
  unfold State.sendSlip
  exact .updRun (.slip h)

theorem slipResult {h' bs} (h : s.pends pend) : (s.slipResult h' bs).pends pend := by
  unfold State.slipResult
  split
  · exact h
  · next c _ =>
    extract_lets down mark put dp
    have hdown : ∀ {s}, s.pends pend → (down s).pends pend := fun h1 => .foldl .sendSlip h1
    have hput : ∀ {a v}, (put a v).pends pend := .colGuard h fun h1 => .updRun (hdown (.write h1))
    exact .ite hput (.ite (.ite (.colFailOwn (hdown h)) hput) hput)

theorem slipCheck {h'} (h : s.pends pend) : (s.slipCheck h').pends pend := by
  unfold State.slipCheck
  split
  · exact h
  · exact .ite (.ite (.slipResult (.updRun h)) (.sendSlip (.updRun h))) h

theorem slipAdd {h' child bs} (h : s.pends pend) : (s.slipAdd h' child bs).pends pend := by
  unfold State.slipAdd
  split
  · exact h
  · exact .slipCheck (.updRun h)

theorem voteCheck {h'} (h : s.pends pend) : (s.voteCheck h').pends pend := by
  unfold State.voteCheck
  split
  · exact h
  · exact .ite (.colGuard h .slipAdd) h

theorem tadd {h' tidx mcnt vals codes} (h : s.pends pend) : (s.tadd h' tidx mcnt vals codes).pends pend := by
  unfold State.tadd
  split
  · exact h
  · refine .colGuard h fun h => ?_
    extract_lets sum n sl s1 s2 s3
    have h2 : s2.pends pend := .updRun (.count (.count (.upd h)))
    exact .voteCheck (.ite (.foldl .sendTile h2) h2)

theorem flush {h' p} (h : s.pends pend) : (s.flush h' p).pends pend := by
  unfold State.flush
  split
  · exact h
  · exact .ite (.tadd (.updRun h)) (.sendTile (.updRun h))

theorem placeTile {h' c tidx mcnt vals codes} (h : s.pends pend) :
    (s.placeTile h' c tidx mcnt vals codes).pends pend := by
  unfold State.placeTile
  dsimp only
  split
  · exact .updRun h
  · refine .updRun (.ite h ?_)
    split
    · exact .updRun (.flush h)
    · exact h

theorem mergeTile {h' c tidx mcnt vals codes} (h : s.pends pend) :
    (s.mergeTile h' c tidx mcnt vals codes).pends pend := by
  unfold State.mergeTile
  dsimp only
  split
  · exact .ite (.tadd h) (.sendTile h)
  · split
    · exact .ite (.colFailOwn (.placeTile h)) (.ite (.flush (.placeTile h)) (.placeTile h))
    · exact .placeTile h

theorem flushAll {h'} (h : s.pends pend) : (s.flushAll h').pends pend := by
  unfold State.flushAll
  split
  · exact h
  · exact .ite (.foldl .flush h) h

theorem acceptTile {h' tidx mcnt ds wc zm len vals codes again} (h : s.pends pend) :
    (s.acceptTile h' tidx mcnt ds wc zm len vals codes again).pends pend := by
  unfold State.acceptTile
  split
  · exact h
  · split
    · exact .colFailOwn h
    · exact .ite (.colFailOwn h) (.flushAll (.mergeTile (.setCol h)))

theorem colComplete {h' c waitns} (h : s.pends pend) : (s.colComplete h' c waitns).pends pend :=
  .ite (.colStop h) (.setRef (.colClose h))

/-! ### BndCore -/

theorem setStack {h' v} (h : s.pends pend) : (s.setStack h' v).pends pend := .upd h
theorem bndUnregister {h' qi} (h : s.pends pend) : (s.bndUnregister h' qi).pends pend := .upd (.setBindery h)

theorem bndAdvance {h' r} (h : s.pends pend) : (s.bndAdvance h' r).pends pend := by
  unfold State.bndAdvance
  dsimp only
  split
  · exact .finishAll (.setBindery h)
  · exact .ite (.setBindery h) (.event (.setBindery h))

theorem bndClose {h' r} (h : s.pends pend) : (s.bndClose h' r).pends pend := by
  unfold State.bndClose
  extract_lets s0 s1 s2
  have h0 : s0.pends pend := .captureLines h
  have h2 : s2.pends pend := .count (.ite (.store h0) h0)
  exact .ite (.setRef h2) h2

theorem bndEnd {h' r} (h : s.pends pend) : (s.bndEnd h' r).pends pend := .bndAdvance (.bndClose h)

/-! ### BndOps -/

theorem bndMove {h' r n} (h : s.pends pend) : (s.bndMove h' r n).1.pends pend :=
  .count (.count (.countShed (.invalidateAs (.upd (.countAll (.captureLines h))))))

theorem bndHalt {h'} (h : s.pends pend) : (s.bndHalt h').pends pend := by
  unfold State.bndHalt
  split
  · exact .ite (.ite (.useFree h) (.setBindery (.bndMove (.useFree h)))) h
  · exact h

theorem bndAbort {h' status} (h : s.pends pend) : (s.bndAbort h' status).pends pend := by
  unfold State.bndAbort
  dsimp only
  split
  · exact .bndEnd (.bndHalt h)
  · exact .bndHalt h

theorem bndAside {h' p} (h : s.pends pend) : (s.bndAside h' p).pends pend := by
  unfold State.bndAside
  split
  · dsimp only
    split
    · exact .setBindery (.bndHalt h)
    · exact .bndHalt h
  · exact h

theorem bndPark {c} (h : s.pends pend) : (s.bndPark c).pends pend :=
  .foldl (fun h1 => .setBindery (.bndAside h1)) (.upd h)

theorem bndStopAll (h : s.pends pend) : s.bndStopAll.pends pend := .foldl .bndAside (.foldl .bndPark h)

/-! ### LinkCore -/

theorem freeSlots {p vl n} (h : s.pends pend) : (s.freeSlots p vl n).pends pend := .setPort h
theorem take {k} (h : s.pends pend) : (s.take k).pends pend := .ite (.freeSlots (.upd h)) (.ite (.upd h) (.upd h))
theorem malformedAt {p} (h : s.pends pend) : (s.malformedAt p).pends pend := .count h
theorem malformed {k} (h : s.pends pend) : (s.malformed k).pends pend := .malformedAt h
theorem reject {k} (h : s.pends pend) : (s.reject k).pends pend := .noticeOf (.malformed h)
theorem retrainFast {p} (h : s.pends pend) : (s.retrainFast p).pends pend := .count (.setPort h)
theorem detect {p} (h : s.pends pend) : (s.detect p).pends pend := .ite (.ite (.retrainFast h) (.setPort h)) h

theorem dropBuffers {p status waiting} (h : s.pends pend) : (s.dropBuffers p status waiting).pends pend :=
  .foldl .noticeOf (.setPort (.ite (.upd h) (.upd h)))

theorem subportDown {p} (h : s.pends pend) : (s.subportDown p).pends pend := .setPort (.dropBuffers (.setPort h))

theorem trainFull {p retry fails} (h : s.pends pend) : (s.trainFull p retry fails).pends pend := by
  unfold State.trainFull
  extract_lets _ s0 s1
  have h1 : s1.pends pend := .dropBuffers (.setPort h)
  exact .detect (.setPort h1)

theorem subportQuiesce {p} (h : s.pends pend) : (s.subportQuiesce p).pends pend := by
  unfold State.subportQuiesce
  split
  · exact .setPort h
  · exact h
  · exact .setPort h
  · exact .setPort h
  · exact .subportDown h

theorem subportFail {p reason} (h : s.pends pend) : (s.subportFail p reason).pends pend :=
  .log (.setPort (.dropBuffers (.setPort h)))

theorem trainingFails {p reason} (h : s.pends pend) : (s.trainingFails p reason).pends pend :=
  .ite (.trainFull h) (.ite (.ite (.trainFull h) (.subportFail h)) (.subportFail h))

theorem trainIfEnabled {p} (h : s.pends pend) : (s.trainIfEnabled p).pends pend := .ite (.trainFull h) h

theorem portReset {n quiet} (h : s.pends pend) : (s.portReset n quiet).pends pend :=
  .foldl (fun h1 => .trainIfEnabled (.setPort (.ite h1 (.subportDown h1)))) h

/-! ### Recover -/

theorem stopContexts (h : s.pends pend) : s.stopContexts.pends pend :=
  .foldl (fun h1 => .ite (.setCtx h1) (.preempt h1)) (.dropStarts h)

theorem releaseSlots (h : s.pends pend) : s.releaseSlots.pends pend := .upd h

theorem drainDevice (h : s.pends pend) : s.drainDevice.pends pend :=
  .ite h (.releaseSlots (.bndStopAll (.closuresFail (.colsFail (.stopContexts (.log (.upd h)))))))

theorem flagDevice (h : s.pends pend) : s.flagDevice.pends pend :=
  .ite (.drainDevice h) (.drainDevice (.log (.upd h)))

theorem spareSwap {p} (h : s.pends pend) : (s.spareSwap p).1.pends pend := by
  unfold State.spareSwap
  split
  · exact .flagDevice h
  · exact .log (.count (.upd h))

theorem fbUnc {p addr req} (h : s.pends pend) : (s.fbUnc p addr req).pends pend := .spareSwap (.log (.count h))

theorem uncRead {addr req} (h : s.pends pend) : (s.uncRead addr req).pends pend := by
  unfold State.uncRead
  split
  · exact .fbUnc h
  · exact .lineUnc h

theorem loseLine {line} (h : s.pends pend) : (s.loseLine line).pends pend := by
  unfold State.loseLine
  extract_lets n s1 lost
  have h1 : s1.pends pend := .count (.lose (.invalidate h))
  exact .ite h1 (.ite (.flagDevice (.log h1)) (.upd h1))

theorem quiesceBegin {r} (h : s.pends pend) : (s.quiesceBegin r).pends pend := by
  unfold State.quiesceBegin
  dsimp only
  split
  · exact .foldl .subportQuiesce (.log (.setSvc h))
  · exact .setStack (.bndAbort (.log (.setSvc h)))
  · exact .log (.setSvc h)

theorem endX {key status} (h : s.pends pend) : (s.endX key status).pends pend := by
  unfold State.endX
  split
  · exact .endEntry (.setEng h)
  · exact h

theorem dropRequests {r late} (h : s.pends pend) : (s.dropRequests r late).pends pend := .foldl .endX (.upd h)

theorem quiesceEnd {r} (h : s.pends pend) : (s.quiesceEnd r).pends pend := by
  refine .count (.setSvc ?_)
  split
  · exact .writeBack h
  · exact h

theorem reportReset {u key old} (h : s.pends pend) : (s.reportReset u key old).pends pend :=
  .foldl (fun h1 => .ite h1 (.ite (.ite (.failQueue h1) h1) (.event h1))) h

theorem sendEpochs {u mask named} (h : s.pends pend) : (s.sendEpochs u mask named).pends pend := .foldl .sendOn h
theorem orphanRequests {p} (h : s.pends pend) : (s.orphanRequests p).pends pend := .upd h

theorem resetEngines {u} (h : s.pends pend) : (s.resetEngines u).pends pend :=
  .foldl .reportReset (.orphanRequests (.upd h))

theorem abandonOwned {u} (h : s.pends pend) : (s.abandonOwned u).pends pend := .abandonAll h
theorem resave {u} (h : s.pends pend) : (s.resave u).pends pend := .foldl .putSync h

theorem resetUnit {u} (h : s.pends pend) : (s.resetUnit u).pends pend := by
  unfold State.resetUnit
  extract_lets mask used s1 s2 s3 s4
  have h1 : s1.pends pend := .abandonOwned (.resetEngines h)
  have h3 : s3.pends pend := .colAbandonCheck (.closuresFail (.foldl .colFailOwn h1))
  exact .sendEpochs (.resave (.upd h3))

theorem giveUp {r} (h : s.pends pend) : (s.giveUp r).pends pend := by
  unfold State.giveUp
  split
  · exact h
  · split
    · exact .foldl (fun h1 => .ite (.setShelf h1) h1) h
    · exact .foldl (fun h1 => .ite h1 (.setBindery (.ite (.bndUnregister h1) h1))) h
    · exact .upd (.dropStract h)
    · exact .upd h
    · exact .upd h
    · exact .upd h
    · exact .upd h
    · exact .upd h

theorem abortCommands (h : s.pends pend) : s.abortCommands.pends pend := .foldl (fun h1 => .finish (.giveUp h1)) h

theorem fatal {wdog} (h : s.pends pend) : (s.fatal wdog).pends pend :=
  .ite (.upd h) (.ite (.upd (.upd h)) (.upd (.upd h)))

theorem stackFails {h'} (h : s.pends pend) : (s.stackFails h').pends pend := .flagDevice (.log (.setStack h))

theorem retrainStack {h'} (h : s.pends pend) : (s.retrainStack h').pends pend :=
  .ite (.stackFails (.setStack (.useFree h))) (.setStack (.useFree h))

theorem mgmtReset (h : s.pends pend) : s.mgmtReset.pends pend := .fatal (.upd h)

theorem unitReset {r} (h : s.pends pend) : (s.unitReset r).pends pend := by
  unfold State.unitReset
  extract_lets s0 s1 s2
  have h1 : s1.pends pend := .log (.count (.bumpEpoch (.ite (.abortCommands h) h)))
  refine .setSvc ?_
  unfold s2
  split
  · exact .resetUnit h1
  · exact .portReset h1
  · exact .colsFail (.invalidate (.dropRequests h1))
  · exact .retrainStack (.colsFail (.dropRequests (.bndAbort h1)))
  · exact .mgmtReset h1

theorem portResume {n} (h : s.pends pend) : (s.portResume n).pends pend :=
  .foldl (fun h => by
    extract_lets s1
    have h1 : s1.pends pend := .ite (.subportDown h) h
    exact .ite (.trainIfEnabled h1) h1) h

theorem unitResume {r} (h : s.pends pend) : (s.unitResume r).pends pend := by
  unfold State.unitResume
  split
  · exact h
  · exact h
  · dsimp only
    split
    · exact .setStack (.setSvc h)
    · exact .portResume (.setSvc h)
    · exact .setSvc h

/-! ### Fp -/

theorem surveyed {pairs disagree suspect} (h : s.pends pend) : (s.surveyed pairs disagree suspect).pends pend :=
  .ite (.flagDevice (.log h)) (.log h)

theorem replaySurvey (h : s.pends pend) : s.replaySurvey.pends pend :=
  .ite (.surveyed (.useFree h)) (.surveyed (.useFree h))

theorem replayCheck (h : s.pends pend) : s.replayCheck.pends pend := by
  unfold State.replayCheck
  split
  · extract_lets rows wrong compared ok res src s1 s2
    have h2 : s2.pends pend := .finishAll (.log (.upd h))
    exact .ite (.ite h2 (.replaySurvey h2)) h
  · exact h

theorem flushOne {n} (h : s.pends pend) : (s.flushOne n).pends pend :=
  .ite (.count h) (.ite (.setFp h) (.journalLatch (.setFp h)))

theorem fpFlushRange {first count} (h : s.pends pend) : (s.fpFlushRange first count).pends pend := by
  unfold State.fpFlushRange
  dsimp only
  split
  · exact .replayCheck (.upd (.foldl .flushOne h))
  · exact .foldl .flushOne h

/-! ### Issue -/

theorem restart {c u q} (h : s.pends pend) : (s.restart c u q).pends pend := .ite h (.setQueue h)

theorem passOn {c p q a e run} (h : s.pends pend) (hrun : ∀ {s c p addr e}, s.pends pend → (run s c p addr e).pends pend) :
    (s.passOn c p q a e run).pends pend :=
  .ite (.setQueue (.restart h)) (hrun (.restart h))

theorem passAll {c u q a e run} (h : s.pends pend)
    (hrun : ∀ {s c p addr e}, s.pends pend → (run s c p addr e).pends pend) : (s.passAll c u q a e run).pends pend :=
  .foldl (fun h1 => .passOn h1 hrun) (.foldl .restart h)

theorem feed {s : State} {c p q run n} (h : s.pends pend)
    (hrun : ∀ {s c p addr e}, s.pends pend → (run s c p addr e).pends pend) : (s.feed c p q run n).pends pend := by
  induction n generalizing s with
  | zero => exact h
  | succ n ih =>
    unfold State.feed
    dsimp only
    split
    · exact ih (hrun (.setQueue h))
    · exact h

theorem issue {u q op e run} (h : s.pends pend)
    (hrun : ∀ {s c p addr e}, s.pends pend → (run s c p addr e).pends pend) : (s.issue u q op e run).pends pend := by
  unfold State.issue
  split
  · exact h
  · exact .ite h (.ite (hrun (.advance h)) (.passAll (.count (.advance h)) hrun))

theorem leaveHead {c p q} (h : s.pends pend) : (s.leaveHead c p q).pends pend := .setQueue h
theorem endRun {c u q addr status} (h : s.pends pend) : (s.endRun c u q addr status).pends pend := .ite h (.failQueue h)
theorem putNibs {ws} (h : s.pends pend) : (s.putNibs ws).pends pend := .upd h

/-! ### Matrix -/

theorem mWithdraw {c p addr status} (h : s.pends pend) : (s.mWithdraw c p addr status).pends pend :=
  .failQueue (.setMat h)

theorem datumReads {d} (h : s.pends pend) : (s.datumReads d).pends pend := by
  unfold State.datumReads
  extract_lets one entry
  have hentry : ∀ {s on k}, s.pends pend → (entry s on k).pends pend := fun h => .ite (.access h) h
  refine .ite h ?_
  split
  · exact hentry (hentry h)
  · exact .access h
  · exact h

theorem mfinReport {d t} (h : s.pends pend) : (s.mfinReport d t).pends pend := .ite (.catReport h) h

theorem mfinGo {c p e} (h : s.pends pend) : (s.mfinGo c p e).pends pend :=
  .mfinReport (.count (.countShed (.setMat (.ite (.updRun h) h))))

end State.pends

/-- An M entry that ends leaves those commands waiting. -/
def MRes.pends (pend : List Instr) : MRes → Prop
  | .wait => True
  | .done _ t => t.pends pend

namespace MRes.pends

variable {s : State} {pend : List Instr}

theorem wait : MRes.wait.pends pend := trivial
theorem ends {st : Nat} (h : s.pends pend) : (MRes.end s st).pends pend := h

theorem ite {c : Prop} [Decidable c] {r q : MRes} (h : r.pends pend) (g : q.pends pend) :
    (if c then r else q).pends pend := by
  split <;> assumption

theorem mdecl {c p e} (h : s.pends pend) : (s.mdecl c p e).pends pend := by
  refine .ite (.ends h) (.ite (.ends h) (.ite (.ends h) ?_))
  refine .ite (.ends (.fbUnc h)) (.ite (.ends h) (.ite (.ends h) ?_))
  split
  · exact .wait
  · exact .ends (.ite (.lineUnc h) h)
  · exact .ends (.setMat (.datumReads h))

theorem mopen {c p e} (h : s.pends pend) : (s.mopen c p e).pends pend := by
  refine .ite (.ends h) ?_
  split
  · exact .ends h
  · exact .ite (.ends h) (.ite .wait (.ite (.ends h) (.ite .wait (.ends (.setMat h)))))

theorem macc {c p addr e} (h : s.pends pend) : (s.macc c p addr e).pends pend := by
  refine .ite .wait ?_
  split
  · exact .ends h
  · exact .ends (.setMat h)

theorem mfin {c p e} (h : s.pends pend) : (s.mfin c p e).pends pend := by
  refine .ite .wait (.ite .wait ?_)
  split
  · exact .ends h
  · split
    · exact .ends (.fbUnc h)
    · exact .ite (.ends h) (.ite .wait (.ends (.mfinGo h)))

theorem msum {c p e} (h : s.pends pend) : (s.msum c p e).pends pend :=
  .ite (.ends h) (.ite (.ends h) (.ite (.ends h) (.ite (.ends (.fbUnc h)) (.ends (.store h)))))

theorem msave {c p e} (h : s.pends pend) : (s.msave c p e).pends pend := by
  unfold State.msave
  extract_lets m one g a
  generalize granOk a 8448 = ok
  exact .ite (.ends h) (.ite (.ends h) (.ite .wait (.ite (.ends h) (.ends (.setMat (.store h))))))

theorem mload {c p e} (h : s.pends pend) : (s.mload c p e).pends pend := by
  unfold State.mload
  extract_lets m one g a
  generalize granOk g 8448 = ok
  refine .ite (.ends h) (.ite (.ends h) (.ite (.ends h) (.ite (.ends (.fbUnc h)) ?_)))
  split
  · exact .ends h
  · exact .ends (.setMat h)

theorem mExec {c p addr e} (h : s.pends pend) : (s.mExec c p addr e).pends pend := by
  unfold State.mExec
  split
  · exact .mdecl h
  · exact .mopen h
  · exact .macc h
  · exact .mfin h
  · exact .msum h
  · exact .msave h
  · exact .mload h
  · exact .ends h

end MRes.pends

namespace State.pends

variable {s t : State} {pend : List Instr}

theorem mSettle {c p addr e r} (h : s.pends pend) (hr : r.pends pend) : (s.mSettle c p addr e r).pends pend := by
  unfold State.mSettle
  split
  · exact .waitHead h
  · exact .endEntry hr

theorem mRun {c p a e} (h : s.pends pend) : (s.mRun c p a e).pends pend := .mSettle h (.mExec h)
theorem mFeed {c p} (h : s.pends pend) : (s.mFeed c p).pends pend := .feed h .mRun

theorem mRetry {c p} (h : s.pends pend) : (s.mRetry c p).pends pend := by
  unfold State.mRetry
  split
  · exact .ite h (.mFeed (.mRun h))
  · exact h

theorem mIssue {u op e} (h : s.pends pend) : (s.mIssue u op e).pends pend := .issue h .mRun

theorem maccStep {c p r} (h : s.pends pend) : (s.maccStep c p r).pends pend := by
  unfold State.maccStep
  dsimp only
  split
  · exact .mWithdraw (.setMat (.fbUnc h))
  · exact .ite (.mRetry (.count (.countShed (.setMat h)))) (.count (.countShed (.setMat h)))

theorem drainEnd {c p seg} (h : s.pends pend) : (s.drainEnd c p seg).pends pend := by
  unfold State.drainEnd
  dsimp only
  split
  · exact h
  · exact .mRetry (.setMat (.putNibs h))

/-! ### Vector -/

theorem vset {c p e} (h : s.pends pend) : (s.vset c p e).1.pends pend :=
  .iteFst h (.iteFst h (.iteFst (.fbUnc h) (.iteFst h (.setVec h))))

theorem vExec {c p addr e} (h : s.pends pend) : (s.vExec c p addr e).pends pend := by
  unfold State.vExec
  dsimp only
  split
  · exact .waitHead h
  · split
    · exact .endEntry h
    · split
      · exact .endEntry (.vset h)
      · split
        · exact .endEntry h
        · exact .setVec (.leaveHead h)

theorem vRetry {c p} (h : s.pends pend) : (s.vRetry c p).pends pend := by
  unfold State.vRetry
  split
  · exact .ite h (.feed (.vExec h) .vExec)
  · exact h

theorem vIssue {u op e} (h : s.pends pend) : (s.vIssue u op e).pends pend := .issue h .vExec
theorem vEnd {c p status r} (h : s.pends pend) : (s.vEnd c p status r).pends pend := .vRetry (.endRun (.setVec h))
theorem vLand {p d e o is} (h : s.pends pend) : (s.vLand p d e o is).pends pend := .count (.countShed (.putNibs h))

theorem vGroup {c p r} (h : s.pends pend) : (s.vGroup c p r).pends pend := by
  unfold State.vGroup
  dsimp only
  split
  · exact .vEnd (.fbUnc (.setVec (.ite h (.vLand h))))
  · exact .ite (.vEnd (.setVec (.vLand h))) (.setVec (.vLand h))

/-! ### SyncCmds -/

theorem syncIssue {u q op e run} (h : s.pends pend) (hrun : ∀ {s c a}, s.pends pend → (run s c a).pends pend) :
    (s.syncIssue u q op e run).pends pend := by
  unfold State.syncIssue
  split
  · exact h
  · exact .ite h (.ite (.endEntry (.advance h)) (hrun (.advance h)))

theorem orphan {holder i} (h : s.pends pend) : (s.orphan holder i).pends pend := .ite h (.misuse h)

theorem stakeWait {c u q a e want} (h : s.pends pend) : (s.stakeWait c u q a e want).pends pend := by
  have h1 : (s.endEntry c u q a 0).pends pend := .endEntry h
  unfold State.stakeWait
  dsimp only
  split
  · exact .ite (.endEntry h) (.ite (.ite (.wakeStake (.setStake h1)) h1) (.waitHead (.orphan h)))
  · exact .endEntry h
  · exact .endEntry h

theorem stakeExpiry {c u q} (h : s.pends pend) : (s.stakeExpiry c u q).pends pend := by
  unfold State.stakeExpiry
  split
  · exact .ite (.ite (.wakeStake (.setStake (.endEntry h))) (.endEntry h)) (.endEntry (.count h))
  · exact h

theorem stakeSend {c u q a e set} (h : s.pends pend) : (s.stakeSend c u q a e set).pends pend := by
  unfold State.stakeSend
  split
  · exact .ite (.endEntry h) (.stakeOp (.endEntry h))
  · exact .ite (.waitHead (.upd (.slip h))) (.endEntry (.upd (.slip h)))
  · exact .endEntry h

theorem fence {c u q a e go} (h : s.pends pend) (hgo : ∀ {s}, s.pends pend → (go s).pends pend) :
    (s.fence c u q a e go).pends pend :=
  .ite (hgo h) (.waitHead h)

theorem refuse {c u q} (h : s.pends pend) : (s.refuse c u q).pends pend := .endEntry (.advance h)

theorem stakeEntry {u q op e set} (h : s.pends pend) : (s.stakeEntry u q op e set).pends pend := by
  unfold State.stakeEntry
  split
  · exact .refuse h
  · exact .syncIssue h fun h1 => .fence h1 .stakeSend

theorem fenceDone {c u q} (h : s.pends pend) : (s.fenceDone c u q).pends pend := by
  unfold State.fenceDone
  split
  · exact .ite h (.ite (.endEntry h) (.stakeSend h))
  · exact h

theorem cwait {c u q a e} (h : s.pends pend) : (s.cwait c u q a e).pends pend := by
  unfold State.cwait
  dsimp only
  split
  · exact .endEntry h
  · exact .endEntry h
  · exact .ite (.endEntry h) (.ite (.waitHead h) (.endEntry h))

theorem queueOp {c u q f} (h : s.pends pend) : (s.queueOp c u q f).pends pend := .setQueue h

theorem fetchFault {c u q status} (h : s.pends pend) : (s.fetchFault c u q status).pends pend :=
  .ite (.queueOp (.failQueue (.ite (.setQueue h) h))) (.failQueue (.ite (.setQueue h) h))

/-! ### XCore -/

theorem moveGranules {p e done n} (h : s.pends pend) : (s.moveGranules p e done n).1.pends pend :=
  .count (.ite h (.ite (.store h) (.write h)))

/-- An element that an atomic operation can read and write. -/
theorem atomOne {p e k} (h : s.pends pend) (e' : s.atomOne p e k = .inl t) : t.pends pend := by
  dsimp only [State.atomOne] at e'
  split at e'
  · exact nomatch e'
  · split at e'
    · exact nomatch e'
    · rw [← Sum.inl.inj e']
      exact .count (.count (.ite (.store (.store h)) (.store h)))

theorem atoms {s : State} {p e n done} (h : s.pends pend) : (s.atoms p e n done).1.pends pend := by
  induction n generalizing s done with
  | zero => exact h
  | succ n ih =>
    unfold State.atoms
    split
    · exact h
    next s1 e1 => exact ih (.atomOne h e1)

theorem xMove {p e done n} (h : s.pends pend) : (s.xMove p e done n).1.pends pend := .iteFst (.atoms h) (.moveGranules h)
theorem setX {key r} (h : s.pends pend) : (s.setX key r).pends pend := .setEng h
theorem xEnd {key addr status} (h : s.pends pend) : (s.xEnd key addr status).pends pend := .endRun (.setX h)

theorem ask {key r} (h : s.pends pend) : (s.ask key r).pends pend :=
  .ite (.xEnd (.ite (.count h) h)) (.ite (.setSlice h) (.setX (.setSlice h)))

theorem xLocal {key r} (h : s.pends pend) : (s.xLocal key r).pends pend := by
  unfold State.xLocal
  dsimp only
  split
  · exact .xEnd h
  · split
    · exact .xEnd (.uncRead (.xMove h))
    · exact .xEnd (.xMove h)

theorem xExec {c p addr e} (h : s.pends pend) : (s.xExec c p addr e).pends pend := by
  unfold State.xExec
  dsimp only
  split
  · exact .waitHead h
  · split
    · exact .endEntry h
    · exact .ite (.xLocal (.setX (.leaveHead h))) (.ask (.setX (.leaveHead h)))

theorem xRetry {c p} (h : s.pends pend) : (s.xRetry c p).pends pend := by
  unfold State.xRetry
  split
  · exact .ite h (.feed (.xExec h) .xExec)
  · exact h

theorem xFinish {key addr status} (h : s.pends pend) : (s.xFinish key addr status).pends pend := .xRetry (.xEnd h)
theorem xIssue {u op e} (h : s.pends pend) : (s.xIssue u op e).pends pend := .issue h .xExec
theorem runServed {q r} (h : s.pends pend) : (s.runServed q r).1.pends pend := .ite (.count h) h

theorem requestDone {n q} (h : s.pends pend) : (s.requestDone n q).pends pend := by
  unfold State.requestDone
  extract_lets v s1
  have h1 : s1.pends pend := .setSlice h
  split
  · exact .count h1
  · extract_lets v s3
    have hv : v.1.pends pend := .runServed h1
    have h3 : s3.pends pend := .setX hv
    exact .ite (.xFinish h1) (.ite (.xFinish hv) (.ite (.ask h3) h3))

theorem xServed {c} (h : s.pends pend) : (s.xServed c).pends pend := .foldl .requestDone h
theorem xPark {c} (h : s.pends pend) : (s.xPark c).pends pend := .upd (.xServed h)

theorem loseShelfLine {line} (h : s.pends pend) : (s.loseShelfLine line).pends pend :=
  .ite h (.ite (.catLose (.upd (.count (.lose h)))) (.count (.lose h)))

theorem readVerdict {a r} (h : s.pends pend) : (s.readVerdict a r).pends pend := by
  unfold State.readVerdict
  dsimp only
  split
  · exact h
  · exact .ite (.count h) (.count h)
  · split
    · exact .loseShelfLine h
    · split
      · exact .ite (.loseLine h) (.ite (.invalidate (.countAll h)) (.countAll h))
      · exact .lose h

/-! ### Archive -/

theorem askWaiting {n} (h : s.pends pend) : (s.askWaiting n).pends pend :=
  .foldl (fun h1 => by
    split
    · exact .ite (.ask h1) h1
    · exact h1) (.setSlice h)

theorem serveReq {n q} (h : s.pends pend) : (s.serveReq n q).pends pend := by
  unfold State.serveReq
  dsimp only
  split
  · exact .setSlice (.count h)
  · split
    · exact .setSlice (.count h)
    · split
      · exact .setSlice (.uncRead (.accessLine (.setX (.xMove h))))
      · exact .setSlice (.accessLine (.setX (.xMove h)))

theorem serveOne {n} (h : s.pends pend) : (s.serveOne n).pends pend := by
  unfold State.serveOne
  split
  · exact .ite (.setSlice (.serveReq h)) (.serveReq h)
  · exact h

theorem ageSlice {n} (h : s.pends pend) : (s.ageSlice n).pends pend := .setSlice (.foldl .setX (.countAll h))
theorem t1Expiry {key r} (h : s.pends pend) : (s.t1Expiry key r).pends pend := .xFinish (.count (.count (.setSlice h)))

theorem scrubCorrect {p g} (h : s.pends pend) : (s.scrubCorrect p g).pends pend :=
  .ite (.upd (.count h)) (.spareSwap (.upd (.count h)))

theorem scrubLost {line} (h : s.pends pend) : (s.scrubLost line).pends pend := by
  unfold State.scrubLost
  dsimp only
  split
  · exact .ite (.loseLine (.log (.count h))) (.readVerdict h)
  · exact .log (.loseShelfLine (.count h))

theorem answer {o} (h : s.pends pend) : (s.answer o).pends pend := .upd h
theorem partitionCheck (h : s.pends pend) : s.partitionCheck.pends pend := .foldl .finish h

theorem shelfNext {n} (h : s.pends pend) : (s.shelfNext n).pends pend := by
  unfold State.shelfNext
  dsimp only
  split
  · exact h
  · split
    · exact .setShelf h
    · exact h

theorem withMemory {mem : Memory} {bad} (h : s.pends pend) : State.pends pend { s with mem := mem, bad := bad } := .upd h

theorem shelfTakes {n v t} (h : s.pends pend) : (s.shelfTakes n v t).pends pend := by
  unfold State.shelfTakes
  extract_lets enters gone s0 s1 s3 s2
  have h1 : s1.pends pend := .setShelf (.invalidate (.writeBackAs h))
  have h2 : s2.pends pend := .ite (.withMemory (.access h1)) h1
  exact .ite (.catLose h2) h2

theorem fpScanEnd {n} (h : s.pends pend) : (s.fpScanEnd n).pends pend := by
  unfold State.fpScanEnd
  dsimp only
  split
  · exact h
  · split
    · exact .replayCheck (.setFp h)
    · split
      · exact .replayCheck (.uncRead (.setFp (.access h)))
      · exact .replayCheck (.journalLatch (.setFp (.access h)))

/-! ### Bindery -/

theorem bndStop {h' status} (h : s.pends pend) : (s.bndStop h' status).pends pend := .ite (.bndAbort h) h

theorem patrolLoses {a} (h : s.pends pend) : (s.patrolLoses a).pends pend := by
  unfold State.patrolLoses
  split
  · exact .setWays h
  · exact .lose h

theorem bndRegister {h' qi w} (h : s.pends pend) : (s.bndRegister h' qi w).pends pend :=
  .ite h (.orphan (.upd (.setBindery h)))

theorem bndBegin {h' r} (h : s.pends pend) : (s.bndBegin h' r).pends pend := by
  unfold State.bndBegin
  split
  · exact .bndEnd h
  · exact .ite (.bndEnd h) (.ite (.bndEnd (.uncRead h)) (.setBindery (.ite (.count h) (.writeBackAs h))))

theorem bndGoOn {h' r} (h : s.pends pend) : (s.bndGoOn h' r).pends pend :=
  .ite (.setBindery h) (.ite (.bndEnd h) (.ite (.bndEnd h) (.setBindery (.writeBackAs h))))

theorem bndTake {h' qi r} (h : s.pends pend) : (s.bndTake h' qi r).pends pend := by
  unfold State.bndTake
  extract_lets s1 b b' b1 s2
  have h2 : s2.pends pend := .setBindery (.bndUnregister h)
  refine .ite (.bndGoOn h2) ?_
  split
  · exact .bndEnd (.ite (.uncRead h2) h2)
  · exact .ite (.bndEnd h2) (.bndBegin h2)

theorem bndScan {s : State} {h' a} (h : s.pends pend) : (s.bndScan h' a).pends pend := by
  induction a generalizing s with
  | nil => exact h
  | cons qi rest ih =>
    unfold State.bndScan
    split
    · exact ih h
    · refine .ite (.bndTake h) ?_
      split
      · exact ih (.bndRegister h)
      · exact .bndTake h

theorem bndRan {h' r bad} (h : s.pends pend) : (s.bndRan h' r bad).pends pend := by
  refine .setBindery ?_
  split
  · exact .uncRead h
  · exact h

theorem bndOperate {h' op} (h : s.pends pend) : (s.bndOperate h' op).pends pend := by
  unfold State.bndOperate
  split
  · exact h
  · exact .ite (.bndRan (.captureLines h)) (.bndRan (.bndMove h))

/-! ### Links -/

theorem messageLate {mseq} (h : s.pends pend) : (s.messageLate mseq).pends pend := by
  unfold State.messageLate
  split
  · exact h
  · exact .upd h

theorem startPacket {p t o} (h : s.pends pend) : (s.startPacket p t o).1.pends pend := by
  unfold State.startPacket
  extract_lets k k1 v s1 s2 late s3
  have h2 : s2.pends pend := .setPort (.upd h)
  have h3 : s3.pends pend := .ite (.count (.ite (.messageLate h2) h2)) h2
  exact .ite (.capturePort h3) h3

/-- A slot taken from a virtual lane that has one. -/
theorem takeSlot {p t vl x} (h : s.pends pend) (e : s.takeSlot p t vl = some (u, x)) : u.pends pend := by
  dsimp only [State.takeSlot] at e
  split at e
  · exact nomatch e
  · split at e
    · rw [← (Prod.mk.inj (Option.some.inj e)).1]
      exact .setPort h
    · split at e
      · rw [← (Prod.mk.inj (Option.some.inj e)).1]
        exact .setPort (.startPacket h)
      · exact nomatch e

theorem fillFrom {s : State} {p t vls n a} (h : s.pends pend) : (s.fillFrom p t vls n a).1.pends pend := by
  induction n generalizing s a with
  | zero => exact h
  | succ n ih =>
    unfold State.fillFrom
    refine .iteFst h ?_
    split
    next s1 x e =>
      obtain ⟨vl, -, hx⟩ := List.exists_of_findSome?_eq_some e
      exact ih (.takeSlot h hx)
    · exact h

theorem fillDrr {s : State} {p t n a} (h : s.pends pend) : (s.fillDrr p t n a).1.pends pend := by
  induction n generalizing s a with
  | zero => exact h
  | succ n ih =>
    unfold State.fillDrr
    refine .iteFst h ?_
    dsimp only
    split
    next s1 x e =>
      split at e
      · exact ih (.setPort (.takeSlot h e))
      · exact nomatch e
    · exact ih (.setPort h)

theorem fill {p t} (h : s.pends pend) : (s.fill p t).1.pends pend := .fillFrom (.fillDrr (.fillFrom (.fillFrom h)))
theorem frameOut {p bs} (h : s.pends pend) : (s.frameOut p bs).pends pend := .upd h
theorem sendTraining {p t} (h : s.pends pend) : (s.sendTraining p t).pends pend := .frameOut (.setPort h)
theorem sendData {p t fseq slots} (h : s.pends pend) : (s.sendData p t fseq slots).pends pend := .frameOut h

theorem sendFrame {p t} (h : s.pends pend) : (s.sendFrame p t).pends pend := by
  unfold State.sendFrame
  dsimp only
  split
  · split
    · exact .sendData ((by
  split
  · exact .count (.setPort h)
  · exact .setPort h))
    · exact .sendData ((by
  split
  · exact .count (.setPort h)
  · exact .setPort h))
  · exact .ite (.sendData h) (.ite (.sendData (.fill h)) (.setPort (.sendData (.fill h))))

theorem fecCount {p fec} (h : s.pends pend) : (s.fecCount p fec).pends pend := by
  unfold State.fecCount
  split
  · exact .count h
  · exact .count h

theorem replay {p t ack} (h : s.pends pend) : (s.replay p t ack).pends pend := .ite h (.setPort h)

theorem arrived {k} (h : s.pends pend) : (s.arrived k).pends pend :=
  .ite (.freeSlots (.reject h)) (.ite (.freeSlots (.noticeOf h)) (.ite (.deliver (.capturePort h)) (.deliver h)))

theorem takeIn {p code bs} (h : s.pends pend) : (s.takeIn p code bs).pends pend := by
  unfold State.takeIn
  dsimp only
  split
  · split
    · exact .arrived (.setPort ((by
  split
  · exact .reject (.freeSlots h)
  · exact h)))
    · exact .setPort ((by
  split
  · exact .reject (.freeSlots h)
  · exact h))
  · split
    · exact .ite (.arrived (.setPort h)) (.setPort h)
    · exact .count (.freeSlots h)

theorem takeSlots {p bytes} (h : s.pends pend) : (s.takeSlots p bytes).pends pend :=
  .foldl (fun h1 => .ite (.takeIn h1) h1) h

theorem takeFrame {p t bytes} (h : s.pends pend) : (s.takeFrame p t bytes).pends pend := by
  unfold State.takeFrame
  extract_lets hd fseq ack v0 used v v1 s1 s2
  have h2 : s2.pends pend := .ite (.replay (.setPort h)) (.setPort h)
  exact .ite (.setPort h) (.ite (.takeSlots (.setPort h2)) h2)

theorem followDown {p} (h : s.pends pend) : (s.followDown p).pends pend := .setPort (.subportDown h)
theorem linkLost {p} (h : s.pends pend) : (s.linkLost p).pends pend := .ite (.followDown h) (.retrainFast h)

theorem takeAlign {p bytes} (h : s.pends pend) : (s.takeAlign p bytes).pends pend := by
  unfold State.takeAlign
  extract_lets v fl ts n v1
  generalize patternGood bytes = good
  exact .ite (.setPort h) (.setPort h)

theorem takeExchange {p bytes} (h : s.pends pend) : (s.takeExchange p bytes).pends pend :=
  .ite (.trainingFails h) (.ite (.trainingFails h) (.ite (.setPort h) (.setPort h)))

theorem takeDelay {p t bytes} (h : s.pends pend) : (s.takeDelay p t bytes).pends pend := .ite (.setPort h) (.setPort h)

theorem portDisable {n} (h : s.pends pend) : (s.portDisable n).pends pend :=
  .foldl (fun h1 => .ite (.subportDown h1) (.ite h1 (.subportQuiesce h1))) (.setPctl h)

/-! ### Packets -/

theorem onPacket {k ptype f} (h : s.pends pend) (hf : ∀ {s}, s.pends pend → (f s).pends pend) :
    (s.onPacket k ptype f).pends pend :=
  .ite h (.ite (.reject (.take h)) (hf (.take h)))

theorem writeTile {c t vals codes} (h : s.pends pend) : (s.writeTile c t vals codes).pends pend :=
  .captureWrite (.upd (.write h))

theorem takeRole1 {h' c k} (h : s.pends pend) : (s.takeRole1 h' c k).pends pend := by
  unfold State.takeRole1
  dsimp only
  split
  · exact .colFailOwn h
  · exact .ite (.colFailOwn h) (.colGuard h fun h1 => .foldl .colSend (.updRun (.writeTile h1)))

theorem takeRole2 {h' c k} (h : s.pends pend) : (s.takeRole2 h' c k).pends pend := by
  unfold State.takeRole2
  split
  · exact .colFailOwn h
  · exact .ite (.colFailOwn h) (.colGuard h fun h1 => .foldl .colSend (.updRun (.write h1)))

theorem takeRow {h' c rank tidx boff tag bs} (h : s.pends pend) : (s.takeRow h' c rank tidx boff tag bs).pends pend :=
  .ite (.colFailOwn h) (.colGuard h fun h1 => .updRun (.write (.write h1)))

theorem takeCount {h' c rank word} (h : s.pends pend) : (s.takeCount h' c rank word).pends pend :=
  .ite (.colFailOwn h) (.colGuard h fun h1 => .updRun (.write h1))

theorem takeA2a {h' c k} (h : s.pends pend) : (s.takeA2a h' c k).pends pend := by
  unfold State.takeA2a
  split
  · exact .colFailOwn h
  · exact .ite (.takeCount h) (.ite (.colFailOwn h) (.takeRow h))

theorem takePerm {h' c off bs} (h : s.pends pend) : (s.takePerm h' c off bs).pends pend :=
  .ite (.colFailOwn h) (.ite (.colGuard h fun h1 => .updRun (.write h1)) (.colGuard h fun h1 => .updRun (.write h1)))

theorem takeData {h' c k} (h : s.pends pend) : (s.takeData h' c k).pends pend :=
  .colPlanned h fun h1 => by
    split
    · exact .ite (.acceptTile h1) (.colFailOwn h1)
    · exact .ite (.takeRole1 h1) (.colFailOwn h1)
    · exact .ite (.takeRole2 h1) (.colFailOwn h1)
    · exact .ite (.takePerm h1) (.colFailOwn h1)
    · exact .ite (.takeA2a h1) (.colFailOwn h1)

theorem epochChecked {h' c k f} (h : s.pends pend) (hf : ∀ {s x}, s.pends pend → (f s x).pends pend) :
    (s.epochChecked h' c k f).pends pend :=
  .ite (.count h) (hf (.setCol h))

theorem onData {k} (h : s.pends pend) : (s.onData k).pends pend := by
  unfold State.onData
  split
  · exact .reject h
  · dsimp only
    split
    · exact .noticeOf h
    · refine .ite (.noticeOf h) (.epochChecked h fun h1 => ?_)
      split
      · exact .takeData h1
      · exact .noticeOf h1
      · exact .count h1

theorem ackIn {c bs} (h : s.pends pend) : (s.ackIn c bs).pends pend := by
  unfold State.ackIn
  split
  · exact h
  · refine .ite (.upd h) (.onSaved (.upd h) fun h1 => ?_)
    split
    · exact .endWait h1
    · exact h1

theorem onCack {k} (h : s.pends pend) : (s.onCack k).pends pend := by
  unfold State.onCack
  split
  · exact .reject h
  · split
    · exact .ackIn h
    · split
      · exact .noticeOf h
      · exact .epochChecked h .ackIn

theorem onEpoch {k} (h : s.pends pend) : (s.onEpoch k).pends pend :=
  .ite (.malformed h) (.colAbandonCheck (.abandonAll h))

theorem onToken {k t} (h : s.pends pend) : (s.onToken k t).pends pend := by
  unfold State.onToken
  split
  · exact .malformed h
  · exact .ite h (.forwardToken (.takeToken h))

theorem onArrive {k} (h : s.pends pend) : (s.onArrive k).pends pend := by
  unfold State.onArrive
  split
  · exact .malformed h
  · split
    · exact h
    · exact .ite h (.closureCheck (.countArrival h))

theorem onComplete {k} (h : s.pends pend) : (s.onComplete k).pends pend := by
  unfold State.onComplete
  split
  · exact .malformed h
  · split
    · exact h
    · exact .ite h (.closureCheck (.closureEnds (.roundDone h)))

theorem onFail {k} (h : s.pends pend) : (s.onFail k).pends pend := by
  unfold State.onFail
  split
  · exact .malformed h
  · split
    · exact h
    · exact .closureFail h

theorem slipUp {h' c k bs} (h : s.pends pend) : (s.slipUp h' c k bs).pends pend :=
  .ite (.slipAdd h) (.ite (.setCol h) (.malformed h))

theorem onSlipred {k} (h : s.pends pend) : (s.onSlipred k).pends pend := by
  unfold State.onSlipred
  dsimp only
  split
  · exact .malformed h
  · exact .ite (.malformed h) (.epochChecked h fun h1 => .ite (.slipUp h1) (.ite (.slipResult h1) (.malformed h1)))

theorem runEntry {c p a q e} (h : s.pends pend) : (s.runEntry c p a q e).pends pend := by
  unfold State.runEntry
  split
  · exact .mRun h
  · exact .vExec h
  · exact .xExec h
  · exact .endEntry h

theorem tractEntry {c q e} (h : s.pends pend) : (s.tractEntry c q e).pends pend :=
  .ite h (.passAll (.count (.advance h)) .runEntry)

theorem onStake {k} (h : s.pends pend) : (s.onStake k).pends pend := by
  unfold State.onStake
  split
  · exact .malformed h
  · split
    · exact h
    · exact .ite (.sendOn (.stakeOpAny h)) (.stakeOpAny h)

theorem onFw {k chan shape f} (h : s.pends pend) (hf : ∀ {s}, s.pends pend → (f s).1.pends pend) :
    (s.onFw k chan shape f).pends pend := by
  refine .onPacket h fun h1 => .ite h1 (.ite (.reject h1) ?_)
  extract_lets src n old done after fab r
  have hr : r.1.pends pend := by
    unfold r
    cases old with
    | none => exact .upd (hf h1)
    | some _ => exact h1
  exact .ite (.fwmsg hr) hr

theorem routeLoad {rtl first es} (h : s.pends pend) : (s.routeLoad rtl first es).pends pend :=
  .foldl (fun h1 => .ite h1 (.ite (.upd h1) (.upd h1))) h

theorem fwAnswered {r status} (h : s.pends pend) : (s.fwAnswered r status).pends pend := by
  unfold State.fwAnswered
  split
  · exact h
  · exact .ite (.finish (.ite (.giveUp h) h)) (.ite h (.finish h))

theorem messageEnds {w status} (h : s.pends pend) : (s.messageEnds w status).pends pend := by
  unfold State.messageEnds
  dsimp only
  split
  · exact .fwAnswered (.upd h)
  · exact .upd h

theorem takeNotice {body} (h : s.pends pend) : (s.takeNotice body).pends pend :=
  .ite (.colFail h) (.ite (.foldl .messageEnds h) h)

theorem onMack {k} (h : s.pends pend) : (s.onMack k).pends pend := by
  unfold State.onMack
  dsimp only
  split
  · exact h
  · exact .messageEnds h

/-! ### Collectives -/

theorem planUnc {r} (h : s.pends pend) : (s.planUnc r).pends pend := .lineUnc h
theorem planRead {r} (h : s.pends pend) : (s.planRead r).pends pend := .foldl .access h

theorem admitCol {h'} (h : s.pends pend) : (s.admitCol h').pends pend := by
  unfold State.admitCol
  split
  · exact h
  · exact .finishAll (.setCol h)

theorem consumeRef {c w} (h : s.pends pend) : (s.consumeRef c w).pends pend := by
  unfold State.consumeRef
  split
  · exact .takeStake h
  · exact h

theorem prepare {h' c} (h : s.pends pend) : (s.prepare h' c).pends pend :=
  .ite (.colPlanned h fun h1 => .colGuard h1 fun h2 => .upd (.foldl .heal h2))
    (.ite (.colGuard h .store) h)

theorem gatherStart {h' c} (h : s.pends pend) : (s.gatherStart h' c).pends pend := by
  unfold State.gatherStart
  extract_lets o sh len a d
  refine .colGuard h fun h1 => ?_
  extract_lets bs s1 cut s2
  have hs1 : s1.pends pend := .ite h1 (.write h1)
  exact .updRun (.foldl (fun h2 => .foldl .colSend h2) hs1)

theorem sendRow {h' c i e j n} (h : s.pends pend) : (s.sendRow h' c i e j n).pends pend :=
  .ite (.colGuard h fun h1 => .ite (.takeRow h1) (.foldl .colSend h1)) (.updRun h)

theorem a2aRows {s : State} {h' c n i seen} (h : s.pends pend) : (State.a2aRows h' c n i seen s).pends pend := by
  induction n generalizing s i seen with
  | zero => exact .ite h (.updRun (.foldl (fun h1 => .ite (.takeCount h1) (.colSend h1)) h))
  | succ n ih =>
    unfold State.a2aRows
    refine .ite h ?_
    split
    · exact .colFailOwn h
    · exact ih (.sendRow h)

theorem a2aStart {h' c} (h : s.pends pend) : (s.a2aStart h' c).pends pend := .colGuard (.updRun h) .a2aRows

theorem permStart {h' c} (h : s.pends pend) : (s.permStart h' c).pends pend := by
  unfold State.permStart
  extract_lets ms
  refine .colGuard h fun h1 => ?_
  extract_lets data s1
  have hs1 : s1.pends pend := .updRun h1
  exact .foldl (fun h2 => .ite (.takePerm h2) (.foldl .colSend h2)) hs1

theorem slipStart {h' c} (h : s.pends pend) : (s.slipStart h' c).pends pend := by
  have hk : ∀ {s : State}, s.pends pend → (s.colGuard h' c [(c.r.src.toNat, c.r.slen.toNat)] [] fun s =>
      (c.early.foldl (fun s x => s.slipAdd h' (some x.1) x.2) s).slipAdd h' none
        (s.mem.readN c.r.src.toNat c.r.slen.toNat)).pends pend :=
    fun h1 => .colGuard h1 fun h2 => .slipAdd (.foldl .slipAdd h2)
  exact .ite (.colGuard (.setCol h) fun h1 => hk (.write h1)) (hk (.setCol h))

theorem sumStart {h' c} (h : s.pends pend) : (s.sumStart h' c).pends pend := .voteCheck (.updRun h)

theorem runBegin {h' c} (h : s.pends pend) : (s.runBegin h' c).pends pend := by
  refine .colPlanned h fun h1 => .ite (.colGuard h1 .sumStart) (.ite (.colGuard h1 .a2aStart) ?_)
  exact .ite (.permStart h1) (.ite (.slipStart h1) (.gatherStart h1))

theorem takeStaged {h' c} (h : s.pends pend) : (s.takeStaged h' c).pends pend := by
  unfold State.takeStaged
  split
  · exact h
  · dsimp only
    split
    · exact .updRun h
    · exact .acceptTile (.updRun (.setMat h))

theorem takeSrc {h' c} (h : s.pends pend) : (s.takeSrc h' c).pends pend :=
  .ite h (.colGuard h fun h1 => .acceptTile (.updRun h1))

/-! ### Counters -/

theorem snapRequest {tag stakeout at'} (h : s.pends pend) : (s.snapRequest tag stakeout at').1.pends pend := by
  exact .iteFst (.count (.upd h)) (.upd h)

theorem snapWrite {k} (h : s.pends pend) : (s.snapWrite k).pends pend := .upd h

/-- The times of the next phase record begin anew. -/
theorem phaseCounted {n} (h : s.pends pend) :
    State.pends pend { s with ctr := { s.ctr with nPhase := n, peerWait := 0, thrTime := 0 } } :=
  .upd h

theorem phaseMark {mark bearing rev} (h : s.pends pend) : (s.phaseMark mark bearing rev).pends pend :=
  .ite (.phaseCounted (.access (.store h))) (.count (.upd h))

/-! ### Load -/

theorem initStakes {c} (h : s.pends pend) : (s.initStakes c).pends pend :=
  .foldl (fun h1 => .upd h1) h
theorem purge {c} (h : s.pends pend) : (s.purge c).pends pend := .foldl .setBindery (.upd h)

/-! ### Switch -/

theorem engineRetry {c p} (h : s.pends pend) : (s.engineRetry c p).pends pend := .xRetry (.vRetry (.mRetry h))

theorem becomeRunning {c} (h : s.pends pend) : (s.becomeRunning c).pends pend :=
  .finishAll (.foldl .engineRetry (.foldl .wakeStake (.setCtx (.unsuspend (.bndRestart (.countSwitch h))))))

theorem startFails {c st status} (h : s.pends pend) : (s.startFails c st status).pends pend :=
  .endPreempts (.finishAll (.setCtx h))

theorem cancelled {c} (h : s.pends pend) : (s.cancelled c).pends pend := .onSaved h fun h1 => .suspend (.unsuspend h1)

theorem settle {c} (h : s.pends pend) : (s.settle c).pends pend := by
  unfold State.settle
  dsimp only
  split
  · split
    · exact .endPreempts (.setCtx (.cancelled h))
    · split
      · exact .startFails h
      · split
        next s1 e => exact .becomeRunning (restoreAll h s1 e)
        · exact .startFails h
  · exact h

theorem sliceOut {d} (h : s.pends pend) : (s.sliceOut d).pends pend := .setCtx h

theorem sliceTurn (h : s.pends pend) : s.sliceTurn.pends pend := by
  unfold State.sliceTurn
  split
  · exact h
  · split
    · exact .setCtx (.count h)
    · exact h

theorem startNow {c} (h : s.pends pend) : (s.startNow c).pends pend := by
  unfold State.startNow
  extract_lets v s1 s2
  have h1 : s1.pends pend := .foldl (fun h => .ite (.preempt (.ite h (.count h))) h) h
  have h2 : s2.pends pend := .foldl (fun h => .ite (.sliceOut h) h) h1
  exact .settle (.sliceTurn (.setCtx h2))

theorem ctxStartOp {c} (h : s.pends pend) : (s.ctxStartOp c).1.pends pend := by
  unfold State.ctxStartOp
  split
  · exact h
  · split
    · exact .startNow h
    · exact .startNow h
    · exact h

theorem ctxPreOp {c} (h : s.pends pend) : (s.ctxPreOp c).1.pends pend := by
  unfold State.ctxPreOp
  dsimp only
  split
  · exact .setCtx h
  · exact .preempt h
  · exact h

theorem actTake {a} (h : s.pends pend) : (s.actTake a).pends pend := by
  have h1 : (if a.start then s.ctxStartOp a.ctx else s.ctxPreOp a.ctx).1.pends pend :=
    .iteFst (.ctxStartOp h) (.ctxPreOp h)
  unfold State.actTake
  split
  · next e => exact .of_eq e h1
  · next e =>
    split
    · exact .ite (.finish (.of_eq e h1)) (.of_eq e h1)
    · exact .ite (.count (.of_eq e h1)) (.of_eq e h1)

theorem actsTake {s : State} {fuel} (h : s.pends pend) : (s.actsTake fuel).pends pend := by
  induction fuel generalizing s with
  | zero => exact h
  | succ fuel ih =>
    unfold State.actsTake
    split
    · exact h
    · exact .ite (ih (.actTake (.upd h))) h

theorem settleAll (h : s.pends pend) : s.settleAll.pends pend := .actsTake (.foldl .settle (.sliceTurn h))
theorem ctxIssue {a} (h : s.pends pend) : (s.ctxIssue a).pends pend := .actsTake (.upd h)

theorem parked {c} (h : s.pends pend) : (s.parked c).pends pend :=
  .ite (.settleAll (.countSwitch (.endPreempts (.setCtx (.saveAll (.suspend h)))))) h

theorem sliceOutDone {c} (h : s.pends pend) : (s.sliceOutDone c).pends pend :=
  .ite (.settleAll (.setCtx (.bindsOut (.blocksOut (.copyOut h))))) h

theorem sliceInDone {c} (h : s.pends pend) : (s.sliceInDone c).pends pend := by
  have hfail : ∀ {st status}, (s.startFails c st status).settleAll.pends pend := .settleAll (.startFails h)
  unfold State.sliceInDone
  refine .ite (.ite hfail (.ite hfail ?_)) h
  split
  · exact hfail
  · next s1 e =>
    have h1 : s1.pends pend := blocksIn (.copyIn h) s1 e
    have h2 : (((s1.saveAll c).bindsIn c).count (ctrDev 54)).pends pend := .count (.bindsIn (.saveAll h1))
    exact .ite (.settleAll (.endPreempts (.setCtx (.cancelled (.setCtx h2))))) (.settleAll (.becomeRunning h2))

/-! ### CtxCmds -/

theorem copyReport {c fromImage} (h : s.pends pend) : (s.copyReport c fromImage).pends pend := .ite h (.foldl .uncRead h)
theorem imageAccess {c write} (h : s.pends pend) : (s.imageAccess c write).pends pend := .foldl .access h
theorem headerRead {c a read} (h : s.pends pend) : (s.headerRead c a read).pends pend := .ite (.access (.readVerdict h)) h
theorem resumeQueue {key q gadr} (h : s.pends pend) : (s.resumeQueue key q gadr).pends pend := .setQueue h

theorem catImage {r first count a f} (h : s.pends pend) (hf : ∀ {s}, s.pends pend → (f s).pends pend) :
    (s.catImage r first count a f).pends pend :=
  .ite (.finish h) (.ite (.finish h) (.ite (.finish h) (hf h)))

/-- The copy of a snapshot ends, written. -/
theorem copied {d t n m} (h : s.pends pend) :
    State.pends pend { s with ctr := { s.ctr.afterCopy with sdone := d, ltag := t, scount := n, nSnap := m } } :=
  .upd h

/-- The copy of a snapshot ends, missed. -/
theorem copyMissed {d} (h : s.pends pend) : State.pends pend { s with ctr := { s.ctr.afterCopy with smiss := d } } :=
  .upd h

theorem withReplay {c : Cat} {r} (h : s.pends pend) : State.pends pend { s with cat := c, flt := { s.flt with replay := r } } :=
  .upd h

/-! ### Rings -/

theorem hostWrite {addr f} (h : s.pends pend) (hf : ∀ {s}, s.pends pend → (f s).pends pend) :
    (s.hostWrite addr f).pends pend :=
  .ite (.hostFault h) (hf h)

theorem subDoorbell {q v us} (h : s.pends pend) : (s.subDoorbell q v us).pends pend :=
  .hostWrite h fun h1 => .ite (.hostFault h1) (.setSub h1)

theorem withCmd {c : CmdIf} (h : s.pends pend) : State.pends pend { s with cmd := c } := .upd h

theorem rcpDoorbell {r v} (h : s.pends pend) : (s.rcpDoorbell r v).pends pend :=
  .hostWrite h fun h1 => .ite (.hostFault h1) (.withCmd (.lostEvents (.setRcp h1)))

theorem subEnable {q en} (h : s.pends pend) : (s.subEnable q en).pends pend := .ite (.upd (.setSub h)) (.setSub h)

theorem rcpEnable {r en} (h : s.pends pend) : (s.rcpEnable r en).pends pend :=
  .ite (.upd (.lostEvents (.setRcp h))) (.setRcp h)

theorem startCmd {r} (h : s.pends pend) : (s.startCmd r).pends pend := .upd (.setRcp h)
theorem dropDirect (h : s.pends pend) : s.dropDirect.pends pend := .count (.upd h)

theorem directWrite {v} (h : s.pends pend) : (s.directWrite v).pends pend :=
  .hostWrite h fun h1 => .ite (.hostFault h1) (.ite (.dropDirect h1) (.ite (.dropDirect h1) (.startCmd h1)))

theorem stall {q rcpt} (h : s.pends pend) : (s.stall q rcpt).pends pend := .ite (.count (.upd h)) (.upd h)
theorem fetched {q} (h : s.pends pend) : (s.fetched q).pends pend := .count (.upd (.setSub (.foldl .setSub h)))
theorem answerSlot {q l rr status} (h : s.pends pend) : (s.answerSlot q l rr status).pends pend := .receipt h
theorem numbered {q l} (h : s.pends pend) : (s.numbered q l).pends pend := .setSub h

theorem fetchError {q header l rr} (h : s.pends pend) : (s.fetchError q header l rr).pends pend :=
  .log (.setSub (.ite h (.ite (.answerSlot (.fetched h)) (.answerSlot (.numbered (.fetched h))))))

theorem takeSlotCmd {q us l rr params} (h : s.pends pend) : (s.takeSlotCmd q us l rr params).pends pend := by
  have h1 : (s.fetched q).pends pend := .fetched h
  have h2 : ((s.fetched q).numbered q l).pends pend := .numbered h1
  exact .ite (.answerSlot h1) (.ite (.answerSlot h2) (.ite (.answerSlot h2) (.startCmd h2)))

theorem expire {r} (h : s.pends pend) : (s.expire r).pends pend := by
  have h1 : ∀ {c r'}, (({ (s.count (ctrDev 43)).giveUp r with cmd := c }).putStarted r r').pends pend :=
    .putStarted (.withCmd (.giveUp (.count h)))
  exact .ite (.finish h1) h1

/-! ### Restart -/

theorem clearFieldbooks (h : s.pends pend) : s.clearFieldbooks.pends pend := .upd h

theorem warmNotices (h : s.pends pend) : s.warmNotices.pends pend :=
  .foldl .sendOn (.upd (.closuresFail (.colsFail (.foldl .finish (.upd h)))))

theorem warmUnits (h : s.pends pend) : s.warmUnits.pends pend := .upd h

theorem warmPort {p quiet} (h : s.pends pend) : (s.warmPort p quiet).pends pend := by
  unfold State.warmPort
  extract_lets old v s1
  have h1 : s1.pends pend := .setPort h
  exact .ite (.ite (.subportDown h) h1) (.ite (.retrainFast (.setPort h1)) (.ite (.trainIfEnabled h1) h1))

theorem brgUnlocked {b0} (h : s.pends pend) : State.pends pend { s with brg := { s.brg with
    st := .unlocked, run := false, b0 := b0, due := [], top := false, src := none, foreign := 0 } } := .upd h

theorem warmReset (h : s.pends pend) : s.warmReset.pends pend := by
  unfold State.warmReset
  extract_lets quiet s1 s2 b s3 cmd s4
  have h1 : s1.pends pend := .clearFieldbooks (.warmUnits (.invalidate (.writeBack (.warmNotices h))))
  have h2 : s2.pends pend := .foldl (fun h => .ite (.warmPort h) h) h1
  have h3 : s3.pends pend := .brgUnlocked h2
  have h4 : s4.pends pend := .fatal (.withCmd h3)
  exact .ite (.drainDevice h4) h4

theorem requestWarm (h : s.pends pend) : s.requestWarm.pends pend := .ite (.upd h) (.warmReset h)

/-! ### Power -/

theorem oppRequest {point stakeout} (h : s.pends pend) : (s.oppRequest point stakeout).pends pend := .upd h

theorem oppSwitchNow {target} (h : s.pends pend) : (s.oppSwitchNow target).pends pend := .count (.upd h)

theorem withThrLog {l b} (h : s.pends pend) : State.pends pend { s with pwr := { s.pwr with log := l, logged := b } } := .upd h
theorem thrPut {e isOpen} (h : s.pends pend) : (s.thrPut e isOpen).pends pend := .withThrLog h
theorem episodeBegin {r} (h : s.pends pend) : (s.episodeBegin r).pends pend := .count (.thrPut (.upd h))
theorem episodes (h : s.pends pend) : s.episodes.pends pend := .foldl .episodeBegin (.foldl .thrPut (.upd h))

theorem powerCounts {measured bins} (h : s.pends pend) : (s.powerCounts measured bins).pends pend :=
  .ite (.count (.foldl .count h)) (.foldl .count h)

theorem tripQueue {key q} (h : s.pends pend) : (s.tripQueue key q).pends pend := .ite (.failQueue (.setEng h)) (.setEng h)
theorem tripBindery {h'} (h : s.pends pend) : (s.tripBindery h').pends pend := .foldl .bndEnd (.bndAbort h)

theorem withTrip {m : Module} {b : Bool} (h : s.pends pend) :
    State.pends pend { s with pwr := { s.pwr with tripped := b }, mod := m } :=
  .upd h

theorem trip (h : s.pends pend) : s.trip.pends pend := by
  unfold State.trip
  extract_lets keys s1 s2
  have h1 : s1.pends pend := .foldl (fun h => .foldl .tripQueue h) (.orphanRequests h)
  have h2 : s2.pends pend := .foldl .tripBindery h1
  exact .drainDevice (.log (.withTrip h2))

theorem fillerFire {k rev} (h : s.pends pend) : (s.fillerFire k rev).1.pends pend := by
  unfold State.fillerFire
  split
  · exact h
  · exact .upd h

/-! ### Stakeouts -/

theorem runSet {t} (h : s.pends pend) : (s.runSet t).pends pend := .ite h (.ite (.runStart h) (.upd (.timeAt h)))

theorem roleChange (h : s.pends pend) : s.roleChange.pends pend := .upd h

theorem tpvClear (h : s.pends pend) : s.tpvClear.pends pend :=
  .ite (.upd h) (.upd h)

theorem datumRuns (h : s.pends pend) : s.datumRuns.pends pend := .ite (.runStart h) h

theorem stakeoutCommit {n w3} (h : s.pends pend) : (s.stakeoutCommit n w3).pends pend := .upd h

theorem stakeoutBar0 {n w3} (h : s.pends pend) : (s.stakeoutBar0 n w3).pends pend := .upd (.stakeoutCommit h)

theorem fires {n t action f} (h : s.pends pend) (hf : ∀ {x s}, s.pends pend → (f x s).pends pend) :
    (s.fires n t action f).pends pend := by
  unfold State.fires
  extract_lets s1
  have h1 : s1.pends pend := .timeAt h
  split
  · exact .ite (hf (.upd h1)) h1
  · exact h1

theorem brgNop (h : s.pends pend) : s.brgNop.pends pend := .count h

theorem unlessD3 {f} (h : s.pends pend) (hf : ∀ {s}, s.pends pend → (f s).pends pend) : (s.unlessD3 f).pends pend :=
  .ite (.brgNop h) (hf h)

theorem unlessDrained {f} (h : s.pends pend) (hf : ∀ {s}, s.pends pend → (f s).pends pend) : (s.unlessDrained f).pends pend :=
  .ite (.brgNop h) (hf h)

theorem setStakeAction {ctx w} (h : s.pends pend) : (s.setStakeAction ctx w).pends pend := by
  unfold State.setStakeAction
  split
  · exact .ite (.stakeOpAny h) (.brgNop h)
  · exact .brgNop h

/-! ### HostCmds -/

theorem shelfBegins {x} (h : s.pends pend) : (s.shelfBegins x).pends pend := .setShelf h
theorem bndResume {h' c skip} (h : s.pends pend) : (s.bndResume h' c skip).pends pend := .ite (.setBindery h) h

theorem joinMembers {handle home order members r} (h : s.pends pend) :
    (s.joinMembers handle home order members r).pends pend :=
  .foldl (fun h1 => .ite h1 (.useFree (.fwmsg h1))) h

theorem awaitMacks {r send} (h : s.pends pend) (hsend : ∀ {s}, s.pends pend → (send s).pends pend) :
    (s.awaitMacks r send).pends pend :=
  .fwAnswered (hsend (.begin h))

theorem clearClosureBits {c cid} (h : s.pends pend) : (s.clearClosureBits c cid).pends pend := .upd h

theorem setupClosure {cid ctx parent limit child units} (h : s.pends pend) :
    (s.setupClosure cid ctx parent limit child units).pends pend := by
  unfold State.setupClosure
  extract_lets s1 idle c
  have h1 : s1.pends pend := .foldl (fun h => .onSaved h .clearClosureBits) h
  have h2 : (s1.setClosure cid c).pends pend := .setClosure h1
  exact .onSaved h2 fun h => .foldl .setCbit h

/-! ### Resets -/

theorem cold {held} (h : s.pends pend) : (s.cold held).pends pend := h

theorem bootFault {code} (h : s.pends pend) : (s.bootFault code).pends pend := .log h
theorem holdUnit {code} (h : s.pends pend) : (s.holdUnit code).pends pend := .setSvc h

theorem bootTables {b} (h : s.pends pend) : (s.bootTables b).pends pend := by
  unfold State.bootTables
  extract_lets s1 s2
  have h1 : s1.pends pend := .foldl (fun h => .spareSwap (.bootFault h)) h
  have h2 : s2.pends pend := .foldl (fun h => .holdUnit (.bootFault h)) h1
  exact .foldl (fun h => .holdUnit (.bootFault h)) h2

theorem firmwareRuns {cls} (h : s.pends pend) : (s.firmwareRuns cls).pends pend := .ite (.upd h) h

theorem bootImage {b cls} (h : s.pends pend) : (s.bootImage b cls).pends pend := by
  unfold State.bootImage
  extract_lets x s1
  have h1 : s1.pends pend := .foldl .holdUnit (.bootFault h)
  exact .ite (.firmwareRuns h) (.ite (.firmwareRuns (.upd h)) (.ite (.upd h1) h1))

theorem bootNext (h : s.pends pend) : s.bootNext.pends pend := .upd (.useFree h)
theorem standbyLost (h : s.pends pend) : s.standbyLost.pends pend := .fatal (.upd h)

theorem napCtx {c} (h : s.pends pend) : (s.napCtx c).pends pend := by
  unfold State.napCtx
  extract_lets v s1
  have h1 : s1.pends pend := .ite (.setCtx h) (.preempt h)
  exact .ite (.sliceOut h1) h1

theorem wakeCtx {c} (h : s.pends pend) : (s.wakeCtx c).pends pend := .ite (.setCtx h) (.ctxIssue h)

theorem wakePort {p} (h : s.pends pend) : (s.wakePort p).pends pend := by
  unfold State.wakePort
  extract_lets s1
  have h1 : s1.pends pend := .ite (.subportDown h) h
  exact .ite (.detect (.setPort h1)) h1

theorem flushLate (h : s.pends pend) : s.flushLate.pends pend := .foldl .putReceipt (.upd h)

theorem toD0 (h : s.pends pend) : s.toD0.pends pend := by
  unfold State.toD0
  extract_lets m s1 gone s2 s3
  have h1 : s1.pends pend := .upd h
  have h2 : s2.pends pend := .ite (.clearFieldbooks h1) h1
  have h3 : s3.pends pend := .ite (.foldl (fun h => .ite (.wakePort h) h) h2) (.foldl .wakeCtx h2)
  exact .ite h (.lostEvents (.flushLate (.settleAll h3)))

theorem hostReset (h : s.pends pend) : s.hostReset.pends pend := .upd (.toD0 (.upd h))

theorem refLink {present} (h : s.pends pend) : (s.refLink present).pends pend :=
  .foldl (fun h1 => .ite h1 (.ite (.subportQuiesce h1) (.ite (.trainIfEnabled (.ite (.subportDown h1) h1)) h1))) h

theorem smbus {bs} (h : s.pends pend) : (s.smbus bs).pends pend := .ite (.answer h) h

/-! ### Service -/

theorem quiesceOnce {r} (h : s.pends pend) : (s.quiesceOnce r).pends pend := .ite (.quiesceBegin h) h

theorem resetByCommand {r u} (h : s.pends pend) : (s.resetByCommand r u).pends pend :=
  .ite (.unitReset h) (.finish (.unitReset h))

theorem advanceArb {cls} (h : s.pends pend) : (s.advanceArb cls).pends pend := by
  unfold State.advanceArb
  split
  · exact .upd h
  · exact h

theorem activated {r} (h : s.pends pend) : (s.activated r).pends pend := .ite (.finish (.upd h)) (.finish (.advanceArb h))

theorem activateUnit {r u} (h : s.pends pend) : (s.activateUnit r u).pends pend := by
  unfold State.activateUnit
  extract_lets renew
  have hrenew : ∀ {s}, s.pends pend → (renew s).pends pend := fun h =>
    .ite (.unitResume (.unitReset h)) (.log (.unitResume (.unitReset h)))
  exact .ite (hrenew (.activated h)) (.activated (hrenew h))

theorem quiesceEnds {u} (h : s.pends pend) : (s.quiesceEnds u).pends pend :=
  .foldl (fun h1 => by
    split
    · exact .finish h1
    · exact .resetByCommand h1
    · exact .activateUnit h1
    · exact h1) (.quiesceEnd h)

theorem quiesceDrops {u} (h : s.pends pend) : (s.quiesceDrops u).pends pend := by
  unfold State.quiesceDrops
  split
  · exact .foldl (fun h1 => .tripQueue (.tripQueue h1)) h
  · exact .foldl (fun h1 => .ite (.subportDown h1) h1) h
  · exact .foldl .finish h
  · exact .dropRequests h

theorem watchdog {code reset} (h : s.pends pend) (hreset : ∀ {s}, s.pends pend → (reset s).pends pend) :
    (s.watchdog code reset).pends pend :=
  .log (.fatal (.count (.ite (.requestWarm (.upd h)) (hreset (.upd h)))))

theorem openDebug (h : s.pends pend) : s.openDebug.pends pend := .upd h

theorem activate {r cls i u fails} (h : s.pends pend) : (s.activate r cls i u fails).pends pend := by
  unfold State.activate
  dsimp only
  split
  · exact .finish (.advanceArb (.upd h))
  · exact .ite (.activateUnit (.putStarted (.upd h))) (.quiesceOnce (.begin (.putStarted (.upd h))))

theorem spdmError (h : s.pends pend) : s.spdmError.pends pend := .answer h

/-! ### Regs -/

theorem writeSqctl {q v} (h : s.pends pend) : (s.writeSqctl q v).pends pend := .subEnable (.setSub h)
theorem writeRqctl {q v} (h : s.pends pend) : (s.writeRqctl q v).pends pend := .signalRing (.rcpEnable (.setRcp h))
theorem writeEvcfg {v} (h : s.pends pend) : (s.writeEvcfg v).pends pend := .lostEvents (.upd h)

theorem writeDcfg {v} (h : s.pends pend) : (s.writeDcfg v).pends pend := by
  unfold State.writeDcfg
  extract_lets b m s1 s2
  have h1 : s1.pends pend := .upd h
  have h2 : s2.pends pend := .ite (.roleChange h1) h1
  exact .ite (.runSet (.ite (.datumRuns h2) h2)) (.ite (.runStop h2) h2)

theorem writeTree {v} (h : s.pends pend) : (s.writeTree v).pends pend := .ite (.tpvClear (.upd h)) (.upd (.upd h))
theorem writeStk {n k v} (h : s.pends pend) : (s.writeStk n k v).pends pend := .ite (.upd h) (.stakeoutBar0 h)

theorem writeWlim {k v} (h : s.pends pend) : (s.writeWlim k v).pends pend := by
  unfold State.writeWlim
  dsimp only
  split
  · exact .upd h
  · exact h

theorem writeWlong {v} (h : s.pends pend) : (s.writeWlong v).pends pend := by
  unfold State.writeWlong
  split
  · exact .upd h
  · exact h

theorem writePctl {n v} (h : s.pends pend) : (s.writePctl n v).pends pend := by
  unfold State.writePctl
  extract_lets c w sp down s1 s2
  have h2 : s2.pends pend := .setPctl (.ite h (.foldl (fun h => .ite h (.subportDown h)) h))
  exact .ite (.portDisable h2) (.ite (.foldl .trainIfEnabled h2) h2)

theorem writeStation {v} (h : s.pends pend) : (s.writeStation v).pends pend := .upd h

theorem writeDomain {v} (h : s.pends pend) : (s.writeDomain v).pends pend := .upd h

theorem writeB2win {n v} (h : s.pends pend) : (s.writeB2win n v).pends pend := .upd h
theorem writeCatArea {c v} (h : s.pends pend) : (s.writeCatArea c v).pends pend := .setArea h
theorem writeFpctl {n v} (h : s.pends pend) : (s.writeFpctl n v).pends pend := .setFp h

theorem updShown {u f} (h : s.pends pend) : (s.updShown u f).pends pend := by
  unfold State.updShown
  split
  · exact .onSaved h .setSync
  · exact h

theorem writeReg1 {r v} (h : s.pends pend) : (s.writeReg1 r v).pends pend := by
  unfold State.writeReg1
  split
  · exact .upd h
  · exact .ite h (.setSub h)
  · exact .ite h (.setRcp h)
  · exact .ite h (.setSub h)
  · exact .writeSqctl h
  · exact .writeRqctl h
  · exact .writeEvcfg h
  · exact .upd h
  · exact .upd h
  · exact .upd h
  · exact .upd h
  · exact .upd h
  · exact .upd h
  · exact .upd h
  · exact .upd h
  · exact .writeWlim h
  · exact .writeWlong h
  · exact .upd h
  · exact .upd h
  · exact h

theorem writeReg2 {r v} (h : s.pends pend) : (s.writeReg2 r v).pends pend := by
  unfold State.writeReg2
  split
  · exact .writeDcfg h
  · exact .writeTree h
  · exact .upd h
  · exact .upd h
  · exact .upd h
  · exact .upd h
  · exact .writeStk h
  · exact .setStack h
  · exact .upd h
  · exact .writeDomain h
  · exact .upd h
  · exact .upd h
  · exact .upd h
  · exact .writeCatArea h
  · exact .writeB2win h
  · exact .writeFpctl h
  · exact .setFp h
  · exact .setFp h
  · exact .writePctl h
  · exact .writeStation h
  · exact .upd h
  · exact .upd h
  · exact .routeLoad h
  · exact .routeLoad h
  · exact .updShown h
  · exact .updShown h
  · exact .upd h
  · exact .upd h
  · exact h

theorem writeReg {r v} (h : s.pends pend) : (s.writeReg r v).pends pend := .writeReg2 (.writeReg1 h)

theorem writePart {r part v} (h : s.pends pend) : (s.writePart r part v).pends pend := by
  unfold State.writePart
  split
  · exact .writeReg h
  · exact .writeReg h
  · exact .writeReg h
  · exact .writeReg h

theorem wakeRegs {rs} (h : s.pends pend) : (s.wakeRegs rs).pends pend := .upd h

theorem bar0Write {off size v} (h : s.pends pend) : (s.bar0Write off size v).pends pend := by
  unfold State.bar0Write
  split
  · exact .hostFault h
  · split
    · exact .hostFault h
    · split
      · exact .writePart (.wakeRegs h)
      · exact .foldl .writePart (.wakeRegs h)

theorem bar0Read {off size} (h : s.pends pend) : (s.bar0Read off size).pends pend := by
  unfold State.bar0Read
  dsimp only
  split
  · exact .answer (.hostFault h)
  · split
    · exact .answer (.hostFault h)
    · split
      · exact .answer (.useFree (.wakeRegs h))
      · exact .answer (.useFree (.wakeRegs h))

theorem msixWrite {i v} (h : s.pends pend) : (s.msixWrite i v).pends pend :=
  .ite h (.ite (.signal (.upd (.upd h))) (.upd h))

theorem bar4Write {off size v} (h : s.pends pend) : (s.bar4Write off size v).pends pend := by
  unfold State.bar4Write
  dsimp only
  split
  · exact .ite (.foldl .msixWrite h) (.hostFault h)
  · exact .ite (.subDoorbell h) (.ite (.rcpDoorbell h) (.ite (.directWrite h) (.hostFault h)))

theorem bar4Read {off size} (h : s.pends pend) : (s.bar4Read off size).pends pend := by
  unfold State.bar4Read
  split
  · exact .ite (.answer h) (.answer (.hostFault h))
  · exact .answer (.ite h (.hostFault h))

end State.pends

namespace NextPends

variable {s t : State} {pend : List Instr}

/-! ### Matrix -/

theorem mdeclSourceValid {p} (h : s.pends pend) : NextPends pend (execMdeclSourceValid p s) := by
  unfold execMdeclSourceValid
  split
  · exact .next (.mRetry h)
  · exact .next h

theorem mdeclDatumExpiry {p} (h : s.pends pend) : NextPends pend (execMdeclDatumExpiry p s) := by
  unfold execMdeclDatumExpiry
  split
  · split
    · split
      · exact .next (.endEntry (.count h))
      · exact .next (.mFeed (.mSettle h (.mdecl h)))
    · exact .next h
  · exact .next h

theorem maccStep {p} (h : s.pends pend) : NextPends pend (execMaccStep p s) := by
  unfold execMaccStep
  split
  · split
    · exact .next (.maccStep h)
    · exact .next h
  · exact .next h

theorem segmentDrainEnd {p seg} (h : s.pends pend) : NextPends pend (execSegmentDrainEnd p seg s) := by
  unfold execSegmentDrainEnd
  split
  · exact .next (.drainEnd h)
  · exact .next h

theorem mfinStagingFree {p} (h : s.pends pend) : NextPends pend (execMfinStagingFree p s) := by
  unfold execMfinStagingFree
  split
  · exact .next (.mRetry h)
  · exact .next h

theorem mfinStagingExpiry {p} (h : s.pends pend) : NextPends pend (execMfinStagingExpiry p s) := by
  unfold execMfinStagingExpiry
  split
  · split
    · split
      · exact .ite (.next (.endEntry (.log (.count h)))) (.next h)
      · exact .next (.mFeed (.mSettle h (.mfin h)))
    · exact .next h
  · exact .next h

/-! ### Vector -/

theorem vGroup {p} (h : s.pends pend) : NextPends pend (execVGroup p s) := by
  unfold execVGroup
  split
  · split
    · exact .next (.vGroup h)
    · exact .next h
  · exact .next h

/-! ### SyncCmds -/

theorem stakeWaitExpiry {u q} (h : s.pends pend) : NextPends pend (execStakeWaitExpiry u q s) := by
  unfold execStakeWaitExpiry
  split
  · exact .next (.stakeExpiry h)
  · exact .next (.foldl (fun h1 => .onSaved h1 .stakeExpiry) h)

theorem fenceComplete {u q} (h : s.pends pend) : NextPends pend (execFenceComplete u q s) := by
  unfold execFenceComplete
  split
  · exact .next (.fenceDone h)
  · exact .next h

theorem carr {u q e} (h : s.pends pend) : NextPends pend (execCarr u q e s) := by
  unfold execCarr
  split
  · exact .next (.refuse h)
  · exact .next (.syncIssue h .carr)

theorem queueFetchFault {u q} (h : s.pends pend) : NextPends pend (execQueueFetchFault u q s) := by
  unfold execQueueFetchFault
  split
  · exact .next h
  · exact .ite (.next (.fetchFault h)) (.ite (.next (.fetchFault (.fbUnc h))) (.next h))

/-! ### Archive -/

theorem archiveSliceServe {c} (h : s.pends pend) : NextPends pend (execArchiveSliceServe c s) := by
  refine .next (.ageSlice (.serveOne (.serveOne ?_)))
  split
  · exact .ite (.readVerdict (.askWaiting h)) (.askWaiting h)
  · exact .askWaiting h

theorem archiveRequestComplete {n} (h : s.pends pend) : NextPends pend (execArchiveRequestComplete n s) := by
  unfold execArchiveRequestComplete
  split
  · exact .next (.requestDone h)
  · exact .next h

theorem archiveT1Expiry {p} (h : s.pends pend) : NextPends pend (execArchiveT1Expiry p s) := by
  unfold execArchiveT1Expiry
  split
  · split
    · exact .next (.t1Expiry h)
    · exact .next h
  · exact .next h

theorem fieldbookScrub {p granule r} (h : s.pends pend) : NextPends pend (execFieldbookScrub p granule r s) := by
  unfold execFieldbookScrub
  split
  · exact .next h
  · split
    · exact .next h
    · exact .next (.scrubCorrect h)
    · exact .next (.fbUnc (.lose h))

theorem archivePatrolScrub {n line r} (h : s.pends pend) :
    NextPends pend (execArchivePatrolScrub n line r s) := by
  unfold execArchivePatrolScrub
  extract_lets a held s1
  have h1 : s1.pends pend := .countAll h
  refine .ite (.next h) ?_
  split
  · exact .next (.ite (.log h1) h1)
  · exact .next (.count h1)
  · exact .next (.scrubLost h1)

theorem bar2Read {off len} (h : s.pends pend) : NextPends pend (execBar2Read off len s) := by
  unfold execBar2Read
  split
  · exact .next (.answer (.hostFault h))
  · exact .ite (.next (.answer h)) (.ite (.next (.answer (.lineUnc h))) (.next (.answer (.access h))))

theorem bar2Write {off bytes} (h : s.pends pend) : NextPends pend (execBar2Write off bytes s) := by
  unfold execBar2Write
  split
  · exact .next (.hostFault h)
  · exact .ite (.next h) (.next (.access (.write h)))

theorem shelfModeChangeDone {shelf} (h : s.pends pend) : NextPends pend (execShelfModeChangeDone shelf s) := by
  unfold execShelfModeChangeDone
  dsimp only
  split
  · exact .ite (.next h) (.next (.partitionCheck (.shelfNext (.shelfTakes h))))
  · exact .next h

/-! ### Bindery -/

theorem hbmTempReading {h' temp} (h : s.pends pend) : NextPends pend (execHbmTempReading h' temp s) :=
  .ite (.next h) (.ite (.next (.bndStop (.log (.count (.setStack h))))) (.next (.setStack h)))

theorem hbmPatrolRead {line r row day} (h : s.pends pend) :
    NextPends pend (execHbmPatrolRead line r row day s) := by
  unfold execHbmPatrolRead
  dsimp only
  split
  · exact .next h
  · split
    · exact .next (.count h)
    · exact .next (.setStack (.count (.count h)))
    · exact .next (.log (.count (.patrolLoses (.setStack (.count h)))))

theorem binderyWaitExpiry {h'} (h : s.pends pend) : NextPends pend (execBinderyWaitExpiry h' s) := by
  unfold execBinderyWaitExpiry
  split
  · exact .next h
  · split
    · exact .ite (.next (.bndEnd (.bndUnregister (.count h)))) (.next (.upd h))
    · exact .next (.bndUnregister h)

theorem bEnd {h'} (h : s.pends pend) : NextPends pend (execBEnd h' s) := by
  unfold execBEnd
  split
  · exact .next h
  · dsimp only
    split
    · exact .next (.bndAdvance (.bndClose h))
    · exact .ite (.next (.bndAdvance (.bndClose h))) (.next (.endedCheck (.setBindery (.bndClose h))))

theorem bJmp {h'} (h : s.pends pend) : NextPends pend (execBJmp h' s) := by
  unfold execBJmp
  split
  · exact .next h
  · dsimp only
    split
    · exact .next (.bndAdvance (.bndClose h))
    · exact .ite (.next (.bndAdvance (.bndClose h))) (.next (.setBindery (.bndClose h)))

theorem binderyDescriptorDone {h'} (h : s.pends pend) : NextPends pend (execBinderyDescriptorDone h' s) := by
  unfold execBinderyDescriptorDone
  split
  · exact .ite (.next (.bndEnd h)) (.next h)
  · exact .next h

/-! ### Links -/

theorem frameSend {p t} (h : s.pends pend) : NextPends pend (execFrameSend p t s) := by
  unfold execFrameSend
  extract_lets s1 v
  have h1 : s1.pends pend := .timeAt h
  exact .ite (.next h1) (.ite (.next (.sendFrame h1)) (.ite (.next (.sendTraining h1)) (.next h1)))

theorem frameReceive {p t fec bytes} (h : s.pends pend) : NextPends pend (execFrameReceive p t fec bytes s) := by
  unfold execFrameReceive
  dsimp only
  split
  · exact .next h
  · split
    · exact .next (.count (.setPort (.fecCount (.timeAt h))))
    · split
      · exact .next (.takeFrame (.fecCount (.timeAt h)))
      · exact .next (.setPort (.fecCount (.timeAt h)))
      · exact .next (.malformedAt (.fecCount (.timeAt h)))

theorem trainingFrameReceive {p t fec bytes} (h : s.pends pend) :
    NextPends pend (execTrainingFrameReceive p t fec bytes s) := by
  unfold execTrainingFrameReceive
  extract_lets s1 v broken ftype ts s2
  have h1 : ∀ {v}, (s1.setPort p.val v).pends pend := .setPort (.fecCount (.timeAt h))
  refine .ite (.next h) (.ite (.next (.count h1)) (.ite (.next h1) (.ite (.next (.malformedAt h1)) ?_)))
  exact .ite (.next (.takeAlign h1)) (.ite (.next (.takeDelay h1)) (.ite (.next h1) (.next (.takeExchange h1))))

theorem laneSignalChange {p lanes} (h : s.pends pend) : NextPends pend (execLaneSignalChange p lanes s) := by
  unfold execLaneSignalChange
  extract_lets n old s1 v
  have h1 : s1.pends pend := .setPort h
  refine .ite (.next h) (.ite (.next (.detect h1)) (.ite (.next h1) ?_))
  exact .ite (.next (.linkLost h1)) (.ite (.next (.trainingFails h1)) (.next h1))

/-! ### Packets -/

theorem stentry {k} (h : s.pends pend) : NextPends pend (execStentry k s) := by
  have h1 : (s.take k).pends pend := .take h
  refine .ite (.next h) (.ite (.next (.reject h1)) (.ite (.next (.malformed h1)) ?_))
  exact .ite (.next h1) (.next (.tractEntry h1))

theorem stjoin {k} (h : s.pends pend) : NextPends pend (execStjoin k s) :=
  .next (.onFw h fun h1 => by
    dsimp only
    exact .iteFst h1 (.upd h1))

theorem fwmsgRetryExpiry {mseq} (h : s.pends pend) : NextPends pend (execFwmsgRetryExpiry mseq s) := by
  unfold execFwmsgRetryExpiry
  split
  · exact .next h
  · exact .ite (.next (.sendOn (.upd h))) (.next (.messageEnds h))

/-! ### Collectives -/

theorem colOpen {h' r schild} (h : s.pends pend) : NextPends pend (execColOpen h' r schild s) :=
  .next (.command h fun h1 => by
  split
  · exact .finish (.ite (.planUnc h1) h1)
  · exact .begin (.setCol (.planRead h1)))

theorem colClose {h' handle} (h : s.pends pend) : NextPends pend (execColClose h' handle s) :=
  .next (.command h fun h1 => by
  split
  · exact .finish h1
  · exact .ite (.finish h1) (.ite (.finish h1) (.finish (.upd (.dropTiles h1)))))

theorem colArm {handle} (h : s.pends pend) : NextPends pend (execColArm handle s) := by
  unfold execColArm
  split
  · exact .next h
  · exact .ite (.next (.prepare (.setCol (.consumeRef h)))) (.next h)

theorem colStart {handle} (h : s.pends pend) : NextPends pend (execColStart handle s) := by
  unfold execColStart
  split
  · exact .next h
  · exact .ite (.next (.runBegin (.setCol (.consumeRef h)))) (.next h)

theorem colTileAccept {handle} (h : s.pends pend) : NextPends pend (execColTileAccept handle s) := by
  unfold execColTileAccept
  split
  · exact .next h
  · exact .ite (.next (.colPlanned h fun h1 => .ite (.takeStaged h1) (.takeSrc h1))) (.next h)

theorem permScratchCopy {handle} (h : s.pends pend) : NextPends pend (execPermScratchCopy handle s) := by
  unfold execPermScratchCopy
  split
  · exact .next h
  · exact .ite (.next (.colGuard h fun h1 => .updRun (.foldl .write h1))) (.next h)

theorem colRunComplete {handle waitns} (h : s.pends pend) :
    NextPends pend (execColRunComplete handle waitns s) := by
  unfold execColRunComplete
  split
  · exact .next h
  · exact .ite (.next (.colComplete h)) (.next h)

theorem colT3Expiry {handle} (h : s.pends pend) : NextPends pend (execColT3Expiry handle s) := by
  unfold execColT3Expiry
  split
  · exact .next h
  · exact .ite (.next h) (.ite (.next (.colComplete h)) (.next (.colFailOwn (.log (.count h)))))

/-! ### Counters -/

theorem counterDeltaMove {k n} (h : s.pends pend) : NextPends pend (execCounterDeltaMove k n s) :=
  .ite (.next (.upd h)) (.next h)

theorem snapshotCopyDone (h : s.pends pend) : NextPends pend (execSnapshotCopyDone s) := by
  unfold execSnapshotCopyDone
  split
  · exact .next h
  · refine .ite ?_ ?_
    · exact .next (.finishAll (.copied (.access (.snapWrite h))))
    · exact .next (.finishAll (.count (.copyMissed h)))

theorem snapshot {h' tag} (h : s.pends pend) : NextPends pend (execSnapshot h' tag s) :=
  .next (.command h fun h1 => .ite (.finish h1) (by
    split
    · exact .begin (.of_eq ‹_› (.snapRequest h1))
    · exact .finish (.of_eq ‹_› (.snapRequest h1))))

/-! ### CtxCmds -/

theorem ctxLoad {h' c addr read} (h : s.pends pend) : NextPends pend (execCtxLoad h' c addr read s) :=
  .next (.command h fun h1 => .ite (.finish h1) (by
    dsimp only
    split
    · exact .finish (.ite (.lineUnc (.headerRead h1)) (.headerRead h1))
    · exact .finish (.initStakes (.setCtx (.purge (.headerRead h1))))))

theorem ctxUnload {h' c} (h : s.pends pend) : NextPends pend (execCtxUnload h' c s) :=
  .next (.command h fun h1 => .ite (.finish h1) (by
    split
    · exact .finish h1
    · exact .finish (.setCtx (.purge h1))
    · exact .settleAll (.finish (.setCtx (.purge h1)))
    · exact .finish h1))

theorem queueResume {h' path q c gadr} (h : s.pends pend) : NextPends pend (execQueueResume h' path q c gadr s) :=
  .next (.command h fun h1 => .ite (.finish h1) (by
    split
    · exact .finish h1
    · exact .ite (.finish h1) (.ite (.finish h1) (.finish (.onSaved h1 .resumeQueue)))))

theorem catSave {h' first count addr} (h : s.pends pend) : NextPends pend (execCatSave h' first count addr s) :=
  .next (.command h fun h1 => .catImage h1 fun h2 => .finish (.access (.captureWrite (.storeCat h2))))

theorem catLoad {h' first count addr} (h : s.pends pend) : NextPends pend (execCatLoad h' first count addr s) := by
  refine .next (.command h fun h1 => .catImage h1 fun h2 => .ite (.finish (.uncRead h2)) ?_)
  exact .ite (.finish h2) (.finish (.catCommand (.access h2)))

theorem catSeedRequest {c} (h : s.pends pend) : NextPends pend (execCatSeedRequest c s) := by
  unfold execCatSeedRequest
  dsimp only
  split
  · exact .next (.checkArea h)
  · exact .ite (.next (.upd (.takeStake (.checkArea h)))) (.next (.seedRequest (.takeStake (.checkArea h))))

/-! ### Rings -/

theorem commandFetch {q us error slot params} (h : s.pends pend) :
    NextPends pend (execCommandFetch q us error slot params s) := by
  refine .ite (.next h) (.ite (.next (.fetchError h)) (.ite (.next (.stall h)) (.ite (.next (.stall h)) ?_)))
  exact .ite (.next (.fetchError h)) (.next (.takeSlotCmd h))

theorem commandT4Expiry {h'} (h : s.pends pend) : NextPends pend (execCommandT4Expiry h' s) := by
  unfold execCommandT4Expiry
  split
  · exact .next (.expire h)
  · exact .next h

/-! ### Power -/

theorem oppSwitch (h : s.pends pend) : NextPends pend (execOppSwitch s) := by
  unfold execOppSwitch
  split
  · exact .ite (.ite (.next h) (.next (.count (.upd h)))) (.next (.oppSwitchNow h))
  · exact .next h

theorem oppVoltageRampDone (h : s.pends pend) : NextPends pend (execOppVoltageRampDone s) := by
  unfold execOppVoltageRampDone
  split
  · exact .next (.upd h)
  · exact .next h

theorem droopEventEnd (h : s.pends pend) : NextPends pend (execDroopEventEnd s) := by
  unfold execDroopEventEnd
  split
  · exact .next h
  · dsimp only
    split
    · exact .next (.oppSwitchNow (.upd h))
    · exact .next (.upd h)

theorem powerUpdate {t watts measured milliamps bins} (h : s.pends pend) :
    NextPends pend (execPowerUpdate t watts measured milliamps bins s) := by
  unfold execPowerUpdate
  extract_lets s1 p s2
  have h1 : s1.pends pend := .timeAt h
  have h2 : s2.pends pend := .upd h1
  exact .next (.episodes (.powerCounts h2))

theorem thermalReading {tmax} (h : s.pends pend) : NextPends pend (execThermalReading tmax s) := by
  unfold execThermalReading
  extract_lets t p p1 s1
  have h1 : s1.pends pend := .upd h
  exact .ite (.next (.trip h1)) (.ite (.next (.warmReset h1)) (.next h1))

theorem tceilUpdate (h : s.pends pend) : NextPends pend (execTceilUpdate s) := .next (.upd h)

theorem fillerRelease {t} (h : s.pends pend) : NextPends pend (execFillerRelease t s) := by
  unfold execFillerRelease
  dsimp only
  split
  · exact .ite (.next (.upd (.timeAt h))) (.next (.timeAt h))
  · exact .next (.timeAt h)

theorem powerCap {h' watts} (h : s.pends pend) : NextPends pend (execPowerCap h' watts s) :=
  .next (.command h fun h1 => by
    split
    · exact .finish h1
    · exact .finish (.upd h1))

theorem oppoint {h' point} (h : s.pends pend) : NextPends pend (execOppoint h' point s) :=
  .next (.command h fun h1 => by
    split
    · exact .finish h1
    · exact .finish (.oppRequest h1))

/-! ### Stakeouts -/

theorem bearingLost {t} (h : s.pends pend) : NextPends pend (execBearingLost t s) :=
  .ite (.next (.log (.upd (.timeAt h)))) (.next (.timeAt h))

theorem snap {n t} (h : s.pends pend) : NextPends pend (execSnap n t s) :=
  .next (.fires h fun h1 => by
    split
    · exact .of_eq ‹_› (.snapRequest h1)
    · exact .brgNop (.of_eq ‹_› (.snapRequest h1)))

theorem oppointAction {n t} (h : s.pends pend) : NextPends pend (execOppointAction n t s) :=
  .next (.fires h fun h1 => .unlessD3 h1 fun h2 => .unlessDrained h2 .oppRequest)

theorem filler {n t} (h : s.pends pend) : NextPends pend (execFiller n t s) :=
  .next (.fires h fun h1 => .unlessD3 h1 fun h2 => .unlessDrained h2 fun h3 => by
    split
    · exact .of_eq ‹_› (.fillerFire h3)
    · exact .brgNop (.of_eq ‹_› (.fillerFire h3)))

/-! ### HostCmds -/

theorem shelfPartition {h' shelves} (h : s.pends pend) : NextPends pend (execShelfPartition h' shelves s) := by
  refine .next (.command h fun h1 => .ite (.finish h1) (.ite (.finish h1) (.ite (.finish h1) ?_)))
  exact .foldl .shelfNext (.foldl .shelfBegins (.begin h1))

theorem binderyRun {h' stack desc} (h : s.pends pend) : NextPends pend (execBinderyRun h' stack desc s) :=
  .next (.command h fun h1 => .ite (.finish h1) (.ite (.finish h1) (.ite (.finish h1) (.setBindery (.begin h1)))))

theorem binderyRestart {h' stackMask ctxs skip} (h : s.pends pend) :
    NextPends pend (execBinderyRestart h' stackMask ctxs skip s) :=
  .next (.command h fun h1 => .ite (.finish h1) (.finish (.foldl (fun h2 => .foldl .bndResume h2) h1)))

theorem fabricSetup {h' sn lockSn lockSize size b} (h : s.pends pend) :
    NextPends pend (execFabricSetup h' sn lockSn lockSize size b s) :=
  .next (.command h fun h1 => .ite (.finish h1) (.ite (.finish h1) (.finish (.upd h1))))

theorem stractSetup {h' handle home order members} (h : s.pends pend) :
    NextPends pend (execStractSetup h' handle home order members s) := by
  refine .next (.command h fun h1 => .ite (.finish h1) (.ite (.finish h1) (.ite (.finish h1) ?_)))
  exact .ite (.awaitMacks (.upd h1) .joinMembers) (.finish (.upd h1))

theorem stractRelease {h' handle} (h : s.pends pend) : NextPends pend (execStractRelease h' handle s) :=
  .next (.command h fun h1 => by
    split
    · exact .finish h1
    · exact .ite (.awaitMacks (.dropStract h1) fun h2 => .foldl .fwmsg h2) (.finish (.dropStract h1)))

theorem closureSetup {h' cid ctx nchild parent limit nlocal list} (h : s.pends pend) :
    NextPends pend (execClosureSetup h' cid ctx nchild parent limit nlocal list s) := by
  refine .next (.command h fun h1 => .ite (.finish h1) (.ite (.finish h1) (.ite (.finish h1) ?_)))
  refine .ite (.finish (.uncRead h1)) ?_
  split
  · exact .finish h1
  · exact .finish (.setupClosure (.access h1))

theorem closureRelease {h' cid} (h : s.pends pend) : NextPends pend (execClosureRelease h' cid s) :=
  .next (.command h fun h1 => .ite (.finish h1) (.ite (.finish h1) (.finish (.setClosure h1))))

theorem stakeoutWrite {h' n w0 w1 w2 w3} (h : s.pends pend) : NextPends pend (execStakeoutWrite h' n w0 w1 w2 w3 s) :=
  .next (.command h fun h1 => .ite (.finish h1) (.finish (.ite h1 (.stakeoutCommit (.upd h1)))))

/-! ### Resets -/

theorem mrstAssert (h : s.pends pend) : NextPends pend (execMrstAssert s) := .next (.cold h)

theorem coldReset (h : s.pends pend) : NextPends pend (execColdReset s) := by
  unfold execColdReset
  extract_lets found s1 s2 s3
  have h1 : s1.pends pend := .foldl .bootImage (.bootTables (.cold h))
  have h2 : s2.pends pend := .foldl .stackFails (.catLose h1)
  have h3 : s3.pends pend := .ite (.foldl (fun h => .ite (.detect h) h) h2) h2
  exact .ite (.next (.bootNext (.ite (.drainDevice h3) h3))) (.next h)

theorem d3hotEntry (h : s.pends pend) : NextPends pend (execD3hotEntry s) := by
  unfold execD3hotEntry
  extract_lets naps m s1 s2 s3
  have h1 : s1.pends pend := .upd h
  have h2 : s2.pends pend := .sliceTurn (.foldl .napCtx (.bndStopAll h1))
  have h3 : s3.pends pend := .ite (.colsFail (.foldl (fun h => .ite (.subportQuiesce h) h) h2)) h2
  exact .ite (.next h) (.next (.upd h3))

theorem refClockWindow {hz lhz} (h : s.pends pend) : NextPends pend (execRefClockWindow hz lhz s) := by
  unfold execRefClockWindow
  extract_lets m h' l lostH lostL back s1 s2 s3
  have h1 : s1.pends pend := .upd h
  have h2 : s2.pends pend := .ite (.log h1) h1
  have h3 : s3.pends pend := .ite (.logNew h2) (.ite (.log h2) h2)
  exact .next (.ite (.refLink h3) (.ite (.refLink h3) h3))

theorem fieldReportRepeat {rseq} (h : s.pends pend) : NextPends pend (execFieldReportRepeat rseq s) := by
  unfold execFieldReportRepeat
  split
  · exact .next h
  · exact .ite (.next (.count (.upd h))) (.next (.count (.reportOut (.upd h))))

/-- The debug unit is not reached through a locked port, nor by BYPASS and IDCODE (R450, R487). -/
theorem tapInstruction {i} (h : s.pends pend) (hlocked : ∀ n, i = .other n → s.sec.tapOpen = false) :
    NextPends pend (execTapInstruction i s) := by
  unfold execTapInstruction
  split
  · exact .next (.answer h)
  · exact .next (.answer h)
  · rw [if_neg (ne_true_of_eq_false (hlocked _ rfl))]
    exact .next h

/-! ### Service -/

theorem waitLimits {h' mask t0 t1 t2 t3 t4 t5} (h : s.pends pend) :
    NextPends pend (execWaitLimits h' mask t0 t1 t2 t3 t4 t5 s) :=
  .next (.command h fun h1 => .ite (.finish h1) (.finish (.upd h1)))

theorem replayStep {h' rev} (h : s.pends pend) : NextPends pend (execReplayStep h' rev s) :=
  .next (.command h fun h1 => by
    dsimp only
    refine .ite (.finish h1) (.ite (.finish h1) (.ite (.finish (.uncRead h1)) (.ite (.finish h1) ?_)))
    exact .begin (.withReplay (.applyCat h1)))

theorem unitQuiesce {h' code} (h : s.pends pend) : NextPends pend (execUnitQuiesce h' code s) :=
  .next (.command h fun h1 => by
    split
    · exact .finish h1
    · exact .ite (.finish h1) (.quiesceOnce (.begin h1))
    · exact .finish h1)

theorem unitReset {h' code} (h : s.pends pend) : NextPends pend (execUnitReset h' code s) :=
  .next (.command h fun h1 => by
    split
    · exact .finish h1
    · exact .ite (.resetByCommand h1) (.quiesceOnce (.begin h1))
    · exact .finish h1)

theorem unitResume {h' code} (h : s.pends pend) : NextPends pend (execUnitResume h' code s) :=
  .next (.command h fun h1 => by
    split
    · exact .finish h1
    · exact .finish (.unitResume h1)
    · exact .finish h1)

theorem spareSwap {h' path} (h : s.pends pend) : NextPends pend (execSpareSwap h' path s) :=
  .next (.command h fun h1 => .ite (.finish h1) (by
    split
    · exact .finish (.spareSwap h1)
    · exact .finish h1))

theorem quiesceAcceptedDone {code} (h : s.pends pend) : NextPends pend (execQuiesceAcceptedDone code s) := by
  unfold execQuiesceAcceptedDone
  split
  · exact .ite (.next (.quiesceEnds h)) (.next h)
  · exact .next h

theorem quiesceBoundExpiry {code} (h : s.pends pend) : NextPends pend (execQuiesceBoundExpiry code s) := by
  unfold execQuiesceBoundExpiry
  split
  · exact .ite (.next (.quiesceEnds (.quiesceDrops h))) (.next h)
  · exact .next h

theorem watchdogExpiry {code t} (h : s.pends pend) : NextPends pend (execWatchdogExpiry code t s) := by
  unfold execWatchdogExpiry
  dsimp only
  split
  · exact .next (.ite (.watchdog (.timeAt h) .count) (.timeAt h))
  · exact .next (.ite (.watchdog (.timeAt h) .unitReset) (.timeAt h))

theorem debugOpen {h' rec sig sigOk} (h : s.pends pend) : NextPends pend (execDebugOpen h' rec sig sigOk s) := by
  refine .next (.command h fun h1 => .ite (.finish h1) (.ite (.finish h1) (.ite (.finish h1) ?_)))
  exact .ite (.finish h1) (.ite (.finish h1) (.finish (.openDebug h1)))

theorem imageStage {h' cls addr len img sigOk} (h : s.pends pend) :
    NextPends pend (execImageStage h' cls addr len img sigOk s) := by
  refine .next (.command h fun h1 => .ite (.finish h1) (.ite (.finish h1) ?_))
  split
  · exact .finish h1
  · split
    · exact .finish h1
    · exact .finish (.upd h1)

theorem imageActivate {h' cls code applies} (h : s.pends pend) :
    NextPends pend (execImageActivate h' cls code applies s) := by
  refine .next (.command h fun h1 => .ite (.finish h1) (.ite (.finish h1) ?_))
  split
  · exact .finish h1
  · exact .finish h1
  · exact .ite (.finish h1) (.activate h1)

theorem spdmMessage {m} (h : s.pends pend) : NextPends pend (execSpdmMessage m s) := by
  unfold execSpdmMessage
  dsimp only
  split
  · exact .ite (.next (.answer (.upd (.useFree h)))) (.next (.spdmError h))
  · exact .ite (.next (.answer (.upd h))) (.next (.spdmError h))
  · exact .ite (.next (.answer (.upd h))) (.next (.spdmError h))
  · exact .ite (.next (.answer (.upd h))) (.next (.spdmError h))

theorem jobKeyMessage {m} (h : s.pends pend) : NextPends pend (execJobKeyMessage m s) := by
  unfold execJobKeyMessage
  dsimp only
  split
  · exact .next (.spdmError h)
  · split
    · exact .next (.answer (.upd h))
    · exact .next (.answer h)

/-! ### Regs -/

theorem bar0InvalidAccess {bar4 write off size v} (h : s.pends pend) :
    NextPends pend (execBar0InvalidAccess bar4 write off size v s) := by
  refine .next ?_
  split
  · exact .bar4Write h
  · exact .bar4Read h
  · exact .bar0Write h
  · exact .bar0Read h

end NextPends

/-- Every command but an instruction other than BYPASS and IDCODE at an unlocked test access port answers a next state, in
which the same commands wait. -/
theorem exec_pends {s : State} {pend : List Instr} (h : s.pends pend) :
    ∀ c : Instr, (∀ i, c = .tapInstruction (.other i) → s.sec.tapOpen = false) → NextPends pend (exec c s)
  | .regWrite .., _ => .next (.bar0Write h)
  | .bar0InvalidAccess .., _ => .bar0InvalidAccess h
  | .mdecl .., _ => .next (.mIssue h)
  | .mdeclSourceValid .., _ => .mdeclSourceValid h
  | .mdeclDatumExpiry .., _ => .mdeclDatumExpiry h
  | .mopen .., _ => .next (.mIssue h)
  | .macc .., _ => .next (.mIssue h)
  | .maccStep .., _ => .maccStep h
  | .mfin .., _ => .next (.mIssue h)
  | .segmentDrainEnd .., _ => .segmentDrainEnd h
  | .mfinStagingFree .., _ => .mfinStagingFree h
  | .mfinStagingExpiry .., _ => .mfinStagingExpiry h
  | .msum .., _ => .next (.mIssue h)
  | .msave .., _ => .next (.mIssue h)
  | .mload .., _ => .next (.mIssue h)
  | .vset .., _ => .next (.vIssue h)
  | .vadd .., _ => .next (.vIssue h)
  | .vsub .., _ => .next (.vIssue h)
  | .vmul .., _ => .next (.vIssue h)
  | .vfma .., _ => .next (.vIssue h)
  | .vmin .., _ => .next (.vIssue h)
  | .vmax .., _ => .next (.vIssue h)
  | .vabs .., _ => .next (.vIssue h)
  | .vneg .., _ => .next (.vIssue h)
  | .vcvt .., _ => .next (.vIssue h)
  | .vcmp .., _ => .next (.vIssue h)
  | .vsel .., _ => .next (.vIssue h)
  | .vfun .., _ => .next (.vIssue h)
  | .vsweep .., _ => .next (.vIssue h)
  | .vred .., _ => .next (.vIssue h)
  | .vperm .., _ => .next (.vIssue h)
  | .vgath .., _ => .next (.vIssue h)
  | .vGroup .., _ => .vGroup h
  | .swait .., _ => .next (.syncIssue h .stakeWait)
  | .swaitc .., _ => .next (.syncIssue h .stakeWait)
  | .sset .., _ => .next (.stakeEntry h)
  | .sclr .., _ => .next (.stakeEntry h)
  | .stakeWaitExpiry .., _ => .stakeWaitExpiry h
  | .sfence .., _ => .next (.syncIssue h fun h1 => .fence h1 .endEntry)
  | .fenceComplete .., _ => .fenceComplete h
  | .carr .., _ => .carr h
  | .cwait .., _ => .next (.syncIssue h .cwait)
  | .closureT3Expiry .., _ => .ite (.next (.closureFail (.log (.count h)))) (.next h)
  | .shnd .., _ => .next (.syncIssue h .queueOp)
  | .sjmp .., _ => .next (.syncIssue h .queueOp)
  | .sldc .., _ => .next (.syncIssue h .queueOp)
  | .send .., _ => .next (.syncIssue h fun h1 => .endedCheck (.queueOp h1))
  | .queueFetchFault .., _ => .queueFetchFault h
  | .xget .., _ => .next (.xIssue h)
  | .xput .., _ => .next (.xIssue h)
  | .xatom .., _ => .next (.xIssue h)
  | .archiveSliceServe .., _ => .archiveSliceServe h
  | .archiveRequestComplete .., _ => .archiveRequestComplete h
  | .archiveT1Expiry .., _ => .archiveT1Expiry h
  | .fieldbookScrub .., _ => .fieldbookScrub h
  | .archivePatrolScrub .., _ => .archivePatrolScrub h
  | .bar2Read .., _ => .bar2Read h
  | .bar2Write .., _ => .bar2Write h
  | .barAtomicopRequest .., _ => .next (.answer h)
  | .shelfModeChangeDone .., _ => .shelfModeChangeDone h
  | .fpScanDone .., _ => .next (.fpScanEnd h)
  | .hbmTempReading .., _ => .hbmTempReading h
  | .hbmPatrolRead .., _ => .hbmPatrolRead h
  | .hbmEcsRead .., _ => .next (.count (.setStack h))
  | .hbmSoftRepair .., _ => .ite (.next (.count (.setStack h))) (.next h)
  | .binderyDispatch .., _ => .ite (.next h) (.next (.bndScan h))
  | .binderyWaitExpiry .., _ => .binderyWaitExpiry h
  | .bEnd .., _ => .bEnd h
  | .bOpt .., _ => .next (.bndOperate h)
  | .bReq .., _ => .next (.bndOperate h)
  | .bAmax .., _ => .next (.bndOperate h)
  | .bFpr .., _ => .next (.bndOperate h)
  | .bGath .., _ => .next (.bndOperate h)
  | .bScat .., _ => .next (.bndOperate h)
  | .bJmp .., _ => .bJmp h
  | .binderyDescriptorDone .., _ => .binderyDescriptorDone h
  | .frameSend .., _ => .frameSend h
  | .frameReceive .., _ => .frameReceive h
  | .trainingFrameReceive .., _ => .trainingFrameReceive h
  | .replayPendingExpiry .., _ => .ite (.next (.linkLost h)) (.next h)
  | .trainingLimitExpiry .., _ => .ite (.next (.trainingFails h)) (.next h)
  | .laneSignalChange .., _ => .laneSignalChange h
  | .retrain .., _ => .next (.foldl .trainIfEnabled h)
  | .wenPortDisable .., _ => .next (.portDisable h)
  | .subportQuiesceDone .., _ => .ite (.next (.subportDown h)) (.ite (.next (.followDown h)) (.next h))
  | .packetForward .., _ => .ite (.next (.reject (.take h))) (.ite (.next h) (.next (.routePacket (.take h))))
  | .data .., _ => .ite (.next h) (.next (.onPacket h .onData))
  | .cack .., _ => .next (.onPacket h .onCack)
  | .notice .., _ => .next (.onPacket h .takeNotice)
  | .epoch .., _ => .next (.onPacket h .onEpoch)
  | .benchmark .., _ => .next (.onPacket h .onToken)
  | .arrive .., _ => .next (.onPacket h .onArrive)
  | .complete .., _ => .next (.onPacket h .onComplete)
  | .fail .., _ => .next (.onPacket h .onFail)
  | .slipred .., _ => .next (.onPacket h .onSlipred)
  | .stentry .., _ => .stentry h
  | .stake .., _ => .next (.onPacket h .onStake)
  | .stjoin .., _ => .stjoin h
  | .stleave .., _ => .next (.onFw h fun h1 => .upd h1)
  | .routepush .., _ => .next (.onFw h fun h1 => .iteFst h1 (.iteFst h1 (.routeLoad h1)))
  | .relay .., _ => .next (.onFw h fun h1 => .ite (.upd h1) h1)
  | .mack .., _ => .next (.onPacket h fun h1 => .ite h1 (.ite (.reject h1) (.onMack h1)))
  | .fwmsgRetryExpiry .., _ => .fwmsgRetryExpiry h
  | .colOpen .., _ => .colOpen h
  | .admissionRound .., _ => .next (.foldl .admitCol h)
  | .colClose .., _ => .colClose h
  | .colArm .., _ => .colArm h
  | .colStart .., _ => .colStart h
  | .colTileAccept .., _ => .colTileAccept h
  | .permScratchCopy .., _ => .permScratchCopy h
  | .colRunComplete .., _ => .colRunComplete h
  | .colT3Expiry .., _ => .colT3Expiry h
  | .bearingRunStart .., _ => .next (.runSet h)
  | .bearingRunStop .., _ => .next (.runStop h)
  | .bearingUnlock .., _ => .next (.ite (.datumRuns (.roleChange h)) (.tpvClear h))
  | .bearingTop .., _ => .ite (.next (.upd (.timeAt h))) (.next (.timeAt h))
  | .benchmarkEmit .., _ => .ite (.next (.emitToken (.timeAt h))) (.next (.timeAt h))
  | .bearingCoast .., _ => .ite (.next (.upd (.timeAt h))) (.next (.timeAt h))
  | .bearingLost .., _ => .bearingLost h
  | .brgStkCommit .., _ => .next (.ite (.stakeoutBar0 h) (.hostFault h))
  | .setstake .., _ => .next (.fires h fun h1 => .unlessDrained h1 .setStakeAction)
  | .snap .., _ => .snap h
  | .ctxstart .., _ => .next (.fires h fun h1 => .unlessD3 h1 fun h2 => .unlessDrained h2 .ctxIssue)
  | .ctxpre .., _ => .next (.fires h fun h1 => .unlessD3 h1 .ctxIssue)
  | .oppointAction .., _ => .oppointAction h
  | .filler .., _ => .filler h
  | .fpflush .., _ => .next (.fires h .fpFlushRange)
  | .phasemark .., _ => .next (.fires h .phaseMark)
  | .stepEdge .., _ => .ite (.next (.timeAt h)) (.ite (.next (.count (.timeAt h))) (.next (.upd (.timeAt h))))
  | .catSeedRequest .., _ => .catSeedRequest h
  | .ctxSliceInDone .., _ => .ite (.next (.sliceInDone (.imageAccess (.copyReport h)))) (.next h)
  | .ctxSliceOutDone .., _ => .ite (.next (.sliceOutDone (.imageAccess (.copyReport h)))) (.next h)
  | .ctxParked .., _ => .ite (.next (.parked (.xPark (.bndPark h)))) (.next h)
  | .submissionDoorbell .., _ => .next (.subDoorbell h)
  | .receiptDoorbell .., _ => .next (.rcpDoorbell h)
  | .directWord .., _ => .next (.directWrite h)
  | .submissionRingEnable .., _ => .next (.hostWrite h .subEnable)
  | .receiptRingEnable .., _ => .next (.hostWrite h .rcpEnable)
  | .commandFetch .., _ => .commandFetch h
  | .receiptSignalTimer .., _ => .ite (.next (.signal (.setRcp h))) (.next h)
  | .commandT4Expiry .., _ => .commandT4Expiry h
  | .nop .., _ => .next (.command h .finish)
  | .identify .., _ => .next (.command h fun h1 => .ite (.finish h1) (.finish (.hostOut h1)))
  | .health .., _ => .next (.command h .finish)
  | .warmReset .., _ => .next (.command h fun h1 => .requestWarm (.begin h1))
  | .faultLogRead .., _ => .next (.command h fun h1 => .ite (.finish h1) (.finish (.hostOut h1)))
  | .shelfPartition .., _ => .shelfPartition h
  | .binderyRun .., _ => .binderyRun h
  | .binderyRestart .., _ => .binderyRestart h
  | .catConfig .., _ => .next (.command h fun h1 => .ite (.finish h1) (.finish (.catCommand h1)))
  | .catSave .., _ => .catSave h
  | .catLoad .., _ => .catLoad h
  | .catUnseed .., _ => .next (.command h fun h1 => .ite (.finish h1) (.finish (.catCommand h1)))
  | .fpFlush .., _ => .next (.command h fun h1 => .ite (.finish h1) (.finish (.fpFlushRange h1)))
  | .ownerSet .., _ => .next (.command h fun h1 => .ite (.finish (.upd h1)) (.finish h1))
  | .ctxLoad .., _ => .ctxLoad h
  | .ctxUnload .., _ => .ctxUnload h
  | .ctxStart .., _ => .next (.command h fun h1 => .ite (.finish h1) (.ctxIssue (.begin h1)))
  | .ctxPreempt .., _ => .next (.command h fun h1 => .ite (.finish h1) (.ctxIssue (.begin h1)))
  | .queueResume .., _ => .queueResume h
  | .fabricSetup .., _ => .fabricSetup h
  | .routeLoad .., _ => .next (.command h fun h1 => .ite (.finish h1) (.finish (.routeLoad h1)))
  | .stractSetup .., _ => .stractSetup h
  | .stractRelease .., _ => .stractRelease h
  | .closureSetup .., _ => .closureSetup h
  | .closureRelease .., _ => .closureRelease h
  | .stakeoutWrite .., _ => .stakeoutWrite h
  | .stakeoutRead .., _ => .next (.command h .finish)
  | .powerCap .., _ => .powerCap h
  | .oppoint .., _ => .oppoint h
  | .fillerProfile .., _ => .next (.command h fun h1 => .ite (.finish h1) (.finish (.upd h1)))
  | .throttleLogRead .., _ => .next (.command h fun h1 => .ite (.finish h1) (.finish (.hostOut h1)))
  | .snapshot .., _ => .snapshot h
  | .freeze .., _ => .next (.command h fun h1 => .finish (.upd h1))
  | .thaw .., _ => .next (.command h fun h1 => .finish (.upd h1))
  | .ctrRead .., _ => .next (.command h fun h1 => .ite (.finish h1) (.finish (.hostOut h1)))
  | .snapshotCopyDone .., _ => .snapshotCopyDone h
  | .survey .., _ => .next (.command h fun h1 => .ite (.finish h1) (.ite (.finish h1) (.finish (.surveyed h1))))
  | .replayStep .., _ => .replayStep h
  | .drain .., _ => .next (.command h fun h1 => .finish (.drainDevice h1))
  | .waitLimits .., _ => .waitLimits h
  | .unitQuiesce .., _ => .unitQuiesce h
  | .quiesceAcceptedDone .., _ => .quiesceAcceptedDone h
  | .quiesceBoundExpiry .., _ => .quiesceBoundExpiry h
  | .unitReset .., _ => .unitReset h
  | .unitResume .., _ => .unitResume h
  | .spareSwap .., _ => .spareSwap h
  | .attest .., _ => .next (.command h fun h1 => .finish (.hostOut h1))
  | .identityRead .., _ => .next (.command h fun h1 => .finish (.hostOut h1))
  | .debugOpen .., _ => .debugOpen h
  | .imageStage .., _ => .imageStage h
  | .imageActivate .., _ => .imageActivate h
  | .imageQuery .., _ => .next (.command h fun h1 => .ite (.finish h1) (.finish h1))
  | .powerUpdate .., _ => .powerUpdate h
  | .thermalReading .., _ => .thermalReading h
  | .tceilUpdate .., _ => .tceilUpdate h
  | .oppSwitch .., _ => .oppSwitch h
  | .oppVoltageRampDone .., _ => .oppVoltageRampDone h
  | .droopDetect .., _ => .next (.upd h)
  | .droopStretchEnd .., _ => .ite (.next h) (.next (.upd h))
  | .droopEventEnd .., _ => .droopEventEnd h
  | .extThrottleChange .., _ => .next (.upd h)
  | .fillerRelease .., _ => .fillerRelease h
  | .watchdogExpiry .., _ => .watchdogExpiry h
  | .logEntryClose .., _ => .next (.upd h)
  | .healthReportTimer .., _ => .ite (.next (.report h)) (.next h)
  | .fieldReportRepeat .., _ => .fieldReportRepeat h
  | .spdmMessage .., _ => .spdmMessage h
  | .jobKeyMessage .., _ => .jobKeyMessage h
  | .tapInstruction .., hp => .tapInstruction h fun i e => hp i (congrArg _ e)
  | .input50vChange .., _ => .next (.upd h)
  | .input12vChange .., _ => .ite (.next (.upd h)) (.ite (.next (.standbyLost h)) (.next h))
  | .hostReset .., _ => .next (.hostReset h)
  | .flr .., _ => .next (.hostReset h)
  | .d3hotEntry .., _ => .d3hotEntry h
  | .d0Entry .., _ => .next (.toD0 h)
  | .domainGate .., _ => .ite (.next (.upd h)) (.next h)
  | .refClockWindow .., _ => .refClockWindow h
  | .counterDeltaMove .., _ => .counterDeltaMove h
  | .smbusHealthRead .., _ => .next (.smbus h)
  | .smbusSerialRead .., _ => .next (.smbus h)
  | .smbusStationRead .., _ => .next (.smbus h)
  | .smbusLogCursorWrite .., _ => .ite (.next (.upd h)) (.next h)
  | .smbusLogEntryRead .., _ => .ite (.next (.upd (.smbus h))) (.next h)
  | .smbusPcntRead .., _ => .next (.smbus h)
  | .smbusAlertResponse .., _ => .ite (.next (.upd (.smbus h))) (.next h)
  | .equalisationDone .., _ => .ite (.next h) (.ite (.next (.setPort h)) (.next (.trainingFails h)))
  | .catalogueWrapProcessingDone .., _ => .ite (.next h) (.next (.foldl .mRetry (.foldl .seedRequest (.upd h))))
  | .managementPortLinkChange .., _ => .next (.upd h)
  | .msiXTableWrite .., _ => .next (.bar4Write h)
  | .mrstAssert, _ => .mrstAssert h
  | .coldReset, _ => .coldReset h

end Sys2Proof.Machine

section

open Sys2Proof Sys2Proof.Machine

/-- Settles O3: by the lemma of each command; the one that the spec leaves open is refused by name. -/
theorem everyCommandCompletes : Obligations.EveryCommandCompletes := by
  intro c s
  by_cases hc : ∃ i, c = .tapInstruction (.other i) ∧ s.sec.tapOpen = true
  · obtain ⟨i, rfl, hopen⟩ := hc
    exact .inl ⟨i, rfl, hopen, if_pos hopen⟩
  · exact .inr (exec_pends rfl c fun i hi => Bool.eq_false_iff.mpr fun hopen => hc ⟨i, hi, hopen⟩)

/-- Settles O1: a step is the command at the front of its queue by definition, and no command touches the queue. -/
theorem stepRunsFront : Obligations.StepRunsFront := by
  refine ⟨fun s c rest hp => by rw [step, hp], fun s hp => by rw [step, hp], fun s c t ht => ?_⟩
  obtain ⟨i, -, -, hr⟩ | ⟨u, hu, hq⟩ := everyCommandCompletes c s
  · rw [ht] at hr; cases hr
  · rw [ht] at hu; cases hu; exact hq

end

namespace Sys2Proof.Machine

/-! # The bearing (O37 to O39)

Time, tokens, taken packets and journal records each leave the bearing engine and most of the block as they were; what a
bearing's command makes of the engine is then read off its definition. -/

/-! ### Time brought forward (R472) -/

theorem State.at_now (s : State) (t : Nat) : (s.at t).now = max s.now t := by
  unfold State.at
  split
  · next h => exact (Nat.max_eq_left h).symm
  · next h => exact (Nat.max_eq_right (Nat.le_of_not_ge h)).symm

theorem State.at_now_of_le {s : State} {t : Nat} (h : s.now ≤ t) : (s.at t).now = t := by
  rw [s.at_now, Nat.max_eq_right h]

@[simp] theorem State.at_eng (s : State) (t : Nat) : (s.at t).eng = s.eng := by rw [s.at_frame]
@[simp] theorem State.at_mem (s : State) (t : Nat) : (s.at t).mem = s.mem := by rw [s.at_frame]
@[simp] theorem State.at_cmd (s : State) (t : Nat) : (s.at t).cmd = s.cmd := by rw [s.at_frame]
@[simp] theorem State.at_egress (s : State) (t : Nat) : (s.at t).egress = s.egress := by rw [s.at_frame]
theorem State.at_usable (s : State) (t : Nat) : (s.at t).usable = s.usable := by rw [s.at_frame]; rfl

/-! ### Tokens sent (R288) -/

/-- A token sent on some paths: one packet on each of them that is usable, and nothing else but counts. -/
theorem State.sendBy_all (k : Packet) (ps : List Nat) (s : State) :
    ∃ c, ps.foldl (fun s p => s.sendBy k p) s =
      { s with ctr := c, egress := s.egress ++ (ps.filter s.usable).map fun p => ⟨k, p, s.now, 128⟩ } := by
  induction ps generalizing s with
  | nil => exact ⟨s.ctr, by simp⟩
  | cons p ps ih =>
    rw [List.foldl_cons]
    by_cases hp : s.usable p = true
    · obtain ⟨c, hc⟩ := ih (s.enqueue k p 128)
      refine ⟨c, ?_⟩
      rw [State.sendBy, if_pos hp, hc, s.enqueue_frame, List.filter_cons_of_pos hp]
      simp only [List.map_cons, List.append_assoc, List.singleton_append]
      rfl
    · obtain ⟨c, hc⟩ := ih s
      exact ⟨c, by rw [State.sendBy, if_neg hp, hc, List.filter_cons_of_neg hp]⟩

/-- The token of the bearing as it stands. -/
def State.token (s : State) (wrap : Bool) : Packet :=
  s.packet 7 0xFFFFFF 0x10 0 0 (s.brg.tokenBody (s.brg.bearingAt s.now) 0 wrap)

theorem State.emitToken_frame (s : State) (wrap : Bool) :
    ∃ c, s.emitToken wrap = { s with
      ctr := c
      brg := { s.brg with tseq := (s.brg.tseq + 1) % 65536, lastTok := s.now }
      egress := s.egress ++ (s.brg.children.filter s.usable).map fun p => ⟨s.token wrap, p, s.now, 128⟩ } :=
  State.sendBy_all (s.token wrap) s.brg.children
    { s with brg := { s.brg with tseq := (s.brg.tseq + 1) % 65536, lastTok := s.now } }

/-! ### Records of the journal (R429) -/

theorem State.journalWrites_accessOnly (s : State) (bs : List Byte) (a first count b len : Nat) :
    ∃ m l, AccessOnly { s with mem := m, bad := l } (((s.store a bs).storeCat first count b).access .control true a len) :=
  ⟨_, _, State.access_accessOnly ((s.store a bs).storeCat first count b) .control true a len⟩

/-- A record begins with writes of memory and their access, and nothing else. -/
theorem State.journalBegin_accessOnly (s : State) : ∃ m l, AccessOnly { s with mem := m, bad := l } s.journalBegin := by
  unfold State.journalBegin
  extract_lets a
  split
  · exact s.journalWrites_accessOnly ..
  · exact ⟨s.mem, s.bad, AccessOnly.refl s⟩

theorem AccessOnly.brg {s t : State} (h : AccessOnly s t) : t.brg = s.brg := by rw [h]

theorem State.journalBegin_brg (s : State) : s.journalBegin.brg = s.brg := by
  obtain ⟨m, l, h⟩ := s.journalBegin_accessOnly; exact h.brg

theorem State.journalBegin_eng (s : State) : s.journalBegin.eng = s.eng := by
  obtain ⟨m, l, h⟩ := s.journalBegin_accessOnly; exact h.eng

theorem State.journalBegin_cmd (s : State) : s.journalBegin.cmd = s.cmd := by
  obtain ⟨m, l, h⟩ := s.journalBegin_accessOnly; exact h.cmd

/-! ### Where the bearing stands (R282, R286, R291) -/

/-- A bearing that is LOCKED or COASTing and does not hold at the top. -/
theorem Brg.bearingAt_running {b : Brg} (h : b.st = .locked ∨ b.st = .coast) (htop : b.top = false) (t : Nat) :
    b.bearingAt t = min 0xFFFFFFFF (max b.low (b.b0 + (b.lag + (t - b.t0)) * 2 ^ 32 / (max 1 b.period * 256))) := by
  rcases h with h | h <;> simp [Brg.bearingAt, h, htop]

theorem Brg.bearingAt_top {b : Brg} (h : b.st = .locked ∨ b.st = .coast) (htop : b.top = true) (t : Nat) :
    b.bearingAt t = 0xFFFFFFFF := by
  rcases h with h | h <;> simp [Brg.bearingAt, h, htop]

theorem Brg.bearingAt_le {b : Brg} (h : b.st = .locked ∨ b.st = .coast) (t : Nat) : b.bearingAt t ≤ 0xFFFFFFFF := by
  cases htop : b.top
  · rw [Brg.bearingAt_running h htop]; exact Nat.min_le_left ..
  · rw [Brg.bearingAt_top h htop]

theorem Brg.valid_iff {b : Brg} : b.valid = true ↔ b.st = .locked ∨ b.st = .coast := by simp [Brg.valid]

/-! ### The datum device (R284-R288) -/

/-- RUN goes to 1 on the datum device. -/
def Brg.started (b : Brg) (now : Nat) : Brg :=
  { b with run := true, st := .locked, rev := b.revinit, b0 := 0, t0 := now, lag := 0, low := 0,
           period := clampPeriod b.pinit, top := false, failed := false, wrapTime := now, due := [], fired := [], late := [],
           gone := [], lastTok := now, tseq := (b.tseq + 1) % 65536 }

/-- The start: the bearing runs, its token goes out, and its record begins. -/
theorem State.runStart_eq (s : State) (t : Nat) :
    ∃ b, { b with tseq := (b.tseq + 1) % 65536, lastTok := max s.now t } = s.brg.started (max s.now t) ∧
      s.runStart t = (State.emitToken { s.at t with brg := b } true).journalBegin := by
  refine ⟨_, ?_, rfl⟩
  simp only [State.at_brg, s.at_now]
  rfl

theorem State.runStart_brg (s : State) (t : Nat) : (s.runStart t).brg = s.brg.started (max s.now t) := by
  obtain ⟨b, hb, h⟩ := s.runStart_eq t
  obtain ⟨c, hc⟩ := State.emitToken_frame { s.at t with brg := b } true
  rw [h, State.journalBegin_brg, hc, ← hb]
  exact congrArg (fun n => { b with tseq := (b.tseq + 1) % 65536, lastTok := n }) (s.at_now t)

theorem State.runStart_eng (s : State) (t : Nat) : (s.runStart t).eng = s.eng := by
  obtain ⟨b, -, h⟩ := s.runStart_eq t
  obtain ⟨c, hc⟩ := State.emitToken_frame { s.at t with brg := b } true
  rw [h, State.journalBegin_eng, hc]
  exact s.at_eng t

theorem State.runStart_cmd (s : State) (t : Nat) : (s.runStart t).cmd = s.cmd := by
  obtain ⟨b, -, h⟩ := s.runStart_eq t
  obtain ⟨c, hc⟩ := State.emitToken_frame { s.at t with brg := b } true
  rw [h, State.journalBegin_cmd, hc]
  exact s.at_cmd t

theorem Brg.started_bearing (b : Brg) (now : Nat) : (b.started now).bearingAt now = 0 := by
  rw [Brg.bearingAt_running (.inl rfl) rfl]
  simp [Brg.started]

section

variable {s : State}

theorem exec_bearingRunStart (hrole : s.brg.role = true) (hrun : s.brg.run = false) (t : Nat) :
    exec (.bearingRunStart t) s = .next (s.runStart t) := by
  change execBearingRunStart t s = _
  simp [execBearingRunStart, State.runSet, hrun, hrole]

theorem exec_bearingRunStart_running (hrun : s.brg.run = true) (t : Nat) : exec (.bearingRunStart t) s = .next s := by
  change execBearingRunStart t s = _
  simp [execBearingRunStart, State.runSet, hrun]

theorem exec_bearingTop {t : Nat} (hrole : s.brg.role = true) (ht : s.now ≤ t) (hv : s.brg.valid = true)
    (hb : s.brg.bearingAt t = 0xFFFFFFFF) (htop : s.brg.top = false) :
    exec (.bearingTop t) s = .next { s.at t with brg := { s.brg with top := true, topTime := t } } := by
  change execBearingTop t s = _
  simp [execBearingTop, State.at_brg, State.at_now_of_le ht, hrole, hv, hb, htop]

theorem exec_benchmarkEmit (hrole : s.brg.role = true) (hrun : s.brg.run = true) (hv : s.brg.valid = true) (t : Nat) :
    exec (.benchmarkEmit t) s =
      .next (if s.brg.lastTok + 1024 * 256 ≤ max s.now t then (s.at t).emitToken false else s.at t) := by
  change execBenchmarkEmit t s = _
  simp only [execBenchmarkEmit, State.at_brg, s.at_now, hrole, hrun, hv, Bool.true_and, decide_eq_true_eq]
  exact (apply_ite Host.Outcome.next ..).symm

/-- An edge at the STEP input after a low of 100 ns or more (R287). -/
theorem exec_stepEdge {t low : Nat} (hrole : s.brg.role = true) (hstep : s.brg.step = true) (ht : s.now ≤ t)
    (hlow : 25600 ≤ low) :
    exec (.stepEdge t low) s = .next (if (s.brg.edgeTime.map fun e => (t - e) / 256).any (fun g => decide (g < 1048576)) = true
      then (s.at t).count (ctrDev 5)
      else { s.at t with brg := { s.brg with edgeTime := some t, edgeGap := s.brg.edgeTime.map fun e => (t - e) / 256 } }) := by
  change execStepEdge t low s = _
  have hcond : ¬ ((!((s.at t).brg.role && (s.at t).brg.step)) || decide (low < 100 * 256)) = true := by
    simp [State.at_brg, hrole, hstep, hlow]
  unfold execStepEdge
  dsimp only
  rw [if_neg hcond]
  simp only [State.at_brg, State.at_now_of_le ht]
  exact (apply_ite Host.Outcome.next ..).symm

theorem exec_stepEdge_short {t low : Nat} (hlow : low < 25600) : exec (.stepEdge t low) s = .next (s.at t) := by
  change execStepEdge t low s = _
  simp [execStepEdge, hlow]

end

end Sys2Proof.Machine

section

open Sys2Proof Sys2Proof.Machine

/-- Settles O37: each command of the datum device's bearing by its own equation; what a token and a journal record leave as
they were gives the rest. -/
theorem datumBearing : Obligations.DatumBearing := by
  unfold Obligations.DatumBearing
  intro s hrole
  refine ⟨fun t hrun => ?start, fun t hrun => exec_bearingRunStart_running hrun t, ?stop, ?unlock, fun t ht hv hb htop => ?top,
    fun t hrun hv ht => ?early, fun t hrun hv ht => ?token, fun t low hstep ht hlow hgap => ?edge,
    fun t low e hstep ht hlow he hgap => ?rejected, fun t low _ hlow => exec_stepEdge_short hlow⟩
  case start =>
    exact ⟨_, exec_bearingRunStart hrole hrun t, s.runStart_brg t, by rw [s.runStart_brg, Brg.started_bearing],
      s.runStart_eng t, s.runStart_cmd t⟩
  case stop => exact congrArg Host.Outcome.next (if_pos hrole)
  case unlock =>
    have hrun : s.roleChange.datumRuns = s.roleChange := if_neg (by simp [State.roleChange, hrole])
    exact ⟨_, congrArg Host.Outcome.next hrun, by simp [State.roleChange, hrole], rfl, rfl, rfl⟩
  case top => exact ⟨_, exec_bearingTop hrole ht hv hb htop, rfl, Brg.bearingAt_top (Brg.valid_iff.mp hv) rfl⟩
  case early => rw [exec_benchmarkEmit hrole hrun hv, if_neg (Nat.not_le.mpr ht)]
  case token =>
    obtain ⟨c, hc⟩ := (s.at t).emitToken_frame false
    rw [exec_benchmarkEmit hrole hrun hv, if_pos ht, hc]
    refine ⟨_, rfl, ?_, ?_, ?_, s.at_mem t⟩
    · simp only [State.at_brg, s.at_now]
    · simp only [State.at_brg, State.at_egress, State.at_usable, List.map_append, List.map_map, Function.comp_def, List.map_id']
    · simp [State.token, State.packet]
  case edge =>
    have hany : ¬ (s.brg.edgeTime.map fun e => (t - e) / 256).any (fun g => decide (g < 1048576)) = true := by
      cases he : s.brg.edgeTime with
      | none => simp
      | some e => simpa using hgap e he
    exact ⟨_, (exec_stepEdge hrole hstep ht hlow).trans (congrArg _ (if_neg hany)), rfl⟩
  case rejected => rw [exec_stepEdge hrole hstep ht hlow, if_pos (by simpa [he] using hgap)]

end

namespace Sys2Proof.Machine

/-! ### Followers (R290-R294) -/

theorem State.take_brg (s : State) (k : Packet) : (s.take k).brg = s.brg := by rw [State.take_frame]
theorem State.take_eng (s : State) (k : Packet) : (s.take k).eng = s.eng := by rw [State.take_frame]

/-- The slots that a packet held are freed; the delay of its line is as it was. -/
theorem State.take_oneway (s : State) (k : Packet) (p : Nat) : ((s.take k).port p).oneway = (s.port p).oneway := by
  have hfree : ∀ (t : State) (q v n : Nat), ((t.freeSlots q v n).port p).oneway = (t.port p).oneway := by
    intro t q v n
    unfold State.freeSlots
    by_cases h : p = q
    · subst h; rw [State.port_setPort]
    · rw [State.port_setPort_ne _ _ h]
  unfold State.take
  split
  · exact hfree ..
  · split <;> rfl

/-- Tokens sent on are packets on their way, and nothing else. -/
theorem State.forwardToken_frame (s : State) (k : Packet) (w t : Nat) :
    ∃ e, s.forwardToken k w t = { s with egress := e } := by
  unfold State.forwardToken
  extract_lets age body
  induction s.brg.children generalizing s with
  | nil => exact ⟨s.egress, rfl⟩
  | cons c cs ih =>
    rw [List.foldl_cons]
    split
    · obtain ⟨e, he⟩ := ih { s with egress := s.egress ++ [⟨{ k with body := body }, c, t, k.path.val⟩] }
      exact ⟨e, he⟩
    · exact ih s

section

variable {s : State} {k : Packet} {t : Nat} {tok : Token}

/-- A broadcast token that keeps the rules of its header is taken and handled. -/
theorem exec_benchmark (htype : k.ptype.toNat = 0x10) (hdst : k.dst = 0xFFFFFF) (hok : packetOk k = true) :
    exec (.benchmark k t) s = .next ((s.take k).onToken k t) := by
  change execBenchmark k t s = _
  simp [execBenchmark, State.onPacket, htype, hdst, hok]

/-- A token that comes by another path than the parent's. -/
theorem State.onToken_other (htok : tokenOf k = some tok) (h : s.brg.tpv = false ∨ s.brg.tparent ≠ k.path.val) :
    s.onToken k t = s := by
  have hother : (s.brg.role || !s.brg.tpv || decide (s.brg.tparent ≠ k.path.val)) = true := by
    rcases h with h | h <;> simp [h]
  simp only [State.onToken, htok]
  exact if_pos hother

/-- A token on the parent path of a follower: what it makes of the bearing stands when it has been sent on. -/
theorem State.onToken_parent (hrole : s.brg.role = false) (htok : tokenOf k = some tok) (htpv : s.brg.tpv = true)
    (hpath : s.brg.tparent = k.path.val) :
    (s.onToken k t).brg = (s.takeToken tok (s.port k.path.val).oneway t).brg ∧
      (s.onToken k t).eng = (s.takeToken tok (s.port k.path.val).oneway t).eng := by
  have htaken : s.onToken k t = (s.takeToken tok (s.port k.path.val).oneway t).forwardToken k (s.port k.path.val).oneway t := by
    simp [State.onToken, htok, hrole, htpv, hpath]
  obtain ⟨e, he⟩ := State.forwardToken_frame (s.takeToken tok (s.port k.path.val).oneway t) k (s.port k.path.val).oneway t
  rw [htaken, he]
  exact ⟨rfl, rfl⟩

/-- The first token of an UNLOCKED follower is adopted, and only which stakeouts have fired is settled after that (R293). -/
theorem State.takeToken_adopts (hst : s.brg.st = .unlocked) (hwrap : tok.wrap = false) (w : Nat) :
    ∃ f, (s.takeToken tok w t) = { s.at t with brg := { s.brg.adopt tok w t with
      wrapTime := t, fired := f, late := [], gone := [], due := [] } } := by
  have hfired : ∀ (ns : List Nat) (b : Brg), ∃ f,
      ns.foldl (fun b n => { b with fired := Map.put b.fired n b.rev }) b = { b with fired := f } := by
    intro ns
    induction ns with
    | nil => exact fun b => ⟨b.fired, rfl⟩
    | cons n ns ih => exact fun b => ih { b with fired := Map.put b.fired n b.rev }
  obtain ⟨f, hf⟩ := hfired _ _
  refine ⟨f, ?_⟩
  simp only [State.takeToken, State.adoptToken, State.at_brg, hst, hwrap, beq_self_eq_true, Bool.true_or, if_true]
  exact congrArg (fun b => { s.at t with brg := b }) hf

/-- A token of the locked source and of the present revolution is applied (R291). -/
theorem State.takeToken_follows (hst : s.brg.st = .locked) (hsrc : s.brg.src = some (tok.src, tok.sepoch))
    (hrev : tok.rev = s.brg.rev) (w : Nat) :
    s.takeToken tok w t = { s.at t with brg := s.brg.follow tok w t (s.brg.bearingAt t) } := by
  simp [State.takeToken, State.takeLocked, Brg.applyTok, State.at_brg, hst, hsrc, hrev]

/-- The bearing that a token gives at its receipt. -/
theorem Brg.adopt_bearing (b : Brg) (tok : Token) (w t : Nat) : (b.adopt tok w t).bearingAt t = tok.reference w := by
  cases htop : tok.hold
  · rw [Brg.bearingAt_running (.inl rfl) htop]
    simp [Brg.adopt, Brg.follow, Token.reference, htop]
  · rw [Brg.bearingAt_top (.inl rfl) htop]
    simp [Token.reference, htop]

/-- The bearing that follows a token that does not hold, never below `low`. -/
theorem Brg.follow_bearing {b : Brg} {low : Nat} (hlow : low ≤ 0xFFFFFFFF) (hhold : tok.hold = false) (w x : Nat) :
    (b.follow tok w t low).bearingAt x =
      max low (min 0xFFFFFFFF (tok.brg + (tok.age + w + (x - t)) * 2 ^ 32 / (max 1 tok.period * 256))) := by
  rw [Brg.bearingAt_running (.inl rfl) hhold]
  simp only [Brg.follow]
  rw [min_max_distrib_left, min_eq_right hlow]

theorem Brg.follow_bearing_now {b : Brg} {low : Nat} (hlow : low ≤ 0xFFFFFFFF) (w : Nat) :
    (b.follow tok w t low).bearingAt t = max low (tok.reference w) := by
  cases hhold : tok.hold
  · rw [Brg.follow_bearing hlow hhold]
    simp [Token.reference, hhold]
  · rw [Brg.bearingAt_top (.inl rfl) hhold]
    simpa [Token.reference, hhold] using hlow

theorem exec_bearingCoast (hrole : s.brg.role = false) (ht : s.now ≤ t) (hst : s.brg.st = .locked)
    (hlast : s.brg.lastTok + 4096 * 256 ≤ t) :
    exec (.bearingCoast t) s = .next { s.at t with brg := { s.brg with st := .coast } } := by
  change execBearingCoast t s = _
  simp [execBearingCoast, State.at_brg, State.at_now_of_le ht, hrole, hst, hlast]

theorem exec_bearingLost (ht : s.now ≤ t) (hst : s.brg.st = .coast) (hlast : s.brg.lastTok + s.brg.loss * 256000 ≤ t) :
    exec (.bearingLost t) s = .next (State.log { s.at t with brg := { s.brg.closeRev t with st := .lost, b0 := s.brg.bearingAt t } }
      0x0041 0 0 0xFFFFFFFF 0 0) := by
  change execBearingLost t s = _
  simp [execBearingLost, State.at_brg, State.at_now_of_le ht, hst, hlast]

end

theorem LogOnly.brg {s t : State} (h : LogOnly s t) : t.brg = s.brg := by rw [h]

/-- What is due is settled without a move of the bearing: only which stakeouts have fired and are still to issue, and their
EN, may change. -/
theorem Brg.settleNones_frame (b : Brg) (t : Nat) :
    b.settleNones t = { b with
      fired := (b.settleNones t).fired, due := (b.settleNones t).due, stk := (b.settleNones t).stk } := by
  unfold Brg.settleNones
  generalize (b.dueStill ++ b.dueAt t).filter _ = ds
  induction ds generalizing b with
  | nil => rfl
  | cons d ds ih => rw [List.foldl_cons, ih (b.fire d)]; rfl

theorem Brg.closeRev_rev (b : Brg) (t : Nat) : (b.closeRev t).rev = b.rev := by
  unfold Brg.closeRev
  dsimp only
  rw [b.settleNones_frame]

end Sys2Proof.Machine

section

open Sys2Proof Sys2Proof.Machine

/-- Settles O38: a token is adopted or followed by R293, and sending it on leaves the bearing; COAST and LOST by their own
commands. -/
theorem followers : Obligations.Followers := by
  unfold Obligations.Followers
  intro s hrole
  refine ⟨fun k t tok htype hdst hok htok htpv hpath => ?token, fun k t htype hdst hok htok hother => ?other,
    fun t ht hst hlast => ?coast, fun t ht hst hlast => ?lost, ?unlock⟩
  case token =>
    have hrun := exec_benchmark (s := s) (t := t) htype hdst hok
    have hbrg := s.take_brg k
    obtain ⟨hb, heng⟩ := State.onToken_parent (s := s.take k) (t := t) (by rw [hbrg]; exact hrole) htok
      (by rw [hbrg]; exact htpv) (by rw [hbrg]; exact hpath)
    rw [s.take_oneway] at hb heng
    intro w
    refine ⟨fun hst hwrap => ?_, fun hst hsrc hrev => ?_⟩
    · obtain ⟨f, hf⟩ := State.takeToken_adopts (s := s.take k) (t := t) (by rw [hbrg]; exact hst) hwrap w
      rw [hf] at hb heng
      refine ⟨_, hrun, ?_⟩
      rw [hb, heng]
      exact ⟨rfl, rfl, ((s.take k).brg.adopt_bearing tok w t), rfl, rfl, rfl, rfl, rfl,
        ((s.take k).at_eng t).trans (s.take_eng k)⟩
    · have hlow := Brg.bearingAt_le (.inl hst) t
      have hf := State.takeToken_follows (s := s.take k) (t := t) (by rw [hbrg]; exact hst) (by rw [hbrg]; exact hsrc)
        (by rw [hbrg]; exact hrev) w
      rw [hbrg] at hf
      rw [hf] at hb heng
      refine ⟨_, hrun, ?_⟩
      rw [hb, heng]
      exact ⟨rfl, rfl, rfl, rfl, Brg.follow_bearing_now hlow w, fun hhold x => Brg.bearingAt_top (.inl rfl) hhold x,
        fun hhold x => Brg.follow_bearing hlow hhold w x, ((s.take k).at_eng t).trans (s.take_eng k)⟩
  case other =>
    obtain ⟨tok, htok⟩ := Option.isSome_iff_exists.mp htok
    rw [exec_benchmark htype hdst hok, State.onToken_other htok (by rw [s.take_brg]; exact hother)]
  case coast =>
    refine ⟨_, exec_bearingCoast hrole ht hst hlast, rfl, fun x => ?_⟩
    simp [Brg.bearingAt, hst]
  case lost =>
    refine ⟨_, exec_bearingLost ht hst hlast, ?_⟩
    rw [(State.log_logOnly ..).brg]
    exact ⟨rfl, s.brg.closeRev_rev t, rfl, fun x => rfl⟩
  case unlock =>
    have hclear : s.tpvClear = { s with brg := { s.brg.unlock s.now with tpv := false } } :=
      if_neg (ne_true_of_eq_false hrole)
    exact ⟨_, congrArg Host.Outcome.next hclear, rfl, rfl, rfl⟩

end

namespace Sys2Proof.Machine

/-! ### Stakeout entries (R295, R296, R379) -/

/-- Where no entry is due, there is nothing to settle. -/
theorem Brg.settleNones_of_none {b : Brg} {t : Nat} (hstill : b.dueStill = []) (hdue : b.dueAt t = []) :
    b.settleNones t = b := by simp [Brg.settleNones, hstill, hdue]

/-- A staged word makes no entry due, and moves no bearing. -/
theorem Brg.setStage_dueStill (b : Brg) (n k v : Nat) : (b.setStage n k v).dueStill = b.dueStill := rfl
theorem Brg.setStage_dueAt (b : Brg) (n k v t : Nat) : (b.setStage n k v).dueAt t = b.dueAt t := rfl

theorem Brg.setStage_stk (b : Brg) (n k v : Nat) : (b.setStage n k v).stk = b.stk := rfl

theorem Brg.setStage_settled {b : Brg} {t : Nat} (hstill : b.dueStill = []) (hdue : b.dueAt t = []) (n k v : Nat) :
    (b.setStage n k v).settleNones t = b.setStage n k v :=
  Brg.settleNones_of_none hstill hdue

theorem Brg.stage_setStage (b : Brg) (n k v : Nat) :
    (b.setStage n k v).stage n = (b.stage n).set k (if k = 2 then v % 2 ^ 9 else v) := by
  simp [Brg.stage, Brg.setStage, Map.getD_put]

theorem Brg.commit_stk (b : Brg) (n : Nat) (ws : List Nat) (t : Nat) : (b.commit n ws t).stk = Map.put b.stk n ws := by
  unfold Brg.commit
  dsimp only
  split <;> rfl

/-- An entry whose bearing has passed is marked with the revolution (R296). -/
theorem Brg.commit_late (b : Brg) (n : Nat) (ws : List Nat) (t : Nat) :
    Map.find (b.commit n ws t).late n = if b.valid && decide (ws.getD 0 0 < b.bearingAt t) then some b.rev else none := by
  unfold Brg.commit
  dsimp only
  split
  · exact Map.find_put ..
  · exact (Map.find_del ..).trans (if_pos rfl)

theorem stakeoutOk_reserved (w2 w3 : Nat) : stakeoutOk (w2 % 2 ^ 9) w3 = stakeoutOk w2 w3 := by
  have h : bitsOf (w2 % 2 ^ 9) 0 4 = bitsOf w2 0 4 := by simp only [bitsOf]; omega
  rw [stakeoutOk, stakeoutOk, h]

section

variable {s : State} {n w3 : Nat}

/-- W3 commits the staged words where they may be. -/
theorem State.stakeoutCommit_ok (hstill : s.brg.dueStill = []) (hdue : s.brg.dueAt s.now = [])
    (hok : stakeoutOk (((s.brg.stage n).set 3 w3).getD 2 0) w3 = true) :
    s.stakeoutCommit n w3 = { s with brg := (s.brg.setStage n 3 w3).commit n ((s.brg.stage n).set 3 w3) s.now } := by
  simp only [State.stakeoutCommit, Brg.setStage_settled hstill hdue, Brg.stage_setStage]
  exact congrArg (fun b => { s with brg := b }) (if_pos hok)

theorem State.stakeoutCommit_reserved (hstill : s.brg.dueStill = []) (hdue : s.brg.dueAt s.now = [])
    (hok : stakeoutOk (((s.brg.stage n).set 3 w3).getD 2 0) w3 = false) :
    s.stakeoutCommit n w3 = { s with brg := s.brg.setStage n 3 w3 } := by
  simp only [State.stakeoutCommit, Brg.setStage_settled hstill hdue, Brg.stage_setStage]
  exact congrArg (fun b => { s with brg := b }) (if_neg (ne_true_of_eq_false hok))

end

/-- The four words of a STAKEOUT_WRITE staged. -/
def Brg.staged4 (b : Brg) (n w0 w1 w2 : Nat) : Brg := ((b.setStage n 0 w0).setStage n 1 w1).setStage n 2 w2

theorem Brg.staged4_dueStill (b : Brg) (n w0 w1 w2 : Nat) : (b.staged4 n w0 w1 w2).dueStill = b.dueStill := by
  simp only [Brg.staged4, Brg.setStage_dueStill]

theorem Brg.staged4_dueAt (b : Brg) (n w0 w1 w2 t : Nat) : (b.staged4 n w0 w1 w2).dueAt t = b.dueAt t := by
  simp only [Brg.staged4, Brg.setStage_dueAt]

theorem Brg.stage_staged4 {b : Brg} {n : Nat} (hlen : (b.stage n).length = 4) (w0 w1 w2 w3 : Nat) :
    ((b.staged4 n w0 w1 w2).stage n).set 3 w3 = [w0, w1, w2 % 2 ^ 9, w3] := by
  obtain ⟨a, _ | ⟨c, _ | ⟨d, _ | ⟨e, _ | _⟩⟩⟩, h⟩ : ∃ a l, b.stage n = a :: l := List.exists_cons_of_length_pos (by omega)
  all_goals simp [h] at hlen
  simp [Brg.staged4, Brg.stage_setStage, h]

section

variable {s : State} {h : Hdr} {n : Byte} {w0 w1 w2 w3 : BitVec 32} {r : Started}

theorem Admitted.stakeoutWrite (ha : Admitted s h 0x0501 (Instr.params (.stakeoutWrite h n w0 w1 w2 w3)) r) :
    exec (.stakeoutWrite h n w0 w1 w2 w3) s = .next (
      if !stakeoutOk w2.toNat w3.toNat then s.finish r 0x0801
      else (if Map.find s.brg.bar0At n.toNat = some s.now then s
        else State.stakeoutCommit { s with brg := s.brg.staged4 n.toNat w0.toNat w1.toNat w2.toNat } n.toNat w3.toNat).finish r 0) := by
  change Host.Outcome.next (s.command h 0x0501 (Instr.params (.stakeoutWrite h n w0 w1 w2 w3)) _) = _
  rw [ha.command]
  rfl

theorem Admitted.stakeoutRead (ha : Admitted s h 0x0502 (Instr.params (.stakeoutRead h n)) r) :
    exec (.stakeoutRead h n) s = .next (s.finish r 0 ((List.range 4).flatMap fun k =>
      toLE 4 ((s.brg.settleNones s.now).word n.toNat k))) := by
  change Host.Outcome.next (s.command h 0x0502 (Instr.params (.stakeoutRead h n)) _) = _
  rw [ha.command]

end

end Sys2Proof.Machine

section

open Sys2Proof Sys2Proof.Machine

/-- Settles O39: a commit replaces the entry whole or leaves it, whether a register write or the command asks for it. -/
theorem stakeoutEntries : Obligations.StakeoutEntries := by
  unfold Obligations.StakeoutEntries
  refine ⟨?register, fun s h n w0 w1 w2 w3 r ha => ?write, fun s h n r ha => ?read⟩
  case register =>
    intro s n w3 hstill hdue ws hlen
    refine ⟨fun hready => ?_, fun hready hok => ?_, fun hready hok => ?_⟩
    · exact congrArg Host.Outcome.next (if_neg (ne_true_of_eq_false hready))
    · refine ⟨_, congrArg Host.Outcome.next (if_pos hready), ?_⟩
      unfold State.stakeoutBar0
      rw [State.stakeoutCommit_ok hstill hdue hok]
      refine ⟨?_, fun m hm => ?_, ?_, Map.find_put .., rfl⟩
      · exact (congrArg (Map.find · _) (Brg.commit_stk ..)).trans (Map.find_put ..)
      · exact (congrArg (Map.find · _) (Brg.commit_stk ..)).trans (Map.find_put_ne _ _ _ _ hm)
      · exact Brg.commit_late ..
    · refine ⟨_, congrArg Host.Outcome.next (if_pos hready), ?_⟩
      unfold State.stakeoutBar0
      rw [State.stakeoutCommit_reserved hstill hdue hok]
      exact ⟨rfl, rfl⟩
  case write =>
    refine ⟨fun hok => ?_, fun hok hnow => ?_, fun hok hnow hstill hdue hlen => ?_⟩
    · rw [ha.stakeoutWrite, if_pos (by simp [hok])]
    · rw [ha.stakeoutWrite, if_neg (by simp [hok]), if_pos hnow]
    · have hws := Brg.stage_staged4 hlen w0.toNat w1.toNat w2.toNat w3.toNat
      have hcommit := State.stakeoutCommit_ok (n := n.toNat) (w3 := w3.toNat)
        (s := { s with brg := s.brg.staged4 n.toNat w0.toNat w1.toNat w2.toNat })
        ((Brg.staged4_dueStill ..).trans hstill) ((Brg.staged4_dueAt ..).trans hdue) (by rw [hws]; exact (stakeoutOk_reserved ..).trans hok)
      rw [hws] at hcommit
      have hrun := ha.stakeoutWrite
      rw [if_neg (by simp [hok]), if_neg hnow, hcommit] at hrun
      refine ⟨_, _, hrun, rfl, ?_⟩
      rw [Brg.commit_stk, Brg.setStage_stk, Brg.staged4, Brg.setStage_stk, Brg.setStage_stk, Brg.setStage_stk]
      exact ⟨Map.find_put .., fun m hm => Map.find_put_ne _ _ _ _ hm⟩
  case read =>
    rw [ha.stakeoutRead]
    rfl

end

namespace Sys2Proof.Machine

/-! # What a due stakeout does (O40) -/

/-- The state in which the due entry `d` takes its effect: time brought forward, what has no action settled, the entry fired. -/
def State.fired (s : State) (t : Nat) (d : Nat × Nat) : State :=
  { s.at t with brg := ((s.at t).brg.settleNones (s.at t).now).fire d }

/-- An entry that issues next has the effect of its action (R296, R297). -/
theorem State.fires_due {s : State} {n : Fin 256} {t rev action : Nat}
    (hd : (s.at t).brg.nextDue (s.at t).now = some (n.val, rev)) (ha : s.brg.sAction n.val = action)
    (f : Nat × Nat → State → State) :
    s.fires n t action f = f ((s.at t).brg.issueAt (n.val, rev) (s.at t).now) (s.fired t (n.val, rev)) := by
  have hact : (s.at t).brg.sAction n.val = action := by rw [State.at_brg]; exact ha
  unfold State.fires
  simp only [hd]
  exact if_pos (by simp [hact])

theorem State.fired_flt (s : State) (t : Nat) (d : Nat × Nat) : (s.fired t d).flt = s.flt := by
  rw [State.fired, s.at_frame]

theorem State.fired_d3hot (s : State) (t : Nat) (d : Nat × Nat) : (s.fired t d).d3hot = s.d3hot := by
  rw [State.fired, s.at_frame]

theorem State.fired_ctx (s : State) (t : Nat) (d : Nat × Nat) (c : Nat) : (s.fired t d).ctx c = s.ctx c := by
  rw [State.fired, s.at_frame]; rfl

theorem State.fired_pwr (s : State) (t : Nat) (d : Nat × Nat) : (s.fired t d).pwr = s.pwr := by
  rw [State.fired, s.at_frame]

theorem State.fired_engOf (s : State) (t : Nat) (d : Nat × Nat) (k : Nat) : (s.fired t d).engOf k = s.engOf k := by
  rw [State.fired, s.at_frame]; rfl

theorem State.fired_stake (s : State) (t : Nat) (d : Nat × Nat) (h i : Nat) : (s.fired t d).stake h i = s.stake h i := by
  rw [State.stake, State.fired_engOf]; rfl

theorem State.fired_fp (s : State) (t : Nat) (d : Nat × Nat) (n : Nat) : (s.fired t d).fp n = s.fp n := by
  rw [State.fired, s.at_frame]; rfl

theorem State.fired_unitBusy (s : State) (t : Nat) (d : Nat × Nat) (u : Nat) : (s.fired t d).unitBusy u = s.unitBusy u := by
  rw [State.fired, s.at_frame]; rfl

theorem State.fired_waiters (s : State) (t : Nat) (d : Nat × Nat) (h i : Nat) :
    (s.fired t d).waiters h i = s.waiters h i := by
  rw [State.fired, s.at_frame]; rfl

theorem State.fired_ctxMoving (s : State) (t : Nat) (d : Nat × Nat) : (s.fired t d).ctxMoving = s.ctxMoving := by
  rw [State.fired, s.at_frame]; rfl

theorem State.fired_ctxActs (s : State) (t : Nat) (d : Nat × Nat) : (s.fired t d).ctxActs = s.ctxActs := by
  rw [State.fired, s.at_frame]

theorem State.fired_snapShelfOk (s : State) (t : Nat) (d : Nat × Nat) (n : Nat) :
    (s.fired t d).snapShelfOk n = s.snapShelfOk n := by rw [State.fired, s.at_frame]; rfl

theorem State.fired_snapAdmits (s : State) (t : Nat) (d : Nat × Nat) (a len : Nat) :
    (s.fired t d).snapAdmits a len = s.snapAdmits a len := by rw [State.fired, s.at_frame]; rfl

theorem State.fired_mem (s : State) (t : Nat) (d : Nat × Nat) : (s.fired t d).mem = s.mem := by
  rw [State.fired, s.at_frame]

/-- Time grows the waiting and the throttled time of the next phase record, and nothing else of the counters. -/
theorem State.at_ctr (s : State) (t : Nat) : ∃ p h, (s.at t).ctr = { s.ctr with peerWait := p, thrTime := h } := by
  unfold State.at
  split
  · exact ⟨_, _, rfl⟩
  · exact ⟨_, _, rfl⟩

theorem State.fired_ctr (s : State) (t : Nat) (d : Nat × Nat) :
    ∃ p h, (s.fired t d).ctr = { s.ctr with peerWait := p, thrTime := h } := s.at_ctr t

/-! ### Stakes (R157, R158) -/

/-- The waits of one unit of a running context on a stake. -/
def State.waitsAt (s : State) (h i : Nat) (kv : Nat × Eng) : List (Nat × Q × Want) :=
  if (s.ctx (keyCtx kv.1)).st == .running && !(s.ctx (keyCtx kv.1)).parking then
    [Q.m, Q.v, Q.x, Q.s].filterMap fun q =>
      match (kv.2.sync.queue q).head with
      | some ⟨_, _, .stake h' j w⟩ => if h' = h && j = i then some (kv.1, q, w) else none
      | _ => none
  else []

theorem unitOrder_mem (u : Nat) : unitOrder u ∈ [4, 3, 2, 1, 0] := by
  unfold unitOrder
  split
  · decide
  · split
    · decide
    · split
      · decide
      · split <;> decide

/-- Waits put in order, those of one engine first and the others by the order of their unit, are none where none were. -/
theorem waitOrder_nil {l : List (Nat × Q × Want)} {h : Nat} {orders : List Nat} (hall : ∀ u, unitOrder u ∈ orders) :
    (l.filter (fun w => w.1 == h) ++
      orders.flatMap fun k => (l.filter fun w => w.1 != h).filter fun w => unitOrder (keyUnit w.1) == k) = [] ↔ l = [] := by
  refine ⟨fun he => List.eq_nil_iff_forall_not_mem.mpr fun w hw => ?_, fun he => ?_⟩
  · obtain ⟨hown, hrest⟩ := List.append_eq_nil_iff.mp he
    by_cases hk : w.1 = h
    · exact List.filter_eq_nil_iff.mp hown w hw (beq_iff_eq.mpr hk)
    · have horder := List.flatMap_eq_nil_iff.mp hrest _ (hall (keyUnit w.1))
      exact List.filter_eq_nil_iff.mp horder w (List.mem_filter.mpr ⟨hw, bne_iff_ne.mpr hk⟩) (beq_self_eq_true _)
  · rw [he]
    exact List.append_eq_nil_iff.mpr ⟨rfl, List.flatMap_eq_nil_iff.mpr fun _ _ => rfl⟩

/-- No queue waits on a stake exactly where none does in any unit. -/
theorem State.waiters_nil {s : State} {h i : Nat} :
    s.waiters h i = [] ↔ s.eng.all (fun kv => (s.waitsAt h i kv).isEmpty) = true := by
  rw [List.all_eq_true]
  refine (waitOrder_nil (l := s.eng.flatMap (s.waitsAt h i)) unitOrder_mem).trans ?_
  exact List.flatMap_eq_nil_iff.trans (forall₂_congr fun _ _ => List.isEmpty_iff.symm)

/-- A stake that takes another state is waited for by no more queues. -/
theorem State.setStake_waiters {s : State} {h i : Nat} (hw : s.waiters h i = []) (st : StakeSt) :
    (s.setStake h i st).waiters h i = [] := by
  rw [State.waiters_nil] at hw ⊢
  refine Map.all_putD (p := fun kv => (s.waitsAt h i kv).isEmpty) hw ?_
  cases hf : Map.find s.eng h with
  | none =>
    have he : s.engOf h = Eng.empty := by simp [State.engOf, Map.getD, hf]
    rw [he, State.waitsAt]
    split <;> rfl
  | some e =>
    have he : s.engOf h = e := by simp [State.engOf, Map.getD, hf]
    rw [he]
    have hsame := Map.all_find (p := fun kv => (s.waitsAt h i kv).isEmpty) hw hf
    exact hsame

theorem State.stake_setStake_ne (s : State) {h i k j : Nat} (hne : (k, j) ≠ (h, i)) (st : StakeSt) :
    (s.setStake h i st).stake k j = s.stake k j := by
  by_cases hk : k = h
  · subst hk
    have hj : j ≠ i := fun hj => hne (by rw [hj])
    rw [State.stake, State.setStake, State.setSync, State.engOf_setEng]
    exact Map.getD_putD_ne _ _ _ hj
  · rw [State.stake, State.setStake, State.setSync, State.engOf_setEng_ne _ _ hk]
    rfl

/-- A stake of a running context that is clear and on which no queue waits is set, and nothing else of the stakes or of the
bearing changes. -/
theorem State.stakeOpAny_sets {s : State} {h i : Nat} (hrun : (s.ctx (keyCtx h)).st = .running)
    (hst : (s.stake h i).st = .clear) (hw : s.waiters h i = []) :
    ((s.stakeOpAny h i true).stake h i).st = .set ∧ (s.stakeOpAny h i true).brg = s.brg ∧
      ∀ k j, (k, j) ≠ (h, i) → (s.stakeOpAny h i true).stake k j = s.stake k j := by
  have hop : s.stakeOpAny h i true = ((s.stakeCounted h true).setStake h i .set).wakeStake h i :=
    (State.onSaved_live (.inr (.inl hrun)) _ _).trans (State.stakeOp_changes hst)
  have hw' : ((s.stakeCounted h true).setStake h i .set).waiters h i = [] := by
    refine State.setStake_waiters ?_ _
    rw [State.stakeCounted, State.countAll_frame]; exact hw
  have hcount : ∀ k j, (s.stakeCounted h true).stake k j = s.stake k j := fun k j => State.stake_countAll ..
  refine ⟨?_, ?_, fun k j hne => ?_⟩
  · rw [hop, State.stake_wakeStake_of_no_waiters hw', State.stake_setStake]
  · rw [hop, State.wakeStake_of_no_waiters hw', State.stakeCounted, State.countAll_frame]; rfl
  · rw [hop, State.stake_wakeStake_of_no_waiters hw', State.stake_setStake_ne _ hne, hcount]

/-- The stake that a reference of a context names is one of that context. -/
theorem stakeRef_ctx {c w : Nat} {k : Nat × Nat} (h : stakeRef c w = some k) : keyCtx k.1 = c := by
  unfold stakeRef at h
  split at h
  · next u hu =>
    split at h
    · cases h; exact keyCtx_engKey (pathUnit_lt hu)
    · cases h
  · cases h

/-! ### Snapshots and phase marks (R384, R471-R473) -/

section

variable {s : State} {tag : Nat} {x : Nat × Nat}

theorem State.snapRequest_taken (hcopy : s.ctr.copy = none) (hen : s.ctr.en = true) (hok : s.snapShelfOk s.ctr.shelf = true)
    (stakeout : Bool) :
    s.snapRequest tag stakeout x = ({ s with ctr := { s.ctr with
      copy := some ⟨s.ctr.nSnap + 1, tag, stakeout, s.ctr.held, s.brg.valid, s.ns, x.1, x.2, s.ctr.shelf⟩, thawNext := false
      image := if s.ctr.image.isSome then s.ctr.image else some s.ctr.freeze } }, true) :=
  if_neg (by simp [hcopy, hen, hok])

theorem State.snapRequest_missed (h : s.ctr.copy.isSome = true ∨ s.ctr.en = false ∨ s.snapShelfOk s.ctr.shelf = false)
    (stakeout : Bool) :
    s.snapRequest tag stakeout x = (State.count { s with ctr := { s.ctr with smiss := true } } (ctrDev 56), false) :=
  if_pos (by rcases h with h | h | h <;> simp [h])

end

/-- The image that a snapshot holds. -/
theorem Ctr.image_held (c : Ctr) : (if c.image.isSome then c.image else some c.freeze).isSome = true := by
  split
  · assumption
  · rfl

/-! ### Contexts (R329, R334) -/

/-- Nothing differs but the contexts and the counters. -/
def CtxOnly (s t : State) : Prop := t = { s with ctxs := t.ctxs, ctr := t.ctr }

theorem CtxOnly.trans {s t u : State} (h : CtxOnly s t) (g : CtxOnly t u) : CtxOnly s u := by
  unfold CtxOnly at *; rw [g, h]

theorem CtxOnly.brg {s t : State} (h : CtxOnly s t) : t.brg = s.brg := by rw [h]

theorem CtxOnly.foldl {α : Type} {f : State → α → State} (hf : ∀ s x, CtxOnly s (f s x)) (l : List α) (s : State) :
    CtxOnly s (l.foldl f s) := by
  induction l generalizing s with
  | nil => exact rfl
  | cons x l ih => exact (hf s x).trans (ih _)

theorem State.preempt_ctxOnly (s : State) (c : Nat) : CtxOnly s (s.preempt c) := by
  unfold State.preempt
  split <;> rfl

theorem State.sliceTurn_ctxOnly (s : State) : CtxOnly s s.sliceTurn := by
  unfold State.sliceTurn
  split
  · rfl
  · split <;> rfl

/-- A slice-out begins of a parked context only. -/
theorem State.sliceTurn_ctx {s : State} {c : Nat} (hc : (s.ctx c).st ≠ .parked) : s.sliceTurn.ctx c = s.ctx c := by
  unfold State.sliceTurn
  split
  · rfl
  · split
    · next d hd =>
      have hparked : (s.ctx d).st = .parked := by
        have := List.find?_some hd
        simp only [Bool.and_eq_true, beq_iff_eq] at this
        exact this.2
      exact State.ctx_setCtx_ne _ _ fun e => hc (e ▸ hparked)
    · rfl

/-- A loaded context begins to start from its image. -/
theorem State.startNow_loaded {s : State} {c : Nat} (hst : (s.ctx c).st = .loaded) :
    (s.startNow c).ctx c = { s.ctx c with st := .starting, fromImage := true, parkNext := false, startAt := s.now } ∧
      CtxOnly s (s.startNow c) := by
  unfold State.startNow
  extract_lets v s1 s2
  have h1 : CtxOnly s s1 := CtxOnly.foldl (fun s d => by
    split
    · refine CtxOnly.trans ?_ (State.preempt_ctxOnly _ _)
      split <;> rfl
    · rfl) _ s
  have h2 : CtxOnly s1 s2 := CtxOnly.foldl (fun s d => by split <;> rfl) _ s1
  have hfrom : (v.st == .loaded) = true := beq_iff_eq.mpr hst
  rw [hfrom]
  set s3 := s2.setCtx c { v with st := .starting, fromImage := true, parkNext := false, startAt := s.now }
  have hc3 : s3.ctx c = { v with st := .starting, fromImage := true, parkNext := false, startAt := s.now } :=
    State.ctx_setCtx ..
  have hc4 : s3.sliceTurn.ctx c = s3.ctx c := State.sliceTurn_ctx (by rw [hc3]; exact nofun)
  have hstill : s3.sliceTurn.settle c = s3.sliceTurn := by
    unfold State.settle
    simp only [hc4, hc3, Bool.not_true, Bool.and_false, Bool.false_and, Bool.false_eq_true, if_false]
  have hs3 : CtxOnly s2 s3 := rfl
  rw [hstill, hc4, hc3]
  exact ⟨rfl, ((h1.trans h2).trans hs3).trans s3.sliceTurn_ctxOnly⟩

section

variable {s : State} {a : CtxAct}

/-- An action that may take effect at once. -/
theorem State.ctxIssue_ready (hacts : s.ctxActs = []) (hready : State.actReady { s with ctxActs := [] } a = true) :
    s.ctxIssue a = State.actTake { s with ctxActs := [] } a := by
  have hready' : State.actReady { s with ctxActs := [a] } a = true := hready
  simp only [State.ctxIssue, hacts, List.nil_append, List.length_singleton, State.actsTake, hready', if_true]

theorem State.actReady_of_still (hd3 : s.d3hot = false) (hstill : s.ctxMoving = false) : s.actReady a = true := by
  simp [State.actReady, hd3, hstill]

theorem State.ctxIssue_start {c : Nat} (hd3 : s.d3hot = false) (hdrained : s.flt.drained = false) (hacts : s.ctxActs = [])
    (hstill : s.ctxMoving = false) (hst : (s.ctx c).st = .loaded) (cmd : Option Started) (n : Bool) :
    s.ctxIssue ⟨c, true, cmd, n⟩ = State.startNow { s with ctxActs := [] } c := by
  rw [State.ctxIssue_ready hacts (State.actReady_of_still hd3 hstill)]
  have hst' : (State.ctx { s with ctxActs := [] } c).st = .loaded := hst
  simp [State.actTake, State.ctxStartOp, hst', hdrained]

theorem State.ctxIssue_preempt {c : Nat} (hd3 : s.d3hot = false) (hacts : s.ctxActs = []) (hstill : s.ctxMoving = false)
    (hst : (s.ctx c).st = .running) (cmd : Option Started) (n : Bool) :
    s.ctxIssue ⟨c, false, cmd, n⟩ = State.setCtx { s with ctxActs := [] } c { s.ctx c with parking := true } := by
  rw [State.ctxIssue_ready hacts (State.actReady_of_still hd3 hstill)]
  have hpre : State.ctxPreOp { s with ctxActs := [] } c = (State.preempt { s with ctxActs := [] } c, true) := by
    unfold State.ctxPreOp
    have hst' : (State.ctx { s with ctxActs := [] } c).st = .running := hst
    simp only [hst']
  have htake : State.actTake { s with ctxActs := [] } ⟨c, false, cmd, n⟩ =
      (State.ctxPreOp { s with ctxActs := [] } c).1 := by
    unfold State.actTake
    simp only [hpre, Bool.false_eq_true, if_false]
  rw [htake, hpre]
  exact if_pos (beq_iff_eq.mpr hst)

end

/-! ### The commands of the actions -/

section

variable {s : State} {n : Fin 256} {t rev : Nat} (hd : (s.at t).brg.nextDue (s.at t).now = some (n.val, rev))

include hd

theorem exec_setstake (ha : s.brg.sAction n.val = 1) : exec (.setstake n t) s =
    .next ((s.fired t (n.val, rev)).unlessDrained fun u => u.setStakeAction (s.brg.sCtx n.val) (s.brg.sParam n.val)) :=
  congrArg Host.Outcome.next (State.fires_due hd ha _)

theorem exec_snap (ha : s.brg.sAction n.val = 2) : exec (.snap n t) s =
    .next (match (s.fired t (n.val, rev)).snapRequest (bitsOf (s.brg.sParam n.val) 0 8) true
      ((s.at t).brg.issueAt (n.val, rev) (s.at t).now) with
      | (s1, true) => s1
      | (s1, false) => s1.brgNop) :=
  congrArg Host.Outcome.next (State.fires_due hd ha _)

theorem exec_ctxstart (ha : s.brg.sAction n.val = 3) : exec (.ctxstart n t) s =
    .next ((s.fired t (n.val, rev)).unlessD3 fun u => u.unlessDrained fun u => u.ctxIssue ⟨s.brg.sCtx n.val, true, none, true⟩) :=
  congrArg Host.Outcome.next (State.fires_due hd ha _)

theorem exec_ctxpre (ha : s.brg.sAction n.val = 4) : exec (.ctxpre n t) s =
    .next ((s.fired t (n.val, rev)).unlessD3 fun u => u.ctxIssue ⟨s.brg.sCtx n.val, false, none, true⟩) :=
  congrArg Host.Outcome.next (State.fires_due hd ha _)

theorem exec_oppointAction (ha : s.brg.sAction n.val = 5) : exec (.oppointAction n t) s =
    .next ((s.fired t (n.val, rev)).unlessD3 fun u => u.unlessDrained fun u =>
      u.oppRequest (bitsOf (s.brg.sParam n.val) 0 3) true) :=
  congrArg Host.Outcome.next (State.fires_due hd ha _)

theorem exec_filler (ha : s.brg.sAction n.val = 6) : exec (.filler n t) s =
    .next ((s.fired t (n.val, rev)).unlessD3 fun u => u.unlessDrained fun u =>
      match u.fillerFire (bitsOf (s.brg.sParam n.val) 0 4) ((s.at t).brg.issueAt (n.val, rev) (s.at t).now).2 with
      | (s1, true) => s1
      | (s1, false) => s1.brgNop) :=
  congrArg Host.Outcome.next (State.fires_due hd ha _)

theorem exec_fpflush (ha : s.brg.sAction n.val = 7) : exec (.fpflush n t) s =
    .next ((s.fired t (n.val, rev)).fpFlushRange (bitsOf (s.brg.sParam n.val) 0 7) (bitsOf (s.brg.sParam n.val) 8 7 + 1)) :=
  congrArg Host.Outcome.next (State.fires_due hd ha _)

theorem exec_phasemark (ha : s.brg.sAction n.val = 8) : exec (.phasemark n t) s =
    .next ((s.fired t (n.val, rev)).phaseMark (bitsOf (s.brg.sParam n.val) 0 8)
      ((s.at t).brg.issueAt (n.val, rev) (s.at t).now).1 ((s.at t).brg.issueAt (n.val, rev) (s.at t).now).2) :=
  congrArg Host.Outcome.next (State.fires_due hd ha _)

end

/-- The revolution of an entry's issue is the one it fires in. -/
theorem Brg.issueAt_rev (b : Brg) (d : Nat × Nat) (t : Nat) : (b.issueAt d t).2 = d.2 := by
  unfold Brg.issueAt
  split
  · next h => exact h.symm
  · rfl

theorem State.unlessDrained_served {s : State} (h : s.flt.drained = false) (f : State → State) : s.unlessDrained f = f s :=
  if_neg (ne_true_of_eq_false h)

theorem State.unlessD3_awake {s : State} (h : s.d3hot = false) (f : State → State) : s.unlessD3 f = f s :=
  if_neg (ne_true_of_eq_false h)

/-- An action that has no effect anyway counts whether the device is drained or not, and in D3hot as elsewhere. -/
theorem State.unlessDrained_nop {s : State} {f : State → State} (h : f s = s.brgNop) : s.unlessDrained f = s.brgNop := by
  unfold State.unlessDrained
  split
  · rfl
  · exact h

theorem State.unlessD3_nop {s : State} {f : State → State} (h : f s = s.brgNop) : s.unlessD3 f = s.brgNop := by
  unfold State.unlessD3
  split
  · rfl
  · exact h

/-- A phase mark whose place `a` is admitted: its record is written there. -/
theorem State.phaseMark_admitted {s : State} {mark bearing rev a n : Nat} (hn : n = s.ctr.nPhase + 1)
    (ha : a = shelfAddr s.ctr.shelf (0x3800000 + 32 * (n % 262144))) (hen : s.ctr.en = true) (hok : s.snapAdmits a 32 = true) :
    s.phaseMark mark bearing rev = { (s.store a (s.phaseRecord n mark bearing rev)).access .control true a 32 with
      ctr := { ((s.store a (s.phaseRecord n mark bearing rev)).access .control true a 32).ctr with
        nPhase := n, peerWait := 0, thrTime := 0 } } := by
  unfold State.phaseMark
  simp only [← hn, ← ha, hen, hok, Bool.and_self, if_true]

theorem State.phaseMark_written {s : State} {mark bearing rev a n : Nat} (hn : n = s.ctr.nPhase + 1)
    (ha : a = shelfAddr s.ctr.shelf (0x3800000 + 32 * (n % 262144))) (hen : s.ctr.en = true) (hok : s.snapAdmits a 32 = true) :
    (s.phaseMark mark bearing rev).mem = s.mem.writeN a (s.phaseRecord n mark bearing rev) ∧
      (s.phaseMark mark bearing rev).ctr.nPhase = n ∧ (s.phaseMark mark bearing rev).ctr.peerWait = 0 ∧
      (s.phaseMark mark bearing rev).ctr.thrTime = 0 := by
  rw [State.phaseMark_admitted hn ha hen hok]
  exact ⟨(State.access_accessOnly (s.store a _) .control true a 32).mem, rfl, rfl, rfl⟩

theorem State.fillerFire_valid {s : State} {k : Nat} (h : s.pwr.fill1 k 96 1 = 1) (rev : Nat) :
    s.fillerFire k rev = ({ s with
      pwr := { s.pwr with fill := some ⟨k, s.now, s.pwr.duty s.now, rev, none⟩ }
      mod := { s.mod with gated := Map.keep s.mod.gated fun d _ => decide (64 ≤ d) } }, true) :=
  if_neg (by rw [h]; exact nofun)

theorem State.fillerFire_invalid {s : State} {k : Nat} (h : s.pwr.fill1 k 96 1 = 0) (rev : Nat) :
    s.fillerFire k rev = (s, false) := if_pos h

/-- SETSTAKE on a unit of the context that takes requests. -/
theorem State.setStakeAction_taken {s : State} {c w : Nat} {k : Nat × Nat} (hk : stakeRef c w = some k)
    (hfoot : inFoot (s.ctx c).foot (keyUnit k.1) = true) (hbusy : s.unitBusy (keyUnit k.1) = false) :
    s.setStakeAction c w = s.stakeOpAny k.1 k.2 true := by
  unfold State.setStakeAction
  simp only [hk, hfoot, hbusy, Bool.not_false, Bool.and_self, if_true]

theorem State.setStakeAction_none {s : State} {c w : Nat} (hk : stakeRef c w = none) : s.setStakeAction c w = s.brgNop := by
  unfold State.setStakeAction
  simp only [hk]

/-- The bearing after the entry has fired keeps it as fired in its revolution. -/
theorem Brg.fire_fired (b : Brg) (n rev : Nat) : Map.find (b.fire (n, rev)).fired n = some rev := Map.find_put ..

/-- The units of a flush are latched each once. -/
theorem State.fpFlushRange_fp {s : State} {first last i : Nat} (hrep : s.flt.replay = none) (hlast : last < 128) (hi : i ≤ last) :
    (s.fpFlushRange first (last + 1)).fp ((first + i) % 128) = (s.fp ((first + i) % 128)).flushed := by
  rw [State.fpFlushRange_of_none hrep, State.flushes_fp _ _ (flushUnits_nodup hlast),
    if_pos (mem_flushUnits.mpr ⟨i, Nat.lt_succ_of_le hi, rfl⟩)]

end Sys2Proof.Machine

section

open Sys2Proof Sys2Proof.Machine

/-- Settles O40: the entry that issues next fires and takes the effect of its action on the state of its clock; each clause
is the equation of its action on that state. -/
theorem stakeoutActions : Obligations.StakeoutActions := by
  intro s n t rev hd a w c b f x
  have hf : f = s.fired t (n.val, rev) := rfl
  have hb : f.brg = b := rfl
  clear_value f
  have hctx : ∀ d, f.ctx d = s.ctx d := by rw [hf]; exact State.fired_ctx s t (n.val, rev)
  have hmoving : f.ctxMoving = s.ctxMoving := by rw [hf]; exact State.fired_ctxMoving s t (n.val, rev)
  have hacts : f.ctxActs = s.ctxActs := by rw [hf]; exact State.fired_ctxActs s t (n.val, rev)
  have hd3 : f.d3hot = s.d3hot := by rw [hf]; exact State.fired_d3hot s t (n.val, rev)
  have hflt : f.flt = s.flt := by rw [hf]; exact State.fired_flt s t (n.val, rev)
  have hpwr : f.pwr = s.pwr := by rw [hf]; exact State.fired_pwr s t (n.val, rev)
  obtain ⟨p, q, hctr⟩ : ∃ p h, f.ctr = { s.ctr with peerWait := p, thrTime := h } := by rw [hf]; exact State.fired_ctr s t (n.val, rev)
  have hshelf : ∀ k, f.snapShelfOk k = s.snapShelfOk k := by rw [hf]; exact State.fired_snapShelfOk s t (n.val, rev)
  refine ⟨Brg.fire_fired _ _ _, ?setstake, ?nostake, ?snap, ?smiss, ?ctxstart, ?ctxpre, ?oppoint, ?filler, ?nofiller,
    ?fpflush, ?phasemark⟩
  case setstake =>
    intro k ha hserve hk hfoot hbusy
    have hrun : exec (.setstake n t) s = .next (f.stakeOpAny k.1 k.2 true) := by
      rw [exec_setstake hd ha, ← hf]
      rw [State.unlessDrained_served (by rw [hflt]; exact hserve), State.setStakeAction_taken hk (by rw [hctx]; exact hfoot)
        (by rw [hf]; exact (State.fired_unitBusy s t (n.val, rev) _).trans hbusy)]
    refine ⟨hrun, fun hctxst hclear hwait => ?_⟩
    have hstake : ∀ h i, f.stake h i = s.stake h i := by rw [hf]; exact State.fired_stake s t (n.val, rev)
    obtain ⟨hset, hbrg, hrest⟩ := State.stakeOpAny_sets (s := f) (h := k.1) (i := k.2)
      (by rw [stakeRef_ctx hk, hctx]; exact hctxst) (by rw [hstake]; exact hclear)
      (by rw [hf]; exact (State.fired_waiters s t (n.val, rev) _ _).trans hwait)
    exact ⟨_, hrun, hset, hbrg.trans hb, fun h i hne => (hrest h i hne).trans (hstake h i)⟩
  case nostake =>
    intro ha hk
    rw [exec_setstake hd ha, ← hf]
    exact congrArg Host.Outcome.next (State.unlessDrained_nop (State.setStakeAction_none hk))
  case snap =>
    intro ha hcopy hen hok
    have hrun := exec_snap hd ha
    rw [← hf] at hrun
    have htaken := State.snapRequest_taken (s := f) (tag := bitsOf w 0 8) (x := x) (by rw [hctr]; exact hcopy)
      (by rw [hctr]; exact hen) (by rw [hshelf, hctr]; exact hok) true
    change exec (.snap n t) s = .next (match f.snapRequest (bitsOf w 0 8) true x with
      | (s1, true) => s1
      | (s1, false) => s1.brgNop) at hrun
    rw [htaken] at hrun
    exact ⟨_, _, hrun, rfl, by rw [hctr], rfl, rfl, rfl, rfl, Ctr.image_held _, hb⟩
  case smiss =>
    intro ha hcopy
    have hrun := exec_snap hd ha
    rw [← hf] at hrun
    have hmissed := State.snapRequest_missed (s := f) (tag := bitsOf w 0 8) (x := x)
      (.inl (by rw [hctr]; exact hcopy)) true
    change exec (.snap n t) s = .next (match f.snapRequest (bitsOf w 0 8) true x with
      | (s1, true) => s1
      | (s1, false) => s1.brgNop) at hrun
    rw [hmissed] at hrun
    refine ⟨_, hrun, rfl, ?_⟩
    change f.ctr.copy = _
    rw [hctr]
  case ctxstart =>
    intro ha hawake hserve hnone hstill hst _
    have hrun : exec (.ctxstart n t) s = .next (State.startNow { f with ctxActs := [] } c) := by
      rw [exec_ctxstart hd ha, ← hf]
      rw [State.unlessD3_awake (by rw [hd3]; exact hawake), State.unlessDrained_served (by rw [hflt]; exact hserve),
        State.ctxIssue_start (by rw [hd3]; exact hawake) (by rw [hflt]; exact hserve) (by rw [hacts]; exact hnone)
          (by rw [hmoving]; exact hstill) (by rw [hctx]; exact hst)]
    have hloaded : (State.ctx { f with ctxActs := [] } c).st = .loaded := by
      change (f.ctx c).st = _
      rw [hctx]; exact hst
    obtain ⟨hstart, honly⟩ := State.startNow_loaded hloaded
    exact ⟨_, hrun, by rw [hstart], by rw [hstart], honly.brg.trans hb⟩
  case ctxpre =>
    intro ha hawake hnone hstill hst
    have hrun : exec (.ctxpre n t) s = .next (State.setCtx { f with ctxActs := [] } c { f.ctx c with parking := true }) := by
      rw [exec_ctxpre hd ha, ← hf]
      rw [State.unlessD3_awake (by rw [hd3]; exact hawake), State.ctxIssue_preempt (by rw [hd3]; exact hawake)
        (by rw [hacts]; exact hnone) (by rw [hmoving]; exact hstill) (by rw [hctx]; exact hst)]
    refine ⟨_, hrun, ?_, ?_, hb⟩
    · rw [State.ctx_setCtx]
    · rw [State.ctx_setCtx, hctx]; exact hst
  case oppoint =>
    intro ha hawake hserve
    rw [exec_oppointAction hd ha, ← hf]
    rw [State.unlessD3_awake (by rw [hd3]; exact hawake), State.unlessDrained_served (by rw [hflt]; exact hserve),
      State.oppRequest, hpwr]
  case filler =>
    intro ha hawake hserve hvalid
    have hrun := exec_filler hd ha
    rw [← hf] at hrun
    change exec (.filler n t) s = .next (f.unlessD3 fun u => u.unlessDrained fun u =>
      match u.fillerFire (bitsOf w 0 4) x.2 with
      | (s1, true) => s1
      | (s1, false) => s1.brgNop) at hrun
    rw [State.unlessD3_awake (by rw [hd3]; exact hawake), State.unlessDrained_served (by rw [hflt]; exact hserve),
      State.fillerFire_valid (by rw [hpwr]; exact hvalid)] at hrun
    refine ⟨_, hrun, ?_, hb⟩
    change { f.pwr with fill := some ⟨bitsOf w 0 4, f.now, f.pwr.duty f.now, x.2, none⟩ } = _
    rw [hpwr, show x.2 = rev from Brg.issueAt_rev _ _ _, show f.now = max s.now t by rw [hf]; exact s.at_now t]
  case nofiller =>
    intro ha hinvalid
    rw [exec_filler hd ha, ← hf]
    refine congrArg Host.Outcome.next (State.unlessD3_nop (State.unlessDrained_nop ?_))
    change (match f.fillerFire (bitsOf w 0 4) x.2 with
      | (s1, true) => s1
      | (s1, false) => s1.brgNop) = f.brgNop
    rw [State.fillerFire_invalid (by rw [hpwr]; exact hinvalid)]
  case fpflush =>
    intro ha hrep
    refine ⟨f.fpFlushRange (bitsOf w 0 7) (bitsOf w 8 7 + 1), by rw [hf]; exact exec_fpflush hd ha, ?_⟩
    intro i hi j
    have hfp : f.fp j = s.fp j := by rw [hf]; exact State.fired_fp s t (n.val, rev) j
    have hflush := State.fpFlushRange_fp (s := f) (first := bitsOf w 0 7) (by rw [hflt]; exact hrep)
      (Nat.mod_lt _ (by decide)) hi
    change (f.fpFlushRange (bitsOf w 0 7) (bitsOf w 8 7 + 1)).fp j = (f.fp j).flushed at hflush
    rw [hfp] at hflush
    change (_ → (f.fpFlushRange (bitsOf w 0 7) (bitsOf w 8 7 + 1)).fp j = _) ∧
      (_ → _ → (f.fpFlushRange (bitsOf w 0 7) (bitsOf w 8 7 + 1)).fp j = _) ∧
      (_ → _ → (f.fpFlushRange (bitsOf w 0 7) (bitsOf w 8 7 + 1)).fp j = _)
    rw [hflush]
    unfold FpUnit.flushed
    refine ⟨fun hb => if_pos hb, fun hb hs => ?_, fun hb hs => ?_⟩
    · exact (if_neg (ne_true_of_eq_false hb)).trans (if_neg (ne_true_of_eq_false hs))
    · exact (if_neg (ne_true_of_eq_false hb)).trans (if_pos hs)
  case phasemark =>
    intro ha hen hok
    have hn : f.ctr.nPhase = s.ctr.nPhase := by rw [hctr]
    have hmem : f.mem = s.mem := by rw [hf]; exact State.fired_mem s t (n.val, rev)
    have hadmits : ∀ a len, f.snapAdmits a len = s.snapAdmits a len := by
      rw [hf]; exact State.fired_snapAdmits s t (n.val, rev)
    have hmark := State.phaseMark_written (s := f) (mark := bitsOf w 0 8) (bearing := x.1) (rev := x.2) rfl rfl
      (by rw [hctr]; exact hen)
      (by rw [hctr, hadmits]; exact hok)
    rw [show f.ctr.shelf = s.ctr.shelf by rw [hctr], hn, hmem] at hmark
    exact ⟨f.phaseMark (bitsOf w 0 8) x.1 x.2, by rw [hf]; exact exec_phasemark hd ha, hmark⟩
end

namespace Sys2Proof.Machine

/-! # The power commands (O52) -/

theorem EventOnly.pwr {s t : State} (h : EventOnly s t) : t.pwr = s.pwr := by rw [h]

theorem EventOnly.brg {s t : State} (h : EventOnly s t) : t.brg = s.brg := h.logOnly.brg

section

variable {s : State} {h : Hdr} {r : Started}

theorem Admitted.powerCap {w : BitVec 32} (ha : Admitted s h 0x0601 (Instr.params (.powerCap h w)) r) :
    exec (.powerCap h w) s = .next (if w.toNat < 1800 || 5200 < w.toNat then s.finish r 0x0801
      else State.finish { s with pwr := { s.pwr with cap := w.toNat } } r 0) := by
  change Host.Outcome.next (s.command h 0x0601 (Instr.params (.powerCap h w)) _) = _
  rw [ha.command]

theorem Admitted.oppoint {p : Byte} (ha : Admitted s h 0x0602 (Instr.params (.oppoint h p)) r) :
    exec (.oppoint h p) s = .next (if 5 < p.toNat then s.finish r 0x0801 else (s.oppRequest p.toNat false).finish r 0) := by
  change Host.Outcome.next (s.command h 0x0602 (Instr.params (.oppoint h p)) _) = _
  rw [ha.command]

theorem Admitted.fillerProfile {k : Byte} {rec : BitVec 512}
    (ha : Admitted s h 0x0603 (Instr.params (.fillerProfile h k rec)) r) :
    exec (.fillerProfile h k rec) s = .next (if 15 < k.toNat || !fillerOk rec.toNat then s.finish r 0x0801
      else State.finish { s with pwr := { s.pwr with fills := Map.put s.pwr.fills k.toNat rec.toNat } } r 0) := by
  change Host.Outcome.next (s.command h 0x0603 (Instr.params (.fillerProfile h k rec)) _) = _
  rw [ha.command]

/-- The entries of the throttle log from `first` on that are still held (R404). -/
def State.throttleHeld (s : State) (first n : Nat) : List ThrEntry :=
  (List.range n).filterMap fun i =>
    (Map.find s.pwr.log ((first + i) % 2 ^ 32 % 1024)).filter fun x => x.ep.ix == (first + i) % 2 ^ 32

theorem Admitted.throttleLogRead {a : BitVec 64} {first : BitVec 32} {n : BitVec 16}
    (ha : Admitted s h 0x0604 (Instr.params (.throttleLogRead h a first n)) r) :
    exec (.throttleLogRead h a first n) s = .next (if n.toNat = 0 || 256 < n.toNat then s.finish r 0x0801
      else (s.hostOut r a.toNat ((s.throttleHeld first.toNat n.toNat).flatMap ThrEntry.bytes)).finish r 0
        (toLE 4 (s.throttleHeld first.toNat n.toNat).length)) := by
  change Host.Outcome.next (s.command h 0x0604 (Instr.params (.throttleLogRead h a first n)) _) = _
  rw [ha.command]
  rfl

end

theorem State.mem_throttleHeld {s : State} {first n : Nat} {e : ThrEntry} :
    e ∈ s.throttleHeld first n ↔
      ∃ i, i < n ∧ e.ep.ix = (first + i) % 2 ^ 32 ∧ Map.find s.pwr.log (e.ep.ix % 1024) = some e := by
  simp only [State.throttleHeld, List.mem_filterMap, List.mem_range, Option.filter_eq_some_iff, beq_iff_eq]
  refine exists_congr fun i => and_congr_right fun _ => ?_
  constructor
  · rintro ⟨hfind, hix⟩
    exact ⟨hix, by rw [hix]; exact hfind⟩
  · rintro ⟨hix, hfind⟩
    exact ⟨by rw [← hix]; exact hfind, hix⟩

/-- With no change under way a request makes the change to the point that it gives, where that is another. -/
theorem Pwr.retarget_change {p : Pwr} (h : p.change = none) :
    p.retarget.change = (if p.wanted = p.eff then none else some ⟨p.wanted, false⟩) ∧ p.retarget.req = p.req ∧
      p.retarget.src = p.src ∧ p.retarget.eff = p.eff := by
  unfold Pwr.retarget
  rw [h]
  dsimp only
  split
  · exact ⟨rfl, rfl, rfl, rfl⟩
  · rw [if_neg nofun]
    exact ⟨rfl, rfl, rfl, rfl⟩

end Sys2Proof.Machine

section

open Sys2Proof Sys2Proof.Machine

/-- Settles O52: each command is one case distinction, whose end leaves everything but the receipt as it is; the entries of the
throttle log are found by their index. -/
theorem powerCommands : Obligations.PowerCommands := by
  refine ⟨fun s h w r ha => ⟨fun hout => ?_, fun hlo hhi => ?_⟩, fun s h p r ha => ⟨fun hp => ?_, fun hp hstill => ?_⟩,
    fun s h k rec r ha => ⟨fun hbad => ?_, fun hk hok => ?_⟩, fun s h a first n r ha => ⟨fun hn => ?_, fun hlo hhi => ?_⟩⟩
  · rw [ha.powerCap, if_pos (by simpa using hout)]
  · have hend := State.finish_eventOnly { s with pwr := { s.pwr with cap := w.toNat } } r 0 []
    exact ⟨_, by rw [ha.powerCap, if_neg (by simp; omega)], hend.pwr, hend.mem, hend.eng, hend.brg⟩
  · rw [ha.oppoint, if_pos hp]
  · have hend := State.finish_eventOnly (s.oppRequest p.toNat false) r 0 []
    obtain ⟨hchange, hreq, hsrc, heff⟩ := Pwr.retarget_change (p := { s.pwr with req := p.toNat, src := false }) hstill
    refine ⟨_, by rw [ha.oppoint, if_neg (by omega)], ?_⟩
    rw [hend.pwr]
    exact ⟨hreq, hsrc, heff, hchange⟩
  · rw [ha.fillerProfile, if_pos (by simpa using hbad)]
  · have hend := State.finish_eventOnly { s with pwr := { s.pwr with fills := Map.put s.pwr.fills k.toNat rec.toNat } } r 0 []
    refine ⟨_, by rw [ha.fillerProfile, if_neg (by simp [hok]; omega)], ?_⟩
    rw [hend.pwr]
    exact ⟨Map.find_put .., fun j hj => Map.find_put_ne _ _ _ _ hj, rfl⟩
  · rw [ha.throttleLogRead, if_pos (by simpa using hn)]
  · exact ⟨s.throttleHeld first.toNat n.toNat, by rw [ha.throttleLogRead, if_neg (by simp; omega)], fun _ =>
      State.mem_throttleHeld⟩

end

namespace Sys2Proof.Machine

/-! # The counters (O53) -/

/-! ### What the end of a command leaves of the counters -/

/-- The counters differ in their deltas only. -/
def DeltaOnly (s t : State) : Prop := t.ctr = { s.ctr with delta := t.ctr.delta }

namespace DeltaOnly

variable {s t u : State}

theorem refl : DeltaOnly s s := rfl

theorem trans (h : DeltaOnly s t) (g : DeltaOnly t u) : DeltaOnly s u := by
  unfold DeltaOnly at *; rw [g, h]

theorem ite {c : Prop} [Decidable c] (h : DeltaOnly s t) (g : DeltaOnly s u) : DeltaOnly s (if c then t else u) := by
  split <;> assumption

theorem foldl {α : Type} {f : State → α → State} (hf : ∀ s x, DeltaOnly s (f s x)) (l : List α) (s : State) :
    DeltaOnly s (l.foldl f s) := by
  induction l generalizing s with
  | nil => exact refl
  | cons x l ih => exact (hf s x).trans (ih _)

theorem signal {v} (h : DeltaOnly s t) : DeltaOnly s (t.signal v) := .ite (h.trans rfl) (h.trans rfl)
theorem signalRing {q} (h : DeltaOnly s t) : DeltaOnly s (t.signalRing q) := .ite (.signal (h.trans rfl)) h
theorem putReceipt {r} (h : DeltaOnly s t) : DeltaOnly s (t.putReceipt r) := .ite h (.signalRing (h.trans rfl))
theorem receipt {r} (h : DeltaOnly s t) : DeltaOnly s (t.receipt r) := .ite (h.trans rfl) (.putReceipt h)

end DeltaOnly

theorem State.finish_deltaOnly (s : State) (r : Started) (status : Nat) (result : List Byte) :
    DeltaOnly s (s.finish r status result) := by
  unfold State.finish
  extract_lets halted cut st late g cmd s1 s2 s3
  have h1 : DeltaOnly s s1 := rfl
  have h2 : DeltaOnly s s2 := .ite h1 (h1.trans rfl)
  have h3 : DeltaOnly s s3 := .ite (h2.trans rfl) (.ite (h2.trans rfl) h2)
  exact .ite h3 (.receipt h3)

theorem State.finishWith_ctr (s : State) (c : Ctr) (r : Started) (status : Nat) :
    ∃ d, (State.finish { s with ctr := c } r status).ctr = { c with delta := d } :=
  ⟨_, State.finish_deltaOnly { s with ctr := c } r status []⟩

theorem State.finishAll_deltaOnly (s : State) (p : Started → Bool) (status : Nat) (result : List Byte) :
    DeltaOnly s (s.finishAll p status result) := .foldl (fun s r => s.finish_deltaOnly r status result) _ s

/-! ### Freeze, thaw, snapshot and read by command -/

section

variable {s : State} {h : Hdr} {r : Started}

theorem Admitted.freeze (ha : Admitted s h 0x0902 (Instr.params (.freeze h)) r) :
    exec (.freeze h) s = .next (State.finish { s with ctr := s.ctr.hold } r 0) := by
  change Host.Outcome.next (s.command h 0x0902 (Instr.params (.freeze h)) _) = _
  rw [ha.command]

theorem Admitted.thaw (ha : Admitted s h 0x0903 (Instr.params (.thaw h)) r) :
    exec (.thaw h) s = .next (State.finish { s with ctr := s.ctr.thaw } r 0) := by
  change Host.Outcome.next (s.command h 0x0903 (Instr.params (.thaw h)) _) = _
  rw [ha.command]

theorem Admitted.snapshot {tag : Byte} (ha : Admitted s h 0x0901 (Instr.params (.snapshot h tag)) r) :
    exec (.snapshot h tag) s = .next (if s.snapDue then s.finish r 0x0301
      else match s.snapRequest tag.toNat false (s.brg.bearingAt s.now, s.brg.rev) with
        | (s1, true) => s1.begin r
        | (s1, false) => s1.finish r 0x0301) := by
  change Host.Outcome.next (s.command h 0x0901 (Instr.params (.snapshot h tag)) _) = _
  rw [ha.command] <;> rfl

theorem Admitted.ctrRead {first count : BitVec 32} {a : BitVec 64}
    (ha : Admitted s h 0x0904 (Instr.params (.ctrRead h first count a)) r) (hin : first.toNat + count.toNat ≤ 1040384) :
    exec (.ctrRead h first count a) s = .next ((s.hostOut r a.toNat ((List.range count.toNat).flatMap fun i =>
      toLE 8 (if first.toNat + i < 669312 then s.ctr.read (first.toNat + i) else 0))).finish r 0 (toLE 4 count.toNat)) := by
  change Host.Outcome.next (s.command h 0x0904 (Instr.params (.ctrRead h first count a)) _) = _
  rw [ha.command, if_neg (Nat.not_lt.mpr hin)]

end

/-- A thaw ends a hold at once where no copy runs, and after the copy else. -/
theorem Ctr.thaw_now {c : Ctr} (hcopy : c.copy = none) (hheld : c.held = true) :
    c.thaw = { c with held := false, image := none } := by
  simp [Ctr.thaw, hcopy, hheld]

theorem Ctr.thaw_later {c : Ctr} (hcopy : c.copy.isSome = true) (hheld : c.held = true) : c.thaw = { c with thawNext := true } := by
  simp only [Ctr.thaw, hcopy, hheld, if_true]

/-! ### The pairs of a snapshot in memory (R471) -/

/-- Values of 8 bytes laid by their keys from `base` up. -/
def Memory.putPairs (m : Memory) (base : Nat) (l : Map Nat) : Memory :=
  l.foldl (fun m kv => m.writeLE (base + 8 * kv.1) 8 kv.2) m

/-- Bytes outside the places of the pairs stay. -/
theorem Memory.readN_putPairs {l : Map Nat} {base x n : Nat}
    (h : ∀ kv ∈ l, x + n ≤ base + 8 * kv.1 ∨ base + 8 * kv.1 + 8 ≤ x) (m : Memory) :
    (m.putPairs base l).readN x n = m.readN x n := by
  induction l generalizing m with
  | nil => rfl
  | cons kv l ih =>
    refine (ih (fun kv' hkv' => h kv' (.tail _ hkv')) _).trans (Memory.readN_writeN_out m n x ?_)
    rw [toLE_length]
    exact h kv (.head _)

/-- The place of key `i` holds its value, and what it held where no pair has that key. -/
theorem Memory.readLE_putPairs {l : Map Nat} (hl : (l.map (·.1)).Pairwise (· < ·)) (m : Memory) (base i : Nat) :
    (m.putPairs base l).readLE (base + 8 * i) 8 =
      match Map.find l i with
      | some v => v % 256 ^ 8
      | none => m.readLE (base + 8 * i) 8 := by
  induction l generalizing m with
  | nil => rfl
  | cons kv l ih =>
    obtain ⟨k, v⟩ := kv
    obtain ⟨hlt, hl'⟩ := List.pairwise_cons.mp hl
    have hstep := ih hl' (m.writeLE (base + 8 * k) 8 v)
    by_cases hk : k = i
    · subst hk
      have hnone : Map.find l k = none := Map.find_none l k fun kv' hkv' e => by
        have hk : k < kv'.1 := hlt kv'.1 (List.mem_map.mpr ⟨kv', hkv', rfl⟩)
        omega
      rw [hnone, Memory.readLE_writeLE] at hstep
      rw [Map.find, if_pos rfl]
      exact hstep
    · rw [show Map.find ((k, v) :: l) i = Map.find l i from if_neg hk]
      refine hstep.trans ?_
      have hout : (m.writeLE (base + 8 * k) 8 v).readLE (base + 8 * i) 8 = m.readLE (base + 8 * i) 8 :=
        Memory.readLE_writeN_out m (by rw [toLE_length]; omega)
      rw [hout]

/-- Zero bytes are the number 0. -/
theorem Memory.readLE_zeros {m : Memory} {x n : Nat} (h : ∀ i, i < n → m.read (x + i) = 0) : m.readLE x n = 0 := by
  unfold Memory.readLE
  induction n generalizing x with
  | zero => rfl
  | succ n ih =>
    have h0 : m.read x = 0 := h 0 (Nat.succ_pos n)
    have hrest := ih (x := x + 1) fun i hi => by
      have := h (i + 1) (by omega)
      rwa [show x + (i + 1) = x + 1 + i by omega] at this
    simp [Memory.readN, leNat, h0, hrest]

/-- The memory of a slot written at `a`: its range cleared, the header, the pairs. -/
def slotMem (m : Memory) (a : Nat) (hdr : List Byte) (image : Map Nat) : Memory :=
  ((m.clear a 0x800000).writeN a hdr).putPairs (a + 0x10000) (image.filter fun kv => kv.1 < 669312)

section

variable {m : Memory} {a : Nat} {hdr : List Byte} {image : Map Nat}

theorem slotMem_header (hlen : hdr.length ≤ 0x10000) : (slotMem m a hdr image).readN a hdr.length = hdr := by
  unfold slotMem
  rw [Memory.readN_putPairs fun kv _ => by omega]
  exact Memory.readN_writeN _ a hdr

theorem slotMem_pair (hlen : hdr.length ≤ 0x10000) (hrise : Map.rising image = true)
    (hfit : (image.all fun kv => decide (kv.2 < 2 ^ 48)) = true) {i : Nat} (hi : i < 669312) :
    (slotMem m a hdr image).readLE (a + 0x10000 + 8 * i) 8 = Map.getD image i 0 := by
  have hpairs : ((image.filter fun kv => kv.1 < 669312).map (·.1)).Pairwise (· < ·) :=
    ((Map.rising_iff image).mp hrise).sublist (List.filter_sublist.map _)
  unfold slotMem
  rw [Memory.readLE_putPairs hpairs, Map.find_filter image fun k => decide (k < 669312), if_pos (by simpa using hi), Map.getD]
  cases hf : Map.find image i with
  | some v =>
    have hv : v < 2 ^ 48 := of_decide_eq_true (Map.all_find (p := fun kv => decide (kv.2 < 2 ^ 48)) hfit hf)
    change v % 256 ^ 8 = v
    exact Nat.mod_eq_of_lt (hv.trans (by norm_num))
  | none =>
    change Memory.readLE _ _ 8 = 0
    rw [Memory.readLE_writeN_out _ (by omega)]
    exact Memory.readLE_zeros fun j hj => by rw [Memory.read_clear, if_pos (by omega)]

theorem slotMem_out (hlen : hdr.length ≤ 0x10000) {b : Nat} (hb : b < a ∨ a + 0x800000 ≤ b) :
    (slotMem m a hdr image).read b = m.read b := by
  have hpairs := Memory.readN_putPairs (l := image.filter fun kv => kv.1 < 669312) (base := a + 0x10000) (x := b) (n := 1)
    (fun kv hkv => by
      have := of_decide_eq_true (List.mem_filter.mp hkv).2
      omega) ((m.clear a 0x800000).writeN a hdr)
  have hread := List.head_eq_of_cons_eq hpairs
  refine hread.trans ((Memory.read_writeN_out _ (by omega)).trans ?_)
  rw [Memory.read_clear, if_neg (by omega)]

end

theorem State.snapHeader_length (s : State) (k : SnapCopy) : (s.snapHeader k).length = 40 := by
  simp [State.snapHeader]

theorem State.snapWrite_mem {s : State} {k : SnapCopy} {m : Map Nat} {a : Nat} (hm : s.ctr.image = some m)
    (ha : a = shelfAddr k.shelf (0x800000 * ((k.n - 1) % 7))) :
    (s.snapWrite k).mem = slotMem s.mem a (s.snapHeader k) m := by
  unfold State.snapWrite
  simp only [← ha, hm, Option.getD_some]
  rfl

/-- The end of a copy that its shelf takes (R471). -/
theorem State.snapshotDone_taken {s : State} {k : SnapCopy} {a : Nat} (hcopy : s.ctr.copy = some k)
    (ha : a = shelfAddr k.shelf (0x800000 * ((k.n - 1) % 7))) (hok : s.snapAdmits a 0x800000 = true) :
    exec .snapshotCopyDone s = .next (State.finishAll { (s.snapWrite k).access .control true a 0x800000 with
      ctr := { ((s.snapWrite k).access .control true a 0x800000).ctr.afterCopy with
        sdone := true, ltag := k.tag, scount := k.n % 65536, nSnap := k.n } } (fun r => r.op == 0x0901) 0) := by
  change execSnapshotCopyDone s = _
  unfold execSnapshotCopyDone
  simp only [hcopy, ← ha, hok, if_true]

/-- The end of a copy whose shelf takes it no longer. -/
theorem State.snapshotDone_abandoned {s : State} {k : SnapCopy} {a : Nat} (hcopy : s.ctr.copy = some k)
    (ha : a = shelfAddr k.shelf (0x800000 * ((k.n - 1) % 7))) (hok : s.snapAdmits a 0x800000 = false) :
    exec .snapshotCopyDone s = .next (State.finishAll (State.count { s with ctr := { s.ctr.afterCopy with smiss := true } }
      (ctrDev 56)) (fun r => r.op == 0x0901) 0x0314) := by
  change execSnapshotCopyDone s = _
  unfold execSnapshotCopyDone
  simp only [hcopy, ← ha, hok, Bool.false_eq_true, if_false]

end Sys2Proof.Machine

section

open Sys2Proof Sys2Proof.Machine

/-- Settles O53: a delta is one update of two maps; a command's end changes no more than the deltas; and the slot of a snapshot
is read back from its header and, by induction on the pairs, from each pair. -/
theorem counterCommands : Obligations.CounterCommands := by
  refine ⟨fun s k n => ⟨fun hk => ?_, fun hk => ?_⟩, fun s h r => ⟨fun ha => ?_, fun ha hcopy hheld => ?_,
    fun ha hcopy hheld => ?_, fun tag ha hdue => ?_, fun tag ha hdue hcopy hen hok => ?_, fun tag ha hdue hcopy => ?_,
    fun first count a ha hin => ?_⟩, ?done, ?abandoned, fun s hcopy => ?_⟩
  · change execCounterDeltaMove k n s = _
    exact if_neg (by rw [hk]; exact nofun)
  · refine ⟨_, if_pos hk, ?_, ?_, fun j hj => ⟨?_, ?_⟩, rfl⟩
    · exact Map.getD_putD_self ..
    · change (Map.find (Map.del s.ctr.delta k.toNat) k.toNat).getD 0 = 0
      rw [Map.find_del, if_pos rfl]; rfl
    · exact Map.getD_putD_ne _ _ _ hj
    · change (Map.find (Map.del s.ctr.delta k.toNat) j).getD 0 = _
      rw [Map.find_del, if_neg hj]; rfl
  · obtain ⟨d, hend⟩ := s.finishWith_ctr s.ctr.hold r 0
    exact ⟨_, ha.freeze, by rw [hend]; rfl, by rw [hend]; rfl, by rw [hend]; rfl⟩
  · have hrun := ha.thaw
    rw [Ctr.thaw_now hcopy hheld] at hrun
    obtain ⟨d, hend⟩ := s.finishWith_ctr { s.ctr with held := false, image := none } r 0
    exact ⟨_, hrun, by rw [hend], by rw [hend], by rw [hend]⟩
  · have hrun := ha.thaw
    rw [Ctr.thaw_later hcopy hheld] at hrun
    obtain ⟨d, hend⟩ := s.finishWith_ctr { s.ctr with thawNext := true } r 0
    exact ⟨_, hrun, by rw [hend], by rw [hend]⟩
  · rw [ha.snapshot, if_pos hdue]
  · have hrun := ha.snapshot
    rw [if_neg (ne_true_of_eq_false hdue), State.snapRequest_taken hcopy hen hok] at hrun
    exact ⟨_, _, hrun, rfl, rfl, rfl, rfl, rfl, rfl, rfl, rfl, rfl, rfl⟩
  · rw [ha.snapshot, if_neg (ne_true_of_eq_false hdue), State.snapRequest_missed (.inl hcopy)]
  · exact ha.ctrRead hin
  case done =>
    intro s k m hcopy hm hok hrise hfit a
    obtain ⟨a', ha⟩ : ∃ a', a' = a := ⟨_, rfl⟩
    rw [show shelfAddr k.shelf (0x800000 * ((k.n - 1) % 7)) = a' from ha.symm] at hok
    have hlen : (s.snapHeader k).length ≤ 0x10000 := by rw [State.snapHeader_length]; norm_num
    have hrun := State.snapshotDone_taken hcopy ha hok
    rw [← ha]
    have hdone := State.finishAll_deltaOnly { (s.snapWrite k).access .control true a' 0x800000 with
      ctr := { ((s.snapWrite k).access .control true a' 0x800000).ctr.afterCopy with
        sdone := true, ltag := k.tag, scount := k.n % 65536, nSnap := k.n } } (fun r => r.op == 0x0901) 0 []
    have hmem := (State.finishAll_logOnly { (s.snapWrite k).access .control true a' 0x800000 with
      ctr := { ((s.snapWrite k).access .control true a' 0x800000).ctr.afterCopy with
        sdone := true, ltag := k.tag, scount := k.n % 65536, nSnap := k.n } } (fun r => r.op == 0x0901) 0 []).mem.trans
      (((s.snapWrite k).access_accessOnly .control true a' 0x800000).mem.trans (State.snapWrite_mem hm ha))
    refine ⟨_, hrun, ?_⟩
    rw [hdone, hmem]
    exact ⟨rfl, rfl, rfl, rfl, rfl, slotMem_header hlen, fun i hi => slotMem_pair hlen hrise hfit hi,
      fun b hb => slotMem_out hlen hb⟩
  case abandoned =>
    intro s k hcopy hok
    have hrun := State.snapshotDone_abandoned hcopy rfl hok
    refine ⟨_, hrun, ?_⟩
    have hmem := (State.finishAll_logOnly (State.count { s with ctr := { s.ctr.afterCopy with smiss := true } } (ctrDev 56))
      (fun r => r.op == 0x0901) 0x0314 []).mem
    have hctr := State.finishAll_deltaOnly (State.count { s with ctr := { s.ctr.afterCopy with smiss := true } } (ctrDev 56))
      (fun r => r.op == 0x0901) 0x0314 []
    rw [hctr, hmem]
    exact ⟨rfl, rfl, rfl, rfl, rfl, rfl⟩
  · change execSnapshotCopyDone s = _
    unfold execSnapshotCopyDone
    rw [hcopy]

end

namespace Sys2Proof.Machine

/-! # The secured session and the side band (O57) -/

/-! ### Sessions (R436, R440) -/

section

variable {s : State}

theorem exec_establish (offer : List SpdmAlg) (auth : Bool) : exec (.spdmMessage (.establish offer auth)) s =
    if spdmOffers offer && !auth then .next { s with
      sec := { s.sec with session := true, sessionKey := (s.free 256).toNat }
      fresh := s.fresh + 1
      out := .spdm [] :: s.out }
    else .next { s with out := .spdm [0x7F] :: s.out } := rfl

theorem exec_endSession (h : s.sec.session = true) : exec (.spdmMessage .endSession) s = .next { s with
    sec := { s.sec with session := false, sessionKey := 0, ide := [], ideKeys := [] }
    out := .spdm [] :: s.out } := if_pos h

theorem exec_ideKey (k : Fin 4) (v : BitVec 256) : exec (.spdmMessage (.ideKey k v)) s =
    if s.sec.session then .next { s with
      sec := { s.sec with ide := Map.put s.sec.ide k.val true, ideKeys := Map.put s.sec.ideKeys k.val v.toNat }
      out := .spdm [] :: s.out }
    else .next { s with out := .spdm [0x7F] :: s.out } := rfl

theorem exec_ideStop (h : s.sec.session = true) (k : Fin 4) : exec (.spdmMessage (.ideStop k)) s = .next { s with
    sec := { s.sec with ide := Map.del s.sec.ide k.val, ideKeys := Map.del s.sec.ideKeys k.val }
    out := .spdm [] :: s.out } := if_pos h

theorem exec_jobKey_sealed (h : s.sec.session = false) (m : JobKeyReq) :
    exec (.jobKeyMessage m) s = .next { s with out := .spdm [0x7F] :: s.out } := if_pos (by rw [h]; rfl)

theorem exec_jobKey_store (h : s.sec.session = true) (k : Fin 8) (v : BitVec 256) :
    exec (.jobKeyMessage (.store k v)) s = .next { s with
      sec := { s.sec with jobKeys := Map.putD s.sec.jobKeys k.val v.toNat 0 }
      out := .spdm [] :: s.out } := if_neg (by rw [h]; exact nofun)

theorem exec_jobKey_readBack (h : s.sec.session = true) (k : Fin 8) :
    exec (.jobKeyMessage (.readBack k)) s =
      .next { s with out := .spdm (toLE 32 (Map.getD s.sec.jobKeys k.val 0)) :: s.out } := if_neg (by rw [h]; exact nofun)

/-! ### The side band (R484, R485) -/

theorem State.smbus_powered (h : s.mod.v12 = true) (bs : List Byte) : s.smbus bs = { s with out := .smbus bs :: s.out } := if_pos h

theorem State.smbus_dark (h : s.mod.v12 = false) (bs : List Byte) : s.smbus bs = s := if_neg (ne_true_of_eq_false h)

/-- The flags of the health answer. -/
def State.healthFlags (s : State) : Nat := b2n s.flt.drained + 2 * b2n s.flt.flagged + 4 * b2n s.dbgOpen + 8 * b2n s.linkUp

/-- The 16 bytes of the health answer. -/
def State.healthAnswer (s : State) : List Byte := bytesAt (s.healthBytes s.mod.v50 ++ toLE 1 s.healthFlags) 0 16

/-- The bytes before the end of a byte string are those of its padded form. -/
theorem leAt_bytesAt {bs : List Byte} {off len n : Nat} (h : off + len ≤ bs.length) (hn : bs.length ≤ n) :
    leAt (bytesAt bs 0 n) off len = leAt bs off len := by
  have htake : bs.take n = bs := List.take_of_length_le hn
  rw [leAt, leAt, bytesAt, List.drop_zero, htake, List.drop_append_of_le_length (by omega),
    List.take_append_of_le_length (by rw [List.length_drop]; omega)]

/-- The field that follows `pre` in a byte string. -/
theorem leAt_append (pre post : List Byte) (len n : Nat) : leAt (pre ++ (toLE len n ++ post)) pre.length len = n % 256 ^ len := by
  rw [leAt, List.drop_left, List.take_left' (toLE_length len n), leNat_toLE]

theorem State.healthAnswer_length (s : State) : s.healthAnswer.length = 16 := bytesAt_length ..

theorem State.healthBytes_length (s : State) (powered : Bool) : (s.healthBytes powered).length = 11 := by
  simp [State.healthBytes]

theorem State.healthAnswer_at {off len : Nat} (h : off + len ≤ 12) :
    leAt s.healthAnswer off len = leAt (s.healthBytes s.mod.v50 ++ toLE 1 s.healthFlags) off len := by
  have hlen : (s.healthBytes s.mod.v50 ++ toLE 1 s.healthFlags).length = 12 := by
    rw [List.length_append, State.healthBytes_length, toLE_length]
  exact leAt_bytesAt (by omega) (by omega)

theorem State.healthAnswer_tmax (s : State) : leAt s.healthAnswer 0 2 = (if s.mod.v50 then s.tmax else 0) % 2 ^ 16 := by
  rw [State.healthAnswer_at (by omega), State.healthBytes]
  simp only [List.append_assoc]
  exact leAt_append [] _ 2 _

theorem State.healthAnswer_spares (s : State) : leAt s.healthAnswer 4 2 = s.flt.spares.sum % 2 ^ 16 := by
  rw [State.healthAnswer_at (by omega), State.healthBytes]
  have hpre : (toLE 2 (if s.mod.v50 then s.tmax else 0) ++ toLE 2 (if s.mod.v50 then s.pin else 0)).length = 4 := by simp
  rw [List.append_assoc, List.append_assoc, List.append_assoc, ← hpre]
  exact leAt_append _ _ 2 _

theorem State.healthAnswer_flags (s : State) : leAt s.healthAnswer 11 1 = s.healthFlags % 256 := by
  rw [State.healthAnswer_at (by omega), ← State.healthBytes_length s s.mod.v50,
    ← List.append_nil (toLE 1 s.healthFlags)]
  exact leAt_append _ _ 1 _

theorem State.healthFlags_flagged (s : State) : (s.healthFlags % 256).testBit 1 = s.flt.flagged := by
  unfold State.healthFlags b2n
  cases s.flt.drained <;> cases s.flt.flagged <;> cases s.dbgOpen <;> cases s.linkUp <;> rfl

theorem exec_smbusHealthRead : exec .smbusHealthRead s = .next (s.smbus s.healthAnswer) := rfl

/-- A read of the volatile log with the cursor in it. -/
theorem exec_smbusLogEntryRead {e : LogEntry} (h : s.mod.v12 = true) (hc : s.mod.cursor < 4096)
    (he : Map.find s.flt.vlog s.mod.cursor = some e) : exec .smbusLogEntryRead s = .next { s with
      out := .smbus e.bytes :: s.out
      mod := { s.mod with cursor := (s.mod.cursor + 1) % 4096 } } := by
  have hmod : s.mod.cursor % 4096 = s.mod.cursor := Nat.mod_eq_of_lt hc
  have hentry : s.cursorEntry = some e := by
    have hbit : s.mod.cursor.testBit 15 = false := Nat.testBit_lt_two_pow (hc.trans (by norm_num))
    rw [State.cursorEntry, hbit, hmod]; exact he
  change execSmbusLogEntryRead s = _
  unfold execSmbusLogEntryRead
  simp only [hentry, h, if_true, hmod, Nat.sub_self, Nat.zero_add, State.smbus_powered h]

end

end Sys2Proof.Machine

section

open Sys2Proof Sys2Proof.Machine

/-- Settles O57: each message is one case distinction on the session, each answer of the side band one on the supply, and the
fields of the health answer are found at their places in it. -/
theorem sessionAndSideBand : Obligations.SessionAndSideBand := by
  refine ⟨fun s => ⟨fun offer auth hoffer hauth => ?_, fun offer auth hbad => ⟨[0x7F], ?_⟩, fun hs => ⟨exec_endSession hs, fun k v => ?_,
    fun k => ?_, fun k v => ?_, exec_jobKey_readBack hs⟩, fun hs => ⟨fun m => ⟨_, exec_jobKey_sealed hs m⟩,
    fun k v => ⟨_, (exec_ideKey k v).trans (if_neg (ne_true_of_eq_false hs))⟩⟩, rfl, rfl,
    fun hlocked c => if_neg (ne_true_of_eq_false hlocked)⟩,
    fun s => ⟨fun hv => ⟨?_, ?_, ?_, fun w => if_pos hv, fun e => exec_smbusLogEntryRead hv, ?_, fun hlow => ?_⟩,
      fun hv => ⟨?_, ?_, ?_, fun w => if_neg (ne_true_of_eq_false hv), if_neg (ne_true_of_eq_false hv), ?_⟩,
      fun hhigh => if_neg (ne_true_of_eq_false hhigh), fun up => rfl⟩⟩
  · rw [exec_establish, hoffer, hauth]; rfl
  · rw [exec_establish]
    exact if_neg (by rcases hbad with h | h <;> simp [h])
  · exact ⟨_, (exec_ideKey k v).trans (if_pos hs), Map.getD_put .., Map.find_put .., fun j hj =>
      ⟨congrArg (Option.getD · false) (Map.find_put_ne _ _ _ _ hj), Map.find_put_ne _ _ _ _ hj⟩⟩
  · refine ⟨_, exec_ideStop hs k, ?_, ?_⟩
    · exact congrArg (Option.getD · false) ((Map.find_del ..).trans (if_pos rfl))
    · exact (Map.find_del ..).trans (if_pos rfl)
  · exact ⟨_, exec_jobKey_store hs k v, Map.getD_putD_self .., fun j hj => Map.getD_putD_ne _ _ _ hj⟩
  · refine ⟨s.healthAnswer, ?_, s.healthAnswer_length, s.healthAnswer_tmax, s.healthAnswer_spares, ?_⟩
    · rw [exec_smbusHealthRead, State.smbus_powered hv]
    · rw [State.healthAnswer_flags, State.healthFlags_flagged]
  · exact congrArg Host.Outcome.next (State.smbus_powered hv _)
  · exact congrArg Host.Outcome.next (State.smbus_powered hv _)
  · exact congrArg Host.Outcome.next (State.smbus_powered hv _)
  · change (if s.mod.alertLow then _ else _) = _
    rw [if_pos hlow, State.smbus_powered hv]
  · exact congrArg Host.Outcome.next (State.smbus_dark hv _)
  · exact congrArg Host.Outcome.next (State.smbus_dark hv _)
  · exact congrArg Host.Outcome.next (State.smbus_dark hv _)
  · exact congrArg Host.Outcome.next (State.smbus_dark hv _)

end

namespace Sys2Proof.Machine

/-! # Rings and doorbells (O44) -/

section

variable {s : State}

/-- The block is READY: a host write has its effect (R381). -/
theorem State.hostWrite_ready (h : s.mod.ready = true) (addr : Nat) (f : State → State) : s.hostWrite addr f = f s :=
  if_neg (by rw [h]; exact nofun)

theorem State.hostWrite_unready (h : s.mod.ready = false) (addr : Nat) (f : State → State) :
    s.hostWrite addr f = s.hostFault addr := if_pos (by rw [h]; rfl)

theorem State.lostEvents_none (h : s.cmd.evLost = 0) : s.lostEvents = s := by
  unfold State.lostEvents
  rw [h]; rfl

theorem State.rcp_setRcp_or (v : RcpRing) (k j : Nat) : (s.setRcp k v).rcp j = if j = k then v else s.rcp j := by
  split
  · next e => rw [e, State.rcp_setRcp]
  · next e => exact State.rcp_setRcp_ne _ _ e

/-! ### Doorbells (R345, R349) -/

/-- The submission doorbell, `off` its offset. -/
theorem State.subDoorbell_moves {q v us : Nat} (hready : s.mod.ready = true) (hv : v < 4096) (hen : (s.sub q).en = true)
    (hne : v ≠ (s.sub q).tail) :
    s.subDoorbell q v us = s.setSub q { s.sub q with tail := v, bells := (s.sub q).bells ++ [(v, us)] } := by
  unfold State.subDoorbell
  simp only [State.hostWrite_ready hready, Nat.div_eq_of_lt hv, hen, ne_eq, not_true, decide_false, Bool.not_true, Bool.or_self,
    Bool.false_eq_true, if_false, if_neg (Ne.symm hne)]

theorem State.subDoorbell_faults {q v us : Nat} (h : s.mod.ready = false ∨ 4096 ≤ v ∨ (s.sub q).en = false) :
    s.subDoorbell q v us = s.hostFault (0x1000 * q) := by
  unfold State.subDoorbell
  extract_lets off
  cases hready : s.mod.ready with
  | false => exact State.hostWrite_unready hready ..
  | true =>
    rw [State.hostWrite_ready hready]
    refine if_pos ?_
    rcases h with h | h | h
    · rw [hready] at h; cases h
    · have : v / 4096 ≠ 0 := by omega
      simp [this]
    · simp [h]

theorem State.rcpDoorbell_moves {q v : Nat} (hready : s.mod.ready = true) (hv : v < 4096) (hen : (s.rcp q).en = true)
    (hlost : s.cmd.evLost = 0) :
    s.rcpDoorbell q v = { s.setRcp q { s.rcp q with head := v } with
      cmd := { (s.setRcp q { s.rcp q with head := v }).cmd with stalled := [] } } := by
  have hnone : (s.setRcp q { s.rcp q with head := v }).lostEvents = s.setRcp q { s.rcp q with head := v } :=
    State.lostEvents_none hlost
  unfold State.rcpDoorbell
  extract_lets off
  rw [State.hostWrite_ready hready]
  refine (if_neg (by simp [Nat.div_eq_of_lt hv, hen])).trans ?_
  rw [hnone]

theorem State.rcpDoorbell_faults {q v : Nat} (h : s.mod.ready = false ∨ 4096 ≤ v ∨ (s.rcp q).en = false) :
    s.rcpDoorbell q v = s.hostFault (0x40000 + 0x1000 * q) := by
  unfold State.rcpDoorbell
  extract_lets off
  cases hready : s.mod.ready with
  | false => exact State.hostWrite_unready hready ..
  | true =>
    rw [State.hostWrite_ready hready]
    refine if_pos ?_
    rcases h with h | h | h
    · rw [hready] at h; cases h
    · have : v / 4096 ≠ 0 := by omega
      simp [this]
    · simp [h]

/-! ### Enables (R348, R353) -/

theorem State.subEnable_starts {q : Nat} (h : (s.sub q).en = false) :
    (s.subEnable q true).sub q = { s.sub q with en := true, head := 0, tail := 0, bells := [], passed := 0 } ∧
      (∀ r, r ≠ q → (s.subEnable q true).sub r = s.sub r) ∧ s.subEnable q true = { s with cmd := (s.subEnable q true).cmd } := by
  unfold State.subEnable
  simp only [h, Bool.not_false, Bool.and_self, if_true]
  exact ⟨Map.getD_putD_self .., fun r hr => Map.getD_putD_ne _ _ _ hr, rfl⟩

theorem State.rcpEnable_starts {r : Nat} (h : (s.rcp r).en = false) (hlost : s.cmd.evLost = 0) :
    (s.rcpEnable r true).rcp r = { s.rcp r with en := true, head := 0, tail := 0, phase := true, unsignalled := 0 } ∧
      (∀ x, x ≠ r → (s.rcpEnable r true).rcp x = s.rcp x) ∧ s.rcpEnable r true = { s with cmd := (s.rcpEnable r true).cmd } := by
  have hnone := State.lostEvents_none (s := s.setRcp r { s.rcp r with
    en := true, head := 0, tail := 0, phase := true, unsignalled := 0 }) hlost
  unfold State.rcpEnable
  simp only [h, Bool.not_false, Bool.and_self, if_true, hnone]
  exact ⟨Map.getD_putD_self .., fun x hx => Map.getD_putD_ne _ _ _ hx, rfl⟩

/-! ### Signals (R354) and the direct word (R346) -/

theorem State.signal_unmasked {vec : Nat} (h : s.cmd.vecMasked vec = false) : s.signal vec = { s with out := .msix vec :: s.out } :=
  if_neg (ne_true_of_eq_false h)

theorem exec_receiptSignalTimer {r : Fin 64} (hen : (s.rcp r.val).en = true) (hun : 0 < (s.rcp r.val).unsignalled) :
    exec (.receiptSignalTimer r) s =
      .next ((s.setRcp r.val { s.rcp r.val with unsignalled := 0 }).signal (s.rcp r.val).vec) :=
  if_pos (by rw [hen]; exact decide_eq_true hun)

/-- A direct command whose context no other command holds starts at once. -/
theorem mayStart_direct {rs : List Started} {v : Nat}
    (h : (rs.any fun x => x.holds && (directRecord v).objs.any fun o => x.objs.any (objClash o)) = false) :
    mayStart rs (directRecord v) = true := by
  have hheld : (rs.any fun x => x.holds && x != directRecord v && (directRecord v).objs.any fun o => x.objs.any (objClash o)) =
      false := by
    rw [List.any_eq_false] at h ⊢
    intro x hx hall
    simp only [Bool.and_eq_true] at hall
    obtain ⟨⟨hholds, -⟩, hclash⟩ := hall
    exact h x hx (by rw [hholds, hclash]; rfl)
  have hfence : ((earlier rs (directRecord v)).any fun x =>
      (directRecord v).fence && !(directRecord v).direct && !x.direct && x.q == (directRecord v).q) = false :=
    List.any_eq_false.mpr fun x _ => by simp [directRecord]
  unfold mayStart
  rw [hheld, hfence]; rfl

section

variable {v : Nat} (hready : s.mod.ready = true) (hop : bitsOf v 0 16 = 0x0304 ∨ bitsOf v 0 16 = 0x0305)

include hready hop

theorem State.directWrite_dropped (hfull : (s.rcp (directRecord v).rr).freeSlots = 0) : s.directWrite v = s.dropDirect := by
  unfold State.directWrite
  extract_lets r
  rw [State.hostWrite_ready hready, if_neg (by rcases hop with h | h <;> simp [r, directRecord, h]), if_pos hfull]

theorem State.directWrite_starts (hfree : 0 < (s.rcp (directRecord v).rr).freeSlots)
    (h : (s.cmd.started.any fun x => x.holds && (directRecord v).objs.any fun o => x.objs.any (objClash o)) = false) :
    s.directWrite v = s.startCmd (directRecord v) := by
  unfold State.directWrite
  extract_lets r
  rw [State.hostWrite_ready hready, if_neg (by rcases hop with h | h <;> simp [r, directRecord, h]), if_neg (Nat.pos_iff_ne_zero.mp hfree),
    if_neg (by rw [mayStart_direct h]; exact nofun)]

end

/-- A start appends its record and reserves its slot. -/
theorem State.startCmd_record (r : Started) :
    (s.startCmd r).cmd.started = s.cmd.started ++ [{ r with uid := s.cmd.nextUid, holds := mayStart s.cmd.started r }] ∧
      (s.startCmd r).cmd.nextUid = s.cmd.nextUid + 1 ∧
      (∀ k, (s.startCmd r).rcp k = if k = r.rr then { s.rcp r.rr with reserved := (s.rcp r.rr).reserved + 1 } else s.rcp k) ∧
      (∀ q, (s.startCmd r).sub q = s.sub q) ∧ s.startCmd r = { s with cmd := (s.startCmd r).cmd } :=
  ⟨rfl, rfl, fun k => State.rcp_setRcp_or _ _ k, fun _ => rfl, rfl⟩

end

end Sys2Proof.Machine

section

open Sys2Proof Sys2Proof.Machine

/-- Settles O44: a doorbell or an enable is one case distinction on READY and the ring, the direct word one on its receipt slot
and on what the started commands hold. -/
theorem ringsAndDoorbells : Obligations.RingsAndDoorbells := by
  intro s
  refine ⟨fun q v us => ⟨fun hready hv hen hne => ?_, fun hready hv hen hlost => ?_, fun h => ?_, fun h => ?_⟩,
    fun hready q en => ⟨?_, ?_⟩, fun q hready hen => ?_, fun r hready hen hlost => ?_, fun hready r => ⟨?_, ?_⟩,
    fun r hen hun hmask => ?_, fun v hready hop => ?_⟩
  · exact congrArg Host.Outcome.next (State.subDoorbell_moves hready hv hen hne)
  · have hmoves := State.rcpDoorbell_moves hready hv hen hlost
    refine ⟨_, congrArg Host.Outcome.next hmoves, State.rcp_setRcp .., rfl, fun r hr => State.rcp_setRcp_ne _ _ hr, rfl⟩
  · exact congrArg Host.Outcome.next (State.subDoorbell_faults h)
  · exact congrArg Host.Outcome.next (State.rcpDoorbell_faults h)
  · exact congrArg Host.Outcome.next (State.hostWrite_unready hready _ _)
  · exact congrArg Host.Outcome.next (State.hostWrite_unready hready _ _)
  · exact ⟨_, congrArg Host.Outcome.next (State.hostWrite_ready hready _ _), State.subEnable_starts hen⟩
  · exact ⟨_, congrArg Host.Outcome.next (State.hostWrite_ready hready _ _), State.rcpEnable_starts hen hlost⟩
  · exact congrArg Host.Outcome.next (State.hostWrite_ready hready _ _)
  · exact congrArg Host.Outcome.next (State.hostWrite_ready hready _ _)
  · have hrun := exec_receiptSignalTimer hen hun
    rw [State.signal_unmasked (s := s.setRcp r.val { s.rcp r.val with unsignalled := 0 }) hmask] at hrun
    exact ⟨_, hrun, rfl, State.rcp_setRcp .., rfl⟩
  · intro r
    refine ⟨fun hfull => congrArg Host.Outcome.next (State.directWrite_dropped hready hop hfull), fun hfree hheld => ?_⟩
    have hrun : exec (.directWord v) s = .next (s.startCmd r) :=
      congrArg Host.Outcome.next (State.directWrite_starts hready hop hfree hheld)
    obtain ⟨hstarted, huid, hrcp, -, hcmd⟩ := s.startCmd_record r
    refine ⟨_, hrun, ?_, huid, ?_, hcmd⟩
    · rw [hstarted, mayStart_direct hheld]
    · rw [hrcp, if_pos rfl]

end

namespace Sys2Proof.Machine

/-! # Receipts and admission (O47) -/

/-! ### A receipt on its ring (R352, R354) -/

/-- A signal changes neither host memory, nor a ring, nor a started command. -/
theorem State.signal_keeps (s : State) (v : Nat) :
    (s.signal v).host = s.host ∧ (s.signal v).cmd.started = s.cmd.started ∧ ∀ x, (s.signal v).rcp x = s.rcp x := by
  unfold State.signal
  split
  · exact ⟨rfl, rfl, fun _ => rfl⟩
  · exact ⟨rfl, rfl, fun _ => rfl⟩

/-- A ring that signals changes nothing of its place and phase, and nothing of another ring. -/
theorem State.signalRing_keeps (s : State) (q : Nat) :
    (s.signalRing q).host = s.host ∧ (s.signalRing q).cmd.started = s.cmd.started ∧
      (∃ u, (s.signalRing q).rcp q = { s.rcp q with unsignalled := u }) ∧ ∀ x, x ≠ q → (s.signalRing q).rcp x = s.rcp x := by
  unfold State.signalRing
  extract_lets g
  split
  · obtain ⟨hhost, hstarted, hrcp⟩ := (s.setRcp q { g with unsignalled := 0 }).signal_keeps g.vec
    refine ⟨hhost, hstarted, ⟨0, ?_⟩, fun x hx => ?_⟩
    · rw [hrcp, State.rcp_setRcp]
    · rw [hrcp, State.rcp_setRcp_ne _ _ hx]
  · exact ⟨rfl, rfl, ⟨_, rfl⟩, fun _ _ => rfl⟩

theorem State.putReceipt_off {s : State} {r : Receipt} (h : (s.rcp r.rr).en = false) : s.putReceipt r = s :=
  if_pos (by rw [h]; rfl)

/-- A receipt on an enabled ring: the bytes at its tail, the tail moved on, and nothing of another ring. -/
theorem State.putReceipt_on {s : State} {r : Receipt} (h : (s.rcp r.rr).en = true) :
    (s.putReceipt r).host = s.host.writeN ((s.rcp r.rr).base + 32 * (s.rcp r.rr).tail) (r.bytes (s.rcp r.rr).phase) ∧
      (s.putReceipt r).cmd.started = s.cmd.started ∧
      (∃ u, (s.putReceipt r).rcp r.rr = { s.rcp r.rr with
        tail := ((s.rcp r.rr).tail + 1) % 4096
        phase := if ((s.rcp r.rr).tail + 1) % 4096 = 0 then !(s.rcp r.rr).phase else (s.rcp r.rr).phase
        unsignalled := u }) ∧ ∀ x, x ≠ r.rr → (s.putReceipt r).rcp x = s.rcp x := by
  unfold State.putReceipt
  extract_lets g s1 tail
  rw [if_neg (by rw [h]; exact nofun)]
  obtain ⟨hhost, hstarted, ⟨u, hring⟩, hother⟩ := (s1.setRcp r.rr { g with
    tail := tail
    phase := if tail = 0 then !g.phase else g.phase
    unsignalled := g.unsignalled + 1 }).signalRing_keeps r.rr
  refine ⟨hhost, hstarted, ⟨u, ?_⟩, fun x hx => ?_⟩
  · rw [hring, State.rcp_setRcp]
  · rw [hother x hx, State.rcp_setRcp_ne _ _ hx]; rfl

theorem Receipt.bytes_length (r : Receipt) (phase : Bool) : (r.bytes phase).length = 32 := by
  simp [Receipt.bytes, bytesAt_length]

/-! ### The end of a command that nothing has stopped (R350, R358) -/

/-- The record of a command gone, its receipt slot no more reserved. -/
def State.retired (s : State) (r : Started) : State :=
  State.setRcp { s with cmd := { s.cmd with
    started := startAll (s.cmd.started.filter (·.uid != r.uid)), expired := s.cmd.expired.filter (· != r.uid),
    aborted := s.cmd.aborted.filter (· != r.uid),
    stalled := if 256 ≤ s.cmdHeld then [] else s.cmd.stalled } } r.rr { s.rcp r.rr with reserved := (s.rcp r.rr).reserved - 1 }

/-- The receipt of DONE. -/
def Started.done (r : Started) : Receipt :=
  ⟨r.rr, if r.delayed then 0x0103 else if r.linkLate then 0x0102 else 0, r.op, false, if r.direct then 0xFF else r.q, r.sqhead,
    r.acc, []⟩

theorem State.finish_done {s : State} {r : Started} (hhush : r.hushed = false) (hexp : s.cmd.expired.contains r.uid = false)
    (hcut : s.cmd.aborted.contains r.uid = false) :
    s.finish r 0 = (if r.delayed then (s.retired r).count (ctrDev 15) else s.retired r).receipt r.done := by
  unfold State.finish
  simp only [hhush, hexp, hcut, Bool.false_and, Bool.false_eq_true, if_false, beq_self_eq_true, Bool.and_true]
  rfl

/-- What the receipt of a command finds: its ring as before but for the slot, host memory and the outputs as before. -/
theorem State.retired_keeps (s : State) (r : Started) (late : Bool) :
    let t := if late then (s.retired r).count (ctrDev 15) else s.retired r
    t.host = s.host ∧ t.out = s.out ∧ t.d3hot = s.d3hot ∧ t.cmd.late = s.cmd.late ∧
      t.cmd.started = startAll (s.cmd.started.filter (·.uid != r.uid)) ∧
      t.rcp r.rr = { s.rcp r.rr with reserved := (s.rcp r.rr).reserved - 1 } ∧ ∀ x, x ≠ r.rr → t.rcp x = s.rcp x := by
  cases late <;>
    exact ⟨rfl, rfl, rfl, rfl, rfl, State.rcp_setRcp .., fun x hx => State.rcp_setRcp_ne _ _ hx⟩

/-! ### Admission (R350, R426) -/

section

variable {s : State} {h : Hdr} {op : Nat} {ps : List Byte} {r : Started}

/-- A command that no fetch has started does nothing. -/
theorem State.command_unknown (hf : (s.cmd.started.find? fun x => x.isFor h && x.op == op && x.params == ps && !x.begun) = none)
    (body : State → Started → State) : s.command h op ps body = s := by
  unfold State.command
  rw [hf]

variable (hf : (s.cmd.started.find? fun x => x.isFor h && x.op == op && x.params == ps && !x.begun) = some r)

include hf

/-- A command whose objects another holds waits. -/
theorem State.command_blocked (hb : s.blocked r = true) (body : State → Started → State) : s.command h op ps body = s := by
  unfold State.command
  simp only [hf, hb, if_true]

/-- A drained device ends a command of another group than its own (R426). -/
theorem State.command_drained (hb : s.blocked r = false) (hd : s.flt.drained = true) (hop : drainAllows op = false)
    (body : State → Started → State) : s.command h op ps body = s.finish r 0x0340 := by
  unfold State.command
  simp only [hf, hb, hd, hop, Bool.false_eq_true, if_false, Bool.not_false, Bool.and_self, if_true]

end

theorem Admitted.nop {s : State} {h : Hdr} {r : Started} (ha : Admitted s h 0x0100 (Instr.params (.nop h)) r) :
    exec (.nop h) s = .next (s.finish r 0) := by
  change Host.Outcome.next (s.command h 0x0100 (Instr.params (.nop h)) _) = _
  rw [ha.command]

end Sys2Proof.Machine

section

open Sys2Proof Sys2Proof.Machine

/-- Settles O47: the end of NOP is the retirement of its record and its receipt, which is kept in D3hot, left out on a ring that
is not enabled, and else written at the tail; admission is one case distinction on the record that the fetch made. -/
theorem receiptsAndAdmission : Obligations.ReceiptsAndAdmission := by
  refine ⟨fun s h r ha hhush hexp hcut => ?_, fun s h r hf hb => ?_, fun s h hf => ?_, fun s h r hb hd => ?_⟩
  · intro g rc
    have hrun : exec (.nop h) s = .next (State.receipt _ r.done) :=
      ha.nop.trans (congrArg Host.Outcome.next (State.finish_done hhush hexp hcut))
    have hend := State.finish_eventOnly s r 0 []
    rw [State.finish_done hhush hexp hcut] at hend
    obtain ⟨hhost, hout, hd3, hlate, hstarted, hring, hother⟩ := s.retired_keeps r r.delayed
    revert hrun hend hhost hout hd3 hlate hstarted hring hother
    generalize (if r.delayed then (s.retired r).count (ctrDev 15) else s.retired r) = t
    intro hrun hend hhost hout hd3 hlate hstarted hring hother
    have hen : (t.rcp r.done.rr).en = g.en := by rw [show r.done.rr = r.rr from rfl, hring]
    refine ⟨_, hrun, hend, ?_, fun h3 => ?_, fun h3 hoff => ?_, fun h3 hon => ?_⟩
    · unfold State.receipt
      split
      · exact hstarted
      · cases he : g.en with
        | false => rw [State.putReceipt_off (hen.trans he)]; exact hstarted
        | true => exact (State.putReceipt_on (hen.trans he)).2.1.trans hstarted
    · rw [State.receipt, if_pos (hd3.trans h3)]
      exact ⟨congrArg (· ++ [rc]) hlate, hhost, hout⟩
    · rw [State.receipt, if_neg (by rw [hd3, h3]; exact nofun), State.putReceipt_off (hen.trans hoff)]
      exact ⟨hhost, hout⟩
    · rw [State.receipt, if_neg (by rw [hd3, h3]; exact nofun)]
      obtain ⟨hwrite, -, ⟨u, htail⟩, hrest⟩ := State.putReceipt_on (hen.trans hon)
      rw [show r.done.rr = r.rr from rfl, hring] at hwrite htail
      rw [hhost] at hwrite
      refine ⟨hwrite, Receipt.bytes_length _ _, ?_, ?_, ?_, fun x hx => (hrest x hx).trans (hother x hx)⟩
      · rw [htail]
      · rw [htail]
      · rw [htail]
  · exact congrArg Host.Outcome.next (State.command_blocked hf hb _)
  · exact congrArg Host.Outcome.next (State.command_unknown hf _)
  · exact ⟨fun p hf => congrArg Host.Outcome.next (State.command_drained hf hb hd rfl _),
      fun c hf => congrArg Host.Outcome.next (State.command_drained hf hb hd rfl _),
      fun c hf => congrArg Host.Outcome.next (State.command_drained hf hb hd rfl _),
      fun hf => congrArg Host.Outcome.next (State.command_drained hf hb hd rfl _)⟩

end

namespace Sys2Proof.Machine

/-! # The fetch of commands (O45) -/

/-! ### The ring after a fetch (R349, R351) -/

/-- Only submission rings differ. -/
def SubsOnly (s t : State) : Prop := t = { s with cmd := { s.cmd with sub := t.cmd.sub } }

theorem SubsOnly.trans {s t u : State} (h : SubsOnly s t) (g : SubsOnly t u) : SubsOnly s u := by
  unfold SubsOnly at *; rw [g, h]

/-- The rings that are passed over, none of which is `q`. -/
theorem State.passedOver {q : Nat} {l : List Nat} (hl : q ∉ l) (s : State) :
    (l.foldl (fun s x => s.setSub x { s.sub x with passed := (s.sub x).passed + 1 }) s).sub q = s.sub q ∧
      SubsOnly s (l.foldl (fun s x => s.setSub x { s.sub x with passed := (s.sub x).passed + 1 }) s) := by
  induction l generalizing s with
  | nil => exact ⟨rfl, rfl⟩
  | cons x l ih =>
    have hx : q ≠ x := fun e => hl (e ▸ .head _)
    obtain ⟨hsub, honly⟩ := ih (fun h => hl (.tail _ h)) (s.setSub x { s.sub x with passed := (s.sub x).passed + 1 })
    have hstep : SubsOnly s (s.setSub x { s.sub x with passed := (s.sub x).passed + 1 }) := rfl
    exact ⟨hsub.trans (State.sub_setSub_ne _ _ hx), hstep.trans honly⟩

/-- A fetch moves the head of its ring on; but for rings, counts and counters the block is as it was. -/
theorem State.fetched_frame (s : State) (q : Nat) :
    ((s.fetched q).sub q).head = ((s.sub q).head + 1) % 4096 ∧
      ∃ x p c d, s.fetched q = { s with cmd := { s.cmd with sub := x, rrPri := p, counted := c }, ctr := d } := by
  have hnot : q ∉ s.fetchable.filter (· != q) := fun h => by simpa using (List.mem_filter.mp h).2
  obtain ⟨hsub, honly⟩ := State.passedOver hnot s
  unfold State.fetched
  dsimp only
  generalize (s.fetchable.filter (· != q)).foldl (fun s x => s.setSub x { s.sub x with passed := (s.sub x).passed + 1 }) s = t
    at hsub honly
  refine ⟨?_, ?_⟩
  · change (Map.getD (Map.putD t.cmd.sub q _ SubRing.reset) q SubRing.reset).head = _
    rw [Map.getD_putD_self, hsub]
  · unfold SubsOnly at honly
    rw [honly]
    exact ⟨_, _, _, _, rfl⟩

/-- A ring whose fetched command's number is taken keeps its head. -/
theorem State.numbered_sub (s : State) (q : Nat) (l : CmdSlot) : (s.numbered q l).sub q = { s.sub q with last := l.acc } :=
  State.sub_setSub ..

/-! ### The slot's turn (R347, R351, R353) -/

section

variable {s : State} {q : Fin 64} {us : Nat} {slot params : List Byte}

/-- The receipt ring of a slot's answer (log entry 32). -/
def CmdSlot.ring (l : CmdSlot) (q : Nat) : Nat := if l.rr < 64 then l.rr else q

theorem commandFetch_idle {e : Bool} (h : s.fetchRing ≠ some q.val) : exec (.commandFetch q us e slot params) s = .next s :=
  if_pos (by simp [h])

variable (hd3 : s.d3hot = false) (hready : s.mod.ready = true) (hturn : s.fetchRing = some q.val)

include hd3 hready hturn

theorem commandFetch_stalls (hfull : (s.rcp ((cmdSlotOf slot).ring q.val)).freeSlots = 0) :
    exec (.commandFetch q us false slot params) s = .next (s.stall q.val true) := by
  change execCommandFetch q us false slot params s = _
  unfold execCommandFetch
  extract_lets l header rr
  rw [if_neg (by simp [hd3, hready, hturn]), if_neg (by simp)]
  exact if_pos hfull

theorem commandFetch_takes (hfree : 0 < (s.rcp ((cmdSlotOf slot).ring q.val)).freeSlots)
    (hmay : fastOp (cmdSlotOf slot).op = true ∨ (s.cmd.fwrun = true ∧ s.cmdHeld < 256)) :
    exec (.commandFetch q us false slot params) s =
      .next (s.takeSlotCmd q.val us (cmdSlotOf slot) ((cmdSlotOf slot).ring q.val) params) := by
  change execCommandFetch q us false slot params s = _
  unfold execCommandFetch
  extract_lets l header rr
  rw [if_neg (by simp [hd3, hready, hturn]), if_neg (by simp)]
  refine (if_neg (Nat.pos_iff_ne_zero.mp hfree)).trans ((if_neg ?_).trans (if_neg nofun))
  · rcases hmay with h | ⟨hrun, hheld⟩
    · simp [l, h]
    · simp [hrun, Nat.not_le.mpr hheld]

end

/-- A fetch held for want of a receipt slot counts once. -/
theorem State.stall_first {s : State} {q : Nat} (h : s.cmd.counted.contains q = false) : s.stall q true =
    State.count { s with cmd := { s.cmd with stalled := s.cmd.stalled ++ [q], counted := q :: s.cmd.counted } } (ctrDev 13) := by
  unfold State.stall
  simp only [h, Bool.not_false, Bool.and_self, if_true]

theorem State.stall_again {s : State} {q : Nat} (h : s.cmd.counted.contains q = true) :
    s.stall q true = { s with cmd := { s.cmd with stalled := s.cmd.stalled ++ [q] } } := by
  unfold State.stall
  simp only [h, Bool.not_true, Bool.and_false, Bool.false_eq_true, if_false]

/-- The record of a command that a fetch starts (R350). -/
def CmdSlot.record (l : CmdSlot) (q rr sqhead : Nat) (late : Bool) (p : List Byte) : Started :=
  { op := l.op, q := q, acc := l.acc, rr := rr, direct := false, fence := l.flags == 1, delayed := late, sqhead := sqhead,
    objs := cmdObjs l.op p, begun := false, items := 0, hushed := false, linkLate := false, uid := 0, params := p, holds := false }

/-! ### What a fetched command does first (R347, R348, R414) -/

section

variable {s : State} {q us rr : Nat} {l : CmdSlot} {params : List Byte}

/-- The answer to a slot whose number has been taken. -/
theorem State.answerNumbered (s : State) (q : Nat) (l : CmdSlot) (rr status : Nat) :
    ((s.fetched q).numbered q l).answerSlot q l rr status = ((s.fetched q).numbered q l).receipt
      ⟨rr, status, l.op, false, q, ((s.sub q).head + 1) % 4096, l.acc, []⟩ := by
  rw [State.answerSlot, State.numbered_sub, (s.fetched_frame q).1]

theorem State.takeSlotCmd_stale (h : l.acc ≤ (s.sub q).last) : s.takeSlotCmd q us l rr params =
    (s.fetched q).receipt ⟨rr, 0x0341, l.op, false, q, ((s.sub q).head + 1) % 4096, l.acc, []⟩ := by
  unfold State.takeSlotCmd
  extract_lets g late s1 p
  rw [if_pos h, State.answerSlot, (s.fetched_frame q).1]

theorem State.mgmtRefuses_numbered (op : Nat) (p : List Byte) :
    ((s.fetched q).numbered q l).mgmtRefuses op p = s.mgmtRefuses op p := by
  obtain ⟨x, r, c, d, hfetched⟩ := (s.fetched_frame q).2
  rw [hfetched]; rfl

variable (hnew : (s.sub q).last < l.acc)

include hnew

theorem State.takeSlotCmd_malformed
    (h : l.ok = false ∨ plenOf l.op (l.params params) ≠ some l.plen ∨ paramsOk l.op (l.params params) = false) :
    s.takeSlotCmd q us l rr params = ((s.fetched q).numbered q l).receipt
      ⟨rr, 0x0801, l.op, false, q, ((s.sub q).head + 1) % 4096, l.acc, []⟩ := by
  unfold State.takeSlotCmd
  extract_lets g late s1 p s2
  rw [if_neg (Nat.not_le.mpr hnew), if_pos (by rcases h with h | h | h <;> simp [p, h])]
  exact s.answerNumbered q l rr _

variable (hok : l.ok = true) (hlen : plenOf l.op (l.params params) = some l.plen)
  (hparams : paramsOk l.op (l.params params) = true)

include hok hlen hparams

theorem State.takeSlotCmd_refused (h : s.mgmtRefuses l.op (l.params params) = true) :
    s.takeSlotCmd q us l rr params = ((s.fetched q).numbered q l).receipt
      ⟨rr, 0x0301, l.op, false, q, ((s.sub q).head + 1) % 4096, l.acc, []⟩ := by
  unfold State.takeSlotCmd
  extract_lets g late s1 p s2
  rw [if_neg (Nat.not_le.mpr hnew), if_neg (by simp [p, hok, hlen, hparams]),
    if_pos ((State.mgmtRefuses_numbered _ _).trans h)]
  exact s.answerNumbered q l rr _

theorem State.takeSlotCmd_starts (h : s.mgmtRefuses l.op (l.params params) = false) :
    s.takeSlotCmd q us l rr params = ((s.fetched q).numbered q l).startCmd
      (l.record q rr (((s.sub q).head + 1) % 4096)
        (((s.sub q).bells.head?).any fun b => decide (b.2 + s.cmd.dlyth < us)) (l.params params)) := by
  unfold State.takeSlotCmd
  extract_lets g late s1 p s2
  rw [if_neg (Nat.not_le.mpr hnew), if_neg (by simp [p, hok, hlen, hparams]),
    if_neg (ne_true_of_eq_false ((State.mgmtRefuses_numbered _ _).trans h)),
    show (s2.sub q).head = ((s.sub q).head + 1) % 4096 by rw [State.numbered_sub]; exact (s.fetched_frame q).1]
  rfl

end

theorem CmdSlot.ok_ring {l : CmdSlot} (h : l.ok = true) (q : Nat) : l.ring q = l.rr := by
  unfold CmdSlot.ok at h
  simp only [Bool.and_eq_true, decide_eq_true_eq] at h
  exact if_pos (by tauto)

/-- T4 of a command that has not begun: nothing of it is under way, and nothing is given up (R359). -/
theorem State.expire_unbegun {s : State} {r : Started} (h : r.begun = false) :
    s.expire r = State.finish { s.count (ctrDev 43) with
      cmd := { (s.count (ctrDev 43)).cmd with expired := r.uid :: (s.count (ctrDev 43)).cmd.expired } } r 0x0507 := by
  have hitems : s.itemsUnderWay r = 0 := if_pos (by rw [h]; rfl)
  have hgive : (s.count (ctrDev 43)).giveUp r = s.count (ctrDev 43) := if_pos (by rw [h]; rfl)
  have hsame : ∀ rs : List Started, (rs.map fun x => if x = r then r else x) = rs := fun rs => by
    conv_rhs => rw [← List.map_id rs]
    exact List.map_congr_left fun x _ => by split <;> simp [*]
  unfold State.expire
  simp only [hitems, hgive, h, Bool.and_false, Bool.false_eq_true, if_false, if_true, State.putStarted, hsame]

end Sys2Proof.Machine

section

open Sys2Proof Sys2Proof.Machine

/-- Settles O45: the slot whose turn it is stalls its ring, or is taken; a slot taken is stale, malformed, refused or started, in
that order; the fold over the other rings leaves its own. -/
theorem commandFetches : Obligations.CommandFetches := by
  refine ⟨fun s q us slot params hd3 hready hturn hslot => ?_, fun s q us e slot params h => commandFetch_idle h,
    fun s h r hf hbegun => ?_⟩
  · intro l g rr p late
    refine ⟨fun hfull hfirst => ?_, fun hfull hagain => ?_, fun hfree hmay => ?_⟩
    · rw [commandFetch_stalls hd3 hready hturn hfull, State.stall_first hfirst]
    · rw [commandFetch_stalls hd3 hready hturn hfull, State.stall_again hagain]
    · rw [commandFetch_takes hd3 hready hturn hfree hmay]
      refine ⟨fun hnew hok hlen hparams hmgmt => ?_, fun hnew hok hlen hparams hmgmt => ?_, fun hnew hbad => ?_, fun hstale => ?_⟩
      · exact congrArg Host.Outcome.next (State.takeSlotCmd_refused hnew hok hlen hparams hmgmt)
      · obtain ⟨x, pri, c, d, hfetched⟩ := (s.fetched_frame q.val).2
        have hhead := (s.fetched_frame q.val).1
        have hrun : Host.Outcome.next (s.takeSlotCmd q.val us l rr params) =
            (.next (((s.fetched q.val).numbered q.val l).startCmd (l.record q rr ((g.head + 1) % 4096) late p)) :
              Host.Outcome State Fault Refusal) :=
          congrArg Host.Outcome.next (State.takeSlotCmd_starts hnew hok hlen hparams hmgmt)
        refine ⟨_, hrun, ?_⟩
        obtain ⟨hstarted, -, hrcp, hsub, hcmd⟩ := State.startCmd_record (s := (s.fetched q.val).numbered q.val l)
          (l.record q rr ((g.head + 1) % 4096) late p)
        have hprev : ((s.fetched q.val).numbered q.val l).cmd.started = s.cmd.started := by rw [hfetched]; rfl
        have huid : ((s.fetched q.val).numbered q.val l).cmd.nextUid = s.cmd.nextUid := by rw [hfetched]; rfl
        rw [hprev, huid] at hstarted
        refine ⟨?_, ?_, ?_, ⟨_, hstarted, rfl, rfl, rfl, CmdSlot.ok_ring hok _, rfl, rfl, rfl, rfl, rfl, rfl, rfl, rfl⟩, ?_, ?_⟩
        · rw [hsub, State.numbered_sub]; exact hhead
        · rw [hsub, State.numbered_sub]
        · rw [hrcp, show (l.record q.val rr ((g.head + 1) % 4096) late p).rr = rr from rfl, if_pos rfl, hfetched]; rfl
        · rw [hcmd, hfetched]; rfl
        · rw [hcmd, hfetched]; rfl
      · exact congrArg Host.Outcome.next (State.takeSlotCmd_malformed hnew hbad)
      · exact congrArg Host.Outcome.next (State.takeSlotCmd_stale hstale)
  · change (match s.cmd.started.find? (fun r => r.isFor h && !s.cmd.expired.contains r.uid) with
      | some r => Host.Outcome.next (s.expire r)
      | none => .next s) = _
    rw [hf]
    exact congrArg Host.Outcome.next (State.expire_unbegun hbegun)

end

namespace Sys2Proof.Machine

/-! # The end of wrap processing that begins it again (O43)

The end of wrap processing lets a waiting MDECL look at its source again (R313). Where its descriptor reads as uncorrectable
(R100, R189) and the parcel has no spare left (R419), the device is flagged and drained (R427); the drain fails the end-of-step
closure (R426), at which the datum device wraps (R286), and wrap processing runs again. -/

/-- An MDECL that waits at the head of its parcel's matrix queue. -/
def waitingMdecl : Eng :=
  { Eng.empty with sync := { Eng.empty.sync with qm := { Eng.empty.sync.qm with run := .running, head := some ⟨0, 1, .engine⟩ } } }

/-- The datum device in wrap processing, with an MDECL that waits in its first parcel: the granule of its descriptor is
uncorrectable, no spare is left, the end-of-step closure is open, and the shelves of the journal take no records. -/
def lastSpareUsed : State := { State.reset with
  eng := [(engKey 0 0, waitingMdecl)]
  ctxs := [(0, { Ctx.free with st := .running, foot := 1 })]
  bad := [(fbAddr 0 0, true)]
  flt := { State.reset.flt with spares := [] }
  arc := { Arc.reset with shelves := [(638, { Shelf.reset 638 with fw := false }), (639, { Shelf.reset 639 with fw := false })] }
  cat := { State.reset.cat with busy := true }
  closures := [(0, { Closure.idle with st := .opened, units := [0] })]
  brg := { State.reset.brg with role := true, run := true, st := .locked, cid := 0 } }

/-- BUSY after a command. -/
def busyAfter (o : Host.Outcome State Fault Refusal) : Bool :=
  match o with
  | .next t => t.cat.busy
  | _ => false

theorem lastSpareUsed_busy : lastSpareUsed.cat.busy = true ∧
    busyAfter (exec .catalogueWrapProcessingDone lastSpareUsed) = true := by
  decide +kernel

end Sys2Proof.Machine

section

open Sys2Proof Sys2Proof.Machine

/-- Refutes O43 at the end of wrap processing: `lastSpareUsed` has BUSY set after it, since the MDECL that it wakes drains the
device, which makes the datum device wrap. -/
theorem not_catalogueCommands : ¬ Obligations.CatalogueCommands := by
  intro holds
  obtain ⟨-, -, wrapDone⟩ := holds
  obtain ⟨-, clears, -⟩ := wrapDone lastSpareUsed
  obtain ⟨before, after⟩ := lastSpareUsed_busy
  obtain ⟨t, hrun, hbusy, -⟩ := clears before
  rw [hrun] at after
  exact absurd (hbusy.symm.trans after) Bool.false_ne_true

end

namespace Sys2Proof.Machine

/-! # What the end of running work leaves alone

A drain, the failure of closures and collectives, and what a unit stops with reach far into the state: a failed closure may
wrap the bearing, and with it the catalogue. `Core` says what none of it touches, each operation by the lemmas of the
operations that it is made of. -/

/-- The fields that the end of running work leaves alone. -/
structure Kept where
  pending : List Instr
  now : Nat
  owner : Nat
  scratch : List Nat
  station : Nat
  d3hot : Bool
  d3depth : Bool
  linkUp : Bool
  tmax : Nat
  pin : Nat
  dbgOpen : Bool
  slotRes : Nat
  pwr : Pwr
  sec : Sec
  ready : Bool
  tripLow : Bool
  warmNext : Bool
  napped : List Nat
  boot : Boot
  wdog : Bool
  mgstop : Bool
  fwrun : Bool
  wlim : List Nat
  svc : Map Svc
  epochs : Map Nat
  epochBase : Nat
  wdogLast : Option Nat
  replay : Option Replay
  ctxs : Map Ctx
  drained : Bool
  flagged : Bool
  ctl : Map PortCtl
  refs : Bool × Bool × Bool × Bool
  ports : Option (Map SubPort)

/-- Those of a state; whether its sub-ports are among them, `ports` says. -/
def State.core (s : State) (ports : Bool) : Kept where
  pending := s.pending
  now := s.now
  owner := s.owner
  scratch := s.scratch
  station := s.station
  d3hot := s.d3hot
  d3depth := s.d3depth
  linkUp := s.linkUp
  tmax := s.tmax
  pin := s.pin
  dbgOpen := s.dbgOpen
  slotRes := s.slotRes
  pwr := s.pwr
  sec := s.sec
  ready := s.mod.ready
  tripLow := s.mod.tripLow
  warmNext := s.mod.warmNext
  napped := s.mod.napped
  boot := s.mod.boot
  wdog := s.cmd.wdog
  mgstop := s.cmd.mgstop
  fwrun := s.cmd.fwrun
  wlim := s.flt.wlim
  svc := s.flt.svc
  epochs := s.flt.epochs
  epochBase := s.flt.epochBase
  wdogLast := s.flt.wdogLast
  replay := s.flt.replay
  ctxs := s.ctxs
  drained := s.flt.drained
  flagged := s.flt.flagged
  ctl := s.fab.ctl
  refs := (s.mod.refH, s.mod.refL, s.mod.hLost, s.mod.lLost)
  ports := if ports then some s.ports else none

/-- Running work of `base` has ended in part: the fields of `State.core` are as they were, and with `ports` the sub-ports. -/
structure Core (base s : State) (ports : Bool := false) : Prop where
  fixed : s.core ports = base.core ports

namespace Core

variable {base s t : State} {kp : Bool}

theorem pwr (h : Core base s kp) : s.pwr = base.pwr := congrArg Kept.pwr h.fixed
theorem sec (h : Core base s kp) : s.sec = base.sec := congrArg Kept.sec h.fixed
theorem tripLow (h : Core base s kp) : s.mod.tripLow = base.mod.tripLow := congrArg Kept.tripLow h.fixed
theorem wdog (h : Core base s kp) : s.cmd.wdog = base.cmd.wdog := congrArg Kept.wdog h.fixed
theorem mgstop (h : Core base s kp) : s.cmd.mgstop = base.cmd.mgstop := congrArg Kept.mgstop h.fixed
theorem epochBase (h : Core base s kp) : s.flt.epochBase = base.flt.epochBase := congrArg Kept.epochBase h.fixed
theorem wdogLast (h : Core base s kp) : s.flt.wdogLast = base.flt.wdogLast := congrArg Kept.wdogLast h.fixed
theorem drained (h : Core base s kp) : s.flt.drained = base.flt.drained := congrArg Kept.drained h.fixed
theorem flagged (h : Core base s kp) : s.flt.flagged = base.flt.flagged := congrArg Kept.flagged h.fixed

theorem ports (h : Core base s true) : s.ports = base.ports := Option.some.inj (congrArg Kept.ports h.fixed)

theorem port (h : Core base s true) (p : Nat) : s.port p = base.port p := congrArg (Map.getD · p SubPort.reset) h.ports

theorem pctl (h : Core base s kp) (n : Nat) : s.pctl n = base.pctl n :=
  congrArg (fun k : Kept => Map.getD k.ctl n PortCtl.reset) h.fixed

theorem present (h : Core base s kp) (p : Nat) : s.present p = base.present p := by rw [State.present, h.pctl]; rfl

theorem ctx (h : Core base s kp) (c : Nat) : s.ctx c = base.ctx c := congrArg (fun k : Kept => Map.getD k.ctxs c Ctx.free) h.fixed

theorem svcOf (h : Core base s kp) (k : Nat) : s.svcOf k = base.svcOf k :=
  congrArg (fun c : Kept => Map.getD c.svc k Svc.inService) h.fixed

theorem epochOf (h : Core base s kp) (k : Nat) : s.epochOf k = base.epochOf k :=
  congrArg (fun c : Kept => (Map.getD c.epochs k 0 + c.epochBase) % 65536) h.fixed

theorem refl (s : State) : Core s s kp := ⟨rfl⟩

theorem trans (g : Core s t kp) (h : Core base s kp) : Core base t kp := ⟨g.fixed.trans h.fixed⟩

/-- A state in which nothing but other fields is replaced. -/
theorem upd (h : Core base s kp) (e : t.core kp = s.core kp) : Core base t kp := ⟨e.trans h.fixed⟩

theorem ite {c : Prop} [Decidable c] (h : Core base s kp) (g : Core base t kp) : Core base (if c then s else t) kp := by
  split <;> assumption

theorem foldl {α : Type} {f : State → α → State} {l : List α} (hf : ∀ {s x}, Core base s kp → Core base (f s x) kp)
    (h : Core base s kp) : Core base (l.foldl f s) kp := by
  induction l generalizing s with
  | nil => exact h
  | cons x l ih => exact ih (hf h)

theorem of_eq {α : Type} {p : State × α} {x : α} (e : p = (s, x)) (h : Core base p.1 kp) : Core base s kp := by
  subst e; exact h

theorem count {k n} (h : Core base s kp) : Core base (s.count k n) kp := .upd h rfl

theorem setPort {p v} (h : Core base s) : Core base (s.setPort p v) := .upd h rfl

theorem deliverOwn {k} (h : Core base s kp) : Core base (s.deliverOwn k) kp := .upd h rfl

theorem enqueue {k path inp} (h : Core base s kp) : Core base (s.enqueue k path inp) kp := .ite (.count (.upd h rfl)) (.upd h rfl)

theorem placePacket {k inp} (h : Core base s kp) : Core base (s.placePacket k inp).1 kp := by
  unfold State.placePacket
  split
  · exact .deliverOwn h
  · split
    · exact .enqueue h
    · exact h

theorem noticeFrom {reporter sn status path flow ptype dst ctx} (h : Core base s kp) :
    Core base (s.noticeFrom reporter sn status path flow ptype dst ctx) kp :=
  .placePacket h

theorem notice {sn status path flow ptype dst ctx} (h : Core base s kp) :
    Core base (s.notice sn status path flow ptype dst ctx) kp :=
  .noticeFrom h

theorem noticeOf {k status path} (h : Core base s kp) : Core base (s.noticeOf k status path) kp := .ite (.notice h) h

theorem routePacket {k inp} (h : Core base s kp) : Core base (s.routePacket k inp) kp := by
  unfold State.routePacket
  split
  · exact .of_eq ‹_› (.placePacket h)
  · exact .noticeOf (.of_eq ‹_› (.placePacket h))

theorem sendOn {k} (h : Core base s kp) : Core base (s.sendOn k) kp := .routePacket h

theorem sendBy {k path} (h : Core base s kp) : Core base (s.sendBy k path) kp := .ite (.enqueue h) h

theorem slip {dst ptype flow ctx body} (h : Core base s kp) : Core base (s.slip dst ptype flow ctx body) kp := .sendOn h

theorem fwmsg {dst chan payload cmd} (h : Core base s kp) : Core base (s.fwmsg dst chan payload cmd) kp := .sendOn (.upd h rfl)

theorem countAll {ks} (h : Core base s kp) : Core base (s.countAll ks) kp := .foldl .count h

theorem useFree (h : Core base s kp) : Core base s.useFree kp := .upd h rfl

theorem setEng {key e} (h : Core base s kp) : Core base (s.setEng key e) kp := .upd h rfl

theorem setSync {key y} (h : Core base s kp) : Core base (s.setSync key y) kp := .setEng h

theorem setQueue {key q v} (h : Core base s kp) : Core base (s.setQueue key q v) kp := .setSync h

theorem setMat {key m} (h : Core base s kp) : Core base (s.setMat key m) kp := .setEng h

theorem wakeMem {slice a} (h : Core base s kp) : Core base (s.wakeMem slice a) kp := .ite h (.upd h rfl)

theorem store {a bs} (h : Core base s kp) : Core base (s.store a bs) kp := .upd h rfl

theorem lose {a} (h : Core base s kp) : Core base (s.lose a) kp := .upd h rfl

theorem hostStore {a bs} (h : Core base s kp) : Core base (s.hostStore a bs) kp := .upd h rfl

theorem reportOut {bs} (h : Core base s kp) : Core base (s.reportOut bs) kp := by
  unfold State.reportOut
  split
  · exact .upd h rfl
  · split
    · exact .fwmsg h
    · exact h

theorem report {rkind sev payload} (h : Core base s kp) : Core base (s.report rkind sev payload) kp :=
  .ite (.count (.upd h rfl)) (.count (.reportOut (.upd h rfl)))

theorem setRcp {r v} (h : Core base s kp) : Core base (s.setRcp r v) kp := .upd h rfl

theorem signal {vec} (h : Core base s kp) : Core base (s.signal vec) kp := .ite (.upd h rfl) (.upd h rfl)

theorem signalRing {q} (h : Core base s kp) : Core base (s.signalRing q) kp := .ite (.signal (.setRcp h)) h

theorem putReceipt {r} (h : Core base s kp) : Core base (s.putReceipt r) kp := .ite h (.signalRing (.setRcp (.hostStore h)))

theorem eventPut {k status result} (h : Core base s kp) : Core base (s.eventPut k status result) kp := .putReceipt (.upd h rfl)

theorem lostEvents (h : Core base s kp) : Core base s.lostEvents kp := .ite (.eventPut (.upd h rfl)) h

theorem event {k status result} (h : Core base s kp) : Core base (s.event k status result) kp :=
  .ite (.eventPut h) (.lostEvents (.count (.upd h rfl)))

theorem logNew {kind status sev unit addr req detail} (h : Core base s kp) :
    Core base (s.logNew kind status sev unit addr req detail) kp := by
  unfold State.logNew
  dsimp only
  refine .report (.event (.count (.upd h ?_)))
  dsimp only [State.core]
  generalize (decide (3 ≤ sev) && _) = kept
  cases kept <;> rfl

theorem log {kind status sev unit addr req detail} (h : Core base s kp) :
    Core base (s.log kind status sev unit addr req detail) kp := by
  unfold State.log
  dsimp only
  split
  · exact .upd h rfl
  · exact .logNew h

theorem setClosure {cid v} (h : Core base s kp) : Core base (s.setClosure cid v) kp := .upd h rfl

theorem setCbits {key cid v} (h : Core base s kp) : Core base (s.setCbits key cid v) kp := .setSync h

theorem setCbit {key cid i b} (h : Core base s kp) : Core base (s.setCbit key cid i b) kp := .setCbits h

theorem dropHeld {key q} (h : Core base s kp) : Core base (s.dropHeld key q) kp := by
  unfold State.dropHeld
  split
  · exact .ite (.setClosure h) (.setCbit (.setClosure h))
  · exact h

theorem failQueue {s : State} {n c u q addr status pc member} (h : Core base s kp) :
    Core base (State.failQueue n s c u q addr status pc member) kp := by
  unfold State.failQueue
  extract_lets key w before _ w' s1 s2
  split
  · exact .ite (.setQueue h) h
  · have h1 : Core base s1 kp := .setQueue (.dropHeld h)
    have h2 : Core base s2 kp := .ite (.ite (.count h1) (.ite (.count h1) h1)) h1
    refine .ite ?_ (.ite (.event h2) h2)
    cases n with
    | zero => exact h2
    | succ n => exact failQueue (.count h2)

theorem endEntry {c u q addr status} (h : Core base s kp) : Core base (s.endEntry c u q addr status) kp :=
  .ite (.setQueue h) (.failQueue h)

theorem countShed {first evs} (h : Core base s kp) : Core base (s.countShed first evs) kp := .countAll h

theorem dropLine {k l} (h : Core base s kp) : Core base (s.dropLine k l) kp := .ite (.lose h) h

theorem setWays {k w} (h : Core base s kp) : Core base (s.setWays k w) kp := .upd h rfl

theorem cacheLine {write a} (h : Core base s kp) : Core base (s.cacheLine write a) kp := by
  unfold State.cacheLine
  extract_lets k n ways s1 s2 s3
  refine .ite (.ite (.count h) h) ?_
  split
  · exact .count (.setWays h)
  · have h1 : Core base s1 kp := .count h
    have h2 : Core base s2 kp := .foldl .dropLine (.setWays h1)
    exact .ite (.count h1) (.countAll (.ite h2 (.count h2)))

theorem accessLine {cls write a} (h : Core base s kp) : Core base (s.accessLine cls write a) kp :=
  .cacheLine (.count (.count (.wakeMem h)))

theorem access {cls write a len} (h : Core base s kp) : Core base (s.access cls write a len) kp := by
  unfold State.access
  split
  · exact .upd h rfl
  · exact .count (.count (.wakeMem h))
  · exact .foldl .accessLine h

theorem lineUnc {addr req} (h : Core base s kp) : Core base (s.lineUnc addr req) kp :=
  .ite (.log (.count h)) (.log (.count (.count h)))

theorem writeBack {p} (h : Core base s kp) : Core base (s.writeBack p) kp := .upd (s := s.countAll _) (.countAll h) rfl

theorem invalidate {p} (h : Core base s kp) : Core base (s.invalidate p) kp := .foldl .dropLine (.upd h rfl)

theorem invalidateAs {cls p} (h : Core base s kp) : Core base (s.invalidateAs cls p) kp := .invalidate (.countAll h)

theorem zeroFill {a len} (h : Core base s kp) : Core base (s.zeroFill a len) kp := .upd h rfl

theorem storeOr {zero a len bs} (h : Core base s kp) : Core base (s.storeOr zero a len bs) kp := .ite (.zeroFill h) (.store h)

theorem putBlock {u a e} (h : Core base s kp) : Core base (s.putBlock u a e) kp :=
  .ite (.storeOr (.storeOr (.storeOr (.storeOr h)))) (.storeOr h)

theorem placeEng {key e} (h : Core base s kp) : Core base (s.placeEng key e) kp := .upd h rfl

theorem taken {o : Option Eng} {k} (h : Core base s kp) : ∀ t ∈ o.map fun e => s.placeEng k e, Core base t kp := by
  rintro _ ht
  obtain ⟨e, -, rfl⟩ := Option.map_eq_some_iff.mp ht
  exact h.placeEng

theorem foldlBind {α : Type} {f : State → α → Option State} {l : List α} {o : Option State}
    (hf : ∀ {s x}, Core base s kp → ∀ t ∈ f s x, Core base t kp) (h : ∀ t ∈ o, Core base t kp) :
    ∀ t ∈ l.foldl (fun o x => o.bind fun s => f s x) o, Core base t kp := by
  induction l generalizing o with
  | nil => exact h
  | cons x l ih =>
    refine ih fun t ht => ?_
    obtain ⟨r, hr, hx⟩ := Option.bind_eq_some_iff.mp ht
    exact hf (h r hr) t hx

theorem ofSome (h : Core base s kp) : ∀ t ∈ some s, Core base t kp := fun _ e => Option.some.inj e ▸ h

theorem putSync {c u a} (h : Core base s kp) : Core base (s.putSync c u a) kp := .ite h (.ite (.upd h rfl) (.store h))

theorem syncReport {u a} (h : Core base s kp) : Core base (s.syncReport u a) kp := .ite h (.foldl .lineUnc h)

theorem onSaved {c us f} (h : Core base s kp) (hf : ∀ {s}, Core base s kp → Core base (f s) kp) :
    Core base (s.onSaved c us f) kp := by
  unfold State.onSaved
  extract_lets v real s1 own s2
  have h1 : Core base s1 kp := .foldl (fun h => .placeEng (.syncReport h)) h
  have h2 : Core base s2 kp := .foldl .placeEng h
  exact .ite (.foldl (fun h => .placeEng (.putSync h)) (hf h1)) (.ite (.foldl .putSync (hf h2)) (hf h))

theorem onUnits {c us f} (h : Core base s kp) (hf : ∀ {s}, Core base s kp → Core base (f s) kp) :
    Core base (s.onUnits c us f) kp := by
  unfold State.onUnits
  dsimp only
  refine .ite h ?_
  split
  next s1 e => exact .foldl (fun h1 => .placeEng (.putBlock h1)) (hf (foldlBind taken (ofSome h) s1 e))
  · exact h

theorem setStake {holder i st} (h : Core base s kp) : Core base (s.setStake holder i st) kp := .setSync h

theorem misuse {key which} (h : Core base s kp) : Core base (s.misuse key which) kp := .setSync h

theorem endWait {key q status} (h : Core base s kp) : Core base (s.endWait key q status) kp := by
  unfold State.endWait
  split
  · exact .endEntry h
  · exact h

theorem endWaits {ws status} (h : Core base s kp) : Core base (s.endWaits ws status) kp := .foldl .endWait h

theorem wakeStake {holder i} (h : Core base s kp) : Core base (s.wakeStake holder i) kp := by
  unfold State.wakeStake
  dsimp only
  split
  · exact .endWaits h
  · exact .endWaits h
  · split
    · exact .endWaits (.endWait (.setStake (.endWaits (.upd h rfl))))
    · exact .endWaits (.upd h rfl)

theorem stakeOp {holder i set} (h : Core base s kp) : Core base (s.stakeOp holder i set) kp := by
  unfold State.stakeOp
  dsimp only
  split
  · exact .countAll (.countAll h)
  · exact .wakeStake (.setStake (.countAll h))
  · exact .misuse (.countAll h)
  · exact .misuse (.countAll h)
  · exact .wakeStake (.setStake (.countAll h))

theorem abandonStake {holder i} (h : Core base s kp) : Core base (s.abandonStake holder i) kp :=
  .wakeStake (.setSync (.setStake h))

theorem abandonIn {c p} (h : Core base s kp) : Core base (s.abandonIn c p) kp := .foldl .abandonStake h

theorem abandonAll {p} (h : Core base s kp) : Core base (s.abandonAll p) kp := .foldl (fun h1 => .onSaved h1 .abandonIn) h

theorem stakeOpAny {holder i set} (h : Core base s kp) : Core base (s.stakeOpAny holder i set) kp := .onSaved h .stakeOp

theorem setRef {c w} (h : Core base s kp) : Core base (s.setRef c w) kp := by
  unfold State.setRef
  split
  · exact .ite (.stakeOpAny h) h
  · exact h

theorem setCat {k v} (h : Core base s kp) : Core base (s.setCat k v) kp := .upd h rfl

theorem storeCat {first count a} (h : Core base s kp) : Core base (s.storeCat first count a) kp := .upd h rfl

theorem applyCat {c} (h : Core base s kp) : Core base (s.applyCat c) kp := by
  unfold State.applyCat
  split
  · exact .foldl .setCat h
  · exact .foldl .setCat h
  · exact .foldl .setCat h

theorem checkArea {c} (h : Core base s kp) : Core base (s.checkArea c) kp := .ite (.log (.upd h rfl)) h

theorem clearPost {r} (h : Core base s kp) : Core base (s.clearPost r) kp := .store h

theorem applySeeds {rs} (h : Core base s kp) : Core base (s.applySeeds rs) kp :=
  .foldl (fun h1 => .count (.setCat h1)) (.countAll h)

theorem publish {c rev} (h : Core base s kp) : Core base (s.publish c rev) kp := .access (.store (.store h))

theorem pubStake {c} (h : Core base s kp) : Core base (s.pubStake c) kp := .ite (.setRef h) h

theorem readArea {c} (h : Core base s kp) : Core base (s.readArea c) kp := .foldl .lineUnc (.foldl .access h)

theorem watch {entry kind n value} (h : Core base s kp) : Core base (s.watch entry kind n value) kp :=
  .ite (.count h) (.report (.event (.count (.upd h rfl))))

theorem watchEntry {n k posted} (h : Core base s kp) : Core base (s.watchEntry n k posted) kp := by
  unfold State.watchEntry
  extract_lets e up rep z sr cl zhit shit chit s1 s2 s3
  have h1 : Core base s1 kp := .setCat h
  have h2 : Core base s2 kp := .ite (.watch h1) h1
  have h3 : Core base s3 kp := .ite (.watch h2) h2
  exact .ite (.watch h3) h3

theorem wrapBegin (h : Core base s kp) : Core base s.wrapBegin kp := .foldl .checkArea (.foldl .applyCat (.upd h rfl))

theorem postEntry {n k a} (h : Core base s kp) : Core base (s.postEntry n k a) kp :=
  .ite (.count (.setCat h)) (.count (.setCat h))

theorem applyPosts {n posts} (h : Core base s kp) : Core base (s.applyPosts n posts) kp :=
  .foldl .watchEntry (.foldl .postEntry (.countAll h))

theorem skipRun {n votes failed} (h : Core base s kp) : Core base (s.skipRun n votes failed) kp :=
  .ite (.ite (.watch (.count (.upd h rfl))) (.count (.upd h rfl))) (.ite h (.upd h rfl))

theorem wrapPublish {cs recs next} (h : Core base s kp) : Core base (s.wrapPublish cs recs next) kp :=
  .foldl .pubStake (.foldl .clearPost (.foldl .publish h))

theorem wrapProcess {n next failed} (h : Core base s kp) : Core base (s.wrapProcess n next failed) kp := by
  unfold State.wrapProcess
  extract_lets sb cs s0 recs votes s1 s2
  have h1 : Core base s1 kp := .applySeeds (.foldl .readArea (.wrapBegin h))
  have h2 : Core base s2 kp := .ite h1 (.applyPosts h1)
  clear_value s2
  exact .wrapPublish (.skipRun (.upd h2 rfl))

theorem journalBegin (h : Core base s kp) : Core base s.journalBegin kp := .ite (.access (.storeCat (.store h))) h

theorem emitToken {wrap} (h : Core base s kp) : Core base (s.emitToken wrap) kp := .foldl .sendBy (.upd h rfl)

theorem datumWrap {failed} (h : Core base s kp) : Core base (s.datumWrap failed) kp := by
  unfold State.datumWrap
  extract_lets b period next s1
  have h1 : Core base s1 kp := .upd h rfl
  exact .journalBegin (.wrapProcess (.emitToken h1))

theorem closureEnds {cid failed} (h : Core base s kp) : Core base (s.closureEnds cid failed) kp := .ite (.datumWrap h) h

theorem countTracts {units e} (h : Core base s kp) : Core base (s.countTracts units e) kp := .foldl .countAll h

theorem closureFail {cid status sender} (h : Core base s kp) : Core base (s.closureFail cid status sender) kp :=
  .ite h (.closureEnds (.countTracts (.onSaved (.foldl .slip (.setClosure h)) fun h1 => .foldl .endWait h1)))

theorem closuresFail {p status} (h : Core base s kp) : Core base (s.closuresFail p status) kp := .foldl .closureFail h

theorem receipt {r} (h : Core base s kp) : Core base (s.receipt r) kp := .ite (.upd h rfl) (.putReceipt h)

theorem finish {r status result} (h : Core base s kp) : Core base (s.finish r status result) kp := by
  unfold State.finish
  extract_lets halted cut st late g cmd s1 s2 s3
  have h1 : Core base s1 kp := .upd h rfl
  have h2 : Core base s2 kp := .ite h1 (.setRcp h1)
  have h3 : Core base s3 kp := .ite (.count h2) (.ite (.count h2) h2)
  exact .ite h3 (.receipt h3)

theorem finishAll {p status result} (h : Core base s kp) : Core base (s.finishAll p status result) kp := .foldl .finish h

theorem setBindery {h' v} (h : Core base s kp) : Core base (s.setBindery h' v) kp := .upd h rfl

theorem dropStarts {status} (h : Core base s kp) : Core base (s.dropStarts status) kp := by
  unfold State.dropStarts
  extract_lets gone s1
  have h1 : Core base s1 kp := .upd h rfl
  clear_value s1
  refine .foldl (fun h1 => ?_) h1
  split
  · exact .ite (.finish h1) h1
  · exact .ite (.count h1) h1

theorem mapFp {f} (h : Core base s kp) : Core base (s.mapFp f) kp := .upd h rfl

theorem captureLines {src h' rs} (h : Core base s kp) : Core base (s.captureLines src h' rs) kp := .ite h (.mapFp h)

theorem setCol {h' c} (h : Core base s kp) : Core base (s.setCol h' c) kp := .upd h rfl

theorem colClose {h' c status waitns} (h : Core base s kp) : Core base (s.colClose h' c status waitns) kp :=
  .setCol (.ite (.store (.access h)) h)

theorem dropTiles {h'} (h : Core base s kp) : Core base (s.dropTiles h') kp := .upd h rfl

theorem stagingEnd {key status} (h : Core base s kp) : Core base (s.stagingEnd key status) kp :=
  .onUnits h fun h1 => by
    split
    · exact .endWait (.setMat h1)
    · exact h1

theorem colFail {h' status failsn} (h : Core base s kp) : Core base (s.colFail h' status failsn) kp := by
  unfold State.colFail
  split
  · exact h
  · exact .ite (.foldl .noticeFrom (.foldl .stagingEnd (.dropTiles (.colClose h)))) h

theorem colFailOwn {h' status} (h : Core base s kp) : Core base (s.colFailOwn h' status) kp := .colFail h

theorem colsFail {p status} (h : Core base s kp) : Core base (s.colsFail p status) kp := .foldl .colFailOwn h

theorem colAbandonCheck (h : Core base s kp) : Core base s.colAbandonCheck kp := .foldl .colFailOwn h

theorem setStack {h' v} (h : Core base s kp) : Core base (s.setStack h' v) kp := .upd h rfl

theorem bndAdvance {h' r} (h : Core base s kp) : Core base (s.bndAdvance h' r) kp := by
  unfold State.bndAdvance
  dsimp only
  split
  · exact .finishAll (.setBindery h)
  · exact .ite (.setBindery h) (.event (.setBindery h))

theorem bndClose {h' r} (h : Core base s kp) : Core base (s.bndClose h' r) kp := by
  unfold State.bndClose
  extract_lets s0 s1 s2
  have h0 : Core base s0 kp := .captureLines h
  have h2 : Core base s2 kp := .count (.ite (.store h0) h0)
  exact .ite (.setRef h2) h2

theorem bndEnd {h' r} (h : Core base s kp) : Core base (s.bndEnd h' r) kp := .bndAdvance (.bndClose h)

theorem bndMove {h' r n} (h : Core base s kp) : Core base (s.bndMove h' r n).1 kp := by
  unfold State.bndMove
  extract_lets _ _ _ _ _ _ _ _ _ s1 good s2
  have h1 : Core base s1 kp := .countAll (.captureLines h)
  clear_value s1
  exact .count (.count (.countShed (.invalidateAs (.upd h1 rfl))))

theorem bndHalt {h'} (h : Core base s kp) : Core base (s.bndHalt h') kp := by
  unfold State.bndHalt
  split
  · exact .ite (.ite (.useFree h) (.setBindery (.bndMove (.useFree h)))) h
  · exact h

theorem bndAbort {h' status} (h : Core base s kp) : Core base (s.bndAbort h' status) kp := by
  unfold State.bndAbort
  dsimp only
  split
  · exact .bndEnd (.bndHalt h)
  · exact .bndHalt h

theorem bndAside {h' p} (h : Core base s kp) : Core base (s.bndAside h' p) kp := by
  unfold State.bndAside
  split
  · dsimp only
    split
    · exact .setBindery (.bndHalt h)
    · exact .bndHalt h
  · exact h

theorem bndPark {c} (h : Core base s kp) : Core base (s.bndPark c) kp :=
  .foldl (fun h1 => .setBindery (.bndAside h1)) (.upd h rfl)

theorem bndStopAll (h : Core base s kp) : Core base s.bndStopAll kp := .foldl .bndAside (.foldl .bndPark h)

theorem retrainFast {p} (h : Core base s) : Core base (s.retrainFast p) := .count (.setPort h)

theorem detect {p} (h : Core base s) : Core base (s.detect p) := .ite (.ite (.retrainFast h) (.setPort h)) h

theorem dropBuffers {p status waiting} (h : Core base s) : Core base (s.dropBuffers p status waiting) :=
  .foldl .noticeOf (.setPort (.ite (.upd h rfl) (.upd h rfl)))

theorem subportDown {p} (h : Core base s) : Core base (s.subportDown p) := .setPort (.dropBuffers (.setPort h))

theorem trainFull {p retry fails} (h : Core base s) : Core base (s.trainFull p retry fails) := by
  unfold State.trainFull
  extract_lets _ s0 s1
  have h1 : Core base s1 := .dropBuffers (.setPort h)
  exact .detect (.setPort h1)

theorem trainIfEnabled {p} (h : Core base s) : Core base (s.trainIfEnabled p) := .ite (.trainFull h) h

theorem releaseSlots (h : Core base s kp) : Core base s.releaseSlots kp := .upd h rfl

theorem endX {key status} (h : Core base s kp) : Core base (s.endX key status) kp := by
  unfold State.endX
  split
  · exact .endEntry (.setEng h)
  · exact h

theorem dropRequests {r late} (h : Core base s kp) : Core base (s.dropRequests r late) kp := .foldl .endX (.upd h rfl)

theorem reportReset {u key old} (h : Core base s kp) : Core base (s.reportReset u key old) kp :=
  .foldl (fun h1 => .ite h1 (.ite (.ite (.failQueue h1) h1) (.event h1))) h

theorem sendEpochs {u mask named} (h : Core base s kp) : Core base (s.sendEpochs u mask named) kp := .foldl .sendOn h

theorem orphanRequests {p} (h : Core base s kp) : Core base (s.orphanRequests p) kp := .upd h rfl

theorem resetEngines {u} (h : Core base s kp) : Core base (s.resetEngines u) kp :=
  .foldl .reportReset (.orphanRequests (.upd h rfl))

theorem abandonOwned {u} (h : Core base s kp) : Core base (s.abandonOwned u) kp := .abandonAll h

theorem resave {u} (h : Core base s kp) : Core base (s.resave u) kp := .foldl .putSync h

theorem resetUnit {u} (h : Core base s kp) : Core base (s.resetUnit u) kp := by
  unfold State.resetUnit
  extract_lets _ _ s1 s2 s3 _ s4
  have h1 : Core base s1 kp := .abandonOwned (.resetEngines h)
  have h3 : Core base s3 kp := .colAbandonCheck (.closuresFail (.foldl .colFailOwn h1))
  clear_value s3
  exact .sendEpochs (.resave (.upd h3 rfl))

theorem warmPort {p quiet} (h : Core base s) : Core base (s.warmPort p quiet) := by
  unfold State.warmPort
  extract_lets _ v s1
  have h1 : Core base s1 := .setPort h
  exact .ite (.ite (.subportDown h) h1) (.ite (.retrainFast (.setPort h1)) (.ite (.trainIfEnabled h1) h1))

end Core

/-! ## A drain, and what flags the device

A drain pre-empts the running contexts and marks the device. -/

/-- As `Core`, but for the marks of the device, which stay where they are set, and the contexts, which keep their states. -/
structure Spared (base s : State) : Prop where
  fixed : { s.core false with ctxs := [], drained := false, flagged := false } =
    { base.core false with ctxs := [], drained := false, flagged := false }
  st : ∀ c, (s.ctx c).st = (base.ctx c).st
  drained : base.flt.drained = true → s.flt.drained = true
  flagged : base.flt.flagged = true → s.flt.flagged = true

theorem Core.spared {base s : State} (h : Core base s) : Spared base s :=
  ⟨by rw [h.fixed], fun c => by rw [h.ctx], fun k => h.drained.trans k, fun k => h.flagged.trans k⟩

namespace Spared

variable {base s t : State}

theorem pwr (h : Spared base s) : s.pwr = base.pwr := congrArg Kept.pwr h.fixed
theorem sec (h : Spared base s) : s.sec = base.sec := congrArg Kept.sec h.fixed
theorem tripLow (h : Spared base s) : s.mod.tripLow = base.mod.tripLow := congrArg Kept.tripLow h.fixed
theorem mgstop (h : Spared base s) : s.cmd.mgstop = base.cmd.mgstop := congrArg Kept.mgstop h.fixed
theorem epochBase (h : Spared base s) : s.flt.epochBase = base.flt.epochBase := congrArg Kept.epochBase h.fixed

theorem refl (s : State) : Spared s s := (Core.refl s).spared

theorem trans (g : Spared s t) (h : Spared base s) : Spared base t :=
  ⟨g.fixed.trans h.fixed, fun c => (g.st c).trans (h.st c), g.drained ∘ h.drained, g.flagged ∘ h.flagged⟩

theorem ite {c : Prop} [Decidable c] (h : Spared base s) (g : Spared base t) : Spared base (if c then s else t) := by
  split <;> assumption

/-- A context replaced in its own state. -/
theorem setCtx {c : Nat} {v : Ctx} (h : Spared base s) (hv : v.st = (s.ctx c).st) : Spared base (s.setCtx c v) := by
  refine ⟨h.fixed, fun k => ?_, h.drained, h.flagged⟩
  rw [← h.st k]
  by_cases hk : k = c
  · rw [hk, State.ctx_setCtx, hv]
  · rw [State.ctx_setCtx_ne _ _ hk]

theorem stopContexts (h : Spared base s) : Spared base s.stopContexts := by
  unfold State.stopContexts
  have h0 : Spared base (s.dropStarts 0x0340) := (Core.dropStarts (.refl s)).spared.trans h
  generalize s.dropStarts 0x0340 = x at h0
  induction List.range 8 generalizing x with
  | nil => exact h0
  | cons c l ih => exact ih _ (.ite (.setCtx h0 rfl) (.ite (.setCtx h0 rfl) h0))

end Spared

/-- The first step of a drain: the mark and its log entry. -/
def State.drainMarked (s : State) : State := { s with flt := { s.flt with drained := true } }.log 0x0072 0 3 0xFFFFFFFF 0 0

theorem State.drainMarked_spared (s : State) : Spared s s.drainMarked :=
  (Core.log (kp := false) (.refl _)).spared.trans ⟨rfl, fun _ => rfl, fun _ => rfl, id⟩

theorem State.drainMarked_drained (s : State) : s.drainMarked.flt.drained = true := (Core.log (kp := false) (.refl _)).drained

theorem State.drainMarked_flagged (s : State) : s.drainMarked.flt.flagged = s.flt.flagged := (Core.log (kp := false) (.refl _)).flagged

theorem State.drainMarked_ctx (s : State) (c : Nat) : s.drainMarked.ctx c = s.ctx c := (Core.log (kp := false) (.refl _)).ctx c

theorem State.drainDevice_again {s : State} (h : s.flt.drained = true) : s.drainDevice = s := if_pos h

/-- The rest of a drain leaves what stopping the contexts leaves. -/
theorem State.drainDevice_core {s : State} (h : s.flt.drained = false) : Core s.drainMarked.stopContexts s.drainDevice := by
  have hrun : s.drainDevice = (((s.drainMarked.stopContexts.colsFail (fun _ => true) 0x0340).closuresFail
      (fun c => !c.units.isEmpty) 0x0602).bndStopAll).releaseSlots := if_neg (ne_true_of_eq_false h)
  rw [hrun]
  exact .releaseSlots (.bndStopAll (.closuresFail (.colsFail (.refl _))))

theorem State.drainDevice_spared (s : State) : Spared s s.drainDevice := by
  cases h : s.flt.drained with
  | true => rw [drainDevice_again h]; exact .refl s
  | false => exact (drainDevice_core h).spared.trans (.stopContexts s.drainMarked_spared)

theorem State.drainDevice_drained (s : State) : s.drainDevice.flt.drained = true := by
  cases h : s.flt.drained with
  | true => rw [drainDevice_again h, h]
  | false => exact (drainDevice_core h).drained.trans (Spared.stopContexts (.refl _) |>.drained s.drainMarked_drained)

namespace Spared

variable {base s t : State}

theorem drainDevice (h : Spared base s) : Spared base s.drainDevice := s.drainDevice_spared.trans h

theorem flagDevice (h : Spared base s) : Spared base s.flagDevice := by
  unfold State.flagDevice
  refine .ite (.drainDevice h) (.drainDevice ?_)
  exact (Core.log (kp := false) (.refl _)).spared.trans ⟨h.fixed, h.st, h.drained, fun _ => rfl⟩

end Spared

end Sys2Proof.Machine

namespace Sys2Proof.Machine

/-! # The power controller, temperature and filler (O58)

What each controller replaces is said once (`Pwr.retarget_frame`, `Pwr.ceiling_frame`, `EpisodesOnly`); the thermal trip is
composed of operations that leave the power controller alone (`Core`). -/

/-! ## The operating point -/

theorem Pwr.retarget_frame (p : Pwr) : p.retarget = { p with change := p.retarget.change, pend := p.retarget.pend } := by
  unfold Pwr.retarget
  split
  · rfl
  · split
    · rfl
    · split <;> rfl

theorem Pwr.retarget_still {p : Pwr} (hc : p.change = none) (hw : p.wanted = p.eff) : p.retarget.change = none := by
  rw [(retarget_change hc).1, if_pos hw]

theorem Pwr.retarget_pend {p : Pwr} (hp : p.pend = false) : p.retarget.pend = false := by
  unfold Pwr.retarget
  split
  · exact hp
  · split
    · rfl
    · split
      · exact hp
      · rfl

theorem State.oppSwitchNow_eff (s : State) (p : Nat) : (s.oppSwitchNow p).pwr.eff = p ∧ (s.oppSwitchNow p).pwr.pend = false ∧
    (s.pwr.eff < p → (s.oppSwitchNow p).pwr.change = some ⟨p, true⟩) := by
  unfold State.oppSwitchNow
  by_cases h : s.pwr.eff < p
  · simp [State.count, h]
  · simp only [State.count, decide_eq_false h, Bool.false_eq_true, if_false]
    exact ⟨by rw [Pwr.retarget_frame], Pwr.retarget_pend rfl, fun g => absurd g h⟩

/-! ## An update -/

theorem bubbleUpdate_le (p lim b gain bmax : Nat) : bubbleUpdate p lim b gain bmax ≤ bmax * 256 := Nat.min_le_left ..

theorem Pwr.ceiling_frame (p : Pwr) :
    p.ceiling = { p with cceil := p.ceiling.cceil, maxRun := p.ceiling.maxRun, zeroRun := p.ceiling.zeroRun } := by
  unfold Pwr.ceiling
  extract_lets mx zr
  clear_value mx zr
  split
  · rfl
  · split <;> rfl

theorem Pwr.ceiling_falls {p : Pwr} (hb : p.bcap = p.bmax * 256) (hr : p.maxRun = 9) : p.ceiling.cceil = min 5 (p.cceil + 1) := by
  unfold Pwr.ceiling
  dsimp only
  rw [if_pos hb, hr, if_pos (Nat.le_refl 10)]

/-- `t` differs from `s` in its counters and its throttle episodes at most. -/
def EpisodesOnly (s t : State) : Prop := ∃ eps log next logged ctr,
  t = { s with pwr := { s.pwr with episodes := eps, log := log, next := next, logged := logged }, ctr := ctr }

theorem EpisodesOnly.refl (s : State) : EpisodesOnly s s := ⟨_, _, _, _, _, rfl⟩

theorem EpisodesOnly.trans {s t u : State} (h : EpisodesOnly s t) (g : EpisodesOnly t u) : EpisodesOnly s u := by
  obtain ⟨_, _, _, _, _, rfl⟩ := h
  obtain ⟨_, _, _, _, _, rfl⟩ := g
  exact ⟨_, _, _, _, _, rfl⟩

theorem EpisodesOnly.foldl {α : Type} {f : State → α → State} (hf : ∀ s x, EpisodesOnly s (f s x)) (l : List α) (s : State) :
    EpisodesOnly s (l.foldl f s) := by
  induction l generalizing s with
  | nil => exact .refl s
  | cons x l ih => exact (hf s x).trans (ih _)

theorem State.count_episodesOnly (s : State) (k n : Nat) : EpisodesOnly s (s.count k n) := ⟨_, _, _, _, _, rfl⟩

theorem State.episodes_episodesOnly (s : State) : EpisodesOnly s s.episodes := by
  have hput : ∀ s e o, EpisodesOnly s (State.thrPut s e o) := fun s e o => ⟨_, _, _, _, _, rfl⟩
  have hbegin : ∀ s r, EpisodesOnly s (State.episodeBegin s r) := fun s r => ⟨_, _, _, _, _, rfl⟩
  unfold State.episodes
  exact .trans ⟨_, _, _, _, _, rfl⟩ (.trans (.foldl (fun s e => hput s e _) ..) (.foldl hbegin ..))

theorem State.powerCounts_episodesOnly (s : State) (measured : Nat) (bins : List Nat) :
    EpisodesOnly s (s.powerCounts measured bins) := by
  unfold State.powerCounts
  dsimp only
  have h := EpisodesOnly.foldl (fun (s : State) (x : Nat × Nat) => s.count_episodesOnly (ctrDev (19 + x.2)) x.1)
  split
  · exact (h _ _).trans (State.count_episodesOnly ..)
  · exact h _ _

/-! ## A thermal trip -/

theorem Core.tripQueue {base s : State} {key q} (h : Core base s) : Core base (s.tripQueue key q) :=
  .ite (.failQueue (.setEng h)) (.setEng h)

theorem Core.tripBindery {base s : State} {n} (h : Core base s) : Core base (s.tripBindery n) := .foldl .bndEnd (.bndAbort h)

theorem State.trip_marks (s : State) : s.trip.pwr = { s.pwr with tripped := true } ∧ s.trip.flt.drained = true ∧
    s.trip.mod.tripLow = true := by
  unfold State.trip
  extract_lets keys s1 s2
  have h1 : Core s s1 := .foldl (.foldl .tripQueue) (.orphanRequests (.refl s))
  have h2 : Core s s2 := .foldl .tripBindery h1
  clear_value s2
  have h3 := (Core.refl { s2 with pwr := { s2.pwr with tripped := true }, mod := { s2.mod with tripLow := true } }).log
    (kind := 0x0052) (status := 0) (sev := 3) (unit := 0xFFFFFFFF) (addr := 0) (req := 0) (detail := []) |>.spared.drainDevice
  exact ⟨by rw [h3.pwr, h2.pwr], drainDevice_drained _, h3.tripLow⟩


theorem State.oppSwitchNow_droop (s : State) (p : Nat) : (s.oppSwitchNow p).pwr.droop = s.pwr.droop := by
  unfold State.oppSwitchNow
  by_cases h : s.pwr.eff < p
  · simp [State.count, h]
  · simp only [State.count, decide_eq_false h, Bool.false_eq_true, if_false]
    rw [Pwr.retarget_frame]

/-! ## The commands -/

theorem State.powerUpdate_run (s : State) (t watts measured ma : Nat) (bins : List Nat) :
    let p := s.pwr
    let bc := bubbleUpdate (if p.mode then watts else measured) p.cap p.bcap p.gain p.bmax
    let bi := max (bubbleUpdate measured 5200 p.bcur p.gain p.bmax) (bubbleUpdate ma 125000 p.bcur p.gain p.bmax)
    ∃ u, exec (.powerUpdate t watts measured ma bins) s = .next u ∧ u.pin = measured ∧ u.pwr.bcap = bc ∧ u.pwr.bcur = bi ∧
      bc ≤ p.bmax * 256 ∧ bi ≤ p.bmax * 256 ∧
      u.pwr.b = max (max bc bi) (max (if p.ext then min p.extb p.bmax * 256 else 0) (if p.emergency then p.bmax * 256 else 0)) ∧
      (bc = p.bmax * 256 → p.maxRun = 9 → u.pwr.cceil = min 5 (p.cceil + 1)) ∧ u.mem = s.mem ∧ u.eng = s.eng := by
  intro p bc bi
  let q := Pwr.ceiling { p with bcap := bc, bcur := bi }
  let s2 : State := { s.at t with pin := measured, pwr := Pwr.retarget { q with b := q.fraction } }
  have hrun : exec (.powerUpdate t watts measured ma bins) s = .next (s2.powerCounts measured bins).episodes := by
    have hs : (s.at t).pwr = p := by rw [s.at_frame]
    change Host.Outcome.next _ = _
    unfold s2 q bc bi
    rw [← hs]
    rfl
  obtain ⟨_, _, _, _, _, hu⟩ := (s2.powerCounts_episodesOnly measured bins).trans (State.episodes_episodesOnly _)
  have hq : q = { p with bcap := bc, bcur := bi, cceil := q.cceil, maxRun := q.maxRun, zeroRun := q.zeroRun } :=
    Pwr.ceiling_frame _
  have hp := Pwr.retarget_frame { q with b := q.fraction }
  refine ⟨_, hrun, ?_⟩
  rw [hu]
  have hbc : bc ≤ p.bmax * 256 := bubbleUpdate_le ..
  have hbi : bi ≤ p.bmax * 256 := Nat.max_le.mpr ⟨bubbleUpdate_le .., bubbleUpdate_le ..⟩
  refine ⟨rfl, ?_, ?_, hbc, hbi, ?_, fun hb hr => ?_, s.at_mem t, s.at_eng t⟩
  · change (Pwr.retarget _).bcap = _
    rw [hp, hq]
  · change (Pwr.retarget _).bcur = _
    rw [hp, hq]
  · change (Pwr.retarget _).b = _
    rw [hp]
    change q.fraction = _
    rw [hq]
    rfl
  · change (Pwr.retarget _).cceil = _
    rw [hp]
    exact Pwr.ceiling_falls (p := { p with bcap := bc, bcur := bi }) hb hr

theorem exec_oppSwitch {s : State} {p : Nat} (hc : s.pwr.change = some ⟨p, false⟩) :
    exec .oppSwitch s = .next (if s.pwr.droop then
      if s.pwr.pend then s else State.count { s with pwr := { s.pwr with pend := true } } (ctrDev 29) else s.oppSwitchNow p) := by
  change execOppSwitch s = _
  unfold execOppSwitch
  rw [hc]
  dsimp only
  cases s.pwr.droop <;> cases s.pwr.pend <;> rfl

theorem exec_droopEventEnd_waited {s : State} {p : Nat} (hst : s.pwr.stretched = []) (hd : s.pwr.droop = true)
    (hc : s.pwr.change = some ⟨p, false⟩) (hp : s.pwr.pend = true) :
    exec .droopEventEnd s = .next (State.oppSwitchNow { s with pwr := { s.pwr with droop := false } } p) := by
  change execDroopEventEnd s = _
  unfold execDroopEventEnd
  rw [hst, hd]
  simp only [hc, hp]
  rfl

theorem exec_droopEventEnd_none {s : State} (hst : s.pwr.stretched = []) (hd : s.pwr.droop = true) (hc : s.pwr.change = none) :
    exec .droopEventEnd s = .next { s with pwr := { s.pwr with droop := false } } := by
  change execDroopEventEnd s = _
  unfold execDroopEventEnd
  rw [hst, hd]
  simp only [hc]
  rfl

theorem exec_droopEventEnd_stretched {s : State} (hst : s.pwr.stretched ≠ []) : exec .droopEventEnd s = .next s := by
  change execDroopEventEnd s = _
  unfold execDroopEventEnd
  simp [hst]

theorem exec_oppVoltageRampDone {s : State} {p : Nat} (hc : s.pwr.change = some ⟨p, true⟩) :
    exec .oppVoltageRampDone s = .next { s with pwr := { s.pwr with change := none }.retarget } := by
  change execOppVoltageRampDone s = _
  unfold execOppVoltageRampDone
  rw [hc]

/-- A filler that is not yet released is, when its release has been reached or its longest hold has passed. -/
theorem exec_fillerRelease {s : State} {t : Nat} {f : FillRun} (hnow : s.now ≤ t) (hf : s.pwr.fill = some f)
    (hr : f.released = none) :
    exec (.fillerRelease t) s = .next (if (s.brg.valid && s.brg.rev != f.rev &&
        decide (s.pwr.fill1 f.k 32 32 ≤ s.brg.bearingAt t)) || decide (f.fireAt + s.pwr.fill1 f.k 64 32 * 256000 ≤ t) then
      { s.at t with pwr := { s.pwr with fill := some { f with released := some (t, s.pwr.duty t) } } } else s.at t) := by
  have hp : (s.at t).pwr = s.pwr := by rw [s.at_frame]
  change execFillerRelease t s = _
  unfold execFillerRelease
  dsimp only
  rw [State.at_now_of_le hnow, State.at_brg, hp, hf]
  dsimp only
  rw [hr, Option.isNone_none, Bool.true_and]
  split <;> rfl

/-- The power controller at a reading of `x` degrees. -/
def Pwr.heated (p : Pwr) (x : Nat) : Pwr :=
  (if 105 ≤ x then { p with emergency := true, tceil := 5 } else if x < 100 then { p with emergency := false } else p).retarget

theorem exec_thermalReading (s : State) (x : Byte) (hw : s.mod.warmNext = false) :
    let s1 : State := { s with tmax := x.toNat, pwr := s.pwr.heated x.toNat }
    exec (.thermalReading x) s = .next (if 110 ≤ x.toNat && !s.pwr.tripped then s1.trip else s1) := by
  intro s1
  have hrun : exec (.thermalReading x) s = if 110 ≤ x.toNat && !s.pwr.tripped then .next s1.trip
      else if s.mod.warmNext && decide (x.toNat < 90) then .next s1.warmReset else .next s1 := rfl
  rw [hrun, hw]
  split <;> rfl

theorem Pwr.heated_emergency (p : Pwr) (x : Nat) :
    (p.heated x).emergency = (if 105 ≤ x then true else if x < 100 then false else p.emergency) := by
  unfold heated
  rw [retarget_frame]
  dsimp only
  split_ifs <;> rfl

theorem Pwr.heated_tceil (p : Pwr) (x : Nat) : (p.heated x).tceil = (if 105 ≤ x then 5 else p.tceil) := by
  unfold heated
  rw [retarget_frame]
  dsimp only
  split_ifs <;> rfl

theorem thermalReading_marks (s : State) (x : Byte) (hw : s.mod.warmNext = false) :
    (x.toNat < 100 → ∃ u, exec (.thermalReading x) s = .next u ∧ u.tmax = x.toNat ∧ u.pwr.emergency = false ∧
      u.pwr.tceil = s.pwr.tceil ∧ u.flt = s.flt ∧ u.mem = s.mem) ∧
    (100 ≤ x.toNat → x.toNat < 105 → ∃ u, exec (.thermalReading x) s = .next u ∧ u.tmax = x.toNat ∧
      u.pwr.emergency = s.pwr.emergency ∧ u.pwr.tceil = s.pwr.tceil) ∧
    (105 ≤ x.toNat → x.toNat < 110 → ∃ u, exec (.thermalReading x) s = .next u ∧ u.tmax = x.toNat ∧ u.pwr.emergency = true ∧
      u.pwr.tceil = 5 ∧ u.flt = s.flt) ∧
    (110 ≤ x.toNat → s.pwr.tripped = false → ∃ u, exec (.thermalReading x) s = .next u ∧ u.pwr.tripped = true ∧
      u.flt.drained = true ∧ u.mod.tripLow = true ∧ u.pwr.emergency = true) := by
  have hrun := exec_thermalReading s x hw
  have hot : 110 ≤ x.toNat → s.pwr.tripped = false →
      exec (.thermalReading x) s = .next (State.trip { s with tmax := x.toNat, pwr := s.pwr.heated x.toNat }) :=
    fun h ht => by rw [hrun, decide_eq_true h, ht]; exact congrArg Host.Outcome.next (if_pos rfl)
  have cool : x.toNat < 110 → exec (.thermalReading x) s = .next { s with tmax := x.toNat, pwr := s.pwr.heated x.toNat } :=
    fun h => by rw [hrun, decide_eq_false (Nat.not_le.mpr h)]; rfl
  have he := Pwr.heated_emergency s.pwr x.toNat
  have hc := Pwr.heated_tceil s.pwr x.toNat
  refine ⟨fun h => ?_, fun h g => ?_, fun h g => ?_, fun h ht => ?_⟩
  · have h5 : ¬105 ≤ x.toNat := by omega
    rw [if_neg h5, if_pos h] at he
    rw [if_neg h5] at hc
    exact ⟨_, cool (by omega), rfl, he, hc, rfl, rfl⟩
  · have h5 : ¬105 ≤ x.toNat := by omega
    rw [if_neg h5, if_neg (by omega)] at he
    rw [if_neg h5] at hc
    exact ⟨_, cool (by omega), rfl, he, hc⟩
  · rw [if_pos h] at he hc
    exact ⟨_, cool g, rfl, he, hc, rfl⟩
  · rw [if_pos (by omega)] at he
    obtain ⟨hp, hd, hm⟩ := State.trip_marks { s with tmax := x.toNat, pwr := s.pwr.heated x.toNat }
    exact ⟨_, hot h ht, by rw [hp], hd, hm, by rw [hp]; exact he⟩

end Sys2Proof.Machine

section

open Sys2Proof Sys2Proof.Machine

/-- Settles O58: each controller replaces what its lemma says, and the trip's abandoned work leaves the power controller alone. -/
theorem powerControl : Obligations.PowerControl := by
  unfold Obligations.PowerControl
  refine ⟨⟨?_, ?_, ?_, ?_, ?_, ?_, fun _ _ => rfl⟩, ?_, ?_, ?_⟩
  · exact fun s t watts measured ma bins _ => s.powerUpdate_run t watts measured ma bins
  · intro s p hc
    refine ⟨fun hd => ⟨_, by rw [exec_oppSwitch hc, hd]; rfl, s.oppSwitchNow_eff p⟩, fun hd hp => ?_, fun hd hp => ⟨?_, fun hst => ?_⟩⟩
    · rw [exec_oppSwitch hc, hd, hp]; rfl
    · rw [exec_oppSwitch hc, hd, hp]; rfl
    · exact ⟨_, exec_droopEventEnd_waited hst hd hc hp, by
        rw [(State.oppSwitchNow_droop _ p)], (State.oppSwitchNow_eff _ p).1⟩
  · intro s p hc hw
    refine ⟨_, exec_oppVoltageRampDone hc, Pwr.retarget_still rfl hw, ?_⟩
    dsimp only
    rw [Pwr.retarget_frame]
  · intro s d
    refine ⟨_, rfl, ?_, rfl, rfl⟩
    dsimp only
    split
    · next h => exact List.contains_iff_mem.mp h
    · exact List.mem_append_right _ (List.mem_singleton.mpr rfl)
  · intro s d n
    refine ⟨fun hn => if_pos hn, fun hn => ⟨_, if_neg (Nat.not_lt.mpr hn), ?_, fun x hx => ?_, rfl⟩⟩
    · simp
    · simp [hx]
  · exact fun s => ⟨exec_droopEventEnd_stretched, exec_droopEventEnd_none⟩
  · exact fun s x hw _ => thermalReading_marks s x hw
  · intro s hc
    refine ⟨_, rfl, rfl, ?_⟩
    dsimp only
    rw [Pwr.retarget_frame]
    refine ⟨fun h => if_pos h, fun h g => ?_, fun h => ?_⟩
    · exact (if_neg (Nat.not_lt.mpr h)).trans (if_pos g)
    · exact (if_neg (Nat.not_lt.mpr (Nat.le_trans (by decide) h))).trans (if_neg (Nat.not_lt.mpr h))
  · intro s t f hnow hf hr rel held
    have hrun : exec (.fillerRelease t) s = .next (if rel || held then { s.at t with
        pwr := { s.pwr with fill := some { f with released := some (t, s.pwr.duty t) } } } else s.at t) :=
      exec_fillerRelease hnow hf hr
    rw [hrun]
    refine ⟨fun h => ⟨_, rfl, ?_⟩, fun h g => by rw [h, g]; rfl⟩
    rw [if_pos (by simpa using h)]

end

namespace Sys2Proof.Machine

/-! # What a warm reset leaves (R455)

The links' part of it changes sub-ports and what is on its way (`LinkOnly`); its drain, of a flagged device, finds no work left
(`Bare`) and does no more than to log. -/

/-! ## The links -/

/-- `t` differs from `s` in its sub-ports, the packets on their way and what logging changes, at most. -/
def LinkOnly (s t : State) : Prop :=
  t = { s with host := t.host, cmd := t.cmd, ctr := t.ctr, flt := t.flt, fab := t.fab, egress := t.egress, ports := t.ports,
               mod := { s.mod with alertLow := t.mod.alertLow }, out := t.out }

namespace LinkOnly

variable {s t u : State}

theorem refl (s : State) : LinkOnly s s := rfl

theorem trans (h : LinkOnly s t) (g : LinkOnly t u) : LinkOnly s u := by unfold LinkOnly at *; rw [g, h]

theorem ite {p : Prop} [Decidable p] (h : LinkOnly s t) (g : LinkOnly s u) : LinkOnly s (if p then t else u) := by
  split <;> assumption

theorem foldl {α : Type} {f : State → α → State} (hf : ∀ s x, LinkOnly s (f s x)) (l : List α) (s : State) :
    LinkOnly s (l.foldl f s) := by
  induction l generalizing s with
  | nil => exact refl s
  | cons x l ih => exact (hf s x).trans (ih _)

theorem mem (h : LinkOnly s t) : t.mem = s.mem := by rw [h]
theorem eng (h : LinkOnly s t) : t.eng = s.eng := by rw [h]

end LinkOnly

theorem LogOnly.linkOnly {s t : State} (h : LogOnly s t) : LinkOnly s t := by
  unfold LogOnly at h
  rw [h]
  rfl

theorem Sends.linkOnly {s t : State} (h : Sends s t) : LinkOnly s t := by
  unfold Sends at h
  rw [h]
  rfl

theorem State.setPort_linkOnly (s : State) (p : Nat) (v : SubPort) : LinkOnly s (s.setPort p v) := rfl

theorem State.retrainFast_linkOnly (s : State) (p : Nat) : LinkOnly s (s.retrainFast p) := rfl

theorem State.detect_linkOnly (s : State) (p : Nat) : LinkOnly s (s.detect p) :=
  .ite (.ite (s.retrainFast_linkOnly p) (s.setPort_linkOnly p _)) (.refl s)

theorem State.dropBuffers_linkOnly (s : State) (p status : Nat) (waiting : Bool) :
    LinkOnly s (s.dropBuffers p status waiting) := by
  unfold State.dropBuffers
  refine .trans ?_ (.foldl (fun s k => (s.noticeOf_sends k status p).linkOnly) _ _)
  refine .trans ?_ (State.setPort_linkOnly ..)
  exact .ite rfl rfl

theorem State.subportDown_linkOnly (s : State) (p : Nat) : LinkOnly s (s.subportDown p) :=
  ((s.setPort_linkOnly p _).trans (dropBuffers_linkOnly ..)).trans (setPort_linkOnly ..)

theorem State.trainFull_linkOnly (s : State) (p : Nat) (retry : Bool) (fails : Nat) :
    LinkOnly s (s.trainFull p retry fails) := by
  unfold State.trainFull
  extract_lets _ s0 s1
  have h1 : LinkOnly s s1 := (s.setPort_linkOnly p _).trans (s0.dropBuffers_linkOnly p _ _)
  exact (h1.trans (s1.setPort_linkOnly p _)).trans (State.detect_linkOnly _ p)

theorem State.trainIfEnabled_linkOnly (s : State) (p : Nat) : LinkOnly s (s.trainIfEnabled p) :=
  .ite (s.trainFull_linkOnly p false 0) (.refl s)

theorem State.warmPort_linkOnly (s : State) (p : Nat) (quiet : Bool) : LinkOnly s (s.warmPort p quiet) := by
  unfold State.warmPort
  extract_lets _ v s1
  have h1 : LinkOnly s s1 := s.setPort_linkOnly p v
  clear_value s1
  exact .ite (.ite (s.subportDown_linkOnly p) h1) (.ite
    ((h1.trans (s1.setPort_linkOnly p _)).trans (State.retrainFast_linkOnly _ p))
    (.ite (h1.trans (s1.trainIfEnabled_linkOnly p)) h1))

/-! ## A device without work -/

/-- No engine, context, closure, station tract, collective or Bindery holds anything. -/
structure State.Bare (s : State) : Prop where
  eng : s.eng = []
  ctxs : s.ctxs = []
  acts : s.ctxActs = []
  closures : s.closures = []
  stracts : s.stracts = []
  cols : s.cols = []
  bnd : s.bnd = []
  waits : s.bndWaits = []

theorem State.colsFail_none {s : State} (h : s.cols = []) (p : Col → Bool) (status : Nat) : s.colsFail p status = s := by
  unfold State.colsFail
  rw [h]
  rfl

theorem State.closuresFail_none {s : State} (h : s.closures = []) (p : Closure → Bool) (status : Nat) :
    s.closuresFail p status = s := by
  unfold State.closuresFail
  rw [h]
  rfl

/-- A fold of steps that all change nothing. -/
theorem State.foldl_still {α : Type} {f : State → α → State} {s : State} (hf : ∀ x, f s x = s) (l : List α) : l.foldl f s = s := by
  induction l with
  | nil => rfl
  | cons x l ih => rw [List.foldl_cons, hf x, ih]

section

variable {s : State} (h : s.bnd = [])
include h

theorem State.bindery_none (n : Nat) : s.bindery n = Bindery.empty := by
  unfold State.bindery
  rw [h]
  rfl

theorem State.bndAside_none (n : Nat) (p : Option Nat → Bool) : s.bndAside n p = s := by
  unfold State.bndAside
  rw [State.bindery_none h]
  rfl

theorem State.setBindery_none (n : Nat) : s.setBindery n Bindery.empty = s := by
  unfold State.setBindery
  rw [h]
  exact (congrArg (fun m => { s with bnd := m }) h).symm

/-- With no Bindery at work a context's part of the stop ends waits alone. -/
theorem State.bndPark_none (c : Nat) : s.bndPark c = { s with bndWaits := Map.keep s.bndWaits fun k _ => k % 16 != c } := by
  have hx : ({ s with bndWaits := Map.keep s.bndWaits fun k _ => k % 16 != c } : State).bnd = [] := h
  unfold State.bndPark
  refine foldl_still (fun n => ?_) _
  dsimp only
  rw [State.bndAside_none hx, State.bindery_none hx]
  exact State.setBindery_none hx n

end

namespace State.Bare

variable {s t : State}

theorem of_linkOnly (h : s.Bare) (g : LinkOnly s t) : t.Bare := by
  rw [g]
  exact ⟨h.eng, h.ctxs, h.acts, h.closures, h.stracts, h.cols, h.bnd, h.waits⟩

theorem ctx (h : s.Bare) (c : Nat) : s.ctx c = Ctx.free := by
  unfold State.ctx
  rw [h.ctxs]
  rfl

theorem stopContexts (h : s.Bare) : s.stopContexts = s := by
  have hd : s.dropStarts 0x0340 = s := by
    unfold State.dropStarts
    rw [h.acts]
    exact (congrArg (fun m => { s with ctxActs := m }) h.acts).symm
  unfold State.stopContexts
  rw [hd]
  refine foldl_still (fun c => ?_) _
  unfold State.preempt
  rw [h.ctx c]
  rfl

theorem bndPark (h : s.Bare) (c : Nat) : s.bndPark c = s := by
  rw [State.bndPark_none h.bnd, h.waits]
  exact (congrArg (fun m => { s with bndWaits := m }) h.waits).symm

theorem bndStopAll (h : s.Bare) : s.bndStopAll = s := by
  unfold State.bndStopAll
  rw [foldl_still h.bndPark]
  exact foldl_still (fun n => State.bndAside_none h.bnd n _) _

theorem releaseSlots (h : s.Bare) : s.releaseSlots = s := by
  unfold State.releaseSlots
  rw [h.cols]
  exact (congrArg (fun m => { s with cols := m }) h.cols).symm

theorem drainDevice (h : s.Bare) : LogOnly s s.drainDevice := by
  unfold State.drainDevice
  split
  · exact .refl s
  · have hlog := (s.withFlt_logOnly { s.flt with drained := true }).trans (State.log_logOnly _ 0x0072 0 3 0xFFFFFFFF 0 0 [])
    have hb := h.of_linkOnly hlog.linkOnly
    dsimp only
    rw [hb.stopContexts, colsFail_none hb.cols, closuresFail_none hb.closures, hb.bndStopAll, hb.releaseSlots]
    exact hlog

end State.Bare


/-! ## The reset itself -/

theorem State.fatal_logOnly (s : State) (wdog : Bool) : LogOnly s (s.fatal wdog) := by
  unfold State.fatal
  exact .ite rfl (.ite rfl rfl)

theorem State.fatal_flt (s : State) (wdog : Bool) : (s.fatal wdog).flt = s.flt := by
  unfold State.fatal
  dsimp only
  split_ifs <;> rfl

theorem State.fatal_cmd (s : State) (wdog : Bool) : (s.fatal wdog).cmd =
    { s.cmd with wdog := wdog || s.cmd.wdog, mgstop := !wdog || s.cmd.mgstop, pba := (s.fatal wdog).cmd.pba } := by
  unfold State.fatal
  extract_lets _ c s1
  have hc : c = { s.cmd with wdog := wdog || s.cmd.wdog, mgstop := !wdog || s.cmd.mgstop } := by cases wdog <;> rfl
  subst s1
  clear_value c
  subst hc
  split
  · rfl
  · split <;> rfl

theorem State.fatal_mgstop (s : State) : (s.fatal false).cmd.mgstop = true := by rw [s.fatal_cmd false]; rfl

theorem State.writeBack_accessOnly (s : State) (p : Nat → Bool) : AccessOnly s (s.writeBack p) :=
  (State.countAll_accessOnly _ _).trans rfl

/-- The state with its epochs one on. -/
def State.epochOn (s : State) : State := { s with flt := { s.flt with epochBase := (s.flt.epochBase + 1) % 65536 } }

theorem Core.epochOn {base s : State} (h : Core base s) : Core base.epochOn s.epochOn :=
  ⟨congrArg (fun k : Kept => { k with epochBase := (k.epochBase + 1) % 65536 }) h.fixed⟩

theorem State.warmNotices_core (s : State) : Core s.epochOn s.warmNotices := by
  unfold State.warmNotices
  extract_lets ends c s0 s1 named mask s2 _ s3 body
  have h0 : Core s s0 := .upd (.refl s) rfl
  have h2 : Core s s2 := .closuresFail (.colsFail (.foldl .finish h0))
  exact .foldl .sendOn h2.epochOn

theorem State.warmNotices_logOnly {s : State} (hcols : s.cols = []) (hcl : s.closures = []) : LogOnly s s.warmNotices := by
  unfold State.warmNotices
  extract_lets ends c s0 s1 named mask s2 _ s3 body
  have h1 : LogOnly s s1 := (s.withCmd_logOnly _).trans (.foldl (fun s r => s.finish_logOnly r 0x0404 []) _ s0)
  have h2 : s2 = s1 := by
    have hc : s1.cols = [] := h1.cols.trans hcols
    have hk : s1.closures = [] := h1.closures.trans hcl
    unfold s2
    rw [colsFail_none hc, closuresFail_none hk]
  clear_value s1
  have h3 : LogOnly s s3 := by
    unfold s3
    rw [h2]
    exact h1.trans (s1.withFlt_logOnly _)
  exact h3.trans (.foldl (fun s d => s.sendOn_logOnly _) named s3)

/-- What a warm reset of `s` leaves. -/
structure Warmed (s t : State) : Prop where
  bare : t.Bare
  unlocked : t.brg.st = .unlocked
  stopped : t.brg.run = false
  epochBase : t.flt.epochBase = (s.flt.epochBase + 1) % 65536
  mgstop : t.cmd.mgstop = true
  session : t.sec.session = false
  fieldbooks : ∀ b, 0xC00000000000 ≤ b → b < 0xC02000000000 → t.mem.read b = 0
  elsewhere : s.cols = [] → s.closures = [] → ∀ b, b < 0xC00000000000 → t.mem.read b = s.mem.read b

theorem Warmed.drainDevice {s t : State} (h : Warmed s t) : Warmed s t.drainDevice := by
  have hlog := h.bare.drainDevice
  have hcore : Spared t t.drainDevice := .drainDevice (.refl t)
  have hbrg : t.drainDevice.brg = t.brg := by rw [hlog]
  refine ⟨h.bare.of_linkOnly hlog.linkOnly, by rw [hbrg, h.unlocked], by rw [hbrg, h.stopped], ?_, ?_, ?_, ?_, ?_⟩
  · rw [hcore.epochBase, h.epochBase]
  · rw [hcore.mgstop, h.mgstop]
  · rw [hcore.sec, h.session]
  · rw [hlog.mem]
    exact h.fieldbooks
  · rw [hlog.mem]
    exact h.elsewhere

/-- The units' part of a warm reset. -/
def State.unitsGone (s : State) : State := s.warmUnits.clearFieldbooks

theorem State.unitsGone_bare (s : State) : s.unitsGone.Bare := ⟨rfl, rfl, rfl, rfl, rfl, rfl, rfl, rfl⟩

theorem State.warmReset_warmed (s : State) : Warmed s s.warmReset := by
  unfold State.warmReset
  extract_lets quiet s1 s2 b s3 _ s4
  obtain ⟨w, hs1, hcore, hwm⟩ : ∃ w : State, s1 = w.unitsGone ∧ Core s.epochOn w ∧ w.mem = s.warmNotices.mem :=
    ⟨_, rfl, .invalidate (.writeBack s.warmNotices_core),
      ((s.warmNotices.writeBack_accessOnly _).trans (State.invalidate_accessOnly _ _)).mem⟩
  have hlink : LinkOnly s1 s2 := .foldl (fun s p => .ite (s.warmPort_linkOnly p _) (.refl s)) _ s1
  have hports : Core s1 s2 := .foldl (fun h => .ite h.warmPort h) (.refl s1)
  clear_value s1 s2
  subst hs1
  have h4 : LogOnly s3 s4 := (s3.withCmd_logOnly _).trans (State.fatal_logOnly _ false)
  have hflt : s4.flt = s2.flt := State.fatal_flt _ false
  have hwarm : Warmed s s4 := by
    have hbrg : s4.brg = s3.brg := by rw [h4]
    have hmem : s4.mem = s.warmNotices.mem.clear 0xC00000000000 0x2000000000 := by
      rw [h4.mem, ← hwm]
      exact hlink.mem
    have hsec : s4.sec = w.unitsGone.sec := (by rw [h4] : s4.sec = s2.sec).trans hports.sec
    have hbare3 : s3.Bare := by
      obtain ⟨he, hc, ha, hk, ht, hl, hb, hw⟩ := w.unitsGone_bare.of_linkOnly hlink
      exact ⟨he, hc, ha, hk, ht, hl, hb, hw⟩
    refine ⟨hbare3.of_linkOnly h4.linkOnly, by rw [hbrg], by rw [hbrg], ?_, State.fatal_mgstop _, ?_, ?_, ?_⟩
    · rw [hflt, hports.epochBase]
      exact hcore.epochBase
    · rw [hsec]
      rfl
    · intro b hlo hhi
      rw [hmem, Memory.read_clear, if_pos (by omega)]
    · intro hcols hcl b hb
      rw [hmem, Memory.read_clear, if_neg (by omega), (State.warmNotices_logOnly hcols hcl).mem]
  split
  · exact hwarm.drainDevice
  · exact hwarm

end Sys2Proof.Machine

namespace Sys2Proof.Machine

/-! # The device group (O48) -/

section

variable {s : State} {h : Hdr} {r : Started}

theorem Admitted.identify {a : BitVec 64} (ha : Admitted s h 0x0101 (Instr.params (.identify h a)) r) :
    exec (.identify h a) s = .next (if a.toNat % 64 ≠ 0 then s.finish r 0x0801
      else (s.hostOut r a.toNat s.identity).finish r 0 (toLE 3 s.station)) := by
  change Host.Outcome.next (s.command h 0x0101 (Instr.params (.identify h a)) _) = _
  rw [ha.command]

theorem Admitted.health (ha : Admitted s h 0x0102 (Instr.params (.health h)) r) :
    exec (.health h) s = .next (s.finish r 0 (toLE 2 s.tmax ++ toLE 2 s.pin ++ toLE 4 s.flt.vlog.length ++
      toLE 1 (b2n s.flt.drained + 2 * b2n s.flt.flagged + 4 * b2n s.dbgOpen))) := by
  change Host.Outcome.next (s.command h 0x0102 (Instr.params (.health h)) _) = _
  rw [ha.command]

theorem Admitted.faultLogRead {a : BitVec 64} {first : BitVec 32} {n : BitVec 16}
    (ha : Admitted s h 0x0104 (Instr.params (.faultLogRead h a first n)) r) :
    exec (.faultLogRead h a first n) s = .next (if n.toNat = 0 || 256 < n.toNat then s.finish r 0x0801
      else (s.hostOut r a.toNat ((s.logEntries first.toNat n.toNat).flatMap LogEntry.bytes)).finish r 0
        (toLE 4 (s.logEntries first.toNat n.toNat).length)) := by
  change Host.Outcome.next (s.command h 0x0104 (Instr.params (.faultLogRead h a first n)) _) = _
  rw [ha.command]

theorem Admitted.warmReset (ha : Admitted s h 0x0103 (Instr.params (.warmReset h)) r) :
    exec (.warmReset h) s = .next (s.begin r).requestWarm := by
  change Host.Outcome.next (s.command h 0x0103 (Instr.params (.warmReset h)) _) = _
  rw [ha.command]

end

theorem State.identity_code (s : State) : leAt s.identity 0 2 = 0x9160 := by
  have hlow (n : Nat) (post : List Byte) : leAt (toLE 4 n ++ post) 0 2 = n % 65536 := by
    simp [leAt, toLE, leNat]
    omega
  unfold State.identity
  rw [leAt_bytesAt (by simp) (by simp)]
  simp only [List.append_assoc]
  rw [hlow]
  omega

/-- The status bits of a HEALTH answer. -/
theorem healthBits (d f o : Bool) : (b2n d + 2 * b2n f + 4 * b2n o < 256) ∧
    (b2n d + 2 * b2n f + 4 * b2n o).testBit 0 = d ∧ (b2n d + 2 * b2n f + 4 * b2n o).testBit 1 = f ∧
    (b2n d + 2 * b2n f + 4 * b2n o).testBit 2 = o := by
  revert d f o
  decide

theorem State.logEntries_length (s : State) (first n : Nat) : (s.logEntries first n).length ≤ n := by
  unfold State.logEntries
  split
  · exact List.length_take_le ..
  · exact (List.length_filterMap_le ..).trans_eq List.length_range

theorem State.mem_logEntries {s : State} {first n : Nat} (hf : first.testBit 31 = false) (e : LogEntry) :
    e ∈ s.logEntries first n ↔ ∃ i, i < n ∧ e.index = (first + i) % 2 ^ 32 ∧ Map.find s.flt.vlog (e.index % 4096) = some e := by
  unfold State.logEntries
  rw [hf, if_neg Bool.false_ne_true, List.mem_filterMap]
  refine exists_congr fun i => ?_
  dsimp only
  rw [List.mem_range, Option.filter_eq_some_iff, beq_iff_eq]
  refine and_congr_right fun _ => ⟨fun ⟨hfind, hix⟩ => ⟨hix, hix ▸ hfind⟩, fun ⟨hix, hfind⟩ => ⟨hix ▸ hfind, hix⟩⟩

end Sys2Proof.Machine

section

open Sys2Proof Sys2Proof.Machine

/-- Settles O48: each command is its model's equation, and what a warm reset leaves is `Warmed`. -/
theorem deviceCommands : Obligations.DeviceCommands := by
  unfold Obligations.DeviceCommands
  refine ⟨fun s h r ha => ha.nop, fun s h a r ha => ?_, fun s h r ha => ?_, fun s h a first n r ha => ?_, fun s h r ha => ?_⟩
  · refine ⟨fun hm => by rw [ha.identify, if_pos hm], fun hm => by rw [ha.identify, if_neg (not_not.mpr hm)],
      bytesAt_length .., s.identity_code⟩
  · obtain ⟨hlt, h0, h1, h2⟩ := healthBits s.flt.drained s.flt.flagged s.dbgOpen
    have hbits : leAt (toLE 2 s.tmax ++ toLE 2 s.pin ++ toLE 4 s.flt.vlog.length ++
        toLE 1 (b2n s.flt.drained + 2 * b2n s.flt.flagged + 4 * b2n s.dbgOpen)) 8 1 =
        b2n s.flt.drained + 2 * b2n s.flt.flagged + 4 * b2n s.dbgOpen := by
      have hat := leAt_append (toLE 2 s.tmax ++ toLE 2 s.pin ++ toLE 4 s.flt.vlog.length) [] 1
        (b2n s.flt.drained + 2 * b2n s.flt.flagged + 4 * b2n s.dbgOpen)
      rw [List.append_nil] at hat
      simpa [Nat.mod_eq_of_lt hlt] using hat
    refine ⟨_, ha.health, ?_, ?_, ?_, ?_, ?_⟩
    · simp only [List.append_assoc]
      exact leAt_append [] _ 2 _
    · simp only [List.append_assoc]
      exact leAt_append (toLE 2 s.tmax) _ 2 _
    · rw [hbits, h0]
    · rw [hbits, h1]
    · rw [hbits, h2]
  · rw [ha.faultLogRead]
    refine ⟨fun hn => by rw [if_pos (by simpa using hn)], fun h1 hn => ⟨s.logEntries first.toNat n.toNat, ?_,
      s.logEntries_length .., fun hf => State.mem_logEntries ?_, fun hf => ?_⟩⟩
    · rw [if_neg (by simp; omega)]
    · exact Nat.testBit_lt_two_pow hf
    · have hbit : first.toNat.testBit 31 = true := by
        have hlt := first.isLt
        rw [Nat.testBit_eq_decide_div_mod_eq, decide_eq_true_iff]
        omega
      unfold State.logEntries
      rw [if_pos hbit]
  · rw [ha.warmReset]
    refine ⟨fun ht hx => ?_, fun ht => ?_⟩
    · have hw : (s.begin r).requestWarm = { s.begin r with mod := { s.mod with warmNext := true } } :=
        if_pos (by rw [State.begin_pwr, State.begin_tmax, ht, decide_eq_true hx]; rfl)
      rw [hw]
    · have hrun : (s.begin r).requestWarm = (s.begin r).warmReset := if_neg (by rw [State.begin_pwr, ht]; exact nofun)
      obtain ⟨hb, hu, hrn, he, hm, hss, hf, hel⟩ := (s.begin r).warmReset_warmed
      exact ⟨_, congrArg Host.Outcome.next hrun, hb.ctxs, hb.eng, hb.closures, hb.stracts, hb.cols, hu, hrn, he, hm, hss, hf, hel⟩

end

namespace Sys2Proof.Machine

/-! # What the reset of a parcel or tract leaves (R415, R417) -/

/-- Ranges cleared one after another: each reads as zero. -/
theorem Memory.read_clears {f : Nat → Nat} {len a p : Nat} {l : List Nat} (hp : p ∈ l) (hlo : f p ≤ a) (hhi : a < f p + len)
    (m : Memory) : (l.foldl (fun m p => m.clear (f p) len) m).read a = 0 := by
  have hzero : ∀ (l : List Nat) (m : Memory), m.read a = 0 → (l.foldl (fun m p => m.clear (f p) len) m).read a = 0 := by
    intro l
    induction l with
    | nil => exact fun _ h => h
    | cons q l ih =>
      refine fun m h => ih _ ?_
      rw [Memory.read_clear]
      split
      · rfl
      · exact h
  induction l generalizing m with
  | nil => exact absurd hp List.not_mem_nil
  | cons q l ih =>
    rcases List.mem_cons.mp hp with rfl | h
    · exact hzero l _ (by rw [Memory.read_clear, if_pos ⟨hlo, hhi⟩])
    · exact ih h _

/-- Where every resident context runs, none has its state in a save area. -/
theorem State.resave_running {s : State} (h : ∀ c, (s.ctx c).resident = true → (s.ctx c).st = .running) (u : Nat) :
    s.resave u = s := by
  have hnone : (s.eng.filter fun kv => decide (keyUnit kv.1 < 16384) && within (keyUnit kv.1) u &&
      (s.ctx (keyCtx kv.1)).resident && (s.ctx (keyCtx kv.1)).st != .running && !(s.ctx (keyCtx kv.1)).inImage) = [] := by
    refine List.filter_eq_nil_iff.mpr fun kv _ hkv => ?_
    simp only [Bool.and_eq_true, bne_iff_ne] at hkv
    exact hkv.1.2 (h _ hkv.1.1.2)
  unfold State.resave
  rw [hnone]
  rfl

theorem State.resetUnit_fieldbooks {s : State} (h : ∀ c, (s.ctx c).resident = true → (s.ctx c).st = .running) {u p j : Nat}
    (hp : p ∈ parcelsOf u) (hj : j < 0xC0000) : (s.resetUnit u).mem.read (fbAddr p j) = 0 := by
  unfold State.resetUnit
  extract_lets mask used s1 s2 s3 _ s4
  have h1 : Core s s1 := .abandonOwned (.resetEngines (.refl s))
  have h3 : Core s s3 := .colAbandonCheck (.closuresFail (.foldl .colFailOwn h1))
  have hrun : ∀ c, (s4.ctx c).resident = true → (s4.ctx c).st = .running := fun c hc => by
    have hst : (s4.ctx c).st = (s.ctx c).st := congrArg Ctx.st (h3.ctx c)
    rw [hst]
    unfold Ctx.resident at hc
    rw [hst] at hc
    exact h c hc
  rw [resave_running hrun u, show (s4.sendEpochs u mask _).mem = s4.mem from
    (Sends.foldl (fun s d => s.sendOn_sends _) _ s4).mem]
  have hlo : fbAddr p 0 ≤ fbAddr p j := Nat.add_le_add_left (Nat.zero_le j) _
  exact Memory.read_clears (f := fun p => fbAddr p 0) hp hlo (by unfold fbAddr; omega) s3.mem

theorem State.unitReset_unit (s : State) (v : Nat) : s.unitReset (.unit v) =
    ((((s.bumpEpoch (codeUnit v)).count (ctrDev 45)).log 0x0031 0 2 (codeUnit v) 0 0xFFFFFFFF).resetUnit v).setSvc
      (codeUnit v) .inService := rfl

/-- A unit's epoch after its reset. -/
theorem State.epochOf_bumpEpoch (s : State) (k : Nat) : (s.bumpEpoch k).epochOf k = (s.epochOf k + 1) % 65536 := by
  unfold State.bumpEpoch State.epochOf
  dsimp only
  rw [Map.getD_putD_self]
  omega

/-- What the reset of a parcel or tract leaves of the fault subsystem and the Fieldbooks. -/
structure UnitWasReset (s t : State) (v : Nat) : Prop where
  epoch : t.epochOf (codeUnit v) = (s.epochOf (codeUnit v) + 1) % 65536
  service : t.svcOf (codeUnit v) = .inService
  wdogLast : t.flt.wdogLast = s.flt.wdogLast
  fieldbooks : (∀ c, (s.ctx c).resident = true → (s.ctx c).st = .running) →
    ∀ p j, p ∈ parcelsOf v → j < 0xC0000 → t.mem.read (fbAddr p j) = 0

theorem State.unitReset_wasReset (s : State) (v : Nat) : UnitWasReset s (s.unitReset (.unit v)) v := by
  rw [s.unitReset_unit v]
  have h1 : Core (s.bumpEpoch (codeUnit v))
      (((s.bumpEpoch (codeUnit v)).count (ctrDev 45)).log 0x0031 0 2 (codeUnit v) 0 0xFFFFFFFF) := .log (.count (.refl _))
  generalize ((s.bumpEpoch (codeUnit v)).count (ctrDev 45)).log 0x0031 0 2 (codeUnit v) 0 0xFFFFFFFF = x at h1
  have hst : ∀ c, (x.ctx c).st = (s.ctx c).st := fun c => congrArg Ctx.st (h1.ctx c)
  have hzero := fun hrun p j => State.resetUnit_fieldbooks (s := x) (u := v) (p := p) (j := j) hrun
  have h2 := h1.resetUnit (u := v)
  generalize x.resetUnit v = y at h2 hzero
  refine ⟨(h2.epochOf (codeUnit v)).trans (s.epochOf_bumpEpoch _), State.svcOf_setSvc .., h2.wdogLast, fun hrun p j => ?_⟩
  refine hzero (fun c hc => ?_) p j
  unfold Ctx.resident at hc
  rw [hst] at hc ⊢
  exact hrun c hc

/-! # Watchdogs, log entries and reports (O59) -/

/-- The last steps of a watchdog: the unit's reset has been done, and the counter, the cause and the log entry follow. -/
def State.watchdogEnds (s : State) (code : Nat) : State :=
  ((s.count (ctrDev 46)).fatal true).log 0x0021 0 2 code 0 0xFFFFFFFF

theorem State.watchdogEnds_logOnly (s : State) (code : Nat) : LogOnly s (s.watchdogEnds code) :=
  ((s.count_logOnly _ _).trans (State.fatal_logOnly _ true)).trans (State.log_logOnly ..)

theorem State.watchdogEnds_core (s : State) (code : Nat) : Core ((s.count (ctrDev 46)).fatal true) (s.watchdogEnds code) :=
  .log (.refl _)

theorem State.watchdogEnds_flags (s : State) (code : Nat) :
    (s.watchdogEnds code).cmd.wdog = true ∧ (s.watchdogEnds code).cmd.mgstop = s.cmd.mgstop := by
  have h := s.watchdogEnds_core code
  rw [h.wdog, h.mgstop, State.fatal_cmd]
  exact ⟨rfl, rfl⟩

theorem State.watchdogEnds_flt (s : State) (code : Nat) : (s.watchdogEnds code).flt.wdogLast = s.flt.wdogLast ∧
    (s.watchdogEnds code).flt.epochBase = s.flt.epochBase ∧ (∀ k, (s.watchdogEnds code).epochOf k = s.epochOf k) ∧
    ∀ k, (s.watchdogEnds code).svcOf k = s.svcOf k := by
  have h := s.watchdogEnds_core code
  have hf := (s.count (ctrDev 46)).fatal_flt true
  refine ⟨?_, ?_, fun k => (h.epochOf k).trans ?_, fun k => (h.svcOf k).trans ?_⟩
  · rw [h.wdogLast, hf]; rfl
  · rw [h.epochBase, hf]; rfl
  · unfold State.epochOf
    rw [hf]; rfl
  · unfold State.svcOf
    rw [hf]; rfl

/-- With no entry open an event makes a new one. -/
theorem State.log_entry {s : State} (h : s.flt.openIx = []) (kind status sev unit addr req : Nat) :
    ∃ e, Map.find (s.log kind status sev unit addr req).flt.vlog (s.flt.next % 4096) = some e ∧ e.kind = kind ∧ e.unit = unit := by
  have hn : s.log kind status sev unit addr req = s.logNew kind status sev unit addr req := by simp [State.log, h]
  rw [hn]
  unfold State.logNew
  extract_lets e src f kept mod md
  obtain ⟨_, _, _, _, _, hf⟩ := State.report_flt (k := 1) (sev := sev) (bs := e.bytes)
    (s := (State.count { s with flt := f, mod := md } (ctrDev 48)).event 5 status (toLE 4 e.index))
  rw [hf, EventOnly.refl.event.flt]
  exact ⟨e, Map.find_put .., rfl, rfl⟩

theorem State.watchdogEnds_entry {s : State} (h : s.flt.openIx = []) (code : Nat) :
    ∃ e, Map.find (s.watchdogEnds code).flt.vlog (s.flt.next % 4096) = some e ∧ e.kind = 0x0021 ∧ e.unit = code := by
  have hf := (s.count (ctrDev 46)).fatal_flt true
  have he := State.log_entry (s := (s.count (ctrDev 46)).fatal true) (by rw [hf]; exact h) 0x0021 0 2 code 0 0xFFFFFFFF
  rw [hf] at he
  exact he

section

variable {s : State} {t : Nat}

/-- The state in which a watchdog acts. -/
def State.barked (s : State) : State := { s with flt := { s.flt with wdogLast := some s.now } }

/-- A watchdog has acted within 60 s. -/
def State.barks (s : State) : Bool := s.flt.wdogLast.any fun x => decide (s.now ≤ x + 60000000000 * 256)

theorem State.watchdog_eq (s : State) (code : Nat) (f : State → State) :
    s.watchdog code f = (if s.barks then s.barked.requestWarm else f s.barked).watchdogEnds code := rfl

theorem State.watched_at (s : State) (t : Nat) (u : UnitRef) : (s.at t).watched u = s.watched u := by
  rw [s.at_frame]
  rfl

theorem State.at_flt (s : State) (t : Nat) : (s.at t).flt = s.flt := by rw [s.at_frame]

theorem State.watchdog_first {code : Nat} {f : State → State} (hnow : s.now ≤ t)
    (hlate : s.flt.wdogLast = none ∨ ∃ x, s.flt.wdogLast = some x ∧ x + 60000000000 * 256 < t) :
    (s.at t).watchdog code f = (f (s.at t).barked).watchdogEnds code := by
  have hagain : (s.at t).barks = false := by
    unfold State.barks
    rw [State.at_flt, State.at_now_of_le hnow]
    rcases hlate with h | ⟨x, h, hx⟩
    · rw [h]; rfl
    · rw [h, Option.any_some]
      exact decide_eq_false (Nat.not_le.mpr hx)
  rw [State.watchdog_eq, hagain, if_neg Bool.false_ne_true]

theorem State.watchdog_again {code x : Nat} {f : State → State} (hnow : s.now ≤ t) (h : s.flt.wdogLast = some x)
    (hx : t ≤ x + 60000000000 * 256) (ht : s.pwr.tripped = false) :
    (s.at t).watchdog code f = (s.at t).barked.warmReset.watchdogEnds code := by
  have hpwr : (s.at t).barked.pwr.tripped = false := by
    unfold State.barked
    rw [s.at_frame]
    exact ht
  have hagain : (s.at t).barks = true := by
    unfold State.barks
    rw [State.at_flt, State.at_now_of_le hnow, h, Option.any_some]
    exact decide_eq_true hx
  have hwarm : (s.at t).barked.requestWarm = (s.at t).barked.warmReset := by
    unfold State.requestWarm
    rw [hpwr]
    exact if_neg Bool.false_ne_true
  rw [State.watchdog_eq, hagain, if_pos rfl, hwarm]

theorem exec_watchdog_unit {code : BitVec 32} {u : UnitRef} (hu : unitRef code.toNat = some u) :
    exec (.watchdogExpiry code t) s =
      .next (if s.watched u then (s.at t).watchdog u.code fun s => s.unitReset u else s.at t) := by
  change execWatchdogExpiry code t s = _
  unfold execWatchdogExpiry
  dsimp only
  rw [hu]
  dsimp only
  rw [s.watched_at]

theorem exec_watchdog_reserved {code : BitVec 32} (hu : unitRef code.toNat = none) :
    exec (.watchdogExpiry code t) s = .next (if 5 ≤ code.toNat % 16 && code.toNat % 16 ≤ 7 then
      (s.at t).watchdog 0xFFFFFFFF fun s => s.count (ctrDev 45) else s.at t) := by
  change execWatchdogExpiry code t s = _
  unfold execWatchdogExpiry
  dsimp only
  rw [hu]

theorem State.watchdogFirst_run {code : BitVec 32} {v : Nat} (hu : unitRef code.toNat = some (.unit v)) (hnow : s.now ≤ t)
    (hw : s.watched (.unit v) = true)
    (hlate : s.flt.wdogLast = none ∨ ∃ x, s.flt.wdogLast = some x ∧ x + 60000000000 * 256 < t) :
    ∃ w, exec (.watchdogExpiry code t) s = .next w ∧ w.cmd.wdog = true ∧ w.flt.wdogLast = some t ∧
      w.epochOf (codeUnit v) = (s.epochOf (codeUnit v) + 1) % 65536 ∧ w.svcOf (codeUnit v) = .inService ∧
      ((∀ c, (s.ctx c).resident = true → (s.ctx c).st = .running) →
        ∀ p j, p ∈ parcelsOf v → j < 0xC0000 → w.mem.read (fbAddr p j) = 0) := by
  have hr := (s.at t).barked.unitReset_wasReset v
  have hrun := exec_watchdog_unit (s := s) (t := t) hu
  rw [if_pos hw, State.watchdog_first hnow hlate] at hrun
  have hctx : ∀ c, (s.at t).barked.ctx c = s.ctx c := fun c => by
    unfold State.barked State.ctx
    rw [s.at_frame]
  have hepoch : (s.at t).barked.epochOf (codeUnit v) = s.epochOf (codeUnit v) := by
    unfold State.barked State.epochOf
    rw [s.at_flt]
  have hbark : (s.at t).barked.flt.wdogLast = some t := congrArg some (State.at_now_of_le hnow)
  generalize (s.at t).barked.unitReset (.unit v) = x at hr hrun
  obtain ⟨hl, -, he, hs⟩ := x.watchdogEnds_flt (codeUnit v)
  refine ⟨_, hrun, (x.watchdogEnds_flags _).1, hl.trans (hr.wdogLast.trans hbark), (he _).trans (hr.epoch.trans ?_), (hs _).trans hr.service,
    fun hres p j hp hj => ?_⟩
  · rw [hepoch]
  · rw [(x.watchdogEnds_logOnly _).mem]
    exact hr.fieldbooks (fun c hc => by rw [hctx] at hc ⊢; exact hres c hc) p j hp hj

theorem State.watchdogAgain_run {code : BitVec 32} {u : UnitRef} {x : Nat} (hu : unitRef code.toNat = some u) (hnow : s.now ≤ t)
    (hw : s.watched u = true) (h : s.flt.wdogLast = some x) (hx : t ≤ x + 60000000000 * 256) (ht : s.pwr.tripped = false) :
    ∃ w, exec (.watchdogExpiry code t) s = .next w ∧ w.cmd.wdog = true ∧ w.cmd.mgstop = true ∧ w.ctxs = [] ∧ w.eng = [] ∧
      w.flt.epochBase = (s.flt.epochBase + 1) % 65536 := by
  have hr := (s.at t).barked.warmReset_warmed
  have hrun := exec_watchdog_unit (s := s) (t := t) hu
  rw [if_pos hw, State.watchdog_again hnow h hx ht] at hrun
  generalize (s.at t).barked.warmReset = y at hr hrun
  obtain ⟨-, hb, -, -⟩ := y.watchdogEnds_flt u.code
  obtain ⟨hwd, hmg⟩ := y.watchdogEnds_flags u.code
  have hbare := hr.bare.of_linkOnly (y.watchdogEnds_logOnly u.code).linkOnly
  refine ⟨_, hrun, hwd, hmg.trans hr.mgstop, hbare.ctxs, hbare.eng, hb.trans (hr.epochBase.trans ?_)⟩
  unfold State.barked
  rw [s.at_flt]

theorem State.watchdogReserved_run {code : BitVec 32} (hu : unitRef code.toNat = none) (hnow : s.now ≤ t)
    (h5 : 5 ≤ code.toNat % 16) (h7 : code.toNat % 16 ≤ 7)
    (hlate : s.flt.wdogLast = none ∨ ∃ x, s.flt.wdogLast = some x ∧ x + 60000000000 * 256 < t) :
    ∃ w, exec (.watchdogExpiry code t) s = .next w ∧ w.cmd.wdog = true ∧ w.flt.wdogLast = some t ∧ w.mem = s.mem ∧
      w.eng = s.eng ∧ w.brg = s.brg ∧ w.cat = s.cat ∧ w.cols = s.cols ∧
      (s.flt.openIx = [] → ∃ e, Map.find w.flt.vlog (s.flt.next % 4096) = some e ∧ e.kind = 0x0021 ∧ e.unit = 0xFFFFFFFF) := by
  have hrun := exec_watchdog_reserved (s := s) (t := t) hu
  rw [if_pos (by simp [h5, h7]), State.watchdog_first hnow hlate] at hrun
  have hm : ((s.at t).barked.count (ctrDev 45)).mem = s.mem := s.at_mem t
  have he : ((s.at t).barked.count (ctrDev 45)).eng = s.eng := s.at_eng t
  have hb : ((s.at t).barked.count (ctrDev 45)).brg = s.brg := State.at_brg
  have hc : ((s.at t).barked.count (ctrDev 45)).cat = s.cat := by rw [s.at_frame]; rfl
  have hk : ((s.at t).barked.count (ctrDev 45)).cols = s.cols := by rw [s.at_frame]; rfl
  have hf : ((s.at t).barked.count (ctrDev 45)).flt = { s.flt with wdogLast := some t } := by
    rw [← s.at_flt t]
    exact congrArg (fun n => { (s.at t).flt with wdogLast := some n }) (State.at_now_of_le hnow)
  generalize (s.at t).barked.count (ctrDev 45) = x at hrun hm he hb hc hk hf
  have hlog := x.watchdogEnds_logOnly 0xFFFFFFFF
  have hentry := State.watchdogEnds_entry (s := x)
  refine ⟨_, hrun, (x.watchdogEnds_flags _).1, (x.watchdogEnds_flt _).1.trans (by rw [hf]), hlog.mem.trans hm,
    hlog.eng.trans he, ?_, ?_, hlog.cols.trans hk, fun h => ?_⟩
  · rw [hlog]
    exact hb
  · rw [hlog]
    exact hc
  · rw [hf] at hentry
    exact hentry h _

end

/-! ## Reports (R425) -/

/-- Fewer than 1,000 reports have left in this second. -/
def State.reportsLeft (s : State) : Prop := s.ns / 1000000000 ≠ s.flt.frSecond ∨ s.flt.frSent < 1000

theorem State.reportsLeft_sent {s : State} (h : s.reportsLeft) :
    ¬1000 ≤ if s.ns / 1000000000 = s.flt.frSecond then s.flt.frSent else 0 := by
  split
  · next he => exact Nat.not_le.mpr (h.resolve_left (not_not_intro he))
  · decide

theorem State.reportOut_up {s : State} (h : s.mod.mgmtUp = true) (bs : List Byte) :
    s.reportOut bs = { s with out := .report bs :: s.out } := if_pos h

theorem State.report_sent {s : State} {kind sev : Nat} {bs : List Byte} (hup : s.mod.mgmtUp = true) (hr : s.reportsLeft) :
    (s.report kind sev bs).out = .report (s.reportBytes kind bs) :: s.out ∧
      (s.report kind sev bs).flt.rseq = (s.flt.rseq + 1) % 2 ^ 32 := by
  unfold State.report
  dsimp only
  rw [if_neg (State.reportsLeft_sent hr), State.reportOut_up]
  · exact ⟨rfl, rfl⟩
  · exact hup

theorem State.report_dropped {s : State} {kind sev : Nat} {bs : List Byte} (h : s.ns / 1000000000 = s.flt.frSecond)
    (hs : 1000 ≤ s.flt.frSent) :
    (s.report kind sev bs).out = s.out ∧ (s.report kind sev bs).flt.frDropped = s.flt.frDropped + 1 := by
  unfold State.report
  dsimp only
  rw [if_pos h, if_pos hs]
  exact ⟨rfl, rfl⟩

theorem State.reportBytes_length (s : State) (kind : Nat) (bs : List Byte) : (s.reportBytes kind bs).length = 256 := by
  have h64 : (bytesAt bs 0 64).length = 64 := bytesAt_length ..
  simp [State.reportBytes, h64]

theorem State.reportBytes_kind (s : State) (kind : Nat) (bs : List Byte) : leAt (s.reportBytes kind bs) 2 2 = kind % 65536 := by
  simp only [State.reportBytes, List.append_assoc]
  exact leAt_append (toLE 2 1) _ 2 kind

theorem State.reportBytes_seq (s : State) (kind : Nat) (bs : List Byte) :
    leAt (s.reportBytes kind bs) 4 4 = s.flt.rseq % 2 ^ 32 := by
  simp only [State.reportBytes, List.append_assoc]
  rw [← List.append_assoc]
  exact leAt_append (toLE 2 1 ++ toLE 2 kind) _ 4 _

/-- The payload of a report lies from byte 44 on. -/
theorem State.reportBytes_payload (s : State) (kind : Nat) {bs : List Byte} {len : Nat} (h : len ≤ bs.length)
    (hb : bs.length ≤ 64) : leAt (s.reportBytes kind bs) 44 len = leAt bs 0 len := by
  have h64 : (bytesAt bs 0 64).length = 64 := bytesAt_length ..
  let pre := toLE 2 1 ++ toLE 2 kind ++ toLE 4 s.flt.rseq ++ toLE 8 Config.serial.toNat ++ toLE 3 s.station ++
    toLE 1 (b2n s.flt.drained + 2 * b2n s.flt.flagged + 4 * b2n s.dbgOpen + 8 * b2n s.linkUp) ++
    toLE 8 s.ns ++ toLE 4 (s.brg.bearingAt s.now) ++ toLE 4 s.brg.rev ++ toLE 4 (b2n s.brg.valid) ++ toLE 4 s.flt.frDropped
  have hpre : pre.length = 44 := by simp [pre]
  obtain ⟨post, hpost⟩ : ∃ post, s.reportBytes kind bs = pre ++ (bytesAt bs 0 64 ++ post) :=
    ⟨_, by simp only [State.reportBytes, pre, List.append_assoc]; rfl⟩
  rw [hpost, ← hpre]
  refine (leAt_append_right (off := 0)).trans ?_
  rw [leAt_append_left (by omega)]
  exact leAt_bytesAt (by omega) hb

theorem exec_fieldReportRepeat_none {s : State} {i : BitVec 32} (h : Map.find s.flt.repeats i.toNat = none) :
    exec (.fieldReportRepeat i) s = .next s := by
  change execFieldReportRepeat i s = _
  unfold execFieldReportRepeat
  rw [h]

/-- The repetitions of a report that has gone out once more. -/
def repeated (m : Map (Nat × List Byte)) (i n : Nat) (bs : List Byte) : Map (Nat × List Byte) :=
  if n ≤ 1 then Map.del m i else Map.put m i (n - 1, bs)

theorem repeated_find (m : Map (Nat × List Byte)) (i n : Nat) (bs : List Byte) :
    Map.find (repeated m i n bs) i = if n ≤ 1 then none else some (n - 1, bs) := by
  unfold repeated
  split
  · rw [Map.find_del, if_pos rfl]
  · exact Map.find_put ..

theorem exec_fieldReportRepeat_sent {s : State} {i : BitVec 32} {n : Nat} {bs : List Byte}
    (h : Map.find s.flt.repeats i.toNat = some (n, bs)) (hup : s.mod.mgmtUp = true) (hr : s.reportsLeft) :
    ∃ t, exec (.fieldReportRepeat i) s = .next t ∧ t.out = .report bs :: s.out ∧
      t.flt.repeats = repeated s.flt.repeats i.toNat n bs := by
  let f : Flt := { s.flt with
    repeats := repeated s.flt.repeats i.toNat n bs
    frSecond := s.ns / 1000000000
    frSent := (if s.ns / 1000000000 = s.flt.frSecond then s.flt.frSent else 0) + 1 }
  have hrun : exec (.fieldReportRepeat i) s =
      .next (State.count { s with flt := f, out := .report bs :: s.out } (ctrDev 49)) := by
    change execFieldReportRepeat i s = _
    unfold execFieldReportRepeat
    rw [h]
    dsimp only
    rw [if_neg (State.reportsLeft_sent hr), State.reportOut_up (by exact hup)]
    rfl
  exact ⟨_, hrun, rfl, rfl⟩

end Sys2Proof.Machine

section

open Sys2Proof Sys2Proof.Machine

/-- Settles O59: a watchdog is the reset of its unit, or a warm reset, and then `State.watchdogEnds`. -/
theorem faultEvents : Obligations.FaultEvents := by
  unfold Obligations.FaultEvents
  refine ⟨fun s code u t hu hnow => ⟨?_, ?_, ?_⟩, fun s code t hu hnow => ⟨?_, ?_⟩, fun _ _ => rfl, fun s => ?_, fun s i => ?_⟩
  · rintro v rfl hw hlate
    exact State.watchdogFirst_run hu hnow hw hlate
  · exact fun x hw h hx ht => State.watchdogAgain_run hu hnow hw h hx ht
  · exact fun hw => by rw [exec_watchdog_unit hu, hw]; rfl
  · exact fun h5 h7 hlate => State.watchdogReserved_run hu hnow h5 h7 hlate
  · intro hc
    rw [exec_watchdog_reserved hu, if_neg (by simp; omega)]
  · have hrun : s.cmd.fwrun = true → exec .healthReportTimer s = .next (s.report 3 0 (s.healthBytes true)) := fun h => if_pos h
    refine ⟨fun h => if_neg (ne_true_of_eq_false h), fun h hup hr => ?_, fun h hs hn => ?_⟩
    · obtain ⟨hout, hseq⟩ := State.report_sent (kind := 3) (sev := 0) (bs := s.healthBytes true) hup hr
      refine ⟨_, _, hrun h, hout, s.reportBytes_length .., s.reportBytes_kind .., s.reportBytes_seq .., ?_, hseq⟩
      rw [s.reportBytes_payload 3 (by rw [s.healthBytes_length]; decide) (by rw [s.healthBytes_length]; decide)]
      simp only [State.healthBytes, List.append_assoc]
      exact leAt_append [] _ 2 _
    · obtain ⟨hout, hd⟩ := State.report_dropped (kind := 3) (sev := 0) (bs := s.healthBytes true) hs hn
      exact ⟨_, hrun h, hout, hd⟩
  · refine ⟨fun h => exec_fieldReportRepeat_none h, fun n bs h hup hr => ?_⟩
    obtain ⟨t, hrun, hout, hrep⟩ := exec_fieldReportRepeat_sent h hup hr
    exact ⟨t, hrun, hout, by rw [hrep, repeated_find]⟩

end

namespace Sys2Proof.Machine

/-! # Surveys, replays, drains and wait limits (O54) -/

/-! ## The commands -/

section

variable {s : State} {h : Hdr} {r : Started}

theorem Admitted.survey {seed : BitVec 64} {tiles : BitVec 32} {mask : Byte} {faults referees : List SurveyFault}
    (ha : Admitted s h 0x0701 (Instr.params (.survey h seed tiles mask faults referees)) r) :
    exec (.survey h seed tiles mask faults referees) s = .next (
      if !(mask.toNat == 3 || mask.toNat == 12 || mask.toNat == 15) || tiles.toNat = 0 || 65536 < tiles.toNat then
        s.finish r 0x0801
      else if s.surveyBusy mask.toNat then s.finish r 0x0301
      else
        let x := surveyFound seed tiles.toNat mask.toNat faults referees
        (s.surveyed (surveyPairs mask.toNat) x.1 x.2).finish r 0 (surveyResult (surveyPairs mask.toNat) x.1 x.2)) := by
  change Host.Outcome.next (s.command h 0x0701 (Instr.params (.survey h seed tiles mask faults referees)) _) = _
  rw [ha.command]

theorem Admitted.replayStep {rev : BitVec 32} (ha : Admitted s h 0x0702 (Instr.params (.replayStep h rev)) r) :
    exec (.replayStep h rev) s = .next (
      if s.brg.valid then s.finish r 0x0301
      else if !s.journalHeld rev.toNat then s.finish r 0x0801
      else if s.badIn (journalAddr rev.toNat) 0x410000 then (s.uncRead (journalAddr rev.toNat) codeMgmt).finish r 0x0723
      else if (s.journalCat rev.toNat).any (·.isNone) then s.finish r 0x0801
      else
        let s1 := s.applyCat (.load 0 ((s.journalCat rev.toNat).filterMap id))
        State.begin { s1 with
          cat := { s1.cat with skiprun := s.mem.readLE (journalAddr rev.toNat + 16) 2 }
          flt := { s1.flt with
            replay := some ⟨rev.toNat, (List.range 128).map fun i => (i, s.journalRow rev.toNat i), false⟩ } } r) := by
  change Host.Outcome.next (s.command h 0x0702 (Instr.params (.replayStep h rev)) _) = _
  rw [ha.command]

theorem Admitted.drain (ha : Admitted s h 0x0703 (Instr.params (.drain h)) r) :
    exec (.drain h) s = .next (s.drainDevice.finish r 0) := by
  change Host.Outcome.next (s.command h 0x0703 (Instr.params (.drain h)) _) = _
  rw [ha.command]

theorem Admitted.waitLimits {mask : Byte} {t0 t1 t2 t3 t4 t5 : BitVec 32}
    (ha : Admitted s h 0x0704 (Instr.params (.waitLimits h mask t0 t1 t2 t3 t4 t5)) r) :
    let new := ([t0, t1, t2, t3, t4, t5].zipIdx).map fun x =>
      if mask.toNat.testBit x.2 then x.1.toNat else s.flt.wlim.getD x.2 0
    exec (.waitLimits h mask t0 t1 t2 t3 t4 t5) s = .next (
      if 64 ≤ mask.toNat || !limitsOk new s.flt.wlong then s.finish r 0x0801
      else State.finish { s with flt := { s.flt with wlim := new } } r 0) := by
  intro new
  change Host.Outcome.next (s.command h 0x0704 (Instr.params (.waitLimits h mask t0 t1 t2 t3 t4 t5)) _) = _
  rw [ha.command]

end

/-! ## Surveys -/

theorem State.flagDevice_marks (s : State) : s.flagDevice.flt.flagged = true ∧ s.flagDevice.flt.drained = true := by
  unfold State.flagDevice
  split
  · next h => exact ⟨s.drainDevice_spared.flagged h, s.drainDevice_drained⟩
  · refine ⟨(State.drainDevice_spared _).flagged ?_, State.drainDevice_drained _⟩
    exact (Core.log (kp := false) (.refl _)).flagged

theorem surveyPairs_eq (mask : Byte) : surveyPairs mask.toNat = if mask = 15 then 8192 else 4096 := by
  have h : mask.toNat = 15 ↔ mask = 15 := ⟨fun h => BitVec.eq_of_toNat_eq h, fun h => h ▸ rfl⟩
  unfold surveyPairs
  simp only [h]

theorem surveyMask_ok (mask : Byte) :
    (mask.toNat == 3 || mask.toNat == 12 || mask.toNat == 15) = true ↔ mask = 3 ∨ mask = 12 ∨ mask = 15 := by
  revert mask
  decide

/-- What a survey finds, by the suspects of each pair. -/
theorem surveyFound_none {seed : BitVec 64} {tiles mask : Nat} {faults referees : List SurveyFault}
    (h : ((List.range (surveyPairs mask)).map (pairSuspects seed tiles mask faults referees)).flatten = []) :
    surveyFound seed tiles mask faults referees = (0, none) := by
  unfold surveyFound
  dsimp only
  generalize (List.range (surveyPairs mask)).map (pairSuspects seed tiles mask faults referees) = sus at h
  have hnil : sus.filter (fun l => !l.isEmpty) = [] :=
    List.filter_eq_nil_iff.mpr fun l hl => by rw [List.flatten_eq_nil_iff.mp h l hl]; exact nofun
  rw [hnil, h]
  rfl

theorem surveyFound_lowest {seed : BitVec 64} {tiles mask p : Nat} {faults referees : List SurveyFault}
    (hp : p ∈ ((List.range (surveyPairs mask)).map (pairSuspects seed tiles mask faults referees)).flatten)
    (hle : ∀ x ∈ ((List.range (surveyPairs mask)).map (pairSuspects seed tiles mask faults referees)).flatten, p ≤ x) :
    (surveyFound seed tiles mask faults referees).2 = some p :=
  List.min?_eq_some_iff.mpr ⟨hp, hle⟩

theorem State.surveyed_none (s : State) (n : Nat) :
    s.surveyed n 0 none = s.log 0x0070 0 0 0xFFFFFFFF 0 0 (toLE 4 n ++ toLE 4 0 ++ toLE 3 0xFFFFFF) := rfl

theorem State.surveyed_suspect (s : State) (n dis p : Nat) :
    (s.surveyed n dis (some p)).flt.flagged = true ∧ (s.surveyed n dis (some p)).flt.drained = true :=
  State.flagDevice_marks _

/-! ## The catalogue of a record -/

theorem State.catEntry_setCat (s : State) (k j : Nat) (v : CatEntry) :
    (s.setCat k v).catEntry j = if j = k then v else s.catEntry j := Map.getD_putD ..

theorem filterMap_id_some {α : Type} (l : List α) : (l.map some).filterMap id = l := by
  rw [List.filterMap_map]
  exact List.filterMap_some

theorem journalCat_length {s : State} {rev : Nat} {es : List CatEntry} (h : s.journalCat rev = es.map some) :
    es.length = 65536 := by
  rw [← List.length_map (f := some), ← h]
  unfold State.journalCat
  rw [List.length_map, List.length_range]

/-- The entries of a load, from `n` on. -/
theorem State.catEntry_load (s : State) (es : List CatEntry) (n k : Nat) :
    ((es.zipIdx n).foldl (fun s ei => State.setCat s (0 + ei.2) ei.1.refresh) s).catEntry k =
      if n ≤ k ∧ k < n + es.length then (es.getD (k - n) CatEntry.default).refresh else s.catEntry k := by
  induction es generalizing s n with
  | nil => rw [if_neg (by simp)]; rfl
  | cons e es ih =>
    rw [List.zipIdx_cons, List.foldl_cons, ih, State.catEntry_setCat, List.length_cons]
    by_cases hk : k = n
    · subst hk
      rw [if_neg (by omega), if_pos (by omega), if_pos (by omega), Nat.sub_self]
      rfl
    · rw [if_neg (by omega : ¬k = 0 + n)]
      by_cases hin : n + 1 ≤ k ∧ k < n + 1 + es.length
      · rw [if_pos hin, if_pos (by omega), show k - n = k - (n + 1) + 1 by omega]
        rfl
      · rw [if_neg hin, if_neg (by omega)]

/-- A load leaves everything but the entries. -/
theorem State.applyCat_frame (s : State) (first : Nat) (es : List CatEntry) :
    ∃ m, s.applyCat (.load first es) = { s with cat := { s.cat with entries := m } } := by
  unfold State.applyCat
  dsimp only
  generalize es.zipIdx = l
  induction l generalizing s with
  | nil => exact ⟨_, rfl⟩
  | cons x l ih =>
    obtain ⟨m, hm⟩ := ih (s.setCat (first + x.2) x.1.refresh)
    exact ⟨m, hm⟩

/-! ## Drains -/

/-- Context `c` of `s` runs and is to be parked. -/
def State.parks (s : State) (c : Nat) : Prop := (s.ctx c).st = .running ∧ (s.ctx c).parking = true

theorem State.preempt_ctx (s : State) (c d : Nat) : (s.preempt d).ctx c =
    if c = d ∧ (s.ctx c).st = .running then { s.ctx c with parking := true } else s.ctx c := by
  unfold State.preempt
  by_cases hc : c = d
  · subst hc
    by_cases hs : (s.ctx c).st = .running
    · rw [if_pos (by rw [hs]; rfl), State.ctx_setCtx, if_pos ⟨rfl, hs⟩]
    · rw [if_neg (by simpa using hs), if_neg fun h => hs h.2]
  · refine Eq.trans ?_ (if_neg fun h => hc h.1).symm
    split
    · exact State.ctx_setCtx_ne _ _ hc
    · rfl

/-- One step of stopping the contexts leaves a running context running, and parks its own. -/
theorem State.stopStep_running {s : State} {c : Nat} (d : Nat) (h : (s.ctx c).st = .running) :
    let t := if (s.ctx d).st == .starting then s.setCtx d { s.ctx d with parkNext := true } else s.preempt d
    (t.ctx c).st = .running ∧ ((s.ctx c).parking = true ∨ c = d → (t.ctx c).parking = true) := by
  intro t
  unfold t
  split
  · next hd =>
    have hne : c ≠ d := fun hc => by rw [← hc, h] at hd; exact absurd hd (by decide)
    rw [State.ctx_setCtx_ne _ _ hne]
    exact ⟨h, fun hp => hp.resolve_right hne⟩
  · rw [State.preempt_ctx]
    split
    · exact ⟨h, fun _ => rfl⟩
    · next hn => exact ⟨h, fun hp => hp.resolve_right fun hc => hn ⟨hc, h⟩⟩

theorem State.stopContexts_parks {s : State} {c : Nat} (hc : c < 8) (h : (s.ctx c).st = .running) :
    s.stopContexts.parks c := by
  have hfold : ∀ (l : List Nat) (s : State), (s.ctx c).st = .running → (s.ctx c).parking = true ∨ c ∈ l →
      (l.foldl (fun s c => if (s.ctx c).st == .starting then s.setCtx c { s.ctx c with parkNext := true }
        else s.preempt c) s).parks c := by
    intro l
    induction l with
    | nil => exact fun s hs hp => ⟨hs, hp.resolve_right List.not_mem_nil⟩
    | cons d l ih =>
      intro s hs hp
      obtain ⟨hrun, hpark⟩ := State.stopStep_running d hs
      refine ih _ hrun ?_
      rcases hp with hp | hp
      · exact .inl (hpark (.inl hp))
      · exact (List.mem_cons.mp hp).imp (fun he => hpark (.inr he)) id
  refine hfold _ _ ?_ (.inr (List.mem_range.mpr hc))
  rw [(Core.dropStarts (kp := false) (.refl s)).ctx c]
  exact h

theorem State.drainDevice_parks {s : State} {c : Nat} (hd : s.flt.drained = false) (hc : c < 8) (h : (s.ctx c).st = .running) :
    s.drainDevice.parks c := by
  unfold State.parks
  rw [(State.drainDevice_core hd).ctx c]
  exact State.stopContexts_parks hc (by rw [s.drainMarked_ctx]; exact h)

theorem State.stopContexts_flagged (s : State) : s.stopContexts.flt.flagged = s.flt.flagged := by
  have hfold : ∀ (l : List Nat) (s : State), (l.foldl (fun s c => if (s.ctx c).st == .starting then
      s.setCtx c { s.ctx c with parkNext := true } else s.preempt c) s).flt = s.flt := by
    intro l
    induction l with
    | nil => exact fun _ => rfl
    | cons d l ih =>
      intro s
      refine (ih _).trans ?_
      dsimp only
      split
      · rfl
      · rw [s.preempt_ctxOnly d]
  unfold State.stopContexts
  rw [hfold]
  exact (Core.dropStarts (kp := false) (.refl s)).flagged

theorem State.releaseSlots_grant {s : State} {k : Nat} {c : Col} (h : s.releaseSlots.col k = some c) : c.grant = 0 := by
  unfold State.col State.releaseSlots at h
  dsimp only at h
  rw [Map.find_mapVals] at h
  obtain ⟨c0, -, rfl⟩ := Option.map_eq_some_iff.mp h
  rfl

theorem State.drainDevice_grant {s : State} {k : Nat} {c : Col} (hd : s.flt.drained = false) (h : s.drainDevice.col k = some c) :
    c.grant = 0 := by
  unfold State.drainDevice at h
  rw [if_neg (ne_true_of_eq_false hd)] at h
  exact State.releaseSlots_grant h

end Sys2Proof.Machine

section

open Sys2Proof Sys2Proof.Machine

/-- Settles O54: a survey's answer is `surveyFound`, a drain is `State.drainDevice_core` after the contexts have been stopped. -/
theorem reliabilityCommands : Obligations.ReliabilityCommands := by
  unfold Obligations.ReliabilityCommands
  refine ⟨fun s h seed tiles mask faults referees r ha => ?_, fun s h rev es r ha => ?_, fun s h r ha hd => ?_,
    fun s h mask t0 t1 t2 t3 t4 t5 r ha => ?_⟩
  · intro run n sus dis
    have hpairs : surveyPairs mask.toNat = n := surveyPairs_eq mask
    have hsus : (List.range (surveyPairs mask.toNat)).map (pairSuspects seed tiles.toNat mask.toNat faults referees) = sus := by
      rw [hpairs]
      rfl
    have hrun : run = _ := ha.survey
    refine ⟨fun hbad => ?_, fun hm h1 hmax => ?_⟩
    · rw [hrun, if_pos]
      rcases hbad with h0 | h0 | h0
      · simp [h0]
      · simp [h0]
      · rw [Bool.eq_false_iff.mpr (mt (surveyMask_ok mask).mp h0)]
        rfl
    rw [(surveyMask_ok mask).mpr hm, decide_eq_false (by omega), decide_eq_false (by omega), if_neg nofun] at hrun
    refine ⟨fun hb => by rw [hrun, if_pos hb], ?_, fun p hb hp hle => ?_⟩
    · intro hb hnone res
      rw [hrun, if_neg (ne_true_of_eq_false hb)]
      dsimp only
      rw [surveyFound_none (by rw [hsus]; exact hnone), hpairs, State.surveyed_none]
      rfl
    · rw [if_neg (ne_true_of_eq_false hb)] at hrun
      have hlow : (surveyFound seed tiles.toNat mask.toNat faults referees).2 = some p :=
        surveyFound_lowest (by rw [hsus]; exact hp) (by rw [hsus]; exact hle)
      have hdis : (surveyFound seed tiles.toNat mask.toNat faults referees).1 = dis := by
        unfold dis
        rw [← hsus]
        rfl
      dsimp only at hrun
      rw [hlow, hdis, hpairs] at hrun
      obtain ⟨hf, hd⟩ := s.surveyed_suspect n dis p
      have hcore := Core.finish (kp := false) (r := r) (status := 0) (result := surveyResult n dis (some p)) (.refl (s.surveyed n dis (some p)))
      exact ⟨_, _, hrun, rfl, hcore.flagged.trans hf, hcore.drained.trans hd⟩
  · have hrun := ha.replayStep
    refine ⟨fun hv => by rw [hrun, if_pos hv], fun hv hj => ?_, fun hv hj hbad hes => ?_⟩
    · rw [hrun, if_neg (ne_true_of_eq_false hv), hj]
      rfl
    · rw [if_neg (ne_true_of_eq_false hv), hj, if_neg nofun, if_neg (ne_true_of_eq_false hbad), hes, if_neg (by simp),
        filterMap_id_some] at hrun
      have hlen : es.length = 65536 := journalCat_length hes
      obtain ⟨m, hm⟩ := s.applyCat_frame 0 es
      dsimp only at hrun
      refine ⟨_, hrun, fun k hk => ?_, rfl, rfl, ?_, ?_⟩
      · refine (State.catEntry_load s es 0 k).trans ?_
        rw [if_pos (by omega), Nat.sub_zero]
      · rw [hm]
        rfl
      · rw [hm]
        rfl
  · refine ⟨_, ha.drain, ?_, ?_, fun k c hc => ?_, fun c hc hrun => ?_⟩
    · exact (Core.finish (kp := false) (.refl _)).drained.trans s.drainDevice_drained
    · rw [(Core.finish (kp := false) (.refl _)).flagged, (State.drainDevice_core hd).flagged, State.stopContexts_flagged, s.drainMarked_flagged]
    · rw [State.col_of_cols (State.finish_logOnly ..).cols] at hc
      exact State.drainDevice_grant hd hc
    · rw [(Core.finish (kp := false) (.refl _)).ctx]
      exact State.drainDevice_parks hd hc hrun
  · intro new
    have hnew : ([t0, t1, t2, t3, t4, t5].zipIdx).map (fun x =>
        if mask.toNat.testBit x.2 then x.1.toNat else s.flt.wlim.getD x.2 0) = new := rfl
    have hrun := ha.waitLimits
    dsimp only at hrun
    rw [hnew] at hrun
    refine ⟨fun hbad => ?_, fun hm hok => ?_⟩
    · rw [hrun, if_pos]
      rcases hbad with h0 | h0
      · simp [h0]
      · simp [h0]
    · rw [if_neg (by simp [hok]; omega)] at hrun
      exact ⟨_, hrun, (State.finish_eventOnly ..).flt, (State.finish_logOnly ..).mem⟩

end

namespace Sys2Proof.Machine

/-! # Units out of service and back (O55) -/

/-! ## What the end of a queue entry leaves alone -/

theorem State.putReceipt_started (s : State) (r : Receipt) : (s.putReceipt r).cmd.started = s.cmd.started := by
  cases h : (s.rcp r.rr).en with
  | false => rw [State.putReceipt_off h]
  | true => exact (State.putReceipt_on h).2.1

theorem State.lostEvents_started (s : State) : s.lostEvents.cmd.started = s.cmd.started := by
  unfold State.lostEvents
  split
  · exact State.putReceipt_started ..
  · rfl

theorem State.event_started (s : State) (k status : Nat) (result : List Byte) :
    (s.event k status result).cmd.started = s.cmd.started := by
  unfold State.event
  split
  · exact State.putReceipt_started ..
  · exact State.lostEvents_started _

/-- Between two states memory, the Archive, the fault state, the started commands and what the engines run stay. -/
structure HaltOnly (s t : State) : Prop where
  mem : t.mem = s.mem
  arc : t.arc = s.arc
  flt : t.flt = s.flt
  started : t.cmd.started = s.cmd.started
  mat : ∀ k, (t.engOf k).mat = (s.engOf k).mat
  vec : ∀ k, (t.engOf k).vec = (s.engOf k).vec

namespace HaltOnly

variable {s t u : State}

theorem refl (s : State) : HaltOnly s s := ⟨rfl, rfl, rfl, rfl, fun _ => rfl, fun _ => rfl⟩

theorem trans (h : HaltOnly s t) (g : HaltOnly t u) : HaltOnly s u :=
  ⟨g.mem.trans h.mem, g.arc.trans h.arc, g.flt.trans h.flt, g.started.trans h.started, fun k => (g.mat k).trans (h.mat k),
    fun k => (g.vec k).trans (h.vec k)⟩

theorem ite {p : Prop} [Decidable p] (h : HaltOnly s t) (g : HaltOnly s u) : HaltOnly s (if p then t else u) := by
  split <;> assumption

theorem settled (h : HaltOnly s t) (k : Nat) : (t.engOf k).settled = (s.engOf k).settled := by
  unfold Eng.settled
  rw [h.mat, h.vec]

end HaltOnly

theorem State.count_haltOnly (s : State) (k n : Nat) : HaltOnly s (s.count k n) := ⟨rfl, rfl, rfl, rfl, fun _ => rfl, fun _ => rfl⟩

theorem State.setClosure_haltOnly (s : State) (k : Nat) (c : Closure) : HaltOnly s (s.setClosure k c) :=
  ⟨rfl, rfl, rfl, rfl, fun _ => rfl, fun _ => rfl⟩

theorem State.event_haltOnly (s : State) (k status : Nat) (result : List Byte) : HaltOnly s (s.event k status result) := by
  have h := EventOnly.refl (s := s) |>.event (k := k) (st := status) (bs := result)
  have heng := fun k => State.engOf_congr h.eng k
  exact ⟨h.mem, by rw [h], h.flt, s.event_started .., fun k => by rw [heng], fun k => by rw [heng]⟩

theorem State.setEng_haltOnly (s : State) (key : Nat) (e : Eng) (hm : e.mat = (s.engOf key).mat)
    (hv : e.vec = (s.engOf key).vec) : HaltOnly s (s.setEng key e) := by
  have h : ∀ k, ((s.setEng key e).engOf k).mat = (s.engOf k).mat ∧ ((s.setEng key e).engOf k).vec = (s.engOf k).vec := by
    intro k
    by_cases hk : k = key
    · rw [hk, State.engOf_setEng]
      exact ⟨hm, hv⟩
    · rw [State.engOf_setEng_ne _ _ hk]
      exact ⟨rfl, rfl⟩
  exact ⟨rfl, rfl, rfl, rfl, fun k => (h k).1, fun k => (h k).2⟩

theorem State.setSync_haltOnly (s : State) (key : Nat) (y : Sync) : HaltOnly s (s.setSync key y) :=
  s.setEng_haltOnly key _ rfl rfl

theorem State.setQueue_haltOnly (s : State) (key : Nat) (q : Q) (w : Queue) : HaltOnly s (s.setQueue key q w) :=
  s.setSync_haltOnly ..

theorem State.dropHeld_haltOnly (s : State) (key : Nat) (q : Q) : HaltOnly s (s.dropHeld key q) := by
  unfold State.dropHeld
  split
  · exact .ite (s.setClosure_haltOnly ..) ((s.setClosure_haltOnly ..).trans (State.setSync_haltOnly ..))
  · exact .refl s

theorem State.failQueue_haltOnly {s t : State} {n c u : Nat} {q : Q} {addr status pc member : Nat} (h : HaltOnly s t) :
    HaltOnly s (t.failQueue n c u q addr status pc member) := by
  unfold State.failQueue
  extract_lets key w before _ w' s1 s2
  split
  · exact .ite (h.trans (t.setQueue_haltOnly ..)) h
  · have h1 : HaltOnly s s1 := (h.trans (t.dropHeld_haltOnly key q)).trans (State.setQueue_haltOnly ..)
    have h2 : HaltOnly s s2 := .ite (.ite (h1.trans (s1.count_haltOnly ..)) (.ite (h1.trans (s1.count_haltOnly ..)) h1)) h1
    refine .ite ?_ (.ite (h2.trans (s2.event_haltOnly ..)) h2)
    cases n with
    | zero => exact h2
    | succ n => exact State.failQueue_haltOnly (h2.trans (s2.count_haltOnly ..))

theorem State.endEntry_haltOnly (s : State) (c u : Nat) (q : Q) (addr status : Nat) :
    HaltOnly s (s.endEntry c u q addr status) :=
  .ite (s.setQueue_haltOnly ..) (State.failQueue_haltOnly (.refl s))

theorem State.endX_haltOnly (s : State) (key status : Nat) : HaltOnly s (s.endX key status) := by
  unfold State.endX
  split
  · exact (s.setEng_haltOnly key { s.engOf key with x := none } rfl rfl).trans (State.endEntry_haltOnly _ _ _ _ _ _)
  · exact .refl s

/-! ## What a quiescing unit has not ended -/

theorem Eng.settled_empty : Eng.empty.settled = true := by decide

/-- The engine of a queue emptied, and what it held ended. -/
theorem State.tripQueue_haltOnly (s : State) (key : Nat) (q : Q) :
    HaltOnly (s.setEng key ((s.engOf key).emptied q)) (s.tripQueue key q) :=
  .ite (State.failQueue_haltOnly (.refl _)) (.refl _)

/-- The matrix and the vector engine of a key emptied. -/
def State.tripBoth (s : State) (key : Nat) : State := (s.tripQueue key .m).tripQueue key .v

theorem State.tripBoth_mem (s : State) (key : Nat) : (s.tripBoth key).mem = s.mem :=
  (State.tripQueue_haltOnly _ key .v).mem.trans (State.tripQueue_haltOnly s key .m).mem

theorem State.tripBoth_started (s : State) (key : Nat) : (s.tripBoth key).cmd.started = s.cmd.started :=
  (State.tripQueue_haltOnly _ key .v).started.trans (State.tripQueue_haltOnly s key .m).started

theorem State.tripBoth_settled (s : State) (key : Nat) : ((s.tripBoth key).engOf key).settled = true := by
  have hm := (State.tripQueue_haltOnly s key .m).mat key
  have hv := State.tripQueue_haltOnly (s.tripQueue key .m) key .v
  unfold State.tripBoth
  rw [hv.settled, State.engOf_setEng]
  rw [State.engOf_setEng] at hm
  unfold Eng.settled Eng.emptied
  dsimp only
  rw [hm]
  rfl

theorem State.tripBoth_other (s : State) {key k : Nat} (hk : k ≠ key) :
    ((s.tripBoth key).engOf k).settled = (s.engOf k).settled := by
  unfold State.tripBoth
  rw [(State.tripQueue_haltOnly _ key .v).settled, State.engOf_setEng_ne _ _ hk, (State.tripQueue_haltOnly s key .m).settled,
    State.engOf_setEng_ne _ _ hk]

/-- Engines emptied one after another are at their boundaries, and so is each that was before. -/
theorem State.tripAll_settled (l : List (Nat × Eng)) (s : State) (k : Nat)
    (h : (s.engOf k).settled = true ∨ k ∈ l.map (·.1)) :
    ((l.foldl (fun s kv => s.tripBoth kv.1) s).engOf k).settled = true := by
  induction l generalizing s with
  | nil => exact h.resolve_right List.not_mem_nil
  | cons x l ih =>
    refine ih _ ?_
    by_cases hk : k = x.1
    · rw [hk]
      exact .inl (s.tripBoth_settled x.1)
    · rw [s.tripBoth_other hk]
      exact h.imp_right fun hm => (List.mem_cons.mp hm).resolve_left hk

theorem State.tripAll_keeps (l : List (Nat × Eng)) (s : State) : (l.foldl (fun s kv => s.tripBoth kv.1) s).mem = s.mem ∧
    (l.foldl (fun s kv => s.tripBoth kv.1) s).cmd.started = s.cmd.started := by
  induction l generalizing s with
  | nil => exact ⟨rfl, rfl⟩
  | cons x l ih =>
    obtain ⟨hm, hs⟩ := ih (s.tripBoth x.1)
    exact ⟨hm.trans (s.tripBoth_mem _), hs.trans (s.tripBoth_started _)⟩

/-- The engines of a unit that have not come to their boundaries. -/
def State.unsettled (s : State) (v : Nat) : List (Nat × Eng) :=
  s.eng.filter fun kv => decide (keyUnit kv.1 < 17477) && within (keyUnit kv.1) v && !kv.2.settled

theorem State.quiesceDrops_unit (s : State) (v : Nat) :
    s.quiesceDrops (.unit v) = (s.unsettled v).foldl (fun s kv => s.tripBoth kv.1) s := rfl

theorem State.unsettled_done {s : State} {v : Nat} (h : s.acceptedDone (.unit v) = true) : s.unsettled v = [] := by
  refine List.filter_eq_nil_iff.mpr fun kv hkv hun => ?_
  have hdone := List.all_eq_true.mp h kv hkv
  cases hs : kv.2.settled <;> simp_all

theorem State.unsettled_mem {s : State} {v k : Nat} (hk : keyUnit k < 17477) (hw : within (keyUnit k) v = true) :
    (s.engOf k).settled = true ∨ k ∈ (s.unsettled v).map (·.1) := by
  cases hs : (s.engOf k).settled with
  | true => exact .inl rfl
  | false =>
    right
    cases hf : Map.find s.eng k with
    | none =>
      have he : s.engOf k = Eng.empty := by unfold State.engOf Map.getD; rw [hf]; rfl
      rw [he, Eng.settled_empty] at hs
      cases hs
    | some e =>
      have he : s.engOf k = e := by unfold State.engOf Map.getD; rw [hf]; rfl
      rw [he] at hs
      refine List.mem_map.mpr ⟨(k, e), List.mem_filter.mpr ⟨Map.mem_of_find hf, ?_⟩, rfl⟩
      simp [hk, hw, hs]

theorem State.endXs_haltOnly (s : State) (l : List SliceReq) :
    HaltOnly s (l.foldl (fun s q => s.endX q.eng 0x0401) s) := by
  induction l generalizing s with
  | nil => exact .refl s
  | cons x l ih => exact (s.endX_haltOnly x.eng 0x0401).trans (ih _)

/-- The requests that a quiescing slice still holds are gone from every slice's list. -/
theorem State.dropRequests_slice {s : State} {n k : Nat} {q : SliceReq}
    (h : q ∈ ((s.dropRequests (.slice n) false).slice k).reqs) : sliceOf q.addr ≠ n := by
  unfold State.dropRequests at h
  extract_lets hit left keep _ s1 at h
  unfold State.slice at h
  rw [(s1.endXs_haltOnly hit).arc] at h
  have hmap : s1.arc.slices = Map.mapVals s.arc.slices fun _ l => { l with reqs := l.reqs.filterMap left } := rfl
  rw [hmap] at h
  unfold Map.getD at h
  rw [Map.find_mapVals] at h
  cases hf : Map.find s.arc.slices k with
  | none =>
    rw [hf] at h
    exact absurd h List.not_mem_nil
  | some l =>
    rw [hf] at h
    obtain ⟨q0, -, hq⟩ := List.mem_filterMap.mp h
    unfold left at hq
    rw [Bool.and_false, if_neg Bool.false_ne_true] at hq
    split at hq
    · cases hq
    · next hat =>
      cases hq
      exact fun hs => hat (beq_iff_eq.mpr hs)

theorem State.dropRequests_keeps (s : State) (u : UnitRef) (late : Bool) :
    (s.dropRequests u late).mem = s.mem ∧ (s.dropRequests u late).cmd.started = s.cmd.started := by
  unfold State.dropRequests
  extract_lets hit left keep _ s1
  exact ⟨(s1.endXs_haltOnly hit).mem, (s1.endXs_haltOnly hit).started⟩

/-! ## The end of a quiesce -/

theorem State.quiesceEnd_frame (s : State) (u : UnitRef) : (s.quiesceEnd u).svcOf u.code = .quiesced ∧
    (s.quiesceEnd u).eng = s.eng ∧ (s.quiesceEnd u).mem = s.mem ∧ (s.quiesceEnd u).arc.slices = s.arc.slices ∧
    (s.quiesceEnd u).cmd = s.cmd := by
  have hframe : ∀ t : State, ((t.setSvc u.code .quiesced).count (ctrDev 44)).svcOf u.code = .quiesced :=
    fun t => State.svcOf_setSvc ..
  unfold State.quiesceEnd
  cases u with
  | slice n =>
    have hw := s.writeBack_accessOnly fun a => sliceOf a == n
    refine ⟨hframe _, ?_, ?_, ?_, ?_⟩
    all_goals
      dsimp only [State.count, State.setSvc]
      rw [hw]
  | unit v => exact ⟨hframe _, rfl, rfl, rfl, rfl⟩
  | port n => exact ⟨hframe _, rfl, rfl, rfl, rfl⟩
  | stack n => exact ⟨hframe _, rfl, rfl, rfl, rfl⟩
  | mgmt => exact ⟨hframe _, rfl, rfl, rfl, rfl⟩

/-- No begun command waits for the unit. -/
def State.unitUnwaited (s : State) (u : UnitRef) : Prop := (s.cmd.started.filter fun r => r.begun && r.names objUnit u.code) = []

theorem State.quiesceEnds_unwaited {s t : State} {u : UnitRef} (h : s.unitUnwaited u) (hs : t.cmd.started = s.cmd.started) :
    t.quiesceEnds u = t.quiesceEnd u := by
  obtain ⟨-, -, -, -, hc⟩ := t.quiesceEnd_frame u
  unfold State.unitUnwaited at h
  unfold State.quiesceEnds
  dsimp only
  rw [hc, hs, h]
  rfl

/-! ## Spares -/

/-- An entry of the fault log swaps no parcel. -/
theorem State.log_swapped (s : State) (kind status sev unit addr req : Nat) (detail : List Byte) :
    (s.log kind status sev unit addr req detail).flt.swapped = s.flt.swapped := by
  unfold State.log
  dsimp only
  split
  · rfl
  · unfold State.logNew
    extract_lets e _ f kept _ md
    obtain ⟨_, _, _, _, _, hf⟩ := State.report_flt (k := 1) (sev := sev) (bs := e.bytes)
      (s := (State.count { s with flt := f, mod := md } (ctrDev 48)).event 5 status (toLE 4 e.index))
    rw [hf, EventOnly.refl.event.flt]
    rfl

theorem State.spareSwap_none {s : State} {p : Nat} (h : s.sparesLeft p = 0) : (s.spareSwap p).1 = s.flagDevice :=
  congrArg Prod.fst (if_pos h : s.spareSwap p = (s.flagDevice, 0x0772))

theorem State.spareSwap_spare {s : State} {p : Nat} (h : s.sparesLeft p ≠ 0) : LogOnly s (s.spareSwap p).1 ∧
    (s.spareSwap p).1.flt.spares = s.flt.spares.set (p / 256) (s.sparesLeft p - 1) ∧ p ∈ (s.spareSwap p).1.flt.swapped := by
  unfold State.spareSwap
  rw [if_neg h]
  extract_lets _ f
  refine ⟨((s.withFlt_logOnly f).trans (State.count_logOnly ..)).trans (State.log_logOnly ..), State.log_spares .., ?_⟩
  rw [State.log_swapped]
  change p ∈ if s.flt.swapped.contains p then s.flt.swapped else s.flt.swapped ++ [p]
  split
  · next hc => exact List.contains_iff_mem.mp hc
  · exact List.mem_append_right _ (List.mem_singleton.mpr rfl)

/-! ## The commands -/

section

variable {s : State} {h : Hdr} {r : Started} {code : BitVec 32} {u : UnitRef}

theorem Admitted.unitQuiesce (ha : Admitted s h 0x0705 (Instr.params (.unitQuiesce h code)) r)
    (hst : s.unitStatus code.toNat = none) (hu : unitRef code.toNat = some u) :
    exec (.unitQuiesce h code) s =
      .next (if s.svcOf u.code == .quiesced then s.finish r 0 else (s.begin r).quiesceOnce u) := by
  change Host.Outcome.next (s.command h 0x0705 (Instr.params (.unitQuiesce h code)) _) = _
  rw [ha.command]
  simp only [hst, hu]

theorem Admitted.unitReset (ha : Admitted s h 0x0706 (Instr.params (.unitReset h code)) r)
    (hst : s.unitStatus code.toNat = none) (hu : unitRef code.toNat = some u) :
    exec (.unitReset h code) s =
      .next (if s.svcOf u.code == .quiesced then s.resetByCommand r u else (s.begin r).quiesceOnce u) := by
  change Host.Outcome.next (s.command h 0x0706 (Instr.params (.unitReset h code)) _) = _
  rw [ha.command]
  simp only [hst, hu]

theorem Admitted.unitResume (ha : Admitted s h 0x0707 (Instr.params (.unitResume h code)) r)
    (hst : s.unitStatus code.toNat = none) (hu : unitRef code.toNat = some u) :
    exec (.unitResume h code) s = .next ((s.unitResume u).finish r 0) := by
  change Host.Outcome.next (s.command h 0x0707 (Instr.params (.unitResume h code)) _) = _
  rw [ha.command]
  simp only [hst, hu]

/-- A unit code that names nothing of its kind. -/
theorem State.unitStatus_bad (s : State) {n : Nat} (hbad : 4 < n % 16 ∨ 2 ^ 21 ≤ n ∨ (n % 16 = 0 ∧ 4 < n / 16 % 8)) :
    s.unitStatus n = some 0x0801 := if_pos (by simpa [or_assoc] using hbad)

theorem Admitted.unitQuiesce_bad (ha : Admitted s h 0x0705 (Instr.params (.unitQuiesce h code)) r)
    (hst : s.unitStatus code.toNat = some 0x0801) : exec (.unitQuiesce h code) s = .next (s.finish r 0x0801) := by
  change Host.Outcome.next (s.command h 0x0705 (Instr.params (.unitQuiesce h code)) _) = _
  rw [ha.command]
  simp only [hst]

theorem Admitted.unitReset_bad (ha : Admitted s h 0x0706 (Instr.params (.unitReset h code)) r)
    (hst : s.unitStatus code.toNat = some 0x0801) : exec (.unitReset h code) s = .next (s.finish r 0x0801) := by
  change Host.Outcome.next (s.command h 0x0706 (Instr.params (.unitReset h code)) _) = _
  rw [ha.command]
  simp only [hst]

theorem Admitted.unitResume_bad (ha : Admitted s h 0x0707 (Instr.params (.unitResume h code)) r)
    (hst : s.unitStatus code.toNat = some 0x0801) : exec (.unitResume h code) s = .next (s.finish r 0x0801) := by
  change Host.Outcome.next (s.command h 0x0707 (Instr.params (.unitResume h code)) _) = _
  rw [ha.command]
  simp only [hst]

theorem Admitted.spareSwap {path : BitVec 24} {p : Nat} (ha : Admitted s h 0x0708 (Instr.params (.spareSwap h path)) r)
    (hlt : path.toNat < 2 ^ 17) (h0 : path.toNat % 8 = 0) (hp : pathUnit path.toNat = some p) :
    exec (.spareSwap h path) s = .next ((s.spareSwap p).1.finish r (s.spareSwap p).2) := by
  change Host.Outcome.next (s.command h 0x0708 (Instr.params (.spareSwap h path)) _) = _
  rw [ha.command]
  rw [if_neg (by simp [h0]; omega), hp]

theorem exec_quiesceAcceptedDone (hu : unitRef code.toNat = some u) : exec (.quiesceAcceptedDone code) s =
    if s.svcOf u.code == .quiescing && s.acceptedDone u then .next (s.quiesceEnds u) else .next s := by
  change execQuiesceAcceptedDone code s = _
  unfold execQuiesceAcceptedDone
  rw [hu]

theorem exec_quiesceBoundExpiry (hu : unitRef code.toNat = some u) : exec (.quiesceBoundExpiry code) s =
    if s.svcOf u.code == .quiescing then .next ((s.quiesceDrops u).quiesceEnds u) else .next s := by
  change execQuiesceBoundExpiry code s = _
  unfold execQuiesceBoundExpiry
  rw [hu]

/-- A unit in service begins to quiesce. -/
theorem State.begin_quiesceOnce (hs : s.svcOf u.code = .inService) : (s.begin r).quiesceOnce u = (s.begin r).quiesceBegin u :=
  if_pos (beq_iff_eq.mpr hs)

theorem State.resetByCommand_unit (s : State) (r : Started) (v : Nat) : s.resetByCommand r (.unit v) =
    (s.unitReset (.unit v)).finish r 0 (toLE 2 ((s.unitReset (.unit v)).epochOf (codeUnit v))) := rfl

theorem State.quiesceBegin_slice (s : State) (n : Nat) : (s.quiesceBegin (.slice n)).svcOf (codeSlice n) = .quiescing ∧
    LogOnly s (s.quiesceBegin (.slice n)) :=
  ⟨((Core.log (kp := false) (.refl _)).svcOf _).trans (State.svcOf_setSvc ..), (s.withFlt_logOnly _).trans (State.log_logOnly ..)⟩

end

end Sys2Proof.Machine

section

open Sys2Proof Sys2Proof.Machine

/-- Settles O55: a quiesce ends in `State.quiesceEnd` after `State.quiesceDrops`, and the resets leave `UnitWasReset`. -/
theorem unitService : Obligations.UnitService := by
  unfold Obligations.UnitService
  refine ⟨fun s h code u r hu hst => ⟨?_, ?_, ?_, ?_, ?_, ?_⟩, fun s h code r hbad => ?_, fun s code u hu hfree => ?_,
    fun s h path p r ha hlt h0 hp => ?_⟩
  · exact fun ha hs => by rw [ha.unitQuiesce hst hu, hs]; rfl
  · exact fun ha hs => by rw [ha.unitQuiesce hst hu, hs, if_neg (by decide), State.begin_quiesceOnce hs]
  · rintro n ha rfl hs
    have hrun := ha.unitQuiesce hst hu
    rw [hs, if_neg (by decide), State.begin_quiesceOnce hs] at hrun
    obtain ⟨hsvc, hlog⟩ := (s.begin r).quiesceBegin_slice n
    exact ⟨_, hrun, hsvc, hlog.eng, by rw [hlog]; rfl, hlog.mem⟩
  · exact fun ha hs => by rw [ha.unitReset hst hu, hs, if_neg (by decide), State.begin_quiesceOnce hs]
  · rintro v ha rfl hs
    have hrun := ha.unitReset hst hu
    rw [hs, if_pos (by decide), State.resetByCommand_unit] at hrun
    have hr := s.unitReset_wasReset v
    generalize s.unitReset (.unit v) = x at hr hrun
    have hfin : Core x (x.finish r 0 (toLE 2 (x.epochOf (codeUnit v)))) := .finish (.refl x)
    refine ⟨_, hrun, (hfin.svcOf _).trans hr.service, (hfin.epochOf _).trans hr.epoch, fun hres p j hp hj => ?_⟩
    rw [(State.finish_logOnly ..).mem]
    exact hr.fieldbooks hres p j hp hj
  · rintro v ha rfl hs
    rw [ha.unitResume hst hu]
    unfold State.unitResume
    rw [hs]
  · have hst := s.unitStatus_bad hbad
    exact ⟨fun ha => ha.unitQuiesce_bad hst, fun ha => ha.unitReset_bad hst, fun ha => ha.unitResume_bad hst⟩
  · have hq : s.svcOf u.code = .quiescing → (s.svcOf u.code == .quiescing) = true := beq_iff_eq.mpr
    have hdone := exec_quiesceAcceptedDone (s := s) hu
    have hbound := exec_quiesceBoundExpiry (s := s) hu
    refine ⟨fun hs => ?_, fun hs ha => ?_, fun hs ha => ?_, ?_, ?_⟩
    · have hn : (s.svcOf u.code == .quiescing) = false := beq_eq_false_iff_ne.mpr hs
      exact ⟨by rw [hdone, hn]; rfl, by rw [hbound, hn]; rfl⟩
    · rw [hdone, ha, Bool.and_false]
      rfl
    · obtain ⟨hsvc, heng, hmem, -, -⟩ := s.quiesceEnd_frame u
      rw [hdone, hq hs, ha, State.quiesceEnds_unwaited hfree rfl]
      exact ⟨rfl, hsvc, heng, hmem⟩
    · rintro v rfl hs
      obtain ⟨hmem, hst⟩ := State.tripAll_keeps (s.unsettled v) s
      rw [hq hs, if_pos rfl, State.quiesceDrops_unit, State.quiesceEnds_unwaited hfree hst] at hbound
      obtain ⟨hsvc, heng, hmem', -, -⟩ := State.quiesceEnd_frame ((s.unsettled v).foldl (fun s kv => s.tripBoth kv.1) s) (.unit v)
      refine ⟨_, hbound, hsvc, hmem'.trans hmem, fun ha => ?_, fun k hk hw => ?_⟩
      · rw [heng, State.unsettled_done ha]
        rfl
      · rw [State.engOf_congr heng]
        exact State.tripAll_settled _ s k (State.unsettled_mem hk hw)
    · rintro n rfl hs
      obtain ⟨hmem, hst⟩ := s.dropRequests_keeps (.slice n) false
      have hdrop : s.quiesceDrops (.slice n) = s.dropRequests (.slice n) false := rfl
      rw [hq hs, if_pos rfl, hdrop, State.quiesceEnds_unwaited hfree hst] at hbound
      obtain ⟨hsvc, -, hmem', hsl, -⟩ := (s.dropRequests (.slice n) false).quiesceEnd_frame (.slice n)
      refine ⟨_, hbound, hsvc, fun k q hk => ?_, hmem'.trans hmem⟩
      unfold State.slice at hk
      rw [hsl] at hk
      exact State.dropRequests_slice hk
  · have hrun := ha.spareSwap hlt h0 hp
    refine ⟨fun hl => ?_, fun hl => ?_⟩
    · obtain ⟨hlog, hsp, hsw⟩ := State.spareSwap_spare hl
      have hfin := State.finish_eventOnly (s.spareSwap p).1 r (s.spareSwap p).2 []
      exact ⟨_, hrun, by rw [hfin.flt, hsp], by rw [hfin.flt]; exact hsw, hfin.eng.trans hlog.eng, hfin.mem.trans hlog.mem⟩
    · rw [State.spareSwap_none hl] at hrun
      have hfin : Core s.flagDevice (s.flagDevice.finish r (s.spareSwap p).2) := .finish (.refl _)
      exact ⟨_, hrun, hfin.flagged.trans s.flagDevice_marks.1, hfin.drained.trans s.flagDevice_marks.2⟩

end

namespace Sys2Proof.Machine

/-! # The security commands (O56) -/

theorem EventOnly.sec {s t : State} (h : EventOnly s t) : t.sec = s.sec := by rw [h]

theorem EventOnly.dbgOpen {s t : State} (h : EventOnly s t) : t.dbgOpen = s.dbgOpen := by rw [h]

/-! ## The reports -/

/-- A field of a byte string that is cut, or padded, behind it. -/
theorem leAt_bytesAt_of_le {bs : List Byte} {off len n : Nat} (h : off + len ≤ bs.length) (hn : off + len ≤ n) :
    leAt (bytesAt bs 0 n) off len = leAt bs off len := by
  have hlen : len ≤ ((bs.take n).drop off).length := by rw [List.length_drop, List.length_take]; omega
  rw [leAt, leAt, bytesAt, List.drop_zero, List.drop_append_of_le_length (by rw [List.length_take]; omega),
    List.take_append_of_le_length hlen, List.drop_take, List.take_take, Nat.min_eq_left (by omega)]

/-- The field that follows `pre` in a record of `n` bytes. -/
theorem leAt_record (pre post : List Byte) {len n : Nat} (v : Nat) (h : pre.length + len ≤ n) :
    leAt (bytesAt (pre ++ (toLE len v ++ post)) 0 n) pre.length len = v % 256 ^ len := by
  rw [leAt_bytesAt_of_le _ h, leAt_append]
  simp only [List.length_append, toLE_length]
  omega

/-- FLAGS of an attestation report. -/
def State.attestFlags (s : State) : Nat :=
  b2n s.dbgOpen + 2 * b2n s.flt.drained + 4 * b2n s.flt.flagged + 8 * b2n s.sec.tapOpen

theorem State.attestFlags_bits (s : State) :
    (s.attestFlags % 256 ^ 2).testBit 0 = s.dbgOpen ∧ (s.attestFlags % 256 ^ 2).testBit 1 = s.flt.drained := by
  unfold State.attestFlags
  generalize s.dbgOpen = a, s.flt.drained = b, s.flt.flagged = c, s.sec.tapOpen = d
  revert a b c d
  decide

theorem State.attestBody_magic (s : State) (nonce : BitVec 256) : leAt (s.attestBody nonce) 0 4 = 0x54414C47 := by
  unfold State.attestBody
  simp only [List.append_assoc]
  exact leAt_record [] _ _ (by decide)

theorem State.attestBody_flags (s : State) (nonce : BitVec 256) :
    leAt (s.attestBody nonce) 6 2 = s.attestFlags % 256 ^ 2 := by
  unfold State.attestBody
  simp only [List.append_assoc]
  exact leAt_record (toLE 4 0x54414C47 ++ toLE 2 1) _ _ (by decide)

theorem State.attestBody_nonce (s : State) (nonce : BitVec 256) : leAt (s.attestBody nonce) 24 32 = nonce.toNat := by
  have hpre : (toLE 4 0x54414C47 ++ toLE 2 1 ++ toLE 2 s.attestFlags ++ toLE 8 Config.serial.toNat ++ toLE 3 s.station ++
      toLE 1 0 ++ toLE 4 s.fstate).length = 24 := by simp only [List.length_append, toLE_length]
  have hrec := leAt_record _ (slhPub s.sec.atk ++ (s.sec.arbs.flatMap (toLE 4) ++
    (((List.range 16).flatMap fun k => toLE 4 (if k < 7 then s.activeVersion k else 0)) ++
      ((List.range 16).flatMap fun k => toLE 32 (if k < 7 then s.activeDigest k else 0))))) (len := 32) (n := 768) nonce.toNat
    (by rw [hpre]; decide)
  have hlt : nonce.toNat < 256 ^ 32 := nonce.isLt
  rw [hpre, Nat.mod_eq_of_lt hlt] at hrec
  refine Eq.trans ?_ hrec
  unfold State.attestBody State.attestFlags
  simp only [List.append_assoc]

theorem State.identityBody_magic (s : State) : leAt s.identityBody 0 4 = 0x44494C47 := by
  unfold State.identityBody
  simp only [List.append_assoc]
  exact leAt_record [] _ _ (by decide)

/-! ## The copies of a class and its anti-rollback counter -/

theorem Sec.swapCopies_active (x : Sec) (cls j : Nat) :
    Map.find (x.swapCopies cls).active j = if j = cls then Map.find x.inactive cls else Map.find x.active j := by
  unfold Sec.swapCopies
  dsimp only
  by_cases hj : j = cls
  · subst hj
    cases Map.find x.inactive j <;> simp [Map.find_del]
  · cases Map.find x.inactive cls <;> simp [hj, Map.find_del, Map.find_put_ne]

theorem Sec.swapCopies_inactive (x : Sec) (cls j : Nat) :
    Map.find (x.swapCopies cls).inactive j = if j = cls then Map.find x.active cls else Map.find x.inactive j := by
  unfold Sec.swapCopies
  dsimp only
  by_cases hj : j = cls
  · subst hj
    cases Map.find x.active j <;> simp [Map.find_del]
  · cases Map.find x.active cls <;> simp [hj, Map.find_del, Map.find_put_ne]

theorem Sec.install_active (x : Sec) (cls : Nat) (i : Image) (j : Nat) :
    Map.find (x.install cls i).active j = if j = cls then some i else Map.find x.active j := by
  unfold Sec.install
  rw [Sec.swapCopies_active, Map.find_put]

theorem Sec.install_inactive (x : Sec) (cls : Nat) (i : Image) :
    Map.find (x.install cls i).inactive cls = Map.find x.active cls := by
  unfold Sec.install
  rw [Sec.swapCopies_inactive, if_pos rfl]

/-- The counter of a class after its advance, with the copies and the other counters as they were. -/
theorem State.advanceArb_sec {s : State} {cls : Nat} {i : Image} (hf : Map.find s.sec.active cls = some i) :
    (s.advanceArb cls).sec.active = s.sec.active ∧ (s.advanceArb cls).sec.inactive = s.sec.inactive ∧
      ∀ j, (s.advanceArb cls).arb j = if j = cls then max (s.arb cls) i.svn else s.arb j := by
  unfold State.advanceArb
  rw [hf]
  exact ⟨rfl, rfl, fun j => Map.getD_putD ..⟩

/-! ## The reset of a slice -/

/-- A reset of a slice raises its epoch and returns it to service; nothing of the security unit changes. -/
theorem State.unitReset_slice (s : State) (n : Nat) : (s.unitReset (.slice n)).sec = s.sec ∧
    (s.unitReset (.slice n)).svcOf (codeSlice n) = .inService ∧
    (s.unitReset (.slice n)).epochOf (codeSlice n) = (s.epochOf (codeSlice n) + 1) % 65536 := by
  have hrun : s.unitReset (.slice n) =
      ((((((s.bumpEpoch (codeSlice n)).count (ctrDev 45)).log 0x0031 0 2 (codeSlice n) 0 0xFFFFFFFF).dropRequests (.slice n)
        true).invalidate fun a => sliceOf a == n).colsFail
        ((((s.bumpEpoch (codeSlice n)).count (ctrDev 45)).log 0x0031 0 2 (codeSlice n) 0 0xFFFFFFFF).colTouches (.slice n))
        0x0403).setSvc (codeSlice n) .inService := rfl
  have h1 : Core (s.bumpEpoch (codeSlice n))
      (((s.bumpEpoch (codeSlice n)).count (ctrDev 45)).log 0x0031 0 2 (codeSlice n) 0 0xFFFFFFFF) := .log (.count (.refl _))
  rw [hrun]
  generalize ((s.bumpEpoch (codeSlice n)).count (ctrDev 45)).log 0x0031 0 2 (codeSlice n) 0 0xFFFFFFFF = x at h1
  have h2 : Core (s.bumpEpoch (codeSlice n)) (((x.dropRequests (.slice n) true).invalidate fun a => sliceOf a == n).colsFail
      (x.colTouches (.slice n)) 0x0403) := .colsFail (.invalidate (.dropRequests h1))
  generalize ((x.dropRequests (.slice n) true).invalidate fun a => sliceOf a == n).colsFail (x.colTouches (.slice n)) 0x0403 = y at h2
  exact ⟨h2.sec, State.svcOf_setSvc .., (h2.epochOf _).trans (s.epochOf_bumpEpoch _)⟩

theorem unitRef_slice {code n : Nat} (h : unitRef code = some (.slice n)) : code % 16 = 2 := by
  unfold unitRef at h
  dsimp only at h
  split at h
  · split_ifs at h
    obtain ⟨_, _, hx⟩ := Option.map_eq_some_iff.mp h
    cases hx
  · split_ifs at h
    cases h
  · next hk => exact hk
  · split_ifs at h
    cases h
  · split_ifs at h
    cases h
  · cases h

/-- The slice of an activation reset with its image, or with the copy before it: its receipt is not yet written. -/
def State.renewSlice (s : State) (r : Started) (n : Nat) : State :=
  if r.items % 2 = 1 then (s.unitReset (.slice n)).unitResume (.slice n)
  else ((s.unitReset (.slice n)).unitResume (.slice n)).log 0x0033 0 2 (codeSlice n) 0 0xFFFFFFFF

theorem State.activateUnit_slice (s : State) (r : Started) (n : Nat) :
    s.activateUnit r (.slice n) = (s.renewSlice r n).activated r := rfl

theorem State.renewSlice_core (s : State) (r : Started) (n : Nat) : Core (s.unitReset (.slice n)) (s.renewSlice r n) := by
  have hres : (s.unitReset (.slice n)).unitResume (.slice n) = s.unitReset (.slice n) := by
    obtain ⟨-, hsvc, -⟩ := s.unitReset_slice n
    unfold State.unitResume
    rw [show UnitRef.code (.slice n) = codeSlice n from rfl, hsvc]
  unfold State.renewSlice
  rw [hres]
  exact .ite (.refl _) (.log (.refl _))

/-- The slice after its activation, with the security unit that the receipt then goes on from. -/
theorem State.renewSlice_keeps (s : State) (r : Started) (n : Nat) : (s.renewSlice r n).sec = s.sec ∧
    (s.renewSlice r n).svcOf (codeSlice n) = .inService ∧
    (s.renewSlice r n).epochOf (codeSlice n) = (s.epochOf (codeSlice n) + 1) % 65536 := by
  have hc := s.renewSlice_core r n
  obtain ⟨hsec, hsvc, hep⟩ := s.unitReset_slice n
  exact ⟨hc.sec.trans hsec, (hc.svcOf _).trans hsvc, (hc.epochOf _).trans hep⟩

theorem State.activated_fails {s : State} {r : Started} {cls : Nat} :
    s.activated (r.activation cls true) = ({ s with sec := s.sec.swapCopies cls }).finish (r.activation cls true) 0x0901 := by
  have hodd : (r.activation cls true).items % 2 = 1 := by change (2 * cls + 1) % 2 = 1; omega
  have hcls : (r.activation cls true).items / 2 = cls := by change (2 * cls + 1) / 2 = cls; omega
  unfold State.activated
  rw [if_pos hodd, hcls]

theorem State.activated_applies {s : State} {r : Started} {cls : Nat} :
    s.activated (r.activation cls false) = (s.advanceArb cls).finish (r.activation cls false) 0 := by
  have heven : ¬ (r.activation cls false).items % 2 = 1 := by change ¬ (2 * cls + 0) % 2 = 1; omega
  have hcls : (r.activation cls false).items / 2 = cls := by change (2 * cls + 0) / 2 = cls; omega
  unfold State.activated
  rw [if_neg heven, hcls]

theorem State.activated_flt (s : State) (r : Started) : (s.activated r).flt = s.flt := by
  have harb : (s.advanceArb (r.items / 2)).flt = s.flt := by
    unfold State.advanceArb
    split <;> rfl
  unfold State.activated
  split
  · rw [(State.finish_eventOnly ..).flt]
  · rw [(State.finish_eventOnly ..).flt, harb]

/-! ## The checks of an image -/

/-- The checks of R443 in their order, each with its status. -/
theorem State.stageStatus_cases (s : State) (cls : Nat) (b : List Byte) (ok : Bool) :
    let kslot := leAt b 6 1
    let small := s.stagedOther cls + b.length ≤ 2 ^ 26
    let signed := kslot < 4 ∧ s.sec.ikrev.testBit kslot = false ∧ sha256 (bytesAt b 64 48) = s.sec.ikh.getD kslot [] ∧
      sha256 (b.drop 16336) = bytesAt b 16 32 ∧ ok = true
    (imageHdrOk cls b = false → s.stageStatus cls b ok = some 0x0801) ∧
    (imageHdrOk cls b = true → 2 ^ 26 < s.stagedOther cls + b.length → s.stageStatus cls b ok = some 0x0207) ∧
    (imageHdrOk cls b = true → small → ¬ signed → s.stageStatus cls b ok = some 0x0901) ∧
    (imageHdrOk cls b = true → small → signed → leAt b 5 1 < s.arb cls → s.stageStatus cls b ok = some 0x0902) ∧
    (imageHdrOk cls b = true → small → signed → s.arb cls ≤ leAt b 5 1 → s.stageStatus cls b ok = none) := by
  intro kslot small signed
  have hseal : (!s.sec.sealed (imageOf b) || !ok) = true ↔ ¬ signed := by
    change (!(decide (kslot < 4) && !s.sec.ikrev.testBit kslot && sha256 (bytesAt b 64 48) == s.sec.ikh.getD kslot [] &&
      sha256 (b.drop 16336) == bytesAt b 16 32) || !ok) = true ↔ ¬ (_ ∧ _ ∧ _ ∧ _ ∧ _)
    rw [← Bool.not_and, Bool.not_eq_true']
    simp only [← Bool.not_eq_true, Bool.and_eq_true, decide_eq_true_eq, beq_iff_eq, Bool.not_eq_true', and_assoc]
  unfold State.stageStatus
  refine ⟨fun h1 => ?_, fun h1 h2 => ?_, fun h1 h2 h3 => ?_, fun h1 h2 h3 h4 => ?_, fun h1 h2 h3 h4 => ?_⟩
  · rw [h1, if_pos (by decide)]
  · rw [h1, if_neg (by decide), if_pos h2]
  · rw [h1, if_neg (by decide), if_neg (Nat.not_lt.mpr h2), if_pos (hseal.mpr h3)]
  · rw [h1, if_neg (by decide), if_neg (Nat.not_lt.mpr h2), if_neg (fun h => hseal.mp h h3), if_pos (show (imageOf b).svn < s.arb cls from h4)]
  · rw [h1, if_neg (by decide), if_neg (Nat.not_lt.mpr h2), if_neg (fun h => hseal.mp h h3),
      if_neg (show ¬ (imageOf b).svn < s.arb cls from Nat.not_lt.mpr h4)]

/-! ## The commands -/

section

variable {s : State} {h : Hdr} {r : Started}

theorem Admitted.attest {nonce : BitVec 256} {a : BitVec 64} (ha : Admitted s h 0x0801 (Instr.params (.attest h nonce a)) r) :
    exec (.attest h nonce a) s = .next ((s.hostOut r a.toNat (s.attestBody nonce ++ (List.range 35664).map
      (Config.slhSign s.sec.atk (s.attestBody nonce)))).finish r 0 (toLE 4 36432)) := by
  change Host.Outcome.next (s.command h 0x0801 (Instr.params (.attest h nonce a)) _) = _
  rw [ha.command]

theorem Admitted.identityRead {a : BitVec 64} (ha : Admitted s h 0x0802 (Instr.params (.identityRead h a)) r) :
    exec (.identityRead h a) s = .next ((s.hostOut r a.toNat (s.identityBody ++ (List.range 35664).map
      (Config.slhSign s.sec.idk s.identityBody) ++ toLE 4 (Config.chain s.dbgOpen).length ++ Config.chain s.dbgOpen)).finish r 0
        (toLE 4 (35796 + (Config.chain s.dbgOpen).length))) := by
  change Host.Outcome.next (s.command h 0x0802 (Instr.params (.identityRead h a)) _) = _
  rw [ha.command]

theorem Admitted.debugOpen {rec : List Byte} {sig : Option (List Byte)} {sigOk : Bool}
    (ha : Admitted s h 0x0803 (Instr.params (.debugOpen h rec sig sigOk)) r) :
    exec (.debugOpen h rec sig sigOk) s = .next (if !debugRecordOk rec then s.finish r 0x0801
      else if s.dbgOpen then s.finish r 0
      else if leAt rec 8 8 ≠ Config.serial.toNat || sha256 (bytesAt rec 16 48) != s.sec.dkh || s.sec.nodbg then s.finish r 0x0903
      else if sig.isNone then s.finish r 0x0771
      else if !sigOk then s.finish r 0x0903
      else s.openDebug.finish r 0) := by
  change Host.Outcome.next (s.command h 0x0803 (Instr.params (.debugOpen h rec sig sigOk)) _) = _
  rw [ha.command]

/-- The end of IMAGE_STAGE of a class of R441 (R443). -/
def State.stageImage (s : State) (r : Started) (cls : Nat) (img : Option (List Byte)) (ok : Bool) : State :=
  if s.sec.noimg then s.finish r 0x0301
  else match img with
    | none => s.finish r 0x0771
    | some b => match s.stageStatus cls b ok with
      | some st => s.finish r st
      | none => ({ s with sec := { s.sec with staged := Map.put s.sec.staged cls (imageOf b) } }).finish r 0

theorem Admitted.imageStage {cls : Byte} {a : BitVec 64} {len : BitVec 32} {img : Option (List Byte)} {ok : Bool}
    (ha : Admitted s h 0x0A01 (Instr.params (.imageStage h cls a len img ok)) r) (hc : cls.toNat ≤ 6) :
    exec (.imageStage h cls a len img ok) s = .next (s.stageImage r cls.toNat img ok) := by
  change Host.Outcome.next (s.command h 0x0A01 (Instr.params (.imageStage h cls a len img ok)) _) = _
  rw [ha.command]
  dsimp only
  rw [if_neg (Nat.not_lt.mpr hc)]
  rfl

/-- IMAGE_ACTIVATE of the policy class, which has no unit. -/
theorem Admitted.imageActivate_policy {code : BitVec 32} {ap : Bool}
    (ha : Admitted s h 0x0A02 (Instr.params (.imageActivate h 5 code ap)) r) (hn : s.sec.noimg = false) :
    exec (.imageActivate h 5 code ap) s = .next (match Map.find s.sec.staged 5 with
      | none => s.finish r 0x0801
      | some i => if i.svn < s.arb 5 then s.finish r 0x0902
        else (State.advanceArb { s with sec := s.sec.install 5 i } 5).finish r 0) := by
  change Host.Outcome.next (s.command h 0x0A02 (Instr.params (.imageActivate h 5 code ap)) _) = _
  rw [ha.command, show (5 : Byte).toNat = 5 from rfl, if_neg (by simp), hn]
  cases Map.find s.sec.staged 5 <;> rfl

/-- IMAGE_ACTIVATE of the slice class on a quiesced slice. -/
theorem Admitted.imageActivate_slice {code : BitVec 32} {ap : Bool} {i : Image} {n : Nat}
    (ha : Admitted s h 0x0A02 (Instr.params (.imageActivate h 3 code ap)) r) (hn : s.sec.noimg = false)
    (hi : Map.find s.sec.staged 3 = some i) (harb : s.arb 3 ≤ i.svn) (hu : unitRef code.toNat = some (.slice n))
    (hst : s.unitStatus code.toNat = none) (hq : s.svcOf (codeSlice n) = .quiesced) :
    exec (.imageActivate h 3 code ap) s = .next ((State.renewSlice
      (({ s with sec := s.sec.install 3 i } : State).putStarted r (r.activation 3 (!ap))) (r.activation 3 (!ap)) n).activated
        (r.activation 3 (!ap))) := by
  have hkind := unitRef_slice hu
  change Host.Outcome.next (s.command h 0x0A02 (Instr.params (.imageActivate h 3 code ap)) _) = _
  rw [ha.command]
  have h3 : (3 : Byte).toNat = 3 := rfl
  simp only [h3, hkind, hn, hi, hst, hu]
  rw [if_neg (by decide), if_neg (by decide), if_pos (by decide)]
  dsimp only
  rw [if_neg (Nat.not_lt.mpr harb), if_pos (by decide)]
  unfold State.activate
  dsimp only
  rw [show State.svcOf { s with sec := s.sec.install 3 i } (UnitRef.code (.slice n)) = .quiesced from hq, if_pos (by decide),
    State.activateUnit_slice]

theorem Admitted.imageQuery {cls : Byte} (ha : Admitted s h 0x0A03 (Instr.params (.imageQuery h cls)) r) (hc : cls.toNat ≤ 6) :
    exec (.imageQuery h cls) s = .next (s.finish r 0 (toLE 4 (s.activeVersion cls.toNat) ++ toLE 4 (s.arb cls.toNat))) := by
  change Host.Outcome.next (s.command h 0x0A03 (Instr.params (.imageQuery h cls)) _) = _
  rw [ha.command, if_neg (Nat.not_lt.mpr hc)]

end

end Sys2Proof.Machine

section

open Sys2Proof Sys2Proof.Machine

/-- Settles O56: each command's answer, the images by the laws of the two copies of a class, and the slice's own image by its
reset, which leaves the security unit alone. -/
theorem securityCommands : Obligations.SecurityCommands := by
  unfold Obligations.SecurityCommands
  refine ⟨fun s h nonce a r ha => ?_, fun s h a r ha => ?_, fun s h rec sig sigOk r ha => ?_,
    fun s h cls a len img ok r ha hc => ?_, fun s h code ap r ha hn => ?_, fun s h code ap r i n ha hn hi harb hu hst hq => ?_,
    fun s h cls r ha hc => ha.imageQuery hc⟩
  · intro body
    refine ⟨ha.attest, bytesAt_length .., s.attestBody_magic nonce, s.attestBody_nonce nonce, ?_, ?_⟩
    · rw [s.attestBody_flags]
      exact s.attestFlags_bits.1
    · rw [s.attestBody_flags]
      exact s.attestFlags_bits.2
  · intro body chain
    exact ⟨ha.identityRead, bytesAt_length .., s.identityBody_magic⟩
  · intro run mine
    have hrun : run = _ := ha.debugOpen
    have hmine : (decide (leAt rec 8 8 ≠ Config.serial.toNat) || sha256 (bytesAt rec 16 48) != s.sec.dkh || s.sec.nodbg) = true ↔
        ¬ mine := by
      change _ ↔ ¬ (_ ∧ _ ∧ _)
      simp only [Bool.or_eq_true, decide_eq_true_eq, bne_iff_ne, ne_eq, not_and_or, Bool.not_eq_false, or_assoc]
    refine ⟨fun h1 => ?_, fun h1 h2 => ?_, fun h1 h2 h3 => ?_, fun h1 h2 h3 h4 => ?_, fun h1 h2 h3 h4 h5 => ?_,
      fun h1 h2 h3 h4 h5 => ?_⟩
    · rw [hrun, h1, if_pos (by decide)]
    · rw [hrun, h1, h2, if_neg (by decide), if_pos rfl]
    · rw [hrun, h1, h2, if_neg (by decide), if_neg (by decide), if_pos (hmine.mpr h3)]
    · rw [hrun, h1, h2, if_neg (by decide), if_neg (by decide), if_neg (fun hx => hmine.mp hx h3), h4, if_pos (by decide)]
    · rw [hrun, h1, h2, if_neg (by decide), if_neg (by decide), if_neg (fun hx => hmine.mp hx h3),
        Option.isNone_eq_false_iff.mpr h4, if_neg (by decide), h5, if_pos (by decide)]
    · rw [h1, h2, if_neg (by decide), if_neg (by decide), if_neg (fun hx => hmine.mp hx h3),
        Option.isNone_eq_false_iff.mpr h4, if_neg (by decide), h5, if_neg (by decide)] at hrun
      have hfin := State.finish_eventOnly s.openDebug r 0 []
      exact ⟨_, hrun, hfin.dbgOpen, hfin.sec, hfin.mem⟩
  · intro run
    have hrun : run = _ := ha.imageStage hc
    unfold State.stageImage at hrun
    refine ⟨fun h1 => ?_, fun h1 h2 => ?_, fun b h1 h2 => ?_⟩
    · rw [hrun, if_pos h1]
    · rw [hrun, h1, if_neg (by decide), h2]
    · rw [h1, if_neg (by decide), h2] at hrun
      dsimp only at hrun
      intro kslot small signed
      obtain ⟨hhdr, hsmall, hsigned, hold, hgood⟩ := s.stageStatus_cases cls.toNat b ok
      refine ⟨fun g1 => ?_, fun g1 g2 => ?_, fun g1 g2 g3 => ?_, fun g1 g2 g3 g4 => ?_, fun g1 g2 g3 g4 => ?_⟩
      · rw [hrun, hhdr g1]
      · rw [hrun, hsmall g1 (Nat.lt_of_not_le g2)]
      · rw [hrun, hsigned g1 g2 g3]
      · rw [hrun, hold g1 g2 g3 g4]
      · rw [hgood g1 g2 g3 g4] at hrun
        refine ⟨_, hrun, ?_, fun j hj => ?_, ?_⟩
        · rw [(State.finish_eventOnly ..).sec]
          exact Map.find_put ..
        · rw [(State.finish_eventOnly ..).sec]
          exact Map.find_put_ne _ _ _ _ hj
        · rw [(State.finish_eventOnly ..).sec]
  · have hrun := ha.imageActivate_policy hn
    refine ⟨fun h1 => ?_, fun i h1 h2 => ?_, fun i h1 h2 => ?_⟩
    · rw [hrun, h1]
    · rw [hrun, h1]
      exact congrArg _ (if_pos h2)
    · rw [h1] at hrun
      dsimp only at hrun
      rw [if_neg (Nat.not_lt.mpr h2)] at hrun
      refine ⟨_, hrun, ?_⟩
      have hact : Map.find (s.sec.install 5 i).active 5 = some i := by rw [Sec.install_active, if_pos rfl]
      obtain ⟨hactive, hinactive, harb⟩ := State.advanceArb_sec (s := { s with sec := s.sec.install 5 i }) hact
      generalize State.advanceArb { s with sec := s.sec.install 5 i } 5 = x at hactive hinactive harb
      have hsec := (State.finish_eventOnly x r 0 []).sec
      unfold State.arb at harb ⊢
      rw [hsec, hactive, hinactive]
      exact ⟨hact, Sec.install_inactive .., (harb 5).trans (if_pos rfl), fun j hj =>
        ⟨(Sec.install_active ..).trans (if_neg hj), (harb j).trans (if_neg hj)⟩⟩
  · have hrun := ha.imageActivate_slice hn hi harb hu hst hq
    have hact : Map.find (s.sec.install 3 i).active 3 = some i := by rw [Sec.install_active, if_pos rfl]
    have hinact : Map.find (s.sec.install 3 i).inactive 3 = Map.find s.sec.active 3 := Sec.install_inactive ..
    obtain ⟨hsec, hsvc, hep⟩ := State.renewSlice_keeps
      (({ s with sec := s.sec.install 3 i } : State).putStarted r (r.activation 3 (!ap))) (r.activation 3 (!ap)) n
    generalize State.renewSlice (({ s with sec := s.sec.install 3 i } : State).putStarted r (r.activation 3 (!ap)))
      (r.activation 3 (!ap)) n = x at hrun hsec hsvc hep
    have hflt := x.activated_flt (r.activation 3 (!ap))
    refine ⟨_, hrun, ?_, ?_, fun hap => ?_, fun hap => ?_⟩
    · unfold State.svcOf at hsvc ⊢
      rw [hflt]
      exact hsvc
    · unfold State.epochOf at hep ⊢
      rw [hflt]
      exact hep
    · subst hap
      obtain ⟨hactive, hinactive, hc⟩ := State.advanceArb_sec (s := x) (cls := 3) (i := i) (by rw [hsec]; exact hact)
      rw [Bool.not_true, State.activated_applies]
      generalize x.advanceArb 3 = y at hactive hinactive hc
      unfold State.arb at hc ⊢
      rw [(State.finish_eventOnly ..).sec, hactive, hinactive, hc, hsec]
      exact ⟨hact, hinact, if_pos rfl⟩
    · subst hap
      rw [Bool.not_false, State.activated_fails]
      unfold State.arb
      rw [(State.finish_eventOnly ..).sec]
      dsimp only
      rw [hsec]
      refine ⟨fun j => ?_, ?_, rfl⟩
      · rw [Sec.swapCopies_active]
        split
        · next hj => rw [hj]; exact hinact
        · next hj => exact (Sec.install_active ..).trans (if_neg hj)
      · exact (Sec.swapCopies_inactive ..).trans ((if_pos rfl).trans hact)

end

namespace Sys2Proof.Machine

/-! # A cold reset (R45, R199, R382, R446, R453, R464)

Its tests run on a device without work, so that a drain among them does no more than to log; what they find stays found. -/

/-! ## What the tests keep -/

theorem Spared.svc {base s : State} (h : Spared base s) : s.flt.svc = base.flt.svc := congrArg Kept.svc h.fixed
theorem Spared.ready {base s : State} (h : Spared base s) : s.mod.ready = base.mod.ready := congrArg Kept.ready h.fixed
theorem Spared.fwrun {base s : State} (h : Spared base s) : s.cmd.fwrun = base.cmd.fwrun := congrArg Kept.fwrun h.fixed

theorem State.Bare.flagDevice {s : State} (h : s.Bare) : LinkOnly s s.flagDevice := by
  unfold State.flagDevice
  split
  · exact h.drainDevice.linkOnly
  · have hlog := ((s.withFlt_logOnly { s.flt with flagged := true }).trans (State.log_logOnly _ 0x0073 0 4 0xFFFFFFFF 0 0 [])).linkOnly
    exact hlog.trans (h.of_linkOnly hlog).drainDevice.linkOnly

/-- What the tests of a cold reset have found by `s` stays found: units held in reset, stacks FAILED, the marks of the device. -/
structure Tested (base s : State) : Prop where
  bare : s.Bare
  disabled : ∀ k, base.svcOf k = .disabled → s.svcOf k = .disabled
  failed : ∀ n, (base.stack n).st = 3 → (s.stack n).st = 3
  flagged : base.flt.flagged = true → s.flt.flagged = true
  drained : base.flt.drained = true → s.flt.drained = true

namespace Tested

variable {base s t : State}

theorem refl (h : s.Bare) : Tested s s := ⟨h, fun _ => id, fun _ => id, id, id⟩

theorem trans (g : Tested s t) (h : Tested base s) : Tested base t :=
  ⟨g.bare, fun k => g.disabled k ∘ h.disabled k, fun n => g.failed n ∘ h.failed n, g.flagged ∘ h.flagged, g.drained ∘ h.drained⟩

/-- A step that leaves the work and the units alone. -/
theorem spared (h : Tested base s) (hl : LinkOnly s t) (hs : Spared s t) : Tested base t := by
  have hstack : ∀ n, t.stack n = s.stack n := fun n => by rw [hl]; rfl
  have hsvc : ∀ k, t.svcOf k = s.svcOf k := fun k => congrArg (fun m : Map Svc => Map.getD m k Svc.inService) hs.svc
  exact ⟨h.bare.of_linkOnly hl, fun k hk => (hsvc k).trans (h.disabled k hk), fun n hn => by rw [hstack]; exact h.failed n hn,
    fun hf => hs.flagged (h.flagged hf), fun hd => hs.drained (h.drained hd)⟩

theorem log {kind status sev unit addr req : Nat} {d : List Byte} (h : Tested base s) :
    Tested base (s.log kind status sev unit addr req d) :=
  h.spared (State.log_logOnly ..).linkOnly (Core.log (.refl s)).spared

theorem flagDevice (h : Tested base s) : Tested base s.flagDevice := h.spared h.bare.flagDevice (.flagDevice (.refl s))

theorem drainDevice (h : Tested base s) : Tested base s.drainDevice := h.spared h.bare.drainDevice.linkOnly (.drainDevice (.refl s))

theorem detect {p : Nat} (h : Tested base s) : Tested base (s.detect p) :=
  h.spared (s.detect_linkOnly p) (Core.detect (.refl s)).spared

theorem foldl {α : Type} {f : State → α → State} (hf : ∀ {s x}, Tested base s → Tested base (f s x)) (l : List α)
    (h : Tested base s) : Tested base (l.foldl f s) := by
  induction l generalizing s with
  | nil => exact h
  | cons x l ih => exact ih (hf h)

end Tested

/-- What a step of a fold brings about stays so where every later step keeps it. -/
theorem State.foldl_reaches {α : Type} {f : State → α → State} {I P : State → Prop} {x : α} (hI : ∀ {s y}, I s → I (f s y))
    (hx : ∀ {s}, I s → P (f s x)) (hP : ∀ {s y}, I s → P s → P (f s y)) {l : List α} (hl : x ∈ l) {s : State} (hs : I s) :
    P (l.foldl f s) := by
  have hkeep : ∀ (l : List α) (s : State), I s → P s → P (l.foldl f s) := by
    intro l
    induction l with
    | nil => exact fun _ _ hp => hp
    | cons y l ih => exact fun s hi hp => ih _ (hI hi) (hP hi hp)
  induction l generalizing s with
  | nil => exact absurd hl List.not_mem_nil
  | cons y l ih =>
    rcases List.mem_cons.mp hl with rfl | h
    · exact hkeep l _ (hI hs) (hx hs)
    · exact ih h (hI hs)

/-- Where the model names the members of a list of `Fin n` by their numbers. -/
theorem mem_numbers {n : Nat} {l : List (Fin n)} {x : Fin n} (h : x ∈ l) : x.val ∈ (do let a ← l; pure a.val : List Nat) :=
  List.mem_flatMap.mpr ⟨x, h, List.mem_singleton.mpr rfl⟩

/-! ## The firmware and the images -/

/-- The security unit, READY and the firmware are as they were. -/
structure SameFirmware (s t : State) : Prop where
  sec : t.sec = s.sec
  ready : t.mod.ready = s.mod.ready
  fwrun : t.cmd.fwrun = s.cmd.fwrun

namespace SameFirmware

variable {s t u : State}

theorem refl (s : State) : SameFirmware s s := ⟨rfl, rfl, rfl⟩

theorem trans (g : SameFirmware t u) (h : SameFirmware s t) : SameFirmware s u :=
  ⟨g.sec.trans h.sec, g.ready.trans h.ready, g.fwrun.trans h.fwrun⟩

theorem spared (h : Spared s t) : SameFirmware s t := ⟨h.sec, h.ready, h.fwrun⟩

theorem foldl {α : Type} {f : State → α → State} (hf : ∀ s x, SameFirmware s (f s x)) (l : List α) (s : State) :
    SameFirmware s (l.foldl f s) := by
  induction l generalizing s with
  | nil => exact refl s
  | cons x l ih => exact (ih _).trans (hf s x)

end SameFirmware

/-! ## The tables and the stacks -/

theorem State.holdUnit_firmware (s : State) (k : Nat) : SameFirmware s (s.holdUnit k) := ⟨rfl, rfl, rfl⟩

theorem Tested.holdUnit {base s : State} {k : Nat} (h : Tested base s) : Tested base (s.holdUnit k) := by
  have hb := h.bare
  refine ⟨⟨hb.eng, hb.ctxs, hb.acts, hb.closures, hb.stracts, hb.cols, hb.bnd, hb.waits⟩, fun j hj => ?_, h.failed, h.flagged,
    h.drained⟩
  unfold State.holdUnit
  by_cases hjk : j = k
  · rw [hjk, State.svcOf_setSvc]
  · rw [State.svcOf_setSvc_ne _ _ hjk]
    exact h.disabled j hj

theorem State.log_spared (s : State) (kind status sev unit addr req : Nat) (d : List Byte) :
    Spared s (s.log kind status sev unit addr req d) := (Core.log (.refl s)).spared

theorem State.bootFault_firmware (s : State) (k : Nat) : SameFirmware s (s.bootFault k) := .spared (s.log_spared ..)

theorem State.spareSwap_spared (s : State) (p : Nat) : Spared s (s.spareSwap p).1 := by
  by_cases h : s.sparesLeft p = 0
  · rw [State.spareSwap_none h]
    exact .flagDevice (.refl s)
  · unfold State.spareSwap
    rw [if_neg h]
    extract_lets _ f
    have h1 : Core s ({ s with flt := f } : State) := .upd (.refl s) rfl
    exact (Core.log (.count (k := ctrDev 47) h1)).spared

theorem Tested.spareSwap {base s : State} {p : Nat} (h : Tested base s) : Tested base (s.spareSwap p).1 := by
  refine h.spared ?_ (s.spareSwap_spared p)
  by_cases hp : s.sparesLeft p = 0
  · rw [State.spareSwap_none hp]
    exact h.bare.flagDevice
  · obtain ⟨hlog, -⟩ := State.spareSwap_spare hp
    exact hlog.linkOnly

theorem Tested.bootTables {base s : State} {b : Boot} (h : Tested base s) : Tested base (s.bootTables b) :=
  .foldl (fun h => .holdUnit (.log h)) _ (.foldl (fun h => .holdUnit (.log h)) _ (.foldl (fun h => .spareSwap (.log h)) _ h))

theorem State.bootTables_firmware (s : State) (b : Boot) : SameFirmware s (s.bootTables b) := by
  unfold State.bootTables
  refine .trans (.foldl (fun s h => (State.holdUnit_firmware _ _).trans (s.bootFault_firmware _)) _ _) ?_
  refine .trans (.foldl (fun s p => (State.holdUnit_firmware _ _).trans (s.bootFault_firmware _)) _ _) ?_
  exact .foldl (fun s p => (SameFirmware.spared (State.spareSwap_spared _ _)).trans (s.bootFault_firmware _)) _ _

/-- A vector engine or a Bindery whose copy of the table differs is held in reset. -/
theorem State.bootTables_held {s : State} {b : Boot} (hs : s.Bare) :
    (∀ x ∈ b.binderies, (s.bootTables b).svcOf (codeStack x) = .disabled) ∧
      ∀ x ∈ b.vectors, (s.bootTables b).svcOf (codeUnit x) = .disabled := by
  have hheld : ∀ {k s}, ((s : State).holdUnit k).svcOf k = .disabled := fun {k s} => State.svcOf_setSvc s k _
  have h1 : (b.parcels.foldl (fun s p => ((s.bootFault (codeUnit p)).spareSwap p).1) s).Bare :=
    (Tested.foldl (base := s) (fun h => .spareSwap (.log h)) _ (.refl hs)).bare
  unfold State.bootTables
  generalize b.parcels.foldl (fun s p => ((s.bootFault (codeUnit p)).spareSwap p).1) s = y at h1
  have h2 : (b.vectors.foldl (fun s p => (s.bootFault (codeUnit p)).holdUnit (codeUnit p)) y).Bare :=
    (Tested.foldl (base := y) (fun h => .holdUnit (.log h)) _ (.refl h1)).bare
  refine ⟨fun x hx => ?_, fun x hx => ?_⟩
  · exact State.foldl_reaches (I := State.Bare) (P := fun s => s.svcOf (codeStack x) = .disabled)
      (f := fun s h => (s.bootFault (codeStack h)).holdUnit (codeStack h))
      (fun h => (Tested.holdUnit (.log (.refl h))).bare) (fun _ => hheld)
      (fun h hp => (Tested.holdUnit (.log (.refl h))).disabled _ hp) (mem_numbers hx) h2
  · have hv := State.foldl_reaches (I := State.Bare) (P := fun s => s.svcOf (codeUnit x) = .disabled)
      (f := fun s (p : Fin 16384) => (s.bootFault (codeUnit p)).holdUnit (codeUnit p))
      (fun h => (Tested.holdUnit (.log (.refl h))).bare) (fun _ => hheld)
      (fun h hp => (Tested.holdUnit (.log (.refl h))).disabled _ hp) hx h1
    exact (Tested.foldl (base := _) (fun h => .holdUnit (.log h)) _ (.refl h2)).disabled _ hv

/-- The marks and the state of a stack that does not train. -/
theorem State.stackFails_tested {base s : State} {n : Nat} (h : Tested base s) : Tested base (s.stackFails n) ∧
    ((s.stackFails n).stack n).st = 3 ∧ (s.stackFails n).flt.flagged = true ∧ (s.stackFails n).flt.drained = true := by
  unfold State.stackFails
  have h1 : Tested base (s.setStack n { s.stack n with st := 3 }) := by
    have hb := h.bare
    refine ⟨⟨hb.eng, hb.ctxs, hb.acts, hb.closures, hb.stracts, hb.cols, hb.bnd, hb.waits⟩, h.disabled, fun j hj => ?_, h.flagged,
      h.drained⟩
    by_cases hjn : j = n
    · rw [hjn, State.stack_setStack]
    · rw [State.stack_setStack_ne _ _ hjn]
      exact h.failed j hj
  have hst : ((s.setStack n { s.stack n with st := 3 }).stack n).st = 3 := by rw [State.stack_setStack]
  generalize s.setStack n { s.stack n with st := 3 } = x at h1 hst
  exact ⟨.flagDevice (.log h1), (Tested.flagDevice (.log (.refl h1.bare))).failed n hst, State.flagDevice_marks _⟩

theorem State.stackFails_firmware (s : State) (n : Nat) : SameFirmware s (s.stackFails n) := by
  unfold State.stackFails
  have h1 : Spared s (s.setStack n { s.stack n with st := 3 }) := (Core.setStack (.refl s)).spared
  exact .spared (.flagDevice ((State.log_spared ..).trans h1))

/-! ## The images -/

/-- The active copy of a class passes. -/
def State.activeGood (s : State) (b : Boot) (cls : Nat) : Bool :=
  !(b.active.any (·.val == cls)) && !s.sec.copyStale cls (Map.find s.sec.active cls)

/-- The other copy of a class passes. -/
def State.otherGood (s : State) (b : Boot) (cls : Nat) : Bool :=
  !(b.other.any (·.val == cls)) && !s.sec.copyStale cls (Map.find s.sec.inactive cls)

/-- The units of a class are held in reset. -/
def State.holdClass (s : State) (cls : Nat) : State := (classUnits cls).foldl (fun s u => s.holdUnit u) (s.bootFault 0xFFFFFFFF)

theorem State.bootImage_eq (s : State) (b : Boot) (cls : Nat) : s.bootImage b cls =
    if s.activeGood b cls then s.firmwareRuns cls
    else if s.otherGood b cls then { s with sec := s.sec.swapCopies cls }.firmwareRuns cls
    else if cls = 0 then { s.holdClass cls with cmd := { (s.holdClass cls).cmd with fwrun := false },
                                                mod := { (s.holdClass cls).mod with ready := false } } else s.holdClass cls := rfl

theorem State.holdClass_firmware (s : State) (cls : Nat) : SameFirmware s (s.holdClass cls) :=
  .trans (.foldl (fun s u => s.holdUnit_firmware u) _ _) (s.bootFault_firmware _)

theorem Tested.holdClass {base s : State} {cls : Nat} (h : Tested base s) : Tested base (s.holdClass cls) :=
  .foldl .holdUnit _ (.log h)

/-- A step that changes nothing but the firmware's marks, the security unit and the module. -/
theorem Tested.withFirmware {base s : State} {c : CmdIf} {x : Sec} {m : Module} (h : Tested base s) :
    Tested base { s with cmd := c, sec := x, mod := m } := by
  have hb := h.bare
  exact ⟨⟨hb.eng, hb.ctxs, hb.acts, hb.closures, hb.stracts, hb.cols, hb.bnd, hb.waits⟩, h.disabled, h.failed, h.flagged, h.drained⟩

theorem Tested.firmwareRuns {base s : State} {cls : Nat} (h : Tested base s) : Tested base (s.firmwareRuns cls) := by
  unfold State.firmwareRuns
  split
  · exact h.withFirmware
  · exact h

theorem Tested.bootImage {base s : State} {b : Boot} {cls : Nat} (h : Tested base s) : Tested base (s.bootImage b cls) := by
  rw [State.bootImage_eq]
  split
  · exact .firmwareRuns h
  · split
    · exact .firmwareRuns h.withFirmware
    · split
      · exact h.holdClass.withFirmware
      · exact h.holdClass

theorem State.firmwareRuns_sec (s : State) (cls : Nat) : (s.firmwareRuns cls).sec = s.sec := by
  unfold State.firmwareRuns
  split <;> rfl

/-- A class but the firmware's leaves READY and the firmware alone. -/
theorem State.bootImage_later (s : State) (b : Boot) {cls : Nat} (h : cls ≠ 0) :
    (s.bootImage b cls).mod.ready = s.mod.ready ∧ (s.bootImage b cls).cmd.fwrun = s.cmd.fwrun := by
  have hh := s.holdClass_firmware cls
  rw [State.bootImage_eq, if_neg h]
  unfold State.firmwareRuns
  rw [if_neg h, if_neg h]
  split
  · exact ⟨rfl, rfl⟩
  · split
    · exact ⟨rfl, rfl⟩
    · exact ⟨hh.ready, hh.fwrun⟩

theorem State.bootImage_bad {s : State} {b : Boot} (ha : (0 : Fin 7) ∈ b.active) (ho : (0 : Fin 7) ∈ b.other) :
    (s.bootImage b 0).mod.ready = false ∧ (s.bootImage b 0).cmd.fwrun = false := by
  have hac : s.activeGood b 0 = false := by
    unfold State.activeGood
    rw [List.any_eq_true.mpr ⟨0, ha, rfl⟩]
    rfl
  have hot : s.otherGood b 0 = false := by
    unfold State.otherGood
    rw [List.any_eq_true.mpr ⟨0, ho, rfl⟩]
    rfl
  rw [State.bootImage_eq, hac, hot, if_neg (by decide), if_neg (by decide), if_pos rfl]
  exact ⟨rfl, rfl⟩

/-- The security unit after the check of a class. -/
theorem State.bootImage_sec (s : State) (b : Boot) (cls : Nat) : (s.bootImage b cls).sec =
    if !s.activeGood b cls && s.otherGood b cls then s.sec.swapCopies cls else s.sec := by
  rw [State.bootImage_eq]
  cases s.activeGood b cls
  · cases s.otherGood b cls
    · refine Eq.trans ?_ (s.holdClass_firmware cls).sec
      by_cases h : cls = 0
      · subst h
        rfl
      · exact congrArg State.sec (if_neg h)
    · exact State.firmwareRuns_sec _ cls
  · exact State.firmwareRuns_sec _ cls

/-! ## The fall back to the other copy -/

/-- What the check of a copy reads of the fuses and counters. -/
def Sec.fuses (x : Sec) : Nat × List (List Byte) × Map Nat := (x.ikrev, x.ikh, x.arb)

theorem Sec.copyStale_of_fuses {x y : Sec} (h : x.fuses = y.fuses) (cls : Nat) (i : Option Image) :
    x.copyStale cls i = y.copyStale cls i := by
  obtain ⟨hr, hk, ha⟩ : x.ikrev = y.ikrev ∧ x.ikh = y.ikh ∧ x.arb = y.arb := by simpa [Sec.fuses] using h
  unfold Sec.copyStale Sec.sealed
  rw [hr, hk, ha]

theorem State.bootImage_fuses (s : State) (b : Boot) (cls : Nat) : (s.bootImage b cls).sec.fuses = s.sec.fuses := by
  rw [State.bootImage_sec]
  split <;> rfl

/-- The two copies of a class. -/
def State.copies (s : State) (k : Nat) : Option Image × Option Image := (Map.find s.sec.active k, Map.find s.sec.inactive k)

theorem State.bootImage_copies_ne (s : State) (b : Boot) {cls k : Nat} (h : k ≠ cls) :
    (s.bootImage b cls).copies k = s.copies k := by
  unfold State.copies
  rw [State.bootImage_sec]
  split
  · rw [Sec.swapCopies_active, Sec.swapCopies_inactive, if_neg h, if_neg h]
  · rfl

theorem State.bootImages_copies_ne (b : Boot) {k : Nat} {l : List Nat} (h : k ∉ l) (s : State) :
    (l.foldl (fun s k => s.bootImage b k) s).copies k = s.copies k := by
  induction l generalizing s with
  | nil => rfl
  | cons j l ih =>
    rw [List.mem_cons, not_or] at h
    exact (ih h.2 _).trans (s.bootImage_copies_ne b h.1)

/-- The active copy of a class fails, and the other is good. -/
structure State.FallsBack (s : State) (b : Boot) (k : Fin 7) : Prop where
  active : k ∈ b.active
  other : k ∉ b.other
  good : s.sec.copyStale k (s.copies k).2 = false

theorem State.FallsBack.bootImage {s : State} {b : Boot} {k : Fin 7} (h : s.FallsBack b k) :
    (s.bootImage b k).copies k = (s.copies k).swap := by
  have ha : s.activeGood b k = false := by
    have hany : b.active.any (·.val == k.val) = true := List.any_eq_true.mpr ⟨k, h.active, beq_self_eq_true _⟩
    unfold State.activeGood
    rw [hany]
    rfl
  have ho : s.otherGood b k = true := by
    have hnone : b.other.any (·.val == k.val) = false := List.any_eq_false.mpr fun x hx he =>
      h.other (Fin.ext (beq_iff_eq.mp he) ▸ hx)
    unfold State.otherGood
    rw [hnone, show s.sec.copyStale k (Map.find s.sec.inactive k) = false from h.good]
    rfl
  unfold State.copies
  rw [State.bootImage_sec, ha, ho, if_pos (by decide), Sec.swapCopies_active, Sec.swapCopies_inactive, if_pos rfl, if_pos rfl]
  rfl

theorem State.FallsBack.bootImages {b : Boot} {k : Fin 7} {l : List Nat} (hl : l.Nodup) (hk : k.val ∈ l) {s : State}
    (h : s.FallsBack b k) : (l.foldl (fun s k => s.bootImage b k) s).copies k = (s.copies k).swap := by
  induction l generalizing s with
  | nil => exact absurd hk List.not_mem_nil
  | cons j l ih =>
    obtain ⟨hj, hnd⟩ := List.nodup_cons.mp hl
    by_cases hkj : k.val = j
    · rw [List.foldl_cons, State.bootImages_copies_ne b (hkj ▸ hj), ← hkj]
      exact h.bootImage
    · have hsame := s.bootImage_copies_ne b hkj
      refine (ih hnd ((List.mem_cons.mp hk).resolve_left hkj) ⟨h.active, h.other, ?_⟩).trans (congrArg Prod.swap hsame)
      rw [hsame, Sec.copyStale_of_fuses (s.bootImage_fuses b j)]
      exact h.good

/-! ## The cold reset in its steps -/

/-- The tables and the images tested. -/
def State.imagesTested (s : State) : State :=
  (List.range 7).foldl (fun s' k => s'.bootImage s.mod.boot k) ((s.cold false).bootTables s.mod.boot)

/-- The catalogue lost and the stacks trained. -/
def State.stacksTrained (s : State) : State :=
  s.mod.boot.untrained.foldl (fun s (h : Fin 12) => s.stackFails h) (s.imagesTested.catLose 0 65536)

/-- The enabled sub-ports train once the device is READY. -/
def State.linksStarted (s : State) : State :=
  if s.mod.ready then (List.range 128).foldl (fun s p => if s.present p then s.detect p else s) s else s

/-- A flagged device is drained again. -/
def State.flagDrained (s : State) : State := if s.flt.flagged then s.drainDevice else s

theorem exec_coldReset {s : State} (h : s.mod.qualifies = true) :
    exec .coldReset s = .next s.stacksTrained.linksStarted.flagDrained.bootNext := by
  change execColdReset s = _
  unfold execColdReset
  rw [if_pos h]
  rfl

theorem State.cold_bare (s : State) (held : Bool) : (s.cold held).Bare := ⟨rfl, rfl, rfl, rfl, rfl, rfl, rfl, rfl⟩

theorem State.bootTables_tested (s : State) : Tested (s.cold false) ((s.cold false).bootTables s.mod.boot) :=
  .bootTables (.refl (s.cold_bare false))

theorem State.imagesTested_tested (s : State) : Tested ((s.cold false).bootTables s.mod.boot) s.imagesTested :=
  .foldl .bootImage _ (.refl s.bootTables_tested.bare)

theorem State.catLose_spared (s : State) (a n : Nat) : Spared s (s.catLose a n) := by
  unfold State.catLose
  extract_lets es
  have h1 : Core s ({ s with cat := { s.cat with entries := es, lost := true } } : State) := .upd (.refl s) rfl
  exact (Core.log h1).spared

theorem Tested.catLose {base s : State} {a n : Nat} (h : Tested base s) : Tested base (s.catLose a n) := by
  have hb := h.bare
  have h1 : ∀ c : Cat, Tested base { s with cat := c } := fun c =>
    ⟨⟨hb.eng, hb.ctxs, hb.acts, hb.closures, hb.stracts, hb.cols, hb.bnd, hb.waits⟩, h.disabled, h.failed, h.flagged, h.drained⟩
  exact .log (h1 _)

theorem State.stacksTrained_tested (s : State) : Tested s.imagesTested s.stacksTrained :=
  .foldl (fun h => (State.stackFails_tested h).1) _ (.catLose (.refl s.imagesTested_tested.bare))

theorem State.stacksTrained_firmware (s : State) : SameFirmware s.imagesTested s.stacksTrained :=
  .trans (.foldl (f := fun s (h : Fin 12) => s.stackFails h) (fun s h => s.stackFails_firmware h) _ _) (.spared (s.imagesTested.catLose_spared 0 65536))

/-- A stack that does not train is FAILED, and the device flagged and drained. -/
theorem State.stacksTrained_failed {s : State} {x : Fin 12} (hx : x ∈ s.mod.boot.untrained) :
    (s.stacksTrained.stack x).st = 3 ∧ s.stacksTrained.flt.flagged = true ∧ s.stacksTrained.flt.drained = true :=
  State.foldl_reaches (I := State.Bare)
    (P := fun s => (s.stack x).st = 3 ∧ s.flt.flagged = true ∧ s.flt.drained = true) (f := fun s (h : Fin 12) => s.stackFails h)
    (fun h => (State.stackFails_tested (.refl h)).1.bare) (fun h => (State.stackFails_tested (.refl h)).2)
    (fun {s y} h hp => by
      obtain ⟨hst, hf, hd⟩ := hp
      have hk := (State.stackFails_tested (n := y.val) (.refl h)).1
      exact ⟨hk.failed x hst, hk.flagged hf, hk.drained hd⟩)
    hx (Tested.catLose (.refl s.imagesTested_tested.bare)).bare

theorem State.linksStarted_tested {s : State} (h : s.Bare) : Tested s s.linksStarted := by
  unfold State.linksStarted
  split
  · exact .foldl (fun {s p} h => by split; exacts [h.detect, h]) _ (.refl h)
  · exact .refl h

theorem State.linksStarted_spared (s : State) : Spared s s.linksStarted :=
  (Core.ite (.foldl (fun h => .ite (.detect h) h) (.refl s)) (.refl s)).spared

theorem State.flagDrained_tested {s : State} (h : s.Bare) : Tested s s.flagDrained := by
  unfold State.flagDrained
  split
  · exact .drainDevice (.refl h)
  · exact .refl h

theorem State.flagDrained_spared (s : State) : Spared s s.flagDrained := .ite (.drainDevice (.refl s)) (.refl s)

theorem State.flagDrained_drained {s : State} (h : s.flt.flagged = true) : s.flagDrained.flt.drained = true := by
  unfold State.flagDrained
  rw [if_pos h]
  exact s.drainDevice_drained

/-- What a cold reset does after its tests. -/
theorem State.coldEnd_tested (s : State) :
    Tested s.stacksTrained s.stacksTrained.linksStarted.flagDrained ∧
      SameFirmware s.imagesTested s.stacksTrained.linksStarted.flagDrained := by
  have h1 := State.linksStarted_tested s.stacksTrained_tested.bare
  refine ⟨(State.flagDrained_tested h1.bare).trans h1, ?_⟩
  exact (SameFirmware.spared ((State.flagDrained_spared _).trans (State.linksStarted_spared _))).trans s.stacksTrained_firmware

/-- With no good copy of the firmware there is no READY. -/
theorem State.imagesTested_bad {s : State} (ha : (0 : Fin 7) ∈ s.mod.boot.active) (ho : (0 : Fin 7) ∈ s.mod.boot.other) :
    s.imagesTested.mod.ready = false ∧ s.imagesTested.cmd.fwrun = false := by
  have hlater : ∀ (l : List Nat) (s' : State), (0 ∉ l) → s'.mod.ready = false ∧ s'.cmd.fwrun = false →
      (l.foldl (fun s' k => s'.bootImage s.mod.boot k) s').mod.ready = false ∧
        (l.foldl (fun s' k => s'.bootImage s.mod.boot k) s').cmd.fwrun = false := by
    intro l
    induction l with
    | nil => exact fun _ _ h => h
    | cons k l ih =>
      intro s' h0 ⟨hr, hf⟩
      rw [List.mem_cons, not_or] at h0
      obtain ⟨hr', hf'⟩ := s'.bootImage_later s.mod.boot (Ne.symm h0.1)
      exact ih _ h0.2 ⟨hr'.trans hr, hf'.trans hf⟩
  exact hlater [1, 2, 3, 4, 5, 6] _ (by decide) (State.bootImage_bad ha ho)

theorem State.imagesTested_falls {s : State} {k : Fin 7} (ha : k ∈ s.mod.boot.active) (ho : k ∉ s.mod.boot.other)
    (hg : s.sec.copyStale k (Map.find s.sec.inactive k) = false) : s.imagesTested.copies k = (s.copies k).swap := by
  have hsec := ((s.cold false).bootTables_firmware s.mod.boot).sec
  have hcop : ((s.cold false).bootTables s.mod.boot).copies k = s.copies k := by
    unfold State.copies
    rw [hsec]
    rfl
  have hfalls : ((s.cold false).bootTables s.mod.boot).FallsBack s.mod.boot k := by
    refine ⟨ha, ho, ?_⟩
    rw [hcop, Sec.copyStale_of_fuses (y := s.sec) (by rw [hsec]; rfl)]
    exact hg
  rw [← hcop]
  exact hfalls.bootImages List.nodup_range (List.mem_range.mpr k.isLt)

end Sys2Proof.Machine

namespace Sys2Proof.Machine

/-! # The cold reset of a good module (R306, R382, R453)

Its command interface is as after reset, so that the loss of the catalogue tells no host. -/

/-! ## What the log tells while no event ring is enabled -/

/-- Nothing has reached the host, and the command interface counts at most a lost event. -/
structure Untold (s t : State) : Prop where
  host : t.host = s.host
  cmd : ∃ o n, t.cmd = { s.cmd with evOvf := o, evLost := n }

theorem Untold.trans {s t u : State} (g : Untold t u) (h : Untold s t) : Untold s u := by
  obtain ⟨hh, o, n, hc⟩ := h
  obtain ⟨gh, o', n', gc⟩ := g
  exact ⟨gh.trans hh, o', n', by rw [gc, hc]⟩

theorem Untold.of_eq {s t : State} (hh : t.host = s.host) (hc : t.cmd = s.cmd) : Untold s t := ⟨hh, _, _, hc⟩

theorem State.eventRoom_disabled {s : State} (h : s.cmd.evEn = false) (k : Nat) : s.eventRoom k = false := by
  unfold State.eventRoom
  rw [h]
  rfl

theorem State.lostEvents_disabled {s : State} (h : s.cmd.evEn = false) : s.lostEvents = s := by
  unfold State.lostEvents
  rw [State.eventRoom_disabled h, Bool.and_false]
  rfl

theorem State.event_untold {s : State} (h : s.cmd.evEn = false) (k status : Nat) (result : List Byte) :
    Untold s (s.event k status result) := by
  unfold State.event
  rw [State.eventRoom_disabled h, if_neg (by decide)]
  rw [State.lostEvents_disabled]
  · exact ⟨rfl, _, _, rfl⟩
  · exact h

theorem State.fwmsg_untold (s : State) (d c : Nat) (bs : List Byte) (r : Option Started) : Untold s (s.fwmsg d c bs r) := by
  unfold State.fwmsg
  extract_lets n ack _ f s1
  have hsend := s1.sendOn_sends (s1.fwPacket d c n ack bs)
  exact .of_eq (by rw [hsend]) (by rw [hsend])

theorem State.reportOut_untold (s : State) (bs : List Byte) : Untold s (s.reportOut bs) := by
  unfold State.reportOut
  split
  · exact .of_eq rfl rfl
  · split
    · exact s.fwmsg_untold ..
    · exact .of_eq rfl rfl

theorem State.report_untold (s : State) (k sev : Nat) (bs : List Byte) : Untold s (s.report k sev bs) := by
  unfold State.report
  extract_lets sec sent _ bs' f
  split
  · exact .of_eq rfl rfl
  · obtain ⟨hh, o, n, hc⟩ := ({ s with flt := f } : State).reportOut_untold bs'
    exact ⟨hh, o, n, hc⟩

theorem State.log_untold {s : State} (h : s.cmd.evEn = false) (kind status sev unit addr req : Nat) (d : List Byte) :
    Untold s (s.log kind status sev unit addr req d) := by
  unfold State.log
  dsimp only
  split
  · exact .of_eq rfl rfl
  · unfold State.logNew
    extract_lets e _ f kept _ md
    have h1 : Untold s (({ s with flt := f, mod := md } : State).count (ctrDev 48)) := .of_eq rfl rfl
    have h2 := State.event_untold (s := ({ s with flt := f, mod := md } : State).count (ctrDev 48)) h 5 status (toLE 4 e.index)
    exact (State.report_untold ..).trans (h2.trans h1)

/-- An entry of a low severity, with none open, leaves the persistent log alone. -/
theorem State.log_plog {s : State} (h : s.flt.openIx = []) (kind status unit addr req : Nat) :
    (s.log kind status 0 unit addr req).flt.plog = s.flt.plog := by
  have hn : s.log kind status 0 unit addr req = s.logNew kind status 0 unit addr req := by simp [State.log, h]
  rw [hn]
  unfold State.logNew
  extract_lets e _ f kept _ md
  obtain ⟨_, _, _, _, _, hf⟩ := State.report_flt (k := 1) (sev := 0) (bs := e.bytes)
    (s := (State.count { s with flt := f, mod := md } (ctrDev 48)).event 5 status (toLE 4 e.index))
  rw [hf, EventOnly.refl.event.flt]
  rfl

/-! ## The training of the links -/

/-- The detection of signal changes sub-ports and counters. -/
def Detects (s t : State) : Prop := t = { s with ctr := t.ctr, ports := t.ports }

theorem Detects.foldl {f : State → Nat → State} (hf : ∀ s p, Detects s (f s p)) (l : List Nat) (s : State) :
    Detects s (l.foldl f s) := by
  induction l generalizing s with
  | nil => rfl
  | cons p l ih =>
    have h1 := hf s p
    have h2 := ih (f s p)
    unfold Detects at *
    rw [List.foldl_cons, h2, h1]

theorem State.detect_detects (s : State) (p : Nat) : Detects s (s.detect p) := by
  unfold State.detect
  dsimp only
  split_ifs <;> rfl

theorem State.linksStarted_detects (s : State) : Detects s s.linksStarted := by
  unfold State.linksStarted
  split
  · refine .foldl (fun s p => ?_) _ s
    split
    · exact s.detect_detects p
    · rfl
  · rfl

/-! ## The reset -/

/-- Every image good, and nothing else found. -/
structure State.AllGood (s : State) : Prop where
  boot : s.mod.boot = ⟨[], [], [], [], [], []⟩
  images : ∀ k, k < 7 → s.sec.copyStale k (Map.find s.sec.active k) = false

/-- The firmware runs after the tests. -/
def State.coldRunning (s : State) : State := { s.cold false with cmd := { (s.cold false).cmd with fwrun := true } }

theorem State.bootImage_good {s t : State} (h : s.AllGood) (hsec : t.sec = (s.cold false).sec) {k : Nat} (hk : k < 7) :
    t.bootImage s.mod.boot k = t.firmwareRuns k := by
  have hcopy : t.sec.copyStale k (Map.find t.sec.active k) = false := by
    rw [hsec, Sec.copyStale_of_fuses (x := (s.cold false).sec) (y := s.sec) rfl]
    exact h.images k hk
  have hgood : t.activeGood s.mod.boot k = true := by
    unfold State.activeGood
    rw [hcopy, h.boot]
    rfl
  rw [State.bootImage_eq, if_pos hgood]

theorem State.imagesTested_good {s : State} (h : s.AllGood) : s.imagesTested = s.coldRunning := by
  have hlater : ∀ (l : List Nat), (∀ k ∈ l, k < 7 ∧ k ≠ 0) →
      l.foldl (fun s' k => s'.bootImage s.mod.boot k) s.coldRunning = s.coldRunning := by
    intro l
    induction l with
    | nil => exact fun _ => rfl
    | cons k l ih =>
      intro hl
      obtain ⟨hk, h0⟩ := hl k List.mem_cons_self
      rw [List.foldl_cons, State.bootImage_good (t := s.coldRunning) h rfl hk, State.firmwareRuns, if_neg h0]
      exact ih fun j hj => hl j (List.mem_cons_of_mem _ hj)
  have htables : (s.cold false).bootTables s.mod.boot = s.cold false := by rw [h.boot]; rfl
  unfold State.imagesTested
  rw [htables, show List.range 7 = 0 :: [1, 2, 3, 4, 5, 6] from rfl, List.foldl_cons, State.bootImage_good h rfl (by decide)]
  exact hlater _ (by decide)

/-- The catalogue as a cold reset leaves it, before its entry in the log. -/
def State.coldLost (s : State) : State := { s.coldRunning with cat := { Cat.reset with lost := true } }

theorem State.stacksTrained_good {s : State} (h : s.AllGood) :
    s.stacksTrained = s.coldLost.log 0x0060 0 0 0xFFFFFFFF (shelfAddr 636 0) 0 := by
  unfold State.stacksTrained
  rw [h.boot, State.imagesTested_good h]
  rfl

/-- What a good cold reset leaves. -/
theorem State.coldReset_good {s : State} (h : s.AllGood) (hf : s.flt.flagged = false) :
    Untold s.coldLost s.stacksTrained.linksStarted ∧ LogOnly s.coldLost s.stacksTrained ∧ Core s.coldLost s.stacksTrained ∧
      s.stacksTrained.linksStarted.flagDrained = s.stacksTrained.linksStarted := by
  have hlog : LogOnly s.coldLost s.stacksTrained := by rw [State.stacksTrained_good h]; exact State.log_logOnly ..
  have hcore : Core s.coldLost s.stacksTrained := by rw [State.stacksTrained_good h]; exact .log (.refl _)
  have htold : Untold s.coldLost s.stacksTrained := by rw [State.stacksTrained_good h]; exact State.log_untold rfl ..
  have hdet := s.stacksTrained.linksStarted_detects
  unfold Detects at hdet
  refine ⟨⟨?_, ?_⟩, hlog, hcore, ?_⟩
  · rw [hdet]
    exact htold.host
  · rw [hdet]
    exact htold.cmd
  · refine if_neg (ne_true_of_eq_false ?_)
    rw [hdet]
    exact hcore.flagged.trans hf

end Sys2Proof.Machine

namespace Sys2Proof.Machine

/-! # Host resets, supplies and reference clocks (R382, R456, R462, R480) -/

/-! ## A host reset -/

/-- Nothing of the work reaches the host any more. -/
def State.hostSilent (s : State) : State :=
  { s with
    cmd := s.cmd.afterReset, sec := s.sec.sessionEnds
    ctxActs := s.ctxActs.map fun a => { a with cmd := a.cmd.map Started.hush }
    fab := { s.fab with waiting := s.fab.waiting.map fun w => { w with cmd := w.cmd.map Started.hush } } }

/-- The host's windows and scratch words cleared. -/
def State.hostCleared (s : State) : State := { s with arc := { s.arc with b2win := [] }, scratch := [0, 0, 0, 0], d3depth := false }

/-- A host reset in D0. -/
def State.hostGone (s : State) : State := s.hostSilent.hostCleared

theorem State.toD0_awake {s : State} (h : s.d3hot = false) : s.toD0 = s := by
  unfold State.toD0
  rw [h]
  rfl

theorem State.hostReset_awake {s : State} (h : s.d3hot = false) : s.hostReset = s.hostGone :=
  congrArg State.hostCleared (State.toD0_awake (s := s.hostSilent) h)

theorem State.hostGone_sub (s : State) (q : Nat) : s.hostGone.sub q = { SubRing.reset with last := (s.sub q).last } := by
  change Map.getD (Map.mapVals s.cmd.sub fun _ g => { SubRing.reset with last := g.last }) q SubRing.reset =
    { SubRing.reset with last := (Map.getD s.cmd.sub q SubRing.reset).last }
  unfold Map.getD
  rw [Map.find_mapVals]
  cases Map.find s.cmd.sub q <;> rfl

theorem State.hostGone_hushed (s : State) : s.hostGone.cmd.started.length = s.cmd.started.length ∧
    (s.hostGone.cmd.started.all (·.hushed)) = true := by
  change (s.cmd.started.map Started.hush).length = _ ∧ ((s.cmd.started.map Started.hush).all (·.hushed)) = true
  refine ⟨List.length_map .., ?_⟩
  rw [List.all_map]
  exact List.all_eq_true.mpr fun _ _ => rfl

/-! ## The 12 V input -/

theorem State.fatal_mod (s : State) (wdog : Bool) : (s.fatal wdog).mod = s.mod := by
  unfold State.fatal
  dsimp only
  split_ifs <;> rfl

theorem exec_input12v_falls {s : State} (h : s.mod.v12 = true) : exec (.input12vChange false) s = .next s.standbyLost := by
  change execInput12vChange false s = _
  unfold execInput12vChange
  rw [if_neg (by decide), if_pos h]

/-! ## Folds over the sub-ports -/

theorem Core.refs {base s : State} {kp : Bool} (h : Core base s kp) : s.mod.refH = base.mod.refH ∧ s.mod.refL = base.mod.refL ∧
    s.mod.hLost = base.mod.hLost ∧ s.mod.lLost = base.mod.lLost := by
  have hr := congrArg Kept.refs h.fixed
  obtain ⟨h1, h2⟩ := Prod.mk.inj hr
  obtain ⟨h2, h3⟩ := Prod.mk.inj h2
  obtain ⟨h3, h4⟩ := Prod.mk.inj h3
  exact ⟨h1, h2, h3, h4⟩

/-- A fold of steps on the sub-ports, one each, comes to a sub-port as it was. -/
theorem State.foldl_port {f : State → Nat → State} {p : Nat} (hne : ∀ s q, p ≠ q → (f s q).port p = s.port p)
    (hcore : ∀ s q, Core s (f s q)) {l : List Nat} (hl : l.Nodup) (hp : p ∈ l) (s : State) :
    ∃ t, Core s t ∧ t.port p = s.port p ∧ (l.foldl f s).port p = (f t p).port p := by
  have hrest : ∀ (l : List Nat), p ∉ l → ∀ s, (l.foldl f s).port p = s.port p := by
    intro l
    induction l with
    | nil => exact fun _ _ => rfl
    | cons q l ih =>
      intro hp s
      rw [List.mem_cons, not_or] at hp
      exact (ih hp.2 _).trans (hne s q hp.1)
  induction l generalizing s with
  | nil => exact absurd hp List.not_mem_nil
  | cons q l ih =>
    obtain ⟨hq, hnd⟩ := List.nodup_cons.mp hl
    by_cases hpq : p = q
    · exact ⟨s, .refl s, rfl, by rw [List.foldl_cons, ← hpq]; exact hrest l (hpq ▸ hq) _⟩
    · obtain ⟨t, hc, hport, hend⟩ := ih hnd ((List.mem_cons.mp hp).resolve_left hpq) (f s q)
      exact ⟨t, hc.trans (hcore s q), hport.trans (hne s q hpq), hend⟩

theorem State.retrainFast_port (s : State) (q p : Nat) :
    (s.retrainFast q).port p = (s.setPort q (s.port q).fastRetrain).port p := rfl

section

variable {s : State} {p q : Nat} (h : p ≠ q)
include h

theorem State.dropBuffers_port_ne (status : Nat) (waiting : Bool) : (s.dropBuffers q status waiting).port p = s.port p := by
  unfold State.dropBuffers
  refine ((Sends.foldl (fun s k => s.noticeOf_sends k status q) _ _).port p).trans ?_
  refine (State.port_setPort_ne _ _ h).trans ?_
  split <;> rfl

theorem State.subportDown_port_ne : (s.subportDown q).port p = s.port p := by
  unfold State.subportDown
  dsimp only
  rw [State.port_setPort_ne _ _ h, State.dropBuffers_port_ne h, State.port_setPort_ne _ _ h]

theorem State.detect_port_ne : (s.detect q).port p = s.port p := by
  unfold State.detect
  dsimp only
  split_ifs
  · exact (s.retrainFast_port q p).trans (State.port_setPort_ne _ _ h)
  · exact State.port_setPort_ne _ _ h
  · rfl

theorem State.trainIfEnabled_port_ne : (s.trainIfEnabled q).port p = s.port p := by
  unfold State.trainIfEnabled State.trainFull
  split
  · dsimp only
    rw [State.detect_port_ne h, State.port_setPort_ne _ _ h, State.dropBuffers_port_ne h, State.port_setPort_ne _ _ h]
  · rfl

theorem State.subportQuiesce_port_ne : (s.subportQuiesce q).port p = s.port p := by
  unfold State.subportQuiesce
  split
  · exact State.port_setPort_ne _ _ h
  · rfl
  · exact State.port_setPort_ne _ _ h
  · exact State.port_setPort_ne _ _ h
  · exact State.subportDown_port_ne h

end

theorem Core.subportQuiesce {base s : State} {p : Nat} (h : Core base s) : Core base (s.subportQuiesce p) := by
  unfold State.subportQuiesce
  split
  · exact .setPort h
  · exact h
  · exact .setPort h
  · exact .setPort h
  · exact .subportDown h

theorem State.subportQuiesce_linkOnly (s : State) (p : Nat) : LinkOnly s (s.subportQuiesce p) := by
  unfold State.subportQuiesce
  split
  · exact s.setPort_linkOnly p _
  · exact .refl s
  · exact s.setPort_linkOnly p _
  · exact s.setPort_linkOnly p _
  · exact s.subportDown_linkOnly p

/-- A sub-port in service quiesces. -/
theorem State.subportQuiesce_up {s : State} {p : Nat} (h : (s.port p).st = 7) : ((s.subportQuiesce p).port p).st = 8 := by
  unfold State.subportQuiesce
  rw [h]
  exact congrArg SubPort.st (State.port_setPort ..)

/-- A sub-port in training goes DOWN, its epoch one on. -/
theorem State.subportQuiesce_training {s : State} {p : Nat} (hlo : 2 ≤ (s.port p).st) (hhi : (s.port p).st ≤ 6) :
    ((s.subportQuiesce p).port p).st = 1 ∧ ((s.subportQuiesce p).port p).epoch = ((s.port p).epoch + 1) % 65536 := by
  have hdown : s.subportQuiesce p = s.subportDown p := by
    unfold State.subportQuiesce
    split
    · omega
    · omega
    · omega
    · omega
    · rfl
  rw [hdown, State.subportDown_port]
  exact ⟨rfl, rfl⟩

/-- A sub-port that trains is not DOWN. -/
theorem State.trainIfEnabled_st {s : State} {p : Nat} (h : (s.pctl (p / 4)).en = true) : ((s.trainIfEnabled p).port p).st ≠ 1 := by
  have hdetect : ∀ {t : State}, (t.port p).st = 2 → ((t.detect p).port p).st ≠ 1 := fun {t} ht => by
    unfold State.detect
    dsimp only
    split_ifs
    · rw [State.retrainFast_port, State.port_setPort]
      exact (by decide : ¬ 4 = 1)
    · rw [State.port_setPort]
      exact (by decide : ¬ 3 = 1)
    · rw [ht]
      decide
  unfold State.trainIfEnabled State.trainFull
  rw [if_pos h]
  refine hdetect ?_
  rw [State.port_setPort]
  rfl

/-! ## The link reference -/

theorem Core.refLink {base s : State} {b : Bool} (h : Core base s) : Core base (s.refLink b) := by
  unfold State.refLink
  exact .foldl (fun h => .ite h (.ite (.subportQuiesce h) (.ite (.trainIfEnabled (.ite (.subportDown h) h)) h))) h

theorem State.refLink_linkOnly (s : State) (b : Bool) : LinkOnly s (s.refLink b) := by
  unfold State.refLink
  refine .foldl (fun s p => .ite (.refl s) (.ite (s.subportQuiesce_linkOnly p) (.ite ?_ (.refl s)))) _ s
  exact (LinkOnly.ite (s.subportDown_linkOnly p) (.refl s)).trans (State.trainIfEnabled_linkOnly ..)

section

variable {s : State} {p : Nat} (hp : p < 128) (hpres : s.present p = true)
include hp hpres

/-- The step of `State.refLink`. -/
theorem State.refLink_port (b : Bool) : ∃ t, Core s t ∧ t.port p = s.port p ∧ ((s.refLink b).port p).st =
    (State.port (if !b then t.subportQuiesce p
      else if ((t.port p).st == 1 || (t.port p).st == 8) && t.svcOf (codePort (p / 4)) == .inService then
        (if (t.port p).st == 8 then t.subportDown p else t).trainIfEnabled p
      else t) p).st := by
  unfold State.refLink
  obtain ⟨t, hc, hport, hend⟩ := State.foldl_port (p := p)
    (f := fun s p => if !s.present p then s else if !b then s.subportQuiesce p
      else if ((s.port p).st == 1 || (s.port p).st == 8) && s.svcOf (codePort (p / 4)) == .inService then
        (if (s.port p).st == 8 then s.subportDown p else s).trainIfEnabled p else s)
    (fun s q hq => by
      split_ifs
      · rfl
      · exact State.subportQuiesce_port_ne hq
      · rw [State.trainIfEnabled_port_ne hq, State.subportDown_port_ne hq]
      · exact State.trainIfEnabled_port_ne hq
      · rfl)
    (fun s q => .ite (.refl s) (.ite (.subportQuiesce (.refl s)) (.ite (.trainIfEnabled (.ite (.subportDown (.refl s)) (.refl s)))
      (.refl s))))
    List.nodup_range (List.mem_range.mpr hp) s
  refine ⟨t, hc, hport, ?_⟩
  rw [hend, (hc.present p).trans hpres]
  rfl

theorem State.refLink_lost (h : (s.port p).st = 7) : ((s.refLink false).port p).st = 8 := by
  obtain ⟨t, -, hport, hend⟩ := State.refLink_port hp hpres false
  rw [hend]
  exact State.subportQuiesce_up (hport ▸ h)

theorem State.refLink_back (h : (s.port p).st = 1) (hen : (s.pctl (p / 4)).en = true)
    (hsvc : s.svcOf (codePort (p / 4)) = .inService) : ((s.refLink true).port p).st ≠ 1 := by
  obtain ⟨t, hc, hport, hend⟩ := State.refLink_port hp hpres true
  rw [hend, hport, h, hc.svcOf, hsvc]
  exact State.trainIfEnabled_st ((congrArg PortCtl.en (hc.pctl _)).trans hen)

end

theorem State.refLink_still {s : State} (h : ∀ p, s.present p = true → (s.port p).st = 8) : s.refLink false = s := by
  refine State.foldl_still (fun p => ?_) _
  split
  · rfl
  · next hp =>
    have h8 := h p (by simpa using hp)
    unfold State.subportQuiesce
    rw [h8]
    rfl

end Sys2Proof.Machine

namespace Sys2Proof.Machine

/-! # The windows of the reference clocks (R382, R480) -/

theorem refPresent_some (n f : Nat) : refPresent n (some f) = true ↔ 999 * n ≤ 1000 * f ∧ 1000 * f ≤ 1001 * n := by
  unfold refPresent
  rw [Option.any_some, Bool.and_eq_true, decide_eq_true_eq, decide_eq_true_eq]

/-- The references of a window noted, and the windows since the link reference is back. -/
def State.refNoted (s : State) (h l : Bool) : State :=
  { s with mod := { s.mod with
      refH := h, refL := l, hLost := s.mod.hLost || (s.mod.refH && !h), lLost := s.mod.lLost || (s.mod.refL && !l)
      lBack := if l then min 100 (s.mod.lBack + 1) else 0 } }

/-- The entry of a lost reference. -/
def State.refLogged (s : State) : State := s.log 0x0042 0 0 0xFFFFFFFF 0 0

/-- The second entry of a window that lost both. -/
def State.refLogged2 (s : State) : State := s.refLogged.logNew 0x0042 0 0 0xFFFFFFFF 0 0

/-- The 100 MHz reference's part of a window. -/
def State.refHost (s : State) (h l : Bool) : State :=
  if s.mod.refH && !h then (s.refNoted h l).refLogged else s.refNoted h l

/-- A window in which the two references are present or not. -/
def State.refWindow (s : State) (h l : Bool) : State :=
  let s3 := if (s.mod.refL && !l) && (s.mod.refH && !h) then (s.refHost h l).logNew 0x0042 0 0 0xFFFFFFFF 0 0
    else if s.mod.refL && !l then (s.refHost h l).refLogged else s.refHost h l
  if s.mod.refL && !l then s3.refLink false
  else if s.mod.lBack < 100 && (s.refNoted h l).mod.lBack = 100 then s3.refLink true else s3

theorem exec_refClockWindow (s : State) (hz lhz : Option Nat) : exec (.refClockWindow hz lhz) s =
    .next (s.refWindow (refPresent 100000000 hz) (refPresent 156250000 lhz)) := rfl

theorem State.refWindow_back (s : State) (h : Bool) : s.refWindow h true =
    if s.mod.lBack = 99 then (s.refHost h true).refLink true else s.refHost h true := by
  have hback : (decide (s.mod.lBack < 100) && decide ((s.refNoted h true).mod.lBack = 100)) = decide (s.mod.lBack = 99) := by
    rw [← Bool.decide_and]
    refine decide_eq_decide.mpr ?_
    change _ ∧ min 100 (s.mod.lBack + 1) = 100 ↔ _
    omega
  unfold State.refWindow
  rw [Bool.not_true, Bool.and_false, Bool.false_and, hback]
  simp only [Bool.false_eq_true, if_false, decide_eq_true_eq]

theorem State.refWindow_lost {s : State} (hr : s.mod.refL = true) (h : Bool) : s.refWindow h false =
    (if s.mod.refH && !h then (s.refNoted h false).refLogged2 else (s.refNoted h false).refLogged).refLink false := by
  unfold State.refWindow State.refHost State.refLogged2
  rw [hr]
  cases s.mod.refH && !h <;> simp only [Bool.not_false, Bool.and_true, Bool.and_false, Bool.false_eq_true, if_true, if_false]

theorem State.refHost_core (s : State) (h l : Bool) : Core (s.refNoted h l) (s.refHost h l) := .ite (.log (.refl _)) (.refl _)

theorem State.refHost_linkOnly (s : State) (h l : Bool) : LinkOnly (s.refNoted h l) (s.refHost h l) :=
  .ite (State.log_logOnly ..).linkOnly (.refl _)

/-- A new entry of the fault log. -/
theorem State.logNew_vlog (s : State) (kind status sev unit addr req : Nat) :
    ∃ e : LogEntry, e.kind = kind ∧ (s.logNew kind status sev unit addr req).flt.vlog = Map.put s.flt.vlog (s.flt.next % 4096) e ∧
      (s.logNew kind status sev unit addr req).flt.next = (s.flt.next + 1) % 2 ^ 32 := by
  unfold State.logNew
  extract_lets e _ f kept _ md
  obtain ⟨_, _, _, _, _, hf⟩ := State.report_flt (k := 1) (sev := sev) (bs := e.bytes)
    (s := (State.count { s with flt := f, mod := md } (ctrDev 48)).event 5 status (toLE 4 e.index))
  rw [hf, EventOnly.refl.event.flt]
  exact ⟨e, rfl, rfl, rfl⟩

/-- Two losses in one window are two entries. -/
theorem State.refLogged2_entries {s : State} (h : s.flt.openIx = []) :
    s.refLogged2.flt.next = (s.flt.next + 2) % 2 ^ 32 ∧ ∀ k, k < 2 →
      ∃ e, Map.find s.refLogged2.flt.vlog ((s.flt.next + k) % 2 ^ 32 % 4096) = some e ∧ e.kind = 0x0042 := by
  have hnew : s.refLogged = s.logNew 0x0042 0 0 0xFFFFFFFF 0 0 := by simp [State.refLogged, State.log, h]
  obtain ⟨e1, hk1, hv1, hn1⟩ := s.logNew_vlog 0x0042 0 0 0xFFFFFFFF 0 0
  rw [← hnew] at hv1 hn1
  obtain ⟨e2, hk2, hv2, hn2⟩ := s.refLogged.logNew_vlog 0x0042 0 0 0xFFFFFFFF 0 0
  change s.refLogged2.flt.vlog = _ at hv2
  change s.refLogged2.flt.next = _ at hn2
  rw [hn1] at hv2 hn2
  refine ⟨hn2.trans (by omega), fun k hk => ?_⟩
  rw [hv2, hv1]
  obtain rfl | rfl : k = 0 ∨ k = 1 := by omega
  · refine ⟨e1, ?_, hk1⟩
    rw [Map.find_put_ne _ _ _ _ (by omega), show (s.flt.next + 0) % 2 ^ 32 % 4096 = s.flt.next % 4096 by omega, Map.find_put]
  · exact ⟨e2, Map.find_put .., hk2⟩

end Sys2Proof.Machine

namespace Sys2Proof.Machine

/-! # Power states (R458-R461, R465) -/

theorem Core.d3hot {base s : State} {kp : Bool} (h : Core base s kp) : s.d3hot = base.d3hot := congrArg Kept.d3hot h.fixed

theorem Core.napped {base s : State} {kp : Bool} (h : Core base s kp) : s.mod.napped = base.mod.napped :=
  congrArg Kept.napped h.fixed

theorem Core.ctl {base s : State} {kp : Bool} (h : Core base s kp) : s.fab.ctl = base.fab.ctl := congrArg Kept.ctl h.fixed

/-! ## The contexts at the entry to D3hot -/

/-- Nothing differs but the contexts and the counters. -/
def Naps (s t : State) : Prop := t = { s with ctxs := t.ctxs, ctr := t.ctr }

namespace Naps

variable {s t u : State}

theorem refl (s : State) : Naps s s := rfl

theorem trans (h : Naps s t) (g : Naps t u) : Naps s u := by unfold Naps at *; rw [g, h]

theorem ite {p : Prop} [Decidable p] (h : Naps s t) (g : Naps s u) : Naps s (if p then t else u) := by
  split <;> assumption

theorem foldl {α : Type} {f : State → α → State} (hf : ∀ s x, Naps s (f s x)) (l : List α) (s : State) : Naps s (l.foldl f s) := by
  induction l generalizing s with
  | nil => exact refl s
  | cons x l ih => exact (hf s x).trans (ih _)

theorem d3hot (h : Naps s t) : t.d3hot = s.d3hot := by rw [h]
theorem mod (h : Naps s t) : t.mod = s.mod := by rw [h]
theorem ports (h : Naps s t) : t.ports = s.ports := by rw [h]
theorem fab (h : Naps s t) : t.fab = s.fab := by rw [h]
theorem mem (h : Naps s t) : t.mem = s.mem := by rw [h]
theorem eng (h : Naps s t) : t.eng = s.eng := by rw [h]

end Naps

theorem State.setCtx_naps (s : State) (c : Nat) (v : Ctx) : Naps s (s.setCtx c v) := rfl

theorem State.preempt_naps (s : State) (c : Nat) : Naps s (s.preempt c) := .ite rfl (.refl s)

theorem State.napCtx_naps (s : State) (c : Nat) : Naps s (s.napCtx c) := by
  unfold State.napCtx
  extract_lets v s1
  have h1 : Naps s s1 := .ite (s.setCtx_naps ..) (s.preempt_naps c)
  exact .ite (h1.trans (s1.setCtx_naps ..)) h1

theorem State.sliceTurn_naps (s : State) : Naps s s.sliceTurn := by
  unfold State.sliceTurn
  split
  · exact .refl s
  · split
    · rfl
    · exact .refl s

theorem State.preempt_ctx_ne (s : State) {c d : Nat} (h : c ≠ d) : (s.preempt d).ctx c = s.ctx c := by
  rw [State.preempt_ctx, if_neg fun hc => h hc.1]

theorem State.napCtx_ctx_ne (s : State) {c d : Nat} (h : c ≠ d) : (s.napCtx d).ctx c = s.ctx c := by
  unfold State.napCtx
  extract_lets v s1
  have h1 : s1.ctx c = s.ctx c := by
    unfold s1
    split
    · exact State.ctx_setCtx_ne _ _ h
    · exact s.preempt_ctx_ne h
  split
  · exact (State.ctx_setCtx_ne _ _ h).trans h1
  · exact h1

theorem State.napCtx_parks {s : State} {c : Nat} (h : (s.ctx c).st = .running) : (s.napCtx c).parks c := by
  have h1 : (s.preempt c).parks c := by
    unfold State.parks
    rw [State.preempt_ctx, if_pos ⟨rfl, h⟩]
    exact ⟨h, rfl⟩
  have hstep : (if (s.ctx c).st == .starting then s.setCtx c { s.ctx c with parkNext := true } else s.preempt c) = s.preempt c :=
    if_neg (by rw [h]; decide)
  unfold State.napCtx
  dsimp only
  rw [hstep]
  split
  · unfold State.parks State.sliceOut
    rw [State.ctx_setCtx]
    exact h1
  · exact h1

/-- Every running context leaves. -/
theorem State.naps_parks {c : Nat} {l : List Nat} (hc : c ∈ l) {s : State} (h : (s.ctx c).st = .running) :
    (l.foldl (fun s c => s.napCtx c) s).parks c := by
  refine State.foldl_reaches (I := fun s => (s.ctx c).st = .running) (P := fun s => s.parks c) (fun {s d} hs => ?_)
    (fun hs => State.napCtx_parks hs) (fun {s d} hs hp => ?_) hc h
  · by_cases hd : c = d
    · exact hd ▸ (State.napCtx_parks hs).1
    · rw [s.napCtx_ctx_ne hd]
      exact hs
  · by_cases hd : c = d
    · exact hd ▸ State.napCtx_parks hs
    · unfold State.parks
      rw [s.napCtx_ctx_ne hd]
      exact hp

theorem State.sliceTurn_parks {s : State} {c : Nat} (h : s.parks c) : s.sliceTurn.parks c := by
  unfold State.sliceTurn
  split
  · exact h
  · split
    · next d hfind =>
      have hd := List.find?_some hfind
      have hne : c ≠ d := fun he => by
        rw [← he, h.1] at hd
        simp at hd
      unfold State.parks
      rw [State.ctx_setCtx_ne _ _ hne]
      exact h
    · exact h

/-! ## The entry to D3hot -/

/-- The contexts that the entry pre-empts. -/
def State.naps (s : State) : List Nat := (List.range 8).filter fun c =>
  ((s.ctx c).st == .running && !(s.ctx c).parking) || ((s.ctx c).st == .starting && !(s.ctx c).parkNext)

/-- D3hot, with what it has pre-empted. -/
def State.asleep (s : State) : State := { s with d3hot := true, mod := { s.mod with napped := s.naps, awake := [] } }

/-- The contexts leave. -/
def State.napped (s : State) : State := ((List.range 8).foldl (fun s c => s.napCtx c) s.asleep.bndStopAll).sliceTurn

/-- The links go down as D-Sleep is entered. -/
def State.linksDown (s : State) : State := (List.range 128).foldl (fun s p => if s.present p then s.subportQuiesce p else s) s

/-- All of the entry but the counters. -/
def State.slept (s : State) : State := if s.d3depth then s.napped.linksDown.colsFail (fun _ => true) 0x0402 else s.napped

/-- Every unit has moved its deltas. -/
def State.deltasMoved (s : State) : State := { s with ctr := s.ctr.moveAll }

theorem exec_d3hotEntry {s : State} (h : s.d3hot = false) : exec .d3hotEntry s = .next s.slept.deltasMoved := by
  change execD3hotEntry s = _
  unfold execD3hotEntry
  rw [h, if_neg (by decide)]
  rfl

theorem State.linksDown_core (s : State) : Core s s.linksDown := .foldl (fun h => .ite (.subportQuiesce h) h) (.refl s)

theorem State.slept_core (s : State) : Core s.napped s.slept := .ite (.colsFail s.napped.linksDown_core) (.refl _)

theorem State.napped_naps (s : State) : Naps s.asleep.bndStopAll s.napped :=
  (Naps.foldl State.napCtx_naps (List.range 8) s.asleep.bndStopAll).trans (State.sliceTurn_naps _)

/-- The marks that the contexts' part of the entry leaves alone. -/
theorem State.napped_marks (s : State) : s.napped.d3hot = true ∧ s.napped.mod.napped = s.naps ∧ s.napped.ports = s.ports ∧
    s.napped.fab.ctl = s.fab.ctl := by
  have h1 : Core s.asleep s.asleep.bndStopAll true := .bndStopAll (.refl _)
  have h2 := s.napped_naps
  generalize s.asleep.bndStopAll = x at h1 h2
  generalize s.napped = y at h2
  refine ⟨h2.d3hot.trans h1.d3hot, ?_, h2.ports.trans h1.ports, ?_⟩
  · rw [h2.mod, h1.napped]
    rfl
  · rw [h2.fab, h1.ctl]
    rfl

theorem State.napped_parks {s : State} {c : Nat} (hc : c < 8) (h : (s.ctx c).st = .running) : s.napped.parks c := by
  have h1 : Core s.asleep s.asleep.bndStopAll := .bndStopAll (.refl _)
  exact State.sliceTurn_parks (State.naps_parks (List.mem_range.mpr hc) (by rw [h1.ctx]; exact h))

/-- With no Bindery at work the stop of all changes the waits of Binderies at most. -/
theorem State.bndStopAll_idle {s : State} (h : s.bnd = []) : ∃ w, s.bndStopAll = { s with bndWaits := w } := by
  have hparks : ∀ (l : List Nat) (t : State), t.bnd = [] → ∃ w, l.foldl (fun s c => s.bndPark c) t = { t with bndWaits := w } := by
    intro l
    induction l with
    | nil => exact fun t _ => ⟨t.bndWaits, rfl⟩
    | cons c l ih =>
      intro t ht
      obtain ⟨w, hw⟩ := ih (t.bndPark c) (by rw [State.bndPark_none ht]; exact ht)
      exact ⟨w, by rw [List.foldl_cons, hw, State.bndPark_none ht]⟩
  obtain ⟨w, hw⟩ := hparks (List.range 8) s h
  have hx : ({ s with bndWaits := w } : State).bnd = [] := h
  refine ⟨w, ?_⟩
  unfold State.bndStopAll
  rw [hw]
  exact State.foldl_still (fun n => State.bndAside_none hx n _) _

theorem State.napped_idle {s : State} (h : s.bnd = []) : s.napped.mem = s.mem ∧ s.napped.eng = s.eng := by
  obtain ⟨w, hw⟩ := State.bndStopAll_idle (s := s.asleep) h
  have h2 := s.napped_naps
  rw [h2.mem, h2.eng, hw]
  exact ⟨rfl, rfl⟩

theorem State.linksDown_port {s : State} {p : Nat} (hp : p < 128) (hpres : s.present p = true) :
    ∃ t : State, t.port p = s.port p ∧ s.linksDown.port p = (t.subportQuiesce p).port p := by
  obtain ⟨t, hc, hport, hend⟩ := State.foldl_port (p := p) (f := fun s p => if s.present p then s.subportQuiesce p else s)
    (fun s q hq => by
      split_ifs
      · exact State.subportQuiesce_port_ne hq
      · rfl)
    (fun s q => .ite (.subportQuiesce (.refl s)) (.refl s)) List.nodup_range (List.mem_range.mpr hp) s
  refine ⟨t, hport, ?_⟩
  unfold State.linksDown
  rw [hend, if_pos ((hc.present p).trans hpres)]

/-- What D-Sleep makes of a sub-port. -/
theorem State.slept_port {s : State} (hd : s.d3depth = true) {p : Nat} (hp : p < 128) (hpres : s.present p = true) :
    ∃ t : State, t.port p = s.port p ∧ s.slept.port p = (t.subportQuiesce p).port p := by
  obtain ⟨-, -, hports, hctl⟩ := s.napped_marks
  have hport : s.napped.port p = s.port p := congrArg (Map.getD · p SubPort.reset) hports
  have hpres' : s.napped.present p = true := by
    refine Eq.trans ?_ hpres
    unfold State.present State.pctl
    rw [hctl]
  obtain ⟨t, ht, hend⟩ := State.linksDown_port hp hpres'
  have hcols : Core s.napped.linksDown (s.napped.linksDown.colsFail (fun _ => true) 0x0402) true := .colsFail (.refl _)
  refine ⟨t, ht.trans hport, ?_⟩
  unfold State.slept
  rw [if_pos hd, hcols.port, hend]

/-! ## The return to D0 -/

theorem State.settleAll_still {s : State} (hacts : s.ctxActs = [])
    (h : ∀ c, c < 8 → (s.ctx c).st ≠ .starting ∧ (s.ctx c).sliceNext = false) : s.settleAll = s := by
  have hturn : s.sliceTurn = s := by
    unfold State.sliceTurn
    split
    · rfl
    · split
      · next d hfind =>
        have hd := List.find?_some hfind
        rw [(h d (List.mem_range.mp (List.mem_of_find?_eq_some hfind))).2, Bool.false_and] at hd
        exact absurd hd (by decide)
      · rfl
  have hsettle : ∀ (l : List Nat), (∀ c ∈ l, c < 8) → l.foldl (fun s c => s.settle c) s = s := by
    intro l
    induction l with
    | nil => exact fun _ => rfl
    | cons c l ih =>
      intro hl
      have hc : s.settle c = s := by
        have hns : ((s.ctx c).st == CtxSt.starting) = false := beq_eq_false_iff_ne.mpr (h c (hl c List.mem_cons_self)).1
        unfold State.settle
        dsimp only
        rw [hns, Bool.false_and, Bool.false_and]
        rfl
      rw [List.foldl_cons, hc]
      exact ih fun d hd => hl d (List.mem_cons_of_mem _ hd)
  unfold State.settleAll
  rw [hturn, hsettle _ fun c hc => List.mem_range.mp hc]
  dsimp only
  rw [hacts]
  rfl

/-- Back in D0 with nothing to wake. -/
def State.risen (s : State) : State := { s with d3hot := false, mod := { s.mod with awake := [] } }

theorem State.toD0_risen {s : State} (h : s.d3hot = true) (hd : s.d3depth = false) (hn : s.mod.napped = []) (hacts : s.ctxActs = [])
    (hc : ∀ c, c < 8 → (s.ctx c).st ≠ .starting ∧ (s.ctx c).sliceNext = false) : s.toD0 = s.risen.flushLate.lostEvents := by
  have hrisen : ({ s with d3hot := false, mod := { s.mod with napped := [], awake := [] } } : State) = s.risen :=
    congrArg (fun l => ({ s with d3hot := false, mod := { s.mod with napped := l, awake := [] } } : State)) hn.symm
  have hstill : s.risen.settleAll = s.risen := State.settleAll_still hacts hc
  unfold State.toD0
  rw [h, if_neg (by decide), hrisen, hd, hn]
  dsimp only
  rw [Bool.false_and, if_neg (by decide), if_neg (by decide), List.foldl_nil, hstill]

/-! ## Idle domains -/

theorem exec_domainGate {s : State} {d : Fin 260} (h : s.gateable d.val = true) : exec (.domainGate d) s =
    .next { s with mod := { s.mod with gated := Map.put s.mod.gated d.val true } } := if_pos h

end Sys2Proof.Machine

namespace Sys2Proof.Machine

/-! # What a cold reset and the windows of the references leave (O60) -/

/-- The state that a good cold reset leaves, but for what its entry in the log, the links and the next tests change. -/
theorem Untold.bootNext {w x y : State} (htold : Untold w y) (hlog : LogOnly w x) (hdet : Detects x y) :
    ∃ o n f c g e p q a b, y.bootNext = { w with
      fresh := f, cmd := { w.cmd with evOvf := o, evLost := n }, ctr := c, flt := x.flt, fab := g, egress := e, ports := p
      out := q, mod := { w.mod with alertLow := a, boot := b } } := by
  obtain ⟨hh, o, n, hc⟩ := htold
  refine ⟨o, n, y.bootNext.fresh, y.ctr, x.fab, x.egress, y.ports, x.out, x.mod.alertLow, y.bootNext.mod.boot, ?_⟩
  unfold Detects at hdet
  unfold LogOnly at hlog
  rw [hdet] at hh hc ⊢
  change x.host = w.host at hh
  change x.cmd = _ at hc
  rw [hh, hc] at hlog
  generalize y.ctr = c, y.ports = p
  unfold State.bootNext State.useFree
  dsimp only
  rw [hlog]

/-- What the entry of the lost catalogue leaves of the fault subsystem. -/
theorem State.stacksTrained_flt {s : State} (h : s.AllGood) : s.stacksTrained.flt.flagged = s.flt.flagged ∧
    s.stacksTrained.flt.drained = false ∧ s.stacksTrained.flt.spares = s.flt.spares ∧
    (s.flt.openIx = [] → s.stacksTrained.flt.plog = s.flt.plog ∧
      ∃ e, Map.find s.stacksTrained.flt.vlog (s.flt.next % 4096) = some e ∧ e.kind = 0x0060) := by
  have hcore : Core s.coldLost s.stacksTrained := by rw [State.stacksTrained_good h]; exact .log (.refl _)
  refine ⟨hcore.flagged, hcore.drained, ?_, fun hopen => ?_⟩
  · rw [State.stacksTrained_good h]
    exact State.log_spares ..
  · have hopen' : s.coldLost.flt.openIx = [] := hopen
    obtain ⟨e, hfind, hkind, -⟩ := State.log_entry hopen' 0x0060 0 0 0xFFFFFFFF (shelfAddr 636 0) 0
    rw [State.stacksTrained_good h]
    exact ⟨State.log_plog hopen' .., e, hfind, hkind⟩

/-- The state in which a cold reset ends, but for the next tests. -/
def State.coldEnd (s : State) : State := s.stacksTrained.linksStarted.flagDrained

theorem State.coldEnd_marks {s : State} (h : s.flt.flagged = true) : s.coldEnd.flt.flagged = true ∧ s.coldEnd.flt.drained = true := by
  have h1 : s.stacksTrained.flt.flagged = true :=
    s.stacksTrained_tested.flagged (s.imagesTested_tested.flagged (s.bootTables_tested.flagged h))
  have h2 : s.stacksTrained.linksStarted.flt.flagged = true := s.stacksTrained.linksStarted_spared.flagged h1
  exact ⟨(State.flagDrained_spared _).flagged h2, State.flagDrained_drained h2⟩

theorem State.bootNext_svcOf (s : State) (k : Nat) : s.bootNext.svcOf k = s.svcOf k := rfl

theorem State.bootNext_firmware (s : State) : SameFirmware s s.bootNext := by
  unfold State.bootNext
  exact ⟨by dsimp only [State.useFree], by dsimp only, by dsimp only [State.useFree]⟩

theorem State.coldReset_firmware (s : State) : SameFirmware s.imagesTested s.coldEnd.bootNext :=
  s.coldEnd.bootNext_firmware.trans s.coldEnd_tested.2

/-- The units that the tests have found wanting stay in reset. -/
theorem State.coldEnd_held (s : State) : (∀ x ∈ s.mod.boot.binderies, s.coldEnd.bootNext.svcOf (codeStack x) = .disabled) ∧
    ∀ x ∈ s.mod.boot.vectors, s.coldEnd.bootNext.svcOf (codeUnit x) = .disabled := by
  obtain ⟨htest, -⟩ := s.coldEnd_tested
  have h := htest.trans (s.stacksTrained_tested.trans s.imagesTested_tested)
  obtain ⟨hbind, hvec⟩ := State.bootTables_held (b := s.mod.boot) (s.cold_bare false)
  refine ⟨fun x hx => ?_, fun x hx => ?_⟩
  · rw [State.bootNext_svcOf]
    exact h.disabled _ (hbind x hx)
  · rw [State.bootNext_svcOf]
    exact h.disabled _ (hvec x hx)

theorem Core.weak {base s : State} {kp : Bool} (h : Core base s kp) : Core base s :=
  ⟨congrArg (fun k : Kept => { k with ports := none }) h.fixed⟩

/-- A window in which the link reference was there. -/
theorem State.refWindow_there (s : State) (h : Bool) : LinkOnly (s.refNoted h true) (s.refWindow h true) ∧
    Core (s.refNoted h true) (s.refWindow h true) := by
  rw [State.refWindow_back]
  exact ⟨.ite ((s.refHost_linkOnly h true).trans (State.refLink_linkOnly _ true)) (s.refHost_linkOnly h true),
    .ite (.refLink (s.refHost_core h true)) (s.refHost_core h true)⟩

/-- The entries of a window that lost the link reference. -/
def State.refsLogged (s : State) (h : Bool) : State :=
  if s.mod.refH && !h then (s.refNoted h false).refLogged2 else (s.refNoted h false).refLogged

/-- The contexts that the entry to D3hot pre-empts are the running ones that were not already leaving. -/
theorem State.mem_naps {s : State} {c : Nat} (hc : c < 8) (hrun : (s.ctx c).st = .running) :
    c ∈ s.naps ↔ (s.ctx c).parking = false := by
  unfold State.naps
  rw [List.mem_filter, List.mem_range, hrun]
  simp [hc]

/-- The return to D0 with no receipt kept. -/
theorem State.flushLate_none {s : State} (h : s.cmd.late = []) : s.flushLate = s := by
  unfold State.flushLate
  rw [h]
  exact (congrArg (fun l => ({ s with cmd := { s.cmd with late := l } } : State)) h).symm

theorem State.flushLate_one {s : State} {r : Receipt} (h : s.cmd.late = [r]) :
    s.flushLate = State.putReceipt { s with cmd := { s.cmd with late := [] } } r := by
  unfold State.flushLate
  rw [h]
  rfl

theorem State.putReceipt_evLost (s : State) (r : Receipt) : (s.putReceipt r).cmd.evLost = s.cmd.evLost := by
  unfold State.putReceipt State.signalRing State.signal
  dsimp only
  split_ifs <;> rfl

/-- A domain's clock gated. -/
def State.gatedNow (s : State) (d : Nat) : State := { s with mod := { s.mod with gated := Map.put s.mod.gated d true } }

theorem State.gatedNow_gated (s : State) (d k : Nat) :
    Map.getD (s.gatedNow d).mod.gated k false = if k = d then true else Map.getD s.mod.gated k false := by
  unfold State.gatedNow Map.getD
  split
  · next h => rw [h, Map.find_put]; rfl
  · next h => rw [Map.find_put_ne _ _ _ _ h]

theorem State.deltasMoved_mem (s : State) : s.deltasMoved.mem = s.mem := rfl
theorem State.deltasMoved_eng (s : State) : s.deltasMoved.eng = s.eng := rfl
theorem State.deltasMoved_ports (s : State) : s.deltasMoved.ports = s.ports := rfl

theorem State.refsLogged_core (s : State) (h : Bool) : Core (s.refNoted h false) (s.refsLogged h) true :=
  .ite (.logNew (.log (.refl _))) (.log (.refl _))

end Sys2Proof.Machine

section

open Sys2Proof Sys2Proof.Machine

/-- Settles O60: a cold reset through what its tests keep of a device without work, D-Sleep and the link reference through folds
that come to each sub-port as it was. -/
theorem resetsAndPowerStates : Obligations.ResetsAndPowerStates := by
  unfold Obligations.ResetsAndPowerStates
  refine ⟨fun s => ?_, fun s => ?_⟩
  · intro b good kept fresh
    refine ⟨?_, ?_, fun hq hf hgood hb => ?_, fun hq hf => ?_, fun hq => ?_, fun hd => ?_, ?_, fun hv => ?_, ?_, ?_,
      fun hz lhz hr hl => ?_, fun hz lhz hr hl => ?_⟩
    · exact ⟨s.cold true, rfl, ⟨rfl, rfl, rfl, rfl, rfl, rfl, rfl, rfl⟩, ⟨rfl, rfl, rfl, rfl, rfl, rfl, rfl, rfl, rfl, rfl, rfl⟩,
        rfl, rfl, rfl, rfl, rfl, rfl, rfl, rfl⟩
    · exact fun hq => if_neg (ne_true_of_eq_false hq)
    · have hg : s.AllGood := ⟨hb, hgood⟩
      obtain ⟨htold, hlog, -, hdrain⟩ := State.coldReset_good hg hf
      obtain ⟨o, n, f, c, g, e, p, q, a, b, ht⟩ := htold.bootNext hlog s.stacksTrained.linksStarted_detects
      obtain ⟨hflag, hdrained, hspares, hlogged⟩ := State.stacksTrained_flt hg
      refine ⟨_, exec_coldReset hq, ?_⟩
      rw [hdrain, ht]
      exact ⟨⟨rfl, rfl, rfl, rfl, hflag, hspares, rfl, rfl⟩, ⟨rfl, rfl, rfl, rfl, rfl, rfl, rfl, rfl, rfl, rfl, rfl⟩, rfl, rfl, rfl,
        hdrained, hlogged⟩
    · exact ⟨_, exec_coldReset hq, State.coldEnd_marks hf⟩
    · obtain ⟨htest, -⟩ := s.coldEnd_tested
      have hfirm := s.coldReset_firmware
      obtain ⟨hbind, hvec⟩ := s.coldEnd_held
      refine ⟨_, exec_coldReset hq, fun x hx => ?_, hbind, hvec, fun ha ho => ?_, fun k ha ho hg => ?_⟩
      · obtain ⟨hst, hf, hd⟩ := State.stacksTrained_failed hx
        exact ⟨htest.failed _ hst, htest.flagged hf, htest.drained hd⟩
      · obtain ⟨hready, hrun⟩ := State.imagesTested_bad ha ho
        exact ⟨hfirm.ready.trans hready, hfirm.fwrun.trans hrun⟩
      · have hcop := State.imagesTested_falls ha ho hg
        have hsec : s.stacksTrained.linksStarted.flagDrained.bootNext.sec = s.imagesTested.sec := hfirm.sec
        rw [hsec]
        exact ⟨congrArg Prod.fst hcop, congrArg Prod.snd hcop⟩
    · obtain ⟨hlen, hhush⟩ := s.hostGone_hushed
      have hrun : exec .hostReset s = .next s.hostGone := congrArg _ (State.hostReset_awake hd)
      exact ⟨_, hrun, hrun, rfl, rfl, s.hostGone_sub, fun r => rfl, rfl, rfl, hlen, hhush, rfl, rfl, rfl, rfl, rfl⟩
    · exact fun b => rfl
    · have hflt : s.standbyLost.flt = _ := State.fatal_flt _ false
      have hcmd : s.standbyLost.cmd = _ := State.fatal_cmd _ false
      have hmod : s.standbyLost.mod = _ := State.fatal_mod _ false
      have hlog : LogOnly _ s.standbyLost := State.fatal_logOnly _ false
      refine ⟨_, exec_input12v_falls hv, ?_⟩
      rw [hflt, hcmd, hmod, hlog.mem, hlog.eng]
      exact ⟨rfl, rfl, rfl, rfl, rfl, rfl, rfl, rfl, rfl⟩
    · exact ⟨_, rfl, rfl, rfl, rfl⟩
    · exact fun n => ⟨rfl, fun f => refPresent_some n f⟩
    · intro h
      obtain ⟨hlink, hcore⟩ := s.refWindow_there h
      obtain ⟨hh, hl', hlost, -⟩ := hcore.refs
      have hrun : exec (.refClockWindow hz lhz) s = .next (s.refWindow h true) := by rw [exec_refClockWindow, hl]
      have hsteady : s.mod.refH = h → s.refHost h true = s.refNoted h true := fun hsame => if_neg (by rw [hsame]; simp)
      refine ⟨_, hrun, hh, hl', hlost, hlink.mem, fun hback hsame => ?_, fun hback hsame p hp hpres hst hen hsvc => ?_⟩
      · rw [State.refWindow_back, if_neg hback, hsteady hsame]
        rfl
      · rw [State.refWindow_back, if_pos hback, hsteady hsame]
        exact State.refLink_back (s := s.refNoted h true) hp hpres hst hen hsvc
    · have hrun : exec (.refClockWindow hz lhz) s = .next ((s.refsLogged (refPresent 100000000 hz)).refLink false) := by
        rw [exec_refClockWindow, hl, State.refWindow_lost hr]
        rfl
      generalize refPresent 100000000 hz = h at hrun
      have hlogged := s.refsLogged_core h
      have hlinks : Core (s.refNoted h false) ((s.refsLogged h).refLink false) := .refLink hlogged.weak
      obtain ⟨hh, hl', -, hlost⟩ := hlinks.refs
      refine ⟨_, hrun, hlost.trans ?_, hl', hh, fun p hp hpres hst => ?_, fun hon hoff hopen hall => ?_⟩
      · exact (by rw [hr]; simp : (s.mod.lLost || (s.mod.refL && !false)) = true)
      · exact State.refLink_lost hp ((hlogged.present p).trans hpres) ((congrArg SubPort.st (hlogged.port p)).trans hst)
      · rw [State.refLink_still fun p hp => (congrArg SubPort.st (hlogged.port p)).trans (hall p ((hlogged.present p).symm.trans hp))]
        have hboth : s.refsLogged h = (s.refNoted h false).refLogged2 := if_pos (by rw [hon, hoff]; rfl)
        rw [hboth]
        exact State.refLogged2_entries (s := s.refNoted h false) hopen
  · refine ⟨fun hd => if_pos hd, fun hd => congrArg _ (State.toD0_awake hd), fun hd => ?_, fun hd hdepth hn hacts hc hev => ?_,
      fun d => ⟨fun hg => if_neg (ne_true_of_eq_false hg), fun hg => ?_⟩⟩
    · have hslept := s.slept_core
      obtain ⟨hhot, hnap, hports, -⟩ := s.napped_marks
      have hctx : ∀ c, s.slept.deltasMoved.ctx c = s.napped.ctx c := fun c => hslept.ctx c
      have hnapped : s.slept.deltasMoved.mod.napped = s.naps := hslept.napped.trans hnap
      refine ⟨_, exec_d3hotEntry hd, hslept.d3hot.trans hhot, rfl, fun hb hdepth => ?_, fun c hc hrun => ?_, fun c hc hrun hp => ?_,
        fun c hc hrun hp => ?_, fun hdepth => ?_, fun hdepth p hp hpres => ?_⟩
      · have hsame : s.slept = s.napped := if_neg (ne_true_of_eq_false hdepth)
        rw [hsame, State.deltasMoved_mem, State.deltasMoved_eng]
        exact State.napped_idle hb
      · rw [hctx]
        exact State.napped_parks hc hrun
      · rw [hnapped]
        exact (State.mem_naps hc hrun).mpr hp
      · rw [hnapped]
        exact fun hmem => ne_true_of_eq_false ((State.mem_naps hc hrun).mp hmem) hp
      · have hsame : s.slept = s.napped := if_neg (ne_true_of_eq_false hdepth)
        rw [hsame, State.deltasMoved_ports]
        exact hports
      · obtain ⟨t, ht, hend⟩ := State.slept_port hdepth hp hpres
        have hport : s.slept.deltasMoved.port p = (t.subportQuiesce p).port p := hend
        rw [hport, ← ht]
        exact ⟨State.subportQuiesce_up, State.subportQuiesce_training⟩
    · intro s'
      have hrun : exec .d0Entry s = .next s.risen.flushLate.lostEvents := congrArg _ (State.toD0_risen hd hdepth hn hacts hc)
      refine ⟨fun hl => ?_, fun rc hl => ?_⟩
      · rw [hrun, State.flushLate_none (s := s.risen) hl, State.lostEvents_none (s := s.risen) hev]
        rfl
      · rw [hrun, State.flushLate_one (s := s.risen) hl, State.lostEvents_none]
        · rfl
        · rw [State.putReceipt_evLost]
          exact hev
    · have hgate : ∀ k, (s.gatedNow d.val).gateable k = s.gateable k := fun k => rfl
      refine ⟨s.gatedNow d.val, exec_domainGate hg, ?_, fun k hk => ?_, rfl⟩
      · unfold State.domGated
        rw [hgate, hg, State.gatedNow_gated, if_pos rfl]
        rfl
      · unfold State.domGated
        rw [hgate, State.gatedNow_gated, if_neg hk]

end
